-- ==== Sys2Proof/Word.lean ====
section
/-! DEFINITION. The word types of the PRN1 model and their plainest reading as numbers. -/

namespace Sys2Proof

/-- One byte, the unit of every memory of the device. -/
abbrev Byte := BitVec 8

/-- A 32-bit register word. -/
abbrev Word := BitVec 32

/-- A 64-bit register, pair of words or time base value. -/
abbrev DWord := BitVec 64

end Sys2Proof
end

