-- ==== Sys2Proof/Syntax.lean ====
section
/-! DEFINITION. The commands of the PRN1 block: one constructor of `Instr` for every row of the table of operations and events,
with the operands that the command brings from outside, and the plain data types of those operands. -/

namespace Sys2Proof

/-- Completion status codes (R147, Table 05.13). -/
inductive Status where
  | ok | killed | badFormat | noUnit | badVersion | translationFault | permission | memUe | accOverflow | notIssued
  | fabricTimeout | targetDead | atomicIndeterminate | fabricCheck | collMismatch | collMemberLost | collChunkBad
  | quota | policed | resetSquashed | cfgTorn | notReady | notClocked | radioLate | decodeCapped | assayMismatch | internal
  deriving DecidableEq, Repr, Inhabited

/-- The code of a status (Table 05.13). -/
def Status.code : Status → Nat
  | .ok => 0x00 | .killed => 0x01 | .badFormat => 0x02 | .noUnit => 0x03 | .badVersion => 0x04
  | .translationFault => 0x05 | .permission => 0x06 | .memUe => 0x07 | .accOverflow => 0x08 | .notIssued => 0x09
  | .fabricTimeout => 0x10 | .targetDead => 0x11 | .atomicIndeterminate => 0x12 | .fabricCheck => 0x13
  | .collMismatch => 0x20 | .collMemberLost => 0x21 | .collChunkBad => 0x22 | .quota => 0x30 | .policed => 0x31
  | .resetSquashed => 0x32 | .cfgTorn => 0x40 | .notReady => 0x41 | .notClocked => 0x42 | .radioLate => 0x50
  | .decodeCapped => 0x51 | .assayMismatch => 0x60 | .internal => 0xFF

/-- Column Step of Table 05.13: a command that completes with this status makes its step fail. -/
def Status.failing : Status → Bool
  | .ok => false | .killed => false | .accOverflow => false | .notIssued => false
  | .cfgTorn => false | .notClocked => false | .radioLate => false | .decodeCapped => false | .resetSquashed => false
  | _ => true

/-- The four configuration registers of a queue block that are writable only while the queue is DISABLED (R114). -/
inductive QReg where
  | sqBase | cqBase | qCfg | qPasid
  deriving DecidableEq, Repr

/-- An error of a stored DRAM line as its decoder meets it (R161-R163). -/
structure LineErr where
  /-- Bit j set: symbol j is spoilt (0-63 data, 64-71 check). -/
  syms : BitVec 72
  /-- The error lies in the cells, signals or TSVs and recurs after a rewrite. -/
  hard : Bool
  /-- A re-read of the line decodes. -/
  rereadOk : Bool
  /-- The read returns the line of another address (R161). -/
  wrong : Bool
  deriving DecidableEq, Repr

/-- The three traffic classes (Table 07.8). -/
inductive TClass where
  | r | s | t
  deriving DecidableEq, Repr, Inhabited

/-- The code of a traffic class in a message header. -/
def TClass.code : TClass → Nat
  | .r => 0 | .s => 1 | .t => 2

/-- Marking of a message by the trTCM (R190). -/
inductive Colour where
  | green | yellow | red
  deriving DecidableEq, Repr, Inhabited

/-- Kinds of transaction message (Table 07.8). -/
inductive MsgKind where
  | read | readData | write | atomic | atomicResult | reduce | signal | msg | ack | nak | lsa | coll
  deriving DecidableEq, Repr, Inhabited

/-- A transaction message (R200, Table 07.8): its header fields, its data bytes and its end-to-end check. -/
structure Msg where
  kind : MsgKind
  cls : TClass
  colour : Colour
  ordered : Bool
  hop : Nat
  age : Nat
  srcNode : Nat
  dstNode : Nat
  srcFn : Nat
  dstFn : Nat
  leg : Nat
  dl : Bool
  seq : Nat
  ordPrev : Nat
  srcInc : Nat
  dstInc : Nat
  job : Nat
  srcEpoch : Nat
  aux : Nat
  addr : Nat
  /-- Data bytes; for a READ, the bytes it asks for. -/
  len : Nat
  data : List Byte
  /-- ATOMIC: the old value is asked for (the header has no field for it). -/
  fetch : Bool
  /-- MSG: the sender's tag (R224); READ_DATA and ATOMIC_RESULT: the status carried. -/
  tag : Nat
  status : Status
  /-- CRC-32C over header and data, as received. -/
  check : Nat
  /-- How it came here, which the header does not say: the port it arrived by (16: none), whether its datagram's UDP checksum holds (R223), and
  the members of this domain between which its leg runs (R185, R222). -/
  via : Nat
  udpOk : Bool
  legFrom : Nat
  legTo : Nat
  deriving DecidableEq, Repr, Inhabited

/-- The phases of a COLL message (Table 08.6). -/
inductive CollPhase where
  | desc | count | verdict | data | ackVerified | refetch | abort
  deriving DecidableEq, Repr, Inhabited

/-- A COLL message (R241, Table 08.6): the transaction message that carries it and the fields of its prefix and report. -/
structure CollMsg where
  msg : Msg
  seq : Nat
  group : Nat
  status : Status
  chunk : Nat
  offset : Nat
  check : Nat
  /-- The chunk's last message, which carries the check. -/
  last : Bool
  /-- Which transfer of the algorithm the chunk belongs to: 0 contribution to the receiver's share, 1 finished data. -/
  stage : Nat
  /-- DESC and VERDICT: AGREE, with the hash. -/
  agree : Bool
  hash : Nat
  tFirst : Nat
  tLast : Nat
  lateRank : Nat
  /-- COUNT: the count of what the sender will send. -/
  count : Nat
  deriving DecidableEq, Repr, Inhabited

/-- A capability block (R180, Table 07.3). -/
structure CapBlock where
  ver : Nat
  genMin : Nat
  genMax : Nat
  node : Nat
  port : Nat
  plumb : Bool
  lanesOk : Nat
  incarnation : Nat
  detSignature : Nat
  tTx : Nat
  tEcho : Nat
  tHold : Nat
  arrival : Nat
  verG2 : Nat
  verG3 : Nat
  ansG2 : Nat
  ansG3 : Nat
  deriving DecidableEq, Repr

/-! ### Radio -/

/-- The fixed parameters of one cell of the cell plan (Table 10.4, left column). Windows are offsets from a symbol's air time: the
transmit window opens and closes that many nanoseconds before it, the reception window that many after it. -/
structure CellPlan where
  mu : Nat
  nPrb : Nat
  fdd : Bool
  tddPattern : Nat
  t : Nat
  r : Nat
  lDl : Nat
  lUl : Nat
  lport : Nat
  mac : Nat
  vlan : Nat
  pcp : Nat
  wNom : Nat
  wFloor : Nat
  adaptive : Bool
  dynHeader : Bool
  txOpenNs : Nat
  txCloseNs : Nat
  rxOpenNs : Nat
  rxCloseNs : Nat
  /-- Shaping rate in bits per second and burst in bytes (R286). -/
  rateBps : Nat
  burst : Nat
  prio : Nat
  maxIter : Nat
  harqBuffers : Nat
  p7LeadUs : Nat
  indDeadlineUs : Nat
  holdMute : Bool
  /-- Category A radio unit. -/
  catA : Bool
  /-- The cell's antennas are split-8 streams (R330). -/
  split8 : Bool
  bandLo : Nat
  bandHi : Nat
  deriving DecidableEq, Repr, Inhabited

/-- Cell parameters that a CONFIG.request may set (Table 10.4, right column). -/
inductive CellParam where
  | physCellId | carrierFreq | ssb | prachFormat | tddPattern | controlSets | beamTable
  deriving DecidableEq, Repr, Inhabited

/-- Parameters fixed by the plan that a TLV may name (Table 10.4, left column). -/
inductive PlanField where
  | mu | nPrb | duplex | t | r | lDl | lUl | lport | mac | vlan | pcp | wNom | wFloor | mode | rate | burst | prio | maxIter
  | harqBuffers | p7Lead | indDeadline | holdAction
  deriving DecidableEq, Repr

/-- A TLV of a CONFIG.request. -/
inductive CfgTlv where
  | set (p : CellParam) (value : Nat)
  | fixed (f : PlanField) (value : Nat)
  | unsupported (tag : Nat)
  deriving DecidableEq, Repr

/-- Code blocks of a transport block that share their parameters (Table 10.8). -/
structure CodeBlocks where
  bg2 : Bool
  zc : Nat
  e : Nat
  count : Nat
  deriving DecidableEq, Repr, Inhabited

/-- A PUSCH transport block of an UL_TTI.request. -/
structure UlBlock where
  tbId : Nat
  harq : Nat
  retx : Bool
  blocks : List CodeBlocks
  deriving DecidableEq, Repr, Inhabited

/-- A PDU of a P7 request: whether its features lie in Table 10.1, the PRBs and symbols it takes, and its transport block (PUSCH). -/
structure Pdu where
  supported : Bool
  prbStart : Nat
  prbCount : Nat
  symStart : Nat
  symCount : Nat
  tb : Option UlBlock
  deriving DecidableEq, Repr, Inhabited

/-- An uplink U-plane section as received (R288): slot tag, symbol, eAxC, eCPRI sequence, the width its header carries, and for each PRB
the exponent and the 24 mantissas. -/
structure UFrame where
  sfn : Nat
  slot : Nat
  symbol : Nat
  eaxc : Nat
  seq : BitVec 8
  width : Option Nat
  startPrb : Nat
  prbs : List (Nat × List Nat)
  deriving DecidableEq, Repr

/-- A reservation entry of the slot recipes (Table 13.4). -/
structure ResEntry where
  releaseNs : Nat
  mu : Nat
  posBase : Nat
  count12 : Nat
  count16 : Nat
  count24 : Nat
  hold12 : Nat
  hold16 : Nat
  hold24 : Nat
  deriving DecidableEq, Repr, Inhabited

/-! ### Streams -/

/-- Settings of a stream that the image fixes and no register shows (R330, R335, R336). -/
structure StreamCfg where
  spp : Nat
  leadUs : Nat
  rxUs : Nat
  rxTaps : List Int
  txTaps : List Int
  fftLog : Nat
  fftOffset : Nat
  fftShift : Nat
  deriving DecidableEq, Repr, Inhabited

/-- One dechirped window of a preamble: its peak bin in 1/256 of a bin, the magnitude of the peak, and the mean bin energy (R343). -/
structure ChirpWindow where
  bin : Int
  peak : Nat
  mean : Nat
  deriving DecidableEq, Repr

/-- What a spreading factor's search has measured on a channel (R343, R344): the windows of the preamble, and the dechirped bins of the two
turns and of the mark symbol between them, in 1/256 of a bin; and the time the search took for the first preamble sample's air time. -/
structure ChirpHit where
  windows : List ChirpWindow
  turn1 : Int
  turn2 : Int
  mark : Int
  timeNs : Nat
  deriving DecidableEq, Repr

/-- What a chirp demodulator has measured of a packet after its mark: power and preamble SNR (Table 12.1), and the bin magnitudes of each
data symbol's transform, 2^SF of them (R346). -/
structure ChirpRec where
  rssiQ : Int
  snrQ : Int
  syms : List (List Nat)
  deriving DecidableEq, Repr, Inhabited

/-! ### Time -/

/-- A trigger comparator's group as firmware programs it (R272, R274). -/
structure TrigGroup where
  compareNs : Nat
  periodNs : Nat
  action : Nat
  target : Nat
  deriving DecidableEq, Repr, Inhabited

/-- PTP messages the device sends of its own (R264): its Sync is two-step, so a Follow_Up carries the departure. -/
inductive PtpKind where
  | sync | followUp | announce | delayReq | delayResp
  deriving DecidableEq, Repr

/-- A time message under way (R267): a follower's millisecond has passed, a follower's message reaches its leader, or the leader's answer
reaches a follower on a port, with the leader's time and the flight of the links that are not the port's own. -/
inductive TimeMsg where
  | due
  | request (node : BitVec 10)
  | answer (port : BitVec 4) (leaderNs farNs : BitVec 64)
  deriving DecidableEq, Repr

/-- A write of TIME_STEP: one 64-bit access, or its two 32-bit halves, of which the high one applies the step (R261). -/
inductive StepWrite where
  | whole (v : BitVec 64)
  | low (v : BitVec 32)
  | high (v : BitVec 32)
  deriving DecidableEq, Repr

/-- The phase-locked loops of TIME_CLK_STATUS. -/
inductive PllKind where
  | root | serdes | ucie
  deriving DecidableEq, Repr

/-! ### Start-up, power and health -/

/-- The content of a grade record body, whose layout the spec does not give (R2, R4): units, harvested physical benches, owner key. -/
structure GradeRec where
  benches : Nat
  lots : Nat
  jeanoMask : Nat
  fronthaul : Nat
  chisel : Nat
  sieve : Nat
  tdfe : Bool
  radioUnits : Nat
  harvested : List Nat
  ownerKey : BitVec 512
  deriving DecidableEq, Repr, Inhabited

/-- A stream of the TDFE section (R330): kind 1 NR split-8, 2 chirp. -/
structure StreamPlan where
  kind : Nat
  cell : Nat
  lport : Nat
  dec : Nat
  interp : Nat
  core : Nat
  rateKhz : Nat
  cfg : StreamCfg
  deriving DecidableEq, Repr, Inhabited

/-- A chirp channel of the TDFE section (R341): bandwidth code 0-3 for 62.5 to 500 kHz, centre offset in steps of 15.625 kHz. -/
structure ChanPlan where
  stream : Nat
  bw : Nat
  offset : Int
  mark : Nat
  preMin : Nat
  maxSymbols : Nat
  deriving DecidableEq, Repr, Inhabited

/-- What the sections of Table 17.4 hold, whose byte layouts the spec does not give. DEFAULTS, the header and the directory are read from
the image's bytes, and L1 images carry their own layout (Table 11.9). -/
structure Sections where
  plumb : Bool
  radioLots : Nat
  memRshare : Nat
  galleryShare : Nat
  node : Nat
  rowsM1 : Nat
  colsM1 : Nat
  domainsM1 : Nat
  jeanoRshare : Nat
  eth14 : Bool
  eth15 : Bool
  leader : Nat
  /-- Own addresses by port of `Net`: 14 and 15 outer, 32 + l fronthaul. -/
  v4 : List (Nat × Nat)
  v6 : List (Nat × Nat)
  macs : List (Nat × Nat)
  udpPort : Nat
  dscp : List Nat
  hops : List Nat
  timeSrc : Nat
  timePort : Nat
  ptpDomain : Nat
  boundaryClock : Bool
  synceOpt : Nat
  syncePort : Nat
  clockOuts : List Nat
  cells : List CellPlan
  portModes : List Nat
  fapiMap : List Nat
  headroom : Nat
  leadUs : Nat
  period20 : Bool
  /-- Reserved bits of all reservation entries are zero (Table 13.4). -/
  recipeClean : Bool
  recipe : List ResEntry
  wdogUs : Nat
  l1 : List (List (BitVec 8))
  streams : List StreamPlan
  channels : List ChanPlan
  rxBase : Nat
  rxSize : Nat
  txBase : Nat
  txLog : Nat
  contW : Nat
  ceilingDj : Nat
  cables : List (Nat × Nat)
  tCap : Nat
  minDuty : List Nat
  minRpm : List Nat
  sensors : List Nat
  inletDefault : Nat
  kP : Nat
  /-- Own addresses of the management ports: 16 and 17 of `Net`. -/
  mgmtV4 : List (Nat × Nat)
  mgmtV6 : List (Nat × Nat)
  collectors : List Nat
  mgmtUdp : Nat
  budget : Nat
  windowH : Nat
  deriving DecidableEq, Repr, Inhabited

/-- What the probe of a cable power port finds (R466): a short, nothing, or a load of a class. -/
inductive CableProbe where
  | short | open_ | load (cls : Nat)
  deriving DecidableEq, Repr, Inhabited

/-- A Survey item with what it measures (Table 17.3). Supplies bring the means and the time of a record write (R464), DRAM each stack's
margin. -/
inductive SurveyItem where
  | supplies (means : List Nat) (tRecUs : Nat)
  | cables (probes : List CableProbe)
  | flights
  | partners (fields : List Nat)
  | sensors (answered : List Nat)
  | dram (margins : List Nat)
  | cooling (rpm : List Nat) (gaveUp : Bool)
  deriving DecidableEq, Repr, Inhabited

/-- Why a device trips (R473). -/
inductive TripCause where
  | overpower | dieThermal | dramThermal
  deriving DecidableEq, Repr

/-- What a loop cycle or a converter start reads (R467, R469): die temperature, each listed sensor's reading if it answered, and the
tachometers. -/
structure LoopIn where
  die : BitVec 8
  sensors : List (Option (BitVec 8))
  rpm : List (BitVec 16)
  deriving DecidableEq, Repr, Inhabited

/-- A management datagram (Table 19.2) beside its kind. -/
structure Datagram where
  magic : Nat
  ver : Nat
  node : Nat
  deviceId : Nat
  incarnation : Nat
  port : Nat
  cause : Nat
  seq : Nat
  time : Nat
  listVersion : Nat
  ready : Nat
  reserved : Nat
  deriving DecidableEq, Repr

/-- An evidence record (R481): node, PROVING or ASSAY, bench, or engine as 64 more than its number, time. -/
structure Evidence where
  node : Nat
  proving : Bool
  unit : Nat
  time : Nat
  deriving DecidableEq, Repr, Inhabited

/-- Operations on the health list (Table 19.8). -/
inductive HOp where
  | expel | dead | watch | remove
  deriving DecidableEq, Repr, Inhabited

/-- A change of the health list as it is flooded (R483). -/
structure HChange where
  version : Nat
  origin : Nat
  op : HOp
  node : Nat
  deriving DecidableEq, Repr, Inhabited

/-- An Ethernet link: sub-port i of a fronthaul port, a management port, or outer port 14 or 15. -/
inductive EthPort where
  | fronthaul (port sub : Nat)
  | mgmt (port : Nat)
  | outer (port : Nat)
  deriving DecidableEq, Repr

/-- The commands of the block, in the order of the table of operations and events. -/
inductive Instr where
  /-- REGISTER_WRITE (R14): A write to a register field with no behaviour of its own, handled by its access code, including RWL discards after lock. -/
  | registerWrite (fn : Fin 513) (addr : BitVec 32) (wide : Bool) (data : BitVec 64)
  /-- LOW_WORD_READ (R12): A 32-bit read of the low word of a 64-bit register latches the high word so the pair is consistent; `wide`: the
  one 64-bit access instead. -/
  | lowWordRead (fn : Fin 513) (addr : BitVec 32) (wide : Bool)
  /-- BENCH_WINDOW_ABSENT_ACCESS (R6): An access to a bench window at or above bench_count reads all ones, discards writes and logs NO_UNIT. -/
  | benchWindowAbsentAccess (bench : BitVec 5) (off : BitVec 16) (write : Bool)
  /-- NOT_CLOCKED_PROXY_ACCESS (R259): A PF0 access to a register in a stoppable domain passes the not-clocked proxy, which either holds the domain running or returns all ones and logs NOT_CLOCKED. -/
  | notClockedProxyAccess (addr : BitVec 32) (write : Option (BitVec 32))
  /-- GALLERY_SHARE_WINDOW (R18): A 1,024 G-clock window ends and the class R share count of each router output restarts. -/
  | galleryShareWindow
  /-- CHANNEL_SHARE_WINDOW (R167): A 1,024 G-clock window ends and each memory channel's class R share count restarts. -/
  | channelShareWindow
  /-- REFRESH (R166): A refresh interval elapses and the stack refreshes its next bank ahead of every class. -/
  | refresh (stack : BitVec 2)
  /-- REFRESH_TEMP_READ (R166): Every 1 ms the hottest stack sensor is read and the refresh interval and MEM_REFRESH.hot are set. -/
  | refreshTempRead (t0 t1 t2 t3 : BitVec 8)
  /-- SQ_TAIL (R115): A doorbell write to SQ_TAIL publishes submission entries or is discarded when out of range. -/
  | sqTail (fn : Fin 513) (q : BitVec 6) (value : BitVec 32)
  /-- QUEUE_ENABLE (R114): Writing enable = 1 checks the queue configuration and moves a DISABLED queue to RUNNING. -/
  | queueEnable (fn : Fin 513) (q : BitVec 6)
  /-- QUEUE_DISABLE (R117): Writing enable = 0 moves a RUNNING queue to STOPPING or an ERROR queue to DISABLED. -/
  | queueDisable (fn : Fin 513) (q : BitVec 6)
  /-- QUEUE_CONFIG_WRITE (R114): A write to SQ_BASE, CQ_BASE, Q_CFG or Q_PASID is applied only while the queue is DISABLED, else discarded with PERMISSION. -/
  | queueConfigWrite (fn : Fin 513) (q : BitVec 6) (reg : QReg) (value : BitVec 64)
  /-- STEP_START (R116): A RUNNING queue starts the step at SQ_HEAD once its conditions hold, reads and checks the step entry and image header, and admits it. -/
  | stepStart (fn : Fin 513) (q : BitVec 6)
  /-- COMMAND_READ (R126): The device reads the next command of an image and makes the version and header checks, failing the step on error. -/
  | commandRead (fn : Fin 513) (q : BitVec 6)
  /-- STEP_COMPLETION (R143): When every command has a final status the device writes the step record, the completion entry and raises the vector as needed. -/
  | stepCompletion (fn : Fin 513) (q : BitVec 6)
  /-- TALLY_ADD (R128): A host write to TALLY_ADD adds the value to the tally atomically. -/
  | tallyAdd (fn : Fin 513) (tally : BitVec 10) (value : BitVec 32)
  /-- TALLY_SET (R128): A host write to TALLY_SET replaces the tally value atomically. -/
  | tallySet (fn : Fin 513) (tally : BitVec 10) (value : BitVec 32)
  /-- SLAB (R67): A SLAB command issues, is checked, and feeds, accumulates and drains its problems on the Slab. -/
  | slab (cid : Nat)
  /-- MAP (R92): A Dresser MAP command runs its slot program over every element of the tile. -/
  | map (cid : Nat)
  /-- ROW_SUM (R94): A Dresser ROW_SUM command sums each row in FP32 in the fixed lane and tree order. -/
  | rowSum (cid : Nat)
  /-- ROW_WIDE_SUM (R95): A Dresser ROW_WIDE_SUM command sums each row exactly into a 128-bit window. -/
  | rowWideSum (cid : Nat)
  /-- WIDE_ADD (R96): A Dresser WIDE_ADD command combines two W128 tiles under the wide combine. -/
  | wideAdd (cid : Nat)
  /-- ROW_MAXI (R97): A Dresser ROW_MAXI command returns each row's maximum value and index. -/
  | rowMaxi (cid : Nat)
  /-- ROW_MINI (R97): A Dresser ROW_MINI command returns each row's minimum value and index. -/
  | rowMini (cid : Nat)
  /-- MX_QUANT (R98): A Dresser MX_QUANT command converts rows into an MX operand with per-block scales. -/
  | mxQuant (cid : Nat)
  /-- RANDOM (R99): A Dresser RANDOM command fills a tile from the SM4 counter-based generator. -/
  | random (cid : Nat)
  /-- DISCARD (R100): A Dresser DISCARD command unmaps a range of Yard pages at its commit. -/
  | discard (cid : Nat)
  /-- SKIP (R102): A SKIP command moves bytes between Yard, device DRAM and host memory on the bench's Skips. -/
  | skip (cid : Nat)
  /-- GET (R198): A FABRIC GET command reads remote memory into Yard shadows or an owned DRAM range. -/
  | get (cid : Nat)
  /-- PUT (R198): A FABRIC PUT command stages a payload and sends it to the peer at commit. -/
  | put (cid : Nat)
  /-- ATOMIC (R210): A FABRIC ATOMIC command sends an indivisible read-modify-write to a remote word at commit. -/
  | atomic (cid : Nat)
  /-- FABRIC_REDUCE (R213): A FABRIC REDUCE command combines local elements into remote elements at commit, optionally in a round. -/
  | fabricReduce (cid : Nat)
  /-- MCAST_PUT (R215): A FABRIC MCAST_PUT command sends one copy of a payload to each group member at commit. -/
  | mcastPut (cid : Nat)
  /-- SIGNAL (R203): A FABRIC SIGNAL command adds to a peer function's tally as a release at commit. -/
  | signal (cid : Nat)
  /-- FENCE (R209): A FABRIC FENCE command snapshots unsettled messages and completes once all are acknowledged or settled. -/
  | fence (cid : Nat)
  /-- MSG_SEND (R224): A FABRIC MSG_SEND command sends a message to the peer's receive ring at commit. -/
  | msgSend (cid : Nat)
  /-- TALLY_SIGNAL (R130): A TALLY command with op SIGNAL commits at issue and applies the header's signals. -/
  | tallySignal (cid : Nat)
  /-- TALLY_CMD_SET (R130): A TALLY command with op SET replaces a tally value at commit before the header's signals. -/
  | tallyCmdSet (cid : Nat)
  /-- NOTIFY (R130): A TALLY command with op NOTIFY raises an MSI-X vector at commit after the header's signals. -/
  | notify (cid : Nat)
  /-- ALL_REDUCE (R232): A CRUSHER ALL_REDUCE collective combines every member's input and writes the result on every member. -/
  | allReduce (cid : Nat)
  /-- REDUCE (R232): A CRUSHER REDUCE collective combines every member's input and writes the result at the root. -/
  | reduce (cid : Nat)
  /-- REDUCE_SCATTER (R232): A CRUSHER REDUCE_SCATTER collective gives each rank its block of the combine. -/
  | reduceScatter (cid : Nat)
  /-- BROADCAST (R232): A CRUSHER BROADCAST collective copies the root's input to every member. -/
  | broadcast (cid : Nat)
  /-- ALL_GATHER (R232): A CRUSHER ALL_GATHER collective gathers every member's block in rank order on every member. -/
  | allGather (cid : Nat)
  /-- ALL_TO_ALL (R232): A CRUSHER ALL_TO_ALL collective exchanges one block between every pair of ranks. -/
  | allToAll (cid : Nat)
  /-- ALL_GATHER_V (R239): A CRUSHER ALL_GATHER_V collective gathers variable-length blocks after a count exchange. -/
  | allGatherV (cid : Nat)
  /-- ALL_TO_ALL_V (R239): A CRUSHER ALL_TO_ALL_V collective exchanges variable-length blocks after a count exchange. -/
  | allToAllV (cid : Nat)
  /-- BARRIER (R232): A CRUSHER BARRIER collective completes once the descriptor exchange agrees. -/
  | barrier (cid : Nat)
  /-- COMMIT (R133): A bench command reaches its point of no return and commits its Yard, commit buffer, ranges and tally signals. -/
  | commit (cid : Nat)
  /-- FRAME_ZEROING_DONE (R82): A released Yard frame finishes being zeroed and returns to the free pool. -/
  | frameZeroingDone (bench : BitVec 5)
  /-- COLLECTIVE_COMMIT (R247): A Crusher member reaches its point of no return and starts copying the stage to the output. -/
  | collectiveCommit (cid : Nat)
  /-- STAGE_COPY_DONE (R247): The stage copy ends and the member releases its ranges, signals tallies and writes its record. -/
  | stageCopyDone (cid : Nat)
  /-- JOIN_TIMEOUT (R240): A member's verdict has not arrived within join_ms and it completes with FABRIC_TIMEOUT and aborts. -/
  | joinTimeout (cid : Nat)
  /-- TRIGGER_FIRE (R272): A trigger comparator's time is reached and it performs its action and advances by its period. -/
  | triggerFire (k : BitVec 6) (r : LoopIn)
  /-- FLOOR_PLAN_POINT (R366): At 50 µs before a reservation point the Banksman chooses and wakes the floor benches. -/
  | floorPlanPoint (entry : BitVec 12) (sfn : BitVec 10)
  /-- FLOOR_RESERVATION (R26): At the reservation point the floor benches are reserved and the Wedge kills their tenant commands. -/
  | floorReservation (entry : BitVec 12)
  /-- WEDGE_HANDOVER (R370): Once killed writes have landed and any commit in progress has ended, the bench is handed to radio. -/
  | wedgeHandover (bench : BitVec 5)
  /-- BEYOND_FLOOR_TAKE (R368): A radio command for an unreserved position takes a free rotation bench by the Wedge or waits. -/
  | beyondFloorTake (cid : Nat)
  /-- FLOOR_RETURN (R367): A floor bench returns to tenants after release plus hold and its last radio commit, with accumulators zeroed. -/
  | floorReturn (bench : BitVec 5)
  /-- QUANTUM_END (R359): A resident context's effective quantum ends and the Banksman renews it or switches the bench. -/
  | quantumEnd (bench : BitVec 5)
  /-- GRACE_END (R373): grace_us passes and executing commands of the outgoing context that have not reached commit are killed. -/
  | graceEnd (bench : BitVec 5)
  /-- SAVE_DONE (R373): The context save slot is written and the restore of the incoming context begins. -/
  | saveDone (bench : BitVec 5)
  /-- RESTORE_DONE (R375): The incoming context is restored and checked and its quantum starts. -/
  | restoreDone (bench : BitVec 5)
  /-- STARVATION_POINT (R356): A waiting context reaches starve_ms minus 1 ms and a starvation switch is started for it. -/
  | starvationPoint (fn : Fin 513) (ctx : BitVec 5)
  /-- EVICTION (R377): A blocked context held for evict_min_us is evicted so a waiting context can take its bench. -/
  | eviction (fn : Fin 513) (ctx : BitVec 5)
  /-- BENCH_WAKE (R380): A bench starts waking w_s plus 1 µs before its next known event. -/
  | benchWake (bench : BitVec 5)
  /-- POWER_STATE_CHOICE (R380): The Banksman re-chooses a bench's power state when an event is added or removed. -/
  | powerStateChoice (bench : BitVec 5)
  /-- BLOCKED_HOLD_EXPIRY (R381): blocked_hold_us passes and a bench with a blocked or idle context may go deeper than GATED. -/
  | blockedHoldExpiry (bench : BitVec 5)
  /-- IDLE_DARK_EXPIRY (R381): idle_dark_ms passes and an idle resident context is saved so its bench may enter DARK. -/
  | idleDarkExpiry (bench : BitVec 5)
  /-- LOT_OWNER (R154): A write to LOT_OWNER grants a free lot to a VF or starts its release, or is refused with PERMISSION. -/
  | lotOwner (lot : Fin 384) (owner : BitVec 10) (hdm : Bool)
  /-- RELEASING_END (R154): Accesses admitted before the release and registered ranges in the lot are gone, and the lot starts CLEARING. -/
  | releasingEnd (lot : Fin 384)
  /-- CLEARING_END (R154): Every line of a released lot is cleared and the lot becomes free and IDLE. -/
  | clearingEnd (lot : Fin 384)
  /-- MEM_INVAL (R157): Setting MEM_INVAL.go starts invalidation of cached translations, peers and groups. -/
  | memInval (vf : BitVec 10) (all : Bool)
  /-- MEM_INVAL_DONE (R157): No cache or in-flight access holds a stale entry and go clears. -/
  | memInvalDone
  /-- SCRUB_READ (R165): The patrol scrub reads its next line and handles corrected and uncorrectable errors. -/
  | scrubRead (err : Option LineErr)
  /-- BUCKET_REFILL (R168): Every 1,024 G-clocks each function's DRAM token bucket gains rate up to burst. -/
  | bucketRefill
  /-- CXL_MEM_READ (R160): A host CXL.mem read is served with the owner's key or returns all ones. -/
  | cxlMemRead (pa : BitVec 39)
  /-- CXL_MEM_WRITE (R160): A host CXL.mem write is applied with the owner's key or discarded and logged. -/
  | cxlMemWrite (pa : BitVec 39) (data : BitVec 512) (mask : BitVec 64)
  /-- DATA_FLIT (R176): A data flit arrives and is accepted in fseq order or answered with a nak. -/
  | dataFlit (port : BitVec 4) (fseq ackSeq : BitVec 12) (nak crcOk : Bool) (errs : List (BitVec 10))
  /-- IDLE_FLIT (R174): An idle flit arrives and its link header acknowledgements are applied. -/
  | idleFlit (port : BitVec 4) (ackSeq : BitVec 12) (nak crcOk : Bool) (errs : List (BitVec 10))
  /-- CREDIT_FLIT (R186): A credit flit arrives and returns credit to a virtual channel. -/
  | creditFlit (port : BitVec 4) (ackSeq : BitVec 12) (nak : Bool) (vc : BitVec 5) (count : BitVec 8) (crcOk : Bool) (errs : List (BitVec 10))
  /-- LINK_SILENCE (R176): No valid flit for 1 µs, or 8 naks for one fseq, puts the port in RETRAIN. -/
  | linkSilence (port : BitVec 4)
  /-- RETRAIN_TIMEOUT (R179): A retrain attempt ends after at most 2 ms and the port comes UP, retries or goes DOWN. -/
  | retrainTimeout (port : BitVec 4) (lanesOk : BitVec 8)
  /-- DOWN_RETRY (R179): Every 1 s a DOWN port retries full training. -/
  | downRetry (port : BitVec 4)
  /-- CAPABILITY_BLOCK (R180): A partner's capability block arrives during training and sets generation, flight and wiring state. -/
  | capabilityBlock (port : BitVec 4) (block : CapBlock)
  /-- LSA (R187): A link-state advertisement arrives and is applied to the link map, triggering failover resends. -/
  | lsa (m : Msg)
  /-- READ (R201): A READ message arrives at the target, is checked and answered with read data. -/
  | read (m : Msg)
  /-- READ_DATA (R220): A READ_DATA reply arrives and is written or discarded for an older epoch. -/
  | readData (m : Msg)
  /-- WRITE (R201): A WRITE message arrives at the target, is deduplicated, ordered, applied and acknowledged. -/
  | write (m : Msg)
  /-- ATOMIC_MESSAGE (R211): An ATOMIC message arrives and is applied once, with fetching atomics recorded in the replay cache. -/
  | atomicMessage (m : Msg)
  /-- ATOMIC_RESULT (R198): An ATOMIC_RESULT arrives and the old value is written to device DRAM and res_tally signalled. -/
  | atomicResult (m : Msg)
  /-- REDUCE_MESSAGE (R214): A REDUCE message arrives and is applied or staged in its round. -/
  | reduceMessage (m : Msg)
  /-- SIGNAL_MESSAGE (R131): A SIGNAL message arrives and adds to a tally of the target function when rights allow. -/
  | signalMessage (m : Msg)
  /-- MSG (R224): A MSG message arrives and is delivered into the target's receive ring or NAKed BUSY. -/
  | msg (m : Msg)
  /-- ACK (R208): An acknowledgement arrives and settles the messages it names, or reveals a new incarnation. -/
  | ack (m : Msg)
  /-- NAK (R200): A NAK arrives and the source resends or settles the segment with its reason. -/
  | nak (m : Msg)
  /-- DESC (R238): A COLL descriptor report arrives in the up-pass or is kept in the early store. -/
  | desc (m : CollMsg)
  /-- COUNT (R239): A COLL count message arrives and is compared with the receiver's recv_counts. -/
  | count (m : CollMsg)
  /-- VERDICT (R238): A COLL verdict arrives, is passed down the tree and lets chunks move or ends the collective. -/
  | verdict (m : CollMsg)
  /-- DATA (R243): A COLL data chunk arrives and is verified before it is combined, forwarded or staged. -/
  | data (m : CollMsg)
  /-- ACK_VERIFIED (R243): An ACK_VERIFIED arrives and the sender frees the chunk from its retain store. -/
  | ackVerified (m : CollMsg)
  /-- REFETCH (R243): A REFETCH arrives and the sender resends the chunk from its retain store. -/
  | refetch (m : CollMsg)
  /-- ABORT (R248): A COLL abort arrives and the member completes with the carried status or keeps it early. -/
  | abort (m : CollMsg)
  /-- RESEND_TIMER (R207): An unacknowledged message's resend timer expires and it is resent with doubling interval. -/
  | resendTimer (mid : Nat)
  /-- MESSAGE_LIFETIME_EXPIRY (R216): A message's age would reach 16 µs before it is applied and it is discarded. -/
  | messageLifetimeExpiry (srcNode : BitVec 10) (cls : TClass) (seq : BitVec 32)
  /-- DEAD_BOUND (R217): A class T or R operation stays unsettled for dead_us and settles as TARGET_DEAD or FABRIC_TIMEOUT. -/
  | deadBound (mid : Nat)
  /-- ROUND_TIMEOUT (R214): A reduction round is incomplete after the dead bound and its contributors receive NAK ROUND_TIMEOUT. -/
  | roundTimeout (fn : Fin 513) (line : Nat) (round : BitVec 32)
  /-- JEANO_S_ABORT (R218): Setting JEANO_S_ABORT.go arms the abort of class S operations toward a node. -/
  | jeanoSAbort (node : BitVec 10)
  /-- S_ABORT_SETTLE (R218): 16 µs after go, unsettled class S operations toward the node settle as TARGET_DEAD and go clears. -/
  | sAbortSettle
  /-- METERING_TICK (R190): A 1 µs metering tick updates trTCM buckets and applies staged policing parameters. -/
  | meteringTick
  /-- QUEUE_SAMPLE (R225): Every period_us each Jeano port egress queue is sampled into the depth and delay histograms. -/
  | queueSample (depths delays : List Nat)
  /-- JEANO_SAMPLE_CLEAR (R225): Writing JEANO_SAMPLE.clear zeroes every Jeano histogram bin. -/
  | jeanoSampleClear
  /-- TIME_MESSAGE (R267): A JEANO follower exchanges class S time messages with its leader every 1 ms and steers. -/
  | timeMessage (m : TimeMsg)
  /-- REFERENCE_LOSS (R255): The reference stops or leaves ±200 ppm for 10 µs and the PLLs hold while time enters HOLDOVER. -/
  | referenceLoss
  /-- REFERENCE_RETURN (R255): The reference has been within ±50 ppm for 100 ms and the PLLs slew back and ref_ok sets. -/
  | referenceReturn
  /-- TIME_ADDEND (R261): A write to TIME_ADDEND by the owner changes the addend at the next G-clock or is discarded. -/
  | timeAddend (value : BitVec 40) (manager : Bool)
  /-- TIME_STEP (R261): A write to TIME_STEP steps the time base count, or is refused while a cell is active. -/
  | timeStep (value : StepWrite) (manager : Bool)
  /-- SYNC (R264): A PTP Sync message is received and feeds the servo. -/
  | sync (q : BitVec 4) (domain : BitVec 8) (origin : Option (BitVec 64))
  /-- FOLLOW_UP (R264): A PTP Follow_Up message is received and supplies the precise origin time. -/
  | followUp (q : BitVec 4) (domain : BitVec 8) (origin : BitVec 64)
  /-- DELAY_REQ (R264): A PTP Delay_Req message is received and answered when the device acts as a boundary clock. -/
  | delayReq (q : BitVec 4) (domain : BitVec 8)
  /-- DELAY_RESP (R264): A PTP Delay_Resp message is received and completes a path delay measurement. -/
  | delayResp (q : BitVec 4) (domain : BitVec 8) (received : BitVec 64)
  /-- ANNOUNCE (R264): A PTP Announce message is received and feeds best-master selection. -/
  | announce (q : BitVec 4) (domain : BitVec 8) (dataset : BitVec 256)
  /-- ANNOUNCE_TIMEOUT (R268): Three announce intervals pass without an Announce and the source is lost. -/
  | announceTimeout
  /-- ESMC (R266): An ESMC message is received and the SyncE quality level is followed. -/
  | esmc (q : BitVec 4) (level : BitVec 8)
  /-- SOURCE_LOSS (R269): The time source is lost and the state goes to HOLDOVER or stays ACQUIRING. -/
  | sourceLoss
  /-- PPS_LOSS (R268): 1PPS input is missing for 1.5 s and the source counts as lost. -/
  | ppsLoss
  /-- LEADER_LOSS (R268): The Jeano time leader is unheard for 10 ms and the source counts as lost. -/
  | leaderLoss
  /-- SOURCE_RETURN (R269): The time source returns and the state becomes ACQUIRING. -/
  | sourceReturn
  /-- LOCK_ACHIEVED (R268): The offset stays below 100 ns for 16 s and the state becomes LOCKED and TIME reports READY. -/
  | lockAchieved
  /-- HOLDOVER_EXPIRED (R268): HOLDOVER lasts longer than max_s and the state becomes HOLDOVER_EXPIRED, muting cells as set. -/
  | holdoverExpired
  /-- TIMESTAMP_PUSH (R270): A timestamped frame leaves its port and its departure time is pushed into the timestamp queue. -/
  | timestampPush (q : BitVec 4) (id : BitVec 16)
  /-- TSQ_ID (R270): A read of TSQ_ID pops the oldest timestamp entry and latches its time. -/
  | tsqId (q : BitVec 4)
  /-- TRIG_COMMIT (R274): Writing a comparator's commit bit applies its staged group at once or after its next firing; `group` and `arm`:
  what firmware writes to one of its own comparators, and whether it leaves it armed. -/
  | trigCommit (k : BitVec 6) (group : Option TrigGroup) (arm : Bool)
  /-- CAPTURE_EDGE (R275): A selected edge on a capture input or 1PPS_IN is stamped and queued. -/
  | captureEdge (input : BitVec 4) (rising : Bool)
  /-- CAP_POP (R275): A read of CAP_POP pops the oldest capture entry and latches its time. -/
  | capPop (input : BitVec 4)
  /-- PPS_OUT (R276): At each whole second plus offset 1PPS_OUT rises for width_ms. -/
  | ppsOut
  /-- FAPI_REQ_TAIL (R289): L2 writes REQ_TAIL of a ring pair to publish request entries and raise the FAPI event. -/
  | fapiReqTail (ring : BitVec 4) (value : BitVec 32)
  /-- PARAM_REQUEST (R283): A P5 PARAM.request is answered with the cell's parameters. -/
  | paramRequest (cell : BitVec 9)
  /-- CONFIG_REQUEST (R281): A P5 CONFIG.request sets the cell's runtime parameters or is refused. -/
  | configRequest (cell : BitVec 9) (tlvs : List CfgTlv)
  /-- START_REQUEST (R283): A P5 START.request moves a CONFIGURED cell to RUNNING at the next frame. -/
  | startRequest (cell : BitVec 9)
  /-- STOP_REQUEST (R283): A P5 STOP.request moves a RUNNING cell back to CONFIGURED. -/
  | stopRequest (cell : BitVec 9)
  /-- DL_TTI_REQUEST (R290): A P7 DL_TTI.request schedules downlink PDUs of a slot, or is late and skipped. -/
  | dlTtiRequest (ring : BitVec 4) (cell : BitVec 9) (sfn : BitVec 10) (slot : BitVec 7) (pdus : List Pdu)
  /-- UL_TTI_REQUEST (R290): A P7 UL_TTI.request schedules uplink PDUs of a slot, or is late and skipped. -/
  | ulTtiRequest (ring : BitVec 4) (cell : BitVec 9) (sfn : BitVec 10) (slot : BitVec 7) (pdus : List Pdu)
  /-- UL_DCI_REQUEST (R290): A P7 UL_DCI.request schedules uplink DCIs of a slot, or is late and skipped. -/
  | ulDciRequest (ring : BitVec 4) (cell : BitVec 9) (sfn : BitVec 10) (slot : BitVec 7) (pdus : List Pdu)
  /-- TX_DATA_REQUEST (R290): A P7 TX_Data.request supplies downlink payload for a slot, or is late and skipped. -/
  | txDataRequest (ring : BitVec 4) (cell : BitVec 9) (sfn : BitVec 10) (slot : BitVec 7) (pdus : List Pdu)
  /-- SLOT_INDICATION (R290): At slot start minus the lead the device writes SLOT.indication for the slot. -/
  | slotIndication (cell : BitVec 9) (sfn : BitVec 10) (slot : BitVec 7)
  /-- UPLINK_U_PLANE (R288): An uplink U-plane frame arrives and is accepted and decompressed or discarded outside its window. -/
  | uplinkUPlane (cell : BitVec 9) (frame : UFrame)
  /-- RECEIVED_C_PLANE (R279): A C-plane frame from a radio unit arrives and is discarded and counted. -/
  | receivedCPlane (lport : BitVec 5)
  /-- UNKNOWN_FRAME (R279): A frame with an unknown EtherType, eCPRI type or section type arrives and is discarded. -/
  | unknownFrame (lport : BitVec 5)
  /-- ONE_WAY_DELAY (R278): An eCPRI one-way delay message arrives and is answered. -/
  | oneWayDelay (lport : BitVec 5) (id : BitVec 8)
  /-- ARP_REQUEST (R223): An ARP request for the device's address arrives and is answered. -/
  | arpRequest (port : BitVec 6) (addr : BitVec 32)
  /-- NEIGHBOR_SOLICITATION (R223): An IPv6 Neighbor Solicitation for the device's address arrives and is answered. -/
  | neighborSolicitation (port : BitVec 6) (addr : BitVec 128)
  /-- SYMBOL_RELEASE (R287): A downlink symbol's transmit window opens and its U-plane is compressed and released to shaping. -/
  | symbolRelease (cell : BitVec 9) (sfn : BitVec 10) (slot : BitVec 7) (sym : BitVec 4)
  /-- TRANSMIT_WINDOW_END (R286): A symbol's transmit window ends and unsent frames are dropped with RADIO_LATE. -/
  | transmitWindowEnd (cell : BitVec 9) (sfn : BitVec 10) (slot : BitVec 7) (sym : BitVec 4)
  /-- RECEPTION_WINDOW_CLOSE (R288): A symbol's reception window closes and missing PRBs enter L1 as zero IQ. -/
  | receptionWindowClose (cell : BitVec 9) (sfn : BitVec 10) (slot : BitVec 7) (sym : BitVec 4)
  /-- DECODE_RELEASE (R297): At an uplink slot's decode release the device compares work to budget and lowers caps or drops blocks. -/
  | decodeRelease (mu : BitVec 2) (sfn : BitVec 10) (slot : BitVec 7)
  /-- INDICATION_DEADLINE (R298): An uplink indication is not written by its deadline and is written later carrying RADIO_LATE. -/
  | indicationDeadline (cell : BitVec 9) (sfn : BitVec 10) (slot : BitVec 7) (affected : BitVec 16)
  /-- LDPC_DEC (R295): An LDPC decoder takes a job, decodes a code block and writes hard bits and a result. -/
  | ldpcDec (engine : BitVec 6)
  /-- LDPC_ENC (R295): An LDPC encoder takes a job, encodes and rate-matches a block and writes the result. -/
  | ldpcEnc (engine : BitVec 6)
  /-- POLAR_DEC (R295): A polar decoder takes a job, decodes with SCL and writes hard bits and a result. -/
  | polarDec (engine : BitVec 6)
  /-- POLAR_ENC (R295): A polar encoder takes a job, encodes and rate-matches and writes the result. -/
  | polarEnc (engine : BitVec 6)
  /-- NOP (R320): An all-zero slot does nothing. -/
  | nop (core : BitVec 6) (last : Bool)
  /-- ADD (R308): Scalar ADD writes the sum of two G registers. -/
  | add (core : BitVec 6) (gd ga gb : BitVec 5) (sat last : Bool)
  /-- SUB (R308): Scalar SUB writes the difference of two G registers. -/
  | sub (core : BitVec 6) (gd ga gb : BitVec 5) (sat last : Bool)
  /-- AND (R321): Scalar AND writes the bitwise and of two G registers. -/
  | and (core : BitVec 6) (gd ga gb : BitVec 5) (sat last : Bool)
  /-- OR (R321): Scalar OR writes the bitwise or of two G registers. -/
  | or (core : BitVec 6) (gd ga gb : BitVec 5) (sat last : Bool)
  /-- XOR (R321): Scalar XOR writes the bitwise exclusive or of two G registers. -/
  | xor (core : BitVec 6) (gd ga gb : BitVec 5) (sat last : Bool)
  /-- SHL (R321): Scalar SHL shifts a G register left. -/
  | shl (core : BitVec 6) (gd ga gb : BitVec 5) (sat last : Bool)
  /-- SHR (R308): Scalar SHR shifts a G register right arithmetically. -/
  | shr (core : BitVec 6) (gd ga gb : BitVec 5) (sat last : Bool)
  /-- SHRU (R321): Scalar SHRU shifts a G register right logically. -/
  | shru (core : BitVec 6) (gd ga gb : BitVec 5) (sat last : Bool)
  /-- MIN (R321): Scalar MIN writes the smaller of two G registers. -/
  | min (core : BitVec 6) (gd ga gb : BitVec 5) (sat last : Bool)
  /-- MAX (R321): Scalar MAX writes the larger of two G registers. -/
  | max (core : BitVec 6) (gd ga gb : BitVec 5) (sat last : Bool)
  /-- SLT (R321): Scalar SLT writes 1 when one G register is signed-less than another. -/
  | slt (core : BitVec 6) (gd ga gb : BitVec 5) (sat last : Bool)
  /-- SLTU (R321): Scalar SLTU writes 1 when one G register is unsigned-less than another. -/
  | sltu (core : BitVec 6) (gd ga gb : BitVec 5) (sat last : Bool)
  /-- MUL (R311): Scalar MUL writes the low 32 bits of a product with latency 2. -/
  | mul (core : BitVec 6) (gd ga gb : BitVec 5) (sat last : Bool)
  /-- MULH (R311): Scalar MULH writes the high 32 bits of a product with latency 2. -/
  | mulh (core : BitVec 6) (gd ga gb : BitVec 5) (sat last : Bool)
  /-- ADDI (R320): ADDI adds a signed immediate to a G register. -/
  | addi (core : BitVec 6) (gd ga : BitVec 5) (imm : BitVec 12) (last : Bool)
  /-- ANDI (R320): ANDI ands a G register with an immediate. -/
  | andi (core : BitVec 6) (gd ga : BitVec 5) (imm : BitVec 12) (last : Bool)
  /-- ORI (R320): ORI ors a G register with an immediate. -/
  | ori (core : BitVec 6) (gd ga : BitVec 5) (imm : BitVec 12) (last : Bool)
  /-- XORI (R320): XORI exclusive-ors a G register with an immediate. -/
  | xori (core : BitVec 6) (gd ga : BitVec 5) (imm : BitVec 12) (last : Bool)
  /-- SHLI (R320): SHLI shifts a G register left by an immediate. -/
  | shli (core : BitVec 6) (gd ga : BitVec 5) (imm : BitVec 12) (last : Bool)
  /-- SHRI (R308): SHRI shifts a G register right arithmetically by an immediate. -/
  | shri (core : BitVec 6) (gd ga : BitVec 5) (imm : BitVec 12) (last : Bool)
  /-- SHRUI (R320): SHRUI shifts a G register right logically by an immediate. -/
  | shrui (core : BitVec 6) (gd ga : BitVec 5) (imm : BitVec 12) (last : Bool)
  /-- LUI (R320): LUI writes an immediate shifted left by 15 into a G register. -/
  | lui (core : BitVec 6) (gd : BitVec 5) (imm : BitVec 17) (last : Bool)
  /-- B (R311): B branches unconditionally after two delay bundles. -/
  | b (core : BitVec 6) (off : BitVec 17) (last : Bool)
  /-- BEQZ (R312): BEQZ branches when a G register is zero, after two delay bundles. -/
  | beqz (core : BitVec 6) (ga : BitVec 5) (off : BitVec 17) (last : Bool)
  /-- BNEZ (R312): BNEZ branches when a G register is non-zero, after two delay bundles. -/
  | bnez (core : BitVec 6) (ga : BitVec 5) (off : BitVec 17) (last : Bool)
  /-- BLTZ (R312): BLTZ branches when a G register is negative, after two delay bundles. -/
  | bltz (core : BitVec 6) (ga : BitVec 5) (off : BitVec 17) (last : Bool)
  /-- BGEZ (R312): BGEZ branches when a G register is non-negative, after two delay bundles. -/
  | bgez (core : BitVec 6) (ga : BitVec 5) (off : BitVec 17) (last : Bool)
  /-- BGTZ (R312): BGTZ branches when a G register is positive, after two delay bundles. -/
  | bgtz (core : BitVec 6) (ga : BitVec 5) (off : BitVec 17) (last : Bool)
  /-- BLEZ (R312): BLEZ branches when a G register is zero or negative, after two delay bundles. -/
  | blez (core : BitVec 6) (ga : BitVec 5) (off : BitVec 17) (last : Bool)
  /-- CALL (R306): CALL writes the return address to G31 and branches after two delay bundles. -/
  | call (core : BitVec 6) (off : BitVec 17) (last : Bool)
  /-- JR (R311): JR jumps to the address in a G register after two delay bundles. -/
  | jr (core : BitVec 6) (ga : BitVec 5) (last : Bool)
  /-- RTI (R317): RTI copies ISTAT into STATUS and fetches IPC after two delay bundles. -/
  | rti (core : BitVec 6) (last : Bool)
  /-- LOOP (R313): LOOP sets a loop level with its count from a G register. -/
  | loop (core : BitVec 6) (level : BitVec 2) (gs : BitVec 5) (lend : BitVec 13) (last : Bool)
  /-- LOOPI (R313): LOOPI sets a loop level with an immediate count. -/
  | loopi (core : BitVec 6) (level : BitVec 2) (count : BitVec 10) (lend : BitVec 10) (last : Bool)
  /-- MFS (R319): MFS copies a special register into a G register. -/
  | mfs (core : BitVec 6) (gd : BitVec 5) (num : BitVec 8) (last : Bool)
  /-- MTS (R319): MTS writes a G register into a special register, with its side effects such as clearing EV bits or arming TCMP. -/
  | mts (core : BitVec 6) (ga : BitVec 5) (num : BitVec 8) (last : Bool)
  /-- POST_SIEVE (R294): POST to port 0 copies a Sieve job descriptor into the Sieve queue. -/
  | postSieve (core : BitVec 6) (a : BitVec 3) (units : BitVec 4) (last : Bool)
  /-- POST_RADIO_CMD (R323): POST to port 1 submits a class R SLAB, SKIP or TALLY command for a floor position. -/
  | postRadioCmd (core : BitVec 6) (a : BitVec 3) (units : BitVec 4) (last : Bool)
  /-- POST_MBOX (R324): POST to port 2 delivers a mailbox message to another core's ring or fails with QUOTA. -/
  | postMbox (core : BitVec 6) (a : BitVec 3) (units : BitVec 4) (last : Bool)
  /-- POST_FH_TX (R325): POST to port 3 hands a U-plane section or prebuilt C-plane message to the fronthaul port. -/
  | postFhTx (core : BitVec 6) (a : BitVec 3) (units : BitVec 4) (last : Bool)
  /-- POST_FAPI_IND (R322): POST to port 4 writes a FAPI indication into a ring pair or reports it dropped. -/
  | postFapiInd (core : BitVec 6) (a : BitVec 3) (units : BitVec 4) (last : Bool)
  /-- PORT_QUEUE_ENTRY_FREED (R322): A full port queue frees an entry and a stalled POST completes. -/
  | portQueueEntryFreed (core : BitVec 6)
  /-- WAIT (R318): WAIT stops fetch and gates the core's clock until a masked event or interrupt. -/
  | wait (core : BitVec 6) (ga : BitVec 5) (last : Bool)
  /-- WAIT_END (R318): A masked event arrives and a waiting core resumes fetch. -/
  | waitEnd (core : BitVec 6)
  /-- EVSET (R315): EVSET sets the core's SW event bit. -/
  | evset (core : BitVec 6) (last : Bool)
  /-- LD16 (R307): LD16 loads a sign-extended 16-bit value with circular and post-modify addressing. -/
  | ld16 (core : BitVec 6) (y : Bool) (g : BitVec 5) (a : BitVec 3) (post : Bool) (off : BitVec 12) (last : Bool)
  /-- LD32 (R307): LD32 loads a 32-bit value into a G register. -/
  | ld32 (core : BitVec 6) (y : Bool) (g : BitVec 5) (a : BitVec 3) (post : Bool) (off : BitVec 12) (last : Bool)
  /-- LDV (R307): LDV loads 64 bytes into a V register. -/
  | ldv (core : BitVec 6) (y : Bool) (v : BitVec 4) (a : BitVec 3) (post : Bool) (off : BitVec 12) (last : Bool)
  /-- LDBC (R307): LDBC loads 16 bits and broadcasts them to 32 lanes. -/
  | ldbc (core : BitVec 6) (y : Bool) (v : BitVec 4) (a : BitVec 3) (post : Bool) (off : BitVec 12) (last : Bool)
  /-- ST16 (R304): ST16 stores 16 bits to X or Y memory. -/
  | st16 (core : BitVec 6) (y : Bool) (g : BitVec 5) (a : BitVec 3) (post : Bool) (off : BitVec 12) (last : Bool)
  /-- ST32 (R304): ST32 stores 32 bits to X or Y memory. -/
  | st32 (core : BitVec 6) (y : Bool) (g : BitVec 5) (a : BitVec 3) (post : Bool) (off : BitVec 12) (last : Bool)
  /-- STV (R304): STV stores a V register as 64 bytes. -/
  | stv (core : BitVec 6) (y : Bool) (v : BitVec 4) (a : BitVec 3) (post : Bool) (off : BitVec 12) (last : Bool)
  /-- MOVA (R320): MOVA copies a G register into an address register. -/
  | mova (core : BitVec 6) (ga : BitVec 5) (a : BitVec 3) (last : Bool)
  /-- ADDA (R320): ADDA adds a signed byte offset to an address register. -/
  | adda (core : BitVec 6) (a : BitVec 3) (off : BitVec 12) (last : Bool)
  /-- MFA (R320): MFA copies an address register into a G register. -/
  | mfa (core : BitVec 6) (gd : BitVec 5) (a : BitVec 3) (last : Bool)
  /-- VADD (R308): VADD adds 16-bit lanes with wrap or saturation. -/
  | vadd (core : BitVec 6) (vd va vb : BitVec 4) (sat last : Bool)
  /-- VSUB (R308): VSUB subtracts 16-bit lanes with wrap or saturation. -/
  | vsub (core : BitVec 6) (vd va vb : BitVec 4) (sat last : Bool)
  /-- VAND (R321): VAND ands two vector registers. -/
  | vand (core : BitVec 6) (vd va vb : BitVec 4) (last : Bool)
  /-- VOR (R321): VOR ors two vector registers. -/
  | vor (core : BitVec 6) (vd va vb : BitVec 4) (last : Bool)
  /-- VXOR (R321): VXOR exclusive-ors two vector registers. -/
  | vxor (core : BitVec 6) (vd va vb : BitVec 4) (last : Bool)
  /-- VSHL (R321): VSHL shifts vector lanes left. -/
  | vshl (core : BitVec 6) (vd va : BitVec 4) (sh : BitVec 5) (sat last : Bool)
  /-- VSHR (R308): VSHR shifts vector lanes right arithmetically. -/
  | vshr (core : BitVec 6) (vd va : BitVec 4) (sh : BitVec 5) (sat last : Bool)
  /-- VMAX (R321): VMAX takes lane-wise maxima. -/
  | vmax (core : BitVec 6) (vd va vb : BitVec 4) (last : Bool)
  /-- VMIN (R321): VMIN takes lane-wise minima. -/
  | vmin (core : BitVec 6) (vd va vb : BitVec 4) (last : Bool)
  /-- VABS (R321): VABS takes lane-wise absolute values. -/
  | vabs (core : BitVec 6) (vd va : BitVec 4) (sat last : Bool)
  /-- VNEG (R321): VNEG negates lanes. -/
  | vneg (core : BitVec 6) (vd va : BitVec 4) (sat last : Bool)
  /-- VADDW (R321): VADDW adds wide accumulator pairs. -/
  | vaddw (core : BitVec 6) (vd va vb : BitVec 4) (sat last : Bool)
  /-- VSUBW (R321): VSUBW subtracts wide accumulator pairs. -/
  | vsubw (core : BitVec 6) (vd va vb : BitVec 4) (sat last : Bool)
  /-- VMUL (R308): VMUL multiplies 16-bit lanes, shifts and narrows to 16 bits. -/
  | vmul (core : BitVec 6) (vd va vb : BitVec 4) (sh : BitVec 5) (sat last : Bool)
  /-- VMAC (R308): VMAC multiply-accumulates into 16-bit lanes. -/
  | vmac (core : BitVec 6) (vd va vb : BitVec 4) (sh : BitVec 5) (sat last : Bool)
  /-- VMACW (R308): VMACW multiply-accumulates into a 32-bit wide pair. -/
  | vmacw (core : BitVec 6) (vd va vb : BitVec 4) (sh : BitVec 5) (sat last : Bool)
  /-- VCMUL (R308): VCMUL multiplies complex lanes, optionally conjugated, to 16 bits. -/
  | vcmul (core : BitVec 6) (vd va vb : BitVec 4) (sh : BitVec 5) (sat conj last : Bool)
  /-- VCMAC (R308): VCMAC multiply-accumulates complex lanes into 16-bit parts. -/
  | vcmac (core : BitVec 6) (vd va vb : BitVec 4) (sh : BitVec 5) (sat conj last : Bool)
  /-- VCMACW (R308): VCMACW multiply-accumulates complex lanes into a wide pair. -/
  | vcmacw (core : BitVec 6) (vd va vb : BitVec 4) (sh : BitVec 5) (sat conj last : Bool)
  /-- VMOV (R321): VMOV copies a vector register. -/
  | vmov (core : BitVec 6) (vd va : BitVec 4) (last : Bool)
  /-- VBCAST (R320): VBCAST broadcasts a G register into vector lanes. -/
  | vbcast (core : BitVec 6) (vd : BitVec 4) (ga : BitVec 5) (last : Bool)
  /-- VPERM (R321): VPERM permutes lanes by indices from another vector. -/
  | vperm (core : BitVec 6) (vd va vb : BitVec 4) (last : Bool)
  /-- VNRW (R308): VNRW shifts wide pair lanes right and narrows them to 16 bits. -/
  | vnrw (core : BitVec 6) (vd va : BitVec 4) (sh : BitVec 5) (sat last : Bool)
  /-- VZERO (R321): VZERO clears a vector register. -/
  | vzero (core : BitVec 6) (vd : BitVec 4) (last : Bool)
  /-- INTERRUPT_ENTRY (R316): An enabled event is pending and the core takes an interrupt at the next eligible bundle boundary. -/
  | interruptEntry (core : BitVec 6)
  /-- TCMP (R319): The core's time snapshot reaches TCMP and the TCMP event is set. -/
  | tcmp (core : BitVec 6)
  /-- COMPLETION_ENTRY (R324): A port completion for a core is written to its completion ring once there is room. -/
  | completionEntry (core : BitVec 6)
  /-- WATCHDOG (R326): WDOG has not been written for wdog_us and the core faults with WATCHDOG. -/
  | watchdog (core : BitVec 6)
  /-- CORE_RESTART (R326): Firmware reloads and restarts a faulted core within 2 ms, unless it faulted three times in 1 s. -/
  | coreRestart (core : BitVec 6)
  /-- L1_IMAGE_LOAD (R327): Firmware checks each L1 image and loads it onto the cores of its mask and starts them. -/
  | l1ImageLoad (idx : BitVec 3)
  /-- ROE_RX_PACKET (R332): An IEEE 1914.3 receive packet of a stream arrives and is accepted or discarded. -/
  | roeRxPacket (stream : BitVec 4) (sfn : BitVec 10) (seq : BitVec 16) (native : Bool) (samples : List (BitVec 32))
  /-- TX_PACKET (R333): A stream's transmit packet is sent at its air time minus the lead, with zeros on underrun. -/
  | txPacket (stream : BitVec 4) (sfn : BitVec 10) (seq : BitVec 16) (ready : Bool)
  /-- RX_SYMBOL (R337): A split-8 symbol's samples are processed by FFT and written to the IQ buffer with a completion entry. -/
  | rxSymbol (stream : BitVec 4) (sfn : BitVec 10) (slot : BitVec 7) (sym : BitVec 4)
  /-- MASK_BLOCK (R338): A 1,024-sample transmit block is measured against the spectral mask and a violation may be decided. -/
  | maskBlock (stream : BitVec 4) (powers : List (BitVec 16))
  /-- UNMUTE (R339): Writing unmute ends a stream's mute from the next packet. -/
  | unmute (stream : BitVec 4)
  /-- CHIRP_DETECT (R343): A chirp preamble, mark and turns are detected on a channel and AFC and a demodulator start. -/
  | chirpDetect (channel : BitVec 6) (sf : BitVec 4) (hit : ChirpHit)
  /-- PACKET_END (R346): A chirp packet ends by length or fading and its record is written to the receive ring. -/
  | packetEnd (channel : BitVec 6) (sf : BitVec 4) (pkt : ChirpRec) (room : Nat)
  /-- NOISE_FLOOR (R347): Every 10 ms each chirp channel blends its idle power into noise_floor. -/
  | noiseFloor (channel : BitVec 6) (idle : Option (BitVec 16))
  /-- CHIRP_TX_RING_READ (R348): Every 100 µs the chirp engine reads its transmit request ring and schedules or rejects entries. -/
  | chirpTxRingRead (tail : BitVec 16)
  /-- CHIRP_TX_DONE (R348): A chirp transmission ends and a completion entry is sent to the owning core. -/
  | chirpTxDone (channel : BitVec 6) (tag : BitVec 16)
  /-- NUM_VFS (R397): A write of NumVFs enables or disables VFs, or is discarded above TotalVFs. -/
  | numVfs (n : BitVec 16)
  /-- STOP (R407): Writing VF_CTL.stop = 1 moves an ACTIVE VF to QUIESCING. -/
  | stop (fn : Fin 513)
  /-- STOP_CLEAR (R406): Writing VF_CTL.stop = 0 returns a quiescing or quiesced VF to ACTIVE. -/
  | stopClear (fn : Fin 513)
  /-- QUIESCED (R407): A quiescing VF has no steps or collectives in flight and becomes QUIESCED. -/
  | quiesced (fn : Fin 513)
  /-- RESET (R410): Writing VF_CTL.reset resets a QUIESCED VF and writes its report. -/
  | reset (fn : Fin 513)
  /-- FORCE_RESET (R409): Writing VF_CTL.force_reset squashes the VF's uncommitted work and starts the drain. -/
  | forceReset (fn : Fin 513)
  /-- FLR (R406): A PCIe FLR of a VF starts a forced reset. -/
  | flr (fn : Fin 513)
  /-- FORCED_RESET_DONE (R408): The drain and message lifetime end and the reset actions run, the report is written and the VF is ACTIVE. -/
  | forcedResetDone (fn : Fin 513)
  /-- FREEZE (R412): Writing VF_CTL.freeze moves the VF to FREEZING and brings its work to rest. -/
  | freeze (fn : Fin 513)
  /-- FROZEN (R412): A freezing VF has settled everything and saved its contexts and becomes FROZEN. -/
  | frozen (fn : Fin 513)
  /-- RESUME (R412): Writing VF_CTL.resume returns a FROZEN VF to ACTIVE. -/
  | resume (fn : Fin 513)
  /-- SAVE_LIVE (R414): A migration SAVE_LIVE writes a live image of the VF's lots and starts region tracking. -/
  | saveLive
  /-- SAVE_FINAL (R414): A migration SAVE_FINAL writes the frozen VF's state and changed regions. -/
  | saveFinal
  /-- RESTORE (R415): A migration RESTORE checks an image and loads it into a prepared target VF. -/
  | restore
  /-- MIGRATION_COMPLETE (R413): A migration operation ends, go clears and status and bytes are shown. -/
  | migrationComplete
  /-- TENANT_SAMPLE (R404): Every period_us each RUNNING step queue is sampled into its function's histograms. -/
  | tenantSample
  /-- TEN_SAMPLE_CLEAR (R404): Writing TEN_SAMPLE.clear zeroes every tenant histogram. -/
  | tenSampleClear
  /-- MR_EXTEND (R424): Setting SEC_MR_EXTEND.go extends MR5–MR7 or is refused for MR0–MR4. -/
  | mrExtend
  /-- ATTEST (R425): Setting SEC_ATTEST.go starts gathering an attestation report for a function. -/
  | attest
  /-- ATTESTATION_REPORT (R425): The signed attestation report is written and status is set. -/
  | attestationReport
  /-- KEY_DELIVERY (R426): Setting SEC_KEY.go starts decrypting a tenant key delivery blob. -/
  | keyDelivery
  /-- KEY_INSTALL (R426): The decrypted keys are installed in the VF's slot in one indivisible step, or refused. -/
  | keyInstall
  /-- DEBUG_CHALLENGE (R430): Setting SEC_DEBUG.new draws a new debug challenge and voids the old one. -/
  | debugChallenge
  /-- DEBUG_TOKEN (R430): Setting SEC_DEBUG.submit checks a debug token, extends MR4 and raises the debug level. -/
  | debugToken
  /-- SVN_COMMIT (R423): Setting SEC_SVN_COMMIT.go raises the svn minimums and writes both record banks. -/
  | svnCommit (ok1 ok2 ok3 ok4 : Bool)
  /-- RESET_N_ASSERT (R500): RESET_N held low for 10 µs stops every unit and clears TRIPPED. -/
  | resetNAssert
  /-- RESET_N_RELEASE (R500): RESET_N rises and the start sequence begins once conversion runs. -/
  | resetNRelease
  /-- FIRMWARE_VERIFY (R438): The boot ROM verifies a firmware slot, falling back to the other slot. -/
  | firmwareVerify
  /-- IDENTITY_DERIVE (R419): Firmware reconstructs the PUF secret and derives the device key pair and ID. -/
  | identityDerive
  /-- GRADE_RECORD_VERIFY (R2): Firmware verifies the grade record and loads CAPS, or starts restricted. -/
  | gradeRecordVerify (grade : GradeRec)
  /-- IMAGE_VERIFY (R443): Firmware streams and verifies the configuration image and loads its sections. -/
  | imageVerify (a b : Sections)
  /-- FUNCTION_READY (R432): A function's bring-up completes and it reports READY or FAILED. -/
  | functionReady (idx : BitVec 8) (fail : Option Status) (aux : Nat)
  /-- SURVEY_MEASUREMENT (R441): A Survey item completes, is stored and compared with the previous start. -/
  | surveyMeasurement (item : SurveyItem)
  /-- COOLING_STEP (R442): The cooling step response runs and the thermal model is fitted. -/
  | coolingStep (kd tau theta : BitVec 16)
  /-- CONFIGURATION_LOCK (R446): Configuration lock is taken, RWL fields freeze, lots are assigned and VFs are enabled. -/
  | configurationLock (manager : Bool)
  /-- CFG_COMMIT (R448): Setting CFG_COMMIT.go snapshots a staged group and assigns a token, or refuses it. -/
  | cfgCommit
  /-- STAGED_APPLY (R448): A block applies a committed snapshot at its boundary after its checks and CRC. -/
  | stagedApply (kind : BitVec 4) (damaged : Bool)
  /-- NVM_READ (R437): A CFG_NVM READ copies an NVM range into the buffer. -/
  | nvmRead
  /-- NVM_ERASE (R437): A CFG_NVM ERASE erases sectors of an allowed region. -/
  | nvmErase
  /-- NVM_PROGRAM (R437): A CFG_NVM PROGRAM writes an allowed region, verifying a grade record first. -/
  | nvmProgram
  /-- READY_NEXT (R439): A write of READY_NEXT selects slots for the next start and writes the persistent record. -/
  | readyNext (fw img ok1 ok2 : Bool)
  /-- READY_RESTART (R439): Writing 0x5A5A_A5A5 to READY_RESTART restarts the device as RESET_N would. -/
  | readyRestart (key : BitVec 32)
  /-- PERSISTENT_RECORD_WRITE (R453): The device erases, programs and reads back the losing persistent record bank. -/
  | persistentRecordWrite (ok1 ok2 : Bool)
  /-- CONVERSION_START (R457): The input has been at or above 42 V for 10 ms and conversion starts. -/
  | conversionStart
  /-- INPUT_LOSS (R463): The input leaves 38–62 V for 20 µs and the hold-up sequence starts. -/
  | inputLoss (high : Bool)
  /-- HOLDUP_DISCHARGE (R463): The hold-up record write ends or 800 ms pass and the store is discharged. -/
  | holdupDischarge
  /-- HOLD_READY (R462): The hold-up store reaches V_target and hold_ready is set. -/
  | holdReady (capUf : BitVec 16)
  /-- POWER_MEASURE (R459): Every 10 µs input power is measured into the 20 ms and 1 s means. -/
  | powerMeasure (mv w : BitVec 16) (cables : List (BitVec 16 × Bool))
  /-- PACE_UPDATE (R460): Every 100 µs the power limiter sets the pace of tenant benches. -/
  | paceUpdate (p : BitVec 4)
  /-- LADDER_REQUEST (R461): Pace has been 15 for 1 ms with R459 at risk and the loop is asked for the next rung. -/
  | ladderRequest
  /-- TRIP (R473): A thermal or overpower condition holds for 1 ms and the device trips and stops its units. -/
  | trip (cause : TripCause)
  /-- PWM_WATCHDOG (R468): The loop writes no PWM value for 50 ms and every output goes to 255. -/
  | pwmWatchdog
  /-- CABLE_FAULT_TRIP (R465): A limiting cable port's delivered energy reaches fault_mj and it turns off, latching FAULT on the third trip. -/
  | cableFaultTrip (port : BitVec 4)
  /-- CABLE_RETRY (R465): One second after a trip the cable port turns on again. -/
  | cableRetry (port : BitVec 4)
  /-- CABLE_PROBE (R466): An ABSENT cable port is probed again every 1 s and powered when a load is found. -/
  | cableProbe (port : BitVec 4) (probe : CableProbe)
  /-- CABLE_CLEAR (R465): Writing CABLE.clear leaves FAULT and probes the port again. -/
  | cableClear (port : BitVec 4) (probe : CableProbe)
  /-- BAND_HOLD (R474): Setting THERM_BAND.go starts holding the die in a temperature band. -/
  | bandHold
  /-- BAND_STOP (R474): Setting THERM_BAND.stop ends the band hold. -/
  | bandStop
  /-- BAND_END (R474): The band hold duration elapses and the hold ends. -/
  | bandEnd
  /-- HEARTBEAT_PERIOD (R477): Every hb_ms firmware sends a HEARTBEAT datagram on each management port. -/
  | heartbeatPeriod
  /-- HEARTBEAT (R478): A HEARTBEAT datagram from a domain member arrives and its liveness bit is set. -/
  | heartbeat (port : Bool) (d : Datagram)
  /-- LOSS_DATAGRAM (R478): A LOSS datagram arrives and both of its sender's management bits clear. -/
  | lossDatagram (port : Bool) (d : Datagram)
  /-- TRIP_DATAGRAM (R478): A TRIP datagram arrives and both of its sender's management bits clear. -/
  | tripDatagram (port : Bool) (d : Datagram)
  /-- RESTARTED (R478): A RESTARTED datagram arrives and the sender's new incarnation is recorded. -/
  | restarted (port : Bool) (d : Datagram)
  /-- LIVENESS_TIMEOUT (R478): No datagram from a member arrives on a port within dead_ms and its bit clears. -/
  | livenessTimeout (port : Bool) (node : BitVec 10)
  /-- EXPEL (R482): HEALTH_LIST_CMD op EXPEL puts a suspect with evidence in the spoil list, or in watch when the budget is spent. -/
  | expel (node : BitVec 10)
  /-- DEAD (R479): HEALTH_LIST_CMD op DEAD confirms a lost node, settles its class S operations and spoils it. -/
  | dead (node : BitVec 10)
  /-- WATCH (R482): HEALTH_LIST_CMD op WATCH enters a suspect in the watch set. -/
  | watch (node : BitVec 10)
  /-- REMOVE (R482): HEALTH_LIST_CMD op REMOVE takes a node out of the spoil list or watch set. -/
  | remove (node : BitVec 10)
  /-- LIST_CHANGE (R483): A flooded health list change arrives and is applied in version order. -/
  | listChange (c : HChange)
  /-- EVIDENCE (R481): Setting HEALTH_EVIDENCE.go floods an ASSAY evidence record for a node. -/
  | evidence (node : BitVec 10)
  /-- EVIDENCE_RECORD (R481): A flooded evidence record arrives and is applied and stored. -/
  | evidenceRecord (e : Evidence)
  /-- EVIDENCE_EXPIRY (R481): An evidence record reaches window_h hours old and expires. -/
  | evidenceExpiry
  /-- SCORE_DECAY (R480): Every decay_s every straggler score loses an eighth and suspect state may clear. -/
  | scoreDecay
  /-- SHADOW_COMPARE (R485): A watched device's shadow run finishes and its assay is compared with the primary's. -/
  | shadowCompare (cid : Nat) (bench : BitVec 5) (assay : BitVec 64) (third : Option (BitVec 5 × BitVec 64))
  /-- SHADOW_TIMEOUT (R485): No shadow bench is free within 1 ms and the selected command commits unchecked. -/
  | shadowTimeout (cid : Nat)
  /-- PROVING_RUN (R487): A proving pattern starts on an idle bench or engine in an idle window. -/
  | provingRun (unit : BitVec 6) (engine : Bool) (pattern : BitVec 3) (load : BitVec 2)
  /-- PROVING_RESULT (R488): A proving run ends and a failure quarantines the bench or engine and floods evidence. -/
  | provingResult (unit : BitVec 6) (engine pass inBand : Bool)
  /-- PROVING_PERIOD (R487): An idle_period_s ends without proving every unit and missed is counted. -/
  | provingPeriod
  /-- SWEEP (R487): Setting HEALTH_PROVE.go runs every selected pattern and load on idle benches and engines. -/
  | sweep
  /-- QUARANTINE_RELEASE (R488): A write to HEALTH_QUAR.release marks benches to be released and proved at the next start. -/
  | quarantineRelease (mask : BitVec 32)
  /-- ETHERNET_LINK_STATE (R284): An Ethernet link on a fronthaul sub-port, management port or ETHERNET-mode outer port comes up or goes down. -/
  | ethernetLinkState (port : EthPort) (up : Bool)
  /-- PLL_LOCK_LOSS (R277): The root, SerDes or UCIe PLL loses lock and TIME_CLK_STATUS.lock_lost sets and HEALTH time cause is raised. -/
  | pllLockLoss (pll : PllKind)
  /-- PTP_MESSAGE_INTERVAL (R264): At the profile's message rate the device sends its own Sync, Announce or Delay_Req messages as a T-BC or T-TSC. -/
  | ptpMessageInterval (q : BitVec 4) (kind : PtpKind)
  /-- MEMBER_LOST_TIMEOUT (R249): A member awaiting a descriptor, count, chunk or acknowledgement from m hears nothing, or not that item, for dead_us and completes with COLL_MEMBER_LOST or FABRIC_TIMEOUT. -/
  | memberLostTimeout (cid : Nat) (rank : BitVec 10)
  /-- WAKE_COMPLETE (R382): A waking bench's wake time w_s ends and the bench becomes ACTIVE, so work waiting for it can be dispatched. -/
  | wakeComplete (bench : BitVec 5)
  /-- ILLEGAL_OPCODE (R321): A Chisel core issues a slot with a reserved group, op or field and faults with ILLEGAL. -/
  | illegalOpcode (core : BitVec 6) (slot : BitVec 2) (word : BitVec 32)
  deriving DecidableEq, Repr

end Sys2Proof
end

