-- ==== Sys2Proof/Decode.lean ====
section
/-! DEFINITION. The decoder the host asks about. No row of the table of operations and events gives bits: the block takes
commands, not words, so no word spells one. -/

namespace Sys2Proof

/-- The command a word of `nbits` bits spells: none, since the table gives no row any bits. -/
def decodeTableWord (_nbits _w : Nat) : Option Instr := none

end Sys2Proof
end

