-- ==== Sys2Proof/Machine/Maps.lean ====
section
/-! DEFINITION. Sparse maps (lists of key and value, keys rising) and bit fields of numbers: the plain data every part of the state is made of. -/

namespace Sys2Proof.Machine

/-- A sparse map: key and value pairs, keys strictly rising when built by `mapSet`. -/
abbrev SMap (α : Type) := List (Nat × α)

/-- The value stored under a key, if any. -/
def mapFind {α : Type} (m : SMap α) (k : Nat) : Option α :=
  match m with
  | [] => none
  | (j, v) :: t => if j = k then some v else mapFind t k

/-- The value stored under a key, or the value an unlisted key reads as. -/
def mapGet {α : Type} (m : SMap α) (k : Nat) (d : α) : α := (mapFind m k).getD d

/-- Store a value under a key, keeping the keys in rising order. -/
def mapSet {α : Type} (m : SMap α) (k : Nat) (v : α) : SMap α :=
  match m with
  | [] => [(k, v)]
  | (j, w) :: t =>
    if k < j then (k, v) :: (j, w) :: t
    else if j = k then (k, v) :: t
    else (j, w) :: mapSet t k v

/-- Forget a key. -/
def mapErase {α : Type} (m : SMap α) (k : Nat) : SMap α := m.filter (fun e => e.1 ≠ k)

/-- Store a value, listing nothing where it is what an unlisted key reads as. -/
def mapPut {α : Type} [DecidableEq α] (m : SMap α) (k : Nat) (v d : α) : SMap α :=
  if v = d then mapErase m k else mapSet m k v

/-- Change the value stored under a key by a function, starting from the default. -/
def mapMod {α : Type} (m : SMap α) (k : Nat) (d : α) (g : α → α) : SMap α :=
  mapSet m k (g (mapGet m k d))

/-- Keys whose entries satisfy a test. -/
def mapKeys {α : Type} (m : SMap α) (p : Nat → α → Bool) : List Nat :=
  (m.filter (fun e => p e.1 e.2)).map (·.1)

/-- Apply a function to every value. -/
def mapVals {α : Type} (m : SMap α) (g : Nat → α → α) : SMap α := m.map (fun e => (e.1, g e.1 e.2))

/-- Bits `[lo + len - 1 : lo]` of a number. -/
def bitsOf (w lo len : Nat) : Nat := w / 2 ^ lo % 2 ^ len

/-- Bit `i` of a number. -/
def bitOf (w i : Nat) : Bool := bitsOf w i 1 == 1

/-- A field of `len` bits read as a two's complement integer. -/
def signedOf (v len : Nat) : Int :=
  if v % 2 ^ len < 2 ^ (len - 1) then (v % 2 ^ len : Nat) else (v % 2 ^ len : Nat) - (2 ^ len : Nat)

/-- The two's complement code of an integer in `len` bits. -/
def codeOf (v : Int) (len : Nat) : Nat := (v % (2 ^ len : Nat)).toNat

/-- Replace bits `[lo + len - 1 : lo]` of a number. -/
def bitsSet (w lo len v : Nat) : Nat :=
  w - bitsOf w lo len * 2 ^ lo + (v % 2 ^ len) * 2 ^ lo

/-- The number a little-endian byte list holds (R11). -/
def leNat (bs : List Byte) : Nat :=
  match bs with
  | [] => 0
  | b :: t => b.toNat + 256 * leNat t

/-- The `n` little-endian bytes of a number (R11). -/
def leBytes (n v : Nat) : List Byte :=
  match n with
  | 0 => []
  | k + 1 => BitVec.ofNat 8 v :: leBytes k (v / 256)

/-- The number of one bits among the low `n` bits. -/
def popCount (n w : Nat) : Nat := ((List.range n).filter (fun i => bitOf w i)).length

/-- The indices below `n` whose bit is set. -/
def bitList (n w : Nat) : List Nat := (List.range n).filter (fun i => bitOf w i)

/-- The number whose set bits are the listed indices. -/
def ofBitList (is : List Nat) : Nat := (is.eraseDups.map (fun i => 2 ^ i)).sum

/-- Put an element into a list ordered by a test, after the elements it does not precede. -/
def insertBy {α : Type} (lt : α → α → Bool) (x : α) (l : List α) : List α :=
  match l with
  | [] => [x]
  | y :: t => if lt x y then x :: y :: t else y :: insertBy lt x t

/-- Order a list by a test. -/
def sortBy {α : Type} (lt : α → α → Bool) (l : List α) : List α := l.foldl (fun acc x => insertBy lt x acc) []

/-- Division rounded up. -/
def cdiv (a b : Nat) : Nat := (a + b - 1) / b

/-- A value held at a ceiling: how the spec's saturating counters stop. -/
def satAt (w v : Nat) : Nat := min v (2 ^ w - 1)

/-- The parameters that spell a natural number of a Boolean bit. -/
def bit01 (b : Bool) : Nat := if b then 1 else 0

end Sys2Proof.Machine
end

