-- ==== Sys2Proof/Machine/Crypto.lean ====
section
/-! DEFINITION. The check codes and ciphers the spec names: CRC-64 of R144, CRC-32C (R200, R450), SM4 (GB/T 32907) with its XTS
construction (R158, R414), and SM3 (GB/T 32905). SM4, SM3, XTS and CRC-32C come from the standards the spec names (PRESUMED). -/

namespace Sys2Proof.Machine

/-! ### CRC -/

/-- `n` shifts of a reflected CRC register. -/
def crcShift {w : Nat} (poly : BitVec w) (n : Nat) (c : BitVec w) : BitVec w :=
  match n with
  | 0 => c
  | k + 1 => crcShift poly k (if c.getLsbD 0 then (c >>> 1) ^^^ poly else c >>> 1)

/-- CRC-64 register after a byte list: ECMA-182 polynomial, reflected (R144). -/
def crc64Run (c : BitVec 64) (bs : List Byte) : BitVec 64 :=
  match bs with
  | [] => c
  | b :: t => crc64Run (crcShift 0xC96C5795D7870F42#64 8 (c ^^^ b.zeroExtend 64)) t

/-- The assay of a byte sequence (R144). -/
def crc64 (bs : List Byte) : Nat := (crc64Run 0xFFFFFFFFFFFFFFFF#64 bs ^^^ 0xFFFFFFFFFFFFFFFF#64).toNat

/-- CRC-32C register after a byte list. -/
def crc32cRun (c : BitVec 32) (bs : List Byte) : BitVec 32 :=
  match bs with
  | [] => c
  | b :: t => crc32cRun (crcShift 0x82F63B78#32 8 (c ^^^ b.zeroExtend 32)) t

/-- CRC-32C of a byte sequence (the end-to-end check of R200, the snapshot check of R450). -/
def crc32c (bs : List Byte) : Nat := (crc32cRun 0xFFFFFFFF#32 bs ^^^ 0xFFFFFFFF#32).toNat

/-! ### SM4 -/

/-- The SM4 substitution box, entry x in bits [8x + 7 : 8x]. -/
def sm4Box : Nat :=
  0x4839CBD73E5FEE79204DDC3AEC7DF01884C66EC509F1B9657E77960C4A976989B0B4E5B812D0742DBD7BCDA58831C10AD85A101F415CD9117FBCDDBB92AF1B8D515B6C6D726AFF032F8EFDDE4537DBD56F4E530DAB2329C060CA66822EE2F61DE3B18CF5303293AD551A349BA45DAEE0A11561F9CEF2F7A3B538C740D28ABFEA9EC8C4A0E702364C5227D39F574600D4877821013B7C2225A2D158635E0E241E359D56704B0FEBF88BDA6471B2816B68A84F85E6193C5983BA1773F3FCA70747A63F8F75FA94DF8095E808C9A91CB3E462ACCFED430B54337A98EF91F450429C99068649261344AAC304BE2A769A672B052CFB28C214B616B73DE1CCFEE990D6

/-- Substitution of the four bytes of a word. -/
def sm4Tau (x : BitVec 32) : BitVec 32 :=
  let s (i : Nat) : Nat := sm4Box >>> (8 * ((x >>> (8 * i)).toNat % 256)) % 256
  BitVec.ofNat 32 (s 0 + 256 * s 1 + 65536 * s 2 + 16777216 * s 3)

/-- The round transformation T. -/
def sm4T (x : BitVec 32) : BitVec 32 :=
  let b := sm4Tau x
  b ^^^ b.rotateLeft 2 ^^^ b.rotateLeft 10 ^^^ b.rotateLeft 18 ^^^ b.rotateLeft 24

/-- The key schedule transformation T'. -/
def sm4T' (x : BitVec 32) : BitVec 32 :=
  let b := sm4Tau x
  b ^^^ b.rotateLeft 13 ^^^ b.rotateLeft 23

/-- The key schedule constant CK_i: bytes (4i + j) × 7 mod 256. -/
def sm4Ck (i : Nat) : BitVec 32 :=
  BitVec.ofNat 32 ((28 * i) % 256 * 16777216 + (28 * i + 7) % 256 * 65536 + (28 * i + 14) % 256 * 256 + (28 * i + 21) % 256)

/-- Four words, as the cipher keeps them. -/
structure Quad where
  w0 : BitVec 32
  w1 : BitVec 32
  w2 : BitVec 32
  w3 : BitVec 32
  deriving DecidableEq, Repr

/-- The big-endian words of sixteen bytes. -/
def quadOf (bs : List Byte) : Quad :=
  let n := leNat ((bs.take 16).reverse)
  ⟨BitVec.ofNat 32 (bitsOf n 96 32), BitVec.ofNat 32 (bitsOf n 64 32), BitVec.ofNat 32 (bitsOf n 32 32), BitVec.ofNat 32 (bitsOf n 0 32)⟩

/-- The sixteen bytes of four big-endian words. -/
def quadBytes (q : Quad) : List Byte :=
  (leBytes 16 (q.w0.toNat * 2 ^ 96 + q.w1.toNat * 2 ^ 64 + q.w2.toNat * 2 ^ 32 + q.w3.toNat)).reverse

/-- The key schedule from round i on, n rounds. -/
def sm4Keys (n i : Nat) (k : Quad) : List (BitVec 32) :=
  match n with
  | 0 => []
  | m + 1 =>
    let r := k.w0 ^^^ sm4T' (k.w1 ^^^ k.w2 ^^^ k.w3 ^^^ sm4Ck i)
    r :: sm4Keys m (i + 1) ⟨k.w1, k.w2, k.w3, r⟩

/-- The rounds of the cipher. -/
def sm4Rounds (ks : List (BitVec 32)) (x : Quad) : Quad :=
  match ks with
  | [] => ⟨x.w3, x.w2, x.w1, x.w0⟩
  | r :: t => sm4Rounds t ⟨x.w1, x.w2, x.w3, x.w0 ^^^ sm4T (x.w1 ^^^ x.w2 ^^^ x.w3 ^^^ r)⟩

/-- Round keys of a sixteen-byte key. -/
def sm4Schedule (key : List Byte) : List (BitVec 32) :=
  let k := quadOf key
  sm4Keys 32 0 ⟨k.w0 ^^^ 0xA3B1BAC6#32, k.w1 ^^^ 0x56AA3350#32, k.w2 ^^^ 0x677D9197#32, k.w3 ^^^ 0xB27022DC#32⟩

/-- SM4 encryption of a sixteen-byte block. -/
def sm4Enc (key blk : List Byte) : List Byte := quadBytes (sm4Rounds (sm4Schedule key) (quadOf blk))

/-- SM4 decryption of a sixteen-byte block. -/
def sm4Dec (key blk : List Byte) : List Byte := quadBytes (sm4Rounds (sm4Schedule key).reverse (quadOf blk))

/-- Multiplication of an XTS tweak by α: the 128-bit little-endian number doubled in GF(2^128). -/
def xtsDouble (t : Nat) : Nat :=
  if t / 2 ^ 127 % 2 = 1 then (2 * t % 2 ^ 128) ^^^ 0x87 else 2 * t % 2 ^ 128

/-- Bytes of two lists combined bit by bit. -/
def xorBytes (a b : List Byte) : List Byte := List.zipWith (· ^^^ ·) a b

/-- The blocks of an XTS data unit from tweak value t on, with the block cipher given. -/
def xtsBlocks (blockFn : List Byte → List Byte) (t : Nat) (n : Nat) (bs : List Byte) : List Byte :=
  match n with
  | 0 => []
  | k + 1 =>
    let tb := leBytes 16 t
    xorBytes (blockFn (xorBytes (bs.take 16) tb)) tb ++ xtsBlocks blockFn (xtsDouble t) k (bs.drop 16)

/-- XTS encryption of one 64-byte line under a 32-byte key pair with a tweak number (R158). -/
def xtsEnc (key : List Byte) (tweak : Nat) (line : List Byte) : List Byte :=
  xtsBlocks (sm4Enc (key.take 16)) (leNat (sm4Enc (key.drop 16) (leBytes 16 tweak))) 4 line

/-- XTS decryption of one 64-byte line. -/
def xtsDec (key : List Byte) (tweak : Nat) (line : List Byte) : List Byte :=
  xtsBlocks (sm4Dec (key.take 16)) (leNat (sm4Enc (key.drop 16) (leBytes 16 tweak))) 4 line

/-- XTS over consecutive 64-byte lines, line index as tweak. -/
def xtsLines (enc : Bool) (key : List Byte) (i n : Nat) (bs : List Byte) : List Byte :=
  match n with
  | 0 => []
  | k + 1 => (if enc then xtsEnc key i (bs.take 64) else xtsDec key i (bs.take 64)) ++ xtsLines enc key (i + 1) k (bs.drop 64)

/-! ### SM3 -/

/-- The chaining value of SM3: eight words. -/
structure Sm3St where
  a : BitVec 32
  b : BitVec 32
  c : BitVec 32
  d : BitVec 32
  e : BitVec 32
  f : BitVec 32
  g : BitVec 32
  h : BitVec 32
  deriving DecidableEq, Repr

/-- The expanded message words, newest first: n further words after those given. -/
def sm3Expand (n : Nat) (w : List (BitVec 32)) : List (BitVec 32) :=
  match n with
  | 0 => w
  | k + 1 =>
    let at_ (i : Nat) : BitVec 32 := (w[i - 1]?).getD 0
    let x := at_ 16 ^^^ at_ 9 ^^^ (at_ 3).rotateLeft 15
    let p1 := x ^^^ x.rotateLeft 15 ^^^ x.rotateLeft 23
    sm3Expand k ((p1 ^^^ (at_ 13).rotateLeft 7 ^^^ at_ 6) :: w)

/-- The rounds of the compression function from round j on, over the expanded words. -/
def sm3Rounds (n j : Nat) (w : List (BitVec 32)) (s : Sm3St) : Sm3St :=
  match n with
  | 0 => s
  | k + 1 =>
    let tj : BitVec 32 := if j < 16 then 0x79CC4519#32 else 0x7A879D8A#32
    let a12 := s.a.rotateLeft 12
    let ss1 := (a12 + s.e + tj.rotateLeft (j % 32)).rotateLeft 7
    let ss2 := ss1 ^^^ a12
    let ff := if j < 16 then s.a ^^^ s.b ^^^ s.c else (s.a &&& s.b) ||| (s.a &&& s.c) ||| (s.b &&& s.c)
    let gg := if j < 16 then s.e ^^^ s.f ^^^ s.g else (s.e &&& s.f) ||| (~~~s.e &&& s.g)
    let wj := (w[j]?).getD 0
    let wj4 := (w[j + 4]?).getD 0
    let tt1 := ff + s.d + ss2 + (wj ^^^ wj4)
    let tt2 := gg + s.h + ss1 + wj
    sm3Rounds k (j + 1) w
      ⟨tt1, s.a, s.b.rotateLeft 9, s.c, tt2 ^^^ tt2.rotateLeft 9 ^^^ tt2.rotateLeft 17, s.e, s.f.rotateLeft 19, s.g⟩

/-- The big-endian words of a block. -/
def sm3Words (n : Nat) (bs : List Byte) : List (BitVec 32) :=
  match n with
  | 0 => []
  | k + 1 => BitVec.ofNat 32 (leNat (bs.take 4).reverse) :: sm3Words k (bs.drop 4)

/-- The compression of one 64-byte block. -/
def sm3Block (s : Sm3St) (blk : List Byte) : Sm3St :=
  let w := (sm3Expand 52 (sm3Words 16 blk).reverse).reverse
  let r := sm3Rounds 64 0 w s
  ⟨r.a ^^^ s.a, r.b ^^^ s.b, r.c ^^^ s.c, r.d ^^^ s.d, r.e ^^^ s.e, r.f ^^^ s.f, r.g ^^^ s.g, r.h ^^^ s.h⟩

/-- The compression of `n` consecutive blocks. -/
def sm3Blocks (n : Nat) (s : Sm3St) (bs : List Byte) : Sm3St :=
  match n with
  | 0 => s
  | k + 1 => sm3Blocks k (sm3Block s (bs.take 64)) (bs.drop 64)

/-- The 32-byte SM3 digest of a byte sequence. -/
def sm3 (bs : List Byte) : List Byte :=
  let z := (119 - bs.length % 64) % 64
  let m := bs ++ [0x80#8] ++ List.replicate z 0#8 ++ (leBytes 8 (8 * bs.length)).reverse
  let r := sm3Blocks (m.length / 64)
    ⟨0x7380166F#32, 0x4914B2B9#32, 0x172442D7#32, 0xDA8A0600#32, 0xA96F30BC#32, 0x163138AA#32, 0xE38DEE4D#32, 0xB0FB0E4E#32⟩ m
  [r.a, r.b, r.c, r.d, r.e, r.f, r.g, r.h].flatMap (fun x => (leBytes 4 x.toNat).reverse)

/-- SM3 of a byte list, its digest as a little-endian number. -/
def sm3Nat (bs : List Byte) : Nat := leNat (sm3 bs)

end Sys2Proof.Machine
end

