-- ==== Sys2Proof/Config.lean ====
section
/-! DEFINITION. What the spec leaves open: free values (constants with no body, of which nothing can be proved) that the
meanings apply to the counter of fresh values or to their operands. Each is named in the assumption log. -/

namespace Sys2Proof.Config

/-- ARCH_VER.step_letter of this die (Table 00.2, "per die"). -/
opaque stepLetter : BitVec 4

/-- ARCH_VER.step_number of this die (Table 00.2, "per die"). -/
opaque stepNumber : BitVec 4

/-- Version of Dresser table group g (Table 04.5): 0 reciprocal, 1 exponential, 2 logarithm, 3 error function, 4 trigonometric. -/
opaque tableVer : Nat → BitVec 8

/-- Result bits of the Dresser function with MAP opcode `op` on FP32 bits `x` (R93): a fixed function of its input for a table
version; the spec gives error bounds, not bits. -/
opaque dresserFn : Nat → BitVec 32 → BitVec 32

/-- A draw of the device's entropy source: the n-th fresh value of the run (salts, keys, incarnations, nonces). -/
opaque entropy : Nat → Nat

/-- Bytes a decoder delivers when an error of six or more symbols escapes it (R161): line, draw, byte index. -/
opaque miscorrected : Nat → Nat → Nat → Byte

/-- Whether an error of six or more symbols escapes detection (R161). -/
opaque escapes : Nat → Nat → Bool

/-- Signal group of a line within its channel, one of six (R151 leaves the function open). -/
opaque lineGroup : Nat → Fin 6

/-- Router outputs that a packet passes between two stops (R16): the spec gives the route by stop positions and no position of any stop. Stops
are numbered in the order of Table 01.2. -/
opaque galleryRoute : Nat → Nat → List Nat

/-- Occupancy of a port's class T output queue, in percent of its buffer, when a message is put into it (R185, R191): draw, port. The spec gives
neither the buffer nor the traffic's timing. -/
opaque queueFill : Nat → Nat → Fin 101

/-- Queueing and forwarding time of a message at a router beyond the first quarter of a microsecond, in units of 0.25 us (R216): draw,
port. -/
opaque queueTime : Nat → Nat → Nat

/-- Five-bit code of a virtual channel in a credit flit (Table 07.2): R186 gives a row or column port 36 channels and no coding. -/
opaque vcCode : Nat → BitVec 5

/-- UDP source port of a flow (R223): the hash is not given. -/
opaque flowHash : Nat → BitVec 16

/-- Offset between the count of 10 ms frames of the time base and the SFN (chapter Radio gives none). -/
opaque sfnEpoch : Nat

/-- Bytes of a FAPI message group in the SCF layout (R289), which the spec names and does not give: a function of the message's fields. -/
opaque fapiGroup : List Nat → List Byte

/-- What a Sieve engine computes (R293-R295): coded or decoded bits and outcome of a descriptor and its input bits; the codes of TS 38.212
are not part of the spec. Argument 0 bits, 1 iterations, 2 block CRC passed, 3 syndrome satisfied. -/
opaque sieve : Nat → Nat → Nat → Nat

/-- One part of an FFT output of a split-8 symbol (R336): the spec bounds its error by 4 LSB and gives no bits. Arguments: the window's
samples as a number, the FFT's settings, the output index. -/
opaque fftPart : Nat → Nat → Nat → BitVec 16

/-- Sample of a split-8 stream at the internal rate, ahead of the transmit filter (R335): stream, index from the time base's origin. The
inverse transform has no bit-exact definition. -/
opaque txSample : Nat → Int → BitVec 32

/-- One part of a chirp transmission after ramp, synthesis bank and channel offset (R349), of which the spec gives no filter: the waveform
(phase and ramp position of a chip, none where nothing is sent); and spreading factor, attenuation, ramp, bandwidth code, offset,
time since the start in 1/16 us, and the part (0 I, 1 Q). -/
opaque chirpWave : (Int → Option (Int × Nat)) → List Int → Int

/-- The addend the servo chooses, as an offset in its permitted range (R263): the spec gives no servo. -/
opaque servo : Nat → Nat

/-- The better of two announced datasets under the profile's alternate best-master algorithm (R264), which the spec names and does not
give. -/
opaque bestMaster : Nat → Nat → Nat

/-- Whether a SyncE quality level is acceptable under an option of G.8262 (R266). -/
opaque synceOk : Nat → Nat → Bool

/-- A result of ordinary data that the spec does not state: the n-th such value. -/
opaque unstated : Nat → Nat

/-! ### SM2 and the identity (R418-R422): the standard's arithmetic over its curve is not part of the spec, which names it. Keys and
signatures are byte strings, held as numbers with byte 0 lowest. -/

/-- The private key that the PUF and its helper data give (R419), if reconstruction succeeds. -/
opaque pufKey : List Byte → Option Nat

/-- The public key of a private key. -/
opaque sm2Pub : Nat → BitVec 512

/-- Verification of a signature over a message under a public key. -/
opaque sm2Verify : BitVec 512 → List Byte → BitVec 512 → Bool

/-- A signature of a message by a private key, with the n-th draw. -/
opaque sm2Sign : Nat → List Byte → Nat → BitVec 512

/-- Decryption of a ciphertext C1 ‖ C3 ‖ C2 by a private key (R426). -/
opaque sm2Decrypt : Nat → List Byte → Option (List Byte)

/-- The four vendor key digests in the boot ROM (R422). -/
opaque vendorDigest : Nat → BitVec 256

/-- What the cooling loop predicts and what other firmware chooses in a cycle (R470, R471): draw, item. -/
opaque cooling : Nat → Nat → Int

end Sys2Proof.Config
end

