-- ==== Sys2Proof/Machine/Regs.lean ====
section
/-! DEFINITION. The PF0 BAR0 register map: one field descriptor for every named field of the spec's register tables (bit address
of its first instance, width, stride between instances in bits, instances, access code, reset value, range of values a write may
bring, and whether a row of the command table carries its writes). Reset values the spec gives as image, grade, start or record
are 0 here: the start commands load them (Table 00.2, R434, R475). -/

namespace Sys2Proof.Machine

/-- Access codes (R14, Table 00.3); `staged` is RW on the staging copy of a staged group. -/
inductive Acc where
  | ro | rw | rw1c | rws | wo | rwl | staged
  deriving DecidableEq, Repr

/-- A register field: where it lies and how it behaves. -/
structure Fld where
  base : Nat
  width : Nat
  stride : Nat
  count : Nat
  acc : Acc
  reset : Nat
  lo : Nat
  hi : Nat
  own : Bool
  deriving DecidableEq, Repr

/-- Key of instance `i` of a field: its bit address. -/
def fldKey (f : Fld) (i : Nat) : Nat := f.base + f.stride * i

namespace Reg

/-- ARCH_VER.generation (Table 00.2, R10): Orgal generation; 1 for PRN1. -/
def archVerGeneration : Fld := ⟨24, 8, 0, 1, .ro, 1, 0, 2 ^ 8 - 1, false⟩
/-- ARCH_VER.major (Table 00.2, R10): Architecture major version. -/
def archVerMajor : Fld := ⟨16, 8, 0, 1, .ro, 1, 0, 2 ^ 8 - 1, false⟩
/-- ARCH_VER.minor (Table 00.2, R10): Architecture minor version. -/
def archVerMinor : Fld := ⟨8, 8, 0, 1, .ro, 0, 0, 2 ^ 8 - 1, false⟩
/-- ARCH_VER.step_letter (Table 00.2, R10): Stepping letter: 0 = A, 1 = B, and so on. -/
def archVerStepLetter : Fld := ⟨4, 4, 0, 1, .ro, (Config.stepLetter).toNat, 0, 2 ^ 4 - 1, false⟩
/-- ARCH_VER.step_number (Table 00.2, R10): Stepping number. -/
def archVerStepNumber : Fld := ⟨0, 4, 0, 1, .ro, (Config.stepNumber).toNat, 0, 2 ^ 4 - 1, false⟩
/-- CAPS0.jeano_port_mask (Table 00.2, R10): Bit n set when Jeano port n is enabled: 0xFFFF on PRN1-A, -R and -I; 0xC387 on PRN1-E. -/
def caps0JeanoPortMask : Fld := ⟨144, 16, 0, 1, .ro, 0, 0, 2 ^ 16 - 1, false⟩
/-- CAPS0.dram_lots (Table 00.2, R10): Installed DRAM in 1 GiB lots: 384 or 256. -/
def caps0DramLots : Fld := ⟨134, 9, 0, 1, .ro, 0, 0, 2 ^ 9 - 1, false⟩
/-- CAPS0.bench_count (Table 00.2, R10): Enabled benches: 0–32. -/
def caps0BenchCount : Fld := ⟨128, 6, 0, 1, .ro, 0, 0, 2 ^ 6 - 1, false⟩
/-- CAPS1.radio_units (Table 00.2, R10): Admissible radio units: 0–384. -/
def caps1RadioUnits : Fld := ⟨176, 9, 0, 1, .ro, 0, 0, 2 ^ 9 - 1, false⟩
/-- CAPS1.chirp (Table 00.2, R10): Chirp engine present. -/
def caps1Chirp : Fld := ⟨174, 1, 0, 1, .ro, 0, 0, 2 ^ 1 - 1, false⟩
/-- CAPS1.tdfe (Table 00.2, R10): Time-domain front end present. -/
def caps1Tdfe : Fld := ⟨173, 1, 0, 1, .ro, 0, 0, 2 ^ 1 - 1, false⟩
/-- CAPS1.sieve (Table 00.2, R10): 0b00 none, 0b01 half, 0b10 full, 0b11 reserved. -/
def caps1Sieve : Fld := ⟨171, 2, 0, 1, .ro, 0, 0, 2 ^ 2 - 1, false⟩
/-- CAPS1.chisel_count (Table 00.2, R10): Enabled Chisel cores: 0–64. -/
def caps1ChiselCount : Fld := ⟨164, 7, 0, 1, .ro, 0, 0, 2 ^ 7 - 1, false⟩
/-- CAPS1.fronthaul_ports (Table 00.2, R10): Enabled 400GbE fronthaul ports: 0–8. -/
def caps1FronthaulPorts : Fld := ⟨160, 4, 0, 1, .ro, 0, 0, 2 ^ 4 - 1, false⟩
/-- DET_SIGNATURE.signature (Table 00.2, R10): Determinism signature; defined in Plumb mode and reproducibility. -/
def detSignatureSignature : Fld := ⟨256, 64, 0, 1, .ro, 0, 0, 2 ^ 64 - 1, false⟩
/-- PLUMB.plumb (Table 00.2, R10): Plumb mode, fixed by the configuration image until the next start. -/
def plumbPlumb : Fld := ⟨320, 1, 0, 1, .ro, 0, 0, 2 ^ 1 - 1, false⟩
/-- BENCH_ID.logical (Table 04.7, R109): Logical bench number, R5. -/
def benchIdLogical : Fld := ⟨16777216, 6, 524288, 32, .ro, 0, 0, 2 ^ 6 - 1, false⟩
/-- BENCH_ID.physical (Table 04.7, R109): Physical bench, 0–33. -/
def benchIdPhysical : Fld := ⟨16777224, 6, 524288, 32, .ro, 0, 0, 2 ^ 6 - 1, false⟩
/-- BENCH_STATE.pstate (Table 04.7, R109): 0 ACTIVE, 1 GATED, 2 RETAIN, 3 DARK. -/
def benchStatePstate : Fld := ⟨16777248, 2, 524288, 32, .ro, 3, 0, 2 ^ 2 - 1, false⟩
/-- BENCH_STATE.role (Table 04.7, R109): 0 idle, 1 tenant, 2 radio, 3 quarantined. -/
def benchStateRole : Fld := ⟨16777250, 2, 524288, 32, .ro, 0, 0, 2 ^ 2 - 1, false⟩
/-- BENCH_STATE.rotation (Table 04.7, R109): Bench is in radio rotation; radio lot reserved. -/
def benchStateRotation : Fld := ⟨16777252, 1, 524288, 32, .ro, 0, 0, 2 ^ 1 - 1, false⟩
/-- BENCH_STATE.ctx_xfer (Table 04.7, R109): Context save or restore in progress. -/
def benchStateCtxXfer : Fld := ⟨16777253, 1, 524288, 32, .ro, 0, 0, 2 ^ 1 - 1, false⟩
/-- BENCH_STATE.owner (Table 04.7, R109): VF whose context is resident; 0 = none. -/
def benchStateOwner : Fld := ⟨16777264, 10, 524288, 32, .ro, 0, 0, 2 ^ 10 - 1, false⟩
/-- BENCH_YARD.space_pages (Table 04.7, R109): P of the resident context. -/
def benchYardSpacePages : Fld := ⟨16777280, 8, 524288, 32, .ro, 0, 0, 2 ^ 8 - 1, false⟩
/-- BENCH_YARD.mapped (Table 04.7, R109): Mapped pages. -/
def benchYardMapped : Fld := ⟨16777288, 8, 524288, 32, .ro, 0, 0, 2 ^ 8 - 1, false⟩
/-- BENCH_YARD.shadows (Table 04.7, R109): Shadows held. -/
def benchYardShadows : Fld := ⟨16777296, 8, 524288, 32, .ro, 0, 0, 2 ^ 8 - 1, false⟩
/-- BENCH_YARD.free (Table 04.7, R109): Zeroed free frames outside the radio lot. -/
def benchYardFree : Fld := ⟨16777304, 8, 524288, 32, .ro, 192, 0, 2 ^ 8 - 1, false⟩
/-- BENCH_DR_TABLE_VER.recip_ver (Table 04.7, R109): Reciprocal group table version. -/
def benchDrTableVerRecipVer : Fld := ⟨16777344, 8, 524288, 32, .ro, (Config.tableVer 0).toNat, 0, 2 ^ 8 - 1, false⟩
/-- BENCH_DR_TABLE_VER.exp_ver (Table 04.7, R109): Exponential group. -/
def benchDrTableVerExpVer : Fld := ⟨16777352, 8, 524288, 32, .ro, (Config.tableVer 1).toNat, 0, 2 ^ 8 - 1, false⟩
/-- BENCH_DR_TABLE_VER.log_ver (Table 04.7, R109): Logarithm group. -/
def benchDrTableVerLogVer : Fld := ⟨16777360, 8, 524288, 32, .ro, (Config.tableVer 2).toNat, 0, 2 ^ 8 - 1, false⟩
/-- BENCH_DR_TABLE_VER.erf_ver (Table 04.7, R109): Error function. -/
def benchDrTableVerErfVer : Fld := ⟨16777368, 8, 524288, 32, .ro, (Config.tableVer 3).toNat, 0, 2 ^ 8 - 1, false⟩
/-- BENCH_DR_TABLE_VER.trig_ver (Table 04.7, R109): Trigonometric group. -/
def benchDrTableVerTrigVer : Fld := ⟨16777376, 8, 524288, 32, .ro, (Config.tableVer 4).toNat, 0, 2 ^ 8 - 1, false⟩
/-- BENCH_FEED_CYC.count (Table 04.7, R109): A-clocks in which the Slab fed. -/
def benchFeedCycCount : Fld := ⟨16777472, 64, 524288, 32, .ro, 0, 0, 2 ^ 64 - 1, false⟩
/-- BENCH_STALL_CYC.count (Table 04.7, R109): A-clocks of Yard stall, all clients. -/
def benchStallCycCount : Fld := ⟨16777536, 64, 524288, 32, .ro, 0, 0, 2 ^ 64 - 1, false⟩
/-- BENCH_SKIP_BYTES.count (Table 04.7, R109): Bytes moved by the bench's Skips. -/
def benchSkipBytesCount : Fld := ⟨16777600, 64, 524288, 32, .ro, 0, 0, 2 ^ 64 - 1, false⟩
/-- BENCH_KILLS.count (Table 04.7, R109): Commands killed by the Wedge, wrapping. -/
def benchKillsCount : Fld := ⟨16777664, 32, 524288, 32, .ro, 0, 0, 2 ^ 32 - 1, false⟩
/-- BENCH_LIVE0.slab_tag (Table 04.7, R109): Tag of the command feeding the Slab. -/
def benchLive0SlabTag : Fld := ⟨16779264, 16, 524288, 32, .ro, 0, 0, 2 ^ 16 - 1, false⟩
/-- BENCH_LIVE0.chain0 (Table 04.7, R109): Open-chain members on bank 0, saturating at 255. -/
def benchLive0Chain0 : Fld := ⟨16779280, 8, 524288, 32, .ro, 0, 0, 2 ^ 8 - 1, false⟩
/-- BENCH_LIVE0.chain1 (Table 04.7, R109): Open-chain members on bank 1, saturating at 255. -/
def benchLive0Chain1 : Fld := ⟨16779288, 8, 524288, 32, .ro, 0, 0, 2 ^ 8 - 1, false⟩
/-- BENCH_LIVE1.e_w0 (Table 04.7, R109): Window exponent of bank 0, signed. -/
def benchLive1EW0 : Fld := ⟨16779296, 10, 524288, 32, .ro, 0, 0, 2 ^ 10 - 1, false⟩
/-- BENCH_LIVE1.e_w1 (Table 04.7, R109): Window exponent of bank 1, signed. -/
def benchLive1EW1 : Fld := ⟨16779306, 10, 524288, 32, .ro, 0, 0, 2 ^ 10 - 1, false⟩
/-- BENCH_LIVE1.kind0 (Table 04.7, R109): Bank 0 kind: 1 = complex. -/
def benchLive1Kind0 : Fld := ⟨16779316, 1, 524288, 32, .ro, 0, 0, 2 ^ 1 - 1, false⟩
/-- BENCH_LIVE1.kind1 (Table 04.7, R109): Bank 1 kind. -/
def benchLive1Kind1 : Fld := ⟨16779317, 1, 524288, 32, .ro, 0, 0, 2 ^ 1 - 1, false⟩
/-- BENCH_LIVE2.dresser_tag (Table 04.7, R109): Tag of the running Dresser command. -/
def benchLive2DresserTag : Fld := ⟨16779328, 16, 524288, 32, .ro, 0, 0, 2 ^ 16 - 1, false⟩
/-- MEM_CFG.stacks (Table 06.5, R171): Stacks. -/
def memCfgStacks : Fld := ⟨33554432, 4, 0, 1, .ro, 4, 0, 2 ^ 4 - 1, false⟩
/-- MEM_CFG.layers (Table 06.5, R171): Layers per stack: 8 or 12. -/
def memCfgLayers : Fld := ⟨33554436, 4, 0, 1, .ro, 0, 0, 2 ^ 4 - 1, false⟩
/-- MEM_CFG.channels (Table 06.5, R171): Channels. -/
def memCfgChannels : Fld := ⟨33554440, 8, 0, 1, .ro, 128, 0, 2 ^ 8 - 1, false⟩
/-- MEM_CFG.lots (Table 06.5, R171): Equals CAPS0.dram_lots. -/
def memCfgLots : Fld := ⟨33554448, 9, 0, 1, .ro, 0, 0, 2 ^ 9 - 1, false⟩
/-- MEM_RSV.fw_lots (Table 06.5, R171): Firmware lots. -/
def memRsvFwLots : Fld := ⟨33554464, 9, 0, 1, .ro, 2, 0, 2 ^ 9 - 1, false⟩
/-- MEM_RSV.radio_lots (Table 06.5, R171): Radio lots. -/
def memRsvRadioLots : Fld := ⟨33554473, 9, 0, 1, .ro, 0, 0, 2 ^ 9 - 1, false⟩
/-- MEM_RSV.mgr_lots (Table 06.5, R171): Manager reserve lots, 1–64. -/
def memRsvMgrLots : Fld := ⟨33554482, 9, 0, 1, .rwl, 2, 1, 64, false⟩
/-- MEM_REFRESH.hot (Table 06.5, R171): Bit s set: stack s refreshes at 1.95 µs. -/
def memRefreshHot : Fld := ⟨33554496, 4, 0, 1, .ro, 0, 0, 2 ^ 4 - 1, false⟩
/-- MEM_TEMP.stack0–3 (Table 06.5, R171): Byte s: hottest sensor of stack s, °C, signed. -/
def memTempStack : Fld := ⟨33554528, 8, 8, 4, .ro, 0, 0, 2 ^ 8 - 1, false⟩
/-- MEM_SCRUB.period_h (Table 06.5, R171): Scrub period in hours, 1–168. -/
def memScrubPeriodH : Fld := ⟨33554560, 8, 0, 1, .rw, 24, 1, 168, false⟩
/-- MEM_SCRUB.enable (Table 06.5, R171): Patrol scrub on. -/
def memScrubEnable : Fld := ⟨33554568, 1, 0, 1, .rw, 1, 0, 2 ^ 1 - 1, false⟩
/-- MEM_RSHARE.share (Table 06.5, R171): Class R share of each channel, percent. -/
def memRshareShare : Fld := ⟨33554592, 6, 0, 1, .ro, 0, 0, 2 ^ 6 - 1, false⟩
/-- MEM_CE_COUNT.count (Table 06.5, R171): Corrected reads since start. -/
def memCeCountCount : Fld := ⟨33554624, 64, 0, 1, .ro, 0, 0, 2 ^ 64 - 1, false⟩
/-- MEM_INVAL.vf (Table 06.5, R171): Function whose translations are invalidated. -/
def memInvalVf : Fld := ⟨33554688, 10, 0, 1, .rw, 0, 0, 2 ^ 10 - 1, false⟩
/-- MEM_INVAL.all (Table 06.5, R171): Invalidate every function. -/
def memInvalAll : Fld := ⟨33554698, 1, 0, 1, .rw, 0, 0, 2 ^ 1 - 1, false⟩
/-- MEM_INVAL.go (Table 06.5, R171): Start; clears as R157 states. -/
def memInvalGo : Fld := ⟨33554699, 1, 0, 1, .rws, 0, 0, 2 ^ 1 - 1, true⟩
/-- MEM_FAULT_IDX.tail (Table 06.5, R171): Next record the device writes. -/
def memFaultIdxTail : Fld := ⟨33554720, 8, 0, 1, .ro, 0, 0, 2 ^ 8 - 1, false⟩
/-- MEM_FAULT_IDX.head (Table 06.5, R171): Next record the manager reads. -/
def memFaultIdxHead : Fld := ⟨33554728, 8, 0, 1, .rw, 0, 0, 2 ^ 8 - 1, false⟩
/-- MEM_FAULT_IDX.dropped (Table 06.5, R171): Records lost to a full ring, saturating. -/
def memFaultIdxDropped : Fld := ⟨33554736, 16, 0, 1, .ro, 0, 0, 2 ^ 16 - 1, false⟩
/-- LOT_OWNER.owner (Table 06.5, R171): 0x000 free; 0x001–0x200 VF; 0x3FD manager reserve; 0x3FE radio; 0x3FF firmware; others .... -/
def lotOwnerOwner : Fld := ⟨33587200, 10, 16, 384, .rw, 0, 0, 2 ^ 10 - 1, true⟩
/-- LOT_OWNER.hdm (Table 06.5, R171): Host CXL.mem access allowed (R160). -/
def lotOwnerHdm : Fld := ⟨33587210, 1, 16, 384, .rw, 0, 0, 2 ^ 1 - 1, true⟩
/-- LOT_OWNER.state (Table 06.5, R171): 0 IDLE, 1 RELEASING, 2 CLEARING, 3 reserved. -/
def lotOwnerState : Fld := ⟨33587211, 2, 16, 384, .ro, 0, 0, 2 ^ 2 - 1, false⟩
/-- XLAT_ROOT.enable (Table 06.5, R171): Translation enabled. -/
def xlatRootEnable : Fld := ⟨33619968, 1, 64, 513, .rw, 0, 0, 2 ^ 1 - 1, false⟩
/-- XLAT_ROOT.l1_base (Table 06.5, R171): pa[38:12] of the L1 table. -/
def xlatRootL1Base : Fld := ⟨33619980, 27, 64, 513, .rw, 0, 0, 2 ^ 27 - 1, false⟩
/-- DRAM_BUCKET.rate (Table 06.5, R171): Refill rate, GB/s. -/
def dramBucketRate : Fld := ⟨33685504, 14, 128, 513, .staged, 0, 0, 2 ^ 14 - 1, false⟩
/-- DRAM_BUCKET.borrow (Table 06.5, R171): Use idle bandwidth when empty. -/
def dramBucketBorrow : Fld := ⟨33685518, 1, 128, 513, .staged, 0, 0, 2 ^ 1 - 1, false⟩
/-- DRAM_BUCKET.burst (Table 06.5, R171): Bucket depth, KiB. -/
def dramBucketBurst : Fld := ⟨33685536, 32, 128, 513, .staged, 0, 0, 2 ^ 32 - 1, false⟩
/-- DRAM_BUCKET.level (Table 06.5, R171): Current tokens, KiB. -/
def dramBucketLevel : Fld := ⟨33685568, 32, 128, 513, .ro, 0, 0, 2 ^ 32 - 1, false⟩
/-- DRAM_BUCKET.waits (Table 06.5, R171): Requests that waited for tokens, wrapping. -/
def dramBucketWaits : Fld := ⟨33685600, 32, 128, 513, .ro, 0, 0, 2 ^ 32 - 1, false⟩
/-- MEM_FAULT.record (Table 06.5, R171): Fault record, Table 06.6. -/
def memFaultRecord : Fld := ⟨33816576, 256, 256, 256, .ro, 0, 0, 2 ^ 256 - 1, false⟩
/-- JEANO_NODE.col (Table 07.12, R226): Column. -/
def jeanoNodeCol : Fld := ⟨41943040, 3, 0, 1, .ro, 0, 0, 2 ^ 3 - 1, false⟩
/-- JEANO_NODE.row (Table 07.12, R226): Row. -/
def jeanoNodeRow : Fld := ⟨41943043, 3, 0, 1, .ro, 0, 0, 2 ^ 3 - 1, false⟩
/-- JEANO_NODE.domain (Table 07.12, R226): Domain 0–15. -/
def jeanoNodeDomain : Fld := ⟨41943046, 4, 0, 1, .ro, 0, 0, 2 ^ 4 - 1, false⟩
/-- JEANO_NODE.rows_m1 (Table 07.12, R226): Domain rows minus one. -/
def jeanoNodeRowsM1 : Fld := ⟨41943050, 3, 0, 1, .ro, 0, 0, 2 ^ 3 - 1, false⟩
/-- JEANO_NODE.cols_m1 (Table 07.12, R226): Domain columns minus one. -/
def jeanoNodeColsM1 : Fld := ⟨41943053, 3, 0, 1, .ro, 0, 0, 2 ^ 3 - 1, false⟩
/-- JEANO_NODE.incarnation (Table 07.12, R226): Drawn at each start (R208). -/
def jeanoNodeIncarnation : Fld := ⟨41943056, 16, 0, 1, .ro, 0, 0, 2 ^ 16 - 1, false⟩
/-- JEANO_CFG.dead_us (Table 07.12, R226): Dead bound in µs, 20–2,000; other values discarded. -/
def jeanoCfgDeadUs : Fld := ⟨41943072, 11, 0, 1, .rw, 200, 20, 2000, false⟩
/-- JEANO_CFG.adaptive (Table 07.12, R226): 1 when ordered class T may route adaptively; 0 in plumb mode. -/
def jeanoCfgAdaptive : Fld := ⟨41943083, 1, 0, 1, .ro, 0, 0, 2 ^ 1 - 1, false⟩
/-- JEANO_CFG.domains_m1 (Table 07.12, R226): Domains minus one. -/
def jeanoCfgDomainsM1 : Fld := ⟨41943084, 4, 0, 1, .ro, 0, 0, 2 ^ 4 - 1, false⟩
/-- JEANO_CFG.eth14 (Table 07.12, R226): Port 14 in ETHERNET mode. -/
def jeanoCfgEth14 : Fld := ⟨41943088, 1, 0, 1, .ro, 0, 0, 2 ^ 1 - 1, false⟩
/-- JEANO_CFG.eth15 (Table 07.12, R226): Port 15 in ETHERNET mode. -/
def jeanoCfgEth15 : Fld := ⟨41943089, 1, 0, 1, .ro, 0, 0, 2 ^ 1 - 1, false⟩
/-- JEANO_RSHARE.share (Table 07.12, R226): Class R share, percent. -/
def jeanoRshareShare : Fld := ⟨41943104, 6, 0, 1, .ro, 0, 0, 2 ^ 6 - 1, false⟩
/-- JEANO_RED.thresh (Table 07.12, R226): Red discard threshold, 10–90 %; other values discarded. -/
def jeanoRedThresh : Fld := ⟨41943136, 7, 0, 1, .rw, 50, 10, 90, false⟩
/-- JEANO_S_ABORT.node (Table 07.12, R226): Node to abort (R218). -/
def jeanoSAbortNode : Fld := ⟨41943168, 10, 0, 1, .rw, 0, 0, 2 ^ 10 - 1, false⟩
/-- JEANO_S_ABORT.go (Table 07.12, R226): Start; clears when settled. -/
def jeanoSAbortGo : Fld := ⟨41943178, 1, 0, 1, .rws, 0, 0, 2 ^ 1 - 1, true⟩
/-- JEANO_SAMPLE.period_us (Table 07.12, R226): Sampling period; 0 = off. -/
def jeanoSamplePeriodUs : Fld := ⟨41943200, 16, 0, 1, .rw, 0, 0, 2 ^ 16 - 1, false⟩
/-- JEANO_SAMPLE.clear (Table 07.12, R226): Zero all histograms. -/
def jeanoSampleClear : Fld := ⟨41943216, 1, 0, 1, .rws, 0, 0, 2 ^ 1 - 1, true⟩
/-- JEANO_LSA_COUNT.count (Table 07.12, R226): Advertisements applied, wrapping. -/
def jeanoLsaCountCount : Fld := ⟨41943232, 32, 0, 1, .ro, 0, 0, 2 ^ 32 - 1, false⟩
/-- JEANO_ATOMIC_CACHE.used (Table 07.12, R226): Replay cache entries held. -/
def jeanoAtomicCacheUsed : Fld := ⟨41943264, 13, 0, 1, .ro, 0, 0, 2 ^ 13 - 1, false⟩
/-- JEANO_ATOMIC_CACHE.busy (Table 07.12, R226): NAK BUSY sent for atomics and rounds, wrapping. -/
def jeanoAtomicCacheBusy : Fld := ⟨41943280, 16, 0, 1, .ro, 0, 0, 2 ^ 16 - 1, false⟩
/-- JEANO_PORT.state (Table 07.12, R226): 0 DOWN, 1 TRAINING, 2 UP, 3 RETRAIN, 4 MISWIRED, 5 GEN_INCOMPATIBLE, 6 TOO_LONG, 7 DISA.... -/
def jeanoPortState : Fld := ⟨41945088, 3, 256, 16, .ro, 0, 0, 2 ^ 3 - 1, false⟩
/-- JEANO_PORT.lanes4 (Table 07.12, R226): Running on 4 lanes (R178). -/
def jeanoPortLanes4 : Fld := ⟨41945091, 1, 256, 16, .ro, 0, 0, 2 ^ 1 - 1, false⟩
/-- JEANO_PORT.gen (Table 07.12, R226): Negotiated generation. -/
def jeanoPortGen : Fld := ⟨41945092, 4, 256, 16, .ro, 0, 0, 2 ^ 4 - 1, false⟩
/-- JEANO_PORT.mixed (Table 07.12, R226): The partner's plumb or det_signature differs. -/
def jeanoPortMixed : Fld := ⟨41945096, 1, 256, 16, .ro, 0, 0, 2 ^ 1 - 1, false⟩
/-- JEANO_PORT.partner_node (Table 07.12, R226): Partner node. -/
def jeanoPortPartnerNode : Fld := ⟨41945104, 10, 256, 16, .ro, 0, 0, 2 ^ 10 - 1, false⟩
/-- JEANO_PORT.partner_port (Table 07.12, R226): Partner port. -/
def jeanoPortPartnerPort : Fld := ⟨41945114, 4, 256, 16, .ro, 0, 0, 2 ^ 4 - 1, false⟩
/-- JEANO_PORT.flight_ns (Table 07.12, R226): One-way flight time, ns. -/
def jeanoPortFlightNs : Fld := ⟨41945120, 16, 256, 16, .ro, 0, 0, 2 ^ 16 - 1, false⟩
/-- JEANO_PORT.fec_corrected (Table 07.12, R226): Codewords corrected, wrapping. -/
def jeanoPortFecCorrected : Fld := ⟨41945152, 32, 256, 16, .ro, 0, 0, 2 ^ 32 - 1, false⟩
/-- JEANO_PORT.link_retries (Table 07.12, R226): Naks sent and received, wrapping. -/
def jeanoPortLinkRetries : Fld := ⟨41945184, 32, 256, 16, .ro, 0, 0, 2 ^ 32 - 1, false⟩
/-- JEANO_PORT.retrains (Table 07.12, R226): Saturating. -/
def jeanoPortRetrains : Fld := ⟨41945216, 16, 256, 16, .ro, 0, 0, 2 ^ 16 - 1, false⟩
/-- JEANO_PORT.downs (Table 07.12, R226): Saturating. -/
def jeanoPortDowns : Fld := ⟨41945232, 16, 256, 16, .ro, 0, 0, 2 ^ 16 - 1, false⟩
/-- JEANO_PORT.replays (Table 07.12, R226): Messages resent through this port, wrapping. -/
def jeanoPortReplays : Fld := ⟨41945248, 32, 256, 16, .ro, 0, 0, 2 ^ 32 - 1, false⟩
/-- JEANO_PORT.discards (Table 07.12, R226): Messages discarded here (R188), wrapping. -/
def jeanoPortDiscards : Fld := ⟨41945280, 32, 256, 16, .ro, 0, 0, 2 ^ 32 - 1, false⟩
/-- JEANO_LINKMAP.up (Table 07.12, R226): Bit p set: that member's port p is usable. -/
def jeanoLinkmapUp : Fld := ⟨41975808, 16, 32, 64, .ro, 0, 0, 2 ^ 16 - 1, false⟩
/-- JEANO_LINKMAP.version (Table 07.12, R226): Advertisement count from that member. -/
def jeanoLinkmapVersion : Fld := ⟨41975824, 16, 32, 64, .ro, 0, 0, 2 ^ 16 - 1, false⟩
/-- FAB_VF.job (Table 07.12, R226): Job; 0 = no fabric access (R194). -/
def fabVfJob : Fld := ⟨42008576, 16, 512, 513, .rw, 0, 0, 2 ^ 16 - 1, false⟩
/-- FAB_VF.peer_count (Table 07.12, R226): Peer entries, 0–1,024. -/
def fabVfPeerCount : Fld := ⟨42008592, 11, 512, 513, .rw, 0, 0, 2 ^ 11 - 1, false⟩
/-- FAB_VF.mcast_count (Table 07.12, R226): Multicast groups, 0–64. -/
def fabVfMcastCount : Fld := ⟨42008608, 7, 512, 513, .rw, 0, 0, 2 ^ 7 - 1, false⟩
/-- FAB_VF.peer_base (Table 07.12, R226): [38:3]: pa of the peer table in the manager reserve; other bits reserved. -/
def fabVfPeerBase : Fld := ⟨42008640, 64, 512, 513, .rw, 0, 0, 2 ^ 64 - 1, false⟩
/-- FAB_VF.mcast_base (Table 07.12, R226): [38:8]: pa of the group table; other bits reserved. -/
def fabVfMcastBase : Fld := ⟨42008704, 64, 512, 513, .rw, 0, 0, 2 ^ 64 - 1, false⟩
/-- FAB_VF.rx_base (Table 07.12, R226): Receive ring, tenant virtual address [47:12]. -/
def fabVfRxBase : Fld := ⟨42008780, 36, 512, 513, .rw, 0, 0, 2 ^ 36 - 1, false⟩
/-- FAB_VF.rx_log2 (Table 07.12, R226): 2^n slots, n = 2–12; 0 = no ring. -/
def fabVfRxLog2 : Fld := ⟨42008816, 4, 512, 513, .rw, 0, 0, 2 ^ 4 - 1, false⟩
/-- FAB_VF.rx_tally (Table 07.12, R226): Tally signalled per message. -/
def fabVfRxTally : Fld := ⟨42008820, 10, 512, 513, .rw, 0, 0, 2 ^ 10 - 1, false⟩
/-- FAB_VF.cir (Table 07.12, R226): Committed rate, in units of 100 MB/s. -/
def fabVfCir : Fld := ⟨42008832, 16, 512, 513, .staged, 0, 0, 2 ^ 16 - 1, false⟩
/-- FAB_VF.pir (Table 07.12, R226): Peak rate, in units of 100 MB/s; 0 gives POLICED. -/
def fabVfPir : Fld := ⟨42008848, 16, 512, 513, .staged, 0, 0, 2 ^ 16 - 1, false⟩
/-- FAB_VF.cbs (Table 07.12, R226): Committed burst, KiB. -/
def fabVfCbs : Fld := ⟨42008864, 16, 512, 513, .staged, 0, 0, 2 ^ 16 - 1, false⟩
/-- FAB_VF.pbs (Table 07.12, R226): Peak burst, KiB. -/
def fabVfPbs : Fld := ⟨42008880, 16, 512, 513, .staged, 0, 0, 2 ^ 16 - 1, false⟩
/-- FAB_VF.green (Table 07.12, R226): Green bytes, wrapping. -/
def fabVfGreen : Fld := ⟨42008896, 64, 512, 513, .ro, 0, 0, 2 ^ 64 - 1, false⟩
/-- FAB_VF.yellow (Table 07.12, R226): Yellow bytes, wrapping. -/
def fabVfYellow : Fld := ⟨42008960, 64, 512, 513, .ro, 0, 0, 2 ^ 64 - 1, false⟩
/-- FAB_VF.red (Table 07.12, R226): Red bytes, wrapping. -/
def fabVfRed : Fld := ⟨42009024, 64, 512, 513, .ro, 0, 0, 2 ^ 64 - 1, false⟩
/-- JEANO_HIST.bins (Table 07.12, R226): Port p; class c (0 R, 1 S, 2 T); k = 0 depth, 1 delay; 16 × 32-bit bins (R225). -/
def jeanoHistBin : Fld := ⟨42467328, 32, 32, 1536, .ro, 0, 0, 2 ^ 32 - 1, false⟩
/-- CRUSHER_CFG.join_ms (Table 08.7, R253): Join bound in ms, 1–65,535; 0 is discarded. -/
def crusherCfgJoinMs : Fld := ⟨50331648, 16, 0, 1, .rw, 1000, 1, 65535, false⟩
/-- CRUSHER_CFG.plumb_tree (Table 08.7, R253): Equals PLUMB.plumb: R245 applies. -/
def crusherCfgPlumbTree : Fld := ⟨50331664, 1, 0, 1, .ro, 0, 0, 2 ^ 1 - 1, false⟩
/-- CRUSHER_STATE.active (Table 08.7, R253): Collectives in flight, 0–64. -/
def crusherStateActive : Fld := ⟨50331680, 7, 0, 1, .ro, 0, 0, 2 ^ 7 - 1, false⟩
/-- CRUSHER_STATE.early (Table 08.7, R253): Early store entries held, 0–4,096. -/
def crusherStateEarly : Fld := ⟨50331688, 13, 0, 1, .ro, 0, 0, 2 ^ 13 - 1, false⟩
/-- CRUSHER_STATE.retain_mib (Table 08.7, R253): Retain store in use, MiB. -/
def crusherStateRetainMib : Fld := ⟨50331701, 7, 0, 1, .ro, 0, 0, 2 ^ 7 - 1, false⟩
/-- CRUSHER_CHECK_FAIL.count (Table 08.7, R253): Chunks that failed verification, wrapping. -/
def crusherCheckFailCount : Fld := ⟨50331712, 32, 0, 1, .ro, 0, 0, 2 ^ 32 - 1, false⟩
/-- CRUSHER_REFETCH.count (Table 08.7, R253): Chunks resent on request, wrapping. -/
def crusherRefetchCount : Fld := ⟨50331744, 32, 0, 1, .ro, 0, 0, 2 ^ 32 - 1, false⟩
/-- CRUSHER_MISMATCH.count (Table 08.7, R253): MISMATCH verdicts, wrapping. -/
def crusherMismatchCount : Fld := ⟨50331776, 32, 0, 1, .ro, 0, 0, 2 ^ 32 - 1, false⟩
/-- CRUSHER_ABORTS.count (Table 08.7, R253): Aborts sent and received, wrapping. -/
def crusherAbortsCount : Fld := ⟨50331808, 32, 0, 1, .ro, 0, 0, 2 ^ 32 - 1, false⟩
/-- CRUSHER_GRP.group_count (Table 08.7, R253): Group entries, 0–64. -/
def crusherGrpGroupCount : Fld := ⟨50364416, 7, 128, 513, .rw, 0, 0, 2 ^ 7 - 1, false⟩
/-- CRUSHER_GRP.base (Table 08.7, R253): [38:5]: pa of the group table in the manager reserve; other bits reserved. -/
def crusherGrpBase : Fld := ⟨50364480, 64, 128, 513, .rw, 0, 0, 2 ^ 64 - 1, false⟩
/-- CRUSHER_LATE.joins (Table 08.7, R253): Collectives joined, wrapping. -/
def crusherLateJoins : Fld := ⟨50462720, 32, 256, 513, .ro, 0, 0, 2 ^ 32 - 1, false⟩
/-- CRUSHER_LATE.last_count (Table 08.7, R253): Times this member was latest, wrapping. -/
def crusherLateLastCount : Fld := ⟨50462752, 32, 256, 513, .ro, 0, 0, 2 ^ 32 - 1, false⟩
/-- CRUSHER_LATE.lag_sum_ns (Table 08.7, R253): Sum of own join time − t_first, wrapping. -/
def crusherLateLagSumNs : Fld := ⟨50462784, 64, 256, 513, .ro, 0, 0, 2 ^ 64 - 1, false⟩
/-- CRUSHER_LATE.max_spread_ns (Table 08.7, R253): Largest t_last − t_first seen. -/
def crusherLateMaxSpreadNs : Fld := ⟨50462848, 64, 256, 513, .ro, 0, 0, 2 ^ 64 - 1, false⟩
/-- TIME_CLK_STATUS.ref_ok (Table 09.6, R277): Reference within limits (R255). -/
def timeClkStatusRefOk : Fld := ⟨58720256, 1, 0, 1, .ro, 0, 0, 2 ^ 1 - 1, false⟩
/-- TIME_CLK_STATUS.root_lock (Table 09.6, R277): Root PLL locked. -/
def timeClkStatusRootLock : Fld := ⟨58720257, 1, 0, 1, .ro, 0, 0, 2 ^ 1 - 1, false⟩
/-- TIME_CLK_STATUS.serdes_lock (Table 09.6, R277): All enabled SerDes PLLs locked. -/
def timeClkStatusSerdesLock : Fld := ⟨58720258, 1, 0, 1, .ro, 0, 0, 2 ^ 1 - 1, false⟩
/-- TIME_CLK_STATUS.ucie_lock (Table 09.6, R277): UCIe PLLs locked. -/
def timeClkStatusUcieLock : Fld := ⟨58720259, 1, 0, 1, .ro, 0, 0, 2 ^ 1 - 1, false⟩
/-- TIME_CLK_STATUS.a_div (Table 09.6, R277): 0 ÷12, 1 ÷16, 2 ÷24, 3 reserved. -/
def timeClkStatusADiv : Fld := ⟨58720260, 2, 0, 1, .ro, 0, 0, 2 ^ 2 - 1, false⟩
/-- TIME_CLK_STATUS.ref_lost (Table 09.6, R277): Reference lost since last cleared. -/
def timeClkStatusRefLost : Fld := ⟨58720262, 1, 0, 1, .rw1c, 0, 0, 2 ^ 1 - 1, false⟩
/-- TIME_CLK_STATUS.lock_lost (Table 09.6, R277): A PLL lost lock since last cleared. -/
def timeClkStatusLockLost : Fld := ⟨58720263, 1, 0, 1, .rw1c, 0, 0, 2 ^ 1 - 1, false⟩
/-- TIME_THROTTLE_CNT.count (Table 09.6, R277): A-clock divider changes, wrapping. -/
def timeThrottleCntCount : Fld := ⟨58720288, 32, 0, 1, .ro, 0, 0, 2 ^ 32 - 1, false⟩
/-- TIME_STATE.state (Table 09.6, R277): 0 FREE, 1 ACQUIRING, 2 LOCKED, 3 HOLDOVER, 4 HOLDOVER_EXPIRED; 5–7 reserved. -/
def timeStateState : Fld := ⟨58720320, 3, 0, 1, .ro, 0, 0, 2 ^ 3 - 1, false⟩
/-- TIME_STATE.src (Table 09.6, R277): 0 FREE, 1 PTP, 2 PPS_IN, 3 JEANO. -/
def timeStateSrc : Fld := ⟨58720323, 3, 0, 1, .ro, 0, 0, 2 ^ 3 - 1, false⟩
/-- TIME_STATE.src_port (Table 09.6, R277): Queue number of Table 09.4 for PTP. -/
def timeStateSrcPort : Fld := ⟨58720326, 4, 0, 1, .ro, 0, 0, 2 ^ 4 - 1, false⟩
/-- TIME_STATE.synce_ok (Table 09.6, R277): Selected SyncE input at an acceptable quality level. -/
def timeStateSynceOk : Fld := ⟨58720330, 1, 0, 1, .ro, 0, 0, 2 ^ 1 - 1, false⟩
/-- TIME_HOLDOVER.max_s (Table 09.6, R277): Holdover limit in s, 1–86,400; others discarded. -/
def timeHoldoverMaxS : Fld := ⟨58720352, 17, 0, 1, .rw, 300, 1, 86400, false⟩
/-- TIME_NOW_NS.ns (Table 09.6, R277): Time base count (R262). -/
def timeNowNsNs : Fld := ⟨58720384, 64, 0, 1, .ro, 0, 0, 2 ^ 64 - 1, false⟩
/-- TIME_NOW_FRAC.frac (Table 09.6, R277): Fraction latched with ns. -/
def timeNowFracFrac : Fld := ⟨58720448, 32, 0, 1, .ro, 0, 0, 2 ^ 32 - 1, false⟩
/-- TIME_ADDEND.addend (Table 09.6, R277): ns per G-clock (R260, R261). -/
def timeAddendAddend : Fld := ⟨58720512, 40, 0, 1, .rw, 4090445044, 0, 2 ^ 40 - 1, true⟩
/-- TIME_STEP.step_ns (Table 09.6, R277): Signed step; applied on the high word (R261). -/
def timeStepStepNs : Fld := ⟨58720576, 64, 0, 1, .wo, 0, 0, 2 ^ 64 - 1, true⟩
/-- TIME_UTC.utc_offset (Table 09.6, R277): TAI − UTC in s, signed. -/
def timeUtcUtcOffset : Fld := ⟨58720640, 16, 0, 1, .rw, 0, 0, 2 ^ 16 - 1, false⟩
/-- TIME_UTC.valid (Table 09.6, R277): Offset valid. -/
def timeUtcValid : Fld := ⟨58720656, 1, 0, 1, .rw, 0, 0, 2 ^ 1 - 1, false⟩
/-- TIME_PPS_OUT.enable (Table 09.6, R277): 1PPS_OUT on. -/
def timePpsOutEnable : Fld := ⟨58720672, 1, 0, 1, .rw, 0, 0, 2 ^ 1 - 1, false⟩
/-- TIME_PPS_OUT.width_ms (Table 09.6, R277): Pulse width, 1–500 ms. -/
def timePpsOutWidthMs : Fld := ⟨58720673, 9, 0, 1, .rw, 100, 1, 500, false⟩
/-- TIME_PPS_OUT.offset_ns (Table 09.6, R277): Signed edge offset. -/
def timePpsOutOffsetNs : Fld := ⟨58720688, 16, 0, 1, .rw, 0, 0, 2 ^ 16 - 1, false⟩
/-- TIME_OFFSET.offset_ps (Table 09.6, R277): Last measured offset from the source, signed ps, saturating. -/
def timeOffsetOffsetPs : Fld := ⟨58720704, 32, 0, 1, .ro, 0, 0, 2 ^ 32 - 1, false⟩
/-- TSQ.id (Table 09.6, R277): TSQ_ID: identifier of the popped entry; a read pops. -/
def tsqId : Fld := ⟨58753024, 16, 256, 12, .ro, 0, 0, 2 ^ 16 - 1, false⟩
/-- TSQ.valid (Table 09.6, R277): An entry was popped. -/
def tsqValid : Fld := ⟨58753040, 1, 256, 12, .ro, 0, 0, 2 ^ 1 - 1, false⟩
/-- TSQ.fill (Table 09.6, R277): Entries left after the pop, 0–63. -/
def tsqFill : Fld := ⟨58753041, 6, 256, 12, .ro, 0, 0, 2 ^ 6 - 1, false⟩
/-- TSQ.overflow (Table 09.6, R277): An entry was dropped. -/
def tsqOverflow : Fld := ⟨58753047, 1, 256, 12, .rw1c, 0, 0, 2 ^ 1 - 1, false⟩
/-- TSQ.overflow_count (Table 09.6, R277): Entries dropped, wrapping. -/
def tsqOverflowCount : Fld := ⟨58753056, 32, 256, 12, .ro, 0, 0, 2 ^ 32 - 1, false⟩
/-- TSQ.ts_ns (Table 09.6, R277): TSQ_TS_NS of the popped entry. -/
def tsqTsNs : Fld := ⟨58753088, 64, 256, 12, .ro, 0, 0, 2 ^ 64 - 1, false⟩
/-- TSQ.ts_frac (Table 09.6, R277): TSQ_TS_FRAC, in 2^−32 ns; resolution 1/16 ns. -/
def tsqTsFrac : Fld := ⟨58753152, 32, 256, 12, .ro, 0, 0, 2 ^ 32 - 1, false⟩
/-- TSQ.tx_adj (Table 09.6, R277): Transmit asymmetry, signed ps. -/
def tsqTxAdj : Fld := ⟨58753184, 16, 256, 12, .rw, 0, 0, 2 ^ 16 - 1, false⟩
/-- TSQ.rx_adj (Table 09.6, R277): Receive asymmetry, signed ps. -/
def tsqRxAdj : Fld := ⟨58753200, 16, 256, 12, .rw, 0, 0, 2 ^ 16 - 1, false⟩
/-- TRIG.compare_ns (Table 09.6, R277): Firing time; RO for i < 48. -/
def trigCompareNs : Fld := ⟨58785792, 64, 256, 64, .staged, 0, 0, 2 ^ 64 - 1, false⟩
/-- TRIG.period_ns (Table 09.6, R277): 0 = one-shot. -/
def trigPeriodNs : Fld := ⟨58785856, 32, 256, 64, .staged, 0, 0, 2 ^ 32 - 1, false⟩
/-- TRIG.action (Table 09.6, R277): Table 09.5. -/
def trigAction : Fld := ⟨58785888, 4, 256, 64, .staged, 0, 0, 2 ^ 4 - 1, false⟩
/-- TRIG.target (Table 09.6, R277): Consumer or pin 0–7. -/
def trigTarget : Fld := ⟨58785892, 4, 256, 64, .staged, 0, 0, 2 ^ 4 - 1, false⟩
/-- TRIG.armed (Table 09.6, R277): Comparator active. -/
def trigArmed : Fld := ⟨58785896, 1, 256, 64, .rw, 0, 0, 2 ^ 1 - 1, false⟩
/-- TRIG.late (Table 09.6, R277): Fired late (R273). -/
def trigLate : Fld := ⟨58785897, 1, 256, 64, .rw1c, 0, 0, 2 ^ 1 - 1, false⟩
/-- TRIG.commit (Table 09.6, R277): Apply the staged group (R274). -/
def trigCommit : Fld := ⟨58785898, 1, 256, 64, .rws, 0, 0, 2 ^ 1 - 1, true⟩
/-- TRIG.missed (Table 09.6, R277): Skipped periodic firings, wrapping. -/
def trigMissed : Fld := ⟨58785920, 32, 256, 64, .ro, 0, 0, 2 ^ 32 - 1, false⟩
/-- CAP.enable (Table 09.6, R277): Input on; 8 = 1PPS_IN. -/
def capEnable : Fld := ⟨58818560, 1, 256, 9, .rw, 0, 0, 2 ^ 1 - 1, false⟩
/-- CAP.edge (Table 09.6, R277): 0 rising, 1 falling, 2 both, 3 reserved. -/
def capEdge : Fld := ⟨58818561, 2, 256, 9, .rw, 0, 0, 2 ^ 2 - 1, false⟩
/-- CAP.fill (Table 09.6, R277): Entries held, 0–8. -/
def capFill : Fld := ⟨58818563, 4, 256, 9, .ro, 0, 0, 2 ^ 4 - 1, false⟩
/-- CAP.overflow (Table 09.6, R277): An edge was dropped. -/
def capOverflow : Fld := ⟨58818567, 1, 256, 9, .rw1c, 0, 0, 2 ^ 1 - 1, false⟩
/-- CAP.valid (Table 09.6, R277): CAP_POP: an entry was popped; a read pops. -/
def capValid : Fld := ⟨58818592, 1, 256, 9, .ro, 0, 0, 2 ^ 1 - 1, false⟩
/-- CAP.rising (Table 09.6, R277): Edge of the popped entry. -/
def capRising : Fld := ⟨58818593, 1, 256, 9, .ro, 0, 0, 2 ^ 1 - 1, false⟩
/-- CAP.ts_ns (Table 09.6, R277): CAP_TS_NS of the popped entry. -/
def capTsNs : Fld := ⟨58818624, 64, 256, 9, .ro, 0, 0, 2 ^ 64 - 1, false⟩
/-- RADIO_PLAN.status (Table 10.11, R300): 0 none, 1 admitted, 2 refused, 3 reserved. -/
def radioPlanStatus : Fld := ⟨67108864, 2, 0, 1, .ro, 0, 0, 2 ^ 2 - 1, false⟩
/-- RADIO_PLAN.reason (Table 10.11, R300): 0 none, 1 units, 2 floor, 3 port rate, 4 cell rate below D(w_floor), 5 field out of ran.... -/
def radioPlanReason : Fld := ⟨67108872, 4, 0, 1, .ro, 0, 0, 2 ^ 4 - 1, false⟩
/-- RADIO_PLAN.units_used (Table 10.11, R300): Radio units of the plan. -/
def radioPlanUnitsUsed : Fld := ⟨67108876, 9, 0, 1, .ro, 0, 0, 2 ^ 9 - 1, false⟩
/-- RADIO_PLAN.cells (Table 10.11, R300): Cells in the plan. -/
def radioPlanCells : Fld := ⟨67108885, 9, 0, 1, .ro, 0, 0, 2 ^ 9 - 1, false⟩
/-- FH_PORT.mode (Table 10.11, R300): R284. -/
def fhPortMode : Fld := ⟨67110912, 2, 512, 8, .ro, 0, 0, 2 ^ 2 - 1, false⟩
/-- FH_PORT.link_up (Table 10.11, R300): Bit i: logical sub-port i is up. -/
def fhPortLinkUp : Fld := ⟨67110916, 4, 512, 8, .ro, 0, 0, 2 ^ 4 - 1, false⟩
/-- FH_PORT.rx_frames (Table 10.11, R300): Frames received, wrapping. -/
def fhPortRxFrames : Fld := ⟨67110976, 64, 512, 8, .ro, 0, 0, 2 ^ 64 - 1, false⟩
/-- FH_PORT.rx_discarded (Table 10.11, R300): Discarded under R279 and R288, wrapping. -/
def fhPortRxDiscarded : Fld := ⟨67111040, 32, 512, 8, .ro, 0, 0, 2 ^ 32 - 1, false⟩
/-- FH_PORT.seq_gaps (Table 10.11, R300): eCPRI sequence gaps, wrapping. -/
def fhPortSeqGaps : Fld := ⟨67111072, 32, 512, 8, .ro, 0, 0, 2 ^ 32 - 1, false⟩
/-- FH_PORT.tx_frames (Table 10.11, R300): Frames sent, wrapping. -/
def fhPortTxFrames : Fld := ⟨67111104, 64, 512, 8, .ro, 0, 0, 2 ^ 64 - 1, false⟩
/-- CELL.state (Table 10.11, R300): 0 OFF, 1 WAIT_TIME, 2 IDLE, 3 CONFIGURED, 4 RUNNING, 5 MUTED; 6–7 reserved. -/
def cellState : Fld := ⟨67633152, 3, 512, 384, .ro, 0, 0, 2 ^ 3 - 1, false⟩
/-- CELL.units (Table 10.11, R300): u(c). -/
def cellUnits : Fld := ⟨67633155, 7, 512, 384, .ro, 0, 0, 2 ^ 7 - 1, false⟩
/-- CELL.lport (Table 10.11, R300): Logical port. -/
def cellLport : Fld := ⟨67633162, 5, 512, 384, .ro, 0, 0, 2 ^ 5 - 1, false⟩
/-- CELL.fapi_ring (Table 10.11, R300): Indication ring pair; writes while RUNNING are discarded and logged with PERMISSION. -/
def cellFapiRing : Fld := ⟨67633167, 4, 512, 384, .rw, 0, 0, 2 ^ 4 - 1, false⟩
/-- CELL.prio (Table 10.11, R300): Cell priority. -/
def cellPrio : Fld := ⟨67633171, 3, 512, 384, .ro, 0, 0, 2 ^ 3 - 1, false⟩
/-- CELL.w_nom (Table 10.11, R300): Nominal BFP width. -/
def cellWNom : Fld := ⟨67633184, 5, 512, 384, .ro, 0, 0, 2 ^ 5 - 1, false⟩
/-- CELL.w_floor (Table 10.11, R300): Floor width. -/
def cellWFloor : Fld := ⟨67633189, 5, 512, 384, .ro, 0, 0, 2 ^ 5 - 1, false⟩
/-- CELL.adaptive (Table 10.11, R300): ADAPTIVE mode. -/
def cellAdaptive : Fld := ⟨67633194, 1, 512, 384, .ro, 0, 0, 2 ^ 1 - 1, false⟩
/-- CELL.max_iter (Table 10.11, R300): LDPC iteration limit. -/
def cellMaxIter : Fld := ⟨67633195, 5, 512, 384, .ro, 0, 0, 2 ^ 5 - 1, false⟩
/-- CELL.hold_mute (Table 10.11, R300): Holdover action: 1 MUTE, 0 CONTINUE. -/
def cellHoldMute : Fld := ⟨67633200, 1, 512, 384, .ro, 0, 0, 2 ^ 1 - 1, false⟩
/-- CELL.late (Table 10.11, R300): RADIO_LATE reports, wrapping. -/
def cellLate : Fld := ⟨67633216, 32, 512, 384, .ro, 0, 0, 2 ^ 32 - 1, false⟩
/-- CELL.narrowed (Table 10.11, R300): Symbols sent at w_floor. -/
def cellNarrowed : Fld := ⟨67633248, 32, 512, 384, .ro, 0, 0, 2 ^ 32 - 1, false⟩
/-- CELL.capped_tbs (Table 10.11, R300): DECODE_CAPPED blocks. -/
def cellCappedTbs : Fld := ⟨67633280, 32, 512, 384, .ro, 0, 0, 2 ^ 32 - 1, false⟩
/-- CELL.ul_window (Table 10.11, R300): Uplink frames outside the window. -/
def cellUlWindow : Fld := ⟨67633312, 32, 512, 384, .ro, 0, 0, 2 ^ 32 - 1, false⟩
/-- CELL.late_requests (Table 10.11, R300): Late P7 requests. -/
def cellLateRequests : Fld := ⟨67633344, 32, 512, 384, .ro, 0, 0, 2 ^ 32 - 1, false⟩
/-- CELL.harq_not_kept (Table 10.11, R300): HARQ_NOT_KEPT reports. -/
def cellHarqNotKept : Fld := ⟨67633376, 32, 512, 384, .ro, 0, 0, 2 ^ 32 - 1, false⟩
/-- FAPI_RING.req_base (Table 10.11, R300): Request entry ring, 64-byte aligned; bits [5:0] reserved. -/
def fapiRingReqBase : Fld := ⟨68157440, 48, 512, 16, .rw, 0, 0, 2 ^ 48 - 1, false⟩
/-- FAPI_RING.ind_base (Table 10.11, R300): Indication entry ring, 64-byte aligned. -/
def fapiRingIndBase : Fld := ⟨68157504, 48, 512, 16, .rw, 0, 0, 2 ^ 48 - 1, false⟩
/-- FAPI_RING.req_log2 (Table 10.11, R300): 2^n entries, n = 2–12. -/
def fapiRingReqLog2 : Fld := ⟨68157568, 4, 512, 16, .rw, 0, 0, 2 ^ 4 - 1, false⟩
/-- FAPI_RING.ind_log2 (Table 10.11, R300): 2^n entries, n = 2–12. -/
def fapiRingIndLog2 : Fld := ⟨68157572, 4, 512, 16, .rw, 0, 0, 2 ^ 4 - 1, false⟩
/-- FAPI_RING.msix (Table 10.11, R300): PF0 vector for indications. -/
def fapiRingMsix : Fld := ⟨68157576, 6, 512, 16, .rw, 0, 0, 2 ^ 6 - 1, false⟩
/-- FAPI_RING.enable (Table 10.11, R300): Pair in use; the fields of +0x00 to +0x14 and +0x28 to +0x30 are writable only while it.... -/
def fapiRingEnable : Fld := ⟨68157582, 1, 512, 16, .rw, 0, 0, 2 ^ 1 - 1, false⟩
/-- FAPI_RING.pasid (Table 10.11, R300): PASID of the rings and data area. -/
def fapiRingPasid : Fld := ⟨68157600, 20, 512, 16, .rw, 0, 0, 2 ^ 20 - 1, false⟩
/-- FAPI_RING.req_tail (Table 10.11, R300): Doorbell. -/
def fapiRingReqTail : Fld := ⟨68157632, 12, 512, 16, .rw, 0, 0, 2 ^ 12 - 1, true⟩
/-- FAPI_RING.req_head (Table 10.11, R300): Next entry the device reads. -/
def fapiRingReqHead : Fld := ⟨68157664, 12, 512, 16, .ro, 0, 0, 2 ^ 12 - 1, false⟩
/-- FAPI_RING.ind_tail (Table 10.11, R300): Next entry the device writes. -/
def fapiRingIndTail : Fld := ⟨68157696, 12, 512, 16, .ro, 0, 0, 2 ^ 12 - 1, false⟩
/-- FAPI_RING.ind_head (Table 10.11, R300): Next entry L2 reads. -/
def fapiRingIndHead : Fld := ⟨68157728, 12, 512, 16, .rw, 0, 0, 2 ^ 12 - 1, false⟩
/-- FAPI_RING.ind_data_base (Table 10.11, R300): Indication data area, 4 KiB aligned. -/
def fapiRingIndDataBase : Fld := ⟨68157760, 48, 512, 16, .rw, 0, 0, 2 ^ 48 - 1, false⟩
/-- FAPI_RING.ind_data_size (Table 10.11, R300): Area size in bytes, a multiple of 4 KiB. -/
def fapiRingIndDataSize : Fld := ⟨68157824, 32, 512, 16, .rw, 0, 0, 2 ^ 32 - 1, false⟩
/-- FAPI_RING.ind_dropped (Table 10.11, R300): Indications dropped (R291), wrapping. -/
def fapiRingIndDropped : Fld := ⟨68157856, 32, 512, 16, .ro, 0, 0, 2 ^ 32 - 1, false⟩
/-- SIEVE_COUNT.ldpc_dec (Table 10.12, R301): Enabled LDPC decoders. -/
def sieveCountLdpcDec : Fld := ⟨75497472, 6, 0, 1, .ro, 0, 0, 2 ^ 6 - 1, false⟩
/-- SIEVE_COUNT.ldpc_enc (Table 10.12, R301): Enabled LDPC encoders. -/
def sieveCountLdpcEnc : Fld := ⟨75497480, 5, 0, 1, .ro, 0, 0, 2 ^ 5 - 1, false⟩
/-- SIEVE_COUNT.polar_dec (Table 10.12, R301): Enabled polar decoders. -/
def sieveCountPolarDec : Fld := ⟨75497488, 4, 0, 1, .ro, 0, 0, 2 ^ 4 - 1, false⟩
/-- SIEVE_COUNT.polar_enc (Table 10.12, R301): Enabled polar encoders. -/
def sieveCountPolarEnc : Fld := ⟨75497492, 4, 0, 1, .ro, 0, 0, 2 ^ 4 - 1, false⟩
/-- SIEVE_CAPPED_SLOTS.count (Table 10.12, R301): Slots in which R297 lowered a cap, wrapping. -/
def sieveCappedSlotsCount : Fld := ⟨75497504, 32, 0, 1, .ro, 0, 0, 2 ^ 32 - 1, false⟩
/-- SIEVE_CAPPED_TBS.count (Table 10.12, R301): Capped or dropped blocks, wrapping. -/
def sieveCappedTbsCount : Fld := ⟨75497536, 32, 0, 1, .ro, 0, 0, 2 ^ 32 - 1, false⟩
/-- SIEVE_DROPPED_TBS.count (Table 10.12, R301): Blocks dropped undecoded, wrapping. -/
def sieveDroppedTbsCount : Fld := ⟨75497568, 32, 0, 1, .ro, 0, 0, 2 ^ 32 - 1, false⟩
/-- SIEVE_PEAK.load (Table 10.12, R301): Largest W ÷ B since cleared, unsigned with 16 fraction bits; writing all ones clears it. -/
def sievePeakLoad : Fld := ⟨75497600, 32, 0, 1, .rw1c, 0, 0, 2 ^ 32 - 1, false⟩
/-- SIEVE_ENG.enabled (Table 10.12, R301): Engine present. -/
def sieveEngEnabled : Fld := ⟨75499520, 1, 128, 64, .ro, 0, 0, 2 ^ 1 - 1, false⟩
/-- SIEVE_ENG.quarantined (Table 10.12, R301): Removed from B by HEALTH. -/
def sieveEngQuarantined : Fld := ⟨75499521, 1, 128, 64, .ro, 0, 0, 2 ^ 1 - 1, false⟩
/-- SIEVE_ENG.jobs (Table 10.12, R301): Jobs completed, wrapping. -/
def sieveEngJobs : Fld := ⟨75499552, 32, 128, 64, .ro, 0, 0, 2 ^ 32 - 1, false⟩
/-- SIEVE_ENG.busy_ns (Table 10.12, R301): Engine busy time, ns. -/
def sieveEngBusyNs : Fld := ⟨75499584, 64, 128, 64, .ro, 0, 0, 2 ^ 64 - 1, false⟩
/-- CHISEL_INFO.cores (Table 11.10, R328): Equals CAPS1.chisel_count. -/
def chiselInfoCores : Fld := ⟨83886080, 7, 0, 1, .ro, 0, 0, 2 ^ 7 - 1, false⟩
/-- CHISEL_INFO.images (Table 11.10, R328): L1 images present, 0–8. -/
def chiselInfoImages : Fld := ⟨83886087, 4, 0, 1, .ro, 0, 0, 2 ^ 4 - 1, false⟩
/-- CHISEL_CFG.wdog_us (Table 11.10, R328): Watchdog in µs, 10–65,535; 0 = off. -/
def chiselCfgWdogUs : Fld := ⟨83886112, 16, 0, 1, .ro, 0, 0, 2 ^ 16 - 1, false⟩
/-- CHISEL_IMAGE.status (Table 11.10, R328): 0 none, 1 loaded, 2 refused, 3 reserved. -/
def chiselImageStatus : Fld := ⟨83888128, 2, 256, 8, .ro, 0, 0, 2 ^ 2 - 1, false⟩
/-- CHISEL_IMAGE.signer (Table 11.10, R328): 0 reference, 1 customer. -/
def chiselImageSigner : Fld := ⟨83888130, 1, 256, 8, .ro, 0, 0, 2 ^ 1 - 1, false⟩
/-- CHISEL_IMAGE.reason (Table 11.10, R328): Status code of a refusal (R327). -/
def chiselImageReason : Fld := ⟨83888136, 8, 256, 8, .ro, 0, 0, 2 ^ 8 - 1, false⟩
/-- CHISEL_IMAGE.version (Table 11.10, R328): From the header. -/
def chiselImageVersion : Fld := ⟨83888160, 32, 256, 8, .ro, 0, 0, 2 ^ 32 - 1, false⟩
/-- CHISEL_IMAGE.core_mask (Table 11.10, R328): From the header. -/
def chiselImageCoreMask : Fld := ⟨83888192, 64, 256, 8, .ro, 0, 0, 2 ^ 64 - 1, false⟩
/-- CHISEL_FAPI_MAP.mask (Table 11.10, R328): Cores that receive the FAPI event of ring pair i. -/
def chiselFapiMapMask : Fld := ⟨83894272, 64, 64, 16, .ro, 0, 0, 2 ^ 64 - 1, false⟩
/-- CHISEL_CORE.state (Table 11.10, R328): 0 OFF, 1 LOADING, 2 RUNNING, 3 WAITING, 4 FAULT, 5 RESTARTING; 6–7 reserved. -/
def chiselCoreState : Fld := ⟨83918848, 3, 512, 64, .ro, 0, 0, 2 ^ 3 - 1, false⟩
/-- CHISEL_CORE.cause (Table 11.10, R328): Last fault cause (R326). -/
def chiselCoreCause : Fld := ⟨83918856, 8, 512, 64, .ro, 0, 0, 2 ^ 8 - 1, false⟩
/-- CHISEL_CORE.image (Table 11.10, R328): Image index. -/
def chiselCoreImage : Fld := ⟨83918864, 4, 512, 64, .ro, 0, 0, 2 ^ 4 - 1, false⟩
/-- CHISEL_CORE.fault_pc (Table 11.10, R328): Bundle address of the last fault. -/
def chiselCoreFaultPc : Fld := ⟨83918880, 17, 512, 64, .ro, 0, 0, 2 ^ 17 - 1, false⟩
/-- CHISEL_CORE.restarts (Table 11.10, R328): Saturating. -/
def chiselCoreRestarts : Fld := ⟨83918912, 16, 512, 64, .ro, 0, 0, 2 ^ 16 - 1, false⟩
/-- CHISEL_CORE.port_stalls (Table 11.10, R328): C-clocks stalled on full queues, wrapping. -/
def chiselCorePortStalls : Fld := ⟨83918944, 32, 512, 64, .ro, 0, 0, 2 ^ 32 - 1, false⟩
/-- CHISEL_CORE.busy_cycles (Table 11.10, R328): C-clocks issuing or stalled. -/
def chiselCoreBusyCycles : Fld := ⟨83918976, 64, 512, 64, .ro, 0, 0, 2 ^ 64 - 1, false⟩
/-- CHISEL_CORE.wait_cycles (Table 11.10, R328): C-clocks in WAIT. -/
def chiselCoreWaitCycles : Fld := ⟨83919040, 64, 512, 64, .ro, 0, 0, 2 ^ 64 - 1, false⟩
/-- CHISEL_CORE.live_pc (Table 11.10, R328): Bundle now issuing. -/
def chiselCoreLivePc : Fld := ⟨83919104, 17, 512, 64, .ro, 0, 0, 2 ^ 17 - 1, false⟩
/-- CHISEL_CORE.live_ev (Table 11.10, R328): EV now. -/
def chiselCoreLiveEv : Fld := ⟨83919136, 32, 512, 64, .ro, 0, 0, 2 ^ 32 - 1, false⟩
/-- TDFE_INFO.streams (Table 12.2, R350): Streams defined, 0–16. -/
def tdfeInfoStreams : Fld := ⟨92274688, 5, 0, 1, .ro, 0, 0, 2 ^ 5 - 1, false⟩
/-- TDFE_INFO.chirp (Table 12.2, R350): Equals CAPS1.chirp. -/
def tdfeInfoChirp : Fld := ⟨92274693, 1, 0, 1, .ro, 0, 0, 2 ^ 1 - 1, false⟩
/-- TDFE_INFO.channels (Table 12.2, R350): Chirp channels, 0–64. -/
def tdfeInfoChannels : Fld := ⟨92274694, 7, 0, 1, .ro, 0, 0, 2 ^ 7 - 1, false⟩
/-- CHIRP_STAT.rx_dropped (Table 12.2, R350): Records lost to a full ring, wrapping. -/
def chirpStatRxDropped : Fld := ⟨92274720, 32, 0, 1, .ro, 0, 0, 2 ^ 32 - 1, false⟩
/-- TDFE_STREAM.kind (Table 12.2, R350): 0 off, 1 NR split-8, 2 chirp, 3 reserved. -/
def tdfeStreamKind : Fld := ⟨92276736, 2, 512, 16, .ro, 0, 0, 2 ^ 2 - 1, false⟩
/-- TDFE_STREAM.running (Table 12.2, R350): Stream active. -/
def tdfeStreamRunning : Fld := ⟨92276738, 1, 512, 16, .ro, 0, 0, 2 ^ 1 - 1, false⟩
/-- TDFE_STREAM.cell (Table 12.2, R350): Cell index; zero for chirp. -/
def tdfeStreamCell : Fld := ⟨92276739, 9, 512, 16, .ro, 0, 0, 2 ^ 9 - 1, false⟩
/-- TDFE_STREAM.lport (Table 12.2, R350): Fronthaul logical port. -/
def tdfeStreamLport : Fld := ⟨92276748, 5, 512, 16, .ro, 0, 0, 2 ^ 5 - 1, false⟩
/-- TDFE_STREAM.dec (Table 12.2, R350): D minus one: 0–15 for D = 1–16. -/
def tdfeStreamDec : Fld := ⟨92276753, 4, 512, 16, .ro, 0, 0, 2 ^ 4 - 1, false⟩
/-- TDFE_STREAM.interp (Table 12.2, R350): I minus one: 0–15 for I = 1–16. -/
def tdfeStreamInterp : Fld := ⟨92276757, 4, 512, 16, .ro, 0, 0, 2 ^ 4 - 1, false⟩
/-- TDFE_STREAM.core (Table 12.2, R350): Owning Chisel core. -/
def tdfeStreamCore : Fld := ⟨92276761, 6, 512, 16, .ro, 0, 0, 2 ^ 6 - 1, false⟩
/-- TDFE_STREAM.rate_khz (Table 12.2, R350): Fronthaul rate, kHz. -/
def tdfeStreamRateKhz : Fld := ⟨92276768, 32, 512, 16, .ro, 0, 0, 2 ^ 32 - 1, false⟩
/-- TDFE_STREAM.rx_missing (Table 12.2, R350): Samples zero-filled (R332), wrapping. -/
def tdfeStreamRxMissing : Fld := ⟨92276800, 32, 512, 16, .ro, 0, 0, 2 ^ 32 - 1, false⟩
/-- TDFE_STREAM.rx_discarded (Table 12.2, R350): Packets discarded (R332), wrapping. -/
def tdfeStreamRxDiscarded : Fld := ⟨92276832, 32, 512, 16, .ro, 0, 0, 2 ^ 32 - 1, false⟩
/-- TDFE_STREAM.tx_underrun (Table 12.2, R350): Packets sent as zeros (R333), wrapping. -/
def tdfeStreamTxUnderrun : Fld := ⟨92276864, 32, 512, 16, .ro, 0, 0, 2 ^ 32 - 1, false⟩
/-- TDFE_STREAM.sat_count (Table 12.2, R350): Filter, FFT and sum saturations, wrapping. -/
def tdfeStreamSatCount : Fld := ⟨92276896, 32, 512, 16, .ro, 0, 0, 2 ^ 32 - 1, false⟩
/-- TDFE_STREAM.action (Table 12.2, R350): 0 FLAG, 1 MUTE. -/
def tdfeStreamAction : Fld := ⟨92276928, 1, 512, 16, .staged, 0, 0, 2 ^ 1 - 1, false⟩
/-- TDFE_STREAM.n_viol (Table 12.2, R350): Violating blocks of 8 needed, minus one. -/
def tdfeStreamNViol : Fld := ⟨92276929, 3, 512, 16, .staged, 0, 0, 2 ^ 3 - 1, false⟩
/-- TDFE_STREAM.seg_count (Table 12.2, R350): Segments in use, 0–32. -/
def tdfeStreamSegCount : Fld := ⟨92276932, 6, 512, 16, .staged, 0, 0, 2 ^ 6 - 1, false⟩
/-- TDFE_STREAM.muted (Table 12.2, R350): Stream muted (R339). -/
def tdfeStreamMuted : Fld := ⟨92276938, 1, 512, 16, .ro, 0, 0, 2 ^ 1 - 1, false⟩
/-- TDFE_STREAM.unmute (Table 12.2, R350): End the mute at the next packet. -/
def tdfeStreamUnmute : Fld := ⟨92276939, 1, 512, 16, .rws, 0, 0, 2 ^ 1 - 1, true⟩
/-- TDFE_STREAM.violated (Table 12.2, R350): A violation was decided. -/
def tdfeStreamViolated : Fld := ⟨92276940, 1, 512, 16, .rw1c, 0, 0, 2 ^ 1 - 1, false⟩
/-- TDFE_STREAM.violations (Table 12.2, R350): Violations decided, wrapping. -/
def tdfeStreamViolations : Fld := ⟨92276960, 32, 512, 16, .ro, 0, 0, 2 ^ 32 - 1, false⟩
/-- TDFE_STREAM.last_seg (Table 12.2, R350): Segment of the last violation. -/
def tdfeStreamLastSeg : Fld := ⟨92276992, 5, 512, 16, .ro, 0, 0, 2 ^ 5 - 1, false⟩
/-- TDFE_STREAM.last_excess (Table 12.2, R350): Its excess over the limit, dB × 4. -/
def tdfeStreamLastExcess : Fld := ⟨92277008, 16, 512, 16, .ro, 0, 0, 2 ^ 16 - 1, false⟩
/-- TDFE_SEG.lo (Table 12.2, R350): First bin, signed. -/
def tdfeSegLo : Fld := ⟨92307456, 10, 64, 512, .staged, 0, 0, 2 ^ 10 - 1, false⟩
/-- TDFE_SEG.hi (Table 12.2, R350): Last bin, signed. -/
def tdfeSegHi : Fld := ⟨92307466, 10, 64, 512, .staged, 0, 0, 2 ^ 10 - 1, false⟩
/-- TDFE_SEG.limit (Table 12.2, R350): Limit, signed dBFS × 4. -/
def tdfeSegLimit : Fld := ⟨92307476, 12, 64, 512, .staged, 0, 0, 2 ^ 12 - 1, false⟩
/-- TDFE_SEG.last_q (Table 12.2, R350): Power in the last block, signed dBFS × 4. -/
def tdfeSegLastQ : Fld := ⟨92307488, 16, 64, 512, .ro, 0, 0, 2 ^ 16 - 1, false⟩
/-- CHIRP_CH.stream (Table 12.2, R350): Stream number. -/
def chirpChStream : Fld := ⟨92372992, 4, 256, 64, .ro, 0, 0, 2 ^ 4 - 1, false⟩
/-- CHIRP_CH.bw (Table 12.2, R350): 0 62.5, 1 125, 2 250, 3 500 kHz. -/
def chirpChBw : Fld := ⟨92372996, 2, 256, 64, .ro, 0, 0, 2 ^ 2 - 1, false⟩
/-- CHIRP_CH.enabled (Table 12.2, R350): Channel in the plan. -/
def chirpChEnabled : Fld := ⟨92372998, 1, 256, 64, .ro, 0, 0, 2 ^ 1 - 1, false⟩
/-- CHIRP_CH.offset (Table 12.2, R350): Centre offset, signed, 15.625 kHz units. -/
def chirpChOffset : Fld := ⟨92372999, 10, 256, 64, .ro, 0, 0, 2 ^ 10 - 1, false⟩
/-- CHIRP_CH.noise_floor (Table 12.2, R350): Signed dBFS × 4; 0x8000 until the first measurement. -/
def chirpChNoiseFloor : Fld := ⟨92373024, 16, 256, 64, .ro, 32768, 0, 2 ^ 16 - 1, false⟩
/-- CHIRP_CH.packets (Table 12.2, R350): Records written, wrapping. -/
def chirpChPackets : Fld := ⟨92373056, 32, 256, 64, .ro, 0, 0, 2 ^ 32 - 1, false⟩
/-- CHIRP_CH.mark_mismatch (Table 12.2, R350): Detections failing the mark or turn check (R343), wrapping. -/
def chirpChMarkMismatch : Fld := ⟨92373088, 32, 256, 64, .ro, 0, 0, 2 ^ 32 - 1, false⟩
/-- CHIRP_CH.collisions (Table 12.2, R350): Detections lost under R345, wrapping. -/
def chirpChCollisions : Fld := ⟨92373120, 32, 256, 64, .ro, 0, 0, 2 ^ 32 - 1, false⟩
/-- CHIRP_CH.mark (Table 12.2, R350): Mark value (R341). -/
def chirpChMark : Fld := ⟨92373152, 12, 256, 64, .ro, 0, 0, 2 ^ 12 - 1, false⟩
/-- CHIRP_CH.pre_min (Table 12.2, R350): Consistent upchirps required. -/
def chirpChPreMin : Fld := ⟨92373168, 4, 256, 64, .ro, 0, 0, 2 ^ 4 - 1, false⟩
/-- CHIRP_CH.max_symbols (Table 12.2, R350): Data symbol limit. -/
def chirpChMaxSymbols : Fld := ⟨92373172, 11, 256, 64, .ro, 0, 0, 2 ^ 11 - 1, false⟩
/-- BANK_CFG.age_step_ms (Table 13.10, R384): Age step, 1–255 ms. -/
def bankCfgAgeStepMs : Fld := ⟨8388608, 8, 0, 1, .rw, 10, 1, 255, false⟩
/-- BANK_CFG.starve_ms (Table 13.10, R384): Starvation bound, 5–10,000 ms. -/
def bankCfgStarveMs : Fld := ⟨8388616, 14, 0, 1, .rw, 50, 5, 10000, false⟩
/-- BANK_CFG.eff_pct (Table 13.10, R384): Switch efficiency bound, 0–95 %; 0 = off (R360). -/
def bankCfgEffPct : Fld := ⟨8388630, 7, 0, 1, .rw, 90, 0, 95, false⟩
/-- BANK_SWITCH_CFG.grace_us (Table 13.10, R384): Switch grace, 20–500 µs. -/
def bankSwitchCfgGraceUs : Fld := ⟨8388640, 10, 0, 1, .rw, 200, 20, 500, false⟩
/-- BANK_SWITCH_CFG.evict_min_us (Table 13.10, R384): Blocked time before eviction, 10–65,535 µs. -/
def bankSwitchCfgEvictMinUs : Fld := ⟨8388650, 16, 0, 1, .rw, 100, 10, 65535, false⟩
/-- BANK_ROT.count (Table 13.10, R384): Rotation benches (R362). -/
def bankRotCount : Fld := ⟨8388672, 6, 0, 1, .ro, 0, 0, 2 ^ 6 - 1, false⟩
/-- BANK_ROT.headroom (Table 13.10, R384): 0–8. -/
def bankRotHeadroom : Fld := ⟨8388678, 6, 0, 1, .ro, 0, 0, 2 ^ 6 - 1, false⟩
/-- BANK_ROT.lead_us (Table 13.10, R384): Reservation lead, 10–50 µs. -/
def bankRotLeadUs : Fld := ⟨8388684, 6, 0, 1, .ro, 0, 0, 2 ^ 6 - 1, false⟩
/-- BANK_ROT.period_20 (Table 13.10, R384): Recipe period: 0 = 10 ms, 1 = 20 ms. -/
def bankRotPeriod20 : Fld := ⟨8388690, 1, 0, 1, .ro, 0, 0, 2 ^ 1 - 1, false⟩
/-- BANK_ROT.entries (Table 13.10, R384): Reservation entries, 0–4,095. -/
def bankRotEntries : Fld := ⟨8388691, 12, 0, 1, .ro, 0, 0, 2 ^ 12 - 1, false⟩
/-- BANK_FLOOR.max_div12 (Table 13.10, R384): F_max at ÷12. -/
def bankFloorMaxDiv12 : Fld := ⟨8388704, 6, 0, 1, .ro, 0, 0, 2 ^ 6 - 1, false⟩
/-- BANK_FLOOR.max_div16 (Table 13.10, R384): F_max at ÷16. -/
def bankFloorMaxDiv16 : Fld := ⟨8388710, 6, 0, 1, .ro, 0, 0, 2 ^ 6 - 1, false⟩
/-- BANK_FLOOR.max_div24 (Table 13.10, R384): F_max at ÷24. -/
def bankFloorMaxDiv24 : Fld := ⟨8388716, 6, 0, 1, .ro, 0, 0, 2 ^ 6 - 1, false⟩
/-- BANK_FLOOR.allowed (Table 13.10, R384): Bit i: throttle step i allowed (0 ÷12, 1 ÷16, 2 ÷24). -/
def bankFloorAllowed : Fld := ⟨8388722, 3, 0, 1, .ro, 0, 0, 2 ^ 3 - 1, false⟩
/-- BANK_FLOOR.now (Table 13.10, R384): Benches held by radio now. -/
def bankFloorNow : Fld := ⟨8388725, 6, 0, 1, .ro, 0, 0, 2 ^ 6 - 1, false⟩
/-- BANK_ROT_MASK.mask (Table 13.10, R384): Bit b: logical bench b is in rotation. -/
def bankRotMaskMask : Fld := ⟨8388736, 32, 0, 1, .ro, 0, 0, 2 ^ 32 - 1, false⟩
/-- BANK_THERM.tenant_cap (Table 13.10, R384): Cap on ACTIVE tenant benches (R383). -/
def bankThermTenantCap : Fld := ⟨8388768, 6, 0, 1, .ro, 0, 0, 2 ^ 6 - 1, false⟩
/-- BANK_EXTRA_TAKES.count (Table 13.10, R384): Benches taken beyond the floor, wrapping. -/
def bankExtraTakesCount : Fld := ⟨8388800, 32, 0, 1, .ro, 0, 0, 2 ^ 32 - 1, false⟩
/-- BANK_EXTRA_WAITS.count (Table 13.10, R384): Beyond-floor commands that waited (R368), wrapping. -/
def bankExtraWaitsCount : Fld := ⟨8388832, 32, 0, 1, .ro, 0, 0, 2 ^ 32 - 1, false⟩
/-- BANK_OVERRUNS.count (Table 13.10, R384): Floor benches held past their hold, wrapping. -/
def bankOverrunsCount : Fld := ⟨8388864, 32, 0, 1, .ro, 0, 0, 2 ^ 32 - 1, false⟩
/-- BANK_STARVE.switches (Table 13.10, R384): Starvation switches, wrapping. -/
def bankStarveSwitches : Fld := ⟨8388896, 16, 0, 1, .ro, 0, 0, 2 ^ 16 - 1, false⟩
/-- BANK_STARVE.misses (Table 13.10, R384): Contexts past starve_ms, saturating. -/
def bankStarveMisses : Fld := ⟨8388912, 16, 0, 1, .ro, 0, 0, 2 ^ 16 - 1, false⟩
/-- BANK_PWR.doorbell_reserve (Table 13.10, R384): 0–8 benches. -/
def bankPwrDoorbellReserve : Fld := ⟨8388928, 6, 0, 1, .rw, 2, 0, 8, false⟩
/-- BANK_PWR.blocked_hold_us (Table 13.10, R384): 1–65,535 µs. -/
def bankPwrBlockedHoldUs : Fld := ⟨8388934, 16, 0, 1, .rw, 200, 1, 65535, false⟩
/-- BANK_PWR.idle_dark_ms (Table 13.10, R384): 1–1,023 ms. -/
def bankPwrIdleDarkMs : Fld := ⟨8388950, 10, 0, 1, .rw, 10, 1, 1023, false⟩
/-- BANK_PWR_MODEL.p_active_mw (Table 13.10, R384): 6,000. -/
def bankPwrModelPActiveMw : Fld := ⟨8388992, 16, 0, 1, .ro, 6000, 0, 2 ^ 16 - 1, false⟩
/-- BANK_PWR_MODEL.p_gated_mw (Table 13.10, R384): 2,400. -/
def bankPwrModelPGatedMw : Fld := ⟨8389008, 16, 0, 1, .ro, 2400, 0, 2 ^ 16 - 1, false⟩
/-- BANK_PWR_MODEL.p_retain_mw (Table 13.10, R384): 900. -/
def bankPwrModelPRetainMw : Fld := ⟨8389024, 16, 0, 1, .ro, 900, 0, 2 ^ 16 - 1, false⟩
/-- BANK_PWR_MODEL.p_dark_mw (Table 13.10, R384): 50. -/
def bankPwrModelPDarkMw : Fld := ⟨8389040, 16, 0, 1, .ro, 50, 0, 2 ^ 16 - 1, false⟩
/-- BANK_PWR_MODEL.e_retain_nj (Table 13.10, R384): 15,000. -/
def bankPwrModelERetainNj : Fld := ⟨8389056, 16, 0, 1, .ro, 15000, 0, 2 ^ 16 - 1, false⟩
/-- BANK_PWR_MODEL.e_dark_nj (Table 13.10, R384): 20,000. -/
def bankPwrModelEDarkNj : Fld := ⟨8389072, 16, 0, 1, .ro, 20000, 0, 2 ^ 16 - 1, false⟩
/-- BANK_PWR_MODEL.e_ctx_pj (Table 13.10, R384): 32, per byte moved. -/
def bankPwrModelECtxPj : Fld := ⟨8389088, 8, 0, 1, .ro, 32, 0, 2 ^ 8 - 1, false⟩
/-- BANK_PWR_MODEL.e_gated_nj (Table 13.10, R384): 50. -/
def bankPwrModelEGatedNj : Fld := ⟨8389096, 8, 0, 1, .ro, 50, 0, 2 ^ 8 - 1, false⟩
/-- BANK_SWITCHES.count (Table 13.10, R384): Context switches, wrapping. -/
def bankSwitchesCount : Fld := ⟨8389120, 64, 0, 1, .ro, 0, 0, 2 ^ 64 - 1, false⟩
/-- BANK_SWITCH_NS.ns (Table 13.10, R384): Total switch time, wrapping. -/
def bankSwitchNsNs : Fld := ⟨8389184, 64, 0, 1, .ro, 0, 0, 2 ^ 64 - 1, false⟩
/-- BANK_T_SW.mean_ns (Table 13.10, R384): Mean of the last 1,024 switches after grace; the reset value until the first switch. -/
def bankTSwMeanNs : Fld := ⟨8389248, 32, 0, 1, .ro, 70000, 0, 2 ^ 32 - 1, false⟩
/-- BANK_EVICTIONS.count (Table 13.10, R384): Evictions, wrapping. -/
def bankEvictionsCount : Fld := ⟨8389280, 32, 0, 1, .ro, 0, 0, 2 ^ 32 - 1, false⟩
/-- BANK_KILLS.radio (Table 13.10, R384): Commands killed by the Wedge, wrapping. -/
def bankKillsRadio : Fld := ⟨8389312, 32, 0, 1, .ro, 0, 0, 2 ^ 32 - 1, false⟩
/-- BANK_KILLS.switch (Table 13.10, R384): Killed at the end of grace, wrapping. -/
def bankKillsSwitch : Fld := ⟨8389344, 32, 0, 1, .ro, 0, 0, 2 ^ 32 - 1, false⟩
/-- BANK_KILLS.evict (Table 13.10, R384): Killed by eviction, wrapping. -/
def bankKillsEvict : Fld := ⟨8389376, 32, 0, 1, .ro, 0, 0, 2 ^ 32 - 1, false⟩
/-- BANK_BENCH.plan (Table 13.10, R384): State chosen under R380: 0 ACTIVE, 1 GATED, 2 RETAIN, 3 DARK. -/
def bankBenchPlan : Fld := ⟨8390656, 2, 64, 32, .ro, 0, 0, 2 ^ 2 - 1, false⟩
/-- BANK_BENCH.reserve (Table 13.10, R384): Member of the doorbell reserve. -/
def bankBenchReserve : Fld := ⟨8390658, 1, 64, 32, .ro, 0, 0, 2 ^ 1 - 1, false⟩
/-- BANK_BENCH.next_us (Table 13.10, R384): T to the next known event, µs; all ones = none. -/
def bankBenchNextUs : Fld := ⟨8390659, 24, 64, 32, .ro, 16777215, 0, 2 ^ 24 - 1, false⟩
/-- BANK_BENCH.floor_pos (Table 13.10, R384): Floor position held. -/
def bankBenchFloorPos : Fld := ⟨8390688, 5, 64, 32, .ro, 0, 0, 2 ^ 5 - 1, false⟩
/-- BANK_BENCH.floor (Table 13.10, R384): Held by radio. -/
def bankBenchFloor : Fld := ⟨8390693, 1, 64, 32, .ro, 0, 0, 2 ^ 1 - 1, false⟩
/-- BANK_PART.bench_min (Table 13.10, R384): Guaranteed benches. -/
def bankPartBenchMin : Fld := ⟨8421376, 6, 256, 513, .staged, 0, 0, 2 ^ 6 - 1, false⟩
/-- BANK_PART.bench_max (Table 13.10, R384): Benches at most. -/
def bankPartBenchMax : Fld := ⟨8421382, 6, 256, 513, .staged, 0, 0, 2 ^ 6 - 1, false⟩
/-- BANK_PART.weight (Table 13.10, R384): Share of lent benches; 0 = none. -/
def bankPartWeight : Fld := ⟨8421388, 8, 256, 513, .staged, 0, 0, 2 ^ 8 - 1, false⟩
/-- BANK_PART.quantum (Table 13.10, R384): Quantum in 100 µs units, 2–1,000. -/
def bankPartQuantum : Fld := ⟨8421396, 10, 256, 513, .staged, 20, 0, 2 ^ 10 - 1, false⟩
/-- BANK_PART.save_lot (Table 13.10, R384): Lot holding the save slots (R374). -/
def bankPartSaveLot : Fld := ⟨8421408, 9, 256, 513, .rw, 0, 0, 2 ^ 9 - 1, false⟩
/-- BANK_PART.held (Table 13.10, R384): Benches held. -/
def bankPartHeld : Fld := ⟨8421440, 6, 256, 513, .ro, 0, 0, 2 ^ 6 - 1, false⟩
/-- BANK_PART.waiting (Table 13.10, R384): Waiting contexts. -/
def bankPartWaiting : Fld := ⟨8421446, 6, 256, 513, .ro, 0, 0, 2 ^ 6 - 1, false⟩
/-- BANK_PART.blocked (Table 13.10, R384): Blocked resident contexts. -/
def bankPartBlocked : Fld := ⟨8421452, 6, 256, 513, .ro, 0, 0, 2 ^ 6 - 1, false⟩
/-- BANK_PART.vtime (Table 13.10, R384): v_f (R361). -/
def bankPartVtime : Fld := ⟨8421504, 64, 256, 513, .ro, 0, 0, 2 ^ 64 - 1, false⟩
/-- BANK_PART.bench_ns (Table 13.10, R384): Bench time held, ns, wrapping. -/
def bankPartBenchNs : Fld := ⟨8421568, 64, 256, 513, .ro, 0, 0, 2 ^ 64 - 1, false⟩
/-- TEN_INFO.vfs (Table 15.10, R417): NumVFs. -/
def tenInfoVfs : Fld := ⟨100663296, 10, 0, 1, .ro, 0, 0, 2 ^ 10 - 1, false⟩
/-- TEN_SAMPLE.period_us (Table 15.10, R417): Sampling period; 0 = off (R404). -/
def tenSamplePeriodUs : Fld := ⟨100663328, 16, 0, 1, .rw, 0, 0, 2 ^ 16 - 1, false⟩
/-- TEN_SAMPLE.clear (Table 15.10, R417): Zero all histograms. -/
def tenSampleClear : Fld := ⟨100663344, 1, 0, 1, .rws, 0, 0, 2 ^ 1 - 1, true⟩
/-- MIG_DESC.pa (Table 15.10, R417): Descriptor address, 64-byte aligned (R413). -/
def migDescPa : Fld := ⟨100663360, 39, 0, 1, .rw, 0, 0, 2 ^ 39 - 1, false⟩
/-- MIG_CTRL.go (Table 15.10, R417): Start the operation. -/
def migCtrlGo : Fld := ⟨100663424, 1, 0, 1, .rws, 0, 0, 2 ^ 1 - 1, true⟩
/-- MIG_CTRL.status (Table 15.10, R417): Final status. -/
def migCtrlStatus : Fld := ⟨100663432, 8, 0, 1, .ro, 0, 0, 2 ^ 8 - 1, false⟩
/-- MIG_BYTES.bytes (Table 15.10, R417): Bytes moved by the last operation. -/
def migBytesBytes : Fld := ⟨100663488, 64, 0, 1, .ro, 0, 0, 2 ^ 64 - 1, false⟩
/-- PF_ERRLOG_IDX.tail (Table 15.10, R417): Next entry the device writes. -/
def pfErrlogIdxTail : Fld := ⟨100663552, 6, 0, 1, .ro, 0, 0, 2 ^ 6 - 1, false⟩
/-- PF_ERRLOG_IDX.head (Table 15.10, R417): Next entry the manager reads. -/
def pfErrlogIdxHead : Fld := ⟨100663560, 6, 0, 1, .rw, 0, 0, 2 ^ 6 - 1, false⟩
/-- PF_ERRLOG_IDX.dropped (Table 15.10, R417): Entries lost, saturating. -/
def pfErrlogIdxDropped : Fld := ⟨100663568, 16, 0, 1, .ro, 0, 0, 2 ^ 16 - 1, false⟩
/-- PF_ERRLOG.entry (Table 15.10, R417): Table 15.4. -/
def pfErrlogEntry : Fld := ⟨100665344, 128, 128, 64, .ro, 0, 0, 2 ^ 128 - 1, false⟩
/-- VF_CTL.state (Table 15.10, R417): 0 OFF, 1 ACTIVE, 2 QUIESCING, 3 QUIESCED, 4 RESETTING, 5 FREEZING, 6 FROZEN, 7 reserved. -/
def vfCtlState : Fld := ⟨101187584, 3, 512, 513, .ro, 0, 0, 2 ^ 3 - 1, false⟩
/-- VF_CTL.stop (Table 15.10, R417): Quiesce (R407). -/
def vfCtlStop : Fld := ⟨101187587, 1, 512, 513, .rw, 0, 0, 2 ^ 1 - 1, true⟩
/-- VF_CTL.reset (Table 15.10, R417): Reset from QUIESCED. -/
def vfCtlReset : Fld := ⟨101187588, 1, 512, 513, .rws, 0, 0, 2 ^ 1 - 1, true⟩
/-- VF_CTL.force_reset (Table 15.10, R417): Forced reset (R409). -/
def vfCtlForceReset : Fld := ⟨101187589, 1, 512, 513, .rws, 0, 0, 2 ^ 1 - 1, true⟩
/-- VF_CTL.freeze (Table 15.10, R417): Freeze (R412). -/
def vfCtlFreeze : Fld := ⟨101187590, 1, 512, 513, .rws, 0, 0, 2 ^ 1 - 1, true⟩
/-- VF_CTL.resume (Table 15.10, R417): Resume from FROZEN. -/
def vfCtlResume : Fld := ⟨101187591, 1, 512, 513, .rws, 0, 0, 2 ^ 1 - 1, true⟩
/-- VF_CTL.last_status (Table 15.10, R417): Status of the last refused control write. -/
def vfCtlLastStatus : Fld := ⟨101187592, 8, 512, 513, .ro, 0, 0, 2 ^ 8 - 1, false⟩
/-- VF_CTL.epoch (Table 15.10, R417): VF_EPOCH. -/
def vfCtlEpoch : Fld := ⟨101187600, 16, 512, 513, .ro, 0, 0, 2 ^ 16 - 1, false⟩
/-- VF_CTL.steps_inflight (Table 15.10, R417): Admitted steps not completed. -/
def vfCtlStepsInflight : Fld := ⟨101187616, 7, 512, 513, .ro, 0, 0, 2 ^ 7 - 1, false⟩
/-- VF_CTL.colls_inflight (Table 15.10, R417): Collectives in flight, 0–8. -/
def vfCtlCollsInflight : Fld := ⟨101187623, 4, 512, 513, .ro, 0, 0, 2 ^ 4 - 1, false⟩
/-- VF_PART.yard_pages (Table 15.10, R417): Yard share P, 0–192. -/
def vfPartYardPages : Fld := ⟨101187648, 8, 512, 513, .staged, 0, 0, 2 ^ 8 - 1, false⟩
/-- VF_PART.gallery_weight (Table 15.10, R417): Gallery class T weight; 0 = served only when no other class T traffic waits. -/
def vfPartGalleryWeight : Fld := ⟨101187656, 8, 512, 513, .staged, 0, 0, 2 ^ 8 - 1, false⟩
/-- VF_PART.host_cir (Table 15.10, R417): Host DMA committed rate, 100 MB/s units. -/
def vfPartHostCir : Fld := ⟨101187680, 16, 512, 513, .staged, 0, 0, 2 ^ 16 - 1, false⟩
/-- VF_PART.host_pir (Table 15.10, R417): Host DMA peak rate; 0 gives POLICED (R402). -/
def vfPartHostPir : Fld := ⟨101187696, 16, 512, 513, .staged, 0, 0, 2 ^ 16 - 1, false⟩
/-- VF_PART.host_cbs (Table 15.10, R417): Committed burst, KiB. -/
def vfPartHostCbs : Fld := ⟨101187712, 16, 512, 513, .staged, 0, 0, 2 ^ 16 - 1, false⟩
/-- VF_PART.host_pbs (Table 15.10, R417): Peak burst, KiB. -/
def vfPartHostPbs : Fld := ⟨101187728, 16, 512, 513, .staged, 0, 0, 2 ^ 16 - 1, false⟩
/-- VF_PART.vfPartHostGreen (Table 15.10, R417): [31:0] green KiB, [63:32] yellow KiB, wrapping. -/
def vfPartHostGreen : Fld := ⟨101187744, 32, 512, 513, .ro, 0, 0, 2 ^ 32 - 1, false⟩
/-- VF_PART.vfPartHostYellow (Table 15.10, R417): [31:0] green KiB, [63:32] yellow KiB, wrapping. -/
def vfPartHostYellow : Fld := ⟨101187776, 32, 512, 513, .ro, 0, 0, 2 ^ 32 - 1, false⟩
/-- VF_PART.cause (Table 15.10, R417): Reset report: 0 none, 1 reset, 2 force_reset, 3 FLR. -/
def vfCtlCause : Fld := ⟨101187808, 2, 512, 513, .ro, 0, 0, 2 ^ 2 - 1, false⟩
/-- VF_PART.squashed_colls (Table 15.10, R417): Saturating. -/
def vfCtlSquashedColls : Fld := ⟨101187810, 8, 512, 513, .ro, 0, 0, 2 ^ 8 - 1, false⟩
/-- VF_PART.squashed_cmds (Table 15.10, R417): Saturating. -/
def vfCtlSquashedCmds : Fld := ⟨101187840, 16, 512, 513, .ro, 0, 0, 2 ^ 16 - 1, false⟩
/-- VF_PART.drained_cmds (Table 15.10, R417): Saturating. -/
def vfCtlDrainedCmds : Fld := ⟨101187856, 16, 512, 513, .ro, 0, 0, 2 ^ 16 - 1, false⟩
/-- VF_PART.drain_ns (Table 15.10, R417): From the reset write to the report. -/
def vfCtlDrainNs : Fld := ⟨101187872, 32, 512, 513, .ro, 0, 0, 2 ^ 32 - 1, false⟩
/-- VF_DIRTY.enable (Table 15.10, R417): Dirty page log on (R416). -/
def vfDirtyEnable : Fld := ⟨101187904, 1, 512, 513, .rw, 0, 0, 2 ^ 1 - 1, false⟩
/-- VF_DIRTY.overflow (Table 15.10, R417): A page went unlogged. -/
def vfDirtyOverflow : Fld := ⟨101187905, 1, 512, 513, .rw1c, 0, 0, 2 ^ 1 - 1, false⟩
/-- VF_DIRTY.size_log2 (Table 15.10, R417): Ring of 2^n entries, n = 8–20; others discarded. -/
def vfDirtySizeLog2 : Fld := ⟨101187906, 5, 512, 513, .rw, 0, 8, 20, false⟩
/-- VF_DIRTY.base (Table 15.10, R417): Ring address [47:12]. -/
def vfDirtyBase : Fld := ⟨101187916, 36, 512, 513, .rw, 0, 0, 2 ^ 36 - 1, false⟩
/-- VF_DIRTY.pasid (Table 15.10, R417): PF0 PASID of the ring. -/
def vfDirtyPasid : Fld := ⟨101187968, 20, 512, 513, .rw, 0, 0, 2 ^ 20 - 1, false⟩
/-- VF_DIRTY.tail (Table 15.10, R417): Next entry the device writes. -/
def vfDirtyTail : Fld := ⟨101188000, 20, 512, 513, .ro, 0, 0, 2 ^ 20 - 1, false⟩
/-- VF_DIRTY.head (Table 15.10, R417): Next entry the manager reads. -/
def vfDirtyHead : Fld := ⟨101188032, 20, 512, 513, .rw, 0, 0, 2 ^ 20 - 1, false⟩
/-- TEN_HIST.bins (Table 15.10, R417): Bins 0–15 depth, 16–31 delay, 32 bits each (R404). -/
def tenHistBin : Fld := ⟨102760448, 32, 32, 16416, .ro, 0, 0, 2 ^ 32 - 1, false⟩
/-- SEC_STATUS.identity_ok (Table 16.7, R431): Key derived (R419). -/
def secStatusIdentityOk : Fld := ⟨109051904, 1, 0, 1, .ro, 0, 0, 2 ^ 1 - 1, false⟩
/-- SEC_STATUS.grade_ok (Table 16.7, R431): Grade record verified. -/
def secStatusGradeOk : Fld := ⟨109051905, 1, 0, 1, .ro, 0, 0, 2 ^ 1 - 1, false⟩
/-- SEC_STATUS.firmware_ok (Table 16.7, R431): Firmware verified. -/
def secStatusFirmwareOk : Fld := ⟨109051906, 1, 0, 1, .ro, 0, 0, 2 ^ 1 - 1, false⟩
/-- SEC_STATUS.image_ok (Table 16.7, R431): Configuration image verified. -/
def secStatusImageOk : Fld := ⟨109051907, 1, 0, 1, .ro, 0, 0, 2 ^ 1 - 1, false⟩
/-- SEC_STATUS.fail_reason (Table 16.7, R431): Status code of the first failure. -/
def secStatusFailReason : Fld := ⟨109051912, 8, 0, 1, .ro, 0, 0, 2 ^ 8 - 1, false⟩
/-- SEC_STATUS.debug (Table 16.7, R431): Table 16.6. -/
def secStatusDebug : Fld := ⟨109051920, 2, 0, 1, .ro, 0, 0, 2 ^ 2 - 1, false⟩
/-- SEC_DEVICE_ID.id (Table 16.7, R431): Device ID. -/
def secDeviceIdId : Fld := ⟨109051968, 64, 0, 1, .ro, 0, 0, 2 ^ 64 - 1, false⟩
/-- SEC_PUBKEY.key (Table 16.7, R431): Public key, x then y. -/
def secPubkeyKey : Fld := ⟨109052032, 512, 0, 1, .ro, 0, 0, 2 ^ 512 - 1, false⟩
/-- SEC_CERT_LEN.len (Table 16.7, R431): Chain bytes in SEC_CERT, 0–4,096. -/
def secCertLenLen : Fld := ⟨109052544, 13, 0, 1, .ro, 0, 0, 2 ^ 13 - 1, false⟩
/-- SEC_OWNER_KEY.key (Table 16.7, R431): Owner public key. -/
def secOwnerKeyKey : Fld := ⟨109052672, 512, 0, 1, .ro, 0, 0, 2 ^ 512 - 1, false⟩
/-- SEC_MR.value (Table 16.7, R431): R424. -/
def secMrValue : Fld := ⟨109053952, 256, 256, 8, .ro, 0, 0, 2 ^ 256 - 1, false⟩
/-- SEC_MR_EXTEND.index (Table 16.7, R431): Register 5–7. -/
def secMrExtendIndex : Fld := ⟨109056000, 3, 0, 1, .rw, 0, 0, 2 ^ 3 - 1, false⟩
/-- SEC_MR_EXTEND.go (Table 16.7, R431): Extend with the value at +0x20. -/
def secMrExtendGo : Fld := ⟨109056003, 1, 0, 1, .rws, 0, 0, 2 ^ 1 - 1, true⟩
/-- SEC_MR_EXTEND.status (Table 16.7, R431): OK or PERMISSION. -/
def secMrExtendStatus : Fld := ⟨109056008, 8, 0, 1, .ro, 0, 0, 2 ^ 8 - 1, false⟩
/-- SEC_MR_EXTEND.value (Table 16.7, R431): m. -/
def secMrExtendValue : Fld := ⟨109056256, 256, 0, 1, .wo, 0, 0, 2 ^ 256 - 1, false⟩
/-- SEC_ATTEST.fn (Table 16.7, R431): 0–512. -/
def secAttestFn : Fld := ⟨109058048, 10, 0, 1, .rw, 0, 0, 2 ^ 10 - 1, false⟩
/-- SEC_ATTEST.go (Table 16.7, R431): Start (R425). -/
def secAttestGo : Fld := ⟨109058058, 1, 0, 1, .rws, 0, 0, 2 ^ 1 - 1, true⟩
/-- SEC_ATTEST.status (Table 16.7, R431): Final status. -/
def secAttestStatus : Fld := ⟨109058064, 8, 0, 1, .ro, 0, 0, 2 ^ 8 - 1, false⟩
/-- SEC_ATTEST.out (Table 16.7, R431): Report pa, 64-byte aligned. -/
def secAttestOut : Fld := ⟨109058112, 39, 0, 1, .rw, 0, 0, 2 ^ 39 - 1, false⟩
/-- SEC_ATTEST.SEC_ATTEST_NONCE (Table 16.7, R431): Nonce. -/
def secAttestNonce : Fld := ⟨109058304, 256, 0, 1, .rw, 0, 0, 2 ^ 256 - 1, false⟩
/-- SEC_KEY.fn (Table 16.7, R431): Target VF. -/
def secKeyFn : Fld := ⟨109060096, 10, 0, 1, .rw, 0, 0, 2 ^ 10 - 1, false⟩
/-- SEC_KEY.go (Table 16.7, R431): Start (R426). -/
def secKeyGo : Fld := ⟨109060106, 1, 0, 1, .rws, 0, 0, 2 ^ 1 - 1, true⟩
/-- SEC_KEY.status (Table 16.7, R431): Final status. -/
def secKeyStatus : Fld := ⟨109060112, 8, 0, 1, .ro, 0, 0, 2 ^ 8 - 1, false⟩
/-- SEC_KEY.blob (Table 16.7, R431): Blob pa. -/
def secKeyBlob : Fld := ⟨109060160, 39, 0, 1, .rw, 0, 0, 2 ^ 39 - 1, false⟩
/-- SEC_DEBUG.new (Table 16.7, R431): Draw a challenge. -/
def secDebugNew : Fld := ⟨109062144, 1, 0, 1, .rws, 0, 0, 2 ^ 1 - 1, true⟩
/-- SEC_DEBUG.submit (Table 16.7, R431): Check the token at +0x08. -/
def secDebugSubmit : Fld := ⟨109062145, 1, 0, 1, .rws, 0, 0, 2 ^ 1 - 1, true⟩
/-- SEC_DEBUG.status (Table 16.7, R431): Final status. -/
def secDebugStatus : Fld := ⟨109062152, 8, 0, 1, .ro, 0, 0, 2 ^ 8 - 1, false⟩
/-- SEC_DEBUG.token (Table 16.7, R431): Token pa in the manager reserve. -/
def secDebugToken : Fld := ⟨109062208, 39, 0, 1, .rw, 0, 0, 2 ^ 39 - 1, false⟩
/-- SEC_DEBUG.SEC_DEBUG_CHAL (Table 16.7, R431): Current challenge. -/
def secDebugChal : Fld := ⟨109062272, 128, 0, 1, .ro, 0, 0, 2 ^ 128 - 1, false⟩
/-- SEC_SVN.fw_min (Table 16.7, R431): Firmware minimum. -/
def secSvnFwMin : Fld := ⟨109064192, 16, 0, 1, .ro, 0, 0, 2 ^ 16 - 1, false⟩
/-- SEC_SVN.img_min (Table 16.7, R431): Configuration image minimum. -/
def secSvnImgMin : Fld := ⟨109064208, 16, 0, 1, .ro, 0, 0, 2 ^ 16 - 1, false⟩
/-- SEC_SVN.l1_min (Table 16.7, R431): L1 minimum. -/
def secSvnL1Min : Fld := ⟨109064224, 16, 0, 1, .ro, 0, 0, 2 ^ 16 - 1, false⟩
/-- SEC_SVN_RUN.fw (Table 16.7, R431): Running firmware svn. -/
def secSvnRunFw : Fld := ⟨109064256, 16, 0, 1, .ro, 0, 0, 2 ^ 16 - 1, false⟩
/-- SEC_SVN_RUN.img (Table 16.7, R431): Running image svn. -/
def secSvnRunImg : Fld := ⟨109064272, 16, 0, 1, .ro, 0, 0, 2 ^ 16 - 1, false⟩
/-- SEC_SVN_RUN.l1 (Table 16.7, R431): Lowest loaded L1 svn. -/
def secSvnRunL1 : Fld := ⟨109064288, 16, 0, 1, .ro, 0, 0, 2 ^ 16 - 1, false⟩
/-- SEC_SVN_COMMIT.go (Table 16.7, R431): R423. -/
def secSvnCommitGo : Fld := ⟨109064320, 1, 0, 1, .rws, 0, 0, 2 ^ 1 - 1, true⟩
/-- SEC_CERT.chain (Table 16.7, R431): DER chain (R420), zero-padded. -/
def secCertChain : Fld := ⟨109084672, 32768, 0, 1, .ro, 0, 0, 2 ^ 32768 - 1, false⟩
/-- SEC_VF.delivered (Table 16.7, R431): Slot holds a delivered key. -/
def secVfDelivered : Fld := ⟨109182976, 1, 128, 513, .ro, 0, 0, 2 ^ 1 - 1, false⟩
/-- SEC_VF.busy (Table 16.7, R431): Install or report in progress. -/
def secVfBusy : Fld := ⟨109182977, 1, 128, 513, .ro, 0, 0, 2 ^ 1 - 1, false⟩
/-- SEC_VF.key_check (Table 16.7, R431): As in Table 16.4. -/
def secVfKeyCheck : Fld := ⟨109183040, 64, 128, 513, .ro, 0, 0, 2 ^ 64 - 1, false⟩
/-- READY_SUMMARY.device (Table 17.8, R456): DEVICE READY. -/
def readySummaryDevice : Fld := ⟨524288, 1, 0, 1, .ro, 0, 0, 2 ^ 1 - 1, false⟩
/-- READY_SUMMARY.image (Table 17.8, R456): IMAGE READY. -/
def readySummaryImage : Fld := ⟨524289, 1, 0, 1, .ro, 0, 0, 2 ^ 1 - 1, false⟩
/-- READY_SUMMARY.memory (Table 17.8, R456): MEMORY READY. -/
def readySummaryMemory : Fld := ⟨524290, 1, 0, 1, .ro, 0, 0, 2 ^ 1 - 1, false⟩
/-- READY_SUMMARY.fabric (Table 17.8, R456): JEANO READY. -/
def readySummaryFabric : Fld := ⟨524291, 1, 0, 1, .ro, 0, 0, 2 ^ 1 - 1, false⟩
/-- READY_SUMMARY.time (Table 17.8, R456): TIME READY. -/
def readySummaryTime : Fld := ⟨524292, 1, 0, 1, .ro, 0, 0, 2 ^ 1 - 1, false⟩
/-- READY_SUMMARY.radio (Table 17.8, R456): RADIO READY. -/
def readySummaryRadio : Fld := ⟨524293, 1, 0, 1, .ro, 0, 0, 2 ^ 1 - 1, false⟩
/-- READY_SUMMARY.survey (Table 17.8, R456): SURVEY READY. -/
def readySummarySurvey : Fld := ⟨524294, 1, 0, 1, .ro, 0, 0, 2 ^ 1 - 1, false⟩
/-- READY_SUMMARY.locked (Table 17.8, R456): Configuration lock taken. -/
def readySummaryLocked : Fld := ⟨524295, 1, 0, 1, .ro, 0, 0, 2 ^ 1 - 1, false⟩
/-- READY_SUMMARY.restricted (Table 17.8, R456): Restricted start (R3). -/
def readySummaryRestricted : Fld := ⟨524296, 1, 0, 1, .ro, 0, 0, 2 ^ 1 - 1, false⟩
/-- READY_SUMMARY.failed (Table 17.8, R456): Functions FAILED, saturating. -/
def readySummaryFailed : Fld := ⟨524304, 8, 0, 1, .ro, 0, 0, 2 ^ 8 - 1, false⟩
/-- READY_UPTIME.us (Table 17.8, R456): µs since RESET_N released. -/
def readyUptimeUs : Fld := ⟨524352, 64, 0, 1, .ro, 0, 0, 2 ^ 64 - 1, false⟩
/-- READY_BOOT.fw_slot (Table 17.8, R456): 0 A, 1 B. -/
def readyBootFwSlot : Fld := ⟨524416, 1, 0, 1, .ro, 0, 0, 2 ^ 1 - 1, false⟩
/-- READY_BOOT.img_slot (Table 17.8, R456): 0 A, 1 B. -/
def readyBootImgSlot : Fld := ⟨524417, 1, 0, 1, .ro, 0, 0, 2 ^ 1 - 1, false⟩
/-- READY_BOOT.fw_fallback (Table 17.8, R456): Other firmware slot used. -/
def readyBootFwFallback : Fld := ⟨524418, 1, 0, 1, .ro, 0, 0, 2 ^ 1 - 1, false⟩
/-- READY_BOOT.img_fallback (Table 17.8, R456): Other image slot used. -/
def readyBootImgFallback : Fld := ⟨524419, 1, 0, 1, .ro, 0, 0, 2 ^ 1 - 1, false⟩
/-- READY_BOOT.prec_lost (Table 17.8, R456): No valid persistent record (R452). -/
def readyBootPrecLost : Fld := ⟨524420, 1, 0, 1, .ro, 0, 0, 2 ^ 1 - 1, false⟩
/-- READY_BOOT.prec_bank (Table 17.8, R456): Winner: 0 A, 1 B. -/
def readyBootPrecBank : Fld := ⟨524421, 1, 0, 1, .ro, 0, 0, 2 ^ 1 - 1, false⟩
/-- READY_BOOT.nvm_slow (Table 17.8, R456): NVM in 1S-1S-1S (R435). -/
def readyBootNvmSlow : Fld := ⟨524422, 1, 0, 1, .ro, 0, 0, 2 ^ 1 - 1, false⟩
/-- READY_NEXT.fw_slot (Table 17.8, R456): Firmware slot at the next start. -/
def readyNextFwSlot : Fld := ⟨524448, 1, 0, 1, .rw, 0, 0, 2 ^ 1 - 1, true⟩
/-- READY_NEXT.img_slot (Table 17.8, R456): Image slot at the next start. -/
def readyNextImgSlot : Fld := ⟨524449, 1, 0, 1, .rw, 0, 0, 2 ^ 1 - 1, true⟩
/-- READY_RESTART.key (Table 17.8, R456): 0x5A5A_A5A5 restarts (R439). -/
def readyRestartKey : Fld := ⟨524480, 32, 0, 1, .wo, 0, 0, 2 ^ 32 - 1, true⟩
/-- SURVEY_STATE.state (Table 17.8, R456): 0 not started, 1 running, 2 done, 3 reserved. -/
def surveyStateState : Fld := ⟨524544, 2, 0, 1, .ro, 0, 0, 2 ^ 2 - 1, false⟩
/-- SURVEY_STATE.thermal_reused (Table 17.8, R456): Stored model in use (R442). -/
def surveyStateThermalReused : Fld := ⟨524546, 1, 0, 1, .ro, 0, 0, 2 ^ 1 - 1, false⟩
/-- SURVEY_STATE.changed (Table 17.8, R456): Bits: supplies, cable ports, flights, partners, sensors, DRAM, cooling. -/
def surveyStateChanged : Fld := ⟨524552, 7, 0, 1, .ro, 0, 0, 2 ^ 7 - 1, false⟩
/-- READY_FN.state (Table 17.8, R456): 0 NOT_STARTED, 1 IN_PROGRESS, 2 READY, 3 FAILED, 4 ABSENT; 5–7 reserved. -/
def readyFnState : Fld := ⟨526336, 3, 64, 256, .ro, 0, 0, 2 ^ 3 - 1, false⟩
/-- READY_FN.status (Table 17.8, R456): Cause when FAILED. -/
def readyFnStatus : Fld := ⟨526344, 8, 64, 256, .ro, 0, 0, 2 ^ 8 - 1, false⟩
/-- READY_FN.stack (Table 17.8, R456): Benches: stack whose bring-up they follow (R503). -/
def readyFnStack : Fld := ⟨526352, 2, 64, 256, .ro, 0, 0, 2 ^ 2 - 1, false⟩
/-- READY_FN.ready_ms (Table 17.8, R456): ms since RESET_N at READY or FAILED. -/
def readyFnReadyMs : Fld := ⟨526368, 32, 64, 256, .ro, 0, 0, 2 ^ 32 - 1, false⟩
/-- CFG_LOCK.hold (Table 17.8, R456): Delay lock until lock is written (R446). -/
def cfgLockHold : Fld := ⟨1048576, 1, 0, 1, .rwl, 0, 0, 2 ^ 1 - 1, false⟩
/-- CFG_LOCK.lock (Table 17.8, R456): Writing 1 takes the lock; reads 1 after lock. -/
def cfgLockLock : Fld := ⟨1048577, 1, 0, 1, .rwl, 0, 0, 2 ^ 1 - 1, true⟩
/-- CFG_COMMIT.kind (Table 17.8, R456): Table 17.5. -/
def cfgCommitKind : Fld := ⟨1048704, 4, 0, 1, .rw, 0, 0, 2 ^ 4 - 1, false⟩
/-- CFG_COMMIT.index (Table 17.8, R456): Group index. -/
def cfgCommitIndex : Fld := ⟨1048708, 10, 0, 1, .rw, 0, 0, 2 ^ 10 - 1, false⟩
/-- CFG_COMMIT.go (Table 17.8, R456): Take the snapshot (R448). -/
def cfgCommitGo : Fld := ⟨1048718, 1, 0, 1, .rws, 0, 0, 2 ^ 1 - 1, true⟩
/-- CFG_COMMIT.token (Table 17.8, R456): Token of the last snapshot taken. -/
def cfgCommitToken : Fld := ⟨1048720, 16, 0, 1, .ro, 0, 0, 2 ^ 16 - 1, false⟩
/-- CFG_RESULT_IDX.tail (Table 17.8, R456): Next entry the device writes. -/
def cfgResultIdxTail : Fld := ⟨1048736, 6, 0, 1, .ro, 0, 0, 2 ^ 6 - 1, false⟩
/-- CFG_RESULT_IDX.head (Table 17.8, R456): Next entry the manager reads. -/
def cfgResultIdxHead : Fld := ⟨1048744, 6, 0, 1, .rw, 0, 0, 2 ^ 6 - 1, false⟩
/-- CFG_RESULT_IDX.dropped (Table 17.8, R456): Results lost to a full ring, saturating. -/
def cfgResultIdxDropped : Fld := ⟨1048752, 16, 0, 1, .ro, 0, 0, 2 ^ 16 - 1, false⟩
/-- CFG_PENDING.count (Table 17.8, R456): Commits taken and not yet final. -/
def cfgPendingCount : Fld := ⟨1048768, 10, 0, 1, .ro, 0, 0, 2 ^ 10 - 1, false⟩
/-- CFG_NVM.op (Table 17.8, R456): 0 READ, 1 ERASE, 2 PROGRAM, 3 reserved. -/
def cfgNvmOp : Fld := ⟨1049088, 2, 0, 1, .rw, 0, 0, 2 ^ 2 - 1, false⟩
/-- CFG_NVM.go (Table 17.8, R456): Start (R437). -/
def cfgNvmGo : Fld := ⟨1049090, 1, 0, 1, .rws, 0, 0, 2 ^ 1 - 1, true⟩
/-- CFG_NVM.win (Table 17.8, R456): Buffer: 0 pa in the manager reserve, 1 CFG_NVM_WIN. -/
def cfgNvmWin : Fld := ⟨1049091, 1, 0, 1, .rw, 0, 0, 2 ^ 1 - 1, false⟩
/-- CFG_NVM.status (Table 17.8, R456): Final status. -/
def cfgNvmStatus : Fld := ⟨1049096, 8, 0, 1, .ro, 0, 0, 2 ^ 8 - 1, false⟩
/-- CFG_NVM.nvm_offset (Table 17.8, R456): NVM byte offset; sector-aligned for ERASE. -/
def cfgNvmNvmOffset : Fld := ⟨1049152, 32, 0, 1, .rw, 0, 0, 2 ^ 32 - 1, false⟩
/-- CFG_NVM.length (Table 17.8, R456): Bytes. -/
def cfgNvmLength : Fld := ⟨1049184, 32, 0, 1, .rw, 0, 0, 2 ^ 32 - 1, false⟩
/-- CFG_NVM.pa (Table 17.8, R456): Buffer in the manager reserve, used when win = 0. -/
def cfgNvmPa : Fld := ⟨1049216, 39, 0, 1, .rw, 0, 0, 2 ^ 39 - 1, false⟩
/-- CFG_RESULT.token (Table 17.8, R456): Commit token. -/
def cfgResultToken : Fld := ⟨1050624, 16, 128, 64, .ro, 0, 0, 2 ^ 16 - 1, false⟩
/-- CFG_RESULT.kind (Table 17.8, R456): Group kind. -/
def cfgResultKind : Fld := ⟨1050640, 4, 128, 64, .ro, 0, 0, 2 ^ 4 - 1, false⟩
/-- CFG_RESULT.index (Table 17.8, R456): Group index. -/
def cfgResultIndex : Fld := ⟨1050644, 10, 128, 64, .ro, 0, 0, 2 ^ 10 - 1, false⟩
/-- CFG_RESULT.outcome (Table 17.8, R456): 1 APPLIED, 2 REFUSED, 3 SUPERSEDED, 4 TORN; others reserved. -/
def cfgResultOutcome : Fld := ⟨1050656, 3, 128, 64, .ro, 0, 0, 2 ^ 3 - 1, false⟩
/-- CFG_RESULT.status (Table 17.8, R456): OK, or the refusal or CFG_TORN code. -/
def cfgResultStatus : Fld := ⟨1050664, 8, 128, 64, .ro, 0, 0, 2 ^ 8 - 1, false⟩
/-- CFG_RESULT.time (Table 17.8, R456): Time base ns of the outcome. -/
def cfgResultTime : Fld := ⟨1050688, 64, 128, 64, .ro, 0, 0, 2 ^ 64 - 1, false⟩
/-- CFG_NVM_WIN.data (Table 17.8, R456): 64 KiB NVM buffer used when CFG_NVM.win = 1 (R437, R440). -/
def cfgNvmWinByte : Fld := ⟨1572864, 8, 8, 65536, .rw, 0, 0, 2 ^ 8 - 1, false⟩
/-- POWER_STAT.state (Table 18.3, R475): 0 START, 1 RUN, 2 HOLDUP, 3 TRIPPED. -/
def powerStatState : Fld := ⟨117440512, 2, 0, 1, .ro, 0, 0, 2 ^ 2 - 1, false⟩
/-- POWER_STAT.in_ok (Table 18.3, R475): Input 40–60 V. -/
def powerStatInOk : Fld := ⟨117440514, 1, 0, 1, .ro, 0, 0, 2 ^ 1 - 1, false⟩
/-- POWER_STAT.in_low (Table 18.3, R475): Input 38–40 V (R457). -/
def powerStatInLow : Fld := ⟨117440515, 1, 0, 1, .ro, 0, 0, 2 ^ 1 - 1, false⟩
/-- POWER_STAT.in_high (Table 18.3, R475): Input 60–62 V. -/
def powerStatInHigh : Fld := ⟨117440516, 1, 0, 1, .ro, 0, 0, 2 ^ 1 - 1, false⟩
/-- POWER_STAT.hold_ready (Table 18.3, R475): Store at V_target (R462). -/
def powerStatHoldReady : Fld := ⟨117440517, 1, 0, 1, .ro, 0, 0, 2 ^ 1 - 1, false⟩
/-- POWER_STAT.over (Table 18.3, R475): An R461 request was made. -/
def powerStatOver : Fld := ⟨117440518, 1, 0, 1, .rw1c, 0, 0, 2 ^ 1 - 1, false⟩
/-- POWER_STAT.sensor_missing (Table 18.3, R475): R467. -/
def powerStatSensorMissing : Fld := ⟨117440519, 1, 0, 1, .ro, 0, 0, 2 ^ 1 - 1, false⟩
/-- POWER_STAT.last_stop (Table 18.3, R475): Previous stop: 0 unknown, 1 input lost, 2 input high, 3 OVERPOWER, 4 DIE_THERMAL, 5 DRA.... -/
def powerStatLastStop : Fld := ⟨117440528, 3, 0, 1, .ro, 0, 0, 2 ^ 3 - 1, false⟩
/-- POWER_IN.in_mv (Table 18.3, R475): Input voltage, mV. -/
def powerInInMv : Fld := ⟨117440544, 16, 0, 1, .ro, 0, 0, 2 ^ 16 - 1, false⟩
/-- POWER_IN.p10ms_w (Table 18.3, R475): Input power, 10 ms mean, W. -/
def powerInP10msW : Fld := ⟨117440560, 16, 0, 1, .ro, 0, 0, 2 ^ 16 - 1, false⟩
/-- POWER_AVG.p1s_w (Table 18.3, R475): Input power, 1 s mean, W. -/
def powerAvgP1sW : Fld := ⟨117440576, 16, 0, 1, .ro, 0, 0, 2 ^ 16 - 1, false⟩
/-- POWER_AVG.peak20_w (Table 18.3, R475): Largest 20 ms mean since cleared; writing all ones clears. -/
def powerAvgPeak20W : Fld := ⟨117440592, 16, 0, 1, .rw1c, 0, 0, 2 ^ 16 - 1, false⟩
/-- POWER_LIMIT.cont_w (Table 18.3, R475): 1 s limit, 200–1,150 W (R459). -/
def powerLimitContW : Fld := ⟨117440608, 11, 0, 1, .rw, 0, 200, 1150, false⟩
/-- POWER_ACT.pace (Table 18.3, R475): Pace in force, sixteenths (R460). -/
def powerActPace : Fld := ⟨117440640, 4, 0, 1, .ro, 0, 0, 2 ^ 4 - 1, false⟩
/-- POWER_ACT.rung (Table 18.3, R475): Ladder rung (R472). -/
def powerActRung : Fld := ⟨117440644, 2, 0, 1, .ro, 0, 0, 2 ^ 2 - 1, false⟩
/-- POWER_ACT.base_peak_w (Table 18.3, R475): R461. -/
def powerActBasePeakW : Fld := ⟨117440656, 16, 0, 1, .ro, 0, 0, 2 ^ 16 - 1, false⟩
/-- POWER_HOLD.ceiling_dj (Table 18.3, R475): E_ceiling, 0–200 × 0.1 J. -/
def powerHoldCeilingDj : Fld := ⟨117440768, 8, 0, 1, .ro, 0, 0, 2 ^ 8 - 1, false⟩
/-- POWER_HOLD.cap_uf (Table 18.3, R475): Measured C, µF. -/
def powerHoldCapUf : Fld := ⟨117440776, 16, 0, 1, .ro, 0, 0, 2 ^ 16 - 1, false⟩
/-- POWER_HOLD.v_target_mv (Table 18.3, R475): V_target, mV. -/
def powerHoldVTargetMv : Fld := ⟨117440800, 16, 0, 1, .ro, 0, 0, 2 ^ 16 - 1, false⟩
/-- POWER_HOLD.stored_dj (Table 18.3, R475): Energy stored, 0.1 J. -/
def powerHoldStoredDj : Fld := ⟨117440816, 16, 0, 1, .ro, 0, 0, 2 ^ 16 - 1, false⟩
/-- POWER_HOLD.e_record_dj (Table 18.3, R475): e_record, 0.1 J, rounded up (R464). -/
def powerHoldERecordDj : Fld := ⟨117440832, 16, 0, 1, .ro, 0, 0, 2 ^ 16 - 1, false⟩
/-- POWER_HOLD.record_ok (Table 18.3, R475): A hold-up write is possible. -/
def powerHoldRecordOk : Fld := ⟨117440848, 1, 0, 1, .ro, 0, 0, 2 ^ 1 - 1, false⟩
/-- THERM_CFG.t_cap (Table 18.3, R475): Die cap, 50–95 °C. -/
def thermCfgTCap : Fld := ⟨117440896, 7, 0, 1, .rw, 0, 50, 95, false⟩
/-- THERM_CFG.t_set (Table 18.3, R475): Die target in force, °C. -/
def thermCfgTSet : Fld := ⟨117440903, 7, 0, 1, .ro, 0, 0, 2 ^ 7 - 1, false⟩
/-- THERM_BAND.lo (Table 18.3, R475): Band floor, °C. -/
def thermBandLo : Fld := ⟨117440928, 7, 0, 1, .rw, 0, 0, 2 ^ 7 - 1, false⟩
/-- THERM_BAND.hi (Table 18.3, R475): Band ceiling, °C. -/
def thermBandHi : Fld := ⟨117440935, 7, 0, 1, .rw, 0, 0, 2 ^ 7 - 1, false⟩
/-- THERM_BAND.go (Table 18.3, R475): Start the hold (R474). -/
def thermBandGo : Fld := ⟨117440942, 1, 0, 1, .rws, 0, 0, 2 ^ 1 - 1, true⟩
/-- THERM_BAND.stop (Table 18.3, R475): End the hold. -/
def thermBandStop : Fld := ⟨117440943, 1, 0, 1, .rws, 0, 0, 2 ^ 1 - 1, true⟩
/-- THERM_BAND.state (Table 18.3, R475): 0 idle, 1 SETTLING, 2 IN_BAND, 3 UNREACHABLE. -/
def thermBandState : Fld := ⟨117440944, 2, 0, 1, .ro, 0, 0, 2 ^ 2 - 1, false⟩
/-- THERM_BAND.minutes (Table 18.3, R475): Hold duration, 1–16,383 minutes. -/
def thermBandMinutes : Fld := ⟨117440946, 14, 0, 1, .rw, 0, 1, 16383, false⟩
/-- THERM_TEMP.die (Table 18.3, R475): Die, °C, signed. -/
def thermTempDie : Fld := ⟨117440960, 8, 0, 1, .ro, 0, 0, 2 ^ 8 - 1, false⟩
/-- THERM_TEMP.dram (Table 18.3, R475): DRAM, °C, signed. -/
def thermTempDram : Fld := ⟨117440968, 8, 0, 1, .ro, 0, 0, 2 ^ 8 - 1, false⟩
/-- THERM_TEMP.inlet (Table 18.3, R475): Inlet, °C, signed. -/
def thermTempInlet : Fld := ⟨117440976, 8, 0, 1, .ro, 0, 0, 2 ^ 8 - 1, false⟩
/-- THERM_TEMP.outlet (Table 18.3, R475): Outlet, °C, signed. -/
def thermTempOutlet : Fld := ⟨117440984, 8, 0, 1, .ro, 0, 0, 2 ^ 8 - 1, false⟩
/-- THERM_MODEL.k_d (Table 18.3, R475): K_d, signed, 0.001 °C per count. -/
def thermModelKD : Fld := ⟨117441024, 16, 0, 1, .ro, 0, 0, 2 ^ 16 - 1, false⟩
/-- THERM_MODEL.tau (Table 18.3, R475): τ, 0.1 s. -/
def thermModelTau : Fld := ⟨117441040, 16, 0, 1, .ro, 0, 0, 2 ^ 16 - 1, false⟩
/-- THERM_MODEL.theta (Table 18.3, R475): θ, 0.1 s. -/
def thermModelTheta : Fld := ⟨117441056, 16, 0, 1, .ro, 0, 0, 2 ^ 16 - 1, false⟩
/-- THERM_MODEL.k_p (Table 18.3, R475): K_p, 0.001 °C per W. -/
def thermModelKP : Fld := ⟨117441072, 16, 0, 1, .ro, 0, 0, 2 ^ 16 - 1, false⟩
/-- THERM_MODEL.source (Table 18.3, R475): 0 default, 1 surveyed, 2 stored. -/
def thermModelSource : Fld := ⟨117441088, 2, 0, 1, .ro, 0, 0, 2 ^ 2 - 1, false⟩
/-- THERM_MODEL.p_run_w (Table 18.3, R475): Bench at full feed, W. -/
def thermModelPRunW : Fld := ⟨117441096, 8, 0, 1, .ro, 0, 0, 2 ^ 8 - 1, false⟩
/-- PWM.duty (Table 18.3, R475): Duty driven. -/
def pwmDuty : Fld := ⟨117442560, 8, 128, 4, .ro, 255, 0, 2 ^ 8 - 1, false⟩
/-- PWM.min_duty (Table 18.3, R475): Lowest duty. -/
def pwmMinDuty : Fld := ⟨117442568, 8, 128, 4, .ro, 0, 0, 2 ^ 8 - 1, false⟩
/-- PWM.fault (Table 18.3, R475): Tachometer fault (R468). -/
def pwmFault : Fld := ⟨117442576, 1, 128, 4, .rw1c, 0, 0, 2 ^ 1 - 1, false⟩
/-- PWM.rpm (Table 18.3, R475): Tachometer. -/
def pwmRpm : Fld := ⟨117442592, 16, 128, 4, .ro, 0, 0, 2 ^ 16 - 1, false⟩
/-- PWM.min_rpm (Table 18.3, R475): Fault threshold; 0 = no check. -/
def pwmMinRpm : Fld := ⟨117442608, 16, 128, 4, .ro, 0, 0, 2 ^ 16 - 1, false⟩
/-- CABLE.state (Table 18.3, R475): 0 OFF, 1 ABSENT, 2 ON, 3 LIMITING, 4 RETRY_WAIT, 5 FAULT; 6–7 reserved. -/
def cableState : Fld := ⟨117444608, 3, 128, 16, .ro, 0, 0, 2 ^ 3 - 1, false⟩
/-- CABLE.clear (Table 18.3, R475): Leave FAULT and probe again. -/
def cableClear : Fld := ⟨117444611, 1, 128, 16, .rws, 0, 0, 2 ^ 1 - 1, true⟩
/-- CABLE.ceiling_cw (Table 18.3, R475): Ceiling, 10 mW units, 0–350 (R465). -/
def cableCeilingCw : Fld := ⟨117444612, 9, 128, 16, .rw, 0, 0, 350, false⟩
/-- CABLE.fault_mj (Table 18.3, R475): Fault energy limit, mJ. -/
def cableFaultMj : Fld := ⟨117444640, 16, 128, 16, .rw, 0, 0, 2 ^ 16 - 1, false⟩
/-- CABLE.power_mw (Table 18.3, R475): Output power, mW. -/
def cablePowerMw : Fld := ⟨117444672, 16, 128, 16, .ro, 0, 0, 2 ^ 16 - 1, false⟩
/-- CABLE.trips (Table 18.3, R475): Trips, saturating. -/
def cableTrips : Fld := ⟨117444688, 16, 128, 16, .ro, 0, 0, 2 ^ 16 - 1, false⟩
/-- HEALTH_CAUSE.fault (Table 19.8, R491): Fault record written (R172). -/
def healthCauseFault : Fld := ⟨125829120, 1, 0, 1, .rw1c, 0, 0, 2 ^ 1 - 1, false⟩
/-- HEALTH_CAUSE.proving (Table 19.8, R491): Proving failure. -/
def healthCauseProving : Fld := ⟨125829121, 1, 0, 1, .rw1c, 0, 0, 2 ^ 1 - 1, false⟩
/-- HEALTH_CAUSE.shadow (Table 19.8, R491): Shadow mismatch. -/
def healthCauseShadow : Fld := ⟨125829122, 1, 0, 1, .rw1c, 0, 0, 2 ^ 1 - 1, false⟩
/-- HEALTH_CAUSE.evidence (Table 19.8, R491): Evidence record applied. -/
def healthCauseEvidence : Fld := ⟨125829123, 1, 0, 1, .rw1c, 0, 0, 2 ^ 1 - 1, false⟩
/-- HEALTH_CAUSE.list (Table 19.8, R491): Health list changed. -/
def healthCauseList : Fld := ⟨125829124, 1, 0, 1, .rw1c, 0, 0, 2 ^ 1 - 1, false⟩
/-- HEALTH_CAUSE.liveness (Table 19.8, R491): A management bit changed (R478). -/
def healthCauseLiveness : Fld := ⟨125829125, 1, 0, 1, .rw1c, 0, 0, 2 ^ 1 - 1, false⟩
/-- HEALTH_CAUSE.power (Table 19.8, R491): Sensor, fan, cable port or power event (Power chapter). -/
def healthCausePower : Fld := ⟨125829126, 1, 0, 1, .rw1c, 0, 0, 2 ^ 1 - 1, false⟩
/-- HEALTH_CAUSE.chisel (Table 19.8, R491): Chisel core fault (R326). -/
def healthCauseChisel : Fld := ⟨125829127, 1, 0, 1, .rw1c, 0, 0, 2 ^ 1 - 1, false⟩
/-- HEALTH_CAUSE.cfg (Table 19.8, R491): CFG_TORN (R450). -/
def healthCauseCfg : Fld := ⟨125829128, 1, 0, 1, .rw1c, 0, 0, 2 ^ 1 - 1, false⟩
/-- HEALTH_CAUSE.radio (Table 19.8, R491): Indication dropped or mask violation (R291, R338). -/
def healthCauseRadio : Fld := ⟨125829129, 1, 0, 1, .rw1c, 0, 0, 2 ^ 1 - 1, false⟩
/-- HEALTH_CAUSE.time (Table 19.8, R491): Reference or lock lost (R255). -/
def healthCauseTime : Fld := ⟨125829130, 1, 0, 1, .rw1c, 0, 0, 2 ^ 1 - 1, false⟩
/-- HEALTH_CAUSE.trigger (Table 19.8, R491): Comparator INTERRUPT action (R272). -/
def healthCauseTrigger : Fld := ⟨125829131, 1, 0, 1, .rw1c, 0, 0, 2 ^ 1 - 1, false⟩
/-- HEALTH_CAUSE.record (Table 19.8, R491): Persistent record write failed (R453). -/
def healthCauseRecord : Fld := ⟨125829132, 1, 0, 1, .rw1c, 0, 0, 2 ^ 1 - 1, false⟩
/-- HEALTH_IRQ.vector (Table 19.8, R491): PF0 MSI-X vector raised when a cause bit is set. -/
def healthIrqVector : Fld := ⟨125829152, 6, 0, 1, .rw, 0, 0, 2 ^ 6 - 1, false⟩
/-- HEALTH_IRQ.enable (Table 19.8, R491): Raising on. -/
def healthIrqEnable : Fld := ⟨125829158, 1, 0, 1, .rw, 0, 0, 2 ^ 1 - 1, false⟩
/-- HEALTH_MGMT.hb_ms (Table 19.8, R491): Heartbeat period, 10–1,000 ms. -/
def healthMgmtHbMs : Fld := ⟨125829248, 10, 0, 1, .rw, 100, 10, 1000, false⟩
/-- HEALTH_MGMT.dead_ms (Table 19.8, R491): Liveness bound, 50–60,000 ms. -/
def healthMgmtDeadMs : Fld := ⟨125829258, 16, 0, 1, .rw, 500, 50, 60000, false⟩
/-- HEALTH_MGMT_STAT.link0 (Table 19.8, R491): Port 0 up. -/
def healthMgmtStatLink0 : Fld := ⟨125829280, 1, 0, 1, .ro, 0, 0, 2 ^ 1 - 1, false⟩
/-- HEALTH_MGMT_STAT.link1 (Table 19.8, R491): Port 1 up. -/
def healthMgmtStatLink1 : Fld := ⟨125829281, 1, 0, 1, .ro, 0, 0, 2 ^ 1 - 1, false⟩
/-- HEALTH_MGMT_STAT.rx_dropped (Table 19.8, R491): Datagrams dropped (R478), wrapping. -/
def healthMgmtStatRxDropped : Fld := ⟨125829296, 16, 0, 1, .ro, 0, 0, 2 ^ 16 - 1, false⟩
/-- HEALTH_SCORE_CFG.lag_min_us (Table 19.8, R491): Late threshold, 1–65,535 µs. -/
def healthScoreCfgLagMinUs : Fld := ⟨125829376, 16, 0, 1, .rw, 50, 1, 65535, false⟩
/-- HEALTH_SCORE_CFG.decay_s (Table 19.8, R491): Decay period, 1–65,535 s. -/
def healthScoreCfgDecayS : Fld := ⟨125829392, 16, 0, 1, .rw, 60, 1, 65535, false⟩
/-- HEALTH_SCORE_CFG.suspect_on (Table 19.8, R491): Suspect threshold. -/
def healthScoreCfgSuspectOn : Fld := ⟨125829408, 16, 0, 1, .rw, 4096, 0, 2 ^ 16 - 1, false⟩
/-- HEALTH_SCORE_CFG.suspect_off (Table 19.8, R491): Release threshold; must be below suspect_on. -/
def healthScoreCfgSuspectOff : Fld := ⟨125829424, 16, 0, 1, .rw, 1024, 0, 2 ^ 16 - 1, false⟩
/-- HEALTH_LIST_CFG.budget (Table 19.8, R491): Expulsions per window, 0–15; default 2. -/
def healthListCfgBudget : Fld := ⟨125829440, 4, 0, 1, .ro, 0, 0, 2 ^ 4 - 1, false⟩
/-- HEALTH_LIST_CFG.window_h (Table 19.8, R491): Window, 1–168 h; default 24. -/
def healthListCfgWindowH : Fld := ⟨125829444, 8, 0, 1, .ro, 0, 0, 2 ^ 8 - 1, false⟩
/-- HEALTH_LIST.version (Table 19.8, R491): List version. -/
def healthListVersion : Fld := ⟨125829472, 32, 0, 1, .ro, 0, 0, 2 ^ 32 - 1, false⟩
/-- HEALTH_LIST.spoiled (Table 19.8, R491): Spoil list entries. -/
def healthListSpoiled : Fld := ⟨125829504, 6, 0, 1, .ro, 0, 0, 2 ^ 6 - 1, false⟩
/-- HEALTH_LIST.watched (Table 19.8, R491): Watch set entries. -/
def healthListWatched : Fld := ⟨125829510, 6, 0, 1, .ro, 0, 0, 2 ^ 6 - 1, false⟩
/-- HEALTH_LIST.expels (Table 19.8, R491): EXPEL changes in the current window. -/
def healthListExpels : Fld := ⟨125829516, 4, 0, 1, .ro, 0, 0, 2 ^ 4 - 1, false⟩
/-- HEALTH_LIST_CMD.node (Table 19.8, R491): Target node. -/
def healthListCmdNode : Fld := ⟨125829632, 10, 0, 1, .rw, 0, 0, 2 ^ 10 - 1, false⟩
/-- HEALTH_LIST_CMD.op (Table 19.8, R491): 1 EXPEL, 2 DEAD, 3 WATCH, 4 REMOVE; others reserved. -/
def healthListCmdOp : Fld := ⟨125829642, 3, 0, 1, .rw, 0, 0, 2 ^ 3 - 1, false⟩
/-- HEALTH_LIST_CMD.go (Table 19.8, R491): Start (R482, R483). -/
def healthListCmdGo : Fld := ⟨125829645, 1, 0, 1, .rws, 0, 0, 2 ^ 1 - 1, true⟩
/-- HEALTH_LIST_CMD.status (Table 19.8, R491): Final status. -/
def healthListCmdStatus : Fld := ⟨125829648, 8, 0, 1, .ro, 0, 0, 2 ^ 8 - 1, false⟩
/-- HEALTH_EVIDENCE.node (Table 19.8, R491): Node named by an ASSAY record. -/
def healthEvidenceNode : Fld := ⟨125829696, 10, 0, 1, .rw, 0, 0, 2 ^ 10 - 1, false⟩
/-- HEALTH_EVIDENCE.go (Table 19.8, R491): Flood the record (R481). -/
def healthEvidenceGo : Fld := ⟨125829706, 1, 0, 1, .rws, 0, 0, 2 ^ 1 - 1, true⟩
/-- HEALTH_EVIDENCE.status (Table 19.8, R491): OK, or BAD_FORMAT for a node outside the domain. -/
def healthEvidenceStatus : Fld := ⟨125829712, 8, 0, 1, .ro, 0, 0, 2 ^ 8 - 1, false⟩
/-- HEALTH_SHADOW.active (Table 19.8, R491): This device is watched (R485). -/
def healthShadowActive : Fld := ⟨125829760, 1, 0, 1, .ro, 0, 0, 2 ^ 1 - 1, false⟩
/-- HEALTH_SHADOW.shadow_n (Table 19.8, R491): Selection interval, 2–64. -/
def healthShadowShadowN : Fld := ⟨125829761, 7, 0, 1, .rw, 16, 2, 64, false⟩
/-- HEALTH_SHADOW.checks (Table 19.8, R491): Comparisons, wrapping. -/
def healthShadowChecks : Fld := ⟨125829792, 32, 0, 1, .ro, 0, 0, 2 ^ 32 - 1, false⟩
/-- HEALTH_SHADOW.mismatches (Table 19.8, R491): Mismatches, wrapping. -/
def healthShadowMismatches : Fld := ⟨125829824, 32, 0, 1, .ro, 0, 0, 2 ^ 32 - 1, false⟩
/-- HEALTH_SHADOW.skipped (Table 19.8, R491): Selected commands committed unchecked, wrapping. -/
def healthShadowSkipped : Fld := ⟨125829856, 32, 0, 1, .ro, 0, 0, 2 ^ 32 - 1, false⟩
/-- HEALTH_PROVE.idle_enable (Table 19.8, R491): Idle-window proving (R487). -/
def healthProveIdleEnable : Fld := ⟨125829888, 1, 0, 1, .rw, 1, 0, 2 ^ 1 - 1, false⟩
/-- HEALTH_PROVE.idle_period_s (Table 19.8, R491): Proving period, 60–65,535 s. -/
def healthProveIdlePeriodS : Fld := ⟨125829889, 16, 0, 1, .rw, 3600, 60, 65535, false⟩
/-- HEALTH_PROVE.patterns (Table 19.8, R491): Sweep pattern mask, Table 19.4. -/
def healthProvePatterns : Fld := ⟨125829920, 7, 0, 1, .rw, 127, 0, 2 ^ 7 - 1, false⟩
/-- HEALTH_PROVE.loads (Table 19.8, R491): Sweep load mask, Table 19.5. -/
def healthProveLoads : Fld := ⟨125829927, 4, 0, 1, .rw, 15, 0, 2 ^ 4 - 1, false⟩
/-- HEALTH_PROVE.go (Table 19.8, R491): Start a sweep. -/
def healthProveGo : Fld := ⟨125829931, 1, 0, 1, .rws, 0, 0, 2 ^ 1 - 1, true⟩
/-- HEALTH_PROVE.state (Table 19.8, R491): 0 idle, 1 running, 2 done. -/
def healthProveState : Fld := ⟨125829932, 2, 0, 1, .ro, 0, 0, 2 ^ 2 - 1, false⟩
/-- HEALTH_PROVE.skipped (Table 19.8, R491): Bit b: bench b skipped by the last sweep. -/
def healthProveSkipped : Fld := ⟨125829952, 32, 0, 1, .ro, 0, 0, 2 ^ 32 - 1, false⟩
/-- HEALTH_PROVE.missed (Table 19.8, R491): Periods without proving (R487), wrapping. -/
def healthProveMissed : Fld := ⟨125829984, 32, 0, 1, .ro, 0, 0, 2 ^ 32 - 1, false⟩
/-- HEALTH_QUAR.benches (Table 19.8, R491): Bit b: logical bench b quarantined. -/
def healthQuarBenches : Fld := ⟨125830016, 32, 0, 1, .ro, 0, 0, 2 ^ 32 - 1, false⟩
/-- HEALTH_QUAR.release (Table 19.8, R491): Bit b: release bench b at the next start. -/
def healthQuarRelease : Fld := ⟨125830048, 32, 0, 1, .wo, 0, 0, 2 ^ 32 - 1, true⟩
/-- HEALTH_PROVE_IDX.tail (Table 19.8, R491): Next entry the device writes. -/
def healthProveIdxTail : Fld := ⟨125830144, 6, 0, 1, .ro, 0, 0, 2 ^ 6 - 1, false⟩
/-- HEALTH_PROVE_IDX.head (Table 19.8, R491): Next entry the manager reads. -/
def healthProveIdxHead : Fld := ⟨125830152, 6, 0, 1, .rw, 0, 0, 2 ^ 6 - 1, false⟩
/-- HEALTH_PROVE_IDX.dropped (Table 19.8, R491): Entries lost to a full ring, saturating. -/
def healthProveIdxDropped : Fld := ⟨125830160, 16, 0, 1, .ro, 0, 0, 2 ^ 16 - 1, false⟩
/-- HEALTH_MEMBER.present (Table 19.8, R491): Member exists in the domain. -/
def healthMemberPresent : Fld := ⟨125831168, 1, 256, 64, .ro, 0, 0, 2 ^ 1 - 1, false⟩
/-- HEALTH_MEMBER.suspect (Table 19.8, R491): R480. -/
def healthMemberSuspect : Fld := ⟨125831169, 1, 256, 64, .ro, 0, 0, 2 ^ 1 - 1, false⟩
/-- HEALTH_MEMBER.list (Table 19.8, R491): 0 none, 1 WATCH, 2 EXPEL, 3 DEAD. -/
def healthMemberList : Fld := ⟨125831170, 2, 256, 64, .ro, 0, 0, 2 ^ 2 - 1, false⟩
/-- HEALTH_MEMBER.mgmt0 (Table 19.8, R491): Heard on port 0 (R478). -/
def healthMemberMgmt0 : Fld := ⟨125831172, 1, 256, 64, .ro, 0, 0, 2 ^ 1 - 1, false⟩
/-- HEALTH_MEMBER.mgmt1 (Table 19.8, R491): Heard on port 1. -/
def healthMemberMgmt1 : Fld := ⟨125831173, 1, 256, 64, .ro, 0, 0, 2 ^ 1 - 1, false⟩
/-- HEALTH_MEMBER.score (Table 19.8, R491): Straggler score. -/
def healthMemberScore : Fld := ⟨125831184, 16, 256, 64, .ro, 0, 0, 2 ^ 16 - 1, false⟩
/-- HEALTH_MEMBER.incarnation (Table 19.8, R491): Last incarnation heard. -/
def healthMemberIncarnation : Fld := ⟨125831200, 16, 256, 64, .ro, 0, 0, 2 ^ 16 - 1, false⟩
/-- HEALTH_MEMBER.evidence (Table 19.8, R491): Bit 0 ASSAY, bit 1 PROVING, unexpired. -/
def healthMemberEvidence : Fld := ⟨125831216, 2, 256, 64, .ro, 0, 0, 2 ^ 2 - 1, false⟩
/-- HEALTH_MEMBER.heard_ns (Table 19.8, R491): Time of the last datagram. -/
def healthMemberHeardNs : Fld := ⟨125831232, 64, 256, 64, .ro, 0, 0, 2 ^ 64 - 1, false⟩
/-- HEALTH_MEMBER.evidence_ns (Table 19.8, R491): Time of the newest evidence; 0 = none. -/
def healthMemberEvidenceNs : Fld := ⟨125831296, 64, 256, 64, .ro, 0, 0, 2 ^ 64 - 1, false⟩
/-- HEALTH_PROVE_LOG.entry (Table 19.8, R491): Table 19.6. -/
def healthProveLogEntry : Fld := ⟨125861888, 128, 128, 64, .ro, 0, 0, 2 ^ 128 - 1, false⟩

/-- A VF's error log index register at VF BAR0 0xC000, laid out as PF_ERRLOG_IDX (R405): tail. -/
def vfErrlogTail : Fld := ⟨34359738368 + 0xC000 * 8, 6, 524288, 513, .ro, 0, 0, 63, false⟩
/-- A VF's error log index register: head. -/
def vfErrlogHead : Fld := ⟨34359738368 + 0xC000 * 8 + 8, 6, 524288, 513, .rw, 0, 0, 63, false⟩
/-- A VF's error log index register: dropped. -/
def vfErrlogDropped : Fld := ⟨34359738368 + 0xC000 * 8 + 16, 16, 524288, 513, .ro, 0, 0, 65535, false⟩
/-- A VF's error log ring at VF BAR0 0xC100, entry i of VF f as instance 4096 f + i (R405, Table 15.4). -/
def vfErrlogEntry : Fld := ⟨34359738368 + 0xC100 * 8, 128, 128, 2101248, .ro, 0, 0, 2 ^ 128 - 1, false⟩
/-- A VF's MSI-X table at VF BAR0 0x8000, vector v of VF f as instance 4096 f + v (R398): message address and data. -/
def vfMsixMsg : Fld := ⟨34359738368 + 0x8000 * 8, 96, 128, 2101248, .rw, 0, 0, 2 ^ 96 - 1, false⟩
/-- A VF's MSI-X table: the mask bit of vector control, set at reset as PCIe defines it. -/
def vfMsixMask : Fld := ⟨34359738368 + 0x8000 * 8 + 96, 1, 128, 2101248, .rw, 1, 0, 1, false⟩

end Reg

/-- Fields of the Device registers, part 0. -/
def regDeviceTable0 : List Fld :=
  [Reg.archVerGeneration, Reg.archVerMajor, Reg.archVerMinor, Reg.archVerStepLetter, Reg.archVerStepNumber,
   Reg.caps0JeanoPortMask, Reg.caps0DramLots, Reg.caps0BenchCount, Reg.caps1RadioUnits, Reg.caps1Chirp,
   Reg.caps1Tdfe, Reg.caps1Sieve, Reg.caps1ChiselCount, Reg.caps1FronthaulPorts, Reg.detSignatureSignature,
   Reg.plumbPlumb]

/-- Fields of the Bench registers, part 0. -/
def regBenchTable0 : List Fld :=
  [Reg.benchIdLogical, Reg.benchIdPhysical, Reg.benchStatePstate, Reg.benchStateRole, Reg.benchStateRotation,
   Reg.benchStateCtxXfer, Reg.benchStateOwner, Reg.benchYardSpacePages, Reg.benchYardMapped, Reg.benchYardShadows,
   Reg.benchYardFree, Reg.benchDrTableVerRecipVer, Reg.benchDrTableVerExpVer, Reg.benchDrTableVerLogVer, Reg.benchDrTableVerErfVer,
   Reg.benchDrTableVerTrigVer, Reg.benchFeedCycCount, Reg.benchStallCycCount, Reg.benchSkipBytesCount, Reg.benchKillsCount,
   Reg.benchLive0SlabTag, Reg.benchLive0Chain0, Reg.benchLive0Chain1, Reg.benchLive1EW0, Reg.benchLive1EW1,
   Reg.benchLive1Kind0, Reg.benchLive1Kind1, Reg.benchLive2DresserTag]

/-- Fields of the Memory registers, part 0. -/
def regMemoryTable0 : List Fld :=
  [Reg.memCfgStacks, Reg.memCfgLayers, Reg.memCfgChannels, Reg.memCfgLots, Reg.memRsvFwLots,
   Reg.memRsvRadioLots, Reg.memRsvMgrLots, Reg.memRefreshHot, Reg.memTempStack, Reg.memScrubPeriodH,
   Reg.memScrubEnable, Reg.memRshareShare, Reg.memCeCountCount, Reg.memInvalVf, Reg.memInvalAll,
   Reg.memInvalGo, Reg.memFaultIdxTail, Reg.memFaultIdxHead, Reg.memFaultIdxDropped, Reg.lotOwnerOwner,
   Reg.lotOwnerHdm, Reg.lotOwnerState, Reg.xlatRootEnable, Reg.xlatRootL1Base, Reg.dramBucketRate,
   Reg.dramBucketBorrow, Reg.dramBucketBurst, Reg.dramBucketLevel, Reg.dramBucketWaits, Reg.memFaultRecord]

/-- Fields of the Jeano registers, part 0. -/
def regJeanoTable0 : List Fld :=
  [Reg.jeanoNodeCol, Reg.jeanoNodeRow, Reg.jeanoNodeDomain, Reg.jeanoNodeRowsM1, Reg.jeanoNodeColsM1,
   Reg.jeanoNodeIncarnation, Reg.jeanoCfgDeadUs, Reg.jeanoCfgAdaptive, Reg.jeanoCfgDomainsM1, Reg.jeanoCfgEth14,
   Reg.jeanoCfgEth15, Reg.jeanoRshareShare, Reg.jeanoRedThresh, Reg.jeanoSAbortNode, Reg.jeanoSAbortGo,
   Reg.jeanoSamplePeriodUs, Reg.jeanoSampleClear, Reg.jeanoLsaCountCount, Reg.jeanoAtomicCacheUsed, Reg.jeanoAtomicCacheBusy,
   Reg.jeanoPortState, Reg.jeanoPortLanes4, Reg.jeanoPortGen, Reg.jeanoPortMixed, Reg.jeanoPortPartnerNode,
   Reg.jeanoPortPartnerPort, Reg.jeanoPortFlightNs, Reg.jeanoPortFecCorrected, Reg.jeanoPortLinkRetries, Reg.jeanoPortRetrains]

/-- Fields of the Jeano registers, part 1. -/
def regJeanoTable1 : List Fld :=
  [Reg.jeanoPortDowns, Reg.jeanoPortReplays, Reg.jeanoPortDiscards, Reg.jeanoLinkmapUp, Reg.jeanoLinkmapVersion,
   Reg.fabVfJob, Reg.fabVfPeerCount, Reg.fabVfMcastCount, Reg.fabVfPeerBase, Reg.fabVfMcastBase,
   Reg.fabVfRxBase, Reg.fabVfRxLog2, Reg.fabVfRxTally, Reg.fabVfCir, Reg.fabVfPir,
   Reg.fabVfCbs, Reg.fabVfPbs, Reg.fabVfGreen, Reg.fabVfYellow, Reg.fabVfRed,
   Reg.jeanoHistBin]

/-- Fields of the Crusher registers, part 0. -/
def regCrusherTable0 : List Fld :=
  [Reg.crusherCfgJoinMs, Reg.crusherCfgPlumbTree, Reg.crusherStateActive, Reg.crusherStateEarly, Reg.crusherStateRetainMib,
   Reg.crusherCheckFailCount, Reg.crusherRefetchCount, Reg.crusherMismatchCount, Reg.crusherAbortsCount, Reg.crusherGrpGroupCount,
   Reg.crusherGrpBase, Reg.crusherLateJoins, Reg.crusherLateLastCount, Reg.crusherLateLagSumNs, Reg.crusherLateMaxSpreadNs]

/-- Fields of the Time registers, part 0. -/
def regTimeTable0 : List Fld :=
  [Reg.timeClkStatusRefOk, Reg.timeClkStatusRootLock, Reg.timeClkStatusSerdesLock, Reg.timeClkStatusUcieLock, Reg.timeClkStatusADiv,
   Reg.timeClkStatusRefLost, Reg.timeClkStatusLockLost, Reg.timeThrottleCntCount, Reg.timeStateState, Reg.timeStateSrc,
   Reg.timeStateSrcPort, Reg.timeStateSynceOk, Reg.timeHoldoverMaxS, Reg.timeNowNsNs, Reg.timeNowFracFrac,
   Reg.timeAddendAddend, Reg.timeStepStepNs, Reg.timeUtcUtcOffset, Reg.timeUtcValid, Reg.timePpsOutEnable,
   Reg.timePpsOutWidthMs, Reg.timePpsOutOffsetNs, Reg.timeOffsetOffsetPs, Reg.tsqId, Reg.tsqValid,
   Reg.tsqFill, Reg.tsqOverflow, Reg.tsqOverflowCount, Reg.tsqTsNs, Reg.tsqTsFrac]

/-- Fields of the Time registers, part 1. -/
def regTimeTable1 : List Fld :=
  [Reg.tsqTxAdj, Reg.tsqRxAdj, Reg.trigCompareNs, Reg.trigPeriodNs, Reg.trigAction,
   Reg.trigTarget, Reg.trigArmed, Reg.trigLate, Reg.trigCommit, Reg.trigMissed,
   Reg.capEnable, Reg.capEdge, Reg.capFill, Reg.capOverflow, Reg.capValid,
   Reg.capRising, Reg.capTsNs]

/-- Fields of the Fronthaul registers, part 0. -/
def regFronthaulTable0 : List Fld :=
  [Reg.radioPlanStatus, Reg.radioPlanReason, Reg.radioPlanUnitsUsed, Reg.radioPlanCells, Reg.fhPortMode,
   Reg.fhPortLinkUp, Reg.fhPortRxFrames, Reg.fhPortRxDiscarded, Reg.fhPortSeqGaps, Reg.fhPortTxFrames,
   Reg.cellState, Reg.cellUnits, Reg.cellLport, Reg.cellFapiRing, Reg.cellPrio,
   Reg.cellWNom, Reg.cellWFloor, Reg.cellAdaptive, Reg.cellMaxIter, Reg.cellHoldMute,
   Reg.cellLate, Reg.cellNarrowed, Reg.cellCappedTbs, Reg.cellUlWindow, Reg.cellLateRequests,
   Reg.cellHarqNotKept, Reg.fapiRingReqBase, Reg.fapiRingIndBase, Reg.fapiRingReqLog2, Reg.fapiRingIndLog2]

/-- Fields of the Fronthaul registers, part 1. -/
def regFronthaulTable1 : List Fld :=
  [Reg.fapiRingMsix, Reg.fapiRingEnable, Reg.fapiRingPasid, Reg.fapiRingReqTail, Reg.fapiRingReqHead,
   Reg.fapiRingIndTail, Reg.fapiRingIndHead, Reg.fapiRingIndDataBase, Reg.fapiRingIndDataSize, Reg.fapiRingIndDropped]

/-- Fields of the Sieve registers, part 0. -/
def regSieveTable0 : List Fld :=
  [Reg.sieveCountLdpcDec, Reg.sieveCountLdpcEnc, Reg.sieveCountPolarDec, Reg.sieveCountPolarEnc, Reg.sieveCappedSlotsCount,
   Reg.sieveCappedTbsCount, Reg.sieveDroppedTbsCount, Reg.sievePeakLoad, Reg.sieveEngEnabled, Reg.sieveEngQuarantined,
   Reg.sieveEngJobs, Reg.sieveEngBusyNs]

/-- Fields of the Chisel registers, part 0. -/
def regChiselTable0 : List Fld :=
  [Reg.chiselInfoCores, Reg.chiselInfoImages, Reg.chiselCfgWdogUs, Reg.chiselImageStatus, Reg.chiselImageSigner,
   Reg.chiselImageReason, Reg.chiselImageVersion, Reg.chiselImageCoreMask, Reg.chiselFapiMapMask, Reg.chiselCoreState,
   Reg.chiselCoreCause, Reg.chiselCoreImage, Reg.chiselCoreFaultPc, Reg.chiselCoreRestarts, Reg.chiselCorePortStalls,
   Reg.chiselCoreBusyCycles, Reg.chiselCoreWaitCycles, Reg.chiselCoreLivePc, Reg.chiselCoreLiveEv]

/-- Fields of the Tdfe registers, part 0. -/
def regTdfeTable0 : List Fld :=
  [Reg.tdfeInfoStreams, Reg.tdfeInfoChirp, Reg.tdfeInfoChannels, Reg.chirpStatRxDropped, Reg.tdfeStreamKind,
   Reg.tdfeStreamRunning, Reg.tdfeStreamCell, Reg.tdfeStreamLport, Reg.tdfeStreamDec, Reg.tdfeStreamInterp,
   Reg.tdfeStreamCore, Reg.tdfeStreamRateKhz, Reg.tdfeStreamRxMissing, Reg.tdfeStreamRxDiscarded, Reg.tdfeStreamTxUnderrun,
   Reg.tdfeStreamSatCount, Reg.tdfeStreamAction, Reg.tdfeStreamNViol, Reg.tdfeStreamSegCount, Reg.tdfeStreamMuted,
   Reg.tdfeStreamUnmute, Reg.tdfeStreamViolated, Reg.tdfeStreamViolations, Reg.tdfeStreamLastSeg, Reg.tdfeStreamLastExcess,
   Reg.tdfeSegLo, Reg.tdfeSegHi, Reg.tdfeSegLimit, Reg.tdfeSegLastQ, Reg.chirpChStream]

/-- Fields of the Tdfe registers, part 1. -/
def regTdfeTable1 : List Fld :=
  [Reg.chirpChBw, Reg.chirpChEnabled, Reg.chirpChOffset, Reg.chirpChNoiseFloor, Reg.chirpChPackets,
   Reg.chirpChMarkMismatch, Reg.chirpChCollisions, Reg.chirpChMark, Reg.chirpChPreMin, Reg.chirpChMaxSymbols]

/-- Fields of the Banksman registers, part 0. -/
def regBanksmanTable0 : List Fld :=
  [Reg.bankCfgAgeStepMs, Reg.bankCfgStarveMs, Reg.bankCfgEffPct, Reg.bankSwitchCfgGraceUs, Reg.bankSwitchCfgEvictMinUs,
   Reg.bankRotCount, Reg.bankRotHeadroom, Reg.bankRotLeadUs, Reg.bankRotPeriod20, Reg.bankRotEntries,
   Reg.bankFloorMaxDiv12, Reg.bankFloorMaxDiv16, Reg.bankFloorMaxDiv24, Reg.bankFloorAllowed, Reg.bankFloorNow,
   Reg.bankRotMaskMask, Reg.bankThermTenantCap, Reg.bankExtraTakesCount, Reg.bankExtraWaitsCount, Reg.bankOverrunsCount,
   Reg.bankStarveSwitches, Reg.bankStarveMisses, Reg.bankPwrDoorbellReserve, Reg.bankPwrBlockedHoldUs, Reg.bankPwrIdleDarkMs,
   Reg.bankPwrModelPActiveMw, Reg.bankPwrModelPGatedMw, Reg.bankPwrModelPRetainMw, Reg.bankPwrModelPDarkMw, Reg.bankPwrModelERetainNj]

/-- Fields of the Banksman registers, part 1. -/
def regBanksmanTable1 : List Fld :=
  [Reg.bankPwrModelEDarkNj, Reg.bankPwrModelECtxPj, Reg.bankPwrModelEGatedNj, Reg.bankSwitchesCount, Reg.bankSwitchNsNs,
   Reg.bankTSwMeanNs, Reg.bankEvictionsCount, Reg.bankKillsRadio, Reg.bankKillsSwitch, Reg.bankKillsEvict,
   Reg.bankBenchPlan, Reg.bankBenchReserve, Reg.bankBenchNextUs, Reg.bankBenchFloorPos, Reg.bankBenchFloor,
   Reg.bankPartBenchMin, Reg.bankPartBenchMax, Reg.bankPartWeight, Reg.bankPartQuantum, Reg.bankPartSaveLot,
   Reg.bankPartHeld, Reg.bankPartWaiting, Reg.bankPartBlocked, Reg.bankPartVtime, Reg.bankPartBenchNs]

/-- Fields of the Tenancy registers, part 0. -/
def regTenancyTable0 : List Fld :=
  [Reg.tenInfoVfs, Reg.tenSamplePeriodUs, Reg.tenSampleClear, Reg.migDescPa, Reg.migCtrlGo,
   Reg.migCtrlStatus, Reg.migBytesBytes, Reg.pfErrlogIdxTail, Reg.pfErrlogIdxHead, Reg.pfErrlogIdxDropped,
   Reg.pfErrlogEntry, Reg.vfCtlState, Reg.vfCtlStop, Reg.vfCtlReset, Reg.vfCtlForceReset,
   Reg.vfCtlFreeze, Reg.vfCtlResume, Reg.vfCtlLastStatus, Reg.vfCtlEpoch, Reg.vfCtlStepsInflight,
   Reg.vfCtlCollsInflight, Reg.vfPartYardPages, Reg.vfPartGalleryWeight, Reg.vfPartHostCir, Reg.vfPartHostPir,
   Reg.vfPartHostCbs, Reg.vfPartHostPbs, Reg.vfPartHostGreen, Reg.vfPartHostYellow, Reg.vfCtlCause]

/-- Fields of the Tenancy registers, part 1. -/
def regTenancyTable1 : List Fld :=
  [Reg.vfCtlSquashedColls, Reg.vfCtlSquashedCmds, Reg.vfCtlDrainedCmds, Reg.vfCtlDrainNs, Reg.vfDirtyEnable,
   Reg.vfDirtyOverflow, Reg.vfDirtySizeLog2, Reg.vfDirtyBase, Reg.vfDirtyPasid, Reg.vfDirtyTail,
   Reg.vfDirtyHead, Reg.tenHistBin]

/-- Fields of the Security registers, part 0. -/
def regSecurityTable0 : List Fld :=
  [Reg.secStatusIdentityOk, Reg.secStatusGradeOk, Reg.secStatusFirmwareOk, Reg.secStatusImageOk, Reg.secStatusFailReason,
   Reg.secStatusDebug, Reg.secDeviceIdId, Reg.secPubkeyKey, Reg.secCertLenLen, Reg.secOwnerKeyKey,
   Reg.secMrValue, Reg.secMrExtendIndex, Reg.secMrExtendGo, Reg.secMrExtendStatus, Reg.secMrExtendValue,
   Reg.secAttestFn, Reg.secAttestGo, Reg.secAttestStatus, Reg.secAttestOut, Reg.secAttestNonce,
   Reg.secKeyFn, Reg.secKeyGo, Reg.secKeyStatus, Reg.secKeyBlob, Reg.secDebugNew,
   Reg.secDebugSubmit, Reg.secDebugStatus, Reg.secDebugToken, Reg.secDebugChal, Reg.secSvnFwMin]

/-- Fields of the Security registers, part 1. -/
def regSecurityTable1 : List Fld :=
  [Reg.secSvnImgMin, Reg.secSvnL1Min, Reg.secSvnRunFw, Reg.secSvnRunImg, Reg.secSvnRunL1,
   Reg.secSvnCommitGo, Reg.secCertChain, Reg.secVfDelivered, Reg.secVfBusy, Reg.secVfKeyCheck]

/-- Fields of the Ready registers, part 0. -/
def regReadyTable0 : List Fld :=
  [Reg.readySummaryDevice, Reg.readySummaryImage, Reg.readySummaryMemory, Reg.readySummaryFabric, Reg.readySummaryTime,
   Reg.readySummaryRadio, Reg.readySummarySurvey, Reg.readySummaryLocked, Reg.readySummaryRestricted, Reg.readySummaryFailed,
   Reg.readyUptimeUs, Reg.readyBootFwSlot, Reg.readyBootImgSlot, Reg.readyBootFwFallback, Reg.readyBootImgFallback,
   Reg.readyBootPrecLost, Reg.readyBootPrecBank, Reg.readyBootNvmSlow, Reg.readyNextFwSlot, Reg.readyNextImgSlot,
   Reg.readyRestartKey, Reg.surveyStateState, Reg.surveyStateThermalReused, Reg.surveyStateChanged, Reg.readyFnState,
   Reg.readyFnStatus, Reg.readyFnStack, Reg.readyFnReadyMs, Reg.cfgLockHold, Reg.cfgLockLock]

/-- Fields of the Ready registers, part 1. -/
def regReadyTable1 : List Fld :=
  [Reg.cfgCommitKind, Reg.cfgCommitIndex, Reg.cfgCommitGo, Reg.cfgCommitToken, Reg.cfgResultIdxTail,
   Reg.cfgResultIdxHead, Reg.cfgResultIdxDropped, Reg.cfgPendingCount, Reg.cfgNvmOp, Reg.cfgNvmGo,
   Reg.cfgNvmWin, Reg.cfgNvmStatus, Reg.cfgNvmNvmOffset, Reg.cfgNvmLength, Reg.cfgNvmPa,
   Reg.cfgResultToken, Reg.cfgResultKind, Reg.cfgResultIndex, Reg.cfgResultOutcome, Reg.cfgResultStatus,
   Reg.cfgResultTime, Reg.cfgNvmWinByte]

/-- Fields of the Power registers, part 0. -/
def regPowerTable0 : List Fld :=
  [Reg.powerStatState, Reg.powerStatInOk, Reg.powerStatInLow, Reg.powerStatInHigh, Reg.powerStatHoldReady,
   Reg.powerStatOver, Reg.powerStatSensorMissing, Reg.powerStatLastStop, Reg.powerInInMv, Reg.powerInP10msW,
   Reg.powerAvgP1sW, Reg.powerAvgPeak20W, Reg.powerLimitContW, Reg.powerActPace, Reg.powerActRung,
   Reg.powerActBasePeakW, Reg.powerHoldCeilingDj, Reg.powerHoldCapUf, Reg.powerHoldVTargetMv, Reg.powerHoldStoredDj,
   Reg.powerHoldERecordDj, Reg.powerHoldRecordOk, Reg.thermCfgTCap, Reg.thermCfgTSet, Reg.thermBandLo,
   Reg.thermBandHi, Reg.thermBandGo, Reg.thermBandStop, Reg.thermBandState, Reg.thermBandMinutes]

/-- Fields of the Power registers, part 1. -/
def regPowerTable1 : List Fld :=
  [Reg.thermTempDie, Reg.thermTempDram, Reg.thermTempInlet, Reg.thermTempOutlet, Reg.thermModelKD,
   Reg.thermModelTau, Reg.thermModelTheta, Reg.thermModelKP, Reg.thermModelSource, Reg.thermModelPRunW,
   Reg.pwmDuty, Reg.pwmMinDuty, Reg.pwmFault, Reg.pwmRpm, Reg.pwmMinRpm,
   Reg.cableState, Reg.cableClear, Reg.cableCeilingCw, Reg.cableFaultMj, Reg.cablePowerMw,
   Reg.cableTrips]

/-- Fields of the Health registers, part 0. -/
def regHealthTable0 : List Fld :=
  [Reg.healthCauseFault, Reg.healthCauseProving, Reg.healthCauseShadow, Reg.healthCauseEvidence, Reg.healthCauseList,
   Reg.healthCauseLiveness, Reg.healthCausePower, Reg.healthCauseChisel, Reg.healthCauseCfg, Reg.healthCauseRadio,
   Reg.healthCauseTime, Reg.healthCauseTrigger, Reg.healthCauseRecord, Reg.healthIrqVector, Reg.healthIrqEnable,
   Reg.healthMgmtHbMs, Reg.healthMgmtDeadMs, Reg.healthMgmtStatLink0, Reg.healthMgmtStatLink1, Reg.healthMgmtStatRxDropped,
   Reg.healthScoreCfgLagMinUs, Reg.healthScoreCfgDecayS, Reg.healthScoreCfgSuspectOn, Reg.healthScoreCfgSuspectOff, Reg.healthListCfgBudget,
   Reg.healthListCfgWindowH, Reg.healthListVersion, Reg.healthListSpoiled, Reg.healthListWatched, Reg.healthListExpels]

/-- Fields of the Health registers, part 1. -/
def regHealthTable1 : List Fld :=
  [Reg.healthListCmdNode, Reg.healthListCmdOp, Reg.healthListCmdGo, Reg.healthListCmdStatus, Reg.healthEvidenceNode,
   Reg.healthEvidenceGo, Reg.healthEvidenceStatus, Reg.healthShadowActive, Reg.healthShadowShadowN, Reg.healthShadowChecks,
   Reg.healthShadowMismatches, Reg.healthShadowSkipped, Reg.healthProveIdleEnable, Reg.healthProveIdlePeriodS, Reg.healthProvePatterns,
   Reg.healthProveLoads, Reg.healthProveGo, Reg.healthProveState, Reg.healthProveSkipped, Reg.healthProveMissed,
   Reg.healthQuarBenches, Reg.healthQuarRelease, Reg.healthProveIdxTail, Reg.healthProveIdxHead, Reg.healthProveIdxDropped,
   Reg.healthMemberPresent, Reg.healthMemberSuspect, Reg.healthMemberList, Reg.healthMemberMgmt0, Reg.healthMemberMgmt1]

/-- Fields of the Health registers, part 2. -/
def regHealthTable2 : List Fld :=
  [Reg.healthMemberScore, Reg.healthMemberIncarnation, Reg.healthMemberEvidence, Reg.healthMemberHeardNs, Reg.healthMemberEvidenceNs,
   Reg.healthProveLogEntry]

/-- Fields of a VF's BAR0 that its own tables give: the error log ring and the MSI-X table (R398, R405). -/
def regVfTable0 : List Fld :=
  [Reg.vfErrlogTail, Reg.vfErrlogHead, Reg.vfErrlogDropped, Reg.vfErrlogEntry, Reg.vfMsixMsg, Reg.vfMsixMask]

/-- Every field of PF0 BAR0 and of the VFs' BAR0. -/
def regTable : List Fld :=
  regDeviceTable0 ++ regBenchTable0 ++ regMemoryTable0 ++ regJeanoTable0 ++ regJeanoTable1 ++
  regCrusherTable0 ++ regTimeTable0 ++ regTimeTable1 ++ regFronthaulTable0 ++ regFronthaulTable1 ++
  regSieveTable0 ++ regChiselTable0 ++ regTdfeTable0 ++ regTdfeTable1 ++ regBanksmanTable0 ++
  regBanksmanTable1 ++ regTenancyTable0 ++ regTenancyTable1 ++ regSecurityTable0 ++ regSecurityTable1 ++
  regReadyTable0 ++ regReadyTable1 ++ regPowerTable0 ++ regPowerTable1 ++ regHealthTable0 ++
  regHealthTable1 ++ regHealthTable2 ++ regVfTable0

end Sys2Proof.Machine
end

