-- ==== Sys2Proof/Machine/State.lean ====
section
/-! DEFINITION. The state of the PRN1 block as plain data: its register file, memories, queues, contexts and engines, and the
queue of commands that wait; the reasons a step can stop; and the state right after reset. -/

namespace Sys2Proof.Machine

/-! ### Memories -/

/-- Device DRAM and its controllers (chapter Stacked memory). -/
structure Mem where
  /-- Plaintext bytes by device physical address, in canonical form: an unlisted byte is a byte of a cleared line and reads 0. -/
  dram : List Host.Cell
  /-- Lines written since they were last cleared, each with the key pair it was encrypted under (R154, R158): a line not listed is stored with
  the cleared-line check pattern. -/
  stored : SMap Nat
  /-- Errors present in stored lines, by line number (R161-R163). -/
  err : SMap LineErr
  /-- Salt of the channel hash (R152). -/
  salt : Nat
  /-- DRAM token buckets in bytes, by function (R168). -/
  tokens : SMap Nat
  /-- Class R lines served within the share in this window, by channel (R167). -/
  chanR : SMap Nat
  /-- Class R bytes served within the share in this window, by router output (R18). -/
  galleryR : SMap Nat
  /-- Lots waiting to be cleared, in the order they were released (R154). -/
  clearQ : List Nat
  /-- Next line of the patrol scrub (R165). -/
  scrubLine : Nat
  /-- Refreshes done, by stack (R166). -/
  refreshed : SMap Nat
  /-- Key slots: 256-bit pairs of SM4 keys, by slot (R158). -/
  keys : SMap Nat
  /-- Slots that hold a delivered key (R426). -/
  delivered : List Nat
  /-- Commands that registered ranges before the last MEM_INVAL have a lower order (R157). -/
  invalSeq : Nat
  /-- Fault records kept in the persistent record, oldest first (R172, R454). -/
  persist : List Nat
  /-- Repair list of the persistent record: lines, plus 2^33 where a spare row has taken the line's place (R442, Table 17.6). -/
  repairs : List Nat
  deriving DecidableEq, Repr, Inhabited

/-- A pinned range of host memory under a PASID (R103). -/
structure Pin where
  pasid : Nat
  lo : Nat
  len : Nat
  deriving DecidableEq, Repr, Inhabited

/-- Host memory as the device reaches it through PASIDs: bytes by pasid × 2^48 + address, and the pinned ranges. -/
structure HostMem where
  bytes : SMap Byte
  pins : List Pin
  deriving DecidableEq, Repr, Inhabited

/-! ### Queues, steps and commands -/

/-- States of a step queue (Q_STATE.state, Table 05.2). -/
inductive QState where
  | disabled | running | stopping | error
  deriving DecidableEq, Repr, Inhabited

/-- A queue block (Table 05.2) with the completion phase of R114 and the in-flight mark of R116. -/
structure Queue where
  sqBase : Nat
  cqBase : Nat
  sqLog : Nat
  cqLog : Nat
  sqHost : Bool
  cqHost : Bool
  prio : Nat
  msix : Nat
  stopOnError : Bool
  pasid : Nat
  enable : Bool
  state : QState
  lastStatus : Status
  sqTail : Nat
  sqHead : Nat
  cqHead : Nat
  cqTail : Nat
  steps : Nat
  /-- Completion phase bit of the current pass. -/
  phase : Bool
  /-- A step has started and its completion entry is not yet written. -/
  busy : Bool
  /-- Doorbells whose entries have not all started, oldest first: entries left and time (R404). -/
  bells : List (Nat × Nat)
  deriving DecidableEq, Repr, Inhabited

/-- An admitted step in flight (R118-R121, R141, R142). -/
structure StepSt where
  stepId : Nat
  imageHost : Bool
  imageAddr : Nat
  recordHost : Bool
  recordAddr : Nat
  notify : Bool
  assayCheck : Bool
  expected : Nat
  sqIndex : Nat
  /-- The 64 bytes of the step entry, as a little-endian number. -/
  entry : Nat
  vbCount : Nat
  cmdCount : Nat
  imageLen : Nat
  /-- Image offset and index of the next command to read. -/
  nextPos : Nat
  nextIdx : Nat
  /-- A command has completed with a failing status: nothing more issues (R141). -/
  failing : Bool
  /-- A command failed its header check: no later one is read, earlier ones go on (R126). -/
  cut : Bool
  admitNs : Nat
  /-- Time at which the last command completed. -/
  lastNs : Nat
  deriving DecidableEq, Repr, Inhabited

/-- Who submitted a command: a step queue of a function, or a Chisel core for a floor position (R323). -/
inductive Owner where
  | queue (fn q : Nat)
  | radio (core slotTag pos : Nat)
  deriving DecidableEq, Repr, Inhabited

/-- Life of a command: read and waiting in its stream, killed and requeued (R137), issued and waiting to start (for frames, pages,
line ranges or engines), executed and not yet committed, past its point of no return with work left (a Crusher stage copy),
completed. -/
inductive CmdSt where
  | waiting | requeued | dispatched | issued | committing | done
  deriving DecidableEq, Repr, Inhabited

/-- A registered DRAM line range (R104). -/
structure LineRange where
  first : Nat
  last : Nat
  dest : Bool
  deriving DecidableEq, Repr, Inhabited

/-- A Slab cell on one bank (R33): the 128-bit integer and the four flags. -/
structure Cell where
  a : BitVec 128
  ovf : Bool
  trunc : Bool
  nan : Bool
  inf : Bool
  deriving DecidableEq, Repr, Inhabited

/-- An accumulator bank of a context (R33, R70): window exponent, kind, cells that are not zero (keyed 128 r + c), initialised
cells, and the open chain's members in order. -/
structure Bank where
  ew : Int
  complex : Bool
  cells : SMap Cell
  init : List Nat
  isOpen : Bool
  members : List Nat
  deriving DecidableEq, Repr, Inhabited

/-- A command: the copy the device keeps (R121), its place, and what its execution has staged. -/
structure Cmd where
  owner : Owner
  idx : Nat
  /-- All bytes of the command, header first, as a little-endian number, and how many there are. -/
  raw : Nat
  len : Nat
  st : CmdSt
  /-- Dispatch order number (R85). -/
  seq : Nat
  bench : Nat
  /-- It holds the shadow frames its write set needs (R83). -/
  held : Bool
  /-- Its bank as it was before this SLAB command, for a kill outside the Wedge (R76). -/
  snap : Option Bank
  /-- Yard bytes written to shadows, by Yard offset (R83). -/
  writes : SMap Byte
  wpages : List Nat
  rpages : List Nat
  /-- Pages a DISCARD releases at commit (R100). -/
  discard : List Nat
  ranges : List LineRange
  /-- Physical byte runs of its source and destination, as translated at dispatch (R107). -/
  srcRuns : List (Nat × Nat)
  dstRuns : List (Nat × Nat)
  /-- Members of the Slab chain that this command closes, in order (R71). -/
  chain : List Nat
  /-- Order in which its ranges were registered (R104). -/
  regSeq : Nat
  /-- DRAM tokens its accesses have taken, for the refund of a kill (R168), and bytes admitted without tokens (R169). -/
  tokens : Nat
  lent : Nat
  /-- A shadow run has compared its assay or been skipped (R485). -/
  checked : Bool
  /-- Host requests it has had admitted (R402). -/
  hostPaid : Nat
  /-- A radio command whose core has faulted: its completion entry is discarded (R326). -/
  mute : Bool
  /-- It has been counted as waiting for tokens (R168). -/
  waited : Bool
  /-- A radio command beyond the floor that has been counted as waiting (R368). -/
  extra : Bool
  /-- Commit buffer: messages to hand over or apply at commit (R133). -/
  buf : List Msg
  /-- Fabric messages whose settling this command awaits: a GET, a fetching ATOMIC or a FENCE. -/
  awaits : List Nat
  /-- DRAM destination bytes of a GET as they arrive, by device physical address. -/
  dramWrites : SMap Byte
  status : Status
  accFlags : Nat
  hasOut : Bool
  assay : Nat
  kills : Nat
  commitNs : Nat
  fault : Nat
  deriving DecidableEq, Repr, Inhabited

/-- Queues, steps, commands and tallies of every function. Queues are keyed 64 f + q, steps likewise, commands by the number
given when they are read, tallies 1024 f + t. -/
structure Work where
  queues : SMap Queue
  steps : SMap StepSt
  cmds : SMap Cmd
  nextCid : Nat
  nextSeq : Nat
  tallies : SMap Nat
  deriving DecidableEq, Repr, Inhabited

/-! ### Benches, contexts and accumulators -/

/-- Residence of a context (R354). -/
inductive Residence where
  | empty | saved | resident (bench : Nat)
  deriving DecidableEq, Repr, Inhabited

/-- A context (virtual bench): its Yard space, banks, epoch and place (R81, R122, R220, R354). -/
structure Ctx where
  /-- Yard bytes that are not zero, by offset. -/
  yard : SMap Byte
  mapped : List Nat
  /-- The Yard share P it was placed with. -/
  pages : Nat
  bank0 : Bank
  bank1 : Bank
  epoch : Nat
  res : Residence
  /-- When its current quantum and its hold of the bench began. -/
  quantumNs : Nat
  heldNs : Nat
  waitNs : Option Nat
  blockedNs : Option Nat
  /-- Since when it has been resident and idle (R354, R381). -/
  idleNs : Option Nat
  /-- In its first quantum after a starvation switch (R356). -/
  starved : Bool
  deriving DecidableEq, Repr, Inhabited

/-- Phases of a context switch (Table 13.6). -/
inductive SwPhase where
  | grace | save | restore
  deriving DecidableEq, Repr, Inhabited

/-- A context switch in progress on a bench (R373). -/
structure Switch where
  outgoing : Option Nat
  incoming : Option Nat
  phase : SwPhase
  startNs : Nat
  /-- End of the grace. -/
  graceNs : Nat
  /-- It was started at a starvation point (R356). -/
  starve : Bool
  deriving DecidableEq, Repr, Inhabited

/-- A bench held by radio (R363, R367, R368): slot tag, floor position, end of hold, and whether a recipe entry reserved it. -/
structure FloorHold where
  slotTag : Nat
  pos : Nat
  endNs : Nat
  reserved : Bool
  /-- The Wedge has handed the bench over. -/
  ready : Bool
  /-- When the last radio command of its slot tag and position ended. -/
  lastNs : Nat
  deriving DecidableEq, Repr, Inhabited

/-- The floor reservation that a bench has been chosen for at a plan point (R366): recipe entry, slot tag, position, reservation point
and release. -/
structure Chosen where
  entry : Nat
  slotTag : Nat
  pos : Nat
  reserveNs : Nat
  releaseNs : Nat
  deriving DecidableEq, Repr, Inhabited

/-- A bench beside its registers. -/
structure BenchSt where
  /-- Key of the resident context, 32 f + c. -/
  ctx : Option Nat
  sw : Option Switch
  hold : Option FloorHold
  /-- Reservations it has been chosen for, earliest first. -/
  chosen : List Chosen
  /-- Released Yard frames not yet zeroed (R82), outside the radio lot and in it (R87). -/
  zeroing : Nat
  radioZeroing : Nat
  /-- Waking from a deeper power state (R380). -/
  waking : Bool
  /-- blocked_hold_us has passed over its blocked or idle context (R381). -/
  deep : Bool
  deriving DecidableEq, Repr, Inhabited

/-- Benches and contexts. Tenant contexts are keyed 32 f + c; the radio lot of bench b is the Yard space keyed 16416 + b. -/
structure Yards where
  benches : SMap BenchSt
  ctxs : SMap Ctx
  recipe : List ResEntry
  /-- Durations of the last switches, newest first (R373). -/
  switchNs : List Nat
  /-- Nanoseconds of lent bench time not yet a whole unit of virtual time, by function (R361). -/
  vrem : SMap Nat
  deriving DecidableEq, Repr, Inhabited

/-! ### Fabric and collectives -/

/-- An unsettled message at its source (R205, R207). -/
structure Unacked where
  msg : Msg
  /-- Command that issued it, and the peer index it named. -/
  cid : Nat
  peer : Nat
  firstNs : Nat
  resends : Nat
  checkFails : Nat
  /-- Messages that must be acknowledged before this one is sent (R203): a release that waits. -/
  after : List Nat
  sent : Bool
  /-- Offset of the segment in the operation. -/
  off : Nat
  /-- Resend interval in force, ns (R207). -/
  interval : Nat
  /-- The Crusher traffic it carries, for a COLL message. -/
  coll : Option CollMsg
  /-- When it was last sent, by which port (16: none, no route), and the members of the domain it passes (R207). -/
  lastNs : Nat
  port : Nat
  path : List Nat
  /-- A copy of an MCAST_PUT, and the message of its column with which it leaves this device as one copy (R215). -/
  mcast : Bool
  lead : Option Nat
  /-- The queue it was to leave by discarded it (R190, R191). -/
  dropped : Bool
  /-- It is for this device itself and has yet to be delivered (R184). -/
  localDue : Bool
  deriving DecidableEq, Repr, Inhabited

/-- A replay record of an applied fetching atomic (R211). -/
structure AtomRec where
  node : Nat
  cls : Nat
  seq : Nat
  result : Nat
  sizeB : Nat
  timeNs : Nat
  deriving DecidableEq, Repr, Inhabited

/-- A reduction round being staged (R214). -/
structure Round where
  fn : Nat
  line : Nat
  round : Nat
  n : Nat
  firstNs : Nat
  parts : List Msg
  deriving DecidableEq, Repr, Inhabited

/-- Link layer of one port (R176, R179). -/
structure PortLink where
  /-- Next flit sequence expected, next to be sent, and the flits in the replay buffer: sequence and payload area. -/
  rxNext : Nat
  txNext : Nat
  replay : List (Nat × List Byte)
  /-- Bytes of the message stream that fill no whole flit yet (R174). -/
  tail : List Byte
  naks : Nat
  tries : Nat
  /-- Flits sent into each virtual channel, by its code, for which no credit has come back (R186). -/
  credits : SMap Nat
  /-- Lanes that trained, and the G-clock of the partner's last capability block (R180). -/
  lanes : Nat
  lastRx : Nat
  /-- Flight sums of the capability exchanges (R180). -/
  flightSum : Nat
  exchanges : Nat
  lastTx : Nat
  /-- The flit the partner last refused, and how often in a row. -/
  peerNak : Nat
  peerNaks : Nat
  deriving DecidableEq, Repr, Inhabited

/-- The fabric's source and target state (R205-R220). Pairs are keyed 4 × node + class. -/
structure Fab where
  unacked : SMap Unacked
  nextMid : Nat
  seqNext : SMap Nat
  /-- Sequence of the last ordered message, by flow. -/
  ordLast : SMap Nat
  heldInc : SMap Nat
  seenInc : SMap Nat
  /-- Target windows: lowest unapplied sequence, and the sequences applied above it. -/
  winLow : SMap Nat
  winMap : SMap (List Nat)
  held : List Msg
  atoms : List AtomRec
  rounds : List Round
  heard : SMap Nat
  links : SMap PortLink
  /-- trTCM buckets in bytes: committed and peak, by function (R190), and host DMA buckets (R402). -/
  tc : SMap Nat
  tp : SMap Nat
  hostTc : SMap Nat
  hostTp : SMap Nat
  /-- Host bytes metered, keyed 2 × function + (0 green, 1 yellow): the registers show them in KiB (R402). -/
  hostMet : SMap Nat
  /-- Failures settled, by message number: the first status of each command's messages. -/
  settled : SMap Status
  /-- Final NAK reasons given, keyed (4 × node + class) × 2^32 + sequence: a duplicate gets the same answer. -/
  refused : SMap Nat
  deriving DecidableEq, Repr, Inhabited

/-- A member's report in a descriptor exchange (R238, R252). -/
structure Report where
  agree : Bool
  hash : Nat
  tFirst : Nat
  tLast : Nat
  lateRank : Nat
  deriving DecidableEq, Repr, Inhabited

/-- A collective in flight on this member (R236-R252). Elements are numbers: a narrow value's code, a value with its index times
2^64, or a wide cell with its flags times 2^128. -/
structure Coll where
  fn : Nat
  group : Nat
  seq : Nat
  op : Nat
  /-- Members in rank order: node and function. -/
  members : List (Nat × Nat)
  rank : Nat
  hash : Nat
  joinNs : Nat
  /-- Physical runs of input, output, stage and count arrays. -/
  src : List (Nat × Nat)
  dst : List (Nat × Nat)
  stg : List (Nat × Nat)
  cnt : List (Nat × Nat)
  sendCounts : List Nat
  recvCounts : List Nat
  /-- Counts and reports received, by rank. -/
  counts : SMap Nat
  reports : SMap Report
  reported : Bool
  verdict : Option Bool
  /-- Verified elements by index, keyed stage × 1024 + source rank. -/
  got : SMap (SMap Nat)
  /-- Chunk bytes received and not yet verified, keyed (stage × 1024 + source) × 2^20 + chunk. -/
  partial_ : SMap (SMap Byte)
  /-- Length and check of a chunk whose last message is here while others are missing, keyed as `partial_`. -/
  ends : SMap (Nat × Nat)
  fails : SMap Nat
  /-- Order in which contributions passed verification, by chunk key. -/
  order : List Nat
  /-- Retain store: sent chunks not yet verified, keyed as `partial_` by destination; and chunks that wait for room in it, in order. -/
  retain : SMap (List Byte)
  toSend : List (Nat × List Byte)
  /-- When the verdict came, and when each rank last gave something that was awaited from it (R249). -/
  verdictNs : Nat
  lastNs : SMap Nat
  /-- The input has been read. -/
  inRead : Bool
  sentResult : Bool
  staged : Bool
  deriving DecidableEq, Repr, Inhabited

/-- The Crusher: collectives in flight by command number, and the early store (R240). -/
structure Crush where
  colls : SMap Coll
  early : List CollMsg
  /-- Crusher messages that settled with a failure, oldest first. -/
  lost : List (CollMsg × Status)
  /-- Sequence of the last collective that ended, by 64 × function + group. -/
  past : SMap Nat
  /-- Records of latest arrivals handed to HEALTH (R252): function, group, sequence, rank, spread; newest first. -/
  late : List (Nat × Nat × Nat × Nat × Nat)
  deriving DecidableEq, Repr, Inhabited

/-! ### Tenancy -/

/-- A migration operation in progress (R413): its descriptor and what it will report. -/
structure Migration where
  op : Nat
  fn : Nat
  status : Status
  bytes : Nat
  deriving DecidableEq, Repr, Inhabited

/-- A reset in progress (R409): when it began, its cause, and what it squashed and drained. -/
structure ResetSt where
  startNs : Nat
  cause : Nat
  squashedCmds : Nat
  squashedColls : Nat
  drained : Nat
  /-- When the VF's last message was handed to a port (R409). -/
  lastNs : Option Nat
  /-- NumVFs was lowered below this VF: it goes to OFF at the end (R397). -/
  toOff : Bool
  deriving DecidableEq, Repr, Inhabited

/-- Function state beside the TENANCY registers. -/
structure Ten where
  /-- High words latched by low-word reads, by register address (R12). -/
  latch : SMap Nat
  /-- Bytes written and read by MSI-X: pending bits, keyed 64 f + vector (R398). -/
  pendBits : List Nat
  resets : SMap ResetSt
  mig : Option Migration
  /-- live_id of the last SAVE_LIVE and of the last LIVE image restored, by function, and the lots it covered. -/
  liveOut : SMap Nat
  liveLots : SMap (List Nat)
  liveIn : SMap Nat
  /-- Regions (512 × lot + region) written since SAVE_LIVE began, by function. -/
  marks : SMap (List Nat)
  deriving DecidableEq, Repr, Inhabited
/-! ### Time -/

/-- PTP and SyncE settings of the image, and what the servo has of the exchange in progress (R264-R266): times of a Sync's departure and
arrival, and of the Delay_Req's departure. -/
structure Ptp where
  domain : Nat
  bc : Bool
  synceOpt : Nat
  syncePort : Nat
  t1 : Option Nat
  t2 : Option Nat
  t3 : Option Nat
  /-- Announced dataset of the best master. -/
  parent : Nat
  deriving DecidableEq, Repr, Inhabited

/-- The time base and its functions beside the TIME registers (R260-R276). -/
structure Clock where
  /-- TAI nanoseconds and the fraction in 2^-32 ns. -/
  ns : Nat
  frac : Nat
  /-- G-clocks counted since start. -/
  g : Nat
  /-- Nanoseconds since the release of RESET_N, which no step changes. -/
  up : Nat
  /-- The source is present; LOCKED has been reached; first entry into HOLDOVER, in `up` time (R269). -/
  srcOk : Bool
  everLocked : Bool
  holdSince : Option Nat
  /-- Timestamp queues: identifier, nanoseconds, fraction, oldest first (R270). -/
  tsq : SMap (List (Nat × Nat × Nat))
  /-- Capture queues: nanoseconds and rising edge, oldest first (R275). -/
  cap : SMap (List (Nat × Bool))
  /-- Comparator groups committed and waiting for the next firing (R274), and the compare values already fired (R273). -/
  trigNext : SMap TrigGroup
  trigFired : SMap Nat
  /-- TIME_EVT pins that are high, and by pin the G-clock and number of the comparator that drove it last (R272). -/
  evt : List Nat
  pinBy : SMap (Nat × Nat)
  ptp : Ptp
  /-- The addend that the servo measured to be true (R261, R263). -/
  freq : Nat
  /-- Low half of a step written with 32-bit accesses, and the count that a forward step reached in this nanosecond (R261, R273). -/
  stepLow : Nat
  stepTo : Option Nat
  /-- Since when, in `up` time, the offset has been below 100 ns (R268). -/
  below : Option Nat
  /-- By timestamp queue: the G-clock of an entry that a full queue dropped, the overflow flag before it, and the entry (R270). -/
  tsqDrop : SMap (Nat × Nat × (Nat × Nat × Nat))
  /-- The count at which 1PPS_OUT rose last, while that nanosecond lasts (R276). -/
  ppsLast : Option Nat
  deriving DecidableEq, Repr, Inhabited

/-! ### Chisel cores -/

/-- How a pending register write acts when it lands: it replaces the register, clears or sets its one bits. -/
inductive PendKind where
  | write | clear | set
  deriving DecidableEq, Repr, Inhabited

/-- A register write of a Chisel core that has issued and not landed (R309): register key, value, and the bundle number that first
reads it. Keys: special registers by number (Table 11.5), G registers 0x100 + n, vector registers 0x200 + n. -/
structure PendReg where
  key : Nat
  value : Nat
  lands : Nat
  kind : PendKind
  deriving DecidableEq, Repr, Inhabited

/-- A store of a Chisel core that the next bundle sees (R304). -/
structure PendMem where
  addr : Nat
  data : List Byte
  deriving DecidableEq, Repr, Inhabited

/-- A POST that waits for a free entry of its port (R322): port, copied bytes, slot tag attached, and when the stall began. -/
structure Stall where
  port : Nat
  data : List Byte
  tag : Nat
  sinceNs : Nat
  deriving DecidableEq, Repr, Inhabited

/-- A Chisel core (R303-R326) beside its CHISEL registers. -/
structure Core where
  /-- Registers by key; an unlisted key reads 0, STATUS reads loop_en = 1. -/
  regs : SMap Nat
  /-- Instruction, X and Y memory bytes that are not zero, by local address (Table 11.1). -/
  mem : SMap Byte
  pc : Nat
  /-- Bundles issued since the core started. -/
  bundle : Nat
  pend : List PendReg
  stores : List PendMem
  /-- A slot of the bundle at `pc` has issued and its last has not. -/
  mid : Bool
  /-- Bundles still to end before a branch's two delay bundles are over, and the fetch address after them when it was taken (R311). -/
  delay : Nat
  target : Option Nat
  /-- The branch in progress is an RTI. -/
  rti : Bool
  /-- A LOOP or LOOPI of count 0 in this bundle: the fetch address after its body (R313). -/
  loopTo : Option Nat
  /-- Mask of the WAIT in force, and when it began (R318). -/
  waitMask : Option Nat
  waitNs : Nat
  stall : Option Stall
  /-- Completion entries that wait for a free ring entry, oldest first (R324). -/
  cqWait : List Nat
  /-- High words latched by reads of TNOW_LO and CYCLE_LO. -/
  tnowHi : Nat
  cycleHi : Nat
  startNs : Nat
  wdogNs : Nat
  tcmpArmed : Bool
  /-- Times of its last faults, newest first (R326). -/
  faultNs : List Nat
  deriving DecidableEq, Repr, Inhabited

/-- An L1 image of the configuration image's working copy (Table 11.9): header fields and its three sections. -/
structure L1Image where
  entry : Nat
  imem : List Byte
  x : List Byte
  y : List Byte
  deriving DecidableEq, Repr, Inhabited

/-! ### Radio -/

/-- A P7 message group published on a ring pair (R289): its entry's fields and the time of the doorbell. -/
structure FapiGroup where
  ring : Nat
  cell : Nat
  sfn : Nat
  slot : Nat
  addr : Nat
  len : Nat
  publishNs : Nat
  deriving DecidableEq, Repr, Inhabited

/-- Kinds of P7 request. -/
inductive P7Kind where
  | dlTti | ulTti | ulDci | txData
  deriving DecidableEq, Repr, Inhabited

/-- The PDUs scheduled for a slot of a cell by one request. -/
structure SlotWork where
  kind : P7Kind
  cell : Nat
  sfn : Nat
  slot : Nat
  pdus : List Pdu
  deriving DecidableEq, Repr, Inhabited

/-- A downlink U-plane section posted to the fronthaul (R325). -/
structure FhSection where
  core : Nat
  cell : Nat
  sfn : Nat
  slot : Nat
  sym : Nat
  startPrb : Nat
  prbs : Nat
  section_ : Nat
  eaxc : Nat
  pa : Nat
  deriving DecidableEq, Repr, Inhabited

/-- A compressed U-plane frame: width, the exponent and mantissas of each PRB, and the bytes it takes on the wire. -/
structure FhFrame where
  cell : Nat
  sfn : Nat
  slot : Nat
  sym : Nat
  eaxc : Nat
  section_ : Nat
  startPrb : Nat
  width : Nat
  prbs : List (Nat × List Nat)
  bytes : Nat
  core : Nat
  deriving DecidableEq, Repr, Inhabited

/-- A job in a Sieve queue (R294): the posting core, its descriptor, and the mark of a core that has faulted since. -/
structure SieveJob where
  core : Nat
  desc : Nat
  mute : Bool
  deriving DecidableEq, Repr, Inhabited

/-- A FAPI message the device writes: P5 responses, ERROR and SLOT indications with their TLVs, or a group a core supplies. -/
inductive FapiInd where
  | response (request : Nat) (cell : Nat) (err : Nat)
  | error (cell sfn slot : Nat) (err : Nat) (pdu : Option Nat) (tlvs : List (Nat × Nat))
  | slot (cell sfn slot : Nat) (tlvs : List (Nat × Nat))
  | group (cell sfn slot : Nat) (tlvs : List (Nat × Nat))
  deriving DecidableEq, Repr

/-- What a fronthaul port sends. -/
inductive FhOut where
  | uPlane (f : FhFrame)
  | cPlane (cell sfn slot sym : Nat) (bytes : List Byte)
  /-- Section type 0: PRBs left without PDUs (R290). -/
  | unused (cell sfn slot sym : Nat) (prbs : List Nat)
  | delayAnswer (id : Nat) (ns : Nat)
  | roe (stream seq : Nat) (samples : List Nat)
  deriving DecidableEq, Repr

/-- Radio state beside the FRONTHAUL and SIEVE registers (R278-R299). Slots are keyed (cell × 1024 + SFN) × 1024 + slot, symbols
slot key × 16 + symbol. -/
structure Radio where
  /-- The admitted cell plan, by cell. -/
  plan : SMap CellPlan
  /-- Parameters a CONFIG.request has set, by cell. -/
  params : SMap (List (CellParam × Nat))
  /-- First slot of a RUNNING cell, ns. -/
  startNs : SMap Nat
  groups : List FapiGroup
  work : List SlotWork
  sections : List FhSection
  /-- Released frames that wait for tokens, in PRB order of their symbols. -/
  frames : List FhFrame
  /-- Shaping buckets in 10^-9 bit, and when they were last filled. -/
  tokens : SMap Nat
  tokensNs : SMap Nat
  /-- Symbols whose C-plane was late: their U-plane is not sent (Table 10.10). -/
  cLate : List Nat
  /-- Last eCPRI sequence accepted, by logical port × 65536 + eAxC. -/
  rxSeq : SMap Nat
  /-- Received IQ of a PRB, 12 CI16 values as a number, by (symbol key × 65536 + eAxC) × 1024 + PRB. -/
  iq : SMap Nat
  /-- Jobs in the Sieve queues, in posting order. -/
  jobs : List SieveJob
  /-- Iteration caps of decode releases, by cell × 65536 + tb_id; 0 = dropped undecoded. -/
  caps : SMap Nat
  /-- HARQ processes that hold a soft buffer, by cell. -/
  harq : SMap (List Nat)
  /-- Uplink slots whose indication has been written, and the TLVs the next indication of a slot carries (R292). -/
  written : List Nat
  marks : SMap (List (Nat × Nat))
  /-- Indication data areas: next byte, and lengths of the entries written and not yet known to be read, by ring pair. -/
  indPos : SMap Nat
  indLens : SMap (List Nat)
  deriving DecidableEq, Repr, Inhabited

/-- The device's own network addresses, by port: 14 and 15 outer, 16 and 17 management; fronthaul logical port l at 32 + l. -/
structure Net where
  v4 : SMap Nat
  v6 : SMap Nat
  /-- Next-hop MAC addresses of the outer ports (R223). -/
  mac : SMap Nat
  deriving DecidableEq, Repr, Inhabited

/-! ### Streams and chirp -/

/-- A chirp transmission in progress (R348). -/
structure ChirpTx where
  channel : Nat
  tag : Nat
  startNs : Nat
  sf : Nat
  nPre : Nat
  mark : Nat
  /-- Attenuation in steps of 0.25 dB, and ramp in channel samples. -/
  att : Nat
  ramp : Nat
  syms : List Nat
  deriving DecidableEq, Repr, Inhabited

/-- A chirp demodulator at work (R344, R345): its spreading factor, whether another has overlapped, and what AFC froze: the first preamble
sample's air time, both offsets, and the magnitude of the preamble peak. -/
structure Demod where
  sf : Nat
  overlap : Bool
  timeNs : Nat
  freqHz : Int
  timingNs : Int
  peak : Nat
  deriving DecidableEq, Repr, Inhabited

/-- Streams and the chirp engine beside the TDFE registers (R329-R349). -/
structure Tdfe where
  cfg : SMap StreamCfg
  /-- Samples received, as 32-bit I and Q, by (stream × 1024 + SFN) × 2^24 + index in the frame. -/
  rx : SMap Nat
  /-- Sequence numbers accepted, as (stream × 1024 + SFN) × 65536 + sequence. -/
  seqs : List Nat
  /-- Whether each of the last eight blocks of a stream violated its mask, newest first. -/
  hist : SMap (List Bool)
  /-- Demodulations in progress on a channel. -/
  demods : SMap (List Demod)
  /-- Receive ring and transmit ring in radio lots (R346, R348). -/
  rxBase : Nat
  rxSize : Nat
  rxTail : Nat
  txBase : Nat
  txLog : Nat
  txHead : Nat
  tx : List ChirpTx
  deriving DecidableEq, Repr, Inhabited
/-! ### Configuration -/

/-- A snapshot of a staged group that waits for its boundary (R448): the group, its token, the copied values and their CRC-32C. -/
structure Snap where
  kind : Nat
  index : Nat
  token : Nat
  values : List Nat
  crc : Nat
  deriving DecidableEq, Repr, Inhabited

/-- The CONFIG block beside its registers. -/
structure CfgSt where
  pending : List Snap
  deriving DecidableEq, Repr, Inhabited

/-! ### Security -/

/-- A gathered attestation report on its way to memory (R425): function, address, and its 448 bytes before the signature. -/
structure ReportSt where
  fn : Nat
  out : Nat
  bytes : List Byte
  deriving DecidableEq, Repr, Inhabited

/-- A key delivery request in progress (R426): the VF, and the plaintext of the blob where it decrypted. -/
structure KeyReq where
  fn : Nat
  plain : Option (List Byte)
  deriving DecidableEq, Repr, Inhabited

/-- The SECURITY engine beside its registers. -/
structure Sec where
  /-- The private key of this start (R419), which no register shows. -/
  d : Option Nat
  /-- The challenge in SEC_DEBUG_CHAL has been drawn and no token has been accepted against it (R430). -/
  chalOpen : Bool
  report : Option ReportSt
  keyReq : Option KeyReq
  deriving DecidableEq, Repr, Inhabited

/-! ### Start-up -/

/-- Settings of the image that no register shows: class R share of the Gallery (R18), the time leader (R263), recovered clock outputs
(R266), and the addressing of ETHERNET-mode outer ports (R223) and management ports. -/
structure ImageSet where
  galleryShare : Nat
  leader : Nat
  clockOuts : List Nat
  udpPort : Nat
  dscp : List Nat
  hops : List Nat
  collectors : List Nat
  mgmtUdp : Nat
  deriving DecidableEq, Repr, Inhabited

/-- Start-up beside the READY and CONFIG registers. -/
structure Boot where
  /-- Bytes of the NVM that are not 0xFF, by offset (Table 17.2). -/
  nvm : SMap Byte
  /-- RESET_N is low (R500); conversion runs (R457). -/
  resetLow : Bool
  converting : Bool
  /-- A valid persistent record was found or has been written since, the winning bank and its sequence number (R452). -/
  recValid : Bool
  recBank : Nat
  recSeq : Nat
  /-- Changes to the record that wait for a write (R453). -/
  recPending : Bool
  /-- Of those, what is written at once: the Survey's results (R453), a trip (R473), a new UE_PERSISTENT record. In `up` time: the writes of the last day for
  such records, and the last write for any other change. -/
  recAtOnce : Bool
  recUe : Bool
  recUeNs : List Nat
  recLastNs : Option Nat
  /-- NumVFs as written before configuration lock (R446). -/
  numVfs : Option Nat
  /-- CFG_LOCK.lock was written before the lock could be taken (R446). -/
  lockAsked : Bool
  image : ImageSet
  /-- Signed L1 images of the verified configuration image, in order (R327). -/
  l1 : List (List Byte)
  /-- Survey items done, their results by 1024 × item + index, and those of the previous start (R441). -/
  surveyDone : List Nat
  survey : SMap Nat
  before : SMap Nat
  /-- Stored thermal model: K_d, τ, θ as THERM_MODEL shows them (R442). -/
  thermal : Option (Nat × Nat × Nat)
  deriving DecidableEq, Repr, Inhabited

/-! ### Power and cooling -/

/-- A temperature band that is held (R474): its bounds, and since when the die has been outside with every duty at its bound. -/
structure Band where
  lo : Nat
  hi : Nat
  stuckNs : Option Nat
  /-- When its duration ends, in `up` time. -/
  untilNs : Nat
  deriving DecidableEq, Repr, Inhabited

/-- The 48 V stage, the limiter and the cooling loop beside the POWER registers. -/
structure Power where
  /-- Input power of the last 100,000 measurements, W, newest first, each with the modelled draw of tenant benches (R459, R461). -/
  samples : List (Nat × Nat)
  /-- Pace of the limiter and pace floor of the loop (R460, R472). -/
  paceLim : Nat
  paceLoop : Nat
  /-- A request of R461 that the loop has not seen. -/
  ask : Bool
  /-- Cycles since the rung was entered, and cycles in a row that meet the conditions for a step back (R472). -/
  rungCycles : Nat
  calm : Nat
  /-- Tenant cap and A-clock step decided for the next subframe boundary. -/
  capNext : Option Nat
  divNext : Option Nat
  /-- Integral part of each output's duty, and K_p as the image's default gives it (R470, R471). -/
  integral : SMap Rat
  kpDefault : Nat
  /-- Listed sensors by role: 0 INLET, 1 OUTLET, 2 BOARD; the image's inlet default; failed reads in a row, by sensor (R467). -/
  sensors : List Nat
  inletDefault : Nat
  readFails : SMap Nat
  /-- Cycles in a row with a low tachometer, by output (R468). -/
  tachLow : SMap Nat
  band : Option Band
  /-- Times of the last trips of each cable port, newest first (R465). -/
  trips : SMap (List Nat)
  /-- Energy each cable port has delivered since it began to limit, in mW for one measurement of 10 µs (R465). -/
  limitE : SMap Nat
  /-- Since when the pace in force has been 15, and the last cycle of the loop, in `up` time (R461, R468). -/
  fullSince : Option Nat
  loopNs : Option Nat
  /-- The hold-up sequence runs (R463). -/
  holdRun : Bool
  deriving DecidableEq, Repr, Inhabited

/-! ### Health -/

/-- A proving run in progress or due (R487): unit, whether it is a Sieve engine, pattern, load, and whether a sweep asked for it. -/
structure ProveRun where
  unit : Nat
  engine : Bool
  pattern : Nat
  load : Nat
  sweep : Bool
  deriving DecidableEq, Repr, Inhabited

/-- Health beside its registers. -/
structure Health where
  /-- Times of the EXPEL changes applied (R482), evidence records unexpired (R481), and the last 256 proving failures (R489). -/
  expels : List Nat
  evidence : List Evidence
  fails : List Nat
  /-- The newest change applied, and the list and expulsions as they were before it (R483). -/
  last : Option HChange
  prevList : List (Nat × Nat)
  prevExpels : List Nat
  /-- Changes that arrived ahead of their version's turn. -/
  early : List HChange
  /-- Next datagram sequence of each management port (Table 19.2). -/
  mgmtSeq : SMap Nat
  /-- Proving runs in progress; runs of the sweep still to start; units proved in this period (benches 0-31, engines 64 + e). -/
  runs : List ProveRun
  due : List ProveRun
  proved : List Nat
  /-- Benches to be released at the next start (R488). -/
  release : Nat
  /-- In `up` time: the last datagram of a member on a port, by 2 × member + port (R478); the last heartbeat (0), decay (1) and end of a
  proving period (2). -/
  heard : SMap Nat
  ticked : SMap Nat
  deriving DecidableEq, Repr, Inhabited


/-! ### The machine -/

/-- A UDP datagram of an outer port in ETHERNET mode (R223): next hop, addresses as numbers, ports, class of service, the IPv4 DF bit, UDP
checksum and the message. -/
structure UdpOut where
  mac : Nat
  ipv6 : Bool
  src : Nat
  dst : Nat
  srcPort : Nat
  dstPort : Nat
  dscp : Nat
  df : Bool
  check : Nat
  payload : List Byte
  deriving DecidableEq, Repr

/-- What the block sends out, newest first in `State.out`. -/
inductive Out where
  /-- An MSI-X message of a function's vector (R398). -/
  | msix (fn vector : Nat)
  /-- Data returned to a register read: 32-bit words, lowest first. -/
  | regData (ws : List Nat)
  /-- A 64-byte line returned to a host CXL.mem read, as a number. -/
  | cxlData (line : Nat)
  /-- A fabric message handed to a Jeano port. -/
  | fabric (port : Nat) (m : Msg)
  /-- A COLL message handed to the fabric. -/
  | coll (m : CollMsg)
  /-- A flit sent by a port, 256 bytes (R174). -/
  | flit (port : Nat) (bytes : List Byte)
  /-- A message sent by an outer port in ETHERNET mode (R223). -/
  | udp (port : Nat) (d : UdpOut)
  /-- A capability block sent (R180). -/
  | cap (port : Nat) (b : CapBlock)
  /-- A PTP message sent on a port of Table 09.4, with its time in sixteenths of a nanosecond. -/
  | ptp (q : Nat) (kind : PtpKind) (ns16 : Nat)
  /-- A time message handed to the fabric for a node, class S (R267). -/
  | timeMsg (node ns : Nat)
  /-- An ESMC message sent on a port with a quality level (R266). -/
  | esmc (q level : Nat)
  /-- A SYNCE_RCLK pin carries the recovered clock of a port, divided to a rate in kHz (R266). -/
  | rclk (n q khz : Nat)
  /-- The start event to the TD front end (Table 09.5). -/
  | tdStart (ns : Nat)
  /-- A TIME_EVT pin driven; a pulse of 100 ns. -/
  | pin (n : Nat) (high : Bool)
  | pulse (n : Nat)
  /-- 1PPS_OUT rises for a width. -/
  | pps (widthMs : Nat)
  /-- A FAPI group written to a ring pair's indication ring (R289). -/
  | fapi (ring : Nat) (ind : FapiInd)
  /-- A frame sent on a fronthaul logical port. -/
  | fh (lport : Nat) (f : FhOut)
  /-- Answer to an ARP request or a Neighbor Solicitation (R223), on a port of `Net`. -/
  | netAnswer (port addr : Nat)
  /-- A management datagram sent on a port (Table 19.2), 64 bytes. -/
  | datagram (port : Nat) (bytes : List Byte)
  /-- A health list change and an evidence record flooded to the domain (R481, R483). -/
  | listChange (c : HChange)
  | evidence (e : Evidence)
  deriving DecidableEq, Repr

/-- The state of the block. -/
structure State where
  /-- PF0 BAR0 registers (and the register-like VF BAR0 fields), by field key; an unlisted field holds its reset value. -/
  regs : SMap Nat
  /-- Committed copies of staged fields, by field key; an unlisted field holds its reset value. -/
  live : SMap Nat
  mem : Mem
  host : HostMem
  work : Work
  yards : Yards
  fab : Fab
  crush : Crush
  ten : Ten
  clock : Clock
  /-- Chisel cores by number. -/
  cores : SMap Core
  /-- L1 images that were loaded, by index (R327). -/
  images : SMap L1Image
  radio : Radio
  net : Net
  tdfe : Tdfe
  /-- Commits taken and not yet final. -/
  cfg : CfgSt
  sec : Sec
  boot : Boot
  power : Power
  health : Health
  /-- What the block has sent out, newest first. -/
  out : List Out
  /-- The model's own counter of free values drawn so far (no field of the hardware). -/
  free : Nat
  /-- Commands waiting, first in first out. -/
  pending : List Instr
  deriving DecidableEq, Repr

/-- Why a step stops with a fault. -/
inductive Fault where
  /-- Raised by no meaning: every command of this block has an effect the spec gives, and failures are statuses, discards and log
  entries in the next state. Kept so that the type has a name for a stop that a reader may look for. Safe. -/
  | unreachable
  deriving DecidableEq, Repr

/-- Why a step is refused. -/
inductive Refusal where
  /-- The command has no meaning yet. Raised only by arms of `exec`, by the command's mnemonic. Safe. -/
  | notModelled (mnemonic : String)
  deriving DecidableEq, Repr

/-- The machine right after reset: registers at the values of the register tables, memories empty, nothing in flight, nothing
pending. Values the spec gives only from the grade record, the image or the start are loaded by the start commands. -/
def State.reset : State where
  regs := []
  live := []
  mem := { dram := [], stored := [], err := [], salt := 0, tokens := [], chanR := [], galleryR := [], clearQ := [],
           scrubLine := 0, refreshed := [], keys := [], delivered := [], invalSeq := 0, persist := [], repairs := [] }
  host := { bytes := [], pins := [] }
  work := { queues := [], steps := [], cmds := [], nextCid := 0, nextSeq := 0, tallies := [] }
  yards := { benches := [], ctxs := [], recipe := [], switchNs := [], vrem := [] }
  fab := { unacked := [], nextMid := 0, seqNext := [], ordLast := [], heldInc := [], seenInc := [], winLow := [], winMap := [],
           held := [], atoms := [], rounds := [], heard := [], links := [], tc := [], tp := [], hostTc := [], hostTp := [], hostMet := [],
           settled := [], refused := [] }
  crush := { colls := [], early := [], lost := [], past := [], late := [] }
  ten := { latch := [], pendBits := [], resets := [], mig := none, liveOut := [], liveLots := [], liveIn := [], marks := [] }
  clock := { ns := 0, frac := 0, g := 0, up := 0, srcOk := false, everLocked := false, holdSince := none, tsq := [], cap := [],
               trigNext := [], trigFired := [], evt := [], pinBy := [],
               ptp := { domain := 0, bc := false, synceOpt := 0, syncePort := 0, t1 := none, t2 := none, t3 := none, parent := 0 },
               freq := 0xF3CF3CF4, stepLow := 0, stepTo := none, below := none, tsqDrop := [], ppsLast := none }
  cores := []
  images := []
  radio := { plan := [], params := [], startNs := [], groups := [], work := [], sections := [], frames := [], tokens := [], tokensNs := [],
               cLate := [], rxSeq := [], iq := [], jobs := [], caps := [], harq := [], written := [], marks := [], indPos := [], indLens := [] }
  net := { v4 := [], v6 := [], mac := [] }
  tdfe := { cfg := [], rx := [], seqs := [], hist := [], demods := [], rxBase := 0, rxSize := 0, rxTail := 0, txBase := 0, txLog := 0,
              txHead := 0, tx := [] }
  cfg := { pending := [] }
  sec := { d := none, chalOpen := false, report := none, keyReq := none }
  boot := { nvm := [], resetLow := true, converting := true, recValid := false, recBank := 0, recSeq := 0, recPending := false,
            recAtOnce := false, recUe := false, recUeNs := [], recLastNs := none, numVfs := none, lockAsked := false,
            image := { galleryShare := 25, leader := 0, clockOuts := [], udpPort := 0xD1A0, dscp := [], hops := [], collectors := [],
                       mgmtUdp := 0xD1A1 },
            l1 := [], surveyDone := [], survey := [], before := [], thermal := none }
  power := { samples := [], paceLim := 0, paceLoop := 0, ask := false, rungCycles := 0, calm := 0, capNext := none, divNext := none,
             integral := [], kpDefault := 0, sensors := [], inletDefault := 0, readFails := [], tachLow := [], band := none, trips := [],
             limitE := [], fullSince := none, loopNs := none, holdRun := false }
  health := { expels := [], evidence := [], fails := [], last := none, prevList := [], prevExpels := [], early := [], mgmtSeq := [], runs := [], due := [],
              proved := [], release := 0, heard := [], ticked := [] }
  out := []
  free := 0
  pending := []

end Sys2Proof.Machine
end

