-- ==== Sys2Proof/Machine/Ops.lean ====
section
/-! DEFINITION. The named operations over registers, memories, queues, tallies and logs that every meaning is written with. -/

namespace Sys2Proof.Machine

/-- The answer of a meaning. -/
abbrev Ans := Host.Outcome State Fault Refusal

/-! ### Registers -/

/-- Value a field instance holds at reset: the register table's, and the own number for BENCH_ID.logical (R5). -/
def rst (f : Fld) (i : Nat) : Nat := if f = Reg.benchIdLogical then i else f.reset

/-- Read a register field. -/
def rd (s : State) (f : Fld) (i : Nat) : Nat := mapGet s.regs (fldKey f i) (rst f i)

/-- Write a register field: what does not fit its bits is lost. -/
def wr (s : State) (f : Fld) (i : Nat) (v : Nat) : State :=
  { s with regs := mapPut s.regs (fldKey f i) (v % 2 ^ f.width) (rst f i) }

/-- Read the committed copy of a staged field. -/
def rdLive (s : State) (f : Fld) (i : Nat) : Nat := mapGet s.live (fldKey f i) (rst f i)

/-- Write the committed copy of a staged field. -/
def wrLive (s : State) (f : Fld) (i : Nat) (v : Nat) : State :=
  { s with live := mapPut s.live (fldKey f i) (v % 2 ^ f.width) (rst f i) }

/-- A field of one bit read as a truth value. -/
def rdB (s : State) (f : Fld) (i : Nat) : Bool := rd s f i != 0

/-- Add to a wrapping counter. -/
def bump (s : State) (f : Fld) (i n : Nat) : State := wr s f i (rd s f i + n)

/-- Add to a saturating counter. -/
def bumpSat (s : State) (f : Fld) (i n : Nat) : State := wr s f i (satAt f.width (rd s f i + n))

/-- Set a counter to a larger value it has not reached. -/
def raiseTo (s : State) (f : Fld) (i v : Nat) : State := if rd s f i < v then wr s f i v else s

/-- The time base in nanoseconds (R260). -/
def now (s : State) : Nat := s.clock.ns

/-- The status of a code of Table 05.13; a code the table does not list is no code of a record the device wrote. -/
def statusOfCode (n : Nat) : Status :=
  (([.ok, .killed, .badFormat, .noUnit, .badVersion, .translationFault, .permission, .memUe, .accOverflow, .notIssued, .fabricTimeout,
    .targetDead, .atomicIndeterminate, .fabricCheck, .collMismatch, .collMemberLost, .collChunkBad, .quota, .policed, .resetSquashed,
    .cfgTorn, .notReady, .notClocked, .radioLate, .decodeCapped, .assayMismatch] : List Status).find? (fun x => x.code == n)).getD .internal

/-- Send something out. -/
def emit (s : State) (o : Out) : State := { s with out := o :: s.out }

/-- Count a free value as drawn. -/
def drawn (s : State) : State := { s with free := s.free + 1 }

/-- Insert a number into a rising list. -/
def insertNat (l : List Nat) (k : Nat) : List Nat :=
  match l with
  | [] => [k]
  | j :: t => if k < j then k :: j :: t else if j = k then j :: t else j :: insertNat t k

/-! ### Interrupts and logs -/

/-- Raise an MSI-X vector of a function: a masked vector of a VF becomes pending (R398). -/
def raiseMsix (s : State) (f v : Nat) : State :=
  if f ≠ 0 ∧ rd s Reg.vfMsixMask (4096 * f + v) = 1 then
    { s with ten := { s.ten with pendBits := insertNat s.ten.pendBits (64 * f + v) } }
  else emit s (.msix f v)

/-- Raise the manager's HEALTH vector when raising is on (Table 19.8, HEALTH_IRQ). -/
def healthIrq (s : State) : State :=
  if rdB s Reg.healthIrqEnable 0 then raiseMsix s 0 (rd s Reg.healthIrqVector 0) else s

/-- Set a HEALTH_CAUSE bit and raise the manager's vector. -/
def healthCause (s : State) (cause : Fld) : State := healthIrq (wr s cause 0 1)

/-- An error log entry (Table 15.4). -/
def errEntry (s : State) (st : Status) (source tag detail : Nat) : Nat :=
  now s + st.code * 2 ^ 64 + source * 2 ^ 72 + tag % 2 ^ 16 * 2 ^ 80 + detail % 2 ^ 32 * 2 ^ 96

/-- Write an entry to a function's error log ring; with 63 unread entries it is discarded and counted (R405). -/
def logErr (s : State) (f : Nat) (st : Status) (source tag detail : Nat) : State :=
  let (tail, head, drop, entry) :=
    if f = 0 then (Reg.pfErrlogIdxTail, Reg.pfErrlogIdxHead, Reg.pfErrlogIdxDropped, Reg.pfErrlogEntry)
    else (Reg.vfErrlogTail, Reg.vfErrlogHead, Reg.vfErrlogDropped, Reg.vfErrlogEntry)
  let i := if f = 0 then 0 else f
  let t := rd s tail i
  if (t + 64 - rd s head i) % 64 = 63 then bumpSat s drop i 1
  else wr (wr s entry (if f = 0 then t else 4096 * f + t) (errEntry s st source tag detail)) tail i ((t + 1) % 64)

/-! ### Capabilities and functions -/

/-- Enabled benches (CAPS0.bench_count). -/
def benchCount (s : State) : Nat := rd s Reg.caps0BenchCount 0

/-- Bytes of device DRAM. -/
def dramSize (s : State) : Nat := rd s Reg.caps0DramLots 0 * 2 ^ 30

/-- A function is present: PF0, or a VF at or below NumVFs. -/
def fnPresent (s : State) (f : Nat) : Bool := f == 0 || f ≤ rd s Reg.tenInfoVfs 0

/-- VF states (Table 15.5). -/
def vfState (s : State) (f : Nat) : Nat := rd s Reg.vfCtlState f

/-- PF0, or a VF in state ACTIVE: its steps are admitted and run. -/
def fnActive (s : State) (f : Nat) : Bool := f == 0 || (fnPresent s f && vfState s f == 1)

/-- PF0, or a VF whose admitted work is dispatched: ACTIVE or QUIESCING (R407). -/
def fnRuns (s : State) (f : Nat) : Bool := f == 0 || (fnPresent s f && (vfState s f == 1 || vfState s f == 2))

/-! ### Device DRAM -/

/-- The lot of a physical address (R153). -/
def lotOf (pa : Nat) : Nat := pa / 2 ^ 30

/-- LOT_OWNER[n].owner. -/
def lotOwnerOf (s : State) (n : Nat) : Nat := rd s Reg.lotOwnerOwner n

/-- LOT_OWNER[n].state is IDLE. -/
def lotIdle (s : State) (n : Nat) : Bool := rd s Reg.lotOwnerState n == 0

/-- Key slot that serves a lot: its owner's for a VF, else slot 0 (R158). -/
def keySlot (s : State) (n : Nat) : Nat := if 1 ≤ lotOwnerOf s n ∧ lotOwnerOf s n ≤ 512 then lotOwnerOf s n else 0

/-- The key pair under which a line is read and written now. -/
def lineKey (s : State) (line : Nat) : Nat := mapGet s.mem.keys (keySlot s (lotOf (line * 64))) 0

/-- The byte at a physical address as it was written: 0 where the line is cleared. -/
def memByte (m : Mem) (pa : Nat) : Byte := mapGet m.dram pa 0

/-- The 64 bytes of a line as they were written. -/
def linePlain (m : Mem) (line : Nat) : List Byte := (List.range 64).map (fun i => memByte m (line * 64 + i))

/-- A line as decryption under a key pair gives it (R158): what was written where it was written under the same pair, and zeros under any key
where it is cleared (R154). -/
def lineView (m : Mem) (key line : Nat) : List Byte :=
  match mapFind m.stored line with
  | none => linePlain m line
  | some k => if k = key then linePlain m line else xtsDec (leBytes 32 key) line (xtsEnc (leBytes 32 k) line (linePlain m line))

/-- The error a read of a line meets: a cleared line is neither an error nor a correction (R154). -/
def errAt (m : Mem) (line : Nat) : Option LineErr := if (mapFind m.stored line).isSome then mapFind m.err line else none

/-- An error of six or more symbols escapes its decoder (R161). -/
def errEscapes (e : LineErr) (line free : Nat) : Bool := !e.wrong && 6 ≤ popCount 72 e.syms.toNat && Config.escapes line free

/-- A read with this error is uncorrectable (R161, R163): more than three symbols, or the line of another address. -/
def uncorrectable (e : LineErr) (line free : Nat) : Bool :=
  e.wrong || (4 ≤ popCount 72 e.syms.toNat && !errEscapes e line free)

/-- A byte as a read delivers it: the decrypted byte, or a free value where an error of six or more symbols escapes (R161). -/
def memDeliver (s : State) (pa : Nat) : Byte :=
  let line := pa / 64
  let own : Byte := match mapFind s.mem.stored line with
    | none => memByte s.mem pa
    | some k => if k = lineKey s line then memByte s.mem pa else (lineView s.mem (lineKey s line) line).getD (pa % 64) 0
  match errAt s.mem line with
  | some e => if errEscapes e line s.free then Config.miscorrected line s.free (pa % 64) else own
  | none => own

/-- `n` bytes from a physical address. -/
def memBytes (s : State) (pa n : Nat) : List Byte := (List.range n).map (fun i => memDeliver s (pa + i))

/-- A little-endian number of `n` bytes at a physical address. -/
def memNat (s : State) (pa n : Nat) : Nat := leNat (memBytes s pa n)

/-- Store one byte under a key pair, keeping the canonical form; its line is no longer a cleared line. -/
def memPut (m : Mem) (key pa : Nat) (b : Byte) : Mem :=
  { m with dram := mapPut m.dram pa b 0, stored := mapSet m.stored (pa / 64) key }

/-- Store consecutive bytes, each under its line's key pair. -/
def memPutBytes (key : Nat → Nat) (m : Mem) (pa : Nat) (bs : List Byte) : Mem :=
  match bs with
  | [] => m
  | b :: t => memPutBytes key (memPut m (key (pa / 64)) pa b) (pa + 1) t

/-- The read-modify-write of a line (R149) decrypts and encrypts it again: its bytes become what a read under the key pair gives. -/
def rekeyLine (m : Mem) (key line : Nat) : Mem :=
  match mapFind m.stored line with
  | none => m
  | some k => if k = key then m else memPutBytes (fun _ => key) m (line * 64) (lineView m key line)

/-- Clear a lot: every line becomes a cleared line (R154). -/
def memClearLot (m : Mem) (n : Nat) : Mem :=
  { m with dram := m.dram.filter (fun c => lotOf c.1 ≠ n), stored := m.stored.filter (fun l => lotOf (l.1 * 64) ≠ n),
           err := m.err.filter (fun e => lotOf (e.1 * 64) ≠ n ∨ e.2.hard = true) }

/-- Mark the 2 MiB regions of a VF's lots that a write touches, from SAVE_LIVE onwards (R414). -/
def markRegion (s : State) (pa : Nat) : State :=
  let f := lotOwnerOf s (lotOf pa)
  match mapFind s.ten.liveOut f with
  | none => s
  | some _ => { s with ten := { s.ten with marks := mapMod s.ten.marks f [] (fun l => insertNat l (pa / 2 ^ 21)) } }

/-- The pieces of a byte range cut at multiples of `size`: start and length of each. -/
def pieces (a n size : Nat) : List (Nat × Nat) :=
  if n = 0 then [] else
  (List.range ((a + n - 1) / size - a / size + 1)).map fun i =>
    (max a ((a / size + i) * size), min (a + n) ((a / size + i + 1) * size) - max a ((a / size + i) * size))

/-- Store a run of bytes under the keys of their lots, marking regions for migration, and remove the stored-content errors of the lines wholly
written (R158, R163). -/
def dramStore (s : State) (pa : Nat) (bs : List Byte) : State :=
  let s := (pieces pa bs.length (2 ^ 21)).foldl (fun s p => markRegion s p.1) s
  let key := lineKey s
  let first := pa / 64
  let last := (pa + bs.length - 1) / 64
  let m := if bs = [] then s.mem else memPutBytes key (rekeyLine (rekeyLine s.mem (key first) first) (key last) last) pa bs
  { s with mem := { m with err := m.err.filter (fun e => e.2.hard = true ∨ e.1 * 64 < pa ∨ pa + bs.length < e.1 * 64 + 64) } }

/-- Channel of a physical address under the hash of R151. -/
def channelOf (s : State) (pa : Nat) : Nat :=
  let v := bitsOf pa 13 26 ^^^ s.mem.salt % 2 ^ 26
  bitsOf pa 6 7 ^^^ (bitsOf v 0 7 ^^^ bitsOf v 7 7 ^^^ bitsOf v 14 7 ^^^ bitsOf v 21 5)

/-- Keep a fault record in the persistent record's store (R172, R454): a full store gives up its oldest UE_TRANSIENT record, and drops
the new record where it holds only UE_PERSISTENT ones. The line of a UE_PERSISTENT record enters the repair list (R163). -/
def keepFault (s : State) (kind line rec_ : Nat) : State :=
  let l := s.mem.persist
  let repairs := if kind = 3 ∧ s.mem.repairs.length < 1000 ∧ !s.mem.repairs.contains line then s.mem.repairs ++ [line] else s.mem.repairs
  let put (l : List Nat) : State :=
    { s with mem := { s.mem with persist := l ++ [rec_], repairs := repairs }, boot := { s.boot with recPending := true, recUe := s.boot.recUe || kind == 3 } }
  if l.length < 1024 then put l
  else match l.find? (fun r => bitsOf r 64 8 == 2) with
    | some r => put (l.erase r)
    | none => bumpSat s Reg.memFaultIdxDropped 0 1

/-- Write a fault record (R172, Table 06.6) and raise the HEALTH vector; with 255 unread records it is discarded and counted. -/
def faultRecord (s : State) (kind source tag line syms : Nat) : State :=
  let rec_ := now s + kind * 2 ^ 64 + source * 2 ^ 72 + lotOwnerOf s (lotOf (line * 64)) * 2 ^ 75 + tag % 2 ^ 16 * 2 ^ 85
    + (Config.lineGroup line).val * 2 ^ 101 + channelOf s (line * 64) * 2 ^ 104 + line % 2 ^ 33 * 2 ^ 128 + syms % 2 ^ 72 * 2 ^ 184
  let t := rd s Reg.memFaultIdxTail 0
  let s := if (t + 256 - rd s Reg.memFaultIdxHead 0) % 256 = 255 then bumpSat s Reg.memFaultIdxDropped 0 1
    else wr (wr s Reg.memFaultRecord t rec_) Reg.memFaultIdxTail 0 ((t + 1) % 256)
  let s := if kind = 2 ∨ kind = 3 then keepFault s kind line rec_ else s
  healthCause s Reg.healthCauseFault

/-- What a controller does when it reads a line that holds an error (R161-R163): the state after, and whether the read is
persistently uncorrectable. Source codes are those of Table 06.6. The line of another address gets an ADDRESS record beside the record that
R163 gives an uncorrectable read (DEDUCED: R172 names the kind and gives it no occasion of its own). -/
def senseLine (s : State) (source tag line : Nat) (e : LineErr) : State × Bool :=
  let n := popCount 72 e.syms.toNat
  let fixed := if e.hard then s.mem.err else mapErase s.mem.err line
  if uncorrectable e line s.free then
    let s := if e.wrong then faultRecord s 4 source tag line e.syms.toNat else s
    if e.rereadOk then (faultRecord { s with mem := { s.mem with err := fixed } } 2 source tag line e.syms.toNat, false)
    else (faultRecord s 3 source tag line e.syms.toNat, true)
  else if n = 0 ∨ 4 ≤ n then (s, false)
  else
    let s := bump { s with mem := { s.mem with err := fixed } } Reg.memCeCountCount 0 1
    (if 2 ≤ n then faultRecord s 1 source tag line e.syms.toNat else s, false)

/-- Sense one line. -/
def senseAt (s : State) (source tag line : Nat) : State × Bool :=
  match errAt s.mem line with
  | none => (s, false)
  | some e => senseLine s source tag line e

/-- The lines of a run that hold an error, in address order. -/
def errLines (m : Mem) (r : Nat × Nat) : List Nat := (m.err.filter (fun e => r.1 / 64 ≤ e.1 && e.1 * 64 < r.1 + r.2)).map (·.1)

/-- Sense every erroneous line of the runs a read touches, run by run, up to the first persistent one, which is the answer. -/
def senseRuns (s : State) (source tag : Nat) (runs : List (Nat × Nat)) : State × Option Nat :=
  (runs.flatMap (errLines s.mem)).foldl
    (fun acc l => match acc.2 with
      | some _ => acc
      | none => let r := senseAt acc.1 source tag l
                (r.1, if r.2 then some l else none))
    (s, none)

/-- The lines that a write covers only in part, as runs: their read-modify-write reads them (R149, R163). -/
def partialLines (runs : List (Nat × Nat)) : List (Nat × Nat) :=
  runs.flatMap (fun r => ((pieces r.1 r.2 64).filter (fun p => p.2 != 64)).map (fun p => (p.1 / 64 * 64, 64)))

/-- A transient uncorrectable error lies in the runs (R163): the read that meets it re-runs its command (R138). -/
def transientIn (s : State) (runs : List (Nat × Nat)) : Bool :=
  (runs.flatMap (errLines s.mem)).any (fun l => match errAt s.mem l with
    | some e => uncorrectable e l s.free && e.rereadOk
    | none => false)

/-! ### Translation (R155, R156) -/

/-- A leaf found by a walk: page address, page size and rights. -/
structure Leaf where
  page : Nat
  size : Nat
  read : Bool
  write : Bool
  deriving DecidableEq, Repr

/-- A table address is aligned and lies in the manager reserve. -/
def tableOk (s : State) (pa align : Nat) : Bool :=
  pa % align == 0 && pa < dramSize s && lotOwnerOf s (lotOf pa) == 0x3FD

/-- The entry words that carry a fault of their own: not valid, or a reserved bit set (Table 06.3). -/
def entryBad (e : Nat) : Bool := !bitOf e 0 || bitsOf e 4 4 != 0 || bitsOf e 39 25 != 0

/-- The page or table address in a translation entry: bits [38:8] in place. -/
def entryAddr (e : Nat) : Nat := bitsOf e 8 31 * 256

/-- A pointer entry of an L1 or L2 table. -/
def walkPtr (s : State) (table i : Nat) : Option Nat :=
  if tableOk s table 4096 then
    let e := memNat s (table + 8 * i) 8
    if entryBad e || bitOf e 1 then none else some (entryAddr e)
  else none

/-- The leaf an entry gives for a page size. -/
def leafOf (e size : Nat) : Option Leaf :=
  if entryAddr e % size = 0 then some ⟨entryAddr e, size, bitOf e 2, bitOf e 3⟩ else none

/-- The translation walk of a function's virtual address (R155). -/
def walk (s : State) (f va : Nat) : Option Leaf :=
  if !rdB s Reg.xlatRootEnable f || 2 ^ 48 ≤ va then none else
  match walkPtr s (rd s Reg.xlatRootL1Base f * 4096) (bitsOf va 39 9) with
  | none => none
  | some t2 =>
  match walkPtr s t2 (bitsOf va 30 9) with
  | none => none
  | some t3 =>
  if !tableOk s t3 4096 then none else
  let e := memNat s (t3 + 8 * bitsOf va 21 9) 8
  if entryBad e then none
  else if bitOf e 1 then leafOf e (2 ^ 21)
  else if !tableOk s (entryAddr e) 256 then none
  else
    let e4 := memNat s (entryAddr e + 8 * bitsOf va 16 5) 8
    if entryBad e4 || !bitOf e4 1 then none else leafOf e4 (2 ^ 16)

/-- The ownership check (R156): the lot is owned by the function in state IDLE; for PF0 it lies in the manager reserve. -/
def ownsLot (s : State) (f n : Nat) : Bool :=
  lotIdle s n && lotOwnerOf s n == (if f = 0 then 0x3FD else f) && n * 2 ^ 30 < dramSize s

/-- A failed translation: the virtual address, the lot when it was the ownership check that failed, and the table line when it was a
persistent error in a table (Table 06.4). -/
structure XFault where
  va : Nat
  lot : Option Nat
  line : Option Nat
  deriving DecidableEq, Repr

/-- The table entries a walk visits, from the root on, for as long as they point on. -/
def walkEntries (s : State) (f va : Nat) : List Nat :=
  if !rdB s Reg.xlatRootEnable f || 2 ^ 48 ≤ va then [] else
  let root := rd s Reg.xlatRootL1Base f * 4096
  let e1 := root + 8 * bitsOf va 39 9
  match walkPtr s root (bitsOf va 39 9) with
  | none => [e1]
  | some t2 =>
  let e2 := t2 + 8 * bitsOf va 30 9
  match walkPtr s t2 (bitsOf va 30 9) with
  | none => [e1, e2]
  | some t3 =>
  let e3 := t3 + 8 * bitsOf va 21 9
  let e := memNat s e3 8
  if entryBad e || bitOf e 1 then [e1, e2, e3] else [e1, e2, e3, entryAddr e + 8 * bitsOf va 16 5]

/-- A line read as persistently uncorrectable (R163). -/
def badLine (s : State) (line : Nat) : Bool :=
  match errAt s.mem line with
  | none => false
  | some e => uncorrectable e line s.free && !e.rereadOk

/-- The first table line of a walk that cannot be read. -/
def walkUe (s : State) (f va : Nat) : Option Nat :=
  if s.mem.err.isEmpty then none else ((walkEntries s f va).map (· / 64)).find? (badLine s)

/-- Translate one virtual address for a read or a write. -/
def xlat (s : State) (f va : Nat) (write : Bool) : Except XFault Nat :=
  match walkUe s f va with
  | some l => .error ⟨va, none, some l⟩
  | none =>
  match walk s f va with
  | none => .error ⟨va, none, none⟩
  | some l =>
    if (if write then l.write else l.read) = false then .error ⟨va, none, none⟩
    else
      let pa := l.page + va % l.size
      if ownsLot s f (lotOf pa) then .ok pa else .error ⟨va, some (lotOf pa), none⟩

/-- Translate a range: the physical runs it covers, cut at 64 KiB pages. -/
def xlatRange (s : State) (f va n : Nat) (write : Bool) : Except XFault (List (Nat × Nat)) :=
  (pieces va n (2 ^ 16)).mapM (fun p => (xlat s f p.1 write).map (fun pa => (pa, p.2)))

/-- Log what a failed translation logs: a failed ownership check goes to the PF0 error log (R156). -/
def logXlat (s : State) (x : XFault) : State :=
  match x.lot with
  | some n => logErr s 0 .translationFault 3 0 n
  | none => s

/-- The table reads of a walk (R155, R162-R164): what they meet is handled line by line, from the root on. -/
def walkReads (s : State) (f va : Nat) : State := (senseRuns s 5 0 ((walkEntries s f va).map (fun e => (e, 8)))).1

/-- Translate a range for an access: the walks of its pages up to the first that fails read their tables, and a failure is logged. Every access
walks (DESIGN CHOICE: what a stop has cached is not stated, R157). -/
def translate (s : State) (f va n : Nat) (write : Bool) : State × Except XFault (List (Nat × Nat)) :=
  let ps := pieces va n (2 ^ 16)
  let good := (ps.takeWhile (fun p => match xlat s f p.1 write with | .ok _ => true | .error _ => false)).length
  let t := if s.mem.err.isEmpty then s else (ps.take (good + 1)).foldl (fun s p => walkReads s f p.1) s
  match xlatRange s f va n write with
  | .error x => (logXlat t x, .error x)
  | .ok runs => (t, .ok runs)

/-- The bytes of a list of physical runs. -/
def runBytes (s : State) (runs : List (Nat × Nat)) : List Byte := runs.flatMap (fun r => memBytes s r.1 r.2)

/-- Store a byte list over a list of physical runs. -/
def storeRuns (s : State) (runs : List (Nat × Nat)) (bs : List Byte) : State :=
  match runs with
  | [] => s
  | (pa, n) :: t => storeRuns (dramStore s pa (bs.take n)) t (bs.drop n)

/-- Read a list of runs (R161-R163): the bytes, or the line that cannot be read. -/
def readRuns (s : State) (source tag : Nat) (runs : List (Nat × Nat)) : State × Except Nat (List Byte) :=
  match senseRuns s source tag runs with
  | (t, some l) => (t, .error l)
  | (t, none) => (t, .ok (runBytes s runs))

/-- Write a byte list over a list of runs; a line written in part that cannot be read fails the write, and nothing is stored (R149, R163). -/
def writeRuns (s : State) (source tag : Nat) (runs : List (Nat × Nat)) (bs : List Byte) : State × Option Nat :=
  match senseRuns s source tag (partialLines runs) with
  | (t, some l) => (t, some l)
  | (t, none) => (storeRuns t runs bs, none)

/-- The physical address of every byte of a list of runs. -/
def runAddrs (runs : List (Nat × Nat)) : List Nat := runs.flatMap (fun r => (List.range r.2).map (r.1 + ·))

/-- The registered line ranges of a list of runs (R104). -/
def runLines (runs : List (Nat × Nat)) (dest : Bool) : List LineRange :=
  runs.map (fun r => ⟨r.1 / 64, (r.1 + r.2 - 1) / 64, dest⟩)

/-! ### Host memory -/

/-- Key of a host byte. -/
def hostKey (pasid a : Nat) : Nat := pasid * 2 ^ 48 + a % 2 ^ 48

/-- A host range translates: it is pinned under the PASID (R103). -/
def hostOk (s : State) (pasid a n : Nat) : Bool :=
  n == 0 || s.host.pins.any (fun p => p.pasid == pasid && p.lo ≤ a && a + n ≤ p.lo + p.len)

/-- Bytes of host memory. -/
def hostBytes (s : State) (pasid a n : Nat) : List Byte :=
  (List.range n).map (fun i => mapGet s.host.bytes (hostKey pasid (a + i)) 0)

/-- Store bytes of host memory. -/
def hostPut (h : HostMem) (pasid a : Nat) (bs : List Byte) : HostMem :=
  match bs with
  | [] => h
  | b :: t => hostPut { h with bytes := mapPut h.bytes (hostKey pasid a) b 0 } pasid (a + 1) t

/-- Log one written host page in a VF's dirty page log (R416). -/
def dirtyPage (s : State) (f pasid page : Nat) : State :=
  let n := 2 ^ rd s Reg.vfDirtySizeLog2 f
  let t := rd s Reg.vfDirtyTail f
  if (t + 1) % n = rd s Reg.vfDirtyHead f % n then wr s Reg.vfDirtyOverflow f 1
  else
    let entry := leBytes 8 (page % 2 ^ 36 + pasid % 2 ^ 20 * 2 ^ 36)
    let s := { s with host := hostPut s.host (rd s Reg.vfDirtyPasid f) (rd s Reg.vfDirtyBase f * 4096 + 8 * t) entry }
    wr s Reg.vfDirtyTail f ((t + 1) % n)

/-- Store bytes into a function's host space, recording the pages while its dirty page log is on. -/
def hostStore (s : State) (f pasid a : Nat) (bs : List Byte) : State :=
  let s := { s with host := hostPut s.host pasid a bs }
  if f ≠ 0 ∧ rdB s Reg.vfDirtyEnable f then
    (pieces a bs.length 4096).foldl (fun s p => dirtyPage s f pasid (p.1 / 4096)) s
  else s

/-- Read from a ring, image or record space of a function: device DRAM by translation or host memory by PASID. -/
def spaceRead (s : State) (f : Nat) (host : Bool) (pasid a n : Nat) : State × Except Status (List Byte) :=
  if host then (s, if hostOk s pasid a n then .ok (hostBytes s pasid a n) else .error .translationFault)
  else match translate s f a n false with
    | (s, .error _) => (s, .error .translationFault)
    | (s, .ok runs) =>
      match readRuns s 5 0 runs with
      | (s, .error _) => (s, .error .memUe)
      | (s, .ok bs) => (s, .ok bs)

/-- Write to a ring or record space of a function. -/
def spaceWrite (s : State) (f : Nat) (host : Bool) (pasid a : Nat) (bs : List Byte) : State × Option Status :=
  if host then
    if hostOk s pasid a bs.length then (hostStore s f pasid a bs, none) else (s, some .translationFault)
  else match translate s f a bs.length true with
    | (s, .error _) => (s, some .translationFault)
    | (s, .ok runs) =>
      match writeRuns s 5 0 runs bs with
      | (s, some _) => (s, some .memUe)
      | (s, none) => (s, none)

/-! ### Buckets and policers -/

/-- Tokens in a function's DRAM bucket (R168). -/
def tokensOf (s : State) (f : Nat) : Nat := mapGet s.mem.tokens f 0

/-- Set them, and show the level. -/
def putTokens (s : State) (f t : Nat) : State :=
  wr { s with mem := { s.mem with tokens := mapPut s.mem.tokens f t 0 } } Reg.dramBucketLevel f (t / 1024)

/-- Charge a bucket for an access that goes ahead: what it lacks is not charged (R169). -/
def chargeDram (s : State) (f bytes : Nat) : State := if bytes = 0 then s else putTokens s f (tokensOf s f - bytes)

/-- Bytes of a bucket's depth: burst in KiB, at least 4 KiB (R170). -/
def burstBytes (s : State) (f : Nat) : Nat := max 4 (rdLive s Reg.dramBucketBurst f) * 1024

/-- A class T access of a function is admitted now (R168, R169): its bucket holds the cost, or borrow is set. One that costs more than the
bucket's depth is admitted when the bucket is full (DESIGN CHOICE: R168 meters requests, and the spec does not cut a message or chunk into
them). PF0's accesses are class S. -/
def admitDram (s : State) (f bytes : Nat) : Bool :=
  f == 0 || rdLive s Reg.dramBucketBorrow f != 0 || min bytes (burstBytes s f) ≤ tokensOf s f

/-- A request waits for tokens. -/
def noteWait (s : State) (f : Nat) : State := bump s Reg.dramBucketWaits f 1

/-- Credit tokens back to a function, up to its burst (R168, kill refund). -/
def refundDram (s : State) (f bytes : Nat) : State := putTokens s f (min (burstBytes s f) (tokensOf s f + bytes))

/-- Cost in tokens of moving a list of runs: 64 bytes a line read or wholly written, 128 a partly written line (R168). -/
def runCost (runs : List (Nat × Nat)) (write : Bool) : Nat :=
  (runs.map (fun r =>
    let lines := if r.2 = 0 then 0 else (r.1 + r.2 - 1) / 64 - r.1 / 64 + 1
    let partials := if r.2 = 0 then 0 else
      if r.1 / 64 = (r.1 + r.2 - 1) / 64 then (if r.2 = 64 then 0 else 1)
      else (if r.1 % 64 = 0 then 0 else 1) + (if (r.1 + r.2) % 64 = 0 then 0 else 1)
    64 * lines + (if write then 64 * partials else 0))).sum

/-! ### Class R traffic (R18, R20, R167) -/

/-- Gallery stops in the order of Table 01.2: benches by physical number, memory, Jeano, UCIe, radio I/O, radio compute, Crusher, system. -/
def benchStop (s : State) (b : Nat) : Nat := rd s Reg.benchIdPhysical b
def memoryStop (s : State) (line : Nat) : Nat := 34 + channelOf s (line * 64) / 8
def ucieStop : Nat := 54
def radioIoStop (port : Nat) : Nat := 56 + port / 4 % 2
def radioComputeStop (half : Nat) : Nat := 58 + half % 2
def systemStop : Nat := 62

/-- Class R bytes pass router outputs: what exceeds the share of a window is served as class S and not counted (R18). A link carries 512 bytes
a G-clock (R15). -/
def routeR (s : State) (src dst bytes : Nat) : State :=
  (Config.galleryRoute src dst).foldl (fun s o =>
    let n := mapGet s.mem.galleryR o 0 + bytes
    if n ≤ 512 * 1024 * s.boot.image.galleryShare / 100 then { s with mem := { s.mem with galleryR := mapSet s.mem.galleryR o n } } else s) s

/-- Class R lines are served by their channels: what exceeds the share of a window is served as class S and not counted (R167). A channel
serves 1,536 lines in 1,024 G-clocks (Table 06.1). -/
def channelR (s : State) (line : Nat) : State :=
  let c := channelOf s (line * 64)
  let n := mapGet s.mem.chanR c 0 + 1
  if n ≤ 1536 * rd s Reg.memRshareShare 0 / 100 then { s with mem := { s.mem with chanR := mapSet s.mem.chanR c n } } else s

/-- The class R traffic of a radio access to DRAM from a stop: every line it touches crosses the Gallery and a channel (R17). -/
def radioTraffic (s : State) (stop : Nat) (runs : List (Nat × Nat)) (write : Bool) : State :=
  (runs.flatMap (fun r => (pieces r.1 r.2 64).map (fun p => p.1 / 64))).foldl (fun s l =>
    let m := memoryStop s l
    channelR (if write then routeR s stop m 64 else routeR s m stop 64) l) s

/-- The two-rate three-colour marker in colour-blind mode (RFC 2698, R190, R402): colour and the buckets after. -/
def trtcm (tc tp bytes : Nat) : Colour × Nat × Nat :=
  if tp < bytes then (.red, tc, tp)
  else if tc < bytes then (.yellow, tc, tp - bytes)
  else (.green, tc - bytes, tp - bytes)

/-! ### Tallies, queues, steps and commands -/

/-- A tally of a function (R127). -/
def tallyGet (s : State) (f t : Nat) : Nat := mapGet s.work.tallies (1024 * f + t) 0

/-- Replace a tally. -/
def tallyPut (s : State) (f t v : Nat) : State :=
  { s with work := { s.work with tallies := mapPut s.work.tallies (1024 * f + t) (v % 2 ^ 32) 0 } }

/-- Add to a tally modulo 2^32 (R128). -/
def tallyInc (s : State) (f t v : Nat) : State := tallyPut s f t (tallyGet s f t + v)

/-- A wait is satisfied when the value has reached the target in wrap-around order (R128). -/
def satisfied (value target : Nat) : Bool := (value + 2 ^ 32 - target % 2 ^ 32) % 2 ^ 32 < 2 ^ 31

/-- A queue block at reset (Table 05.2). -/
def Queue.reset : Queue :=
  { sqBase := 0, cqBase := 0, sqLog := 0, cqLog := 0, sqHost := false, cqHost := false, prio := 1, msix := 0,
    stopOnError := false, pasid := 0, enable := false, state := .disabled, lastStatus := .ok, sqTail := 0, sqHead := 0,
    cqHead := 0, cqTail := 0, steps := 0, phase := false, busy := false, bells := [] }

/-- Key of a queue and of its step. -/
def qKey (f q : Nat) : Nat := 64 * f + q

/-- A queue block. -/
def getQ (s : State) (k : Nat) : Queue := mapGet s.work.queues k Queue.reset

/-- Store a queue block. -/
def putQ (s : State) (k : Nat) (q : Queue) : State :=
  { s with work := { s.work with queues := mapSet s.work.queues k q } }

/-- The step in flight on a queue. -/
def getStep (s : State) (k : Nat) : Option StepSt := mapFind s.work.steps k

/-- Store the step of a queue. -/
def putStep (s : State) (k : Nat) (x : StepSt) : State :=
  { s with work := { s.work with steps := mapSet s.work.steps k x } }

/-- Forget the step of a queue. -/
def dropStep (s : State) (k : Nat) : State := { s with work := { s.work with steps := mapErase s.work.steps k } }

/-- A command by its number. -/
def getCmd (s : State) (cid : Nat) : Option Cmd := mapFind s.work.cmds cid

/-- Store a command. -/
def putCmd (s : State) (cid : Nat) (c : Cmd) : State :=
  { s with work := { s.work with cmds := mapSet s.work.cmds cid c } }

/-- Forget a command. -/
def dropCmd (s : State) (cid : Nat) : State := { s with work := { s.work with cmds := mapErase s.work.cmds cid } }

/-- Function a command acts for: the queue's, or firmware's slot 0 for radio work. -/
def Owner.fn : Owner → Nat
  | .queue f _ => f
  | .radio _ _ _ => 0

/-- Key of the step a command belongs to. -/
def Owner.stepKey : Owner → Option Nat
  | .queue f q => some (qKey f q)
  | .radio _ _ _ => none

/-- A radio command. -/
def Owner.isRadio : Owner → Bool
  | .queue _ _ => false
  | .radio _ _ _ => true

/-- A field of a command's bytes. -/
def Cmd.f (c : Cmd) (lo len : Nat) : Nat := bitsOf c.raw lo len

/-- A field of a command's body. -/
def Cmd.b (c : Cmd) (lo len : Nat) : Nat := bitsOf c.raw (512 + lo) len

/-- Header fields (Table 05.5). -/
def Cmd.ver (c : Cmd) : Nat := c.f 0 4
def Cmd.opcode (c : Cmd) : Nat := c.f 4 8
def Cmd.tag (c : Cmd) : Nat := c.f 16 16
def Cmd.bodyLen (c : Cmd) : Nat := c.f 32 4
def Cmd.vbench (c : Cmd) : Nat := c.f 36 5
def Cmd.nWait (c : Cmd) : Nat := c.f 41 3
def Cmd.nSignal (c : Cmd) : Nat := c.f 44 3

/-- The wait entries in use: tally and target. -/
def Cmd.waits (c : Cmd) : List (Nat × Nat) :=
  (List.range c.nWait).map (fun i => (c.f (64 + 64 * i) 10, c.f (96 + 64 * i) 32))

/-- The signal entries in use: tally and increment. -/
def Cmd.signals (c : Cmd) : List (Nat × Nat) :=
  (List.range c.nSignal).map (fun i => (c.f (320 + 32 * i) 10, c.f (336 + 32 * i) 16))

/-- All of a command's waits are satisfied. -/
def waitsMet (s : State) (f : Nat) (c : Cmd) : Bool := c.waits.all (fun w => satisfied (tallyGet s f w.1) w.2)

/-- Apply a command's tally signals in order (R129). -/
def applySignals (s : State) (f : Nat) (sigs : List (Nat × Nat)) : State := sigs.foldl (fun s g => tallyInc s f g.1 g.2) s

/-- Detail of an error log entry for source 1: queue and sq_index (Table 15.4). -/
def cmdDetail (s : State) (c : Cmd) : Nat :=
  match c.owner with
  | .queue f q => q + (match getStep s (qKey f q) with | some x => x.sqIndex | none => 0) * 64
  | .radio _ _ _ => 0

/-! ### Contexts and benches -/

/-- An accumulator bank with nothing in it. -/
def Bank.empty : Bank := { ew := 0, complex := false, cells := [], init := [], isOpen := false, members := [] }

/-- A context that has never run (R354). -/
def Ctx.fresh : Ctx :=
  { yard := [], mapped := [], pages := 0, bank0 := Bank.empty, bank1 := Bank.empty, epoch := 0, res := .empty,
    quantumNs := 0, heldNs := 0, waitNs := none, blockedNs := none, idleNs := none, starved := false }

/-- A bench beside its registers at reset. -/
def BenchSt.reset : BenchSt :=
  { ctx := none, sw := none, hold := none, chosen := [], zeroing := 0, radioZeroing := 0, waking := false,
    deep := false }

/-- Key of context c of function f. -/
def ctxKey (f c : Nat) : Nat := 32 * f + c

/-- Key of the radio lot's Yard space on a bench (R87). -/
def radioKey (b : Nat) : Nat := 16416 + b

/-- A context. -/
def getCtx (s : State) (k : Nat) : Ctx := mapGet s.yards.ctxs k Ctx.fresh

/-- Store a context. -/
def putCtx (s : State) (k : Nat) (c : Ctx) : State :=
  { s with yards := { s.yards with ctxs := mapSet s.yards.ctxs k c } }

/-- A bench. -/
def getBench (s : State) (b : Nat) : BenchSt := mapGet s.yards.benches b BenchSt.reset

/-- Store a bench. -/
def putBench (s : State) (b : Nat) (x : BenchSt) : State :=
  { s with yards := { s.yards with benches := mapSet s.yards.benches b x } }

/-- Bench b is in radio rotation (BANK_ROT_MASK). -/
def inRotation (s : State) (b : Nat) : Bool := bitOf (rd s Reg.bankRotMaskMask 0) b

/-- The Yard share a function's context is placed with: PF0's fixed 168, or the committed partition value (R81, R401). -/
def yardShare (s : State) (f : Nat) : Nat := if f = 0 then 168 else rdLive s Reg.vfPartYardPages f

/-- The context key a command runs in. -/
def cmdCtx (c : Cmd) : Nat :=
  match c.owner with
  | .queue f _ => ctxKey f c.vbench
  | .radio _ _ _ => radioKey c.bench

/-- The bank a command works on. -/
def Ctx.bank (c : Ctx) (i : Nat) : Bank := if i = 0 then c.bank0 else c.bank1

/-- Replace a bank. -/
def Ctx.setBank (c : Ctx) (i : Nat) (b : Bank) : Ctx := if i = 0 then { c with bank0 := b } else { c with bank1 := b }

/-- Frames are released in a command's Yard space and stay out of the free pool until they are zeroed (R82): those of the radio lot apart
from the others (R87). -/
def releaseFrames (s : State) (c : Cmd) (n : Nat) : State :=
  if n = 0 then s
  else
    let x := getBench s c.bench
    putBench s c.bench (if c.owner.isRadio then { x with radioZeroing := x.radioZeroing + n } else { x with zeroing := x.zeroing + n })

/-- Frames a command holds as shadows. -/
def Cmd.shadows (c : Cmd) : Nat := if c.held then c.wpages.length else 0

/-- A SLAB command with drain = 0, a chain member, and one with drain = 1, which closes its bank's chain (R70). -/
def Cmd.member (c : Cmd) : Bool := c.opcode == 1 && c.b 107 1 == 0
def Cmd.closer (c : Cmd) : Bool := c.opcode == 1 && c.b 107 1 == 1

/-- Bench a context is resident on. -/
def Ctx.bench? (c : Ctx) : Option Nat :=
  match c.res with
  | .resident b => some b
  | _ => none

/-- Read a Yard byte of a context: an unmapped page reads zero (R82). -/
def Ctx.byte (c : Ctx) (off : Nat) : Byte := mapGet c.yard off 0

/-- Read a little-endian number from a context's Yard. -/
def Ctx.num (c : Ctx) (off n : Nat) : Nat := leNat ((List.range n).map (fun i => c.byte (off + i)))

/-- Bench state fields (BENCH_STATE): 0 ACTIVE … 3 DARK, and role 1 tenant, 2 radio, 3 quarantined. -/
def pstate (s : State) (b : Nat) : Nat := rd s Reg.benchStatePstate b
def role (s : State) (b : Nat) : Nat := rd s Reg.benchStateRole b

/-- The listed commands of a state. -/
def cmdList (s : State) : List (Nat × Cmd) := s.work.cmds

/-- A unit reports READY when READY_FN of its index holds 2 (R432, Table 17.8). -/
def fnReady (s : State) (i : Nat) : Bool := rd s Reg.readyFnState i == 2

/-- The registers reachable before IMAGE is READY and in a restricted start (R3, R434). -/
def alwaysReachable (addr : Nat) : Bool :=
  addr < 0x20000 || (0xD00000 ≤ addr && addr < 0xF00000) || (0x20000 ≤ addr && addr < 0x20004) ||
  (0x20040 ≤ addr && addr < 0x20058) || (0x30000 ≤ addr && addr < 0x40000) ||
  (0xC00020 ≤ addr && addr < 0xC00024) || (0xC00100 ≤ addr && addr < 0xC00500)

/-- PF0 reaches a register now (R434). -/
def reachable (s : State) (addr : Nat) : Bool := alwaysReachable addr || fnReady s 3

/-- A PF0 write to a register with a command of its own: discarded and logged with NOT_READY where PF0 does not reach it (R434). -/
def whenReached (s : State) (addr : Nat) (act : State → State) : State := if reachable s addr then act s else logErr s 0 .notReady 0 0 addr

/-- The READY_SUMMARY bit that shows a function (Table 17.8). -/
def summaryBit (i : Nat) : Option Fld :=
  match i with
  | 0 => some Reg.readySummaryDevice
  | 3 => some Reg.readySummaryImage
  | 13 => some Reg.readySummaryMemory
  | 15 => some Reg.readySummaryFabric
  | 16 => some Reg.readySummaryTime
  | 17 => some Reg.readySummaryRadio
  | 7 => some Reg.readySummarySurvey
  | _ => none

/-- A function reports a state and a status (R432, R433): 1 IN_PROGRESS, 2 READY, 3 FAILED, 4 ABSENT. -/
def fnSet (s : State) (i st : Nat) (status : Status) : State :=
  let was := rd s Reg.readyFnState i
  let s := wr (wr s Reg.readyFnState i st) Reg.readyFnStatus i (if st = 3 then status.code else 0)
  let s := if st = 2 ∨ st = 3 then wr s Reg.readyFnReadyMs i (s.clock.up / 1000000) else s
  let s := if st = 3 ∧ was ≠ 3 then bumpSat s Reg.readySummaryFailed 0 1 else s
  match summaryBit i with
  | none => s
  | some f => wr s f 0 (if st = 2 then 1 else 0)

end Sys2Proof.Machine
end

