-- ==== Sys2Proof/Machine/Routes.lean ====
section
/-! DEFINITION. The ways of the Jeano fabric: nodes and routes (R182-R188, R222, R223), messages and their check (R200), flits, their replay
buffer and credits (R174-R176, R186), datagrams (R223), and what an output queue does to a message (R186, R188, R191, R216). -/

namespace Sys2Proof

open Sys2Proof.Machine

/-- Code of a message kind (Table 07.8). -/
def kindCode : MsgKind → Nat
  | .read => 1 | .readData => 2 | .write => 3 | .atomic => 4 | .atomicResult => 5 | .reduce => 6 | .signal => 7 | .msg => 8
  | .ack => 9 | .nak => 10 | .lsa => 11 | .coll => 12

/-- Code of a colour. -/
def colourCode : Colour → Nat
  | .green => 0 | .yellow => 1 | .red => 2

/-- The 32-byte header (Table 07.8). -/
def msgHead (m : Msg) : List Byte :=
  let fields : List (Nat × Nat × Nat) :=
    [(0, 4, 1), (4, 4, kindCode m.kind), (8, 2, m.cls.code), (10, 2, colourCode m.colour), (12, 1, bit01 m.ordered), (13, 2, m.hop),
     (15, 6, m.age), (21, 10, m.srcNode), (31, 10, m.dstNode), (41, 10, m.srcFn), (51, 10, m.dstFn), (61, 2, m.leg),
     (63, 1, bit01 m.dl), (64, 32, m.seq), (96, 32, m.ordPrev), (128, 16, m.srcInc), (144, 16, m.dstInc), (160, 16, m.job),
     (176, 8, m.srcEpoch), (184, 8, m.aux), (192, 48, m.addr), (240, 13, m.len)]
  leBytes 32 ((fields.map (fun f => f.2.2 % 2 ^ f.2.1 * 2 ^ f.1)).sum)

/-- The end-to-end check of a message: CRC-32C over header and data (R200). -/
def msgCheck (m : Msg) : Nat := crc32c (msgHead m ++ m.data)

/-- A message with its check set. -/
def Msg.sealed (m : Msg) : Msg := { m with check := msgCheck m }

/-- A message with another header: a check that held holds again, and one that failed is left to fail (R200). -/
def Msg.rehead (old new : Msg) : Msg := if old.check = msgCheck old then new.sealed else new

/-- Bytes of a message on the wire: header, data and check. -/
def Msg.size (m : Msg) : Nat := 36 + m.data.length

/-- Flits a message takes (R174). -/
def Msg.flits (m : Msg) : Nat := cdiv m.size 242

/-- A message as it goes over a link. -/
def Msg.wire (m : Msg) : List Byte := msgHead m ++ m.data ++ leBytes 4 m.check

/-- A response: read data, an atomic's result, an acknowledgement or a NAK. -/
def MsgKind.response : MsgKind → Bool
  | .readData | .atomicResult | .ack | .nak => true
  | _ => false

/-- A message with nothing in it. -/
def Msg.blank : Msg :=
  { kind := .ack, cls := .t, colour := .green, ordered := false, hop := 0, age := 0, srcNode := 0, dstNode := 0, srcFn := 0, dstFn := 0,
    leg := 0, dl := false, seq := 0, ordPrev := 0, srcInc := 0, dstInc := 0, job := 0, srcEpoch := 0, aux := 0, addr := 0, len := 0,
    data := [], fetch := false, tag := 0, status := .ok, check := 0, via := 16, udpOk := true, legFrom := 0, legTo := 0 }

end Sys2Proof

namespace Sys2Proof.Machine

/-! ### Nodes and ports -/

/-- This device's node (R182). -/
def ownNode (s : State) : Nat := rd s Reg.jeanoNodeCol 0 + 8 * rd s Reg.jeanoNodeRow 0 + 64 * rd s Reg.jeanoNodeDomain 0

/-- This start's incarnation (R208). -/
def ownInc (s : State) : Nat := rd s Reg.jeanoNodeIncarnation 0

/-- A node of the device's own domain. -/
def sameDomain (s : State) (n : Nat) : Bool := n / 64 == rd s Reg.jeanoNodeDomain 0

/-- A member in the domain's spoil list (R484). -/
def spoiled (s : State) (n : Nat) : Bool := sameDomain s n && 2 ≤ rd s Reg.healthMemberList (n % 64)

/-- Operations of a class toward a node settle as TARGET_DEAD (R219, R484): class S stays open to an expelled member. -/
def spoiledFor (s : State) (n : Nat) (c : TClass) : Bool := spoiled s n && (c != .s || rd s Reg.healthMemberList (n % 64) == 3)

/-- The members of the own domain: its rows and columns (R182). -/
def domainMembers (s : State) : List Nat :=
  (List.range (rd s Reg.jeanoNodeRowsM1 0 + 1)).flatMap (fun r =>
    (List.range (rd s Reg.jeanoNodeColsM1 0 + 1)).map (fun c => 64 * rd s Reg.jeanoNodeDomain 0 + 8 * r + c))

/-- Port of member a toward member b of the same row or column, in the recommended wiring (R181). -/
def wiredPort (a b : Nat) : Nat :=
  if a / 8 % 8 = b / 8 % 8 then (if b % 8 < a % 8 then b % 8 else b % 8 - 1)
  else 7 + (if b / 8 % 8 < a / 8 % 8 then b / 8 % 8 else b / 8 % 8 - 1)

/-- A port that is UP. -/
def portUp (s : State) (p : Nat) : Bool := rd s Reg.jeanoPortState p == 2

/-- An outer port in ETHERNET mode (R221). -/
def isEth (s : State) (p : Nat) : Bool := (p == 14 && rdB s Reg.jeanoCfgEth14 0) || (p == 15 && rdB s Reg.jeanoCfgEth15 0)

/-- This device's own port toward a member: an UP row or column port whose partner it is. -/
def ownPortTo (s : State) (n : Nat) : Option Nat :=
  (List.range 14).find? (fun p => portUp s p && rd s Reg.jeanoPortPartnerNode p == n)

/-- The link between two members is usable: both of its ports are UP in the link map (R184). -/
def linkUsable (s : State) (a b : Nat) : Bool :=
  let up (x y : Nat) : Bool := if x = ownNode s then (ownPortTo s y).isSome else bitOf (rd s Reg.jeanoLinkmapUp (x % 64)) (wiredPort x y)
  up a b && up b a

/-! ### Routes inside a domain (R184, R185) -/

/-- The node sequences a message may take to another member of the domain, in the order of Table 07.4. -/
def domainPaths (s : State) (a b : Nat) : List (List Nat) :=
  let base := a / 64 * 64
  let n (r c : Nat) : Nat := base + 8 * r + c
  let r := a / 8 % 8
  let c := a % 8
  let r' := b / 8 % 8
  let c' := b % 8
  let rows := rd s Reg.jeanoNodeRowsM1 0 + 1
  let cols := rd s Reg.jeanoNodeColsM1 0 + 1
  if a = b then []
  else if r = r' then [b] :: (((List.range cols).filter (fun x => x != c && x != c')).map (fun x => [n r x, b]))
  else if c = c' then [b] :: (((List.range rows).filter (fun x => x != r && x != r')).map (fun x => [n x c, b]))
  else [[n r c', b], [n r' c, b]] ++
    (((List.range cols).filter (fun x => x != c && x != c')).map (fun x => [n r x, n r' x, b])) ++
    (((List.range rows).filter (fun x => x != r && x != r')).map (fun x => [n x c, n x c', b]))

/-- The rest of a path of Table 07.4 at a member which a message has reached along a row or a column: the link it came by says which of
the paths it is on. -/
def onward (here target : Nat) (byRow : Bool) : List Nat :=
  if here = target then []
  else if here / 8 % 8 = target / 8 % 8 ∨ here % 8 = target % 8 then [target]
  else if byRow then [here / 64 * 64 + target / 8 % 8 * 8 + here % 8, target]
  else [here / 64 * 64 + here / 8 % 8 * 8 + target % 8, target]

/-- Every link of a path is usable, and no spoiled member is passed through (R484). -/
def pathUsable (s : State) (a : Nat) (path : List Nat) : Bool :=
  match path with
  | [] => true
  | b :: t => linkUsable s a b && (t.isEmpty || !spoiled s b) && pathUsable s b t

/-- How full the first queue of a path is, as drawn. -/
def firstFill (s : State) (path : List Nat) : Nat :=
  match path with
  | [] => 0
  | b :: _ => match ownPortTo s b with
    | some p => (Config.queueFill s.free p).val
    | none => 100

/-- The paths to a member in the order a message takes them at its source (R185): outside plumb mode a class T message to a 2-hop
destination first takes whichever of the two has the shorter queue. A multicast copy, like class R, class S and plumb mode, keeps to the
fixed route. -/
def pathsFor (s : State) (cls : TClass) (mcast : Bool) (target : Nat) : List (List Nat) :=
  match domainPaths s (ownNode s) target with
  | a :: b :: t =>
    if cls = .t ∧ mcast = false ∧ rdB s Reg.plumbPlumb 0 = false ∧ a.length = 2 ∧ b.length = 2 ∧ firstFill s b < firstFill s a then b :: a :: t
    else a :: b :: t
  | l => l

/-! ### Routes -/

/-- A route as its first device knows it: the port, the members of the own domain it passes, and the member its leg here ends at. -/
structure Route where
  port : Nat
  path : List Nat
  target : Nat
  deriving DecidableEq, Repr

/-- The route along a path. -/
def pathRoute (s : State) (target : Nat) (path : List Nat) : Option Route :=
  match path with
  | [] => none
  | b :: t => (ownPortTo s b).map (fun p => ⟨p, b :: t, target⟩)

/-- The route to a member of the domain, on the first usable path; none where no route is usable. -/
def domainRoute (s : State) (cls : TClass) (mcast : Bool) (target : Nat) : Option Route :=
  ((pathsFor s cls mcast target).find? (pathUsable s (ownNode s))).bind (pathRoute s target)

/-- Direction on the ring from this device (R222), chosen from its own entry of the link map: the shorter way, port 14 on a tie, else the
other. -/
def ringPort (s : State) (dst : Nat) : Option Nat :=
  let d := rd s Reg.jeanoCfgDomainsM1 0 + 1
  let fwd := (dst / 64 + d - rd s Reg.jeanoNodeDomain 0) % d
  let first := if fwd ≤ d - fwd then 14 else 15
  if portUp s first && !isEth s first then some first else if portUp s (29 - first) && !isEth s (29 - first) then some (29 - first) else none

/-- The member of this domain where a message to another domain leaves it (R222): the one at the destination's position, or where both of
its ring links are down, the lowest position whose ring is intact. -/
def exitOf (s : State) (dst : Nat) : Option Nat :=
  let base := 64 * rd s Reg.jeanoNodeDomain 0
  let bits (n : Nat) : Nat := if n = ownNode s then bit01 (portUp s 14) + 2 * bit01 (portUp s 15) else bitsOf (rd s Reg.jeanoLinkmapUp (n % 64)) 14 2
  if bits (base + dst % 64) ≠ 0 then some (base + dst % 64) else ((List.range 64).map (base + ·)).find? (fun n => bits n == 3)

/-- The ETHERNET port a message leaves by, directly toward its target device: 14, and 15 when that one is down (R223). -/
def ethPort (s : State) : Option Nat := [14, 15].find? (fun p => isEth s p && portUp s p)

/-- The route of a message from this device: inside the domain, over the operator's network, or to its ring (R184, R185, R222, R223). None
where no route is usable; its operation is then held and resent (R184). -/
def routeOf (s : State) (cls : TClass) (mcast : Bool) (dst : Nat) : Option Route :=
  if sameDomain s dst then domainRoute s cls mcast dst
  else match ethPort s with
    | some p => some ⟨p, [], ownNode s⟩
    | none => match exitOf s dst with
      | none => none
      | some e => if e = ownNode s then (ringPort s dst).map (fun p => ⟨p, [], e⟩) else domainRoute s cls mcast e

/-- The route of a response (R185): the request's in reverse, and where a link of that is unusable the responder's own. -/
def replyRoute (s : State) (req : Msg) : Option Route :=
  let back : Option Route :=
    if 16 ≤ req.via then none
    else if 14 ≤ req.via then (if portUp s req.via then some ⟨req.via, [], ownNode s⟩ else none)
    else
      let target := if sameDomain s req.srcNode then req.srcNode else req.legFrom
      let x := rd s Reg.jeanoPortPartnerNode req.via
      let path := x :: onward x target (req.via < 7)
      if portUp s req.via && pathUsable s (ownNode s) path then some ⟨req.via, path, target⟩ else none
  match back with
  | some r => some r
  | none => routeOf s req.cls false req.srcNode

/-- The link between port 14 of the last domain and port 15 of domain 0 is the wrap link of its ring (R186). -/
def wrapLink (s : State) (p : Nat) : Bool :=
  !isEth s p && ((p == 14 && rd s Reg.jeanoNodeDomain 0 == rd s Reg.jeanoCfgDomainsM1 0) || (p == 15 && rd s Reg.jeanoNodeDomain 0 == 0))

/-- A message's header on the first link of a leg: inside a domain leg 0 or 2, hop 0; on an outer port leg 1 (R186). -/
def startLeg (s : State) (m : Msg) (leg : Nat) (r : Route) : Msg :=
  m.rehead { m with leg := if 14 ≤ r.port then 1 else leg, hop := 0, dl := 14 ≤ r.port && wrapLink s r.port, via := 16, legFrom := ownNode s,
                    legTo := r.target }

/-- A forwarded message's next link and header (R186, R222): inside a domain the path it is on; at the member where it leaves, the ring
port chosen there; on the ring straight on; and in its destination's domain the second in-domain leg. None where that link is unusable. -/
def nextLink (s : State) (m : Msg) : Option (Nat × Msg) :=
  let target := if sameDomain s m.dstNode then m.dstNode else m.legTo
  if m.via < 14 ∧ target ≠ ownNode s then
    match onward (ownNode s) target (m.via < 7) with
    | [] => none
    | b :: _ => if linkUsable s (ownNode s) b then
        (ownPortTo s b).map (fun p => (p, m.rehead { m with hop := Nat.min 2 (m.hop + 1) })) else none
  else if sameDomain s m.dstNode then (routeOf s m.cls false m.dstNode).map (fun r => (r.port, startLeg s m 2 r))
  else if m.leg = 1 ∧ (m.via = 14 ∨ m.via = 15) then
    (if portUp s (29 - m.via) && !isEth s (29 - m.via) then
      some (29 - m.via, m.rehead { m with dl := m.dl || wrapLink s (29 - m.via) }) else none)
  else match (if m.via < 14 then (ringPort s m.dstNode).map (fun p => ⟨p, [], ownNode s⟩) else routeOf s m.cls false m.dstNode) with
    | none => none
    | some r => some (r.port, startLeg s m 0 r)

/-! ### The link layer -/

/-- A port's link layer at reset. -/
def PortLink.reset : PortLink :=
  { rxNext := 0, txNext := 0, replay := [], tail := [], naks := 0, tries := 0, credits := [], lanes := 255, lastRx := 0, flightSum := 0,
    exchanges := 0, lastTx := 0, peerNak := 0, peerNaks := 0 }

/-- A port's link layer. -/
def getLink (s : State) (p : Nat) : PortLink := mapGet s.fab.links p PortLink.reset
def putLink (s : State) (p : Nat) (l : PortLink) : State :=
  { s with fab := { s.fab with links := mapSet s.fab.links p l } }

/-- Last good flit received. -/
def lastGood (l : PortLink) : Nat := (l.rxNext + 4095) % 4096

/-- A 256-byte flit (Table 07.2): link header, payload area filled up with zeros, and the link check. -/
def flitBytes (fseq ack nak type vc count : Nat) (payload : List Byte) : List Byte :=
  let b := leBytes 6 (fseq % 4096 + ack % 4096 * 2 ^ 12 + nak % 2 * 2 ^ 24 + type % 4 * 2 ^ 25 + vc % 32 * 2 ^ 27 + count % 256 * 2 ^ 32) ++
    payload ++ List.replicate (242 - payload.length) 0
  b ++ leBytes 8 (crc64 b)

/-- Send an idle flit: what it says is the acknowledgement in its header (R174, R176). -/
def sendIdle (s : State) (p : Nat) (nak : Bool) : State :=
  emit s (.flit p (flitBytes 0 (lastGood (getLink s p)) (bit01 nak) 1 0 0 []))

/-- Send a data flit that is in the replay buffer. -/
def sendData (s : State) (p : Nat) (f : Nat × List Byte) : State :=
  emit s (.flit p (flitBytes f.1 (lastGood (getLink s p)) 0 0 0 0 f.2))

/-- Send the next data flit: it takes its sequence and stays in the replay buffer, with the last 1,024 (R176). -/
def pushFlit (s : State) (p : Nat) (payload : List Byte) : State :=
  let l := getLink s p
  let all := l.replay ++ [(l.txNext, payload)]
  sendData (putLink s p { l with txNext := (l.txNext + 1) % 4096, replay := all.drop (all.length - 1024) }) p (l.txNext, payload)

/-- Bytes join a port's stream: every 242 of them fill a flit (R174). -/
def putStream (s : State) (p : Nat) (bs : List Byte) : State :=
  let l := getLink s p
  let all := l.tail ++ bs
  let n := all.length / 242
  (List.range n).foldl (fun s i => pushFlit s p ((all.drop (242 * i)).take 242)) (putLink s p { l with tail := all.drop (242 * n) })

/-- A port has nothing more to send: the rest of its stream goes out in a flit of its own (DESIGN CHOICE: what fills it is not stated),
else an idle flit (R174). -/
def flushPort (s : State) (p : Nat) : State :=
  let l := getLink s p
  if l.tail = [] then sendIdle s p false else pushFlit (putLink s p { l with tail := [] }) p l.tail

/-- Every port that runs Jeano's links sends when nothing has been handed to it. -/
def idlePorts (s : State) : State := ((List.range 16).filter (fun p => portUp s p && !isEth s p)).foldl flushPort s

/-- The virtual channel a message enters at a port (R186): class, request or response, then leg and hop, or the dateline channel. -/
def vcOf (m : Msg) (p : Nat) : Nat :=
  let k := 2 * m.cls.code + bit01 m.kind.response
  if 14 ≤ p then 2 * k + bit01 m.dl else 6 * k + 3 * (m.leg / 2) + m.hop

/-- Put a message into the stream of a port, spending credits of its channel. -/
def putFlits (s : State) (p : Nat) (m : Msg) : State :=
  let l := getLink s p
  putStream (putLink s p { l with credits := mapMod l.credits (Config.vcCode (vcOf m p)).toNat 0 (· + m.flits) }) p m.wire

/-! ### Datagrams (R223) -/

/-- Bytes of a number, the most significant first. -/
def beBytes (n v : Nat) : List Byte := (leBytes n v).reverse

/-- Sum of the 16-bit words of a byte string, the first byte of each the higher. -/
def wordSum (fuel : Nat) (bs : List Byte) : Nat :=
  match fuel, bs with
  | n + 1, a :: b :: t => 256 * a.toNat + b.toNat + wordSum n t
  | _ + 1, [a] => 256 * a.toNat
  | _, _ => 0

/-- The ones'-complement checksum of UDP; a result of 0 is sent as all ones. -/
def onesCheck (bs : List Byte) : Nat :=
  let v := wordSum bs.length bs
  let v := v % 65536 + v / 65536
  let v := 65535 - (v % 65536 + v / 65536)
  if v = 0 then 65535 else v

/-- Key of the flow of a message (R200): source function to target function on one node, in one class. -/
def pairKey (node : Nat) (c : TClass) : Nat := 4 * node + c.code
def flowKey (m : Msg) : Nat := (pairKey m.dstNode m.cls * 1024 + m.srcFn) * 1024 + m.dstFn

/-- The datagram a message travels in: port 14 of node n has address base + 2n, port 15 base + 2n + 1. -/
def datagramOf (s : State) (p : Nat) (m : Msg) : UdpOut :=
  let v6 := (mapFind s.net.v4 p).isNone
  let own := if v6 then mapGet s.net.v6 p 0 else mapGet s.net.v4 p 0
  let dst := own + 2 * m.dstNode - 2 * ownNode s
  let w := m.wire
  let n := 8 + w.length
  let sport := (Config.flowHash (flowKey m)).toNat
  let ports := beBytes 2 sport ++ beBytes 2 s.boot.image.udpPort ++ beBytes 2 n
  let pseudo := if v6 then beBytes 16 own ++ beBytes 16 dst ++ beBytes 4 n ++ beBytes 4 17 else beBytes 4 own ++ beBytes 4 dst ++ beBytes 2 17 ++ beBytes 2 n
  { mac := mapGet s.net.mac p 0, ipv6 := v6, src := own, dst := dst, srcPort := sport, dstPort := s.boot.image.udpPort,
    dscp := s.boot.image.dscp.getD m.cls.code 0, df := !v6, check := onesCheck (pseudo ++ ports ++ [0, 0] ++ w), payload := w }

/-! ### Output queues -/

/-- A message leaves: over the wire of a port as flits or a datagram. A copy that rides with another of its column takes none (R215). -/
def leave (s : State) (p : Nat) (m : Msg) (coll : Option CollMsg) (rides : Bool) : State :=
  let s := match coll with
    | none => emit s (.fabric p m)
    | some c => emit s (.coll { c with msg := m })
  if isEth s p then emit s (.udp p (datagramOf s p m)) else if rides then s else putFlits s p m

/-- A message arrives at the output queue of a port: a red one is discarded where the queue is fuller than JEANO_RED.thresh (R191), its age
rises by its time here, and one whose age would reach 16 us is discarded (R216); else it leaves. Says whether it was discarded. -/
def queueOut (s : State) (p : Nat) (m : Msg) (coll : Option CollMsg) (rides : Bool) : State × Bool :=
  let fill := (Config.queueFill s.free p).val
  let age := m.age + 1 + Config.queueTime s.free p
  let s := drawn s
  if (m.cls == .t && m.colour == .red && rd s Reg.jeanoRedThresh 0 < fill && !rides) || 64 ≤ age then (bump s Reg.jeanoPortDiscards p 1, true)
  else (leave s p (m.rehead { m with age := age }) coll rides, false)

/-- A message discarded on arrival or while it is held counts at the port it came by (R188). -/
def discardMsg (s : State) (m : Msg) : State := if 16 ≤ m.via then s else bump s Reg.jeanoPortDiscards m.via 1

/-- Forward a message for another member (R186, R188): it is discarded where its next link is unusable. -/
def forwardMsg (s : State) (m : Msg) (coll : Option CollMsg) : State :=
  match nextLink s m with
  | none => discardMsg s m
  | some (p, n) => (queueOut s p n coll false).1

/-- A message comes in (R186, R223): a datagram with a bad checksum is dropped; by a port that runs Jeano's links its credits are returned
first. -/
def arriving (s : State) (m : Msg) (act : State → State) : State :=
  if 16 ≤ m.via then act s
  else if isEth s m.via then (if m.udpOk then act s else s)
  else if portUp s m.via then
    act (emit s (.flit m.via (flitBytes 0 (lastGood (getLink s m.via)) 0 2 (Config.vcCode (vcOf m m.via)).toNat m.flits [])))
  else act s

end Sys2Proof.Machine
end

