-- ==== Sys2Proof/Machine/Flags.lean ====
section
/-! DEFINITION. Exact values, contributions into a window, and the accumulator cell with its four flags (R39-R42, R54). -/

namespace Sys2Proof.Machine

/-! ### Exact values -/

/-- The value of a floating-point or integer element: a signed magnitude mag × 2^e (zero keeps its sign), an infinity or a NaN. -/
inductive Fp where
  | fin (neg : Bool) (mag : Nat) (e : Int)
  | inf (neg : Bool)
  | nan
  deriving DecidableEq, Repr, Inhabited

/-- Positive zero. -/
def Fp.zero : Fp := .fin false 0 0

/-- An integer as a value. -/
def Fp.ofInt (v : Int) : Fp := .fin (v < 0) v.natAbs 0

/-- The signed mantissa of a finite value. -/
def sgn (neg : Bool) (mag : Nat) : Int := if neg then -(mag : Int) else mag

/-- m × 2^k, rounded toward −∞ where k is negative. -/
def shiftFloor (m k : Int) : Int := if 0 ≤ k then m * 2 ^ k.toNat else m / 2 ^ (-k).toNat

/-- The shift m × 2^k discards non-zero bits. -/
def shiftTruncs (m k : Int) : Bool := k < 0 && m % 2 ^ (-k).toNat != 0

/-- Exact product of two values, with the special rules of R41: a NaN, or ∞ × 0, is a NaN. -/
def Fp.mul (a b : Fp) : Fp :=
  match a, b with
  | .nan, _ => .nan
  | _, .nan => .nan
  | .inf n, .inf m => .inf (n != m)
  | .inf n, .fin m mag _ => if mag = 0 then .nan else .inf (n != m)
  | .fin n mag _, .inf m => if mag = 0 then .nan else .inf (n != m)
  | .fin n x e, .fin m y g => .fin (n != m) (x * y) (e + g)

/-- Scale a value by a power of two. -/
def Fp.scale (a : Fp) (k : Int) : Fp :=
  match a with
  | .fin n x e => .fin n x (e + k)
  | v => v

/-- Exact sum of two values under IEEE 754: opposite infinities give NaN, and an exact zero is +0 unless both operands are −0. -/
def Fp.add (a b : Fp) : Fp :=
  match a, b with
  | .nan, _ => .nan
  | _, .nan => .nan
  | .inf n, .inf m => if n = m then .inf n else .nan
  | .inf n, .fin _ _ _ => .inf n
  | .fin _ _ _, .inf m => .inf m
  | .fin n x e, .fin m y g =>
    let q := min e g
    let v := sgn n x * 2 ^ (e - q).toNat + sgn m y * 2 ^ (g - q).toNat
    if v = 0 then .fin (n && m && x == 0 && y == 0) 0 0 else .fin (v < 0) v.natAbs q

/-- Numeric order of two values that are not NaN: a < b. Both zeros are equal. -/
def Fp.lt (a b : Fp) : Bool :=
  match a, b with
  | .nan, _ => false
  | _, .nan => false
  | .inf n, .inf m => n && !m
  | .inf n, .fin _ _ _ => n
  | .fin _ _ _, .inf m => !m
  | .fin n x e, .fin m y g =>
    let q := min e g
    sgn n x * 2 ^ (e - q).toNat < sgn m y * 2 ^ (g - q).toNat

/-! ### Contributions (R39) -/

/-- What one product adds to a cell: a window integer and whether its conversion truncated, an infinity, or a NaN. -/
inductive Contrib where
  | num (c : Int) (trunc : Bool)
  | inf (neg : Bool)
  | nan
  deriving DecidableEq, Repr

/-- The contribution of a value to a window of exponent ew (R39). -/
def contrib (ew : Int) (p : Fp) : Contrib :=
  match p with
  | .nan => .nan
  | .inf n => .inf n
  | .fin n mag e => .num (shiftFloor (sgn n mag) (e - ew)) (shiftTruncs (sgn n mag) (e - ew))

/-- An integer lies outside the two's complement range of `w` bits. -/
def outside (w : Nat) (v : Int) : Bool := v < -(2 ^ (w - 1) : Int) || (2 ^ (w - 1) : Int) ≤ v

/-- A cell just zeroed. -/
def Cell.zero : Cell := { a := 0, ovf := false, trunc := false, nan := false, inf := false }

/-- A as it reads: zero while NAN is set (R41). -/
def Cell.value (c : Cell) : BitVec 128 := if c.nan then 0 else c.a

/-- Sign of a cell's infinity: A is 0 for +∞ and all ones for −∞ (R41). -/
def Cell.infNeg (c : Cell) : Bool := c.a.msb

/-- The four flags as a record's acc_flags: bit 0 OVF, 1 TRUNC, 2 NAN, 3 INF (Table 05.10). -/
def Cell.flags (c : Cell) : Nat := bit01 c.ovf + 2 * bit01 c.trunc + 4 * bit01 c.nan + 8 * bit01 c.inf

/-- A of an infinity of a sign. -/
def infA (neg : Bool) : BitVec 128 := if neg then BitVec.allOnes 128 else 0

/-- Some contribution is an infinity of this sign. -/
def hasInf (cs : List Contrib) (neg : Bool) : Bool := cs.any (fun c => c == .inf neg)

/-- The window integers of the finite contributions. -/
def nums (cs : List Contrib) : List Int := cs.filterMap (fun c => match c with | .num v _ => some v | _ => none)

/-- Some finite contribution truncated. -/
def anyTrunc (cs : List Contrib) : Bool := cs.any (fun c => match c with | .num _ t => t | _ => false)

/-- One cycle of a real cell: all contributions of the cycle enter at once (R40, R41). -/
def Cell.cycle (x : Cell) (cs : List Contrib) : Cell :=
  let x := { x with trunc := x.trunc || anyTrunc cs, ovf := x.ovf || (nums cs).any (outside 128) }
  let pos := hasInf cs false || (x.inf && !x.infNeg)
  let neg := hasInf cs true || (x.inf && x.infNeg)
  if x.nan || cs.any (fun c => c == .nan) || (pos && neg) then { x with a := 0, nan := true, inf := false }
  else if pos || neg then { x with a := if x.inf then x.a else infA neg, inf := true }
  else
    let sum := x.a.toInt + (nums cs).sum
    { x with a := BitVec.ofInt 128 sum, ovf := x.ovf || outside 128 sum }

/-- The real half of a complex cell. -/
def Cell.re (x : Cell) : Int := (x.a.extractLsb' 0 64).toInt

/-- The imaginary half of a complex cell. -/
def Cell.im (x : Cell) : Int := (x.a.extractLsb' 64 64).toInt

/-- A from two halves, each modulo 2^64. -/
def ofHalves (re im : Int) : BitVec 128 := (BitVec.ofInt 64 im) ++ (BitVec.ofInt 64 re)

/-- One complex MAC (R42): four products, each converted on its own into a 64-bit range. -/
def Cell.cmac (x : Cell) (ew ar ai br bi : Int) : Cell :=
  let c (p : Int) : Int := shiftFloor p (-ew)
  let t (p : Int) : Bool := shiftTruncs p (-ew)
  let ps := [ar * br, ai * bi, ar * bi, ai * br]
  let x := { x with trunc := x.trunc || ps.any t, ovf := x.ovf || ps.any (fun p => outside 64 (c p)) }
  if x.nan || x.inf then x else
  let re := x.re + c (ar * br) - c (ai * bi)
  let im := x.im + c (ar * bi) + c (ai * br)
  { x with a := ofHalves re im, ovf := x.ovf || outside 64 re || outside 64 im }

/-- The wide combine of two partials of one window and kind (R54). -/
def wideCombine (complex : Bool) (x y : Cell) : Cell :=
  let ovf := x.ovf || y.ovf
  let trunc := x.trunc || y.trunc
  if x.nan || y.nan || (x.inf && y.inf && x.infNeg != y.infNeg) then
    { a := 0, ovf := ovf, trunc := trunc, nan := true, inf := false }
  else if x.inf then { a := infA x.infNeg, ovf := ovf, trunc := trunc, nan := false, inf := true }
  else if y.inf then { a := infA y.infNeg, ovf := ovf, trunc := trunc, nan := false, inf := true }
  else if complex then
    let re := x.re + y.re
    let im := x.im + y.im
    { a := ofHalves re im, ovf := ovf || outside 64 re || outside 64 im, trunc := trunc, nan := false, inf := false }
  else
    let sum := x.a.toInt + y.a.toInt
    { a := BitVec.ofInt 128 sum, ovf := ovf || outside 128 sum, trunc := trunc, nan := false, inf := false }

/-- OR of two acc_flags values. -/
def orFlags (a b : Nat) : Nat := (a ||| b) % 16

end Sys2Proof.Machine
end

