-- ==== Sys2Proof/Machine/Bounds.lean ====
section
/-! DEFINITION. The error bounds of Table 04.5: an enclosure of the true value of each function whose bits the spec bounds without
stating them, and the test whether an FP32 result lies within the bound (R93). Enclosures are computed in integers at 320
fraction bits and widened by one part in 2^100, which covers the truncation of every series and constant used here. -/

namespace Sys2Proof.Machine

/-- A true value known to lie between lo × 2^e and hi × 2^e. -/
structure Encl where
  lo : Int
  hi : Int
  e : Int
  deriving DecidableEq, Repr

/-- One at the working scale of 320 fraction bits. -/
def fx1 : Nat := 2 ^ 320

/-- ln 2 at the working scale, rounded down. -/
def fxLn2 : Nat := 0xb17217f7d1cf79abc9e3b39803f2f6af40f343267298b62d8a0d175b8baafa2be7b876206debac98

/-- π ÷ 2 at the working scale, rounded down. -/
def fxHalfPi : Nat := 0x1921fb54442d18469898cc51701b839a252049c1114cf98e804177d4c76273644a29410f31c6809bb

/-- 2 ÷ √π at the working scale, rounded down. -/
def fxTwoOverSqrtPi : Nat := 0x120dd750429b6d11ae3a914fed7fd8688281341d7587cea2e7342b06199cc416180eb39f0b24e1e22

/-- 2 ÷ π with 480 fraction bits, rounded down. -/
def twoOverPi : Nat := 0xa2f9836e4e441529fc2757d1f534ddc0db6295993c439041fe5163abdebbc561b7246e3a424dd2e006492eea09d1921cfe1deb1cb129a73ee88235f5

/-- An enclosure around a computed value. -/
def Encl.around (v e : Int) : Encl :=
  let d : Int := v.natAbs / 2 ^ 100 + 1
  { lo := v - d, hi := v + d, e := e }

/-- The negated value. -/
def Encl.neg (x : Encl) : Encl := { lo := -x.hi, hi := -x.lo, e := x.e }

/-- mag × 2^e at the working scale. -/
def fxOf (mag : Nat) (e : Int) : Int := shiftFloor mag (e + 320)

/-- Integer square root by bits: the largest r with r² ≤ n, given more bits than r has. -/
def isqrtFrom (n bits r : Nat) : Nat :=
  match bits with
  | 0 => r
  | b + 1 => if (r + 2 ^ b) * (r + 2 ^ b) ≤ n then isqrtFrom n b (r + 2 ^ b) else isqrtFrom n b r

/-- 1 + t/k (1 + t/(k + 1) (…)), `n` levels: from k = 1 the series of e^t, from k = 2 that of (e^t − 1) ÷ t. -/
def expFrom (t k n : Nat) : Nat :=
  match n with
  | 0 => fx1
  | m + 1 => fx1 + t * expFrom t (k + 1) m / (k * fx1)

/-- 1 − y/c(k) (1 − y/c(k + 1) (…)), `n` levels: the series of sin and cos in the square of their argument. -/
def altFrom (y : Int) (c : Nat → Nat) (k n : Nat) : Int :=
  match n with
  | 0 => fx1
  | m + 1 => fx1 - y * altFrom y c (k + 1) m / ((c k * fx1 : Nat) : Int)

/-- 1/(2k + 1) + z (1/(2k + 3) + z (…)), `n` levels: the series of artanh in the square of its argument. -/
def atanhFrom (z k n : Nat) : Nat :=
  match n with
  | 0 => 0
  | m + 1 => fx1 / (2 * k + 1) + z * atanhFrom z (k + 1) m / fx1

/-- 1/(2k + 1) − y/(k + 1) (1/(2k + 3) − …), `n` levels: the series of erf in the square of its argument. -/
def erfFrom (y : Int) (k n : Nat) : Int :=
  match n with
  | 0 => 0
  | m + 1 => ((fx1 / (2 * k + 1) : Nat) : Int) - y * erfFrom y (k + 1) m / (((k + 1) * fx1 : Nat) : Int)

/-- e^y for y at the working scale: a value at the working scale, times a power of two. -/
def fxExp (y : Int) : Int × Int :=
  let n := y / (fxLn2 : Int)
  (expFrom (y - n * fxLn2).toNat 1 80, n)

/-- 2^x. -/
def exp2Encl (neg : Bool) (mag : Nat) (e : Int) : Encl :=
  if (Fp.fin false 200 0).lt (.fin false mag e) then (if neg then ⟨0, 1, -200⟩ else ⟨1, 1, 200⟩)
  else
    let x := (if neg then -1 else 1) * fxOf mag e
    let n := x / (fx1 : Int)
    .around (expFrom ((x - n * fx1).toNat * fxLn2 / fx1) 1 80) (n - 320)

/-- e^x. -/
def expEncl (neg : Bool) (mag : Nat) (e : Int) : Encl :=
  if (Fp.fin false 200 0).lt (.fin false mag e) then (if neg then ⟨0, 1, -200⟩ else ⟨1, 1, 200⟩)
  else
    let r := fxExp ((if neg then -1 else 1) * fxOf mag e)
    .around r.1 (r.2 - 320)

/-- ln x of a positive x at the working scale. -/
def fxLn (mag : Nat) (e : Int) : Int :=
  let k := Nat.log2 mag
  let m := mag * 2 ^ (320 - k)
  let z := (m - fx1) * fx1 / (m + fx1)
  (e + k) * (fxLn2 : Int) + ((2 * z * atanhFrom (z * z / fx1) 0 120 / fx1 : Nat) : Int)

def lnEncl (mag : Nat) (e : Int) : Encl := .around (fxLn mag e) (-320)

/-- log2 x. -/
def log2Encl (mag : Nat) (e : Int) : Encl := .around (fxLn mag e * fx1 / (fxLn2 : Int)) (-320)

/-- tanh of a positive x: from (e^t − 1) ÷ t with t = 2x for small x, from e^t for others. -/
def tanhPos (mag : Nat) (e : Int) : Encl :=
  let x := fxOf mag e
  let t := (2 * x).toNat
  if x * 4 < fx1 then
    let g := expFrom t 2 80
    .around (mag * (g * fx1 / (t * g / fx1 + 2 * fx1) : Nat)) (e + 1 - 320)
  else if 20 * (fx1 : Int) < x then ⟨2 ^ 50 - 1, 2 ^ 50, -50⟩
  else
    let r := fxExp t
    let v := shiftFloor r.1 r.2
    .around ((v - fx1) * fx1 / (v + fx1)) (-320)

/-- 1 ÷ (1 + e^−x). -/
def sigmoidEncl (neg : Bool) (mag : Nat) (e : Int) : Encl :=
  if (Fp.fin false 200 0).lt (.fin false mag e) then (if neg then ⟨0, 1, -200⟩ else ⟨2 ^ 100 - 1, 2 ^ 100, -100⟩)
  else
    let r := fxExp (-(fxOf mag e))
    let d := (fx1 : Int) + shiftFloor r.1 r.2
    if neg then .around (r.1 * fx1 / d) (r.2 - 320) else .around ((fx1 * fx1 : Nat) / d) (-320)

/-- erf of a positive x below 4: x times its series. -/
def erfPos (mag : Nat) (e : Int) : Encl :=
  let x := fxOf mag e
  .around (mag * (erfFrom (x * x / fx1) 0 220 * fxTwoOverSqrtPi / fx1)) (e - 320)

/-- sin (cos = false) or cos of a positive x: the reduction by π ÷ 2, and a series in the rest. -/
def trigPos (cos : Bool) (mag : Nat) (e : Int) : Encl :=
  let sh := (480 - e).toNat
  let q := mag * twoOverPi
  let n := (q + 2 ^ (sh - 1)) / 2 ^ sh
  let f : Int := (q : Int) - n * 2 ^ sh
  let y := shiftFloor (f * fxHalfPi) (-sh)
  let y2 := y * y / fx1
  let k := (n + bit01 cos) % 4
  let v : Encl :=
    if k % 2 = 0 then .around (f * (altFrom y2 (fun k => 2 * k * (2 * k + 1)) 1 60 * fxHalfPi / fx1)) (-sh - 320)
    else .around (altFrom y2 (fun k => (2 * k - 1) * (2 * k)) 1 60) (-320)
  if 2 ≤ k then v.neg else v

/-- 1 ÷ √x of a positive x. -/
def rsqrtEncl (mag : Nat) (e : Int) : Encl :=
  let m := if e % 2 = 0 then mag else 2 * mag
  let g := if e % 2 = 0 then e else e - 1
  .around (isqrtFrom (2 ^ 400 / m) 201 0) (-200 - g / 2)

/-- The enclosure and the bound in units in the last place of a function at a finite non-zero input (Table 04.5). -/
def fnEncl (op : Nat) (neg : Bool) (mag : Nat) (e : Int) : Encl × Nat :=
  let odd (x : Encl) : Encl := if neg then x.neg else x
  match op with
  | 0x12 => (rsqrtEncl mag e, 1)
  | 0x13 => (exp2Encl neg mag e, 1)
  | 0x14 => (expEncl neg mag e, 2)
  | 0x15 => (log2Encl mag e, 1)
  | 0x16 => (lnEncl mag e, 2)
  | 0x17 => (odd (tanhPos mag e), 4)
  | 0x18 => (sigmoidEncl neg mag e, 4)
  | 0x19 => (odd (erfPos mag e), 2)
  | 0x1A => (odd (trigPos false mag e), 2)
  | _ => (trigPos true mag e, 2)

/-- The exponent of the last place of FP32 at the size of an enclosed value. -/
def Encl.ulp (x : Encl) : Int := max ((Nat.log2 (max x.lo.natAbs x.hi.natAbs) : Int) + x.e - 23) (-149)

/-- A result lies within `k` units in the last place of the enclosed value; an infinity stands for what rounds beyond the largest
number. -/
def Encl.within (x : Encl) (k : Nat) (r : Fp) : Bool :=
  match r with
  | .nan => false
  | .fin n mag e =>
    let u := x.ulp
    let g := min x.e (min u e)
    let at_ (v i : Int) : Int := v * 2 ^ (i - g).toNat
    let v := at_ (sgn n mag) e
    decide (at_ x.lo x.e - at_ k u ≤ v ∧ v ≤ at_ x.hi x.e + at_ k u)
  | .inf n =>
    let u := x.ulp
    let g := min x.e (min u 128)
    let at_ (v i : Int) : Int := v * 2 ^ (i - g).toNat
    let top := at_ (if n then -x.lo else x.hi) x.e + at_ k u
    decide (at_ 1 128 ≤ top)

end Sys2Proof.Machine
end

