-- ==== Sys2Proof/Machine/Operands.lean ====
section
/-! DEFINITION. Operand forms: element formats and their packing (R34-R37, R89), the window and readout control words (R43, R48),
conversion out of the accumulator (R49-R51), W128 tiles (R53), FP32 arithmetic (R90), comparison with index (R57), and the Yard
read and write sets of a command (R81-R83). -/

namespace Sys2Proof.Machine

/-! ### Element formats -/

/-- How a floating-point format uses its top exponent: IEEE infinities and NaNs, the one NaN of E4M3, or numbers only. -/
inductive Special where
  | ieee | nanOnly | none
  deriving DecidableEq, Repr

/-- A floating-point format: exponent and mantissa widths, bias and special encodings (Table 02.1). -/
structure FloatFmt where
  eb : Nat
  mb : Nat
  bias : Int
  special : Special
  deriving DecidableEq, Repr

/-- An element format. -/
inductive Fmt where
  | int (w : Nat)
  | flt (f : FloatFmt)
  | ci16
  deriving DecidableEq, Repr

def fE4M3 : FloatFmt := ⟨4, 3, 7, .nanOnly⟩
def fE5M2 : FloatFmt := ⟨5, 2, 15, .ieee⟩
def fE3M2 : FloatFmt := ⟨3, 2, 3, .none⟩
def fE2M3 : FloatFmt := ⟨2, 3, 1, .none⟩
def fE2M1 : FloatFmt := ⟨2, 1, 1, .none⟩
def fBF16 : FloatFmt := ⟨8, 7, 127, .ieee⟩
def fFP16 : FloatFmt := ⟨5, 10, 15, .ieee⟩
def fFP32 : FloatFmt := ⟨8, 23, 127, .ieee⟩

/-- The format of an operand code (Table 02.1); 0xA-0xF are refused. -/
def slabFmt (code : Nat) : Option Fmt :=
  match code with
  | 0 => some (.int 8) | 1 => some (.int 4) | 2 => some (.flt fE4M3) | 3 => some (.flt fE5M2) | 4 => some (.flt fE3M2)
  | 5 => some (.flt fE2M3) | 6 => some (.flt fE2M1) | 7 => some (.flt fBF16) | 8 => some (.flt fFP16) | 9 => some .ci16
  | _ => none

/-- The format of a Dresser element code that names scalar elements (Table 04.3). -/
def dresserFmt (code : Nat) : Option Fmt :=
  match code with
  | 9 => none
  | 10 => some (.flt fFP32) | 11 => some (.int 16) | 12 => some (.int 32)
  | c => slabFmt c

/-- Bits of an element. -/
def Fmt.bits : Fmt → Nat
  | .int w => w
  | .flt f => 1 + f.eb + f.mb
  | .ci16 => 32

/-- The Bound column of Table 02.1, by operand code, with INT16 and INT32 as R95 gives them. -/
def fmtBound (code : Nat) : Int :=
  match code with
  | 0 => 7 | 1 => 3 | 2 => 8 | 3 => 15 | 4 => 4 | 5 => 2 | 6 => 2 | 7 => 127 | 8 => 15 | 9 => 15 | 11 => 15 | 12 => 31
  | _ => 0

/-- The value a floating-point code stands for (R35). -/
def FloatFmt.decode (f : FloatFmt) (code : Nat) : Fp :=
  let m := bitsOf code 0 f.mb
  let e := bitsOf code f.mb f.eb
  let neg := bitOf code (f.eb + f.mb)
  if f.special = .ieee ∧ e = 2 ^ f.eb - 1 then (if m = 0 then .inf neg else .nan)
  else if f.special = .nanOnly ∧ e = 2 ^ f.eb - 1 ∧ m = 2 ^ f.mb - 1 then .nan
  else if e = 0 then .fin neg m (1 - f.bias - f.mb)
  else .fin neg (2 ^ f.mb + m) (e - f.bias - f.mb)

/-- The value an element code stands for. -/
def Fmt.decode (f : Fmt) (code : Nat) : Fp :=
  match f with
  | .int w => .ofInt (signedOf code w)
  | .flt g => g.decode code
  | .ci16 => .nan

/-- Element `j` of a packed little-endian line (R37). -/
def lineElem (byte : Nat → Byte) (addr w j : Nat) : Nat :=
  let lo := w * j
  bitsOf (leNat ((List.range ((lo % 8 + w + 7) / 8)).map (fun i => byte (addr + lo / 8 + i)))) (lo % 8) w

/-- Bytes of a packed line of n elements. -/
def lineLen (w n : Nat) : Nat := cdiv (w * n) 8

/-- Pack element codes of `w` bits into bytes (R37). The bits of the last byte beyond the last code are 0 (DESIGN CHOICE for an output row:
R98 does not say). -/
def packCodes (w : Nat) (cs : List Nat) : List Byte :=
  let word := (cs.foldr (fun c acc => c % 2 ^ w + 2 ^ w * acc) 0)
  leBytes (lineLen w cs.length) word

/-- Operand codes that may be MX (R36). -/
def mxAllowed (code : Nat) : Bool := code == 0 || code == 2 || code == 3 || code == 4 || code == 5 || code == 6

/-- Pairings of operand codes (R38). -/
def pairOk (a b : Nat) : Bool :=
  (a ≤ 6 && b ≤ 6) || ((a == 7 || a == 8) && (b == 7 || b == 8)) || (a == 9 && b == 9)

/-- Dot width of a pairing (Table 03.1). -/
def dotWidth (a b : Nat) : Nat :=
  if a = 9 then 1 else if 7 ≤ a then 2 else if (a == 1 || a == 6) && (b == 1 || b == 6) then 8 else 4

/-! ### Control words -/

/-- A window control word (Table 02.3). -/
structure Wctl where
  ew : Int
  boundA : Int
  boundB : Int
  headroom : Int
  mode : Nat
  init : Nat
  bad : Bool
  deriving DecidableEq, Repr

/-- Read a window control word and apply R43. -/
def wctlOf (w : Nat) : Wctl :=
  let init := bitsOf w 40 2
  { ew := signedOf (bitsOf w 0 10) 10, boundA := signedOf (bitsOf w 12 10) 10, boundB := signedOf (bitsOf w 22 10) 10,
    headroom := bitsOf w 32 6, mode := bitsOf w 38 2, init := init,
    bad := bitsOf w 10 2 != 0 || bitsOf w 42 22 != 0 || bitsOf w 38 2 == 3 || init == 3 ||
      (init != 0 && (bitsOf w 0 10 != 0 || bitsOf w 12 28 != 0)) }

/-- Hold a computed window exponent to its range (R44). -/
def clampEw (v : Int) : Int := max (-512) (min 511 v)

/-- A readout control word (Table 02.4). -/
structure Rctl where
  fmt : Nat
  trunc : Bool
  adj : Int
  bad : Bool
  deriving DecidableEq, Repr

/-- Read a readout control word and apply R48. -/
def rctlOf (w : Nat) : Rctl :=
  { fmt := bitsOf w 0 4, trunc := bitOf w 4, adj := signedOf (bitsOf w 5 8) 8,
    bad := 9 ≤ bitsOf w 0 4 || bitsOf w 13 19 != 0 }

/-! ### Conversion out of an exact value (R49-R51, Table 02.5) -/

/-- An output format of Table 02.4 that is not W128. -/
inductive OutFmt where
  | flt (f : FloatFmt)
  | int (w : Nat)
  deriving DecidableEq, Repr

/-- The output format of a code. -/
def outFmt (code : Nat) : OutFmt :=
  match code with
  | 0 => .flt fFP32 | 1 => .flt fBF16 | 2 => .flt fFP16 | 3 => .flt fE4M3 | 4 => .flt fE5M2
  | 5 => .int 8 | 6 => .int 16 | _ => .int 32

/-- Bytes of an output element of a code. -/
def outBytes (code : Nat) : Nat :=
  match code with
  | 0 => 4 | 1 => 2 | 2 => 2 | 3 => 1 | 4 => 1 | 5 => 1 | 6 => 2 | 7 => 4 | _ => 16

/-- m ÷ 2^k rounded to nearest with ties to even, or toward zero. -/
def roundShift (m k : Nat) (trunc : Bool) : Nat :=
  let q := m / 2 ^ k
  let r := m % 2 ^ k
  if trunc || k == 0 then q
  else if 2 ^ (k - 1) < r || (r == 2 ^ (k - 1) && q % 2 == 1) then q + 1 else q

/-- mag × 2^e rounded to an integer. -/
def roundInt (mag : Nat) (e : Int) (trunc : Bool) : Nat :=
  if 0 ≤ e then mag * 2 ^ e.toNat else roundShift mag (-e).toNat trunc

/-- The largest finite code of a format, without its sign. -/
def FloatFmt.maxCode (f : FloatFmt) : Nat :=
  match f.special with
  | .ieee => (2 ^ f.eb - 1) * 2 ^ f.mb - 1
  | .nanOnly => 2 ^ (f.eb + f.mb) - 2
  | .none => 2 ^ (f.eb + f.mb) - 1

/-- The sign bit of a format, in place. -/
def FloatFmt.signBit (f : FloatFmt) (neg : Bool) : Nat := if neg then 2 ^ (f.eb + f.mb) else 0

/-- The infinity code of a format: for E4M3 the NaN code of the sign (Table 02.5). -/
def FloatFmt.infCode (f : FloatFmt) (neg : Bool) : Nat :=
  f.signBit neg + (match f.special with
    | .ieee => (2 ^ f.eb - 1) * 2 ^ f.mb
    | _ => 2 ^ (f.eb + f.mb) - 1)

/-- The NaN code of a format (Table 02.5). -/
def FloatFmt.nanCode (f : FloatFmt) : Nat :=
  match f.special with
  | .ieee => (2 ^ f.eb - 1) * 2 ^ f.mb + 2 ^ (f.mb - 1)
  | _ => 2 ^ (f.eb + f.mb) - 1

/-- Round a magnitude into a format: its code without the sign, as if the exponent range had no end. -/
def FloatFmt.roundCode (f : FloatFmt) (mag : Nat) (e : Int) (trunc : Bool) : Nat :=
  if mag = 0 then 0 else
  let qmin : Int := 1 - f.bias - f.mb
  let q := max ((Nat.log2 mag : Int) + e - f.mb) qmin
  roundInt mag (e - q) trunc + (q - qmin).toNat * 2 ^ f.mb

/-- Encode a value. What rounds beyond the largest finite magnitude becomes infinity where the format has one and rounding is to
nearest, else the largest finite code. -/
def FloatFmt.encode (f : FloatFmt) (v : Fp) (trunc : Bool) : Nat :=
  match v with
  | .nan => f.nanCode
  | .inf n => f.infCode n
  | .fin n mag e =>
    let c := f.roundCode mag e trunc
    f.signBit n + (if f.maxCode < c then (if f.special = .ieee ∧ trunc = false then (2 ^ f.eb - 1) * 2 ^ f.mb else f.maxCode) else c)

/-- Saturate an integer into `w` bits two's complement and give its code. -/
def satCode (w : Nat) (v : Int) : Nat := codeOf (max (-(2 ^ (w - 1) : Int)) (min (2 ^ (w - 1) - 1 : Int) v)) w

/-- Convert a value into an output format (R49-R51, Table 02.5). A zero that is exact is +0; a NaN and the infinities take their rows. -/
def OutFmt.encode (o : OutFmt) (v : Fp) (trunc : Bool) : Nat :=
  match o with
  | .flt f => (match v with | .fin _ 0 _ => 0 | w => f.encode w trunc)
  | .int w => (match v with
    | .nan => 2 ^ (w - 1)
    | .inf n => if n then 2 ^ (w - 1) else 2 ^ (w - 1) - 1
    | .fin n mag e => satCode w (sgn n (roundInt mag e trunc)))

/-- The value an integer accumulator part reads out as, by a cell's flags in the order of R50. -/
def Cell.part (x : Cell) (v ew : Int) : Fp :=
  if x.nan then .nan else if x.inf then .inf x.infNeg else if x.ovf then .nan else .fin (v < 0) v.natAbs ew

/-- The output codes of a cell: one for a real bank, the two halves for a complex one (R49-R51, R73). -/
def Cell.readout (x : Cell) (complex : Bool) (ew : Int) (r : Rctl) : List Nat :=
  let one (v : Int) : Nat := (outFmt r.fmt).encode (x.part v (ew + r.adj)) r.trunc
  if complex then [one x.re, one x.im] else [one x.a.toInt]

/-- The bytes of a cell in a narrow output format. -/
def Cell.outBytes (x : Cell) (complex : Bool) (ew : Int) (r : Rctl) : List Byte :=
  (x.readout complex ew r).flatMap (fun c => leBytes (Machine.outBytes r.fmt) c)

/-! ### W128 tiles (R53) -/

/-- A W128 tile. -/
structure Tile where
  ew : Int
  complex : Bool
  rows : Nat
  cols : Nat
  /-- Cells in row-major order. -/
  cells : List Cell
  deriving DecidableEq, Repr, Inhabited

/-- Bytes of the flag plane of a tile. -/
def planeLen (n : Nat) : Nat := cdiv (cdiv n 2) 64 * 64

/-- Bytes of a whole tile of n cells. -/
def tileLen (n : Nat) : Nat := 64 + planeLen n + 16 * n

/-- Read a W128 tile from memory: none where a reserved field is non-zero or the kind is reserved (R53). A tile of more than 128 rows or
columns, as ROW_WIDE_SUM and WIDE_ADD can write, is read with the same layout (DESIGN CHOICE: Table 02.6 gives rows and cols as 1-128). -/
def readTile (byte : Nat → Byte) (addr : Nat) : Option Tile :=
  let num (off n : Nat) : Nat := leNat ((List.range n).map (fun i => byte (addr + off + i)))
  let rows := num 4 2
  let cols := num 6 2
  let n := rows * cols
  if bitsOf (num 0 2) 10 6 ≠ 0 ∨ 1 < num 2 1 ∨ num 3 1 ≠ 0 ∨ num 9 55 ≠ 0 ∨ bitsOf (num 8 1) 4 4 ≠ 0 then none
  else
    some { ew := signedOf (num 0 2) 10, complex := num 2 1 = 1, rows := rows, cols := cols,
           cells := (List.range n).map (fun i =>
             let fl := bitsOf (num (64 + i / 2) 1) (i % 2 * 4) 4
             { a := BitVec.ofNat 128 (num (64 + planeLen n + 16 * i) 16), ovf := bitOf fl 0, trunc := bitOf fl 1,
               nan := bitOf fl 2, inf := bitOf fl 3 }) }

/-- The bytes of a W128 tile (Table 02.6). -/
def Tile.bytes (t : Tile) : List Byte :=
  let n := t.cells.length
  let fls := t.cells.map Cell.flags
  leBytes 2 (codeOf t.ew 10) ++ leBytes 1 (bit01 t.complex) ++ leBytes 1 0 ++ leBytes 2 t.rows ++ leBytes 2 t.cols
    ++ leBytes 1 (fls.foldl orFlags 0) ++ leBytes 55 0
    ++ leBytes (planeLen n) (leNat (packCodes 4 fls))
    ++ t.cells.flatMap (fun c => leBytes 16 c.value.toNat)

/-! ### FP32 arithmetic (R90) -/

/-- An FP32 code as a value. -/
def f32 (code : Nat) : Fp := fFP32.decode code

/-- Round a value to FP32, to nearest with ties to even. -/
def toF32 (v : Fp) : Nat := fFP32.encode v false

def f32Add (a b : Nat) : Nat := toF32 ((f32 a).add (f32 b))
def f32Neg (a : Nat) : Nat :=
  match f32 a with
  | .nan => fFP32.nanCode
  | _ => a ^^^ 0x80000000
def f32Sub (a b : Nat) : Nat := f32Add a (f32Neg b)
def f32Mul (a b : Nat) : Nat := toF32 ((f32 a).mul (f32 b))
def f32Fma (a b c : Nat) : Nat := toF32 (((f32 a).mul (f32 b)).add (f32 c))

/-- Larger or smaller of two codes, −0 below +0, NaN when either is NaN (Table 04.4). -/
def f32Pick (max : Bool) (a b : Nat) : Nat :=
  match f32 a, f32 b with
  | .nan, _ => fFP32.nanCode
  | _, .nan => fFP32.nanCode
  | x, y =>
    if x.lt y then (if max then b else a)
    else if y.lt x then (if max then a else b)
    else if bitOf a 31 then (if max then b else a) else (if max then a else b)

/-- Round to an integer with ties to even, or down to one; the sign of a zero result is the operand's. -/
def f32Int (down : Bool) (a : Nat) : Nat :=
  match f32 a with
  | .nan => fFP32.nanCode
  | .inf _ => a
  | .fin n mag e =>
    let v : Int := if down then shiftFloor (sgn n mag) e else sgn n (roundInt mag e false)
    toF32 (.fin (if v = 0 then n else v < 0) v.natAbs 0)

/-- Correctly rounded reciprocal (R93): the quotient with 80 bits and a sticky bit, rounded once. -/
def f32Recip (a : Nat) : Nat :=
  match f32 a with
  | .nan => fFP32.nanCode
  | .inf n => fFP32.signBit n
  | .fin n mag e =>
    if mag = 0 then fFP32.infCode n else
    let num := 2 ^ (Nat.log2 mag + 80)
    toF32 (.fin n (2 * (num / mag) + bit01 (num % mag != 0)) (-(Nat.log2 mag + 81 : Int) - e))

/-- Correctly rounded square root (R93). -/
def f32Sqrt (a : Nat) : Nat :=
  match f32 a with
  | .nan => fFP32.nanCode
  | .inf n => if n then fFP32.nanCode else a
  | .fin n mag e =>
    if mag = 0 then a else if n then fFP32.nanCode else
    let k : Int := if e % 2 = 0 then e - 80 else e - 81
    let m := mag * 2 ^ (e - k).toNat
    let r := isqrtFrom m 64 0
    toF32 (.fin false (2 * r + bit01 (r * r != m)) (k / 2 - 1))

/-- A function of Table 04.5 whose bits the spec bounds but does not state, at a finite non-zero input: the free result where it keeps
the bound, the nearest FP32 value otherwise. -/
def f32Table (op a : Nat) : Nat :=
  match f32 a with
  | .fin n mag e =>
    let r := (Config.dresserFn op (BitVec.ofNat 32 a)).toNat
    let x := fnEncl op n mag e
    if x.1.within x.2 (f32 r) then r else toF32 (.fin (x.1.lo < 0) x.1.lo.natAbs x.1.e)
  | _ => fFP32.nanCode

/-- The one-operand functions of Table 04.4 with their IEEE 754 recommended values at special inputs (R93). -/
def f32Fn (op a : Nat) : Nat :=
  let one := 0x3F800000
  let pinf := fFP32.infCode false
  let ninf := fFP32.infCode true
  match op, f32 a with
  | _, .nan => fFP32.nanCode
  | 0x10, _ => f32Recip a
  | 0x11, _ => f32Sqrt a
  | 0x12, .fin n 0 _ => fFP32.infCode n
  | 0x12, .fin true _ _ => fFP32.nanCode
  | 0x12, .inf n => if n then fFP32.nanCode else 0
  | 0x13, .inf n => if n then 0 else pinf
  | 0x14, .inf n => if n then 0 else pinf
  | 0x13, .fin _ 0 _ => one
  | 0x14, .fin _ 0 _ => one
  | 0x15, .fin _ 0 _ => ninf
  | 0x16, .fin _ 0 _ => ninf
  | 0x15, .fin true _ _ => fFP32.nanCode
  | 0x16, .fin true _ _ => fFP32.nanCode
  | 0x15, .inf n => if n then fFP32.nanCode else pinf
  | 0x16, .inf n => if n then fFP32.nanCode else pinf
  | 0x17, .fin _ 0 _ => a
  | 0x17, .inf n => one + fFP32.signBit n
  | 0x18, .inf n => if n then 0 else one
  | 0x19, .inf n => one + fFP32.signBit n
  | 0x19, .fin n mag e => if ((Fp.fin false mag e).lt (.fin false 4 0)) then f32Table op a else one + fFP32.signBit n
  | 0x1A, .fin _ 0 _ => a
  | 0x1A, .inf _ => fFP32.nanCode
  | 0x1B, .fin _ 0 _ => one
  | 0x1B, .inf _ => fFP32.nanCode
  | 0x15, .fin _ _ _ => if a = one then 0 else f32Table op a
  | 0x16, .fin _ _ _ => if a = one then 0 else f32Table op a
  | _, _ => f32Table op a

/-- An element converted to FP32 (R90). -/
def elemF32 (f : Fmt) (code : Nat) : Nat := toF32 (f.decode code)

/-- An FP32 result written in an output format with the scale of out_exp_adj (R90). -/
def f32Out (r : Rctl) (code : Nat) : Nat := (outFmt r.fmt).encode ((f32 code).scale r.adj) r.trunc

/-! ### Maximum and minimum with index (R57, R58) -/

/-- A better candidate than the best so far: numerically, and between equals the lower index; the first NaN beats all. -/
def betterIdx (max : Bool) (f : Fmt) (best new : Nat × Nat) : Bool :=
  match f.decode best.1, f.decode new.1 with
  | .nan, .nan => new.2 < best.2
  | .nan, _ => false
  | _, .nan => true
  | x, y => if max then x.lt y || (!(y.lt x) && new.2 < best.2) else y.lt x || (!(x.lt y) && new.2 < best.2)

/-- The identity value of MAXI or MINI in a format (R58, R97). -/
def idxIdentity (max : Bool) (f : Fmt) : Nat :=
  match f with
  | .int w => if max then 2 ^ (w - 1) else 2 ^ (w - 1) - 1
  | .flt g => if g.special = .ieee then g.infCode max else g.signBit max + g.maxCode
  | .ci16 => 0

/-- Value and index of a reduction over candidates (R57). -/
def reduceIdx (max : Bool) (f : Fmt) (cs : List (Nat × Nat)) : Nat × Nat :=
  cs.foldl (fun b c => if betterIdx max f b c then c else b) (idxIdentity max f, 0xFFFFFFFF)

/-! ### Yard sets (R81-R83) -/

/-- The pages a list of byte ranges touches. -/
def pagesOf (rs : List (Nat × Nat)) : List Nat :=
  rs.foldl (fun acc r => if r.2 = 0 then acc else
    (List.range ((r.1 + r.2 - 1) / 65536 - r.1 / 65536 + 1)).foldl (fun acc i => insertNat acc (r.1 / 65536 + i)) acc) []

/-- The 64-byte lines a list of byte ranges touches. -/
def linesOf (rs : List (Nat × Nat)) : List Nat :=
  rs.foldl (fun acc r => if r.2 = 0 then acc else
    (List.range ((r.1 + r.2 - 1) / 64 - r.1 / 64 + 1)).foldl (fun acc i => insertNat acc (r.1 / 64 + i)) acc) []

/-- The first byte of a list of ranges that lies outside a Yard space of P pages (R81). -/
def outsideYard (P : Nat) (rs : List (Nat × Nat)) : Option Nat :=
  (rs.find? (fun r => r.2 ≠ 0 && 65536 * P < r.1 + r.2)).map (fun r => max r.1 (65536 * P))

/-- Two byte ranges intersect. -/
def rangesMeet (a b : Nat × Nat) : Bool := a.2 != 0 && b.2 != 0 && a.1 < b.1 + b.2 && b.1 < a.1 + a.2

/-- Some two ranges of a list intersect. -/
def anyMeet (rs : List (Nat × Nat)) : Bool :=
  match rs with
  | [] => false
  | r :: t => t.any (rangesMeet r) || anyMeet t

/-- Add consecutive bytes to a sparse byte map. -/
def putBytes (m : SMap Byte) (addr : Nat) (bs : List Byte) : SMap Byte :=
  match bs with
  | [] => m
  | b :: t => putBytes (mapSet m addr b) (addr + 1) t

/-- Rows of a strided object: address and length of each. -/
def rowRanges (addr stride rows len : Nat) : List (Nat × Nat) := (List.range rows).map (fun i => (addr + stride * i, len))

end Sys2Proof.Machine
end

