-- ==== Sys2Proof/Machine/HostAccess.lean ====
section
/-! DEFINITION. Register accesses with no behaviour of their own and the small periodic windows (rows REGISTER_WRITE to
REFRESH_TEMP_READ): access codes (R14), 64-bit reads (R12), absent bench windows (R6), the not-clocked proxy (R110, R259), share
windows (R18, R167) and refresh (R166). Beside them stand the register effects that a plain access has: a read that pops (R270, R275),
and the group a disarmed comparator takes (R274). -/

namespace Sys2Proof.Machine

/-! ### Addresses -/

/-- Bit address of a byte of a function's BAR0 in the field map: PF0 BAR0 at 0, VF f's BAR0 64 KiB apart from 0x1_0000_0000. -/
def barBit (fn addr : Nat) : Nat := if fn = 0 then 8 * addr else 34359738368 + 524288 * fn + 8 * (addr % 65536)

/-- An instance number that stands for a register: the per-vector and per-entry tables of a VF's BAR0 hold 64 instances each, numbered
4096 f + i (R398, R405). -/
def isInstance (f : Fld) (i : Nat) : Bool := i < f.count && (f.count != 2101248 || i % 4096 < 64)

/-- Instances of a field that overlap bits [lo, lo + n). -/
def hits (f : Fld) (lo n : Nat) : List Nat :=
  if f.stride = 0 then (if f.base < lo + n ∧ lo < f.base + f.width then [0] else [])
  else
    let i0 := (lo + 1 - f.base - f.width + f.stride - 1) / f.stride
    ((List.range (n / f.stride + 2)).map (i0 + ·)).filter
      (fun i => isInstance f i ∧ fldKey f i < lo + n ∧ lo < fldKey f i + f.width)

/-- A field's value with the bits that a write of `n` bits of `data` at bit `lo` covers replaced. -/
def merged (fb width lo n data old : Nat) : Nat :=
  let a := max fb lo
  let e := min (fb + width) (lo + n)
  bitsSet old (a - fb) (e - a) (data / 2 ^ (a - lo))

/-! ### Reads -/

/-- The bits of a 32-bit read at a bit address, from the field map: write-only fields read zero, staged ones their staging copy. -/
def fieldBits (s : State) (lo n : Nat) : Nat :=
  regTable.foldl (fun acc f =>
    if f.acc = .wo then acc else
    (hits f lo n).foldl (fun acc i =>
      if (8 * 0xC10000 ≤ f.base ∧ f.base < 8 * 0xC20000 ∧ !fnPresent s i) ∨
          (8 * 0xC40000 ≤ f.base ∧ f.base < 8 * 0xC60000 ∧ !fnPresent s (i / 32)) then acc else
      let v := rd s f i
      let fb := fldKey f i
      acc + (if fb < lo then bitsOf v (lo - fb) n else v * 2 ^ (fb - lo) % 2 ^ n)) acc) 0

/-- The 64 bits of a queue block register pair that a VF BAR0 (or PF0) offset names (Table 05.2), for the two base registers. -/
def queueBase (s : State) (fn addr : Nat) : Option Nat :=
  if 0x1000 ≤ addr ∧ addr < 0x2000 then
    let q := getQ s (qKey fn ((addr - 0x1000) / 64))
    if addr % 64 / 8 = 0 then some (q.sqBase * 64) else if addr % 64 / 8 = 1 then some (q.cqBase * 64) else none
  else none

/-- A word of a VF's own page at offset 0x40 to 0x77 (Table 15.1): committed values, never staging copies. -/
def vfPage (s : State) (f off : Nat) : Nat :=
  let owned := ((List.range (rd s Reg.caps0DramLots 0)).filter (fun n => lotOwnerOf s n == f && lotIdle s n)).length
  let node := rd s Reg.jeanoNodeCol 0 + 8 * rd s Reg.jeanoNodeRow 0 + 64 * rd s Reg.jeanoNodeDomain 0
  match off with
  | 0x40 => f + node * 2 ^ 10 + vfState s f * 2 ^ 20
  | 0x44 => rd s Reg.vfCtlEpoch f
  | 0x48 => rdLive s Reg.bankPartBenchMin f + rdLive s Reg.bankPartBenchMax f * 2 ^ 6 + rdLive s Reg.bankPartWeight f * 2 ^ 12 +
            rdLive s Reg.bankPartQuantum f * 2 ^ 20
  | 0x4C => rdLive s Reg.vfPartYardPages f + rdLive s Reg.vfPartGalleryWeight f * 2 ^ 8
  | 0x50 => owned + rd s Reg.bankPartSaveLot f * 2 ^ 9
  | 0x58 => rdLive s Reg.dramBucketRate f + rdLive s Reg.dramBucketBorrow f * 2 ^ 14
  | 0x5C => rdLive s Reg.dramBucketBurst f
  | 0x60 => rdLive s Reg.fabVfCir f + rdLive s Reg.fabVfPir f * 2 ^ 16
  | 0x64 => rdLive s Reg.fabVfCbs f + rdLive s Reg.fabVfPbs f * 2 ^ 16
  | 0x68 => rd s Reg.fabVfJob f + rd s Reg.fabVfPeerCount f * 2 ^ 16
  | 0x6C => rd s Reg.fabVfMcastCount f + rd s Reg.crusherGrpGroupCount f * 2 ^ 7
  | 0x70 => rdLive s Reg.vfPartHostCir f + rdLive s Reg.vfPartHostPir f * 2 ^ 16
  | 0x74 => rdLive s Reg.vfPartHostCbs f + rdLive s Reg.vfPartHostPbs f * 2 ^ 16
  | _ => 0

/-- A register of a queue block beside its bases (Table 05.2). -/
def queueWord (s : State) (f q off : Nat) : Nat :=
  let x := getQ s (qKey f q)
  match off with
  | 0x10 => x.sqLog + x.cqLog * 2 ^ 4 + bit01 x.sqHost * 2 ^ 8 + bit01 x.cqHost * 2 ^ 9 + x.prio * 2 ^ 10 + x.msix * 2 ^ 12 +
            bit01 x.stopOnError * 2 ^ 18
  | 0x14 => x.pasid
  | 0x18 => bit01 x.enable
  | 0x1C => (match x.state with | .disabled => 0 | .running => 1 | .stopping => 2 | .error => 3) + x.lastStatus.code * 2 ^ 8
  | 0x20 => x.sqTail
  | 0x24 => x.sqHead
  | 0x28 => x.cqHead
  | 0x2C => x.cqTail
  | 0x30 => x.steps
  | _ => 0

/-- A 32-bit word of a VF's MSI-X pending-bit array (R398). -/
def pendWord (s : State) (fn w : Nat) : Nat :=
  ((List.range 32).map (fun i => bit01 (s.ten.pendBits.contains (64 * fn + 32 * w + i)) * 2 ^ i)).sum

/-- A 32-bit word of a function's BAR0, as a read returns it. Registers PF0 does not reach read all ones (R3, R434). The time base is
read from its count (R262), the VF's own page from the copies it presents (R10, R399). Beyond a VF's 64 KiB of BAR0 nothing is there, and
the model reads zero (DESIGN CHOICE). -/
def regWord (s : State) (fn addr : Nat) : Nat :=
  if fn = 0 ∧ !reachable s addr then 0xFFFFFFFF
  else match queueBase s fn addr with
    | some v => bitsOf v (addr % 8 * 8) 32
    | none =>
      if fn = 0 ∧ addr = 0x700010 then bitsOf s.clock.ns 0 32
      else if fn = 0 ∧ addr = 0x700014 then bitsOf s.clock.ns 32 32
      else if fn = 0 ∧ addr = 0x700018 then s.clock.frac
      else if fn = 0 ∧ addr = 0x10008 then bitsOf (s.clock.up / 1000) 0 32
      else if fn = 0 ∧ addr = 0x1000C then bitsOf (s.clock.up / 1000) 32 32
      else if fn ≠ 0 ∧ 0x10000 ≤ addr then 0
      else if fn ≠ 0 ∧ addr < 0x40 then fieldBits s (8 * addr) 32
      else if fn ≠ 0 ∧ addr < 0x1000 then vfPage s fn (addr / 4 * 4)
      else if fn ≠ 0 ∧ 0x4000 ≤ addr ∧ addr < 0x8000 then (if addr % 16 / 4 = 0 then tallyGet s fn ((addr - 0x4000) / 16) else 0)
      else if fn ≠ 0 ∧ 0x9000 ≤ addr ∧ addr < 0x9008 then pendWord s fn ((addr - 0x9000) / 4)
      else if fn ≠ 0 ∧ 0xC800 ≤ addr ∧ addr < 0xC880 then rd s Reg.tenHistBin (32 * fn + (addr - 0xC800) / 4)
      else if 0x1000 ≤ addr ∧ addr < 0x2000 then queueWord s fn ((addr - 0x1000) / 64) (addr % 64 / 4 * 4)
      else fieldBits s (barBit fn addr) 32

/-- A host address is the low word of a 64-bit register: one field crosses into the next word, or it is one of the pairs that the
tables lay out as one register without such a field. -/
def lowOf64 (fn addr : Nat) : Bool :=
  (addr % 8 == 0 &&
    ((fn == 0 && 0x200000 ≤ addr && addr < 0x400000 && addr % 65536 == 0x10) || (fn != 0 && addr == 0x58) ||
     (0x1000 ≤ addr && addr < 0x2000 && addr % 64 < 16) ||
     regTable.any (fun f => (hits f (barBit fn addr) 32).any (fun i => barBit fn addr + 32 < fldKey f i + f.width)))) ||
  (fn == 0 && 0xC10000 ≤ addr && addr < 0xC20000 && addr % 64 == 0x14)

/-- Key of a word of a function's BAR0 in the read latch. -/
def latchKey (fn addr : Nat) : Nat := fn * 2 ^ 32 + addr

/-- The stoppable domain of a PF0 register, if it has one, and whether it runs now: the A-clock half of a bench window (R109) and the
C-clock half of a Chisel core entry (Table 11.10). The TD front end's, of a stream entry, stops only where CAPS reports it absent
(Table 09.1), and there R329 says how its registers answer. -/
def domainRuns (s : State) (addr : Nat) : Option Bool :=
  if 0x200000 ≤ addr ∧ addr < 0x400000 then
    if 0x100 ≤ addr % 65536 ∧ addr % 65536 < 0x200 ∧ (addr - 0x200000) / 65536 < benchCount s then
      some (pstate s ((addr - 0x200000) / 65536) == 0)
    else none
  else if 0xA01000 ≤ addr ∧ addr < 0xA01000 + 64 * 64 ∧ 0x20 ≤ addr % 64 ∧ addr % 64 < 0x28 then
    if (addr - 0xA01000) / 64 < rd s Reg.caps1ChiselCount 0 then some (rd s Reg.chiselCoreState ((addr - 0xA01000) / 64) == 2) else none
  else if 0xB00100 ≤ addr ∧ addr < 0xB00100 + 64 * 16 ∧ 0x18 ≤ addr % 64 ∧ addr % 64 < 0x20 ∧ rdB s Reg.caps1Tdfe 0 = true then some true
  else none

/-- Why an access to a PF0 register that is reachable finds nothing there: the window of an absent bench (R6), or a domain whose clock is
stopped (R110, R259). Reads of it return all ones, writes are discarded, and the status is logged. -/
def pfClosed (s : State) (addr : Nat) : Option Status :=
  if 0x200000 ≤ addr ∧ addr < 0x400000 ∧ benchCount s ≤ (addr - 0x200000) / 65536 then some .noUnit
  else if domainRuns s addr = some false then some .notClocked
  else none

/-- A read of TSQ_ID pops the oldest timestamp and latches it (R270); an empty queue reads valid = 0. A push that the full queue dropped in
the same G-clock is kept after all, since the pop comes first. -/
def popTsq (s : State) (k : Nat) : State :=
  match mapGet s.clock.tsq k [] with
  | [] => wr (wr s Reg.tsqValid k 0) Reg.tsqFill k 0
  | e :: t =>
    let (t, s) :=
      match mapFind s.clock.tsqDrop k with
      | some (g, was, d) =>
        let s := { s with clock := { s.clock with tsqDrop := mapErase s.clock.tsqDrop k } }
        if g = s.clock.g then (t ++ [d], wr (wr s Reg.tsqOverflow k was) Reg.tsqOverflowCount k (rd s Reg.tsqOverflowCount k + (2 ^ 32 - 1)))
        else (t, s)
      | none => (t, s)
    let s := { s with clock := { s.clock with tsq := mapSet s.clock.tsq k t } }
    let s := wr (wr (wr s Reg.tsqId k e.1) Reg.tsqValid k 1) Reg.tsqFill k t.length
    wr (wr s Reg.tsqTsNs k e.2.1) Reg.tsqTsFrac k e.2.2

/-- A read of CAP_POP pops the oldest capture and latches its time (R275). -/
def popCap (s : State) (j : Nat) : State :=
  match mapGet s.clock.cap j [] with
  | [] => wr s Reg.capValid j 0
  | e :: t =>
    let s := { s with clock := { s.clock with cap := mapSet s.clock.cap j t } }
    wr (wr (wr (wr s Reg.capValid j 1) Reg.capRising j (bit01 e.2)) Reg.capTsNs j e.1) Reg.capFill j t.length

/-- What a read of a PF0 word does beside returning it. -/
def readEffect (s : State) (addr : Nat) : State :=
  if 0x701000 ≤ addr ∧ addr < 0x701000 + 32 * 12 ∧ addr % 32 = 0 then popTsq s ((addr - 0x701000) / 32)
  else if 0x703000 ≤ addr ∧ addr < 0x703000 + 32 * 9 ∧ addr % 32 = 4 then popCap s ((addr - 0x703000) / 32)
  else s

/-- A 32-bit word, as one read of it returns it, with the read's effect; `stopped` reads are those of `pfClosed`. -/
def readWord (s : State) (fn addr : Nat) : State × Nat :=
  if fn = 0 ∧ reachable s addr then
    match pfClosed s addr with
    | some st => (logErr s 0 st 0 0 addr, 0xFFFFFFFF)
    | none => let s := readEffect s addr; (s, regWord s 0 addr)
  else (s, regWord s fn addr)

/-- Latch the word after the low word of a 64-bit register (R12), and with TIME_NOW_NS the fraction (R262). -/
def latchHigh (s : State) (fn addr : Nat) : State :=
  if lowOf64 fn addr && (fn != 0 || reachable s addr) then
    let l := mapSet s.ten.latch (latchKey fn (addr + 4)) (regWord s fn (addr + 4))
    let l := if fn = 0 ∧ addr = 0x700010 then mapSet l 0x700018 s.clock.frac else l
    { s with ten := { s.ten with latch := l } }
  else s

/-- LOW_WORD_READ (R12): a 32-bit read of the low word of a 64-bit register latches its high word, which the next read of that word
returns, once; or one 64-bit access returns both. A read of TIME_NOW_NS also latches the fraction (R262). -/
def execLowWordRead (fn : Fin 513) (addr : BitVec 32) (wide : Bool) (s : State) : Ans :=
  let a := addr.toNat
  let f := fn.val
  if wide then
    let lo := readWord s f a
    let hi := if (pfClosed s a).isSome && f == 0 then (lo.1, 0xFFFFFFFF) else readWord lo.1 f (a + 4)
    let s := hi.1
    let s := if f = 0 ∧ a = 0x700010 ∧ reachable s a then { s with ten := { s.ten with latch := mapSet s.ten.latch 0x700018 s.clock.frac } } else s
    .next (emit s (.regData [lo.2, hi.2]))
  else
    match mapFind s.ten.latch (latchKey f a) with
    | some v => .next (emit { s with ten := { s.ten with latch := mapErase s.ten.latch (latchKey f a) } } (.regData [v]))
    | none =>
      let r := readWord s f a
      .next (emit (if f = 0 ∧ (pfClosed s a).isSome = true then r.1 else latchHigh r.1 f a) (.regData [r.2]))

/-! ### Writes -/

/-- Why a field does not take a write: it is discarded in silence, or discarded and logged with PERMISSION. -/
inductive Closed where
  | silent | permission
  deriving DecidableEq, Repr

/-- A field of a family of fields, by bit address range. -/
def inRange (f : Fld) (loByte hiByte : Nat) : Bool := 8 * loByte ≤ f.base && f.base < 8 * hiByte

/-- Fields of a FAPI ring pair that are writable only while the pair is not enabled (Table 10.11). -/
def fapiFixed (f : Fld) : Bool :=
  f = Reg.fapiRingReqBase || f = Reg.fapiRingIndBase || f = Reg.fapiRingReqLog2 || f = Reg.fapiRingIndLog2 ||
  f = Reg.fapiRingMsix || f = Reg.fapiRingPasid || f = Reg.fapiRingIndDataBase || f = Reg.fapiRingIndDataSize

/-- Whether instance `i` of a field is closed to the value `v` now. -/
def closedTo (s : State) (f : Fld) (i v : Nat) : Option Closed :=
  if f.acc = .rwl ∧ rdB s Reg.readySummaryLocked 0 then some .permission
  else if inRange f 0xC10000 0xC20000 ∧ !fnPresent s i then some .silent
  else if f = Reg.cellFapiRing ∧ rd s Reg.radioPlanCells 0 ≤ i then some .silent
  else if f = Reg.cellFapiRing ∧ rd s Reg.cellState i = 4 then some .permission
  else if fapiFixed f ∧ rdB s Reg.fapiRingEnable i then some .silent
  else if (f = Reg.trigCompareNs || f = Reg.trigPeriodNs || f = Reg.trigAction || f = Reg.trigTarget || f = Reg.trigArmed || f = Reg.trigLate) ∧
      i < 48 then
    some .silent
  else if (f = Reg.tdfeStreamAction || f = Reg.tdfeStreamNViol || f = Reg.tdfeStreamSegCount || f = Reg.tdfeStreamViolated) ∧
      rd s Reg.tdfeInfoStreams 0 ≤ i then some .silent
  else if (f = Reg.tdfeSegLo || f = Reg.tdfeSegHi || f = Reg.tdfeSegLimit) ∧ rd s Reg.tdfeInfoStreams 0 ≤ i / 32 then some .silent
  else if f = Reg.bankPartSaveLot ∧ s.yards.ctxs.any (fun c => c.1 / 32 == i && c.2.res == .saved) then some .permission
  else if (f = Reg.cableCeilingCw || f = Reg.cableFaultMj) ∧ rdLive s f i < v then some .silent
  else if f = Reg.healthScoreCfgSuspectOff ∧ rd s Reg.healthScoreCfgSuspectOn 0 ≤ v then some .silent
  else if f = Reg.healthScoreCfgSuspectOn ∧ v ≤ rd s Reg.healthScoreCfgSuspectOff 0 then some .silent
  else none

/-- The value a field stores of what is written: bases drop their reserved bits (R13). -/
def stored (f : Fld) (v : Nat) : Nat :=
  if f = Reg.fapiRingReqBase || f = Reg.fapiRingIndBase then v / 64 * 64
  else if f = Reg.fapiRingIndDataBase then v / 4096 * 4096
  else if f = Reg.fabVfPeerBase then v % 2 ^ 39 / 8 * 8
  else if f = Reg.fabVfMcastBase then v % 2 ^ 39 / 256 * 256
  else if f = Reg.crusherGrpBase then v % 2 ^ 39 / 32 * 32
  else v

/-- Write one field instance by its access code (Table 00.3); a value outside the field's range is discarded. A field of several
bits with code RW1C clears when all ones are written. -/
def writeField (s : State) (f : Fld) (i lo n data : Nat) : State :=
  let old := rd s f i
  let v := merged (fldKey f i) f.width lo n data old
  if f.own ∧ f ≠ Reg.secMrExtendValue then s
  else match f.acc with
    | .ro => s
    | .rws => s
    | .wo => if f = Reg.secMrExtendValue then wr s f i v else s
    | .rw1c =>
      (match closedTo s f i v with
        | some _ => s
        | none =>
          let ones := merged (fldKey f i) f.width lo n data 0
          if ones = 2 ^ f.width - 1 then wr s f i 0 else s)
    | _ =>
      match closedTo s f i v with
      | some .silent => s
      | some .permission => logErr s 0 .permission 0 0 (fldKey f i / 32 * 4)
      | none => if f.lo ≤ v ∧ v ≤ f.hi then wr s f i (stored f v) else s

/-- Unmasking an MSI-X vector of a VF sends its pending message (R398). -/
def flushMsix (s : State) (fn : Nat) : State :=
  let due := s.ten.pendBits.filter (fun k => k / 64 = fn ∧ rd s Reg.vfMsixMask (4096 * fn + k % 64) = 0)
  due.foldl (fun s k => emit s (.msix fn (k % 64)))
    { s with ten := { s.ten with pendBits := s.ten.pendBits.filter (fun k => !due.contains k) } }

/-- Write every field that bits [lo, lo + n) cover. -/
def writeBits (s : State) (lo n data : Nat) : State :=
  regTable.foldl (fun s f => (hits f lo n).foldl (fun s i => writeField s f i lo n data) s) s

/-- A write of CQ_HEAD, the one plain read-write register of a queue block beside its rows (Table 05.2). -/
def writeCqHead (s : State) (fn addr n data : Nat) : State :=
  (List.range (n / 32)).foldl (fun s w =>
    let a := addr + 4 * w
    if 0x1000 ≤ a ∧ a < 0x2000 ∧ a % 64 = 0x28 then
      let k := qKey fn ((a - 0x1000) / 64)
      putQ s k { getQ s k with cqHead := bitsOf data (32 * w) 12 }
    else s) s

/-! ### Comparator groups (R274) -/

/-- The committed group of a comparator. -/
def trigGroup (s : State) (k : Nat) : TrigGroup :=
  { compareNs := rdLive s Reg.trigCompareNs k, periodNs := rdLive s Reg.trigPeriodNs k, action := rdLive s Reg.trigAction k,
    target := rdLive s Reg.trigTarget k }

/-- Put a group in force. -/
def setTrig (s : State) (k : Nat) (g : TrigGroup) : State :=
  let s := wrLive (wrLive s Reg.trigCompareNs k g.compareNs) Reg.trigPeriodNs k g.periodNs
  wrLive (wrLive s Reg.trigAction k g.action) Reg.trigTarget k g.target

/-- Apply a group, at once: the commit bit, which read 1 while the group waited, reads 0 (R14). -/
def applyTrig (s : State) (k : Nat) (g : TrigGroup) : State :=
  setTrig (wr { s with clock := { s.clock with trigNext := mapErase s.clock.trigNext k, trigFired := mapErase s.clock.trigFired k } }
    Reg.trigCommit k 0) k g

/-- A disarmed comparator takes its group at once, so one that is disarmed while a group waits takes it now. -/
def settleTrig (s : State) : State :=
  s.clock.trigNext.foldl (fun s e => if rdB s Reg.trigArmed e.1 then s else applyTrig s e.1 e.2) s

/-- PF0 offsets of the units that no VF reaches: fronthaul and cells, Sieve, Chisel cores, TD front end and chirp engine (R21). -/
def radioBlock (addr : Nat) : Bool := 0x800000 ≤ addr && addr < 0xC00000

/-- A write of PF0. -/
def pfWrite (s : State) (a n d : Nat) : State :=
  if !reachable s a then logErr s 0 .notReady 0 0 a
  else match pfClosed s a with
    | some st => logErr s 0 st 0 0 a
    | none =>
      if 0xB00000 ≤ a ∧ a < 0xB10000 ∧ rdB s Reg.caps1Tdfe 0 = false then logErr s 0 .noUnit 0 0 a
      else settleTrig (writeCqHead (writeBits s (barBit 0 a) n d) 0 a n d)

/-- A write of a VF: beyond its BAR0 it is discarded, and logged in the VF's own log where it names a radio unit (R21). -/
def vfWrite (s : State) (f a n d : Nat) : State :=
  if !fnPresent s f then s
  else if 0x10000 ≤ a then (if radioBlock a then logErr s f .permission 0 0 a else s)
  else flushMsix (writeCqHead (writeBits s (barBit f a) n d) f a n d) f

/-- REGISTER_WRITE (R14): a 32-bit or 64-bit write to BAR0 of PF0 (fn = 0) or of a VF. -/
def execRegisterWrite (fn : Fin 513) (addr : BitVec 32) (wide : Bool) (data : BitVec 64) (s : State) : Ans :=
  let n := if wide then 64 else 32
  let a := addr.toNat / (n / 8) * (n / 8)
  let d := data.toNat % 2 ^ n
  .next (if fn.val = 0 then pfWrite s a n d else vfWrite s fn.val a n d)

/-! ### Absent windows and stopped clocks -/

/-- BENCH_WINDOW_ABSENT_ACCESS (R6): reads return all ones, writes are discarded, and NO_UNIT is logged. -/
def execBenchWindowAbsentAccess (bench : BitVec 5) (off : BitVec 16) (write : Bool) (s : State) : Ans :=
  if bench.toNat < benchCount s then .next s
  else
    let s := logErr s 0 .noUnit 0 0 (0x200000 + bench.toNat * 0x10000 + off.toNat)
    .next (if write then s else emit s (.regData [0xFFFFFFFF]))

/-- NOT_CLOCKED_PROXY_ACCESS (R110, R259): a stopped domain reads all ones, discards writes and logs NOT_CLOCKED, and stays stopped;
a running one is held running while the access completes. -/
def execNotClockedProxyAccess (addr : BitVec 32) (write : Option (BitVec 32)) (s : State) : Ans :=
  let a := addr.toNat
  .next (match domainRuns s a with
    | none => s
    | some _ =>
      match write with
      | none => let r := readWord s 0 a; emit r.1 (.regData [r.2])
      | some d => pfWrite s a 32 d.toNat)

/-! ### Share windows and refresh -/

/-- GALLERY_SHARE_WINDOW (R18): every router output's class R count restarts. -/
def execGalleryShareWindow (s : State) : Ans := .next { s with mem := { s.mem with galleryR := [] } }

/-- CHANNEL_SHARE_WINDOW (R167): every channel's class R count restarts. -/
def execChannelShareWindow (s : State) : Ans := .next { s with mem := { s.mem with chanR := [] } }

/-- REFRESH (R166): the stack refreshes its next bank, ahead of every class; only timing changes, and the model counts it. -/
def execRefresh (stack : BitVec 2) (s : State) : Ans :=
  .next { s with mem := { s.mem with refreshed := mapMod s.mem.refreshed stack.toNat 0 (· + 1) } }

/-- One stack's refresh rate after its hottest sensor is read: halved interval from 85 °C, normal again below 83 °C (R166). -/
def hotAfter (was : Bool) (t : Int) : Bool := if 85 ≤ t then true else if t < 83 then false else was

/-- REFRESH_TEMP_READ (R166): every stack's hottest sensor is read. -/
def execRefreshTempRead (t0 t1 t2 t3 : BitVec 8) (s : State) : Ans :=
  let ts := [t0, t1, t2, t3]
  let hot := rd s Reg.memRefreshHot 0
  let bits := (List.range 4).filter (fun i => hotAfter (bitOf hot i) (ts.getD i 0).toInt)
  let s := (List.range 4).foldl (fun s i => wr s Reg.memTempStack i (ts.getD i 0).toNat) s
  .next (wr s Reg.memRefreshHot 0 (ofBitList bits))

end Sys2Proof.Machine
end

