-- ==== Sys2Proof/Machine/Ports.lean ====
section
/-! DEFINITION. A Chisel core as the rest of the device sees it: registers and data memories (R303, R306), events (R315), and its
completion and mailbox rings (R324). -/

namespace Sys2Proof.Machine

/-- A Chisel core at start: zero registers but STATUS.loop_en (R306). -/
def Core.zero : Core :=
  { regs := [], mem := [], pc := 0, bundle := 0, pend := [], stores := [], mid := false, delay := 0, target := none, rti := false,
    loopTo := none, waitMask := none, waitNs := 0, stall := none, cqWait := [], tnowHi := 0, cycleHi := 0, startNs := 0, wdogNs := 0,
    tcmpArmed := false, faultNs := [] }

/-- A core. -/
def getCore (s : State) (n : Nat) : Core := mapGet s.cores n Core.zero

/-- Store a core. -/
def putCore (s : State) (n : Nat) (c : Core) : State := { s with cores := mapSet s.cores n c }

/-- Value a core register holds at start. -/
def coreRst (key : Nat) : Nat := if key = 0x28 then 2 else 0

/-- Width of a core register (Tables 11.2 and 11.5). -/
def coreWidth (key : Nat) : Nat :=
  if 0x200 ≤ key then 512
  else if 0x18 ≤ key ∧ key ≤ 0x1A then 16
  else if 0x1C ≤ key ∧ key ≤ 0x22 then 17
  else if key = 0x28 ∨ key = 0x2A then 3
  else if key = 0x39 ∨ key = 0x3D then 4
  else if key = 0x44 then 21
  else if key = 0x45 then 2
  else if key = 0x46 then 17
  else 32

/-- Read a core register: G0 reads zero. -/
def Core.reg (c : Core) (key : Nat) : Nat := if key = 0x100 then 0 else mapGet c.regs key (coreRst key)

/-- Write a core register: G0 ignores writes. -/
def Core.setReg (c : Core) (key v : Nat) : Core :=
  if key = 0x100 then c else { c with regs := mapPut c.regs key (v % 2 ^ coreWidth key) (coreRst key) }

/-- Address lies in X or Y data memory (Table 11.1). -/
def inX (a : Nat) : Bool := 0x100000 ≤ a && a < 0x140000
def inY (a : Nat) : Bool := 0x200000 ≤ a && a < 0x240000

/-- Bytes of a core's memory. -/
def Core.bytes (c : Core) (a n : Nat) : List Byte := (List.range n).map (fun i => mapGet c.mem (a + i) 0)

/-- Store bytes in a core's memory. -/
def Core.store (c : Core) (a : Nat) (bs : List Byte) : Core :=
  match bs with
  | [] => c
  | b :: t => Core.store { c with mem := mapPut c.mem a b 0 } (a + 1) t

/-- A core runs: RUNNING or WAITING. -/
def coreRuns (s : State) (n : Nat) : Bool := rd s Reg.chiselCoreState n == 2 || rd s Reg.chiselCoreState n == 3

/-- A core as its image starts it: sections, zeros elsewhere, zero registers, the entry (R306, R327). -/
def Core.start (im : L1Image) (t : Nat) (faults : List Nat) : Core :=
  { ((Core.zero.store 0 im.imem).store 0x100000 im.x).store 0x200000 im.y with pc := im.entry, startNs := t, wdogNs := t, faultNs := faults }

/-- Set event bits of a core (R315). -/
def Core.event (c : Core) (bits : Nat) : Core := c.setReg 0x30 (c.reg 0x30 ||| bits)

/-- Show a core's live registers (Table 11.10). -/
def showCore (s : State) (n : Nat) : State :=
  wr (wr s Reg.chiselCoreLivePc n (getCore s n).pc) Reg.chiselCoreLiveEv n ((getCore s n).reg 0x30)

/-- An event reaches a core that runs. -/
def coreEvent (s : State) (n bit : Nat) : State :=
  if coreRuns s n then showCore (putCore s n ((getCore s n).event (2 ^ bit))) n else s

/-- Entries of a ring from its length register, none where it is not 2 to 12. -/
def ringLen (l : Nat) : Option Nat := if 2 ≤ l ∧ l ≤ 12 then some (2 ^ l) else none

/-- Write an entry of a core's ring whose registers start at `base` (CQB or MBB), if it has room. -/
def Core.ringPut (c : Core) (base size : Nat) (bs : List Byte) : Option Core :=
  match ringLen (c.reg (base + 1)) with
  | none => none
  | some n =>
    let t := c.reg (base + 3) % n
    if (t + 1) % n = c.reg (base + 2) % n then none
    else
      let a := c.reg base + size * t
      let c := if inY a && inY (a + size - 1) then c.store a bs else c
      some (c.setReg (base + 3) ((t + 1) % n))

/-- Write the waiting completion entries that the ring now takes (R324). -/
def Core.drainCq (c : Core) (fuel : Nat) : Core :=
  match fuel, c.cqWait with
  | 0, _ => c
  | _, [] => c
  | n + 1, e :: t =>
    match c.ringPut 0x38 16 (leBytes 16 e) with
    | none => c
    | some c' => Core.drainCq ({ c' with cqWait := t }.event 8) n

/-- A completion entry (R324) for a core that has not faulted since the post: written, or kept until the ring has room. -/
def coreComplete (s : State) (n port : Nat) (st : Status) (tag aux : Nat) : State :=
  if !coreRuns s n then s else
  let e := port + st.code * 2 ^ 8 + tag % 2 ^ 16 * 2 ^ 16 + aux % 2 ^ 32 * 2 ^ 32 + now s % 2 ^ 64 * 2 ^ 64
  let c := getCore s n
  let c := ({ c with cqWait := c.cqWait ++ [e] }).drainCq (c.cqWait.length + 1)
  showCore (putCore s n (if c.cqWait = [] then c else c.event 16)) n

/-- Deliver a mailbox message: the state after, or none where the target's ring is full or disabled. -/
def mboxDeliver (s : State) (target sender : Nat) (bs : List Byte) : Option State :=
  if !coreRuns s target then none else
  match (getCore s target).ringPut 0x3C 64 (BitVec.ofNat 8 sender :: bs.drop 1) with
  | none => none
  | some c => some (showCore (putCore s target (c.event 32)) target)

end Sys2Proof.Machine
end

