-- ==== Sys2Proof/Machine/StepQueue.lean ====
section
/-! DEFINITION. Step queues, steps and host tally writes (rows SQ_TAIL to TALLY_SET): queue configuration and doorbells (R113-R117),
starting a step (R116, R118-R120), reading its commands (R121, R124-R126), and completing it (R140-R143, R146). -/

namespace Sys2Proof.Machine

/-! ### Queue blocks -/

/-- Entries of the submission ring and of the completion ring. -/
def Queue.sqLen (q : Queue) : Nat := 2 ^ q.sqLog
def Queue.cqLen (q : Queue) : Nat := 2 ^ q.cqLog

/-- Unstarted published entries. -/
def Queue.depth (q : Queue) : Nat := (q.sqTail + q.sqLen - q.sqHead % q.sqLen) % q.sqLen

/-- Keep the doorbells of the first `n` unstarted entries. -/
def keepBells (n : Nat) (bs : List (Nat × Nat)) : List (Nat × Nat) :=
  match bs with
  | [] => []
  | b :: t => if n = 0 then [] else if n ≤ b.1 then [(n, b.2)] else b :: keepBells (n - b.1) t

/-- One entry starts: the oldest doorbell has one entry less. -/
def popBell (bs : List (Nat × Nat)) : List (Nat × Nat) :=
  match bs with
  | [] => []
  | b :: t => if b.1 ≤ 1 then t else (b.1 - 1, b.2) :: t

/-- A queue that enters DISABLED: heads and tails are 0 (R115). -/
def Queue.disable (q : Queue) : Queue :=
  { q with state := .disabled, enable := false, sqHead := 0, sqTail := 0, cqHead := 0, cqTail := 0, bells := [] }

/-- Register offset of a queue register in BAR0, for the error log. -/
def queueOff (q off : Nat) : Nat := 0x1000 + 64 * q + off

/-- SQ_TAIL (R115): a value beyond the ring is discarded and logged with BAD_FORMAT; otherwise the entries up to it are published, or
kept while the queue does not run. -/
def execSqTail (fn : Fin 513) (q : BitVec 6) (value : BitVec 32) (s : State) : Ans :=
  if !fnPresent s fn then .next s else
  let k := qKey fn q.toNat
  let x := getQ s k
  let v := value.toNat % 4096
  if x.sqLen ≤ v then
    .next (logErr (putQ s k { x with lastStatus := .badFormat }) fn .badFormat 0 0 (queueOff q.toNat 0x20))
  else
    let y := { x with sqTail := v }
    let kept := keepBells y.depth x.bells
    let left := y.depth - (kept.map (·.1)).sum
    .next (putQ s k { y with bells := if left = 0 then kept else kept ++ [(left, now s)] })

/-- QUEUE_ENABLE (R114): only a DISABLED queue is enabled, after its configuration is checked. -/
def execQueueEnable (fn : Fin 513) (q : BitVec 6) (s : State) : Ans :=
  if !fnPresent s fn then .next s else
  let k := qKey fn q.toNat
  let x := getQ s k
  .next (match x.state with
    | .running => s
    | .disabled =>
      if 2 ≤ x.sqLog ∧ x.sqLog ≤ 12 ∧ 2 ≤ x.cqLog ∧ x.cqLog ≤ 12 ∧ x.prio ≠ 3 then
        putQ s k { x with enable := true, state := .running, sqHead := 0, cqHead := 0, cqTail := 0, phase := true }
      else putQ s k { x with lastStatus := .badFormat }
    | _ => logErr (putQ s k { x with lastStatus := .permission }) fn .permission 0 0 (queueOff q.toNat 0x18))

/-- QUEUE_DISABLE (R117): a RUNNING queue stops after the step in flight; an ERROR queue is DISABLED at once. -/
def execQueueDisable (fn : Fin 513) (q : BitVec 6) (s : State) : Ans :=
  if !fnPresent s fn then .next s else
  let k := qKey fn q.toNat
  let x := getQ s k
  .next (match x.state with
    | .running => putQ s k (if x.busy then { x with enable := false, state := .stopping } else x.disable)
    | .error => putQ s k x.disable
    | _ => s)

/-- A queue configuration register after a write (Table 05.2). -/
def Queue.config (x : Queue) (reg : QReg) (v : Nat) : Queue :=
  match reg with
  | .sqBase => { x with sqBase := bitsOf v 6 42 }
  | .cqBase => { x with cqBase := bitsOf v 6 42 }
  | .qCfg => { x with sqLog := bitsOf v 0 4, cqLog := bitsOf v 4 4, sqHost := bitOf v 8, cqHost := bitOf v 9, prio := bitsOf v 10 2,
                      msix := bitsOf v 12 6, stopOnError := bitOf v 18 }
  | .qPasid => { x with pasid := bitsOf v 0 20 }

/-- Offset of a queue configuration register. -/
def qregOff : QReg → Nat
  | .sqBase => 0 | .cqBase => 8 | .qCfg => 0x10 | .qPasid => 0x14

/-- QUEUE_CONFIG_WRITE (R114): applied only while the queue is DISABLED, else discarded and logged with PERMISSION. -/
def execQueueConfigWrite (fn : Fin 513) (q : BitVec 6) (reg : QReg) (value : BitVec 64) (s : State) : Ans :=
  if !fnPresent s fn then .next s else
  let k := qKey fn q.toNat
  let x := getQ s k
  .next (if x.state = .disabled then putQ s k (x.config reg value.toNat)
    else logErr s fn .permission 0 0 (queueOff q.toNat (qregOff reg)))

/-! ### Completion entries -/

/-- A completion entry (Table 05.11). -/
def completionBytes (phase : Bool) (st : Status) (first sqIndex stepId assay endNs : Nat) : List Byte :=
  leBytes 1 (bit01 phase + 0x10) ++ leBytes 1 st.code ++ leBytes 2 first ++ leBytes 2 sqIndex ++ leBytes 2 0 ++
    leBytes 8 stepId ++ leBytes 8 assay ++ leBytes 8 endNs

/-- A step status is failing when it is neither OK nor ACC_OVERFLOW (R142). -/
def stepFails (st : Status) : Bool := st != .ok && st != .accOverflow

/-- Show a function's admitted steps and collectives in flight (VF_CTL, Table 15.10). -/
def showFn (s : State) (f : Nat) : State :=
  let s := wr s Reg.vfCtlStepsInflight f (s.work.steps.filter (fun e => e.1 / 64 == f)).length
  wr s Reg.vfCtlCollsInflight f (s.crush.colls.filter (fun e => e.2.fn == f)).length

/-- Write a step's completion entry and let its queue go on: the vector, ERROR under stop_on_error, DISABLED after STOPPING
(R116, R117, R143). An entry that cannot be written puts the queue in ERROR. -/
def completeStep (s : State) (f q : Nat) (st : Status) (first sqIndex stepId assay endNs : Nat) (notify : Bool) : State :=
  let k := qKey f q
  let x := getQ s k
  let bytes := completionBytes x.phase st first sqIndex stepId assay endNs
  match spaceWrite s f x.cqHost x.pasid (x.cqBase * 64 + 32 * x.cqTail) bytes with
  | (s, some bad) => putQ s k { x with busy := false, state := .error, lastStatus := bad }
  | (s, none) =>
    let tail := (x.cqTail + 1) % x.cqLen
    let y := { x with cqTail := tail, phase := if tail = 0 then !x.phase else x.phase, steps := (x.steps + 1) % 2 ^ 32,
                      lastStatus := st, busy := false }
    let y := if y.state = .stopping then y.disable
      else if y.state = .running ∧ stepFails st ∧ y.stopOnError then { y with state := .error } else y
    let s := putQ s k y
    if notify ∨ stepFails st then raiseMsix s f x.msix else s

/-! ### Starting a step -/

/-- What the checks of R120 find in a step entry: a status where one fails. -/
def entryCheck (e : Nat) : Option Status :=
  if bitsOf e 0 4 ≠ 1 then some .badVersion
  else if bitsOf e 8 56 ≠ 0 ∨ bitsOf e 320 192 ≠ 0 ∨ bitsOf e 176 16 ≠ 0 ∨ bitsOf e 240 16 ≠ 0 ∨ bitsOf e 128 48 % 64 ≠ 0 ∨
      bitsOf e 192 48 % 32 ≠ 0 ∨ (bitOf e 7 = false ∧ bitsOf e 256 64 ≠ 0) then some .badFormat
  else none

/-- What the checks of R120 find in an image header. -/
def headerCheck (s : State) (h : Nat) : Option Status :=
  let mism (v own : Nat) : Bool := v != 0 && v != own
  if bitsOf h 0 4 ≠ 1 ∨ mism (bitsOf h 128 64) (rd s Reg.detSignatureSignature 0) ∨
      mism (bitsOf h 192 8) (rd s Reg.archVerGeneration 0) ∨ mism (bitsOf h 200 8) (rd s Reg.archVerMajor 0) then some .badVersion
  else
    let vb := bitsOf h 8 6
    let len := bitsOf h 64 32
    if bitsOf h 4 4 ≠ 0 ∨ bitsOf h 14 18 ≠ 0 ∨ bitsOf h 48 16 ≠ 0 ∨ bitsOf h 96 32 ≠ 0 ∨ bitsOf h 208 304 ≠ 0 ∨ vb = 0 ∨ 32 < vb ∨
        bitsOf h 32 16 = 0 ∨ len % 64 ≠ 0 ∨ len = 0 ∨ 2 ^ 24 < len then some .badFormat
    else none

/-- A writable range of a function's space translates. -/
def spaceOk (s : State) (f : Nat) (host : Bool) (pasid a n : Nat) : State × Bool :=
  if host then (s, hostOk s pasid a n)
  else match translate s f a n true with
    | (s, .ok _) => (s, true)
    | (s, .error _) => (s, false)

/-- Read and check a step entry and its image header; the admitted step, or the status that refuses it with the entry's step_id
and notify (R116, R120). Where both fail, the entry's status is given: it is checked whole, ver before the rest, before the header is read
(DESIGN CHOICE: R120 gives no order between the two). -/
def openStep (s : State) (f : Nat) (x : Queue) : State × Except (Status × Nat × Bool) StepSt :=
  match spaceRead s f x.sqHost x.pasid (x.sqBase * 64 + 64 * x.sqHead) 64 with
  | (s, .error st) => (s, .error (st, 0, false))
  | (s, .ok bs) =>
    let e := leNat bs
    let id := bitsOf e 64 64
    let notify := bitOf e 6
    match entryCheck e with
    | some st => (s, .error (st, id, notify))
    | none =>
      let img := bitsOf e 128 48
      match spaceRead s f (bitOf e 4) x.pasid img 64 with
      | (s, .error st) => (s, .error (st, id, notify))
      | (s, .ok hb) =>
        let h := leNat hb
        match headerCheck s h with
        | some st => (s, .error (st, id, notify))
        | none =>
          match spaceOk s f (bitOf e 5) x.pasid (bitsOf e 192 48) (32 * bitsOf h 32 16) with
          | (s, false) => (s, .error (.translationFault, id, notify))
          | (s, true) =>
            (s, .ok { stepId := id, imageHost := bitOf e 4, imageAddr := img, recordHost := bitOf e 5, recordAddr := bitsOf e 192 48,
                      notify := notify, assayCheck := bitOf e 7, expected := bitsOf e 256 64, sqIndex := x.sqHead, entry := e,
                      vbCount := bitsOf h 8 6, cmdCount := bitsOf h 32 16, imageLen := bitsOf h 64 32, nextPos := 64, nextIdx := 0,
                      failing := false, cut := false, admitNs := now s, lastNs := now s })

/-- The conditions of R116 under which a queue starts its next step, the function being one whose steps are admitted (R407). -/
def stepReady (s : State) (f : Nat) (x : Queue) : Bool :=
  rd s Reg.powerStatState 0 < 2 && fnActive s f && x.state == .running && x.sqHead != x.sqTail && !x.busy && (x.cqTail + 1) % x.cqLen != x.cqHead

/-- STEP_START (R116): the step entry and the image header are read and checked, and the step is admitted or completed at once. -/
def execStepStart (fn : Fin 513) (q : BitVec 6) (s : State) : Ans :=
  let f := fn.val
  let k := qKey f q.toNat
  let x := getQ s k
  if stepReady s f x = false then .next s else
  let y := { x with sqHead := (x.sqHead + 1) % x.sqLen, busy := true, bells := popBell x.bells }
  let s := putQ s k y
  .next (match openStep s f x with
    | (s, .ok st) => showFn (putStep s k st) f
    | (s, .error (st, id, notify)) => completeStep s f q.toNat st 0xFFFF x.sqHead id 0 (now s) notify)

/-! ### Reading commands -/

/-- The header checks 1 and 2 of R126 on a command's bytes. -/
def headerBad (c : Cmd) (vbCount : Nat) : Option Status :=
  if c.ver ≠ 1 then some .badVersion
  else
    let waitBad := (List.range 4).any (fun i =>
      if i < c.nWait then c.f (74 + 64 * i) 22 != 0 else c.f (64 + 64 * i) 64 != 0)
    let sigBad := (List.range 4).any (fun i =>
      if i < c.nSignal then c.f (330 + 32 * i) 6 != 0 || c.f (336 + 32 * i) 16 == 0 else c.f (320 + 32 * i) 32 != 0)
    let op := c.opcode
    let lenBad :=
      if op = 1 then c.bodyLen != 1 + cdiv (c.b 110 4 + 1) 2
      else if op = 2 then c.bodyLen != 2
      else if op = 3 ∨ op = 6 then c.bodyLen != 1
      else c.bodyLen == 0
    if c.f 12 4 ≠ 0 ∨ c.f 47 17 ≠ 0 ∨ c.f 448 64 ≠ 0 ∨ 4 < c.nWait ∨ 4 < c.nSignal ∨ waitBad ∨ sigBad ∨ op = 0 ∨ 6 < op ∨ lenBad ∨
        vbCount ≤ c.vbench ∨ ((op = 4 ∨ op = 6) ∧ c.vbench ≠ 0) then some .badFormat
    else none

/-- A command with nothing staged. -/
def Cmd.fresh (o : Owner) (idx raw len : Nat) : Cmd :=
  { owner := o, idx := idx, raw := raw, len := len, st := .waiting, seq := 0, bench := 0, held := false, snap := none,
    writes := [], wpages := [], rpages := [],
    discard := [], ranges := [], srcRuns := [], dstRuns := [], chain := [], regSeq := 0, tokens := 0, lent := 0,
    checked := false, waited := false, hostPaid := 0, mute := false, extra := false, buf := [], awaits := [], dramWrites := [], status := .ok, accFlags := 0, hasOut := false, assay := 0,
    kills := 0, commitNs := 0, fault := 0 }

/-- The bench that radio holds for a command's slot tag and position notes when the command ended (R367). -/
def noteRadioEnd (s : State) (c : Cmd) : State :=
  let x := getBench s c.bench
  match c.owner, x.hold with
  | .radio _ t p, some h => if h.slotTag = t ∧ h.pos = p then putBench s c.bench { x with hold := some { h with lastNs := now s } } else s
  | _, _ => s

/-- A radio command ends: its completion entry is written to the posting core (R324), unless the core has faulted since (R326). -/
def endRadio (s : State) (cid : Nat) (c : Cmd) (st : Status) : State :=
  let s := noteRadioEnd (dropCmd s cid) c
  match c.owner with
  | .queue _ _ => s
  | .radio n _ _ => if c.mute then s else coreComplete s n 1 st c.tag 0

/-- A command has an output in the sense of its record: it completed with OK or ACC_OVERFLOW (Table 05.10). -/
def givesOutput (st : Status) : Bool := st == .ok || st == .accOverflow

/-- One command completes: its final status, the time, and the failing mark of its step (R141). Its shadows are released (R82), and it shows
an output and an assay only where Table 05.10 gives them. -/
def finishOne (s : State) (cid : Nat) (c : Cmd) (st : Status) (fault : Nat) : State :=
  let s := releaseFrames s c c.shadows
  let s := putCmd s cid { c with st := .done, status := st, fault := fault, held := false, snap := none, writes := [], wpages := [],
                                 rpages := [], discard := [], ranges := [], srcRuns := [], dstRuns := [], buf := [], awaits := [],
                                 dramWrites := [], hasOut := c.hasOut && givesOutput st, assay := if givesOutput st then c.assay else 0 }
  match c.owner.stepKey with
  | none => endRadio s cid c st
  | some k =>
    match getStep s k with
    | none => s
    | some x => putStep s k { x with lastNs := now s, failing := x.failing || st.failing }

/-- The members of an open chain complete with one status and no signals, and the bank has no members left to complete. -/
def endMembers (s : State) (key bank : Nat) (members : List Nat) (st : Status) : State :=
  let x := getCtx s key
  let s := if (x.bank bank).members = [] then s else putCtx s key (x.setBank bank { x.bank bank with members := [] })
  members.foldl (fun s m =>
    match getCmd s m with
    | none => s
    | some c => if c.st = .done then s else finishOne s m c st 0) s

/-- A command completes. All members of a chain complete with the closing command's status (R71), so one that fails before its commit
completes the open chain it would have closed. -/
def finish (s : State) (cid : Nat) (c : Cmd) (st : Status) (fault : Nat) : State :=
  let s := finishOne s cid c st fault
  if c.closer ∧ givesOutput st = false ∧ c.st ≠ .committing then
    endMembers s (cmdCtx c) (c.b 106 1) (c.chain ++ ((getCtx s (cmdCtx c)).bank (c.b 106 1)).members) st
  else s

/-- Add a command that has been read, completed at once with a status where one is given: no later command of its step is read, and
the earlier ones go on (R126). -/
def addCmd (s : State) (c : Cmd) (bad : Option (Status × Nat)) : State :=
  let cid := s.work.nextCid
  let s := { s with work := { s.work with nextCid := cid + 1 } }
  match bad with
  | none => putCmd s cid c
  | some (st, fault) =>
    match c.owner.stepKey with
    | none => finish (putCmd s cid c) cid c st fault
    | some k =>
      let s := putCmd s cid { c with st := .done, status := st, fault := fault }
      match getStep s k with
      | none => s
      | some x => putStep s k { x with cut := true, lastNs := now s }

/-- Read the next command of an admitted step, in image order, and check its header (R121, R126). -/
def readNext (s : State) (f q : Nat) (x : StepSt) : State :=
  let k := qKey f q
  let o := Owner.queue f q
  let pasid := (getQ s k).pasid
  let at_ := x.imageAddr + x.nextPos
  let go (s : State) (c : Cmd) (bad : Option (Status × Nat)) : State :=
    addCmd (putStep s k { x with nextIdx := x.nextIdx + 1, nextPos := x.nextPos + c.len }) c bad
  if x.imageLen < x.nextPos + 64 then go s (Cmd.fresh o x.nextIdx 0 64) (some (.badFormat, 0))
  else match spaceRead s f x.imageHost pasid at_ 64 with
    | (s, .error st) => go s (Cmd.fresh o x.nextIdx 0 64) (some (st, at_))
    | (s, .ok hb) =>
      let h := leNat hb
      let len := 64 + 64 * bitsOf h 32 4
      let short := x.imageLen < x.nextPos + len
      match spaceRead s f x.imageHost pasid at_ (if short then 64 else len) with
      | (s, .error st) => go s (Cmd.fresh o x.nextIdx h len) (some (st, at_))
      | (s, .ok bs) =>
        let c := Cmd.fresh o x.nextIdx (leNat bs) len
        match headerBad c x.vbCount with
        | some st => go s c (some (st, 0))
        | none => go s c (if short then some (.badFormat, 0) else none)

/-- COMMAND_READ (R121, R126): the next command of an admitted step is read. -/
def execCommandRead (fn : Fin 513) (q : BitVec 6) (s : State) : Ans :=
  match getStep s (qKey fn.val q.toNat) with
  | none => .next s
  | some x =>
    if !fnRuns s fn.val ∨ x.failing ∨ x.cut ∨ x.cmdCount ≤ x.nextIdx then .next s else .next (readNext s fn.val q.toNat x)

/-! ### Completing a step -/

/-- A step's commands that have been read, with their numbers, in image order. -/
def stepCmds (s : State) (f q : Nat) : List (Nat × Cmd) := s.work.cmds.filter (fun e => e.2.owner == .queue f q)

/-- Some command can still close the chain on a bank of a context: a closing SLAB that has issued, or that waits in a step that issues. -/
def closerLeft (s : State) (key bank : Nat) : Bool :=
  s.work.cmds.any (fun e => e.2.closer && cmdCtx e.2 == key && e.2.b 106 1 == bank &&
    (e.2.st == .dispatched || e.2.st == .issued || e.2.st == .requeued ||
      (e.2.st == .waiting && (match e.2.owner.stepKey with
        | none => true
        | some k => match getStep s k with | some x => !x.failing | none => false))))

/-- In a failing step a chain that no command can close any more is given up: its members complete as their closing command does, which
never issues, with NOT_ISSUED (DESIGN CHOICE: R71 and R141 do not say). -/
def settleChains (s : State) (x : StepSt) (es : List (Nat × Cmd)) : State :=
  if !x.failing then s
  else es.foldl (fun s e =>
    if e.2.member && e.2.st == .issued && !closerLeft s (cmdCtx e.2) (e.2.b 106 1) then
      endMembers s (cmdCtx e.2) (e.2.b 106 1) [e.1] .notIssued
    else s) s

/-- A command of a step has its final status: it has completed, or its step is failing and it never issued. -/
def cmdFinal (x : StepSt) (c : Cmd) : Bool := c.st == .done || (x.failing && c.st == .waiting)

/-- Every command of the step has a final status (R143). -/
def stepDone (x : StepSt) (cs : List (Nat × Cmd)) : Bool :=
  (x.cmdCount ≤ x.nextIdx || x.failing || x.cut) && cs.all (fun e => cmdFinal x e.2)

/-- A command record (Table 05.10). -/
def recordBytes (st : Status) (acc : Nat) (out : Bool) (tag kills assay commitNs fault : Nat) : List Byte :=
  leBytes 1 st.code ++ leBytes 1 (acc % 16 + 16 * bit01 out) ++ leBytes 2 tag ++ leBytes 1 (Nat.min kills 255) ++ leBytes 3 0 ++
    leBytes 8 (if out then assay else 0) ++ leBytes 8 commitNs ++
    leBytes 8 (if st = .translationFault ∨ st = .memUe then fault else 0)

/-- The record of a command, NOT_ISSUED where it never issued (R141). -/
def Cmd.record (c : Cmd) : List Byte :=
  if c.st = .done then recordBytes c.status c.accFlags c.hasOut c.tag c.kills c.assay c.commitNs c.fault
  else recordBytes .notIssued 0 false c.tag 0 0 0 0

/-- Tags of `n` commands from an image offset, found along their headers' body_len; 0 where no header lies. -/
def unreadTags (s : State) (f : Nat) (x : StepSt) (pasid pos n : Nat) : List Nat :=
  match n with
  | 0 => []
  | m + 1 =>
    if x.imageLen < pos + 64 then 0 :: unreadTags s f x pasid pos m
    else match (spaceRead s f x.imageHost pasid (x.imageAddr + pos) 64).2 with
      | .error _ => 0 :: unreadTags s f x pasid x.imageLen m
      | .ok hb => bitsOf (leNat hb) 16 16 :: unreadTags s f x pasid (pos + 64 + 64 * bitsOf (leNat hb) 32 4) m

/-- The step status and the command that gives it (R142). -/
def stepStatus (x : StepSt) (cs : List Cmd) (assay : Nat) : Status × Nat :=
  match cs.find? (fun c => c.st == .done && c.status.failing) with
  | some c => (c.status, c.idx)
  | none =>
    if x.assayCheck ∧ assay ≠ x.expected then (.assayMismatch, 0xFFFF)
    else match cs.find? (fun c => c.st == .done && c.status == .accOverflow) with
      | some c => (.accOverflow, c.idx)
      | none => (.ok, 0xFFFF)

/-- The step assay: the assay of the assays of the commands with output (R146). -/
def stepAssay (cs : List Cmd) : Nat :=
  let outs := cs.filter (fun c => c.st == .done && c.hasOut)
  if outs = [] then 0 else crc64 (outs.flatMap (fun c => leBytes 8 c.assay))

/-- Forget a step and its commands. -/
def dropStepCmds (s : State) (f q : Nat) : State :=
  let s := dropStep s (qKey f q)
  { s with work := { s.work with cmds := s.work.cmds.filter (fun e => e.2.owner != .queue f q) } }

/-- STEP_COMPLETION (R143): the step record, then the completion entry, then the vector. A record space that takes no write any more loses
the records, and the completion entry is still written (DESIGN CHOICE: R143 does not say). -/
def execStepCompletion (fn : Fin 513) (q : BitVec 6) (s : State) : Ans :=
  let f := fn.val
  match getStep s (qKey f q.toNat) with
  | none => .next s
  | some x =>
    let s := settleChains s x (stepCmds s f q.toNat)
    let es := stepCmds s f q.toNat
    if stepDone x es = false then .next s else
    let cs := es.map (·.2)
    let pasid := (getQ s (qKey f q.toNat)).pasid
    let tags := unreadTags s f x pasid x.nextPos (x.cmdCount - x.nextIdx)
    let recs := cs.flatMap Cmd.record ++ tags.flatMap (fun t => recordBytes .notIssued 0 false t 0 0 0 0)
    let assay := stepAssay cs
    let v := stepStatus x cs assay
    let s := (spaceWrite s f x.recordHost pasid x.recordAddr recs).1
    let x := match getStep s (qKey f q.toNat) with | some y => y | none => x
    .next (completeStep (showFn (dropStepCmds s f q.toNat) f) f q.toNat v.1 v.2 x.sqIndex x.stepId assay x.lastNs x.notify)

/-! ### Host tally writes -/

/-- TALLY_ADD (R128): adds to a tally of the function whose BAR0 is written, modulo 2^32. -/
def execTallyAdd (fn : Fin 513) (tally : BitVec 10) (value : BitVec 32) (s : State) : Ans :=
  .next (if fnPresent s fn then tallyInc s fn tally.toNat value.toNat else s)

/-- TALLY_SET (R128): replaces a tally of the function whose BAR0 is written. -/
def execTallySet (fn : Fin 513) (tally : BitVec 10) (value : BitVec 32) (s : State) : Ans :=
  .next (if fnPresent s fn then tallyPut s fn tally.toNat value.toNat else s)

end Sys2Proof.Machine
end

