-- ==== Sys2Proof/Machine/Issue.lean ====
section
/-! DEFINITION. How a bench command goes from its stream to its execution, once for every kind: streams and waits (R122, R123), the
unit, rights and quota checks (R126), the bench that serves it (R111), frames (R83), page order (R85), and killing (R137). -/

namespace Sys2Proof.Machine

/-! ### Contexts, spaces and other commands -/

/-- Function index under which a command's tallies lie: its own, or 513 for the radio tallies (R323). -/
def Owner.tallies : Owner → Nat
  | .queue f _ => f
  | .radio _ _ _ => 513

/-- Two commands belong to one stream (R122): of one step, by virtual bench, the Crusher stream or the control stream; of radio, by
slot tag and floor position, or by core for TALLY (R323). -/
def sameStream (a b : Cmd) : Bool :=
  match a.owner, b.owner with
  | .queue f q, .queue g r =>
    f == g && q == r &&
      (if a.opcode = 4 ∨ a.opcode = 6 then a.opcode == b.opcode else b.opcode != 4 && b.opcode != 6 && a.vbench == b.vbench)
  | .radio n t p, .radio m u o =>
    if a.opcode = 6 then b.opcode == 6 && n == m else b.opcode != 6 && t == u && p == o
  | _, _ => false

/-- A command has not issued, or was killed and requeued. -/
def Cmd.inStream (c : Cmd) : Bool := c.st == .waiting || c.st == .requeued

/-- A command has issued and not committed. -/
def Cmd.open_ (c : Cmd) : Bool := c.st == .dispatched || c.st == .issued

/-- A command is a non-killable Skip past dispatch (R106). -/
def Cmd.nk (c : Cmd) : Bool := c.opcode == 3 && c.b 137 1 == 1 && c.open_

/-- Every earlier command of the stream has issued. -/
def streamTurn (s : State) (c : Cmd) : Bool :=
  s.work.cmds.all (fun e => !(e.2.inStream && sameStream c e.2 && e.2.idx < c.idx))

/-- The step of a command still issues (R141), or the command belongs to radio. -/
def stepIssues (s : State) (c : Cmd) : Bool :=
  match c.owner with
  | .radio _ _ _ => true
  | .queue f q =>
    match getStep s (qKey f q) with
    | none => false
    | some x => !x.failing || c.st == .requeued

/-- The issue conditions of R122 and R123 that come before the checks. -/
def streamReady (s : State) (c : Cmd) : Bool :=
  c.inStream && fnRuns s c.owner.fn && stepIssues s c && streamTurn s c &&
    (c.st == .requeued || waitsMet s c.owner.tallies c)

/-- Yard pages of the space a command names: the share its resident context was placed with, the share the function's contexts are
placed with, or the radio lot (R81, R87, R401). -/
def spacePages (s : State) (c : Cmd) : Nat :=
  match c.owner with
  | .radio _ _ _ => 24
  | .queue f _ =>
    let x := getCtx s (ctxKey f c.vbench)
    if x.bench?.isSome then x.pages else yardShare s f

/-- The bench a command can be dispatched to now: its resident context's, ACTIVE, in the tenant role, not switching and not held by
radio; for radio, the bench handed over for its slot tag and position (R111, R323). -/
def benchFor (s : State) (c : Cmd) : Option Nat :=
  match c.owner with
  | .queue f _ =>
    match (getCtx s (ctxKey f c.vbench)).bench? with
    | none => none
    | some b =>
      let x := getBench s b
      if x.sw.isNone && x.hold.isNone && !x.waking && pstate s b == 0 && role s b == 1 then some b else none
  | .radio _ t p =>
    (List.range (benchCount s)).find? (fun b =>
      match (getBench s b).hold with
      | some h => h.ready && h.slotTag == t && h.pos == p && pstate s b == 0
      | none => false)

/-- The bench a dispatched command goes on running on: also within the grace of a context switch (R373). -/
def benchRuns (s : State) (c : Cmd) : Option Nat :=
  match c.owner with
  | .queue f _ =>
    match (getCtx s (ctxKey f c.vbench)).bench? with
    | none => none
    | some b =>
      let x := getBench s b
      let switching := match x.sw with
        | some w => w.phase != .grace
        | none => false
      if !switching && x.hold.isNone && !x.waking && pstate s b == 0 && role s b == 1 then some b else none
  | .radio _ _ _ => benchFor s c

/-- Issued, uncommitted commands of a Yard space other than one. -/
def spaceCmds (s : State) (key cid : Nat) : List (Nat × Cmd) :=
  s.work.cmds.filter (fun e => e.1 != cid && e.2.open_ && (e.2.opcode ≤ 3 || e.2.opcode == 5) && cmdCtx e.2 == key)

/-- Shadow frames held in a Yard space. -/
def shadowsHeld (s : State) (key : Nat) : Nat :=
  ((s.work.cmds.filter (fun e => e.2.open_ && e.2.held && cmdCtx e.2 == key)).map (fun e => e.2.wpages.length)).sum

/-- The write set of R85: pages with shadows, and the pages a DISCARD releases. -/
def Cmd.wset (c : Cmd) : List Nat := c.wpages ++ c.discard

/-- Two page lists meet. -/
def pagesMeet (a b : List Nat) : Bool := a.any (fun p => b.contains p)

/-- A command may not read yet: an earlier-dispatched uncommitted command has a page of its read set in its write set (R85). -/
def readBlocked (s : State) (key cid : Nat) (c : Cmd) : Bool :=
  (spaceCmds s key cid).any (fun e => e.2.seq < c.seq && pagesMeet e.2.wset c.rpages)

/-- A command may not commit yet: an earlier-dispatched uncommitted command has a page of its write set (R85). The members of the chain it
closes commit with it and do not stand in its way (DEDUCED: R85 says that the wait cannot deadlock). -/
def commitBlocked (s : State) (key cid : Nat) (c : Cmd) : Bool :=
  (spaceCmds s key cid).any (fun e => !c.chain.contains e.1 && e.2.seq < c.seq && (pagesMeet e.2.wset c.wset || pagesMeet e.2.rpages c.wset))

/-- Members of the open chain that a closing command closes: they commit with it (R71). -/
def chainOf (s : State) (key : Nat) (c : Cmd) : List Nat :=
  c.chain ++ (if c.closer then ((getCtx s key).bank (c.b 106 1)).members else [])

/-- Another uncommitted command of the space can release a frame at its commit (R83): it holds the shadows it needs, or needs none. The
members of a chain that the command itself closes do not count: they commit only with it (DEDUCED, else the wait has no end). -/
def canRelease (s : State) (key cid : Nat) (c : Cmd) : Bool :=
  (spaceCmds s key cid).any (fun e => !(chainOf s key c).contains e.1 && (e.2.held || e.2.wpages == []))

/-! ### The bench registers that show contexts -/

/-- Recompute what a bench's window shows of its context, frames and chains (Table 04.7). -/
def showBench (s : State) (b : Nat) : State :=
  let x := getBench s b
  let own := match x.ctx with | some k => k / 32 | none => 0
  let key := match x.hold, x.ctx with
    | some _, _ => radioKey b
    | none, some k => k
    | none, none => radioKey b
  let c := getCtx s key
  let frames := if inRotation s b then 168 else 192
  let t := match x.ctx with | some k => getCtx s k | none => Ctx.fresh
  let sh := match x.ctx with | some k => shadowsHeld s k | none => 0
  let s := wr s Reg.benchStateOwner b own
  let s := wr s Reg.benchYardSpacePages b (if x.ctx.isSome then t.pages else 0)
  let s := wr s Reg.benchYardMapped b t.mapped.length
  let s := wr s Reg.benchYardShadows b sh
  let s := wr s Reg.benchYardFree b (frames - t.mapped.length - sh - x.zeroing)
  let s := wr s Reg.benchLive0Chain0 b (Nat.min 255 c.bank0.members.length)
  let s := wr s Reg.benchLive0Chain1 b (Nat.min 255 c.bank1.members.length)
  let s := wr s Reg.benchLive1EW0 b (codeOf c.bank0.ew 10)
  let s := wr s Reg.benchLive1EW1 b (codeOf c.bank1.ew 10)
  let s := wr s Reg.benchLive1Kind0 b (bit01 c.bank0.complex)
  wr s Reg.benchLive1Kind1 b (bit01 c.bank1.complex)

/-! ### Checks common to bench commands (R126) -/

/-- A function's save lot serves: a lot the VF owns in state IDLE, or for PF0 a lot of the manager reserve (R358). -/
def saveLotOk (s : State) (f : Nat) : Bool :=
  let n := rd s Reg.bankPartSaveLot f
  n != 0 && ownsLot s f n

/-- QUOTA at check step 6: an unusable save lot for any command of a function (R358), and for a command that runs on a bench a
bench_max of 0 or a share that no bench can hold (Table 15.3). -/
def quotaBad (s : State) (f : Nat) (bench : Bool) : Bool :=
  !saveLotOk s f ||
    (bench && (rdLive s Reg.bankPartBenchMax f == 0 || (168 < yardShare s f && rd s Reg.bankRotCount 0 == benchCount s)))

/-- QUOTA for a command, by its owner: radio commands are outside partitions. -/
def cmdQuota (s : State) (c : Cmd) (bench : Bool) : Bool := !c.owner.isRadio && quotaBad s c.owner.fn bench

/-- The Yard checks of a command's ranges: the write-set limits give BAD_FORMAT (R83), a byte outside the space TRANSLATION_FAULT
with its offset (R81). -/
def yardCheck (P : Nat) (reads writes : List (Nat × Nat)) : Option (Status × Nat) :=
  if 64 < (pagesOf writes).length ∨ 32768 < (linesOf writes).length then some (.badFormat, 0)
  else match outsideYard P (reads ++ writes) with
    | some a => some (.translationFault, a)
    | none => none

/-- A-clocks in which a bench's Slab, Dresser and Skips stall on the Yard while a command runs: the spec counts them and gives no rule for
how many there are, so their number is a free value. -/
def yardStall (s : State) (b : Nat) : State := bump (drawn s) Reg.benchStallCycCount b (Config.unstated s.free)

/-! ### From the stream to execution -/

/-- What an attempt to execute a dispatched command gives: it still waits, it fails, or it has executed. -/
inductive Ran where
  | wait (s : State) (c : Cmd)
  | fail (s : State) (st : Status) (fault : Nat)
  | ok (s : State) (c : Cmd)

/-- Start a dispatched command: take its frames, wait for its pages, and execute it (R83, R85). -/
def startCmd (s : State) (cid : Nat) (c : Cmd) (run : State → Nat → Cmd → Ran) : State :=
  let key := cmdCtx c
  let free := spacePages s c - (getCtx s key).mapped.length - shadowsHeld s key
  if !c.held && free < c.wpages.length then
    if canRelease s key cid c then putCmd s cid c else showBench (finish s cid c .quota 0) c.bench
  else
    let c := { c with held := true }
    if readBlocked s key cid c then showBench (putCmd s cid c) c.bench
    else match run s cid c with
      | .wait s c => showBench (putCmd s cid c) c.bench
      | .fail s st a => showBench (finish s cid c st a) c.bench
      | .ok s c => showBench (putCmd s cid { c with st := .issued }) c.bench

/-- Two commands run on the engines of one context. -/
def sameEngines (c d : Cmd) : Bool :=
  d.owner.fn == c.owner.fn && d.owner.isRadio == c.owner.isRadio && d.vbench == c.vbench &&
    (match c.owner, d.owner with | .radio _ t p, .radio _ u o => t == u && p == o | _, _ => true)

/-- Class of a command's step (Table 13.2), and when the step was admitted. -/
def cmdRank (s : State) (c : Cmd) : Nat × Nat :=
  match c.owner with
  | .radio _ _ _ => (4, 0)
  | .queue f q => (if f = 0 then 3 else Nat.min 2 (getQ s (qKey f q)).prio, match getStep s (qKey f q) with | some x => x.admitNs | none => 0)

/-- Another ready command of the context is served first by the engines of this kind: a step of a higher class, or of the same class
admitted earlier (R355). -/
def outranked (s : State) (cid : Nat) (c : Cmd) : Bool :=
  s.work.cmds.any (fun e => e.1 != cid && e.2.opcode == c.opcode && sameEngines c e.2 && streamReady s e.2 &&
    (let a := cmdRank s e.2
     let b := cmdRank s c
     b.1 < a.1 || (a.1 == b.1 && a.2 < b.2)))

/-- Issue or start a bench command: `plan` makes its checks and sets its page sets, `free` says whether its engines are free, `run`
executes it. -/
def issueBench (s : State) (cid : Nat) (kind : Cmd → Bool) (plan : State → Cmd → State × Except (Status × Nat) Cmd)
    (free : State → Cmd → Bool) (run : State → Nat → Cmd → Ran) : State :=
  match getCmd s cid with
  | none => s
  | some c =>
    if kind c = false then s
    else if c.st = .dispatched then
      (if (benchRuns s c).isSome then startCmd s cid c run else s)
    else if streamReady s c = false then s
    else if c.owner.isRadio && (benchFor s c).isNone then s
    else match plan s { c with bench := (benchFor s c).getD c.bench } with
      | (s', .error (st, a)) => finish s' cid c st a
      | (s', .ok c') =>
        match benchFor s c with
        | none => s
        | some _ =>
          if free s c' = false ∨ outranked s cid c' = true then s
          else
            let c'' := { c' with st := .dispatched, seq := s.work.nextSeq,
                                 regSeq := if c.ranges = [] then s.work.nextSeq else c.regSeq }
            startCmd { s' with work := { s'.work with nextSeq := s.work.nextSeq + 1 } } cid c'' run

/-- Some command of the context of one kind has been dispatched and has not executed: the Slab takes the next one only then (R72). -/
def engineTaken (s : State) (c : Cmd) (opcode : Nat) : Bool :=
  s.work.cmds.any (fun e => e.2.st == .dispatched && e.2.opcode == opcode && sameEngines c e.2)

/-- Some command of the context of one kind has not committed: its engine is free for the next only when the commit is done (Table
05.9). -/
def engineHeld (s : State) (c : Cmd) (opcode : Nat) : Bool :=
  s.work.cmds.any (fun e => e.2.open_ && e.2.opcode == opcode && sameEngines c e.2)

/-! ### Killing (R137) -/

/-- Put back a bank of a context as it was before a killed SLAB command (R76). -/
def undoBank (x : Ctx) (c : Cmd) : Ctx :=
  match c.snap with
  | none => x
  | some b => if c.b 106 1 = 0 then { x with bank0 := b } else { x with bank1 := b }

/-- Kill one command before its commit: nothing it staged remains, its ranges stay registered, its tokens are refunded, and it goes
back to its stream (R137, R168). -/
def killCmd (s : State) (cid : Nat) (c : Cmd) : State :=
  let x := getCtx s (cmdCtx c)
  let s := putCtx s (cmdCtx c) (undoBank { x with epoch := (x.epoch + 1) % 256 } c)
  let s := { s with fab := { s.fab with unacked := s.fab.unacked.filter (fun e => !(e.2.cid == cid && c.awaits.contains e.1 && !e.2.sent)) } }
  let s := if c.tokens = 0 then s else refundDram s c.owner.fn c.tokens
  let s := releaseFrames s c c.shadows
  putCmd s cid { c with st := .requeued, kills := Nat.min 255 (c.kills + 1), held := false, snap := none, writes := [],
                        wpages := [], rpages := [], discard := [], buf := [], awaits := [], dramWrites := [], accFlags := 0,
                        hasOut := false, assay := 0, chain := [], tokens := 0, lent := 0, waited := false, hostPaid := 0, status := .ok }

/-- Kill a list of commands in order, counting them against a bench. -/
def killAll (s : State) (b : Nat) (cs : List (Nat × Cmd)) : State :=
  bump (cs.foldl (fun s e => killCmd s e.1 e.2) s) Reg.benchKillsCount b cs.length

end Sys2Proof.Machine
end

