-- ==== Sys2Proof/Machine/Skip.lean ====
section
/-! DEFINITION. The SKIP command (R102-R107): its body, spaces and rights, translation at dispatch, registered ranges, overlap and the
non-killable move, DRAM tokens and host metering, and the move itself. -/

namespace Sys2Proof.Machine

/-! ### The body (Table 04.6) -/

/-- A Skip command as its body states it. -/
structure SkipCmd where
  src : Nat
  dst : Nat
  srcSp : Nat
  dstSp : Nat
  dims : Nat
  engines : Nat
  nk : Bool
  zero : Bool
  reserved : Bool
  len0 : Nat
  count1 : Nat
  count2 : Nat
  sstr1 : Nat
  dstr1 : Nat
  sstr2 : Nat
  dstr2 : Nat
  pasid : Nat
  deriving DecidableEq, Repr

/-- Read a Skip body. -/
def skipOf (c : Cmd) : SkipCmd :=
  { src := c.b 0 48, dst := c.b 64 48, srcSp := c.b 128 2, dstSp := c.b 130 2, dims := c.b 132 2, engines := c.b 134 3,
    nk := c.b 137 1 = 1, zero := c.b 138 1 = 1,
    reserved := c.b 48 16 != 0 || c.b 112 16 != 0 || c.b 139 21 != 0 || c.b 468 44 != 0,
    len0 := c.b 160 32, count1 := c.b 192 32, count2 := c.b 224 32, sstr1 := c.b 256 48, dstr1 := c.b 304 48, sstr2 := c.b 352 48,
    dstr2 := c.b 400 48, pasid := c.b 448 20 }

/-- Rows of a transfer as (plane, row) pairs in order. -/
def SkipCmd.rowIdx (x : SkipCmd) : List (Nat × Nat) :=
  let planes := if x.dims = 2 then x.count2 else 1
  let rows := if x.dims = 0 then 1 else x.count1
  (List.range planes).flatMap (fun j => (List.range rows).map (fun i => (j, i)))

/-- Row start addresses on each side, in order of plane, then row. -/
def SkipCmd.srcRows (x : SkipCmd) : List Nat := x.rowIdx.map (fun r => x.src + r.1 * x.sstr2 + r.2 * x.sstr1)
def SkipCmd.dstRows (x : SkipCmd) : List Nat := x.rowIdx.map (fun r => x.dst + r.1 * x.dstr2 + r.2 * x.dstr1)

/-- Bytes moved. -/
def SkipCmd.total (x : SkipCmd) : Nat := x.len0 * (if x.dims = 0 then 1 else x.count1) * (if x.dims = 2 then x.count2 else 1)

/-- A row list as byte ranges; none for a transfer of zero bytes. -/
def SkipCmd.ranges (x : SkipCmd) (rows : List Nat) : List (Nat × Nat) := if x.len0 = 0 then [] else rows.map (fun a => (a, x.len0))

/-! ### Spaces: 0 Yard or radio lot, 1 device DRAM by translation, 2 host, 3 device physical, 4 core-local memory -/

/-- The space a code names: a radio command's 0b01 is the posting core's memory (R323). -/
def skipSpace (c : Cmd) (code : Nat) : Nat := if c.owner.isRadio && code == 1 then 4 else code

/-- PASID of a command's host space: its own field, or FAPI ring pair 0's for radio (R323). -/
def skipPasid (s : State) (c : Cmd) (x : SkipCmd) : Nat := if c.owner.isRadio then rd s Reg.fapiRingPasid 0 else x.pasid

/-- The format checks that need no translation (R102, R103, R106). -/
def SkipCmd.formatBad (x : SkipCmd) (c : Cmd) : Bool :=
  let s1 := skipSpace c x.srcSp
  let d1 := skipSpace c x.dstSp
  let dram (k : Nat) : Bool := k == 1 || k == 3
  x.reserved || x.dims == 3 || x.engines == 0 || 4 < x.engines ||
  (x.dims == 0 && (x.count1 != 0 || x.count2 != 0 || x.sstr1 != 0 || x.dstr1 != 0 || x.sstr2 != 0 || x.dstr2 != 0)) ||
  (x.dims == 1 && (x.count1 == 0 || x.count2 != 0 || x.sstr2 != 0 || x.dstr2 != 0)) ||
  (x.dims == 2 && (x.count1 == 0 || x.count2 == 0)) ||
  (x.zero && (x.src != 0 || x.srcSp != 0 || x.sstr1 != 0 || x.sstr2 != 0)) ||
  (x.pasid != 0 && s1 != 2 && d1 != 2) ||
  (x.nk && (x.zero || x.len0 == 0 || !(dram s1 && dram d1))) ||
  (!x.zero && s1 == 2 && d1 == 2 &&
    (x.ranges x.srcRows).any (fun r => (x.ranges x.dstRows).any (fun t => rangesMeet r t)))

/-- Rights of a physical-space range (R159, R323): a PF0 command may read and write the manager reserve and free lots and read a VF's
ciphertext; a radio command may use radio lots only. -/
def physBad (s : State) (c : Cmd) (write : Bool) (r : Nat × Nat) : Bool :=
  (pieces r.1 r.2 (2 ^ 30)).any (fun p =>
    let o := lotOwnerOf s (lotOf p.1)
    p.1 < dramSize s &&
      (if c.owner.isRadio then o != 0x3FE else o == 0x3FE || o == 0x3FF || (write && 1 ≤ o && o ≤ 512)))

/-- PERMISSION (check step 5): space 0b11 from a VF, or beyond the rights in it. -/
def SkipCmd.rightsBad (s : State) (c : Cmd) (x : SkipCmd) : Bool :=
  let side (space : Nat) (rows : List Nat) (write : Bool) : Bool :=
    space == 3 && ((!c.owner.isRadio && c.owner.fn != 0) || (x.ranges rows).any (physBad s c write))
  (!x.zero && side (skipSpace c x.srcSp) x.srcRows false) || side (skipSpace c x.dstSp) x.dstRows true

/-- Translate the rows of one side to physical runs, row by row (R107); the first failing address. -/
def sideRuns (s : State) (c : Cmd) (space len : Nat) (rows : List Nat) (write : Bool) : State × Except XFault (List (Nat × Nat)) :=
  if len = 0 then (s, .ok [])
  else match space with
    | 1 => rows.foldl (fun acc a => match acc with
        | (s, .error x) => (s, .error x)
        | (s, .ok runs) => match translate s c.owner.fn a len write with
          | (s, .error x) => (s, .error x)
          | (s, .ok more) => (s, .ok (runs ++ more))) (s, .ok [])
    | 3 => (s, if rows.any (fun a => dramSize s < a + len) then
             .error ⟨(rows.find? (fun a => dramSize s < a + len)).elim 0 (fun a => max a (dramSize s)), none, none⟩
           else .ok (rows.map (fun a => (a, len))))
    | _ => (s, .ok [])

/-- Both sides of a Skip, source first. -/
def skipSides (s : State) (c : Cmd) (x : SkipCmd) : State × Except XFault (List (Nat × Nat) × List (Nat × Nat)) :=
  match sideRuns s c (skipSpace c x.srcSp) (if x.zero then 0 else x.len0) x.srcRows false with
  | (s, .error e) => (s, .error e)
  | (s, .ok a) => match sideRuns s c (skipSpace c x.dstSp) x.len0 x.dstRows true with
    | (s, .error e) => (s, .error e)
    | (s, .ok b) => (s, .ok (a, b))

/-- The first address of a core-local range outside X and Y. -/
def localBad (rs : List (Nat × Nat)) : Option Nat :=
  (rs.find? (fun r => !((inX r.1 && inX (r.1 + r.2 - 1)) || (inY r.1 && inY (r.1 + r.2 - 1))))).map (·.1)

/-- Two run lists share a line. -/
def runsMeet (a b : List (Nat × Nat)) : Bool :=
  (runLines a false).any (fun x => (runLines b true).any (fun y => x.first ≤ y.last && y.first ≤ x.last))

/-- Overlap rules on physical lines (R106): BAD_FORMAT where it holds. -/
def SkipCmd.overlapBad (x : SkipCmd) (src dst : List (Nat × Nat)) : Bool :=
  if runsMeet src dst then !(x.nk && x.engines == 4 && x.total ≤ 2 ^ 22) else x.nk

/-- The runs of a Skip's sides: what it registered, or its translation now. -/
def sidesOnce (s : State) (c : Cmd) (x : SkipCmd) : State × Except XFault (List (Nat × Nat) × List (Nat × Nat)) :=
  if c.ranges ≠ [] then (s, .ok (c.srcRuns, c.dstRuns)) else skipSides s c x

/-- The checks of R126 for a Skip, its page sets and its translation at dispatch. A VF's refused use of physical addresses is logged (R21;
DEDUCED: it is the one way a VF command could name a unit that is not its own). A requeued Skip keeps the translation and the ranges
it registered (R104, R157). -/
def skipPlan (s : State) (c : Cmd) : State × Except (Status × Nat) Cmd :=
  let x := skipOf c
  let f := c.owner.fn
  let ss := skipSpace c x.srcSp
  let ds := skipSpace c x.dstSp
  let rd0 := if ss = 0 ∧ !x.zero then x.ranges x.srcRows else []
  let wr0 := if ds = 0 then x.ranges x.dstRows else []
  let usesDram := (!x.zero && (ss == 1 || ss == 3)) || ds == 1 || ds == 3
  let usesHost := (!x.zero && ss == 2) || ds == 2
  let yard := yardCheck (spacePages s c) rd0 wr0
  if x.formatBad c then (s, .error (.badFormat, 0))
  else if yard.any (fun e => e.1 == .badFormat) then (s, .error (.badFormat, 0))
  else if usesDram && !((List.range 4).all (fun i => fnReady s (9 + i))) then (s, .error (.notReady, 0))
  else if x.rightsBad s c then (if c.owner.isRadio || f == 0 then s else logErr s f .permission 1 c.tag (cmdDetail s c), .error (.permission, 0))
  else match yard with
    | some e => (s, .error e)
    | none =>
      let loc := (if ss = 4 ∧ !x.zero then x.ranges x.srcRows else []) ++ (if ds = 4 then x.ranges x.dstRows else [])
      match localBad loc with
      | some a => (s, .error (.translationFault, a))
      | none =>
        match sidesOnce s c x with
        | (s, .error e) => (s, .error (.translationFault, e.va))
        | (s, .ok (a, b)) =>
          if c.ranges = [] ∧ x.overlapBad a b then (s, .error (.badFormat, 0))
          else if cmdQuota s c true ∨ (x.nk = true ∧ burstBytes s f < x.total) then (s, .error (.quota, 0))
          else if usesHost ∧ f ≠ 0 ∧ rdLive s Reg.vfPartHostPir f = 0 then (s, .error (.policed, 0))
          else (s, .ok { c with rpages := pagesOf rd0, wpages := pagesOf wr0, srcRuns := a, dstRuns := b,
                                ranges := runLines a false ++ runLines b true })

/-! ### Engines and registered ranges -/

/-- Sides with registered ranges: one per source and one per destination in device DRAM. -/
def Cmd.sides (c : Cmd) : Nat := bit01 (c.ranges.any (fun r => !r.dest)) + bit01 (c.ranges.any (fun r => r.dest))

/-- Ranges of a collective: one each for its input, count arrays, output and stage (R236). -/
def Coll.sides (k : Coll) : Nat := bit01 (k.src != []) + bit01 (k.cnt != []) + bit01 (k.dst != []) + bit01 (k.stg != [])

/-- Registered ranges held now by others than one command, out of 512 (R104, R236). -/
def rangesHeld (s : State) (cid : Nat) : Nat :=
  ((s.work.cmds.filter (fun e => e.1 != cid && e.2.opcode != 4)).map (fun e => e.2.sides)).sum +
  ((s.crush.colls.filter (fun e => e.1 != cid)).map (fun e => Coll.sides e.2)).sum

/-- Skips of a bench taken by commands that have been dispatched and have not committed (Table 05.9). A FABRIC command takes none of the four
(DESIGN CHOICE: R103 counts engines of Skip commands, and the spec does not say which Skips carry a FABRIC command's payload). -/
def skipsTaken (s : State) (b : Nat) : Nat :=
  ((s.work.cmds.filter (fun e => e.2.open_ && e.2.opcode == 3 && e.2.bench == b)).map (fun e => (skipOf e.2).engines)).sum

/-- Bench b holds radio work. -/
def radioHeld (s : State) (b : Nat) : Bool := (getBench s b).hold.isSome

/-- A non-killable Skip may start on bench b now: its next floor reservation lies at least 15 us ahead (R27), and another rotation
bench holds neither radio work nor a non-killable Skip (R369). -/
def nkMayStart (s : State) (b : Nat) : Bool :=
  (getBench s b).chosen.all (fun h => now s + 15000 ≤ h.reserveNs) &&
  (!inRotation s b || (List.range (benchCount s)).any (fun o =>
    o != b && inRotation s o && role s o != 3 && !radioHeld s o && !(s.work.cmds.any (fun e => e.2.nk && e.2.bench == o))))

/-- A line range that another command registered earlier stands in the way (R104). -/
def rangeBlocked (s : State) (cid order : Nat) (ranges : List LineRange) : Bool :=
  s.work.cmds.any (fun e => e.1 != cid && e.2.ranges != [] && e.2.regSeq < order &&
    ranges.any (fun r => e.2.ranges.any (fun o => (r.dest || o.dest) && r.first ≤ o.last && o.first ≤ r.last)))

/-- The condition of R122 on Skips, the range table, and the start rules of a non-killable Skip (R27, R106, R168): once it has been
dispatched nothing holds it up, as it is never killed, so it also waits to dispatch for the ranges of others. -/
def skipFree (s : State) (c : Cmd) : Bool :=
  let x := skipOf c
  skipsTaken s c.bench + x.engines ≤ 4 &&
  (c.ranges == [] || rangesHeld s s.work.nextCid - (if c.st == .requeued then c.sides else 0) + c.sides ≤ 512) &&
  (!x.nk || (nkMayStart s c.bench && (c.owner.fn == 0 || x.total ≤ mapGet s.mem.tokens c.owner.fn 0) &&
    !rangeBlocked s s.work.nextCid s.work.nextSeq c.ranges))

/-! ### Tokens and host requests -/

/-- Pay for a bench command's DRAM accesses (R168, R169): what it has taken from the bucket and what it has been admitted without, and whether
all of its cost is paid. A class T command takes what the bucket holds and waits for the rest, unless borrow is set. PF0 is class S, a
non-killable Skip travels as class S once it has started, and radio is class R: they never wait. -/
def payDram (s : State) (c : Cmd) (cost : Nat) : State × Cmd × Bool :=
  let f := c.owner.fn
  let need := cost - c.tokens - c.lent
  if c.owner.isRadio || need == 0 then (s, c, true)
  else
    let take := Nat.min (tokensOf s f) need
    let s := putTokens s f (tokensOf s f - take)
    let c := { c with tokens := c.tokens + take }
    if take = need then (s, c, true)
    else if f = 0 ∨ c.nk = true ∨ rdLive s Reg.dramBucketBorrow f ≠ 0 then (s, { c with lent := c.lent + (need - take) }, true)
    else (if c.waited then s else noteWait s f, { c with waited := true }, false)

/-- Host requests of a Skip: the 64-byte pieces of its host ranges, in order. -/
def hostReqs (c : Cmd) (x : SkipCmd) : List Nat :=
  let side (space : Nat) (rows : List Nat) : List Nat :=
    if space = 2 then (x.ranges rows).flatMap (fun r => (pieces r.1 r.2 64).map (·.2)) else []
  if c.owner.isRadio ∨ c.owner.fn = 0 then []
  else (if x.zero then [] else side (skipSpace c x.srcSp) x.srcRows) ++ side (skipSpace c x.dstSp) x.dstRows

/-- Meter host requests in order until one is red (R402): how many have been admitted, and the state. -/
def payHost (s : State) (f done : Nat) (reqs : List Nat) : State × Nat :=
  match reqs with
  | [] => (s, done)
  | n :: t =>
    let r := trtcm (mapGet s.fab.hostTc f 0) (mapGet s.fab.hostTp f 0) n
    match r.1 with
    | .red => (s, done)
    | col =>
      let s := { s with fab := { s.fab with hostTc := mapSet s.fab.hostTc f r.2.1, hostTp := mapSet s.fab.hostTp f r.2.2 } }
      let y := bit01 (col != .green)
      let met := mapGet s.fab.hostMet (2 * f + y) 0 + n
      let s := { s with fab := { s.fab with hostMet := mapSet s.fab.hostMet (2 * f + y) met } }
      let s := wr s (if y = 0 then Reg.vfPartHostGreen else Reg.vfPartHostYellow) f (met / 1024)
      payHost s f (done + 1) t

/-! ### The move -/

/-- Ciphertext of a stored line, as it was encrypted when it was written; zeros for a cleared line (R158, R159). -/
def lineCipher (s : State) (line : Nat) : List Byte :=
  match mapFind s.mem.stored line with
  | some k => xtsEnc (leBytes 32 k) line (linePlain s.mem line)
  | none => List.replicate 64 0

/-- Bytes of a physical range as a PF0 physical-space read sees them. -/
def physBytes (s : State) (pa n : Nat) : List Byte :=
  (pieces pa n 64).flatMap (fun p =>
    let o := lotOwnerOf s (lotOf p.1)
    if 1 ≤ o ∧ o ≤ 512 then ((lineCipher s (p.1 / 64)).drop (p.1 % 64)).take p.2 else memBytes s p.1 p.2)

/-- Source bytes of a Skip in order, as far as they can be read: bytes of unreadable host addresses read 0 and are never used. -/
def skipSource (s : State) (c : Cmd) (x : SkipCmd) : List Byte :=
  if x.zero then List.replicate x.total 0
  else match skipSpace c x.srcSp with
    | 0 => let y := getCtx s (cmdCtx c)
           (x.ranges x.srcRows).flatMap (fun r => (List.range r.2).map (fun i => y.byte (r.1 + i)))
    | 2 => (x.ranges x.srcRows).flatMap (fun r => hostBytes s (skipPasid s c x) r.1 r.2)
    | 3 => c.srcRuns.flatMap (fun r => physBytes s r.1 r.2)
    | 4 => (match c.owner with
      | .radio n _ _ => (x.ranges x.srcRows).flatMap (fun r => (getCore s n).bytes r.1 r.2)
      | .queue _ _ => [])
    | _ => runBytes s c.srcRuns

/-- Address on one side of byte `k` of the transfer. -/
def SkipCmd.addrAt (x : SkipCmd) (rows : List Nat) (k : Nat) : Nat := rows.getD (k / x.len0) 0 + k % x.len0

/-- First byte of the transfer whose host address does not translate, on one side. -/
def hostFaultAt (s : State) (pasid : Nat) (x : SkipCmd) (rows : List Nat) : Option Nat :=
  (List.range x.total).find? (fun k => !hostOk s pasid (x.addrAt rows k) 1)

/-- First byte of a run list that lies in a given line. -/
def byteInLine (runs : List (Nat × Nat)) (line : Nat) : Nat :=
  match runs with
  | [] => 0
  | r :: t => if r.1 / 64 ≤ line ∧ line * 64 < r.1 + r.2 then Nat.max r.1 (line * 64) - r.1 else r.2 + byteInLine t line

/-- The bytes of the destination lines that lie wholly before byte `k` of the transfer. -/
def SkipCmd.cut (x : SkipCmd) (c : Cmd) (k : Nat) : Nat :=
  let a := x.addrAt (if skipSpace c x.dstSp = 2 then x.dstRows else x.dstRows) k
  k - Nat.min (k % Nat.max 1 x.len0) (a % 64)

/-- Write the first `n` bytes of a transfer to its destination. -/
def skipStore (s : State) (c : Cmd) (x : SkipCmd) (bs : List Byte) : State :=
  let pieces_ := x.dstRows.zipIdx.map (fun r => (r.1, (bs.drop (r.2 * x.len0)).take x.len0))
  match skipSpace c x.dstSp with
  | 2 => pieces_.foldl (fun s p => hostStore s c.owner.fn (skipPasid s c x) p.1 p.2) s
  | 4 => (match c.owner with
    | .radio n _ _ => putCore s n (pieces_.foldl (fun k p => k.store p.1 p.2) (getCore s n))
    | .queue _ _ => s)
  | 0 => s
  | _ => storeRuns s c.dstRuns bs

/-- Where a move stops, if it does: the byte, the status and the faulting address. Uncorrectable source lines come with the state that
has recorded them. -/
def skipStop (s : State) (c : Cmd) (x : SkipCmd) : State × Option (Nat × Status × Nat) :=
  let pasid := skipPasid s c x
  let hs := if skipSpace c x.srcSp = 2 ∧ !x.zero then
      (hostFaultAt s pasid x x.srcRows).map (fun k => (k, Status.translationFault, x.addrAt x.srcRows k)) else none
  let hd := if skipSpace c x.dstSp = 2 then
      (hostFaultAt s pasid x x.dstRows).map (fun k => (k, Status.translationFault, x.addrAt x.dstRows k)) else none
  let r := senseRuns s 0 c.tag c.srcRuns
  let me := r.2.map (fun l => let k := byteInLine c.srcRuns l
                              (k, Status.memUe, x.addrAt x.srcRows k / 64 * 64))
  let w := senseRuns r.1 0 c.tag (partialLines c.dstRuns)
  let pe := w.2.map (fun l => let k := byteInLine c.dstRuns l
                              (k, Status.memUe, x.addrAt x.dstRows k / 64 * 64))
  (w.1, [hs, hd, me, pe].foldl (fun a b => match a, b with
    | some u, some v => if v.1 < u.1 then some v else some u
    | some u, none => some u
    | none, v => v) none)

/-- Execute a dispatched Skip: wait for ranges, tokens and host requests, then move (R104, R107, R168, R402). The transient errors that one
move meets count as one kill and one re-run (DESIGN CHOICE: R138 re-runs the command, and the re-read lines of the others are then
correct). -/
def skipRun (s : State) (cid : Nat) (c : Cmd) : Ran :=
  let x := skipOf c
  if x.total = 0 then .ok s c
  else if rangeBlocked s cid c.regSeq c.ranges then .wait s c
  else
    let p := payDram s c (runCost c.srcRuns false + runCost c.dstRuns true)
    let reqs := hostReqs c x
    let h := payHost p.1 c.owner.fn c.hostPaid (reqs.drop c.hostPaid)
    let c := { p.2.1 with hostPaid := h.2 }
    if p.2.2 = false ∨ h.2 < reqs.length then .wait h.1 c
    else
      let c := { c with kills := if transientIn h.1 (c.srcRuns ++ partialLines c.dstRuns) then Nat.min 255 (c.kills + 1) else c.kills }
      let t := if c.owner.isRadio then
          radioTraffic (radioTraffic h.1 (benchStop s c.bench) c.srcRuns false) (benchStop s c.bench) c.dstRuns true else h.1
      let bs := skipSource t c x
      match skipStop t c x with
      | (s, some (k, st, a)) =>
        let n := x.cut c k
        .fail (bump (skipStore s c x (bs.take n)) Reg.benchSkipBytesCount c.bench n) st a
      | (s, none) =>
        let s := skipStore s c x bs
        let s := yardStall (bump s Reg.benchSkipBytesCount c.bench x.total) c.bench
        let w := if skipSpace c x.dstSp = 0 then
            x.dstRows.zipIdx.foldl (fun w r => putBytes w r.1 ((bs.drop (r.2 * x.len0)).take x.len0)) [] else []
        .ok s { c with writes := w, hasOut := !c.owner.isRadio, assay := if c.owner.isRadio then 0 else crc64 bs }

/-- SKIP (R102-R107). -/
def execSkip (cid : Nat) (s : State) : Ans := .next (issueBench s cid (fun c => c.opcode == 3) skipPlan skipFree skipRun)

end Sys2Proof.Machine
end

