-- ==== Sys2Proof/Machine/FabricCore.lean ====
section
/-! DEFINITION. The Jeano fabric under every FABRIC command and message row: the source's replay store (R205-R219), port states and their
advertisements (R187), the target's window and the effect of each kind (R201-R214, R224). -/

namespace Sys2Proof.Machine

/-! ### The source: replay store and sending -/

/-- The incarnation held for a destination: its own, what its messages have said, else what its heartbeats gave. -/
def heldInc (s : State) (n : Nat) : Nat :=
  if n = ownNode s then ownInc s
  else (mapFind s.fab.heldInc n).getD (if sameDomain s n then rd s Reg.healthMemberIncarnation (n % 64) else 0)

/-- An unsettled message. -/
def getUn (s : State) (mid : Nat) : Option Unacked := mapFind s.fab.unacked mid
def putUn (s : State) (mid : Nat) (u : Unacked) : State :=
  { s with fab := { s.fab with unacked := mapSet s.fab.unacked mid u } }
def dropUn (s : State) (mid : Nat) : State := { s with fab := { s.fab with unacked := mapErase s.fab.unacked mid } }

/-- Messages that no commit has space in the replay store for: they wait for it (R205). -/
def MsgKind.unbooked : MsgKind → Bool
  | .read | .coll | .lsa => true
  | _ => false

/-- Bytes taken in the 16 MiB replay store (R205): what has been sent, and what a commit has booked. -/
def replayBytes (s : State) : Nat := ((s.fab.unacked.filter (fun e => e.2.sent || !MsgKind.unbooked e.2.msg.kind)).map (fun e => e.2.msg.size)).sum

/-- Mark a class T message by its function's trTCM and count its bytes (R190). -/
def meter (s : State) (m : Msg) : State × Colour :=
  match m.cls with
  | .t =>
    let f := m.srcFn
    let r := trtcm (mapGet s.fab.tc f 0) (mapGet s.fab.tp f 0) m.size
    let s := { s with fab := { s.fab with tc := mapSet s.fab.tc f r.2.1, tp := mapSet s.fab.tp f r.2.2 } }
    (bump s (match r.1 with | .green => Reg.fabVfGreen | .yellow => Reg.fabVfYellow | .red => Reg.fabVfRed) f m.size, r.1)
  | _ => (s, .green)

/-- The message of a copy's column that has left by the same port, with which it rides (R215). -/
def riding (s : State) (u : Unacked) (port : Nat) : Option Unacked :=
  match u.lead with
  | none => none
  | some l => (getUn s l).bind (fun v => if v.sent && v.resends == 0 && v.port == port then some v else none)

/-- Nanoseconds before the first resend (R207, R218): 10 us and twice the flight of the route, taken as that of its first link over each of
its hops (DESIGN CHOICE: the flight of another member's links is not known here); 100 us in class S. -/
def firstInterval (s : State) (u : Unacked) (r : Route) : Nat :=
  if u.msg.cls = .s then 100000 else 10000 + 2 * (rd s Reg.jeanoPortFlightNs r.port * Nat.max 1 r.path.length)

/-- A message leaves, or is to be delivered here (R184, R190, R215). Its class T bytes are metered when it first leaves; a copy that rides with
another of its column is of that one's colour and shares its fate. With no route it is held for a resend. -/
def depart (s : State) (mid : Nat) (u : Unacked) : State :=
  if u.msg.dstNode = ownNode s then putUn s mid { u with localDue := true, lastNs := now s, interval := Nat.max 10000 u.interval }
  else match routeOf s u.msg.cls u.mcast u.msg.dstNode with
    | none => putUn s mid { u with port := 16, path := [], lastNs := now s }
    | some r =>
      let lead := riding s u r.port
      let mc : State × Colour := match lead with
        | some v => (s, v.msg.colour)
        | none => if u.interval = 0 then meter s u.msg else (s, u.msg.colour)
      let m := ({ u.msg with colour := mc.2 } : Msg).sealed
      let s := mc.1
      let out := if lead.any (fun v => v.dropped) then (s, true) else queueOut s r.port (startLeg s m 0 r) u.coll lead.isSome
      putUn out.1 mid { u with msg := m, port := r.port, path := r.path, dropped := out.2, lastNs := now s,
                               interval := if u.interval = 0 then firstInterval s u r else u.interval }

/-- Send a message that waits in the store: it takes its sequence and its place among the ordered messages of its flow; the first of them names
itself (DESIGN CHOICE). At most 4,096 messages toward one destination in one class are unacknowledged, and the store holds 16 MiB (R205). -/
def launch (s : State) (mid : Nat) : State :=
  match getUn s mid with
  | none => s
  | some u =>
    let k := pairKey u.msg.dstNode u.msg.cls
    let busy := (s.fab.unacked.filter (fun e => e.2.sent && pairKey e.2.msg.dstNode e.2.msg.cls == k)).length
    if u.sent || u.after != [] || 4096 ≤ busy || (MsgKind.unbooked u.msg.kind && 2 ^ 24 < replayBytes s + u.msg.size) then s
    else
      let seq := mapGet s.fab.seqNext k 0
      let fk := flowKey u.msg
      let m := { u.msg with seq := seq, ordPrev := if u.msg.ordered then mapGet s.fab.ordLast fk seq else 0, srcInc := ownInc s,
                            dstInc := heldInc s u.msg.dstNode, job := rd s Reg.fabVfJob u.msg.srcFn }
      let s := { s with fab := { s.fab with
        seqNext := mapSet s.fab.seqNext k ((seq + 1) % 2 ^ 32),
        ordLast := if m.ordered then mapSet s.fab.ordLast fk seq else s.fab.ordLast } }
      depart s mid { u with msg := m.sealed, sent := true, firstNs := now s }

/-- Send every message that no longer waits. -/
def launchReady (s : State) : State :=
  s.fab.unacked.foldl (fun s e => if e.2.sent then s else launch s e.1) s

/-- Resending stops 16 us before the bound of a class T or R operation (R207, R217, R218). -/
def withinBound (s : State) (u : Unacked) : Bool :=
  u.msg.cls == .s || decide (now s + 16000 ≤ u.firstNs + rd s Reg.jeanoCfgDeadUs 0 * 1000)

/-- Resend an unsettled message with the same sequence and data (R207). A red one that was discarded goes yellow (R190): by this device's own
queue, or by another's, of which the lapse of its timer is the sign. -/
def resend (s : State) (mid : Nat) (u : Unacked) (late : Bool) : State :=
  let colour := if u.msg.colour = .red ∧ (late ∨ u.dropped) then .yellow else u.msg.colour
  let s := depart s mid { u with msg := ({ u.msg with colour := colour } : Msg).sealed, resends := u.resends + 1,
                                 interval := if late then Nat.min 100000 (2 * u.interval) else u.interval }
  match getUn s mid with
  | some v => if v.port < 16 then bump s Reg.jeanoPortReplays v.port 1 else s
  | none => s

/-- The route a message has taken has an unusable link. -/
def brokenRoute (s : State) (u : Unacked) : Bool :=
  u.port < 16 && (!portUp s u.port || (u.port < 14 && !pathUsable s (ownNode s) u.path))

/-- Failover (R207): what was on its way over a route that has become unusable is sent again at once. -/
def failover (s : State) : State :=
  s.fab.unacked.foldl (fun s e =>
    match getUn s e.1 with
    | some u => if u.sent && brokenRoute s u && withinBound s u then resend s e.1 u false else s
    | none => s) s

/-! ### Settling -/

/-- An unended FENCE has the message in its snapshot (R209). -/
def fenceCovers (s : State) (mid : Nat) : Bool :=
  s.work.cmds.any (fun e => e.2.opcode == 5 && e.2.b 0 4 == 7 && e.2.awaits.contains mid)

/-- A covered message that settles with a failure leaves its status for the fence (R209). -/
def fenceNote (s : State) (mid : Nat) (st : Status) : State :=
  if st ≠ .ok ∧ fenceCovers s mid = true then { s with fab := { s.fab with settled := mapSet s.fab.settled mid st } } else s

/-- A message that no command waits for has settled with a failure: what no fence covers goes to the VF's error log (R209). -/
def noteFailure (s : State) (mid : Nat) (u : Unacked) (st : Status) : State :=
  if st = .ok ∨ fenceCovers s mid = true then fenceNote s mid st else logErr s u.msg.srcFn st 2 0 (u.peer % 1024)

/-- The result of a fetching ATOMIC arrives: the old value is written to device DRAM, res_tally is signalled, and the command ends and signals
its own tallies (R129, R198, R212). -/
def atomicDone (s : State) (cid : Nat) (st : Status) (value sizeB : Nat) : State :=
  match getCmd s cid with
  | none => s
  | some c =>
    let f := c.owner.fn
    let v := if st = .ok then value else 2 ^ (8 * sizeB) - 1
    let writes := st == .ok || st == .targetDead || st == .atomicIndeterminate
    let w : State × Status × Nat :=
      if !writes then (s, st, if st = .translationFault ∨ st = .memUe then c.b 128 48 else 0)
      else match translate s f (c.b 64 48) sizeB true with
        | (s, .error x) => (s, .translationFault, x.va)
        | (s, .ok runs) => match writeRuns s 0 c.tag runs (leBytes sizeB v) with
          | (s, some _) => (s, .memUe, c.b 64 48)
          | (s, none) => (s, st, 0)
    let ok := w.2.1 == .ok
    let s := if ok ∧ c.b 356 1 = 1 then tallyInc w.1 f (c.b 346 10) 1 else w.1
    let s := if ok then applySignals s c.owner.tallies c.signals else s
    finish s cid { c with hasOut := ok, assay := if ok then crc64 (leBytes sizeB v) else 0 } w.2.1 w.2.2

/-- Read data for a GET: the command that issued it takes the bytes at their offset, unless it was killed since (R220). -/
def getTake (c : Cmd) (off : Nat) (bs : List Byte) : Cmd :=
  if c.b 6 1 = 1 then
    let addrs := runAddrs c.dstRuns
    { c with dramWrites := (bs.zipIdx).foldl (fun w b => mapSet w (addrs.getD (off + b.2) 0) b.1) c.dramWrites }
  else { c with writes := putBytes c.writes (c.b 64 24 + off) bs }

/-- A GET whose last segment has settled has executed: its output and assay are known. -/
def getReady (s : State) (cid : Nat) (c : Cmd) : State :=
  if c.awaits.any (fun m => (getUn s m).isSome) then putCmd s cid c
  else
    let len := c.b 32 32
    let bytes := if c.b 6 1 = 1 then (runAddrs c.dstRuns).map (fun a => mapGet c.dramWrites a 0)
      else (List.range len).map (fun i => mapGet c.writes (c.b 64 24 + i) 0)
    putCmd s cid { c with st := .issued, hasOut := givesOutput c.status, assay := if givesOutput c.status then crc64 bytes else 0 }

/-- A message settles: the messages that waited for it may go, or settle with it where it was not acknowledged; and the work that
awaited it learns how it ended (R207-R209, R217). -/
def settleOne (s : State) (mid : Nat) (st : Status) (acked : Bool) : State :=
  match getUn s mid with
  | none => s
  | some u =>
    let s := dropUn s mid
    let un := if acked then mapVals s.fab.unacked (fun _ v => { v with after := v.after.filter (· != mid) })
      else s.fab.unacked.filter (fun e => !(e.2.after.contains mid && !e.2.sent))
    let lost := if acked then [] else s.fab.unacked.filter (fun e => e.2.after.contains mid && !e.2.sent)
    let s := { s with fab := { s.fab with unacked := un } }
    let s := lost.foldl (fun s e => noteFailure s e.1 e.2 st) s
    let s := match u.msg.kind with
      | .coll | .lsa => s
      | _ => noteFailure s mid u st
    let s := match u.msg.kind with
      | .read =>
        (match getCmd s u.cid with
          | some c =>
            if c.awaits.contains mid && c.st == .dispatched then
              (if st = .ok then getReady s u.cid c
               else if st = .targetDead then
                 getReady s u.cid { getTake c u.off (List.replicate u.msg.len 0xFF) with status := .targetDead }
               else
                 let s := { s with fab := { s.fab with unacked := s.fab.unacked.filter (fun e => !(e.2.cid == u.cid && c.awaits.contains e.1)) } }
                 finish s u.cid c st (if st = .translationFault ∨ st = .memUe then u.msg.addr else 0))
            else s
          | none => s)
      | .atomic =>
        if u.msg.fetch then
          (match getCmd s u.cid with
            | some c => if c.awaits.contains mid && c.st == .committing && st != .ok then
                          atomicDone s u.cid st 0 (if u.msg.aux % 16 < 2 then 4 else 8) else s
            | none => s)
        else s
      | .coll =>
        (match u.coll with
          | some c => if st = .ok then s else { s with crush := { s.crush with lost := s.crush.lost ++ [(c, st)] } }
          | none => s)
      | _ => s
    launchReady s

/-- Put a message into the replay store, to be sent when the listed messages have been acknowledged (R203). Toward a spoiled member it settles at
once (R219). -/
def enqueue (s : State) (m : Msg) (cid peer off : Nat) (after : List Nat) (coll : Option CollMsg) (mcast : Bool) (lead : Option Nat) : State :=
  let mid := s.fab.nextMid
  let u : Unacked := { msg := m, cid := cid, peer := peer, firstNs := now s, resends := 0, checkFails := 0, after := after,
                       sent := false, off := off, interval := 0, coll := coll, lastNs := now s, port := 16, path := [], mcast := mcast,
                       lead := lead, dropped := false, localDue := false }
  let s := { s with fab := { s.fab with nextMid := mid + 1, unacked := mapSet s.fab.unacked mid u } }
  if spoiledFor s m.dstNode m.cls then settleOne s mid .targetDead false else launch s mid

/-- R208: a destination has a new incarnation: messages to the old one settle, and the pair's sequences start again. Collectives of PF0 are not
lost by it (R249). -/
def learnInc (s : State) (node inc : Nat) : State :=
  if heldInc s node = inc then { s with fab := { s.fab with heldInc := mapSet s.fab.heldInc node inc } }
  else
    let old := s.fab.unacked.filter (fun e => e.2.msg.dstNode == node && e.2.sent)
    let s := old.foldl (fun s e =>
      if e.2.msg.kind = .coll ∧ e.2.msg.srcFn = 0 then dropUn s e.1
      else settleOne s e.1 (if e.2.msg.kind = .atomic ∧ e.2.msg.fetch then .atomicIndeterminate else .targetDead) false) s
    let pair (k : Nat) : Bool := k / 4 == node
    launchReady { s with fab := { s.fab with
      heldInc := mapSet s.fab.heldInc node inc,
      seqNext := s.fab.seqNext.filter (fun e => !pair e.1),
      ordLast := s.fab.ordLast.filter (fun e => !pair (e.1 / 2 ^ 20)) } }

/-- The unsettled message of a pair with a sequence. -/
def findUn (s : State) (node : Nat) (cls : TClass) (seq : Nat) : Option (Nat × Unacked) :=
  s.fab.unacked.find? (fun e => e.2.sent && e.2.msg.dstNode == node && e.2.msg.cls == cls && e.2.msg.seq == seq)

/-- Status of a final NAK reason (Table 07.9). -/
def nakStatus (r : Nat) : Status :=
  match r with
  | 4 => .fabricTimeout | 5 => .permission | 7 => .memUe | 2 => .fabricCheck | _ => .translationFault

/-- An acknowledgement settles a message: everything but reads and fetching atomics, which their results settle. -/
def ackOne (s : State) (node : Nat) (cls : TClass) (seq : Nat) : State :=
  match findUn s node cls seq with
  | none => s
  | some (mid, u) => if u.msg.kind = .read ∨ u.msg.fetch = true then s else settleOne s mid .ok true

/-- Read data arrives for a READ (R198, R220): the command that asked takes it. Data of an older epoch is discarded: the reads of a killed GET
are orphaned, and one that runs on asks again. -/
def dataTo (s : State) (mid : Nat) (u : Unacked) (epoch : Nat) (bs : List Byte) : State :=
  match getCmd s u.cid with
  | none => settleOne s mid .ok true
  | some c =>
    let e := (getCtx s (cmdCtx c)).epoch
    if !c.awaits.contains mid then settleOne s mid .ok true
    else if e % 256 = epoch % 256 then settleOne (putCmd s u.cid (getTake c u.off (bs.take u.msg.len))) mid .ok true
    else
      let s := putCmd s u.cid { c with awaits := c.awaits.map (fun a => if a = mid then s.fab.nextMid else a) }
      settleOne (enqueue s { u.msg with srcEpoch := e } u.cid u.peer u.off [] none false none) mid .ok true

/-- The result of a fetching atomic arrives (R198, R212). -/
def resultTo (s : State) (mid : Nat) (u : Unacked) (v : Nat) (st : Status) : State :=
  if st = .ok then settleOne (atomicDone s u.cid .ok v (if u.msg.aux % 16 < 2 then 4 else 8)) mid .ok true
  else settleOne s mid st true

/-- A NAK arrives (Table 07.9): BUSY leaves the message to its timer, CHECK sends it again up to the fourth failure, and the final reasons
settle it. A failing address that is known here is the one reported. -/
def nakTo (s : State) (mid : Nat) (u : Unacked) (reason va : Nat) : State :=
  match reason with
  | 2 =>
    if 4 ≤ u.checkFails + 1 then settleOne s mid .fabricCheck false
    else if withinBound s u then resend s mid { u with checkFails := u.checkFails + 1 } false
    else putUn s mid { u with checkFails := u.checkFails + 1 }
  | 4 | 5 | 6 | 7 =>
    let s := if va = 0 then s else putUn s mid { u with msg := { u.msg with addr := va } }
    settleOne s mid (nakStatus reason) true
  | _ => s

/-! ### Port states and advertisements (R187) -/

/-- Every port state change is sent as an advertisement in class S to every member of the domain, and stands in this member's own entry of the
link map (R187). -/
def advertise (s : State) : State :=
  let up := ofBitList ((List.range 16).filter (portUp s))
  let n := ownNode s % 64
  let v := (rd s Reg.jeanoLinkmapVersion n + 1) % 65536
  ((domainMembers s).filter (· != ownNode s)).foldl (fun s d =>
    enqueue s { Msg.blank with kind := .lsa, cls := .s, srcNode := ownNode s, dstNode := d, data := leBytes 2 up ++ leBytes 2 v, len := 4 } 0 0 0 []
      none false none) (wr (wr s Reg.jeanoLinkmapUp n up) Reg.jeanoLinkmapVersion n v)

/-- Move a port to a state, advertise it, and take the routes that follow. -/
def setPort (s : State) (p st : Nat) : State :=
  if rd s Reg.jeanoPortState p = st then s else failover (advertise (wr s Reg.jeanoPortState p st))

/-- Apply an advertisement: the newest of each member stands in the link map. What was on a broken route is sent again (R187, R207). -/
def applyLsa (s : State) (m : Msg) : State :=
  let n := m.srcNode % 64
  let v := leNat ((m.data.drop 2).take 2)
  let d := (v + 65536 - rd s Reg.jeanoLinkmapVersion n) % 65536
  if sameDomain s m.srcNode = false ∨ m.srcNode = ownNode s ∨ d = 0 ∨ 32768 ≤ d then s
  else failover (bump (wr (wr s Reg.jeanoLinkmapUp n (leNat (m.data.take 2))) Reg.jeanoLinkmapVersion n v) Reg.jeanoLsaCountCount 0 1)

/-! ### The target -/

/-- A reply to a request; a NAK with the failing address, which the message has no field for. -/
inductive Reply where
  | ack | nak (reason va : Nat) | data (bs : List Byte) | result (v sizeB : Nat) (st : Status) | held
  deriving DecidableEq, Repr

/-- An answer to a message that this device sent to itself. -/
def localAnswer (s : State) (m : Msg) (r : Reply) : State :=
  match findUn s (ownNode s) m.cls m.seq with
  | none => s
  | some (mid, u) => match r with
    | .held => s
    | .ack => ackOne s (ownNode s) m.cls m.seq
    | .nak x va => nakTo s mid u x va
    | .data bs => dataTo s mid u m.srcEpoch bs
    | .result v _ st => resultTo s mid u v st

/-- A reply as a message: it carries the request's sequence and the responder's incarnation. -/
def replyMsg (s : State) (m : Msg) (r : Reply) : Msg :=
  let b : Msg := { Msg.blank with cls := m.cls, srcNode := ownNode s, dstNode := m.srcNode, srcFn := m.dstFn, dstFn := m.srcFn,
                                  seq := m.seq, srcInc := ownInc s, dstInc := m.srcInc, job := m.job, srcEpoch := m.srcEpoch,
                                  addr := m.addr, aux := m.aux }
  match r with
  | .held | .ack => b
  | .nak reason _ => { b with kind := .nak, ordPrev := reason }
  | .data bs => { b with kind := .readData, data := bs, len := bs.length }
  | .result v n st => { b with kind := .atomicResult, data := leBytes n v, len := n, status := st, fetch := true }

/-- Send a reply to a request's source (R185, R190): metered like all class T egress; with no route it is dropped, and the source asks again. -/
def sendReply (s : State) (m : Msg) (r : Reply) : State :=
  if r = .held then s
  else if m.srcNode = ownNode s then localAnswer s m r
  else
    let b := replyMsg s m r
    match replyRoute s m with
    | none => s
    | some x =>
      let mc := meter s b
      (queueOut mc.1 x.port (startLeg mc.1 ({ b with colour := mc.2 } : Msg).sealed 0 x) none false).1

/-- Window key of a source: node and class. -/
def winKey (m : Msg) : Nat := pairKey m.srcNode m.cls

/-- A sequence has been applied for a source: below the window, or marked in it (R206). -/
def isApplied (s : State) (k seq : Nat) : Bool :=
  let d := (seq + 2 ^ 32 - mapGet s.fab.winLow k 0 % 2 ^ 32) % 2 ^ 32
  2 ^ 31 ≤ d || (mapGet s.fab.winMap k []).contains seq

/-- Advance the lowest unapplied sequence over marked ones. -/
def slide (fuel low : Nat) (marked : List Nat) : Nat × List Nat :=
  match fuel with
  | 0 => (low, marked)
  | n + 1 => if marked.contains low then slide n ((low + 1) % 2 ^ 32) (marked.filter (· != low)) else (low, marked)

/-- Mark a sequence as applied. -/
def markApplied (s : State) (k seq : Nat) : State :=
  let l := mapGet s.fab.winMap k []
  let r := slide (l.length + 1) (mapGet s.fab.winLow k 0) (if l.contains seq then l else l ++ [seq])
  { s with fab := { s.fab with winLow := mapSet s.fab.winLow k r.1, winMap := mapSet s.fab.winMap k r.2 } }

/-- The target function accepts a request: equal, non-zero jobs; the fabric's own advertisements are exempt (R194). -/
def jobOk (s : State) (m : Msg) : Bool := m.kind == .lsa || (rd s Reg.fabVfJob m.dstFn == m.job && m.job != 0)

/-- Read target DRAM for a remote request (R195): bytes, or the NAK reason and the failing address. -/
def remoteRead (s : State) (f a n : Nat) : State × Except (Nat × Nat) (List Byte) :=
  match translate s f a n false with
  | (s, .error x) => (s, .error (6, x.va))
  | (s, .ok runs) =>
    match readRuns (chargeDram s f (runCost runs false)) 2 0 runs with
    | (s, .error l) => (s, .error (7, a + byteInLine runs l))
    | (s, .ok bs) => (s, .ok bs)

/-- Write target DRAM for a remote request (R195, R201). -/
def remoteWrite (s : State) (f a : Nat) (bs : List Byte) : State × Option (Nat × Nat) :=
  match translate s f a bs.length true with
  | (s, .error x) => (s, some (6, x.va))
  | (s, .ok runs) =>
    match writeRuns (chargeDram s f (runCost runs true)) 2 0 runs bs with
    | (s, some l) => (s, some (7, a + byteInLine runs l))
    | (s, none) => (s, none)

/-- DRAM tokens a request costs the owner of what it touches (R168, R195). -/
def msgCost (m : Msg) : Nat :=
  match m.kind with
  | .read => runCost [(m.addr, m.len)] false
  | .write => runCost [(m.addr, m.data.length)] true
  | .atomic => 192
  | .reduce => runCost [(m.addr, m.data.length - 8)] false + runCost [(m.addr, m.data.length - 8)] true
  | .msg => 192 + runCost [(0, 64 + m.data.length)] true
  | _ => 0

/-- A class T request is served now: its owner's bucket holds its cost (R168). -/
def mayServe (s : State) (m : Msg) : Bool := m.cls != .t || admitDram s m.dstFn (msgCost m)

/-- The new value of an atomic (R210): dtype 0 INT32, 1 UINT32, 2 INT64, 3 UINT64. -/
def atomicNew (dtype aop old operand compare : Nat) : Nat :=
  let w := if dtype < 2 then 32 else 64
  let less (a b : Nat) : Bool := if dtype % 2 = 0 then signedOf a w < signedOf b w else a < b
  let x := operand % 2 ^ w
  match aop with
  | 0 => (old + x) % 2 ^ w
  | 1 => old &&& x
  | 2 => old ||| x
  | 3 => old ^^^ x
  | 4 => if less old x then x else old
  | 5 => if less x old then x else old
  | 6 => x
  | _ => if old = compare % 2 ^ w then x else old

/-- Bytes of a reduction element: INT32, INT64, FP32, BF16, FP16. -/
def redBytes (dtype : Nat) : Nat := if dtype = 2 then 8 else if dtype = 5 ∨ dtype = 6 then 2 else 4

/-- Floating-point format of a reduction element. -/
def redFloat (dtype : Nat) : FloatFmt := if dtype = 4 then fFP32 else if dtype = 5 then fBF16 else fFP16

/-- Combine a source element into a target element (R213): aop 0 ADD, 4 MAX, 5 MIN. -/
def redElem (dtype aop old new : Nat) : Nat :=
  if dtype = 0 ∨ dtype = 2 then atomicNew dtype aop old new 0
  else
    let f := redFloat dtype
    let a := f.decode old
    let b := f.decode new
    let isNan (v : Fp) : Bool := match v with | .nan => true | _ => false
    if isNan a || isNan b then f.nanCode
    else if aop = 0 then f.encode (a.add b) false
    else
      let key (c : Nat) : Int := if c < 2 ^ (f.eb + f.mb) then c else (2 ^ (f.eb + f.mb) : Int) - c - 1
      let lt := key old < key new
      if aop = 4 then (if lt then new else old) else (if lt then old else new)

/-- Apply one contribution to target bytes. -/
def redBytesOf (dtype aop : Nat) (old new : List Byte) : List Byte :=
  let n := redBytes dtype
  (List.range (new.length / n)).flatMap (fun i =>
    leBytes n (redElem dtype aop (leNat ((old.drop (n * i)).take n)) (leNat ((new.drop (n * i)).take n))))

/-- Apply one REDUCE contribution to target DRAM. -/
def applyReduce (s : State) (m : Msg) : State × Option (Nat × Nat) :=
  let payload := m.data.drop 8
  match remoteRead s m.dstFn m.addr payload.length with
  | (s, .error r) => (s, some r)
  | (s, .ok old) => remoteWrite s m.dstFn m.addr (redBytesOf (m.aux % 16) (m.aux / 16) old payload)

/-- Round and contributor count of a REDUCE (R200). -/
def redRound (m : Msg) : Nat := leNat (m.data.take 4)
def redN (m : Msg) : Nat := leNat ((m.data.drop 4).take 1) % 128

/-- Staging bytes reserved by the rounds in progress (R214). -/
def roundBytes (s : State) : Nat := (s.fab.rounds.map (fun r => r.n * ((r.parts.headD Msg.blank).data.length))).sum

/-- Contributions in ascending order of source node, then source function. -/
def sortParts (l : List Msg) : List Msg :=
  l.foldl (fun acc m =>
    let k (x : Msg) : Nat := x.srcNode * 1024 + x.srcFn
    acc.takeWhile (fun x => k x ≤ k m) ++ m :: acc.dropWhile (fun x => k x ≤ k m)) []

/-- A reply settles the segment at the target: everything but BUSY and a held message. -/
def Reply.final : Reply → Bool
  | .held => false
  | .nak r _ => r != 1
  | _ => true

/-- Reply to a write's outcome. -/
def Reply.ofNak : Option (Nat × Nat) → Reply
  | some (r, va) => .nak r va
  | none => .ack

/-- Settle a request at the target: mark its sequence, and keep the reason of a final NAK for a duplicate. -/
def settleAt (s : State) (m : Msg) (r : Reply) : State :=
  if !r.final then s else
  let s := markApplied s (winKey m) m.seq
  match r with
  | .nak x _ => { s with fab := { s.fab with refused := mapSet s.fab.refused (winKey m * 2 ^ 32 + m.seq) x } }
  | _ => s

/-- Two copies of one message. -/
def sameMsg (a b : Msg) : Bool := a.srcNode == b.srcNode && a.cls == b.cls && a.seq == b.seq

/-- Stage a contribution in its round, and apply the round when it is complete (R214). -/
def stageRound (s : State) (m : Msg) : State × Reply :=
  let line := m.addr / 64
  let same (r : Round) : Bool := r.fn == m.dstFn && r.line == line && r.round == redRound m
  match s.fab.rounds.find? same with
  | none =>
    if 2 ^ 21 < roundBytes s + redN m * m.data.length then (bump s Reg.jeanoAtomicCacheBusy 0 1, .nak 1 0)
    else if redN m = 1 then
      let w := applyReduce s m
      (w.1, Reply.ofNak w.2)
    else
      let r : Round := { fn := m.dstFn, line := line, round := redRound m, n := redN m, firstNs := now s, parts := [m] }
      ({ s with fab := { s.fab with rounds := s.fab.rounds ++ [r] } }, .held)
  | some r =>
    if r.parts.any (sameMsg m) then (s, .held)
    else
      let parts := r.parts ++ [m]
      if parts.length < r.n then
        ({ s with fab := { s.fab with rounds := s.fab.rounds.map (fun x => if same x then { x with parts := parts } else x) } }, .held)
      else
        let s := { s with fab := { s.fab with rounds := s.fab.rounds.filter (fun x => !same x) } }
        let res := (sortParts parts).foldl (fun (acc : State × Option (Nat × Nat)) x =>
          match acc.2 with
          | some r => (acc.1, some r)
          | none => applyReduce acc.1 x) (s, none)
        let rep := Reply.ofNak res.2
        (parts.foldl (fun s x => if sameMsg m x then s else sendReply (settleAt s x rep) x rep) res.1, rep)

/-- Records of fetching atomics with room for one of a message (R211): its own key's is replaced; with 4,096 others of less than 500 us there is
none, and the atomic is refused BUSY. -/
def atomRoom (s : State) (m : Msg) : Option (List AtomRec) :=
  let l := s.fab.atoms.filter (fun a => !(a.node == m.srcNode && a.cls == m.cls.code && a.seq == m.seq))
  if l.length < 4096 then some l
  else match l.find? (fun a => a.timeNs + 500000 ≤ now s) with
    | none => none
    | some old => some (l.filter (fun a => a != old))

/-- Store the replay cache and show how many entries it holds. -/
def putAtoms (s : State) (l : List AtomRec) : State :=
  wr { s with fab := { s.fab with atoms := l } } Reg.jeanoAtomicCacheUsed 0 l.length

/-- Apply an ATOMIC (R210, R211). -/
def applyAtomic (s : State) (m : Msg) : State × Reply :=
  let dtype := m.aux % 16
  let n := if dtype < 2 then 4 else 8
  match (if m.fetch then atomRoom s m else some s.fab.atoms) with
  | none => (bump s Reg.jeanoAtomicCacheBusy 0 1, .nak 1 0)
  | some room =>
    match remoteRead s m.dstFn m.addr n with
    | (s, .error r) => (s, .nak r.1 r.2)
    | (s, .ok bs) =>
      let old := leNat bs
      let new := atomicNew dtype (m.aux / 16) old (leNat (m.data.take 8)) (leNat ((m.data.drop 8).take 8))
      match remoteWrite s m.dstFn m.addr (leBytes n new) with
      | (s, some r) => (s, .nak r.1 r.2)
      | (s, none) =>
        if m.fetch then
          (putAtoms s (room ++ [{ node := m.srcNode, cls := m.cls.code, seq := m.seq, result := old, sizeB := n, timeNs := now s }]),
            .result old n .ok)
        else (s, .ack)

/-- Deliver a MSG into the target function's receive ring (R224): the slot, the tail, then the tally. -/
def deliverRing (s : State) (m : Msg) : State × Reply :=
  let f := m.dstFn
  let n := rd s Reg.fabVfRxLog2 f
  if n < 2 ∨ 12 < n then (s, .nak 1 0)
  else
    let base := rd s Reg.fabVfRxBase f * 4096
    match remoteRead s f base 8 with
    | (s, .error r) => (s, .nak r.1 r.2)
    | (s, .ok bs) =>
      let slots := 2 ^ n - 1
      let head := leNat (bs.take 4) % slots
      let tail := leNat (bs.drop 4) % slots
      if (tail + 1) % slots = head then (s, .nak 1 0)
      else
        let hdr := leBytes 64 (m.srcNode % 1024 + m.srcFn % 1024 * 2 ^ 16 + m.data.length % 8192 * 2 ^ 32 + m.tag % 2 ^ 16 * 2 ^ 48)
        match remoteWrite s f (base + 4096 * (1 + tail)) (hdr ++ m.data) with
        | (s, some r) => (s, .nak r.1 r.2)
        | (s, none) =>
          match remoteWrite s f (base + 4) (leBytes 4 ((tail + 1) % slots)) with
          | (s, some r) => (s, .nak r.1 r.2)
          | (s, none) => (tallyInc s f (rd s Reg.fabVfRxTally f) 1, .ack)

/-- The effect of a request at its target. -/
def applyMsg (s : State) (m : Msg) : State × Reply :=
  if !jobOk s m then (s, .nak 5 0)
  else match m.kind with
    | .read => (match remoteRead s m.dstFn m.addr m.len with
      | (s, .error r) => (s, .nak r.1 r.2)
      | (s, .ok bs) => (s, .data bs))
    | .write => let w := remoteWrite s m.dstFn m.addr m.data
                (w.1, Reply.ofNak w.2)
    | .atomic => applyAtomic s m
    | .reduce =>
      if redN m ≠ 0 then stageRound s m
      else let w := applyReduce s m
           (w.1, Reply.ofNak w.2)
    | .signal => (tallyInc s m.dstFn (leNat (m.data.take 4) % 1024) (leNat (m.data.take 4) / 2 ^ 16), .ack)
    | .msg => deliverRing s m
    | .lsa => (applyLsa s m, .ack)
    | _ => (s, .ack)

/-- The answer to a duplicate of an applied message (R206, R211, R212). -/
def duplicateReply (s : State) (m : Msg) : State × Reply :=
  match mapFind s.fab.refused (winKey m * 2 ^ 32 + m.seq) with
  | some r => (s, .nak r 0)
  | none =>
  match m.kind with
  | .read => applyMsg s m
  | .atomic =>
    if m.fetch then
      (match s.fab.atoms.find? (fun a => a.node == m.srcNode && a.cls == m.cls.code && a.seq == m.seq) with
        | some a => (s, .result a.result a.sizeB .ok)
        | none => (s, .result 0 (if m.aux % 16 < 2 then 4 else 8) .atomicIndeterminate))
    else (s, .ack)
  | _ => (s, .ack)

/-- Answer a duplicate. -/
def answerAgain (s : State) (m : Msg) : State :=
  let r := duplicateReply s m
  sendReply r.1 m r.2

/-- Apply a message now, mark it and answer. -/
def applyNow (s : State) (m : Msg) : State :=
  let r := applyMsg s m
  let s := settleAt r.1 m r.2
  sendReply s m r.2

/-- The predecessor of an ordered message has been applied; the first of a flow names itself (R202). -/
def inTurn (s : State) (m : Msg) : Bool := !m.ordered || m.ordPrev == m.seq || isApplied s (winKey m) m.ordPrev

/-- Apply the held messages of which none waits any longer for its predecessor or for tokens, in turn (R168, R202). -/
def releaseHeld (fuel : Nat) (s : State) : State :=
  match fuel with
  | 0 => s
  | n + 1 =>
    match s.fab.held.find? (fun m => inTurn s m && mayServe s m) with
    | none => s
    | some m =>
      let s := { s with fab := { s.fab with held := s.fab.held.filter (fun x => !sameMsg m x) } }
      releaseHeld n (if isApplied s (winKey m) m.seq then answerAgain s m else applyNow s m)

/-- A new source incarnation clears that source's windows and held messages (R208), and its advertisements count anew (R187). -/
def seeInc (s : State) (node inc : Nat) : State :=
  if mapFind s.fab.seenInc node = some inc then s
  else
    let s := if sameDomain s node && node != ownNode s then wr s Reg.jeanoLinkmapVersion (node % 64) 0 else s
    { s with fab := { s.fab with
      seenInc := mapSet s.fab.seenInc node inc,
      winLow := s.fab.winLow.filter (fun e => e.1 / 4 != node),
      winMap := s.fab.winMap.filter (fun e => e.1 / 4 != node),
      refused := s.fab.refused.filter (fun e => e.1 / 2 ^ 34 != node),
      held := s.fab.held.filter (fun m => m.srcNode != node) } }

/-- A node has been heard (R217). -/
def hear (s : State) (node : Nat) : State := { s with fab := { s.fab with heard := mapSet s.fab.heard node (now s) } }

/-- What a request meets before anything else at its target (R200, R206, R208, R484): the state that has heard it, or none where it has been
refused by check, incarnation, spoil list or window. A sequence 4,096 or more above the lowest unapplied one does not fit the map and is
refused BUSY (DESIGN CHOICE). -/
def admitMsg (s : State) (m : Msg) : State × Bool :=
  let s := hear s m.srcNode
  if m.check ≠ msgCheck m then (sendReply (discardMsg s m) m (.nak 2 0), false)
  else if m.dstInc ≠ ownInc s then (sendReply s m (.nak 3 0), false)
  else
    let s := seeInc s m.srcNode m.srcInc
    let d := (m.seq + 2 ^ 32 - mapGet s.fab.winLow (winKey m) 0 % 2 ^ 32) % 2 ^ 32
    if m.cls ≠ .s ∧ m.srcNode ≠ ownNode s ∧ spoiled s m.srcNode = true then (sendReply s m (.nak 5 0), false)
    else if 4096 ≤ d ∧ d < 2 ^ 31 then (sendReply s m (.nak 1 0), false)
    else (s, true)

/-- A request of one kind arrives (R200, R206-R208, R484): forwarded when it is for another node, refused under `admitMsg` or by a frozen
target, answered again when it is a duplicate, held while it waits for its predecessor or for tokens, else applied. -/
def onRequest (s : State) (kind : MsgKind) (m : Msg) : State :=
  let m := { m with kind := kind }
  arriving s m (fun s =>
    if m.dstNode ≠ ownNode s then forwardMsg s m none
    else
      let a := admitMsg s m
      let s := a.1
      if !a.2 then s
      else if m.dstFn ≠ 0 ∧ (vfState s m.dstFn = 5 ∨ vfState s m.dstFn = 6) then sendReply s m (.nak 1 0)
      else if isApplied s (winKey m) m.seq then answerAgain s m
      else if !(inTurn s m && mayServe s m) then
        (if s.fab.held.any (sameMsg m) then s
         else { (if mayServe s m then s else noteWait s m.dstFn) with fab := { s.fab with held := s.fab.held ++ [m] } })
      else
        let s := applyNow s m
        releaseHeld s.fab.held.length s)

/-- Deliver what this device has sent to itself (R184). -/
def deliverAll (fuel : Nat) (s : State) : State :=
  match fuel with
  | 0 => s
  | n + 1 =>
    match s.fab.unacked.find? (fun e => e.2.localDue) with
    | none => s
    | some (mid, u) => deliverAll n (onRequest (putUn s mid { u with localDue := false }) u.msg.kind u.msg)
def deliverLocal (s : State) : State := deliverAll s.fab.unacked.length s

/-- An answer of one kind arrives at its source: forwarded when it is for another node, discarded when its check fails; else the node has
been heard, and a new incarnation is learnt first (R208). -/
def onAnswer (s : State) (kind : MsgKind) (m : Msg) (act : State → Msg → State) : State :=
  let m := { m with kind := kind }
  arriving s m (fun s =>
    if m.dstNode ≠ ownNode s then forwardMsg s m none
    else
      let s := hear s m.srcNode
      if m.check ≠ msgCheck m then discardMsg s m
      else if m.srcInc ≠ heldInc s m.srcNode then learnInc s m.srcNode m.srcInc
      else act s m)

end Sys2Proof.Machine
end

