-- ==== Sys2Proof/Machine/Fabric.lean ====
section
/-! DEFINITION. The FABRIC commands (R193-R199, R203, R204, R209, R215): the operation block, its checks and rights, what execution
stages, and what their commit hands to the ports. -/

namespace Sys2Proof.Machine

/-! ### The operation block (Table 07.6) -/

/-- A FABRIC command as its operation block states it. -/
structure FabCmd where
  op : Nat
  ordered : Bool
  fetch : Bool
  dram : Bool
  inline_ : Bool
  peer : Nat
  dtype : Nat
  aop : Nat
  fenceAll : Bool
  reserved : Bool
  len : Nat
  laddr : Nat
  raddr : Nat
  operand : Nat
  compare : Nat
  rsigTally : Nat
  rsigInc : Nat
  resTally : Nat
  resEn : Bool
  nContrib : Nat
  round : Nat
  deriving DecidableEq, Repr

/-- Read a FABRIC body. -/
def fabOf (c : Cmd) : FabCmd :=
  { op := c.b 0 4, ordered := c.b 4 1 = 1, fetch := c.b 5 1 = 1, dram := c.b 6 1 = 1, inline_ := c.b 7 1 = 1, peer := c.b 8 10,
    dtype := c.b 18 4, aop := c.b 22 4, fenceAll := c.b 26 1 = 1,
    reserved := c.b 27 5 != 0 || c.b 112 16 != 0 || c.b 176 16 != 0 || c.b 396 116 != 0,
    len := c.b 32 32, laddr := c.b 64 48, raddr := c.b 128 48, operand := c.b 192 64, compare := c.b 256 64, rsigTally := c.b 320 10,
    rsigInc := c.b 330 16, resTally := c.b 346 10, resEn := c.b 356 1 = 1, nContrib := c.b 357 7, round := c.b 364 32 }

/-- Bytes of an atomic's word. -/
def FabCmd.wordBytes (x : FabCmd) : Nat := if x.dtype < 2 then 4 else 8

/-- The fields an op does not use are all zero (R199). -/
def FabCmd.unusedClear (x : FabCmd) : Bool :=
  let moves := x.op == 1 || x.op == 2 || x.op == 4 || x.op == 5 || x.op == 8
  let z (used : Bool) (v : Nat) : Bool := used || v == 0
  z (x.op ≤ 5 || x.op == 8) (bit01 x.ordered) &&
  z (x.op == 3) (bit01 x.fetch) &&
  z ((moves && !x.inline_) || (x.op == 3 && x.fetch)) (bit01 x.dram) &&
  z (x.op == 2 || x.op == 5 || x.op == 8) (bit01 x.inline_) &&
  z (x.op != 7 || !x.fenceAll) x.peer &&
  z (x.op == 3 || x.op == 4) x.dtype &&
  z (x.op == 3 || x.op == 4) x.aop &&
  z (x.op == 7) (bit01 x.fenceAll) &&
  z moves x.len &&
  z ((moves && !x.inline_) || (x.op == 3 && x.fetch)) x.laddr &&
  z (x.op ≤ 5) x.raddr &&
  z (x.op == 3) x.operand &&
  z (x.op == 3 && x.aop == 7) x.compare &&
  z (x.op == 2 || x.op == 5 || x.op == 6) x.rsigTally &&
  z (x.op == 2 || x.op == 5 || x.op == 6) x.rsigInc &&
  z (x.op == 3 && x.fetch) x.resTally &&
  z (x.op == 3 && x.fetch) (bit01 x.resEn) &&
  z (x.op == 4) x.nContrib &&
  z (x.op == 4 && x.nContrib != 0) x.round

/-- The ranges of Table 07.7 and the alignment rules of R199. -/
def FabCmd.rangeBad (x : FabCmd) (bodyLen : Nat) (plumb : Bool) : Bool :=
  let inl := if x.inline_ then 64 * (bodyLen - 1) < x.len else bodyLen != 1
  match x.op with
  | 1 => x.len == 0 || (if x.dram then 2 ^ 26 else 2 ^ 21) < x.len || inl
  | 2 => x.len == 0 || 2 ^ 18 < x.len || inl
  | 3 => 3 < x.dtype || 7 < x.aop || x.raddr % x.wordBytes != 0 || (x.fetch && !x.dram) || inl
  | 4 =>
    let n := redBytes x.dtype
    !(x.dtype == 0 || x.dtype == 2 || x.dtype == 4 || x.dtype == 5 || x.dtype == 6) || !(x.aop == 0 || x.aop == 4 || x.aop == 5) ||
      x.len % n != 0 || 2 ^ 18 < x.len || x.raddr % n != 0 || x.laddr % n != 0 || 64 < x.nContrib ||
      (plumb && 4 ≤ x.dtype && x.aop == 0 && x.nContrib == 0) || inl
  | 5 => x.len == 0 || 2 ^ 18 < x.len || 64 ≤ x.peer || inl
  | 6 => x.rsigInc == 0 || inl
  | 7 => inl
  | 8 => x.len == 0 || 4032 < x.len || inl
  | _ => true

/-! ### Peers and groups -/

/-- Physical addresses of a peer entry and of a group entry. -/
def peerPa (s : State) (f p : Nat) : Nat := rd s Reg.fabVfPeerBase f % 2 ^ 39 / 8 * 8 + 8 * p
def groupPa (s : State) (f g : Nat) : Nat := rd s Reg.fabVfMcastBase f % 2 ^ 39 / 256 * 256 + 256 * g

/-- The peer entry an index names: node and function (R193); none gives PERMISSION. -/
def peerOf (s : State) (f p : Nat) : Option (Nat × Nat) :=
  let pa := peerPa s f p
  if rd s Reg.fabVfPeerCount f ≤ p ∨ lotOwnerOf s (lotOf pa) ≠ 0x3FD then none
  else
    let e := memNat s pa 8
    let vf := bitsOf e 11 10
    if bitOf e 0 = false ∨ bitsOf e 21 43 ≠ 0 ∨ 512 < vf ∨ (f ≠ 0 ∧ vf = 0) then none else some (bitsOf e 1 10, vf)

/-- The members of a multicast group: node and function (R196); none gives PERMISSION. -/
def groupOf (s : State) (f g : Nat) : Option (List (Nat × Nat)) :=
  let pa := groupPa s f g
  if rd s Reg.fabVfMcastCount f ≤ g ∨ lotOwnerOf s (lotOf pa) ≠ 0x3FD then none
  else
    let mask := memNat s pa 8
    let fns := (List.range 64).map (fun i => memNat s (pa + 8 + 2 * i) 2)
    if memNat s (pa + 0x88) 0x78 ≠ 0 ∨ fns.any (fun v => 512 < v) then none
    else some ((bitList 64 mask).map (fun i => (ownNode s / 64 * 64 + i, fns.getD i 0)))

/-! ### Checks (R126, R199) -/

/-- Yard and DRAM sides of a FABRIC command: bytes read at local_addr, and bytes written there. -/
def FabCmd.reads (x : FabCmd) : Nat := if (x.op = 2 ∨ x.op = 4 ∨ x.op = 5 ∨ x.op = 8) ∧ !x.inline_ then x.len else 0
def FabCmd.writes (x : FabCmd) : Nat := if x.op = 1 then x.len else if x.op = 3 ∧ x.fetch then x.wordBytes else 0

/-- Staged payload bytes that count against the commit buffer (R134, R198). -/
def FabCmd.staged (x : FabCmd) : Nat :=
  if x.op = 2 ∨ x.op = 4 ∨ x.op = 5 ∨ x.op = 8 then x.len else if x.op = 3 then 16 else if x.op = 6 then 4 else 0

/-- The destinations a command names; none gives PERMISSION. -/
def FabCmd.dests (s : State) (f : Nat) (x : FabCmd) : Option (List (Nat × Nat)) :=
  if x.op = 5 then groupOf s f x.peer
  else if x.op = 7 ∧ x.fenceAll then some []
  else (peerOf s f x.peer).map (fun p => [p])

/-- The DRAM bytes of the entry a command's peer field names. -/
def FabCmd.entry (s : State) (f : Nat) (x : FabCmd) : List (Nat × Nat) :=
  if x.op = 5 then (if rd s Reg.fabVfMcastCount f ≤ x.peer then [] else [(groupPa s f x.peer, 256)])
  else if (x.op = 7 ∧ x.fenceAll) ∨ rd s Reg.fabVfPeerCount f ≤ x.peer then []
  else [(peerPa s f x.peer, 8)]

/-- The destinations as the device reads them; an entry that cannot be read counts as not valid (R163; DESIGN CHOICE: Table 06.4 has no row for
it). -/
def destsRead (s : State) (f : Nat) (x : FabCmd) : State × Option (List (Nat × Nat)) :=
  match senseRuns s 5 0 (x.entry s f) with
  | (s, some _) => (s, none)
  | (s, none) => (s, x.dests s f)

/-- Translate a range that may be empty. -/
def translateIf (s : State) (f va n : Nat) (write : Bool) : State × Except XFault (List (Nat × Nat)) :=
  if n = 0 then (s, .ok []) else translate s f va n write

/-- Translate the device DRAM of a command at local_addr: what it reads there, and what it writes. -/
def fabSides (s : State) (f : Nat) (x : FabCmd) : State × Except XFault (List (Nat × Nat) × List (Nat × Nat)) :=
  match translateIf s f x.laddr x.reads false with
  | (s, .error e) => (s, .error e)
  | (s, .ok a) => match translateIf s f x.laddr x.writes true with
    | (s, .error e) => (s, .error e)
    | (s, .ok b) => (s, .ok (a, b))

/-- The runs of a command's device DRAM: none in the Yard, what it registered, or its translation now. -/
def fabOnce (s : State) (c : Cmd) (x : FabCmd) : State × Except XFault (List (Nat × Nat) × List (Nat × Nat)) :=
  if !x.dram then (s, .ok ([], [])) else if c.ranges ≠ [] then (s, .ok (c.srcRuns, c.dstRuns)) else fabSides s c.owner.fn x

/-- The checks of a FABRIC command, its page sets, and its local translation. -/
def fabricPlan (s : State) (c : Cmd) : State × Except (Status × Nat) Cmd :=
  let x := fabOf c
  let f := c.owner.fn
  let rd0 := if !x.dram ∧ x.reads ≠ 0 then [(x.laddr, x.reads)] else []
  let wr0 := if !x.dram ∧ x.writes ≠ 0 then [(x.laddr, x.writes)] else []
  let yard := yardCheck (spacePages s c) rd0 wr0
  let dr := destsRead s f x
  let dests := dr.2
  if x.reserved || x.op == 0 || 8 < x.op || !x.unusedClear || x.rangeBad c.bodyLen (rdB s Reg.plumbPlumb 0) then
    (s, .error (.badFormat, 0))
  else if yard.any (fun e => e.1 == .badFormat) then (s, .error (.badFormat, 0))
  else if x.op ≠ 8 ∧ (dests.getD []).any (fun d => !sameDomain s d.1) then (s, .error (.badFormat, 0))
  else if rd s Reg.caps0JeanoPortMask 0 = 0 then (s, .error (.noUnit, 0))
  else if !fnReady s 15 ∨ (x.dram ∧ !((List.range 4).all (fun i => fnReady s (9 + i)))) then (s, .error (.notReady, 0))
  else if dests.isNone then (dr.1, .error (.permission, 0))
  else match yard with
    | some e => (dr.1, .error e)
    | none =>
      match fabOnce dr.1 c x with
      | (s, .error e) => (s, .error (.translationFault, e.va))
      | (s, .ok (a, b)) =>
        if cmdQuota s c true then (s, .error (.quota, 0))
        else if f ≠ 0 ∧ rdLive s Reg.fabVfPir f = 0 then (s, .error (.policed, 0))
        else (s, .ok { c with rpages := pagesOf rd0, wpages := pagesOf wr0, srcRuns := a, dstRuns := b,
                              ranges := if x.op = 1 then runLines b true else [] })

/-- Space of a bench's 256 KiB commit buffer (R134), and of the range table. -/
def fabricFree (s : State) (c : Cmd) : Bool :=
  let used := ((s.work.cmds.filter (fun e => e.2.open_ && e.2.opcode == 5 && e.2.bench == c.bench)).map (fun e => (fabOf e.2).staged)).sum
  used + (fabOf c).staged ≤ 2 ^ 18 &&
  (c.ranges == [] || rangesHeld s s.work.nextCid - (if c.st == .requeued then c.sides else 0) + c.sides ≤ 512)

/-! ### Execution -/

/-- Class of a function's fabric traffic: S for PF0, T for VFs. -/
def fabClass (f : Nat) : TClass := if f = 0 then .s else .t

/-- A request of a function to a destination. -/
def request (s : State) (c : Cmd) (kind : MsgKind) (x : FabCmd) (d : Nat × Nat) (addr : Nat) (data : List Byte) (len : Nat) : Msg :=
  { Msg.blank with kind := kind, cls := fabClass c.owner.fn, ordered := x.ordered, srcNode := ownNode s, dstNode := d.1,
                   srcFn := c.owner.fn, dstFn := d.2, srcEpoch := (getCtx s (cmdCtx c)).epoch, addr := addr, data := data, len := len,
                   tag := c.tag, aux := x.dtype + 16 * x.aop, fetch := x.fetch }

/-- The 4 KiB segments of an operation: offset and bytes (R200). -/
def segments (raddr len : Nat) : List (Nat × Nat) := (pieces raddr len 4096).map (fun p => (p.1 - raddr, p.2))

/-- The payload of a command: inline, from its Yard, or from device DRAM. -/
def fabPayload (s : State) (c : Cmd) (x : FabCmd) : List Byte :=
  if x.inline_ then leBytes x.len (c.b 512 (8 * x.len))
  else if x.dram then runBytes s c.srcRuns
  else let y := getCtx s (cmdCtx c)
       (List.range x.len).map (fun i => y.byte (x.laddr + i))

/-- The messages a command stages for one destination: its segments, then its rsig (R198, R200, R203). -/
def stagedFor (s : State) (c : Cmd) (x : FabCmd) (payload : List Byte) (d : Nat × Nat) : List Msg :=
  let sig := leBytes 4 (x.rsigTally + x.rsigInc * 2 ^ 16)
  let rsig := if x.rsigInc = 0 then [] else [{ request s c .signal x d 0 sig 0 with ordered := false }]
  match x.op with
  | 2 | 5 => (segments x.raddr x.len).map (fun g => request s c .write x d (x.raddr + g.1) ((payload.drop g.1).take g.2) g.2) ++ rsig
  | 3 => [request s c .atomic x d x.raddr (leBytes 8 x.operand ++ leBytes 8 x.compare) 0]
  | 4 => (segments x.raddr x.len).map (fun g =>
           request s c .reduce x d (x.raddr + g.1) (leBytes 8 (x.round + x.nContrib * 2 ^ 32) ++ (payload.drop g.1).take g.2) g.2)
  | 6 => rsig
  | 8 => [request s c .msg x d 0 payload x.len]
  | _ => []

/-- Execute a GET: it waits for its destination's ranges and pays for the lines it will write, then sends its read requests. -/
def runGet (s : State) (cid : Nat) (c : Cmd) (x : FabCmd) (d : Nat × Nat) : Ran :=
  if c.awaits ≠ [] then .wait s c
  else if rangeBlocked s cid c.regSeq c.ranges then .wait s c
  else
    match payDram s c (runCost c.dstRuns true) with
    | (s, c, false) => .wait s c
    | (s, c, true) =>
      if spoiledFor s d.1 (fabClass c.owner.fn) then
        let bs := List.replicate x.len (0xFF : Byte)
        .ok s { getTake c 0 bs with status := .targetDead }
      else
        let segs := segments x.raddr x.len
        let first := s.fab.nextMid
        let c := { c with awaits := (List.range segs.length).map (first + ·) }
        let s := putCmd s cid c
        let s := segs.foldl (fun s g => enqueue s (request s c .read x d (x.raddr + g.1) [] g.2) cid x.peer g.1 [] none false none) s
        .wait s ((getCmd s cid).getD c)

/-- Execute a FENCE: take the snapshot at its first issue, and end when all of it has settled (R209). -/
def runFence (s : State) (c : Cmd) (x : FabCmd) (dests : List (Nat × Nat)) : Ran :=
  let snap := if c.awaits ≠ [] then c.awaits
    else (s.fab.unacked.filter (fun e => e.2.msg.srcFn == c.owner.fn && e.2.msg.kind != .coll &&
      (x.fenceAll || dests.any (fun d => d.1 == e.2.msg.dstNode && d.2 == e.2.msg.dstFn)))).map (·.1)
  if snap.any (fun m => (getUn s m).isSome) then .wait s { c with awaits := snap }
  else match snap.findSome? (fun m => mapFind s.fab.settled m) with
    | some st => .fail s st 0
    | none => .ok s { c with awaits := [] }

/-- Execute a FABRIC command: GET and FENCE wait; the others read their payload and stage it in the commit buffer (R133, R198). What a fetching
ATOMIC will write waits for the ranges registered there (R104). -/
def fabricRun (s : State) (cid : Nat) (c : Cmd) : Ran :=
  let x := fabOf c
  let dests := (x.dests s c.owner.fn).getD []
  match x.op, dests with
  | 7, _ => runFence s c x dests
  | 1, d :: _ => runGet s cid c x d
  | 1, [] => .fail s .permission 0
  | _, _ =>
    if rangeBlocked s cid s.work.nextSeq (runLines c.srcRuns false ++ runLines c.dstRuns true) then .wait s c
    else match payDram s c (runCost c.srcRuns false + runCost c.dstRuns true) with
      | (s, c, false) => .wait s c
      | (s, c, true) =>
        let c := { c with kills := if transientIn s c.srcRuns then Nat.min 255 (c.kills + 1) else c.kills }
        match senseRuns s 0 c.tag c.srcRuns with
        | (s, some l) => .fail s .memUe (x.laddr + byteInLine c.srcRuns l)
        | (s, none) =>
          let payload := fabPayload s c x
          let out := (x.op = 2 ∨ x.op = 5 ∨ x.op = 8)
          .ok s { c with buf := dests.flatMap (stagedFor s c x payload), hasOut := out, assay := if out then crc64 payload else 0 }

/-- Issue or start a FABRIC command with one op; an op that is reserved is taken by any of these rows. -/
def fabricCmd (s : State) (cid op : Nat) : State :=
  issueBench s cid (fun c => c.opcode == 5 && (c.b 0 4 == op || c.b 0 4 == 0 || 8 < c.b 0 4)) fabricPlan fabricFree fabricRun

/-- GET (R198): reads remote memory into Yard shadows or an owned DRAM range. -/
def execGet (cid : Nat) (s : State) : Ans := .next (deliverLocal (fabricCmd s cid 1))

/-- PUT (R198): stages a payload, sent at commit. -/
def execPut (cid : Nat) (s : State) : Ans := .next (fabricCmd s cid 2)

/-- ATOMIC (R210): stages a read-modify-write of a remote word, sent at commit. -/
def execAtomic (cid : Nat) (s : State) : Ans := .next (fabricCmd s cid 3)

/-- FABRIC REDUCE (R213). -/
def execFabricReduce (cid : Nat) (s : State) : Ans := .next (fabricCmd s cid 4)

/-- MCAST_PUT (R215). -/
def execMcastPut (cid : Nat) (s : State) : Ans := .next (fabricCmd s cid 5)

/-- SIGNAL (R203). -/
def execSignal (cid : Nat) (s : State) : Ans := .next (fabricCmd s cid 6)

/-- FENCE (R209). -/
def execFence (cid : Nat) (s : State) : Ans := .next (fabricCmd s cid 7)

/-- MSG_SEND (R224). -/
def execMsgSend (cid : Nat) (s : State) : Ans := .next (fabricCmd s cid 8)

/-! ### Hand-over at commit -/

/-- The egress credit a commit needs is space for its messages in the replay store (R132, R205). -/
def egressCredit (s : State) (c : Cmd) : Bool := replayBytes s + (c.buf.map Msg.size).sum ≤ 2 ^ 24

/-- The copy of a multicast that the column of a message already has on its way (R215): one to another member there, of the same segment. The
members of the device's own column get copies of their own. -/
def columnLead (s : State) (cid : Nat) (m : Msg) : Option Nat :=
  if m.dstNode % 8 = ownNode s % 8 then none
  else (s.fab.unacked.find? (fun e => e.2.cid == cid && e.2.mcast && e.2.lead.isNone && e.2.msg.kind == m.kind && e.2.msg.addr == m.addr &&
    e.2.msg.dstNode % 8 == m.dstNode % 8)).map (·.1)

/-- Hand one staged message to its port (R204): a release waits for the earlier messages of its flow and for every segment of its command
(R203). -/
def handOver (s : State) (cid peer : Nat) (mcast : Bool) (m : Msg) : State :=
  let mid := s.fab.nextMid
  let after := if m.kind = .signal then
      (s.fab.unacked.filter (fun e => flowKey e.2.msg == flowKey m || (e.2.cid == cid && e.2.msg.kind != .signal))).map (·.1) else []
  let s := match getCmd s cid with
    | some c => if m.kind = .atomic ∧ m.fetch then putCmd s cid { c with awaits := [mid] } else s
    | none => s
  let mcast := mcast && m.kind != .signal
  enqueue s m cid peer 0 after none mcast (if mcast then columnLead s cid m else none)

/-- Hand over all of a command's messages: its segments, then its releases (R203, R204). -/
def handAll (s : State) (cid : Nat) (c : Cmd) : State :=
  let give (s : State) (m : Msg) : State := handOver s cid (c.b 8 10) (c.opcode == 5 && c.b 0 4 == 5) m
  (c.buf.filter (fun m => m.kind == .signal)).foldl give ((c.buf.filter (fun m => m.kind != .signal)).foldl give s)

end Sys2Proof.Machine
end

