-- ==== Sys2Proof/Machine/Commit.lean ====
section
/-! DEFINITION. The commit of a bench command (R84, R100, R132-R136, R71, R129), frame zeroing (R82), and the TALLY commands
(R130). -/

namespace Sys2Proof.Machine

/-- A command that a device in the watch set checks by a shadow run (R485): SLAB or DRESSER, a read set of at most 64 pages, and
(command index + sq_index) mod shadow_n = 0. -/
def shadowSelected (s : State) (c : Cmd) : Bool :=
  rdB s Reg.healthShadowActive 0 && (c.opcode == 1 || c.opcode == 2) && c.rpages.length ≤ 64 &&
  (match c.owner with
    | .radio _ _ _ => false
    | .queue f q =>
      match getStep s (qKey f q) with
      | none => false
      | some x => (c.idx + x.sqIndex) % Nat.max 1 (rd s Reg.healthShadowShadowN 0) == 0)

/-- Resolve the write set of a command into its context's Yard (R84): its bytes become visible, its pages are mapped, and the pages of
a DISCARD are unmapped. -/
def resolveYard (x : Ctx) (c : Cmd) : Ctx :=
  let yard := c.writes.foldl (fun y e => mapPut y e.1 e.2 0) x.yard
  { x with yard := yard.filter (fun e => !c.discard.contains (e.1 / 65536)),
           mapped := (c.wpages.foldl insertNat x.mapped).filter (fun p => !c.discard.contains p) }

/-- Frames a commit releases: one for every page of its write set that was mapped. -/
def framesReleased (x : Ctx) (c : Cmd) : Nat := (c.wset.filter (fun p => x.mapped.contains p)).length

/-- The point of no return may be reached (R132): the command has executed and is no chain member, the waits of R85 are over, its
egress credit is granted, and a shadow check it needs is done (R485). -/
def mayCommit (s : State) (cid : Nat) (c : Cmd) : Bool :=
  c.st == .issued && !c.member && !commitBlocked s (cmdCtx c) cid c && egressCredit s c && (!shadowSelected s c || c.checked)

/-- Complete the members of a closed chain with the closing command's status, signalling in member order (R71, R129). -/
def closeMembers (s : State) (members : List Nat) (st : Status) : State :=
  members.foldl (fun s m =>
    match getCmd s m with
    | none => s
    | some c =>
      let s := if st = .ok ∨ st = .accOverflow then applySignals s c.owner.tallies c.signals else s
      finish s m { c with commitNs := now s } st 0) s

/-- Bytes that a GET has gathered for device DRAM are written: over a line that is covered only in part and cannot be read the write fails, and
the command completes with MEM_UE (R163). -/
def commitDram (s : State) (c : Cmd) : State × Option Nat :=
  if c.dramWrites = [] then (s, none)
  else writeRuns s 0 c.tag c.dstRuns ((runAddrs c.dstRuns).map (fun a => mapGet c.dramWrites a 0))

/-- COMMIT (R133): Yard resolution and issue of the commit buffer, release of the ranges, then the tally signals. A fetching ATOMIC whose
final status is still open signals with it (R129; DEDUCED). -/
def commitCmd (s : State) (cid : Nat) (c : Cmd) : State :=
  let key := cmdCtx c
  let x := getCtx s key
  let s := releaseFrames s c (framesReleased x c)
  let s := putCtx s key (resolveYard x c)
  let w := commitDram s c
  let s := w.1
  let c := match w.2 with
    | some l => { c with status := .memUe, fault := c.b 64 48 + byteInLine c.dstRuns l }
    | none => c
  let done := { c with commitNs := now s, st := .committing, held := false, snap := none, ranges := [] }
  let s := putCmd s cid done
  let s := handAll s cid c
  let ok := c.status == .ok || c.status == .accOverflow
  let s := closeMembers s c.chain c.status
  let s := match getCmd s cid with
    | none => s
    | some d =>
      if d.st ≠ .committing ∨ d.awaits.any (fun m => (getUn s m).isSome) then s
      else finish (if ok then applySignals s c.owner.tallies c.signals else s) cid { d with buf := [] } c.status c.fault
  showBench s c.bench

/-- COMMIT (R133). -/
def execCommit (cid : Nat) (s : State) : Ans :=
  .next (match getCmd s cid with
    | none => s
    | some c => if mayCommit s cid c then deliverLocal (commitCmd s cid c) else s)

/-- FRAME_ZEROING_DONE (R82): one released frame has been zeroed and returns to the free pool. -/
def execFrameZeroingDone (bench : BitVec 5) (s : State) : Ans :=
  let b := bench.toNat
  let x := getBench s b
  .next (if benchCount s ≤ b then s
    else showBench (putBench s b (if x.zeroing = 0 then { x with radioZeroing := x.radioZeroing - 1 } else { x with zeroing := x.zeroing - 1 })) b)

/-! ### TALLY commands (R130) -/

/-- The body checks of a TALLY command. -/
def tallyBad (c : Cmd) : Bool :=
  let op := c.b 0 4
  op == 0 || 3 < op || c.b 4 12 != 0 || c.b 26 6 != 0 || c.b 70 442 != 0 || (op != 2 && (c.b 16 10 != 0 || c.b 32 32 != 0)) ||
    (op != 3 && c.b 64 6 != 0)

/-- Issue and commit a TALLY command: SET replaces the value, the signals follow, then NOTIFY raises its vector; a radio NOTIFY writes a
completion entry to the posting core instead (R323). -/
def tallyCmd (s : State) (cid op : Nat) : State :=
  match getCmd s cid with
  | none => s
  | some c =>
    let k := c.b 0 4
    if c.opcode ≠ 6 ∨ !(k == op || k == 0 || 3 < k) ∨ streamReady s c = false then s
    else if tallyBad c then finish s cid c .badFormat 0
    else if !c.owner.isRadio && quotaBad s c.owner.fn false then finish s cid c .quota 0
    else
      let t := c.owner.tallies
      let s := if k = 2 then tallyPut s t (c.b 16 10) (c.b 32 32) else s
      let s := applySignals s t c.signals
      let s := if k = 3 ∧ !c.owner.isRadio then raiseMsix s c.owner.fn (c.b 64 6) else s
      finish s cid { c with commitNs := now s } .ok 0

/-- TALLY SIGNAL (R130). -/
def execTallySignal (cid : Nat) (s : State) : Ans := .next (tallyCmd s cid 1)

/-- TALLY SET (R130). -/
def execTallyCmdSet (cid : Nat) (s : State) : Ans := .next (tallyCmd s cid 2)

/-- TALLY NOTIFY (R130). -/
def execNotify (cid : Nat) (s : State) : Ans := .next (tallyCmd s cid 3)

end Sys2Proof.Machine
end

