-- ==== Sys2Proof/Machine/Slot.lean ====
section
/-! DEFINITION. The context save slot (Table 13.7): its bytes, writing it to a function's save lot and reading it back (R374, R375). -/

namespace Sys2Proof.Machine

/-- Length of the part of a slot before its pages that a save writes and slot_assay covers. -/
def slotHead : Nat := 0x8C000

/-- Address of context c's slot in function f's save lot (R374). -/
def slotBase (s : State) (f c : Nat) : Nat := rd s Reg.bankPartSaveLot f * 2 ^ 30 + c * 13 * 2 ^ 20

/-- The 8 bytes of bank0 or bank1. -/
def bankWord (b : Bank) : Nat :=
  codeOf b.ew 10 + bit01 b.complex * 2 ^ 10 + bit01 b.isOpen * 2 ^ 11 + b.members.length % 512 * 2 ^ 20

/-- The 32 bytes of a chain member. -/
def memberBytes (s : State) (cid : Nat) : List Byte :=
  match getCmd s cid with
  | none => leBytes 32 0
  | some c =>
    match c.owner with
    | .radio _ _ _ => leBytes 32 0
    | .queue f q =>
      let ring := match getStep s (qKey f q) with | some x => x.sqIndex | none => 0
      leBytes 16 (q + ring % 4096 * 2 ^ 6 + c.idx % 65536 * 2 ^ 32 + c.tag * 2 ^ 48 + c.nSignal * 2 ^ 64) ++ leBytes 16 (c.f 320 128)

/-- The parts of a slot that hold something, by offset. -/
def slotParts (s : State) (f c : Nat) (x : Ctx) : List (Nat × List Byte) :=
  let bank (b : Bank) (i : Nat) : List (Nat × List Byte) :=
    [(0x28 + 8 * i, leBytes 8 (bankWord b)), (0x800 + 0x800 * i, leBytes 2048 (ofBitList b.init)),
     (0x2000 + 0x2000 * i, b.members.flatMap (memberBytes s)),
     (0x8000 + 0x2000 * i, leBytes 8192 ((b.cells.map (fun e => e.2.flags * 16 ^ e.1)).sum))] ++
    b.cells.map (fun e => (0xC000 + 0x40000 * i + 16 * e.1, leBytes 16 e.2.value.toNat))
  [(0, leBytes 4 1), (4, leBytes 2 f), (6, leBytes 1 c), (7, leBytes 1 x.epoch), (8, leBytes 1 x.pages),
   (0x10, leBytes 24 (ofBitList x.mapped))] ++ bank x.bank0 0 ++ bank x.bank1 1 ++ x.yard.map (fun e => (0x100000 + e.1, [e.2]))

/-- The bytes of a slot that are not zero, by offset, without slot_assay. -/
def slotMap (s : State) (f c : Nat) (x : Ctx) : SMap Byte :=
  (slotParts s f c x).foldl (fun m p => (p.2.zipIdx).foldl (fun m b => mapPut m (p.1 + b.2) b.1 0) m) []

/-- slot_assay over a slot's bytes: all of it but slot_assay itself, then its mapped pages (Table 13.7). -/
def slotAssay (byte : Nat → Byte) (mapped : List Nat) : Nat :=
  let run (a n : Nat) : List Byte := (List.range n).map (fun i => byte (a + i))
  crc64 (run 0 0x38 ++ run 0x40 (slotHead - 0x40) ++ mapped.flatMap (fun n => run (0x100000 + 0x10000 * n) 0x10000))

/-- Replace whole lines of DRAM by the listed bytes, zero where nothing is listed. -/
def dramReplace (s : State) (pa n : Nat) (bytes : SMap Byte) : State :=
  let s := (pieces pa n (2 ^ 21)).foldl (fun s p => markRegion s p.1) s
  let keep := s.mem.dram.filter (fun c => c.1 < pa ∨ pa + n ≤ c.1)
  { s with mem := { s.mem with
    dram := (bytes.filter (fun e => pa ≤ e.1 ∧ e.1 < pa + n)).foldl (fun m e => mapPut m e.1 e.2 0) keep
    stored := ((List.range (n / 64)).map (pa / 64 + ·)).foldl (fun m l => mapSet m l (lineKey s l)) s.mem.stored
    err := s.mem.err.filter (fun e => e.2.hard = true ∨ e.1 * 64 < pa ∨ pa + n ≤ e.1 * 64) } }

/-- The physical runs of a slot: its head and its mapped pages. -/
def slotRuns (base : Nat) (mapped : List Nat) : List (Nat × Nat) :=
  (base, slotHead) :: mapped.map (fun n => (base + 0x100000 + 0x10000 * n, 0x10000))

/-- Save a context to its slot (R373). -/
def writeSlot (s : State) (f c : Nat) (x : Ctx) : State :=
  let base := slotBase s f c
  let m := slotMap s f c x
  let a := slotAssay (fun o => mapGet m o 0) x.mapped
  let m := (leBytes 8 a).zipIdx.foldl (fun m b => mapPut m (0x38 + b.2) b.1 0) m
  let abs := m.map (fun e => (base + e.1, e.2))
  (slotRuns base x.mapped).foldl (fun s r => dramReplace s r.1 r.2 abs) s

/-- The command of a function that a member entry names: by queue, ring index and command index. -/
def memberCid (s : State) (f q ring idx : Nat) : Option Nat :=
  (s.work.cmds.find? (fun e => e.2.owner == .queue f q && e.2.idx == idx &&
    (match getStep s (qKey f q) with | some x => x.sqIndex == ring | none => false))).map (·.1)

/-- A bank as a slot holds it. -/
def readBank (s : State) (f base i : Nat) : Bank :=
  let num (off n : Nat) : Nat := memNat s (base + off) n
  let w := num (0x28 + 8 * i) 8
  let mem (j : Nat) : Option Nat :=
    let e := num (0x2000 + 0x2000 * i + 32 * j) 16
    memberCid s f (bitsOf e 0 6) (bitsOf e 6 12) (bitsOf e 32 16)
  { ew := signedOf w 10, complex := bitOf w 10, isOpen := bitOf w 11,
    members := (List.range (bitsOf w 20 9)).filterMap mem,
    init := bitList 16384 (num (0x800 + 0x800 * i) 2048),
    cells := (List.range 16384).filterMap (fun k =>
      let a := num (0xC000 + 0x40000 * i + 16 * k) 16
      let fl := bitsOf (num (0x8000 + 0x2000 * i + k / 2) 1) (k % 2 * 4) 4
      if a = 0 ∧ fl = 0 then none
      else some (k, { a := BitVec.ofNat 128 a, ovf := bitOf fl 0, trunc := bitOf fl 1, nan := bitOf fl 2, inf := bitOf fl 3 })) }

/-- A slot's header names this context, and its assay holds. -/
def slotGood (s : State) (f c base : Nat) (mapped : List Nat) : Bool :=
  memNat s base 4 % 16 == 1 && memNat s (base + 4) 2 == f && memNat s (base + 6) 1 == c &&
    memNat s (base + 0x38) 8 == slotAssay (fun o => memDeliver s (base + o)) mapped

/-- Read a slot back (R375): the state after the reads, and the context where the slot can be read and checks. A slot that fails is
read once more; a failed check that no uncorrectable read explains gets a fault record. -/
def readSlot (s : State) (f c : Nat) : State × Option Ctx :=
  let base := slotBase s f c
  let mapped := bitList 192 (memNat s (base + 0x10) 24)
  match senseRuns s 5 0 (slotRuns base mapped) with
  | (s, some _) => ((senseRuns s 5 0 (slotRuns base mapped)).1, none)
  | (s, none) =>
    if !slotGood s f c base mapped then (faultRecord s 3 5 0 (base / 64) 0, none)
    else
      let p := yardShare s f
      let kept := mapped.filter (· < p)
      (s, some { Ctx.fresh with
        yard := kept.flatMap (fun n => (List.range 0x10000).filterMap (fun i =>
          let b := memDeliver s (base + 0x100000 + 0x10000 * n + i)
          if b = 0 then none else some (0x10000 * n + i, b)))
        mapped := kept, pages := p, bank0 := readBank s f base 0, bank1 := readBank s f base 1,
        epoch := memNat s (base + 7) 1, res := .saved })

end Sys2Proof.Machine
end

