-- ==== Sys2Proof/Machine/Banksman.lean ====
section
/-! DEFINITION. The Banksman: what contexts wait and why (R354-R356), partitions and their ranking (R357-R361), radio floors and the
Wedge (R363-R372), context switches (R373-R377), and power states (R379-R383): rows FLOOR_PLAN_POINT to IDLE_DARK_EXPIRY and
WAKE_COMPLETE. -/

namespace Sys2Proof.Machine

/-! ### Contexts (R354) -/

/-- Bench commands of a tenant context. -/
def ctxCmds (s : State) (key : Nat) : List (Nat × Cmd) :=
  s.work.cmds.filter (fun e => !e.2.owner.isRadio && (e.2.opcode ≤ 3 || e.2.opcode == 5) && e.2.opcode != 0 && cmdCtx e.2 == key)

/-- A FABRIC command that lacks commit-buffer space (R134). -/
def lacksBuffer (s : State) (c : Cmd) : Bool := c.opcode == 5 && !fabricFree s c

/-- A command meets every issue condition but a free engine. -/
def readyCmd (s : State) (c : Cmd) : Bool := streamReady s c && !lacksBuffer s c

/-- A command is executing: dispatched, or executed and waiting to commit. An executed chain member is not. -/
def Cmd.running (c : Cmd) : Bool := c.open_ && !(c.member && c.st == .issued)

/-- An executing command of the blocked set (R354). -/
def inBlockedSet (s : State) (cid : Nat) (c : Cmd) : Bool :=
  (c.opcode == 5 && c.st == .dispatched && (c.b 0 4 == 7 || (c.b 0 4 == 1 && c.awaits != []))) ||
  (c.st == .issued && !egressCredit s c) ||
  (c.st == .dispatched && rangeBlocked s cid c.regSeq c.ranges)

/-- A context is runnable. -/
def runnable (s : State) (key : Nat) : Bool :=
  (ctxCmds s key).any (fun e => readyCmd s e.2 || (e.2.running && !inBlockedSet s e.1 e.2))

/-- A context is blocked. -/
def blocked (s : State) (key : Nat) : Bool :=
  !runnable s key && (ctxCmds s key).any (fun e => e.2.running || (streamReady s e.2 && lacksBuffer s e.2))

/-- A context is resident on a bench. -/
def resident (s : State) (key : Nat) : Bool := (getCtx s key).bench?.isSome

/-- A context is on its way to a bench. -/
def incoming (s : State) (key : Nat) : Bool :=
  s.yards.benches.any (fun e => match e.2.sw with | some w => w.incoming == some key | none => false)

/-- A context is runnable and has no bench. -/
def waiting (s : State) (key : Nat) : Bool := !resident s key && !incoming s key && runnable s key

/-- The tenant contexts that hold something or have commands. -/
def ctxKeys (s : State) : List Nat :=
  (((s.work.cmds.filter (fun e => !e.2.owner.isRadio)).map (fun e => cmdCtx e.2)) ++ (s.yards.ctxs.map (·.1)).filter (· < 16416)).eraseDups

/-- The waiting contexts. -/
def waiters (s : State) : List Nat := (ctxKeys s).filter (waiting s)

/-! ### Partitions (R357-R361, R383) -/

/-- The function a bench counts for: of the context it holds or is being given. -/
def benchFn (s : State) (b : Nat) : Option Nat :=
  let x := getBench s b
  match x.sw with
  | some w => w.incoming.map (· / 32)
  | none => x.ctx.map (· / 32)

/-- Enabled benches. -/
def allBenches (s : State) : List Nat := List.range (benchCount s)

/-- Benches that count for a function. -/
def heldBy (s : State) (f : Nat) : List Nat := (allBenches s).filter (fun b => benchFn s b == some f)

/-- Time since when a bench's context has held it. -/
def heldSince (s : State) (b : Nat) : Nat :=
  match (getBench s b).ctx with
  | some k => (getCtx s k).heldNs
  | none => now s

/-- Sum of bench_min over the functions. -/
def minSum (s : State) : Nat := ((List.range (rd s Reg.tenInfoVfs 0 + 1)).map (fun f => rdLive s Reg.bankPartBenchMin f)).sum

/-- Benches a function is entitled to: bench_min, or its part of the thermal cap (R383). -/
def entitled (s : State) (f : Nat) : Nat :=
  let cap := rd s Reg.bankThermTenantCap 0
  let m := rdLive s Reg.bankPartBenchMin f
  if cap < minSum s then m * cap / minSum s else m

/-- The lent benches of a function: those it has held for the shortest time, beyond its entitlement. -/
def lentOf (s : State) (f : Nat) : List Nat :=
  (sortBy (fun a b => heldSince s a < heldSince s b) (heldBy s f)).drop (entitled s f)

/-- Virtual time of a partition. -/
def vtime (s : State) (f : Nat) : Nat := rd s Reg.bankPartVtime f

/-- The bench's context may be replaced, or a free bench filled: no switch, no radio, not quarantined. -/
def benchOpen (s : State) (b : Nat) : Bool :=
  b < benchCount s && (getBench s b).sw.isNone && (getBench s b).hold.isNone && role s b != 3 && fnReady s (32 + b)

/-- A context fits on a bench (R358). -/
def fitsBench (s : State) (key b : Nat) : Bool := !(inRotation s b && 168 < yardShare s (key / 32))

/-- A function may take one more lent bench. -/
def mayBorrow (s : State) (f : Nat) : Bool :=
  (heldBy s f).length < rdLive s Reg.bankPartBenchMax f && rdLive s Reg.bankPartWeight f != 0

/-- A function is below its entitlement. -/
def belowMin (s : State) (f : Nat) : Bool := (heldBy s f).length < entitled s f && (heldBy s f).length < rdLive s Reg.bankPartBenchMax f

/-- Highest class among the steps that have a ready command in a context's streams (R355). -/
def baseClass (s : State) (key : Nat) : Nat :=
  if key / 32 = 0 then 3 else
  ((ctxCmds s key).map (fun e => if readyCmd s e.2 then
    (match e.2.owner with | .queue f q => Nat.min 2 (getQ s (qKey f q)).prio | .radio _ _ _ => 0) else 0)).foldl Nat.max 0

/-- Time a context has waited, ns. -/
def waitedNs (s : State) (key : Nat) : Nat := match (getCtx s key).waitNs with | some t => now s - t | none => 0

/-- The class of a waiting context with aging (R355). -/
def agedClass (s : State) (key : Nat) : Nat :=
  if key / 32 = 0 then 3 else Nat.min 2 (baseClass s key + waitedNs s key / (Nat.max 1 (rd s Reg.bankCfgAgeStepMs 0) * 1000000))

/-- One context ranks before another for a guaranteed or a lent bench (R359): class, virtual time, wait, function and context number. -/
def ranksFirst (s : State) (lent : Bool) (a b : Nat) : Bool :=
  let ca := agedClass s a
  let cb := agedClass s b
  let va := if lent then vtime s (a / 32) else 0
  let vb := if lent then vtime s (b / 32) else 0
  let wa := waitedNs s a
  let wb := waitedNs s b
  cb < ca || (ca == cb && (va < vb || (va == vb && (wb < wa || (wa == wb && a < b)))))

/-- First of a list of contexts in the ranking. -/
def bestCtx (s : State) (lent : Bool) (l : List Nat) : Option Nat := (sortBy (ranksFirst s lent) l).head?

/-! ### What the registers show -/

/-- Show a partition's benches, waiting and blocked contexts. -/
def showPart (s : State) (f : Nat) : State :=
  let mine := (ctxKeys s).filter (fun k => k / 32 == f)
  let s' := wr s Reg.bankPartHeld f (heldBy s f).length
  let s' := wr s' Reg.bankPartWaiting f (mine.filter (waiting s)).length
  wr s' Reg.bankPartBlocked f (mine.filter (fun k => resident s k && blocked s k)).length

/-- Show every function that has contexts. -/
def showParts (s : State) : State := ((ctxKeys s).map (· / 32)).eraseDups.foldl showPart s

/-- Benches held by radio, as BANK_FLOOR.now and BANK_BENCH show them. -/
def showFloor (s : State) (b : Nat) : State :=
  let h := (getBench s b).hold
  let s := wr s Reg.bankBenchFloor b (match h with | some x => bit01 x.ready | none => 0)
  let s := wr s Reg.bankBenchFloorPos b (match h with | some x => x.pos | none => 0)
  wr s Reg.bankFloorNow 0 ((allBenches s).filter (fun o => match (getBench s o).hold with | some x => x.ready | none => false)).length

/-- Note since when contexts wait or are blocked, and start a partition's virtual time where it gains a waiting context (R354, R361). -/
def refreshWaits (s : State) : State :=
  let keys := ctxKeys s
  let before := ((keys.filter (fun k => (getCtx s k).waitNs.isSome)).map (· / 32)).eraseDups
  let upd := keys.foldl (fun s' k =>
    let x := getCtx s k
    let y := { x with waitNs := if waiting s k then (match x.waitNs with | some t => some t | none => some (now s)) else none,
                      blockedNs := if resident s k && blocked s k then (match x.blockedNs with | some t => some t | none => some (now s))
                        else none,
                      idleNs := if resident s k && !blocked s k && !runnable s k then
                          (match x.idleNs with | some t => some t | none => some (now s))
                        else none }
    if y = x then s' else putCtx s' k y) s
  let after := ((keys.filter (fun k => (getCtx upd k).waitNs.isSome)).map (· / 32)).eraseDups
  let active := (before ++ ((List.range (rd s Reg.tenInfoVfs 0 + 1)).filter (fun f => lentOf s f != []))).eraseDups
  let s := (after.filter (fun f => !before.contains f)).foldl (fun s' f =>
    match (active.filter (· != f)).map (vtime s) with
    | [] => s'
    | v :: t => raiseTo s' Reg.bankPartVtime f (t.foldl Nat.min v)) upd
  if keys = [] then s else showParts s

/-- Time passes: bench time, and the virtual time of lent benches (R361). -/
def accrueBenches (s : State) (d : Nat) : State :=
  let fs := ((allBenches s).filterMap (benchFn s)).eraseDups
  fs.foldl (fun s' f =>
    let s' := bump s' Reg.bankPartBenchNs f (d * (heldBy s f).length)
    let w := Nat.max 1 (rdLive s Reg.bankPartWeight f)
    let r := mapGet s'.yards.vrem f 0 + d * (lentOf s f).length
    bump { s' with yards := { s'.yards with vrem := mapSet s'.yards.vrem f (r % w) } } Reg.bankPartVtime f (r / w)) s

/-! ### Context switches (R373-R375) -/

/-- The sweep is done when no run of it is left (R487). -/
def sweepDone (s : State) : State :=
  if rd s Reg.healthProveState 0 = 1 ∧ s.health.due.isEmpty ∧ !s.health.runs.any (·.sweep) then wr s Reg.healthProveState 0 2 else s

/-- A dispatch or a reservation for a bench kills a proving run on it, which is discarded; a sweep lists the bench as skipped (R487). -/
def stopProving (s : State) (b : Nat) : State :=
  match s.health.runs.find? (fun r => r.unit == b && !r.engine) with
  | none => s
  | some r =>
    let s := { s with health := { s.health with runs := s.health.runs.filter (· != r) } }
    if r.sweep then sweepDone (wr s Reg.healthProveSkipped 0 (rd s Reg.healthProveSkipped 0 ||| 2 ^ b)) else s

/-- Start a switch on a bench: the outgoing context gets its grace, a bench with none goes on to the restore. -/
def startSwitch (s : State) (b : Nat) (next : Option Nat) (starve : Bool) : State :=
  let x := getBench s b
  let phase : SwPhase := if x.ctx.isNone then .restore else .grace
  let w : Switch := { outgoing := x.ctx, incoming := next, phase := phase, startNs := now s, graceNs := now s, starve := starve }
  if x.ctx.isNone ∧ next.isNone then s
  else
    let s := putBench (stopProving s b) b { x with sw := some w, waking := x.waking || pstate s b != 0 }
    wr s Reg.benchStateCtxXfer b (bit01 (phase == .restore))

/-- Kill what a context is executing on a bench (R137): everything open that is not past its point, where `all` also executed chain
members, as the Wedge does (R372). A non-killable Skip is never killed (R106). -/
def killCtx (s : State) (b key : Nat) (all : Bool) : State × Nat :=
  let due := s.work.cmds.filter (fun e => e.2.open_ && cmdCtx e.2 == key && (e.2.opcode ≤ 3 || e.2.opcode == 5) && e.2.opcode != 0 &&
    !e.2.nk && (all || !(e.2.member && e.2.st == .issued)))
  (killAll s b due, due.length)

/-- Nothing of a context is left that must commit before its save. -/
def quiet (s : State) (key : Nat) : Bool := !(ctxCmds s key).any (fun e => e.2.running)

/-- Save the outgoing context and free its frames (R373). -/
def saveOut (s : State) (b key : Nat) : State :=
  let c := getCtx s key
  let s := writeSlot s (key / 32) (key % 32) c
  let s := putCtx s key { Ctx.fresh with epoch := c.epoch, pages := c.pages, res := .saved }
  let x := getBench s b
  let s := putBench s b { x with ctx := none, zeroing := x.zeroing + c.mapped.length, deep := false }
  showBench (wr s Reg.benchStateRole b (if role s b = 1 then 0 else role s b)) b

/-- A switch is over: its counts and the mean of the last 1,024 after grace. -/
def countSwitch (s : State) (w : Switch) : State :=
  if w.outgoing.isNone then s
  else
    let l := ((now s - w.graceNs) :: s.yards.switchNs).take 1024
    let s := bump { s with yards := { s.yards with switchNs := l } } Reg.bankSwitchesCount 0 1
    wr (bump s Reg.bankSwitchNsNs 0 (now s - w.startNs)) Reg.bankTSwMeanNs 0 (l.sum / l.length)

/-- Every admitted, uncompleted command of a context completes with MEM_UE (R375). -/
def failCtx (s : State) (key : Nat) : State :=
  ((ctxCmds s key).filter (fun e => e.2.st != .done && e.2.st != .committing)).foldl (fun s e => finish s e.1 e.2 .memUe 0) s

/-- Make a context resident on a bench. -/
def placeCtx (s : State) (b key : Nat) (starve : Bool) : State :=
  let f := key / 32
  let old := getCtx s key
  let r : State × Ctx :=
    match old.res with
    | .saved =>
      (match readSlot s f (key % 32) with
        | (s, some c) => (s, c)
        | (s, none) => (failCtx s key, { Ctx.fresh with epoch := old.epoch, pages := yardShare s f }))
    | _ => (s, { Ctx.fresh with epoch := old.epoch, pages := yardShare s f })
  let s := r.1
  let s := if rd s Reg.bankCfgStarveMs 0 * 1000000 < waitedNs s key then bumpSat s Reg.bankStarveMisses 0 1 else s
  let s := putCtx s key { r.2 with res := .resident b, quantumNs := now s, heldNs := now s, waitNs := none, blockedNs := none, idleNs := none,
                                   starved := starve }
  let s := putBench s b { getBench s b with ctx := some key, sw := none, deep := false }
  showBench (wr (wr s Reg.benchStateCtxXfer b 0) Reg.benchStateRole b 1) b

/-- Drop a switch that has not finished: an outgoing context keeps its bench, an incoming one goes back to waiting. -/
def abandonSwitch (s : State) (b : Nat) : State :=
  wr (putBench s b { getBench s b with sw := none }) Reg.benchStateCtxXfer b 0

/-- The bench is awake. -/
def awake (s : State) (b : Nat) : Bool := pstate s b == 0 && !(getBench s b).waking

/-- GRACE_END (R373): once the grace is over or nothing runs any more, what has not reached its point of no return is killed, and the save
begins. -/
def execGraceEnd (bench : BitVec 5) (s : State) : Ans :=
  let b := bench.toNat
  .next (match (getBench s b).sw with
    | none => s
    | some w =>
      match w.phase, w.outgoing with
      | .grace, some key =>
        if !quiet s key && now s < w.startNs + 1000 * rd s Reg.bankSwitchCfgGraceUs 0 then s else
        let r := killCtx s b key false
        let s := bump r.1 Reg.bankKillsSwitch 0 r.2
        showParts (showBench (wr (putBench s b { getBench s b with sw := some { w with phase := .save, graceNs := now s } })
          Reg.benchStateCtxXfer b 1) b)
      | _, _ => s)

/-- SAVE_DONE (R373): the slot is written, and the incoming context's restore begins, or the bench is free. -/
def execSaveDone (bench : BitVec 5) (s : State) : Ans :=
  let b := bench.toNat
  .next (match (getBench s b).sw with
    | none => s
    | some w =>
      match w.phase, w.outgoing with
      | .save, some key =>
        if !quiet s key || !awake s b then s
        else
          let s := saveOut s b key
          let s := match w.incoming with
            | some _ => putBench s b { getBench s b with sw := some { w with phase := .restore } }
            | none => countSwitch (abandonSwitch s b) w
          showParts (refreshWaits s)
      | _, _ => s)

/-- RESTORE_DONE (R373, R375): the incoming context is resident and its quantum starts. -/
def execRestoreDone (bench : BitVec 5) (s : State) : Ans :=
  let b := bench.toNat
  .next (match (getBench s b).sw with
    | none => s
    | some w =>
      match w.phase, w.incoming with
      | .restore, some key =>
        if !awake s b then s
        else showParts (refreshWaits (countSwitch (placeCtx s b key w.starve) w))
      | _, _ => s)

/-! ### Quantum, starvation, eviction -/

/-- A bench held by a partition is lent. -/
def isLent (s : State) (b : Nat) : Bool := match benchFn s b with | some f => (lentOf s f).contains b | none => false

/-- Tenant benches in use, against the thermal cap (R383). -/
def tenantBenches (s : State) : Nat := ((allBenches s).filter (fun b => (benchFn s b).isSome)).length

/-- The context a free bench goes to (R359, Table 13.1): of a partition below its minimum first, then the rest. -/
def freeBenchTaker (s : State) (b : Nat) : Option Nat :=
  let fit := (waiters s).filter (fun k => fitsBench s k b && saveLotOk s (k / 32))
  match fit.filter (fun k => belowMin s (k / 32)) with
  | [] => bestCtx s true (fit.filter (fun k => mayBorrow s (k / 32)))
  | l => bestCtx s true l

/-- The bench a partition below its minimum takes back: lent, of the partition with the highest virtual time, held longest (R359). -/
def reclaimBench (s : State) (key : Nat) : Option Nat :=
  let lent := (allBenches s).filter (fun b => benchOpen s b && isLent s b && benchFn s b != some (key / 32) && fitsBench s key b)
  let v (b : Nat) : Nat := match benchFn s b with | some f => vtime s f | none => 0
  (sortBy (fun a b => v b < v a || (v a == v b && heldSince s a < heldSince s b)) lent).head?

/-- The effective quantum of a function, ns (R360): its own, raised so far that the switch overhead keeps eff_pct. -/
def qEff (s : State) (f : Nat) : Nat :=
  let eff := rd s Reg.bankCfgEffPct 0
  Nat.max (rdLive s Reg.bankPartQuantum f * 100000) (cdiv (rd s Reg.bankTSwMeanNs 0 * eff) (100 - eff))

/-- QUANTUM_END (R359): a free bench is given to the context that ranks first; a lent bench is taken back for a partition below its
minimum; an idle context gives way at once; else, once its quantum of q_eff is over, the resident context is ranked with w = 0 and its
quantum renewed, or the bench switched. -/
def execQuantumEnd (bench : BitVec 5) (s : State) : Ans :=
  let b := bench.toNat
  let s := refreshWaits s
  .next (
    if !benchOpen s b then s
    else match (getBench s b).ctx with
      | none =>
        if rd s Reg.bankThermTenantCap 0 ≤ tenantBenches s then s
        else (match freeBenchTaker s b with
          | some k => showParts (startSwitch s b (some k) false)
          | none => s)
      | some key =>
        let f := key / 32
        let needy := (waiters s).filter (fun k => belowMin s (k / 32) && k / 32 != f && saveLotOk s (k / 32))
        match (bestCtx s true needy).filter (fun k => reclaimBench s k == some b) with
        | some k => showParts (startSwitch s b (some k) false)
        | none =>
          let lent := isLent s b
          let cands := (waiters s).filter (fun k => fitsBench s k b && saveLotOk s (k / 32) &&
            (k / 32 == f || (lent && mayBorrow s (k / 32))))
          let idle := !runnable s key && !blocked s key
          let ended := qEff s f ≤ now s - (getCtx s key).quantumNs
          let renewed := putCtx s key { getCtx s key with quantumNs := now s, starved := false }
          if !idle && !ended then s
          else match (if idle then bestCtx s lent cands else bestCtx s lent (key :: cands)) with
            | some k => if k = key then renewed else showParts (startSwitch s b (some k) false)
            | none => if ended then renewed else s)

/-- A bench may be added to what a partition holds: as one it is entitled to, or as a lent one (R358). -/
def mayGain (s : State) (f : Nat) : Bool := mayBorrow s f || belowMin s f

/-- STARVATION_POINT (R356): a context that has waited until 1 ms before starve_ms gets a bench of its own partition or a lent one, the one
held longest. -/
def execStarvationPoint (fn : Fin 513) (ctx : BitVec 5) (s : State) : Ans :=
  let key := ctxKey fn.val ctx.toNat
  let s := refreshWaits s
  .next (
    if !waiting s key || !saveLotOk s fn.val || waitedNs s key + 1000000 < rd s Reg.bankCfgStarveMs 0 * 1000000 then s
    else
      let free := (allBenches s).filter (fun b => benchOpen s b && (getBench s b).ctx.isNone && fitsBench s key b && mayGain s fn.val &&
        decide (tenantBenches s < rd s Reg.bankThermTenantCap 0))
      let pick := (allBenches s).filter (fun b => benchOpen s b && fitsBench s key b &&
        (match (getBench s b).ctx with
          | some k => (k / 32 == fn.val || (isLent s b && mayGain s fn.val)) && !(getCtx s k).starved
          | none => false))
      match free ++ sortBy (fun a b => heldSince s a < heldSince s b) pick with
      | [] => s
      | b :: _ => showParts (startSwitch (bump s Reg.bankStarveSwitches 0 1) b (some key) true))

/-- The benches a waiting context may take under R359. -/
def takeable (s : State) (key : Nat) : List Nat :=
  (allBenches s).filter (fun b => benchOpen s b && fitsBench s key b &&
    (benchFn s b == some (key / 32) || ((isLent s b || (benchFn s b).isNone) && mayGain s (key / 32))))

/-- EVICTION (R377): every bench a waiting context may take is held by a blocked context, one of them blocked for evict_min_us, and the one
blocked longest is killed and saved to make room. -/
def execEviction (fn : Fin 513) (ctx : BitVec 5) (s : State) : Ans :=
  let key := ctxKey fn.val ctx.toNat
  let s := refreshWaits s
  let bs := takeable s key
  let since (b : Nat) : Nat := match (getBench s b).ctx with | some k => ((getCtx s k).blockedNs).getD (now s) | none => now s
  .next (
    if !waiting s key || !saveLotOk s fn.val || !bs.all (fun b => match (getBench s b).ctx with | some k => blocked s k | none => false) ||
        !bs.any (fun b => since b + 1000 * rd s Reg.bankSwitchCfgEvictMinUs 0 ≤ now s) then s
    else match sortBy (fun a b => since a < since b) bs with
      | [] => s
      | b :: _ =>
        match (getBench s b).ctx with
        | none => s
        | some k =>
          let s := (killCtx s b k false).1
          let s := bump (bump s Reg.bankEvictionsCount 0 1) Reg.bankKillsEvict 0 1
          let s := startSwitch s b (some key) false
          match (getBench s b).sw with
          | none => s
          | some w =>
            showParts (showBench (wr (putBench s b { getBench s b with sw := some { w with phase := .save } }) Reg.benchStateCtxXfer b 1) b))

/-! ### Radio floors and the Wedge (R363-R372) -/

/-- Throttle step in force: 0 ÷12, 1 ÷16, 2 ÷24. -/
def throttle (s : State) : Nat := rd s Reg.timeClkStatusADiv 0

/-- Throttle step in force at a later time: a change that is decided takes effect at the next 1 ms subframe boundary (R365, R469). -/
def throttleAt (s : State) (t : Nat) : Nat :=
  match s.power.divNext with
  | some k => if (now s / 1000000 + 1) * 1000000 ≤ t then k else throttle s
  | none => throttle s

/-- Benches and hold of a reservation entry at a throttle step (R365). -/
def resFloor (e : ResEntry) (t : Nat) : Nat × Nat :=
  match t with
  | 0 => (e.count12, e.hold12)
  | 1 => (e.count16, e.hold16)
  | _ => (e.count24, e.hold24)

/-- Slot tag of a reservation whose period starts at a frame: SFN and slot of numerology mu that contain its release (R363, Table
11.5). -/
def resTag (e : ResEntry) (sfn : Nat) : Nat :=
  (sfn + e.releaseNs / 10000000) % 1024 + e.releaseNs % 10000000 / (1000000 / 2 ^ e.mu) * 1024

/-- Preference among benches for radio (R366): no resident context, then none executing, then the others; ties to the lowest. -/
def floorRank (s : State) (b : Nat) : Nat :=
  match (getBench s b).ctx with
  | none => 0
  | some k => if (ctxCmds s k).any (fun e => e.2.running) then 2 else 1

/-- Rotation benches that hold no radio work, in the order of preference (R366). -/
def rotationFree (s : State) : List Nat :=
  let bs := (allBenches s).filter (fun b => inRotation s b && role s b != 3 && fnReady s (32 + b) && (getBench s b).hold.isNone)
  sortBy (fun a b => floorRank s a < floorRank s b) bs

/-- End of a reservation that a bench has been chosen for, at the throttle step of its release (R365). -/
def chosenEnd (s : State) (c : Chosen) : Nat :=
  match s.yards.recipe[c.entry]? with
  | some e => c.releaseNs + (resFloor e (throttleAt s c.releaseNs)).2 * 1000
  | none => c.releaseNs

/-- The bench will hold no radio work at time t, as far as the reservations tell: what it holds or has been chosen for is a reservation
that ends by then (R366). -/
def freeAt (s : State) (b t : Nat) : Bool :=
  (match (getBench s b).hold with | none => true | some h => h.reserved && decide (h.endNs ≤ t)) &&
    (getBench s b).chosen.all (fun c => chosenEnd s c ≤ t)

/-- The rotation benches to choose from for a reservation point, in the order of preference (R366). -/
def planChoice (s : State) (t : Nat) : List Nat :=
  sortBy (fun a b => floorRank s a < floorRank s b)
    ((allBenches s).filter (fun b => inRotation s b && role s b != 3 && fnReady s (32 + b) && freeAt s b t))

/-- Benches that hold no radio work and that no reservation has been given yet. -/
def floorChoice (s : State) : List Nat := (rotationFree s).filter (fun b => (getBench s b).chosen == [])

/-- The benches a radio command beyond the floor may take: every rotation bench without radio work, and among them first those not chosen
for a reservation to come (R28, R368; the order between the two is DEDUCED). -/
def extraChoice (s : State) : List Nat := floorChoice s ++ (rotationFree s).filter (fun b => (getBench s b).chosen != [])

/-- Time from now to the next point of a 10 ms phase at which an entry's reservation point lies (R363). -/
def reserveIn (s : State) (e : ResEntry) : Nat :=
  (e.releaseNs + 20000000 - rd s Reg.bankRotLeadUs 0 * 1000 - now s % 10000000) % 10000000

/-- FLOOR_PLAN_POINT (R363, R366): 50 µs before the reservation point of an entry in the period that begins with a frame, benches are chosen
and woken, and take their positions in order. -/
def execFloorPlanPoint (entry : BitVec 12) (sfn : BitVec 10) (s : State) : Ans :=
  .next (match s.yards.recipe[entry.toNat]? with
    | none => s
    | some e =>
      let reserve := now s + reserveIn s e
      let release := reserve + rd s Reg.bankRotLeadUs 0 * 1000
      if 50000 < reserveIn s e ∨ (rdB s Reg.bankRotPeriod20 0 = true ∧ sfn.toNat % 2 = 1) ∨
          (allBenches s).any (fun b => (getBench s b).chosen.any (fun c => c.entry == entry.toNat && c.reserveNs == reserve)) then s else
      let n := (resFloor e (throttleAt s release)).1
      let bs := sortBy (fun a b => a < b) ((planChoice s reserve).take n)
      (bs.zipIdx).foldl (fun s p =>
        let x := getBench s p.1
        let c : Chosen := { entry := entry.toNat, slotTag := resTag e sfn.toNat, pos := e.posBase + p.2, reserveNs := reserve, releaseNs := release }
        putBench (stopProving s p.1) p.1 { x with chosen := x.chosen ++ [c], waking := x.waking || pstate s p.1 != 0 }) s)

/-- The kill of the Wedge (R370-R372): every command of the bench goes back to its stream, the resident context's banks are discarded,
and a switch in progress is given up. -/
def wedgeKill (s : State) (b : Nat) (hold : FloorHold) : State :=
  let s := abandonSwitch s b
  let s := match (getBench s b).ctx with
    | none => s
    | some k =>
      let r := killCtx s b k true
      let s := bump r.1 Reg.bankKillsRadio 0 r.2
      putCtx s k { getCtx s k with bank0 := Bank.empty, bank1 := Bank.empty }
  showBench (putBench (stopProving s b) b { getBench s b with hold := some hold, waking := (getBench s b).waking || pstate s b != 0 }) b

/-- The Wedge for a reservation: bench b takes the position, until the hold of the throttle step at its release has passed. -/
def reserveBench (s : State) (b : Nat) (c : Chosen) : State :=
  match s.yards.recipe[c.entry]? with
  | none => s
  | some e =>
    wedgeKill s b { slotTag := c.slotTag, pos := c.pos, endNs := c.releaseNs + (resFloor e (throttleAt s c.releaseNs)).2 * 1000,
                    reserved := true, ready := false, lastNs := 0 }

/-- Bench b is chosen no more for a reservation. -/
def unchoose (s : State) (b : Nat) (c : Chosen) : State :=
  putBench s b { getBench s b with chosen := (getBench s b).chosen.filter (· != c) }

/-- FLOOR_RESERVATION (R363, R370): at the reservation point the kill reaches every bench chosen for the entry. Where work beyond the floor
has taken such a bench, the first other one without radio work takes its position, or the bench itself once it returns (DEDUCED). -/
def execFloorReservation (entry : BitVec 12) (s : State) : Ans :=
  .next (showParts ((allBenches s).foldl (fun s b =>
    match (getBench s b).chosen.find? (fun c => c.entry == entry.toNat && decide (c.reserveNs ≤ now s)) with
    | none => s
    | some c =>
      if (getBench s b).hold.isNone then reserveBench (unchoose s b c) b c
      else match floorChoice s with
        | [] => s
        | o :: _ => reserveBench (unchoose s b c) o c) s))

/-- WEDGE_HANDOVER (R370): the bench is quiet and awake, and goes to radio. -/
def execWedgeHandover (bench : BitVec 5) (s : State) : Ans :=
  let b := bench.toNat
  .next (match (getBench s b).hold with
    | none => s
    | some h =>
      let busy := match (getBench s b).ctx with | some k => !quiet s k | none => false
      if h.ready || busy || !awake s b then s
      else showBench (showFloor (wr (putBench s b { getBench s b with hold := some { h with ready := true } }) Reg.benchStateRole b 2) b) b)

/-- A slot tag and floor position that some bench holds, or that an entry reserves whose reservation point has come (R363). -/
def floorCovers (s : State) (t p : Nat) : Bool :=
  (allBenches s).any (fun b => (match (getBench s b).hold with | some h => h.slotTag == t && h.pos == p | none => false) ||
    (getBench s b).chosen.any (fun c => c.slotTag == t && c.pos == p && c.reserveNs ≤ now s))

/-- BEYOND_FLOOR_TAKE (R368): a radio command that no active entry covers takes a rotation bench by the Wedge, or waits for a return and
is counted once. -/
def execBeyondFloorTake (cid : Nat) (s : State) : Ans :=
  .next (match getCmd s cid with
    | none => s
    | some c =>
      match c.owner with
      | .queue _ _ => s
      | .radio _ t p =>
        if c.opcode = 6 ∨ c.inStream = false ∨ floorCovers s t p = true then s
        else match extraChoice s with
          | [] => if c.extra then s else bump (putCmd s cid { c with extra := true }) Reg.bankExtraWaitsCount 0 1
          | b :: _ =>
            showParts (wedgeKill (bump s Reg.bankExtraTakesCount 0 1) b
              { slotTag := t, pos := p, endNs := now s, reserved := false, ready := false, lastNs := 0 }))

/-- Radio commands of a slot tag and position are queued or executing. -/
def radioLeft (s : State) (t p : Nat) : Bool :=
  s.work.cmds.any (fun e => match e.2.owner with
    | .radio _ u o => u == t && o == p && e.2.opcode != 6
    | .queue _ _ => false)

/-- FLOOR_RETURN (R367, R368): the bench goes back to tenants with its accumulators zeroed, or to a reservation that waits for it. -/
def execFloorReturn (bench : BitVec 5) (s : State) : Ans :=
  let b := bench.toNat
  .next (match (getBench s b).hold with
    | none => s
    | some h =>
      if radioLeft s h.slotTag h.pos || (h.reserved && now s < h.endNs) then s
      else
        let s := if h.reserved ∧ h.endNs < h.lastNs then bump s Reg.bankOverrunsCount 0 1 else s
        let s := putCtx s (radioKey b) { getCtx s (radioKey b) with bank0 := Bank.empty, bank1 := Bank.empty }
        let s := putBench s b { getBench s b with hold := none }
        let s := if role s b = 3 then s else wr s Reg.benchStateRole b (bit01 (getBench s b).ctx.isSome)
        let s := match (getBench s b).chosen.find? (fun c => c.reserveNs ≤ now s) with
          | some c => if role s b = 3 then s else reserveBench (unchoose s b c) b c
          | none => s
        showParts (showBench (showFloor s b) b))

/-! ### Power states (R379-R383) -/

/-- Members of the doorbell reserve: the lowest-numbered idle benches outside rotation (R381). -/
def doorbellReserve (s : State) : List Nat :=
  ((allBenches s).filter (fun b => !inRotation s b && (getBench s b).ctx.isNone && (getBench s b).sw.isNone && (getBench s b).hold.isNone
    && role s b == 0)).take (rd s Reg.bankPwrDoorbellReserve 0)

/-- Bytes that a bench's save and its restore each move: the slot's head and the mapped pages of its resident context (Table 13.6). -/
def movedBytes (s : State) (b : Nat) : Nat :=
  match (getBench s b).ctx with
  | some k => slotHead + 65536 * (getCtx s k).mapped.length
  | none => 0

/-- Saving in picojoules of a state over T nanoseconds, with `moved` bytes to save and restore (R380, Table 13.8). -/
def saving (s : State) (st t moved : Nat) : Int :=
  let m (f : Fld) : Int := rd s f 0
  let e : Int := match st with
    | 1 => m Reg.bankPwrModelEGatedNj * 1000
    | 2 => m Reg.bankPwrModelERetainNj * 1000
    | _ => m Reg.bankPwrModelEDarkNj * 1000 + 2 * moved * m Reg.bankPwrModelECtxPj
  let p : Int := match st with
    | 1 => m Reg.bankPwrModelPGatedMw
    | 2 => m Reg.bankPwrModelPRetainMw
    | _ => m Reg.bankPwrModelPDarkMw
  let w : Int := match st with | 1 => 20 | 2 => 3000 | _ => 40000 + (if moved = 0 then 0 else 2000 + moved / 400)
  if (t : Int) < w + 1000 then -1 else (m Reg.bankPwrModelPActiveMw - p) * (t - w) - e

/-- Something makes the bench's next event immediate: it runs, switches, is held, or a context that may take it is ready (R380). -/
def benchNeeded (s : State) (b : Nat) : Bool :=
  let x := getBench s b
  x.sw.isSome || x.hold.isSome ||
  (match x.ctx with
    | some k => runnable s k
    | none => (waiters s).any (fun k => fitsBench s k b && (belowMin s (k / 32) || mayBorrow s (k / 32))))

/-- Time from now to the next reservation point of an entry (R363): a period of 20 ms begins with a frame of even SFN. -/
def nextReserve (s : State) (e : ResEntry) : Nat :=
  let d := reserveIn s e
  if !rdB s Reg.bankRotPeriod20 0 then d
  else
    let even := ((now s + d + rd s Reg.bankRotLeadUs 0 * 1000) / 10000000 + Config.sfnEpoch) % 2 = e.releaseNs / 10000000 % 2
    if even then d else d + 10000000

/-- Time to the next known event of a bench (R380): the reservation point it has been chosen for, or on another rotation bench the next of
any entry; none elsewhere. -/
def nextEvent (s : State) (b : Nat) : Option Nat :=
  let least (l : List Nat) : Option Nat := (sortBy (fun x y => decide (x < y)) l).head?
  if (getBench s b).chosen ≠ [] then least ((getBench s b).chosen.map (fun c => c.reserveNs - now s))
  else if inRotation s b then least (s.yards.recipe.map (nextReserve s)) else none

/-- The resident context of a bench has been idle for idle_dark_ms (R381). -/
def darkDue (s : State) (b : Nat) : Bool :=
  match (getBench s b).ctx with
  | none => false
  | some k => (match (getCtx s k).idleNs with
    | some t => decide (t + rd s Reg.bankPwrIdleDarkMs 0 * 1000000 ≤ now s)
    | none => false) && benchOpen s b && !inRotation s b

/-- The resident context of a bench is saved, so that the bench may enter DARK (R381). -/
def saveForDark (s : State) (b : Nat) : State :=
  let s := startSwitch s b none false
  match (getBench s b).sw with
  | none => s
  | some w => wr (putBench s b { getBench s b with sw := some { w with phase := .save } }) Reg.benchStateCtxXfer b 1

/-- Deepest state the limits of R381 allow. -/
def deepest (s : State) (b : Nat) : Nat :=
  let x := getBench s b
  if x.ctx.isSome then (if darkDue s b then 3 else if x.deep then 2 else 1)
  else if inRotation s b || (doorbellReserve s).contains b then 2 else 3

/-- POWER_STATE_CHOICE (R380, R381): the state with the largest positive saving over the time to the next known event, the shallower on a
tie. A deeper state is entered at once, DARK after the save of a resident context; a shallower one through a wake. -/
def execPowerStateChoice (bench : BitVec 5) (s : State) : Ans :=
  let b := bench.toNat
  let s := refreshWaits s
  .next (
    if benchCount s ≤ b then s
    else
      let event := if benchNeeded s b then some 0 else nextEvent s b
      let t := event.getD (2 ^ 64)
      let best := [1, 2, 3].foldl (fun (acc : Nat × Int) st =>
        let v := saving s st t (movedBytes s b)
        if st ≤ deepest s b ∧ acc.2 < v then (st, v) else acc) (0, 0)
      let plan := best.1
      let s := wr s Reg.bankBenchPlan b plan
      let s := wr s Reg.bankBenchReserve b (bit01 ((doorbellReserve s).contains b))
      let s := wr s Reg.bankBenchNextUs b (match event with
        | some n => Nat.min 0xFFFFFE (n / 1000)
        | none => 0xFFFFFF)
      if plan = 3 ∧ (getBench s b).ctx.isSome = true then saveForDark s b
      else if pstate s b < plan then wr s Reg.benchStatePstate b plan
      else if plan = 0 ∧ pstate s b ≠ 0 then putBench s b { getBench s b with waking := true }
      else s)

/-- BENCH_WAKE (R380, R382): a sleeping bench starts to wake; a save toward DARK still running is given up. -/
def execBenchWake (bench : BitVec 5) (s : State) : Ans :=
  let b := bench.toNat
  .next (
    if benchCount s ≤ b then s
    else
      let s := match (getBench s b).sw with
        | some w => if w.incoming.isNone ∧ w.phase = .save then abandonSwitch s b else s
        | none => s
      if pstate s b = 0 then s else putBench s b { getBench s b with waking := true, deep := false })

/-- WAKE_COMPLETE (R382): the bench is ACTIVE. -/
def execWakeComplete (bench : BitVec 5) (s : State) : Ans :=
  let b := bench.toNat
  .next (
    if !(getBench s b).waking then s
    else wr (wr (putBench s b { getBench s b with waking := false, deep := false }) Reg.benchStatePstate b 0) Reg.bankBenchPlan b 0)

/-- BLOCKED_HOLD_EXPIRY (R381): blocked_hold_us after its context has become blocked or idle a bench may go deeper than GATED; with an idle
one it goes. -/
def execBlockedHoldExpiry (bench : BitVec 5) (s : State) : Ans :=
  let b := bench.toNat
  let s := refreshWaits s
  .next (match (getBench s b).ctx with
    | none => s
    | some k =>
      let x := getCtx s k
      let since := (x.blockedNs.orElse (fun _ => x.idleNs)).getD (now s)
      if runnable s k ∨ (getBench s b).sw.isSome = true ∨ (getBench s b).hold.isSome = true ∨
          now s < since + 1000 * rd s Reg.bankPwrBlockedHoldUs 0 then s
      else
        let s := putBench s b { getBench s b with deep := true }
        if pstate s b = 1 ∧ blocked s k = false then wr s Reg.benchStatePstate b 2 else s)

/-- IDLE_DARK_EXPIRY (R381): once it has been idle for idle_dark_ms, the context of a bench outside rotation is saved, so that the bench may
enter DARK. -/
def execIdleDarkExpiry (bench : BitVec 5) (s : State) : Ans :=
  let b := bench.toNat
  let s := refreshWaits s
  .next (if darkDue s b then saveForDark s b else s)

/-- Empty the benches above the thermal cap by context switch, the highest-numbered first (R383). -/
def capBenches (s : State) : State :=
  let excess := tenantBenches s - rd s Reg.bankThermTenantCap 0
  (((allBenches s).reverse.filter (fun b => benchOpen s b && (getBench s b).ctx.isSome)).take excess).foldl
    (fun s b => startSwitch s b none false) s

/-- Give up the benches a partition holds above its bench_max (R357), those held for the shortest time first. -/
def trimPart (s : State) (f : Nat) : State :=
  let excess := (heldBy s f).length - rdLive s Reg.bankPartBenchMax f
  ((sortBy (fun a b => heldSince s b < heldSince s a) ((heldBy s f).filter (benchOpen s))).take excess).foldl
    (fun s b => startSwitch s b none false) s

end Sys2Proof.Machine
end

