-- ==== Sys2Proof/Machine/RadioCore.lean ====
section
/-! DEFINITION. Radio operations that more than one command uses: the cell plan and slot times (R280-R283), indications (R289, R291,
R292), late outputs (R298), block floating point and shaping (R286, R287), and the Sieve's job times (R293). -/

namespace Sys2Proof.Machine

/-! ### Cells and slots -/

/-- A parameter of the plan by name (Table 10.4). -/
def planField (p : CellPlan) : PlanField → Nat
  | .mu => p.mu | .nPrb => p.nPrb | .duplex => bit01 p.fdd | .t => p.t | .r => p.r | .lDl => p.lDl | .lUl => p.lUl
  | .lport => p.lport | .mac => p.mac | .vlan => p.vlan | .pcp => p.pcp | .wNom => p.wNom | .wFloor => p.wFloor
  | .mode => bit01 p.adaptive | .rate => p.rateBps | .burst => p.burst | .prio => p.prio | .maxIter => p.maxIter
  | .harqBuffers => p.harqBuffers | .p7Lead => p.p7LeadUs | .indDeadline => p.indDeadlineUs | .holdAction => bit01 p.holdMute

/-- Radio units of a cell: max(1, ⌈N_PRB × 2^μ ÷ 546 × max(1, T ÷ 4, R ÷ 4, L_DL ÷ 4, L_UL ÷ 4)⌉) (R280). -/
def planUnits (p : CellPlan) : Nat := max 1 (cdiv (p.nPrb * 2 ^ p.mu * max (max (max 4 p.t) (max p.r p.lDl)) p.lUl) (546 * 4))

/-- Downlink rate in bits per second at width w (R282). -/
def planDl (p : CellPlan) (w : Nat) : Nat := p.lDl * p.nPrb * 14 * 1000 * 2 ^ p.mu * (24 * w + 8)

/-- The plan entry of a cell. -/
def cellPlan (s : State) (c : Nat) : Option CellPlan := mapFind s.radio.plan c

/-- Cell states (Table 10.5): 0 OFF, 1 WAIT_TIME, 2 IDLE, 3 CONFIGURED, 4 RUNNING, 5 MUTED. -/
def cellSt (s : State) (c : Nat) : Nat := rd s Reg.cellState c

/-- Key of a slot of a cell, and of a symbol. -/
def slotKey10 (cell sfn slot : Nat) : Nat := (cell * 1024 + sfn) * 1024 + slot
def symKey (cell sfn slot sym : Nat) : Nat := slotKey10 cell sfn slot * 16 + sym

/-- Start of a slot in time base nanoseconds: the frame of that SFN nearest to now. How frame numbers count from the time base is not
stated: the offset is a free value. -/
def slotStart (s : State) (mu sfn slot : Nat) : Nat :=
  let f := now s / 10000000
  let d := (sfn + 1024 - (f + Config.sfnEpoch) % 1024) % 1024
  let g := if d < 512 ∨ f + d < 1024 then f + d else f + d - 1024
  g * 10000000 + slot * (1000000 / 2 ^ mu)

/-- Samples before symbol l of a subframe at 2,048 per symbol: 144 of cyclic prefix each, 16 × 2^μ more on symbols 0 and 7 × 2^μ
(R335). -/
def symSamples (mu l : Nat) : Nat := l * 2192 + 16 * 2 ^ mu * (bit01 (0 < l) + bit01 (7 * 2 ^ mu < l))

/-- Air time of a symbol of a slot. -/
def symStart (s : State) (p : CellPlan) (sfn slot sym : Nat) : Nat :=
  let sub := slot / 2 ^ p.mu * 2 ^ p.mu
  slotStart s p.mu sfn sub + symSamples p.mu ((slot - sub) * 14 + sym) * 1000000 / (30720 * 2 ^ p.mu)

/-- Any radio cell is active: RUNNING or MUTED (R261). -/
def cellsActive (s : State) : Bool := s.radio.plan.any (fun e => cellSt s e.1 == 4 || cellSt s e.1 == 5)

/-- A range lies in radio lots. -/
def inRadioLots (s : State) (pa n : Nat) : Bool :=
  pa + n ≤ dramSize s && (pieces pa n (2 ^ 30)).all (fun p => lotOwnerOf s (lotOf p.1) == 0x3FE)

/-- Bytes a radio engine at a Gallery stop reads: a persistent uncorrectable line reads as 64 zero bytes (R164, R299), and whether one did. -/
def radioRead (s : State) (stop pa n : Nat) : State × List Byte × Bool :=
  let bs := (List.range n).map (fun i => if badLine s ((pa + i) / 64) then 0 else memDeliver s (pa + i))
  let r := (errLines s.mem (pa, n)).foldl (fun acc l =>
    let r := senseAt acc.1 4 0 l
    (r.1, acc.2 || r.2)) (radioTraffic s stop [(pa, n)] false, false)
  (r.1, bs, r.2)

/-- A radio engine writes to radio lots: outside them nothing is written, nor over a line that it covers in part and that cannot be read
(R163). -/
def radioWrite (s : State) (stop pa : Nat) (bs : List Byte) : State :=
  if inRadioLots s pa bs.length then (writeRuns (radioTraffic s stop [(pa, bs.length)] true) 4 0 [(pa, bs.length)] bs).1 else s

/-! ### Indications (R289, R291, R292) -/

/-- P5 and P7 error codes that the spec names: 0 OK, MSG_INVALID_STATE, MSG_INVALID_CONFIG, MSG_SLOT_ERR. -/
def errInvalidState : Nat := 1
def errInvalidConfig : Nat := 2
def errSlot : Nat := 3

/-- Vendor TLVs (Table 10.7). -/
def tlvCapped (cap : Nat) (dropped : Bool) : Nat × Nat := (0xA001, 0x51 + cap % 32 * 2 ^ 8 + bit01 dropped * 2 ^ 13)
def tlvLate (output affected : Nat) : Nat × Nat := (0xA002, 0x50 + output * 2 ^ 8 + affected % 2 ^ 16 * 2 ^ 16)
def tlvMemUe (kind : Nat) : Nat × Nat := (0xA003, 0x07 + kind * 2 ^ 8)
def tlvLateRequest (sfn slot : Nat) : Nat × Nat := (0xA004, sfn % 1024 + slot % 128 * 2 ^ 10)
def tlvSync (s : State) : Nat × Nat := (0xA005, rd s Reg.timeStateState 0)
def tlvHarqNotKept (process : Nat) : Nat × Nat := (0xA006, process % 2 ^ 16)

/-- A message as numbers, for the free function that lays its group out. -/
def FapiInd.fields : FapiInd → List Nat
  | .response q c e => [0, q, c, e]
  | .error c f n e p ts => [1, c, f, n, e, p.elim 0 (· + 1)] ++ ts.flatMap (fun t => [t.1, t.2])
  | .slot c f n ts => [2, c, f, n] ++ ts.flatMap (fun t => [t.1, t.2])
  | .group c f n ts => [3, c, f, n] ++ ts.flatMap (fun t => [t.1, t.2])

/-- Cell, SFN and slot of a message's ring entry. -/
def FapiInd.place : FapiInd → Nat × Nat × Nat
  | .response _ c _ => (c, 0, 0)
  | .error c f n _ _ _ => (c, f, n)
  | .slot c f n _ => (c, f, n)
  | .group c f n _ => (c, f, n)

/-- A ring entry (Table 10.6). -/
def fapiEntry (addr len cell sfn slot : Nat) : Nat :=
  addr % 2 ^ 48 + len % 2 ^ 32 * 2 ^ 64 + cell % 2 ^ 9 * 2 ^ 96 + sfn % 2 ^ 10 * 2 ^ 112 + slot % 2 ^ 7 * 2 ^ 122

/-- Store bytes in the data area of a pair as a byte ring. -/
def areaPut (h : HostMem) (pasid base size pos : Nat) (bs : List Byte) : HostMem :=
  hostPut (hostPut h pasid (base + pos) (bs.take (size - pos))) pasid base (bs.drop (size - pos))

/-- Write a group of bytes and its entry to a ring pair (R289); none where it does not fit or its memory does not translate (R291). -/
def fapiPut (s : State) (ring entry : Nat) (bs : List Byte) : Option State :=
  let n := 2 ^ rd s Reg.fapiRingIndLog2 ring
  let tail := rd s Reg.fapiRingIndTail ring % n
  let head := rd s Reg.fapiRingIndHead ring % n
  let unread := (tail + n - head) % n
  let lens := mapGet s.radio.indLens ring []
  let lens := lens.drop (lens.length - unread)
  let size := rd s Reg.fapiRingIndDataSize ring
  let base := rd s Reg.fapiRingIndDataBase ring
  let pasid := rd s Reg.fapiRingPasid ring
  let pos := mapGet s.radio.indPos ring 0
  let at_ := rd s Reg.fapiRingIndBase ring + 32 * tail
  if rdB s Reg.fapiRingEnable ring = false ∨ rd s Reg.fapiRingIndLog2 ring < 2 ∨ 12 < rd s Reg.fapiRingIndLog2 ring ∨ unread + 1 = n ∨
      size < lens.sum + bs.length ∨ hostOk s pasid base size = false ∨ hostOk s pasid at_ 32 = false then none
  else
    let e := entry / 2 ^ 96 * 2 ^ 96 + (base + pos) % 2 ^ 48 + bs.length % 2 ^ 32 * 2 ^ 64
    let s := { s with host := hostPut (areaPut s.host pasid base size pos bs) pasid at_ (leBytes 32 e) }
    let s := { s with radio := { s.radio with indPos := mapPut s.radio.indPos ring (if size = 0 then 0 else (pos + bs.length) % size) 0,
                                              indLens := mapSet s.radio.indLens ring (lens ++ [bs.length]) } }
    some (raiseMsix (wr s Reg.fapiRingIndTail ring ((tail + 1) % n)) 0 (rd s Reg.fapiRingMsix ring))

/-- An indication is dropped (R291). -/
def fapiDrop (s : State) (ring : Nat) : State := healthCause (bump s Reg.fapiRingIndDropped ring 1) Reg.healthCauseRadio

/-- The device writes a message of its own to a ring pair: its group in the SCF layout, which is not part of the spec, is a free
function of its fields. -/
def indicate (s : State) (ring : Nat) (m : FapiInd) : State :=
  let p := m.place
  match fapiPut s ring (fapiEntry 0 0 p.1 p.2.1 p.2.2) (Config.fapiGroup m.fields) with
  | none => fapiDrop s ring
  | some s => emit s (.fapi ring m)

/-- An indication of a cell goes out on its own pair (R289). -/
def indicateCell (s : State) (c : Nat) (m : FapiInd) : State := indicate s (rd s Reg.cellFapiRing c) m

/-- RADIO_LATE for one cell and slot (R298): counted and reported. -/
def radioLate (s : State) (cell sfn slot output affected : Nat) : State :=
  indicateCell (bump s Reg.cellLate cell 1) cell (.error cell sfn slot errSlot none [tlvLate output affected])

/-! ### Block floating point (R287, R288) -/

/-- A 16-bit part as an integer. -/
def part16 (v : Nat) : Int := signedOf v 16

/-- An integer fits a signed width. -/
def fitsW (v : Int) (w : Nat) : Bool := -(2 ^ (w - 1) : Int) ≤ v && v < 2 ^ (w - 1)

/-- The smallest exponent with which all mantissas fit. -/
def bfpExp (vs : List Int) (w : Nat) : Nat :=
  ((List.range 16).find? (fun e => vs.all (fun v => fitsW (v / 2 ^ e) w))).getD 15

/-- Compress the 24 parts of a PRB: exponent and mantissa codes, truncated toward −∞. -/
def bfpCompress (vs : List Int) (w : Nat) : Nat × List Nat :=
  let e := bfpExp vs w
  (e, vs.map (fun v => codeOf (v / 2 ^ e) w))

/-- Decompress a PRB to its parts: mantissa times 2^exponent; width 16 is uncompressed when the exponent is 0. -/
def bfpExpand (e : Nat) (ms : List Nat) (w : Nat) : List Nat := ms.map (fun m => codeOf (signedOf m w * 2 ^ e) 16)

/-- The 24 parts of a PRB of 48 bytes. -/
def prbParts (bs : List Byte) : List Int := (List.range 24).map (fun i => part16 (leNat ((bs.drop (2 * i)).take 2)))

/-- Bytes of a frame of n PRBs at width w, with preamble, gap and every header. -/
def frameBytes (dyn : Bool) (n w : Nat) : Nat := 58 + 2 * bit01 dyn + n * (3 * w + 1)

/-- PRBs that one frame of at most 9,600 bytes carries. -/
def prbsPerFrame (w : Nat) : Nat := (9600 - 40) / (3 * w + 1)

/-- Split a list into runs of at most n. -/
def chunksOf {α : Type} (n fuel : Nat) (l : List α) : List (List α) :=
  match fuel, l with
  | 0, _ => []
  | _, [] => []
  | k + 1, l => l.take (max 1 n) :: chunksOf n k (l.drop (max 1 n))

/-! ### Shaping (R286) -/

/-- A cell's bucket filled up to now. -/
def fillTokens (s : State) (c : Nat) (p : CellPlan) : State :=
  let cap := p.burst * 8 * 1000000000
  let t := min cap (mapGet s.radio.tokens c cap + p.rateBps * (now s - mapGet s.radio.tokensNs c (now s)))
  { s with radio := { s.radio with tokens := mapSet s.radio.tokens c t, tokensNs := mapSet s.radio.tokensNs c (now s) } }

/-- Send the frames of a symbol that the tokens allow, in order; the first that finds too few holds the rest. -/
def sendFrames (s : State) (c : Nat) (p : CellPlan) (fs : List FhFrame) : State × List FhFrame :=
  match fs with
  | [] => (s, [])
  | f :: t =>
    let have_ := mapGet s.radio.tokens c 0
    let need := f.bytes * 8 * 1000000000
    if have_ < need then (s, f :: t)
    else
      let s := { s with radio := { s.radio with tokens := mapSet s.radio.tokens c (have_ - need) } }
      sendFrames (bump (emit s (.fh p.lport (.uPlane f))) Reg.fhPortTxFrames (p.lport / 4) 1) c p t

/-! ### The Sieve (R293) -/

/-- Active check rows of an LDPC block. -/
def ldpcRows (bg2 : Bool) (zc e : Nat) : Nat := max 4 (cdiv (e + 2 * zc) (max 1 zc) - (if bg2 then 10 else 22))

/-- Decoder time in fortieths of a nanosecond: 45 ns + n_iter × rows × Zc ÷ 40 Gb/s. -/
def decodeTime (iters : Nat) (bg2 : Bool) (zc e : Nat) : Nat := 1800 + iters * ldpcRows bg2 zc e * zc

end Sys2Proof.Machine
end

