-- ==== Sys2Proof/Machine/ChiselCore.lean ====
section
/-! DEFINITION. How a Chisel core issues bundles: slots and their pending results (R309-R311), loops (R313, R314), delay bundles (R312),
faults (R326), addressing (R307) and the arithmetic that its instructions share (R308). Each instruction command is one slot of the
bundle at the core's fetch address; the slot that ends the bundle says so. -/

namespace Sys2Proof.Machine

/-! ### Registers and addresses -/

/-- Register keys. -/
def kG (n : Nat) : Nat := 0x100 + n
def kV (n : Nat) : Nat := 0x200 + n
def kA (n : Nat) : Nat := 0x50 + n

/-- Read a general register, a vector register, an address register. -/
def Core.g (c : Core) (n : Nat) : Nat := c.reg (kG n)
def Core.v (c : Core) (n : Nat) : Nat := c.reg (kV n)
def Core.addr (c : Core) (n : Nat) : Nat := c.reg (kA n)

/-- A 32-bit register as a signed number. -/
def s32 (v : Nat) : Int := signedOf v 32

/-- STATUS bits (Table 11.5). -/
def Core.ie (c : Core) : Bool := bitOf (c.reg 0x28) 0
def Core.loopEn (c : Core) : Bool := bitOf (c.reg 0x28) 1

/-- One wrap of an address into [ABn, ABn + ALn) (R307). -/
def wrapOnce (ea ab al : Int) : Int := if al = 0 then ea else if ab + al ≤ ea then ea - al else if ea < ab then ea + al else ea

/-- Effective address of a load or store (R307). -/
def Core.ea (c : Core) (a : Nat) (off : Int) (size : Nat) : Int :=
  wrapOnce ((c.addr a : Int) + off * size) (c.reg a) (c.reg (8 + a))

/-- An address register after its post-modify step (R307). -/
def Core.postAddr (c : Core) (a : Nat) : Nat :=
  codeOf (wrapOnce ((c.addr a : Int) + s32 (c.reg (0x10 + a))) (c.reg a) (c.reg (8 + a))) 32

/-! ### Pending results -/

/-- A write that lands for the bundle `lat` bundles on. -/
def Core.later (c : Core) (lat key value : Nat) : Core :=
  { c with pend := c.pend ++ [⟨key, value, c.bundle + lat, .write⟩] }

/-- STATUS.sat is set, with the result that saturated. -/
def Core.laterSat (c : Core) (lat : Nat) (sat : Bool) : Core :=
  if sat then { c with pend := c.pend ++ [⟨0x28, 4, c.bundle + lat, .set⟩] } else c

/-- A pending write takes effect (R310: the later one stands). Writing TCMP_HI arms the comparator; a compare time of 0 disarms it, and
one already passed sets its event at once (R319). -/
def Core.land (c : Core) (t : Nat) (p : PendReg) : Core :=
  match p.kind with
  | .clear => c.setReg p.key (c.reg p.key &&& (2 ^ 32 - 1 - p.value % 2 ^ 32))
  | .set => c.setReg p.key (c.reg p.key ||| p.value)
  | .write =>
    let c := c.setReg p.key p.value
    if p.key = 0x43 then
      let cmp := c.reg 0x42 + c.reg 0x43 * 2 ^ 32
      if cmp = 0 then { c with tcmpArmed := false }
      else if cmp ≤ t then { c with tcmpArmed := false }.event 128
      else { c with tcmpArmed := true }
    else c

/-- Every pending result that the bundle now due reads lands, and stores become visible (R304, R309). -/
def Core.landDue (c : Core) (t : Nat) : Core :=
  let due := c.pend.filter (fun p => p.lands ≤ c.bundle)
  let c := due.foldl (fun c p => c.land t p) { c with pend := c.pend.filter (fun p => c.bundle < p.lands) }
  { c.stores.foldl (fun c w => c.store w.addr w.data) c with stores := [] }

/-- Every pending result lands at once (R316, R326). -/
def Core.landAll (c : Core) (t : Nat) : Core :=
  (List.range 3).foldl (fun c _ => { c with bundle := c.bundle + 1 }.landDue t) c

/-! ### Faults (R326) -/

/-- Fault causes. -/
def causeIllegal : Nat := 1
def causeAddr : Nat := 2
def causeWatchdog : Nat := 3
def causePort : Nat := 4
def causeLoop : Nat := 5

/-- A core faults: its results land, the cause and address are recorded, and the completions of its posts are discarded from now on. -/
def coreFault (s : State) (n cause pc : Nat) : State :=
  let c := (getCore s n).landAll (now s)
  let c := { c with mid := false, delay := 0, target := none, rti := false, loopTo := none, waitMask := none, stall := none, cqWait := [],
                    faultNs := (now s :: c.faultNs).take 3 }
  let s := putCore s n c
  let s := { s with work := { s.work with cmds := mapVals s.work.cmds (fun _ x =>
               match x.owner with | .radio m _ _ => if m = n then { x with mute := true } else x | .queue _ _ => x) },
                    radio := { s.radio with jobs := s.radio.jobs.map (fun j => if j.core = n then { j with mute := true } else j) } }
  let s := wr (wr (wr s Reg.chiselCoreState n 4) Reg.chiselCoreCause n cause) Reg.chiselCoreFaultPc n pc
  healthCause (showCore s n) Reg.healthCauseChisel

/-! ### Bundles -/

/-- A core may issue a slot now: RUNNING, and not stalled by a POST of an earlier bundle. -/
def mayIssue (s : State) (n : Nat) : Bool :=
  rd s Reg.chiselCoreState n == 2 && ((getCore s n).mid || (getCore s n).stall.isNone)

/-- The loop check of a fetched bundle (R314), from level `k - 1` down: the core after, and where fetch loops back to. -/
def loopCheck (c : Core) (pc k : Nat) : Core × Option Nat :=
  match k with
  | 0 => (c, none)
  | j + 1 =>
    let lc := c.reg (0x18 + j)
    if lc ≠ 0 ∧ c.reg (0x20 + j) = pc then
      if 1 < lc then (c.setReg (0x18 + j) (lc - 1), some (c.reg (0x1C + j)))
      else loopCheck (c.setReg (0x18 + j) 0) pc j
    else loopCheck c pc j

/-- The bundle ends: loop check, delay bundles, landing of results, WAIT, and the next fetch address. A fetch outside the instruction
memory or not aligned is an ADDR fault (R303). -/
def endBundle (s : State) (n : Nat) : State :=
  let c := getCore s n
  let r := if c.loopEn then loopCheck c c.pc 3 else (c, none)
  let c := r.1
  let seqPc := match c.loopTo with
    | some t => t
    | none => r.2.getD (c.pc + 16)
  let past := c.delay = 1
  let c := { c with bundle := c.bundle + 1, mid := false, loopTo := none }
  let c := c.landDue (now s)
  let pc := if past then (if c.rti then c.reg 0x29 else c.target.getD seqPc) else seqPc
  let c := if past ∧ c.rti then c.setReg 0x28 (c.reg 0x2A) else c
  let c := { c with pc := pc, delay := c.delay - 1, target := if past then none else c.target, rti := c.rti && !past }
  let s := bump (putCore s n c) Reg.chiselCoreBusyCycles n 1
  if pc % 16 ≠ 0 ∨ 0x20000 ≤ pc then coreFault s n causeAddr pc
  else showCore (if c.waitMask.isSome then wr s Reg.chiselCoreState n 3 else s) n

/-- Issue one slot of a core's bundle: `f` gives the core with its pending results, or the cause of a fault. -/
def issueSlot (s : State) (core : BitVec 6) (last : Bool) (f : Core → Except Nat Core) : State :=
  let n := core.toNat
  if !mayIssue s n then s else
  match f (getCore s n) with
  | .error cause => coreFault s n cause (getCore s n).pc
  | .ok c =>
    let s := putCore s n { c with mid := true }
    if last then endBundle s n else s

/-- A slot that cannot fault. -/
def plainSlot (s : State) (core : BitVec 6) (last : Bool) (f : Core → Core) : State := issueSlot s core last (fun c => .ok (f c))

/-- A slot that is illegal in a delay bundle (R312). -/
def controlSlot (s : State) (core : BitVec 6) (last : Bool) (f : Core → Except Nat Core) : State :=
  issueSlot s core last (fun c => if c.delay = 0 then f c else .error causeIllegal)

/-! ### Scalar arithmetic (R308) -/

/-- Narrow an exact result to a signed width: wrapped, or saturated with a mark. -/
def narrow (w : Nat) (sat : Bool) (v : Int) : Nat × Bool :=
  if sat then
    if v < -(2 ^ (w - 1) : Int) then (2 ^ (w - 1), true)
    else if (2 ^ (w - 1) : Int) ≤ v then (2 ^ (w - 1) - 1, true)
    else (codeOf v w, false)
  else (codeOf v w, false)

/-- A scalar result for register gd, with its saturation. -/
def scalarOut (c : Core) (lat gd : Nat) (r : Nat × Bool) : Core := (c.later lat (kG gd) r.1).laterSat lat r.2

/-- A three-register scalar instruction. -/
def salu (s : State) (core : BitVec 6) (gd ga gb : BitVec 5) (last : Bool) (lat : Nat) (f : Nat → Nat → Nat × Bool) : State :=
  plainSlot s core last (fun c => scalarOut c lat gd.toNat (f (c.g ga.toNat) (c.g gb.toNat)))

/-- A scalar instruction with an immediate. -/
def salui (s : State) (core : BitVec 6) (gd ga : BitVec 5) (last : Bool) (f : Nat → Nat) : State :=
  plainSlot s core last (fun c => c.later 1 (kG gd.toNat) (f (c.g ga.toNat)))

/-- A scalar shift: amounts 0 to 31 as stated; for others the result and its saturation are free values. -/
def shiftBy (free : Nat) (amount : Nat) (r : Nat × Bool) : Nat × Bool :=
  if amount < 32 then r else (bitsOf (Config.unstated free) 0 32, bitOf (Config.unstated free) 32)

/-- Count a free value where a shift amount lies outside 0 to 31. -/
def drawnIf (p : Bool) (s : State) : State := if p then drawn s else s

/-- A branch: after two delay bundles fetch goes to the target when it is taken (R311). -/
def branchTo (c : Core) (taken : Bool) (target : Nat) : Core :=
  { c with delay := 3, target := if taken then some target else none, rti := false }

/-- Target of a branch offset in bundles. -/
def Core.relative (c : Core) (off : BitVec 17) : Nat := codeOf ((c.pc : Int) + 16 * off.toInt) 32

/-- A conditional branch on a general register. -/
def branchIf (s : State) (core : BitVec 6) (ga : BitVec 5) (off : BitVec 17) (last : Bool) (p : Int → Bool) : State :=
  controlSlot s core last (fun c => .ok (branchTo c (p (s32 (c.g ga.toNat))) (c.relative off)))

/-- LOOP and LOOPI (R313): level, count and end. -/
def loopSet (c : Core) (level count end_ : Nat) : Except Nat Core :=
  if level = 3 ∨ end_ = 0 then .error causeLoop
  else
    let le := c.pc + 16 * end_
    let c := ((c.later 1 (0x1C + level) (c.pc + 16)).later 1 (0x20 + level) le).later 1 (0x18 + level) count
    .ok { c with loopTo := if count % 2 ^ 16 = 0 then some (le + 16) else some (c.pc + 16) }

/-! ### Vectors -/

/-- Lane of a vector as a signed number: `w` bits at lane i. -/
def lane (w v i : Nat) : Int := signedOf (bitsOf v (w * i) w) w

/-- Build a register from lane codes of `w` bits. -/
def packLanes (w : Nat) (ls : List Nat) : Nat := ls.foldr (fun l acc => l % 2 ^ w + 2 ^ w * acc) 0

/-- A lane-wise result of 32 int16 lanes: narrowed, with the saturation mark. -/
def lanes16 (c : Core) (lat vd : Nat) (sat : Bool) (f : Nat → Int) : Core :=
  let rs := (List.range 32).map (fun i => narrow 16 sat (f i))
  (c.later lat (kV vd) (packLanes 16 (rs.map (·.1)))).laterSat lat (rs.any (·.2))

/-- A pair as one 1,024-bit number. -/
def Core.pair (c : Core) (n : Nat) : Nat := c.v n + 2 ^ 512 * c.v (n + 1)

/-- A result of 32 int32 lanes in the pair Vd:Vd+1. -/
def lanes32 (c : Core) (lat vd : Nat) (sat : Bool) (f : Nat → Int) : Core :=
  let rs := (List.range 32).map (fun i => narrow 32 sat (f i))
  let v := packLanes 32 (rs.map (·.1))
  ((c.later lat (kV vd) (v % 2 ^ 512)).later lat (kV (vd + 1)) (v / 2 ^ 512)).laterSat lat (rs.any (·.2))

/-- Parts of a complex product: part 2j real, part 2j + 1 imaginary; conj uses ar − j·ai for operand a (R308). -/
def cmul (conj : Bool) (a b i : Nat) : Int :=
  let j := i / 2
  let ar := lane 16 a (2 * j)
  let ai := if conj then -lane 16 a (2 * j + 1) else lane 16 a (2 * j + 1)
  let br := lane 16 b (2 * j)
  let bi := lane 16 b (2 * j + 1)
  if i % 2 = 0 then ar * br - ai * bi else ar * bi + ai * br

/-- A vector instruction of two sources into one register. -/
def vec2 (s : State) (core : BitVec 6) (vd va vb : BitVec 4) (sat last : Bool) (f : Int → Int → Int) : State :=
  plainSlot s core last (fun c => lanes16 c 1 vd.toNat sat (fun i => f (lane 16 (c.v va.toNat) i) (lane 16 (c.v vb.toNat) i)))

/-- A bitwise vector instruction. -/
def vecBits (s : State) (core : BitVec 6) (vd va vb : BitVec 4) (last : Bool) (f : Nat → Nat → Nat) : State :=
  plainSlot s core last (fun c => c.later 1 (kV vd.toNat) (f (c.v va.toNat) (c.v vb.toNat)))

/-- Pairs named by an odd number are an ILLEGAL fault (R306). -/
def evenOr (odd : Bool) (c : Core) : Except Nat Core := if odd then .error causeIllegal else .ok c

/-- A register number is odd. -/
def odd4 (v : BitVec 4) : Bool := v.toNat % 2 == 1

/-! ### Data memory (R304, R307) -/

/-- The access lies in the memory of its slot and is aligned: Y for slot 2, X for slot 1. -/
def accessOk (y : Bool) (ea : Int) (size : Nat) : Bool :=
  0 ≤ ea && ea % size == 0 && (if y then inY ea.toNat && inY (ea.toNat + size - 1) else inX ea.toNat && inX (ea.toNat + size - 1))

/-- The post-modify step of a load or store, visible to the next bundle. -/
def postMod (c : Core) (a : Nat) (post : Bool) : Core := if post then c.later 1 (kA a) (c.postAddr a) else c

/-- A load: the register key written and how the bytes read become its value. -/
def loadSlot (s : State) (core : BitVec 6) (y : Bool) (key : Nat) (a : BitVec 3) (post : Bool) (off : BitVec 12) (last : Bool)
    (size : Nat) (f : Nat → Nat) : State :=
  issueSlot s core last (fun c =>
    let ea := c.ea a.toNat off.toInt size
    if accessOk y ea size then .ok (postMod (c.later 1 key (f (leNat (c.bytes ea.toNat size)))) a.toNat post)
    else .error causeAddr)

/-- A store of the low bytes of a value. -/
def storeSlot (s : State) (core : BitVec 6) (y : Bool) (key : Nat) (a : BitVec 3) (post : Bool) (off : BitVec 12) (last : Bool)
    (size : Nat) : State :=
  issueSlot s core last (fun c =>
    let ea := c.ea a.toNat off.toInt size
    if accessOk y ea size then
      .ok (postMod { c with stores := c.stores ++ [⟨ea.toNat, leBytes size (c.reg key)⟩] } a.toNat post)
    else .error causeAddr)

end Sys2Proof.Machine
end

