-- ==== Sys2Proof/Machine/PostQueue.lean ====
section
/-! DEFINITION. What a core's POST hands over, by port (R322-R325), and when a full port stalls it. -/

namespace Sys2Proof.Machine

/-- Engine kinds of a Sieve op: the number of enabled engines and the range of engine numbers (Table 10.12). -/
def sieveEngines (s : State) (op : Nat) : Nat :=
  match op with
  | 1 => rd s Reg.sieveCountLdpcDec 0
  | 2 => rd s Reg.sieveCountLdpcEnc 0
  | 3 => rd s Reg.sieveCountPolarDec 0
  | 4 => rd s Reg.sieveCountPolarEnc 0
  | _ => 0

/-- The 8-byte result of a Sieve job (R295). -/
def sieveResult (st : Status) (iters : Nat) (crc syn skipped : Bool) (cap : Nat) : List Byte :=
  leBytes 8 (st.code + iters % 32 * 2 ^ 8 + bit01 crc * 2 ^ 13 + bit01 syn * 2 ^ 14 + bit01 skipped * 2 ^ 15 + cap % 32 * 2 ^ 16)

/-- Where a job's result lies: the next 8-byte boundary after its output, by the op. -/
def resultAt (d : Nat) : Nat :=
  let out := bitsOf d 224 48
  let n := match bitsOf d 4 4 with
    | 1 | 3 => cdiv (bitsOf d 96 16) 8
    | 2 | 4 => cdiv (bitsOf d 64 32) 8
    | _ => 0
  (out + n + 7) / 8 * 8

/-- The stop of a core, and of the Sieve half that serves it (DESIGN CHOICE: Table 01.2 does not say which engines are which half). -/
def coreStop (n : Nat) : Nat := radioComputeStop (n / 32)

/-- A job ends: its result is written and its completion entry sent (Table 11.8), unless the core has faulted. -/
def sieveDone (s : State) (j : SieveJob) (out : List Byte) (res : List Byte) (st : Status) : State :=
  let s := if out = [] then s else radioWrite s (coreStop j.core) (bitsOf j.desc 224 48) out
  let s := radioWrite s (coreStop j.core) (resultAt j.desc) res
  if j.mute then s else coreComplete s j.core 0 st (bitsOf j.desc 272 16) (bitsOf j.desc 176 16)

/-- Port 0: a job enters the queue of its engine kind; a reserved op writes only its result (R294, R295). -/
def postSieve (s : State) (n : Nat) (bs : List Byte) : State :=
  let d := leNat bs
  let j : SieveJob := { core := n, desc := d, mute := false }
  let op := bitsOf d 4 4
  if bs.length ≠ 64 then coreComplete s n 0 .badFormat (bitsOf d 272 16) (bitsOf d 176 16)
  else if op = 0 ∨ 4 < op then sieveDone s j [] (sieveResult .badFormat 0 false false false 0) .badFormat
  else if sieveEngines s op = 0 then coreComplete s n 0 .noUnit (bitsOf d 272 16) (bitsOf d 176 16)
  else { s with radio := { s.radio with jobs := s.radio.jobs ++ [j] } }

/-- Port 1: a radio command joins its stream, or fails its header checks (R323). -/
def postRadio (s : State) (n slotTag : Nat) (bs : List Byte) : State :=
  let raw := leNat bs
  let pos := bitsOf raw 36 5
  let c := Cmd.fresh (.radio n slotTag pos) s.work.nextCid raw bs.length
  let bad := match headerBad c (benchCount s) with
    | some st => some st
    | none => if bs.length ≠ 64 * (1 + c.bodyLen) ∨ !(c.opcode == 1 || c.opcode == 3 || c.opcode == 6) then some .badFormat else none
  match bad with
  | some st => coreComplete s n 1 st c.tag 0
  | none =>
    let cid := s.work.nextCid
    putCmd { s with work := { s.work with nextCid := cid + 1 } } cid c

/-- Port 2: a mailbox message, with its failure entry (Table 11.8). -/
def postMbox (s : State) (n : Nat) (bs : List Byte) : State :=
  let target := bitsOf (leNat (bs.take 1)) 0 6
  if bs.length ≠ 64 then coreComplete s n 2 .badFormat 0 0
  else if rd s Reg.chiselInfoCores 0 ≤ target then coreComplete s n 2 .noUnit 0 0
  else match mboxDeliver s target n bs with
    | none => coreComplete s n 2 .quota 0 0
    | some s => s

/-- An FH_TX descriptor that does not hold together (R325). -/
def fhTxBad (s : State) (p : CellPlan) (d : Nat) : Bool :=
  let op := bitsOf d 0 2
  let n := if op = 0 then 48 * bitsOf d 41 9 else bitsOf d 80 16
  1 < op || bitsOf d 62 2 != 0 || bitsOf d 144 368 != 0 || 13 < bitsOf d 11 4 ||
    (op == 0 && (bitsOf d 80 16 != 0 || p.nPrb < bitsOf d 32 9 + bitsOf d 41 9)) || !inRadioLots s (bitsOf d 96 48) n

/-- Port 3: a U-plane section waits for its symbol's release; a prebuilt C-plane message is sent at once, before its symbol's window
opens, and a late one takes its symbol's U-plane with it (R286, R298, R325). -/
def postFhTx (s : State) (n : Nat) (bs : List Byte) : State :=
  let d := leNat bs
  let c := bitsOf d 2 9
  let sym := bitsOf d 11 4
  let sfn := bitsOf d 15 10
  let slot := bitsOf d 25 7
  match (if bs.length = 64 then cellPlan s c else none) with
  | none => coreComplete s n 3 (if rd s Reg.caps1FronthaulPorts 0 = 0 then .noUnit else .badFormat) 0 0
  | some p =>
    let airNs := symStart s p sfn slot sym
    if fhTxBad s p d then coreComplete s n 3 .badFormat 0 0
    else if cellSt s c ≠ 4 then s
    else if bitsOf d 0 2 = 1 then
      if airNs ≤ now s + p.txOpenNs then
        let s := { s with radio := { s.radio with cLate := insertNat s.radio.cLate (symKey c sfn slot sym) } }
        coreComplete (radioLate s c sfn slot 1 1) n 3 .radioLate 0 0
      else
        match radioRead s (radioIoStop (p.lport / 4)) (bitsOf d 96 48) (bitsOf d 80 16) with
        | (s, data, _) => bump (emit s (.fh p.lport (.cPlane c sfn slot sym data))) Reg.fhPortTxFrames (p.lport / 4) 1
    else if airNs ≤ now s + p.txCloseNs then coreComplete (radioLate s c sfn slot 0 1) n 3 .radioLate 0 0
    else
      { s with radio := { s.radio with sections := s.radio.sections ++
        [{ core := n, cell := c, sfn := sfn, slot := slot, sym := sym, startPrb := bitsOf d 32 9, prbs := bitsOf d 41 9,
           section_ := bitsOf d 50 12, eaxc := bitsOf d 64 16, pa := bitsOf d 96 48 }] } }

/-- Port 4: a group is written to a ring pair's indication ring, or reported dropped (R291, R322). The TLVs marked for its
slot go with it (R292). -/
def postFapi (s : State) (n : Nat) (bs : List Byte) : State :=
  let d := leNat bs
  let entry := bitsOf d 128 256
  let len := bitsOf d 64 32
  let ring := bitsOf d 96 8
  let cell := bitsOf entry 96 9
  let key := slotKey10 cell (bitsOf entry 112 10) (bitsOf entry 122 7)
  if bs.length ≠ 64 ∨ bitsOf d 104 24 ≠ 0 ∨ bitsOf d 384 128 ≠ 0 ∨ 16 ≤ ring ∨ bitsOf entry 48 16 ≠ 0 ∨ bitsOf entry 105 7 ≠ 0 ∨
      bitsOf entry 129 127 ≠ 0 ∨ 4194304 < len ∨ !inRadioLots s (bitsOf d 0 64) len then coreComplete s n 4 .badFormat 0 0
  else
    match radioRead s ucieStop (bitsOf d 0 64) len with
    | (s, data, _) =>
      match fapiPut s ring entry data with
      | none => coreComplete (fapiDrop s ring) n 4 .quota 0 0
      | some s =>
        let tlvs := mapGet s.radio.marks key []
        let s := { s with radio := { s.radio with written := insertNat s.radio.written key,
                                                  marks := mapErase s.radio.marks key } }
        emit s (.fapi ring (.group cell (bitsOf entry 112 10) (bitsOf entry 122 7) tlvs))

/-- A port of a core holds 16 entries (R322). -/
def portFull (s : State) (n port : Nat) : Bool :=
  match port with
  | 0 => 16 ≤ (s.radio.jobs.filter (fun j => j.core == n)).length
  | 1 => 16 ≤ (s.work.cmds.filter (fun e => e.2.inStream && (match e.2.owner with | .radio m _ _ => m == n | .queue _ _ => false))).length
  | 3 => 16 ≤ (s.radio.sections.filter (fun x => x.core == n)).length
  | _ => false

/-- Take a posted descriptor. -/
def takePost (s : State) (n : Nat) (x : Stall) : State :=
  match x.port with
  | 0 => postSieve s n x.data
  | 1 => postRadio s n x.tag x.data
  | 2 => postMbox s n x.data
  | 3 => postFhTx s n x.data
  | _ => postFapi s n x.data

/-- A POST that waits goes through when its port has room and no completion entry of the core waits (R322, R324); the stall is counted
in C-clocks. -/
def tryPost (s : State) (n : Nat) : State :=
  match (getCore s n).stall with
  | none => s
  | some x =>
    if portFull s n x.port ∨ (getCore s n).cqWait ≠ [] then s
    else
      let s := putCore s n { getCore s n with stall := none }
      let s := bump s Reg.chiselCorePortStalls n ((now s - x.sinceNs) * 7 / 5)
      takePost (bump s Reg.chiselCoreBusyCycles n (x.data.length / 64)) n x

/-- A POST instruction (R322): 64-byte units are copied from X or Y at An. -/
def postSlot (s : State) (core : BitVec 6) (port : Nat) (a : BitVec 3) (units : BitVec 4) (last : Bool) : State :=
  let n := core.toNat
  if !mayIssue s n then s else
  let c := getCore s n
  let at_ := c.addr a.toNat
  let len := 64 * (units.toNat + 1)
  if at_ % 64 ≠ 0 then coreFault s n causePort c.pc
  else if !((inX at_ && inX (at_ + len - 1)) || (inY at_ && inY (at_ + len - 1))) then coreFault s n causeAddr c.pc
  else
    let x : Stall := { port := port, data := c.bytes at_ len, tag := c.reg 0x46, sinceNs := now s }
    let s := tryPost (putCore s n { c with mid := true, stall := some x }) n
    if last then endBundle s n else s

end Sys2Proof.Machine
end

