-- ==== Sys2Proof/Machine/Radio.lean ====
section
/-! DEFINITION. Radio commands: FAPI rings and P5, P7 requests (R281, R283, R289-R291), fronthaul (R278, R279, R285-R288, R298), Sieve jobs
(R293-R296) and the decode release (R297). -/

namespace Sys2Proof.Machine

/-! ### FAPI rings (R289) -/

/-- Read one published request entry: a group for the P7 rows, or a report of a bad entry. -/
def readFapiEntry (s : State) (ring i : Nat) : State :=
  let pasid := rd s Reg.fapiRingPasid ring
  let at_ := rd s Reg.fapiRingReqBase ring + 32 * i
  if hostOk s pasid at_ 32 = false then logErr s 0 .translationFault 3 0 0
  else
    let e := leNat (hostBytes s pasid at_ 32)
    let cell := bitsOf e 96 9
    if bitsOf e 48 16 ≠ 0 ∨ bitsOf e 105 7 ≠ 0 ∨ bitsOf e 129 127 ≠ 0 ∨ 4194304 < bitsOf e 64 32 then
      indicateCell s cell (.error cell (bitsOf e 112 10) (bitsOf e 122 7) errInvalidConfig none [])
    else
      { s with radio := { s.radio with groups := s.radio.groups ++
        [{ ring := ring, cell := cell, sfn := bitsOf e 112 10, slot := bitsOf e 122 7, addr := bitsOf e 0 48, len := bitsOf e 64 32,
           publishNs := now s }] } }

/-- FAPI_REQ_TAIL (R289): the doorbell publishes entries up to the new tail and raises the FAPI event of the pair's cores; a value beyond
the ring is discarded and logged, as R115 does. -/
def execFapiReqTail (ring : BitVec 4) (value : BitVec 32) (s : State) : Ans :=
  let r := ring.toNat
  let n := 2 ^ rd s Reg.fapiRingReqLog2 r
  .next (
    if !reachable s (0x820018 + 64 * r) then logErr s 0 .notReady 0 0 (0x820018 + 64 * r)
    else if n ≤ value.toNat ∨ rd s Reg.fapiRingReqLog2 r < 2 ∨ 12 < rd s Reg.fapiRingReqLog2 r then
      logErr s 0 .badFormat 0 0 (0x820018 + 64 * r)
    else
      let s := wr s Reg.fapiRingReqTail r value.toNat
      if rdB s Reg.fapiRingEnable r = false then s
      else
        let head := rd s Reg.fapiRingReqHead r % n
        let s := (List.range ((value.toNat + n - head) % n)).foldl (fun s k => readFapiEntry s r ((head + k) % n)) s
        let s := wr s Reg.fapiRingReqHead r value.toNat
        (bitList 64 (rd s Reg.chiselFapiMapMask r)).foldl (fun s c => coreEvent s c 6) s)

/-! ### P5 (R281, R283) -/

/-- A TLV that a CONFIG.request may not carry for this cell. -/
def tlvBad (p : CellPlan) : CfgTlv → Bool
  | .unsupported _ => true
  | .fixed f v => planField p f != v
  | .set .carrierFreq v => v < p.bandLo || p.bandHi < v
  | .set .tddPattern v => v != p.tddPattern
  | .set .prachFormat v => p.split8 && v < 4
  | .set .beamTable _ => !p.catA
  | .set _ _ => false

/-- Parameters after a CONFIG.request. -/
def applyTlvs (ps : List (CellParam × Nat)) (tlvs : List CfgTlv) : List (CellParam × Nat) :=
  tlvs.foldl (fun ps t => match t with
    | .set p v => (p, v) :: ps.filter (fun e => e.1 ≠ p)
    | _ => ps) ps

/-- A P5 response goes out on pair 0 (R289). -/
def p5Response (s : State) (request cell err : Nat) : State := indicate s 0 (.response request cell err)

/-- PARAM_REQUEST (R283): answered in every state but OFF. -/
def execParamRequest (cell : BitVec 9) (s : State) : Ans :=
  .next (if cellSt s cell.toNat = 0 then s else p5Response s 0 cell.toNat 0)

/-- CONFIG_REQUEST (R281, R283, Table 10.2). -/
def execConfigRequest (cell : BitVec 9) (tlvs : List CfgTlv) (s : State) : Ans :=
  let c := cell.toNat
  .next (match cellPlan s c with
    | none => s
    | some p =>
      if cellSt s c = 0 then s
      else if cellSt s c ≠ 2 ∧ cellSt s c ≠ 3 then p5Response s 1 c errInvalidState
      else if tlvs.any (tlvBad p) then p5Response s 1 c errInvalidConfig
      else
        let s := { s with radio := { s.radio with params := mapMod s.radio.params c [] (fun ps => applyTlvs ps tlvs) } }
        p5Response (wr s Reg.cellState c 3) 1 c 0)

/-- START_REQUEST (R283): the first slot is that of the next 10 ms frame. -/
def execStartRequest (cell : BitVec 9) (s : State) : Ans :=
  let c := cell.toNat
  .next (if cellSt s c = 0 then s
    else if cellSt s c ≠ 3 then p5Response s 2 c errInvalidState
    else
      let s := { s with radio := { s.radio with startNs := mapSet s.radio.startNs c ((now s / 10000000 + 1) * 10000000) } }
      p5Response (wr s Reg.cellState c 4) 2 c 0)

/-- STOP_REQUEST (R283): a RUNNING cell becomes CONFIGURED; its slots, sections and frames end with it. -/
def execStopRequest (cell : BitVec 9) (s : State) : Ans :=
  let c := cell.toNat
  .next (if cellSt s c = 0 then s
    else if cellSt s c ≠ 4 then p5Response s 3 c errInvalidState
    else
      let r := s.radio
      let s := { s with radio := { r with startNs := mapErase r.startNs c, work := r.work.filter (fun w => w.cell != c),
                                          sections := r.sections.filter (fun x => x.cell != c),
                                          frames := r.frames.filter (fun x => x.cell != c), harq := mapErase r.harq c } }
      p5Response (wr s Reg.cellState c 3) 3 c 0)

/-! ### P7 (R290, Table 10.2) -/

/-- Report the PDUs that lie outside Table 10.1. -/
def reportPdus (s : State) (c sfn slot : Nat) (pdus : List Pdu) : State :=
  pdus.zipIdx.foldl (fun s p => if p.1.supported then s else indicateCell s c (.error c sfn slot errSlot (some p.2) [])) s

/-- HARQ buffers for the transport blocks of an UL_TTI.request (R296): a process that holds one keeps it, a new transmission takes a free
one, or its soft bits are not kept. -/
def takeHarq (s : State) (c sfn slot : Nat) (p : CellPlan) (pdus : List Pdu) : State :=
  (pdus.filterMap (·.tb)).foldl (fun s b =>
    let held := mapGet s.radio.harq c []
    if held.contains b.harq then s
    else if !b.retx && held.length < p.harqBuffers then
      { s with radio := { s.radio with harq := mapSet s.radio.harq c (insertNat held b.harq) } }
    else
      let s := bump s Reg.cellHarqNotKept c 1
      { s with radio := { s.radio with marks := mapMod s.radio.marks (slotKey10 c sfn slot) [] (· ++ [tlvHarqNotKept b.harq]) } }) s

/-- A P7 request for a slot, published on a ring pair: late ones are skipped and reported, unsupported PDUs likewise (R279, R290). -/
def p7 (s : State) (kind : P7Kind) (ring c sfn slot : Nat) (pdus : List Pdu) : State :=
  match cellPlan s c, s.radio.groups.find? (fun g => g.ring == ring && g.cell == c && g.sfn == sfn && g.slot == slot) with
  | some p, some g =>
    if cellSt s c ≠ 4 ∧ cellSt s c ≠ 5 then s
    else if slotStart s p.mu sfn slot < g.publishNs + 1000 * p.p7LeadUs then
      indicateCell (bump s Reg.cellLateRequests c 1) c (.error c sfn slot errSlot none [tlvLateRequest sfn slot])
    else
      let s := reportPdus s c sfn slot pdus
      let ok := pdus.filter (·.supported)
      let s := { s with radio := { s.radio with work := s.radio.work ++ [⟨kind, c, sfn, slot, ok⟩] } }
      if kind = .ulTti then takeHarq s c sfn slot p ok else s
  | _, _ => s

/-- DL_TTI_REQUEST (R290). -/
def execDlTtiRequest (ring : BitVec 4) (cell : BitVec 9) (sfn : BitVec 10) (slot : BitVec 7) (pdus : List Pdu) (s : State) : Ans :=
  .next (p7 s .dlTti ring.toNat cell.toNat sfn.toNat slot.toNat pdus)

/-- UL_TTI_REQUEST (R290). -/
def execUlTtiRequest (ring : BitVec 4) (cell : BitVec 9) (sfn : BitVec 10) (slot : BitVec 7) (pdus : List Pdu) (s : State) : Ans :=
  .next (p7 s .ulTti ring.toNat cell.toNat sfn.toNat slot.toNat pdus)

/-- UL_DCI_REQUEST (R290). -/
def execUlDciRequest (ring : BitVec 4) (cell : BitVec 9) (sfn : BitVec 10) (slot : BitVec 7) (pdus : List Pdu) (s : State) : Ans :=
  .next (p7 s .ulDci ring.toNat cell.toNat sfn.toNat slot.toNat pdus)

/-- TX_DATA_REQUEST (R290). -/
def execTxDataRequest (ring : BitVec 4) (cell : BitVec 9) (sfn : BitVec 10) (slot : BitVec 7) (pdus : List Pdu) (s : State) : Ans :=
  .next (p7 s .txData ring.toNat cell.toNat sfn.toNat slot.toNat pdus)

/-- Forget groups, requests, uplink IQ and written indications of slots that are more than a frame past. -/
def pruneSlots (s : State) : State :=
  let live (c sfn slot : Nat) : Bool :=
    match cellPlan s c with
    | none => false
    | some p => now s ≤ slotStart s p.mu sfn slot + 10000000
  let liveKey (k : Nat) : Bool := live (k / 1048576) (k / 1024 % 1024) (k % 1024)
  { s with radio := { s.radio with groups := s.radio.groups.filter (fun g => live g.cell g.sfn g.slot),
                                   work := s.radio.work.filter (fun w => live w.cell w.sfn w.slot),
                                   iq := s.radio.iq.filter (fun e => liveKey (e.1 / 1073741824)),
                                   written := s.radio.written.filter liveKey } }

/-- SLOT_INDICATION (R290, Table 10.10): written for RUNNING and MUTED cells at slot start minus the lead; a later one carries RADIO_LATE,
and SYNC_STATE goes with it in HOLDOVER_EXPIRED and from a MUTED cell (R283). -/
def execSlotIndication (cell : BitVec 9) (sfn : BitVec 10) (slot : BitVec 7) (s : State) : Ans :=
  let c := cell.toNat
  .next (match cellPlan s c with
    | none => s
    | some p =>
      let start := slotStart s p.mu sfn.toNat slot.toNat
      if (cellSt s c ≠ 4 ∧ cellSt s c ≠ 5) ∨ start < mapGet s.radio.startNs c 0 ∨ now s + 1000 * p.p7LeadUs < start then s
      else
        let s := pruneSlots s
        let late := start < now s + 1000 * p.p7LeadUs
        let sync := cellSt s c = 5 ∨ rd s Reg.timeStateState 0 = 4
        let s := if late then bump s Reg.cellLate c 1 else s
        indicateCell s c (.slot c sfn.toNat slot.toNat ((if late then [tlvLate 3 1] else []) ++ (if sync then [tlvSync s] else []))))

/-! ### Fronthaul receive (R278, R279, R288) -/

/-- A received frame is counted. -/
def fhReceived (s : State) (lport : Nat) : State := bump s Reg.fhPortRxFrames (lport / 4) 1

/-- A received frame is discarded and counted. -/
def fhDiscard (s : State) (lport : Nat) : State := bump s Reg.fhPortRxDiscarded (lport / 4) 1

/-- UPLINK_U_PLANE (R288): accepted inside the cell's reception window and not older than a sequence already accepted. -/
def execUplinkUPlane (cell : BitVec 9) (frame : UFrame) (s : State) : Ans :=
  let c := cell.toNat
  .next (match cellPlan s c with
    | none => s
    | some p =>
      let s := fhReceived s p.lport
      if cellSt s c ≠ 4 then s
      else
        let air := symStart s p frame.sfn frame.slot frame.symbol
        let key := p.lport * 65536 + frame.eaxc % 65536
        let d := match mapFind s.radio.rxSeq key with
          | none => 1
          | some l => (frame.seq.toNat + 256 - l) % 256
        if now s < air + p.rxOpenNs ∨ air + p.rxCloseNs < now s ∨ 128 ≤ d then
          bump (fhDiscard s p.lport) Reg.cellUlWindow c 1
        else
          let s := if 1 < d then bump s Reg.fhPortSeqGaps (p.lport / 4) 1 else s
          let w := frame.width.getD p.wNom
          let base := (symKey c frame.sfn frame.slot frame.symbol * 65536 + frame.eaxc % 65536) * 1024
          let iq := (frame.prbs.zipIdx.filter (fun e => frame.startPrb + e.2 < p.nPrb)).foldl
            (fun m e => mapPut m (base + frame.startPrb + e.2) (packLanes 16 (bfpExpand e.1.1 e.1.2 w)) 0) s.radio.iq
          { s with radio := { s.radio with rxSeq := mapSet s.radio.rxSeq key frame.seq.toNat, iq := iq } })

/-- RECEIVED_C_PLANE (R279): the device only sends C-plane. -/
def execReceivedCPlane (lport : BitVec 5) (s : State) : Ans := .next (fhDiscard (fhReceived s lport.toNat) lport.toNat)

/-- UNKNOWN_FRAME (R279). -/
def execUnknownFrame (lport : BitVec 5) (s : State) : Ans := .next (fhDiscard (fhReceived s lport.toNat) lport.toNat)

/-- ONE_WAY_DELAY (R278): an eCPRI one-way delay message is answered with the time base. -/
def execOneWayDelay (lport : BitVec 5) (id : BitVec 8) (s : State) : Ans :=
  .next (bump (emit (fhReceived s lport.toNat) (.fh lport.toNat (.delayAnswer id.toNat (now s)))) Reg.fhPortTxFrames (lport.toNat / 4) 1)

/-- ARP_REQUEST (R223): answered for the device's own addresses. -/
def execArpRequest (port : BitVec 6) (addr : BitVec 32) (s : State) : Ans :=
  .next (if mapFind s.net.v4 port.toNat = some addr.toNat then emit s (.netAnswer port.toNat addr.toNat) else s)

/-- NEIGHBOR_SOLICITATION (R223). -/
def execNeighborSolicitation (port : BitVec 6) (addr : BitVec 128) (s : State) : Ans :=
  .next (if mapFind s.net.v6 port.toNat = some addr.toNat then emit s (.netAnswer port.toNat addr.toNat) else s)

/-! ### Symbols (R285-R288, R298) -/

/-- A section of a symbol. -/
def FhSection.of (x : FhSection) (c sfn slot sym : Nat) : Bool := x.cell == c && x.sfn == sfn && x.slot == slot && x.sym == sym

/-- A frame of a symbol. -/
def FhFrame.of (x : FhFrame) (c sfn slot sym : Nat) : Bool := x.cell == c && x.sfn == sfn && x.slot == slot && x.sym == sym

/-- Bytes of a symbol's sections at a width. -/
def sectionsBytes (p : CellPlan) (xs : List FhSection) (w : Nat) : Nat :=
  (xs.map (fun x => (chunksOf (prbsPerFrame w) (x.prbs + 1) (List.range x.prbs)).map
    (fun c => frameBytes (p.adaptive || p.dynHeader) c.length w) |>.sum)).sum

/-- Compress a section into frames in PRB order; the second part says that its source had an uncorrectable line. -/
def buildFrames (s : State) (p : CellPlan) (w : Nat) (x : FhSection) : State × List FhFrame × Bool :=
  match radioRead s (radioIoStop (p.lport / 4)) x.pa (48 * x.prbs) with
  | (s, data, bad) =>
    let prbs := (List.range x.prbs).map (fun i => bfpCompress (prbParts ((data.drop (48 * i)).take 48)) w)
    let cs := chunksOf (prbsPerFrame w) (x.prbs + 1) prbs
    let fs := cs.zipIdx.map (fun c =>
      { cell := x.cell, sfn := x.sfn, slot := x.slot, sym := x.sym, eaxc := x.eaxc, section_ := x.section_,
        startPrb := x.startPrb + c.2 * prbsPerFrame w, width := w, prbs := c.1,
        bytes := frameBytes (p.adaptive || p.dynHeader) c.1.length w, core := x.core : FhFrame })
    (s, fs, bad)

/-- SYMBOL_RELEASE (R286, R287): once its transmit window has opened, the symbol's U-plane is compressed and leaves as tokens allow. -/
def execSymbolRelease (cell : BitVec 9) (sfn : BitVec 10) (slot : BitVec 7) (sym : BitVec 4) (s : State) : Ans :=
  let c := cell.toNat
  let (f, n, m) := (sfn.toNat, slot.toNat, sym.toNat)
  .next (match cellPlan s c with
    | none => s
    | some p =>
      if now s + p.txOpenNs < symStart s p f n m then s else
      let xs := sortBy (fun a b => a.startPrb < b.startPrb) (s.radio.sections.filter (fun x => x.of c f n m))
      let s := { s with radio := { s.radio with sections := s.radio.sections.filter (fun x => !x.of c f n m) } }
      if cellSt s c ≠ 4 ∨ s.radio.cLate.contains (symKey c f n m) then s
      else
        let s := fillTokens s c p
        let dear := mapGet s.radio.tokens c 0 + p.rateBps * (p.txOpenNs - p.txCloseNs) < sectionsBytes p xs p.wNom * 8 * 1000000000
        let narrowed := p.adaptive && dear && !xs.isEmpty
        let s := if narrowed then bump s Reg.cellNarrowed c 1 else s
        let w := if narrowed then p.wFloor else p.wNom
        let unused := (List.range p.nPrb).filter (fun i => !xs.any (fun x => x.startPrb ≤ i && i < x.startPrb + x.prbs))
        let s := if unused.isEmpty then s else emit s (.fh p.lport (.unused c f n m unused))
        let r := xs.foldl (fun (acc : State × List FhFrame) x =>
          match buildFrames acc.1 p w x with
          | (s, fs, bad) =>
            (if bad then indicateCell s c (.error c f n errSlot none [tlvMemUe 2]) else s, acc.2 ++ fs)) (s, [])
        match sendFrames r.1 c p r.2 with
        | (s, rest) => { s with radio := { s.radio with frames := s.radio.frames ++ rest } })

/-- TRANSMIT_WINDOW_END (R286, R298): once the window has ended, what the tokens have allowed by now is sent, the rest is dropped and reported. -/
def execTransmitWindowEnd (cell : BitVec 9) (sfn : BitVec 10) (slot : BitVec 7) (sym : BitVec 4) (s : State) : Ans :=
  let c := cell.toNat
  let (f, n, m) := (sfn.toNat, slot.toNat, sym.toNat)
  .next (match cellPlan s c with
    | none => s
    | some p =>
      if now s + p.txCloseNs < symStart s p f n m then s else
      let fs := s.radio.frames.filter (fun x => x.of c f n m)
      let late := s.radio.cLate.contains (symKey c f n m)
      let xs := s.radio.sections.filter (fun x => x.of c f n m)
      let r := s.radio
      let s := { s with radio := { r with frames := r.frames.filter (fun x => !x.of c f n m), sections := r.sections.filter (fun x => !x.of c f n m),
                                          cLate := r.cLate.filter (· != symKey c f n m) } }
      if cellSt s c ≠ 4 ∨ late then s
      else
        match sendFrames (fillTokens s c p) c p fs with
        | (s, rest) =>
          let cores := (rest.map (·.core) ++ xs.map (·.core)).eraseDups
          if cores.isEmpty then s
          else cores.foldl (fun s k => coreComplete s k 3 .radioLate 0 0) (radioLate s c f n 0 1))

/-- A slot or symbol event reaches every running core of that numerology, TSLOT first (R315). -/
def slotEvent (s : State) (bit mu sfn slot sym : Nat) : State :=
  (List.range 64).foldl (fun s n =>
    let c := getCore s n
    if coreRuns s n ∧ c.reg 0x45 = mu then
      coreEvent (putCore s n (c.setReg 0x44 (sfn % 1024 + slot % 128 * 2 ^ 10 + sym % 16 * 2 ^ 17))) n bit
    else s) s

/-- RECEPTION_WINDOW_CLOSE (R288, R315): PRBs that have not arrived stay zero IQ, and the SYMBOL event is set. -/
def execReceptionWindowClose (cell : BitVec 9) (sfn : BitVec 10) (slot : BitVec 7) (sym : BitVec 4) (s : State) : Ans :=
  .next (match cellPlan s cell.toNat with
    | none => s
    | some p =>
      if now s < symStart s p sfn.toNat slot.toNat sym.toNat + p.rxCloseNs then s
      else slotEvent s 2 p.mu sfn.toNat slot.toNat sym.toNat)

/-- INDICATION_DEADLINE (R298): the slot's indication has not been written; it is counted late and carries RADIO_LATE when it is. -/
def execIndicationDeadline (cell : BitVec 9) (sfn : BitVec 10) (slot : BitVec 7) (affected : BitVec 16) (s : State) : Ans :=
  let c := cell.toNat
  let key := slotKey10 c sfn.toNat slot.toNat
  .next (if (cellSt s c ≠ 4 ∧ cellSt s c ≠ 5) ∨
      ((cellPlan s c).all (fun p => now s < slotStart s p.mu sfn.toNat slot.toNat + 1000 * p.indDeadlineUs)) then s
    else if s.radio.written.contains key then { s with radio := { s.radio with written := s.radio.written.filter (· != key) } }
    else
      let s := bump s Reg.cellLate c 1
      { s with radio := { s.radio with marks := mapMod s.radio.marks key [] (· ++ [tlvLate 2 affected.toNat]) } })

/-! ### Decode release (R297) -/

/-- A transport block due in a slot, with its place in the cap order. -/
structure DueTb where
  cell : Nat
  prio : Nat
  pos : Nat
  maxIter : Nat
  tb : UlBlock
  deriving DecidableEq, Repr

/-- Code blocks of a transport block. -/
def DueTb.count (t : DueTb) : Nat := (t.tb.blocks.map (·.count)).sum

/-- Decode work of a transport block at an iteration count, in fortieths of a nanosecond (R293). -/
def DueTb.work (t : DueTb) (iters : Nat) : Nat := (t.tb.blocks.map (fun b => b.count * decodeTime iters b.bg2 b.zc b.e)).sum

/-- Cap order: lower priority, initial before retransmission, more code blocks, lower cell, earlier PDU. -/
def capBefore (a b : DueTb) : Bool :=
  let ra := bit01 a.tb.retx
  let rb := bit01 b.tb.retx
  a.prio < b.prio || (a.prio == b.prio && (ra < rb || (ra == rb && (b.count < a.count || (b.count == a.count &&
    (a.cell < b.cell || (a.cell == b.cell && a.pos < b.pos)))))))

/-- The transport blocks due in a slot of a numerology. -/
def dueTbs (s : State) (mu sfn slot : Nat) : List DueTb :=
  (s.radio.plan.filter (fun e => e.2.mu == mu)).flatMap (fun e =>
    let pdus := (s.radio.work.filter (fun w => w.kind == .ulTti && w.cell == e.1 && w.sfn == sfn && w.slot == slot)).flatMap (·.pdus)
    pdus.zipIdx.filterMap (fun p => p.1.tb.map (fun b => ⟨e.1, e.2.prio, p.2, e.2.maxIter, b⟩)))

/-- Lower one block's cap in steps of two while the work exceeds the budget: work and cap after. -/
def lowerCap (t : DueTb) (b fuel w cap : Nat) : Nat × Nat :=
  match fuel with
  | 0 => (w, cap)
  | k + 1 =>
    let floor_ := min 2 t.maxIter
    if b < w ∧ floor_ < cap then
      let new := max floor_ (cap - 2)
      lowerCap t b k (w - (t.work cap - t.work new)) new
    else (w, cap)

/-- The caps of a slot: work after, and each block with its cap. -/
def lowerAll (b : Nat) (ts : List DueTb) (w : Nat) : Nat × List (DueTb × Nat) :=
  match ts with
  | [] => (w, [])
  | t :: r =>
    let x := lowerCap t b 16 w t.maxIter
    let y := lowerAll b r x.1
    (y.1, (t, x.2) :: y.2)

/-- Drop whole blocks while the work still exceeds the budget: each block with its cap and whether it is dropped. -/
def dropAll (b : Nat) (ts : List (DueTb × Nat)) (w : Nat) : List (DueTb × Nat × Bool) :=
  match ts with
  | [] => []
  | (t, cap) :: r => if w ≤ b then (t, cap, false) :: dropAll b r w else (t, cap, true) :: dropAll b r (w - t.work cap)

/-- Enabled decoders that are not quarantined. -/
def decoders (s : State) : Nat :=
  ((List.range 32).filter (fun e => rdB s Reg.sieveEngEnabled e && !rdB s Reg.sieveEngQuarantined e)).length

/-- Count and mark a capped or dropped block (R297). -/
def markCapped (s : State) (sfn slot : Nat) (x : DueTb × Nat × Bool) : State :=
  let t := x.1
  let capped := x.2.2 || x.2.1 < t.maxIter
  let key := t.cell * 65536 + t.tb.tbId % 65536
  let caps := if x.2.2 then mapSet s.radio.caps key 0 else if capped then mapSet s.radio.caps key x.2.1 else mapErase s.radio.caps key
  let s := { s with radio := { s.radio with caps := caps } }
  if !capped then s
  else
    let s := bump (bump s Reg.sieveCappedTbsCount 0 1) Reg.cellCappedTbs t.cell 1
    let s := if x.2.2 then bump s Reg.sieveDroppedTbsCount 0 1 else s
    { s with radio := { s.radio with marks := mapMod s.radio.marks (slotKey10 t.cell sfn slot) [] (· ++ [tlvCapped x.2.1 x.2.2]) } }

/-- DECODE_RELEASE (R297). -/
def execDecodeRelease (mu : BitVec 2) (sfn : BitVec 10) (slot : BitVec 7) (s : State) : Ans :=
  let ts := sortBy capBefore (dueTbs s mu.toNat sfn.toNat slot.toNat)
  .next (if ts.isEmpty then s
    else
      let dl := (ts.filterMap (fun t => (cellPlan s t.cell).map (·.indDeadlineUs))).foldl min (2 ^ 32)
      let deadline := slotStart s mu.toNat sfn.toNat slot.toNat + 1000 * (dl - 20)
      let b := decoders s * (deadline - now s) * 40
      let w := (ts.map (fun t => t.work t.maxIter)).sum
      let s := raiseTo s Reg.sievePeakLoad 0 (if b = 0 then 2 ^ 32 - 1 else satAt 32 (w * 65536 / b))
      let l := lowerAll b ts w
      let s := if l.2.any (fun x => x.2 < x.1.maxIter) then bump s Reg.sieveCappedSlotsCount 0 1 else s
      (dropAll b l.2 l.1).foldl (fun s x => markCapped s sfn.toNat slot.toNat x) s)

/-! ### Sieve engines (R293-R296, R299) -/

/-- Fields of a job descriptor. -/
def SieveJob.op (j : SieveJob) : Nat := bitsOf j.desc 4 4
def SieveJob.cell (j : SieveJob) : Nat := bitsOf j.desc 8 9

/-- Start of the slot a job's tag names. -/
def SieveJob.slotNs (s : State) (j : SieveJob) : Nat :=
  slotStart s ((cellPlan s j.cell).elim 0 (·.mu)) (bitsOf j.desc 192 10) (bitsOf j.desc 202 7)

/-- Order of service: slot tag, then higher cell priority, then posting. -/
def jobBefore (s : State) (a b : SieveJob) : Bool :=
  a.slotNs s < b.slotNs s || (a.slotNs s == b.slotNs s && rd s Reg.cellPrio b.cell < rd s Reg.cellPrio a.cell)

/-- Index of the job an engine kind takes next. -/
def nextJob (s : State) (op : Nat) : Option Nat :=
  ((sortBy (fun a b => jobBefore s a.1 b.1) (s.radio.jobs.zipIdx.filter (fun j => j.1.op == op))).head?).map (·.2)

/-- A descriptor with a non-zero reserved field, or a field that its op requires to be zero. -/
def SieveJob.bad (j : SieveJob) : Bool :=
  let d := j.desc
  bitsOf d 0 4 != 1 || bitsOf d 31 1 != 0 || bitsOf d 41 7 != 0 || bitsOf d 209 15 != 0 || bitsOf d 288 224 != 0 ||
    (j.op == 1 && (bitsOf d 26 5 == 0 || 16 < bitsOf d 26 5)) || (j.op != 1 && bitsOf d 26 5 != 0) || (3 ≤ j.op && bitsOf d 17 1 != 0)

/-- Bytes of a job's input: 6-bit LLRs for decoders, bits for encoders. -/
def SieveJob.inBytes (j : SieveJob) : Nat :=
  match j.op with
  | 1 => cdiv (6 * bitsOf j.desc 112 16) 8
  | 3 => cdiv (6 * bitsOf j.desc 64 32) 8
  | _ => cdiv (bitsOf j.desc 96 16) 8

/-- Engine time of a job in nanoseconds (Table 10.8). -/
def SieveJob.time (j : SieveJob) (iters : Nat) : Nat :=
  match j.op with
  | 1 => decodeTime iters (bitOf j.desc 17) (bitsOf j.desc 32 9) (bitsOf j.desc 64 32) / 40
  | 2 => bitsOf j.desc 96 16 / 150 + 10
  | 3 => 100 + 3 * 2 ^ bitsOf j.desc 32 4 / 2
  | _ => 20 + 2 ^ bitsOf j.desc 32 4 / 8

/-- Run a job on an engine: input is read (none of it stands for a decoder whose buffer has an uncorrectable line, R299), output bits and outcome are the engine's (free where TS 38.212 fixes them), then the result. -/
def runJob (s : State) (e : Nat) (j : SieveJob) : State :=
  let s := bump s Reg.sieveEngJobs e 1
  if j.bad || !inRadioLots s (bitsOf j.desc 128 48) j.inBytes then sieveDone s j [] (sieveResult .badFormat 0 false false false 0) .badFormat
  else
    let cap := if j.op = 1 then mapFind s.radio.caps (j.cell * 65536 + bitsOf j.desc 176 16) else none
    if cap = some 0 then sieveDone s j [] (sieveResult .decodeCapped 0 false false true 0) .decodeCapped
    else
      match radioRead s (coreStop j.core) (bitsOf j.desc 128 48) j.inBytes with
      | (s, data, ue) =>
        let data := if ue && j.op == 1 then data.map (fun _ => 0) else data
        let s := if ue then
            let s := indicateCell s j.cell (.error j.cell (bitsOf j.desc 192 10) (bitsOf j.desc 202 7) errSlot none
              [tlvMemUe (if j.op = 1 then 0 else if j.op = 3 then 2 else 1)])
            if j.op = 1 then
              let s := bump s Reg.cellHarqNotKept j.cell 1
              let key := slotKey10 j.cell (bitsOf j.desc 192 10) (bitsOf j.desc 202 7)
              { s with radio := { s.radio with marks := mapMod s.radio.marks key [] (· ++ [tlvHarqNotKept (bitsOf j.desc 176 16)]) } }
            else s
          else s
        let limit := match cap with
          | some k => k
          | none => max 1 (bitsOf j.desc 26 5)
        let d := j.desc + limit * 2 ^ 512
        let dec := j.op = 1 ∨ j.op = 3
        let crc := dec && bitsOf j.desc 24 2 != 0 && bitOf (Config.sieve 2 d (leNat data)) 0
        let syn := dec && bitOf (Config.sieve 3 d (leNat data)) 0
        let stops := if bitsOf j.desc 24 2 = 0 then syn else crc
        let iters := if j.op ≠ 1 then 0 else if stops then 1 + Config.sieve 1 d (leNat data) % limit else limit
        let bits := if dec then bitsOf j.desc 96 16 else bitsOf j.desc 64 32
        let out := leBytes (cdiv bits 8) (Config.sieve 0 d (leNat data) % 2 ^ bits)
        let st : Status := if ue then .memUe else if cap.isSome then .decodeCapped else .ok
        let s := bump s Reg.sieveEngBusyNs e (j.time iters)
        sieveDone s j out (sieveResult st iters crc syn false (cap.getD 0)) st

/-- An engine takes the next job of its kind. -/
def engineTakes (s : State) (e op lo hi : Nat) : State :=
  if e < lo ∨ hi < e ∨ rdB s Reg.sieveEngEnabled e = false ∨ rdB s Reg.sieveEngQuarantined e then s
  else match nextJob s op with
    | none => s
    | some i =>
      match s.radio.jobs[i]? with
      | none => s
      | some j => runJob { s with radio := { s.radio with jobs := s.radio.jobs.eraseIdx i } } e j

/-- LDPC_DEC (R295, R297). -/
def execLdpcDec (engine : BitVec 6) (s : State) : Ans := .next (engineTakes s engine.toNat 1 0 31)

/-- LDPC_ENC (R295). -/
def execLdpcEnc (engine : BitVec 6) (s : State) : Ans := .next (engineTakes s engine.toNat 2 32 47)

/-- POLAR_DEC (R295). -/
def execPolarDec (engine : BitVec 6) (s : State) : Ans := .next (engineTakes s engine.toNat 3 48 55)

/-- POLAR_ENC (R295). -/
def execPolarEnc (engine : BitVec 6) (s : State) : Ans := .next (engineTakes s engine.toNat 4 56 63)

end Sys2Proof.Machine
end

