-- ==== Sys2Proof/Machine/Staged.lean ====
section
/-! DEFINITION. Staged groups (Table 17.5): the fields of a group, the snapshot a commit takes, its application at the block's boundary,
and the result ring (R447-R450). -/

namespace Sys2Proof.Machine

/-- The fields of a staged group and their instances. -/
def groupFields (kind i : Nat) : List (Fld × Nat) :=
  match kind with
  | 1 => [(Reg.dramBucketRate, i), (Reg.dramBucketBorrow, i), (Reg.dramBucketBurst, i)]
  | 2 => [(Reg.bankPartBenchMin, i), (Reg.bankPartBenchMax, i), (Reg.bankPartWeight, i), (Reg.bankPartQuantum, i)]
  | 3 => [(Reg.vfPartYardPages, i), (Reg.vfPartGalleryWeight, i), (Reg.vfPartHostCir, i), (Reg.vfPartHostPir, i),
          (Reg.vfPartHostCbs, i), (Reg.vfPartHostPbs, i)]
  | 4 => [(Reg.fabVfCir, i), (Reg.fabVfPir, i), (Reg.fabVfCbs, i), (Reg.fabVfPbs, i)]
  | 5 => [(Reg.tdfeStreamAction, i), (Reg.tdfeStreamNViol, i), (Reg.tdfeStreamSegCount, i)] ++
         (List.range 32).flatMap (fun g => [(Reg.tdfeSegLo, 32 * i + g), (Reg.tdfeSegHi, 32 * i + g), (Reg.tdfeSegLimit, 32 * i + g)])
  | _ => []

/-- CRC-32C over a snapshot: its values as 32-bit little-endian words in the group's order. -/
def snapCrc (vs : List Nat) : Nat := crc32c (vs.flatMap (leBytes 4))

/-- Write an outcome to the result ring; with 63 unread entries it is discarded and counted. -/
def cfgResult (s : State) (token kind index outcome : Nat) (st : Status) : State :=
  let t := rd s Reg.cfgResultIdxTail 0
  if (t + 64 - rd s Reg.cfgResultIdxHead 0) % 64 = 63 then bumpSat s Reg.cfgResultIdxDropped 0 1
  else
    let s := [(Reg.cfgResultToken, token), (Reg.cfgResultKind, kind), (Reg.cfgResultIndex, index), (Reg.cfgResultOutcome, outcome),
              (Reg.cfgResultStatus, st.code), (Reg.cfgResultTime, now s)].foldl (fun s e => wr s e.1 t e.2) s
    wr s Reg.cfgResultIdxTail 0 ((t + 1) % 64)

/-- Replace the list of pending commits and show how many there are. -/
def putPending (s : State) (l : List Snap) : State := wr { s with cfg := { s.cfg with pending := l } } Reg.cfgPendingCount 0 l.length

/-- Error log detail of a staged commit (Table 15.4). -/
def stagedDetail (p : Snap) : Nat := p.kind % 16 + p.index * 16

/-- The block applies a snapshot at its boundary, or keeps its last group where the CRC fails (R450). -/
def applySnap (s : State) (p : Snap) : State :=
  let s := putPending s (s.cfg.pending.filter (· != p))
  if snapCrc p.values = p.crc then
    cfgResult (((groupFields p.kind p.index).zip p.values).foldl (fun s e => wrLive s e.1.1 e.1.2 e.2) s) p.token p.kind p.index 1 .ok
  else
    healthCause (logErr (cfgResult s p.token p.kind p.index 4 .cfgTorn) 0 .cfgTorn 5 0 (stagedDetail p)) Reg.healthCauseCfg

/-- Apply every pending snapshot of a kind. -/
def applyKind (s : State) (kind : Nat) : State := (s.cfg.pending.filter (fun p => p.kind == kind)).foldl applySnap s

end Sys2Proof.Machine
end

