-- ==== Sys2Proof/Machine/Signed.lean ====
section
/-! DEFINITION. Signed objects and their trailer (R421, R422), measurements (R424), the NVM's regions (R436), and the persistent record
(R451-R454, R489). -/

namespace Sys2Proof.Machine

/-! ### Byte strings (R418) -/

/-- The 32-byte digest of a byte string as a number with byte 0 lowest. -/
def digest (bs : List Byte) : Nat := leNat (sm3 bs)

/-- MR_i = SM3(MR_i ‖ m) (R424). -/
def mrExtend (s : State) (i m : Nat) : State := wr s Reg.secMrValue i (digest (leBytes 32 (rd s Reg.secMrValue i) ++ leBytes 32 m))

/-! ### The trailer (Table 16.1) -/

/-- The trailer of an object as a number, and a field of it. -/
def trailer (obj : List Byte) : Nat := leNat (obj.drop (obj.length - 256))
def bodyOf (obj : List Byte) : List Byte := obj.take (obj.length - 256)

/-- The form of an object of a kind: version, kind, reserved fields, length and digest of the body. -/
def wellFormed (kind : Nat) (obj : List Byte) : Bool :=
  let t := trailer obj
  256 ≤ obj.length && bitsOf t 0 4 == 1 && bitsOf t 4 4 == kind && bitsOf t 8 2 != 3 && bitsOf t 10 6 == 0 && bitsOf t 32 32 == 0 &&
    bitsOf t 128 32 == obj.length - 256 && bitsOf t 160 96 == 0

/-- Bytes 0x00 to 0x3F of the trailer, which the signature covers. -/
def signedPart (obj : List Byte) : List Byte := (obj.drop (obj.length - 256)).take 64

/-- The public key that the signer field names, if it resolves (R422): 0 vendor, 1 owner, 2 owner delegate. -/
def signerKey (s : State) (t : Nat) : Option (BitVec 512) :=
  let key := BitVec.ofNat 512 (bitsOf t 1024 512)
  let owner := BitVec.ofNat 512 (rd s Reg.secOwnerKeyKey 0)
  match bitsOf t 8 2 with
  | 0 => if bitsOf t 1536 512 = 0 ∧ (List.range 4).any (fun i => (Config.vendorDigest i).toNat == digest (leBytes 64 key.toNat)) then some key
         else none
  | 1 => if bitsOf t 1024 1024 = 0 ∧ rdB s Reg.secStatusGradeOk 0 then some owner else none
  | 2 => if rdB s Reg.secStatusGradeOk 0 ∧ Config.sm2Verify owner (leBytes 64 key.toNat) (BitVec.ofNat 512 (bitsOf t 1536 512)) then some key
         else none
  | _ => none

/-- Verification of an object (R422): none when all holds, else the status of Tables 16.2 and R433. `bound`: device_id must equal the
device's. -/
def verifyObject (s : State) (kind minSvn : Nat) (allowed : Nat → Bool) (bound : Bool) (obj : List Byte) : Option Status :=
  let t := trailer obj
  let dev := bitsOf t 64 64
  if !wellFormed kind obj then some .badFormat
  else if bitsOf t 256 256 ≠ digest (bodyOf obj) then some .permission
  else if dev ≠ rd s Reg.secDeviceIdId 0 ∧ (bound ∨ dev ≠ 0) then some .permission
  else if allowed (bitsOf t 8 2) = false then some .permission
  else match signerKey s t with
    | none => some .permission
    | some k =>
      if Config.sm2Verify k (signedPart obj) (BitVec.ofNat 512 (bitsOf t 512 512)) = false then some .permission
      else if bitsOf t 16 16 < minSvn then some .badVersion
      else none

/-- svn of an object. -/
def svnOf (obj : List Byte) : Nat := bitsOf (trailer obj) 16 16

/-- Measure an object into a register: SM3 of its body and trailer (R424). -/
def measure (s : State) (i : Nat) (obj : List Byte) : State := mrExtend s i (digest obj)

/-! ### The NVM (R436, Table 17.2) -/

/-- A byte of the NVM: erased bytes read 0xFF. -/
def nvmByte (s : State) (a : Nat) : Byte := mapGet s.boot.nvm a 0xFF

/-- Bytes of the NVM. -/
def nvmBytes (s : State) (a n : Nat) : List Byte := (List.range n).map (fun i => nvmByte s (a + i))

/-- The entries of consecutive bytes: an erased byte has none. -/
def nvmRun (a : Nat) (bs : List Byte) : SMap Byte :=
  match bs with
  | [] => []
  | b :: t => if b = 0xFF then nvmRun (a + 1) t else (a, b) :: nvmRun (a + 1) t

/-- Program bytes: they take the place of what the range held. -/
def nvmPut (m : SMap Byte) (a : Nat) (bs : List Byte) : SMap Byte :=
  let z := a + bs.length
  m.filter (fun e => e.1 < a) ++ nvmRun a bs ++ m.filter (fun e => z ≤ e.1)

/-- Erase a range. -/
def nvmErase (m : SMap Byte) (a n : Nat) : SMap Byte := m.filter (fun e => e.1 < a ∨ a + n ≤ e.1)

/-- The regions of Table 17.2: offset and size. -/
def regHelper : Nat × Nat := (0x0, 0x1000)
def regGrade : Nat × Nat := (0x1000, 0x3000)
def regChain : Nat × Nat := (0x4000, 0x1000)
def regMgmt : Nat × Nat := (0x10000, 0x10000)
def regBank (b : Nat) : Nat × Nat := if b = 0 then (0x40000, 0x40000) else (0x80000, 0x40000)
def regFw (slot : Nat) : Nat × Nat := if slot = 0 then (0x100000, 0x800000) else (0x900000, 0x800000)
def regImg (slot : Nat) : Nat × Nat := if slot = 0 then (0x2000000, 0x4000000) else (0x6000000, 0x4000000)

/-- The object a region holds: none where its length is zero or larger than the region. -/
def regionObject (s : State) (r : Nat × Nat) : Option (List Byte) :=
  let n := leNat (nvmBytes s r.1 8)
  if n = 0 ∨ r.2 < n + 8 then none else some (nvmBytes s (r.1 + 8) n)

/-! ### The persistent record (R451-R454) -/

/-- used_len of this generation's record. -/
def recLen : Nat := 0x1C000

/-- Words of 64 bits with their count: how the model lays out the survey and health regions, which the spec gives no layout. -/
def encWords (ws : List Nat) : List Byte := leBytes 8 ws.length ++ ws.flatMap (leBytes 8)

/-- The words of a region. -/
def decWords (bs : List Byte) : List Nat := (List.range (min (leNat (bs.take 8)) (bs.length / 8 - 1))).map (fun i => leNat ((bs.drop (8 * (i + 1))).take 8))

/-- Cut or fill a byte list to a length. -/
def fit (n : Nat) (bs : List Byte) : List Byte := bs.take n ++ List.replicate (n - bs.length) 0

/-- The survey region (R441, R442, R464): last_stop, the thermal model, and the results. -/
def surveyWords (s : State) : List Nat :=
  let th := match s.boot.thermal with
    | some (k, t, d) => [1, k, t, d]
    | none => [0, 0, 0, 0]
  [rd s Reg.powerStatLastStop 0] ++ th ++ s.boot.survey.flatMap (fun e => [e.1, e.2])

/-- The health region (R489): list version and entries, quarantine and releases, evidence, and proving failures. -/
def healthWords (s : State) : List Nat :=
  let listed := (List.range 64).filter (fun n => rd s Reg.healthMemberList n != 0)
  [rd s Reg.healthListVersion 0, rd s Reg.healthQuarBenches 0, s.health.release,
   ofBitList ((List.range 64).filter (fun e => rdB s Reg.sieveEngQuarantined e)), listed.length, s.health.expels.length, s.health.evidence.length] ++
    listed.map (fun n => n + 64 * rd s Reg.healthMemberList n) ++ s.health.expels ++
    s.health.evidence.flatMap (fun e => [e.node + bit01 e.proving * 2 ^ 10 + e.unit * 2 ^ 11, e.time]) ++
    s.health.fails.flatMap (fun f => [f % 2 ^ 64, f / 2 ^ 64])

/-- The record's bytes from 0x10 on, as the state gives them now (Table 17.6). -/
def recBody (s : State) : List Byte :=
  let next := rd s Reg.readyNextFwSlot 0 + 2 * rd s Reg.readyNextImgSlot 0
  let svn := leBytes 2 (rd s Reg.secSvnFwMin 0) ++ leBytes 2 (rd s Reg.secSvnImgMin 0) ++ leBytes 2 (rd s Reg.secSvnL1Min 0)
  fit 0x30 [] ++ leBytes 4 next ++ fit 12 svn ++ fit 0xB0 [] ++ fit 7936 (encWords (surveyWords s)) ++ fit 8000 (s.mem.repairs.flatMap (leBytes 8)) ++
    fit 192 [] ++ fit 0x8000 (s.mem.persist.flatMap (leBytes 32)) ++ fit 0x10000 (encWords (healthWords s))

/-- A whole bank: ver, seq, used_len, crc, and the body. -/
def recBytes (s : State) (seq : Nat) : List Byte :=
  let head := leBytes 4 1 ++ leBytes 4 seq ++ leBytes 4 recLen
  let body := recBody s
  head ++ leBytes 4 (crc32c (head ++ body)) ++ body

/-- A bank is valid (R451). -/
def bankValid (s : State) (b : Nat) : Bool :=
  let base := (regBank b).1
  let used := leNat (nvmBytes s (base + 8) 4)
  leNat (nvmBytes s base 4) == 1 && used % 64 == 0 && 0x1C000 ≤ used && used ≤ 0x40000 &&
    leNat (nvmBytes s (base + 12) 4) == crc32c (nvmBytes s base 12 ++ nvmBytes s (base + 16) (used - 16))

/-- Sequence number of a bank. -/
def bankSeq (s : State) (b : Nat) : Nat := leNat (nvmBytes s ((regBank b).1 + 4) 4)

/-- The winner of the two banks (R452). -/
def recWinner (s : State) : Option Nat :=
  match bankValid s 0, bankValid s 1 with
  | true, true =>
    let d := (bankSeq s 1 + 2 ^ 32 - bankSeq s 0) % 2 ^ 32
    some (if 1 ≤ d ∧ d < 2 ^ 31 then 1 else 0)
  | true, false => some 0
  | false, true => some 1
  | false, false => none

/-- The bank a write goes to: the one that is not the winner; bank A on a device with none. -/
def losingBank (s : State) : Nat := if s.boot.recValid then 1 - s.boot.recBank else 0

/-- One write of the record (R453): erase, program with seq + 1, read back; repeated once when the read-back fails; a second failure
sets the HEALTH fault and keeps the old winner. -/
def recWrite (s : State) (ok1 ok2 : Bool) : State :=
  let b := losingBank s
  let r := regBank b
  let seq := if s.boot.recValid then (s.boot.recSeq + 1) % 2 ^ 32 else 1
  if ok1 || ok2 then
    let nvm := nvmPut (nvmErase s.boot.nvm r.1 r.2) r.1 (recBytes s seq)
    { s with boot := { s.boot with nvm := nvm, recValid := true, recBank := b, recSeq := seq, recPending := false, recAtOnce := false, recUe := false } }
  else
    healthCause { s with boot := { s.boot with nvm := nvmErase s.boot.nvm r.1 r.2 } } Reg.healthCauseRecord

/-- Note a change that the next record write carries. -/
def recMark (s : State) : State := { s with boot := { s.boot with recPending := true } }

/-- Load what a winning record holds into the registers and stores of this start (R438, R464, R484, R488). -/
def recLoad (s : State) (b : Nat) : State :=
  let base := (regBank b).1
  let next := leNat (nvmBytes s (base + 0x40) 4)
  let sv := decWords (nvmBytes s (base + 0x100) 7936)
  let hw := decWords (nvmBytes s (base + 0xC000) 0x10000)
  let g (l : List Nat) (i : Nat) : Nat := l.getD i 0
  let faults := ((List.range 1024).map (fun i => leNat (nvmBytes s (base + 0x4000 + 32 * i) 32))).filter (fun r => r != 0)
  let repairs := ((List.range 1000).map (fun i => leNat (nvmBytes s (base + 0x2000 + 8 * i) 8))).filter (fun r => r != 0)
  let nl := g hw 4
  let nx := g hw 5
  let ne := g hw 6
  let evs := (List.range ne).map (fun i =>
    let w := g hw (7 + nl + nx + 2 * i)
    ({ node := w % 2 ^ 10, proving := bitOf w 10, unit := w / 2 ^ 11, time := g hw (8 + nl + nx + 2 * i) } : Evidence))
  let rest := hw.drop (7 + nl + nx + 2 * ne)
  let fails := (List.range (rest.length / 2)).map (fun i => g rest (2 * i) + 2 ^ 64 * g rest (2 * i + 1))
  let released := g hw 2
  let quar := ofBitList ((bitList 32 (g hw 1)).filter (fun b => !bitOf released b))
  let results := (List.range ((sv.length - 5) / 2)).map (fun i => (g sv (5 + 2 * i), g sv (6 + 2 * i)))
  let s := { s with
    mem := { s.mem with persist := faults, repairs := repairs }
    boot := { s.boot with recValid := true, recBank := b, recSeq := bankSeq s b, before := results,
                          thermal := if g sv 1 = 1 then some (g sv 2, g sv 3, g sv 4) else none }
    health := { s.health with expels := (hw.drop (7 + nl)).take nx, evidence := evs, fails := fails, release := 0 } }
  let s := [(Reg.readyBootPrecBank, b), (Reg.readyNextFwSlot, next % 2), (Reg.readyNextImgSlot, next / 2 % 2),
            (Reg.secSvnFwMin, leNat (nvmBytes s (base + 0x44) 2)), (Reg.secSvnImgMin, leNat (nvmBytes s (base + 0x46) 2)),
            (Reg.secSvnL1Min, leNat (nvmBytes s (base + 0x48) 2)), (Reg.powerStatLastStop, g sv 0), (Reg.healthListVersion, g hw 0),
            (Reg.healthQuarBenches, quar)].foldl (fun s e => wr s e.1 0 e.2) s
  let s := (bitList 64 (g hw 3)).foldl (fun s e => wr s Reg.sieveEngQuarantined e 1) s
  ((hw.drop 7).take nl).foldl (fun s w => wr s Reg.healthMemberList (w % 64) (w / 64)) s

end Sys2Proof.Machine
end

