-- ==== Sys2Proof/Machine/Crusher.lean ====
section
/-! DEFINITION. Crusher collectives (R227-R253): the command and its checks, the descriptor exchange, transfers and chunks, combining,
the stage and the commit, aborts and losses. -/

namespace Sys2Proof.Machine

/-! ### The command (Tables 08.3 to 08.5) -/

/-- A CRUSHER command as its body states it. -/
structure CrCmd where
  op : Nat
  dtype : Nat
  rop : Nat
  wide : Bool
  ew : Int
  group : Nat
  root : Nat
  seq : Nat
  count : Nat
  src : Nat
  dst : Nat
  stage : Nat
  counts : Nat
  rraw : Nat
  reserved : Bool
  deriving DecidableEq, Repr

/-- Read a CRUSHER body. -/
def crushOf (c : Cmd) : CrCmd :=
  { op := c.b 0 4, dtype := c.b 4 4, rop := c.b 8 4, wide := c.b 12 1 = 1, ew := signedOf (c.b 16 10) 10, group := c.b 32 6,
    root := c.b 38 10, seq := c.b 64 32, count := c.b 96 32, src := c.b 128 48, dst := c.b 192 48, stage := c.b 256 48,
    counts := c.b 320 48, rraw := c.b 384 32,
    reserved := c.b 13 3 != 0 || c.b 26 6 != 0 || c.b 48 16 != 0 || c.b 176 16 != 0 || c.b 240 16 != 0 || c.b 304 16 != 0 ||
      c.b 368 16 != 0 || c.b 416 96 != 0 }

/-- Bytes of an element type (Table 08.5). -/
def crBytes (dtype : Nat) : Nat :=
  match dtype with
  | 0 => 4 | 1 => 8 | 2 => 4 | 3 => 2 | 4 => 2 | 8 => 16 | _ => 1

/-- Floating-point format of an element type, if it is one. -/
def crFloat (dtype : Nat) : Option FloatFmt :=
  match dtype with
  | 2 => some fFP32 | 3 => some fBF16 | 4 => some fFP16 | 5 => some fE4M3 | 6 => some fE5M2 | _ => none

/-- Format in which the Dresser's comparison order sees an element type. -/
def crFmt (dtype : Nat) : Fmt := match crFloat dtype with | some f => .flt f | none => .int (8 * crBytes dtype)

/-- An op reduces (ALL_REDUCE, REDUCE, REDUCE_SCATTER). -/
def CrCmd.reduces (x : CrCmd) : Bool := x.op == 1 || x.op == 2 || x.op == 3

/-- A V operation. -/
def CrCmd.isV (x : CrCmd) : Bool := x.op == 7 || x.op == 8

/-- MAXI or MINI: elements carry an index. -/
def CrCmd.indexed (x : CrCmd) : Bool := x.reduces && (x.rop == 3 || x.rop == 4)

/-- Elements travel as wide cells. -/
def CrCmd.cells (x : CrCmd) : Bool := x.reduces && x.wide

/-- Pairings of op, type, rop and wide that R233 refuses. -/
def CrCmd.pairBad (x : CrCmd) : Bool :=
  if x.op = 9 then x.dtype != 0 || x.rop != 0 || x.wide
  else if !x.reduces then x.dtype == 8 || 9 < x.dtype || x.rop != 0 || x.wide
  else if x.wide then x.rop != 0 || x.dtype == 1 || 8 < x.dtype
  else
    let isInt := x.dtype == 0 || x.dtype == 1 || x.dtype == 7
    7 < x.dtype || 7 < x.rop || ((x.rop == 3 || x.rop == 4) && x.dtype == 1) || (5 ≤ x.rop && !isInt)

/-- Readout word of wide mode. -/
def CrCmd.r (x : CrCmd) : Rctl := rctlOf x.rraw

/-- The checks of R235 that need no group. -/
def CrCmd.bad (x : CrCmd) : Bool :=
  x.reserved || x.op == 0 || 9 < x.op || x.pairBad || (x.root != 0 && x.op != 2 && x.op != 4) ||
  ((x.isV || x.op == 9) && x.count != 0) || (!x.isV && x.counts != 0) || (!x.wide && (x.ew != 0 || x.rraw != 0)) ||
  (x.wide && x.r.bad)

/-- Bytes of an array of elements in device DRAM (R234). -/
def arrayLen (x : CrCmd) (out : Bool) (n : Nat) : Nat :=
  if x.indexed then cdiv (n * crBytes x.dtype) 64 * 64 + 4 * n
  else if x.cells ∧ out then (if x.r.fmt = 8 then planeLen n + 16 * n else n * outBytes x.r.fmt)
  else if x.dtype = 8 then planeLen n + 16 * n
  else n * crBytes x.dtype

/-- Input elements of rank r among n. -/
def CrCmd.inCount (x : CrCmd) (n r : Nat) (send recv : List Nat) : Nat :=
  match x.op with
  | 3 => n * x.count
  | 4 => if r = x.root then x.count else 0
  | 6 => n * x.count
  | 7 => recv.getD r 0
  | 8 => send.sum
  | 9 => 0
  | _ => x.count

/-- Output elements of rank r among n. -/
def CrCmd.outCount (x : CrCmd) (n r : Nat) (recv : List Nat) : Nat :=
  match x.op with
  | 2 => if r = x.root then x.count else 0
  | 5 => n * x.count
  | 6 => n * x.count
  | 7 => recv.sum
  | 8 => recv.sum
  | 9 => 0
  | _ => x.count

/-- The op writes output on rank r. -/
def CrCmd.writesOut (x : CrCmd) (r : Nat) : Bool := x.op != 9 && (x.op != 2 || r == x.root)

/-- The op reads input on rank r. -/
def CrCmd.readsIn (x : CrCmd) (r : Nat) : Bool := x.op != 9 && (x.op != 4 || r == x.root)

/-! ### Groups (R228-R230) -/

/-- Physical address of a group entry. -/
def crGroupPa (s : State) (f g : Nat) : Nat := rd s Reg.crusherGrpBase f % 2 ^ 39 / 32 * 32 + 32 * g

/-- A group's entry, its members in rank order and this device's rank (R228-R230). One that fails gives PERMISSION, with the other members
that are known all the same: of a function map with a bad entry, those whose entries are good. -/
def crGroup (s : State) (f g : Nat) : Except (List (Nat × Nat)) (Nat × List (Nat × Nat) × Nat) :=
  let pa := crGroupPa s f g
  if rd s Reg.crusherGrpGroupCount f ≤ g ∨ lotOwnerOf s (lotOf pa) ≠ 0x3FD then .error []
  else
    let e := memNat s pa 32
    let map := bitsOf e 64 64
    let fnMap := bitOf e 4
    if bitOf e 0 = false ∨ bitsOf e 5 3 ≠ 0 ∨ bitsOf e 28 36 ≠ 0 ∨ bitsOf e 128 128 ≠ 0 ∨ bitsOf e 1 3 = 0 ∨ (fnMap = false ∧ map ≠ 0) ∨
        map % 2 = 1 ∨ 2 ^ 39 ≤ map then .error []
    else
      let ax (bit lo hi max own : Nat) : List Nat :=
        if bitOf e bit then (List.range (max + 1)).filter (fun v => lo ≤ v && v ≤ hi) else [own]
      let doms := ax 3 (bitsOf e 20 4) (bitsOf e 24 4) (rd s Reg.jeanoCfgDomainsM1 0) (rd s Reg.jeanoNodeDomain 0)
      let rows := ax 2 (bitsOf e 8 3) (bitsOf e 11 3) (rd s Reg.jeanoNodeRowsM1 0) (rd s Reg.jeanoNodeRow 0)
      let cols := ax 1 (bitsOf e 14 3) (bitsOf e 17 3) (rd s Reg.jeanoNodeColsM1 0) (rd s Reg.jeanoNodeCol 0)
      let nodes := doms.flatMap (fun d => rows.flatMap (fun r => cols.map (fun c => 64 * d + 8 * r + c)))
      if !nodes.contains (ownNode s) ∨
          (fnMap = true ∧ (lotOwnerOf s (lotOf map) ≠ 0x3FD ∨ lotOwnerOf s (lotOf (map + 2 * nodes.length - 1)) ≠ 0x3FD)) then .error []
      else
        let members := nodes.zip (nodes.zipIdx.map (fun n => if fnMap then bitsOf (memNat s (map + 2 * n.2) 2) 0 10 else f))
        if members.any (fun d => 513 ≤ d.2) then .error (members.filter (fun d => d.2 < 513 && d.1 != ownNode s))
        else .ok (e, members, nodes.idxOf (ownNode s))

/-- A group as the device reads it; an entry that cannot be read counts as not valid (R163; DESIGN CHOICE: Table 06.4 has no row for it). -/
def crGroupRead (s : State) (f g : Nat) : State × Except (List (Nat × Nat)) (Nat × List (Nat × Nat) × Nat) :=
  match senseRuns s 5 0 (if rd s Reg.crusherGrpGroupCount f ≤ g then [] else [(crGroupPa s f g, 32)]) with
  | (s, some _) => (s, .error [])
  | (s, none) => (s, crGroup s f g)

/-- The descriptor hash (R237): the body with addresses zeroed and count zeroed for V operations, the group entry with map_base zeroed,
and the plumb bit. -/
def crHash (s : State) (c : Cmd) (x : CrCmd) (entry : Nat) : Nat :=
  let body := bitsSet (bitsSet (bitsSet (bitsSet (c.b 0 512) 128 48 0) 192 48 0) 256 48 0) 320 48 0
  let body := if x.isV then bitsSet body 96 32 0 else body
  crc64 (leBytes 64 body ++ leBytes 32 (bitsSet entry 64 64 0) ++ leBytes 1 (rd s Reg.plumbPlumb 0))

/-! ### Elements -/

/-- A wide cell as an element, and back. -/
def cellCode (c : Cell) : Nat := c.a.toNat + c.flags * 2 ^ 128
def codeCell (v : Nat) : Cell :=
  { a := BitVec.ofNat 128 v, ovf := bitOf v 128, trunc := bitOf v 129, nan := bitOf v 130, inf := bitOf v 131 }

/-- The nibbles of a flag plane. -/
def flagPlane (n : Nat) (els : List Nat) : List Byte :=
  (List.range n).map (fun i => BitVec.ofNat 8 (bitsOf (els.getD (2 * i) 0) 128 4 + 16 * bitsOf (els.getD (2 * i + 1) 0) 128 4))

/-- Read `n` input elements from the bytes of an array; in wide mode they enter the window (R246). -/
def readElems (x : CrCmd) (bs : List Byte) (n : Nat) : List Nat :=
  let b := crBytes x.dtype
  (List.range n).map fun i =>
    let v := leNat ((bs.drop ((if x.dtype = 8 then planeLen n else 0) + b * i)).take b)
    if x.indexed then v + leNat ((bs.drop (cdiv (n * b) 64 * 64 + 4 * i)).take 4) * 2 ^ 64
    else if x.dtype = 8 then v + bitsOf (bs.getD (i / 2) 0).toNat (4 * (i % 2)) 4 * 2 ^ 128
    else if x.cells then cellCode (Cell.zero.cycle [contrib x.ew ((crFmt x.dtype).decode v)])
    else v

/-- The pieces of an output array: offset and bytes (R234, R246). -/
def outPieces (x : CrCmd) (els : List Nat) : List (Nat × List Byte) :=
  let n := els.length
  let b := crBytes x.dtype
  if n = 0 then []
  else if x.indexed then
    [(0, els.flatMap (leBytes b)), (cdiv (n * b) 64 * 64, els.flatMap (fun v => leBytes 4 (v / 2 ^ 64)))]
  else if x.cells then
    if x.r.fmt = 8 then [(0, flagPlane (planeLen n) els ++ els.flatMap (leBytes 16))]
    else [(0, els.flatMap (fun v => (codeCell v).outBytes false x.ew x.r))]
  else [(0, els.flatMap (leBytes b))]

/-- Elements of a chunk (R242). -/
def chunkElems (x : CrCmd) : Nat :=
  if x.cells then 3840 else if x.indexed then 65536 / (crBytes x.dtype + 4) / 64 * 64 else 65536 / crBytes x.dtype

/-- Payload bytes of a chunk. -/
def chunkBytes (x : CrCmd) (els : List Nat) : List Byte :=
  if x.cells then els.flatMap (leBytes 16) ++ flagPlane (cdiv els.length 2) els
  else if x.indexed then els.flatMap (leBytes (crBytes x.dtype)) ++ els.flatMap (fun v => leBytes 4 (v / 2 ^ 64))
  else els.flatMap (leBytes (crBytes x.dtype))

/-- The elements of a verified chunk. -/
def chunkRead (x : CrCmd) (bs : List Byte) (n : Nat) : List Nat :=
  let b := crBytes x.dtype
  (List.range n).map fun i =>
    if x.cells then leNat ((bs.drop (16 * i)).take 16) + bitsOf (bs.getD (16 * n + i / 2) 0).toNat (4 * (i % 2)) 4 * 2 ^ 128
    else if x.indexed then leNat ((bs.drop (b * i)).take b) + leNat ((bs.drop (b * n + 4 * i)).take 4) * 2 ^ 64
    else leNat ((bs.drop (b * i)).take b)

/-- One narrow or wide combine of two elements (R244, R246). -/
def crCombine (x : CrCmd) (a b : Nat) : Nat :=
  if x.cells then cellCode (wideCombine false (codeCell a) (codeCell b))
  else
    let w := 8 * crBytes x.dtype
    if x.indexed then
      let p : Nat × Nat := (a % 2 ^ 64, a / 2 ^ 64)
      let q : Nat × Nat := (b % 2 ^ 64, b / 2 ^ 64)
      let r := if betterIdx (x.rop == 3) (crFmt x.dtype) p q then q else p
      r.1 + r.2 * 2 ^ 64
    else match crFloat x.dtype with
      | some f =>
        let isNan (v : Nat) : Bool := match f.decode v with | .nan => true | _ => false
        if isNan a || isNan b then f.nanCode
        else if x.rop = 0 then f.encode ((f.decode a).add (f.decode b)) false
        else
          let key (c : Nat) : Int := if c < 2 ^ (f.eb + f.mb) then c else (2 ^ (f.eb + f.mb) : Int) - c - 1
          if (if x.rop = 1 then key a < key b else key b < key a) then b else a
      | none =>
        match x.rop with
        | 0 => (a + b) % 2 ^ w
        | 1 => if signedOf a w < signedOf b w then b else a
        | 2 => if signedOf b w < signedOf a w then b else a
        | 5 => a &&& b
        | 6 => a ||| b
        | _ => a ^^^ b

/-- The plumb-mode tree over contributions in rank order (R245): the left half is the largest power of two below the size. -/
def crTree (x : CrCmd) (fuel : Nat) (l : List Nat) : Nat :=
  match fuel with
  | 0 => l.headD 0
  | k + 1 =>
    match l with
    | [] => 0
    | [v] => v
    | _ =>
      let p := 2 ^ Nat.log2 (l.length - 1)
      crCombine x (crTree x k (l.take p)) (crTree x k (l.drop p))

/-! ### Transfers -/

/-- Share of rank i in a vector of `count` elements: first and one past last. -/
def shareOf (count n i : Nat) : Nat × Nat :=
  let a := cdiv count n
  (Nat.min count (i * a), Nat.min count ((i + 1) * a))

/-- Elements that rank i sends rank j in a stage: 0 contributions to j's share, 1 finished data. -/
def sendCount (x : CrCmd) (n i j stage : Nat) (send recv : List Nat) (me : Nat) : Nat :=
  match x.op, stage with
  | 1, 0 => let r := shareOf x.count n j
            r.2 - r.1
  | 1, _ => let r := shareOf x.count n i
            r.2 - r.1
  | 2, 0 => if j = x.root then x.count else 0
  | 3, 0 => x.count
  | 4, 1 => if i = x.root then x.count else 0
  | 5, 1 => x.count
  | 6, 1 => x.count
  | 7, 1 => recv.getD i 0
  | 8, 1 => if i = me then send.getD j 0 else recv.getD i 0
  | _, _ => 0

/-- The slice of this member's input that goes to rank j in a stage. -/
def inputFor (x : CrCmd) (k : Coll) (els : List Nat) (j stage : Nat) : List Nat :=
  let n := k.members.length
  match x.op, stage with
  | 1, 0 => let r := shareOf x.count n j
            (els.drop r.1).take (r.2 - r.1)
  | 2, 0 => if j = x.root then els else []
  | 3, 0 => (els.drop (j * x.count)).take x.count
  | 4, 1 => if k.rank = x.root then els else []
  | 5, 1 => els
  | 6, 1 => (els.drop (j * x.count)).take x.count
  | 7, 1 => els
  | 8, 1 => (els.drop ((k.sendCounts.take j).sum)).take (k.sendCounts.getD j 0)
  | _, _ => []

/-- Verified elements from a rank in a stage. -/
def Coll.from_ (k : Coll) (stage i : Nat) : SMap Nat := mapGet k.got (stage * 1024 + i) []

/-- Everything expected from every rank in a stage has been verified. -/
def Coll.full (k : Coll) (x : CrCmd) (stage : Nat) : Bool :=
  (List.range k.members.length).all (fun i =>
    (k.from_ stage i).length == sendCount x k.members.length i k.rank stage k.sendCounts k.recvCounts k.rank)

/-- The reduced elements of this member's share (R244-R246): in plumb mode an FP SUM follows the tree, else contributions are taken in
the order they were verified, this member's own first. -/
def Coll.reduced (k : Coll) (x : CrCmd) (plumb : Bool) : List Nat :=
  let n := k.members.length
  let len := sendCount x n k.rank k.rank 0 k.sendCounts k.recvCounts k.rank
  (List.range len).map fun e =>
    let ranks := if plumb then List.range n
      else k.rank :: ((k.order.filter (fun o => o % 2 ^ 20 == e / chunkElems x && o / 2 ^ 20 < 1024)).map (· / 2 ^ 20))
    let vals := ranks.map (fun i => mapGet (k.from_ 0 i) e 0)
    if plumb then crTree x n vals else match vals with
      | [] => 0
      | v :: t => t.foldl (crCombine x) v

/-- The output elements of this member, when they are all there. -/
def Coll.outElems (k : Coll) (x : CrCmd) (plumb : Bool) : Option (List Nat) :=
  let n := k.members.length
  let all (stage : Nat) : List Nat := (List.range n).flatMap (fun i => (k.from_ stage i).map (·.2))
  match x.op with
  | 1 => if k.full x 1 then some (all 1) else none
  | 2 => if k.rank ≠ x.root then some [] else if k.full x 0 then some (k.reduced x plumb) else none
  | 3 => if k.full x 0 then some (k.reduced x plumb) else none
  | 9 => some []
  | _ => if k.full x 1 then some (all 1) else none

/-! ### Sending -/

/-- A collective in flight. -/
def getColl (s : State) (cid : Nat) : Option Coll := mapFind s.crush.colls cid
def putColl (s : State) (cid : Nat) (k : Coll) : State :=
  { s with crush := { s.crush with colls := mapSet s.crush.colls cid k } }

/-- Show the CRUSHER_STATE register and a function's collectives. -/
def showCrush (s : State) (f : Nat) : State :=
  let retain := (s.crush.colls.map (fun e => (e.2.retain.map (fun r => r.2.length)).sum)).sum
  let s := wr s Reg.crusherStateActive 0 s.crush.colls.length
  let s := wr s Reg.crusherStateEarly 0 s.crush.early.length
  showFn (wr s Reg.crusherStateRetainMib 0 (retain / 2 ^ 20)) f

/-- Code of a phase. -/
def phaseCode : CollPhase → Nat
  | .desc => 0 | .count => 1 | .verdict => 2 | .data => 3 | .ackVerified => 4 | .refetch => 5 | .abort => 6

/-- A COLL message with nothing but its collective's name. -/
def collBlank (s : State) (k : Coll) : CollMsg :=
  { msg := { Msg.blank with kind := .coll, cls := fabClass k.fn, srcNode := ownNode s, srcFn := k.fn }, seq := k.seq, group := k.group,
    status := .ok, chunk := 0, offset := 0, check := 0, last := false, stage := 0, agree := false, hash := 0, tFirst := 0, tLast := 0,
    lateRank := 0, count := 0 }

/-- Send a COLL message of a phase to a rank: its data is the prefix of Table 08.6 and the payload. -/
def sendColl (s : State) (cid : Nat) (k : Coll) (rk : Nat) (phase : CollPhase) (m : CollMsg) (payload : List Byte) : State :=
  match k.members[rk]? with
  | none => s
  | some d =>
    let prefix_ := m.seq % 2 ^ 32 + m.group % 64 * 2 ^ 32 + phaseCode phase * 2 ^ 38 + m.status.code * 2 ^ 42 + m.chunk % 2 ^ 32 * 2 ^ 64 +
      m.offset % 2 ^ 32 * 2 ^ 96 + m.check % 2 ^ 64 * 2 ^ 128
    let data := leBytes 24 prefix_ ++ payload
    let msg := { m.msg with dstNode := d.1, dstFn := d.2, data := data, len := data.length }
    enqueue s msg cid 0 m.offset [] (some { m with msg := msg }) false none

/-- Send one chunk: messages of at most 4,072 payload bytes, the last with the chunk's check (R242). -/
def sendChunk (s : State) (cid : Nat) (k : Coll) (rk stage chunk : Nat) (payload : List Byte) : State :=
  let n := Nat.max 1 (cdiv payload.length 4072)
  let check := crc64 payload
  (List.range n).foldl (fun s i =>
    let last := i + 1 = n
    let m := { collBlank s k with chunk := chunk, offset := 4072 * i, stage := stage, last := last, check := if last then check else 0 }
    sendColl s cid k rk .data m ((payload.drop (4072 * i)).take 4072)) s

/-- Key of a chunk: stage, rank and chunk index. -/
def chunkKey (stage rank chunk : Nat) : Nat := (stage * 1024 + rank) * 2 ^ 20 + chunk

/-- Bytes in the retain store. -/
def retained (s : State) : Nat := (s.crush.colls.map (fun e => (e.2.retain.map (fun r => r.2.length)).sum)).sum

/-- Send chunks of a collective while the 64 MiB retain store has room for them (R227, R243). -/
def pumpColl (fuel : Nat) (s : State) (cid : Nat) : State :=
  match fuel with
  | 0 => s
  | n + 1 =>
    match getColl s cid with
    | none => s
    | some k =>
      match k.toSend with
      | [] => s
      | (key, payload) :: t =>
        if 2 ^ 26 < retained s + payload.length then s
        else
          let s := putColl s cid { k with toSend := t, retain := mapSet k.retain key payload }
          pumpColl n (sendChunk s cid k (key / 2 ^ 20 % 1024) (key / 2 ^ 30) (key % 2 ^ 20) payload) cid

/-- Queue a transfer to a rank as its chunks, each with its key and payload (R242). -/
def queueTransfer (x : CrCmd) (k : Coll) (rk stage : Nat) (els : List Nat) : Coll :=
  let ce := chunkElems x
  { k with toSend := k.toSend ++ (List.range (cdiv els.length ce)).map (fun c =>
      (chunkKey stage rk c, chunkBytes x ((els.drop (c * ce)).take ce))) }

/-- Send what the retain store has room for, collective by collective. -/
def pumpAll (s : State) : State :=
  s.crush.colls.foldl (fun s e => pumpColl ((getColl s e.1).elim 0 (fun k => k.toSend.length)) s e.1) s

/-! ### Ending a collective -/

/-- A collective ends on this member: its command completes, and its ranges and messages go. -/
def endColl (s : State) (cid : Nat) (k : Coll) (c : Cmd) (st : Status) (fault : Nat) : State :=
  let s := { s with crush := { s.crush with colls := mapErase s.crush.colls cid, past := mapSet s.crush.past (64 * k.fn + k.group) k.seq } }
  showCrush (finish s cid c st fault) k.fn

/-- Status an abort carries for a failure (R248): RESET_SQUASHED travels as COLL_MEMBER_LOST. -/
def abortStatus (st : Status) : Status := if st = .resetSquashed then .collMemberLost else st

/-- A failure that sends an abort (R248). -/
def abortsOn (st : Status) : Bool :=
  st == .collMemberLost || st == .collChunkBad || st == .fabricTimeout || st == .translationFault || st == .permission ||
    st == .resetSquashed

/-- Send an abort to every other member. -/
def sendAborts (s : State) (cid : Nat) (k : Coll) (st : Status) : State :=
  let others := (List.range k.members.length).filter (· != k.rank)
  let s := others.foldl (fun s i => sendColl s cid k i .abort { collBlank s k with status := abortStatus st } []) s
  bump s Reg.crusherAbortsCount 0 others.length

/-- A member fails before its point of no return. -/
def failColl (s : State) (cid : Nat) (st : Status) (fault : Nat) : State :=
  match getColl s cid, getCmd s cid with
  | some k, some c =>
    if c.st = .committing then s
    else
      let s := if abortsOn st then sendAborts s cid k st else s
      endColl s cid k c st fault
  | _, _ => s

/-! ### The verdict -/

/-- Add to a member's straggler score (R480) and judge whether it is a suspect. -/
def scoreLate (s : State) (n : Nat) : State :=
  let v := Nat.min 65535 (rd s Reg.healthMemberScore n + 16)
  let s := wr s Reg.healthMemberScore n v
  if rd s Reg.healthScoreCfgSuspectOn 0 ≤ v then wr s Reg.healthMemberSuspect n 1 else s

/-- The arrival figures of a verdict enter CRUSHER_LATE and the scores (R252, R480). -/
def takeFigures (s : State) (k : Coll) (r : Report) : State :=
  let f := k.fn
  let spread := r.tLast - r.tFirst
  let s := bump s Reg.crusherLateJoins f 1
  let s := if r.lateRank = k.rank then
      { bump s Reg.crusherLateLastCount f 1 with crush :=
        { s.crush with late := (f, k.group, k.seq, k.rank, spread) :: s.crush.late } } else s
  let s := bump s Reg.crusherLateLagSumNs f (k.joinNs - r.tFirst)
  let s := raiseTo s Reg.crusherLateMaxSpreadNs f spread
  match k.members[r.lateRank]? with
  | some d => if sameDomain s d.1 && rd s Reg.healthScoreCfgLagMinUs 0 * 1000 ≤ spread then scoreLate s (d.1 % 64) else s
  | none => s

/-- The runs of a stage that an output piece fills: offset and length. -/
def stagePart (stg : List (Nat × Nat)) (off n : Nat) : List (Nat × Nat) :=
  (stg.foldl (fun (acc : Nat × List (Nat × Nat)) r =>
    let lo := Nat.max off acc.1
    let hi := Nat.min (off + n) (acc.1 + r.2)
    (acc.1 + r.2, if lo < hi then acc.2 ++ [(r.1 + (lo - acc.1), hi - lo)] else acc.2)) (0, [])).2

/-- The FP SUM of a narrow op follows the tree of R245. -/
def treeSum (s : State) (x : CrCmd) : Bool := rdB s Reg.plumbPlumb 0 && (crFloat x.dtype).isSome && x.rop == 0 && !x.wide

/-- Read the input once the verdict is AGREE (R238) and the function's bucket has paid for it (R168), and queue its chunks. -/
def readInput (s : State) (cid : Nat) (k : Coll) (c : Cmd) : State :=
  match payDram s c (runCost (k.cnt ++ k.src) false) with
  | (s, c, false) => putCmd s cid c
  | (s, c, true) =>
    let x := crushOf c
    let c := { c with kills := if transientIn s k.src then Nat.min 255 (c.kills + 1) else c.kills }
    match readRuns (putCmd s cid c) 0 c.tag k.src with
    | (s, .error l) => failColl s cid .memUe (x.src + byteInLine k.src l)
    | (s, .ok bs) =>
      let n := k.members.length
      let els := readElems x bs (x.inCount n k.rank k.sendCounts k.recvCounts)
      let own (stage : Nat) : SMap Nat := (inputFor x k els k.rank stage).zipIdx.map (fun e => (e.2, e.1))
      let k := { k with inRead := true, got := mapSet (mapSet k.got k.rank (own 0)) (1024 + k.rank) (own 1) }
      let others := (List.range n).filter (· != k.rank)
      putColl s cid (others.foldl (fun k i => [0, 1].foldl (fun k stage => queueTransfer x k i stage (inputFor x k els i stage)) k) k)

/-- Send the reduced share of an ALL_REDUCE on, once it is whole. -/
def shareResult (s : State) (cid : Nat) (k : Coll) (x : CrCmd) : State :=
  if x.op = 1 ∧ k.inRead = true ∧ k.sentResult = false ∧ k.full x 0 = true then
    let els := k.reduced x (treeSum s x)
    let k := { k with sentResult := true, got := mapSet k.got (1024 + k.rank) (els.zipIdx.map (fun e => (e.2, e.1))) }
    putColl s cid (((List.range k.members.length).filter (· != k.rank)).foldl (fun k i => queueTransfer x k i 1 els) k)
  else s

/-- Write the stage when every output element is known and the bucket has paid for it (R168, R247). A line that is written in part and cannot be
read ends the command with MEM_UE (R163). -/
def writeStage (s : State) (cid : Nat) (k : Coll) (c : Cmd) : State :=
  let x := crushOf c
  match k.outElems x (treeSum s x) with
  | none => s
  | some els =>
    match payDram s c (runCost (k.cnt ++ k.src) false + runCost k.stg true) with
    | (s, c, false) => putCmd s cid c
    | (s, c, true) =>
      let pieces_ := outPieces x els
      let w := pieces_.foldl (fun (acc : State × Option Nat) p =>
        match acc.2 with
        | some l => (acc.1, some l)
        | none => writeRuns acc.1 0 c.tag (stagePart k.stg p.1 p.2.length) p.2) (s, none)
      let s := w.1
      let flags := if x.cells then (els.map (fun v => v / 2 ^ 128)).foldl orFlags 0 else 0
      let out := x.writesOut k.rank && els != []
      let c := { c with accFlags := flags, hasOut := out, assay := if out then crc64 (pieces_.flatMap (·.2)) else 0,
                        status := if bitOf flags 0 then .accOverflow else .ok }
      match w.2 with
      | some l => failColl (putCmd s cid c) cid .memUe (x.stage + byteInLine k.stg l)
      | none => putColl (putCmd s cid c) cid { k with staged := true }

/-- Take a collective as far as it can go: its input, its chunks, the share it has reduced, and its stage. -/
def advanceColl (s : State) (cid : Nat) : State :=
  let onColl (act : State → Coll → Cmd → State) (s : State) : State :=
    match getColl s cid, getCmd s cid with
    | some k, some c => if k.verdict = some true ∧ c.st = .dispatched then act s k c else s
    | _, _ => s
  let s := onColl (fun s k c => if k.inRead then s else readInput s cid k c) s
  let s := onColl (fun s k c => shareResult s cid k (crushOf c)) s
  let s := onColl (fun s k c => if k.staged || !k.inRead then s else writeStage s cid k c) s
  let s := onColl (fun s k _ => pumpColl k.toSend.length s cid) s
  match getColl s cid with
  | some k => showCrush s k.fn
  | none => s

/-- Act on a verdict (R238): MISMATCH ends the collective; AGREE lets its chunks move. -/
def actVerdict (s : State) (cid : Nat) (agree : Bool) (r : Report) : State :=
  match getColl s cid, getCmd s cid with
  | some k, some c =>
    let s := takeFigures s k r
    let kids := (List.range 8).map (fun i => 8 * k.rank + 1 + i) |>.filter (· < k.members.length)
    let s := kids.foldl (fun s i => sendColl s cid k i .verdict { collBlank s k with
      agree := agree, hash := k.hash, tFirst := r.tFirst, tLast := r.tLast, lateRank := r.lateRank } []) s
    if !agree then endColl (bump s Reg.crusherMismatchCount 0 1) cid k c .collMismatch 0
    else advanceColl (putColl s cid { k with verdict := some true, verdictNs := now s }) cid
  | _, _ => s

/-- Join two reports: AGREE only on one hash, and the arrival figures with the lowest rank winning a tie (R252). -/
def joinReports (a b : Report) : Report :=
  { agree := a.agree && b.agree && a.hash == b.hash, hash := a.hash, tFirst := Nat.min a.tFirst b.tFirst, tLast := Nat.max a.tLast b.tLast,
    lateRank := if a.tLast < b.tLast then b.lateRank else if b.tLast < a.tLast then a.lateRank else Nat.min a.lateRank b.lateRank }

/-- Report to the parent once every count and every child's report has arrived; rank 0 gives the verdict (R238, R239). -/
def tryReport (s : State) (cid : Nat) : State :=
  match getColl s cid, getCmd s cid with
  | some k, some c =>
    let x := crushOf c
    let n := k.members.length
    let others := (List.range n).filter (· != k.rank)
    let kids := (List.range 8).map (fun i => 8 * k.rank + 1 + i) |>.filter (· < n)
    if k.reported || (x.isV && others.any (fun i => (mapFind k.counts i).isNone)) || kids.any (fun i => (mapFind k.reports i).isNone) then s
    else
      let countsOk := !x.isV || (others.all (fun i => mapGet k.counts i 0 == k.recvCounts.getD i 0) &&
        (x.op != 8 || k.sendCounts.getD k.rank 0 == k.recvCounts.getD k.rank 0))
      let own : Report := { agree := countsOk, hash := k.hash, tFirst := k.joinNs, tLast := k.joinNs, lateRank := k.rank }
      let r := kids.foldl (fun r i => joinReports r (mapGet k.reports i own)) own
      let s := putColl s cid { k with reported := true }
      if k.rank = 0 then actVerdict s cid r.agree r
      else sendColl s cid k ((k.rank - 1) / 8) .desc { collBlank s k with
        agree := r.agree, hash := k.hash, tFirst := r.tFirst, tLast := r.tLast, lateRank := r.lateRank } []
  | _, _ => s

/-! ### Messages of a collective -/

/-- Rank of a message's sender in a collective. -/
def Coll.rankOf (k : Coll) (m : CollMsg) : Option Nat :=
  if k.members.contains (m.msg.srcNode, m.msg.srcFn) then some (k.members.idxOf (m.msg.srcNode, m.msg.srcFn)) else none

/-- The collective a message belongs to on this member. -/
def collFor (s : State) (m : CollMsg) : Option (Nat × Coll) :=
  s.crush.colls.find? (fun e => e.2.fn == m.msg.dstFn && e.2.group == m.group && e.2.seq == m.seq)

/-- Every byte of a chunk is here. -/
def chunkDone (p : SMap Byte) (total : Nat) : Bool := (List.range total).all (fun i => (mapFind p i).isSome)

/-- Judge a whole chunk (R243): one that passes its check is acknowledged and used, one that fails is refetched up to three times. -/
def judgeChunk (s : State) (cid : Nat) (k : Coll) (c : Cmd) (i stage chunk check : Nat) (bytes : List Byte) : State :=
  let x := crushOf c
  let key := chunkKey stage i chunk
  let k := { k with partial_ := mapErase k.partial_ key, ends := mapErase k.ends key }
  let ce := chunkElems x
  let want := Nat.min ce (sendCount x k.members.length i k.rank stage k.sendCounts k.recvCounts k.rank - chunk * ce)
  let answer := { collBlank s k with chunk := chunk, stage := stage }
  if crc64 bytes = check ∧ bytes.length = (chunkBytes x (List.replicate want 0)).length then
    let slot := stage * 1024 + i
    let got := (chunkRead x bytes want).zipIdx.foldl (fun g e => mapSet g (chunk * ce + e.2) e.1) (mapGet k.got slot [])
    let s := putColl s cid { k with got := mapSet k.got slot got, order := k.order ++ (if stage = 0 then [i * 2 ^ 20 + chunk] else []) }
    advanceColl (sendColl s cid k i .ackVerified answer []) cid
  else
    let s := bump s Reg.crusherCheckFailCount 0 1
    let n := mapGet k.fails key 0 + 1
    let s := putColl s cid { k with fails := mapSet k.fails key n }
    if 3 < n then failColl s cid .collChunkBad 0 else sendColl s cid k i .refetch answer []

/-- A DATA message (R243): its bytes join the chunk, which is judged when all of it is here, in whatever order it came. -/
def takeData (s : State) (cid : Nat) (k : Coll) (c : Cmd) (m : CollMsg) (i : Nat) : State :=
  let key := chunkKey m.stage i m.chunk
  let payload := m.msg.data.drop 24
  let p := payload.zipIdx.foldl (fun p b => mapSet p (m.offset + b.2) b.1) (mapGet k.partial_ key [])
  let ends := if m.last then mapSet k.ends key (m.offset + payload.length, m.check) else k.ends
  match mapFind ends key with
  | some (total, check) =>
    if chunkDone p total then judgeChunk s cid k c i m.stage m.chunk check ((List.range total).map (fun j => mapGet p j 0))
    else putColl s cid { k with partial_ := mapSet k.partial_ key p, ends := ends }
  | none => putColl s cid { k with partial_ := mapSet k.partial_ key p }

/-- Act on a COLL message for a collective in flight. Data may come before a member has its own verdict: it is kept, and used after it
(R238). -/
def actColl (s : State) (cid : Nat) (k : Coll) (c : Cmd) (phase : CollPhase) (m : CollMsg) : State :=
  match k.rankOf m with
  | none => s
  | some i =>
    let k := { k with lastNs := mapSet k.lastNs i (now s) }
    let s := putColl s cid k
    match phase with
    | .desc =>
      let r : Report := { agree := m.agree, hash := m.hash, tFirst := m.tFirst, tLast := m.tLast, lateRank := m.lateRank }
      tryReport (putColl s cid { k with reports := mapSet k.reports i r }) cid
    | .count => tryReport (putColl s cid { k with counts := mapSet k.counts i m.count }) cid
    | .verdict =>
      if k.verdict.isSome then s
      else actVerdict s cid m.agree { agree := m.agree, hash := m.hash, tFirst := m.tFirst, tLast := m.tLast, lateRank := m.lateRank }
    | .data => if c.st = .committing then s else takeData s cid k c m i
    | .ackVerified => showCrush (pumpAll (putColl s cid { k with retain := mapErase k.retain (chunkKey m.stage i m.chunk) })) k.fn
    | .refetch =>
      (match mapFind k.retain (chunkKey m.stage i m.chunk) with
        | none => s
        | some p => sendChunk (bump s Reg.crusherRefetchCount 0 1) cid k i m.stage m.chunk p)
    | .abort =>
      if c.st = .committing then s
      else endColl s cid k c (if m.status = .translationFault ∨ m.status = .permission then .collMemberLost else m.status) 0

/-- A COLL message is for a collective that has ended on this member. -/
def collPast (s : State) (m : CollMsg) : Bool := mapFind s.crush.past (64 * m.msg.dstFn + m.group) == some m.seq

/-- Apply a COLL message: to its collective, or into the early store for a descriptor, count or abort of one not yet issued; the reply
is BUSY when the store is full (R240). -/
def applyColl (s : State) (phase : CollPhase) (m : CollMsg) : State × Reply :=
  if !jobOk s m.msg then (s, .nak 5 0)
  else
  let s := if phase = .abort ∧ ((collFor s m).isSome || collPast s m || decide (s.crush.early.length < 4096)) then bump s Reg.crusherAbortsCount 0 1 else s
  match collFor s m with
    | some (cid, k) => (match getCmd s cid with | some c => actColl s cid k c phase m | none => s, .ack)
    | none =>
      if phase = .desc ∨ phase = .count ∨ phase = .abort then
        if collPast s m then (s, .ack)
        else if 4096 ≤ s.crush.early.length then (s, .nak 1 0)
        else
          let early := { m with stage := phaseCode phase }
          (showCrush { s with crush := { s.crush with early := s.crush.early ++ [early] } } m.msg.dstFn, .ack)
      else (s, .ack)

/-- Members lost to their collectives by messages that settled with a failure (R249). -/
def sweepLost (s : State) : State :=
  let lost := s.crush.lost
  lost.foldl (fun s e =>
    match s.crush.colls.find? (fun k => k.2.fn == e.1.msg.srcFn && k.2.group == e.1.group && k.2.seq == e.1.seq) with
    | none => s
    | some (cid, _) => failColl s cid (if e.2 = .targetDead then .collMemberLost else e.2) 0)
    { s with crush := { s.crush with lost := [] } }

/-- A COLL message arrives (R241): the rules of every request hold for it, but a frozen VF still takes messages of the collectives it
has issued (R412). -/
def onColl (s : State) (phase : CollPhase) (m : CollMsg) : State :=
  let w := { m.msg with kind := .coll }
  arriving s w (fun s =>
    if w.dstNode ≠ ownNode s then forwardMsg s w (some m)
    else
      let a := admitMsg s w
      let s := a.1
      if !a.2 then sweepLost s
      else if w.dstFn ≠ 0 ∧ (vfState s w.dstFn = 5 ∨ vfState s w.dstFn = 6) ∧ (collFor s m).isNone = true then sendReply s w (.nak 1 0)
      else if isApplied s (winKey w) w.seq then sendReply s w .ack
      else
        let r := applyColl s phase { m with msg := w }
        let s := settleAt r.1 w r.2
        sweepLost (sendReply s w r.2))

/-- A member is lost to the collectives of PF0 (R218, R249): they have no dead bound, and what they await from it will not come. -/
def loseMember (s : State) (node : Nat) : State :=
  (s.crush.colls.filter (fun e => e.2.fn == 0 && e.2.members.any (fun d => d.1 == node))).foldl (fun s e => failColl s e.1 .collMemberLost 0) s

/-! ### Issue (R231-R240) -/

/-- The stage overlaps what it may not, or input and output do (R235), for ranges of given lengths. -/
def CrCmd.overlapBad (x : CrCmd) (inLen outLen cntLen : Nat) : Bool :=
  let inR := (x.src, inLen)
  let outR := (x.dst, outLen)
  let stgR := (x.stage, outLen)
  2 ^ 24 < outLen || rangesMeet stgR inR || rangesMeet stgR outR || rangesMeet stgR (x.counts, cntLen) ||
    (rangesMeet inR outR && !(x.reduces && x.src == x.dst))

/-- Bytes of the count arrays among n members. -/
def CrCmd.countBytes (x : CrCmd) (n : Nat) : Nat := if x.op = 8 then 8 * n else if x.op = 7 then 4 * n else 0

/-- Bytes of this member's input and output. -/
def CrCmd.inLen (x : CrCmd) (n rank : Nat) (send recv : List Nat) : Nat :=
  if x.readsIn rank then arrayLen x false (x.inCount n rank send recv) else 0
def CrCmd.outLen (x : CrCmd) (n rank : Nat) (recv : List Nat) : Nat := if x.writesOut rank then arrayLen x true (x.outCount n rank recv) else 0

/-- The checks of R235 that need the group; with no counts known yet, those that need none. -/
def CrCmd.shapeBad (x : CrCmd) (n rank : Nat) (send recv : List Nat) : Bool :=
  n ≤ x.root || (x.writesOut rank == (x.stage == 0)) || x.overlapBad (x.inLen n rank send recv) (x.outLen n rank recv) (x.countBytes n)

/-- The checks of R235 that hold whatever the group is, for a command whose group fails: of a group of one, the least. Whether this member
is the root cannot be told, and REDUCE and BROADCAST are not judged by it. -/
def CrCmd.shapeBadAlone (x : CrCmd) : Bool :=
  if x.op = 2 ∨ x.op = 4 then x.op == 4 && x.stage == 0 else x.shapeBad 1 0 [] []

/-- Translate a range of a function; nothing for none. -/
def crRuns (s : State) (f a n : Nat) (write : Bool) : State × Except XFault (List (Nat × Nat)) :=
  if n = 0 then (s, .ok []) else translate s f a n write

/-- The counts that the bytes of the count arrays hold: those sent and those received. -/
def countsOf (x : CrCmd) (n : Nat) (bs : List Byte) : List Nat × List Nat :=
  let arr (off : Nat) : List Nat := (List.range n).map (fun i => leNat ((bs.drop (off + 4 * i)).take 4))
  if x.op = 8 then (arr 0, arr (4 * n)) else if x.op = 7 then ([], arr 0) else ([], [])

/-- The limits of R236: collectives of one function and group one at a time, 8 per function, 64 in all. -/
def crushFree (s : State) (f g : Nat) : Bool :=
  !(s.crush.colls.any (fun e => e.2.fn == f && e.2.group == g)) && (s.crush.colls.filter (fun e => e.2.fn == f)).length < 8 &&
    s.crush.colls.length < 64

/-- Feed a new collective the messages that came early for it (R240). -/
def takeEarly (s : State) (cid : Nat) (k : Coll) : State :=
  let mine (m : CollMsg) : Bool := m.msg.dstFn == k.fn && m.group == k.group && m.seq == k.seq
  let ms := s.crush.early.filter mine
  let s := { s with crush := { s.crush with early := s.crush.early.filter (fun m => !mine m) } }
  ms.foldl (fun s m =>
    match getColl s cid, getCmd s cid with
    | some k, some c =>
      actColl s cid k c (if m.stage = 0 then .desc else if m.stage = 1 then .count else .abort) { m with stage := 0 }
    | _, _ => s) s

/-- Issue a collective that has passed its checks: register its ranges, join, and start the exchange. -/
def joinColl (s : State) (cid : Nat) (c : Cmd) (k : Coll) : State :=
  let x := crushOf c
  let ranges := runLines (k.src ++ k.cnt) false ++ runLines (k.dst ++ k.stg) true
  if rangeBlocked s cid s.work.nextSeq ranges ∨ 512 < rangesHeld s cid + k.sides ∨ crushFree s k.fn k.group = false then putCmd s cid c
  else
    let s := putCmd { s with work := { s.work with nextSeq := s.work.nextSeq + 1 } } cid
      { c with st := .dispatched, seq := s.work.nextSeq, regSeq := s.work.nextSeq, ranges := ranges }
    let s := putColl s cid k
    let others := (List.range k.members.length).filter (· != k.rank)
    let s := if x.isV then others.foldl (fun s i => sendColl s cid k i .count { collBlank s k with
      count := if x.op = 8 then k.sendCounts.getD i 0 else k.recvCounts.getD k.rank 0 } []) s else s
    showCrush (tryReport (takeEarly s cid k) cid) k.fn

/-- A collective of a command with the members it knows. -/
def newColl (s : State) (c : Cmd) (entry : Nat) (members : List (Nat × Nat)) (rank : Nat) : Coll :=
  let x := crushOf c
  { fn := c.owner.fn, group := x.group, seq := x.seq, op := x.op, members := members, rank := rank, hash := crHash s c x entry, joinNs := now s,
    src := [], dst := [], stg := [], cnt := [], sendCounts := [], recvCounts := [], counts := [], reports := [], reported := false, verdict := none,
    got := [], partial_ := [], ends := [], fails := [], order := [], retain := [], toSend := [], verdictNs := 0, lastNs := [], inRead := false,
    sentResult := false, staged := false }

/-- Complete a CRUSHER command at its checks; a TRANSLATION_FAULT or a PERMISSION sends an abort to the members that are known (R240, R248). -/
def crushRefuse (s : State) (cid : Nat) (c : Cmd) (k : Coll) (st : Status) (fault : Nat) : State :=
  finish (if st = .translationFault ∨ st = .permission then sendAborts s cid k st else s) cid c st fault

/-- The last checks of a command whose counts are known, and its issue (R126): shape, translation, quota, policing, then room. -/
def crushStart (s : State) (cid : Nat) (c : Cmd) (k : Coll) (send recv : List Nat) : State :=
  let x := crushOf c
  let f := c.owner.fn
  let n := k.members.length
  let inL := x.inLen n k.rank send recv
  let outL := x.outLen n k.rank recv
  if x.shapeBad n k.rank send recv then finish s cid c .badFormat 0
  else match crRuns s f x.src inL false with
    | (s, .error e) => crushRefuse s cid c k .translationFault e.va
    | (s, .ok a) => match crRuns s f x.dst outL true with
      | (s, .error e) => crushRefuse s cid c k .translationFault e.va
      | (s, .ok b) => match crRuns s f x.stage outL true with
        | (s, .error e) => crushRefuse s cid c k .translationFault e.va
        | (s, .ok t) =>
          if quotaBad s f false then finish s cid c .quota 0
          else if f ≠ 0 ∧ rdLive s Reg.fabVfPir f = 0 then finish s cid c .policed 0
          else joinColl s cid c { k with src := a, dst := b, stg := t, sendCounts := send, recvCounts := recv }

/-- Issue a CRUSHER command of one op (R126, R235, R236); an op that is reserved is taken by any of these rows. The count arrays of a V
operation are read once the ranges registered there are released and the bucket has paid for them (R104, R168). -/
def crushCmd (s : State) (cid op : Nat) : State :=
  match getCmd s cid with
  | none => s
  | some c =>
    let x := crushOf c
    let f := c.owner.fn
    if c.opcode ≠ 4 ∨ c.owner.isRadio ∨ !(x.op == op || x.op == 0 || 9 < x.op) ∨ streamReady s c = false then s
    else if c.bodyLen ≠ 1 ∨ x.bad then finish s cid c .badFormat 0
    else
      let gr := crGroupRead s f x.group
      let n := match gr.2 with | .ok e => e.2.1.length | .error _ => 1
      if (match gr.2 with | .ok e => x.shapeBad n e.2.2 [] [] | .error _ => x.shapeBadAlone) then finish s cid c .badFormat 0
      else if !fnReady s 14 ∨ (1 < n ∧ !fnReady s 15) then finish s cid c .notReady 0
      else match gr with
        | (s, .error known) => crushRefuse s cid c (newColl s c 0 known known.length) .permission 0
        | (s, .ok (entry, members, rank)) =>
          let k := newColl s c entry members rank
          match crRuns s f x.counts (x.countBytes n) false with
          | (s, .error e) => crushRefuse s cid c k .translationFault e.va
          | (s, .ok cnt) =>
            if rangeBlocked s cid s.work.nextSeq (runLines cnt false) then s
            else match payDram s c (runCost cnt false) with
              | (s, c, false) => putCmd s cid c
              | (s, c, true) => match readRuns s 0 c.tag cnt with
                | (s, .error l) => finish s cid c .memUe (x.counts + byteInLine cnt l)
                | (s, .ok bs) =>
                  let r := countsOf x n bs
                  crushStart s cid c { k with cnt := cnt } r.1 r.2

/-- ALL_REDUCE (R232). -/
def execAllReduce (cid : Nat) (s : State) : Ans := .next (sweepLost (crushCmd s cid 1))
/-- REDUCE (R232). -/
def execReduce (cid : Nat) (s : State) : Ans := .next (sweepLost (crushCmd s cid 2))
/-- REDUCE_SCATTER (R232). -/
def execReduceScatter (cid : Nat) (s : State) : Ans := .next (sweepLost (crushCmd s cid 3))
/-- BROADCAST (R232). -/
def execBroadcast (cid : Nat) (s : State) : Ans := .next (sweepLost (crushCmd s cid 4))
/-- ALL_GATHER (R232). -/
def execAllGather (cid : Nat) (s : State) : Ans := .next (sweepLost (crushCmd s cid 5))
/-- ALL_TO_ALL (R232). -/
def execAllToAll (cid : Nat) (s : State) : Ans := .next (sweepLost (crushCmd s cid 6))
/-- ALL_GATHER_V (R232, R239). -/
def execAllGatherV (cid : Nat) (s : State) : Ans := .next (sweepLost (crushCmd s cid 7))
/-- ALL_TO_ALL_V (R232, R239). -/
def execAllToAllV (cid : Nat) (s : State) : Ans := .next (sweepLost (crushCmd s cid 8))
/-- BARRIER (R232). -/
def execBarrier (cid : Nat) (s : State) : Ans := .next (sweepLost (crushCmd s cid 9))

/-! ### Commit and timers -/

/-- COLLECTIVE_COMMIT (R247): the verdict is AGREE, the stage is whole and every sent chunk is verified: the member passes its point of
no return. -/
def execCollectiveCommit (cid : Nat) (s : State) : Ans :=
  .next (match getColl s cid, getCmd s cid with
    | some k, some c =>
      if c.st = .dispatched ∧ k.verdict = some true ∧ k.staged = true ∧ k.retain = [] ∧ k.toSend = [] then
        putCmd s cid { c with st := .committing, commitNs := now s }
      else s
    | _, _ => s)

/-- STAGE_COPY_DONE (R247): the stage has been copied to the output, charged to the function; the ranges are released, the tallies
signalled and the command completes. A stage line that cannot be read, or an output line that is written in part over one, ends it with
MEM_UE and the lines before it copied (Table 06.4). -/
def execStageCopyDone (cid : Nat) (s : State) : Ans :=
  .next (match getColl s cid, getCmd s cid with
    | some k, some c =>
      if c.st ≠ .committing then s
      else
        let x := crushOf c
        let s := chargeDram s k.fn (runCost k.stg false + runCost k.dst true)
        let c := { c with kills := if transientIn s k.stg then Nat.min 255 (c.kills + 1) else c.kills }
        let bs := runBytes s k.stg
        match senseRuns s 0 c.tag k.stg with
        | (s, some l) => endColl (storeRuns s k.dst (bs.take (byteInLine k.stg l))) cid k c .memUe (x.stage + byteInLine k.stg l)
        | (s, none) => match writeRuns s 0 c.tag k.dst bs with
          | (s, some l) => endColl s cid k c .memUe (x.dst + byteInLine k.dst l)
          | (s, none) => endColl (applySignals s c.owner.tallies c.signals) cid k c c.status 0
    | _, _ => s)

/-- JOIN_TIMEOUT (R240): no verdict within join_ms of the issue. -/
def execJoinTimeout (cid : Nat) (s : State) : Ans :=
  .next (match getColl s cid with
    | none => s
    | some k =>
      if k.verdict.isSome ∨ now s < k.joinNs + rd s Reg.crusherCfgJoinMs 0 * 1000000 then s else sweepLost (failColl s cid .fabricTimeout 0))

/-- The member awaits a descriptor, a count, a chunk or an acknowledgement from a rank (R249). -/
def Coll.awaits (k : Coll) (x : CrCmd) (i : Nat) : Bool :=
  (!k.reported && ((i != 0 && (i - 1) / 8 == k.rank && (mapFind k.reports i).isNone) || (x.isV && (mapFind k.counts i).isNone))) ||
  (k.verdict == some true && !k.staged && [0, 1].any (fun stage =>
    (k.from_ stage i).length != sendCount x k.members.length i k.rank stage k.sendCounts k.recvCounts k.rank)) ||
  k.retain.any (fun r => r.1 / 2 ^ 20 % 1024 == i)

/-- MEMBER_LOST_TIMEOUT (R249): what is awaited from a member has been missing for dead_us: lost where its node has been silent as long,
else FABRIC_TIMEOUT. PF0's collectives have no dead bound. -/
def execMemberLostTimeout (cid : Nat) (rank : BitVec 10) (s : State) : Ans :=
  .next (match getColl s cid, getCmd s cid with
    | some k, some c =>
      (match k.members[rank.toNat]? with
      | none => s
      | some d =>
        let bound := rd s Reg.jeanoCfgDeadUs 0 * 1000
        let since := Nat.max (Nat.max k.joinNs k.verdictNs) (mapGet k.lastNs rank.toNat 0)
        if k.fn = 0 ∨ rank.toNat = k.rank ∨ k.awaits (crushOf c) rank.toNat = false ∨ now s < since + bound ∨ c.st ≠ .dispatched then s
        else
          let heard := match mapFind s.fab.heard d.1 with
            | some t => decide (now s < t + bound)
            | none => false
          sweepLost (failColl s cid (if heard then .fabricTimeout else .collMemberLost) 0))
    | _, _ => s)

/-- What waited for DRAM tokens may go on: messages held at the target, and collectives (R168). -/
def resumeFabric (s : State) : State :=
  let s := deliverLocal (releaseHeld s.fab.held.length s)
  sweepLost (s.crush.colls.foldl (fun s e => advanceColl s e.1) s)

/-- DESC (R238). -/
def execDesc (m : CollMsg) (s : State) : Ans := .next (onColl s .desc m)
/-- COUNT (R239). -/
def execCount (m : CollMsg) (s : State) : Ans := .next (onColl s .count m)
/-- VERDICT (R238). -/
def execVerdict (m : CollMsg) (s : State) : Ans := .next (onColl s .verdict m)
/-- DATA (R243). -/
def execData (m : CollMsg) (s : State) : Ans := .next (onColl s .data m)
/-- ACK_VERIFIED (R243). -/
def execAckVerified (m : CollMsg) (s : State) : Ans := .next (onColl s .ackVerified m)
/-- REFETCH (R243). -/
def execRefetch (m : CollMsg) (s : State) : Ans := .next (onColl s .refetch m)
/-- ABORT (R248). -/
def execAbort (m : CollMsg) (s : State) : Ans := .next (onColl s .abort m)

end Sys2Proof.Machine
end

