-- ==== Sys2Proof/Machine/MemoryStack.lean ====
section
/-! DEFINITION. Rows LOT_OWNER to CXL_MEM_WRITE: lots and their owners (R153, R154), translation invalidation (R157), the patrol scrub
(R165), the DRAM buckets' refill (R168), and host access over CXL.mem (R160, R169). -/

namespace Sys2Proof.Machine

/-! ### Lots -/

/-- A VF's owner code. -/
def vfCode (o : Nat) : Bool := 1 ≤ o && o ≤ 512

/-- A write of a LOT_OWNER entry is one of the accepted ones (R154, R160): the entry's new owner, hdm and state. -/
def lotWrite (old : Nat) (hdm : Bool) (new : Nat) (newHdm : Bool) : Option (Nat × Bool × Nat) :=
  if new = old then (if newHdm && !hdm && !(vfCode old || old = 0x3FD) then none else some (old, newHdm, 0))
  else if old = 0 ∧ vfCode new = true then some (new, newHdm, 0)
  else if vfCode old = true ∧ new = 0 then some (old, false, 1)
  else none

/-- Some function names the lot as its save lot (R376). -/
def isSaveLot (s : State) (n : Nat) : Bool := (List.range 513).any (fun f => rd s Reg.bankPartSaveLot f == n)

/-- LOT_OWNER (R154, R376): a grant, a release or a change of hdm; anything else is discarded and logged with PERMISSION. -/
def execLotOwner (lot : Fin 384) (owner : BitVec 10) (hdm : Bool) (s : State) : Ans :=
  let n := lot.val
  let off := 0x401000 + 2 * n
  .next (
    if !reachable s off then logErr s 0 .notReady 0 0 off
    else if rd s Reg.caps0DramLots 0 ≤ n then s
    else
      match (if lotIdle s n && !(owner.toNat == 0 && lotOwnerOf s n != 0 && isSaveLot s n) then lotWrite (lotOwnerOf s n) (rdB s Reg.lotOwnerHdm n) owner.toNat hdm else none) with
      | none => logErr s 0 .permission 0 0 off
      | some (o, h, st) => wr (wr (wr s Reg.lotOwnerOwner n o) Reg.lotOwnerHdm n (bit01 h)) Reg.lotOwnerState n st)

/-- A command's accesses have been admitted and are not over: it has translated its DRAM side at dispatch and not executed (R107). -/
def Cmd.inFlight (c : Cmd) : Bool := c.st == .dispatched && (c.srcRuns != [] || c.dstRuns != [])

/-- Some command or collective holds a registered range in the lot, or an admitted access into it. -/
def lotRegistered (s : State) (n : Nat) : Bool :=
  s.work.cmds.any (fun e => e.2.ranges.any (fun r => lotOf (r.first * 64) ≤ n && n ≤ lotOf (r.last * 64)) ||
    (e.2.inFlight && (e.2.srcRuns ++ e.2.dstRuns).any (fun r => lotOf r.1 ≤ n && n ≤ lotOf (r.1 + r.2 - 1)))) ||
  s.crush.colls.any (fun e => (e.2.src ++ e.2.dst ++ e.2.stg).any (fun r => r.2 != 0 && lotOf r.1 ≤ n && n ≤ lotOf (r.1 + r.2 - 1)))

/-- RELEASING_END (R154): with no access and no registered range left in the lot it starts CLEARING, after the lots released before. -/
def execReleasingEnd (lot : Fin 384) (s : State) : Ans :=
  let n := lot.val
  .next (
    if rd s Reg.lotOwnerState n ≠ 1 || lotRegistered s n then s
    else wr { s with mem := { s.mem with clearQ := s.mem.clearQ ++ [n] } } Reg.lotOwnerState n 2)

/-- CLEARING_END (R154): the lot whose turn it is has been written as cleared lines, and is free. -/
def execClearingEnd (lot : Fin 384) (s : State) : Ans :=
  let n := lot.val
  .next (match s.mem.clearQ with
    | [] => s
    | k :: t =>
      if k ≠ n then s
      else wr (wr { s with mem := { memClearLot s.mem n with clearQ := t } } Reg.lotOwnerOwner n 0) Reg.lotOwnerState n 0)

/-! ### Invalidation -/

/-- MEM_INVAL (R157): go is set; the caches of translations, peers and groups are to drop what they read before. -/
def execMemInval (vf : BitVec 10) (all : Bool) (s : State) : Ans :=
  .next (
    if !reachable s 0x400020 then logErr s 0 .notReady 0 0 0x400020
    else wr (wr (wr { s with mem := { s.mem with invalSeq := s.work.nextSeq } } Reg.memInvalVf 0 vf.toNat) Reg.memInvalAll 0 (bit01 all))
      Reg.memInvalGo 0 1)

/-- MEM_INVAL_DONE (R157): nothing translated with a stale entry is in flight, and go clears. -/
def execMemInvalDone (s : State) : Ans :=
  let mine (f : Nat) : Bool := rdB s Reg.memInvalAll 0 || f == rd s Reg.memInvalVf 0
  .next (
    if s.work.cmds.any (fun e => mine e.2.owner.fn && (e.2.ranges != [] || e.2.inFlight) && e.2.regSeq < s.mem.invalSeq && e.2.st != .done) then s
    else wr s Reg.memInvalGo 0 0)

/-! ### Scrub and buckets -/

/-- SCRUB_READ (R165): the patrol scrub reads its next line and handles what it finds under R162 and R163; a line of a VF that stays
uncorrectable is also logged in that VF's error log by lot-relative offset (R164). -/
def execScrubRead (err : Option LineErr) (s : State) : Ans :=
  .next (
    if !rdB s Reg.memScrubEnable 0 || dramSize s = 0 then s
    else
      let line := s.mem.scrubLine % (dramSize s / 64)
      let s := { s with mem := { s.mem with scrubLine := (line + 1) % (dramSize s / 64) } }
      if (mapFind s.mem.stored line).isNone then s
      else
        let s := match err with
          | some e => { s with mem := { s.mem with err := mapSet s.mem.err line e } }
          | none => s
        match senseAt s 3 0 line with
        | (s, false) => s
        | (s, true) =>
          let o := lotOwnerOf s (lotOf (line * 64))
          if vfCode o then logErr s o .memUe 3 0 (line * 64 % 2 ^ 30) else s)

/-- BUCKET_REFILL (R168, R170): committed parameters take effect and every bucket gains rate × 975.2 ns, up to its burst. What waited for
tokens at the target or in a collective goes on. -/
def execBucketRefill (s : State) : Ans :=
  let s := applyKind s 1
  .next (resumeFabric ((List.range (rd s Reg.tenInfoVfs 0 + 1)).foldl (fun s f =>
    putTokens s f (Nat.min (burstBytes s f) (tokensOf s f + rdLive s Reg.dramBucketRate f * 9752 / 10))) s))

/-! ### CXL.mem -/

/-- A host access may be served: the memory is up, and the lot is IDLE with hdm set (R150, R160). -/
def hdmOk (s : State) (pa : Nat) : Bool := pa < dramSize s && lotIdle s (lotOf pa) && rdB s Reg.lotOwnerHdm (lotOf pa)

/-- All four stacks are READY (R150). -/
def dramReady (s : State) : Bool := (List.range 4).all (fun i => fnReady s (9 + i))

/-- Charge a lot's owner for a host access, which never waits (R169). -/
def chargeHost (s : State) (pa bytes : Nat) : State := chargeDram s (keySlot s (lotOf pa)) bytes

/-- CXL_MEM_READ (R150, R160, R164): a 64-byte line for the host, all ones where it may not be served or cannot be read. -/
def execCxlMemRead (pa : BitVec 39) (s : State) : Ans :=
  let a := pa.toNat / 64 * 64
  let ones := 2 ^ 512 - 1
  .next (
    if !dramReady s then emit s (.cxlData ones)
    else if !hdmOk s a then emit (logErr s 0 .permission 3 0 (lotOf a)) (.cxlData ones)
    else
      match senseAt (chargeHost s a 64) 1 0 (a / 64) with
      | (s, true) => emit s (.cxlData ones)
      | (s', false) => emit s' (.cxlData (memNat s a 64)))

/-- CXL_MEM_WRITE (R149, R160): the bytes the mask names; a partial write is a read-modify-write, and fails on a line that cannot be
read (R163). -/
def execCxlMemWrite (pa : BitVec 39) (data : BitVec 512) (mask : BitVec 64) (s : State) : Ans :=
  let a := pa.toNat / 64 * 64
  .next (
    if !dramReady s then s
    else if !hdmOk s a then logErr s 0 .permission 3 0 (lotOf a)
    else if mask = 0 then s
    else if mask.toNat = 2 ^ 64 - 1 then dramStore (chargeHost s a 64) a (leBytes 64 data.toNat)
    else
      match senseAt (chargeHost s a 128) 1 0 (a / 64) with
      | (s, true) => s
      | (s, false) =>
        let old := memBytes s a 64
        let new := leBytes 64 data.toNat
        dramStore s a ((List.range 64).map (fun i => if mask.getLsbD i then new.getD i 0 else old.getD i 0)))

end Sys2Proof.Machine
end

