-- ==== Sys2Proof/Machine/Messages.lean ====
section
/-! DEFINITION. Rows DATA_FLIT to JEANO_SAMPLE_CLEAR: the link layer of a port (R174-R181), the fabric's messages
(R187, R195-R214, R220, R224), its timers (R207, R214-R218), metering (R190, R402) and queue sampling (R225). -/

namespace Sys2Proof.Machine

/-- The fabric comes to rest after messages have settled: what this device has sent to itself is delivered, and collectives that have lost a
member fail. -/
def settleFabric (s : State) : State := sweepLost (deliverLocal s)

/-! ### Port states -/

/-- The capability block a port sends now (R180): what trained, and how long it has held the partner's last count. -/
def ownCap (s : State) (p : Nat) : CapBlock :=
  let l := getLink s p
  { ver := 1, genMin := 1, genMax := 1, node := ownNode s, port := p, plumb := rdB s Reg.plumbPlumb 0, lanesOk := l.lanes,
    incarnation := ownInc s, detSignature := rd s Reg.detSignatureSignature 0, tTx := s.clock.g % 2 ^ 32, tEcho := l.lastTx,
    tHold := if l.lastTx = 0 then 0 else (s.clock.g + 2 ^ 32 - l.lastRx % 2 ^ 32) % 2 ^ 32, arrival := 0, verG2 := 0, verG3 := 0, ansG2 := 0,
    ansG3 := 0 }

/-- A port that runs Jeano's links: not one in ETHERNET mode (R221). -/
def linkIn (s : State) (p st : Nat) : Bool := rd s Reg.jeanoPortState p == st && !isEth s p

/-- RETRAIN (R179): the port leaves routing and its replay buffer is discarded. -/
def enterRetrain (s : State) (p : Nat) : State :=
  if linkIn s p 2 = false then s else
  let s := putLink s p { getLink s p with replay := [], tail := [], naks := 0, tries := 0, peerNaks := 0, rxNext := 0, txNext := 0, credits := [] }
  setPort (bumpSat s Reg.jeanoPortRetrains p 1) p 3

/-- A port goes DOWN (R178, R179). -/
def goDown (s : State) (p : Nat) : State := setPort (bumpSat (putLink s p { PortLink.reset with lanes := (getLink s p).lanes }) Reg.jeanoPortDowns p 1) p 0

/-- Four good lanes of one half, or all eight (R178). -/
def lanesUp (ok : Nat) : Option Bool :=
  if ok % 256 = 255 then some false else if ok % 16 = 15 ∨ ok / 16 % 16 = 15 then some true else none

/-! ### Flits (R174-R176, R186) -/

/-- Apply the acknowledgement of a flit's link header: what it acknowledges leaves the replay buffer; a nak has the flits after it sent
again, and eight for one flit start a RETRAIN (R176). -/
def linkAck (s : State) (p ackSeq : Nat) (nak : Bool) : State :=
  let l := getLink s p
  let l := { l with replay := if l.replay.any (fun f => f.1 == ackSeq) then (l.replay.dropWhile (fun (f : Nat × List Byte) => f.1 != ackSeq)).drop 1 else l.replay }
  if !nak then putLink s p { l with peerNaks := 0 }
  else
    let n := if l.peerNaks ≠ 0 ∧ l.peerNak = ackSeq then l.peerNaks + 1 else 1
    let s := bump (putLink s p { l with peerNak := ackSeq, peerNaks := n }) Reg.jeanoPortLinkRetries p 1
    if 8 ≤ n then enterRetrain s p else l.replay.foldl (fun s (f : Nat × List Byte) => sendData s p f) s

/-- A flit arrives (R175, R176): codewords with up to 15 symbol errors are corrected and counted. One whose link check fails, as it does where
it touches an uncorrectable codeword, is answered with a nak, and the eighth for one flit starts a RETRAIN; of a good one the acknowledgement
is applied, then what it carries. -/
def onFlit (s : State) (p ackSeq : Nat) (nak crcOk : Bool) (errs : List (BitVec 10)) (act : State → State) : State :=
  if linkIn s p 2 = false then s
  else
    let fixed := (errs.filter (fun e => e != 0 && e.toNat ≤ 15)).length
    let s := if fixed = 0 then s else bump s Reg.jeanoPortFecCorrected p fixed
    if !crcOk || errs.any (fun e => 15 < e.toNat) then
      let l := getLink s p
      let s := sendIdle (bump (putLink s p { l with naks := l.naks + 1 }) Reg.jeanoPortLinkRetries p 1) p true
      if 8 ≤ l.naks + 1 then enterRetrain s p else s
    else
      let s := linkAck s p ackSeq nak
      if linkIn s p 2 then act s else s

/-- DATA_FLIT (R175, R176): one out of order is dropped; the next in order is accepted and acknowledged. -/
def execDataFlit (port : BitVec 4) (fseq ackSeq : BitVec 12) (nak crcOk : Bool) (errs : List (BitVec 10)) (s : State) : Ans :=
  let p := port.toNat
  .next (settleFabric (onFlit s p ackSeq.toNat nak crcOk errs (fun s =>
    let l := getLink s p
    if fseq.toNat ≠ l.rxNext then s else sendIdle (putLink s p { l with rxNext := (l.rxNext + 1) % 4096, naks := 0 }) p false)))

/-- IDLE_FLIT (R174): its acknowledgement is applied. -/
def execIdleFlit (port : BitVec 4) (ackSeq : BitVec 12) (nak crcOk : Bool) (errs : List (BitVec 10)) (s : State) : Ans :=
  .next (settleFabric (onFlit s port.toNat ackSeq.toNat nak crcOk errs id))

/-- CREDIT_FLIT (R186): credit returns to a virtual channel, beside the acknowledgement every link header carries. -/
def execCreditFlit (port : BitVec 4) (ackSeq : BitVec 12) (nak : Bool) (vc : BitVec 5) (count : BitVec 8) (crcOk : Bool) (errs : List (BitVec 10))
    (s : State) : Ans :=
  let p := port.toNat
  .next (settleFabric (onFlit s p ackSeq.toNat nak crcOk errs (fun s =>
    let l := getLink s p
    putLink s p { l with credits := mapMod l.credits vc.toNat 0 (· - count.toNat) })))

/-- LINK_SILENCE (R176): 1 µs without a valid flit. -/
def execLinkSilence (port : BitVec 4) (s : State) : Ans := .next (settleFabric (enterRetrain s port.toNat))

/-- Another port, in service or retraining, reaches the same partner (R181). -/
def reachedTwice (s : State) (p n : Nat) : Bool :=
  (List.range 16).any (fun q => q != p && [2, 3].contains (rd s Reg.jeanoPortState q) && rd s Reg.jeanoPortPartnerNode q == n)

/-- RETRAIN_TIMEOUT (R178, R179): an attempt ends with the lanes that trained; the third failure takes the port DOWN. A partner that another
port has come to reach leaves it MISWIRED (R181). -/
def execRetrainTimeout (port : BitVec 4) (lanesOk : BitVec 8) (s : State) : Ans :=
  let p := port.toNat
  .next (
    if linkIn s p 3 = false then s
    else match lanesUp lanesOk.toNat with
      | some half =>
        let s := wr (putLink s p { getLink s p with tries := 0, lanes := lanesOk.toNat }) Reg.jeanoPortLanes4 p (bit01 half)
        settleFabric (setPort s p (if reachedTwice s p (rd s Reg.jeanoPortPartnerNode p) then 4 else 2))
      | none =>
        let n := (getLink s p).tries + 1
        if 3 ≤ n then settleFabric (goDown s p) else putLink s p { getLink s p with tries := n })

/-- DOWN_RETRY (R179): full training begins again; the port sends its capability block. -/
def execDownRetry (port : BitVec 4) (s : State) : Ans :=
  let p := port.toNat
  .next (
    if linkIn s p 0 = false ∨ bitOf (rd s Reg.caps0JeanoPortMask 0) p = false then s
    else
      let s := setPort (putLink s p { PortLink.reset with lanes := (getLink s p).lanes }) p 1
      settleFabric (emit s (.cap p (ownCap s p))))

/-- A partner's place breaks the rules of R181 for the port it is on. -/
def miswired (s : State) (p : Nat) (b : CapBlock) : Bool :=
  let n := b.node % 1024
  let here := ownNode s
  let same := n / 64 == here / 64
  reachedTwice s p n || (if p < 7 then !(same && n / 8 == here / 8) else if p < 14 then !(same && n % 8 == here % 8) else same)

/-- CAPABILITY_BLOCK (R177, R178, R180, R181): the partner, the generation and, of a block that echoes one sent from here, the flight of one
exchange. After 64 exchanges the port comes up, or stays out of service for the reason found. -/
def execCapabilityBlock (port : BitVec 4) (block : CapBlock) (s : State) : Ans :=
  let p := port.toNat
  .next (settleFabric (
    if linkIn s p 1 = false then s
    else if 1 < block.genMin ∨ block.genMax < 1 then setPort s p 5
    else
      let l := getLink s p
      let d := (block.arrival + 2 ^ 33 - block.tEcho % 2 ^ 32 - block.tHold % 2 ^ 32) % 2 ^ 32
      let l := { l with lastTx := block.tTx, lastRx := block.arrival }
      let l := if block.tEcho = 0 then l else { l with flightSum := l.flightSum + d / 2, exchanges := l.exchanges + 1 }
      let mixed := block.plumb != rdB s Reg.plumbPlumb 0 || block.detSignature != rd s Reg.detSignatureSignature 0
      let s := [(Reg.jeanoPortGen, 1), (Reg.jeanoPortPartnerNode, block.node), (Reg.jeanoPortPartnerPort, block.port),
                (Reg.jeanoPortMixed, bit01 mixed)].foldl (fun s e => wr s e.1 p e.2) (putLink s p l)
      let s := if (mapFind s.fab.heldInc block.node).isSome then s
        else { s with fab := { s.fab with heldInc := mapSet s.fab.heldInc block.node block.incarnation } }
      let s := emit s (.cap p { ownCap s p with ansG2 := block.verG2, ansG3 := block.verG3 })
      if miswired s p block then setPort s p 4
      else if l.exchanges < 64 then s
      else
        let ns := l.flightSum / 64 * rd s Reg.timeAddendAddend 0 / 2 ^ 32
        let s := wr (putLink s p { l with flightSum := 0, exchanges := 0, rxNext := 0, txNext := 0, replay := [], tail := [] }) Reg.jeanoPortFlightNs p ns
        if 500 < ns then setPort s p 6
        else match lanesUp block.lanesOk with
          | some half => setPort (wr s Reg.jeanoPortLanes4 p (bit01 half)) p 2
          | none => goDown s p))

/-! ### Messages -/

/-- READ (R195, R201). -/
def execRead (m : Msg) (s : State) : Ans := .next (settleFabric (onRequest s .read m))
/-- WRITE (R200, R201). -/
def execWrite (m : Msg) (s : State) : Ans := .next (settleFabric (onRequest s .write m))
/-- ATOMIC_MESSAGE (R210, R211). -/
def execAtomicMessage (m : Msg) (s : State) : Ans := .next (settleFabric (onRequest s .atomic m))
/-- REDUCE_MESSAGE (R213, R214). -/
def execReduceMessage (m : Msg) (s : State) : Ans := .next (settleFabric (onRequest s .reduce m))
/-- SIGNAL_MESSAGE (R203). -/
def execSignalMessage (m : Msg) (s : State) : Ans := .next (settleFabric (onRequest s .signal m))
/-- MSG (R224). -/
def execMsg (m : Msg) (s : State) : Ans := .next (settleFabric (onRequest s .msg m))

/-- LSA (R187): applied to the link map; what was on a broken route is sent again. -/
def execLsa (m : Msg) (s : State) : Ans := .next (settleFabric (onRequest s .lsa m))

/-- READ_DATA (R198, R220): the bytes go to the GET that asked. -/
def execReadData (m : Msg) (s : State) : Ans :=
  .next (settleFabric (onAnswer s .readData m (fun s m =>
    match findUn s m.srcNode m.cls m.seq with
    | none => s
    | some (mid, u) => if u.msg.kind ≠ .read then s else dataTo s mid u m.srcEpoch m.data)))

/-- ATOMIC_RESULT (R198, R212): the old value is written and the command ends; an evicted record leaves it indeterminate. -/
def execAtomicResult (m : Msg) (s : State) : Ans :=
  .next (settleFabric (onAnswer s .atomicResult m (fun s m =>
    match findUn s m.srcNode m.cls m.seq with
    | none => s
    | some (mid, u) => if u.msg.kind ≠ .atomic ∨ u.msg.fetch = false then s else resultTo s mid u (leNat m.data) m.status)))

/-- ACK (R201, R205): the first sequence, and bit i for the sequence 1 + i above it. -/
def execAck (m : Msg) (s : State) : Ans :=
  .next (settleFabric (onAnswer s .ack m (fun s m =>
    ((bitList 32 m.ordPrev).map (fun i => (m.seq + 1 + i) % 2 ^ 32)).foldl (fun s q => ackOne s m.srcNode m.cls q)
      (ackOne s m.srcNode m.cls m.seq))))

/-- NAK (Table 07.9). -/
def execNak (m : Msg) (s : State) : Ans :=
  .next (settleFabric (onAnswer s .nak m (fun s m =>
    match findUn s m.srcNode m.cls m.seq with
    | none => s
    | some (mid, u) => nakTo s mid u m.ordPrev 0)))

/-! ### Timers -/

/-- RESEND_TIMER (R207, R218): a message that its interval has passed over is sent again, until 16 µs before its operation's bound. -/
def execResendTimer (mid : Nat) (s : State) : Ans :=
  .next (match getUn s mid with
    | none => s
    | some u =>
      if !u.sent then settleFabric (launch s mid)
      else if now s < u.lastNs + Nat.max 10000 u.interval ∨ withinBound s u = false then s
      else settleFabric (resend s mid u true))

/-- MESSAGE_LIFETIME_EXPIRY (R216): a message held for its predecessor is discarded at an age of 16 µs. -/
def execMessageLifetimeExpiry (srcNode : BitVec 10) (cls : TClass) (seq : BitVec 32) (s : State) : Ans :=
  let hit (m : Msg) : Bool := m.srcNode == srcNode.toNat && m.cls == cls && m.seq == seq.toNat
  .next (match s.fab.held.find? hit with
    | none => s
    | some m => discardMsg { s with fab := { s.fab with held := s.fab.held.filter (fun x => !hit x) } } m)

/-- DEAD_BOUND (R217): a class T or R message unsettled for dead_us since its first send. -/
def execDeadBound (mid : Nat) (s : State) : Ans :=
  .next (match getUn s mid with
    | none => s
    | some u =>
      if !u.sent || u.msg.cls = .s || decide (now s < u.firstNs + rd s Reg.jeanoCfgDeadUs 0 * 1000) then s
      else
        let heard := match mapFind s.fab.heard u.msg.dstNode with
          | some t => decide (u.firstNs ≤ t)
          | none => false
        settleFabric (settleOne s mid (if heard then .fabricTimeout else .targetDead) false))

/-- ROUND_TIMEOUT (R214): an incomplete round is discarded and its contributors get NAK ROUND_TIMEOUT. -/
def execRoundTimeout (fn : Fin 513) (line : Nat) (round : BitVec 32) (s : State) : Ans :=
  let hit (r : Round) : Bool := r.fn == fn.val && r.line == line && r.round == round.toNat
  .next (match s.fab.rounds.find? hit with
    | none => s
    | some r =>
      if now s < r.firstNs + rd s Reg.jeanoCfgDeadUs 0 * 1000 then s
      else
        let s := { s with fab := { s.fab with rounds := s.fab.rounds.filter (fun x => !hit x) } }
        settleFabric (r.parts.foldl (fun s m => sendReply (settleAt s m (.nak 4 0)) m (.nak 4 0)) s))

/-- JEANO_S_ABORT (R218): the manager names a lost node and sets go. -/
def execJeanoSAbort (node : BitVec 10) (s : State) : Ans :=
  .next (if !reachable s 0x500010 then logErr s 0 .notReady 0 0 0x500010
    else wr (wr s Reg.jeanoSAbortNode 0 node.toNat) Reg.jeanoSAbortGo 0 1)

/-- S_ABORT_SETTLE (R218): 16 µs after go, class S messages toward the node settle as TARGET_DEAD. -/
def execSAbortSettle (s : State) : Ans :=
  .next (
    if !rdB s Reg.jeanoSAbortGo 0 then s
    else
      let n := rd s Reg.jeanoSAbortNode 0
      let due := s.fab.unacked.filter (fun e => e.2.msg.cls == .s && e.2.msg.dstNode == n)
      wr (loseMember (settleFabric (due.foldl (fun s e => settleOne s e.1 .targetDead false) s)) n) Reg.jeanoSAbortGo 0 0)

/-! ### Metering and sampling -/

/-- One microsecond of refill: rate in units of 100 MB/s, up to the burst in KiB. -/
def refill (m : SMap Nat) (f rate burst : Nat) : SMap Nat := mapPut m f (Nat.min (burst * 1024) (mapGet m f 0 + rate * 100)) 0

/-- METERING_TICK (R190, R402): committed policing parameters take effect and every bucket gains a microsecond's tokens. -/
def execMeteringTick (s : State) : Ans :=
  let s := applyKind s 4
  .next ((List.range (rd s Reg.tenInfoVfs 0 + 1)).foldl (fun s f =>
    { s with fab := { s.fab with
      tc := refill s.fab.tc f (rdLive s Reg.fabVfCir f) (rdLive s Reg.fabVfCbs f)
      tp := refill s.fab.tp f (rdLive s Reg.fabVfPir f) (rdLive s Reg.fabVfPbs f)
      hostTc := refill s.fab.hostTc f (rdLive s Reg.vfPartHostCir f) (rdLive s Reg.vfPartHostCbs f)
      hostTp := refill s.fab.hostTp f (rdLive s Reg.vfPartHostPir f) (rdLive s Reg.vfPartHostPbs f) } }) s)

/-- Histogram bin of a sample in units: bin 0 when empty, bin i for [2^(i−1), 2^i), bin 15 for all larger values (R225). -/
def histBin (v unit : Nat) : Nat :=
  if v = 0 then 0 else Nat.min 15 (Nat.log2 (Nat.max 1 (v / unit)) + 1)

/-- QUEUE_SAMPLE (R225): the bytes in each port's egress queue of each class and the age in ns of its head, 3 × port + class. -/
def execQueueSample (depths delays : List Nat) (s : State) : Ans :=
  .next (if rd s Reg.jeanoSamplePeriodUs 0 = 0 then s
    else (List.range 48).foldl (fun s i =>
      let s := bumpSat s Reg.jeanoHistBin (32 * i + histBin (depths.getD i 0) 256) 1
      bumpSat s Reg.jeanoHistBin (32 * i + 16 + histBin (delays.getD i 0) 16) 1) s)

/-- JEANO_SAMPLE_CLEAR (R225). -/
def execJeanoSampleClear (s : State) : Ans :=
  .next (if !reachable s 0x500014 then logErr s 0 .notReady 0 0 0x500014
    else (List.range 1536).foldl (fun s i => wr s Reg.jeanoHistBin i 0) s)

end Sys2Proof.Machine
end

