-- ==== Sys2Proof/Machine/Tenancy.lean ====
section
/-! DEFINITION. Virtual functions: enabling and disabling (R397), the states of Table 15.5, quiesce and reset (R407-R410), freeze and
resume (R412), and queue sampling (R404): rows NUM_VFS to RESUME, TENANT_SAMPLE and TEN_SAMPLE_CLEAR. -/

namespace Sys2Proof.Machine

/-- TotalVFs: 512, or 0 in a restricted start (R397). -/
def totalVfs (s : State) : Nat := if rdB s Reg.readySummaryRestricted 0 then 0 else 512

/-- Set a VF's state. -/
def setVf (s : State) (f st : Nat) : State := wr s Reg.vfCtlState f st

/-- A VF enters ACTIVE: a kept stop is cleared (R406). -/
def vfActive (s : State) (f : Nat) : State := wr (setVf s f 1) Reg.vfCtlStop f 0

/-- A control bit the state does not accept (R406). -/
def ctlRefuse (s : State) (f : Nat) : State := wr s Reg.vfCtlLastStatus f Status.permission.code

/-- A control write reaches the entry of a VF at or below NumVFs, and nothing else (R417). -/
def onVf (s : State) (f : Nat) (act : State → State) : State :=
  let off := 0xC10000 + 64 * f
  if !reachable s off then logErr s 0 .notReady 0 0 off
  else if f = 0 ∨ !fnPresent s f then s else act s

/-! ### Key slots (R158, R427) -/

/-- A function's key pair. -/
def slotKey (s : State) (f : Nat) : List Byte := leBytes 32 (mapGet s.mem.keys f 0)

/-- key_check: the low 8 bytes of SM4 of the zero block under the first key. -/
def keyCheck (s : State) (f : Nat) : Nat := leNat ((sm4Enc ((slotKey s f).take 16) (List.replicate 16 0)).take 8)

/-- A range lies in the manager reserve. -/
def inReserve (s : State) (pa n : Nat) : Bool :=
  pa + n ≤ dramSize s && (pieces pa n (2 ^ 30)).all (fun p => lotOwnerOf s (lotOf p.1) == 0x3FD)

/-- Put a key pair into a VF's slot, delivered or drawn, with its key_check (R158, R426, R427). -/
def setKey (s : State) (f key : Nat) (delivered : Bool) : State :=
  let others := s.mem.delivered.filter (· != f)
  let s := { s with mem := { s.mem with keys := mapSet s.mem.keys f key, delivered := if delivered then insertNat others f else others } }
  wr (wr s Reg.secVfDelivered f (bit01 delivered)) Reg.secVfKeyCheck f (keyCheck s f)

/-- Overwrite a VF's slot with fresh random bits. -/
def freshKey (s : State) (f : Nat) : State := drawn (setKey s f (Config.entropy s.free % 2 ^ 256) false)

/-! ### Resets (R408-R410) -/

/-- Free a function's contexts: benches, switches, frames, slots; every epoch rises (R408). -/
def clearCtxs (s : State) (f : Nat) : State :=
  let s := (allBenches s).foldl (fun s b =>
    let x := getBench s b
    let own (k : Option Nat) : Bool := match k with | some k => k / 32 == f | none => false
    let sw := match x.sw with
      | none => none
      | some w =>
        let inc := if own w.incoming then none else w.incoming
        if own w.outgoing then (if inc.isNone then none else some { w with outgoing := none, incoming := inc, phase := .restore })
        else if own w.incoming then none else some w
    let out := own x.ctx
    let z := match x.ctx with | some k => if own x.ctx then (getCtx s k).mapped.length else 0 | none => 0
    let y := { x with sw := sw, ctx := if out then none else x.ctx, zeroing := x.zeroing + z, deep := x.deep && !out }
    if y = x then s
    else
      let s := wr (putBench s b y) Reg.benchStateCtxXfer b (match sw with | some w => bit01 (w.phase != .grace) | none => 0)
      showBench (if out && role s b == 1 then wr s Reg.benchStateRole b 0 else s) b) s
  (List.range 32).foldl (fun s c =>
    let k := ctxKey f c
    putCtx s k { Ctx.fresh with epoch := ((getCtx s k).epoch + 1) % 256 }) s

/-- The actions that end every reset of a VF, with its report (R408, R410). -/
def resetActions (s : State) (f : Nat) (r : ResetSt) : State :=
  let w := s.work
  let s := { s with work := { w with
    queues := w.queues.filter (fun e => e.1 / 64 != f)
    steps := w.steps.filter (fun e => e.1 / 64 != f)
    cmds := w.cmds.filter (fun e => e.2.owner.isRadio || e.2.owner.fn != f)
    tallies := w.tallies.filter (fun e => e.1 / 1024 != f) } }
  let s := { s with ten := { s.ten with pendBits := s.ten.pendBits.filter (fun k => k / 64 != f) } }
  let s := clearCtxs s f
  let s := wr (wr s Reg.fabVfJob f 0) Reg.vfDirtyEnable f 0
  let s := wr (wr (wr s Reg.vfErrlogTail f 0) Reg.vfErrlogHead f 0) Reg.vfErrlogDropped f 0
  let s := (List.range 64).foldl (fun s i => wr s Reg.vfErrlogEntry (4096 * f + i) 0) s
  let s := (List.range 32).foldl (fun s i => wr s Reg.tenHistBin (32 * f + i) 0) s
  let s := logErr s f (if r.squashedCmds = 0 then .ok else .resetSquashed) 4 0 r.cause
  let s := bump s Reg.vfCtlEpoch f 1
  let s := [(Reg.vfCtlCause, r.cause), (Reg.vfCtlSquashedColls, Nat.min 255 r.squashedColls),
            (Reg.vfCtlSquashedCmds, Nat.min 65535 r.squashedCmds), (Reg.vfCtlDrainedCmds, Nat.min 65535 r.drained),
            (Reg.vfCtlDrainNs, now s - r.startNs), (Reg.vfCtlReset, 0), (Reg.vfCtlForceReset, 0),
            (Reg.vfCtlFreeze, 0)].foldl (fun s e => wr s e.1 f e.2) s
  showPart (showFn (vfActive s f) f) f

/-- A migration operation ends early with its VF (R406). -/
def endMigration (s : State) (f : Nat) : State :=
  match s.ten.mig with
  | some m => if m.fn = f then { s with ten := { s.ten with mig := some { m with status := .resetSquashed } } } else s
  | none => s

/-- Commands of an admitted step that have not been read. -/
def unread (s : State) (f : Nat) : Nat :=
  ((s.work.steps.filter (fun e => e.1 / 64 == f)).map (fun e => e.2.cmdCount - e.2.nextIdx)).sum

/-- When the latest of a function's unacknowledged messages was handed to a port, or what is known already if that is later (R409). -/
def lastSent (s : State) (f : Nat) (known : Option Nat) : Option Nat :=
  (s.fab.unacked.filter (fun e => e.2.msg.srcFn == f && e.2.sent)).foldl
    (fun t e => some (match t with | some x => Nat.max x e.2.lastNs | none => e.2.lastNs)) known

/-- A forced reset starts (R409): what has not reached its point of no return is squashed, collectives abort, what has reached it drains,
and the VF's messages leave the replay store. -/
def beginReset (s : State) (f cause : Nat) (toOff : Bool) : State :=
  let mine := s.work.cmds.filter (fun e => !e.2.owner.isRadio && e.2.owner.fn == f && e.2.st != .done)
  let past (e : Nat × Cmd) : Bool := e.2.st == .committing || e.2.nk
  let gone := mine.filter (fun e => !past e)
  let stay := mine.filter past
  let colls := gone.filter (fun e => (getColl s e.1).isSome)
  let r : ResetSt := { startNs := now s, cause := cause, squashedCmds := gone.length + unread s f, squashedColls := colls.length,
                       drained := stay.length, lastNs := lastSent s f none, toOff := toOff }
  let s := { s with fab := { s.fab with unacked := s.fab.unacked.filter (fun e => e.2.msg.srcFn != f) } }
  let s := colls.foldl (fun s e => failColl s e.1 .resetSquashed 0) s
  let s := gone.foldl (fun s e => if e.2.open_ then killCmd s e.1 e.2 else s) s
  let waitsReply (e : Nat × Cmd) : Bool := e.2.st == .committing && (getColl s e.1).isNone
  let keep := (stay.filter (fun e => !waitsReply e)).map (·.1)
  let w := s.work
  let s := { s with
    fab := { s.fab with unacked := s.fab.unacked.filter (fun e => e.2.msg.srcFn != f) }
    work := { w with
      steps := w.steps.filter (fun e => e.1 / 64 != f)
      cmds := w.cmds.filter (fun e => e.2.owner.isRadio || e.2.owner.fn != f || keep.contains e.1) }
    ten := { s.ten with resets := mapSet s.ten.resets f r } }
  let s := endMigration s f
  showFn (wr (setVf s f 4) Reg.vfCtlForceReset f 1) f

/-- RESET (R410): from QUIESCED, with nothing to drain; any other state refuses. -/
def execReset (fn : Fin 513) (s : State) : Ans :=
  .next (onVf s fn (fun s =>
    if vfState s fn = 3 then
      resetActions s fn { startNs := now s, cause := 1, squashedCmds := 0, squashedColls := 0, drained := 0, lastNs := none, toOff := false }
    else ctlRefuse s fn))

/-- A forced reset from a cause: every state but OFF accepts it, RESETTING discards it. -/
def forceWith (s : State) (f cause : Nat) : State :=
  if vfState s f = 0 ∨ vfState s f = 4 then s else beginReset s f cause false

/-- FORCE_RESET (R409). -/
def execForceReset (fn : Fin 513) (s : State) : Ans := .next (onVf s fn (fun s => forceWith s fn 2))

/-- FLR (R406, R410): a PCIe function-level reset of the VF. -/
def execFlr (fn : Fin 513) (s : State) : Ans := .next (if fn.val = 0 ∨ !fnPresent s fn then s else forceWith s fn 3)

/-- Release every lot a VF owns (R154, R397). -/
def releaseLots (s : State) (f : Nat) : State :=
  (List.range 384).foldl (fun s n =>
    if lotOwnerOf s n = f ∧ lotIdle s n = true then wr (wr s Reg.lotOwnerHdm n 0) Reg.lotOwnerState n 1 else s) s

/-- FORCED_RESET_DONE (R408, R409): what had to drain has drained, and the message lifetime has passed since the VF's last message was handed
to a port; messages that the drain has handed over are discarded too. -/
def execForcedResetDone (fn : Fin 513) (s : State) : Ans :=
  .next (match mapFind s.ten.resets fn with
    | none => s
    | some r =>
      if s.work.cmds.any (fun e => !e.2.owner.isRadio && e.2.owner.fn == fn.val && e.2.st != .done) then s
      else if (match lastSent s fn r.lastNs with | some t => decide (now s < t + 16000) | none => false) then s
      else
        let s := { s with fab := { s.fab with unacked := s.fab.unacked.filter (fun e => e.2.msg.srcFn != fn.val) } }
        let s := resetActions { s with ten := { s.ten with resets := mapErase s.ten.resets fn } } fn r
        if r.toOff then freshKey (releaseLots (setVf s fn 0) fn) fn else s)

/-! ### Enabling (R397) -/

/-- A newly enabled VF. -/
def enableVf (s : State) (f : Nat) : State :=
  match mapFind s.ten.resets f with
  | some r => { s with ten := { s.ten with resets := mapSet s.ten.resets f { r with toOff := false } } }
  | none =>
    let w := s.work
    let s := { s with work := { w with queues := w.queues.filter (fun e => e.1 / 64 != f),
                                       tallies := w.tallies.filter (fun e => e.1 / 1024 != f) } }
    let s := clearCtxs s f
    let s := freshKey s f
    let s := (groupFields 3 f).foldl (fun s e => wrLive (wr s e.1 e.2 0) e.1 e.2 0) s
    vfActive s f

/-- Enable the VFs up to a number and reset those above it (R397). -/
def applyNumVfs (s : State) (m : Nat) : State :=
  let old := rd s Reg.tenInfoVfs 0
  let s := ((List.range (m + 1)).filter (fun f => old < f)).foldl enableVf s
  let s := ((List.range (old + 1)).filter (fun f => m < f)).foldl (fun s f =>
    match mapFind s.ten.resets f with
    | some r => { s with ten := { s.ten with resets := mapSet s.ten.resets f { r with toOff := true } } }
    | none => beginReset s f 2 true) s
  wr s Reg.tenInfoVfs 0 m

/-- NUM_VFS (R397): VFs are enabled, or reset and taken OFF; a number above TotalVFs is discarded and logged, and so is a raise while
debug is at VENDOR (R430). Before configuration lock the number waits for it (R446). -/
def execNumVfs (n : BitVec 16) (s : State) : Ans :=
  let m := n.toNat
  .next (
    if totalVfs s < m then logErr s 0 .badFormat 0 0 0
    else if rd s Reg.secStatusDebug 0 = 2 ∧ rd s Reg.tenInfoVfs 0 < m then logErr s 0 .permission 0 0 0
    else if rdB s Reg.readySummaryLocked 0 then applyNumVfs s m
    else { s with boot := { s.boot with numVfs := some m } })

/-! ### Quiesce, freeze and resume -/

/-- STOP (R406, R407). -/
def execStop (fn : Fin 513) (s : State) : Ans :=
  .next (onVf s fn (fun s =>
    if vfState s fn = 1 then wr (setVf s fn 2) Reg.vfCtlStop fn 1
    else if rdB s Reg.vfCtlStop fn then s else ctlRefuse s fn))

/-- STOP_CLEAR (R406): a quiescing or quiesced VF returns to ACTIVE. -/
def execStopClear (fn : Fin 513) (s : State) : Ans :=
  .next (onVf s fn (fun s =>
    if vfState s fn = 2 ∨ vfState s fn = 3 then vfActive s fn
    else if rdB s Reg.vfCtlStop fn then ctlRefuse s fn else s))

/-- QUIESCED (R407): nothing is in flight. -/
def execQuiesced (fn : Fin 513) (s : State) : Ans :=
  .next (
    if vfState s fn = 2 ∧ !s.work.steps.any (fun e => e.1 / 64 == fn.val) ∧ !s.crush.colls.any (fun e => e.2.fn == fn.val) then setVf s fn 3
    else s)

/-- Start saving the contexts a freezing VF still has on benches. -/
def emptyBenches (s : State) (f : Nat) : State :=
  (allBenches s).foldl (fun s b =>
    match (getBench s b).ctx with
    | some k => if k / 32 = f ∧ benchOpen s b = true then startSwitch s b none false else s
    | none => s) s

/-- FREEZE (R412): no step is admitted and no command dispatched; resident contexts get their grace and are saved. -/
def execFreeze (fn : Fin 513) (s : State) : Ans :=
  .next (onVf s fn (fun s =>
    if vfState s fn = 1 ∨ vfState s fn = 3 then emptyBenches (wr (setVf s fn 5) Reg.vfCtlFreeze fn 1) fn
    else ctlRefuse s fn))

/-- Everything a freeze waits for has come to rest (R412). -/
def atRest (s : State) (f : Nat) : Bool :=
  !s.work.cmds.any (fun e => !e.2.owner.isRadio && e.2.owner.fn == f && (e.2.st == .committing || e.2.running)) &&
  !s.crush.colls.any (fun e => e.2.fn == f) && !s.fab.unacked.any (fun e => e.2.msg.srcFn == f) &&
  !s.yards.benches.any (fun e => (match e.2.ctx with | some k => k / 32 == f | none => false) ||
    (match e.2.sw with | some w => (match w.incoming with | some k => k / 32 == f | none => false) | none => false))

/-- FROZEN (R412): the freeze is complete; what a bench still holds is sent to be saved. -/
def execFrozen (fn : Fin 513) (s : State) : Ans :=
  .next (
    if vfState s fn ≠ 5 then s
    else if atRest s fn then wr (setVf s fn 6) Reg.vfCtlFreeze fn 0
    else emptyBenches s fn)

/-- RESUME (R412): a FROZEN VF is ACTIVE again. -/
def execResume (fn : Fin 513) (s : State) : Ans :=
  .next (onVf s fn (fun s => if vfState s fn = 6 then vfActive s fn else ctlRefuse s fn))

/-! ### Queue sampling (R404) -/

/-- One sample of a running queue: its depth, and the age of its oldest unstarted doorbell. -/
def sampleQueue (s : State) (k : Nat) (x : Queue) : State :=
  let f := k / 64
  let d := x.depth
  let us := match x.bells with
    | [] => 1
    | b :: _ => Nat.max 1 ((now s - b.2) / 1000)
  let s := bumpSat s Reg.tenHistBin (32 * f + histBin d 1) 1
  bumpSat s Reg.tenHistBin (32 * f + 16 + (if d = 0 then 0 else histBin us 1)) 1

/-- TENANT_SAMPLE (R404). -/
def execTenantSample (s : State) : Ans :=
  .next (if rd s Reg.tenSamplePeriodUs 0 = 0 then s
    else (s.work.queues.filter (fun e => e.2.state == .running)).foldl (fun s e => sampleQueue s e.1 e.2) s)

/-- TEN_SAMPLE_CLEAR (R404): every histogram of every function is zeroed. -/
def execTenSampleClear (s : State) : Ans :=
  .next (if !reachable s 0xC00004 then logErr s 0 .notReady 0 0 0xC00004
    else (List.range 16416).foldl (fun s i => if rd s Reg.tenHistBin i = 0 then s else wr s Reg.tenHistBin i 0) s)

end Sys2Proof.Machine
end

