-- ==== Sys2Proof/Machine/Health.lean ====
section
/-! DEFINITION. Faults at the scale of many devices (R476-R489): management datagrams, evidence, the health list, shadow checks, proving
runs and quarantine; and the state of Ethernet links (R284): rows HEARTBEAT_PERIOD to ETHERNET_LINK_STATE. -/

namespace Sys2Proof.Machine

/-! ### Management datagrams (R477, Table 19.2) -/

/-- Link bit of a management port. -/
def mgmtLink (port : Nat) : Fld := if port = 0 then Reg.healthMgmtStatLink0 else Reg.healthMgmtStatLink1

/-- The 64 bytes of a datagram: kind 1 HEARTBEAT, 2 LOSS, 3 TRIP, 4 RESTARTED. -/
def datagramBytes (s : State) (kind port cause : Nat) : List Byte :=
  leBytes 4 0x314E5250 ++ leBytes 1 1 ++ leBytes 1 kind ++ leBytes 2 (ownNode s) ++ leBytes 8 (rd s Reg.secDeviceIdId 0) ++
    leBytes 2 (ownInc s) ++ leBytes 1 port ++ leBytes 1 cause ++ leBytes 4 (mapGet s.health.mgmtSeq port 0) ++ leBytes 8 (now s) ++
    leBytes 4 (rd s Reg.healthListVersion 0) ++ leBytes 4 (regWord s 0 0x10000) ++ leBytes 24 0

/-- Send a datagram on one port, if its link is up. -/
def sendDatagram (s : State) (kind cause port : Nat) : State :=
  if rdB s (mgmtLink port) 0 then
    let t := emit s (.datagram port (datagramBytes s kind port cause))
    { t with health := { t.health with mgmtSeq := mapSet t.health.mgmtSeq port ((mapGet s.health.mgmtSeq port 0 + 1) % 2 ^ 32) } }
  else s

/-- Send a datagram on each management port. -/
def notifyMgmt (s : State) (kind cause : Nat) : State := sendDatagram (sendDatagram s kind cause 0) kind cause 1

/-- A period of so many nanoseconds has passed since its row last acted, or since the start. -/
def periodOver (s : State) (k ns : Nat) : Bool := decide (mapGet s.health.ticked k 0 + ns ≤ s.clock.up)

/-- A periodic row acts now. -/
def ticked (s : State) (k : Nat) : State := { s with health := { s.health with ticked := mapSet s.health.ticked k s.clock.up } }

/-- HEARTBEAT_PERIOD (R477): every hb_ms. -/
def execHeartbeatPeriod (s : State) : Ans :=
  .next (if periodOver s 0 (rd s Reg.healthMgmtHbMs 0 * 1000000) then notifyMgmt (ticked s 0) 1 0 else s)

/-- A member of the device's own domain, as HEALTH_MEMBER lists it. -/
def isMember (s : State) (n : Nat) : Bool := sameDomain s n && rdB s Reg.healthMemberPresent (n % 64)

/-- Liveness bit of a port. -/
def mgmtBit (port : Bool) : Fld := if port then Reg.healthMemberMgmt1 else Reg.healthMemberMgmt0

/-- Change a member's liveness bit; a change raises HEALTH_CAUSE.liveness (R478). -/
def setLive (s : State) (port : Bool) (n v : Nat) : State :=
  if rd s (mgmtBit port) n = v then s else healthCause (wr s (mgmtBit port) n v) Reg.healthCauseLiveness

/-- A datagram arrives on a port: dropped and counted in the three cases of R478, else its sender has been heard, with its incarnation,
and operations toward an older one settle (R208, Table 19.1); LOSS and TRIP clear both of its bits. -/
def onDatagram (s : State) (port : Bool) (d : Datagram) (gone : Bool) : State :=
  if rdB s (mgmtLink (bit01 port)) 0 = false then s
  else if d.magic ≠ 0x314E5250 ∨ d.ver ≠ 1 ∨ d.reserved ≠ 0 ∨ sameDomain s d.node = false then bump s Reg.healthMgmtStatRxDropped 0 1
  else if !isMember s d.node then s
  else
    let n := d.node % 64
    let s := settleFabric (learnInc s d.node d.incarnation)
    let s := { s with health := { s.health with heard := mapSet s.health.heard (2 * n + bit01 port) s.clock.up } }
    let s := wr (wr s Reg.healthMemberHeardNs n (now s)) Reg.healthMemberIncarnation n d.incarnation
    if gone then setLive (setLive s false n 0) true n 0 else setLive s port n 1

/-- HEARTBEAT (R478). -/
def execHeartbeat (port : Bool) (d : Datagram) (s : State) : Ans := .next (onDatagram s port d false)

/-- LOSS_DATAGRAM (R478). -/
def execLossDatagram (port : Bool) (d : Datagram) (s : State) : Ans := .next (onDatagram s port d true)

/-- TRIP_DATAGRAM (R478). -/
def execTripDatagram (port : Bool) (d : Datagram) (s : State) : Ans := .next (onDatagram s port d true)

/-- RESTARTED (R478): the new incarnation is recorded. -/
def execRestarted (port : Bool) (d : Datagram) (s : State) : Ans :=
  .next (onDatagram s port d false)

/-- LIVENESS_TIMEOUT (R478): nothing from a member on a port within dead_ms. -/
def execLivenessTimeout (port : Bool) (node : BitVec 10) (s : State) : Ans :=
  let at_ := mapGet s.health.heard (2 * (node.toNat % 64) + bit01 port) 0
  .next (if isMember s node.toNat ∧ at_ + rd s Reg.healthMgmtDeadMs 0 * 1000000 ≤ s.clock.up then setLive s port (node.toNat % 64) 0 else s)

/-! ### Scores (R480) -/

/-- SCORE_DECAY (R480): every decay_s every score loses an eighth, rounded up; at suspect_off or below a member stops being a suspect. -/
def execScoreDecay (s : State) : Ans :=
  .next (if !periodOver s 1 (rd s Reg.healthScoreCfgDecayS 0 * 1000000000) then s else
    (List.range 64).foldl (fun s n =>
    let v := rd s Reg.healthMemberScore n
    let v' := v - cdiv v 8
    let s := if v = 0 then s else wr s Reg.healthMemberScore n v'
    if rdB s Reg.healthMemberSuspect n ∧ v' ≤ rd s Reg.healthScoreCfgSuspectOff 0 then wr s Reg.healthMemberSuspect n 0 else s) (ticked s 1))

/-! ### Evidence (R481) -/

/-- The window of expulsions and evidence, ns. -/
def windowNs (s : State) : Nat := rd s Reg.healthListCfgWindowH 0 * 3600000000000

/-- Show a member's unexpired evidence. -/
def showEvidence (s : State) (n : Nat) : State :=
  let es := s.health.evidence.filter (fun e => e.node % 64 == n)
  let bits := bit01 (es.any (fun e => !e.proving)) + 2 * bit01 (es.any (fun e => e.proving))
  wr (wr s Reg.healthMemberEvidence n bits) Reg.healthMemberEvidenceNs n ((es.map (·.time)).foldl Nat.max 0)

/-- Apply an evidence record: stored once, shown, and noted for the persistent record. -/
def applyEvidence (s : State) (e : Evidence) : State :=
  if !isMember s e.node ∨ s.health.evidence.contains e then s
  else
    let s := recMark { s with health := { s.health with evidence := s.health.evidence ++ [e] } }
    healthCause (showEvidence s (e.node % 64)) Reg.healthCauseEvidence

/-- Flood a record about a unit of this device, or of a named node. -/
def floodEvidence (s : State) (node : Nat) (proving : Bool) (unit : Nat) : State :=
  let e : Evidence := { node := node, proving := proving, unit := unit, time := now s }
  emit (applyEvidence s e) (.evidence e)

/-- EVIDENCE (R481): the manager names a node. -/
def execEvidence (node : BitVec 10) (s : State) : Ans :=
  let n := node.toNat
  .next (if !reachable s 0xF00048 then logErr s 0 .notReady 0 0 0xF00048
    else
      let s := wr s Reg.healthEvidenceNode 0 n
      if isMember s n then wr (floodEvidence s n false 0) Reg.healthEvidenceStatus 0 Status.ok.code
      else wr s Reg.healthEvidenceStatus 0 Status.badFormat.code)

/-- EVIDENCE_RECORD (R481). -/
def execEvidenceRecord (e : Evidence) (s : State) : Ans := .next (applyEvidence s e)

/-! ### The health list (R479, R482-R484) -/

/-- EXPEL changes within the window. -/
def expelsNow (s : State) : List Nat := s.health.expels.filter (fun t => now s < t + windowNs s)

/-- Show HEALTH_LIST's counts and whether this device is watched. -/
def showList (s : State) : State :=
  let lists := (List.range 64).map (rd s Reg.healthMemberList)
  let s := wr (wr s Reg.healthListSpoiled 0 (lists.filter (2 ≤ ·)).length) Reg.healthListWatched 0 (lists.filter (· == 1)).length
  let s := wr s Reg.healthListExpels 0 (Nat.min 15 (expelsNow s).length)
  wr s Reg.healthShadowActive 0 (bit01 (lists.getD (ownNode s % 64) 0 == 1))

/-- EVIDENCE_EXPIRY (R481, R482): records and expulsions leave the window. -/
def execEvidenceExpiry (s : State) : Ans :=
  let keep := s.health.evidence.filter (fun e => now s < e.time + windowNs s)
  let s := { s with health := { s.health with evidence := keep, expels := expelsNow s } }
  .next (showList ((List.range 64).foldl showEvidence s))

/-- Entry of an operation in HEALTH_MEMBER.list. -/
def listEntry : HOp → Nat
  | .expel => 2 | .dead => 3 | .watch => 1 | .remove => 0

/-- What the issuing device asks of an operation (R479, R482): none when it is allowed. -/
def listRefused (s : State) (op : HOp) (n : Nat) : Option Status :=
  let m := n % 64
  if !isMember s n then some .badFormat
  else match op with
    | .remove => none
    | .watch => if rdB s Reg.healthMemberSuspect m then none else some .permission
    | .dead =>
      let peers := (List.range 64).filter (fun a => a != m && (a / 8 == m / 8 || a % 8 == m % 8))
      if rdB s Reg.healthMemberMgmt0 m || rdB s Reg.healthMemberMgmt1 m || peers.any (fun a => linkUsable s (n / 64 * 64 + a) n) then
        some .permission
      else none
    | .expel =>
      if rdB s Reg.healthMemberSuspect m = false ∨ s.health.evidence.any (fun e => e.node == n && decide (now s < e.time + windowNs s)) = false then
        some .permission
      else if rd s Reg.healthListCfgBudget 0 ≤ (expelsNow s).length then some .quota
      else none

/-- Apply a change: the entry, the version, the budget, and what a spoiled member means for what is on its way to it (R219, R484). -/
def applyChange (s : State) (c : HChange) : State :=
  let before := ((List.range 64).map (fun n => (n, rd s Reg.healthMemberList n))).filter (fun e => e.2 != 0)
  let s := { s with health := { s.health with
    last := some c, prevList := before, prevExpels := s.health.expels
    expels := if c.op = .expel then s.health.expels ++ [now s] else s.health.expels } }
  let s := wr (wr s Reg.healthMemberList (c.node % 64) (listEntry c.op)) Reg.healthListVersion 0 c.version
  let s := healthCause (recMark (showList s)) Reg.healthCauseList
  let due := s.fab.unacked.filter (fun e => e.2.msg.dstNode == c.node && spoiledFor s c.node e.2.msg.cls)
  let s := settleFabric (failover (due.foldl (fun s e => settleOne s e.1 .targetDead false) s))
  if spoiled s c.node then loseMember s c.node else s

/-- Issue a change with the next version: applied here and flooded (R483). -/
def issueChange (s : State) (op : HOp) (n : Nat) : State :=
  let c : HChange := { version := (rd s Reg.healthListVersion 0 + 1) % 2 ^ 32, origin := ownNode s, op := op, node := n }
  emit (applyChange s c) (.listChange c)

/-- Carry out a command under R482, with its status; an expulsion beyond the budget enters the watch set instead. -/
def tryChange (s : State) (op : HOp) (n : Nat) : State :=
  let done (s : State) (st : Status) : State := wr s Reg.healthListCmdStatus 0 st.code
  match listRefused s op n with
  | none => done (issueChange s op n) .ok
  | some .quota => done (issueChange s .watch n) .quota
  | some st => done s st

/-- HEALTH_LIST_CMD (Table 19.8). -/
def listCmd (s : State) (op : HOp) (code n : Nat) : State :=
  if !reachable s 0xF00040 then logErr s 0 .notReady 0 0 0xF00040
  else tryChange (wr (wr s Reg.healthListCmdNode 0 n) Reg.healthListCmdOp 0 code) op n

/-- EXPEL (R482). -/
def execExpel (node : BitVec 10) (s : State) : Ans := .next (listCmd s .expel 1 node.toNat)

/-- DEAD (R479). -/
def execDead (node : BitVec 10) (s : State) : Ans := .next (listCmd s .dead 2 node.toNat)

/-- WATCH (R482). -/
def execWatch (node : BitVec 10) (s : State) : Ans := .next (listCmd s .watch 3 node.toNat)

/-- REMOVE (R482). -/
def execRemove (node : BitVec 10) (s : State) : Ans := .next (listCmd s .remove 4 node.toNat)

/-- Take back the newest change (R483). -/
def revertChange (s : State) : State :=
  let h := s.health
  let s := (List.range 64).foldl (fun s n => wr s Reg.healthMemberList n ((h.prevList.find? (fun e => e.1 == n)).elim 0 (·.2))) s
  { s with health := { s.health with expels := h.prevExpels } }

/-- Apply the changes kept ahead of their turn, as far as the versions go on. -/
def applyEarly (fuel : Nat) (s : State) : State :=
  match fuel with
  | 0 => s
  | k + 1 =>
    match s.health.early.find? (fun c => c.version == (rd s Reg.healthListVersion 0 + 1) % 2 ^ 32) with
    | none => s
    | some c => applyEarly k (applyChange { s with health := { s.health with early := s.health.early.filter (· != c) } } c)

/-- LIST_CHANGE (R483): applied in version order; of two changes with one version the lower origin's stands, and the device that issued the
other checks it again and applies it with the next version, or completes it with the status of R482. -/
def execListChange (c : HChange) (s : State) : Ans :=
  let v := rd s Reg.healthListVersion 0
  .next (if !isMember s c.node then s
    else if c.version = (v + 1) % 2 ^ 32 then applyEarly s.health.early.length (applyChange s c)
    else if c.version = v then
      (match s.health.last with
        | none => s
        | some l =>
          if l.version = v ∧ c.origin < l.origin then
            let s := applyChange (revertChange s) c
            if l.origin = ownNode s then tryChange s l.op l.node else s
          else s)
    else if v < c.version ∧ !s.health.early.contains c then { s with health := { s.health with early := s.health.early ++ [c] } }
    else s)

/-! ### Quarantine (R362, R433, R488) -/

/-- A bench is quarantined: role 3, it leaves the rotation set and is not replaced, its context is removed by context switch, and the
persistent record keeps it. -/
def quarantine (s : State) (b : Nat) : State :=
  let s := recMark (wr s Reg.healthQuarBenches 0 (rd s Reg.healthQuarBenches 0 ||| 2 ^ b))
  let s := if inRotation s b then
      wr (wr (wr s Reg.bankRotMaskMask 0 (rd s Reg.bankRotMaskMask 0 ^^^ 2 ^ b)) Reg.bankRotCount 0 (rd s Reg.bankRotCount 0 - 1))
        Reg.benchStateRotation b 0
    else s
  let x := getBench s b
  let sw := match x.sw with
    | none => none
    | some w => if w.outgoing.isNone then none else some { w with incoming := none }
  let s := putBench s b { x with sw := sw, chosen := [] }
  let s := if sw.isNone then wr s Reg.benchStateCtxXfer b 0 else s
  let s := if sw.isNone ∧ x.ctx.isSome then startSwitch s b none false else s
  wr s Reg.benchStateRole b 3

/-! ### Shadow checks (R485) -/

/-- A bench that a shadow run may use: a tenant bench that is free and holds no context. -/
def shadowBench (s : State) (c : Cmd) (b : Nat) : Bool := benchOpen s b && b != c.bench && (getBench s b).ctx.isNone

/-- A killed command of a shadow check goes back to its stream. -/
def shadowKill (s : State) (cid : Nat) (c : Cmd) : State := killAll s c.bench [(cid, c)]

/-- SHADOW_COMPARE (R485): the assays of the primary and its shadow run, and of a third run when they differ. -/
def execShadowCompare (cid : Nat) (bench : BitVec 5) (assay : BitVec 64) (third : Option (BitVec 5 × BitVec 64)) (s : State) : Ans :=
  .next (match getCmd s cid with
    | none => s
    | some c =>
      if c.st ≠ .issued ∨ c.member = true ∨ shadowSelected s c = false ∨ c.checked = true ∨ shadowBench s c bench.toNat = false then s
      else if assay.toNat = c.assay then putCmd (bump s Reg.healthShadowChecks 0 1) cid { c with checked := true }
      else match third with
        | none => s
        | some (b3, a3) =>
          if b3 = bench ∨ shadowBench s c b3.toNat = false then s
          else
            let s := bump (bump s Reg.healthShadowChecks 0 1) Reg.healthShadowMismatches 0 1
            let s := healthCause s Reg.healthCauseShadow
            if a3.toNat = c.assay then floodEvidence (quarantine (shadowKill s cid c) bench.toNat) (ownNode s) false bench.toNat
            else if a3 = assay then floodEvidence (quarantine (shadowKill s cid c) c.bench) (ownNode s) false c.bench
            else
              let s := shadowKill s cid c
              let s := match getCmd s cid with
                | none => s
                | some k => finish s cid { k with kills := c.kills } .internal 0
              let s := drawn (faultRecord s (Config.unstated s.free % 256) 0 c.tag 0 0)
              floodEvidence s (ownNode s) false c.bench)

/-- SHADOW_TIMEOUT (R485): no shadow bench within 1 ms; the command commits unchecked. -/
def execShadowTimeout (cid : Nat) (s : State) : Ans :=
  .next (match getCmd s cid with
    | none => s
    | some c =>
      if c.st ≠ .issued ∨ c.member = true ∨ shadowSelected s c = false ∨ c.checked = true ∨ (allBenches s).any (shadowBench s c) = true then s
      else putCmd (bump s Reg.healthShadowSkipped 0 1) cid { c with checked := true })

/-! ### Proving (R486-R488) -/

/-- A bench that may be proved: free, no context, no reservation chosen for it. -/
def proveBench (s : State) (b : Nat) : Bool := benchOpen s b && (getBench s b).ctx.isNone && (getBench s b).chosen == []

/-- A Sieve engine that may be proved. -/
def proveEngine (s : State) (e : Nat) : Bool := rdB s Reg.sieveEngEnabled e && !rdB s Reg.sieveEngQuarantined e && fnReady s 18

/-- A unit that may be proved now. -/
def proveUnit (s : State) (engine : Bool) (u : Nat) : Bool := if engine then proveEngine s u else proveBench s u

/-- Length of a pattern, ns, at the A-clock's step (Table 19.4). -/
def proveLen (s : State) (p : Nat) : Nat :=
  [47000, 180000, 60000, 250000, 1000000, 340000, 50000].getD p 0 * [12, 16, 24].getD (rd s Reg.timeClkStatusADiv 0) 24 / 12

/-- An idle window is long enough: the bench's next known event lies at least the pattern's length and 10 µs away (R487). -/
def proveRoom (s : State) (engine : Bool) (u p : Nat) : Bool :=
  engine || (match nextEvent s u with | some d => decide (proveLen s p + 10000 ≤ d) | none => true)

/-- PROVING_RUN (R487): a run of the sweep, or one in an idle window: patterns 0 to 5 on benches with loads 0 and 1, pattern 6 on Sieve
engines. -/
def execProvingRun (unit : BitVec 6) (engine : Bool) (pattern : BitVec 3) (load : BitVec 2) (s : State) : Ans :=
  let u := unit.toNat
  let p := pattern.toNat
  let swept : ProveRun := { unit := u, engine := engine, pattern := p, load := load.toNat, sweep := true }
  let h := s.health
  .next (if proveUnit s engine u = false ∨ h.runs.any (fun r => r.unit == u && r.engine == engine) = true then s
    else if h.due.contains swept then { s with health := { h with due := h.due.filter (· != swept), runs := h.runs ++ [swept] } }
    else if rd s Reg.healthProveState 0 = 1 ∨ rdB s Reg.healthProveIdleEnable 0 = false ∨ (engine != (p == 6)) = true ∨ 1 < load.toNat ∨ p = 7 ∨
      proveRoom s engine u p = false then s
    else { s with health := { h with runs := h.runs ++ [{ swept with sweep := false }] } })

/-- A log entry (Table 19.6). -/
def proveEntry (s : State) (r : ProveRun) (pass inBand : Bool) : Nat :=
  let b := match s.power.band with
    | some b => (b.lo, b.hi)
    | none => (0, 0)
  now s + r.pattern * 2 ^ 64 + r.load * 2 ^ 68 + r.unit * 2 ^ 70 + bit01 r.engine * 2 ^ 76 + bit01 pass * 2 ^ 77 +
    bit01 (inBand && rd s Reg.thermBandState 0 == 2) * 2 ^ 78 + rd s Reg.thermTempDie 0 * 2 ^ 80 + b.1 % 128 * 2 ^ 88 + b.2 % 128 * 2 ^ 95

/-- Write an entry to the proving log; with 63 unread entries it is discarded and counted. -/
def proveLog (s : State) (e : Nat) : State :=
  let t := rd s Reg.healthProveIdxTail 0
  if (t + 64 - rd s Reg.healthProveIdxHead 0) % 64 = 63 then bumpSat s Reg.healthProveIdxDropped 0 1
  else wr (wr s Reg.healthProveLogEntry t e) Reg.healthProveIdxTail 0 ((t + 1) % 64)

/-- A failed run (R488). -/
def proveFailed (s : State) (r : ProveRun) (entry : Nat) : State :=
  let s := { s with health := { s.health with fails := (entry :: s.health.fails).take 256,
                                              due := s.health.due.filter (fun d => !(d.unit == r.unit && d.engine == r.engine)) } }
  let s := if r.engine then recMark (wr s Reg.sieveEngQuarantined r.unit 1) else quarantine s r.unit
  healthCause (proveLog (floodEvidence s (ownNode s) true (r.unit + 64 * bit01 r.engine)) entry) Reg.healthCauseProving

/-- PROVING_RESULT (R487, R488): a run whose unit has been dispatched to or reserved meanwhile is discarded. -/
def execProvingResult (unit : BitVec 6) (engine pass inBand : Bool) (s : State) : Ans :=
  let u := unit.toNat
  .next (match s.health.runs.find? (fun r => r.unit == u && r.engine == engine) with
    | none => s
    | some r =>
      let s := { s with health := { s.health with runs := s.health.runs.filter (· != r) } }
      let entry := proveEntry s r pass inBand
      sweepDone (
        if proveUnit s engine u = false then
          (if r.sweep ∧ engine = false then wr s Reg.healthProveSkipped 0 (rd s Reg.healthProveSkipped 0 ||| 2 ^ u) else s)
        else
          let s := { s with health := { s.health with proved := insertNat s.health.proved (u + 64 * bit01 engine) } }
          if !pass then proveFailed s r entry
          else if r.sweep then proveLog s entry else s))

/-- PROVING_PERIOD (R487): a period in which not every bench and engine was proved counts as missed. -/
def execProvingPeriod (s : State) : Ans :=
  let benches := (allBenches s).filter (fun b => role s b != 3 && fnReady s (32 + b))
  let engines := (List.range 64).filter (proveEngine s)
  let all := benches ++ engines.map (64 + ·)
  let s' := ticked { s with health := { s.health with proved := [] } } 2
  .next (if !periodOver s 2 (rd s Reg.healthProveIdlePeriodS 0 * 1000000000) then s
    else if rdB s Reg.healthProveIdleEnable 0 ∧ !all.all (fun u => s.health.proved.contains u) then bump s' Reg.healthProveMissed 0 1 else s')

/-- SWEEP (R487): every pattern and load of the masks on every idle bench and engine; the other benches are listed as skipped. -/
def execSweep (s : State) : Ans :=
  let ps := bitList 7 (rd s Reg.healthProvePatterns 0)
  let ls := bitList 4 (rd s Reg.healthProveLoads 0)
  let on (engine : Bool) (us ps : List Nat) : List ProveRun :=
    us.flatMap (fun u => ps.flatMap (fun p => ls.map (fun l => { unit := u, engine := engine, pattern := p, load := l, sweep := true })))
  let idle := (allBenches s).filter (proveBench s)
  let engines := (List.range 64).filter (proveEngine s)
  .next (if !reachable s 0xF00064 then logErr s 0 .notReady 0 0 0xF00064
    else if rd s Reg.healthProveState 0 = 1 then s
    else
      let s := { s with health := { s.health with due := on false idle (ps.filter (· < 6)) ++ on true engines (ps.filter (· == 6)) } }
      let s := wr s Reg.healthProveSkipped 0 (ofBitList ((allBenches s).filter (fun b => !idle.contains b)))
      sweepDone (wr s Reg.healthProveState 0 1))

/-- QUARANTINE_RELEASE (R488): the benches are released, and proved again, at the next start. -/
def execQuarantineRelease (mask : BitVec 32) (s : State) : Ans :=
  .next (if !reachable s 0xF00074 then logErr s 0 .notReady 0 0 0xF00074
    else recMark { s with health := { s.health with release := s.health.release ||| mask.toNat } })

/-! ### Ethernet links (R284) -/

/-- Sub-ports of a fronthaul port in its mode: one, two or four. -/
def subPorts (s : State) (p : Nat) : Nat := match rd s Reg.fhPortMode p with | 0 => 1 | 1 => 2 | _ => 4

/-- ETHERNET_LINK_STATE (R284, R221): a link of a sub-port, a management port or an outer port in ETHERNET mode comes up or goes down. -/
def execEthernetLinkState (port : EthPort) (up : Bool) (s : State) : Ans :=
  .next (match port with
    | .fronthaul p i =>
      if fnReady s 3 ∧ p < rd s Reg.caps1FronthaulPorts 0 ∧ i < subPorts s p then
        let was := rd s Reg.fhPortLinkUp p
        wr s Reg.fhPortLinkUp p (bitsSet was i 1 (bit01 up))
      else s
    | .mgmt p => if p < 2 ∧ 1 ≤ rd s Reg.readyFnState (5 + p) then wr s (mgmtLink p) 0 (bit01 up) else s
    | .outer p =>
      if (p = 14 ∧ rdB s Reg.jeanoCfgEth14 0) ∨ (p = 15 ∧ rdB s Reg.jeanoCfgEth15 0) then setPort s p (if up then 2 else 0) else s)

end Sys2Proof.Machine
end

