-- ==== Sys2Proof/Machine/Migration.lean ====
section
/-! DEFINITION. Migration (R413-R415): the descriptor, the image with its state and lot sections, and rows SAVE_LIVE, SAVE_FINAL, RESTORE
and MIGRATION_COMPLETE. The layout inside the state section that R414 leaves open is the model's. -/

namespace Sys2Proof.Machine

/-! ### The descriptor (Table 15.8) -/

/-- The 64 bytes of the descriptor, as a number. -/
def migDesc (s : State) : Nat := memNat s (rd s Reg.migDescPa 0 / 64 * 64) 64

/-- Its format is wrong: a reserved field, a reserved op, a field that the op does not use. -/
def migBad (d : Nat) : Bool :=
  let op := bitsOf d 4 2
  let fn := bitsOf d 16 10
  bitsOf d 0 4 != 1 || op == 3 || bitsOf d 7 9 != 0 || bitsOf d 26 38 != 0 || bitsOf d 64 6 != 0 || bitsOf d 112 16 != 0 ||
    bitsOf d 212 12 != 0 || bitsOf d 288 224 != 0 || fn == 0 || 512 < fn || (bitOf d 6 && bitsOf d 192 20 != 0) ||
    (op != 2 && bitsOf d 224 64 != 0)

/-- Read the image's space: host memory of PF0's PASID, or the manager reserve. -/
def migRead (s : State) (d off n : Nat) : State × Except Status (List Byte) :=
  let a := bitsOf d 64 48 + off
  if bitOf d 6 then
    if !inReserve s a n then (s, .error .translationFault)
    else match readRuns s 5 0 [(a, n)] with
      | (s, .error _) => (s, .error .memUe)
      | (s, .ok bs) => (s, .ok bs)
  else (s, if hostOk s (bitsOf d 192 20) a n then .ok (hostBytes s (bitsOf d 192 20) a n) else .error .translationFault)

/-- The image's space takes n bytes. -/
def migFits (s : State) (d n : Nat) : Bool :=
  let a := bitsOf d 64 48
  if bitOf d 6 then inReserve s a n else hostOk s (bitsOf d 192 20) a n

/-- Write the image. -/
def migWrite (s : State) (d : Nat) (bs : List Byte) : State :=
  let a := bitsOf d 64 48
  if bitOf d 6 then dramStore s a bs else { s with host := hostPut s.host (bitsOf d 192 20) a bs }

/-! ### The state section -/

/-- A queue block as Table 05.2 lays it out; the completion phase lies in a reserved bit of the last words. -/
def queueBlock (s : State) (f q : Nat) : List Byte :=
  let x := getQ s (qKey f q)
  leBytes 8 (x.sqBase * 64) ++ leBytes 8 (x.cqBase * 64) ++
    ([0x10, 0x14, 0x18, 0x1C, 0x20, 0x24, 0x28, 0x2C, 0x30].flatMap (fun o => leBytes 4 (queueWord s f q o))) ++
    leBytes 12 (bit01 x.phase)

/-- A queue as a block holds it; its doorbells count as rung now. -/
def queueFrom (bs : List Byte) (busy : Bool) (t : Nat) : Queue :=
  let w := leNat bs
  let cfg := bitsOf w 128 32
  let x : Queue :=
    { sqBase := bitsOf w 6 42, cqBase := bitsOf w 70 42, sqLog := bitsOf cfg 0 4, cqLog := bitsOf cfg 4 4, sqHost := bitOf cfg 8,
      cqHost := bitOf cfg 9, prio := bitsOf cfg 10 2, msix := bitsOf cfg 12 6, stopOnError := bitOf cfg 18, pasid := bitsOf w 160 20,
      enable := bitOf w 192,
      state := (match bitsOf w 224 2 with | 0 => .disabled | 1 => .running | 2 => .stopping | _ => .error),
      lastStatus := statusOfCode (bitsOf w 232 8), sqTail := bitsOf w 256 12, sqHead := bitsOf w 288 12, cqHead := bitsOf w 320 12,
      cqTail := bitsOf w 352 12, steps := bitsOf w 384 32, phase := bitOf w 416, busy := busy, bells := [] }
  { x with bells := if x.depth = 0 then [] else [(x.depth, t)] }

/-- Two-bit state of a command: not issued, issued and not completed, completed (R414). -/
def migState (c : Cmd) : Nat := match c.st with | .waiting => 0 | .done => 2 | _ => 1

/-- Fill up to a multiple of 64 bytes. -/
def pad64 (bs : List Byte) : List Byte := bs ++ List.replicate (cdiv bs.length 64 * 64 - bs.length) 0

/-- The record of an admitted step. -/
def stepBlock (s : State) (f q : Nat) (x : StepSt) : List Byte :=
  let cs := (stepCmds s f q).map (·.2)
  let states := (List.range x.cmdCount).map (fun i => match cs.find? (fun c => c.idx == i) with | some c => migState c | none => 0)
  let codes := (states.zipIdx.map (fun p => p.1 * 4 ^ p.2)).sum
  leBytes 2 q ++ leBytes 2 x.sqIndex ++ leBytes 4 x.cmdCount ++ leBytes 64 x.entry ++ leBytes (cdiv x.cmdCount 4) codes ++
    (cs.filter (fun c => c.st == .done)).flatMap Cmd.record

/-- Contexts that are not empty. -/
def savedCtxs (s : State) (f : Nat) : List Nat := (List.range 32).filter (fun c => (getCtx s (ctxKey f c)).res == .saved)

/-- Bytes of a whole save slot. -/
def slotBytes (s : State) (f c : Nat) : List Byte := memBytes s (slotBase s f c) (13 * 2 ^ 20)

/-- The state section (R414). -/
def stateSection (s : State) (f : Nat) : List Byte :=
  let steps := s.work.steps.filter (fun e => e.1 / 64 == f)
  let ctxs := savedCtxs s f
  pad64 ((List.range 64).flatMap (queueBlock s f) ++ (List.range 1024).flatMap (fun t => leBytes 4 (tallyGet s f t)) ++
    leBytes 4 steps.length ++ steps.flatMap (fun e => stepBlock s f (e.1 % 64) e.2) ++ leBytes 4 (ofBitList ctxs) ++
    ctxs.flatMap (slotBytes s f))

/-! ### The image (Table 15.9) -/

/-- The lots of an image: the VF's, in ascending order, but for its save lot. -/
def imageLots (s : State) (f : Nat) : List Nat :=
  (List.range (rd s Reg.caps0DramLots 0)).filter (fun n => lotOwnerOf s n == f && lotIdle s n && n != rd s Reg.bankPartSaveLot f)

/-- The lot section, every lot in full. -/
def lotsFull (s : State) (lots : List Nat) : List Byte := lots.flatMap (fun n => memBytes s (n * 2 ^ 30) (2 ^ 30))

/-- The lot section, the regions written since SAVE_LIVE. -/
def lotsMarked (s : State) (f : Nat) (lots : List Nat) : List Byte :=
  lots.zipIdx.flatMap (fun l =>
    ((mapGet s.ten.marks f []).filter (fun r => r / 512 == l.1)).flatMap (fun r =>
      leBytes 64 (l.2 + r % 512 * 2 ^ 16) ++ memBytes s (r * 2 ^ 21) (2 ^ 21)))

/-- The image of a body: its clear header, and the body encrypted. -/
def imageBytes (s : State) (f phase : Nat) (full : Bool) (lots liveId : Nat) (body : List Byte) : List Byte :=
  let enc := xtsLines true (slotKey s f) 0 (body.length / 64) body
  leBytes 64 (1 + phase * 2 ^ 4 + bit01 full * 2 ^ 6 + f * 2 ^ 16 + lots * 2 ^ 26 + rd s Reg.detSignatureSignature 0 * 2 ^ 64 +
    liveId * 2 ^ 128 + keyCheck s f * 2 ^ 192 + body.length * 2 ^ 256 + crc64 enc * 2 ^ 320) ++ enc

/-- Start an operation whose outcome MIGRATION_COMPLETE shows. -/
def migOpen (s : State) (op fn : Nat) (st : Status) (bytes : Nat) : State :=
  wr { s with ten := { s.ten with mig := some { op := op, fn := fn, status := st, bytes := bytes } } } Reg.migCtrlGo 0 1

/-- The rules every SAVE checks first (R413). -/
def saveRefused (s : State) (d : Nat) : Option Status :=
  let f := bitsOf d 16 10
  let st := vfState s f
  if !inReserve s (rd s Reg.migDescPa 0 / 64 * 64) 64 then some .badFormat
  else if badLine s (rd s Reg.migDescPa 0 / 64) then some .memUe
  else if migBad d then some .badFormat
  else if !fnPresent s f ∨ (bitsOf d 4 2 = 1 ∧ st ≠ 6) ∨ (bitsOf d 4 2 = 0 ∧ st ≠ 1 ∧ st ≠ 6) then some .permission
  else if imageLots s f ≠ [] ∧ s.mem.delivered.contains f = false then some .permission
  else none

/-- Write a finished image, or fail without writing. -/
def saveImage (s : State) (d : Nat) (img : List Byte) : State :=
  let f := bitsOf d 16 10
  let op := bitsOf d 4 2
  let runs := (imageLots s f).map (fun n => (n * 2 ^ 30, 2 ^ 30))
  if bitsOf d 128 64 < img.length then migOpen s op f .badFormat 0
  else if !migFits s d img.length then migOpen s op f .translationFault 0
  else match senseRuns s 5 0 runs with
    | (s, some _) => migOpen s op f .memUe 0
    | (s, none) => migOpen (migWrite s d img) op f .ok img.length

/-- An operation of the row's kind may start: no other runs, and the descriptor names it or no valid op at all. -/
def migTurn (s : State) (op : Nat) : Bool :=
  s.ten.mig.isNone && (bitsOf (migDesc s) 4 2 == op || bitsOf (migDesc s) 4 2 == 3) && reachable s 0xC00010

/-- SAVE_LIVE (R413, R414): every lot in full, and region marking begins. -/
def execSaveLive (s : State) : Ans :=
  let d := migDesc s
  let f := bitsOf d 16 10
  .next (
    if !migTurn s 0 then s
    else match saveRefused s d with
      | some st => migOpen s 0 f st 0
      | none =>
        let lots := imageLots s f
        let id := Config.entropy s.free % 2 ^ 64
        let s := drawn s
        let img := imageBytes s f 0 true lots.length id (lotsFull s lots)
        let s := saveImage s d img
        match s.ten.mig with
        | some m =>
          if m.status = .ok then { s with ten := { s.ten with
            liveOut := mapSet s.ten.liveOut f id, liveLots := mapSet s.ten.liveLots f lots, marks := mapSet s.ten.marks f [] } }
          else s
        | none => s)

/-- SAVE_FINAL (R413, R414): the state section, and the regions written since a SAVE_LIVE of the same lots, or every lot. -/
def execSaveFinal (s : State) : Ans :=
  let d := migDesc s
  let f := bitsOf d 16 10
  .next (
    if !migTurn s 1 then s
    else match saveRefused s d with
      | some st => migOpen s 1 f st 0
      | none =>
        let lots := imageLots s f
        let part := (mapFind s.ten.liveOut f).filter (fun _ => mapGet s.ten.liveLots f [] == lots)
        let body := stateSection s f ++ (match part with | some _ => lotsMarked s f lots | none => lotsFull s lots)
        saveImage s d (imageBytes s f 1 part.isNone lots.length (part.getD 0) body))

/-! ### RESTORE (R415) -/

/-- Load a step record: the step is rebuilt from its entry and its image, and its commands stand where they stood. Answers the state and
the bytes that follow. -/
def loadStep (s : State) (f : Nat) (bs : List Byte) : State × List Byte :=
  let q := leNat (bs.take 2)
  let ring := leNat ((bs.drop 2).take 2)
  let n := leNat ((bs.drop 4).take 4)
  let e := leNat ((bs.drop 8).take 64)
  let codes := leNat ((bs.drop 72).take (cdiv n 4))
  let rest := bs.drop (72 + cdiv n 4)
  let code (i : Nat) : Nat := bitsOf codes (2 * i) 2
  let k := qKey f q
  let s := putQ s k { getQ s k with busy := true }
  let hdr := match (spaceRead s f (bitOf e 4) (getQ s k).pasid (bitsOf e 128 48) 64).2 with
    | .ok hb => leNat hb
    | .error _ => 0
  let x : StepSt :=
    { stepId := bitsOf e 64 64, imageHost := bitOf e 4, imageAddr := bitsOf e 128 48, recordHost := bitOf e 5,
      recordAddr := bitsOf e 192 48, notify := bitOf e 6, assayCheck := bitOf e 7, expected := bitsOf e 256 64, sqIndex := ring, entry := e,
      vbCount := bitsOf hdr 8 6, cmdCount := n, imageLen := bitsOf hdr 64 32, nextPos := 64, nextIdx := 0, failing := false, cut := false,
      admitNs := now s, lastNs := now s }
  let s := (List.range n).foldl (fun s _ => match getStep s k with | some y => readNext s f q y | none => s) (putStep s k x)
  let dones := (List.range n).filter (fun i => code i == 2)
  let rec_ (i : Nat) : Nat := leNat ((rest.drop (32 * i)).take 32)
  let s := (stepCmds s f q).foldl (fun s c =>
    if c.2.st = .done then s
    else if code c.2.idx = 1 then putCmd s c.1 { c.2 with st := .requeued }
    else if code c.2.idx = 2 then
      let r := rec_ ((dones.filter (· < c.2.idx)).length)
      finish (putCmd s c.1 c.2) c.1
        { c.2 with accFlags := bitsOf r 8 4, hasOut := bitOf r 12, kills := bitsOf r 32 8, assay := bitsOf r 64 64, commitNs := bitsOf r 128 64 }
        (statusOfCode (bitsOf r 0 8)) (bitsOf r 192 64)
    else s) s
  (s, rest.drop (32 * dones.length))

/-- Load the records of n steps. -/
def loadSteps (n : Nat) (s : State) (f : Nat) (bs : List Byte) : State × List Byte :=
  match n with
  | 0 => (s, bs)
  | k + 1 => let r := loadStep s f bs
             loadSteps k r.1 f r.2

/-- Load the slots of the listed contexts. -/
def loadCtxs (cs : List Nat) (s : State) (f : Nat) (bs : List Byte) : State × List Byte :=
  match cs with
  | [] => (s, bs)
  | c :: t =>
    let s := dramStore s (slotBase s f c) (bs.take (13 * 2 ^ 20))
    let s := putCtx s (ctxKey f c) { getCtx s (ctxKey f c) with res := .saved, epoch := memNat s (slotBase s f c + 7) 1 }
    loadCtxs t s f (bs.drop (13 * 2 ^ 20))

/-- Load the state section: queue blocks, tallies, step records and context slots replace the target's (R415). -/
def loadState (s : State) (f : Nat) (bs : List Byte) : State × List Byte :=
  let s := (List.range 64).foldl (fun s q =>
    let b := (bs.drop (64 * q)).take 64
    putQ s (qKey f q) (queueFrom b false (now s))) s
  let s := (List.range 1024).foldl (fun s t => tallyPut s f t (leNat ((bs.drop (4096 + 4 * t)).take 4))) s
  let rest := bs.drop 8192
  let r := loadSteps (leNat (rest.take 4)) s f (rest.drop 4)
  let cs := bitList 32 (leNat (r.2.take 4))
  let r := loadCtxs cs r.1 f (r.2.drop 4)
  let used := bs.length - r.2.length
  (r.1, bs.drop (cdiv used 64 * 64))

/-- Load lots written in full, in list order. -/
def loadLots (s : State) (lots : List Nat) (bs : List Byte) : State :=
  (lots.zipIdx).foldl (fun s l => dramStore s (l.1 * 2 ^ 30) ((bs.drop (l.2 * 2 ^ 30)).take (2 ^ 30))) s

/-- Load marked regions: a 64-byte record and 2 MiB each. -/
def loadRegions (n : Nat) (s : State) (lots : List Nat) (bs : List Byte) : State :=
  match n with
  | 0 => s
  | k + 1 =>
    let r := leNat (bs.take 4)
    let s := match lots[bitsOf r 0 16]? with
      | some l => dramStore s (l * 2 ^ 30 + bitsOf r 16 9 * 2 ^ 21) ((bs.drop 64).take (2 ^ 21))
      | none => s
    loadRegions k s lots (bs.drop (64 + 2 ^ 21))

/-- The target lots a RESTORE lists. -/
def lotList (s : State) (d : Nat) : List Nat := (List.range (bitsOf d 272 16)).map (fun i => memNat s (bitsOf d 224 48 + 2 * i) 2)

/-- What stands in the way of a RESTORE (R393, R413, R415). -/
def restoreRefused (s : State) (d h : Nat) (enc : List Byte) : Option Status :=
  let f := bitsOf d 16 10
  let lots := lotList s d
  let quietQueues := !s.work.queues.any (fun e => e.1 / 64 == f && e.2.state != .disabled)
  let empty := !(List.range 32).any (fun c => (getCtx s (ctxKey f c)).res != .empty)
  let owned := lots.all (fun n => lotOwnerOf s n == f && lotIdle s n && n < 384 && n != rd s Reg.bankPartSaveLot f)
  if !fnPresent s f || vfState s f != 6 || !quietQueues || !empty || !owned || bitsOf h 192 64 != keyCheck s f then some .permission
  else if bitsOf h 64 64 ≠ rd s Reg.detSignatureSignature 0 then some .badVersion
  else if bitsOf h 0 4 ≠ 1 ∨ 1 < bitsOf h 4 2 ∨ bitsOf h 26 9 ≠ lots.length ∨ crc64 enc ≠ bitsOf h 320 64 ∨
      (bitsOf h 4 2 = 1 ∧ bitOf h 6 = false ∧ mapFind s.ten.liveIn f ≠ some (bitsOf h 128 64)) then some .badFormat
  else none

/-- RESTORE (R415): the image is checked whole, and only then loaded into the target. -/
def execRestore (s : State) : Ans :=
  let d := migDesc s
  let f := bitsOf d 16 10
  .next (
    if !migTurn s 2 then s
    else if inReserve s (rd s Reg.migDescPa 0 / 64 * 64) 64 ∧ badLine s (rd s Reg.migDescPa 0 / 64) = true then migOpen s 2 f .memUe 0
    else if migBad d ∨ !inReserve s (rd s Reg.migDescPa 0 / 64 * 64) 64 ∨ bitsOf d 128 64 < 64 then migOpen s 2 f .badFormat 0
    else match migRead s d 0 64 with
      | (s, .error st) => migOpen s 2 f st 0
      | (s, .ok hb) =>
        let h := leNat hb
        let n := bitsOf h 256 64
        if n % 64 ≠ 0 ∨ bitsOf d 128 64 < 64 + n then migOpen s 2 f .badFormat 0
        else match migRead s d 64 n with
          | (s, .error st) => migOpen s 2 f st 0
          | (s, .ok enc) =>
            if (errLines s.mem (bitsOf d 224 48, 2 * bitsOf d 272 16)).any (badLine s) then migOpen s 2 f .memUe 0 else
            match restoreRefused s d h enc with
            | some st => migOpen s 2 f st 0
            | none =>
              let lots := lotList s d
              let body := xtsLines false (slotKey s f) 0 (n / 64) enc
              let r := if bitsOf h 4 2 = 1 then loadState s f body else (s, body)
              let s := if bitsOf h 4 2 = 0 ∨ bitOf h 6 = true then loadLots r.1 lots r.2
                else loadRegions (r.2.length / (64 + 2 ^ 21)) r.1 lots r.2
              let s := if bitsOf h 4 2 = 0 then { s with ten := { s.ten with liveIn := mapSet s.ten.liveIn f (bitsOf h 128 64) } } else s
              migOpen (showFn s f) 2 f .ok (64 + n))

/-- MIGRATION_COMPLETE (R413): go clears, and the status and the bytes moved are shown. -/
def execMigrationComplete (s : State) : Ans :=
  .next (match s.ten.mig with
    | none => s
    | some m =>
      let s := { s with ten := { s.ten with mig := none } }
      wr (wr (wr s Reg.migCtrlGo 0 0) Reg.migCtrlStatus 0 m.status.code) Reg.migBytesBytes 0 m.bytes)

end Sys2Proof.Machine
end

