-- ==== Sys2Proof/Machine/Time.lean ====
section
/-! DEFINITION. The time base and its sources (R255, R260-R269), timestamps (R270, R271), the commit of comparators (R272-R274), capture
inputs and 1PPS (R275, R276). -/

namespace Sys2Proof.Machine

/-! ### States (Table 09.3) -/

/-- TIME_STATE.state: 0 FREE, 1 ACQUIRING, 2 LOCKED, 3 HOLDOVER, 4 HOLDOVER_EXPIRED; and the source: 0 FREE, 1 PTP, 2 PPS_IN, 3 JEANO. -/
def timeSt (s : State) : Nat := rd s Reg.timeStateState 0
def timeSrc (s : State) : Nat := rd s Reg.timeStateSrc 0

/-- Set the time state. -/
def setTimeSt (s : State) (v : Nat) : State := wr s Reg.timeStateState 0 v

/-- Holdover has lasted longer than max_s since its first entry. -/
def holdExpired (s : State) : Bool :=
  match s.clock.holdSince with
  | none => false
  | some t => rd s Reg.timeHoldoverMaxS 0 * 1000000000 < s.clock.up - t

/-- Mute the cells whose holdover action says so (R283). -/
def muteCells (s : State) : State :=
  s.radio.plan.foldl (fun s e => if cellSt s e.1 = 4 ∧ rdB s Reg.cellHoldMute e.1 then wr s Reg.cellState e.1 5 else s) s

/-- Since when the offset has been below 100 ns, in `up` time (R268). -/
def setBelow (s : State) (b : Option Nat) : State := { s with clock := { s.clock with below := b } }

/-- A loss that leads from LOCKED to HOLDOVER (R268), or from ACQUIRING where R269 says: the count toward LOCKED starts again, and the cells
behave as the state reached requires. -/
def timeLost (s : State) : State :=
  match timeSt s with
  | 2 => setTimeSt { s with clock := { s.clock with holdSince := some s.clock.up } } 3
  | 1 =>
    let s := setBelow s none
    if s.clock.everLocked then (if holdExpired s then muteCells (setTimeSt s 4) else setTimeSt s 3) else s
  | _ => s

/-- The source is lost. -/
def sourceLost (s : State) : State :=
  if timeSrc s = 0 then s else timeLost { s with clock := { s.clock with srcOk := false } }

/-- The source can be followed: it is there, and so is the reference (R268, R269). -/
def followed (s : State) : Bool := timeSrc s != 0 && s.clock.srcOk && rdB s Reg.timeClkStatusRefOk 0

/-- Source and reference are both there: ACQUIRING from start or from HOLDOVER, with the count toward LOCKED from zero (Table 09.3). -/
def timeAcquire (s : State) : State :=
  if followed s ∧ (timeSt s = 0 ∨ timeSt s = 3 ∨ timeSt s = 4) then setTimeSt (setBelow s none) 1 else s

/-- RADIO reports READY once time and every core that an L1 image names are READY: cells move from WAIT_TIME to IDLE (R283, R432). -/
def radioReady (s : State) : State :=
  let cores := (List.range 8).flatMap (fun i => if rd s Reg.chiselImageStatus i = 1 then bitList 64 (rd s Reg.chiselImageCoreMask i) else [])
  if rd s Reg.radioPlanStatus 0 = 1 ∧ fnReady s 16 ∧ rd s Reg.readyFnState 17 < 2 ∧ cores.all (fun n => fnReady s (88 + n)) then
    s.radio.plan.foldl (fun s e => if cellSt s e.1 = 1 then wr s Reg.cellState e.1 2 else s) (fnSet s 17 2 .ok)
  else s

/-- TIME reports READY (R263). -/
def timeReady (s : State) : State := if fnReady s 16 then s else radioReady (fnSet s 16 2 .ok)

/-! ### Reference and source -/

/-- REFERENCE_LOSS (R255): the PLLs hold their last control words; ref_ok clears, ref_lost is set, and time goes to HOLDOVER. -/
def execReferenceLoss (s : State) : Ans :=
  .next (timeLost (healthCause (wr (wr s Reg.timeClkStatusRefOk 0 0) Reg.timeClkStatusRefLost 0 1) Reg.healthCauseTime))

/-- REFERENCE_RETURN (R255). -/
def execReferenceReturn (s : State) : Ans := .next (timeAcquire (wr s Reg.timeClkStatusRefOk 0 1))

/-- PLL_LOCK_LOSS (R277). -/
def execPllLockLoss (pll : PllKind) (s : State) : Ans :=
  let f := match pll with
    | .root => Reg.timeClkStatusRootLock
    | .serdes => Reg.timeClkStatusSerdesLock
    | .ucie => Reg.timeClkStatusUcieLock
  .next (healthCause (wr (wr s f 0 0) Reg.timeClkStatusLockLost 0 1) Reg.healthCauseTime)

/-- SOURCE_LOSS (R268, R269). -/
def execSourceLoss (s : State) : Ans := .next (sourceLost s)

/-- ANNOUNCE_TIMEOUT (R268): three intervals without an Announce, for a PTP source. -/
def execAnnounceTimeout (s : State) : Ans := .next (if timeSrc s = 1 then sourceLost s else s)

/-- PPS_LOSS (R268): 1.5 s without 1PPS, for a PPS_IN source. -/
def execPpsLoss (s : State) : Ans := .next (if timeSrc s = 2 then sourceLost s else s)

/-- LEADER_LOSS (R268): the leader unheard for 10 ms, for a JEANO source. -/
def execLeaderLoss (s : State) : Ans := .next (if timeSrc s = 3 then sourceLost s else s)

/-- SOURCE_RETURN (R268, R269). -/
def execSourceReturn (s : State) : Ans :=
  .next (if timeSrc s = 0 then s else timeAcquire { s with clock := { s.clock with srcOk := true } })

/-- The offset has been below 100 ns for 16 s in a row (R268). -/
def lockDue (s : State) : Bool :=
  match s.clock.below with
  | none => false
  | some t => 16000000000 ≤ s.clock.up - t

/-- LOCK_ACHIEVED (R268): the offset of a source that is followed has been below 100 ns for 16 s; TIME reports READY. -/
def execLockAchieved (s : State) : Ans :=
  .next (if timeSt s = 1 ∧ followed s ∧ lockDue s then
    timeReady (setTimeSt { s with clock := { s.clock with everLocked := true, holdSince := none } } 2) else s)

/-- HOLDOVER_EXPIRED (R268, R283): HOLDOVER has lasted longer than max_s. -/
def execHoldoverExpired (s : State) : Ans := .next (if timeSt s = 3 ∧ holdExpired s then muteCells (setTimeSt s 4) else s)

/-! ### Changing the time base (R261) -/

/-- The nominal addend (R260). -/
def nominalAddend : Nat := 0xF3CF3CF4

/-- The writer does not own the time base: firmware owns it unless the source is FREE. -/
def notOwner (s : State) (manager : Bool) : Bool := manager != (timeSrc s == 0)

/-- TIME_ADDEND (R261): the owner's value within ±1,000 ppm of nominal. -/
def execTimeAddend (value : BitVec 40) (manager : Bool) (s : State) : Ans :=
  let v := value.toNat
  .next (if manager ∧ !reachable s 0x700020 then logErr s 0 .notReady 0 0 0x700020
    else if notOwner s manager then logErr s 0 .permission 0 0 0x700020
    else if (v + nominalAddend / 1000 < nominalAddend) ∨ nominalAddend + nominalAddend / 1000 < v then logErr s 0 .badFormat 0 0 0x700020
    else wr s Reg.timeAddendAddend 0 v)

/-- Add a signed number of nanoseconds to the count, in one G-clock; a forward step remembers the count it reached (R273). -/
def stepBy (s : State) (d : Int) : State :=
  let ns := (((s.clock.ns : Int) + d) % 2 ^ 64).toNat
  { s with clock := { s.clock with ns := ns, stepTo := if 0 < d then some ns else none, ppsLast := none } }

/-- A step of whole seconds that the manager may make for a PPS_IN source, whose seconds may come from it (R263). -/
def secondsStep (s : State) (d : Int) : Bool := timeSrc s == 2 && d % 1000000000 == 0

/-- Apply a step (R261): by the owner, or the manager's seconds of a PPS_IN source, and refused while a radio cell is active. -/
def applyStep (s : State) (d : Int) (manager : Bool) : State :=
  if notOwner s manager && !(manager && secondsStep s d) then logErr s 0 .permission 0 0 0x700028
  else if cellsActive s then logErr s 0 .permission 0 0 0x700028
  else stepBy s d

/-- TIME_STEP (R261): a signed number of nanoseconds; of two 32-bit writes the high word's applies the step. -/
def execTimeStep (value : StepWrite) (manager : Bool) (s : State) : Ans :=
  .next (if manager ∧ !reachable s 0x700028 then logErr s 0 .notReady 0 0 0x700028
    else match value with
      | .whole v => applyStep s v.toInt manager
      | .low v => { s with clock := { s.clock with stepLow := v.toNat } }
      | .high v => applyStep { s with clock := { s.clock with stepLow := 0 } } (signedOf (v.toNat * 2 ^ 32 + s.clock.stepLow) 64) manager)

/-- The servo steers a source that is followed. It measures the frequency and chooses the addend: free values, the measured addend within
±1,000 ppm of nominal, and the addend the same while no cell is active and within 100 ppb of the measured one while one is (R261). -/
def steer (s : State) : State :=
  if (timeSt s = 1 ∨ timeSt s = 2) ∧ followed s then
    let span := nominalAddend / 1000
    let freq := nominalAddend - span + Config.servo s.free % (2 * span + 1)
    let fine := freq / 10000000
    let near := max (nominalAddend - span) (min (nominalAddend + span) (freq - fine + Config.servo (s.free + 1) % (2 * fine + 1)))
    let far := nominalAddend - span + Config.servo (s.free + 1) % (2 * span + 1)
    let s := drawn (drawn { s with clock := { s.clock with freq := freq } })
    wr s Reg.timeAddendAddend 0 (if cellsActive s then near else far)
  else s

/-- Show a measured offset in picoseconds, saturating (TIME_OFFSET), and keep since when it has been below 100 ns (R268). -/
def showOffset (s : State) (ps : Int) : State :=
  let s := setBelow s (if ps.natAbs < 100000 then (match s.clock.below with | some t => some t | none => some s.clock.up) else none)
  wr s Reg.timeOffsetOffsetPs 0 (codeOf (max (-(2 ^ 31)) (min (2 ^ 31 - 1) ps)) 32)

/-- Own node number (R182). -/
def timeNode (s : State) : Nat := rd s Reg.jeanoNodeCol 0 + 8 * rd s Reg.jeanoNodeRow 0 + 64 * rd s Reg.jeanoNodeDomain 0

/-- TIME_MESSAGE (R267): a follower sends its leader a time message each millisecond; the leader answers with its time; the follower compares
its time with the leader's, with the flight of the link measured under R177 removed, and steers. -/
def execTimeMessage (m : TimeMsg) (s : State) : Ans :=
  .next (match m with
    | .due => if timeSrc s = 3 then emit s (.timeMsg s.boot.image.leader (now s)) else s
    | .request node => if timeNode s = s.boot.image.leader then emit s (.timeMsg node.toNat (now s)) else s
    | .answer port leaderNs farNs =>
      if timeSrc s = 3 then
        steer (showOffset s (((now s : Int) - (leaderNs.toNat + rd s Reg.jeanoPortFlightNs port.toNat + farNs.toNat : Nat)) * 1000)) else s)

/-! ### PTP and SyncE (R264-R266) -/

/-- A message of the PTP port and domain of the image, which a PTP source follows and a PPS_IN source may take its seconds from (R263). -/
def fromSource (s : State) (q domain : Nat) : Bool :=
  (timeSrc s == 1 || timeSrc s == 2) && q == rd s Reg.timeStateSrcPort 0 && domain == s.clock.ptp.domain

/-- Change the PTP exchange. -/
def setPtp (s : State) (p : Ptp) : State := { s with clock := { s.clock with ptp := p } }

/-- The time base in sixteenths of a nanosecond, the resolution of timestamps (R271), with an asymmetry in picoseconds. -/
def stamp (s : State) (ps : Int) : Nat := (((s.clock.ns * 16 + s.clock.frac / 2 ^ 28 : Nat) : Int) + ps * 16 / 1000).toNat

/-- Arrival and departure times at a port, with the operator's asymmetries (R271). -/
def rxTime (s : State) (q : Nat) : Nat := stamp s (signedOf (rd s Reg.tsqRxAdj q) 16)
def txTime (s : State) (q : Nat) : Nat := stamp s (signedOf (rd s Reg.tsqTxAdj q) 16)

/-- The whole seconds of a PPS_IN source, from PTP: the count moves by the whole seconds that bring it next to the origin time, while no
cell is active (R261, R263). -/
def takeSeconds (s : State) (origin : Nat) : State :=
  let d := ((origin : Int) - now s + 500000000) / 1000000000
  if timeSrc s = 2 ∧ cellsActive s = false ∧ d ≠ 0 then stepBy s (d * 1000000000) else s

/-- The origin time of a Sync is known. -/
def takeOrigin (s : State) (origin : Nat) : State := setPtp (takeSeconds s origin) { s.clock.ptp with t1 := some (origin * 16) }

/-- SYNC (R264): its arrival, and its departure when it is one-step. -/
def execSync (q : BitVec 4) (domain : BitVec 8) (origin : Option (BitVec 64)) (s : State) : Ans :=
  .next (if fromSource s q.toNat domain.toNat then
    let s := setPtp s { s.clock.ptp with t1 := none, t2 := some (rxTime s q.toNat) }
    match origin with
    | none => s
    | some o => takeOrigin s o.toNat
    else s)

/-- FOLLOW_UP (R264): the departure of a two-step Sync. -/
def execFollowUp (q : BitVec 4) (domain : BitVec 8) (origin : BitVec 64) (s : State) : Ans :=
  .next (if fromSource s q.toNat domain.toNat then takeOrigin s origin.toNat else s)

/-- Ports that may send time, by the profile of the image's domain (Table 09.2): fronthaul, and under G.8275.2 outer ports in ETHERNET mode;
never the port that receives it. -/
def sendsTime (s : State) (q : Nat) : Bool :=
  s.clock.ptp.bc && !(timeSrc s == 1 && q == rd s Reg.timeStateSrcPort 0) &&
  (q < 8 || (44 ≤ s.clock.ptp.domain && ((q == 8 && rdB s Reg.jeanoCfgEth14 0) || (q == 9 && rdB s Reg.jeanoCfgEth15 0))))

/-- DELAY_REQ (R264, R265): answered with its arrival when the device is a boundary clock, on a port that may send time. -/
def execDelayReq (q : BitVec 4) (domain : BitVec 8) (s : State) : Ans :=
  .next (if sendsTime s q.toNat ∧ domain.toNat = s.clock.ptp.domain then emit s (.ptp q.toNat .delayResp (rxTime s q.toNat)) else s)

/-- DELAY_RESP (R264): the exchange is complete; the offset is ((t2 − t1) − (t4 − t3)) ÷ 2, and the servo of a PTP source steers. -/
def execDelayResp (q : BitVec 4) (domain : BitVec 8) (received : BitVec 64) (s : State) : Ans :=
  .next (if !fromSource s q.toNat domain.toNat ∨ timeSrc s = 2 then s
    else match s.clock.ptp.t1, s.clock.ptp.t2, s.clock.ptp.t3 with
      | some t1, some t2, some t3 =>
        steer (showOffset (setPtp s { s.clock.ptp with t3 := none }) ((((t2 : Int) - t1) - ((received.toNat * 16 : Nat) - t3)) * 125 / 4))
      | _, _, _ => s)

/-- ANNOUNCE (R264): best-master selection, whose algorithm is the profile's. -/
def execAnnounce (q : BitVec 4) (domain : BitVec 8) (dataset : BitVec 256) (s : State) : Ans :=
  .next (if fromSource s q.toNat domain.toNat then
    setPtp s { s.clock.ptp with parent := Config.bestMaster s.clock.ptp.parent dataset.toNat } else s)

/-- ESMC (R266): the quality level of the selected SyncE input; firmware sends it on the other fronthaul ports. -/
def execEsmc (q : BitVec 4) (level : BitVec 8) (s : State) : Ans :=
  let k := q.toNat
  .next (if s.clock.ptp.synceOpt = 0 ∨ k ≠ s.clock.ptp.syncePort then s
    else
      let s := wr s Reg.timeStateSynceOk 0 (bit01 (Config.synceOk s.clock.ptp.synceOpt level.toNat))
      (List.range (rd s Reg.caps1FronthaulPorts 0)).foldl (fun s p => if p = k then s else emit s (.esmc p level.toNat)) s)

/-- PTP_MESSAGE_INTERVAL (R264): the device's own message: Sync with its Follow_Up and Announce as a boundary clock, Delay_Req toward its
source. -/
def execPtpMessageInterval (q : BitVec 4) (kind : PtpKind) (s : State) : Ans :=
  let k := q.toNat
  .next (match kind with
    | .delayReq =>
      if timeSrc s = 1 ∧ k = rd s Reg.timeStateSrcPort 0 then
        emit (setPtp s { s.clock.ptp with t3 := some (txTime s k) }) (.ptp k .delayReq (txTime s k)) else s
    | .sync => if sendsTime s k then emit (emit s (.ptp k .sync (txTime s k))) (.ptp k .followUp (txTime s k)) else s
    | .announce => if sendsTime s k then emit s (.ptp k .announce (txTime s k)) else s
    | _ => s)

/-! ### Timestamp queues (R270, R271) -/

/-- Queue q takes timestamps: outer ports only in ETHERNET mode (Table 09.4). -/
def tsqTakes (s : State) (q : Nat) : Bool :=
  q < 12 && (q != 8 || rdB s Reg.jeanoCfgEth14 0) && (q != 9 || rdB s Reg.jeanoCfgEth15 0)

/-- TIMESTAMP_PUSH (R270, R271): the departure time with the transmit asymmetry, in sixteenths of a nanosecond. A full queue drops it,
unless it is popped in the same G-clock. -/
def execTimestampPush (q : BitVec 4) (id : BitVec 16) (s : State) : Ans :=
  let k := q.toNat
  let l := mapGet s.clock.tsq k []
  let t := txTime s k
  let e := (id.toNat, t / 16 % 2 ^ 64, t % 16 * 2 ^ 28)
  .next (if !tsqTakes s k then s
    else if 64 ≤ l.length then
      let drop := if (mapFind s.clock.tsqDrop k).any (fun d => d.1 == s.clock.g) then s.clock.tsqDrop
        else mapSet s.clock.tsqDrop k (s.clock.g, rd s Reg.tsqOverflow k, e)
      bump (wr { s with clock := { s.clock with tsqDrop := drop } } Reg.tsqOverflow k 1) Reg.tsqOverflowCount k 1
    else { s with clock := { s.clock with tsq := mapSet s.clock.tsq k (l ++ [e]) } })

/-- TSQ_ID (R270): a read pops the oldest entry and latches its timestamp; an empty queue reads valid = 0. -/
def execTsqId (q : BitVec 4) (s : State) : Ans :=
  let k := q.toNat
  let r := if 12 ≤ k then (s, 0) else readWord s 0 (0x701000 + 32 * k)
  .next (emit r.1 (.regData [r.2]))

/-! ### Comparators (R272-R274) -/

/-- A comparator would fire now: armed, reached, and not yet fired for this compare value. -/
def trigDue (s : State) (k : Nat) : Bool :=
  rdB s Reg.trigArmed k && rdLive s Reg.trigCompareNs k ≤ now s && mapFind s.clock.trigFired k != some (rdLive s Reg.trigCompareNs k)

/-- A group that a comparator may not take (R272, Table 09.5). -/
def trigBad (k : Nat) (g : TrigGroup) : Bool :=
  6 < g.action || (g.action == 1 && (48 ≤ k || 4 < g.target)) || (2 ≤ g.action && g.action ≤ 5 && 7 < g.target)

/-- A comparator takes a committed group: at once when it is disarmed or would fire in this G-clock, else after its next firing, and until
then the commit bit reads 1 (R14, R274). -/
def takeGroup (s : State) (k : Nat) (g : TrigGroup) : State :=
  if !rdB s Reg.trigArmed k || trigDue s k then applyTrig s k g
  else wr { s with clock := { s.clock with trigNext := mapSet s.clock.trigNext k g } } Reg.trigCommit k 1

/-- Firmware writes the staged fields of one of its comparators. -/
def stageTrig (s : State) (k : Nat) (g : TrigGroup) : State :=
  wr (wr (wr (wr s Reg.trigCompareNs k g.compareNs) Reg.trigPeriodNs k g.periodNs) Reg.trigAction k g.action) Reg.trigTarget k g.target

/-- TRIG_COMMIT (R274): the commit bit of a manager comparator, or firmware's commit of one of its own, which it then leaves armed or not; a
comparator that is disarmed takes its group. -/
def execTrigCommit (k : BitVec 6) (group : Option TrigGroup) (arm : Bool) (s : State) : Ans :=
  let i := k.toNat
  let off := 0x70200C + 32 * i
  let staged : TrigGroup := { compareNs := rd s Reg.trigCompareNs i, periodNs := rd s Reg.trigPeriodNs i, action := rd s Reg.trigAction i,
                              target := rd s Reg.trigTarget i }
  .next (match group with
    | none =>
      if i < 48 then s
      else if !reachable s off then logErr s 0 .notReady 0 0 off
      else if trigBad i staged then logErr s 0 .badFormat 0 0 off
      else takeGroup s i staged
    | some g =>
      if 48 ≤ i then s
      else if trigBad i g then logErr s 0 .badFormat 0 0 off
      else settleTrig (wr (takeGroup (stageTrig s i g) i g) Reg.trigArmed i (bit01 arm)))

/-! ### Capture and 1PPS -/

/-- Offset of the count from the nearest whole second, in picoseconds. -/
def secondOffset (s : State) : Int :=
  let d := now s % 1000000000
  (if d < 500000000 then (d : Int) else (d : Int) - 1000000000) * 1000

/-- CAPTURE_EDGE (R275): a selected edge is stamped; a full input drops it. A rising 1PPS_IN edge gives the phase of a PPS_IN source
(R263). -/
def execCaptureEdge (input : BitVec 4) (rising : Bool) (s : State) : Ans :=
  let j := input.toNat
  let e := rd s Reg.capEdge j
  let l := mapGet s.clock.cap j []
  let s := if j = 8 ∧ rising ∧ timeSrc s = 2 then steer (showOffset s (secondOffset s)) else s
  .next (if 9 ≤ j ∨ rdB s Reg.capEnable j = false ∨ !(e = 2 ∨ (e = 0 ∧ rising) ∨ (e = 1 ∧ !rising)) then s
    else if 8 ≤ l.length then wr s Reg.capOverflow j 1
    else wr { s with clock := { s.clock with cap := mapSet s.clock.cap j (l ++ [(now s, rising)]) } } Reg.capFill j (l.length + 1))

/-- CAP_POP (R275): a read pops the oldest entry and latches its time. -/
def execCapPop (input : BitVec 4) (s : State) : Ans :=
  let j := input.toNat
  let r := if 9 ≤ j then (s, 0) else readWord s 0 (0x703004 + 32 * j)
  .next (emit r.1 (.regData [r.2]))

/-- The time base stands at a whole second plus TIME_PPS_OUT.offset_ns, and 1PPS_OUT has not risen for it. -/
def ppsDue (s : State) : Bool :=
  rdB s Reg.timePpsOutEnable 0 && ((now s : Int) - signedOf (rd s Reg.timePpsOutOffsetNs 0) 16) % 1000000000 == 0 && s.clock.ppsLast != some (now s)

/-- PPS_OUT (R276): 1PPS_OUT rises at a whole second plus the offset and stays high for width_ms. -/
def execPpsOut (s : State) : Ans :=
  .next (if ppsDue s then emit { s with clock := { s.clock with ppsLast := some (now s) } } (.pps (rd s Reg.timePpsOutWidthMs 0)) else s)

end Sys2Proof.Machine
end

