-- ==== Sys2Proof/Machine/Security.lean ====
section
/-! DEFINITION. The SECURITY block's requests (R423-R430) and the loading of L1 images (R327): rows L1_IMAGE_LOAD and MR_EXTEND to
SVN_COMMIT. -/

namespace Sys2Proof.Machine

/-! ### Measurements -/

/-- MR_EXTEND (R424): MR5 to MR7 take the value, MR0 to MR4 refuse it. -/
def execMrExtend (s : State) : Ans :=
  let i := rd s Reg.secMrExtendIndex 0
  .next (if i < 5 then wr s Reg.secMrExtendStatus 0 Status.permission.code
    else wr (mrExtend s i (rd s Reg.secMrExtendValue 0)) Reg.secMrExtendStatus 0 Status.ok.code)

/-! ### Attestation (R425) -/

/-- A VF that a report or a key may name: present and not OFF. -/
def vfLives (s : State) (f : Nat) : Bool := f != 0 && fnPresent s f && vfState s f != 0

/-- A lot list's bytes (Table 16.4): numbers of the lots a function owns in state IDLE, 2 bytes each. -/
def lotBytes (s : State) (f : Nat) : List Byte :=
  ((List.range (rd s Reg.caps0DramLots 0)).filter (fun n => lotOwnerOf s n == f && lotIdle s n)).flatMap (leBytes 2)

/-- Bytes 0x000 to 0x1BF of a report (Table 16.4). -/
def reportBytes (s : State) (f : Nat) : List Byte :=
  let flags := rd s Reg.secVfDelivered f * bit01 (f != 0) + rd s Reg.plumbPlumb 0 * 2 + rd s Reg.secStatusDebug 0 * 4 +
    rd s Reg.readySummaryRestricted 0 * 16
  let mrs := (List.range 8).flatMap (fun i => leBytes 32 (rd s Reg.secMrValue i))
  let part := if f = 0 then List.replicate 64 0 else (List.range 16).flatMap (fun i => leBytes 4 (vfPage s f (0x40 + 4 * i)))
  let lots := if f = 0 then List.replicate 32 0 else sm3 (lotBytes s f)
  leBytes 4 1 ++ leBytes 2 f ++ leBytes 2 flags ++ leBytes 8 (rd s Reg.secDeviceIdId 0) ++ leBytes 4 (fieldBits s 0 32) ++ leBytes 4 0 ++
    leBytes 8 (rd s Reg.detSignatureSignature 0) ++ leBytes 8 (now s) ++ leBytes 8 (if f = 0 then 0 else keyCheck s f) ++
    leBytes 32 (rd s Reg.secAttestNonce 0) ++ mrs ++ part ++ lots ++ leBytes 16 0

/-- ATTEST (R425): the report's fields are gathered in one instant; a request that cannot be served ends at once. -/
def execAttest (s : State) : Ans :=
  let f := rd s Reg.secAttestFn 0
  let out := rd s Reg.secAttestOut 0
  let answer (st : Status) : State := wr (wr s Reg.secAttestStatus 0 st.code) Reg.secAttestGo 0 0
  .next (if s.sec.report.isSome then s
    else if rdB s Reg.secStatusIdentityOk 0 = false then answer .notReady
    else if f ≠ 0 ∧ !vfLives s f then answer .permission
    else if out % 64 ≠ 0 ∨ !inReserve s out 512 then answer .translationFault
    else
      let s' := wr { s with sec := { s.sec with report := some { fn := f, out := out, bytes := reportBytes s f } } } Reg.secAttestGo 0 1
      if f = 0 then s' else wr s' Reg.secVfBusy f 1)

/-- ATTESTATION_REPORT (R425): the signed report is written, and status is OK. -/
def execAttestationReport (s : State) : Ans :=
  .next (match s.sec.report, s.sec.d with
    | some r, some d =>
      let sig := Config.sm2Sign d r.bytes s.free
      let s := drawn (dramStore { s with sec := { s.sec with report := none } } r.out (r.bytes ++ leBytes 64 sig.toNat))
      let s := wr (wr s Reg.secAttestStatus 0 Status.ok.code) Reg.secAttestGo 0 0
      if r.fn = 0 then s else wr s Reg.secVfBusy r.fn 0
    | _, _ => s)

/-! ### Tenant keys (R426) -/

/-- KEY_DELIVERY (R426): the blob is decrypted; the outcome is KEY_INSTALL's. -/
def execKeyDelivery (s : State) : Ans :=
  let f := rd s Reg.secKeyFn 0
  let pa := rd s Reg.secKeyBlob 0
  let answer (st : Status) : State := wr (wr s Reg.secKeyStatus 0 st.code) Reg.secKeyGo 0 0
  .next (if s.sec.keyReq.isSome then s
    else match s.sec.d with
      | none => answer .notReady
      | some d =>
        if !inReserve s pa 161 then answer .translationFault
        else match readRuns s 5 0 [(pa, 161)] with
          | (s, .error _) => wr (wr s Reg.secKeyStatus 0 Status.memUe.code) Reg.secKeyGo 0 0
          | (s, .ok blob) =>
            let s := { s with sec := { s.sec with keyReq := some { fn := f, plain := Config.sm2Decrypt d blob } } }
            let s := wr s Reg.secKeyGo 0 1
            if f = 0 then s else wr s Reg.secVfBusy f 1)

/-- How a delivered key pair is judged (R426, R158). -/
def keyVerdict (s : State) (r : KeyReq) : Status :=
  match r.plain with
  | none => .permission
  | some p =>
    if leNat ((p.drop 32).take 2) ≠ r.fn ∨ !vfLives s r.fn then .permission
    else if p.length ≠ 64 ∨ (p.drop 34).any (· != 0) ∨ p.take 16 = (p.drop 16).take 16 then .badFormat
    else if (List.range 384).any (fun n => lotOwnerOf s n == r.fn) then .permission
    else .ok

/-- KEY_INSTALL (R426): the keys are installed in one indivisible step, or refused. -/
def execKeyInstall (s : State) : Ans :=
  .next (match s.sec.keyReq with
    | none => s
    | some r =>
      let st := keyVerdict s r
      let s := { s with sec := { s.sec with keyReq := none } }
      let s := if st = .ok then setKey s r.fn (leNat ((r.plain.getD []).take 32)) true else s
      let s := wr (wr s Reg.secKeyStatus 0 st.code) Reg.secKeyGo 0 0
      if r.fn = 0 then s else wr s Reg.secVfBusy r.fn 0)

/-! ### Debug (R429, R430) -/

/-- DEBUG_CHALLENGE (R430): a new challenge voids the previous one. -/
def execDebugChallenge (s : State) : Ans :=
  .next (drawn (wr { s with sec := { s.sec with chalOpen := true } } Reg.secDebugChal 0 (Config.entropy s.free)))

/-- A debug token is accepted now: verified for its level and signer, bound to this device, against the current challenge, and at VENDOR
only while no VF is enabled. -/
def tokenOk (s : State) (obj : List Byte) : Bool :=
  let b := bodyOf obj
  let level := (b.headD 0).toNat
  (level == 1 || level == 2) && ((b.drop 1).take 15).all (· == 0) && b.length == 32 && s.sec.chalOpen &&
    leNat (b.drop 16) == rd s Reg.secDebugChal 0 && !(level == 2 && rd s Reg.tenInfoVfs 0 != 0) &&
    (verifyObject s 5 0 (fun g => if level = 2 then g == 0 else g == 1 || g == 2) true obj).isNone

/-- DEBUG_TOKEN (R430): MR4 is extended, then the level rises. -/
def execDebugToken (s : State) : Ans :=
  let pa := rd s Reg.secDebugToken 0
  .next (if !inReserve s pa 288 then wr s Reg.secDebugStatus 0 Status.translationFault.code
    else match readRuns s 5 0 [(pa, 288)] with
      | (s, .error _) => wr s Reg.secDebugStatus 0 Status.memUe.code
      | (s, .ok obj) =>
        if tokenOk s obj then
          let s := measure s 4 obj
          let s := raiseTo { s with sec := { s.sec with chalOpen := false } } Reg.secStatusDebug 0 ((bodyOf obj).headD 0).toNat
          wr s Reg.secDebugStatus 0 Status.ok.code
        else wr s Reg.secDebugStatus 0 Status.permission.code)

/-! ### Security versions (R423) -/

/-- SVN_COMMIT (R423): each minimum rises to its running value, MR4 is extended with the new SEC_SVN, and both banks are written. -/
def execSvnCommit (ok1 ok2 ok3 ok4 : Bool) (s : State) : Ans :=
  let s := raiseTo s Reg.secSvnFwMin 0 (rd s Reg.secSvnRunFw 0)
  let s := raiseTo s Reg.secSvnImgMin 0 (rd s Reg.secSvnRunImg 0)
  let s := raiseTo s Reg.secSvnL1Min 0 (rd s Reg.secSvnRunL1 0)
  let value := leBytes 2 (rd s Reg.secSvnFwMin 0) ++ leBytes 2 (rd s Reg.secSvnImgMin 0) ++ leBytes 2 (rd s Reg.secSvnL1Min 0) ++ leBytes 2 0
  .next (recWrite (recWrite (mrExtend s 4 (digest value)) ok1 ok2) ok3 ok4)

/-! ### L1 images (R327) -/

/-- The header of an L1 image (Table 11.9), as a number. -/
def l1Header (obj : List Byte) : Nat := leNat ((bodyOf obj).take 64)

/-- Why an L1 image fails (R327), beyond its signature. -/
def l1Refused (s : State) (idx : Nat) (obj : List Byte) : Option Status :=
  let h := l1Header obj
  let mask := bitsOf h 64 64
  let i := bitsOf h 160 32
  let x := bitsOf h 192 32
  let y := bitsOf h 224 32
  let taken := (List.range idx).foldl (fun m j => m ||| rd s Reg.chiselImageCoreMask j) 0
  if bitsOf h 0 4 ≠ 1 then some .badVersion
  else if (bitList 64 mask).any (fun n => rd s Reg.caps1ChiselCount 0 ≤ n) then some .noUnit
  else if mask &&& taken ≠ 0 ∨ bitsOf h 5 27 ≠ 0 ∨ bitsOf h 145 15 ≠ 0 ∨ bitsOf h 256 256 ≠ 0 ∨ bitsOf h 128 17 % 16 ≠ 0 ∨ i % 16 ≠ 0 ∨
      0x20000 < i ∨ 0x40000 < x ∨ 0x40000 < y ∨ (bodyOf obj).length < 64 + i + x + y then some .badFormat
  else none

/-- Refuse an image: its status is shown and its cores cannot become READY, nor can RADIO (R433). -/
def l1Fail (s : State) (idx mask : Nat) (st : Status) : State :=
  let s := wr (wr s Reg.chiselImageStatus idx 2) Reg.chiselImageReason idx st.code
  let s := ((bitList 64 mask).filter (fun n => rd s Reg.readyFnState (88 + n) = 0)).foldl (fun s n => fnSet s (88 + n) 3 st) s
  if mask ≠ 0 ∧ rd s Reg.readyFnState 17 < 2 then fnSet s 17 3 .notReady else s

/-- L1_IMAGE_LOAD (R327): image `idx` is checked, measured into MR3, loaded into every core of its mask and started. -/
def execL1ImageLoad (idx : BitVec 3) (s : State) : Ans :=
  let i := idx.toNat
  .next (match s.boot.l1[i]? with
    | none => s
    | some obj =>
      if !fnReady s 13 ∨ (List.range i).any (fun j => rd s Reg.chiselImageStatus j = 0) ∨ rd s Reg.chiselImageStatus i ≠ 0 then s
      else
        let h := l1Header obj
        let allowed (g : Nat) : Bool := if bitOf h 4 then g == 1 || g == 2 else g == 0
        if (verifyObject s 4 (rd s Reg.secSvnL1Min 0) allowed false obj).isSome then l1Fail s i 0 .permission
        else
          let mask := bitsOf h 64 64
          let s := wr (wr (wr s Reg.chiselImageSigner i (bitsOf h 4 1)) Reg.chiselImageVersion i (bitsOf h 32 32)) Reg.chiselImageCoreMask i mask
          match l1Refused s i obj with
          | some st => l1Fail s i mask st
          | none =>
            let n := bitsOf h 160 32
            let x := bitsOf h 192 32
            let body := (bodyOf obj).drop 64
            let im : L1Image := { entry := bitsOf h 128 17, imem := body.take n, x := (body.drop n).take x,
                                  y := (body.drop (n + x)).take (bitsOf h 224 32) }
            let s := measure s 3 obj
            let first := !(List.range 8).any (fun j => rd s Reg.chiselImageStatus j == 1)
            let run := if first then svnOf obj else min (rd s Reg.secSvnRunL1 0) (svnOf obj)
            let s := wr s Reg.secSvnRunL1 0 run
            let s := if rdB s Reg.readyBootPrecLost 0 then wr s Reg.secSvnL1Min 0 run else s
            let s := wr { s with images := mapSet s.images i im } Reg.chiselImageStatus i 1
            let s := (bitList 64 mask).foldl (fun s c =>
              let s := putCore s c (Core.start im (now s) [])
              fnSet (showCore (wr (wr s Reg.chiselCoreImage c i) Reg.chiselCoreState c 2) c) (88 + c) 2 .ok) s
            radioReady s)

end Sys2Proof.Machine
end

