-- ==== Sys2Proof/Machine/Tdfe.lean ====
section
/-! DEFINITION. Streams of the time-domain front end (R331-R339) and the chirp engine (R341-R349). -/

namespace Sys2Proof.Machine

/-! ### Streams -/

/-- Stream kinds: 1 NR split-8, 2 chirp; 0 for a stream the image does not define. -/
def streamKind (s : State) (n : Nat) : Nat := if rdB s Reg.caps1Tdfe 0 && n < rd s Reg.tdfeInfoStreams 0 then rd s Reg.tdfeStreamKind n else 0

/-- A completion entry of a stream (R337). -/
def streamEvent (s : State) (n : Nat) (st : Status) (event sfn slot sym : Nat) : State :=
  coreComplete s (rd s Reg.tdfeStreamCore n) 0x10 st n (event + slot % 128 * 2 ^ 8 + sym % 16 * 2 ^ 15 + sfn % 1024 * 2 ^ 19)

/-- Air time of sample i of a frame. -/
def sampleNs (s : State) (n sfn i : Nat) : Nat := slotStart s 0 sfn 0 + i * 1000000 / max 1 (rd s Reg.tdfeStreamRateKhz n)

/-- Key of a received sample. -/
def sampleKey (n sfn i : Nat) : Nat := (n * 1024 + sfn) * 2 ^ 24 + i

/-- ROE_RX_PACKET (R331, R332): accepted from its first sample's air time until the end of the reception window, once per sequence
number. -/
def execRoeRxPacket (stream : BitVec 4) (sfn : BitVec 10) (seq : BitVec 16) (native : Bool) (samples : List (BitVec 32)) (s : State) : Ans :=
  let n := stream.toNat
  let f := sfn.toNat
  .next (match (if streamKind s n = 0 then none else mapFind s.tdfe.cfg n) with
    | none => s
    | some c =>
      let lport := rd s Reg.tdfeStreamLport n
      let s := bump s Reg.fhPortRxFrames (lport / 4) 1
      let at_ := sampleNs s n f (seq.toNat * c.spp)
      let key := (n * 1024 + f) * 65536 + seq.toNat
      if !native ∨ samples.length ≠ c.spp then bump s Reg.fhPortRxDiscarded (lport / 4) 1
      else if now s < at_ ∨ at_ + 1000 * c.rxUs < now s ∨ s.tdfe.seqs.contains key then bump s Reg.tdfeStreamRxDiscarded n 1
      else
        let keep (k : Nat) : Bool := k / 1024 != n || k % 1024 == f || (k + 1) % 1024 == f
        let rx := s.tdfe.rx.filter (fun e => keep (e.1 / 2 ^ 24))
        let rx := samples.zipIdx.foldl (fun m e => mapSet m (sampleKey n f (seq.toNat * c.spp + e.2)) e.1.toNat) rx
        { s with tdfe := { s.tdfe with rx := rx, seqs := insertNat (s.tdfe.seqs.filter (fun k => keep (k / 65536))) key } })

/-- A part saturated to int16, and whether it saturated. -/
def satPart (v : Int) : Int × Bool := if v < -32768 then (-32768, true) else if 32767 < v then (32767, true) else (v, false)

/-- One output part of a FIR filter (R334): the exact sum over its taps, the newest sample first, shifted right by 15 and saturated. -/
def firOut (taps : List Int) (sample : Nat → Int) : Int × Bool := satPart ((taps.zipIdx.map (fun t => t.1 * sample t.2)).sum / 32768)

/-! ### Chirp waveform (R342, R349) -/

/-- Duration of a symbol in nanoseconds. -/
def chirpSymNs (s : State) (c sf : Nat) : Nat := 2 ^ sf * 16000 / 2 ^ rd s Reg.chirpChBw c

/-- Symbols of a transmission: preamble, turn, mark symbol, turn, data. -/
def ChirpTx.count (x : ChirpTx) : Nat := x.nPre + 3 + x.syms.length

/-- End of a transmission on air. -/
def chirpEnd (s : State) (x : ChirpTx) : Nat := x.startNs + x.count * chirpSymNs s x.channel x.sf

/-- Symbol q of the frame: its value, and whether it is a downchirp (R342). -/
def ChirpTx.symbol (x : ChirpTx) (q : Nat) : Nat × Bool :=
  if q < x.nPre then (0, false)
  else if q = x.nPre + 1 then (x.mark % 2 ^ x.sf, false)
  else if q ≤ x.nPre + 2 then (0, true)
  else (x.syms.getD (q - x.nPre - 3) 0, false)

/-- Phase of chip k of a symbol of value m, in units of 1 / 2^(SF+1) of a turn: the sum of the advances of the chips before it, each the
mean of the rising frequency over its chip, −N + 2((m + j) mod N) + 1 for N = 2^SF. A whole symbol advances by none, so the phase is
continuous over the frame. -/
def chirpPhase (sf m k : Nat) : Int := ((k * k + 2 * m * k : Nat) - (2 ^ sf * k : Nat) : Int) % (2 ^ (sf + 1) : Nat)

/-- Chip k of a transmission: its phase, and how far it lies inside the ramps, at most the ramp's length; none outside the frame. -/
def ChirpTx.chip (x : ChirpTx) (k : Int) : Option (Int × Nat) :=
  let total := x.count * 2 ^ x.sf
  if k < 0 ∨ (total : Int) ≤ k then none
  else
    let k := k.toNat
    let y := x.symbol (k / 2 ^ x.sf)
    let phase := chirpPhase x.sf y.1 (k % 2 ^ x.sf)
    some (if y.2 then -phase % (2 ^ (x.sf + 1) : Nat) else phase, min x.ramp (min k (total - 1 - k)))

/-- One part of a chirp stream's sum at an internal sample, counted at 16 MS/s from the time base's origin: every transmission on the
stream, saturated to int16 (R349). -/
def chirpSum (s : State) (n : Nat) (t : Int) (q : Bool) : Int × Bool :=
  satPart (((s.tdfe.tx.filter (fun x => rd s Reg.chirpChStream x.channel == n)).map (fun x =>
    Config.chirpWave x.chip [x.sf, x.att, x.ramp, rd s Reg.chirpChBw x.channel, signedOf (rd s Reg.chirpChOffset x.channel) 10,
      t - (x.startNs * 16 / 1000 : Nat), bit01 q])).sum)

/-- Index from the time base's origin, at the internal rate, of a frame's first sample. -/
def frameIndex (s : State) (n sfn : Nat) : Nat := slotStart s 0 sfn 0 / 1000000 * (rd s Reg.tdfeStreamRateKhz n / (rd s Reg.tdfeStreamInterp n + 1))

/-- One part of a stream's transmit signal at the internal rate, ahead of the transmit filter. -/
def txInternal (s : State) (n : Nat) (t : Int) (q : Bool) : Int × Bool :=
  if streamKind s n = 2 then chirpSum s n t q
  else (signedOf ((Config.txSample n t).toNat / (if q then 65536 else 1)) 16, false)

/-- One output part of the transmit filter at fronthaul sample p of a frame (R334): internal samples stand at multiples of I, zeros
between them. -/
def txPart (s : State) (n sfn : Nat) (taps : List Int) (p : Nat) (q : Bool) : Int × Bool :=
  let i := rd s Reg.tdfeStreamInterp n + 1
  firOut taps (fun k =>
    let x : Int := (p : Int) - k
    if x % i = 0 then (txInternal s n ((frameIndex s n sfn : Int) + x / i) q).1 else 0)

/-- The samples of a transmit packet, and how many of its filter outputs and sums saturated. -/
def txSamples (s : State) (n sfn : Nat) (c : StreamCfg) (seq : Nat) : List Nat × Nat :=
  let i := rd s Reg.tdfeStreamInterp n + 1
  let ps := (List.range c.spp).map (fun k => seq * c.spp + k)
  let parts := ps.map (fun p => (txPart s n sfn c.txTaps p false, txPart s n sfn c.txTaps p true))
  let sums := (ps.filter (fun p => p % i == 0)).flatMap (fun p => [false, true].map (fun q =>
    (txInternal s n ((frameIndex s n sfn : Int) + (p / i : Nat)) q).2))
  (parts.map (fun e => codeOf e.1.1 16 + 65536 * codeOf e.2.1 16),
    ((parts.flatMap (fun e => [e.1.2, e.2.2]) ++ sums).filter id).length)

/-- TX_PACKET (R333, R334, R339, R349): once its time has come, the packet leaves with its samples, or with zeros where they are not ready or the stream is muted. -/
def execTxPacket (stream : BitVec 4) (sfn : BitVec 10) (seq : BitVec 16) (ready : Bool) (s : State) : Ans :=
  let n := stream.toNat
  let f := sfn.toNat
  .next (match (if streamKind s n = 0 then none else mapFind s.tdfe.cfg n) with
    | none => s
    | some c =>
      if now s + 1000 * c.leadUs < sampleNs s n f (seq.toNat * c.spp) then s else
      let lport := rd s Reg.tdfeStreamLport n
      let muted := rdB s Reg.tdfeStreamMuted n
      let out := if ready then txSamples s n f c seq.toNat else ([], 0)
      let samples := if ready && !muted then out.1 else List.replicate c.spp 0
      let s := bump s Reg.tdfeStreamSatCount n out.2
      let s := bump (emit s (.fh lport (.roe n seq.toNat samples))) Reg.fhPortTxFrames (lport / 4) 1
      if ready || muted then s
      else
        let s := bump s Reg.tdfeStreamTxUnderrun n 1
        let cell := rd s Reg.tdfeStreamCell n
        let mu := (cellPlan s cell).elim 0 (·.mu)
        let slot := seq.toNat * c.spp * 2 ^ mu / max 1 (rd s Reg.tdfeStreamRateKhz n)
        let s := if streamKind s n = 1 then radioLate s cell f slot 0 1 else s
        streamEvent s n .radioLate 2 f slot 0)

/-- A received sample's part, 0 where it is missing; samples before the frame's first are the last of the frame before. -/
def samplePart (s : State) (n sfn : Nat) (i : Int) (q : Bool) : Int :=
  let key := if i < 0 then sampleKey n ((sfn + 1023) % 1024) (i + (10 * rd s Reg.tdfeStreamRateKhz n : Nat)).toNat else sampleKey n sfn i.toNat
  signedOf (mapGet s.tdfe.rx key 0 / (if q then 65536 else 1)) 16

/-- One output part of the receive filter at internal index j (R334). -/
def firPart (s : State) (n sfn d : Nat) (taps : List Int) (j : Nat) (q : Bool) : Int × Bool :=
  firOut taps (fun k => samplePart s n sfn ((j : Int) * d - k) q)

/-- First internal sample of a symbol's FFT window in its frame (R335). -/
def fftStart (c : StreamCfg) (mu slot sym : Nat) : Nat :=
  let n := 2 ^ c.fftLog
  let sub := slot / 2 ^ mu
  let l := slot % 2 ^ mu * 14 + sym
  let long := n * 2 ^ mu / 128
  let before := l * (n + n * 144 / 2048) + long * (bit01 (0 < l) + bit01 (7 * 2 ^ mu < l))
  let cp := n * 144 / 2048 + (if l = 0 ∨ l = 7 * 2 ^ mu then long else 0)
  sub * (n * 15 * 2 ^ mu) + before + cp - c.fftOffset

/-- RX_SYMBOL (R335-R337): the symbol's window is filtered and transformed, its active subcarriers are written to the cell's IQ, and the
owning core gets its entry. -/
def execRxSymbol (stream : BitVec 4) (sfn : BitVec 10) (slot : BitVec 7) (sym : BitVec 4) (s : State) : Ans :=
  let n := stream.toNat
  let f := sfn.toNat
  let cell := rd s Reg.tdfeStreamCell n
  .next (match (if streamKind s n = 1 then mapFind s.tdfe.cfg n else none), cellPlan s cell with
    | some c, some p =>
      let d := rd s Reg.tdfeStreamDec n + 1
      let j0 := fftStart c p.mu slot.toNat sym.toNat
      let len := 2 ^ c.fftLog
      let raw := (List.range (len * d)).map (fun i => j0 * d + i)
      let missing := (raw.filter (fun i => (mapFind s.tdfe.rx (sampleKey n f i)).isNone)).length
      let parts := (List.range len).flatMap (fun i => [firPart s n f d c.rxTaps (j0 + i) false, firPart s n f d c.rxTaps (j0 + i) true])
      let sats := (parts.filter (·.2)).length
      let input := packLanes16 (parts.map (·.1))
      let settings := c.fftLog + c.fftShift * 2 ^ 8 + c.fftOffset * 2 ^ 16 + p.mu * 2 ^ 32 + sym.toNat * 2 ^ 40
      let out := (List.range (24 * p.nPrb)).map (fun i => (Config.fftPart input settings i).toNat)
      let base := (symKey cell f slot.toNat sym.toNat * 65536 + n) * 1024
      let iq := (List.range p.nPrb).foldl (fun m b =>
        mapPut m (base + b) (((out.drop (24 * b)).take 24).foldr (fun l acc => l + 65536 * acc) 0) 0) s.radio.iq
      let s := bump (bump s Reg.tdfeStreamRxMissing n missing) Reg.tdfeStreamSatCount n (sats + Config.unstated s.free)
      streamEvent { drawn s with radio := { s.radio with iq := iq } } n .ok 1 f slot.toNat sym.toNat
    | _, _ => s)
where
  /-- Lanes of 16 bits as one number. -/
  packLanes16 (vs : List Int) : Nat := vs.foldr (fun v acc => codeOf v 16 + 65536 * acc) 0

/-! ### Spectral mask (R338, R339) -/

/-- The first segment of the group in force whose power exceeds its limit, and by how much. -/
def maskHit (s : State) (n : Nat) (powers : List (BitVec 16)) : Option (Nat × Nat) :=
  ((List.range (rdLive s Reg.tdfeStreamSegCount n)).filterMap (fun g =>
    let excess := (powers.getD g 0).toInt - signedOf (rdLive s Reg.tdfeSegLimit (32 * n + g)) 12
    if 0 < excess then some (g, excess.toNat) else none)).head?

/-- MASK_BLOCK (R338-R340): a block of 1,024 samples has been measured; a committed group takes effect with the next block. -/
def execMaskBlock (stream : BitVec 4) (powers : List (BitVec 16)) (s : State) : Ans :=
  let n := stream.toNat
  .next (if streamKind s n = 0 then s
    else
      let s := (List.range (rdLive s Reg.tdfeStreamSegCount n)).foldl (fun s g => wr s Reg.tdfeSegLastQ (32 * n + g) (powers.getD g 0).toNat) s
      let hit := maskHit s n powers
      let hist := (hit.isSome :: mapGet s.tdfe.hist n []).take 8
      let s := { s with tdfe := { s.tdfe with hist := mapSet s.tdfe.hist n hist } }
      let next (s : State) : State := (s.cfg.pending.filter (fun p => p.kind == 5 && p.index == n)).foldl applySnap s
      next (match hit with
      | none => s
      | some h =>
        if (hist.filter id).length < rdLive s Reg.tdfeStreamNViol n + 1 then s
        else
          let s := bump (wr s Reg.tdfeStreamViolated n 1) Reg.tdfeStreamViolations n 1
          let s := wr (wr s Reg.tdfeStreamLastSeg n h.1) Reg.tdfeStreamLastExcess n (min h.2 (2 ^ 16 - 1))
          let s := streamEvent (healthCause s Reg.healthCauseRadio) n .ok 3 0 0 0
          if rdLive s Reg.tdfeStreamAction n = 1 ∧ rdB s Reg.tdfeStreamMuted n = false then
            streamEvent (wr s Reg.tdfeStreamMuted n 1) n .ok 4 0 0 0
          else s))

/-- UNMUTE (R339): real samples again from the next packet. Without a TD front end the write is logged (R329). -/
def execUnmute (stream : BitVec 4) (s : State) : Ans :=
  let off := 0xB00118 + 64 * stream.toNat
  .next (whenReached s off (fun s =>
    if rdB s Reg.caps1Tdfe 0 = false then logErr s 0 .noUnit 0 0 off
    else if streamKind s stream.toNat = 0 then s
    else wr s Reg.tdfeStreamMuted stream.toNat 0))

/-! ### Chirp receive (R343-R347) -/

/-- A channel of the plan. -/
def channelOn (s : State) (c : Nat) : Bool :=
  rdB s Reg.caps1Chirp 0 && rdB s Reg.chirpChEnabled c && streamKind s (rd s Reg.chirpChStream c) == 2

/-- A completion entry of the chirp engine (R346, R348). -/
def chirpEvent (s : State) (c : Nat) (st : Status) (tag aux : Nat) : State :=
  coreComplete s (rd s Reg.tdfeStreamCore (rd s Reg.chirpChStream c)) 0x11 st tag aux

/-- Bandwidth of a channel in hertz. -/
def chirpHz (s : State) (c : Nat) : Nat := 62500 * 2 ^ rd s Reg.chirpChBw c

/-- Where the preamble's upchirps and the turns lie, in 1/256 of a bin (R344): the means of the last `preMin` windows and of the turns. -/
def afcUp (h : ChirpHit) (preMin : Nat) : Int :=
  ((h.windows.drop (h.windows.length - preMin)).map (·.bin)).sum / max 1 preMin
def afcDown (h : ChirpHit) : Int := (h.turn1 + h.turn2) / 2

/-- The estimates of AFC, in 1/256 of a bin and of a chip: a frequency offset moves upchirps and turns the same way, a delay moves them
apart (R342, R344). -/
def afcFreq (h : ChirpHit) (preMin : Nat) : Int := (afcUp h preMin + afcDown h) / 2
def afcTiming (h : ChirpHit) (preMin : Nat) : Int := (afcDown h - afcUp h preMin) / 2

/-- A preamble is detected (R343, R344): `preMin` consecutive windows with one peak bin to within one bin and at least 8 times the mean bin
energy, and offsets within ±B / 4 and ±1/2 symbol. -/
def hitDetected (h : ChirpHit) (preMin sf : Nat) : Bool :=
  let ws := h.windows.drop (h.windows.length - preMin)
  preMin ≤ ws.length && ws.all (fun w => 8 * w.mean ≤ w.peak * w.peak && ws.all (fun v => (v.bin - w.bin).natAbs ≤ 256)) &&
    4 * (afcFreq h preMin).natAbs ≤ 256 * 2 ^ sf && 2 * (afcTiming h preMin).natAbs ≤ 256 * 2 ^ sf

/-- The mark symbol falls on the channel's mark, and both turns within a bin of where they are predicted (R343). -/
def hitMarked (h : ChirpHit) (preMin sf mark : Nat) : Bool :=
  ((h.mark - afcUp h preMin + 128) / 256) % (2 ^ sf : Nat) == ((mark % 2 ^ sf : Nat) : Int) &&
    (h.turn1 - afcDown h).natAbs ≤ 256 && (h.turn2 - afcDown h).natAbs ≤ 256

/-- The demodulator that a detection starts, with AFC's estimates frozen in it (R344). -/
def demodOf (s : State) (c sf : Nat) (h : ChirpHit) (overlap : Bool) : Demod :=
  let m := rd s Reg.chirpChPreMin c
  let ns := afcTiming h m * 1000000000 / (256 * chirpHz s c : Nat)
  { sf := sf, overlap := overlap, timeNs := ((h.timeNs : Int) + ns).toNat, freqHz := afcFreq h m * chirpHz s c / (256 * 2 ^ sf : Nat), timingNs := ns,
    peak := (h.windows.map (·.peak)).foldl max 0 }

/-- CHIRP_DETECT (R343-R345): a search has found a preamble, and the mark and the turns after it are checked under AFC; a failed check, an
SF already in demodulation, or a third packet is counted and lost. -/
def execChirpDetect (channel : BitVec 6) (sf : BitVec 4) (hit : ChirpHit) (s : State) : Ans :=
  let c := channel.toNat
  let m := rd s Reg.chirpChPreMin c
  .next (if !channelOn s c ∨ sf.toNat < 6 ∨ 12 < sf.toNat ∨ !hitDetected hit m sf.toNat then s
    else if !hitMarked hit m sf.toNat (rd s Reg.chirpChMark c) then bump s Reg.chirpChMarkMismatch c 1
    else
      let ds := mapGet s.tdfe.demods c []
      if ds.any (fun d => d.sf == sf.toNat) ∨ 2 ≤ ds.length then bump s Reg.chirpChCollisions c 1
      else
        let ds := ds.map (fun d => { d with overlap := true }) ++ [demodOf s c sf.toNat hit (!ds.isEmpty)]
        { s with tdfe := { s.tdfe with demods := mapSet s.tdfe.demods c ds } })

/-- The largest of the bins that a test admits, 0 where none does. -/
def topBin (bins : List Nat) (p : Nat → Bool) : Nat := ((bins.zipIdx.filter (fun e => p e.2)).map (·.1)).foldl max 0

/-- A symbol's hard value: its bin of greatest energy, the lowest winning a tie (R346). -/
def hardValue (bins : List Nat) : Nat := bins.idxOf (bins.foldl max 0)

/-- A symbol whose peak lies below the detection threshold, 8 times the mean bin energy (R343, R345). -/
def faint (bins : List Nat) : Bool :=
  decide (bins.length * (bins.foldl max 0) ^ 2 < 8 * (bins.map (· ^ 2)).sum)

/-- Soft value j of a symbol (R346): the largest magnitude with bit j zero less the largest with it one, the preamble peak scaled to 24,
truncated toward −∞ and saturated to ±31. -/
def softValue (peak : Nat) (bins : List Nat) (j : Nat) : Int :=
  let d : Int := (topBin bins (fun k => !k.testBit j) : Int) - topBin bins (fun k => k.testBit j)
  max (-31) (min 31 (24 * d / max 1 peak))

/-- The soft values of a symbol's record: value j in its six bits for j below SF, zero above. -/
def softBits (sf peak : Nat) (bins : List Nat) : Nat :=
  ((List.range 12).map (fun j => if j < sf then codeOf (softValue peak bins j) 6 * 2 ^ (6 * j) else 0)).sum

/-- How a packet ends (R345), from its symbols as they arrive: truncated at the channel's limit, faded after four faint symbols in a row;
and the symbols delivered. None while it goes on. -/
def packetStop (limit : Nat) (syms : List (List Nat)) : Option (Bool × Bool × List (List Nat)) :=
  let ends (n : Nat) : Bool := n == limit || (4 ≤ n && ((syms.take n).drop (n - 4)).all faint)
  ((List.range (syms.length + 1)).find? (fun n => n != 0 && ends n)).map (fun n =>
    let faded := 4 ≤ n && ((syms.take n).drop (n - 4)).all faint
    (n == limit, faded, syms.take (if faded then n - 4 else n)))

/-- A packet record (Table 12.1, R346). -/
def chirpRecord (c : Nat) (d : Demod) (rssiQ snrQ : Int) (e : Bool × Bool × List (List Nat)) : List Byte :=
  let head := d.timeNs % 2 ^ 64 + c * 2 ^ 64 + d.sf * 2 ^ 70 + bit01 e.1 * 2 ^ 74 + bit01 e.2.1 * 2 ^ 75 + bit01 d.overlap * 2 ^ 76 +
    e.2.2.length % 2 ^ 11 * 2 ^ 80 + codeOf d.freqHz 32 * 2 ^ 96 + codeOf d.timingNs 32 * 2 ^ 128 + codeOf rssiQ 16 * 2 ^ 160 +
    codeOf snrQ 16 * 2 ^ 176
  leBytes 64 head ++ e.2.2.flatMap (fun k => leBytes 16 (hardValue k % 2 ^ 12 + softBits d.sf d.peak k * 2 ^ 16))

/-- PACKET_END (R345, R346): a packet that has ended is written to the receive ring, or dropped where the ring has no room. -/
def execPacketEnd (channel : BitVec 6) (sf : BitVec 4) (pkt : ChirpRec) (room : Nat) (s : State) : Ans :=
  let c := channel.toNat
  let ds := mapGet s.tdfe.demods c []
  .next (match ds.find? (fun d => d.sf == sf.toNat), packetStop (rd s Reg.chirpChMaxSymbols c) pkt.syms with
    | some d, some e =>
      let s := { s with tdfe := { s.tdfe with demods := mapSet s.tdfe.demods c (ds.filter (fun e => e.sf != sf.toNat)) } }
      let bs := chirpRecord c d pkt.rssiQ pkt.snrQ e
      let t := s.tdfe
      if room < bs.length ∨ t.rxSize < bs.length ∨ !inRadioLots s t.rxBase t.rxSize then
        chirpEvent (bump s Reg.chirpStatRxDropped 0 1) c .ok c 4
      else
        let first := min bs.length (t.rxSize - t.rxTail)
        let s := radioWrite (radioWrite s (radioIoStop 0) (t.rxBase + t.rxTail) (bs.take first)) (radioIoStop 0) t.rxBase (bs.drop first)
        let s := { s with tdfe := { s.tdfe with rxTail := (t.rxTail + bs.length) % t.rxSize } }
        chirpEvent (bump s Reg.chirpChPackets c 1) c .ok c 1
    | _, _ => s)

/-- NOISE_FLOOR (R347): the mean over the idle samples of 10 ms, blended in with weight 1/16; the first replaces the reset value. -/
def execNoiseFloor (channel : BitVec 6) (idle : Option (BitVec 16)) (s : State) : Ans :=
  let c := channel.toNat
  .next (if !channelOn s c then s
    else match idle with
      | none => s
      | some m =>
        let old := rd s Reg.chirpChNoiseFloor c
        if old = 0x8000 then wr s Reg.chirpChNoiseFloor c m.toNat
        else wr s Reg.chirpChNoiseFloor c (codeOf ((15 * signedOf old 16 + m.toInt) / 16) 16))

/-! ### Chirp transmit (R348) -/

/-- A transmit entry that is malformed: reserved fields, ranges, channel, or a symbol value beyond 2^SF. -/
def chirpTxBad (s : State) (e : Nat) (syms : List Nat) : Bool :=
  let f (lo n : Nat) : Bool := bitsOf e lo n != 0
  let sf := bitsOf e 70 4
  let n := bitsOf e 112 11
  let pa := bitsOf e 128 39
  f 74 6 || f 108 4 || f 123 5 || f 167 9 || f 190 2 || f 208 304 || sf < 6 || 12 < sf || bitsOf e 80 16 < 6 || 1024 < bitsOf e 80 16 ||
    n == 0 || !channelOn s (bitsOf e 64 6) || !inRadioLots s pa (2 * n) || syms.any (2 ^ sf ≤ ·)

/-- Take one transmit entry. -/
def chirpTxEntry (s : State) (e : Nat) : State :=
  let c := bitsOf e 64 6
  let tag := bitsOf e 192 16
  let start := bitsOf e 0 64
  let n := bitsOf e 112 11
  let pa := bitsOf e 128 39
  let r := if inRadioLots s pa (2 * n) then radioRead s (radioIoStop 0) pa (2 * n) else (s, [], false)
  let syms := (List.range n).map (fun i => leNat ((r.2.1.drop (2 * i)).take 2))
  let s := r.1
  if chirpTxBad s e syms then chirpEvent s c .badFormat tag (c * 2 ^ 8)
  else if start ≠ 0 ∧ start + chirpSymNs s c (bitsOf e 70 4) < now s then chirpEvent s c .radioLate tag (3 + c * 2 ^ 8)
  else
    let x : ChirpTx :=
      { channel := c, tag := tag, startNs := if start = 0 then now s else start, sf := bitsOf e 70 4, nPre := bitsOf e 80 16
        mark := bitsOf e 96 12, att := bitsOf e 176 8, ramp := bitsOf e 184 6, syms := syms }
    { s with tdfe := { s.tdfe with tx := s.tdfe.tx ++ [x] } }

/-- CHIRP_TX_RING_READ (R348): the engine reads the entries the cores have added. -/
def execChirpTxRingRead (tail : BitVec 16) (s : State) : Ans :=
  let t := s.tdfe
  let n := 2 ^ t.txLog
  .next (if rdB s Reg.caps1Chirp 0 = false ∨ !inRadioLots s t.txBase (64 * n) then s
    else
      let s := (List.range ((tail.toNat + n - t.txHead % n) % n)).foldl
        (fun s k =>
          let r := radioRead s (radioIoStop 0) (t.txBase + 64 * ((t.txHead + k) % n)) 64
          chirpTxEntry r.1 (leNat r.2.1)) s
      { s with tdfe := { s.tdfe with txHead := tail.toNat % n } })

/-- CHIRP_TX_DONE (R348): the end of a transmission is reported, once it has come. -/
def execChirpTxDone (channel : BitVec 6) (tag : BitVec 16) (s : State) : Ans :=
  let c := channel.toNat
  .next (match s.tdfe.tx.find? (fun x => x.channel == c && x.tag == tag.toNat && decide (chirpEnd s x ≤ now s)) with
    | none => s
    | some x => chirpEvent { s with tdfe := { s.tdfe with tx := s.tdfe.tx.erase x } } c .ok tag.toNat (2 + c * 2 ^ 8))

end Sys2Proof.Machine
end

