-- ==== Sys2Proof/Machine/StartUp.lean ====
section
/-! DEFINITION. Start and restart (R432-R440, R500-R502): start dependencies, stopping every unit, the restricted start, verification of
firmware and grade record, the identity, the NVM operations and the record: rows RESET_N_ASSERT to GRADE_RECORD_VERIFY, NVM_READ to
PERSISTENT_RECORD_WRITE. -/

namespace Sys2Proof.Machine

/-! ### Start dependencies (Table 17.1) -/

/-- Functions that function i waits for (Table 17.1). -/
def fnDeps (s : State) (i : Nat) : List Nat :=
  if i = 0 then [1, 2]
  else if i = 3 ∨ i = 5 ∨ i = 6 ∨ (9 ≤ i ∧ i ≤ 12) then [0]
  else if i = 13 then [9, 10, 11, 12, 3]
  else if i = 14 ∨ i = 18 ∨ i = 19 ∨ (88 ≤ i ∧ i < 152) then [13]
  else if i = 15 ∨ i = 16 ∨ (64 ≤ i ∧ i < 88) then [3]
  else if i = 17 then [16]
  else if 32 ≤ i ∧ i < 64 then [9 + rd s Reg.readyFnStack i, 3]
  else []

/-- Order in which the dependencies settle. -/
def fnOrder : List Nat :=
  [0, 3, 5, 6, 9, 10, 11, 12, 13, 14, 15, 16, 18, 19, 17] ++ (List.range 32).map (32 + ·) ++ (List.range 24).map (64 + ·) ++
    (List.range 64).map (88 + ·)

/-- What a function needs beside the functions it waits for: a stack waits for the Survey of the supplies (R441) and a die of at least
0 °C (R473). -/
def fnMayStart (s : State) (i : Nat) : Bool :=
  if 9 ≤ i ∧ i ≤ 12 then s.boot.surveyDone.contains 0 && rd s Reg.thermTempDie 0 < 128 else true

/-- A function starts when what it waits for is READY, and fails with NOT_READY when that has failed (R432, R433). Management ports come
up in a restricted start too (R3). -/
def settleFn (s : State) (i : Nat) : State :=
  let st := rd s Reg.readyFnState i
  let deps := fnDeps s i
  if 2 ≤ st then s
  else if deps.any (fun d => rd s Reg.readyFnState d == 3) then
    (if i = 5 ∨ i = 6 then (if st = 0 then fnSet s i 1 .ok else s) else fnSet s i 3 .notReady)
  else if st = 0 ∧ deps.all (fnReady s) = true ∧ fnMayStart s i = true then fnSet s i 1 .ok
  else s

/-- Settle every function, in order. -/
def settle (s : State) : State := fnOrder.foldl settleFn s

/-- Functions that CAPS can report absent: benches, ports, cores, Sieve, TD front end, RADIO (R455). -/
def capsFns : List Nat := [17, 18, 19] ++ (List.range 32).map (32 + ·) ++ (List.range 24).map (64 + ·) ++ (List.range 64).map (88 + ·)

/-- A restricted start (R3, R433, R446): function `i` fails with its cause, CAPS reports zero, what CAPS then reports absent reads
ABSENT, and stacks that have started are powered down. -/
def restrict (s : State) (i : Nat) (st : Status) : State :=
  let s := wr (fnSet s i 3 st) Reg.readySummaryRestricted 0 1
  let s := if rd s Reg.powerStatState 0 = 0 then wr s Reg.powerStatState 0 1 else s
  let s := if rd s Reg.secStatusFailReason 0 = 0 then wr s Reg.secStatusFailReason 0 st.code else s
  let s := [Reg.caps0BenchCount, Reg.caps0DramLots, Reg.caps0JeanoPortMask, Reg.caps1FronthaulPorts, Reg.caps1ChiselCount, Reg.caps1Sieve,
            Reg.caps1Tdfe, Reg.caps1Chirp, Reg.caps1RadioUnits].foldl (fun s f => wr s f 0 0) s
  let s := (capsFns.filter (fun k => rd s Reg.readyFnState k < 2)).foldl (fun s k => fnSet s k 4 .ok) s
  settle ([9, 10, 11, 12].foldl (fun s k => if rd s Reg.readyFnState k = 3 then s else fnSet s k 3 .notReady) s)

/-! ### Stopping every unit (Table 18.1) -/

/-- A register key is an instance of a field. -/
def isInst (f : Fld) (k : Nat) : Bool :=
  if f.stride = 0 then k == f.base else f.base ≤ k && (k - f.base) % f.stride == 0 && (k - f.base) / f.stride < f.count

/-- Every instance of the listed fields returns to its reset value. -/
def resetFlds (s : State) (fs : List Fld) : State := { s with regs := s.regs.filter (fun e => !fs.any (fun f => isInst f e.1)) }

/-- Fields of units that stop with their unit: READY of what is unpowered, benches, ports, cells, streams, cores, cable ports. -/
def stoppedFlds : List Fld :=
  [Reg.benchStatePstate, Reg.benchStateOwner, Reg.benchYardSpacePages, Reg.benchYardMapped, Reg.benchYardShadows, Reg.benchYardFree,
   Reg.benchStateCtxXfer, Reg.jeanoPortState, Reg.fhPortLinkUp, Reg.cellState, Reg.tdfeStreamRunning, Reg.chiselCoreState, Reg.cableState,
   Reg.cablePowerMw, Reg.bankBenchFloor, Reg.bankBenchReserve, Reg.bankBenchFloorPos, Reg.readySummaryMemory, Reg.readySummaryFabric,
   Reg.readySummaryRadio]

/-- Functions whose units stop: stacks, what stands on DRAM, benches, ports and cores. -/
def stoppedFns : List Nat := [9, 10, 11, 12, 13, 14, 15] ++ capsFns

/-- Every bench, core, engine, stack and port stops and is unpowered, nothing commits any more, and DRAM contents are lost (Table 18.1,
R473, R500). -/
def stopUnits (s : State) : State :=
  let s := resetFlds s stoppedFlds
  let s := (stoppedFns.filter (fun i => rd s Reg.readyFnState i ≠ 4)).foldl (fun s i =>
    wr (wr (wr s Reg.readyFnState i 0) Reg.readyFnStatus i 0) Reg.readyFnReadyMs i 0) s
  let s := (List.range 32).foldl (fun s b => wr s Reg.benchStateRole b (if bitOf (rd s Reg.healthQuarBenches 0) b then 3 else 0)) s
  let z := State.reset
  { s with
    mem := { z.mem with keys := s.mem.keys, delivered := s.mem.delivered, salt := s.mem.salt, persist := s.mem.persist,
                        repairs := s.mem.repairs, err := s.mem.err.filter (fun e => e.2.hard) }
    work := { s.work with queues := s.work.queues.map (fun e => (e.1, { e.2 with enable := false, state := .disabled, busy := false, bells := [] })),
                          steps := [], cmds := [] }
    yards := { z.yards with recipe := s.yards.recipe }
    fab := z.fab
    crush := z.crush
    cores := []
    radio := { z.radio with plan := s.radio.plan }
    tdfe := { z.tdfe with cfg := s.tdfe.cfg }
    health := { s.health with runs := [], due := [] } }

/-! ### Reset and restart (R439, R500-R502) -/

/-- The machine as a reset leaves it: State.reset, with host memory, the NVM, the pins of the supply and the model's own fields kept. The
hold-up store keeps its charge, and errors of a defective cell stay. -/
def coldState (s : State) : State :=
  let z := State.reset
  let c := { z with host := s.host, out := s.out, free := s.free, pending := s.pending,
                    mem := { z.mem with err := s.mem.err.filter (fun e => e.2.hard) },
                    boot := { z.boot with nvm := s.boot.nvm, resetLow := s.boot.resetLow, converting := s.boot.converting } }
  wr c Reg.powerHoldStoredDj 0 (rd s Reg.powerHoldStoredDj 0)

/-- The start sequence begins (Table 17.1): the time base counts from zero (R260), the salt, the key of slot 0 and the incarnation are
drawn (R152, R158, R205), and SECURITY, NVM and UCIe come up. -/
def startSeq (s : State) : State :=
  let s := coldState s
  let s := drawn { s with mem := { s.mem with salt := Config.entropy s.free % 2 ^ 26 } }
  let s := freshKey s 0
  let s := drawn (wr s Reg.jeanoNodeIncarnation 0 (Config.entropy s.free))
  let s := [Reg.timeClkStatusRefOk, Reg.timeClkStatusRootLock, Reg.timeClkStatusSerdesLock, Reg.timeClkStatusUcieLock].foldl
    (fun s f => wr s f 0 1) s
  [1, 2, 4].foldl (fun s i => fnSet s i 1 .ok) s

/-- RESET_N goes low: ignored until a running hold-up sequence ends (R502). -/
def resetLow (s : State) : State :=
  let t := { s with boot := { s.boot with resetLow := true } }
  if s.power.holdRun then t else coldState t

/-- RESET_N rises: the start begins if conversion runs and no hold-up sequence does (R457, R500, R502). -/
def resetHigh (s : State) : State :=
  if s.boot.resetLow then
    let t := { s with boot := { s.boot with resetLow := false } }
    if t.boot.converting ∧ !t.power.holdRun then startSeq t else t
  else s

/-- RESET_N_ASSERT (R500): a low level of at least 10 µs. -/
def execResetNAssert (s : State) : Ans := .next (resetLow s)

/-- RESET_N_RELEASE (R500). -/
def execResetNRelease (s : State) : Ans := .next (resetHigh s)

/-- READY_RESTART (R439): the key restarts as a pulse of RESET_N would, any other value is discarded. -/
def execReadyRestart (key : BitVec 32) (s : State) : Ans :=
  .next (if key = 0x5A5AA5A5 ∧ s.boot.resetLow = false then resetHigh (resetLow s) else s)

/-! ### Firmware, identity and grade record (R2-R5, R419-R422, R438) -/

/-- Why an object of a region does not verify, or the object. -/
def tryObject (s : State) (r : Nat × Nat) (kind minSvn : Nat) (allowed : Nat → Bool) (bound : Bool) : Except Status (List Byte) :=
  match regionObject s r with
  | none => .error .badFormat
  | some o =>
    match verifyObject s kind minSvn allowed bound o with
    | some st => .error st
    | none => .ok o

/-- The first of two slots that verifies, from the preferred one: its number and object, or the preferred slot's status. -/
def trySlots (s : State) (slot : Nat → Nat × Nat) (first kind minSvn : Nat) (allowed : Nat → Bool) : Except Status (Nat × List Byte) :=
  match tryObject s (slot first) kind minSvn allowed false with
  | .ok o => .ok (first, o)
  | .error st =>
    match tryObject s (slot (1 - first)) kind minSvn allowed false with
    | .ok o => .ok (1 - first, o)
    | .error _ => .error st

/-- The record's ASCII mark for MR4 when none was found (R452). -/
def precLostMark : List Byte := [0x50, 0x52, 0x45, 0x43, 0x4C, 0x4F, 0x53, 0x54]

/-- The boot ROM reads both banks and takes the winner, or starts with an empty record (R438, R452). -/
def loadRecord (s : State) : State :=
  match recWinner s with
  | some b => recLoad s b
  | none => mrExtend (wr s Reg.readyBootPrecLost 0 1) 4 (digest precLostMark)

/-- FIRMWARE_VERIFY (R438). -/
def execFirmwareVerify (s : State) : Ans :=
  .next (if !fnReady s 2 ∨ 2 ≤ rd s Reg.readyFnState 0 ∨ rdB s Reg.secStatusFirmwareOk 0 then s
    else
      let s := loadRecord s
      let first := rd s Reg.readyNextFwSlot 0
      match trySlots s regFw first 1 (rd s Reg.secSvnFwMin 0) (· == 0) with
      | .error st => restrict s 0 st
      | .ok (slot, o) =>
        let s := measure s 0 o
        let s := if rdB s Reg.readyBootPrecLost 0 then wr s Reg.secSvnFwMin 0 (svnOf o) else s
        wr (wr (wr (wr s Reg.secStatusFirmwareOk 0 1) Reg.secSvnRunFw 0 (svnOf o)) Reg.readyBootFwSlot 0 slot)
          Reg.readyBootFwFallback 0 (bit01 (slot != first)))

/-- Length of a DER element at a byte offset: its header and contents. -/
def derLen (bs : List Byte) : Nat :=
  let l := (bs.getD 1 0).toNat
  if l < 0x80 then 2 + l
  else if l = 0x81 then 3 + (bs.getD 2 0).toNat
  else if l = 0x82 then 4 + (bs.getD 2 0).toNat * 256 + (bs.getD 3 0).toNat
  else 0

/-- The certificate chain in the NVM: two DER certificates (R420). -/
def certChain (s : State) : List Byte :=
  let bs := nvmBytes s regChain.1 regChain.2
  let n := derLen bs
  bs.take (n + derLen (bs.drop n))

/-- IDENTITY_DERIVE (R419, R420): the key pair and device ID, and the certificate chain copied; failure leads to a restricted start. -/
def execIdentityDerive (s : State) : Ans :=
  .next (if rdB s Reg.secStatusFirmwareOk 0 = false ∨ 2 ≤ rd s Reg.readyFnState 1 then s
    else match Config.pufKey (nvmBytes s regHelper.1 regHelper.2) with
      | none => restrict (fnSet s 1 3 .internal) 0 .permission
      | some d =>
        let pub := (Config.sm2Pub d).toNat
        let cert := certChain s
        let s := { s with sec := { s.sec with d := some d } }
        let s := wr (wr s Reg.secPubkeyKey 0 pub) Reg.secDeviceIdId 0 (digest (leBytes 64 pub))
        let s := wr (wr s Reg.secCertChain 0 (leNat cert)) Reg.secCertLenLen 0 cert.length
        settle (fnSet (wr s Reg.secStatusIdentityOk 0 1) 1 2 .ok))

/-- The parts of Table 00.1 beside their benches to harvest: units and owner key of a grade record for none other exist (R4). -/
def gradeOk (g : GradeRec) : Bool :=
  (([(32, 384, 0xFFFF, 8, 64, 2, true, 384), (16, 256, 0xFFFF, 8, 64, 2, true, 384), (24, 256, 0xC387, 4, 32, 1, false, 192),
     (32, 384, 0xFFFF, 0, 0, 0, false, 0)] : List (Nat × Nat × Nat × Nat × Nat × Nat × Bool × Nat)).contains
      (g.benches, g.lots, g.jeanoMask, g.fronthaul, g.chisel, g.sieve, g.tdfe, g.radioUnits)) &&
  g.harvested.eraseDups.length == g.harvested.length && g.harvested.length == 34 - g.benches && g.harvested.all (· < 34)

/-- The stack over a physical bench (R503). -/
def stackOf (phys : Nat) : Nat := if phys ≤ 8 then 0 else if phys ≤ 16 then 1 else if phys ≤ 25 then 2 else 3

/-- Sieve engines of a size: LDPC decoders and encoders, polar decoders and encoders (R4). -/
def sieveSize (code : Nat) : Nat × Nat × Nat × Nat :=
  match code with
  | 0 => (0, 0, 0, 0)
  | 1 => (16, 8, 4, 4)
  | _ => (32, 16, 8, 8)

/-- Load CAPS and the grade fields (R2, R4, R5): what CAPS reports absent reads ABSENT. -/
def loadGrade (s : State) (g : GradeRec) : State :=
  let e := sieveSize g.sieve
  let s := [(Reg.caps0BenchCount, g.benches), (Reg.caps0DramLots, g.lots), (Reg.caps0JeanoPortMask, g.jeanoMask),
            (Reg.caps1FronthaulPorts, g.fronthaul), (Reg.caps1ChiselCount, g.chisel), (Reg.caps1Sieve, g.sieve),
            (Reg.caps1Tdfe, bit01 g.tdfe), (Reg.caps1Chirp, bit01 g.tdfe), (Reg.caps1RadioUnits, g.radioUnits), (Reg.memCfgLots, g.lots),
            (Reg.memCfgLayers, g.lots / 32), (Reg.sieveCountLdpcDec, e.1), (Reg.sieveCountLdpcEnc, e.2.1), (Reg.sieveCountPolarDec, e.2.2.1),
            (Reg.sieveCountPolarEnc, e.2.2.2), (Reg.chiselInfoCores, g.chisel), (Reg.bankThermTenantCap, g.benches),
            (Reg.tdfeInfoChirp, bit01 g.tdfe), (Reg.secOwnerKeyKey, g.ownerKey.toNat), (Reg.secStatusGradeOk, 1)].foldl
    (fun s x => wr s x.1 0 x.2) s
  let engines := (List.range e.1) ++ (List.range e.2.1).map (32 + ·) ++ (List.range e.2.2.1).map (48 + ·) ++ (List.range e.2.2.2).map (56 + ·)
  let s := engines.foldl (fun s i => wr s Reg.sieveEngEnabled i 1) s
  let phys := (List.range 34).filter (fun p => !g.harvested.contains p)
  let s := phys.zipIdx.foldl (fun s x => wr (wr s Reg.benchIdPhysical x.2 x.1) Reg.readyFnStack (32 + x.2) (stackOf x.1)) s
  let absent (i : Nat) : Bool :=
    if i = 17 then g.radioUnits == 0 else if i = 18 then g.sieve == 0 else if i = 19 then !g.tdfe
    else if i < 64 then g.benches ≤ i - 32 else if i < 80 then !bitOf g.jeanoMask (i - 64)
    else if i < 88 then g.fronthaul ≤ i - 80 else g.chisel ≤ i - 88
  let s := ((List.range 16).filter (fun p => !bitOf g.jeanoMask p)).foldl (fun s p => wr s Reg.jeanoPortState p 7) s
  (capsFns.filter absent).foldl (fun s i => fnSet s i 4 .ok) s

/-- GRADE_RECORD_VERIFY (R2-R5, R433): the record is verified and measured, then the units are enabled; a failure starts restricted. The
body's layout is not in the spec: its content is the operand. -/
def execGradeRecordVerify (grade : GradeRec) (s : State) : Ans :=
  .next (if rdB s Reg.secStatusFirmwareOk 0 = false ∨ !fnReady s 1 ∨ 2 ≤ rd s Reg.readyFnState 0 then s
    else match tryObject s regGrade 2 0 (· == 0) true with
      | .error st => restrict s 0 st
      | .ok o =>
        if !gradeOk grade then restrict s 0 .badFormat
        else settle (fnSet (wr (loadGrade (measure s 1 o) grade) Reg.powerStatState 0 1) 0 2 .ok))

/-! ### NVM operations (R437, R440) -/

/-- A range lies in one of the listed regions. -/
def inRegions (rs : List (Nat × Nat)) (a n : Nat) : Bool := rs.any (fun r => r.1 ≤ a && a + n ≤ r.1 + r.2)

/-- Regions that the manager may read, and those it may erase and program now: slots in use verified and took effect. -/
def readRegions : List (Nat × Nat) := [regGrade, regChain, regMgmt, regBank 0, regBank 1, regFw 0, regFw 1, regImg 0, regImg 1]
def writeRegions (s : State) : List (Nat × Nat) :=
  let free (ok slot : Fld) (r : Nat → Nat × Nat) : List (Nat × Nat) :=
    ((List.range 2).filter (fun i => !(rdB s ok 0 && rd s slot 0 == i))).map r
  [regMgmt] ++ free Reg.secStatusFirmwareOk Reg.readyBootFwSlot regFw ++ free Reg.secStatusImageOk Reg.readyBootImgSlot regImg

/-- Why an operation through CFG_NVM cannot start: its buffer. -/
def nvmRefused (s : State) (buffer : Bool) : Option Status :=
  let n := rd s Reg.cfgNvmLength 0
  if !fnReady s 2 then some .notReady
  else if !buffer then none
  else if rdB s Reg.cfgNvmWin 0 then (if 65536 < n then some .badFormat else none)
  else if !fnReady s 13 ∨ rdB s Reg.readySummaryRestricted 0 then some .notReady
  else if !inReserve s (rd s Reg.cfgNvmPa 0) n then some .translationFault
  else none

/-- The buffer that a PROGRAM reads holds an uncorrectable line (R164). -/
def nvmBufferBad (s : State) : Bool :=
  !rdB s Reg.cfgNvmWin 0 && (errLines s.mem (rd s Reg.cfgNvmPa 0, rd s Reg.cfgNvmLength 0)).any (badLine s)

/-- The bytes of an operation's buffer. -/
def nvmBuffer (s : State) : List Byte :=
  let n := rd s Reg.cfgNvmLength 0
  if rdB s Reg.cfgNvmWin 0 then (List.range n).map (fun i => BitVec.ofNat 8 (rd s Reg.cfgNvmWinByte i)) else memBytes s (rd s Reg.cfgNvmPa 0) n

/-- An operation ends with its status. -/
def nvmDone (s : State) (st : Status) : State := wr s Reg.cfgNvmStatus 0 st.code

/-- Whole 64-byte lines are stored where the buffer is in memory. -/
def nvmDeliver (s : State) (bs : List Byte) : State :=
  if rdB s Reg.cfgNvmWin 0 then bs.zipIdx.foldl (fun s b => wr s Reg.cfgNvmWinByte b.2 b.1.toNat) s else dramStore s (rd s Reg.cfgNvmPa 0) bs

/-- NVM_READ (R437). -/
def execNvmRead (s : State) : Ans :=
  let a := rd s Reg.cfgNvmNvmOffset 0
  let n := rd s Reg.cfgNvmLength 0
  .next (match nvmRefused s true with
    | some st => nvmDone s st
    | none => if inRegions readRegions a n then nvmDone (nvmDeliver s (nvmBytes s a n)) .ok else nvmDone s .permission)

/-- NVM_ERASE (R437). -/
def execNvmErase (s : State) : Ans :=
  let a := rd s Reg.cfgNvmNvmOffset 0
  let n := rd s Reg.cfgNvmLength 0
  .next (match nvmRefused s false with
    | some st => nvmDone s st
    | none =>
      if inRegions (regGrade :: writeRegions s) a n then nvmDone { s with boot := { s.boot with nvm := nvmErase s.boot.nvm a n } } .ok
      else nvmDone s .permission)

/-- A buffer holds a whole grade record region for this device: the length, then an object that verifies (R437). -/
def gradeProgramOk (s : State) (bs : List Byte) : Bool :=
  let n := leNat (bs.take 8)
  n != 0 && bs.length == n + 8 && n + 8 ≤ regGrade.2 && (verifyObject s 2 0 (· == 0) true (bs.drop 8)).isNone

/-- NVM_PROGRAM (R437, R440): a grade record is verified first, and its region erased by the operation itself; elsewhere cleared bits stay
cleared until an erase. -/
def execNvmProgram (s : State) : Ans :=
  let a := rd s Reg.cfgNvmNvmOffset 0
  let n := rd s Reg.cfgNvmLength 0
  .next (match nvmRefused s true with
    | some st => nvmDone s st
    | none =>
      let bs := nvmBuffer s
      if nvmBufferBad s then nvmDone s .memUe
      else if inRegions [regGrade] a n then
        if a = regGrade.1 ∧ gradeProgramOk s bs then
          nvmDone { s with boot := { s.boot with nvm := nvmPut (nvmErase s.boot.nvm regGrade.1 regGrade.2) a bs } } .ok
        else nvmDone s .permission
      else if inRegions (writeRegions s) a n then
        let new := bs.zipIdx.map (fun b => b.1 &&& nvmByte s (a + b.2))
        nvmDone { s with boot := { s.boot with nvm := nvmPut s.boot.nvm a new } } .ok
      else nvmDone s .permission)

/-! ### The record (R439, R453) -/

/-- READY_NEXT (R439): the selection is in the persistent record before the write completes. -/
def execReadyNext (fw img ok1 ok2 : Bool) (s : State) : Ans :=
  .next (recWrite (wr (wr s Reg.readyNextFwSlot 0 (bit01 fw)) Reg.readyNextImgSlot 0 (bit01 img)) ok1 ok2)

/-- Writes of the last day for new UE_PERSISTENT records (R453). -/
def recUeDay (s : State) : List Nat := s.boot.recUeNs.filter (fun t => s.clock.up < t + 86400000000000)

/-- A new UE_PERSISTENT record is written at once, at most 16 times in a day (R453). -/
def recUeDue (s : State) : Bool := s.boot.recUe && decide ((recUeDay s).length < 16)

/-- An hour has passed since the last write for other changes (R453). -/
def recHourDue (s : State) : Bool :=
  match s.boot.recLastNs with
  | none => true
  | some t => decide (t + 3600000000000 ≤ s.clock.up)

/-- PERSISTENT_RECORD_WRITE (R453, R464): pending changes are written: after the Survey and on a new UE_PERSISTENT record at once, others
at most once per hour, and in the hold-up sequence only when the store allows it. -/
def execPersistentRecordWrite (ok1 ok2 : Bool) (s : State) : Ans :=
  .next (if s.boot.recPending = false then s
    else if s.power.holdRun then
      (if rdB s Reg.powerHoldRecordOk 0 && rdB s Reg.powerStatHoldReady 0 then recWrite s ok1 ok2 else s)
    else if s.boot.recAtOnce then recWrite s ok1 ok2
    else if recUeDue s then recWrite { s with boot := { s.boot with recUeNs := s.clock.up :: recUeDay s } } ok1 ok2
    else if recHourDue s then recWrite { s with boot := { s.boot with recLastNs := some s.clock.up } } ok1 ok2
    else s)

end Sys2Proof.Machine
end

