-- ==== Sys2Proof/Machine/BringUp.lean ====
section
/-! DEFINITION. Bring-up of the functions (R432-R434, R503), the Survey (R441, R442), configuration lock (R446) and staged groups
(R447-R450): rows FUNCTION_READY to STAGED_APPLY. -/

namespace Sys2Proof.Machine

/-! ### Staged groups -/

/-- Why a commit cannot start (R448): an unlisted kind, an index out of range, a VF above NumVFs, an absent stream, or IMAGE not READY.
Firmware's own commits of DEFAULTS (R445) come before IMAGE reports READY. -/
def commitRefused (s : State) (kind index : Nat) (fw : Bool) : Option Status :=
  if kind = 0 ∨ 5 < kind then some .badFormat
  else if (if kind = 5 then 15 else 512) < index ∨ (kind = 3 ∧ index = 0) then some .badFormat
  else if kind ≠ 5 ∧ rd s Reg.tenInfoVfs 0 < index then some .permission
  else if kind = 5 ∧ streamKind s index = 0 then some .noUnit
  else if !fw && !fnReady s 3 then some .notReady
  else none

/-- The checks of Table 17.5 on the staging copy: the sum of bench_min and the ranges (R357), the Yard share (R401), the segments
(R340). -/
def commitBad (s : State) (kind i : Nat) : Option Status :=
  match kind with
  | 2 =>
    let mn := rd s Reg.bankPartBenchMin i
    let mx := rd s Reg.bankPartBenchMax i
    let q := rd s Reg.bankPartQuantum i
    let others := (((List.range 513).filter (· != i)).map (rdLive s Reg.bankPartBenchMin)).sum
    if benchCount s - rd s Reg.bankRotCount 0 < others + mn then some .quota
    else if mx < mn ∨ benchCount s < mx ∨ q < 2 ∨ 1000 < q then some .badFormat
    else none
  | 3 => if 192 < rd s Reg.vfPartYardPages i then some .badFormat else none
  | 5 =>
    if 32 < rd s Reg.tdfeStreamSegCount i ∨
        (List.range 32).any (fun g => rd s Reg.tdfeSegHi (32 * i + g) < rd s Reg.tdfeSegLo (32 * i + g)) = true then some .badFormat
    else none
  | _ => none

/-- A commit (R448): it takes the next token; it is refused at once, or its snapshot replaces a pending one of the same group, whose outcome
is SUPERSEDED, and the checks follow. An accepted yard_pages applies from the next placement on (R401). -/
def commitGroup (s : State) (kind index : Nat) (fw : Bool) : State :=
  let token := (rd s Reg.cfgCommitToken 0 + 1) % 2 ^ 16
  let s := wr s Reg.cfgCommitToken 0 token
  match commitRefused s kind index fw with
  | some st => cfgResult s token kind index 2 st
  | none =>
    let old := s.cfg.pending.filter (fun p => p.kind == kind && p.index == index)
    let s := old.foldl (fun s p => cfgResult (putPending s (s.cfg.pending.filter (· != p))) p.token kind index 3 .ok) s
    match commitBad s kind index with
    | some st => cfgResult s token kind index 2 st
    | none =>
      let vs := (groupFields kind index).map (fun e => rd s e.1 e.2)
      let s := if kind = 3 then wrLive s Reg.vfPartYardPages index (rd s Reg.vfPartYardPages index) else s
      putPending s (s.cfg.pending ++ [{ kind := kind, index := index, token := token, values := vs, crc := snapCrc vs }])

/-- CFG_COMMIT (R448): the manager sets go, which clears within 1 µs. -/
def execCfgCommit (s : State) : Ans :=
  .next (if rdB s Reg.readySummaryRestricted 0 then logErr s 0 .notReady 0 0 0x20010
    else commitGroup s (rd s Reg.cfgCommitKind 0) (rd s Reg.cfgCommitIndex 0) false)

/-- STAGED_APPLY (R448, R450): the boundary of a kind comes, and its blocks apply their snapshots; a damaged one is torn. Benches above a
lowered bench_max are given up (R357). -/
def execStagedApply (kind : BitVec 4) (damaged : Bool) (s : State) : Ans :=
  let k := kind.toNat
  let due := s.cfg.pending.filter (fun p => p.kind == k)
  let hurt (p : Snap) : Snap := if damaged ∧ due.head? = some p then { p with crc := (p.crc + 1) % 2 ^ 32 } else p
  let s := applyKind { s with cfg := { s.cfg with pending := s.cfg.pending.map hurt } } k
  .next (if k = 2 then due.foldl (fun s p => trimPart s p.index) s else s)

/-! ### Configuration lock -/

/-- Assign the lots (R153): firmware's two, radio's, the manager reserve, and the rest free. -/
def assignLots (s : State) : State :=
  let radio := if rd s Reg.radioPlanStatus 0 = 1 then rd s Reg.memRsvRadioLots 0 else 0
  let mgr := rd s Reg.memRsvMgrLots 0
  (List.range (rd s Reg.caps0DramLots 0)).foldl (fun s n =>
    wr (wr s Reg.lotOwnerState n 0) Reg.lotOwnerOwner n
      (if n < 2 then 0x3FF else if n < 2 + radio then 0x3FE else if n < 2 + radio + mgr then 0x3FD else 0)) s

/-- Both conditions of R446 hold and lock has not been taken. -/
def mayLock (s : State) : Bool := fnReady s 3 && [9, 10, 11, 12].all (fnReady s) && !rdB s Reg.readySummaryLocked 0

/-- Lock is taken: RWL fields freeze, lots are assigned, MEMORY is READY, and NumVFs takes effect
unless debug is at VENDOR by then (R430). -/
def takeLock (s : State) : State :=
  let s := assignLots (wr (wr s Reg.readySummaryLocked 0 1) Reg.cfgLockLock 0 1)
  let s := fnSet s 13 2 .ok
  let s := match s.boot.numVfs with
    | none => s
    | some m =>
      let t := { s with boot := { s.boot with numVfs := none } }
      if rd s Reg.secStatusDebug 0 = 2 ∧ rd s Reg.tenInfoVfs 0 < m then logErr t 0 .permission 0 0 0 else applyNumVfs t m
  settle s

/-- CONFIGURATION_LOCK (R446): automatic when hold is 0, else by the manager's write of CFG_LOCK.lock, which is kept until both conditions
hold. Once lock is taken a write is an RWL write after lock. -/
def execConfigurationLock (manager : Bool) (s : State) : Ans :=
  .next (if manager ∧ rdB s Reg.readySummaryLocked 0 then logErr s 0 .permission 0 0 0x20000
    else
      let s := if manager then { s with boot := { s.boot with lockAsked := true } } else s
      if mayLock s && (rd s Reg.cfgLockHold 0 == 0 || s.boot.lockAsked) then takeLock s else s)

/-! ### Bring-up -/

/-- A function whose bring-up runs and that reports by this row: not DEVICE, SECURITY, IMAGE, SURVEY, MEMORY, TIME, RADIO or a Chisel
core, which report through the rows that make them READY. -/
def bringing (s : State) (i : Nat) : Bool :=
  rd s Reg.readyFnState i == 1 && ([2, 4, 5, 6, 9, 10, 11, 12, 14, 15, 18, 19].contains i || (32 ≤ i && i < 88))

/-- The ports of the domain axes have settled, and advertisements have been exchanged with every member that a route reaches: it has given its
own, and this device's to it are acknowledged (R183). -/
def domainReady (s : State) : Bool :=
  (bitList 14 (rd s Reg.caps0JeanoPortMask 0)).all (fun p => 2 ≤ rd s Reg.readyFnState (64 + p)) &&
  ((domainMembers s).filter (fun n => n != ownNode s && (domainRoute s .s false n).isSome)).all (fun n =>
    rd s Reg.jeanoLinkmapVersion (n % 64) != 0 && !s.fab.unacked.any (fun e => e.2.msg.kind == .lsa && e.2.msg.dstNode == n))

/-- The ports CAPS reports have all settled (R177). -/
def portsSettled (s : State) : Bool :=
  (bitList 16 (rd s Reg.caps0JeanoPortMask 0)).all (fun p => 2 ≤ rd s Reg.readyFnState (64 + p))

/-- What a function asks for beside its own result: links up (R432, R436), a die of at least 0 °C (R473), settled ports (R183). -/
def mayReady (s : State) (i : Nat) : Bool :=
  if i = 5 ∨ i = 6 then rdB s (mgmtLink (i - 5)) 0
  else if 9 ≤ i ∧ i ≤ 12 then decide (rd s Reg.thermTempDie 0 < 128)
  else if i = 15 then domainReady s
  else if 64 ≤ i ∧ i < 80 then !([1, 3].contains (rd s Reg.jeanoPortState (i - 64)))
  else if 80 ≤ i ∧ i < 88 then rd s Reg.fhPortLinkUp (i - 80) == 2 ^ subPorts s (i - 80) - 1
  else true

/-- Repair of a stack at its training (R442, Table 17.6): spare rows take the place of listed lines, oldest first, as many as there are;
a repaired line's records leave the store (R454). -/
def repairStack (s : State) (stack spare : Nat) : State :=
  let lines := (s.mem.repairs.filter (fun e => e < 2 ^ 33 && channelOf s (e * 64) / 32 == stack)).take spare
  if lines.isEmpty then s
  else recMark { s with mem := { s.mem with
    repairs := s.mem.repairs.map (fun e => if lines.contains e then e + 2 ^ 33 else e)
    err := s.mem.err.filter (fun e => !lines.contains e.1)
    persist := s.mem.persist.filter (fun r => !(bitsOf r 64 8 == 3 && lines.contains (bitsOf r 128 33))) } }

/-- What a function's success does beside its report. -/
def onReady (s : State) (i aux : Nat) : State :=
  if i = 2 then wr s Reg.readyBootNvmSlow 0 (aux % 2)
  else if i = 5 ∨ i = 6 then sendDatagram s 4 0 (i - 5)
  else if 9 ≤ i ∧ i ≤ 12 then repairStack s (i - 9) aux
  else if i = 19 then (List.range (rd s Reg.tdfeInfoStreams 0)).foldl (fun s n => wr s Reg.tdfeStreamRunning n 1) s
  else if 32 ≤ i ∧ i < 64 then showBench (wr (wr s Reg.benchStateRole (i - 32) 0) Reg.benchStatePstate (i - 32) 0) (i - 32)
  else s

/-- A function reports FAILED (R433). -/
def onFail (s : State) (i : Nat) (st : Status) : State :=
  if i = 2 then restrict (fnSet s 2 3 .internal) 0 .internal
  else if 32 ≤ i ∧ i < 64 then fnSet (quarantine s (i - 32)) i 3 st
  else fnSet s i 3 st

/-- FUNCTION_READY (R432, R433): the bring-up of a function ends; a bench in quarantine stays there. -/
def execFunctionReady (idx : BitVec 8) (fail : Option Status) (aux : Nat) (s : State) : Ans :=
  let i := idx.toNat
  .next (if bringing s i = false then s
    else match fail with
      | some st => settle (onFail s i st)
      | none =>
        if mayReady s i = false then s
        else if 32 ≤ i ∧ i < 64 ∧ bitOf (rd s Reg.healthQuarBenches 0) (i - 32) = true then settle (onFail s i .internal)
        else settle (fnSet (onReady s i aux) i 2 .ok))

/-! ### Cable power ports (R466) -/

/-- A probe of a port finds what it finds: a short latches FAULT, an open port is ABSENT, a load is powered at its ceiling; a port
whose ceiling is 0 stays OFF. -/
def probeCable (s : State) (j : Nat) (p : CableProbe) : State :=
  if rd s Reg.cableCeilingCw j = 0 then wr s Reg.cableState j 0
  else match p with
    | .short => healthCause (wr s Reg.cableState j 5) Reg.healthCausePower
    | .open_ => wr s Reg.cableState j 1
    | .load _ => wr s Reg.cableState j 2

/-! ### The hold-up store's sums (R462, R464) -/

/-- record_ok: t_rec ≤ 750 ms, and the write's energy with 1 J to spare fits what V_target stores above 20 V. Energies in 5 × 10^-13 J. -/
def showRecordOk (s : State) : State :=
  let t := mapGet s.boot.survey 1023 0
  let c := rd s Reg.powerHoldCapUf 0
  let full := min (2 * 10 ^ 11 * rd s Reg.powerHoldCeilingDj 0) (36 * 10 ^ 8 * c)
  wr s Reg.powerHoldRecordOk 0
    (bit01 (s.boot.surveyDone.contains 0 && 100 ≤ c && t ≤ 750000 && (6 * t + 10 ^ 6) * (2 * 10 ^ 6) + 4 * 10 ^ 8 * c ≤ full))

/-! ### The Survey (Table 17.3) -/

/-- Number of an item, its bit in SURVEY_STATE.changed. -/
def itemNum : SurveyItem → Nat
  | .supplies _ _ => 0 | .cables _ => 1 | .flights => 2 | .partners _ => 3 | .sensors _ => 4 | .dram _ => 5 | .cooling _ _ => 6

/-- Load class of a probe as the record keeps it: 0 open, 1 short, then the class. -/
def probeCode : CableProbe → Nat
  | .open_ => 0 | .short => 1 | .load c => c + 2

/-- The results of an item by index. -/
def itemWords (s : State) : SurveyItem → List Nat
  | .supplies means _ => means
  | .cables probes => probes.map probeCode
  | .flights => (List.range 16).flatMap (fun p => [rd s Reg.jeanoPortFlightNs p, rd s Reg.jeanoPortPartnerNode p])
  | .partners fields => fields
  | .sensors answered => (List.range 16).map (fun i => bit01 (answered.contains i))
  | .dram margins => margins
  | .cooling rpm _ => rpm

/-- Distance of two numbers. -/
def distNat (a b : Nat) : Nat := (a - b) + (b - a)

/-- A result differs from the previous start's by what Table 17.3 asks. -/
def surveyDiffers (item i new old : Nat) : Bool :=
  match item with
  | 0 => old < 50 * distNat new old
  | 2 => if i % 2 = 0 then 5 < distNat new old else new != old
  | 5 => old < 10 * distNat new old
  | 6 => old < 10 * distNat new old
  | _ => new != old

/-- Some result of an item differs from that of the previous start. -/
def surveyChanged (s : State) (item : Nat) (ws : List Nat) : Bool :=
  ws.zipIdx.any (fun w => match mapFind s.boot.before (1024 * item + w.2) with
    | some old => surveyDiffers item w.2 w.1 old
    | none => false)

/-- An item may be measured now: cable ports and their image (R466), the rest with DEVICE. -/
def itemReady (s : State) (item : SurveyItem) : Bool :=
  fnReady s 0 && (match item with
    | .supplies _ _ => true
    | .sensors _ => true
    | .dram _ => [9, 10, 11, 12].all (fun i => 2 ≤ rd s Reg.readyFnState i)
    | .flights => fnReady s 3 && portsSettled s
    | _ => fnReady s 3)

/-- An item is done; with the last of the seven the Survey is READY and the record is to be written (R441, R453). -/
def itemDone (s : State) (item : Nat) : State :=
  let s := { s with boot := { s.boot with surveyDone := insertNat s.boot.surveyDone item } }
  if s.boot.surveyDone.length = 7 then
    let s := recMark (wr s Reg.surveyStateState 0 2)
    fnSet { s with boot := { s.boot with recAtOnce := true } } 7 2 .ok
  else s

/-- The thermal model in use: source 1 surveyed, 2 stored. -/
def useModel (s : State) (m : Nat × Nat × Nat) (source : Nat) : State :=
  [(Reg.thermModelKD, m.1), (Reg.thermModelTau, m.2.1), (Reg.thermModelTheta, m.2.2), (Reg.thermModelSource, source)].foldl
    (fun s e => wr s e.1 0 e.2) s

/-- A listed sensor that did not answer the Survey (R467). -/
def sensorCheck (s : State) : State :=
  if s.boot.surveyDone.contains 4 ∧ (List.range s.power.sensors.length).any (fun i => mapGet s.boot.survey (4096 + i) 0 == 0) = true then
    healthCause (wr s Reg.powerStatSensorMissing 0 1) Reg.healthCausePower
  else s

/-- What an item feeds (Table 17.3). The cooling item is done only with the stored model or when the step is given up (R442). -/
def feedItem (s : State) (changed : Bool) : SurveyItem → State
  | .supplies _ t =>
    let s := { s with boot := { s.boot with survey := mapSet s.boot.survey 1023 t } }
    showRecordOk (itemDone (wr s Reg.powerHoldERecordDj 0 (cdiv (6 * t) 100000)) 0)
  | .cables probes => itemDone (probes.zipIdx.foldl (fun s p => if p.2 < 16 then probeCable s p.2 p.1 else s) s) 1
  | .flights => itemDone s 2
  | .partners _ => itemDone s 3
  | .sensors _ => sensorCheck (itemDone s 4)
  | .dram _ => itemDone s 5
  | .cooling _ gaveUp =>
    match s.boot.thermal with
    | some m =>
      let s := useModel s m 2
      if changed ∧ gaveUp = false then s else itemDone (wr s Reg.surveyStateThermalReused 0 1) 6
    | none => if gaveUp then itemDone s 6 else s

/-- SURVEY_MEASUREMENT (R441): an item's results are stored, compared with the previous start's, and fed to its function. -/
def execSurveyMeasurement (item : SurveyItem) (s : State) : Ans :=
  let k := itemNum item
  .next (if itemReady s item = false ∨ s.boot.surveyDone.contains k = true then s
    else
      let ws := (itemWords s item).take 1000
      let changed := surveyChanged s k ws
      let results := ws.zipIdx.foldl (fun m w => mapSet m (1024 * k + w.2) w.1) s.boot.survey
      let s := { s with boot := { s.boot with survey := results } }
      let s := if rd s Reg.surveyStateState 0 = 0 then wr s Reg.surveyStateState 0 1 else s
      let s := if changed then wr s Reg.surveyStateChanged 0 (rd s Reg.surveyStateChanged 0 ||| 2 ^ k) else s
      settle (feedItem s changed item))

/-- COOLING_STEP (R442): the step response has run, and the fitted model is stored and used. -/
def execCoolingStep (kd tau theta : BitVec 16) (s : State) : Ans :=
  let m := (kd.toNat, tau.toNat, theta.toNat)
  .next (if fnReady s 3 = false ∨ rd s Reg.surveyStateState 0 = 0 ∨ s.boot.surveyDone.contains 6 then s
    else itemDone (useModel (recMark { s with boot := { s.boot with thermal := some m } }) m 1) 6)

end Sys2Proof.Machine
end

