-- ==== Sys2Proof/Machine/Chisel.lean ====
section
/-! DEFINITION. The Chisel instructions (R308-R325, Tables 11.6, 11.7): each is one slot of a bundle of its core. -/

namespace Sys2Proof.Machine

/-! ### Scalar -/

/-- NOP (R320). -/
def execNop (core : BitVec 6) (last : Bool) (s : State) : Ans := .next (plainSlot s core last id)

/-- ADD (R308). -/
def execAdd (core : BitVec 6) (gd ga gb : BitVec 5) (sat last : Bool) (s : State) : Ans :=
  .next (salu s core gd ga gb last 1 (fun a b => narrow 32 sat (s32 a + s32 b)))

/-- SUB (R308). -/
def execSub (core : BitVec 6) (gd ga gb : BitVec 5) (sat last : Bool) (s : State) : Ans :=
  .next (salu s core gd ga gb last 1 (fun a b => narrow 32 sat (s32 a - s32 b)))

/-- AND (R321: the sat bit has no effect on it). -/
def execAnd (core : BitVec 6) (gd ga gb : BitVec 5) (_sat last : Bool) (s : State) : Ans :=
  .next (salu s core gd ga gb last 1 (fun a b => (a &&& b, false)))

/-- OR (R321). -/
def execOr (core : BitVec 6) (gd ga gb : BitVec 5) (_sat last : Bool) (s : State) : Ans :=
  .next (salu s core gd ga gb last 1 (fun a b => (a ||| b, false)))

/-- XOR (R321). -/
def execXor (core : BitVec 6) (gd ga gb : BitVec 5) (_sat last : Bool) (s : State) : Ans :=
  .next (salu s core gd ga gb last 1 (fun a b => (a ^^^ b, false)))

/-- MIN (R321: signed). -/
def execMin (core : BitVec 6) (gd ga gb : BitVec 5) (_sat last : Bool) (s : State) : Ans :=
  .next (salu s core gd ga gb last 1 (fun a b => (if s32 a ≤ s32 b then a else b, false)))

/-- MAX (R321: signed). -/
def execMax (core : BitVec 6) (gd ga gb : BitVec 5) (_sat last : Bool) (s : State) : Ans :=
  .next (salu s core gd ga gb last 1 (fun a b => (if s32 a ≤ s32 b then b else a, false)))

/-- SLT (R321: 1 when ga is less than gb as signed numbers). -/
def execSlt (core : BitVec 6) (gd ga gb : BitVec 5) (_sat last : Bool) (s : State) : Ans :=
  .next (salu s core gd ga gb last 1 (fun a b => (bit01 (s32 a < s32 b), false)))

/-- SLTU (R321: 1 when ga is less than gb as unsigned numbers). -/
def execSltu (core : BitVec 6) (gd ga gb : BitVec 5) (_sat last : Bool) (s : State) : Ans :=
  .next (salu s core gd ga gb last 1 (fun a b => (bit01 (a < b), false)))

/-- MUL (R311: the low 32 bits of the product, or its saturation). -/
def execMul (core : BitVec 6) (gd ga gb : BitVec 5) (sat last : Bool) (s : State) : Ans :=
  .next (salu s core gd ga gb last 2 (fun a b => narrow 32 sat (s32 a * s32 b)))

/-- MULH (R311: the high 32 bits of the 64-bit product). -/
def execMulh (core : BitVec 6) (gd ga gb : BitVec 5) (_sat last : Bool) (s : State) : Ans :=
  .next (salu s core gd ga gb last 2 (fun a b => (codeOf (s32 a * s32 b / 2 ^ 32) 32, false)))

/-- SHL (R321: left by the amount in gb); an amount above 31 gives a free value. -/
def execShl (core : BitVec 6) (gd ga gb : BitVec 5) (sat last : Bool) (s : State) : Ans :=
  .next (drawnIf (mayIssue s core.toNat && 32 ≤ (getCore s core.toNat).g gb.toNat)
    (salu s core gd ga gb last 1 (fun a b => shiftBy s.free b (if b < 32 then narrow 32 sat (s32 a * 2 ^ b) else (0, false)))))

/-- SHR (R308: arithmetic); an amount above 31 gives a free value. -/
def execShr (core : BitVec 6) (gd ga gb : BitVec 5) (_sat last : Bool) (s : State) : Ans :=
  .next (drawnIf (mayIssue s core.toNat && 32 ≤ (getCore s core.toNat).g gb.toNat)
    (salu s core gd ga gb last 1 (fun a b => shiftBy s.free b (if b < 32 then (codeOf (s32 a / 2 ^ b) 32, false) else (0, false)))))

/-- SHRU (R321: logical); an amount above 31 gives a free value. -/
def execShru (core : BitVec 6) (gd ga gb : BitVec 5) (_sat last : Bool) (s : State) : Ans :=
  .next (drawnIf (mayIssue s core.toNat && 32 ≤ (getCore s core.toNat).g gb.toNat)
    (salu s core gd ga gb last 1 (fun a b => shiftBy s.free b (if b < 32 then (a / 2 ^ b, false) else (0, false)))))

/-- ADDI (R320: a signed immediate, wrapping). -/
def execAddi (core : BitVec 6) (gd ga : BitVec 5) (imm : BitVec 12) (last : Bool) (s : State) : Ans :=
  .next (salui s core gd ga last (fun a => codeOf (s32 a + imm.toInt) 32))

/-- ANDI (R320: the immediate is signed). -/
def execAndi (core : BitVec 6) (gd ga : BitVec 5) (imm : BitVec 12) (last : Bool) (s : State) : Ans :=
  .next (salui s core gd ga last (fun a => a &&& codeOf imm.toInt 32))

/-- ORI (R320). -/
def execOri (core : BitVec 6) (gd ga : BitVec 5) (imm : BitVec 12) (last : Bool) (s : State) : Ans :=
  .next (salui s core gd ga last (fun a => a ||| codeOf imm.toInt 32))

/-- XORI (R320). -/
def execXori (core : BitVec 6) (gd ga : BitVec 5) (imm : BitVec 12) (last : Bool) (s : State) : Ans :=
  .next (salui s core gd ga last (fun a => a ^^^ codeOf imm.toInt 32))

/-- SHLI (R320); an amount outside 0 to 31 gives a free value. -/
def execShli (core : BitVec 6) (gd ga : BitVec 5) (imm : BitVec 12) (last : Bool) (s : State) : Ans :=
  .next (drawnIf (mayIssue s core.toNat && 32 ≤ imm.toNat)
    (salui s core gd ga last (fun a => (shiftBy s.free imm.toNat (if imm.toNat < 32 then codeOf (s32 a * 2 ^ imm.toNat) 32 else 0, false)).1)))

/-- SHRI (R308: arithmetic); an amount outside 0 to 31 gives a free value. -/
def execShri (core : BitVec 6) (gd ga : BitVec 5) (imm : BitVec 12) (last : Bool) (s : State) : Ans :=
  .next (drawnIf (mayIssue s core.toNat && 32 ≤ imm.toNat)
    (salui s core gd ga last (fun a => (shiftBy s.free imm.toNat (if imm.toNat < 32 then codeOf (s32 a / 2 ^ imm.toNat) 32 else 0, false)).1)))

/-- SHRUI (R320: logical); an amount outside 0 to 31 gives a free value. -/
def execShrui (core : BitVec 6) (gd ga : BitVec 5) (imm : BitVec 12) (last : Bool) (s : State) : Ans :=
  .next (drawnIf (mayIssue s core.toNat && 32 ≤ imm.toNat)
    (salui s core gd ga last (fun a => (shiftBy s.free imm.toNat (if imm.toNat < 32 then a / 2 ^ imm.toNat else 0, false)).1)))

/-- LUI (R320): gd = imm << 15. -/
def execLui (core : BitVec 6) (gd : BitVec 5) (imm : BitVec 17) (last : Bool) (s : State) : Ans :=
  .next (plainSlot s core last (fun c => c.later 1 (kG gd.toNat) (imm.toNat * 2 ^ 15)))

/-! ### Branches, loops, events -/

/-- B (R311). -/
def execB (core : BitVec 6) (off : BitVec 17) (last : Bool) (s : State) : Ans :=
  .next (controlSlot s core last (fun c => .ok (branchTo c true (c.relative off))))

/-- BEQZ (R312). -/
def execBeqz (core : BitVec 6) (ga : BitVec 5) (off : BitVec 17) (last : Bool) (s : State) : Ans :=
  .next (branchIf s core ga off last (fun v => v == 0))

/-- BNEZ (R312). -/
def execBnez (core : BitVec 6) (ga : BitVec 5) (off : BitVec 17) (last : Bool) (s : State) : Ans :=
  .next (branchIf s core ga off last (fun v => v != 0))

/-- BLTZ (R312). -/
def execBltz (core : BitVec 6) (ga : BitVec 5) (off : BitVec 17) (last : Bool) (s : State) : Ans :=
  .next (branchIf s core ga off last (fun v => v < 0))

/-- BGEZ (R312). -/
def execBgez (core : BitVec 6) (ga : BitVec 5) (off : BitVec 17) (last : Bool) (s : State) : Ans :=
  .next (branchIf s core ga off last (fun v => 0 ≤ v))

/-- BGTZ (R312). -/
def execBgtz (core : BitVec 6) (ga : BitVec 5) (off : BitVec 17) (last : Bool) (s : State) : Ans :=
  .next (branchIf s core ga off last (fun v => 0 < v))

/-- BLEZ (R312). -/
def execBlez (core : BitVec 6) (ga : BitVec 5) (off : BitVec 17) (last : Bool) (s : State) : Ans :=
  .next (branchIf s core ga off last (fun v => v ≤ 0))

/-- CALL (R306): the return address, after the two delay bundles, goes to G31. -/
def execCall (core : BitVec 6) (off : BitVec 17) (last : Bool) (s : State) : Ans :=
  .next (controlSlot s core last (fun c => .ok (branchTo (c.later 1 (kG 31) (c.pc + 48)) true (c.relative off))))

/-- JR (R311). -/
def execJr (core : BitVec 6) (ga : BitVec 5) (last : Bool) (s : State) : Ans :=
  .next (controlSlot s core last (fun c => .ok (branchTo c true (c.g ga.toNat))))

/-- RTI (R317): IPC and ISTAT are taken when its two delay bundles are over. -/
def execRti (core : BitVec 6) (last : Bool) (s : State) : Ans :=
  .next (controlSlot s core last (fun c => .ok { branchTo c true 0 with rti := true }))

/-- LOOP (R313): the count comes from a G register. -/
def execLoop (core : BitVec 6) (level : BitVec 2) (gs : BitVec 5) (lend : BitVec 13) (last : Bool) (s : State) : Ans :=
  .next (controlSlot s core last (fun c => loopSet c level.toNat (c.g gs.toNat) lend.toNat))

/-- LOOPI (R313): the count is an immediate. -/
def execLoopi (core : BitVec 6) (level : BitVec 2) (count : BitVec 10) (lend : BitVec 10) (last : Bool) (s : State) : Ans :=
  .next (controlSlot s core last (fun c => loopSet c level.toNat count.toNat lend.toNat))

/-- WAIT (R318): fetch stops after this bundle until a masked event or an interrupt. -/
def execWait (core : BitVec 6) (ga : BitVec 5) (last : Bool) (s : State) : Ans :=
  .next (controlSlot s core last (fun c => .ok { c with waitMask := some (c.g ga.toNat), waitNs := now s }))

/-- A waiting core goes on: its state and the C-clocks it waited. -/
def endWait (s : State) (n : Nat) : State :=
  let c := getCore s n
  let s := bump s Reg.chiselCoreWaitCycles n ((now s - c.waitNs) * 7 / 5)
  wr (putCore s n { c with waitMask := none }) Reg.chiselCoreState n 2

/-- WAIT_END (R318): a masked event is set and the waiting core resumes fetch. -/
def execWaitEnd (core : BitVec 6) (s : State) : Ans :=
  let n := core.toNat
  let c := getCore s n
  .next (if rd s Reg.chiselCoreState n = 3 ∧ c.reg 0x30 &&& c.waitMask.getD 0 ≠ 0 then endWait s n else s)

/-- EVSET (R315): the SW event of this core. -/
def execEvset (core : BitVec 6) (last : Bool) (s : State) : Ans :=
  .next (plainSlot s core last (fun c => { c with pend := c.pend ++ [⟨0x30, 256, c.bundle + 1, .set⟩] }))

/-! ### Special registers (Table 11.5) -/

/-- Numbers that the table lists. -/
def specialListed (n : Nat) : Bool :=
  n ≤ 0x17 || (0x18 ≤ n && n ≤ 0x1A) || (0x1C ≤ n && n ≤ 0x1E) || (0x20 ≤ n && n ≤ 0x22) || (0x28 ≤ n && n ≤ 0x2B) || n == 0x30 ||
    n == 0x31 || (0x38 ≤ n && n ≤ 0x46) || (0x48 ≤ n && n ≤ 0x4B) || (0x50 ≤ n && n ≤ 0x57)

/-- Read-only numbers. -/
def specialRo (n : Nat) : Bool := [0x3B, 0x3F, 0x40, 0x41, 0x44, 0x48, 0x4A, 0x4B].contains n

/-- C-clocks since a core started, from the time base at 1.4 GHz. -/
def coreCycles (s : State) (c : Core) : Nat := (now s - c.startNs) * 7 / 5

/-- The value a special register reads as. -/
def specialRead (s : State) (n : Nat) (c : Core) (num : Nat) : Nat :=
  match num with
  | 0x40 => bitsOf (now s) 0 32
  | 0x41 => c.tnowHi
  | 0x48 => n + rd s Reg.chiselCoreImage n * 2 ^ 8 + min 255 (rd s Reg.chiselCoreRestarts n) * 2 ^ 16
  | 0x49 => 0
  | 0x4A => bitsOf (coreCycles s c) 0 32
  | 0x4B => c.cycleHi
  | _ => c.reg num

/-- What a read latches. -/
def specialLatch (s : State) (c : Core) (num : Nat) : Core :=
  if num = 0x40 then { c with tnowHi := bitsOf (now s) 32 32 }
  else if num = 0x4A then { c with cycleHi := bitsOf (coreCycles s c) 32 32 } else c

/-- MFS (R319). -/
def execMfs (core : BitVec 6) (gd : BitVec 5) (num : BitVec 8) (last : Bool) (s : State) : Ans :=
  .next (issueSlot s core last (fun c =>
    if specialListed num.toNat then
      .ok ((specialLatch s c num.toNat).later 1 (kG gd.toNat) (specialRead s core.toNat c num.toNat))
    else .error causeIllegal))

/-- Latency of an MTS (Table 11.3). -/
def mtsLatency (num : Nat) : Nat := if 0x18 ≤ num ∧ num ≤ 0x22 then 3 else 2

/-- MTS (R319): EV bits written 1 are cleared, a write of WDOG restarts the watchdog at once. -/
def execMts (core : BitVec 6) (ga : BitVec 5) (num : BitVec 8) (last : Bool) (s : State) : Ans :=
  .next (issueSlot s core last (fun c =>
    let k := num.toNat
    let v := c.g ga.toNat
    if !specialListed k || specialRo k then .error causeIllegal
    else if k = 0x49 then .ok { c with wdogNs := now s }
    else if k = 0x30 then .ok { c with pend := c.pend ++ [⟨0x30, v, c.bundle + 2, .clear⟩] }
    else .ok (c.later (mtsLatency k) k v)))

/-! ### Ports -/

/-- POST to port 0 (R322). -/
def execPostSieve (core : BitVec 6) (a : BitVec 3) (units : BitVec 4) (last : Bool) (s : State) : Ans :=
  .next (postSlot s core 0 a units last)

/-- POST to port 1 (R322). -/
def execPostRadioCmd (core : BitVec 6) (a : BitVec 3) (units : BitVec 4) (last : Bool) (s : State) : Ans :=
  .next (postSlot s core 1 a units last)

/-- POST to port 2 (R322). -/
def execPostMbox (core : BitVec 6) (a : BitVec 3) (units : BitVec 4) (last : Bool) (s : State) : Ans :=
  .next (postSlot s core 2 a units last)

/-- POST to port 3 (R322). -/
def execPostFhTx (core : BitVec 6) (a : BitVec 3) (units : BitVec 4) (last : Bool) (s : State) : Ans :=
  .next (postSlot s core 3 a units last)

/-- POST to port 4 (R322). -/
def execPostFapiInd (core : BitVec 6) (a : BitVec 3) (units : BitVec 4) (last : Bool) (s : State) : Ans :=
  .next (postSlot s core 4 a units last)

/-- PORT_QUEUE_ENTRY_FREED (R322): a stalled POST completes once its port has room. -/
def execPortQueueEntryFreed (core : BitVec 6) (s : State) : Ans := .next (tryPost s core.toNat)

/-! ### Data memory and address registers -/

/-- LD16 (R307): sign-extended. -/
def execLd16 (core : BitVec 6) (y : Bool) (g : BitVec 5) (a : BitVec 3) (post : Bool) (off : BitVec 12) (last : Bool) (s : State) : Ans :=
  .next (loadSlot s core y (kG g.toNat) a post off last 2 (fun w => codeOf (signedOf w 16) 32))

/-- LD32 (R307). -/
def execLd32 (core : BitVec 6) (y : Bool) (g : BitVec 5) (a : BitVec 3) (post : Bool) (off : BitVec 12) (last : Bool) (s : State) : Ans :=
  .next (loadSlot s core y (kG g.toNat) a post off last 4 id)

/-- LDV (R307). -/
def execLdv (core : BitVec 6) (y : Bool) (v : BitVec 4) (a : BitVec 3) (post : Bool) (off : BitVec 12) (last : Bool) (s : State) : Ans :=
  .next (loadSlot s core y (kV v.toNat) a post off last 64 id)

/-- LDBC (R307): 16 bits to all 32 lanes. -/
def execLdbc (core : BitVec 6) (y : Bool) (v : BitVec 4) (a : BitVec 3) (post : Bool) (off : BitVec 12) (last : Bool) (s : State) : Ans :=
  .next (loadSlot s core y (kV v.toNat) a post off last 2 (fun w => packLanes 16 (List.replicate 32 w)))

/-- ST16 (R304). -/
def execSt16 (core : BitVec 6) (y : Bool) (g : BitVec 5) (a : BitVec 3) (post : Bool) (off : BitVec 12) (last : Bool) (s : State) : Ans :=
  .next (storeSlot s core y (kG g.toNat) a post off last 2)

/-- ST32 (R304). -/
def execSt32 (core : BitVec 6) (y : Bool) (g : BitVec 5) (a : BitVec 3) (post : Bool) (off : BitVec 12) (last : Bool) (s : State) : Ans :=
  .next (storeSlot s core y (kG g.toNat) a post off last 4)

/-- STV (R304). -/
def execStv (core : BitVec 6) (y : Bool) (v : BitVec 4) (a : BitVec 3) (post : Bool) (off : BitVec 12) (last : Bool) (s : State) : Ans :=
  .next (storeSlot s core y (kV v.toNat) a post off last 64)

/-- MOVA (R320): An = ga. -/
def execMova (core : BitVec 6) (ga : BitVec 5) (a : BitVec 3) (last : Bool) (s : State) : Ans :=
  .next (plainSlot s core last (fun c => c.later 1 (kA a.toNat) (c.g ga.toNat)))

/-- ADDA (R320): a signed byte offset is added to An. -/
def execAdda (core : BitVec 6) (a : BitVec 3) (off : BitVec 12) (last : Bool) (s : State) : Ans :=
  .next (plainSlot s core last (fun c => c.later 1 (kA a.toNat) (codeOf ((c.addr a.toNat : Int) + off.toInt) 32)))

/-- MFA (R320): gd = An. -/
def execMfa (core : BitVec 6) (gd : BitVec 5) (a : BitVec 3) (last : Bool) (s : State) : Ans :=
  .next (plainSlot s core last (fun c => c.later 1 (kG gd.toNat) (c.addr a.toNat)))

/-! ### Vectors -/

/-- VADD (R308). -/
def execVadd (core : BitVec 6) (vd va vb : BitVec 4) (sat last : Bool) (s : State) : Ans :=
  .next (vec2 s core vd va vb sat last (fun a b => a + b))

/-- VSUB (R308). -/
def execVsub (core : BitVec 6) (vd va vb : BitVec 4) (sat last : Bool) (s : State) : Ans :=
  .next (vec2 s core vd va vb sat last (fun a b => a - b))

/-- VAND (R321). -/
def execVand (core : BitVec 6) (vd va vb : BitVec 4) (last : Bool) (s : State) : Ans :=
  .next (vecBits s core vd va vb last (fun a b => a &&& b))

/-- VOR (R321). -/
def execVor (core : BitVec 6) (vd va vb : BitVec 4) (last : Bool) (s : State) : Ans :=
  .next (vecBits s core vd va vb last (fun a b => a ||| b))

/-- VXOR (R321). -/
def execVxor (core : BitVec 6) (vd va vb : BitVec 4) (last : Bool) (s : State) : Ans :=
  .next (vecBits s core vd va vb last (fun a b => a ^^^ b))

/-- VMAX (R321). -/
def execVmax (core : BitVec 6) (vd va vb : BitVec 4) (last : Bool) (s : State) : Ans :=
  .next (vec2 s core vd va vb false last (fun a b => max a b))

/-- VMIN (R321). -/
def execVmin (core : BitVec 6) (vd va vb : BitVec 4) (last : Bool) (s : State) : Ans :=
  .next (vec2 s core vd va vb false last (fun a b => min a b))

/-- VPERM (R321): lane i of vd is lane vb[i][4:0] of va. -/
def execVperm (core : BitVec 6) (vd va vb : BitVec 4) (last : Bool) (s : State) : Ans :=
  .next (plainSlot s core last (fun c =>
    lanes16 c 2 vd.toNat false (fun i => lane 16 (c.v va.toNat) (bitsOf (c.v vb.toNat) (16 * i) 5))))

/-- VSHL (R321). -/
def execVshl (core : BitVec 6) (vd va : BitVec 4) (sh : BitVec 5) (sat last : Bool) (s : State) : Ans :=
  .next (plainSlot s core last (fun c => lanes16 c 1 vd.toNat sat (fun i => lane 16 (c.v va.toNat) i * 2 ^ sh.toNat)))

/-- VSHR (R308: arithmetic). -/
def execVshr (core : BitVec 6) (vd va : BitVec 4) (sh : BitVec 5) (sat last : Bool) (s : State) : Ans :=
  .next (plainSlot s core last (fun c => lanes16 c 1 vd.toNat sat (fun i => lane 16 (c.v va.toNat) i / 2 ^ sh.toNat)))

/-- VABS (R321, R308). -/
def execVabs (core : BitVec 6) (vd va : BitVec 4) (sat last : Bool) (s : State) : Ans :=
  .next (plainSlot s core last (fun c => lanes16 c 1 vd.toNat sat (fun i => (if lane 16 (c.v va.toNat) i < 0 then -lane 16 (c.v va.toNat) i else lane 16 (c.v va.toNat) i))))

/-- VNEG (R321, R308). -/
def execVneg (core : BitVec 6) (vd va : BitVec 4) (sat last : Bool) (s : State) : Ans :=
  .next (plainSlot s core last (fun c => lanes16 c 1 vd.toNat sat (fun i => -lane 16 (c.v va.toNat) i)))

/-- VADDW (R321, R306): wide pairs. -/
def execVaddw (core : BitVec 6) (vd va vb : BitVec 4) (sat last : Bool) (s : State) : Ans :=
  .next (issueSlot s core last (fun c => evenOr (odd4 vd || odd4 va || odd4 vb)
    (lanes32 c 1 vd.toNat sat (fun i => lane 32 (c.pair va.toNat) i + lane 32 (c.pair vb.toNat) i))))

/-- VSUBW (R321, R306): wide pairs. -/
def execVsubw (core : BitVec 6) (vd va vb : BitVec 4) (sat last : Bool) (s : State) : Ans :=
  .next (issueSlot s core last (fun c => evenOr (odd4 vd || odd4 va || odd4 vb)
    (lanes32 c 1 vd.toNat sat (fun i => lane 32 (c.pair va.toNat) i - lane 32 (c.pair vb.toNat) i))))

/-- VMUL (R308). -/
def execVmul (core : BitVec 6) (vd va vb : BitVec 4) (sh : BitVec 5) (sat last : Bool) (s : State) : Ans :=
  .next (plainSlot s core last (fun c => lanes16 c 3 vd.toNat sat (fun i => (lane 16 (c.v va.toNat) i * lane 16 (c.v vb.toNat) i) / 2 ^ sh.toNat)))

/-- VCMUL (R308). -/
def execVcmul (core : BitVec 6) (vd va vb : BitVec 4) (sh : BitVec 5) (sat conj last : Bool) (s : State) : Ans :=
  .next (plainSlot s core last (fun c => lanes16 c 3 vd.toNat sat (fun i => (cmul conj (c.v va.toNat) (c.v vb.toNat) i) / 2 ^ sh.toNat)))

/-- VMAC (R308). -/
def execVmac (core : BitVec 6) (vd va vb : BitVec 4) (sh : BitVec 5) (sat last : Bool) (s : State) : Ans :=
  .next (plainSlot s core last (fun c => lanes16 c 3 vd.toNat sat (fun i => lane 16 (c.v vd.toNat) i + (lane 16 (c.v va.toNat) i * lane 16 (c.v vb.toNat) i) / 2 ^ sh.toNat)))

/-- VCMAC (R308). -/
def execVcmac (core : BitVec 6) (vd va vb : BitVec 4) (sh : BitVec 5) (sat conj last : Bool) (s : State) : Ans :=
  .next (plainSlot s core last (fun c => lanes16 c 3 vd.toNat sat (fun i => lane 16 (c.v vd.toNat) i + (cmul conj (c.v va.toNat) (c.v vb.toNat) i) / 2 ^ sh.toNat)))

/-- VMACW (R308). -/
def execVmacw (core : BitVec 6) (vd va vb : BitVec 4) (sh : BitVec 5) (sat last : Bool) (s : State) : Ans :=
  .next (issueSlot s core last (fun c => evenOr (odd4 vd) (lanes32 c 3 vd.toNat sat (fun i => lane 32 (c.pair vd.toNat) i + (lane 16 (c.v va.toNat) i * lane 16 (c.v vb.toNat) i) / 2 ^ sh.toNat))))

/-- VCMACW (R308). -/
def execVcmacw (core : BitVec 6) (vd va vb : BitVec 4) (sh : BitVec 5) (sat conj last : Bool) (s : State) : Ans :=
  .next (issueSlot s core last (fun c => evenOr (odd4 vd) (lanes32 c 3 vd.toNat sat (fun i => lane 32 (c.pair vd.toNat) i + (cmul conj (c.v va.toNat) (c.v vb.toNat) i) / 2 ^ sh.toNat))))

/-- VMOV (R321). -/
def execVmov (core : BitVec 6) (vd va : BitVec 4) (last : Bool) (s : State) : Ans :=
  .next (plainSlot s core last (fun c => c.later 2 (kV vd.toNat) (c.v va.toNat)))

/-- VBCAST (R320): the low 16 bits of ga to all 32 lanes. -/
def execVbcast (core : BitVec 6) (vd : BitVec 4) (ga : BitVec 5) (last : Bool) (s : State) : Ans :=
  .next (plainSlot s core last (fun c => c.later 2 (kV vd.toNat) (packLanes 16 (List.replicate 32 (c.g ga.toNat)))))

/-- VNRW (R308): lanes of the pair at va, shifted right and narrowed. -/
def execVnrw (core : BitVec 6) (vd va : BitVec 4) (sh : BitVec 5) (sat last : Bool) (s : State) : Ans :=
  .next (issueSlot s core last (fun c => evenOr (odd4 va)
    (lanes16 c 2 vd.toNat sat (fun i => lane 32 (c.pair va.toNat) i / 2 ^ sh.toNat))))

/-- VZERO (R321). -/
def execVzero (core : BitVec 6) (vd : BitVec 4) (last : Bool) (s : State) : Ans :=
  .next (plainSlot s core last (fun c => c.later 2 (kV vd.toNat) 0))

/-! ### Events of a core -/

/-- INTERRUPT_ENTRY (R316): at a bundle boundary outside delay bundles and POST stalls, with an enabled event set. -/
def execInterruptEntry (core : BitVec 6) (s : State) : Ans :=
  let n := core.toNat
  let c := getCore s n
  if !coreRuns s n ∨ c.mid ∨ c.delay ≠ 0 ∨ c.stall.isSome ∨ !c.ie ∨ c.reg 0x30 &&& c.reg 0x31 = 0 then .next s
  else
    let s := if rd s Reg.chiselCoreState n = 3 then endWait s n else s
    let c := (getCore s n).landAll (now s)
    let c := (c.setReg 0x29 c.pc).setReg 0x2A (c.reg 0x28)
    let c := c.setReg 0x28 (c.reg 0x28 / 4 * 4)
    let ivec := c.reg 0x2B
    let s := putCore s n { c with pc := ivec }
    .next (if ivec % 16 ≠ 0 ∨ 0x20000 ≤ ivec then coreFault s n causeAddr ivec else showCore s n)

/-- TCMP (R319): the time snapshot reaches the armed compare value; its event is set once. -/
def execTcmp (core : BitVec 6) (s : State) : Ans :=
  let n := core.toNat
  let c := getCore s n
  .next (if coreRuns s n ∧ c.tcmpArmed ∧ c.reg 0x42 + c.reg 0x43 * 2 ^ 32 ≤ now s then
    showCore (putCore s n ({ c with tcmpArmed := false }.event 128)) n else s)

/-- COMPLETION_ENTRY (R324): waiting entries are written while the ring has room, and a POST they held up goes through. -/
def execCompletionEntry (core : BitVec 6) (s : State) : Ans :=
  let n := core.toNat
  let c := getCore s n
  .next (if coreRuns s n then tryPost (showCore (putCore s n (c.drainCq (c.cqWait.length + 1))) n) n else s)

/-- WATCHDOG (R326): WDOG has not been written for wdog_us. -/
def execWatchdog (core : BitVec 6) (s : State) : Ans :=
  let n := core.toNat
  let us := rd s Reg.chiselCfgWdogUs 0
  .next (if coreRuns s n ∧ us ≠ 0 ∧ (getCore s n).wdogNs + 1000 * us ≤ now s then coreFault s n causeWatchdog (getCore s n).pc else s)

/-- CORE_RESTART (R326): firmware reloads a faulted core and starts it, unless it has faulted three times within 1 s. -/
def execCoreRestart (core : BitVec 6) (s : State) : Ans :=
  let n := core.toNat
  let fs := (getCore s n).faultNs
  .next (match mapFind s.images (rd s Reg.chiselCoreImage n) with
    | none => s
    | some im =>
      if rd s Reg.chiselCoreState n ≠ 4 ∨ (3 ≤ fs.length ∧ fs.headD 0 ≤ fs.getD 2 0 + 1000000000) then s
      else
        let s := putCore s n (Core.start im (now s) fs)
        showCore (wr (bumpSat s Reg.chiselCoreRestarts n 1) Reg.chiselCoreState n 2) n)

/-! ### Illegal slots (R320, R321) -/

/-- A slot word is ILLEGAL by Tables 11.6 and 11.7: group, op number, slot, or a reserved field. -/
def slotIllegal (slot : Nat) (w : Nat) : Bool :=
  let op := bitsOf w 22 6
  let f (lo n : Nat) : Bool := bitsOf w lo n != 0
  let in_ (n : Nat) : Bool := 1 ≤ op && op ≤ n
  match bitsOf w 28 4 with
  | 0x0 => w != 0
  | 0x1 => slot != 0 || !in_ 14 || f 1 6
  | 0x2 => slot != 0 || !in_ 8
  | 0x3 => slot != 0 || !in_ 10 || ((op == 1 || op == 8) && f 17 5) || (op == 9 && (f 17 5 || f 0 12)) || (op == 10 && f 0 22)
  | 0x4 => slot != 0 || !in_ 2 || (op == 1 && f 13 2)
  | 0x5 => slot != 0 || !in_ 2 || (op == 1 && f 8 9) || (op == 2 && (f 17 5 || f 8 4)) || !specialListed (bitsOf w 0 8) ||
             (op == 2 && specialRo (bitsOf w 0 8))
  | 0x6 => slot != 0 || !in_ 1 || f 0 11
  | 0x7 => slot != 0 || !in_ 2 || (op == 1 && (f 17 5 || f 0 12)) || (op == 2 && f 0 22)
  | 0x8 => !(slot == 1 || slot == 2) || !in_ 4 || f 12 1 || (3 ≤ op && f 21 1)
  | 0x9 => !(slot == 1 || slot == 2) || !in_ 3 || f 12 1 || (op == 3 && f 21 1)
  | 0xA => !(slot == 1 || slot == 2) || !in_ 3 || f 12 2 || (op != 2 && f 0 12) || (op == 2 && f 17 5)
  | 0xB => slot != 3 || !in_ 13 || f 0 3 || (12 ≤ op && (f 18 1 || f 14 1 || f 10 1))
  | 0xC => slot != 3 || !in_ 3 || f 0 3 || (op == 3 && f 18 1)
  | 0xD => slot != 3 || !in_ 3 || f 0 3 || (op == 3 && f 18 1)
  | 0xE => slot != 3 || !in_ 5 || f 0 3 || (op == 2 && f 10 3) || (op == 4 && f 14 1)
  | _ => true

/-- ILLEGAL_OPCODE (R321): the core issues a slot that its tables do not allow, and faults; a reserved port is a PORT fault (R322). A
slot that the tables allow is the business of its own row. -/
def execIllegalOpcode (core : BitVec 6) (slot : BitVec 2) (word : BitVec 32) (s : State) : Ans :=
  let n := core.toNat
  let w := word.toNat
  .next (if !mayIssue s n then s
    else if slotIllegal slot.toNat w then coreFault s n causeIllegal (getCore s n).pc
    else if bitsOf w 28 4 = 6 ∧ 4 < bitsOf w 18 4 then coreFault s n causePort (getCore s n).pc
    else s)

end Sys2Proof.Machine
end

