-- ==== Sys2Proof/Machine/Slab.lean ====
section
/-! DEFINITION. The SLAB command (R59-R78): its control block and problem entries, checks, footprint and folding, feeding,
accumulating, and readout. -/

namespace Sys2Proof.Machine

/-! ### The command body -/

/-- A problem entry (Table 03.3). -/
structure Prob where
  brow : Nat
  bcol : Nat
  bh : Nat
  bw : Nat
  m : Nat
  n : Nat
  fold : Nat
  reserved : Nat
  k : Nat
  aAddr : Nat
  aStride : Nat
  bAddr : Nat
  bStride : Nat
  aScale : Nat
  bScale : Nat
  outAddr : Nat
  outStride : Nat
  deriving DecidableEq, Repr

/-- Problem entry `i` of a SLAB body. -/
def probOf (c : Cmd) (i : Nat) : Prob :=
  let g (lo len : Nat) : Nat := c.b (512 + 256 * i + lo) len
  { brow := g 0 2, bcol := g 2 2, bh := g 4 2, bw := g 6 2, m := g 8 8, n := g 16 8, fold := g 24 3, reserved := g 27 5, k := g 32 32,
    aAddr := g 64 24, aStride := g 88 24, bAddr := g 112 24, bStride := g 136 24, aScale := g 160 24, bScale := g 184 24,
    outAddr := g 208 24, outStride := g 232 24 }

/-- A SLAB command as its body states it (Table 03.2). -/
structure SlabCmd where
  w : Wctl
  wraw : Nat
  r : Rctl
  rraw : Nat
  fmtA : Nat
  mxA : Bool
  fmtB : Nat
  mxB : Bool
  bank : Nat
  drain : Bool
  conjA : Bool
  conjB : Bool
  reserved : Bool
  rowMask : Nat
  colMask : Nat
  loadAddr : Nat
  probs : List Prob

/-- Read a SLAB body. The 32 bytes after an odd number of problem entries are ignored, whatever they hold (DESIGN CHOICE: R66 does not say
that this padding must be zero). -/
def slabOf (c : Cmd) : SlabCmd :=
  { w := wctlOf (c.b 0 64), wraw := c.b 0 64, r := rctlOf (c.b 64 32), rraw := c.b 64 32, fmtA := c.b 96 4, mxA := c.b 100 1 = 1,
    fmtB := c.b 101 4, mxB := c.b 105 1 = 1, bank := c.b 106 1, drain := c.b 107 1 = 1, conjA := c.b 108 1 = 1,
    conjB := c.b 109 1 = 1, reserved := c.b 114 14 != 0 || c.b 408 104 != 0, rowMask := c.b 128 128, colMask := c.b 256 128,
    loadAddr := c.b 384 24, probs := (List.range (c.b 110 4 + 1)).map (probOf c) }

/-- The bank of a SLAB command is complex (R70). -/
def SlabCmd.complex (x : SlabCmd) : Bool := x.fmtA == 9

/-- Output row length in bytes of a problem in a narrow format. -/
def SlabCmd.rowLen (x : SlabCmd) (p : Prob) : Nat := p.n * outBytes x.r.fmt * (if x.complex then 2 else 1)

/-! ### Copies, slices and footprint (R68, R69) -/

/-- Fold factor of a problem. -/
def Prob.copies (p : Prob) : Nat := 2 ^ p.fold

/-- Block row and block column of copy `f`, in raster order. -/
def Prob.place (p : Prob) (f : Nat) : Nat × Nat :=
  let q := (4 - p.brow) / (p.bh + 1)
  (p.brow + (p.bh + 1) * (f % q), p.bcol + (p.bw + 1) * (f / q))

/-- The blocks of copy `f`. -/
def Prob.blocks (p : Prob) (f : Nat) : List Nat :=
  let o := p.place f
  (List.range (p.bh + 1)).flatMap (fun i => (List.range (p.bw + 1)).map (fun j => 8 * (o.1 + i) + (o.2 + j)))

/-- Elements of K in a slice (R69). -/
def Prob.slice (p : Prob) : Nat := cdiv (cdiv p.k 32) p.copies * 32

/-- First and one past last k of copy `f`. -/
def Prob.span (p : Prob) (f : Nat) : Nat × Nat := (Nat.min (f * p.slice) p.k, Nat.min ((f + 1) * p.slice) p.k)

/-- Slab row and column of element (m, n) of copy `f`. -/
def Prob.cell (p : Prob) (f m n : Nat) : Nat × Nat := (32 * (p.place f).1 + m, 32 * (p.place f).2 + n)

/-- A cell that the masks let be fed. -/
def SlabCmd.unmasked (x : SlabCmd) (rc : Nat × Nat) : Bool := bitOf x.rowMask rc.1 && bitOf x.colMask rc.2

/-- The footprint of a problem: copy, element and cell (R68). -/
def SlabCmd.foot (x : SlabCmd) (p : Prob) : List (Nat × Nat × Nat × Nat × Nat) :=
  (List.range p.copies).flatMap fun f => (List.range p.m).flatMap fun m => (List.range p.n).filterMap fun n =>
    let rc := p.cell f m n
    if x.unmasked rc then some (f, m, n, rc.1, rc.2) else none

/-- Cell keys of the whole footprint. -/
def SlabCmd.cellKeys (x : SlabCmd) : List Nat :=
  x.probs.flatMap (fun p => (x.foot p).map (fun e => 128 * e.2.2.2.1 + e.2.2.2.2))

/-- Rows (or columns) of copy `f` that are fed: unmasked, with some unmasked column (or row) beside them. -/
def SlabCmd.fedRows (x : SlabCmd) (p : Prob) (f : Nat) : List Nat :=
  if (List.range p.n).any (fun n => bitOf x.colMask (p.cell f 0 n).2) then
    (List.range p.m).filter (fun m => bitOf x.rowMask (p.cell f m 0).1)
  else []
def SlabCmd.fedCols (x : SlabCmd) (p : Prob) (f : Nat) : List Nat :=
  if (List.range p.m).any (fun m => bitOf x.rowMask (p.cell f m 0).1) then
    (List.range p.n).filter (fun n => bitOf x.colMask (p.cell f 0 n).2)
  else []

/-! ### Feed lanes (R61, R62) -/

/-- Copies of a problem that feed: those whose slice is not empty. -/
def Prob.feeding (p : Prob) : Nat := if p.slice = 0 then 0 else cdiv p.k p.slice

/-- Rows (or columns) of a problem that some feeding copy feeds. -/
def SlabCmd.rowsFed (x : SlabCmd) (p : Prob) : Nat :=
  ((List.range p.m).filter (fun m => (List.range p.feeding).any (fun f => (x.fedRows p f).contains m))).length
def SlabCmd.colsFed (x : SlabCmd) (p : Prob) : Nat :=
  ((List.range p.n).filter (fun n => (List.range p.feeding).any (fun f => (x.fedCols p f).contains n))).length

/-- Lane demand of one problem, and of the command. -/
def SlabCmd.lanes (x : SlabCmd) (p : Prob) : Nat := p.feeding * (x.rowsFed p + x.colsFed p)
def SlabCmd.demand (x : SlabCmd) : Nat := (x.probs.map x.lanes).sum

/-- A-clocks between feed steps. -/
def SlabCmd.pace (x : SlabCmd) : Nat := Nat.max 1 (cdiv x.demand 256)

/-- A-clocks of a command's feed: the steps of its longest slice that is fed, one every s A-clocks (R62, Table 03.6). -/
def SlabCmd.feedClocks (x : SlabCmd) : Nat :=
  (((x.probs.filter (fun p => x.lanes p != 0)).map (fun p => cdiv (Nat.min p.slice p.k) (dotWidth x.fmtA x.fmtB))).foldl Nat.max 0) * x.pace

/-! ### Checks (R67) -/

/-- A copy lies partly outside the array. -/
def Prob.outside (p : Prob) : Bool :=
  (List.range p.copies).any (fun f => let o := p.place f
                                      4 < o.1 + p.bh + 1 || 4 < o.2 + p.bw + 1)

/-- Two copies of any problems share a cell. -/
def blocksShared (l : List Nat) : Bool :=
  match l with
  | [] => false
  | b :: t => t.contains b || blocksShared t

/-- Format checks (R34, R36, R38, R67). -/
def SlabCmd.formatBad (x : SlabCmd) : Bool :=
  (slabFmt x.fmtA).isNone || (slabFmt x.fmtB).isNone || !pairOk x.fmtA x.fmtB || (x.mxA && !mxAllowed x.fmtA) ||
  (x.mxB && !mxAllowed x.fmtB) || ((x.conjA || x.conjB) && x.fmtA != 9) ||
  x.probs.any (fun p => (!x.mxA && p.aScale != 0) || (!x.mxB && p.bScale != 0))

/-- Window word checks (R43, R44). -/
def SlabCmd.windowBad (x : SlabCmd) : Bool :=
  x.w.bad || (x.w.init == 0 && ((x.w.mode == 1 && (x.fmtA == 7 || x.fmtB == 7 || x.mxA || x.mxB)) || (x.w.mode == 2 && x.complex)))

/-- Output range of a problem (R67). -/
def SlabCmd.outRange (x : SlabCmd) (p : Prob) : Nat × Nat :=
  if p.m = 0 ∨ p.n = 0 then (p.outAddr, 0)
  else if x.r.fmt = 8 then (p.outAddr, tileLen (p.m * p.n))
  else (p.outAddr, (p.m - 1) * p.outStride + x.rowLen p)

/-- Readout and output checks (R48, R65, R67). -/
def SlabCmd.outputBad (x : SlabCmd) : Bool :=
  if x.drain then
    x.r.bad || (x.complex && x.r.fmt < 6) ||
    x.probs.any (fun p => if x.r.fmt = 8 then p.outStride != 0 else p.outStride < cdiv (x.rowLen p) 64 * 64) ||
    anyMeet (x.probs.map x.outRange)
  else x.rraw != 0 || x.probs.any (fun p => p.outAddr != 0 || p.outStride != 0)

/-- Entry checks (R63, R66, R67). -/
def SlabCmd.entriesBad (x : SlabCmd) : Bool :=
  x.loadAddr % 64 != 0 || (x.w.init != 2 && x.loadAddr != 0) || (x.w.init == 2 && 1 < x.probs.length) ||
  x.probs.any (fun p => p.reserved != 0 || p.aAddr % 64 != 0 || p.aStride % 64 != 0 || p.bAddr % 64 != 0 || p.bStride % 64 != 0 ||
    p.outAddr % 64 != 0 || p.outStride % 64 != 0 || p.aScale % 64 != 0 || p.bScale % 64 != 0 || 32 * (p.bh + 1) < p.m ||
    32 * (p.bw + 1) < p.n || 4 < p.fold || p.outside) ||
  blocksShared (x.probs.flatMap (fun p => (List.range p.copies).flatMap p.blocks))

/-- The window exponent that acc_init ZERO sets (R44). -/
def SlabCmd.newEw (x : SlabCmd) : Int :=
  let bound (c : Nat) (mx : Bool) : Int := if mx ∧ c = 0 then 1 else fmtBound c
  match x.w.mode with
  | 0 => x.w.ew
  | 1 => if x.complex then 0 else clampEw (bound x.fmtA x.mxA + bound x.fmtB x.mxB + x.w.headroom - 125)
  | _ => clampEw (x.w.boundA + x.w.boundB + x.w.headroom - 125)

/-- Chain rules that the bank's state decides before any tile is read (R70). -/
def SlabCmd.chainBad (x : SlabCmd) (b : Bank) : Bool :=
  (b.isOpen && (b.complex != x.complex || 256 ≤ b.members.length || (x.w.init == 0 && x.newEw != b.ew))) ||
  (x.w.init == 1 && (!b.isOpen || x.cellKeys.any (fun k => !b.init.contains k)))

/-! ### Yard sets -/

/-- Bytes of a run of elements of one line, as whole 64-byte units (R63). -/
def unitRange (addr w lo hi : Nat) : Nat × Nat :=
  if hi ≤ lo then (addr, 0)
  else
    let a := addr + lo * w / 8 / 64 * 64
    (a, addr + cdiv (cdiv (hi * w) 8) 64 * 64 - a)

/-- Bytes between the scale rows of an MX operand (R64). -/
def scaleStride (k : Nat) : Nat := cdiv (cdiv k 32) 64 * 64

/-- Operand bytes a problem reads. -/
def SlabCmd.reads (x : SlabCmd) (p : Prob) : List (Nat × Nat) :=
  let wa := (slabFmt x.fmtA).elim 0 Fmt.bits
  let wb := (slabFmt x.fmtB).elim 0 Fmt.bits
  (List.range p.copies).flatMap fun f =>
    let sp := p.span f
    let blk := fun (addr stride i : Nat) =>
      if sp.2 ≤ sp.1 then (addr, 0) else (addr + i * stride + sp.1 / 32, cdiv sp.2 32 - sp.1 / 32)
    (x.fedRows p f).flatMap (fun m => unitRange (p.aAddr + m * p.aStride) wa sp.1 sp.2 ::
      (if x.mxA then [blk p.aScale (scaleStride p.k) m] else [])) ++
    (x.fedCols p f).flatMap (fun n => unitRange (p.bAddr + n * p.bStride) wb sp.1 sp.2 ::
      (if x.mxB then [blk p.bScale (scaleStride p.k) n] else []))

/-- The tile a LOAD reads: whole, when the problem has cells. -/
def SlabCmd.loadRange (x : SlabCmd) : List (Nat × Nat) :=
  if x.w.init = 2 then
    x.probs.map (fun p => (x.loadAddr, if p.m = 0 ∨ p.n = 0 then 0 else tileLen (p.m * p.n)))
  else []

/-! ### Feeding (R39-R42, R60) -/

/-- The value of element k of an operand line, with its MX scale. -/
def operand (byte : Nat → Byte) (fmt : Nat) (mx : Bool) (line scale k : Nat) : Fp :=
  match slabFmt fmt with
  | none => .nan
  | some f =>
    let v := f.decode (lineElem byte line f.bits k)
    if mx then
      let e := (byte (scale + k / 32)).toNat
      if e = 255 then .nan else v.scale ((e : Int) - 127 - (if fmt = 0 then 6 else 0))
    else v

/-- Real and imaginary parts of a CI16 element, conjugated where asked (R78). -/
def ciPart (byte : Nat → Byte) (line k : Nat) (conj : Bool) : Int × Int :=
  let w := lineElem byte line 32 k
  let im := signedOf (w / 2 ^ 16) 16
  (signedOf w 16, if conj then -im else im)

/-- Feed one cell the slice [lo, hi) in steps of d. -/
def feedCell (x : SlabCmd) (p : Prob) (byte : Nat → Byte) (ew : Int) (lo hi m n : Nat) (c : Cell) : Cell :=
  let la := p.aAddr + m * p.aStride
  let lb := p.bAddr + n * p.bStride
  let d := dotWidth x.fmtA x.fmtB
  (List.range (cdiv (hi - lo) d)).foldl (fun c t =>
    let ks := ((List.range d).map (fun i => lo + t * d + i)).filter (· < hi)
    if x.complex then
      ks.foldl (fun c k =>
        let a := ciPart byte la k x.conjA
        let b := ciPart byte lb k x.conjB
        c.cmac ew a.1 a.2 b.1 b.2) c
    else c.cycle (ks.map (fun k =>
      contrib ew ((operand byte x.fmtA x.mxA la (p.aScale + m * scaleStride p.k) k).mul
        (operand byte x.fmtB x.mxB lb (p.bScale + n * scaleStride p.k) k))))) c

/-- A cell of a bank. -/
def Bank.cell (b : Bank) (k : Nat) : Cell := mapGet b.cells k Cell.zero

/-- Feed a problem's footprint. -/
def feedProb (x : SlabCmd) (byte : Nat → Byte) (b : Bank) (p : Prob) : Bank :=
  (x.foot p).foldl (fun b e =>
    let k := 128 * e.2.2.2.1 + e.2.2.2.2
    let sp := p.span e.1
    { b with cells := mapPut b.cells k (feedCell x p byte b.ew sp.1 sp.2 e.2.1 e.2.2.1 (b.cell k)) Cell.zero }) b

/-- Set the footprint of a bank as acc_init asks, before any product: zeros, the tile in copy 0, or nothing (R46, R69). A LOAD of a problem
with M = 0 or N = 0 reads no tile: it opens the chain, and the bank keeps the E_w it had (DESIGN CHOICE: R70 gives that bank no e_w). -/
def SlabCmd.init (x : SlabCmd) (b : Bank) (tile : Option Tile) : Bank :=
  if x.w.init = 1 then b
  else
    let ew := match x.w.init, tile with
      | 0, _ => x.newEw
      | _, some t => t.ew
      | _, none => b.ew
    let cells := x.probs.foldl (fun cells p => (x.foot p).foldl (fun cells e =>
      let v := match tile with
        | some t => if e.1 = 0 then t.cells.getD (e.2.1 * t.cols + e.2.2.1) Cell.zero else Cell.zero
        | none => Cell.zero
      mapPut cells (128 * e.2.2.2.1 + e.2.2.2.2) v Cell.zero) cells) b.cells
    { b with ew := ew, complex := x.complex, cells := cells, isOpen := true,
             init := x.cellKeys.foldl insertNat b.init }

/-! ### Readout (R69, R73, R145) -/

/-- The combined cell of an output element: its footprint cells over all copies under R54; none where it has none. -/
def outCell (x : SlabCmd) (b : Bank) (p : Prob) (m n : Nat) : Option Cell :=
  let ks := (List.range p.copies).filterMap (fun f =>
    let rc := p.cell f m n
    if x.unmasked rc then some (128 * rc.1 + rc.2) else none)
  match ks with
  | [] => none
  | k :: t => some (t.foldl (fun c k => wideCombine b.complex c (b.cell k)) (b.cell k))

/-- The Slab cell whose visit writes an output element: the last of its footprint cells in row order. -/
def emitKey (x : SlabCmd) (p : Prob) (m n : Nat) : Option Nat :=
  (List.range p.copies).foldl (fun acc f =>
    let rc := p.cell f m n
    if x.unmasked rc then some (match acc with | none => 128 * rc.1 + rc.2 | some k => Nat.max k (128 * rc.1 + rc.2)) else acc) none

/-- What a drain writes in a narrow format, in drain order: address and bytes of each element, and its flags. -/
def drainNarrow (x : SlabCmd) (b : Bank) : List (Nat × List Byte × Nat) :=
  let els := x.probs.flatMap fun p => (List.range p.m).flatMap fun m => (List.range p.n).filterMap fun n =>
    (emitKey x p m n).map (fun k => (k, p, m, n))
  (List.range 16384).flatMap fun k => (els.filter (fun e => e.1 == k)).filterMap fun e =>
    let p := e.2.1
    (outCell x b p e.2.2.1 e.2.2.2).map (fun c =>
      (p.outAddr + e.2.2.1 * p.outStride + e.2.2.2 * outBytes x.r.fmt * (if b.complex then 2 else 1),
        c.outBytes b.complex b.ew x.r, c.flags))

/-- What a drain writes as W128: each problem's whole tile, masked cells zero (R73). -/
def drainWide (x : SlabCmd) (b : Bank) : List (Nat × List Byte × Nat) :=
  (x.probs.filter (fun p => p.m != 0 && p.n != 0)).map fun p =>
    let cs := (List.range p.m).flatMap fun m => (List.range p.n).map fun n => (outCell x b p m n).getD Cell.zero
    let t : Tile := { ew := b.ew, complex := b.complex, rows := p.m, cols := p.n, cells := cs }
    (p.outAddr, t.bytes, (cs.map Cell.flags).foldl orFlags 0)

/-- Everything a drain writes. -/
def SlabCmd.drainOut (x : SlabCmd) (b : Bank) : List (Nat × List Byte × Nat) := if x.r.fmt = 8 then drainWide x b else drainNarrow x b

/-- Stage output pieces in a command: shadow bytes, assay over the bytes in order (R145), flags and status (R52). -/
def stageOut (c : Cmd) (out : List (Nat × List Byte × Nat)) : Cmd :=
  let fl := (out.map (·.2.2)).foldl orFlags 0
  let bytes := out.flatMap (·.2.1)
  { c with writes := out.foldl (fun w e => putBytes w e.1 e.2.1) [], accFlags := fl, hasOut := bytes ≠ [],
           assay := if bytes = [] then 0 else crc64 bytes, status := if bitOf fl 0 then .accOverflow else .ok }

/-! ### The command -/

/-- The bank of a command's context stands as the earlier-issued commands leave it: no SLAB of the context waits to run, and the context is
not in its save area. -/
def bankKnown (s : State) (c : Cmd) : Bool := !engineTaken s c 1 && (getCtx s (cmdCtx c)).res != .saved

/-- The checks of R126 for a SLAB command, and its page sets. The chain rules are judged on the bank that the earlier-issued commands
leave, so a command that passes the checks before them waits until that bank is known (DEDUCED). -/
def slabPlan (s : State) (c : Cmd) : State × Except (Status × Nat) Cmd :=
  let x := slabOf c
  let bank := (getCtx s (cmdCtx c)).bank x.bank
  let reads := x.probs.flatMap x.reads ++ x.loadRange
  let writes := if x.drain then x.probs.map x.outRange else []
  if x.reserved || x.formatBad || x.windowBad || x.entriesBad || x.outputBad || (bankKnown s c && x.chainBad bank) then
    (s, .error (.badFormat, 0))
  else if !bankKnown s c then (if cmdQuota s c true then (s, .error (.quota, 0)) else (s, .ok c))
  else match yardCheck (spacePages s c) reads writes with
    | some e => (s, .error e)
    | none =>
      if cmdQuota s c true then (s, .error (.quota, 0))
      else (s, .ok { c with rpages := pagesOf reads, wpages := pagesOf writes })

/-- The Slab is free for a command: no earlier SLAB of the context waits to start, and none that drained its bank has still to commit
(R72, R74). -/
def slabFree (s : State) (c : Cmd) : Bool :=
  bankKnown s c &&
    !(s.work.cmds.any (fun e => e.2.st == .issued && e.2.opcode == 1 && e.2.b 107 1 == 1 && e.2.b 106 1 == c.b 106 1 &&
      cmdCtx e.2 == cmdCtx c))

/-- The tile checks of a LOAD (R46, R53, R70). -/
def tileBad (x : SlabCmd) (b : Bank) (p : Prob) (t : Option Tile) : Bool :=
  match t with
  | none => true
  | some t => t.rows != p.m || t.cols != p.n || t.complex != x.complex || (b.isOpen && t.ew != b.ew)

/-- Execute a SLAB command: initialise the footprint, feed every problem, and drain into shadows. -/
def slabRun (s : State) (cid : Nat) (c : Cmd) : Ran :=
  let x := slabOf c
  let key := cmdCtx c
  let ctx := getCtx s key
  let old := ctx.bank x.bank
  let byte := ctx.byte
  let p0 := x.probs.headD (probOf c 0)
  let loads := x.w.init == 2 && p0.m != 0 && p0.n != 0
  let tile := if loads then readTile byte x.loadAddr else none
  if loads && tileBad x old p0 tile then .fail s .badFormat 0
  else
    let b := x.probs.foldl (feedProb x byte) (x.init old tile)
    let chain := old.members
    let c := if x.drain then { stageOut c (x.drainOut b) with chain := chain, snap := some old } else c
    let b := if x.drain then { b with isOpen := false, init := [], members := [] } else { b with members := old.members ++ [cid] }
    let s := bump (wr s Reg.benchLive0SlabTag c.bench c.tag) Reg.benchFeedCycCount c.bench x.feedClocks
    let s := yardStall s c.bench
    .ok (putCtx s key (ctx.setBank x.bank b)) c

/-- SLAB (R67): issue, check, feed, accumulate and drain. -/
def execSlab (cid : Nat) (s : State) : Ans := .next (issueBench s cid (fun c => c.opcode == 1) slabPlan slabFree slabRun)

end Sys2Proof.Machine
end

