-- ==== Sys2Proof/Machine/Dresser.lean ====
section
/-! DEFINITION. The Dresser commands (R88-R101): control block and operation blocks, elementwise maps, row reductions, wide sums, MX
quantisation, random numbers and page release. -/

namespace Sys2Proof.Machine

/-! ### The command body (Table 04.2) -/

/-- A stream of a Dresser command. -/
structure Stream where
  fmt : Nat
  mode : Nat
  addr : Nat
  stride : Nat
  deriving DecidableEq, Repr

/-- A Dresser command as its control block states it. -/
structure DresserCmd where
  wraw : Nat
  rraw : Nat
  r : Rctl
  op : Nat
  x : Stream
  y : Stream
  z : Stream
  reserved : Bool
  rows : Nat
  cols : Nat
  outAddr : Nat
  outStride : Nat
  out2Addr : Nat
  out2Stride : Nat
  indexBase : Nat
  /-- The operation block. -/
  blk : Nat

/-- Read a Dresser body. -/
def dresserOf (c : Cmd) : DresserCmd :=
  { wraw := c.b 0 64, rraw := c.b 64 32, r := rctlOf (c.b 64 32), op := c.b 96 6,
    x := ⟨c.b 102 4, 0, c.b 176 24, c.b 200 24⟩, y := ⟨c.b 106 4, c.b 114 2, c.b 224 24, c.b 248 24⟩,
    z := ⟨c.b 110 4, c.b 116 2, c.b 272 24, c.b 296 24⟩, reserved := c.b 118 10 != 0 || c.b 168 8 != 0 || c.b 448 64 != 0,
    rows := c.b 128 16, cols := c.b 144 24, outAddr := c.b 320 24, outStride := c.b 344 24, out2Addr := c.b 368 24,
    out2Stride := c.b 392 24, indexBase := c.b 416 32, blk := c.b 512 512 }

/-- All fields of a stream are zero. -/
def Stream.isZero (t : Stream) : Bool := t.fmt == 0 && t.mode == 0 && t.addr == 0 && t.stride == 0

/-- Bits of a Dresser element code. -/
def dBits (code : Nat) : Nat := (dresserFmt code).elim 0 Fmt.bits

/-- The scalar formats a stream may carry (R89). -/
def scalarFmt (code : Nat) : Bool := (dresserFmt code).isSome

/-- Bytes a stream reads for a command's rows and columns. -/
def Stream.reads (t : Stream) (rows cols : Nat) : List (Nat × Nat) :=
  if rows = 0 ∨ cols = 0 then []
  else match t.mode with
    | 0 => rowRanges t.addr t.stride rows (lineLen (dBits t.fmt) cols)
    | 1 => rowRanges t.addr t.stride rows (lineLen (dBits t.fmt) 1)
    | _ => [(t.addr, lineLen (dBits t.fmt) cols)]

/-- Element (row, col) of a stream, as its code. -/
def Stream.elem (t : Stream) (byte : Nat → Byte) (row col : Nat) : Nat :=
  match t.mode with
  | 0 => lineElem byte (t.addr + row * t.stride) (dBits t.fmt) col
  | 1 => lineElem byte (t.addr + row * t.stride) (dBits t.fmt) 0
  | _ => lineElem byte t.addr (dBits t.fmt) col

/-- Element (row, col) of a stream in FP32 (R90). -/
def Stream.f32At (t : Stream) (byte : Nat → Byte) (row col : Nat) : Nat :=
  match dresserFmt t.fmt with
  | none => 0
  | some f => elemF32 f (t.elem byte row col)

/-- Element (row, col) of a stream as an exact value. -/
def Stream.valAt (t : Stream) (byte : Nat → Byte) (row col : Nat) : Fp :=
  match dresserFmt t.fmt with
  | none => .nan
  | some f => f.decode (t.elem byte row col)

/-! ### MAP programs (R92) -/

/-- One slot of a MAP program. -/
structure Slot where
  op : Nat
  dst : Nat
  a : Nat
  b : Nat
  c : Nat
  reserved : Nat
  deriving DecidableEq, Repr

/-- Slot `i` of an operation block. -/
def slotOf (blk i : Nat) : Slot :=
  let w := bitsOf blk (32 * i) 32
  { op := bitsOf w 0 6, dst := bitsOf w 6 3, a := bitsOf w 9 4, b := bitsOf w 13 4, c := bitsOf w 17 4, reserved := bitsOf w 21 11 }

/-- Operands an opcode reads: 0 for reserved opcodes (Table 04.4). -/
def mapArity (op : Nat) : Nat :=
  if op = 4 then 3
  else if op = 1 ∨ op = 2 ∨ op = 3 ∨ op = 5 ∨ op = 6 ∨ op = 9 then 2
  else if op = 7 ∨ op = 8 ∨ op = 10 ∨ op = 11 ∨ (0x10 ≤ op ∧ op ≤ 0x1B) then 1
  else 0

/-- The program: the slots before the first opcode 0x00. -/
def mapProg (blk : Nat) : List Slot := ((List.range 8).map (slotOf blk)).takeWhile (fun t => t.op != 0)

/-- The sources a slot reads. -/
def Slot.srcs (t : Slot) : List Nat := [t.a, t.b, t.c].take (mapArity t.op)

/-- A source that names a temporary not yet written, or is reserved. -/
def srcBad (written : List Nat) (src : Nat) : Bool := 13 ≤ src || (7 ≤ src && !written.contains (src - 7))

/-- Check the slots in order against the temporaries already written. -/
def slotsBad (ts : List Slot) (written : List Nat) : Bool :=
  match ts with
  | [] => false
  | t :: rest =>
    mapArity t.op == 0 || 6 ≤ t.dst || t.reserved != 0 || t.srcs.any (srcBad written) ||
      ([t.a, t.b, t.c].drop (mapArity t.op)).any (· != 0) || slotsBad rest (t.dst :: written)

/-- The whole operation block of a MAP is in form (R92). -/
def mapBad (blk : Nat) : Bool :=
  let prog := mapProg blk
  slotsBad prog [] || bitsOf blk (32 * prog.length) (256 - 32 * prog.length) != 0 || bitsOf blk 387 125 != 0 ||
    !(prog.map Slot.dst).contains (bitsOf blk 384 3)

/-- A stream (0 X, 1 Y, 2 Z) is read by a MAP program. -/
def mapReads (blk i : Nat) : Bool := (mapProg blk).any (fun t => t.srcs.contains i)

/-- A MAP opcode on FP32 codes (Table 04.4). -/
def mapOp (op a b c : Nat) : Nat :=
  match op with
  | 0x01 => f32Add a b
  | 0x02 => f32Sub a b
  | 0x03 => f32Mul a b
  | 0x04 => f32Fma a b c
  | 0x05 => f32Pick true a b
  | 0x06 => f32Pick false a b
  | 0x07 => (match f32 a with | .nan => fFP32.nanCode | _ => a % 2 ^ 31)
  | 0x08 => f32Neg a
  | 0x09 => if (f32 b).lt (f32 a) then 0x3F800000 else 0
  | 0x0A => f32Int false a
  | 0x0B => f32Int true a
  | op => f32Fn op a

/-- Run a MAP program on one element: streams, then the output temporary. -/
def mapElem (blk x y z : Nat) : Nat :=
  let scalar (i : Nat) : Nat := bitsOf blk (256 + 32 * i) 32
  let src (t : SMap Nat) (k : Nat) : Nat :=
    if k = 0 then x else if k = 1 then y else if k = 2 then z else if k < 7 then scalar (k - 3) else mapGet t (k - 7) 0
  let temps := (mapProg blk).foldl (fun t sl => mapSet t sl.dst (mapOp sl.op (src t sl.a) (src t sl.b) (src t sl.c))) []
  mapGet temps (bitsOf blk 384 3) 0

/-! ### Row operations -/

/-- Combine 2n partials by the binary tree of R94. -/
def treeAdd (fuel : Nat) (l : List Nat) : List Nat :=
  match fuel with
  | 0 => l
  | n + 1 =>
    let half := l.length / 2
    treeAdd n ((List.range half).map (fun i => f32Add (l.getD (2 * i) 0) (l.getD (2 * i + 1) 0)))

/-- The FP32 sum of a row in the fixed lane and tree order (R94). -/
def rowSum (vals : List Nat) : Nat :=
  if vals = [] then 0 else
  let lanes := (vals.zipIdx).foldl (fun (l : SMap Nat) e => mapMod l (e.2 % 512) 0 (fun p => f32Add p e.1)) []
  ((treeAdd 9 ((List.range 512).map (fun i => mapGet lanes i 0))).headD 0)

/-- The window exponent of a ROW_WIDE_SUM that does not load (R95). -/
def wideEw (x : DresserCmd) : Int :=
  let w := wctlOf x.wraw
  match w.mode with
  | 0 => w.ew
  | 1 => clampEw (fmtBound x.x.fmt + w.headroom - 126)
  | _ => clampEw (w.boundA + w.headroom - 126)

/-- The window checks of ROW_WIDE_SUM (R95). -/
def wideBad (x : DresserCmd) : Bool :=
  let w := wctlOf x.wraw
  w.bad || w.boundB != 0 || w.init == 1 || (w.init == 0 && w.mode == 1 && (x.x.fmt == 7 || x.x.fmt == 10)) ||
    (if w.init = 2 then x.y.fmt != 13 || x.y.mode != 0 || x.y.stride != 0 else !x.y.isZero)

/-- One row's wide sum: the start cell and every element, in one exact sum (R95). -/
def wideRow (byte : Nat → Byte) (x : DresserCmd) (ew : Int) (start : Cell) (row : Nat) : Cell :=
  start.cycle ((List.range x.cols).map (fun k => contrib ew (x.x.valAt byte row k)))

/-- One block of an MX_QUANT row: its scale and its element codes (R98). -/
def mxBlock (code : Nat) (vals : List Fp) : Nat × List Nat :=
  let fmt := (slabFmt code).getD (.int 8)
  if vals.any (fun v => match v with | .fin _ _ _ => false | _ => true) then (255, vals.map (fun _ => 0))
  else
    let exps : List Int := vals.filterMap (fun v => match v with
      | .fin _ mag e => if mag = 0 then none else some ((Nat.log2 mag : Int) + e)
      | _ => none)
    let scale : Nat := match exps with
      | [] => 0
      | e :: t => (max 0 (min 254 (t.foldl max e - (if code = 0 then 0 else fmtBound code) + 127))).toNat
    (scale, vals.map (fun v => match fmt, v with
      | .int _, .fin n mag e => codeOf (max (-127) (min 127 (sgn n (roundInt mag (e + 133 - scale) false)))) 8
      | .flt f, .fin n mag e => f.signBit n + Nat.min f.maxCode (f.roundCode mag (e + 127 - scale) false)
      | _, _ => 0))

/-- Word u of the counter-based generator (R99). -/
def randomWord (blk u : Nat) : Nat :=
  let key := leBytes 16 (bitsOf blk 0 128)
  let block := leBytes 8 (bitsOf blk 128 64) ++ leBytes 8 (u / 4)
  bitsOf (leNat (sm4Enc key block)) (32 * (u % 4)) 32

/-- Element e of a RANDOM tile as the code written for it: raw, or an FP32 code (R99). -/
def randomElem (blk e : Nat) : Nat :=
  let base := bitsOf blk 192 64
  match bitsOf blk 256 2 with
  | 0 => randomWord blk (base + e)
  | 1 => toF32 (.fin false (randomWord blk (base + e) / 256) (-24))
  | _ =>
    let w0 := randomWord blk (base + e / 2 * 2)
    let w1 := randomWord blk (base + e / 2 * 2 + 1)
    let q := toF32 (.fin false (w1 / 256 + 1) (-24))
    let theta := f32Mul 0x40C90FDB (toF32 (.fin false (w0 / 256) (-24)))
    let rad := f32Sqrt (f32Mul 0xC0000000 (f32Fn 0x16 q))
    f32Mul rad (f32Fn (if e % 2 = 0 then 0x1B else 0x1A) theta)

/-! ### Shapes -/

/-- Output rows of a command: the ranges of R101, first output then second, for element width factor `wf` (2 for the halves of a
complex tile). -/
def dresserOuts (x : DresserCmd) (wf : Nat) : List (Nat × Nat) :=
  let ob := outBytes x.r.fmt
  match x.op with
  | 1 => rowRanges x.outAddr x.outStride x.rows (x.cols * ob)
  | 2 => rowRanges x.outAddr x.outStride x.rows ob
  | 3 => if x.r.fmt = 8 then [(x.outAddr, if x.rows = 0 then 0 else tileLen x.rows)]
         else rowRanges x.outAddr x.outStride x.rows ob
  | 4 => if x.r.fmt = 8 then [(x.outAddr, if x.rows * x.cols = 0 then 0 else tileLen (x.rows * x.cols))]
         else rowRanges x.outAddr x.outStride x.rows (x.cols * ob * wf)
  | 5 => rowRanges x.outAddr x.outStride x.rows (lineLen (dBits x.x.fmt) 1) ++ rowRanges x.out2Addr x.out2Stride x.rows 4
  | 6 => rowRanges x.outAddr x.outStride x.rows (lineLen (dBits x.x.fmt) 1) ++ rowRanges x.out2Addr x.out2Stride x.rows 4
  | 7 => rowRanges x.outAddr x.outStride x.rows (lineLen (dBits (bitsOf x.blk 0 4)) x.cols) ++
         rowRanges x.out2Addr x.out2Stride x.rows (cdiv x.cols 32)
  | 8 => rowRanges x.outAddr x.outStride x.rows (x.cols * ob)
  | _ => []

/-- Bytes a command reads. -/
def dresserReads (x : DresserCmd) : List (Nat × Nat) :=
  match x.op with
  | 1 => (if mapReads x.blk 0 then x.x.reads x.rows x.cols else []) ++ (if mapReads x.blk 1 then x.y.reads x.rows x.cols else []) ++
         (if mapReads x.blk 2 then x.z.reads x.rows x.cols else [])
  | 2 => x.x.reads x.rows x.cols
  | 3 => x.x.reads x.rows x.cols ++ (if (wctlOf x.wraw).init = 2 ∧ x.rows ≠ 0 then [(x.y.addr, tileLen x.rows)] else [])
  | 4 => if x.rows * x.cols = 0 then [] else [(x.x.addr, tileLen (x.rows * x.cols)), (x.y.addr, tileLen (x.rows * x.cols))]
  | 5 => x.x.reads x.rows x.cols
  | 6 => x.x.reads x.rows x.cols
  | 7 => x.x.reads x.rows x.cols
  | _ => []

/-- The checks of an operation's own fields (R92-R101); ops beyond DISCARD are reserved. An operation without an operation-block layout
takes a block of zeros only (DESIGN CHOICE: R101 gives such a block no meaning). -/
def opBad (x : DresserCmd) : Bool :=
  let noYZ := x.y.isZero && x.z.isZero
  match x.op with
  | 1 =>
    let st (i : Nat) (t : Stream) : Bool := if mapReads x.blk i then scalarFmt t.fmt && t.mode != 3 else t.isZero
    mapBad x.blk || !(st 0 x.x && st 1 x.y && st 2 x.z) || x.r.bad || x.r.fmt == 8 || x.wraw != 0
  | 2 => !noYZ || !scalarFmt x.x.fmt || x.blk != 0 || x.r.bad || x.r.fmt == 8 || x.wraw != 0
  | 3 => !x.z.isZero || !scalarFmt x.x.fmt || x.blk != 0 || x.r.bad || wideBad x || (x.r.fmt == 8 && x.outStride != 0)
  | 4 => !x.z.isZero || x.x.fmt != 13 || x.y.fmt != 13 || x.x.stride != 0 || x.y.stride != 0 || x.y.mode != 0 || x.blk != 0 ||
         x.r.bad || x.wraw != 0 || (x.r.fmt == 8 && x.outStride != 0)
  | 5 => !noYZ || !scalarFmt x.x.fmt || x.blk != 0 || x.rraw != 0 || x.wraw != 0 || (x.cols != 0 && 0xFFFFFFFE < x.indexBase + x.cols - 1)
  | 6 => !noYZ || !scalarFmt x.x.fmt || x.blk != 0 || x.rraw != 0 || x.wraw != 0 || (x.cols != 0 && 0xFFFFFFFE < x.indexBase + x.cols - 1)
  | 7 => !noYZ || !(x.x.fmt == 7 || x.x.fmt == 8 || x.x.fmt == 10) || !mxAllowed (x.blk % 16) || 16 ≤ x.blk || x.rraw != 0 ||
         x.wraw != 0 || x.out2Stride != scaleStride x.cols
  | 8 => !noYZ || !x.x.isZero || x.r.bad || x.r.fmt == 8 || x.wraw != 0 || bitsOf x.blk 256 2 == 3 || bitsOf x.blk 258 254 != 0 ||
         (bitsOf x.blk 256 2 == 0 && x.r.fmt != 7) || (bitsOf x.blk 256 2 == 2 && bitsOf x.blk 192 1 != 0)
  | 9 => !noYZ || x.x.fmt != 0 || x.x.stride != 0 || x.x.addr % 65536 != 0 || x.rows != 1 || 64 < x.cols || x.rraw != 0 || x.wraw != 0 ||
         x.outAddr != 0 || x.outStride != 0 || x.out2Addr != 0 || x.out2Stride != 0 || x.blk != 0
  | _ => true

/-- Pages a DISCARD releases (R100). -/
def discardPages (x : DresserCmd) : List Nat :=
  if x.op = 9 then (List.range x.cols).map (x.x.addr / 65536 + ·) else []

/-- A WIDE_ADD with a narrow output, whose output rows depend on the kind of its tiles (R96). -/
def DresserCmd.byKind (x : DresserCmd) : Bool := x.op == 4 && x.r.fmt != 8 && x.rows * x.cols != 0

/-- The tile header of such a command stands as the command will read it: its context is resident, and no uncommitted command writes the
header's page. -/
def kindKnown (s : State) (c : Cmd) : Bool :=
  let x := dresserOf c
  !x.byKind || ((getCtx s (cmdCtx c)).res != .saved &&
    !(spaceCmds s (cmdCtx c) s.work.nextCid).any (fun e => e.2.wset.contains (x.x.addr / 65536)))

/-- Width factor of a command's output elements: 2 for a WIDE_ADD of complex tiles. -/
def outFactor (s : State) (c : Cmd) : Nat :=
  let x := dresserOf c
  if x.byKind then
    match readTile (getCtx s (cmdCtx c)).byte x.x.addr with
    | some t => if t.complex then 2 else 1
    | none => 1
  else 1

/-- The checks of R126 for a Dresser command, and its page sets. The output of a WIDE_ADD is judged by the kind of its tile, so that command
waits until the tile's header is known (DEDUCED). -/
def dresserPlan (s : State) (c : Cmd) : State × Except (Status × Nat) Cmd :=
  let x := dresserOf c
  let P := spacePages s c
  let reads := dresserReads x
  let outs := dresserOuts x (outFactor s c)
  let gone := if x.op = 9 then [(x.x.addr, x.cols * 65536)] else []
  if x.reserved || opBad x then (s, .error (.badFormat, 0))
  else if !kindKnown s c then (s, .ok c)
  else if anyMeet outs then (s, .error (.badFormat, 0))
  else match yardCheck P reads outs with
    | some e => (s, .error e)
    | none => match outsideYard P gone with
      | some a => (s, .error (.translationFault, a))
      | none =>
        if cmdQuota s c true then (s, .error (.quota, 0))
        else (s, .ok { c with rpages := pagesOf reads, wpages := pagesOf outs, discard := discardPages x })

/-- The Dresser is free for a command: every earlier DRESSER of the context has committed (Table 05.9), and the command's output rows are
known. -/
def dresserFree (s : State) (c : Cmd) : Bool := !engineHeld s c 2 && kindKnown s c

/-! ### Execution, one function per operation: pieces of output in assay order -/

/-- Output pieces of MAP. -/
def runMap (byte : Nat → Byte) (x : DresserCmd) : List (Nat × List Byte × Nat) :=
  (List.range x.rows).map fun row =>
    (x.outAddr + row * x.outStride, (List.range x.cols).flatMap (fun col =>
      let g (i : Nat) (t : Stream) : Nat := if mapReads x.blk i then t.f32At byte row col else 0
      leBytes (outBytes x.r.fmt) (f32Out x.r (mapElem x.blk (g 0 x.x) (g 1 x.y) (g 2 x.z)))), 0)

/-- Output pieces of ROW_SUM. -/
def runRowSum (byte : Nat → Byte) (x : DresserCmd) : List (Nat × List Byte × Nat) :=
  (List.range x.rows).map fun row =>
    (x.outAddr + row * x.outStride,
      leBytes (outBytes x.r.fmt) (f32Out x.r (rowSum ((List.range x.cols).map (x.x.f32At byte row)))), 0)

/-- Output pieces of a column or tile of accumulator cells: a W128 tile, or rows of converted elements (R95, R96). -/
def cellsOut (x : DresserCmd) (t : Tile) : List (Nat × List Byte × Nat) :=
  if x.r.fmt = 8 then
    (if t.cells = [] then [] else [(x.outAddr, t.bytes, (t.cells.map Cell.flags).foldl orFlags 0)])
  else (List.range t.rows).map fun row =>
    let cs := (t.cells.drop (row * t.cols)).take t.cols
    (x.outAddr + row * x.outStride, cs.flatMap (fun c => c.outBytes t.complex t.ew x.r), (cs.map Cell.flags).foldl orFlags 0)

/-- Output pieces of ROW_WIDE_SUM: none when its tile is refused. With no rows it neither reads a tile nor writes one, not even a header
(DESIGN CHOICE: R95 does not say). -/
def runWideSum (byte : Nat → Byte) (x : DresserCmd) : Option (List (Nat × List Byte × Nat)) :=
  if (wctlOf x.wraw).init = 2 ∧ x.rows ≠ 0 then
    match readTile byte x.y.addr with
    | none => none
    | some t =>
      if t.rows ≠ x.rows ∨ t.cols ≠ 1 ∨ t.complex = true then none
      else some (cellsOut x { t with cells := (List.range x.rows).map (fun r => wideRow byte x t.ew (t.cells.getD r Cell.zero) r) })
  else
    let ew := wideEw x
    some (cellsOut x { ew := ew, complex := false, rows := x.rows, cols := 1,
                       cells := (List.range x.rows).map (wideRow byte x ew Cell.zero) })

/-- Output pieces of WIDE_ADD: none when its tiles are refused. -/
def runWideAdd (byte : Nat → Byte) (x : DresserCmd) : Option (List (Nat × List Byte × Nat)) :=
  if x.rows * x.cols = 0 then some []
  else match readTile byte x.x.addr, readTile byte x.y.addr with
    | some t, some u =>
      if t.rows ≠ x.rows ∨ t.cols ≠ x.cols ∨ u.rows ≠ x.rows ∨ u.cols ≠ x.cols ∨ t.ew ≠ u.ew ∨ t.complex ≠ u.complex ∨
          (t.complex = true ∧ x.r.fmt < 6) then none
      else some (cellsOut x { t with cells := List.zipWith (wideCombine t.complex) t.cells u.cells })
    | _, _ => none

/-- Output pieces of ROW_MAXI and ROW_MINI: values, then indices. -/
def runRowIdx (max : Bool) (byte : Nat → Byte) (x : DresserCmd) : List (Nat × List Byte × Nat) :=
  let f := (dresserFmt x.x.fmt).getD (.int 8)
  let best := (List.range x.rows).map (fun row =>
    reduceIdx max f ((List.range x.cols).map (fun k => (x.x.elem byte row k, x.indexBase + k))))
  best.zipIdx.map (fun b => (x.outAddr + b.2 * x.outStride, leBytes (lineLen f.bits 1) b.1.1, 0)) ++
  best.zipIdx.map (fun b => (x.out2Addr + b.2 * x.out2Stride, leBytes 4 b.1.2, 0))

/-- Output pieces of MX_QUANT: element rows, then scale rows. -/
def runMxQuant (byte : Nat → Byte) (x : DresserCmd) : List (Nat × List Byte × Nat) :=
  let code := x.blk % 16
  let row (r : Nat) : List (Nat × List Nat) := (List.range (cdiv x.cols 32)).map (fun b =>
    mxBlock code (((List.range 32).map (32 * b + ·)).filter (· < x.cols) |>.map (x.x.valAt byte r)))
  (List.range x.rows).map (fun r => (x.outAddr + r * x.outStride, packCodes (dBits code) ((row r).flatMap (·.2)), 0)) ++
  (List.range x.rows).map (fun r => (x.out2Addr + r * x.out2Stride, (row r).flatMap (fun b => leBytes 1 b.1), 0))

/-- Output pieces of RANDOM. -/
def runRandom (x : DresserCmd) : List (Nat × List Byte × Nat) :=
  (List.range x.rows).map fun row =>
    (x.outAddr + row * x.outStride, (List.range x.cols).flatMap (fun col =>
      let v := randomElem x.blk (row * x.cols + col)
      leBytes (outBytes x.r.fmt) (if bitsOf x.blk 256 2 = 0 then v else f32Out x.r v)), 0)

/-- Stage the output of a Dresser command, or fail it. BENCH_LIVE2 (and likewise slab_tag) keeps the last command's tag while none runs
(DESIGN CHOICE: R109 gives the field no value then). -/
def dresserStage (s : State) (c : Cmd) (out : Option (List (Nat × List Byte × Nat))) : Ran :=
  let s := yardStall (wr s Reg.benchLive2DresserTag c.bench c.tag) c.bench
  match out with
  | none => .fail s .badFormat 0
  | some o => .ok s (stageOut c o)

/-- A command of the Dresser whose op is `op`, or one whose op is reserved. -/
def isDresser (op : Nat) (c : Cmd) : Bool := c.opcode == 2 && (c.b 96 6 == op || c.b 96 6 == 0 || 9 < c.b 96 6)

/-- Issue or start a Dresser command with one operation's execution. -/
def dresserCmd (s : State) (cid op : Nat) (out : (Nat → Byte) → DresserCmd → Option (List (Nat × List Byte × Nat))) : State :=
  issueBench s cid (isDresser op) dresserPlan dresserFree
    (fun s _ c => dresserStage s c (out (getCtx s (cmdCtx c)).byte (dresserOf c)))

/-- MAP (R92). -/
def execMap (cid : Nat) (s : State) : Ans := .next (dresserCmd s cid 1 (fun byte x => some (runMap byte x)))

/-- ROW_SUM (R94). -/
def execRowSum (cid : Nat) (s : State) : Ans := .next (dresserCmd s cid 2 (fun byte x => some (runRowSum byte x)))

/-- ROW_WIDE_SUM (R95). -/
def execRowWideSum (cid : Nat) (s : State) : Ans := .next (dresserCmd s cid 3 runWideSum)

/-- WIDE_ADD (R96). -/
def execWideAdd (cid : Nat) (s : State) : Ans := .next (dresserCmd s cid 4 runWideAdd)

/-- ROW_MAXI (R97). -/
def execRowMaxi (cid : Nat) (s : State) : Ans := .next (dresserCmd s cid 5 (fun byte x => some (runRowIdx true byte x)))

/-- ROW_MINI (R97). -/
def execRowMini (cid : Nat) (s : State) : Ans := .next (dresserCmd s cid 6 (fun byte x => some (runRowIdx false byte x)))

/-- MX_QUANT (R98). -/
def execMxQuant (cid : Nat) (s : State) : Ans := .next (dresserCmd s cid 7 (fun byte x => some (runMxQuant byte x)))

/-- RANDOM (R99). -/
def execRandom (cid : Nat) (s : State) : Ans := .next (dresserCmd s cid 8 (fun _ x => some (runRandom x)))

/-- DISCARD (R100): the pages form the write set and are released at commit. -/
def execDiscard (cid : Nat) (s : State) : Ans := .next (dresserCmd s cid 9 (fun _ _ => some []))

end Sys2Proof.Machine
end

