-- ==== Sys2Proof/Machine/Image.lean ====
section
/-! DEFINITION. The configuration image (R443-R445): its form, its sections and their checks, admission of the cell plan (R24, R282, R329,
R330), slot recipes and the rotation set (R362-R364), DEFAULTS, and row IMAGE_VERIFY. -/

namespace Sys2Proof.Machine

/-! ### Header and directory (R443) -/

/-- Directory entries of an image body. -/
def dirEntries (body : List Byte) : List Nat :=
  (List.range (bitsOf (leNat (body.take 64)) 20 12)).map (fun i => leNat ((body.drop (64 + 16 * i)).take 16))

/-- A directory entry's id, required bit, offset and length. -/
def dirId (e : Nat) : Nat := bitsOf e 0 16
def dirRequired (e : Nat) : Bool := bitOf e 16
def dirOff (e : Nat) : Nat := bitsOf e 32 32
def dirLen (e : Nat) : Nat := bitsOf e 64 32

/-- Two sections share a byte. -/
def overlaps (a b : Nat) : Bool := dirOff a < dirOff b + dirLen b && dirOff b < dirOff a + dirLen a && 0 < dirLen a && 0 < dirLen b

/-- The ids of Table 17.4. -/
def knownId (id : Nat) : Bool := 1 ≤ id && id ≤ 0xB

/-- The form of an image body (R443). -/
def imageForm (body : List Byte) : Bool :=
  let h := leNat (body.take 64)
  let n := bitsOf h 20 12
  let es := dirEntries body
  let ids := (es.map dirId).filter (· < 0x8000)
  bitsOf h 0 4 == 1 && bitsOf h 4 16 == 0 && 1 ≤ n && n ≤ 256 && bitsOf h 32 32 == body.length && bitsOf h 64 448 == 0 &&
    64 + 16 * n ≤ body.length &&
    es.all (fun e => bitsOf e 17 7 == 0 && bitsOf e 96 32 == 0 && dirOff e % 64 == 0 && dirOff e + dirLen e ≤ body.length) &&
    es.zipIdx.all (fun a => es.zipIdx.all (fun b => a.2 == b.2 || !overlaps a.1 b.1)) &&
    ids.eraseDups.length == ids.length && es.all (fun e => knownId (dirId e) || 0x8000 ≤ dirId e || !dirRequired e)

/-- The image carries a section. -/
def hasSection (body : List Byte) (id : Nat) : Bool := (dirEntries body).any (fun e => dirId e == id)

/-- Bytes of a section. -/
def sectionBytes (body : List Byte) (id : Nat) : List Byte :=
  match (dirEntries body).find? (fun e => dirId e == id) with
  | none => []
  | some e => (body.drop (dirOff e)).take (dirLen e)

/-- A refused section is logged (R444, Table 15.4). -/
def refuseSection (s : State) (id : Nat) (st : Status) : State := logErr s 0 st 5 0 (2 ^ 31 + id)

/-- Load a section that passed its check, or refuse it. -/
def takeSection (s : State) (id : Nat) (bad : Option Status) (load : State → State) : State :=
  match bad with
  | none => load s
  | some st => refuseSection s id st

/-- Write a list of one-instance fields. -/
def wrAll (s : State) (l : List (Fld × Nat)) : State := l.foldl (fun s e => wr s e.1 0 e.2) s

/-! ### DEVICE, MEMORY, JEANO, TIME (Table 17.4) -/

/-- DEVICE. -/
def loadDevice (s : State) (c : Sections) : State := wrAll s [(Reg.plumbPlumb, bit01 c.plumb), (Reg.crusherCfgPlumbTree, bit01 c.plumb)]

/-- MEMORY: shares of 0 to 50 % (R18, R167), and as many radio lots as there are. -/
def memoryBad (s : State) (c : Sections) : Option Status :=
  if 50 < c.memRshare ∨ 50 < c.galleryShare ∨ (0 < c.radioLots ∧ rd s Reg.caps0DramLots 0 < 2 + c.radioLots + rd s Reg.memRsvMgrLots 0) then
    some .badFormat else none

def loadMemory (s : State) (c : Sections) : State :=
  let s := { s with boot := { s.boot with image := { s.boot.image with galleryShare := c.galleryShare } } }
  wrAll s [(Reg.memRsvRadioLots, c.radioLots), (Reg.memRshareShare, c.memRshare)]

/-- JEANO: the node lies in its domain, 1 to 8 rows and columns (1 to 4 on PRN1-E), an Ethernet port exists (R182, R221). -/
def jeanoBad (s : State) (c : Sections) : Option Status :=
  let mask := rd s Reg.caps0JeanoPortMask 0
  let side := if mask = 0xC387 then 4 else 8
  if (c.eth14 ∧ !bitOf mask 14) ∨ (c.eth15 ∧ !bitOf mask 15) then some .noUnit
  else if 1024 ≤ c.node ∨ side ≤ c.rowsM1 ∨ side ≤ c.colsM1 ∨ 16 ≤ c.domainsM1 ∨ c.rowsM1 < c.node / 8 % 8 ∨ c.colsM1 < c.node % 8 ∨
      c.domainsM1 < c.node / 64 ∨ 50 < c.jeanoRshare ∨ 1024 ≤ c.leader ∨ 65536 ≤ c.udpPort then some .badFormat
  else none

def loadJeano (s : State) (c : Sections) : State :=
  let put (m : SMap Nat) (l : List (Nat × Nat)) : SMap Nat := l.foldl (fun m e => mapSet m e.1 e.2) m
  let s := { s with
    boot := { s.boot with image := { s.boot.image with leader := c.leader, udpPort := c.udpPort, dscp := c.dscp, hops := c.hops } }
    net := { s.net with v4 := put s.net.v4 c.v4, v6 := put s.net.v6 c.v6, mac := put s.net.mac c.macs } }
  wrAll s [(Reg.jeanoNodeCol, c.node % 8), (Reg.jeanoNodeRow, c.node / 8 % 8), (Reg.jeanoNodeDomain, c.node / 64), (Reg.jeanoNodeRowsM1, c.rowsM1),
    (Reg.jeanoNodeColsM1, c.colsM1), (Reg.jeanoCfgDomainsM1, c.domainsM1), (Reg.jeanoRshareShare, c.jeanoRshare), (Reg.jeanoCfgEth14, bit01 c.eth14),
    (Reg.jeanoCfgEth15, bit01 c.eth15)]

/-- Members of the own domain: its rows and columns. -/
def showMembers (s : State) : State :=
  (List.range 64).foldl (fun s n =>
    wr s Reg.healthMemberPresent n (bit01 (n / 8 ≤ rd s Reg.jeanoNodeRowsM1 0 && n % 8 ≤ rd s Reg.jeanoNodeColsM1 0))) s

/-- The image follows PTP on its time port: a PTP source, or the seconds of a PPS_IN source from a PTP domain (R263). -/
def usesPtp (c : Sections) : Bool := c.timeSrc == 1 || (c.timeSrc == 2 && c.ptpDomain != 0)

/-- A port of Table 09.4 that is not there: a fronthaul port of CAPS1, an outer port in DIRECT mode. -/
def portAbsent (s : State) (q : Nat) : Bool :=
  (q < 8 && rd s Reg.caps1FronthaulPorts 0 ≤ q) || (q == 8 && !rdB s Reg.jeanoCfgEth14 0) || (q == 9 && !rdB s Reg.jeanoCfgEth15 0)

/-- SYNCE_RCLK outputs: the port in bits [7:0] and the rate's code above them, 0 for 10, 1 for 25 and 2 for 156.25 MHz (R266). -/
def rclkPort (x : Nat) : Nat := x % 256
def rclkKhz (x : Nat) : Nat := match x / 256 with | 0 => 10000 | 1 => 25000 | _ => 156250

/-- TIME: a source of R263, a port that exists and may receive time, a PTP domain of Table 09.2, a SyncE option of R266 (0: not used) and at
most two recovered clocks. -/
def timeBad (s : State) (c : Sections) : Option Status :=
  let q := c.timePort
  if 3 < c.timeSrc ∨ 12 ≤ q ∨ (usesPtp c ∧ (c.ptpDomain < 24 ∨ 63 < c.ptpDomain ∨ (c.ptpDomain < 44 ∧ 8 ≤ q))) ∨
      2 < c.synceOpt ∨ (0 < c.synceOpt ∧ 12 ≤ c.syncePort) ∨ 2 < c.clockOuts.length ∨
      c.clockOuts.any (fun x => 12 ≤ rclkPort x || 3 ≤ x / 256) = true then some .badFormat
  else if (usesPtp c ∧ portAbsent s q) ∨ (0 < c.synceOpt ∧ portAbsent s c.syncePort) ∨
      c.clockOuts.any (fun x => portAbsent s (rclkPort x)) = true then some .noUnit
  else none

def loadTime (s : State) (c : Sections) : State :=
  let p := s.clock.ptp
  let s := { s with
    clock := { s.clock with ptp := { p with domain := c.ptpDomain, bc := c.boundaryClock, synceOpt := c.synceOpt, syncePort := c.syncePort } }
    boot := { s.boot with image := { s.boot.image with clockOuts := c.clockOuts } } }
  let s := c.clockOuts.zipIdx.foldl (fun s x => emit s (.rclk x.2 (rclkPort x.1) (rclkKhz x.1))) s
  wrAll s [(Reg.timeStateSrc, c.timeSrc), (Reg.timeStateSrcPort, c.timePort)]

/-! ### Streams and chirp channels (R330, R341) -/

/-- Streams of the TDFE section obey R330: their numbers, ranges, internal rates, and one stream for each antenna of a split-8 cell. -/
def streamOk (cells : List CellPlan) (x : StreamPlan) : Bool :=
  (x.kind == 1 || x.kind == 2) && x.rateKhz ≤ 245760 && 1 ≤ x.dec && x.dec ≤ 16 && x.interp == x.dec && 10 ≤ x.cfg.leadUs && x.cfg.leadUs ≤ 500 &&
  5 ≤ x.cfg.rxUs && x.cfg.rxUs ≤ 500 && [256, 512, 1024, 2048].contains x.cfg.spp &&
  (if x.kind = 2 then x.rateKhz == 16000 * x.dec
   else
     match cells[x.cell]? with
     | none => false
     | some c => c.split8 && c.mu ≤ 2 && 7 ≤ x.cfg.fftLog && x.cfg.fftLog ≤ 12 && x.rateKhz == x.dec * (2 ^ x.cfg.fftLog * 15 * 2 ^ c.mu) &&
         x.cfg.fftOffset ≤ 2 ^ x.cfg.fftLog * 144 / 2048 && x.cfg.fftShift ≤ 12)

def streamsOk (c : Sections) : Bool :=
  c.streams.length ≤ 16 && (c.streams.filter (·.kind == 2)).length ≤ 4 && c.streams.all (streamOk c.cells) &&
  c.cells.zipIdx.all (fun x => !x.1.split8 || (x.1.t == x.1.r && (c.streams.filter (fun y => y.kind == 1 && y.cell == x.2)).length == x.1.t))

/-- The settings of a chirp channel (R341). -/
def channelOk (c : Sections) (x : ChanPlan) : Bool :=
  (match c.streams[x.stream]? with | some y => y.kind == 2 | none => false) && x.bw < 4 && x.offset.natAbs + 2 * 2 ^ x.bw ≤ 320 && x.mark < 4096 &&
  4 ≤ x.preMin && x.preMin ≤ 8 && 8 ≤ x.maxSymbols && x.maxSymbols ≤ 2047

/-- TDFE: refused on a part without it (R329), where streams break R330, and where a channel breaks R341. -/
def tdfeBad (s : State) (c : Sections) : Option Status :=
  if !rdB s Reg.caps1Tdfe 0 ∨ c.streams.any (fun x => rd s Reg.caps1FronthaulPorts 0 ≤ x.lport / 4 || rd s Reg.caps1ChiselCount 0 ≤ x.core) = true then
    some .noUnit
  else if !streamsOk c ∨ 64 < c.channels.length ∨ !c.channels.all (channelOk c) then some .badFormat
  else none

def loadTdfe (s : State) (c : Sections) : State :=
  let t := s.tdfe
  let s := { s with tdfe := { t with
    cfg := c.streams.zipIdx.foldl (fun m x => mapSet m x.2 x.1.cfg) t.cfg
    rxBase := c.rxBase, rxSize := c.rxSize, txBase := c.txBase, txLog := c.txLog } }
  let s := wrAll s [(Reg.tdfeInfoStreams, c.streams.length), (Reg.tdfeInfoChannels, c.channels.length)]
  let s := c.streams.zipIdx.foldl (fun s x =>
    [(Reg.tdfeStreamKind, x.1.kind), (Reg.tdfeStreamCell, x.1.cell), (Reg.tdfeStreamLport, x.1.lport), (Reg.tdfeStreamDec, x.1.dec - 1),
     (Reg.tdfeStreamInterp, x.1.interp - 1), (Reg.tdfeStreamCore, x.1.core), (Reg.tdfeStreamRateKhz, x.1.rateKhz)].foldl
      (fun s e => wr s e.1 x.2 e.2) s) s
  c.channels.zipIdx.foldl (fun s x =>
    [(Reg.chirpChStream, x.1.stream), (Reg.chirpChBw, x.1.bw), (Reg.chirpChEnabled, 1), (Reg.chirpChOffset, codeOf x.1.offset 10),
     (Reg.chirpChMark, x.1.mark), (Reg.chirpChPreMin, x.1.preMin), (Reg.chirpChMaxSymbols, x.1.maxSymbols)].foldl (fun s e => wr s e.1 x.2 e.2) s) s

/-! ### Admission of the cell plan -/

/-- Radio units of a cell (R280). -/
def cellCost (p : CellPlan) : Nat := max 1 (cdiv (p.nPrb * 2 ^ p.mu * max 4 (max (max p.t p.r) (max p.lDl p.lUl))) 2184)

/-- D(w_floor) of R282, bits per second. -/
def cellDemand (p : CellPlan) : Nat := p.lDl * p.nPrb * 14000 * 2 ^ p.mu * (24 * p.wFloor + 8)

/-- Most PRBs of a numerology (Table 10.1). -/
def maxPrb (mu : Nat) : Nat := match mu with | 0 => 270 | 1 => 273 | _ => 264

/-- Sub-ports and rate of each, bit/s, of a fronthaul port mode (R284). -/
def modeSubs (m : Nat) : Nat := 2 ^ m
def modeRate (m : Nat) : Nat := 400000000000 / 2 ^ m

/-- Fields of a cell lie in their ranges (R282, Tables 10.1 and 10.4). -/
def cellFieldsOk (modes : List Nat) (p : CellPlan) : Bool :=
  let w (x : Nat) : Bool := [9, 12, 14, 16].contains x
  p.mu ≤ 3 && 1 ≤ p.nPrb && p.nPrb ≤ maxPrb p.mu && 1 ≤ p.t && p.t ≤ 64 && 1 ≤ p.r && p.r ≤ 64 && 1 ≤ p.lDl && p.lDl ≤ 16 && 1 ≤ p.lUl && p.lUl ≤ 8 &&
  p.lport < 32 && p.lport % 4 < modeSubs (modes.getD (p.lport / 4) 0) && w p.wNom && w p.wFloor && p.wFloor ≤ p.wNom && 65536 ≤ p.burst &&
  0 < p.rateBps && p.prio ≤ 7 && 1 ≤ p.maxIter && p.maxIter ≤ 16 && 250 ≤ p.p7LeadUs && p.p7LeadUs ≤ 2000 && p.vlan < 4096 && p.pcp < 8

/-- Counts and hold of a reservation entry at a throttle step: 0 for ÷12, 1 for ÷16, 2 for ÷24. -/
def entryCount (e : ResEntry) (k : Nat) : Nat := match k with | 0 => e.count12 | 1 => e.count16 | _ => e.count24
def entryHold (e : ResEntry) (k : Nat) : Nat := 1000 * (match k with | 0 => e.hold12 | 1 => e.hold16 | _ => e.hold24)

/-- Length of the recipes' period, ns. -/
def periodNs (c : Sections) : Nat := if c.period20 then 20000000 else 10000000

/-- Two entries with the same slot tag share a position while both are active. -/
def entriesClash (c : Sections) (a b : ResEntry) (k : Nat) : Bool :=
  let lead := 1000 * c.leadUs
  a.mu == b.mu && a.releaseNs * 2 ^ a.mu / 1000000 == b.releaseNs * 2 ^ b.mu / 1000000 &&
  a.posBase < b.posBase + entryCount b k && b.posBase < a.posBase + entryCount a k &&
  a.releaseNs < b.releaseNs + entryHold b k + lead && b.releaseNs < a.releaseNs + entryHold a k + lead

/-- The recipes are well formed (R363, R364, reason 5). -/
def recipeOk (c : Sections) : Bool :=
  c.recipeClean && c.recipe.length ≤ 4095 && c.headroom ≤ 8 &&
  ((10 ≤ c.leadUs && c.leadUs ≤ 50) || (c.leadUs == 0 && c.recipe.isEmpty)) &&
  c.recipe.all (fun e => e.releaseNs < periodNs c && e.mu ≤ 3 &&
    (List.range 3).all (fun k => e.posBase + entryCount e k ≤ 32 && (entryCount e k == 0 || entryHold e k != 0))) &&
  c.recipe.zipIdx.all (fun a => c.recipe.zipIdx.all (fun b => b.2 ≤ a.2 || (List.range 3).all (fun k => !entriesClash c a.1 b.1 k)))

/-- How many turns of an entry are active at a time t of the period: it wraps past the period's end. -/
def entryTurns (c : Sections) (e : ResEntry) (k t : Nat) : Nat :=
  let p := periodNs c
  let lead := 1000 * c.leadUs
  let len := lead + entryHold e k
  let d := (t + p + lead - e.releaseNs) % p
  if d < len then (len - 1 - d) / p + 1 else 0

/-- F_max of a step: the largest sum of the counts of active entries, which an entry's beginning reaches (R364). -/
def floorMax (c : Sections) (k : Nat) : Nat :=
  let at_ (t : Nat) : Nat := (c.recipe.map (fun e => entryCount e k * entryTurns c e k t)).sum
  (c.recipe.map (fun e => at_ ((e.releaseNs + periodNs c - 1000 * c.leadUs % periodNs c) % periodNs c))).foldl Nat.max 0

/-- A unit the plan names is absent (R329, R444): a fronthaul port, the TD front end, a Chisel core of the FAPI map. -/
def planUnitAbsent (s : State) (c : Sections) : Bool :=
  c.cells.any (fun p => rd s Reg.caps1FronthaulPorts 0 ≤ p.lport / 4 || (p.split8 && !rdB s Reg.caps1Tdfe 0)) ||
  rd s Reg.caps1FronthaulPorts 0 < c.portModes.length ||
  (List.range 16).any (fun i => 2 ^ rd s Reg.caps1ChiselCount 0 ≤ c.fapiMap.getD i 0)

/-- Why a plan is refused, as RADIO_PLAN.reason shows it; 0 when it is admitted (R24, R282, R364). -/
def planReason (s : State) (c : Sections) : Nat :=
  let rate (l : Nat) : Nat := ((c.cells.filter (fun p => p.lport == l)).map (·.rateBps)).sum
  if !c.cells.all (cellFieldsOk c.portModes) ∨ !c.portModes.all (· ≤ 2) ∨ !recipeOk c ∨
      (rdB s Reg.caps1Tdfe 0 ∧ !streamsOk c) then 5
  else if planUnitAbsent s c then 6
  else if rd s Reg.caps1RadioUnits 0 < (c.cells.map cellCost).sum ∨ 384 < c.cells.length then 1
  else if benchCount s < floorMax c 0 then 2
  else if (List.range 32).any (fun l => modeRate (c.portModes.getD (l / 4) 0) < rate l) = true then 3
  else if c.cells.any (fun p => 100 * p.rateBps < 103 * cellDemand p) = true then 4
  else 0

/-- RADIO's status for a reason (R455). -/
def planStatus (reason : Nat) : Status := if reason = 5 then .badFormat else if reason = 6 then .noUnit else .quota

/-- Show the registers of a cell of the plan (R300). -/
def showCell (s : State) (i : Nat) (p : CellPlan) : State :=
  [(Reg.cellUnits, cellCost p), (Reg.cellLport, p.lport), (Reg.cellPrio, p.prio), (Reg.cellWNom, p.wNom), (Reg.cellWFloor, p.wFloor),
   (Reg.cellAdaptive, bit01 p.adaptive), (Reg.cellMaxIter, p.maxIter), (Reg.cellHoldMute, bit01 p.holdMute)].foldl (fun s e => wr s e.1 i e.2) s

/-- The rotation set and the allowed steps of an admitted plan (R362, R364). -/
def showRotation (s : State) (c : Sections) : State :=
  let f := floorMax c
  let allowed := (List.range 3).filter (fun k => f k ≤ benchCount s)
  let n := min (benchCount s) ((allowed.map f).foldl Nat.max 0 + c.headroom)
  let quar := rd s Reg.healthQuarBenches 0
  let set := (List.range (benchCount s)).filter (fun b => benchCount s - n ≤ b && !bitOf quar b)
  let s := wrAll s [(Reg.bankFloorMaxDiv12, min 63 (f 0)), (Reg.bankFloorMaxDiv16, min 63 (f 1)), (Reg.bankFloorMaxDiv24, min 63 (f 2)),
    (Reg.bankFloorAllowed, ofBitList allowed), (Reg.bankRotCount, set.length), (Reg.bankRotMaskMask, ofBitList set)]
  set.foldl (fun s b => wr s Reg.benchStateRotation b 1) s

/-- CELL_PLAN and SLOT_RECIPES: the plan is admitted and its cells wait for time (R283), or it is refused whole and shown by RADIO_PLAN
(R282, R455), every other field of the two sections staying at its default; without an admitted plan no lots go to radio (R153). -/
def loadPlan (s : State) (c : Sections) : State :=
  let ports (s : State) : State :=
    (c.portModes.take 8).zipIdx.foldl (fun s m => wr s Reg.fhPortMode m.2 m.1) s
  let rot (s : State) : State := wrAll s [(Reg.bankRotHeadroom, c.headroom), (Reg.bankRotLeadUs, c.leadUs), (Reg.bankRotPeriod20, bit01 c.period20),
    (Reg.bankRotEntries, c.recipe.length)]
  let reason := planReason s c
  let s := if reason = 0 ∧ !c.cells.isEmpty then s else wr s Reg.memRsvRadioLots 0 0
  if c.cells.isEmpty then
    let s := if rd s Reg.caps1FronthaulPorts 0 < c.portModes.length then refuseSection s 5 .noUnit else ports s
    fnSet (wr (rot s) Reg.bankFloorAllowed 0 7) 17 4 .ok
  else if reason = 0 then
    let s := wrAll (rot s) [(Reg.radioPlanUnitsUsed, (c.cells.map cellCost).sum), (Reg.radioPlanCells, c.cells.length)]
    let s := (c.cells.take 384).zipIdx.foldl (fun s p => showCell s p.2 p.1) s
    let s := wr (ports s) Reg.radioPlanStatus 0 1
    let s := (List.range c.cells.length).foldl (fun s i => wr s Reg.cellState i 1) s
    let s := (c.fapiMap.take 16).zipIdx.foldl (fun s m => wr s Reg.chiselFapiMapMask m.2 m.1) s
    let s := { s with radio := { s.radio with plan := c.cells.zipIdx.foldl (fun m p => mapSet m p.2 p.1) [] }, yards := { s.yards with recipe := c.recipe } }
    showRotation s c
  else
    let s := wrAll s [(Reg.radioPlanStatus, 2), (Reg.radioPlanReason, reason), (Reg.bankFloorAllowed, 7)]
    let s := if reason = 6 then s else wr s Reg.radioPlanUnitsUsed 0 (c.cells.map cellCost).sum
    let s := if rd s Reg.readyFnState 17 = 4 then s else fnSet s 17 3 (planStatus reason)
    refuseSection s 5 (planStatus reason)

/-! ### L1_IMAGES, POWER and MANAGEMENT -/

/-- L1_IMAGES: up to eight images, on a part with Chisel cores. -/
def l1Bad (s : State) (c : Sections) : Option Status :=
  if rd s Reg.caps1ChiselCount 0 = 0 ∧ !c.l1.isEmpty then some .noUnit else if 8 < c.l1.length then some .badFormat else none

def loadL1 (s : State) (c : Sections) : State :=
  wrAll { s with boot := { s.boot with l1 := c.l1 } } [(Reg.chiselCfgWdogUs, c.wdogUs), (Reg.chiselInfoImages, c.l1.length)]

/-- POWER: the ranges of R459, R462, R465, R467, R468 and THERM_CFG. -/
def powerBad (c : Sections) : Option Status :=
  if 200 < c.ceilingDj ∨ c.contW < 200 ∨ 1150 < c.contW ∨ c.tCap < 50 ∨ 95 < c.tCap ∨ 16 < c.cables.length ∨ 4 < c.minDuty.length ∨
      4 < c.minRpm.length ∨ 16 < c.sensors.length ∨
      c.cables.any (fun p => 350 < p.1 || 65536 ≤ p.2) = true ∨ c.minDuty.any (256 ≤ ·) = true ∨ c.minRpm.any (65536 ≤ ·) = true ∨
      c.sensors.any (3 ≤ ·) = true ∨ 256 ≤ c.inletDefault then some .badFormat
  else none

def loadPower (s : State) (c : Sections) : State :=
  let s := { s with power := { s.power with sensors := c.sensors, inletDefault := c.inletDefault, kpDefault := c.kP } }
  let s := wrAll s [(Reg.powerHoldCeilingDj, c.ceilingDj), (Reg.powerLimitContW, c.contW), (Reg.thermCfgTCap, c.tCap), (Reg.thermCfgTSet, c.tCap),
    (Reg.thermModelKP, c.kP)]
  let s := c.minDuty.zipIdx.foldl (fun s e => wr s Reg.pwmMinDuty e.2 e.1) s
  let s := c.minRpm.zipIdx.foldl (fun s e => wr s Reg.pwmMinRpm e.2 e.1) s
  c.cables.zipIdx.foldl (fun s e =>
    wrLive (wrLive (wr (wr s Reg.cableCeilingCw e.2 e.1.1) Reg.cableFaultMj e.2 e.1.2) Reg.cableCeilingCw e.2 e.1.1) Reg.cableFaultMj e.2 e.1.2) s

/-- MANAGEMENT: addresses, collectors, and the list's budget and window (Table 19.10). -/
def mgmtBad (c : Sections) : Option Status :=
  if 15 < c.budget ∨ c.windowH < 1 ∨ 168 < c.windowH ∨ 65536 ≤ c.mgmtUdp then some .badFormat else none

def loadMgmt (s : State) (c : Sections) : State :=
  let s := { s with
    net := { s.net with v4 := c.mgmtV4.foldl (fun m e => mapSet m e.1 e.2) s.net.v4, v6 := c.mgmtV6.foldl (fun m e => mapSet m e.1 e.2) s.net.v6 }
    boot := { s.boot with image := { s.boot.image with collectors := c.collectors, mgmtUdp := c.mgmtUdp } } }
  wrAll s [(Reg.healthListCfgBudget, c.budget), (Reg.healthListCfgWindowH, c.windowH)]

/-! ### DEFAULTS (R445) -/

/-- A field that DEFAULTS may write. -/
def defaultable (f : Fld) : Bool := f.acc = .rw || f.acc = .rwl || f.acc = .staged

/-- Bits of the 32-bit word at an offset that fields of a kind hold. -/
def wordMask (p : Fld → Bool) (off : Nat) : Nat :=
  let bits (f : Fld) (i : Nat) : List Nat :=
    (List.range 32).filter (fun b => fldKey f i ≤ 8 * off + b && 8 * off + b < fldKey f i + f.width)
  ofBitList (((regTable.filter p).flatMap (fun f => (hits f (8 * off) 32).flatMap (bits f))))

/-- The entries of DEFAULTS, 16 bytes each, and whether one may be applied. -/
def defaultEntries (bs : List Byte) : List Nat := (List.range (cdiv bs.length 16)).map (fun i => leNat ((bs.drop (16 * i)).take 16))
def defaultOk (e : Nat) : Bool :=
  let off := bitsOf e 0 32
  let mask := bitsOf e 32 32
  off % 4 == 0 && off < 2 ^ 24 && bitsOf e 96 32 == 0 && wordMask (fun _ => true) off != 0 && mask &&& wordMask defaultable off == mask

/-- The staged group of a field instance (Table 17.5). -/
def stagedGroup (f : Fld) (i : Nat) : Option (Nat × Nat) :=
  if f = Reg.tdfeSegLo || f = Reg.tdfeSegHi || f = Reg.tdfeSegLimit then some (5, i / 32)
  else ([1, 2, 3, 4, 5].find? (fun k => (groupFields k i).contains (f, i))).map (fun k => (k, i))

/-- Apply one entry as a masked 32-bit PF0 write, and the staged groups it touches. -/
def applyDefault (s : State) (e : Nat) : State × List (Nat × Nat) :=
  let off := bitsOf e 0 32
  let mask := bitsOf e 32 32
  let value := bitsOf e 64 32
  if 0xB00000 ≤ off ∧ off < 0xB10000 ∧ rdB s Reg.caps1Tdfe 0 = false then (logErr s 0 .noUnit 0 0 off, [])
  else
    regTable.foldl (fun acc f => if defaultable f then
      (hits f (8 * off) 32).foldl (fun acc i =>
        let s := acc.1
        let old := rd s f i
        let data := merged (fldKey f i) f.width (8 * off) 32 value old
        let bits := merged (fldKey f i) f.width (8 * off) 32 mask 0
        let v := (old &&& (2 ^ f.width - 1 - bits)) ||| (data &&& bits)
        if bits = 0 then acc
        else if f = Reg.cfgLockLock then (if v = 1 then { s with boot := { s.boot with lockAsked := true } } else s, acc.2)
        else if f = Reg.readyNextFwSlot ∨ f = Reg.readyNextImgSlot then (recMark (wr s f 0 v), acc.2)
        else if f = Reg.timeAddendAddend then
          (if v + nominalAddend / 1000 < nominalAddend ∨ nominalAddend + nominalAddend / 1000 < v then s else wr s f 0 v, acc.2)
        else (writeField s f i (fldKey f i) f.width v, match stagedGroup f i with | some g => if acc.2.contains g then acc.2 else acc.2 ++ [g] | none => acc.2))
        acc
      else acc) (s, [])

/-- DEFAULTS: none of its entries apply when one fails; else all in order, and every staged group touched is committed. -/
def loadDefaults (s : State) (bs : List Byte) : State :=
  let es := defaultEntries bs
  match (es.zipIdx.find? (fun e => !defaultOk e.1)) with
  | some e => logErr s 0 .badFormat 5 0 (2 ^ 31 + e.2 % 2 ^ 15 * 2 ^ 16 + 0xB)
  | none =>
    let r := es.foldl (fun acc e => let r := applyDefault acc.1 e; (r.1, acc.2 ++ r.2.filter (fun g => !acc.2.contains g))) (s, ([] : List (Nat × Nat)))
    (sortBy (fun a b => a.1 < b.1 || (a.1 == b.1 && a.2 < b.2)) r.2).foldl (fun s g => commitGroup s g.1 g.2 true) r.1

/-! ### Verification (R438, R443) -/

/-- The object of a slot: verified, bound to the signers of kind 3, and of the form of R443. -/
def tryImage (s : State) (slot : Nat) : Except Status (List Byte) :=
  match tryObject s (regImg slot) 3 (rd s Reg.secSvnImgMin 0) (fun x => x == 1 || x == 2) false with
  | .error st => .error st
  | .ok o => if imageForm (bodyOf o) then .ok o else .error .badFormat

/-- The determinism signature (R394, Table 14.5). -/
def detSignature (s : State) : Nat :=
  let b := [1, rd s Reg.archVerGeneration 0, rd s Reg.archVerMajor 0, rd s Reg.archVerMinor 0,
            rd s Reg.archVerStepLetter 0 * 16 + rd s Reg.archVerStepNumber 0] ++ (List.range 5).map (fun g => (Config.tableVer g).toNat) ++
           [rd s Reg.plumbPlumb 0, 1, 0, 0, 0, 0]
  digest (b.map (BitVec.ofNat 8)) % 2 ^ 64

/-- Content of the sections that the image carries, with the defaults of those it does not (R444). -/
def sectionsOf (body : List Byte) (c : Sections) : Sections :=
  let h := hasSection body
  let d : Sections := default
  { c with
    plumb := h 1 && c.plumb, radioLots := if h 2 then c.radioLots else 0, memRshare := if h 2 then c.memRshare else 10
    galleryShare := if h 2 then c.galleryShare else 25, node := if h 3 then c.node else 0, rowsM1 := if h 3 then c.rowsM1 else 0
    colsM1 := if h 3 then c.colsM1 else 0, domainsM1 := if h 3 then c.domainsM1 else 0, jeanoRshare := if h 3 then c.jeanoRshare else 0
    eth14 := h 3 && c.eth14, eth15 := h 3 && c.eth15, leader := if h 3 then c.leader else 0, v4 := if h 3 then c.v4 else []
    v6 := if h 3 then c.v6 else [], macs := if h 3 then c.macs else [], udpPort := if h 3 then c.udpPort else 0xD1A0, dscp := if h 3 then c.dscp else []
    hops := if h 3 then c.hops else [], timeSrc := if h 4 then c.timeSrc else 0, timePort := if h 4 then c.timePort else 0
    ptpDomain := if h 4 then c.ptpDomain else 0, boundaryClock := h 4 && c.boundaryClock, synceOpt := if h 4 then c.synceOpt else 0
    syncePort := if h 4 then c.syncePort else 0, clockOuts := if h 4 then c.clockOuts else [], cells := if h 5 then c.cells else []
    portModes := if h 5 then c.portModes else [], fapiMap := if h 5 then c.fapiMap else [], headroom := if h 6 then c.headroom else 0
    leadUs := if h 6 then c.leadUs else 0, period20 := h 6 && c.period20, recipeClean := !h 6 || c.recipeClean
    recipe := if h 6 then c.recipe else [], wdogUs := if h 7 then c.wdogUs else 0, l1 := if h 7 then c.l1 else []
    streams := if h 8 then c.streams else [], channels := if h 8 then c.channels else [], rxBase := if h 8 then c.rxBase else d.rxBase
    rxSize := if h 8 then c.rxSize else 0, txBase := if h 8 then c.txBase else 0, txLog := if h 8 then c.txLog else 0
    mgmtV4 := if h 10 then c.mgmtV4 else [], mgmtV6 := if h 10 then c.mgmtV6 else [], collectors := if h 10 then c.collectors else []
    mgmtUdp := if h 10 then c.mgmtUdp else 0xD1A1, budget := if h 10 then c.budget else 2, windowH := if h 10 then c.windowH else 24 }

/-- Load every section, in the order of Table 17.4, and then DEFAULTS. The defaults of the refused are those of the absent. -/
def loadSections (s : State) (body : List Byte) (given : Sections) : State :=
  let h := hasSection body
  let c := sectionsOf body given
  let none_ := sectionsOf [] given
  let s := loadDevice s c
  let s := takeSection (loadMemory s none_) 2 (memoryBad s c) (fun s => loadMemory s c)
  let s := takeSection (loadJeano s none_) 3 (jeanoBad s c) (fun s => loadJeano s c)
  let s := showMembers (wr s Reg.jeanoCfgAdaptive 0 (bit01 !c.plumb))
  let s := takeSection s 4 (timeBad s c) (fun s => loadTime s c)
  let s := if h 8 then takeSection s 8 (tdfeBad s c) (fun s => loadTdfe s c) else s
  let s := loadPlan s c
  let s := takeSection s 7 (l1Bad s c) (fun s => loadL1 s c)
  let s := if h 9 then takeSection s 9 (powerBad c) (fun s => loadPower s c) else s
  let s := takeSection (loadMgmt s none_) 10 (mgmtBad c) (fun s => loadMgmt s c)
  if h 0xB then loadDefaults s (sectionBytes body 0xB) else s

/-- IMAGE is READY: what waits for it starts, and TIME is READY at once when its source is FREE, or ACQUIRING from start (R263, R268). -/
def imageReady (s : State) : State :=
  let s := showRecordOk (sensorCheck (showList (wr s Reg.detSignatureSignature 0 (detSignature s))))
  let s := settle (fnSet s 3 2 .ok)
  if timeSrc s = 0 then timeReady s else setTimeSt s 1

/-- IMAGE_VERIFY (R438, R443-R445): the preferred slot, then the other; the operands are what the sections of slots A and B hold, whose
layouts the spec does not give. When both fail the start is restricted. -/
def execImageVerify (a b : Sections) (s : State) : Ans :=
  let first := rd s Reg.readyNextImgSlot 0
  let take (s : State) (slot : Nat) (o : List Byte) : State :=
    let s := measure s 2 o
    let s := if rdB s Reg.readyBootPrecLost 0 then wr s Reg.secSvnImgMin 0 (svnOf o) else s
    let s := wrAll s [(Reg.secStatusImageOk, 1), (Reg.secSvnRunImg, svnOf o), (Reg.readyBootImgSlot, slot), (Reg.readyBootImgFallback, bit01 (slot != first))]
    imageReady (loadSections s (bodyOf o) (if slot = 0 then a else b))
  .next (if fnReady s 0 = false ∨ rd s Reg.readyFnState 3 ≠ 1 then s
    else match tryImage s first with
      | .ok o => take s first o
      | .error st =>
        match tryImage s (1 - first) with
        | .ok o => take s (1 - first) o
        | .error _ => restrict s 3 st)

end Sys2Proof.Machine
end

