-- ==== Sys2Proof/Machine/Power.lean ====
section
/-! DEFINITION. The 48 V stage (R457-R466), trips (R473), the hold of a temperature band (R474), and the cooling loop's cycle (R467-R472):
rows CONVERSION_START to BAND_END. -/

namespace Sys2Proof.Machine

/-! ### States of POWER_STAT: 0 START, 1 RUN, 2 HOLDUP, 3 TRIPPED -/

/-- The device converts and has not stopped. -/
def powered (s : State) : Bool := s.boot.converting && rd s Reg.powerStatState 0 < 2

/-- CONVERSION_START (R457, R463): the input has been valid for 10 ms and no hold-up sequence runs; the device starts unless RESET_N is low. -/
def execConversionStart (s : State) : Ans :=
  .next (if s.boot.converting ∨ s.power.holdRun then s
    else
      let t := { s with boot := { s.boot with converting := true } }
      if t.boot.resetLow then t else startSeq t)

/-! ### Hold-up (R462-R464) -/

/-- INPUT_LOSS (R457, R463): every unit stops, nothing commits any more, the cause goes into a fault record and onto the management ports,
and a record that has changes pending carries it as last_stop. The kind of the fault record is not in Table 06.6. -/
def execInputLoss (high : Bool) (s : State) : Ans :=
  let cause := if high then 2 else 1
  .next (if !s.boot.converting then s
    else
      let t := stopUnits s
      let t := { t with boot := { t.boot with converting := false }, power := { t.power with holdRun := true } }
      let t := [(Reg.powerStatState, 2), (Reg.powerStatInOk, 0), (Reg.powerStatInLow, 0), (Reg.powerStatInHigh, 0), (Reg.powerInInMv, 0)].foldl
        (fun s e => wr s e.1 0 e.2) t
      let t := drawn (faultRecord t (Config.unstated t.free % 256) 5 0 0 cause)
      let t := notifyMgmt t 2 cause
      if t.boot.recPending then wr t Reg.powerStatLastStop 0 cause else t)

/-- HOLDUP_DISCHARGE (R463): the sequence ends with less than 2 J in the store; a RESET_N that went low meanwhile acts now (R502). -/
def execHoldupDischarge (s : State) : Ans :=
  .next (if s.power.holdRun = false then s
    else
      let t := drawn (wr (wr s Reg.powerHoldStoredDj 0 (Config.unstated s.free % 20)) Reg.powerStatHoldReady 0 0)
      let t := { t with power := { t.power with holdRun := false } }
      if t.boot.resetLow then coldState t else t)

/-- HOLD_READY (R462, R464): the store has been measured and charged to V_target; below 100 µF it is treated as absent. -/
def execHoldReady (capUf : BitVec 16) (s : State) : Ans :=
  let c := capUf.toNat
  let e := rd s Reg.powerHoldCeilingDj 0
  .next (if !fnReady s 3 ∨ !powered s then s
    else
      let s := wr s Reg.powerHoldCapUf 0 c
      if c < 100 then showRecordOk (wr s Reg.powerStatHoldReady 0 0)
      else
        let v := min 60000 (isqrtFrom (2 * 10 ^ 11 * e / c) 17 0)
        let stored := min e (18 * c / 1000)
        showRecordOk (wr (wr (wr s Reg.powerHoldVTargetMv 0 v) Reg.powerHoldStoredDj 0 stored) Reg.powerStatHoldReady 0 1))

/-! ### Measurement and limits (R457, R459-R461) -/

/-- Mean of the newest n samples, as many as there are. -/
def meanOf (n : Nat) (l : List Nat) : Nat := if l.isEmpty then 0 else (l.take n).sum / (l.take n).length

/-- Modelled draw of ACTIVE tenant benches, W: each at full feed. -/
def tenantDraw (s : State) : Nat :=
  ((List.range (benchCount s)).filter (fun b => pstate s b == 0 && role s b == 1 && fnReady s (32 + b))).length * rd s Reg.thermModelPRunW 0

/-- A measurement of a powered cable port: its power, whether it limits its output, and the energy it delivers while it does (R465). -/
def cableSample (s : State) (j : Nat) (c : BitVec 16 × Bool) : State :=
  let e := mapGet s.power.limitE j 0 + c.1.toNat
  let s := { s with power := { s.power with limitE := if c.2 then mapSet s.power.limitE j e else mapErase s.power.limitE j } }
  wr (wr s Reg.cablePowerMw j c.1.toNat) Reg.cableState j (if c.2 then 3 else 2)

/-- POWER_MEASURE (R457, R459, R461, R465): input voltage and power every 10 µs, and each cable port's power and whether it limits. -/
def execPowerMeasure (mv w : BitVec 16) (cables : List (BitVec 16 × Bool)) (s : State) : Ans :=
  let v := mv.toNat
  .next (if !s.boot.converting then s
    else
      let samples := ((w.toNat, tenantDraw s) :: s.power.samples).take 100000
      let s := { s with power := { s.power with samples := samples } }
      let ws := samples.map (·.1)
      let s := [(Reg.powerInInMv, v), (Reg.powerStatInOk, bit01 (40000 ≤ v && v ≤ 60000)), (Reg.powerStatInLow, bit01 (38000 ≤ v && v < 40000)),
                (Reg.powerStatInHigh, bit01 (60000 < v && v ≤ 62000)), (Reg.powerInP10msW, meanOf 1000 ws), (Reg.powerAvgP1sW, meanOf 100000 ws)].foldl
        (fun s e => wr s e.1 0 e.2) s
      let s := raiseTo s Reg.powerAvgPeak20W 0 (meanOf 2000 ws)
      let s := raiseTo s Reg.powerActBasePeakW 0 (meanOf 2000 (samples.map (fun x => x.1 - x.2)))
      (cables.take 16).zipIdx.foldl (fun s c => if rd s Reg.cableState c.2 = 2 ∨ rd s Reg.cableState c.2 = 3 then cableSample s c.2 c.1 else s) s)

/-- Show the pace in force: the larger of the limiter's and the loop's (R460), and note since when it has been 15 (R461). -/
def showPace (s : State) : State :=
  let p := max s.power.paceLim s.power.paceLoop
  wr { s with power := { s.power with fullSince := if p = 15 then some (s.power.fullSince.getD s.clock.up) else none } } Reg.powerActPace 0 p

/-- A moment lies at least so many nanoseconds back. -/
def passed (s : State) (t : Option Nat) (ns : Nat) : Bool :=
  match t with
  | none => false
  | some t => decide (t + ns ≤ s.clock.up)

/-- PACE_UPDATE (R460): every 100 µs. How the limiter chooses p is not in the spec: it is the operand. -/
def execPaceUpdate (p : BitVec 4) (s : State) : Ans :=
  .next (if powered s then showPace { s with power := { s.power with paceLim := p.toNat } } else s)

/-- LADDER_REQUEST (R461): p has been 15 for 1 ms and R459 is still at risk. -/
def execLadderRequest (s : State) : Ans :=
  .next (if powered s ∧ passed s s.power.fullSince 1000000 = true then wr { s with power := { s.power with ask := true } } Reg.powerStatOver 0 1 else s)

/-! ### Trips (R473) -/

/-- last_stop code of a trip. -/
def tripCode : TripCause → Nat
  | .overpower => 3 | .dieThermal => 4 | .dramThermal => 5

/-- OVERPOWER asks for a 20 ms mean above 1,500 W (R461, R473); what the monitors of die and DRAM read is not in the state. -/
def tripHolds (s : State) : TripCause → Bool
  | .overpower => decide (1500 < meanOf 2000 (s.power.samples.map (·.1)))
  | _ => true

/-- TRIP (R473): the ports have been told, every unit stops, PWM outputs drive 255, and the record that carries the cause is written at
once. -/
def execTrip (cause : TripCause) (s : State) : Ans :=
  let c := tripCode cause
  .next (if !powered s || !tripHolds s cause then s
    else
      let t := stopUnits (notifyMgmt s 3 c)
      let t := (List.range 4).foldl (fun s i => wr s Reg.pwmDuty i 255) t
      let t := healthCause (wr t Reg.powerStatState 0 3) Reg.healthCausePower
      let t := recMark (wr t Reg.powerStatLastStop 0 c)
      { t with boot := { t.boot with recAtOnce := true } })

/-- PWM_WATCHDOG (R468): the loop has written no duty for 50 ms. -/
def execPwmWatchdog (s : State) : Ans :=
  .next (if s.power.loopNs = none ∨ passed s s.power.loopNs 50000000 = true then (List.range 4).foldl (fun s i => wr s Reg.pwmDuty i 255) s else s)

/-! ### Cable power ports (R465, R466) -/

/-- The energy a port has delivered while limiting has reached fault_mj (R465): 1 mJ is 1 mW for 100,000 measurements of 10 µs. -/
def faultEnergy (s : State) (j : Nat) : Bool := decide (100000 * rd s Reg.cableFaultMj j ≤ mapGet s.power.limitE j 0)

/-- CABLE_FAULT_TRIP (R465): a limiting port whose energy has reached fault_mj turns off; the third trip within 60 s latches FAULT. -/
def execCableFaultTrip (port : BitVec 4) (s : State) : Ans :=
  let j := port.toNat
  .next (if rd s Reg.cableState j ≠ 3 ∨ faultEnergy s j = false then s
    else
      let recent := (s.clock.up :: mapGet s.power.trips j []).filter (fun t => s.clock.up < t + 60000000000)
      let s := { s with power := { s.power with trips := mapSet s.power.trips j (recent.take 3), limitE := mapErase s.power.limitE j } }
      let s := bumpSat (wr s Reg.cablePowerMw j 0) Reg.cableTrips j 1
      if 3 ≤ recent.length then healthCause (wr s Reg.cableState j 5) Reg.healthCausePower else wr s Reg.cableState j 4)

/-- CABLE_RETRY (R465): one second after a trip. -/
def execCableRetry (port : BitVec 4) (s : State) : Ans :=
  .next (if rd s Reg.cableState port.toNat = 4 ∧ passed s (mapGet s.power.trips port.toNat []).head? 1000000000 = true then wr s Reg.cableState port.toNat 2 else s)

/-- CABLE_PROBE (R466): an ABSENT port is probed again. -/
def execCableProbe (port : BitVec 4) (probe : CableProbe) (s : State) : Ans :=
  .next (if rd s Reg.cableState port.toNat = 1 then probeCable s port.toNat probe else s)

/-- CABLE_CLEAR (R465): the manager's clear leaves FAULT, and the port is probed again. -/
def execCableClear (port : BitVec 4) (probe : CableProbe) (s : State) : Ans :=
  .next (if rd s Reg.cableState port.toNat = 5 then probeCable s port.toNat probe else s)

/-! ### Temperature bands (R474) -/

/-- BAND_HOLD: accepted for its minutes when 40 ≤ lo < hi ≤ t_cap, else go is discarded. -/
def execBandHold (s : State) : Ans :=
  let lo := rd s Reg.thermBandLo 0
  let hi := rd s Reg.thermBandHi 0
  .next (if 40 ≤ lo ∧ lo < hi ∧ hi ≤ rd s Reg.thermCfgTCap 0 then
      wr { s with power := { s.power with band := some { lo := lo, hi := hi, stuckNs := none, untilNs := s.clock.up + rd s Reg.thermBandMinutes 0 * 60000000000 } } } Reg.thermBandState 0 1
    else s)

/-- The hold of a band ends. -/
def endBand (s : State) (state : Nat) : State := wr { s with power := { s.power with band := none } } Reg.thermBandState 0 state

/-- BAND_STOP (R474). -/
def execBandStop (s : State) : Ans := .next (if s.power.band.isSome then endBand s 0 else s)

/-- BAND_END (R474): the duration has passed. -/
def execBandEnd (s : State) : Ans :=
  .next (match s.power.band with
    | some b => if b.untilNs ≤ s.clock.up then endBand s 0 else s
    | none => s)

/-! ### The cooling loop (R467-R472) -/

/-- A signed byte. -/
def sbyte (v : Nat) : Int := signedOf v 8

/-- Largest of a list of integers. -/
def maxInt? : List Int → Option Int
  | [] => none
  | x :: t => some (t.foldl max x)

/-- A listed sensor counts as missing: it did not answer the Survey, or three reads in a row failed (R467). -/
def sensorMissing (s : State) (i : Nat) : Bool :=
  3 ≤ mapGet s.power.readFails i 0 || (s.boot.surveyDone.contains 4 && mapGet s.boot.survey (4096 + i) 0 == 0)

/-- Count the failed reads of listed sensors. -/
def countReads (s : State) (rs : List (Option (BitVec 8))) : State :=
  (List.range s.power.sensors.length).foldl (fun s i =>
    match rs.getD i none with
    | some _ => { s with power := { s.power with readFails := mapErase s.power.readFails i } }
    | none =>
      let n := mapGet s.power.readFails i 0 + 1
      let s := { s with power := { s.power with readFails := mapSet s.power.readFails i (min n 3) } }
      if n = 3 then healthCause (wr s Reg.powerStatSensorMissing 0 1) Reg.healthCausePower else s) s

/-- Highest reading of the listed sensors of a role; for INLET a missing sensor reads as the image's default. -/
def roleTemp (s : State) (rs : List (Option (BitVec 8))) (role : Nat) : Option Int :=
  let ids := (List.range s.power.sensors.length).filter (fun i => s.power.sensors.getD i 2 == role)
  maxInt? (ids.filterMap (fun i => match rs.getD i none with
    | some v => some v.toInt
    | none => if role = 0 ∧ sensorMissing s i = true then some (sbyte s.power.inletDefault) else none))

/-- Show the temperatures a cycle reads (R469). -/
def readTemps (s : State) (r : LoopIn) : State :=
  let s := countReads s r.sensors
  let dram := maxInt? ((List.range 4).map (fun i => sbyte (rd s Reg.memTempStack i)))
  let put (s : State) (f : Fld) (t : Option Int) : State := match t with | some v => wr s f 0 (codeOf v 8) | none => s
  put (put (put (wr s Reg.thermTempDie 0 r.die.toNat) Reg.thermTempDram dram) Reg.thermTempInlet (roleTemp s r.sensors 0)) Reg.thermTempOutlet
    (roleTemp s r.sensors 1)

/-- The tachometers (R468): three cycles below min_rpm at a duty of at least 77 set the output's fault. -/
def readTachs (s : State) (rpm : List (BitVec 16)) : State :=
  (List.range 4).foldl (fun s i =>
    let v := (rpm.getD i 0).toNat
    let s := wr s Reg.pwmRpm i v
    let low := rd s Reg.pwmMinRpm i ≠ 0 ∧ v < rd s Reg.pwmMinRpm i ∧ 77 ≤ rd s Reg.pwmDuty i
    let n := if low then mapGet s.power.tachLow i 0 + 1 else 0
    let s := { s with power := { s.power with tachLow := mapPut s.power.tachLow i (min n 3) 0 } }
    if n = 3 then healthCause (wr s Reg.pwmFault i 1) Reg.healthCausePower else s) s

/-- The die target, in 0.001 °C: T_set, or the centre of a band (R471). -/
def dieTarget (s : State) : Int :=
  match s.power.band with
  | some b => (b.lo + b.hi : Nat) * 500
  | none => (min 95 (rd s Reg.thermCfgTCap 0) : Nat) * 1000

/-- K_d, signed, in 0.001 °C per count. -/
def kD (s : State) : Int := signedOf (rd s Reg.thermModelKD 0) 16

/-- The duty that the die asks of an output before clamping, and the integral part after the cycle (R471); none where K_d or the time
constants leave the rule undefined. `tErr` is T_pred − T_set in 0.001 °C, `dP` the coming change of power in W. -/
def dieDuty (s : State) (i : Nat) (tErr dP : Int) : Option (Rat × Rat) :=
  let tau := rd s Reg.thermModelTau 0
  let theta := rd s Reg.thermModelTheta 0
  let int := mapGet s.power.integral i 0
  if kD s = 0 ∨ tau = 0 then none
  else
    let ff : Rat := rd s Reg.pwmDuty i + (rd s Reg.thermModelKP 0 : Int) * dP / (-kD s : Int)
    let pr : Rat := ((tau : Int) * tErr : Int) / ((-kD s : Int) * ((tau + theta : Nat) : Int) : Int)
    some (ff + pr + int, int + pr / (10 * (tau : Int)))

/-- A rational clamped into a duty, rounded down or up by a free choice. -/
def clampDuty (x : Rat) (lo up : Nat) : Nat := max lo (min 255 (x.floor.toNat + up))

/-- Duty of one output: the larger of what the die and the DRAM ask, at least min_duty; min_duty while the die is below 0 °C; 255 while
another output's tachometer is at fault (R468, R471, R473). -/
def setDuty (s : State) (i : Nat) (tErr dP : Int) (d : Nat) : State :=
  let lo := rd s Reg.pwmMinDuty i
  let free (k : Nat) : Nat := (Config.cooling d (16 + 4 * i + k)).toNat
  let dram := max lo (free 0 % 256)
  let ask := dieDuty s i tErr dP
  let die := match ask with
    | some (x, _) => clampDuty x lo (free 1 % 2)
    | none => max lo (free 2 % 256)
  let s := match ask with
    | some (x, n) =>
      if (lo : Rat) ≤ x ∧ x ≤ 255 then { s with power := { s.power with integral := mapSet s.power.integral i n } } else s
    | none => s
  let duty := if 128 ≤ rd s Reg.thermTempDie 0 then lo
    else if (List.range 4).any (fun j => j != i && rdB s Reg.pwmFault j) then 255
    else max die dram
  wr s Reg.pwmDuty i duty

/-- K_p after a cycle's refinement: a free value from 0.5 to 2 times its default (R470). -/
def refineKp (s : State) (d : Nat) : State :=
  let k := s.power.kpDefault
  wr s Reg.thermModelKP 0 (cdiv k 2 + (Config.cooling d 1).toNat % (2 * k - cdiv k 2 + 1))

/-- The next A-clock step that the floors allow (R24, R256): codes 0 ÷12, 1 ÷16, 2 ÷24. -/
def deeperStep (s : State) (step : Nat) : Option Nat :=
  [1, 2].find? (fun k => step < k && bitOf (rd s Reg.bankFloorAllowed 0) k)

/-- The action of a rung in a cycle that asks for it (Table 18.2): pace floor, tenant cap and A-clock step, the last two for the next
subframe boundary. -/
def rungAction (s : State) (rung : Nat) : State :=
  match rung with
  | 1 => showPace { s with power := { s.power with paceLoop := min 15 (s.power.paceLoop + 4) } }
  | 2 => { s with power := { s.power with capNext := some ((s.power.capNext.getD (rd s Reg.bankThermTenantCap 0)) - 4) } }
  | 3 => match deeperStep s (rd s Reg.timeClkStatusADiv 0) with
    | some k => { s with power := { s.power with divNext := some k } }
    | none => s
  | _ => s

/-- The action of a rung is taken back when the loop leaves it. -/
def rungUndo (s : State) (rung : Nat) : State :=
  match rung with
  | 1 => showPace { s with power := { s.power with paceLoop := 0 } }
  | 2 => { s with power := { s.power with capNext := some (benchCount s) } }
  | 3 => { s with power := { s.power with divNext := some 0 } }
  | _ => s

/-- Enter a rung. -/
def enterRung (s : State) (rung : Nat) : State :=
  wr { s with power := { s.power with rungCycles := 0, calm := 0 } } Reg.powerActRung 0 rung

/-- What a rung's action has reached: the next rung may be entered. -/
def rungSpent (s : State) (rung : Nat) : Bool :=
  match rung with
  | 0 => true
  | 1 => s.power.paceLoop == 15
  | 2 => rd s Reg.bankThermTenantCap 0 == 0
  | _ => false

/-- The ladder in one cycle (R472). -/
def ladder (s : State) (dieErr dramErr : Int) : State :=
  let duties := (List.range 4).map (rd s Reg.pwmDuty)
  let hot := s.power.ask || ((0 < dieErr || 0 < dramErr) && duties.all (· == 255))
  let calm := dieErr ≤ -3000 && dramErr ≤ -3000 && duties.all (· ≤ 230) && 100 * rd s Reg.powerAvgP1sW 0 < 95 * rd s Reg.powerLimitContW 0
  let rung := rd s Reg.powerActRung 0
  let p := s.power
  let s := { s with power := { p with ask := false, rungCycles := min 10 (p.rungCycles + 1), calm := if calm then min 10 (p.calm + 1) else 0 } }
  if hot then
    if rung < 3 ∧ rungSpent s rung = true ∧ (rung = 0 ∨ 10 ≤ s.power.rungCycles) then rungAction (enterRung s (rung + 1)) (rung + 1)
    else if rung = 3 then (if 10 ≤ s.power.rungCycles then rungAction (enterRung s 3) 3 else s)
    else rungAction s rung
  else if 0 < rung ∧ 10 ≤ s.power.calm ∧ 10 ≤ s.power.rungCycles then enterRung (rungUndo s rung) (rung - 1)
  else s

/-- The state of a held band (R474). -/
def showBand (s : State) : State :=
  match s.power.band with
  | none => s
  | some b =>
    let die := sbyte (rd s Reg.thermTempDie 0)
    let bound := (List.range 4).all (fun i => rd s Reg.pwmDuty i == 255 || rd s Reg.pwmDuty i == rd s Reg.pwmMinDuty i)
    let put (x : Option Nat) (st : Nat) : State := wr { s with power := { s.power with band := some { b with stuckNs := x } } } Reg.thermBandState 0 st
    if rd s Reg.thermCfgTCap 0 < b.hi then endBand s 3
    else if (b.lo : Int) ≤ die ∧ die ≤ b.hi then put none 2
    else if !bound then put none 1
    else
      let since := b.stuckNs.getD s.clock.up
      put (some since) (if since + 60000000000 ≤ s.clock.up then 3 else 1)

/-- One cycle of the loop (R469): temperatures, tachometers, duties, ladder and band. What the model predicts for die and DRAM, the coming
benches and the DRAM's own duty are free values. -/
def loopCycle (s : State) (r : LoopIn) : State :=
  if 2 ≤ rd s Reg.powerStatState 0 then s
  else
    let d := s.free
    let s := drawn (readTachs (readTemps { s with power := { s.power with loopNs := some s.clock.up } } r) r.rpm)
    let s := match s.power.band with
      | some b => if rd s Reg.thermCfgTCap 0 < b.hi then endBand s 3 else s
      | none => s
    let target := dieTarget s
    let s := wr s Reg.thermCfgTSet 0 (target / 1000).toNat
    let dieErr := Config.cooling d 2 - target
    let dramErr := Config.cooling d 3 - 90000
    let dP := (rd s Reg.thermModelPRunW 0 : Int) * Config.cooling d 4
    let s := (List.range 4).foldl (fun s i => setDuty s i dieErr dP d) s
    showBand (ladder (refineKp s d) dieErr dramErr)

end Sys2Proof.Machine
end

