-- ==== Sys2Proof/Machine/Trigger.lean ====
section
/-! DEFINITION. The firing of trigger comparators (R272-R274) and what their INTERNAL events start: slot and subframe boundaries (R315,
R256, R283, R383), monitor conversions and the thermal cycle (R469). -/

namespace Sys2Proof.Machine

/-- A slot boundary at time t: the event of every numerology one of whose slots begins there (R315). -/
def slotBoundary (s : State) (t : Nat) : State :=
  (List.range 4).foldl (fun s mu =>
    let len := 1000000 / 2 ^ mu
    if t % len = 0 then slotEvent s 0 mu ((t / 10000000 + Config.sfnEpoch) % 1024) (t % 10000000 / len) 0 else s) s

/-- The A-clock divider steps (R256). -/
def setDivider (s : State) (k : Nat) : State :=
  let s := { s with power := { s.power with divNext := none } }
  if rd s Reg.timeClkStatusADiv 0 = k then s else bump (wr s Reg.timeClkStatusADiv 0 k) Reg.timeThrottleCntCount 0 1

/-- The tenant cap changes, and benches above it are emptied (R383). -/
def setCap (s : State) (c : Nat) : State := capBenches (wr { s with power := { s.power with capNext := none } } Reg.bankThermTenantCap 0 c)

/-- A 1 ms subframe boundary at time t: the SUBFRAME event, the throttle step and cap decided before, and at a frame boundary the return
of MUTED cells once time is LOCKED. -/
def subframeBoundary (s : State) (t : Nat) : State :=
  let s := (List.range 64).foldl (fun s n => coreEvent s n 1) s
  let s := match s.power.divNext with | some k => setDivider s k | none => s
  let s := match s.power.capNext with | some c => setCap s c | none => s
  if t % 10000000 = 0 ∧ timeSt s = 2 then
    s.radio.plan.foldl (fun s e => if cellSt s e.1 = 5 then wr s Reg.cellState e.1 4 else s) s
  else s

/-- Drive a TIME_EVT pin. -/
def drivePin (s : State) (n : Nat) (high : Bool) : State :=
  let evt := if high then insertNat s.clock.evt n else s.clock.evt.filter (· != n)
  emit { s with clock := { s.clock with evt := evt } } (.pin n high)

/-- A higher-numbered comparator has driven the pin in this G-clock, and wins (R272). -/
def pinLost (s : State) (k n : Nat) : Bool :=
  match mapFind s.clock.pinBy n with
  | none => false
  | some (g, by_) => g == s.clock.g && k < by_

/-- Comparator k drives a pin: it remembers the G-clock and its number. -/
def takePin (s : State) (k n : Nat) : State := { s with clock := { s.clock with pinBy := mapSet s.clock.pinBy n (s.clock.g, k) } }

/-- Streams of the TD front end start: the event, and they are active (Table 09.5, R350). -/
def tdStart (s : State) : State :=
  let s := emit s (.tdStart (now s))
  if rdB s Reg.caps1Tdfe 0 then (List.range (rd s Reg.tdfeInfoStreams 0)).foldl (fun s n => wr s Reg.tdfeStreamRunning n 1) s else s

/-- The action of comparator k (Table 09.5). -/
def trigAct (s : State) (k : Nat) (g : TrigGroup) (r : LoopIn) : State :=
  let n := g.target
  if 2 ≤ g.action ∧ g.action ≤ 5 ∧ pinLost s k n then s
  else
  let s := if 2 ≤ g.action ∧ g.action ≤ 5 then takePin s k n else s
  match g.action with
  | 1 =>
    (match n with
      | 0 => slotBoundary s g.compareNs
      | 1 => subframeBoundary s g.compareNs
      | 2 => wr s Reg.thermTempDie 0 r.die.toNat
      | 3 => loopCycle s r
      | 4 => tdStart s
      | _ => s)
  | 2 => drivePin s n true
  | 3 => drivePin s n false
  | 4 => drivePin s n (!s.clock.evt.contains n)
  | 5 => emit s (.pulse n)
  | 6 => healthCause s Reg.healthCauseTrigger
  | _ => s

/-- What a firing leaves in the comparator: late if its time had passed or a forward step reached it, its compare value advanced beyond the time base with the skipped
firings counted, or remembered as fired; then a waiting group is taken (R273, R274). -/
def trigDone (s : State) (k : Nat) (g : TrigGroup) : State :=
  let s := if g.compareNs < now s ∨ s.clock.stepTo = some g.compareNs then wr s Reg.trigLate k 1 else s
  let s :=
    if g.periodNs = 0 then { s with clock := { s.clock with trigFired := mapSet s.clock.trigFired k g.compareNs } }
    else
      let turns := (now s - g.compareNs) / g.periodNs + 1
      let s := bump s Reg.trigMissed k (turns - 1)
      wrLive { s with clock := { s.clock with trigFired := mapErase s.clock.trigFired k } } Reg.trigCompareNs k (g.compareNs + turns * g.periodNs)
  match mapFind s.clock.trigNext k with
  | some n => applyTrig s k n
  | none => s

/-- TRIGGER_FIRE (R272-R274): a comparator whose time has come fires. -/
def execTriggerFire (k : BitVec 6) (r : LoopIn) (s : State) : Ans :=
  let i := k.toNat
  let g := trigGroup s i
  .next (if trigDue s i then trigAct (trigDone s i g) i g r else s)

end Sys2Proof.Machine
end

