-- ==== Sys2Proof/Machine/Dispatch.lean ====
section
/-! DEFINITION. The meaning of every command: one arm per constructor, each one direct call of that command's own meaning. -/

namespace Sys2Proof.Machine

/-- The effect of a command on everything but the queue. -/
def exec (i : Instr) (s : State) : Host.Outcome State Fault Refusal :=
  match i with
  | .registerWrite fn addr wide data => Sys2Proof.Machine.execRegisterWrite fn addr wide data s
  | .lowWordRead fn addr wide => Sys2Proof.Machine.execLowWordRead fn addr wide s
  | .benchWindowAbsentAccess bench off write => Sys2Proof.Machine.execBenchWindowAbsentAccess bench off write s
  | .notClockedProxyAccess addr write => Sys2Proof.Machine.execNotClockedProxyAccess addr write s
  | .galleryShareWindow => Sys2Proof.Machine.execGalleryShareWindow s
  | .channelShareWindow => Sys2Proof.Machine.execChannelShareWindow s
  | .refresh stack => Sys2Proof.Machine.execRefresh stack s
  | .refreshTempRead t0 t1 t2 t3 => Sys2Proof.Machine.execRefreshTempRead t0 t1 t2 t3 s
  | .sqTail fn q value => Sys2Proof.Machine.execSqTail fn q value s
  | .queueEnable fn q => Sys2Proof.Machine.execQueueEnable fn q s
  | .queueDisable fn q => Sys2Proof.Machine.execQueueDisable fn q s
  | .queueConfigWrite fn q reg value => Sys2Proof.Machine.execQueueConfigWrite fn q reg value s
  | .stepStart fn q => Sys2Proof.Machine.execStepStart fn q s
  | .commandRead fn q => Sys2Proof.Machine.execCommandRead fn q s
  | .stepCompletion fn q => Sys2Proof.Machine.execStepCompletion fn q s
  | .tallyAdd fn tally value => Sys2Proof.Machine.execTallyAdd fn tally value s
  | .tallySet fn tally value => Sys2Proof.Machine.execTallySet fn tally value s
  | .slab cid => Sys2Proof.Machine.execSlab cid s
  | .map cid => Sys2Proof.Machine.execMap cid s
  | .rowSum cid => Sys2Proof.Machine.execRowSum cid s
  | .rowWideSum cid => Sys2Proof.Machine.execRowWideSum cid s
  | .wideAdd cid => Sys2Proof.Machine.execWideAdd cid s
  | .rowMaxi cid => Sys2Proof.Machine.execRowMaxi cid s
  | .rowMini cid => Sys2Proof.Machine.execRowMini cid s
  | .mxQuant cid => Sys2Proof.Machine.execMxQuant cid s
  | .random cid => Sys2Proof.Machine.execRandom cid s
  | .discard cid => Sys2Proof.Machine.execDiscard cid s
  | .skip cid => Sys2Proof.Machine.execSkip cid s
  | .get cid => Sys2Proof.Machine.execGet cid s
  | .put cid => Sys2Proof.Machine.execPut cid s
  | .atomic cid => Sys2Proof.Machine.execAtomic cid s
  | .fabricReduce cid => Sys2Proof.Machine.execFabricReduce cid s
  | .mcastPut cid => Sys2Proof.Machine.execMcastPut cid s
  | .signal cid => Sys2Proof.Machine.execSignal cid s
  | .fence cid => Sys2Proof.Machine.execFence cid s
  | .msgSend cid => Sys2Proof.Machine.execMsgSend cid s
  | .tallySignal cid => Sys2Proof.Machine.execTallySignal cid s
  | .tallyCmdSet cid => Sys2Proof.Machine.execTallyCmdSet cid s
  | .notify cid => Sys2Proof.Machine.execNotify cid s
  | .allReduce cid => Sys2Proof.Machine.execAllReduce cid s
  | .reduce cid => Sys2Proof.Machine.execReduce cid s
  | .reduceScatter cid => Sys2Proof.Machine.execReduceScatter cid s
  | .broadcast cid => Sys2Proof.Machine.execBroadcast cid s
  | .allGather cid => Sys2Proof.Machine.execAllGather cid s
  | .allToAll cid => Sys2Proof.Machine.execAllToAll cid s
  | .allGatherV cid => Sys2Proof.Machine.execAllGatherV cid s
  | .allToAllV cid => Sys2Proof.Machine.execAllToAllV cid s
  | .barrier cid => Sys2Proof.Machine.execBarrier cid s
  | .commit cid => Sys2Proof.Machine.execCommit cid s
  | .frameZeroingDone bench => Sys2Proof.Machine.execFrameZeroingDone bench s
  | .collectiveCommit cid => Sys2Proof.Machine.execCollectiveCommit cid s
  | .stageCopyDone cid => Sys2Proof.Machine.execStageCopyDone cid s
  | .joinTimeout cid => Sys2Proof.Machine.execJoinTimeout cid s
  | .triggerFire k r => Sys2Proof.Machine.execTriggerFire k r s
  | .floorPlanPoint entry sfn => Sys2Proof.Machine.execFloorPlanPoint entry sfn s
  | .floorReservation entry => Sys2Proof.Machine.execFloorReservation entry s
  | .wedgeHandover bench => Sys2Proof.Machine.execWedgeHandover bench s
  | .beyondFloorTake cid => Sys2Proof.Machine.execBeyondFloorTake cid s
  | .floorReturn bench => Sys2Proof.Machine.execFloorReturn bench s
  | .quantumEnd bench => Sys2Proof.Machine.execQuantumEnd bench s
  | .graceEnd bench => Sys2Proof.Machine.execGraceEnd bench s
  | .saveDone bench => Sys2Proof.Machine.execSaveDone bench s
  | .restoreDone bench => Sys2Proof.Machine.execRestoreDone bench s
  | .starvationPoint fn ctx => Sys2Proof.Machine.execStarvationPoint fn ctx s
  | .eviction fn ctx => Sys2Proof.Machine.execEviction fn ctx s
  | .benchWake bench => Sys2Proof.Machine.execBenchWake bench s
  | .powerStateChoice bench => Sys2Proof.Machine.execPowerStateChoice bench s
  | .blockedHoldExpiry bench => Sys2Proof.Machine.execBlockedHoldExpiry bench s
  | .idleDarkExpiry bench => Sys2Proof.Machine.execIdleDarkExpiry bench s
  | .lotOwner lot owner hdm => Sys2Proof.Machine.execLotOwner lot owner hdm s
  | .releasingEnd lot => Sys2Proof.Machine.execReleasingEnd lot s
  | .clearingEnd lot => Sys2Proof.Machine.execClearingEnd lot s
  | .memInval vf all => Sys2Proof.Machine.execMemInval vf all s
  | .memInvalDone => Sys2Proof.Machine.execMemInvalDone s
  | .scrubRead err => Sys2Proof.Machine.execScrubRead err s
  | .bucketRefill => Sys2Proof.Machine.execBucketRefill s
  | .cxlMemRead pa => Sys2Proof.Machine.execCxlMemRead pa s
  | .cxlMemWrite pa data mask => Sys2Proof.Machine.execCxlMemWrite pa data mask s
  | .dataFlit port fseq ackSeq nak crcOk errs => Sys2Proof.Machine.execDataFlit port fseq ackSeq nak crcOk errs s
  | .idleFlit port ackSeq nak crcOk errs => Sys2Proof.Machine.execIdleFlit port ackSeq nak crcOk errs s
  | .creditFlit port ackSeq nak vc count crcOk errs => Sys2Proof.Machine.execCreditFlit port ackSeq nak vc count crcOk errs s
  | .linkSilence port => Sys2Proof.Machine.execLinkSilence port s
  | .retrainTimeout port lanesOk => Sys2Proof.Machine.execRetrainTimeout port lanesOk s
  | .downRetry port => Sys2Proof.Machine.execDownRetry port s
  | .capabilityBlock port block => Sys2Proof.Machine.execCapabilityBlock port block s
  | .lsa m => Sys2Proof.Machine.execLsa m s
  | .read m => Sys2Proof.Machine.execRead m s
  | .readData m => Sys2Proof.Machine.execReadData m s
  | .write m => Sys2Proof.Machine.execWrite m s
  | .atomicMessage m => Sys2Proof.Machine.execAtomicMessage m s
  | .atomicResult m => Sys2Proof.Machine.execAtomicResult m s
  | .reduceMessage m => Sys2Proof.Machine.execReduceMessage m s
  | .signalMessage m => Sys2Proof.Machine.execSignalMessage m s
  | .msg m => Sys2Proof.Machine.execMsg m s
  | .ack m => Sys2Proof.Machine.execAck m s
  | .nak m => Sys2Proof.Machine.execNak m s
  | .desc m => Sys2Proof.Machine.execDesc m s
  | .count m => Sys2Proof.Machine.execCount m s
  | .verdict m => Sys2Proof.Machine.execVerdict m s
  | .data m => Sys2Proof.Machine.execData m s
  | .ackVerified m => Sys2Proof.Machine.execAckVerified m s
  | .refetch m => Sys2Proof.Machine.execRefetch m s
  | .abort m => Sys2Proof.Machine.execAbort m s
  | .resendTimer mid => Sys2Proof.Machine.execResendTimer mid s
  | .messageLifetimeExpiry srcNode cls seq => Sys2Proof.Machine.execMessageLifetimeExpiry srcNode cls seq s
  | .deadBound mid => Sys2Proof.Machine.execDeadBound mid s
  | .roundTimeout fn line round => Sys2Proof.Machine.execRoundTimeout fn line round s
  | .jeanoSAbort node => Sys2Proof.Machine.execJeanoSAbort node s
  | .sAbortSettle => Sys2Proof.Machine.execSAbortSettle s
  | .meteringTick => Sys2Proof.Machine.execMeteringTick s
  | .queueSample depths delays => Sys2Proof.Machine.execQueueSample depths delays s
  | .jeanoSampleClear => Sys2Proof.Machine.execJeanoSampleClear s
  | .timeMessage m => Sys2Proof.Machine.execTimeMessage m s
  | .referenceLoss => Sys2Proof.Machine.execReferenceLoss s
  | .referenceReturn => Sys2Proof.Machine.execReferenceReturn s
  | .timeAddend value manager => Sys2Proof.Machine.execTimeAddend value manager s
  | .timeStep value manager => Sys2Proof.Machine.execTimeStep value manager s
  | .sync q domain origin => Sys2Proof.Machine.execSync q domain origin s
  | .followUp q domain origin => Sys2Proof.Machine.execFollowUp q domain origin s
  | .delayReq q domain => Sys2Proof.Machine.execDelayReq q domain s
  | .delayResp q domain received => Sys2Proof.Machine.execDelayResp q domain received s
  | .announce q domain dataset => Sys2Proof.Machine.execAnnounce q domain dataset s
  | .announceTimeout => Sys2Proof.Machine.execAnnounceTimeout s
  | .esmc q level => Sys2Proof.Machine.execEsmc q level s
  | .sourceLoss => Sys2Proof.Machine.execSourceLoss s
  | .ppsLoss => Sys2Proof.Machine.execPpsLoss s
  | .leaderLoss => Sys2Proof.Machine.execLeaderLoss s
  | .sourceReturn => Sys2Proof.Machine.execSourceReturn s
  | .lockAchieved => Sys2Proof.Machine.execLockAchieved s
  | .holdoverExpired => Sys2Proof.Machine.execHoldoverExpired s
  | .timestampPush q id => Sys2Proof.Machine.execTimestampPush q id s
  | .tsqId q => Sys2Proof.Machine.execTsqId q s
  | .trigCommit k group arm => Sys2Proof.Machine.execTrigCommit k group arm s
  | .captureEdge input rising => Sys2Proof.Machine.execCaptureEdge input rising s
  | .capPop input => Sys2Proof.Machine.execCapPop input s
  | .ppsOut => Sys2Proof.Machine.execPpsOut s
  | .fapiReqTail ring value => Sys2Proof.Machine.execFapiReqTail ring value s
  | .paramRequest cell => Sys2Proof.Machine.execParamRequest cell s
  | .configRequest cell tlvs => Sys2Proof.Machine.execConfigRequest cell tlvs s
  | .startRequest cell => Sys2Proof.Machine.execStartRequest cell s
  | .stopRequest cell => Sys2Proof.Machine.execStopRequest cell s
  | .dlTtiRequest ring cell sfn slot pdus => Sys2Proof.Machine.execDlTtiRequest ring cell sfn slot pdus s
  | .ulTtiRequest ring cell sfn slot pdus => Sys2Proof.Machine.execUlTtiRequest ring cell sfn slot pdus s
  | .ulDciRequest ring cell sfn slot pdus => Sys2Proof.Machine.execUlDciRequest ring cell sfn slot pdus s
  | .txDataRequest ring cell sfn slot pdus => Sys2Proof.Machine.execTxDataRequest ring cell sfn slot pdus s
  | .slotIndication cell sfn slot => Sys2Proof.Machine.execSlotIndication cell sfn slot s
  | .uplinkUPlane cell frame => Sys2Proof.Machine.execUplinkUPlane cell frame s
  | .receivedCPlane lport => Sys2Proof.Machine.execReceivedCPlane lport s
  | .unknownFrame lport => Sys2Proof.Machine.execUnknownFrame lport s
  | .oneWayDelay lport id => Sys2Proof.Machine.execOneWayDelay lport id s
  | .arpRequest port addr => Sys2Proof.Machine.execArpRequest port addr s
  | .neighborSolicitation port addr => Sys2Proof.Machine.execNeighborSolicitation port addr s
  | .symbolRelease cell sfn slot sym => Sys2Proof.Machine.execSymbolRelease cell sfn slot sym s
  | .transmitWindowEnd cell sfn slot sym => Sys2Proof.Machine.execTransmitWindowEnd cell sfn slot sym s
  | .receptionWindowClose cell sfn slot sym => Sys2Proof.Machine.execReceptionWindowClose cell sfn slot sym s
  | .decodeRelease mu sfn slot => Sys2Proof.Machine.execDecodeRelease mu sfn slot s
  | .indicationDeadline cell sfn slot affected => Sys2Proof.Machine.execIndicationDeadline cell sfn slot affected s
  | .ldpcDec engine => Sys2Proof.Machine.execLdpcDec engine s
  | .ldpcEnc engine => Sys2Proof.Machine.execLdpcEnc engine s
  | .polarDec engine => Sys2Proof.Machine.execPolarDec engine s
  | .polarEnc engine => Sys2Proof.Machine.execPolarEnc engine s
  | .nop core last => Sys2Proof.Machine.execNop core last s
  | .add core gd ga gb sat last => Sys2Proof.Machine.execAdd core gd ga gb sat last s
  | .sub core gd ga gb sat last => Sys2Proof.Machine.execSub core gd ga gb sat last s
  | .and core gd ga gb sat last => Sys2Proof.Machine.execAnd core gd ga gb sat last s
  | .or core gd ga gb sat last => Sys2Proof.Machine.execOr core gd ga gb sat last s
  | .xor core gd ga gb sat last => Sys2Proof.Machine.execXor core gd ga gb sat last s
  | .shl core gd ga gb sat last => Sys2Proof.Machine.execShl core gd ga gb sat last s
  | .shr core gd ga gb sat last => Sys2Proof.Machine.execShr core gd ga gb sat last s
  | .shru core gd ga gb sat last => Sys2Proof.Machine.execShru core gd ga gb sat last s
  | .min core gd ga gb sat last => Sys2Proof.Machine.execMin core gd ga gb sat last s
  | .max core gd ga gb sat last => Sys2Proof.Machine.execMax core gd ga gb sat last s
  | .slt core gd ga gb sat last => Sys2Proof.Machine.execSlt core gd ga gb sat last s
  | .sltu core gd ga gb sat last => Sys2Proof.Machine.execSltu core gd ga gb sat last s
  | .mul core gd ga gb sat last => Sys2Proof.Machine.execMul core gd ga gb sat last s
  | .mulh core gd ga gb sat last => Sys2Proof.Machine.execMulh core gd ga gb sat last s
  | .addi core gd ga imm last => Sys2Proof.Machine.execAddi core gd ga imm last s
  | .andi core gd ga imm last => Sys2Proof.Machine.execAndi core gd ga imm last s
  | .ori core gd ga imm last => Sys2Proof.Machine.execOri core gd ga imm last s
  | .xori core gd ga imm last => Sys2Proof.Machine.execXori core gd ga imm last s
  | .shli core gd ga imm last => Sys2Proof.Machine.execShli core gd ga imm last s
  | .shri core gd ga imm last => Sys2Proof.Machine.execShri core gd ga imm last s
  | .shrui core gd ga imm last => Sys2Proof.Machine.execShrui core gd ga imm last s
  | .lui core gd imm last => Sys2Proof.Machine.execLui core gd imm last s
  | .b core off last => Sys2Proof.Machine.execB core off last s
  | .beqz core ga off last => Sys2Proof.Machine.execBeqz core ga off last s
  | .bnez core ga off last => Sys2Proof.Machine.execBnez core ga off last s
  | .bltz core ga off last => Sys2Proof.Machine.execBltz core ga off last s
  | .bgez core ga off last => Sys2Proof.Machine.execBgez core ga off last s
  | .bgtz core ga off last => Sys2Proof.Machine.execBgtz core ga off last s
  | .blez core ga off last => Sys2Proof.Machine.execBlez core ga off last s
  | .call core off last => Sys2Proof.Machine.execCall core off last s
  | .jr core ga last => Sys2Proof.Machine.execJr core ga last s
  | .rti core last => Sys2Proof.Machine.execRti core last s
  | .loop core level gs lend last => Sys2Proof.Machine.execLoop core level gs lend last s
  | .loopi core level count lend last => Sys2Proof.Machine.execLoopi core level count lend last s
  | .mfs core gd num last => Sys2Proof.Machine.execMfs core gd num last s
  | .mts core ga num last => Sys2Proof.Machine.execMts core ga num last s
  | .postSieve core a units last => Sys2Proof.Machine.execPostSieve core a units last s
  | .postRadioCmd core a units last => Sys2Proof.Machine.execPostRadioCmd core a units last s
  | .postMbox core a units last => Sys2Proof.Machine.execPostMbox core a units last s
  | .postFhTx core a units last => Sys2Proof.Machine.execPostFhTx core a units last s
  | .postFapiInd core a units last => Sys2Proof.Machine.execPostFapiInd core a units last s
  | .portQueueEntryFreed core => Sys2Proof.Machine.execPortQueueEntryFreed core s
  | .wait core ga last => Sys2Proof.Machine.execWait core ga last s
  | .waitEnd core => Sys2Proof.Machine.execWaitEnd core s
  | .evset core last => Sys2Proof.Machine.execEvset core last s
  | .ld16 core y g a post off last => Sys2Proof.Machine.execLd16 core y g a post off last s
  | .ld32 core y g a post off last => Sys2Proof.Machine.execLd32 core y g a post off last s
  | .ldv core y v a post off last => Sys2Proof.Machine.execLdv core y v a post off last s
  | .ldbc core y v a post off last => Sys2Proof.Machine.execLdbc core y v a post off last s
  | .st16 core y g a post off last => Sys2Proof.Machine.execSt16 core y g a post off last s
  | .st32 core y g a post off last => Sys2Proof.Machine.execSt32 core y g a post off last s
  | .stv core y v a post off last => Sys2Proof.Machine.execStv core y v a post off last s
  | .mova core ga a last => Sys2Proof.Machine.execMova core ga a last s
  | .adda core a off last => Sys2Proof.Machine.execAdda core a off last s
  | .mfa core gd a last => Sys2Proof.Machine.execMfa core gd a last s
  | .vadd core vd va vb sat last => Sys2Proof.Machine.execVadd core vd va vb sat last s
  | .vsub core vd va vb sat last => Sys2Proof.Machine.execVsub core vd va vb sat last s
  | .vand core vd va vb last => Sys2Proof.Machine.execVand core vd va vb last s
  | .vor core vd va vb last => Sys2Proof.Machine.execVor core vd va vb last s
  | .vxor core vd va vb last => Sys2Proof.Machine.execVxor core vd va vb last s
  | .vshl core vd va sh sat last => Sys2Proof.Machine.execVshl core vd va sh sat last s
  | .vshr core vd va sh sat last => Sys2Proof.Machine.execVshr core vd va sh sat last s
  | .vmax core vd va vb last => Sys2Proof.Machine.execVmax core vd va vb last s
  | .vmin core vd va vb last => Sys2Proof.Machine.execVmin core vd va vb last s
  | .vabs core vd va sat last => Sys2Proof.Machine.execVabs core vd va sat last s
  | .vneg core vd va sat last => Sys2Proof.Machine.execVneg core vd va sat last s
  | .vaddw core vd va vb sat last => Sys2Proof.Machine.execVaddw core vd va vb sat last s
  | .vsubw core vd va vb sat last => Sys2Proof.Machine.execVsubw core vd va vb sat last s
  | .vmul core vd va vb sh sat last => Sys2Proof.Machine.execVmul core vd va vb sh sat last s
  | .vmac core vd va vb sh sat last => Sys2Proof.Machine.execVmac core vd va vb sh sat last s
  | .vmacw core vd va vb sh sat last => Sys2Proof.Machine.execVmacw core vd va vb sh sat last s
  | .vcmul core vd va vb sh sat conj last => Sys2Proof.Machine.execVcmul core vd va vb sh sat conj last s
  | .vcmac core vd va vb sh sat conj last => Sys2Proof.Machine.execVcmac core vd va vb sh sat conj last s
  | .vcmacw core vd va vb sh sat conj last => Sys2Proof.Machine.execVcmacw core vd va vb sh sat conj last s
  | .vmov core vd va last => Sys2Proof.Machine.execVmov core vd va last s
  | .vbcast core vd ga last => Sys2Proof.Machine.execVbcast core vd ga last s
  | .vperm core vd va vb last => Sys2Proof.Machine.execVperm core vd va vb last s
  | .vnrw core vd va sh sat last => Sys2Proof.Machine.execVnrw core vd va sh sat last s
  | .vzero core vd last => Sys2Proof.Machine.execVzero core vd last s
  | .interruptEntry core => Sys2Proof.Machine.execInterruptEntry core s
  | .tcmp core => Sys2Proof.Machine.execTcmp core s
  | .completionEntry core => Sys2Proof.Machine.execCompletionEntry core s
  | .watchdog core => Sys2Proof.Machine.execWatchdog core s
  | .coreRestart core => Sys2Proof.Machine.execCoreRestart core s
  | .l1ImageLoad idx => Sys2Proof.Machine.execL1ImageLoad idx s
  | .roeRxPacket stream sfn seq native samples => Sys2Proof.Machine.execRoeRxPacket stream sfn seq native samples s
  | .txPacket stream sfn seq ready => Sys2Proof.Machine.execTxPacket stream sfn seq ready s
  | .rxSymbol stream sfn slot sym => Sys2Proof.Machine.execRxSymbol stream sfn slot sym s
  | .maskBlock stream powers => Sys2Proof.Machine.execMaskBlock stream powers s
  | .unmute stream => Sys2Proof.Machine.execUnmute stream s
  | .chirpDetect channel sf hit => Sys2Proof.Machine.execChirpDetect channel sf hit s
  | .packetEnd channel sf pkt room => Sys2Proof.Machine.execPacketEnd channel sf pkt room s
  | .noiseFloor channel idle => Sys2Proof.Machine.execNoiseFloor channel idle s
  | .chirpTxRingRead tail => Sys2Proof.Machine.execChirpTxRingRead tail s
  | .chirpTxDone channel tag => Sys2Proof.Machine.execChirpTxDone channel tag s
  | .numVfs n => Sys2Proof.Machine.execNumVfs n s
  | .stop fn => Sys2Proof.Machine.execStop fn s
  | .stopClear fn => Sys2Proof.Machine.execStopClear fn s
  | .quiesced fn => Sys2Proof.Machine.execQuiesced fn s
  | .reset fn => Sys2Proof.Machine.execReset fn s
  | .forceReset fn => Sys2Proof.Machine.execForceReset fn s
  | .flr fn => Sys2Proof.Machine.execFlr fn s
  | .forcedResetDone fn => Sys2Proof.Machine.execForcedResetDone fn s
  | .freeze fn => Sys2Proof.Machine.execFreeze fn s
  | .frozen fn => Sys2Proof.Machine.execFrozen fn s
  | .resume fn => Sys2Proof.Machine.execResume fn s
  | .saveLive => Sys2Proof.Machine.execSaveLive s
  | .saveFinal => Sys2Proof.Machine.execSaveFinal s
  | .restore => Sys2Proof.Machine.execRestore s
  | .migrationComplete => Sys2Proof.Machine.execMigrationComplete s
  | .tenantSample => Sys2Proof.Machine.execTenantSample s
  | .tenSampleClear => Sys2Proof.Machine.execTenSampleClear s
  | .mrExtend => Sys2Proof.Machine.execMrExtend s
  | .attest => Sys2Proof.Machine.execAttest s
  | .attestationReport => Sys2Proof.Machine.execAttestationReport s
  | .keyDelivery => Sys2Proof.Machine.execKeyDelivery s
  | .keyInstall => Sys2Proof.Machine.execKeyInstall s
  | .debugChallenge => Sys2Proof.Machine.execDebugChallenge s
  | .debugToken => Sys2Proof.Machine.execDebugToken s
  | .svnCommit ok1 ok2 ok3 ok4 => Sys2Proof.Machine.execSvnCommit ok1 ok2 ok3 ok4 s
  | .resetNAssert => Sys2Proof.Machine.execResetNAssert s
  | .resetNRelease => Sys2Proof.Machine.execResetNRelease s
  | .firmwareVerify => Sys2Proof.Machine.execFirmwareVerify s
  | .identityDerive => Sys2Proof.Machine.execIdentityDerive s
  | .gradeRecordVerify grade => Sys2Proof.Machine.execGradeRecordVerify grade s
  | .imageVerify a b => Sys2Proof.Machine.execImageVerify a b s
  | .functionReady idx fail aux => Sys2Proof.Machine.execFunctionReady idx fail aux s
  | .surveyMeasurement item => Sys2Proof.Machine.execSurveyMeasurement item s
  | .coolingStep kd tau theta => Sys2Proof.Machine.execCoolingStep kd tau theta s
  | .configurationLock manager => Sys2Proof.Machine.execConfigurationLock manager s
  | .cfgCommit => Sys2Proof.Machine.execCfgCommit s
  | .stagedApply kind damaged => Sys2Proof.Machine.execStagedApply kind damaged s
  | .nvmRead => Sys2Proof.Machine.execNvmRead s
  | .nvmErase => Sys2Proof.Machine.execNvmErase s
  | .nvmProgram => Sys2Proof.Machine.execNvmProgram s
  | .readyNext fw img ok1 ok2 => Sys2Proof.Machine.execReadyNext fw img ok1 ok2 s
  | .readyRestart key => Sys2Proof.Machine.execReadyRestart key s
  | .persistentRecordWrite ok1 ok2 => Sys2Proof.Machine.execPersistentRecordWrite ok1 ok2 s
  | .conversionStart => Sys2Proof.Machine.execConversionStart s
  | .inputLoss high => Sys2Proof.Machine.execInputLoss high s
  | .holdupDischarge => Sys2Proof.Machine.execHoldupDischarge s
  | .holdReady capUf => Sys2Proof.Machine.execHoldReady capUf s
  | .powerMeasure mv w cables => Sys2Proof.Machine.execPowerMeasure mv w cables s
  | .paceUpdate p => Sys2Proof.Machine.execPaceUpdate p s
  | .ladderRequest => Sys2Proof.Machine.execLadderRequest s
  | .trip cause => Sys2Proof.Machine.execTrip cause s
  | .pwmWatchdog => Sys2Proof.Machine.execPwmWatchdog s
  | .cableFaultTrip port => Sys2Proof.Machine.execCableFaultTrip port s
  | .cableRetry port => Sys2Proof.Machine.execCableRetry port s
  | .cableProbe port probe => Sys2Proof.Machine.execCableProbe port probe s
  | .cableClear port probe => Sys2Proof.Machine.execCableClear port probe s
  | .bandHold => Sys2Proof.Machine.execBandHold s
  | .bandStop => Sys2Proof.Machine.execBandStop s
  | .bandEnd => Sys2Proof.Machine.execBandEnd s
  | .heartbeatPeriod => Sys2Proof.Machine.execHeartbeatPeriod s
  | .heartbeat port d => Sys2Proof.Machine.execHeartbeat port d s
  | .lossDatagram port d => Sys2Proof.Machine.execLossDatagram port d s
  | .tripDatagram port d => Sys2Proof.Machine.execTripDatagram port d s
  | .restarted port d => Sys2Proof.Machine.execRestarted port d s
  | .livenessTimeout port node => Sys2Proof.Machine.execLivenessTimeout port node s
  | .expel node => Sys2Proof.Machine.execExpel node s
  | .dead node => Sys2Proof.Machine.execDead node s
  | .watch node => Sys2Proof.Machine.execWatch node s
  | .remove node => Sys2Proof.Machine.execRemove node s
  | .listChange c => Sys2Proof.Machine.execListChange c s
  | .evidence node => Sys2Proof.Machine.execEvidence node s
  | .evidenceRecord e => Sys2Proof.Machine.execEvidenceRecord e s
  | .evidenceExpiry => Sys2Proof.Machine.execEvidenceExpiry s
  | .scoreDecay => Sys2Proof.Machine.execScoreDecay s
  | .shadowCompare cid bench assay third => Sys2Proof.Machine.execShadowCompare cid bench assay third s
  | .shadowTimeout cid => Sys2Proof.Machine.execShadowTimeout cid s
  | .provingRun unit engine pattern load => Sys2Proof.Machine.execProvingRun unit engine pattern load s
  | .provingResult unit engine pass inBand => Sys2Proof.Machine.execProvingResult unit engine pass inBand s
  | .provingPeriod => Sys2Proof.Machine.execProvingPeriod s
  | .sweep => Sys2Proof.Machine.execSweep s
  | .quarantineRelease mask => Sys2Proof.Machine.execQuarantineRelease mask s
  | .ethernetLinkState port up => Sys2Proof.Machine.execEthernetLinkState port up s
  | .pllLockLoss pll => Sys2Proof.Machine.execPllLockLoss pll s
  | .ptpMessageInterval q kind => Sys2Proof.Machine.execPtpMessageInterval q kind s
  | .memberLostTimeout cid rank => Sys2Proof.Machine.execMemberLostTimeout cid rank s
  | .wakeComplete bench => Sys2Proof.Machine.execWakeComplete bench s
  | .illegalOpcode core slot word => Sys2Proof.Machine.execIllegalOpcode core slot word s

end Sys2Proof.Machine
end

