-- ==== Sys2Proof/Machine/Tick.lean ====
section
/-! DEFINITION. One G-clock in which no command arrives: the time base counts by its addend (R260), and time passes for contexts and benches
(R354, R361), and ports with nothing to send fill their streams (R174). -/

namespace Sys2Proof.Machine

/-- The G-clock runs: the device converts with RESET_N high, or it is in the hold-up sequence (R260, R463, R500). -/
def clocked (s : State) : Bool := s.power.holdRun || (s.boot.converting && !s.boot.resetLow)

/-- Whole nanoseconds the next G-clock adds to the time base (R260). -/
def tickNs (s : State) : Nat := (s.clock.frac + rd s Reg.timeAddendAddend 0) / 2 ^ 32

/-- One G-clock. -/
def tick (s : State) : State :=
  if clocked s then
    let d := tickNs s
    let t := accrueBenches (refreshWaits (idlePorts s)) d
    { t with clock := { t.clock with ns := (s.clock.ns + d) % 2 ^ 64, frac := (s.clock.frac + rd s Reg.timeAddendAddend 0) % 2 ^ 32,
                                     g := s.clock.g + 1, up := s.clock.up + d, stepTo := if d = 0 then s.clock.stepTo else none,
                                     ppsLast := if d = 0 then s.clock.ppsLast else none } }
  else s

end Sys2Proof.Machine
end

