-- ==== Sys2Proof/WellFormed.lean ====
section
/-! DEFINITION. Well-formed commands: what the operands of a command from outside obey because of the form in which it arrives (a message's
field widths, a register access's alignment, a VF's number). The meanings are total and never rely on it. -/

namespace Sys2Proof

/-- Bytes of prefix before a message's data (R200). They are not counted in `len` (DESIGN CHOICE: a segment of 4,096 bytes and its prefix
would exceed the field's range). -/
def MsgKind.prefixBytes : MsgKind → Nat
  | .atomic => 16 | .reduce => 8 | .signal => 4 | _ => 0

/-- Data bytes that a message of a kind brings, beside the `len` bytes it stores or asks for (R200). -/
def MsgKind.carries : MsgKind → Bool
  | .read => false | .ack => false | .nak => false | _ => true

/-- The fields of a transaction message fit Table 07.8, and its data is as long as `len` says where the kind carries data. -/
def Msg.wf (m : Msg) : Bool :=
  m.hop < 4 && m.age < 64 && m.srcNode < 1024 && m.dstNode < 1024 && m.srcFn < 1024 && m.dstFn < 1024 && m.leg < 4 && m.seq < 2 ^ 32 &&
  m.ordPrev < 2 ^ 32 && m.srcInc < 2 ^ 16 && m.dstInc < 2 ^ 16 && m.job < 2 ^ 16 && m.srcEpoch < 256 && m.aux < 256 && m.addr < 2 ^ 48 &&
  m.len ≤ 4096 && m.data.length ≤ m.kind.prefixBytes + 4096 && (m.kind.carries || m.data.isEmpty) && m.via ≤ 16 && m.legFrom < 1024 &&
  m.legTo < 1024

/-- The fields of a COLL message fit Table 08.6. -/
def CollMsg.wf (c : CollMsg) : Bool :=
  c.msg.wf && c.msg.kind == .coll && c.seq < 2 ^ 32 && c.group < 64 && c.chunk < 2 ^ 32 && c.offset < 2 ^ 32 && c.check < 2 ^ 64 && c.hash < 2 ^ 64

/-- The fields of a capability block fit Table 07.3. -/
def CapBlock.wf (b : CapBlock) : Bool :=
  b.ver < 16 && b.genMin < 16 && b.genMax < 16 && b.node < 1024 && b.port < 16 && b.lanesOk < 256 && b.incarnation < 2 ^ 16 && b.detSignature < 2 ^ 64 &&
  b.tTx < 2 ^ 32 && b.tEcho < 2 ^ 32 && b.tHold < 2 ^ 32 && b.verG2 < 2 ^ 16 && b.verG3 < 2 ^ 16 && b.ansG2 < 2 ^ 16 && b.ansG3 < 2 ^ 16

/-- The fields of a management datagram fit Table 19.2. -/
def Datagram.wf (d : Datagram) : Bool :=
  d.magic < 2 ^ 32 && d.ver < 256 && d.node < 2 ^ 16 && d.deviceId < 2 ^ 64 && d.incarnation < 2 ^ 16 && d.port < 256 && d.cause < 256 &&
  d.seq < 2 ^ 32 && d.time < 2 ^ 64 && d.listVersion < 2 ^ 32 && d.ready < 2 ^ 32 && d.reserved < 2 ^ 192

/-- The nodes and version of a health list change (R483). -/
def HChange.wf (c : HChange) : Bool := c.version < 2 ^ 32 && c.origin < 1024 && c.node < 1024

/-- An evidence record's node, unit (a bench, or 64 more than an engine's number) and time (R481). -/
def Evidence.wf (e : Evidence) : Bool := e.node < 1024 && e.unit < 128 && e.time < 2 ^ 64

/-- A PDU's PRBs and symbols lie in a carrier's slot (Table 10.1). -/
def Pdu.wf (p : Pdu) : Bool := p.prbStart + p.prbCount ≤ 275 && p.symStart + p.symCount ≤ 14

/-- A frame's slot tag and PRBs: 24 mantissas each (R288). -/
def UFrame.wf (f : UFrame) : Bool :=
  f.sfn < 1024 && f.slot < 80 && f.symbol < 14 && f.eaxc < 2 ^ 16 && f.prbs.all (fun p => p.1 < 16 && p.2.length == 24)

/-- A loop cycle reads at most sixteen sensors and four tachometers (R467, R468). -/
def LoopIn.wf (r : LoopIn) : Bool := r.sensors.length ≤ 16 && r.rpm.length ≤ 4

/-- A comparator's group fits its fields (Table 09.6). -/
def TrigGroup.wf (g : TrigGroup) : Bool := g.compareNs < 2 ^ 64 && g.periodNs < 2 ^ 32 && g.action < 16 && g.target < 16

/-- A command is well formed. -/
def Instr.wf : Instr → Bool
  | .registerWrite _ addr wide d => addr.toNat % (if wide then 8 else 4) == 0 && (wide || d.toNat < 2 ^ 32)
  | .lowWordRead _ addr _ => addr.toNat % 4 == 0
  | .benchWindowAbsentAccess _ off _ => off.toNat % 4 == 0
  | .notClockedProxyAccess addr _ => addr.toNat % 4 == 0
  | .galleryShareWindow => true
  | .channelShareWindow => true
  | .refresh _ => true
  | .refreshTempRead _ _ _ _ => true
  | .sqTail _ _ _ => true
  | .queueEnable _ _ => true
  | .queueDisable _ _ => true
  | .queueConfigWrite _ _ _ _ => true
  | .stepStart _ _ => true
  | .commandRead _ _ => true
  | .stepCompletion _ _ => true
  | .tallyAdd _ _ _ => true
  | .tallySet _ _ _ => true
  | .slab _ => true
  | .map _ => true
  | .rowSum _ => true
  | .rowWideSum _ => true
  | .wideAdd _ => true
  | .rowMaxi _ => true
  | .rowMini _ => true
  | .mxQuant _ => true
  | .random _ => true
  | .discard _ => true
  | .skip _ => true
  | .get _ => true
  | .put _ => true
  | .atomic _ => true
  | .fabricReduce _ => true
  | .mcastPut _ => true
  | .signal _ => true
  | .fence _ => true
  | .msgSend _ => true
  | .tallySignal _ => true
  | .tallyCmdSet _ => true
  | .notify _ => true
  | .allReduce _ => true
  | .reduce _ => true
  | .reduceScatter _ => true
  | .broadcast _ => true
  | .allGather _ => true
  | .allToAll _ => true
  | .allGatherV _ => true
  | .allToAllV _ => true
  | .barrier _ => true
  | .commit _ => true
  | .frameZeroingDone _ => true
  | .collectiveCommit _ => true
  | .stageCopyDone _ => true
  | .joinTimeout _ => true
  | .triggerFire _ r => r.wf
  | .floorPlanPoint _ _ => true
  | .floorReservation _ => true
  | .wedgeHandover _ => true
  | .beyondFloorTake _ => true
  | .floorReturn _ => true
  | .quantumEnd _ => true
  | .graceEnd _ => true
  | .saveDone _ => true
  | .restoreDone _ => true
  | .starvationPoint _ _ => true
  | .eviction _ _ => true
  | .benchWake _ => true
  | .powerStateChoice _ => true
  | .blockedHoldExpiry _ => true
  | .idleDarkExpiry _ => true
  | .lotOwner _ _ _ => true
  | .releasingEnd _ => true
  | .clearingEnd _ => true
  | .memInval _ _ => true
  | .memInvalDone => true
  | .scrubRead _ => true
  | .bucketRefill => true
  | .cxlMemRead _ => true
  | .cxlMemWrite _ _ _ => true
  | .dataFlit _ _ _ _ _ errs => errs.length ≤ 2
  | .idleFlit _ _ _ _ errs => errs.length ≤ 2
  | .creditFlit _ _ _ _ _ _ errs => errs.length ≤ 2
  | .linkSilence _ => true
  | .retrainTimeout _ _ => true
  | .downRetry _ => true
  | .capabilityBlock _ block => block.wf
  | .lsa m => m.wf && m.kind == .lsa
  | .read m => m.wf && m.kind == .read
  | .readData m => m.wf && m.kind == .readData
  | .write m => m.wf && m.kind == .write
  | .atomicMessage m => m.wf && m.kind == .atomic
  | .atomicResult m => m.wf && m.kind == .atomicResult
  | .reduceMessage m => m.wf && m.kind == .reduce
  | .signalMessage m => m.wf && m.kind == .signal
  | .msg m => m.wf && m.kind == .msg
  | .ack m => m.wf && m.kind == .ack
  | .nak m => m.wf && m.kind == .nak
  | .desc m => m.wf
  | .count m => m.wf
  | .verdict m => m.wf
  | .data m => m.wf
  | .ackVerified m => m.wf
  | .refetch m => m.wf
  | .abort m => m.wf
  | .resendTimer _ => true
  | .messageLifetimeExpiry _ _ _ => true
  | .deadBound _ => true
  | .roundTimeout _ _ _ => true
  | .jeanoSAbort _ => true
  | .sAbortSettle => true
  | .meteringTick => true
  | .queueSample depths delays => depths.length ≤ 48 && delays.length ≤ 48
  | .jeanoSampleClear => true
  | .timeMessage _ => true
  | .referenceLoss => true
  | .referenceReturn => true
  | .timeAddend _ _ => true
  | .timeStep _ _ => true
  | .sync _ _ _ => true
  | .followUp _ _ _ => true
  | .delayReq _ _ => true
  | .delayResp _ _ _ => true
  | .announce _ _ _ => true
  | .announceTimeout => true
  | .esmc _ _ => true
  | .sourceLoss => true
  | .ppsLoss => true
  | .leaderLoss => true
  | .sourceReturn => true
  | .lockAchieved => true
  | .holdoverExpired => true
  | .timestampPush _ _ => true
  | .tsqId _ => true
  | .trigCommit _ group _ => group.all TrigGroup.wf
  | .captureEdge _ _ => true
  | .capPop _ => true
  | .ppsOut => true
  | .fapiReqTail _ _ => true
  | .paramRequest _ => true
  | .configRequest _ _ => true
  | .startRequest _ => true
  | .stopRequest _ => true
  | .dlTtiRequest _ _ _ _ pdus => pdus.all Pdu.wf
  | .ulTtiRequest _ _ _ _ pdus => pdus.all Pdu.wf
  | .ulDciRequest _ _ _ _ pdus => pdus.all Pdu.wf
  | .txDataRequest _ _ _ _ pdus => pdus.all Pdu.wf
  | .slotIndication _ _ _ => true
  | .uplinkUPlane _ frame => frame.wf
  | .receivedCPlane _ => true
  | .unknownFrame _ => true
  | .oneWayDelay _ _ => true
  | .arpRequest _ _ => true
  | .neighborSolicitation _ _ => true
  | .symbolRelease _ _ _ _ => true
  | .transmitWindowEnd _ _ _ _ => true
  | .receptionWindowClose _ _ _ _ => true
  | .decodeRelease _ _ _ => true
  | .indicationDeadline _ _ _ _ => true
  | .ldpcDec _ => true
  | .ldpcEnc _ => true
  | .polarDec _ => true
  | .polarEnc _ => true
  | .nop _ _ => true
  | .add _ _ _ _ _ _ => true
  | .sub _ _ _ _ _ _ => true
  | .and _ _ _ _ _ _ => true
  | .or _ _ _ _ _ _ => true
  | .xor _ _ _ _ _ _ => true
  | .shl _ _ _ _ _ _ => true
  | .shr _ _ _ _ _ _ => true
  | .shru _ _ _ _ _ _ => true
  | .min _ _ _ _ _ _ => true
  | .max _ _ _ _ _ _ => true
  | .slt _ _ _ _ _ _ => true
  | .sltu _ _ _ _ _ _ => true
  | .mul _ _ _ _ _ _ => true
  | .mulh _ _ _ _ _ _ => true
  | .addi _ _ _ _ _ => true
  | .andi _ _ _ _ _ => true
  | .ori _ _ _ _ _ => true
  | .xori _ _ _ _ _ => true
  | .shli _ _ _ _ _ => true
  | .shri _ _ _ _ _ => true
  | .shrui _ _ _ _ _ => true
  | .lui _ _ _ _ => true
  | .b _ _ _ => true
  | .beqz _ _ _ _ => true
  | .bnez _ _ _ _ => true
  | .bltz _ _ _ _ => true
  | .bgez _ _ _ _ => true
  | .bgtz _ _ _ _ => true
  | .blez _ _ _ _ => true
  | .call _ _ _ => true
  | .jr _ _ _ => true
  | .rti _ _ => true
  | .loop _ _ _ _ _ => true
  | .loopi _ _ _ _ _ => true
  | .mfs _ _ _ _ => true
  | .mts _ _ _ _ => true
  | .postSieve _ _ _ _ => true
  | .postRadioCmd _ _ _ _ => true
  | .postMbox _ _ _ _ => true
  | .postFhTx _ _ _ _ => true
  | .postFapiInd _ _ _ _ => true
  | .portQueueEntryFreed _ => true
  | .wait _ _ _ => true
  | .waitEnd _ => true
  | .evset _ _ => true
  | .ld16 _ _ _ _ _ _ _ => true
  | .ld32 _ _ _ _ _ _ _ => true
  | .ldv _ _ _ _ _ _ _ => true
  | .ldbc _ _ _ _ _ _ _ => true
  | .st16 _ _ _ _ _ _ _ => true
  | .st32 _ _ _ _ _ _ _ => true
  | .stv _ _ _ _ _ _ _ => true
  | .mova _ _ _ _ => true
  | .adda _ _ _ _ => true
  | .mfa _ _ _ _ => true
  | .vadd _ _ _ _ _ _ => true
  | .vsub _ _ _ _ _ _ => true
  | .vand _ _ _ _ _ => true
  | .vor _ _ _ _ _ => true
  | .vxor _ _ _ _ _ => true
  | .vshl _ _ _ _ _ _ => true
  | .vshr _ _ _ _ _ _ => true
  | .vmax _ _ _ _ _ => true
  | .vmin _ _ _ _ _ => true
  | .vabs _ _ _ _ _ => true
  | .vneg _ _ _ _ _ => true
  | .vaddw _ _ _ _ _ _ => true
  | .vsubw _ _ _ _ _ _ => true
  | .vmul _ _ _ _ _ _ _ => true
  | .vmac _ _ _ _ _ _ _ => true
  | .vmacw _ _ _ _ _ _ _ => true
  | .vcmul _ _ _ _ _ _ _ _ => true
  | .vcmac _ _ _ _ _ _ _ _ => true
  | .vcmacw _ _ _ _ _ _ _ _ => true
  | .vmov _ _ _ _ => true
  | .vbcast _ _ _ _ => true
  | .vperm _ _ _ _ _ => true
  | .vnrw _ _ _ _ _ _ => true
  | .vzero _ _ _ => true
  | .interruptEntry _ => true
  | .tcmp _ => true
  | .completionEntry _ => true
  | .watchdog _ => true
  | .coreRestart _ => true
  | .l1ImageLoad _ => true
  | .roeRxPacket _ _ _ _ _ => true
  | .txPacket _ _ _ _ => true
  | .rxSymbol _ _ _ _ => true
  | .maskBlock _ _ => true
  | .unmute _ => true
  | .chirpDetect _ _ _ => true
  | .packetEnd _ sf pkt _ => pkt.syms.all (fun b => b.length == 2 ^ sf.toNat)
  | .noiseFloor _ _ => true
  | .chirpTxRingRead _ => true
  | .chirpTxDone _ _ => true
  | .numVfs _ => true
  | .stop fn => fn != 0
  | .stopClear fn => fn != 0
  | .quiesced fn => fn != 0
  | .reset fn => fn != 0
  | .forceReset fn => fn != 0
  | .flr fn => fn != 0
  | .forcedResetDone fn => fn != 0
  | .freeze fn => fn != 0
  | .frozen fn => fn != 0
  | .resume fn => fn != 0
  | .saveLive => true
  | .saveFinal => true
  | .restore => true
  | .migrationComplete => true
  | .tenantSample => true
  | .tenSampleClear => true
  | .mrExtend => true
  | .attest => true
  | .attestationReport => true
  | .keyDelivery => true
  | .keyInstall => true
  | .debugChallenge => true
  | .debugToken => true
  | .svnCommit _ _ _ _ => true
  | .resetNAssert => true
  | .resetNRelease => true
  | .firmwareVerify => true
  | .identityDerive => true
  | .gradeRecordVerify _ => true
  | .imageVerify _ _ => true
  | .functionReady _ _ _ => true
  | .surveyMeasurement _ => true
  | .coolingStep _ _ _ => true
  | .configurationLock _ => true
  | .cfgCommit => true
  | .stagedApply _ _ => true
  | .nvmRead => true
  | .nvmErase => true
  | .nvmProgram => true
  | .readyNext _ _ _ _ => true
  | .readyRestart _ => true
  | .persistentRecordWrite _ _ => true
  | .conversionStart => true
  | .inputLoss _ => true
  | .holdupDischarge => true
  | .holdReady _ => true
  | .powerMeasure _ _ cables => cables.length ≤ 16
  | .paceUpdate _ => true
  | .ladderRequest => true
  | .trip _ => true
  | .pwmWatchdog => true
  | .cableFaultTrip _ => true
  | .cableRetry _ => true
  | .cableProbe _ _ => true
  | .cableClear _ _ => true
  | .bandHold => true
  | .bandStop => true
  | .bandEnd => true
  | .heartbeatPeriod => true
  | .heartbeat _ d => d.wf
  | .lossDatagram _ d => d.wf
  | .tripDatagram _ d => d.wf
  | .restarted _ d => d.wf
  | .livenessTimeout _ _ => true
  | .expel _ => true
  | .dead _ => true
  | .watch _ => true
  | .remove _ => true
  | .listChange c => c.wf
  | .evidence _ => true
  | .evidenceRecord e => e.wf
  | .evidenceExpiry => true
  | .scoreDecay => true
  | .shadowCompare _ _ _ _ => true
  | .shadowTimeout _ => true
  | .provingRun _ _ _ _ => true
  | .provingResult _ _ _ _ => true
  | .provingPeriod => true
  | .sweep => true
  | .quarantineRelease _ => true
  | .ethernetLinkState _ _ => true
  | .pllLockLoss _ => true
  | .ptpMessageInterval _ _ => true
  | .memberLostTimeout _ _ => true
  | .wakeComplete _ => true
  | .illegalOpcode _ _ _ => true

end Sys2Proof
end

