-- ==== Sys2Proof/Safety.lean ====
section
/-! DEFINITION. The terms that claims use: an outcome with a property, what a command leaves unchanged, the canonical form of the
memories, and safe steps and runs. -/

namespace Sys2Proof.Machine

/-- A command runs on a state and answers a next state with a property. -/
def Gives (i : Instr) (s : State) (P : State → Prop) : Prop := ∃ t, exec i s = .next t ∧ P t

/-- An outcome is a next state. -/
def Completes (o : Ans) : Prop := ∃ t, o = .next t

/-- A step is safe when it answers a next state: no fault and no refusal. -/
def SafeStep (s : State) : Prop := Completes (step s)

/-- A run of n steps never stops with a fault or a refusal. -/
def SafeRun (n : Nat) (s : State) : Prop := ∃ t, Host.Core.run { State := State, Fault := Fault, Refusal := Refusal, step := step, reset := State.reset } n s = .next t

/-- Every command that waits is well formed. -/
def QueueWf (s : State) : Bool := s.pending.all Instr.wf

/-! ### What stays -/

/-- The parts of the state, one for each field of State. -/
inductive Part where
  | regs | live | mem | host | work | yards | fab | crush | ten | clock | cores | images | radio | net | tdfe | cfg | sec | boot | power
  | health | out | free | pending
  deriving DecidableEq, Repr

/-- A part holds the same in two states. -/
def Same (s t : State) : Part → Prop
  | .regs => t.regs = s.regs
  | .live => t.live = s.live
  | .mem => t.mem = s.mem
  | .host => t.host = s.host
  | .work => t.work = s.work
  | .yards => t.yards = s.yards
  | .fab => t.fab = s.fab
  | .crush => t.crush = s.crush
  | .ten => t.ten = s.ten
  | .clock => t.clock = s.clock
  | .cores => t.cores = s.cores
  | .images => t.images = s.images
  | .radio => t.radio = s.radio
  | .net => t.net = s.net
  | .tdfe => t.tdfe = s.tdfe
  | .cfg => t.cfg = s.cfg
  | .sec => t.sec = s.sec
  | .boot => t.boot = s.boot
  | .power => t.power = s.power
  | .health => t.health = s.health
  | .out => t.out = s.out
  | .free => t.free = s.free
  | .pending => t.pending = s.pending

/-- Between two states only the listed parts may differ. -/
def OnlyParts (w : List Part) (s t : State) : Prop := ∀ p, p ∉ w → Same s t p

/-- Between two states every register field but the listed field instances holds the same value. -/
def OnlyRegs (ks : List (Fld × Nat)) (s t : State) : Prop :=
  ∀ f i, (∀ k ∈ ks, fldKey f i ≠ fldKey k.1 k.2) → rd t f i = rd s f i

/-- Every queue block but the listed ones (keys 64 × function + queue) is as before. -/
def SameQueues (ks : List Nat) (s t : State) : Prop := ∀ j, j ∉ ks → getQ t j = getQ s j

/-- Every step in flight but those of the listed queues is as before. -/
def SameSteps (ks : List Nat) (s t : State) : Prop := ∀ j, j ∉ ks → getStep t j = getStep s j

/-- Every command but the listed ones is as before. -/
def SameCmds (ks : List Nat) (s t : State) : Prop := ∀ j, j ∉ ks → getCmd t j = getCmd s j

/-- Every tally but the listed ones (keys 1024 × function + tally) is as before. -/
def SameTallies (ks : List Nat) (s t : State) : Prop := ∀ j, j ∉ ks → mapGet t.work.tallies j 0 = mapGet s.work.tallies j 0

/-- Every bench but the listed ones is as before. -/
def SameBenches (ks : List Nat) (s t : State) : Prop := ∀ j, j ∉ ks → getBench t j = getBench s j

/-- Every context but the listed ones (keys 32 × function + context) is as before. -/
def SameCtxs (ks : List Nat) (s t : State) : Prop := ∀ j, j ∉ ks → getCtx t j = getCtx s j

/-- Every Chisel core but the listed ones is as before. -/
def SameCores (ks : List Nat) (s t : State) : Prop := ∀ j, j ∉ ks → getCore t j = getCore s j

/-- In the queue and command store only the listed queue blocks differ. -/
def OnlyQueues (ks : List Nat) (s t : State) : Prop := t.work = { s.work with queues := t.work.queues } ∧ SameQueues ks s t

/-- In the queue and command store only the listed commands differ. -/
def OnlyCmds (ks : List Nat) (s t : State) : Prop := t.work = { s.work with cmds := t.work.cmds } ∧ SameCmds ks s t

/-- Of the benches and contexts only the listed benches differ. -/
def OnlyBenches (ks : List Nat) (s t : State) : Prop := t.yards = { s.yards with benches := t.yards.benches } ∧ SameBenches ks s t

/-- Every byte of device DRAM from an address on, for a length, may differ; every other byte reads as before. -/
def OnlyBytes (a n : Nat) (s t : State) : Prop := ∀ x, ¬ (a ≤ x ∧ x < a + n) → memByte t.mem x = memByte s.mem x

/-- The lines at both ends of a physical range hold nothing, or were stored under the key pair that writes them now: writing the range leaves
the rest of those lines as it is (R149, R158). -/
def keyKept (s : State) (pa n : Nat) : Bool :=
  [pa / 64, (pa + n - 1) / 64].all (fun l => (mapFind s.mem.stored l).getD (lineKey s l) == lineKey s l)

/-- The fields of a bench's window that show its context, frames and chains (Table 04.7), of one bench. -/
def benchShown (b : Nat) : List (Fld × Nat) :=
  [(Reg.benchStateOwner, b), (Reg.benchYardSpacePages, b), (Reg.benchYardMapped, b), (Reg.benchYardShadows, b), (Reg.benchYardFree, b),
   (Reg.benchLive0Chain0, b), (Reg.benchLive0Chain1, b), (Reg.benchLive1EW0, b), (Reg.benchLive1EW1, b), (Reg.benchLive1Kind0, b),
   (Reg.benchLive1Kind1, b)]

/-! ### Commands of the benches -/

/-- A dispatched bench command executes at its row's next command: its bench runs, it holds the shadow frames it needs, and no earlier
command of its Yard space may still write a page it reads (R83, R85). -/
def Executes (s : State) (cid : Nat) (c : Cmd) : Bool :=
  getCmd s cid == some c && c.st == .dispatched && (benchRuns s c).isSome && c.held && !readBlocked s (cmdCtx c) cid c

/-- Between two states a bench command has executed and staged what it writes as `e`: its command differs, the window of its bench shows
it, the listed further registers and parts may differ, and nothing else does. -/
def StagedAs (s t : State) (cid : Nat) (e : Cmd) (more : List (Fld × Nat)) (parts : List Part) : Prop :=
  getCmd t cid = some e ∧ OnlyCmds [cid] s t ∧ OnlyRegs (benchShown e.bench ++ more) s t ∧ OnlyParts ([.regs, .work] ++ parts) s t

/-- A fabric message that this device takes for the first time: it is for this node and comes from another, passes its check, came over a
link or in a datagram that is in order, names the incarnations known, falls in its window, was not applied before, and is of the function's
job. A message of class S, or one of a member that is not expelled, has no other condition. -/
def TakenNow (s : State) (w : Msg) : Bool :=
  let d := (w.seq + 2 ^ 32 - mapGet s.fab.winLow (winKey w) 0 % 2 ^ 32) % 2 ^ 32
  w.dstNode == ownNode s && w.srcNode != ownNode s && w.check == msgCheck w && (16 ≤ w.via || !isEth s w.via || w.udpOk) &&
    w.dstInc == ownInc s && mapFind s.fab.seenInc w.srcNode == some w.srcInc && (w.cls == .s || !spoiled s w.srcNode) &&
    decide (d < 4096) && !isApplied s (winKey w) w.seq && jobOk s w

/-- A COLL message that this device applies to a collective in flight, as from a rank of it. -/
def CollArrives (s : State) (m : CollMsg) (cid : Nat) (k : Coll) (c : Cmd) (i : Nat) : Bool :=
  TakenNow s { m.msg with kind := .coll } && collFor s m == some (cid, k) && getColl s cid == some k && getCmd s cid == some c &&
    k.rankOf m == some i && s.crush.lost == []

/-- A fabric request of a kind that this device applies at once: its function's number is one the device has and is not frozen, its turn has
come, its function's bucket has its tokens, and no message is held behind it. -/
def RequestArrives (s : State) (kind : MsgKind) (m : Msg) : Bool :=
  let w := { m with kind := kind }
  TakenNow s w && decide (w.dstFn ≤ 512) && (w.dstFn == 0 || vfState s w.dstFn ≤ 4) && inTurn s w && mayServe s w && s.fab.held == []

/-- A fabric answer of a kind that this device takes for an unsettled message of its own, the only one: it is for this node, passes its
check, is of the incarnation held for its source, and names the message. -/
def AnswerArrives (s : State) (kind : MsgKind) (m : Msg) (mid : Nat) (u : Unacked) : Bool :=
  let w := { m with kind := kind }
  w.dstNode == ownNode s && w.check == msgCheck w && (16 ≤ w.via || !isEth s w.via || w.udpOk) && w.srcInc == heldInc s w.srcNode && s.fab.unacked == [(mid, u)] && u.sent &&
    u.msg.dstNode == w.srcNode && u.msg.cls == w.cls && u.msg.seq == w.seq && s.crush.lost == []

/-- The parts of the state that a command of each row may change; every other part it leaves as it is. -/
def mayChange : Instr → List Part
  | .registerWrite .. =>
      [.regs, .live, .work, .ten, .clock, .out]
  | .lowWordRead .. | .referenceLoss =>
      [.regs, .ten, .clock, .out]
  | .benchWindowAbsentAccess .. | .esmc .. | .oneWayDelay .. =>
      [.regs, .out]
  | .notClockedProxyAccess .. =>
      [.regs, .live, .work, .clock, .out]
  | .galleryShareWindow | .channelShareWindow | .refresh .. =>
      [.mem]
  | .refreshTempRead .. | .lotOwner .. | .memInvalDone | .jeanoSAbort .. | .queueSample .. | .jeanoSampleClear | .timeAddend ..
  | .holdoverExpired | .receivedCPlane .. | .unknownFrame .. | .unmute .. | .noiseFloor .. | .stop .. | .stopClear .. | .quiesced ..
  | .resume .. | .tenantSample | .tenSampleClear | .mrExtend | .gradeRecordVerify .. | .holdReady .. | .pwmWatchdog | .cableRetry .. =>
      [.regs]
  | .sqTail .. | .queueEnable .. | .queueConfigWrite .. | .shadowTimeout .. =>
      [.regs, .work]
  | .queueDisable .. | .tallyAdd .. | .tallySet .. | .collectiveCommit .. =>
      [.work]
  | .stepStart .. =>
      [.regs, .mem, .host, .work, .ten, .boot, .out]
  | .commandRead .. | .restoreDone .. | .restore =>
      [.regs, .mem, .work, .yards, .ten, .cores, .boot, .out]
  | .stepCompletion .. =>
      [.regs, .mem, .host, .work, .yards, .ten, .cores, .boot, .out]
  | .slab .. | .map .. | .rowSum .. | .rowWideSum .. | .wideAdd .. | .rowMaxi .. | .rowMini .. | .mxQuant .. | .random .. | .discard .. =>
      [.regs, .work, .yards, .cores, .free]
  | .skip .. =>
      [.regs, .mem, .host, .work, .yards, .fab, .ten, .cores, .boot, .out, .free]
  | .get .. | .put .. | .atomic .. | .fabricReduce .. | .mcastPut .. | .signal .. | .fence .. | .msgSend .. | .allReduce .. | .reduce ..
  | .reduceScatter .. | .broadcast .. | .allGather .. | .allToAll .. | .allGatherV .. | .allToAllV .. | .barrier .. | .commit ..
  | .joinTimeout .. | .dataFlit .. | .idleFlit .. | .creditFlit .. | .linkSilence .. | .retrainTimeout .. | .downRetry ..
  | .capabilityBlock .. | .lsa .. | .read .. | .readData .. | .write .. | .atomicMessage .. | .atomicResult .. | .reduceMessage ..
  | .signalMessage .. | .msg .. | .ack .. | .nak .. | .desc .. | .count .. | .verdict .. | .data .. | .ackVerified .. | .refetch ..
  | .abort .. | .resendTimer .. | .deadBound .. | .roundTimeout .. | .sAbortSettle | .forceReset .. | .flr .. | .ethernetLinkState ..
  | .memberLostTimeout .. =>
      [.regs, .mem, .work, .yards, .fab, .crush, .ten, .cores, .boot, .out, .free]
  | .tallySignal .. | .tallyCmdSet .. | .notify .. =>
      [.regs, .work, .yards, .ten, .cores, .out]
  | .frameZeroingDone .. | .wedgeHandover .. | .benchWake .. | .blockedHoldExpiry .. | .wakeComplete .. =>
      [.regs, .yards]
  | .stageCopyDone .. =>
      [.regs, .mem, .work, .yards, .crush, .ten, .cores, .boot, .out]
  | .triggerFire .. =>
      [.regs, .live, .yards, .ten, .clock, .cores, .power, .health, .out, .free]
  | .floorPlanPoint .. | .quantumEnd .. | .starvationPoint .. | .powerStateChoice .. | .idleDarkExpiry .. | .freeze .. | .frozen .. =>
      [.regs, .yards, .health]
  | .floorReservation .. | .beyondFloorTake .. | .floorReturn .. | .eviction .. =>
      [.regs, .mem, .work, .yards, .fab, .health]
  | .graceEnd .. =>
      [.regs, .mem, .work, .yards, .fab]
  | .saveDone .. =>
      [.regs, .mem, .yards, .ten]
  | .releasingEnd .. | .clearingEnd .. | .memInval .. =>
      [.regs, .mem]
  | .scrubRead .. | .cxlMemRead .. | .cxlMemWrite .. =>
      [.regs, .mem, .ten, .boot, .out]
  | .bucketRefill =>
      [.regs, .live, .mem, .work, .yards, .fab, .crush, .ten, .cores, .cfg, .boot, .out, .free]
  | .messageLifetimeExpiry .. =>
      [.regs, .fab]
  | .meteringTick =>
      [.regs, .live, .fab, .ten, .cfg, .out]
  | .timeMessage .. =>
      [.regs, .clock, .out, .free]
  | .referenceReturn | .timeStep .. | .announceTimeout | .sourceLoss | .ppsLoss | .leaderLoss | .sourceReturn | .lockAchieved
  | .timestampPush .. =>
      [.regs, .clock]
  | .sync .. | .followUp .. | .announce .. =>
      [.clock]
  | .delayReq .. | .arpRequest .. | .neighborSolicitation .. =>
      [.out]
  | .delayResp .. | .captureEdge .. =>
      [.regs, .clock, .free]
  | .tsqId .. | .capPop .. =>
      [.regs, .clock, .out]
  | .trigCommit .. =>
      [.regs, .live, .clock]
  | .ppsOut | .ptpMessageInterval .. =>
      [.clock, .out]
  | .fapiReqTail .. | .transmitWindowEnd .. | .txPacket .. =>
      [.regs, .host, .ten, .cores, .radio, .out]
  | .paramRequest .. | .configRequest .. | .startRequest .. | .stopRequest .. | .slotIndication .. =>
      [.regs, .host, .ten, .radio, .out]
  | .dlTtiRequest .. | .ulTtiRequest .. | .ulDciRequest .. | .txDataRequest .. =>
      [.regs, .host, .work, .ten, .radio, .out]
  | .uplinkUPlane .. | .decodeRelease .. | .indicationDeadline .. =>
      [.regs, .radio]
  | .symbolRelease .. =>
      [.regs, .mem, .host, .ten, .radio, .boot, .out]
  | .receptionWindowClose .. | .waitEnd .. | .tcmp .. | .coreRestart .. =>
      [.regs, .cores]
  | .ldpcDec .. | .ldpcEnc .. | .polarDec .. | .polarEnc .. =>
      [.regs, .mem, .host, .ten, .cores, .radio, .boot, .out]
  | .nop .. | .add .. | .sub .. | .and .. | .or .. | .xor .. | .min .. | .max .. | .slt .. | .sltu .. | .mul .. | .mulh .. | .addi ..
  | .andi .. | .ori .. | .xori .. | .lui .. | .b .. | .beqz .. | .bnez .. | .bltz .. | .bgez .. | .bgtz .. | .blez .. | .call .. | .jr ..
  | .rti .. | .loop .. | .loopi .. | .mfs .. | .mts .. | .wait .. | .evset .. | .ld16 .. | .ld32 .. | .ldv .. | .ldbc .. | .st16 ..
  | .st32 .. | .stv .. | .mova .. | .adda .. | .mfa .. | .vadd .. | .vsub .. | .vand .. | .vor .. | .vxor .. | .vshl .. | .vshr ..
  | .vmax .. | .vmin .. | .vabs .. | .vneg .. | .vaddw .. | .vsubw .. | .vmul .. | .vmac .. | .vmacw .. | .vcmul .. | .vcmac ..
  | .vcmacw .. | .vmov .. | .vbcast .. | .vperm .. | .vnrw .. | .vzero .. | .interruptEntry .. | .watchdog .. | .illegalOpcode .. =>
      [.regs, .work, .ten, .cores, .radio, .out]
  | .shl .. | .shr .. | .shru .. | .shli .. | .shri .. | .shrui .. =>
      [.regs, .work, .ten, .cores, .radio, .out, .free]
  | .postSieve .. | .postRadioCmd .. | .postMbox .. | .postFhTx .. | .postFapiInd .. | .portQueueEntryFreed .. | .completionEntry .. =>
      [.regs, .mem, .host, .work, .ten, .cores, .radio, .boot, .out]
  | .l1ImageLoad .. =>
      [.regs, .cores, .images]
  | .roeRxPacket .. | .chirpDetect .. =>
      [.regs, .tdfe]
  | .rxSymbol .. =>
      [.regs, .cores, .radio, .free]
  | .maskBlock .. =>
      [.regs, .live, .ten, .cores, .tdfe, .cfg, .out]
  | .packetEnd .. =>
      [.regs, .mem, .ten, .cores, .tdfe, .boot, .out]
  | .chirpTxRingRead .. =>
      [.regs, .mem, .host, .ten, .cores, .radio, .tdfe, .boot, .out]
  | .chirpTxDone .. =>
      [.regs, .cores, .tdfe]
  | .numVfs .. | .configurationLock .. =>
      [.regs, .live, .mem, .work, .yards, .fab, .crush, .ten, .cores, .boot, .out, .free]
  | .reset .. =>
      [.regs, .work, .yards, .ten]
  | .forcedResetDone .. =>
      [.regs, .mem, .work, .yards, .fab, .ten, .free]
  | .saveLive =>
      [.regs, .mem, .host, .ten, .boot, .out, .free]
  | .saveFinal =>
      [.regs, .mem, .host, .ten, .boot, .out]
  | .migrationComplete =>
      [.regs, .ten]
  | .attest | .identityDerive =>
      [.regs, .sec]
  | .attestationReport =>
      [.regs, .mem, .ten, .sec, .free]
  | .keyDelivery | .debugToken =>
      [.regs, .mem, .ten, .sec, .boot, .out]
  | .keyInstall =>
      [.regs, .mem, .sec]
  | .debugChallenge =>
      [.regs, .sec, .free]
  | .svnCommit .. | .readyNext .. | .persistentRecordWrite .. =>
      [.regs, .ten, .boot, .out]
  | .resetNAssert =>
      [.regs, .live, .mem, .work, .yards, .fab, .crush, .ten, .clock, .cores, .images, .radio, .net, .tdfe, .cfg, .sec, .boot, .power, .health]
  | .resetNRelease | .readyRestart .. | .conversionStart | .holdupDischarge =>
      [.regs, .live, .mem, .work, .yards, .fab, .crush, .ten, .clock, .cores, .images, .radio, .net, .tdfe, .cfg, .sec, .boot, .power, .health, .free]
  | .firmwareVerify =>
      [.regs, .mem, .boot, .health]
  | .imageVerify .. =>
      [.regs, .live, .yards, .ten, .clock, .radio, .net, .tdfe, .cfg, .boot, .power, .out]
  | .functionReady .. =>
      [.regs, .mem, .yards, .boot, .health, .out]
  | .surveyMeasurement .. | .coolingStep .. | .nvmErase | .nvmProgram =>
      [.regs, .boot]
  | .cfgCommit =>
      [.regs, .live, .cfg]
  | .stagedApply .. =>
      [.regs, .live, .yards, .ten, .cfg, .health, .out]
  | .nvmRead =>
      [.regs, .mem, .ten]
  | .inputLoss .. =>
      [.regs, .mem, .work, .yards, .fab, .crush, .ten, .cores, .radio, .tdfe, .cfg, .boot, .power, .health, .out, .free]
  | .powerMeasure .. | .paceUpdate .. | .ladderRequest | .bandHold | .bandStop | .bandEnd =>
      [.regs, .power]
  | .trip .. =>
      [.regs, .mem, .work, .yards, .fab, .crush, .ten, .cores, .radio, .tdfe, .cfg, .boot, .health, .out]
  | .cableFaultTrip .. =>
      [.regs, .ten, .power, .out]
  | .cableProbe .. | .cableClear .. | .livenessTimeout .. | .pllLockLoss .. =>
      [.regs, .ten, .out]
  | .heartbeatPeriod =>
      [.health, .out]
  | .heartbeat .. | .lossDatagram .. | .tripDatagram .. | .restarted .. | .expel .. | .dead .. | .watch .. | .remove .. | .listChange .. =>
      [.regs, .mem, .work, .yards, .fab, .crush, .ten, .cores, .boot, .health, .out, .free]
  | .evidence .. | .evidenceRecord .. =>
      [.regs, .ten, .boot, .health, .out]
  | .evidenceExpiry | .scoreDecay | .provingPeriod | .sweep =>
      [.regs, .health]
  | .shadowCompare .. =>
      [.regs, .mem, .work, .yards, .fab, .ten, .cores, .boot, .health, .out, .free]
  | .provingRun .. =>
      [.health]
  | .provingResult .. =>
      [.regs, .yards, .ten, .boot, .health, .out]
  | .quarantineRelease .. =>
      [.regs, .boot, .health]

/-! ### Canonical memories -/

/-- Numbers rise strictly. -/
def rising : List Nat → Bool
  | [] => true
  | a :: l => l.all (fun b => decide (a < b)) && rising l

/-- A sparse map in canonical form: keys strictly rising, and no entry equal to what an unlisted key reads as. -/
def canonical {α : Type} [DecidableEq α] (d : α) (m : SMap α) : Bool := rising (m.map (·.1)) && m.all (fun e => decide (e.2 ≠ d))

/-- The canonical form of a byte memory whose unlisted bytes read 0. -/
def Memory.wf (m : List Host.Cell) : Bool := canonical (0 : Byte) m

/-- The memories of the block are in canonical form: device DRAM, host memory, the NVM (whose unlisted bytes read 0xFF), and the keys of
the registers rise. -/
def Inv (s : State) : Prop :=
  Memory.wf s.mem.dram = true ∧ Memory.wf s.host.bytes = true ∧ canonical (0xFF : Byte) s.boot.nvm = true ∧ rising (s.regs.map (·.1)) = true

/-- Every command the device holds acts for PF0 or one of the 512 functions a VF number can name. -/
def FnsOk (s : State) : Prop := ∀ e ∈ s.work.cmds, e.2.owner.fn ≤ 512

end Sys2Proof.Machine
end

