-- ==== Sys2Proof/Certificates/Slice0/Obligations.lean ====
section
/-! DEFINITION. The statements about the block that the provers settle. -/

section

open Sys2Proof Sys2Proof.Machine

/-- A step of a state with a command at the front of its queue is exec of that command on the state with the queue's rest: every
statement about exec reaches a run through this one. -/
def Obligations.StepRunsFrontCommand : Prop :=
  ∀ (c : Instr) (rest : List Instr) (s : State), step { s with pending := c :: rest } = exec c { s with pending := rest }

/-- On an empty queue a step lets one G-clock pass, the model's choice of log entry 1: while the device is clocked, the time base adds
its addend in 2^-32 ns (R260), the count of G-clocks rises by one, and nothing but the time base, the benches' times, their
registers and the idle flits of ports with nothing to send (R174) changes; while it is not, nothing changes. -/
def Obligations.EmptyQueuePassesOneGClock : Prop :=
  ∀ s : State, s.pending = [] →
    (clocked s = false → step s = .next s) ∧
    (clocked s = true → ∃ t, step s = .next t ∧
      t.clock.ns = (s.clock.ns + (s.clock.frac + rd s Reg.timeAddendAddend 0) / 2 ^ 32) % 2 ^ 64 ∧
      t.clock.frac = (s.clock.frac + rd s Reg.timeAddendAddend 0) % 2 ^ 32 ∧ t.clock.g = s.clock.g + 1 ∧
      OnlyParts [.regs, .yards, .fab, .clock, .out] s t)

/-- Every command of the table, with any operands, in every state, answers a next state, and the commands that wait behind it stay as
they are: failures are statuses, discards and log entries of the next state (R147), never a stop. -/
def Obligations.EveryCommandCompletes : Prop :=
  ∀ (c : Instr) (s : State), Gives c s (fun t => t.pending = s.pending)

/-- From every state, a run of any number of steps answers a next state. -/
def Obligations.EveryRunGoesOn : Prop := ∀ (n : Nat) (s : State), SafeRun n s

/-- The frame of all 344 commands: from every state, a command's next state differs from the state before only in the parts that
mayChange lists for its row. So, for example, no command but those that start, stop or reset the device touches the NVM or the boot
state, no data command touches the time base, and no command of another block touches the Chisel cores' images. -/
def Obligations.CommandsKeepToTheirParts : Prop :=
  ∀ (c : Instr) (s t : State), exec c s = .next t → OnlyParts (mayChange c) s t

/-- The state after reset meets the invariant Inv of the memories and the register file, and the invariant FnsOk of the commands. -/
def Obligations.ResetMeetsInvariant : Prop := Inv State.reset ∧ FnsOk State.reset

/-- From every state whose memories are in canonical form (addresses strictly rising, no entry equal to what an unlisted address reads
as) and whose register keys rise, a step leads only to such states: every store, clear, erase and register write keeps the form, whatever
command runs. -/
def Obligations.StepKeepsInvariant : Prop :=
  ∀ s t : State, Inv s → step s = .next t → Inv t

/-- From every state whose commands all act for PF0 or a function number up to 512, a step leads only to such states: commands come from the queue
blocks of those functions or from radio, and no kill, requeue, reset, restore or completion changes whom a command acts for. -/
def Obligations.StepKeepsCommandFunctions : Prop :=
  ∀ s t : State, FnsOk s → step s = .next t → FnsOk t

/-- A write of any data answers a next state. 32-bit PF0 writes, register by register: HEALTH_IRQ (RW) takes the written vector and enable; each bit of
HEALTH_CAUSE (RW1C) clears where a 1 is written and stays elsewhere; ARCH_VER (RO) keeps everything; MEM_RSV.mgr_lots (RWL) takes a value of 1 to 64 before
configuration lock, and after it keeps its value and is logged with PERMISSION; a 64-bit write of comparator 50's
compare_ns (staged) takes all 64 bits into the staging copy and none into the committed one. At any address, a register PF0 does not reach before IMAGE is READY is discarded and logged
with NOT_READY; one behind a stopped clock or of an absent bench is discarded and logged with NOT_CLOCKED or NO_UNIT; a write of a VF that does not exist
changes nothing; a VF's write of CQ_HEAD sets its own queue's. Every other register field, and every other part of the state, stays. -/
def Obligations.RegisterWritesFollowAccessCodes : Prop :=
  ∀ (s : State) (d : BitVec 64) (fn : Fin 513) (a : BitVec 32) (w : Bool) (g : Fin 513) (q : Fin 64),
    let off := a.toNat / (if w then 8 else 4) * (if w then 8 else 4)
    (reachable s 0xF00004 = true → rd s Reg.healthIrqVector 0 < 64 → rd s Reg.healthIrqEnable 0 ≤ 1 → s.clock.trigNext = [] →
      Gives (.registerWrite 0 0xF00004 false d) s (fun t =>
      rd t Reg.healthIrqVector 0 = d.toNat % 64 ∧ rd t Reg.healthIrqEnable 0 = d.toNat / 64 % 2 ∧
      OnlyParts [.regs] s t ∧ OnlyRegs [(Reg.healthIrqVector, 0), (Reg.healthIrqEnable, 0)] s t)) ∧
    (reachable s 0xF00000 = true → s.clock.trigNext = [] → Gives (.registerWrite 0 0xF00000 false d) s (fun t =>
      (rd s Reg.healthCauseFault 0 ≤ 1 → rd t Reg.healthCauseFault 0 = if d.toNat % 2 = 1 then 0 else rd s Reg.healthCauseFault 0) ∧
      (rd s Reg.healthCauseRadio 0 ≤ 1 → rd t Reg.healthCauseRadio 0 = if d.toNat / 512 % 2 = 1 then 0 else rd s Reg.healthCauseRadio 0) ∧
      (rd s Reg.healthCauseRecord 0 ≤ 1 → rd t Reg.healthCauseRecord 0 = if d.toNat / 4096 % 2 = 1 then 0 else rd s Reg.healthCauseRecord 0) ∧
      OnlyParts [.regs] s t)) ∧
    (s.clock.trigNext = [] → Gives (.registerWrite 0 0 false d) s (fun t => t = s)) ∧
    (reachable s 0x400004 = true → rdB s Reg.readySummaryLocked 0 = true → s.clock.trigNext = [] →
      Gives (.registerWrite 0 0x400004 false d) s (fun t => t = logErr s 0 .permission 0 0 0x400004)) ∧
    (reachable s 0x400004 = true → rdB s Reg.readySummaryLocked 0 = false → s.clock.trigNext = [] → rd s Reg.memRsvMgrLots 0 < 512 → 1 ≤ d.toNat / 2 ^ 18 % 512 → d.toNat / 2 ^ 18 % 512 ≤ 64 →
      Gives (.registerWrite 0 0x400004 false d) s (fun t => rd t Reg.memRsvMgrLots 0 = d.toNat / 2 ^ 18 % 512 ∧
        OnlyRegs [(Reg.memRsvMgrLots, 0)] s t ∧ OnlyParts [.regs] s t)) ∧
    (reachable s 0x702640 = true → s.clock.trigNext = [] → Gives (.registerWrite 0 0x702640 true d) s (fun t =>
      rd t Reg.trigCompareNs 50 = d.toNat ∧ rdLive t Reg.trigCompareNs 50 = rdLive s Reg.trigCompareNs 50 ∧ OnlyRegs [(Reg.trigCompareNs, 50)] s t ∧ OnlyParts [.regs] s t)) ∧
    (reachable s off = false → Gives (.registerWrite 0 a w d) s (fun t => t = logErr s 0 .notReady 0 0 off)) ∧
    (∀ st ∈ [Status.noUnit, Status.notClocked], reachable s off = true → pfClosed s off = some st → Gives (.registerWrite 0 a w d) s (fun t => t = logErr s 0 st 0 0 off)) ∧
    (fnPresent s fn.val = false → Gives (.registerWrite fn a w d) s (fun t => t = s)) ∧
    (g.val ≠ 0 → fnPresent s g.val = true → s.ten.pendBits = [] → Gives (.registerWrite g (BitVec.ofNat 32 (0x1028 + 64 * q.val)) false d) s (fun t =>
      t = putQ s (64 * g.val + q.val) { getQ s (64 * g.val + q.val) with cqHead := d.toNat % 2 ^ 12 }))

/-- A 32-bit read of a word that no stopped clock or absent unit hides and that pops no queue answers the register's word. A read of the low word of a 64-bit
register latches the high word as it is then; a read of a latched word answers the latched value, once. A 64-bit read answers both words. A hidden word reads
all ones and is logged; a register PF0 does not reach reads all ones. Nothing but the latch, the log and the answer changes. -/
def Obligations.LowWordReadLatchesHighWord : Prop :=
  ∀ (fn : Fin 513) (addr : BitVec 32) (s : State) (v : Nat) (st : Status),
    let a := addr.toNat
    let open_ := fun (a : Nat) => fn.val = 0 → reachable s a = true → pfClosed s a = none ∧ readEffect s a = s
    (mapFind s.ten.latch (fn.val * 2 ^ 32 + a) = none → open_ a →
      Gives (.lowWordRead fn addr false) s (fun t => t.out = .regData [regWord s fn.val a] :: s.out ∧ OnlyParts [.ten, .out] s t ∧
        (lowOf64 fn.val a = true → (fn.val ≠ 0 ∨ reachable s a = true) →
          mapFind t.ten.latch (fn.val * 2 ^ 32 + (a + 4)) = some (regWord s fn.val (a + 4))))) ∧
    (mapFind s.ten.latch (fn.val * 2 ^ 32 + a) = some v →
      Gives (.lowWordRead fn addr false) s (fun t => t.out = .regData [v] :: s.out ∧ OnlyParts [.ten, .out] s t ∧
        mapFind t.ten.latch (fn.val * 2 ^ 32 + a) = none)) ∧
    (mapFind s.ten.latch a = none → reachable s a = true → pfClosed s a = some st →
      Gives (.lowWordRead 0 addr false) s (fun t => t = emit (logErr s 0 st 0 0 a) (.regData [0xFFFFFFFF]))) ∧
    (mapFind s.ten.latch a = none → reachable s a = false → Gives (.lowWordRead 0 addr false) s (fun t => t = emit s (.regData [0xFFFFFFFF]))) ∧
    (a % 8 = 0 → open_ a → open_ (a + 4) → a ≠ 0x700010 →
      Gives (.lowWordRead fn addr true) s (fun t => t = emit s (.regData [regWord s fn.val a, regWord s fn.val (a + 4)])))

/-- Of a bench window at or above bench_count a read returns 0xFFFF_FFFF, a write is discarded, and both are logged with status NO_UNIT in
the PF0 error log, with the register offset as the detail; a window below bench_count is no concern of this row. -/
def Obligations.AbsentBenchWindow : Prop :=
  ∀ (b : BitVec 5) (off : BitVec 16) (w : Bool) (s : State),
    (benchCount s ≤ b.toNat →
      Gives (.benchWindowAbsentAccess b off false) s (fun t =>
        t = emit (logErr s 0 .noUnit 0 0 (0x200000 + b.toNat * 0x10000 + off.toNat)) (.regData [0xFFFFFFFF])) ∧
      Gives (.benchWindowAbsentAccess b off true) s (fun t => t = logErr s 0 .noUnit 0 0 (0x200000 + b.toNat * 0x10000 + off.toNat))) ∧
    (b.toNat < benchCount s → Gives (.benchWindowAbsentAccess b off w) s (fun t => t = s))

/-- Logging to the PF0 error log: with fewer than 63 unread entries the entry holds the time, the status code, the source, the tag and the
detail at the old tail, and the tail moves on by one modulo 64; with 63 unread the entry is discarded and the dropped count rises, held at
its largest value. No other register changes, and nothing but registers. -/
def Obligations.ErrorLogRing : Prop :=
  ∀ (s : State) (st : Status) (source tag detail : Nat), rd s Reg.pfErrlogIdxTail 0 < 64 → rd s Reg.pfErrlogIdxHead 0 < 64 →
    s.clock.ns < 2 ^ 64 → source < 256 →
    let t := logErr s 0 st source tag detail
    ((rd s Reg.pfErrlogIdxTail 0 + 64 - rd s Reg.pfErrlogIdxHead 0) % 64 ≠ 63 →
      rd t Reg.pfErrlogEntry (rd s Reg.pfErrlogIdxTail 0) =
        s.clock.ns + st.code * 2 ^ 64 + source * 2 ^ 72 + tag % 2 ^ 16 * 2 ^ 80 + detail % 2 ^ 32 * 2 ^ 96 ∧
      rd t Reg.pfErrlogIdxTail 0 = (rd s Reg.pfErrlogIdxTail 0 + 1) % 64 ∧
      OnlyRegs [(Reg.pfErrlogEntry, rd s Reg.pfErrlogIdxTail 0), (Reg.pfErrlogIdxTail, 0)] s t) ∧
    ((rd s Reg.pfErrlogIdxTail 0 + 64 - rd s Reg.pfErrlogIdxHead 0) % 64 = 63 →
      rd t Reg.pfErrlogIdxDropped 0 = min (rd s Reg.pfErrlogIdxDropped 0 + 1) (2 ^ Reg.pfErrlogIdxDropped.width - 1) ∧
      OnlyRegs [(Reg.pfErrlogIdxDropped, 0)] s t) ∧
    OnlyParts [.regs] s t

/-- A register of a stopped clock domain reads all ones, discards writes, and each access logs NOT_CLOCKED and leaves the domain stopped; in
a running domain the access completes as a plain read or write does. A share window's end starts the class R counts again, of the Gallery's routers (R18) and of the
channels (R167). REFRESH counts a refresh of its stack alone (the model's choice, log entry 49). A reading of the stacks' sensors shows all
four, sets a stack's hot bit at 85 °C or above, clears it below 83 °C, and keeps it between. -/
def Obligations.ProxyWindowsAndRefresh : Prop :=
  ∀ (s : State) (addr d : BitVec 32) (k : BitVec 2) (t0 t1 t2 t3 : BitVec 8) (j : Nat) (i : Fin 4),
    (reachable s addr.toNat = true → domainRuns s addr.toNat = some false →
      Gives (.notClockedProxyAccess addr none) s (fun t => t = emit (logErr s 0 .notClocked 0 0 addr.toNat) (.regData [0xFFFFFFFF])) ∧
      Gives (.notClockedProxyAccess addr (some d)) s (fun t => t = logErr s 0 .notClocked 0 0 addr.toNat)) ∧
    (reachable s addr.toNat = true → domainRuns s addr.toNat = some true → addr.toNat % 4 = 0 →
      Gives (.notClockedProxyAccess addr none) s (fun t => t = emit s (.regData [regWord s 0 addr.toNat])) ∧
      Gives (.notClockedProxyAccess addr (some d)) s (fun t => Gives (.registerWrite 0 addr false (d.setWidth 64)) s (fun u => u = t))) ∧
    Gives .galleryShareWindow s (fun t => t.mem.galleryR = [] ∧ t = { s with mem := { s.mem with galleryR := t.mem.galleryR } }) ∧
    Gives .channelShareWindow s (fun t => t.mem.chanR = [] ∧ t = { s with mem := { s.mem with chanR := t.mem.chanR } }) ∧
    Gives (.refresh k) s (fun t => t = { s with mem := { s.mem with refreshed := t.mem.refreshed } } ∧
      mapGet t.mem.refreshed j 0 = mapGet s.mem.refreshed j 0 + (if j = k.toNat then 1 else 0)) ∧
    Gives (.refreshTempRead t0 t1 t2 t3) s (fun t =>
      rd t Reg.memTempStack 0 = t0.toNat ∧ rd t Reg.memTempStack 1 = t1.toNat ∧ rd t Reg.memTempStack 2 = t2.toNat ∧
      rd t Reg.memTempStack 3 = t3.toNat ∧
      bitOf (rd t Reg.memRefreshHot 0) i.val =
        (if 85 ≤ ([t0, t1, t2, t3].getD i.val 0).toInt then true
         else if ([t0, t1, t2, t3].getD i.val 0).toInt < 83 then false else bitOf (rd s Reg.memRefreshHot 0) i.val) ∧
      OnlyParts [.regs] s t ∧
      OnlyRegs [(Reg.memTempStack, 0), (Reg.memTempStack, 1), (Reg.memTempStack, 2), (Reg.memTempStack, 3), (Reg.memRefreshHot, 0)] s t)

/-- The four commands that write a queue block of a present function. SQ_TAIL takes a value below the ring's length and publishes the
entries up to it; a value beyond the ring is discarded and logged with BAD_FORMAT. QUEUE_ENABLE brings a DISABLED queue whose configuration
is legal to RUNNING with its heads, its completion tail and its phase at their start, keeps the published tail, and refuses an illegal one
with BAD_FORMAT; in STOPPING or ERROR it is refused with PERMISSION. QUEUE_DISABLE stops a RUNNING queue at once where no step is in
flight, lets it go to STOPPING where one is, and disables an ERROR queue. A configuration write applies to a DISABLED queue and is logged
with PERMISSION in any other state. No other queue block changes. -/
def Obligations.QueueBlockCommands : Prop :=
  ∀ (s : State) (fn : Fin 513) (q : BitVec 6) (v : BitVec 32) (w : BitVec 64), fnPresent s fn.val = true →
    let k := 64 * fn.val + q.toNat
    let x := getQ s k
    (v.toNat % 4096 < 2 ^ x.sqLog → Gives (.sqTail fn q v) s (fun t =>
      (getQ t k).sqTail = v.toNat % 4096 ∧ (getQ t k).sqHead = x.sqHead ∧ (getQ t k).state = x.state ∧ OnlyParts [.work] s t ∧ OnlyQueues [k] s t)) ∧
    (2 ^ x.sqLog ≤ v.toNat % 4096 → Gives (.sqTail fn q v) s (fun t =>
      getQ t k = { x with lastStatus := .badFormat } ∧ t.regs = (logErr s fn.val .badFormat 0 0 (0x1020 + 64 * q.toNat)).regs ∧
      OnlyParts [.regs, .work] s t ∧ OnlyQueues [k] s t)) ∧
    (x.state = .disabled → 2 ≤ x.sqLog → x.sqLog ≤ 12 → 2 ≤ x.cqLog → x.cqLog ≤ 12 → x.prio ≠ 3 →
      Gives (.queueEnable fn q) s (fun t =>
        getQ t k = { x with enable := true, state := .running, sqHead := 0, cqHead := 0, cqTail := 0, phase := true } ∧
        OnlyParts [.work] s t ∧ OnlyQueues [k] s t)) ∧
    (x.state = .disabled → x.prio = 3 ∨ x.sqLog < 2 ∨ 12 < x.cqLog → Gives (.queueEnable fn q) s (fun t =>
      getQ t k = { x with lastStatus := .badFormat } ∧ OnlyParts [.work] s t ∧ OnlyQueues [k] s t)) ∧
    (x.state = .error ∨ x.state = .stopping → Gives (.queueEnable fn q) s (fun t =>
      getQ t k = { x with lastStatus := .permission } ∧ OnlyParts [.regs, .work] s t ∧ OnlyQueues [k] s t)) ∧
    (x.state = .running → x.busy = false → Gives (.queueDisable fn q) s (fun t =>
      (getQ t k).state = .disabled ∧ (getQ t k).enable = false ∧ (getQ t k).sqTail = 0 ∧ (getQ t k).sqHead = 0 ∧
      OnlyParts [.work] s t ∧ OnlyQueues [k] s t)) ∧
    (x.state = .running → x.busy = true → Gives (.queueDisable fn q) s (fun t =>
      getQ t k = { x with enable := false, state := .stopping } ∧ OnlyParts [.work] s t ∧ OnlyQueues [k] s t)) ∧
    (x.state = .error → Gives (.queueDisable fn q) s (fun t => (getQ t k).state = .disabled ∧ OnlyParts [.work] s t ∧ OnlyQueues [k] s t)) ∧
    (x.state = .disabled → Gives (.queueConfigWrite fn q .qPasid w) s (fun t =>
      getQ t k = { x with pasid := w.toNat % 2 ^ 20 } ∧ OnlyParts [.work] s t ∧ OnlyQueues [k] s t)) ∧
    (x.state = .disabled → Gives (.queueConfigWrite fn q .sqBase w) s (fun t =>
      getQ t k = { x with sqBase := w.toNat / 64 % 2 ^ 42 } ∧ OnlyParts [.work] s t ∧ OnlyQueues [k] s t)) ∧
    (x.state = .disabled → Gives (.queueConfigWrite fn q .cqBase w) s (fun t =>
      getQ t k = { x with cqBase := w.toNat / 64 % 2 ^ 42 } ∧ OnlyParts [.work] s t ∧ OnlyQueues [k] s t)) ∧
    (x.state = .disabled → Gives (.queueConfigWrite fn q .qCfg w) s (fun t =>
      (getQ t k).sqLog = w.toNat % 16 ∧ (getQ t k).cqLog = w.toNat / 16 % 16 ∧ (getQ t k).prio = w.toNat / 1024 % 4 ∧
      (getQ t k).msix = w.toNat / 4096 % 64 ∧ (getQ t k).state = .disabled ∧ OnlyParts [.work] s t ∧ OnlyQueues [k] s t)) ∧
    (x.state ≠ .disabled → Gives (.queueConfigWrite fn q .qPasid w) s (fun t => t = logErr s fn.val .permission 0 0 (0x1014 + 64 * q.toNat)))

/-- TALLY_ADD adds the written value to the tally modulo 2^32 and TALLY_SET replaces it; every other tally of every function, and every
other part of the state, stays. A wait of value and target is satisfied exactly when (value - target) mod 2^32 < 2^31. -/
def Obligations.TallyWrites : Prop :=
  ∀ (s : State) (fn : Fin 513) (n : BitVec 10) (v a b : BitVec 32), fnPresent s fn.val = true →
    Gives (.tallyAdd fn n v) s (fun t =>
      tallyGet t fn.val n.toNat = (tallyGet s fn.val n.toNat + v.toNat) % 2 ^ 32 ∧ OnlyParts [.work] s t ∧
      t.work = { s.work with tallies := t.work.tallies } ∧
      SameTallies [1024 * fn.val + n.toNat] s t) ∧
    Gives (.tallySet fn n v) s (fun t =>
      tallyGet t fn.val n.toNat = v.toNat ∧ OnlyParts [.work] s t ∧ t.work = { s.work with tallies := t.work.tallies } ∧
      SameTallies [1024 * fn.val + n.toNat] s t) ∧
    (satisfied a.toNat b.toNat = decide ((a - b).toNat < 2 ^ 31))

/-- STEP_START on a queue whose ring, image and record area lie in pinned host memory, where R116's conditions hold and the checks of R120
find nothing: the head moves on, the queue has a step in flight, and the step holds the entry's step_id, image address, record address,
notify and expected assay, the header's counts and length, and the start of the image as the place of its first command. COMMAND_READ of an
admitted step whose next header and body lie in the image and pass checks 1 and 2: a new command waits in its stream with the bytes as
read, its index and its queue, and the step's next place is behind it. -/
def Obligations.StepsStartAndReadCommands : Prop :=
  ∀ (s : State) (fn : Fin 513) (q : BitVec 6) (st : StepSt),
    let f := fn.val
    let k := 64 * f + q.toNat
    let x := getQ s k
    let e := leNat (hostBytes s x.pasid (x.sqBase * 64 + 64 * x.sqHead) 64)
    let h := leNat (hostBytes s x.pasid (bitsOf e 128 48) 64)
    (stepReady s f x = true → x.sqHost = true → bitOf e 4 = true → bitOf e 5 = true →
      hostOk s x.pasid (x.sqBase * 64 + 64 * x.sqHead) 64 = true → hostOk s x.pasid (bitsOf e 128 48) 64 = true →
      hostOk s x.pasid (bitsOf e 192 48) (32 * bitsOf h 32 16) = true → entryCheck e = none → headerCheck s h = none →
      Gives (.stepStart fn q) s (fun t =>
        (getQ t k).sqHead = (x.sqHead + 1) % 2 ^ x.sqLog ∧ (getQ t k).busy = true ∧ (getQ t k).state = .running ∧
        (∃ st, getStep t k = some st ∧ st.stepId = bitsOf e 64 64 ∧ st.imageAddr = bitsOf e 128 48 ∧ st.recordAddr = bitsOf e 192 48 ∧
          st.notify = bitOf e 6 ∧ st.expected = bitsOf e 256 64 ∧ st.sqIndex = x.sqHead ∧ st.vbCount = bitsOf h 8 6 ∧
          st.cmdCount = bitsOf h 32 16 ∧ st.imageLen = bitsOf h 64 32 ∧ st.nextPos = 64 ∧ st.nextIdx = 0 ∧ st.failing = false) ∧
        SameQueues [k] s t ∧ SameSteps [k] s t ∧ t.work.cmds = s.work.cmds ∧ t.work.tallies = s.work.tallies ∧
        OnlyParts [.regs, .work] s t)) ∧
    (getStep s k = some st → fnRuns s f = true → st.failing = false → st.cut = false → st.nextIdx < st.cmdCount →
      st.imageHost = true →
      let hd := leNat (hostBytes s x.pasid (st.imageAddr + st.nextPos) 64)
      let len := 64 + 64 * bitsOf hd 32 4
      let raw := leNat (hostBytes s x.pasid (st.imageAddr + st.nextPos) len)
      st.nextPos + len ≤ st.imageLen → hostOk s x.pasid (st.imageAddr + st.nextPos) 64 = true →
      hostOk s x.pasid (st.imageAddr + st.nextPos) len = true → headerBad (Cmd.fresh (.queue f q.toNat) st.nextIdx raw len) st.vbCount = none →
      Gives (.commandRead fn q) s (fun t =>
        getCmd t s.work.nextCid = some (Cmd.fresh (.queue f q.toNat) st.nextIdx raw len) ∧
        getStep t k = some { st with nextIdx := st.nextIdx + 1, nextPos := st.nextPos + len } ∧ t.work.nextCid = s.work.nextCid + 1 ∧
        SameCmds [s.work.nextCid] s t ∧ SameSteps [k] s t ∧ t.work.queues = s.work.queues ∧ OnlyParts [.work] s t))

/-- STEP_COMPLETION of a PF0 step whose commands all have a final status, with record area and completion ring in pinned host memory: the
completion entry of Table 05.11 stands at the old completion tail, the tail moves on, the phase flips at the wrap, the queue holds the step
status and no step in flight, the step and its commands are gone, and the queue's vector is raised where notify is 1 or the status fails. A
queue with stop_on_error enters ERROR after a failing step. -/
def Obligations.StepCompletionWritesEntry : Prop :=
  ∀ (s : State) (q : BitVec 6) (st : StepSt),
    let k := q.toNat
    let x := getQ s k
    let es := stepCmds s 0 k
    let assay := stepAssay (es.map (·.2))
    let v := stepStatus st (es.map (·.2)) assay
    getStep s k = some st → stepDone st es = true → st.nextIdx = st.cmdCount → st.recordHost = true → x.cqHost = true →
    hostOk s x.pasid st.recordAddr (32 * es.length) = true → hostOk s x.pasid (x.cqBase * 64 + 32 * x.cqTail) 32 = true →
    x.state = .running →
    Gives (.stepCompletion 0 q) s (fun t =>
      hostBytes t x.pasid (x.cqBase * 64 + 32 * x.cqTail) 32 = completionBytes x.phase v.1 v.2 st.sqIndex st.stepId assay st.lastNs ∧
      (getQ t k).cqTail = (x.cqTail + 1) % 2 ^ x.cqLog ∧
      (getQ t k).phase = (if (x.cqTail + 1) % 2 ^ x.cqLog = 0 then !x.phase else x.phase) ∧
      (getQ t k).lastStatus = v.1 ∧ (getQ t k).busy = false ∧ (getQ t k).steps = (x.steps + 1) % 2 ^ 32 ∧
      (getQ t k).state = (if stepFails v.1 && x.stopOnError then .error else .running) ∧ getStep t k = none ∧
      (∀ e ∈ t.work.cmds, e.2.owner ≠ .queue 0 k) ∧
      t.out = (if st.notify = true ∨ stepFails v.1 = true then .msix 0 x.msix :: s.out else s.out) ∧
      t.mem = s.mem ∧ SameQueues [k] s t ∧ SameSteps [k] s t)

/-- A dispatched SLAB command that executes and does not LOAD a tile: the named bank of its context is initialised as acc_init says and
fed every problem's products in entry order. With drain = 0 the command becomes the chain's newest member and stages nothing. With drain = 1
it stages the output pieces, each at its address, with the CRC-64 of their bytes in order as the assay, the OR of their flags, and status
ACC_OVERFLOW where a read-out element overflowed; it keeps the members of the chain it closes, and the bank's chain is empty. The other bank,
the Yard, every other context and every other command stay; of the registers only what the bench's window shows changes: BENCH_FEED_CYC grows by the A-clocks
of the feed (Table 03.6), BENCH_STALL_CYC by a free number, which the spec does not state (the model's choice, log entry 169). -/
def Obligations.SlabAccumulatesAndDrains : Prop :=
  ∀ (s : State) (cid : Nat) (c : Cmd), Executes s cid c = true → c.opcode = 1 →
    let x := slabOf c
    let ctx := getCtx s (cmdCtx c)
    let old := ctx.bank x.bank
    let fed := x.probs.foldl (feedProb x ctx.byte) (x.init old none)
    let out := x.drainOut fed
    x.w.init ≠ 2 →
    Gives (.slab cid) s (fun t =>
      (x.drain = false → getCmd t cid = some { c with st := .issued } ∧
        (getCtx t (cmdCtx c)).bank x.bank = { fed with members := old.members ++ [cid] }) ∧
      (x.drain = true →
        getCmd t cid = some { c with
          st := .issued, chain := old.members, snap := some old, writes := out.foldl (fun w e => putBytes w e.1 e.2.1) [],
          accFlags := (out.map (·.2.2)).foldl orFlags 0, hasOut := out.flatMap (·.2.1) ≠ [],
          assay := if out.flatMap (·.2.1) = [] then 0 else crc64 (out.flatMap (·.2.1)),
          status := if bitOf ((out.map (·.2.2)).foldl orFlags 0) 0 then .accOverflow else .ok } ∧
        (getCtx t (cmdCtx c)).bank x.bank = { fed with isOpen := false, init := [], members := [] }) ∧
      (getCtx t (cmdCtx c)).bank (1 - x.bank) = ctx.bank (1 - x.bank) ∧ (getCtx t (cmdCtx c)).yard = ctx.yard ∧
      rd t Reg.benchFeedCycCount c.bench = (rd s Reg.benchFeedCycCount c.bench + x.feedClocks) % 2 ^ Reg.benchFeedCycCount.width ∧
      t.yards = { s.yards with ctxs := t.yards.ctxs } ∧ SameCtxs [cmdCtx c] s t ∧ OnlyCmds [cid] s t ∧
      OnlyRegs (benchShown c.bench ++ [(Reg.benchLive0SlabTag, c.bench), (Reg.benchFeedCycCount, c.bench), (Reg.benchStallCycCount, c.bench)]) s t ∧
      OnlyParts [.regs, .work, .yards, .free] s t)

/-- A waiting DRESSER command (MAP; the other kinds share the operation) whose stream's turn it is and whose waits are satisfied: where a
check fails, it completes with that status and address and has no other effect than to mark its step; where the checks find nothing, its
bench takes it, and a free frame is missing that another command can release, it is dispatched with the next order number and the page
sets of its ranges, and waits. A command that is not yet ready to issue, or whose context has no bench, does not move. -/
def Obligations.BenchCommandsIssueOnce : Prop :=
  ∀ (s : State) (cid b : Nat) (c d : Cmd) (st : Status) (a k : Nat) (x : StepSt),
    getCmd s cid = some c → isDresser 1 c = true → c.st = .waiting →
    (streamReady s c = false → Gives (.map cid) s (fun t => t = s)) ∧
    (streamReady s c = true → benchFor s c = none → c.owner.isRadio = false → dresserPlan s { c with bench := c.bench } = (s, .ok d) →
      Gives (.map cid) s (fun t => t = s)) ∧
    (streamReady s c = true → benchFor s c = some b → c.owner.stepKey = some k → getStep s k = some x →
      dresserPlan s { c with bench := b } = (s, .error (st, a)) →
      Gives (.map cid) s (fun t =>
        (∃ e, getCmd t cid = some e ∧ e.st = .done ∧ e.status = st ∧ e.fault = a ∧ e.writes = [] ∧ e.wpages = []) ∧
        getStep t k = some { x with lastNs := s.clock.ns, failing := x.failing || st.failing } ∧
        SameCmds [cid] s t ∧ SameSteps [k] s t ∧ t.work.tallies = s.work.tallies ∧ OnlyParts [.work] s t)) ∧
    (streamReady s c = true → benchFor s c = some b → dresserPlan s { c with bench := b } = (s, .ok d) → dresserFree s d = true → outranked s cid d = false →
      spacePages s d - (getCtx s (cmdCtx d)).mapped.length - shadowsHeld s (cmdCtx d) < d.wpages.length → d.held = false →
      canRelease { s with work := { s.work with nextSeq := s.work.nextSeq + 1 } } (cmdCtx d) cid { d with st := .dispatched, seq := s.work.nextSeq, regSeq := if c.ranges = [] then s.work.nextSeq else c.regSeq } = true →
      Gives (.map cid) s (fun t =>
        getCmd t cid = some { d with st := .dispatched, seq := s.work.nextSeq, regSeq := if c.ranges = [] then s.work.nextSeq else c.regSeq } ∧
        t.work.nextSeq = s.work.nextSeq + 1 ∧ SameCmds [cid] s t ∧ OnlyParts [.work] s t))

/-- A dispatched DRESSER command that executes, every output row of which lies in its space, stages row by row at out_addr + row ×
out_stride: MAP the converted output temporary of its program on each element of X, Y and Z; ROW_SUM the converted FP32 sum of the row in
the fixed order of R94; ROW_MAXI and ROW_MINI each row's best element, then each row's index at out2_addr; RANDOM the counter-based words or
the numbers derived from them. DISCARD stages nothing. The assay is the CRC-64 of the staged bytes in that order, status OK; nothing else
changes but the bench's window. -/
def Obligations.DresserRowsAreStaged : Prop :=
  ∀ (s : State) (cid : Nat) (c : Cmd), Executes s cid c = true → c.opcode = 2 →
    let x := dresserOf c
    let byte := (getCtx s (cmdCtx c)).byte
    let g := fun (i : Nat) (t : Stream) (row col : Nat) => if mapReads x.blk i then t.f32At byte row col else 0
    let done := fun (rows : List (Nat × List Byte)) (t : State) => StagedAs s t cid { c with
      st := .issued, writes := rows.foldl (fun w e => putBytes w e.1 e.2) [], accFlags := 0, hasOut := rows.flatMap (·.2) ≠ [],
      assay := if rows.flatMap (·.2) = [] then 0 else crc64 (rows.flatMap (·.2)), status := .ok } [(Reg.benchLive2DresserTag, c.bench), (Reg.benchStallCycCount, c.bench)] [.free]
    let mapRows := (List.range x.rows).map (fun row => (x.outAddr + row * x.outStride, (List.range x.cols).flatMap (fun col =>
      leBytes (outBytes x.r.fmt) (f32Out x.r (mapElem x.blk (g 0 x.x row col) (g 1 x.y row col) (g 2 x.z row col))))))
    let sumRows := (List.range x.rows).map (fun row => (x.outAddr + row * x.outStride,
      leBytes (outBytes x.r.fmt) (f32Out x.r (rowSum ((List.range x.cols).map (x.x.f32At byte row))))))
    let randRows := (List.range x.rows).map (fun row => (x.outAddr + row * x.outStride, (List.range x.cols).flatMap (fun col =>
      leBytes (outBytes x.r.fmt) (if bitsOf x.blk 256 2 = 0 then randomElem x.blk (row * x.cols + col)
        else f32Out x.r (randomElem x.blk (row * x.cols + col))))))
    let best := fun (m : Bool) => (List.range x.rows).map (fun row => reduceIdx m ((dresserFmt x.x.fmt).getD (.int 8))
      ((List.range x.cols).map (fun k => (x.x.elem byte row k, x.indexBase + k))))
    let idxRows := fun (m : Bool) =>
      (best m).zipIdx.map (fun b => (x.outAddr + b.2 * x.outStride, leBytes (lineLen ((dresserFmt x.x.fmt).getD (.int 8)).bits 1) b.1.1)) ++
      (best m).zipIdx.map (fun b => (x.out2Addr + b.2 * x.out2Stride, leBytes 4 b.1.2))
    let fits := fun (rows : List (Nat × List Byte)) => outsideYard (spacePages s c) (rows.map (fun e => (e.1, e.2.length))) = none
    (x.op = 1 → fits mapRows → Gives (.map cid) s (done mapRows)) ∧
    (x.op = 2 → fits sumRows → Gives (.rowSum cid) s (done sumRows)) ∧
    (x.op = 5 → fits (idxRows true) → Gives (.rowMaxi cid) s (done (idxRows true))) ∧
    (x.op = 6 → fits (idxRows false) → Gives (.rowMini cid) s (done (idxRows false))) ∧
    (x.op = 8 → fits randRows → Gives (.random cid) s (done randRows)) ∧
    (x.op = 9 → Gives (.discard cid) s (done []))

/-- A dispatched DRESSER command that executes and whose output lies in its space. ROW_WIDE_SUM without a load sums each row's exact
contributions into a zero cell of the window its control word gives; WIDE_ADD of two tiles of one shape and window exponent combines them cell
by cell; both stage a W128 tile, or rows of converted cells. A tile that does not fit completes WIDE_ADD with BAD_FORMAT. MX_QUANT stages each
row's element codes and, at out2_addr, its block scales. Flags are the OR of the cells' flags, and an overflow gives ACC_OVERFLOW. -/
def Obligations.DresserWideAndQuant : Prop :=
  ∀ (s : State) (cid : Nat) (c : Cmd) (t1 t2 : Tile), Executes s cid c = true → c.opcode = 2 →
    let x := dresserOf c
    let byte := (getCtx s (cmdCtx c)).byte
    let done := fun (o : List (Nat × List Byte × Nat)) (t : State) => StagedAs s t cid { c with
      st := .issued, writes := o.foldl (fun w e => putBytes w e.1 e.2.1) [], accFlags := (o.map (·.2.2)).foldl orFlags 0,
      hasOut := o.flatMap (·.2.1) ≠ [], assay := if o.flatMap (·.2.1) = [] then 0 else crc64 (o.flatMap (·.2.1)),
      status := if bitOf ((o.map (·.2.2)).foldl orFlags 0) 0 then .accOverflow else .ok } [(Reg.benchLive2DresserTag, c.bench), (Reg.benchStallCycCount, c.bench)] [.free]
    let fits := fun (o : List (Nat × List Byte × Nat)) => outsideYard (spacePages s c) (o.map (fun e => (e.1, e.2.1.length))) = none
    let sums := cellsOut x { ew := wideEw x, complex := false, rows := x.rows, cols := 1, cells := (List.range x.rows).map (fun row =>
      Cell.zero.cycle ((List.range x.cols).map (fun k => contrib (wideEw x) (x.x.valAt byte row k)))) }
    let both := cellsOut x { t1 with cells := List.zipWith (wideCombine t1.complex) t1.cells t2.cells }
    let blocks := fun (r : Nat) => (List.range (cdiv x.cols 32)).map (fun b => mxBlock (x.blk % 16)
      ((((List.range 32).map (32 * b + ·)).filter (· < x.cols)).map (x.x.valAt byte r)))
    let quant := (List.range x.rows).map (fun r => (x.outAddr + r * x.outStride, packCodes (dBits (x.blk % 16)) ((blocks r).flatMap (·.2)), 0)) ++
      (List.range x.rows).map (fun r => (x.out2Addr + r * x.out2Stride, (blocks r).flatMap (fun b => leBytes 1 b.1), 0))
    (x.op = 3 → (wctlOf x.wraw).init ≠ 2 → fits sums → Gives (.rowWideSum cid) s (done sums)) ∧
    (x.op = 4 → x.rows * x.cols ≠ 0 → readTile byte x.x.addr = some t1 → readTile byte x.y.addr = some t2 → t1.rows = x.rows →
      t1.cols = x.cols → t2.rows = x.rows → t2.cols = x.cols → t1.ew = t2.ew → t1.complex = t2.complex →
      (t1.complex = true → 6 ≤ x.r.fmt ∧ anyMeet (dresserOuts x 2) = false) → fits both → Gives (.wideAdd cid) s (done both)) ∧
    (x.op = 4 → x.rows * x.cols ≠ 0 → readTile byte x.x.addr = some t1 → readTile byte x.y.addr = some t2 → t1.ew ≠ t2.ew →
      c.owner.isRadio = false →
      Gives (.wideAdd cid) s (fun t => ∃ e, getCmd t cid = some e ∧ e.st = .done ∧ e.status = .badFormat ∧ e.writes = [])) ∧
    (x.op = 7 → fits quant → Gives (.mxQuant cid) s (done quant))

/-- A dispatched killable one-row SKIP that executes, with no registered range in its way and its source a zero fill or its Yard. Of PF0, with
a Yard destination, its shadows take the bytes and no byte of DRAM changes; with a destination of one physical run in DRAM whose partly written
lines meet no error and whose end lines are stored under the key that writes them, DRAM takes the bytes at that run and no other byte changes. Either way the assay is the CRC-64 of the bytes and
the bench's byte count rises by them. With an earlier registered range in the way the command and memory stay. A VF's SKIP without borrowing
that finds too few tokens takes what there is, is counted as waiting once, and moves nothing. -/
def Obligations.SkipMovesOrWaits : Prop :=
  ∀ (s : State) (cid pa q f : Nat) (c : Cmd), Executes s cid c = true → c.opcode = 3 →
    let x := skipOf c
    let bs := (List.range x.len0).map (fun i => if x.zero then (0 : Byte) else (getCtx s (cmdCtx c)).byte (x.src + i))
    let count := (rd s Reg.benchSkipBytesCount c.bench + x.len0) % 2 ^ Reg.benchSkipBytesCount.width
    let t0 := mapGet s.mem.tokens f 0
    let cost := runCost c.srcRuns false + runCost c.dstRuns true
    x.nk = false → x.dims = 0 → x.len0 ≠ 0 → (x.zero = true ∨ x.srcSp = 0) → c.srcRuns = [] → c.waited = false →
    (c.owner = .queue 0 q → x.dstSp = 0 → c.dstRuns = [] → rangeBlocked s cid c.regSeq c.ranges = false → Gives (.skip cid) s (fun t =>
      getCmd t cid = some { c with st := .issued, writes := putBytes [] x.dst bs, hasOut := true, assay := crc64 bs } ∧
      rd t Reg.benchSkipBytesCount c.bench = count ∧ OnlyBytes 0 0 s t ∧ OnlyCmds [cid] s t ∧
      OnlyRegs (benchShown c.bench ++ [(Reg.benchSkipBytesCount, c.bench), (Reg.benchStallCycCount, c.bench), (Reg.dramBucketLevel, 0)]) s t ∧ OnlyParts [.regs, .mem, .work, .free] s t)) ∧
    (c.owner = .queue 0 q → (x.dstSp = 1 ∨ x.dstSp = 3) → c.dstRuns = [(pa, x.len0)] → (partialLines c.dstRuns).flatMap (errLines s.mem) = [] →
      keyKept s pa x.len0 = true →
      rangeBlocked s cid c.regSeq c.ranges = false → Gives (.skip cid) s (fun t =>
      (∃ e, getCmd t cid = some e ∧ e.st = .issued ∧ e.writes = [] ∧ e.hasOut = true ∧ e.assay = crc64 bs ∧ cost ≤ e.tokens + e.lent) ∧
      (List.range x.len0).map (fun i => memByte t.mem (pa + i)) = bs ∧ OnlyBytes pa x.len0 s t ∧
      rd t Reg.benchSkipBytesCount c.bench = count ∧ OnlyCmds [cid] s t ∧
      OnlyRegs (benchShown c.bench ++ [(Reg.benchSkipBytesCount, c.bench), (Reg.benchStallCycCount, c.bench), (Reg.dramBucketLevel, 0)]) s t ∧
      OnlyParts [.regs, .mem, .work, .ten, .free] s t)) ∧
    (rangeBlocked s cid c.regSeq c.ranges = true → Gives (.skip cid) s (fun t => StagedAs s t cid c [] [])) ∧
    (c.owner = .queue f q → f ≠ 0 → f ≤ 512 → c.bench < 32 → x.dstSp ≠ 2 → rangeBlocked s cid c.regSeq c.ranges = false → rdLive s Reg.dramBucketBorrow f = 0 →
      t0 < cost - c.tokens - c.lent → Gives (.skip cid) s (fun t =>
      getCmd t cid = some { c with tokens := c.tokens + t0, waited := true } ∧ mapGet t.mem.tokens f 0 = 0 ∧
      rd t Reg.dramBucketWaits f = (rd s Reg.dramBucketWaits f + 1) % 2 ^ Reg.dramBucketWaits.width ∧ OnlyBytes 0 0 s t ∧ OnlyCmds [cid] s t ∧
      OnlyRegs (benchShown c.bench ++ [(Reg.dramBucketWaits, f), (Reg.dramBucketLevel, f)]) s t ∧ OnlyParts [.regs, .mem, .work] s t))

/-- A dispatched FABRIC command of these ops that executes, its destinations found, its payload inline or in its Yard, and
what a fetching ATOMIC will write in DRAM paid for and free of earlier ranges (R104, R168): its commit buffer
holds, for each destination in order, the messages of its op with the command's class, nodes, functions, epoch and ordering, PUT and MCAST_PUT
as writes of one 4 KiB-segment each followed by their release signal, ATOMIC with operand and compare, REDUCE with round and count before the
payload, SIGNAL with tally and increment, MSG_SEND with its payload. Nothing is sent and nothing else changes. -/
def Obligations.FabricPayloadsAreStaged : Prop :=
  ∀ (s : State) (cid : Nat) (c : Cmd) (dests : List (Nat × Nat)), Executes s cid c = true → c.opcode = 5 → c.srcRuns = [] →
    runCost c.dstRuns true ≤ c.tokens + c.lent → rangeBlocked s cid s.work.nextSeq (runLines c.dstRuns true) = false →
    let x := fabOf c
    let f := c.owner.fn
    let pay := if x.inline_ then leBytes x.len (c.b 512 (8 * x.len))
      else (List.range x.len).map (fun i => (getCtx s (cmdCtx c)).byte (x.laddr + i))
    let req := fun (kind : MsgKind) (ord : Bool) (d : Nat × Nat) (addr : Nat) (data : List Byte) (len : Nat) => ({ Msg.blank with
      kind := kind, cls := if f = 0 then .s else .t, ordered := ord, srcNode := ownNode s, dstNode := d.1, srcFn := f, dstFn := d.2,
      srcEpoch := (getCtx s (cmdCtx c)).epoch, addr := addr, data := data, len := len, tag := c.tag, aux := x.dtype + 16 * x.aop,
      fetch := x.fetch } : Msg)
    let sig := fun d => if x.rsigInc = 0 then [] else [req .signal false d 0 (leBytes 4 (x.rsigTally + x.rsigInc * 2 ^ 16)) 0]
    let writes := fun d => (segments x.raddr x.len).map (fun g => req .write x.ordered d (x.raddr + g.1) ((pay.drop g.1).take g.2) g.2)
    let staged := fun (out : Bool) (msgs : (Nat × Nat) → List Msg) (t : State) => StagedAs s t cid { c with
      st := .issued, buf := dests.flatMap msgs, hasOut := out, assay := if out then crc64 pay else 0 } [] []
    x.dests s f = some dests → (x.inline_ = true ∨ x.dram = false) →
    (x.op = 2 → Gives (.put cid) s (staged true (fun d => writes d ++ sig d))) ∧
    (x.op = 5 → Gives (.mcastPut cid) s (staged true (fun d => writes d ++ sig d))) ∧
    (x.op = 3 → Gives (.atomic cid) s (staged false (fun d => [req .atomic x.ordered d x.raddr (leBytes 8 x.operand ++ leBytes 8 x.compare) 0]))) ∧
    (x.op = 4 → Gives (.fabricReduce cid) s (staged false (fun d => (segments x.raddr x.len).map (fun g =>
      req .reduce x.ordered d (x.raddr + g.1) (leBytes 8 (x.round + x.nContrib * 2 ^ 32) ++ (pay.drop g.1).take g.2) g.2)))) ∧
    (x.op = 6 → Gives (.signal cid) s (staged false sig)) ∧
    (x.op = 8 → Gives (.msgSend cid) s (staged true (fun d => [req .msg x.ordered d 0 pay x.len])))

/-- A dispatched GET that executes, of one segment, whose peer is another device: what its DRAM
lines cost paid: where the peer is spoiled it executes with ones for data, no output and status TARGET_DEAD; else, while the replay store has
room, a read request for its address and length goes into it under the next message number, and the command awaits it, neither executed nor
committed. A dispatched FENCE whose snapshot holds an unsettled message waits with that snapshot; one whose snapshot
has settled without a failure executes; one with a failed message completes with that message's status. -/
def Obligations.GetAndFenceWait : Prop :=
  ∀ (s : State) (cid : Nat) (c : Cmd) (d : Nat × Nat) (st : Status) (dests : List (Nat × Nat)), Executes s cid c = true → c.opcode = 5 →
    let x := fabOf c
    let f := c.owner.fn
    let mid := s.fab.nextMid
    let ones := List.replicate x.len (0xFF : Byte)
    let snap := if c.awaits ≠ [] then c.awaits
      else (s.fab.unacked.filter (fun e => e.2.msg.srcFn == f && e.2.msg.kind != .coll &&
        (x.fenceAll || dests.any (fun d => d.1 == e.2.msg.dstNode && d.2 == e.2.msg.dstFn)))).map (·.1)
    (x.op = 1 → x.dests s f = some [d] → c.awaits = [] → rangeBlocked s cid c.regSeq c.ranges = false → d.1 ≠ ownNode s →
      s.fab.unacked.all (fun e => !e.2.localDue) = true → runCost c.dstRuns true ≤ c.tokens + c.lent →
      (spoiledFor s d.1 (if f = 0 then .s else .t) = true → x.dram = false → Gives (.get cid) s (fun t => StagedAs s t cid { c with
        st := .issued, writes := putBytes c.writes (c.b 64 24) ones, status := .targetDead } [] [])) ∧
      (spoiledFor s d.1 .s = false → segments x.raddr x.len = [(0, x.len)] → f = 0 → getUn s mid = none →
        replayBytes s + 36 ≤ 2 ^ 24 →
        (s.fab.unacked.filter (fun e => e.2.sent && pairKey e.2.msg.dstNode e.2.msg.cls == pairKey d.1 .s)).length < 4096 →
        Gives (.get cid) s (fun t =>
          getCmd t cid = some { c with awaits := [mid] } ∧ t.fab.nextMid = mid + 1 ∧
          (∃ u, getUn t mid = some u ∧ u.cid = cid ∧ u.sent = true ∧ u.resends = 0 ∧ u.firstNs = s.clock.ns ∧ u.msg.kind = .read ∧
            u.msg.cls = .s ∧ u.msg.dstNode = d.1 ∧ u.msg.dstFn = d.2 ∧ u.msg.srcNode = ownNode s ∧ u.msg.addr = x.raddr ∧
            u.msg.len = x.len ∧ u.msg.data = [] ∧ u.msg.seq = mapGet s.fab.seqNext (pairKey d.1 .s) 0 ∧ u.msg.srcInc = ownInc s ∧
            u.msg.job = rd s Reg.fabVfJob 0 ∧ u.msg.check = msgCheck u.msg) ∧
          OnlyCmds [cid] s t ∧ OnlyRegs (benchShown c.bench ++ (List.range 16).map (fun p => (Reg.jeanoPortDiscards, p))) s t ∧
          OnlyParts [.regs, .work, .fab, .out, .free] s t))) ∧
    (x.op = 7 → x.dests s f = some dests →
      (snap.any (fun m => (getUn s m).isSome) = true → Gives (.fence cid) s (fun t => StagedAs s t cid { c with awaits := snap } [] [])) ∧
      (snap.any (fun m => (getUn s m).isSome) = false → snap.findSome? (fun m => mapFind s.fab.settled m) = none →
        Gives (.fence cid) s (fun t => StagedAs s t cid { c with st := .issued, awaits := [] } [] [])) ∧
      (snap.any (fun m => (getUn s m).isSome) = false → snap.findSome? (fun m => mapFind s.fab.settled m) = some st →
        c.owner.isRadio = false →
        Gives (.fence cid) s (fun t => ∃ e, getCmd t cid = some e ∧ e.st = .done ∧ e.status = st ∧ e.awaits = [])))

/-- An issued SLAB, DRESSER or Yard-writing command of a queue with nothing in its commit buffer and no chain behind it, its staged bytes by rising offset: where R132's
conditions do not hold, COMMIT changes nothing. Where they hold, its staged bytes become the Yard's, the pages of its write set are mapped but
for those a DISCARD releases, whose bytes read zero, the mapped frames it replaced go to zeroing, its tallies receive their signals in order where
its status is OK or ACC_OVERFLOW and none otherwise, and the command is done at this time with its status. DRAM does not change. -/
def Obligations.CommitResolvesTheYard : Prop :=
  ∀ (s : State) (cid k off : Nat) (c : Cmd) (y : StepSt), getCmd s cid = some c → c.owner.stepKey = some k → getStep s k = some y →
    c.buf = [] → c.chain = [] → c.dramWrites = [] → c.awaits = [] → rising (c.writes.map (·.1)) = true →
    s.fab.unacked.all (fun e => !e.2.localDue) = true →
    let key := cmdCtx c
    let x := getCtx s key
    let ok := c.status = .ok ∨ c.status = .accOverflow
    (mayCommit s cid c = false → Gives (.commit cid) s (fun t => t = s)) ∧
    (mayCommit s cid c = true → Gives (.commit cid) s (fun t =>
      (getCtx t key).byte off = (if c.discard.contains (off / 65536) then 0 else (mapFind c.writes off).getD (x.byte off)) ∧
      (getCtx t key).mapped = (c.wpages.foldl insertNat x.mapped).filter (fun p => !c.discard.contains p) ∧
      (getCtx t key).bank0 = x.bank0 ∧ (getCtx t key).bank1 = x.bank1 ∧ SameCtxs [key] s t ∧ SameBenches [c.bench] s t ∧
      (getBench t c.bench).zeroing = (getBench s c.bench).zeroing + framesReleased x c ∧ (getBench t c.bench).ctx = (getBench s c.bench).ctx ∧
      (∃ e, getCmd t cid = some e ∧ e.st = .done ∧ e.status = c.status ∧ e.commitNs = s.clock.ns ∧ e.assay = (if ok then c.assay else 0) ∧ e.ranges = [] ∧ e.held = false) ∧
      (ok → t.work.tallies = (applySignals s c.owner.tallies c.signals).work.tallies) ∧ (¬ ok → t.work.tallies = s.work.tallies) ∧
      SameCmds [cid] s t ∧ SameSteps [k] s t ∧ t.work.queues = s.work.queues ∧ OnlyRegs (benchShown c.bench) s t ∧
      OnlyParts [.regs, .work, .yards] s t))

/-- A TALLY command of a queue whose stream's turn it is, its waits met, its body in form and its function's save lot usable: SIGNAL
applies its signals in order; SET first replaces its tally; NOTIFY raises its vector after the signals. Each is done with status OK at this time.
A body out of form completes with BAD_FORMAT and signals nothing. A zeroed frame of a bench leaves one less to zero, of the radio lot when no other is; a bench that is
absent is no concern of the row. -/
def Obligations.TallyCommandsAndZeroing : Prop :=
  ∀ (s : State) (cid k f q : Nat) (c : Cmd) (y : StepSt) (b : BitVec 5), getCmd s cid = some c → c.owner = .queue f q → k = 64 * f + q →
    getStep s k = some y → c.opcode = 6 → streamReady s c = true →
    let op := c.b 0 4
    let n := c.b 16 10
    let set := tallyPut s f n (c.b 32 32)
    let gone := fun (st : Status) (ns : Nat) (t : State) =>
      (∃ e, getCmd t cid = some e ∧ e.st = .done ∧ e.status = st ∧ e.commitNs = ns) ∧
      getStep t k = some { y with lastNs := s.clock.ns, failing := y.failing || st.failing } ∧ SameCmds [cid] s t ∧ SameSteps [k] s t ∧
      t.work.queues = s.work.queues
    (tallyBad c = false → quotaBad s f false = false →
      (op = 1 → Gives (.tallySignal cid) s (fun t => t.work.tallies = (applySignals s f c.signals).work.tallies ∧ gone .ok s.clock.ns t ∧
        OnlyParts [.work] s t)) ∧
      (op = 2 → Gives (.tallyCmdSet cid) s (fun t => t.work.tallies = (applySignals set f c.signals).work.tallies ∧ gone .ok s.clock.ns t ∧
        (c.signals = [] → tallyGet t f n = c.b 32 32 ∧ SameTallies [1024 * f + n] s t) ∧ OnlyParts [.work] s t)) ∧
      (op = 3 → Gives (.notify cid) s (fun t => t.work.tallies = (applySignals s f c.signals).work.tallies ∧ gone .ok s.clock.ns t ∧
        (f = 0 → t.out = .msix 0 (c.b 64 6) :: s.out) ∧ OnlyParts [.regs, .work, .ten, .out] s t))) ∧
    (op = 1 → tallyBad c = true → Gives (.tallySignal cid) s (fun t =>
      t.work.tallies = s.work.tallies ∧ gone .badFormat c.commitNs t ∧ OnlyParts [.work] s t)) ∧
    (b.toNat < benchCount s → Gives (.frameZeroingDone b) s (fun t =>
      getBench t b.toNat = (let x := getBench s b.toNat
        if x.zeroing = 0 then { x with radioZeroing := x.radioZeroing - 1 } else { x with zeroing := x.zeroing - 1 }) ∧ OnlyBenches [b.toNat] s t ∧
      OnlyRegs (benchShown b.toNat) s t ∧ OnlyParts [.regs, .yards] s t)) ∧
    (benchCount s ≤ b.toNat → Gives (.frameZeroingDone b) s (fun t => t = s))

/-- A waiting CRUSHER command of a queue whose stream's turn it is, whose body, group, shape, units, rights, counts (read and paid for), ranges
and quota pass every check, with no collective of its function and group in flight, no range in its way and nothing in the early store, on a
member that is neither rank 0 nor a parent, of a group with no expelled member: each of the nine rows dispatches it with the next order number
and its ranges registered, and a collective is in flight with its members, rank, hash, join time and translated runs, no verdict and nothing
verified yet; it has reported to its parent unless a V operation still waits for counts. No DRAM changes. -/
def Obligations.CollectivesJoin : Prop :=
  ∀ (s : State) (cid q f entry rank : Nat) (c : Cmd) (members : List (Nat × Nat)) (bs : List Byte) (cnt a b st : List (Nat × Nat)),
    let x := crushOf c
    let n := members.length
    let send := (countsOf x n bs).1
    let recv := (countsOf x n bs).2
    let ranges := runLines (a ++ cnt) false ++ runLines (b ++ st) true
    getCmd s cid = some c → c.owner = .queue f q → c.opcode = 4 → c.bodyLen = 1 → streamReady s c = true → x.bad = false →
    crGroupRead s f x.group = (s, .ok (entry, members, rank)) → x.shapeBad n rank [] [] = false → fnReady s 14 = true →
    (n ≤ 1 ∨ fnReady s 15 = true) → crRuns s f x.counts (x.countBytes n) false = (s, .ok cnt) →
    rangeBlocked s cid s.work.nextSeq (runLines cnt false) = false → runCost cnt false ≤ c.tokens + c.lent →
    readRuns s 0 c.tag cnt = (s, .ok bs) → x.shapeBad n rank send recv = false →
    crRuns s f x.src (x.inLen n rank send recv) false = (s, .ok a) → crRuns s f x.dst (x.outLen n rank recv) true = (s, .ok b) →
    crRuns s f x.stage (x.outLen n rank recv) true = (s, .ok st) → quotaBad s f false = false → (f = 0 ∨ rdLive s Reg.fabVfPir f ≠ 0) →
    rangeBlocked s cid s.work.nextSeq ranges = false → rangesHeld s cid ≤ 508 → crushFree s f x.group = true → s.crush.early = [] →
    s.crush.lost = [] → members.all (fun d => !spoiledFor s d.1 (if f = 0 then .s else .t)) = true → rank ≠ 0 → n ≤ 8 * rank + 1 →
    let joined := fun (t : State) =>
      getCmd t cid = some { c with st := .dispatched, seq := s.work.nextSeq, regSeq := s.work.nextSeq, ranges := ranges } ∧
      (∃ k, getColl t cid = some k ∧ k.fn = f ∧ k.group = x.group ∧ k.seq = x.seq ∧ k.op = x.op ∧ k.members = members ∧ k.rank = rank ∧
        k.hash = crHash s c x entry ∧ k.joinNs = s.clock.ns ∧ k.src = a ∧ k.dst = b ∧ k.stg = st ∧ k.sendCounts = send ∧
        k.recvCounts = recv ∧ k.verdict = none ∧ k.got = [] ∧ k.retain = [] ∧ k.toSend = [] ∧ k.staged = false ∧ k.reported = !x.isV) ∧
      t.work.nextSeq = s.work.nextSeq + 1 ∧ SameCmds [cid] s t ∧ t.work.tallies = s.work.tallies ∧ t.crush.early = [] ∧
      OnlyParts [.regs, .work, .fab, .crush, .out, .free] s t
    (x.op = 1 → Gives (.allReduce cid) s joined) ∧ (x.op = 2 → Gives (.reduce cid) s joined) ∧
    (x.op = 3 → Gives (.reduceScatter cid) s joined) ∧ (x.op = 4 → Gives (.broadcast cid) s joined) ∧
    (x.op = 5 → Gives (.allGather cid) s joined) ∧ (x.op = 6 → Gives (.allToAll cid) s joined) ∧
    (x.op = 7 → Gives (.allGatherV cid) s joined) ∧ (x.op = 8 → Gives (.allToAllV cid) s joined) ∧ (x.op = 9 → Gives (.barrier cid) s joined)

/-- A COLL message that applies to a collective in flight. DESC and COUNT on a member that has reported, and on one that waits for a further
child's report, enter their report or count. VERDICT after a verdict changes nothing; MISMATCH ends the collective with COLL_MISMATCH; AGREE is
taken. DATA of a chunk whose last message is not here adds its bytes at their offset; a last one that makes the chunk whole and whose check
fails is counted and refetched, and its bytes are dropped. ACK_VERIFIED lets the chunk go from the retain store; REFETCH is counted and leaves the collective; ABORT ends it with the
status it carries unless the member is past its point of no return. -/
def Obligations.CollectiveMessages : Prop :=
  ∀ (s : State) (m : CollMsg) (cid i j q : Nat) (k : Coll) (c : Cmd), CollArrives s m cid k c i = true → c.owner = .queue k.fn q → k.fn ≤ 512 →
    let key := chunkKey m.stage i m.chunk
    let rep : Report := { agree := m.agree, hash := m.hash, tFirst := m.tFirst, tLast := m.tLast, lateRank := m.lateRank }
    let p := (m.msg.data.drop 24).zipIdx.foldl (fun p b => mapSet p (m.offset + b.2) b.1) (mapGet k.partial_ key [])
    let total := m.offset + (m.msg.data.drop 24).length
    let k := { k with lastNs := mapSet k.lastNs i s.clock.ns }
    let open_ := fun (n : Nat) => spoiledFor s n (if k.fn = 0 then .s else .t) = false
    let only := fun (k' : Coll) (t : State) => getColl t cid = some k' ∧ t.work = s.work ∧ OnlyParts [.regs, .fab, .crush, .out, .free] s t
    let ended := fun (st : Status) (t : State) => getColl t cid = none ∧
      (∃ e, getCmd t cid = some e ∧ e.st = .done ∧ e.status = st ∧ e.ranges = []) ∧ SameCmds [cid] s t ∧ t.work.tallies = s.work.tallies ∧
      mapFind t.crush.past (64 * k.fn + k.group) = some k.seq ∧ t.mem = s.mem
    (k.reported = true → Gives (.desc m) s (only { k with reports := mapSet k.reports i rep })) ∧
    (j < k.members.length → j ≠ i → 8 * k.rank + 1 ≤ j → j ≤ 8 * k.rank + 8 → mapFind k.reports j = none →
      Gives (.desc m) s (only { k with reports := mapSet k.reports i rep })) ∧
    (k.reported = true → Gives (.count m) s (only { k with counts := mapSet k.counts i m.count })) ∧
    (k.verdict.isSome = true → Gives (.verdict m) s (only k)) ∧
    (k.verdict = none → m.agree = false → Gives (.verdict m) s (fun t => ended .collMismatch t ∧
      rd t Reg.crusherMismatchCount 0 = (rd s Reg.crusherMismatchCount 0 + 1) % 2 ^ Reg.crusherMismatchCount.width)) ∧
    (k.verdict = none → m.agree = true → s.mem.err = [] → (∀ d ∈ k.members, open_ d.1) → Gives (.verdict m) s (fun t =>
      ∃ k', getColl t cid = some k' ∧ k'.verdict = some true ∧ k'.members = k.members ∧ k'.hash = k.hash)) ∧
    (c.st ≠ .committing → m.last = false → mapFind k.ends key = none → Gives (.data m) s (only { k with partial_ := mapSet k.partial_ key p })) ∧
    (c.st ≠ .committing → m.last = true → chunkDone p total = true → open_ m.msg.srcNode →
      crc64 ((List.range total).map (fun o => mapGet p o 0)) ≠ m.check → mapGet k.fails key 0 < 3 → Gives (.data m) s (fun t =>
      only { k with partial_ := mapErase k.partial_ key, ends := mapErase k.ends key, fails := mapSet k.fails key (mapGet k.fails key 0 + 1) } t ∧
      rd t Reg.crusherCheckFailCount 0 = (rd s Reg.crusherCheckFailCount 0 + 1) % 2 ^ Reg.crusherCheckFailCount.width)) ∧
    ((∀ e ∈ s.crush.colls, e.2.toSend = []) → Gives (.ackVerified m) s (only { k with retain := mapErase k.retain key })) ∧
    ((mapFind k.retain key).isSome = true → open_ m.msg.srcNode → Gives (.refetch m) s (fun t => only k t ∧
      rd t Reg.crusherRefetchCount 0 = (rd s Reg.crusherRefetchCount 0 + 1) % 2 ^ Reg.crusherRefetchCount.width)) ∧
    (c.st ≠ .committing → m.status ≠ .translationFault → m.status ≠ .permission → Gives (.abort m) s (fun t => ended m.status t ∧
      rd t Reg.crusherAbortsCount 0 = (rd s Reg.crusherAbortsCount 0 + 1) % 2 ^ Reg.crusherAbortsCount.width)) ∧
    (c.st = .committing → Gives (.abort m) s (only k))

/-- COLLECTIVE_COMMIT of a dispatched collective with verdict AGREE, a whole stage and every chunk sent and verified passes its point of no
return now, and otherwise does nothing. STAGE_COPY_DONE past it copies the stage's bytes to the output, no other byte of DRAM changes, the tallies
take their signals, and the command completes with its status and leaves the Crusher. JOIN_TIMEOUT join_ms after the join without a verdict ends
it with FABRIC_TIMEOUT; a member of a VF's collective from which something awaited has been missing for dead_us ends it before that point: with
COLL_MEMBER_LOST where the member's node has been silent as long, else with FABRIC_TIMEOUT; the aborts sent are counted. Before their times, with a
verdict, or for PF0's collectives, these rows have no effect. -/
def Obligations.CollectiveEnds : Prop :=
  ∀ (s : State) (cid q pa pb n : Nat) (k : Coll) (c : Cmd) (r : BitVec 10) (d : Nat × Nat), getColl s cid = some k → getCmd s cid = some c →
    c.owner = .queue k.fn q → s.crush.lost = [] → k.fn ≤ 512 →
    let silent := (mapFind s.fab.heard d.1).all (fun t => decide (t + rd s Reg.jeanoCfgDeadUs 0 * 1000 ≤ s.clock.ns))
    let ended := fun (st : Status) (t : State) => getColl t cid = none ∧
      (∃ e, getCmd t cid = some e ∧ e.st = .done ∧ e.status = st ∧ e.ranges = []) ∧ SameCmds [cid] s t ∧ t.work.tallies = s.work.tallies ∧
      rd t Reg.crusherAbortsCount 0 = (rd s Reg.crusherAbortsCount 0 + ((List.range k.members.length).filter (· != k.rank)).length) %
        2 ^ Reg.crusherAbortsCount.width ∧ t.mem = s.mem
    let bound := rd s Reg.jeanoCfgDeadUs 0 * 1000
    let since := Nat.max (Nat.max k.joinNs k.verdictNs) (mapGet k.lastNs r.toNat 0)
    (c.st = .dispatched → k.verdict = some true → k.staged = true → k.retain = [] → k.toSend = [] →
      Gives (.collectiveCommit cid) s (fun t => getCmd t cid = some { c with st := .committing, commitNs := s.clock.ns } ∧ OnlyCmds [cid] s t ∧
        OnlyParts [.work] s t)) ∧
    (k.staged = false ∨ k.retain ≠ [] ∨ k.toSend ≠ [] ∨ k.verdict ≠ some true → Gives (.collectiveCommit cid) s (fun t => t = s)) ∧
    (c.st = .committing → k.dst = [(pa, n)] → k.stg = [(pb, n)] → s.mem.err = [] → keyKept s pa n = true →
      Gives (.stageCopyDone cid) s (fun t =>
      (List.range n).map (fun i => memByte t.mem (pa + i)) = runBytes s k.stg ∧ OnlyBytes pa n s t ∧
      t.work.tallies = (applySignals s k.fn c.signals).work.tallies ∧ getColl t cid = none ∧
      (∃ e, getCmd t cid = some e ∧ e.st = .done ∧ e.status = c.status ∧ e.assay = c.assay ∧ e.ranges = []) ∧ SameCmds [cid] s t ∧
      OnlyParts [.regs, .mem, .work, .crush, .ten] s t)) ∧
    (k.verdict = none → c.st ≠ .committing → k.joinNs + rd s Reg.crusherCfgJoinMs 0 * 1000000 ≤ s.clock.ns →
      Gives (.joinTimeout cid) s (ended .fabricTimeout)) ∧
    (k.verdict ≠ none ∨ s.clock.ns < k.joinNs + rd s Reg.crusherCfgJoinMs 0 * 1000000 → Gives (.joinTimeout cid) s (fun t => t = s)) ∧
    (k.fn ≠ 0 → r.toNat ≠ k.rank → k.members[r.toNat]? = some d → c.st = .dispatched → k.awaits (crushOf c) r.toNat = true →
      since + bound ≤ s.clock.ns →
      (silent = true → Gives (.memberLostTimeout cid r) s (ended .collMemberLost)) ∧
      (silent = false → Gives (.memberLostTimeout cid r) s (ended .fabricTimeout))) ∧
    (s.clock.ns < since + bound → Gives (.memberLostTimeout cid r) s (fun t => t = s)) ∧
    (k.fn = 0 → Gives (.memberLostTimeout cid r) s (fun t => t = s))

/-- Of a lot the device has. A grant of an IDLE free lot gives it its VF; a release of an IDLE lot of a VF that is no save lot keeps the owner,
clears hdm and makes it RELEASING; a write while it is not IDLE, or the release of a save lot, is discarded and logged with PERMISSION. A RELEASING
lot with nothing registered in it starts CLEARING behind the lots released before; the lot whose turn it is becomes free and IDLE, every byte in it
reads 0, and no other byte changes. MEM_INVAL sets go with its vf and all; go clears once no affected command that registered before is in flight. -/
def Obligations.LotsAndInvalidation : Prop :=
  ∀ (s : State) (lot : Fin 384) (o : BitVec 10) (hdm all : Bool) (q : List Nat) (a : Nat),
    let n := lot.val
    let off := 0x401000 + 2 * n
    let mine := fun (f : Nat) => rdB s Reg.memInvalAll 0 || f == rd s Reg.memInvalVf 0
    let busy := s.work.cmds.any (fun e => mine e.2.owner.fn && (e.2.ranges != [] || e.2.inFlight) && e.2.regSeq < s.mem.invalSeq && e.2.st != .done)
    let lotIs := fun (own h st : Nat) (t : State) => rd t Reg.lotOwnerOwner n = own ∧ rd t Reg.lotOwnerHdm n = h ∧ rd t Reg.lotOwnerState n = st ∧
      OnlyRegs [(Reg.lotOwnerOwner, n), (Reg.lotOwnerHdm, n), (Reg.lotOwnerState, n)] s t ∧ OnlyParts [.regs] s t
    (reachable s off = true → n < rd s Reg.caps0DramLots 0 →
      (lotIdle s n = true → lotOwnerOf s n = 0 → 1 ≤ o.toNat → o.toNat ≤ 512 →
        Gives (.lotOwner lot o hdm) s (lotIs o.toNat (if hdm then 1 else 0) 0)) ∧
      (lotIdle s n = true → 1 ≤ lotOwnerOf s n → lotOwnerOf s n ≤ 512 → isSaveLot s n = false →
        Gives (.lotOwner lot 0 hdm) s (lotIs (lotOwnerOf s n) 0 1)) ∧
      (lotIdle s n = false → Gives (.lotOwner lot o hdm) s (fun t => t = logErr s 0 .permission 0 0 off)) ∧
      (isSaveLot s n = true → lotOwnerOf s n ≠ 0 → Gives (.lotOwner lot 0 hdm) s (fun t => t = logErr s 0 .permission 0 0 off))) ∧
    (rd s Reg.lotOwnerState n = 1 → lotRegistered s n = false → Gives (.releasingEnd lot) s (fun t =>
      rd t Reg.lotOwnerState n = 2 ∧ t.mem = { s.mem with clearQ := s.mem.clearQ ++ [n] } ∧ OnlyRegs [(Reg.lotOwnerState, n)] s t ∧
      OnlyParts [.regs, .mem] s t)) ∧
    (rd s Reg.lotOwnerState n ≠ 1 ∨ lotRegistered s n = true → Gives (.releasingEnd lot) s (fun t => t = s)) ∧
    (s.mem.clearQ = n :: q → Gives (.clearingEnd lot) s (fun t =>
      rd t Reg.lotOwnerOwner n = 0 ∧ rd t Reg.lotOwnerState n = 0 ∧ t.mem.clearQ = q ∧ (lotOf a = n → memByte t.mem a = 0) ∧
      (lotOf a ≠ n → memByte t.mem a = memByte s.mem a) ∧ OnlyRegs [(Reg.lotOwnerOwner, n), (Reg.lotOwnerState, n)] s t ∧
      OnlyParts [.regs, .mem] s t)) ∧
    (reachable s 0x400020 = true → Gives (.memInval o all) s (fun t =>
      rd t Reg.memInvalVf 0 = o.toNat ∧ rd t Reg.memInvalAll 0 = (if all then 1 else 0) ∧ rd t Reg.memInvalGo 0 = 1 ∧
      t.mem = { s.mem with invalSeq := s.work.nextSeq } ∧ OnlyRegs [(Reg.memInvalVf, 0), (Reg.memInvalAll, 0), (Reg.memInvalGo, 0)] s t ∧
      OnlyParts [.regs, .mem] s t)) ∧
    (busy = false → Gives .memInvalDone s (fun t => rd t Reg.memInvalGo 0 = 0 ∧ OnlyRegs [(Reg.memInvalGo, 0)] s t ∧ OnlyParts [.regs] s t)) ∧
    (busy = true → Gives .memInvalDone s (fun t => t = s))

/-- With the stacks up. A host read of a line of an IDLE hdm lot, stored under the lot's key, answers its 64 bytes, where no line holds an
error; elsewhere it answers ones and is logged with PERMISSION. A host write stores the bytes its mask names in that line and leaves every other byte; elsewhere it is discarded and
logged. Before the stacks are up reads answer ones and writes are lost. Scrub, switched on, moves to the next line; it leaves a line that was not
stored or holds no error, and corrects a soft error of one symbol and counts it. A refill, with nothing waiting for tokens and no staged
parameters, adds rate × 975.2 ns to each function's bucket, held at its burst. -/
def Obligations.HostMemoryScrubAndBuckets : Prop :=
  ∀ (s : State) (pa : BitVec 39) (data : BitVec 512) (mask : BitVec 64) (e : LineErr) (f : Nat) (i : Fin 64),
    let a := pa.toNat / 64 * 64
    let ones := 2 ^ 512 - 1
    let lines := dramSize s / 64
    let line := s.mem.scrubLine % lines
    let next := (line + 1) % lines
    (dramReady s = true → hdmOk s a = true → s.mem.err = [] → keyKept s a 64 = true →
      Gives (.cxlMemRead pa) s (fun t => t.out = .cxlData (leNat ((List.range 64).map (fun i => memByte s.mem (a + i)))) :: s.out ∧
        OnlyBytes 0 0 s t ∧ OnlyParts [.regs, .mem, .out] s t) ∧
      Gives (.cxlMemWrite pa data mask) s (fun t =>
        memByte t.mem (a + i.val) = (if mask.getLsbD i.val then BitVec.ofNat 8 (data.toNat / 2 ^ (8 * i.val)) else memByte s.mem (a + i.val)) ∧
        OnlyBytes a 64 s t ∧ OnlyParts [.regs, .mem, .ten] s t)) ∧
    (dramReady s = true → hdmOk s a = false →
      Gives (.cxlMemRead pa) s (fun t => t = emit (logErr s 0 .permission 3 0 (lotOf a)) (.cxlData ones)) ∧
      Gives (.cxlMemWrite pa data mask) s (fun t => t = logErr s 0 .permission 3 0 (lotOf a))) ∧
    (dramReady s = false → Gives (.cxlMemRead pa) s (fun t => t = emit s (.cxlData ones)) ∧ Gives (.cxlMemWrite pa data mask) s (fun t => t = s)) ∧
    (rd s Reg.memScrubEnable 0 = 0 → Gives (.scrubRead (some e)) s (fun t => t = s)) ∧
    (rd s Reg.memScrubEnable 0 ≠ 0 → dramSize s ≠ 0 → mapFind s.mem.stored line = none →
      Gives (.scrubRead (some e)) s (fun t => t = { s with mem := { s.mem with scrubLine := next } })) ∧
    (rd s Reg.memScrubEnable 0 ≠ 0 → dramSize s ≠ 0 → (mapFind s.mem.stored line).isSome = true → popCount 72 e.syms.toNat = 1 →
      e.hard = false → e.wrong = false →
      Gives (.scrubRead (some e)) s (fun t => t.mem.scrubLine = next ∧ mapFind t.mem.err line = none ∧
        rd t Reg.memCeCountCount 0 = (rd s Reg.memCeCountCount 0 + 1) % 2 ^ Reg.memCeCountCount.width ∧ OnlyBytes 0 0 s t ∧
        OnlyRegs [(Reg.memCeCountCount, 0)] s t ∧ OnlyParts [.regs, .mem] s t)) ∧
    (rd s Reg.memScrubEnable 0 ≠ 0 → dramSize s ≠ 0 → errAt s.mem line = none →
      Gives (.scrubRead none) s (fun t => t = { s with mem := { s.mem with scrubLine := next } })) ∧
    (s.cfg.pending = [] → s.fab.held = [] → s.fab.unacked = [] → s.crush.colls = [] → s.crush.lost = [] → f ≤ rd s Reg.tenInfoVfs 0 → Gives .bucketRefill s (fun t =>
      mapGet t.mem.tokens f 0 = min (burstBytes s f) (mapGet s.mem.tokens f 0 + rdLive s Reg.dramBucketRate f * 9752 / 10) ∧
      rd t Reg.dramBucketLevel f = mapGet t.mem.tokens f 0 / 1024 % 2 ^ Reg.dramBucketLevel.width ∧
      t.mem = { s.mem with tokens := t.mem.tokens } ∧ OnlyParts [.regs, .mem] s t))

/-- At most 50 us before the reservation point of its period, and once for it, a plan point chooses the first benches in R366's order for the
throttle step at the release, which take positions from pos_base on in bench order and keep the reservation with its point and release; no other
bench is touched. At the reservation point a bench chosen for the entry and not held is held, not yet ready, to the end of its hold, its choice gone
and a switch in progress given up. The Wedge hands a held bench over once nothing on it runs and it is awake: role 2. A
radio command no entry covers takes the first bench of that order, those chosen for no reservation first (DEDUCED), or is counted once as waiting
where there is none. A bench whose radio work is done, its hold over and no reservation waiting for it, returns: no hold, its radio accumulators
empty, and an overrun counted where its last radio command ended after a reserved hold. -/
def Obligations.RadioFloors : Prop :=
  ∀ (s : State) (n : BitVec 12) (sfn : BitVec 10) (e : ResEntry) (i b : Nat) (c : Chosen) (l : BitVec 5) (h : FloorHold) (cid core t p : Nat) (r : Cmd),
    benchCount s ≤ 32 → FnsOk s →
    let reserve := s.clock.ns + reserveIn s e
    let release := reserve + rd s Reg.bankRotLeadUs 0 * 1000
    let bs := sortBy (fun a b => a < b) ((planChoice s reserve).take (resFloor e (throttleAt s release)).1)
    let x := getBench s l.toNat
    let held := (getBench s b).hold
    (s.yards.recipe[n.toNat]? = some e →
      (reserveIn s e ≤ 50000 → (rdB s Reg.bankRotPeriod20 0 = false ∨ sfn.toNat % 2 = 0) →
        (allBenches s).all (fun b => (getBench s b).chosen.all (fun c => !(c.entry == n.toNat && c.reserveNs == reserve))) = true →
        bs[i]? = some b → Gives (.floorPlanPoint n sfn) s (fun u =>
        (getBench u b).chosen = (getBench s b).chosen ++ [{
          entry := n.toNat, slotTag := resTag e sfn.toNat, pos := e.posBase + i, reserveNs := reserve, releaseNs := release }] ∧
        (getBench u b).hold = held ∧ OnlyBenches bs s u ∧ OnlyParts [.regs, .yards, .health] s u)) ∧
      (50000 < reserveIn s e → Gives (.floorPlanPoint n sfn) s (fun u => u = s)) ∧
      (b < benchCount s → (getBench s b).chosen.find? (fun c => c.entry == n.toNat && decide (c.reserveNs ≤ s.clock.ns)) = some c → held = none →
        Gives (.floorReservation n) s (fun u =>
          (getBench u b).hold = some { slotTag := c.slotTag, pos := c.pos, endNs := c.releaseNs + (resFloor e (throttleAt s c.releaseNs)).2 * 1000,
                                       reserved := true, ready := false, lastNs := 0 } ∧
          (getBench u b).sw = none ∧ (getBench u b).chosen = (getBench s b).chosen.filter (· != c) ∧ (getBench u b).ctx = (getBench s b).ctx ∧
          OnlyParts [.regs, .mem, .work, .yards, .fab, .health] s u))) ∧
    (x.hold = some h → h.ready = false → awake s l.toNat = true → x.ctx.all (quiet s) = true → Gives (.wedgeHandover l) s (fun u =>
      getBench u l.toNat = { x with hold := some { h with ready := true } } ∧ rd u Reg.benchStateRole l.toNat = 2 ∧ OnlyBenches [l.toNat] s u ∧
      OnlyParts [.regs, .yards] s u)) ∧
    (x.hold = some h → h.ready = true ∨ awake s l.toNat = false → Gives (.wedgeHandover l) s (fun u => u = s)) ∧
    (getCmd s cid = some r → r.owner = .radio core t p → r.opcode ≠ 6 → r.inStream = true → floorCovers s t p = false →
      (extraChoice s = [] → r.extra = false → Gives (.beyondFloorTake cid) s (fun u =>
        getCmd u cid = some { r with extra := true } ∧ rd u Reg.bankExtraWaitsCount 0 = (rd s Reg.bankExtraWaitsCount 0 + 1) % 2 ^ Reg.bankExtraWaitsCount.width ∧
        OnlyCmds [cid] s u ∧ OnlyRegs [(Reg.bankExtraWaitsCount, 0)] s u ∧ OnlyParts [.regs, .work] s u)) ∧
      (extraChoice s = [] → r.extra = true → Gives (.beyondFloorTake cid) s (fun u => u = s)) ∧
      ((extraChoice s).head? = some b → Gives (.beyondFloorTake cid) s (fun u =>
        (getBench u b).hold = some { slotTag := t, pos := p, endNs := s.clock.ns, reserved := false, ready := false, lastNs := 0 } ∧ (getBench u b).sw = none ∧
        OnlyBenches [b] { s with yards := { s.yards with ctxs := u.yards.ctxs } } u ∧
        rd u Reg.bankExtraTakesCount 0 = (rd s Reg.bankExtraTakesCount 0 + 1) % 2 ^ Reg.bankExtraTakesCount.width))) ∧
    (x.hold = some h → radioLeft s h.slotTag h.pos = false → (h.reserved = false ∨ h.endNs ≤ s.clock.ns) →
      x.chosen.find? (fun c => c.reserveNs ≤ s.clock.ns) = none → Gives (.floorReturn l) s (fun u =>
      getBench u l.toNat = { x with hold := none } ∧ (getCtx u (radioKey l.toNat)).bank0 = Bank.empty ∧ (getCtx u (radioKey l.toNat)).bank1 = Bank.empty ∧
      (getCtx u (radioKey l.toNat)).yard = (getCtx s (radioKey l.toNat)).yard ∧ SameCtxs [radioKey l.toNat] s u ∧ SameBenches [l.toNat] s u ∧
      rd u Reg.bankOverrunsCount 0 = (if h.reserved = true ∧ h.endNs < h.lastNs then (rd s Reg.bankOverrunsCount 0 + 1) % 2 ^ Reg.bankOverrunsCount.width
        else rd s Reg.bankOverrunsCount 0) ∧ OnlyParts [.regs, .yards] s u)) ∧
    (x.hold = some h → radioLeft s h.slotTag h.pos = true ∨ (h.reserved = true ∧ s.clock.ns < h.endNs) → Gives (.floorReturn l) s (fun u => u = s))

/-- When the grace is over, or the outgoing context is quiet, every open command of the outgoing context but an executed chain member or non-killable Skip is back in its stream with
nothing staged, and the save begins. A save that is done, with the context quiet and the bench awake, leaves the context SAVED, the bench without
it, and changes no byte of DRAM outside its slot. A restore that is done makes a context that was never saved resident, its quantum and its hold
starting now, and counts a switch where one went out. With no context waiting, a quantum that is over (q_eff, R360) is renewed; a free bench goes to
the context that ranks first. A starvation point, from 1 ms before starve_ms, starts a switch on a free bench, counted. An eviction starts the save
of the context blocked longest, once one has been blocked for evict_min_us. Before their times these rows only note who waits. -/
def Obligations.ContextSwitches : Prop :=
  ∀ (s : State) (l : BitVec 5) (fn : Fin 513) (k : BitVec 5) (w : Switch) (key cid b : Nat) (c : Cmd) (rest : List Nat),
    benchCount s ≤ 32 → FnsOk s →
    let x := getBench s l.toNat
    let u := refreshWaits s
    let own := ctxKey fn.val k.toNat
    let since := fun (b : Nat) => match (getBench u b).ctx with | some k => ((getCtx u k).blockedNs).getD u.clock.ns | none => u.clock.ns
    let starts := fun (b : Nat) (out inc : Option Nat) (ph : SwPhase) (st : Bool) (t : State) => (getBench t b).sw = some {
      outgoing := out, incoming := inc, phase := ph, startNs := s.clock.ns, graceNs := s.clock.ns, starve := st } ∧ (getBench t b).ctx = out ∧ SameBenches [b] s t
    (x.sw = some w → w.phase = .grace → w.outgoing = some key →
      (quiet s key = true ∨ w.startNs + 1000 * rd s Reg.bankSwitchCfgGraceUs 0 ≤ s.clock.ns) → Gives (.graceEnd l) s (fun t =>
      (getBench t l.toNat).sw = some { w with phase := .save, graceNs := s.clock.ns } ∧ SameBenches [l.toNat] s t ∧ rd t Reg.benchStateCtxXfer l.toNat = 1 ∧
      ((getCmd s cid = some c ∧ c.open_ = true ∧ c.opcode = 2 ∧ cmdCtx c = key) → ∃ e, getCmd t cid = some e ∧ e.st = .requeued ∧ e.held = false ∧ e.writes = [])
      ∧ OnlyParts [.regs, .mem, .work, .yards, .fab] s t)) ∧
    (x.sw = some w → w.phase = .save → w.outgoing = some key → w.incoming = none → quiet s key = true → awake s l.toNat = true →
      (getCtx s key).mapped.all (· < 192) = true → Gives (.saveDone l) s (fun t =>
      (getBench t l.toNat).sw = none ∧ (getBench t l.toNat).ctx = none ∧ (getCtx t key).res = .saved ∧ (getCtx t key).yard = [] ∧
      (getCtx t key).epoch = (getCtx s key).epoch ∧ OnlyBytes (slotBase s (key / 32) (key % 32)) (13 * 2 ^ 20) s t ∧ SameBenches [l.toNat] s t ∧
      OnlyParts [.regs, .mem, .yards, .ten] s t)) ∧
    (x.sw = some w → w.phase = .save → w.outgoing = some key → quiet s key = false → Gives (.saveDone l) s (fun t => t = s)) ∧
    (x.sw = some w → w.phase = .restore → w.incoming = some key → awake s l.toNat = true → (getCtx s key).res = .empty → Gives (.restoreDone l) s (fun t =>
      (getBench t l.toNat).ctx = some key ∧ (getBench t l.toNat).sw = none ∧ (getCtx t key).res = .resident l.toNat ∧ (getCtx t key).quantumNs = s.clock.ns ∧
      (getCtx t key).heldNs = s.clock.ns ∧ (getCtx t key).waitNs = none ∧ (getCtx t key).mapped = [] ∧ rd t Reg.benchStateRole l.toNat = 1 ∧
      rd t Reg.bankSwitchesCount 0 = (if w.outgoing.isSome then (rd s Reg.bankSwitchesCount 0 + 1) % 2 ^ Reg.bankSwitchesCount.width else rd s Reg.bankSwitchesCount 0) ∧
      SameBenches [l.toNat] s t ∧ t.mem = s.mem)) ∧
    (benchOpen u l.toNat = true → x.ctx = some key → waiters u = [] → s.clock.ns - (getCtx u key).quantumNs < qEff u (key / 32) →
      Gives (.quantumEnd l) s (fun t => t = u)) ∧
    (benchOpen u l.toNat = true → x.ctx = some key → waiters u = [] → qEff u (key / 32) ≤ s.clock.ns - (getCtx u key).quantumNs →
      Gives (.quantumEnd l) s (fun t =>
      (getCtx t key).quantumNs = s.clock.ns ∧ (getCtx t key).starved = false ∧ SameBenches [] s t ∧ OnlyParts [.regs, .yards] s t)) ∧
    (benchOpen u l.toNat = true → x.ctx = none → tenantBenches u < rd u Reg.bankThermTenantCap 0 → freeBenchTaker u l.toNat = some key →
      Gives (.quantumEnd l) s (fun t => starts l.toNat none (some key) .restore false t ∧ OnlyParts [.regs, .yards, .health] s t)) ∧
    (waiting u own = true → saveLotOk u fn.val = true → rd s Reg.bankCfgStarveMs 0 * 1000000 ≤ waitedNs u own + 1000000 →
      (allBenches u).filter (fun b => benchOpen u b && (getBench u b).ctx.isNone && fitsBench u own b && mayGain u fn.val &&
        decide (tenantBenches u < rd u Reg.bankThermTenantCap 0)) = b :: rest →
      Gives (.starvationPoint fn k) s (fun t => starts b none (some own) .restore true t ∧
        rd t Reg.bankStarveSwitches 0 = (rd u Reg.bankStarveSwitches 0 + 1) % 2 ^ Reg.bankStarveSwitches.width ∧ OnlyParts [.regs, .yards, .health] s t)) ∧
    (waitedNs u own + 1000000 < rd s Reg.bankCfgStarveMs 0 * 1000000 → Gives (.starvationPoint fn k) s (fun t => t = u)) ∧
    (waiting u own = false → Gives (.starvationPoint fn k) s (fun t => t = u) ∧ Gives (.eviction fn k) s (fun t => t = u)) ∧
    (waiting u own = true → saveLotOk u fn.val = true → sortBy (fun a b => since a < since b) (takeable u own) = b :: rest →
      (takeable u own).all (fun b => (getBench u b).ctx.any (blocked u)) = true →
      (takeable u own).any (fun b => since b + 1000 * rd s Reg.bankSwitchCfgEvictMinUs 0 ≤ s.clock.ns) = true → (getBench u b).ctx = some key →
      Gives (.eviction fn k) s (fun t => starts b (some key) (some own) .save false t ∧
        rd t Reg.bankEvictionsCount 0 = (rd u Reg.bankEvictionsCount 0 + 1) % 2 ^ Reg.bankEvictionsCount.width))

/-- POWER_STATE_CHOICE of an enabled bench plans the state of largest positive saving over the time to the next event among those the limits allow,
the shallower on a tie, 0 where none saves; it enters a deeper one at once, DARK after the save of a resident context, and starts a wake toward
ACTIVE. BENCH_WAKE of a sleeping bench starts its wake, and gives up a save toward DARK; WAKE_COMPLETE of a waking one makes it ACTIVE. When
blocked_hold_us have passed over a context that is not runnable the bench may go deeper than GATED, and an idle GATED one enters RETENTION. When the
context of a bench outside rotation has been idle for idle_dark_ms, its save begins; before, nothing does. -/
def Obligations.BenchPowerStates : Prop :=
  ∀ (s : State) (l : BitVec 5) (w : Switch) (q key : Nat),
    let b := l.toNat
    let x := getBench s b
    let u := refreshWaits s
    let T := if benchNeeded u b then 0 else (nextEvent u b).getD (2 ^ 64)
    let gain := fun (p : Nat) => saving u p T (movedBytes u b)
    let toSave := fun (t : State) => (getBench t b).sw = some {
      outgoing := x.ctx, incoming := none, phase := .save, startNs := s.clock.ns, graceNs := s.clock.ns, starve := false }
    (b < benchCount s → 1 ≤ q → q ≤ 3 → q ≤ deepest u b → Gives (.powerStateChoice l) s (fun t =>
      let p := rd t Reg.bankBenchPlan b
      (p ≠ 0 → 0 < gain p ∧ p ≤ deepest u b) ∧ p ≤ 3 ∧ gain q ≤ (if p = 0 then 0 else gain p) ∧
      (p ≠ 0 → gain q = gain p → p ≤ q) ∧ (pstate u b < p → p ≠ 3 ∨ x.ctx = none → pstate t b = p) ∧
      (p = 3 → x.ctx ≠ none → toSave t ∧ pstate t b = pstate u b) ∧ (p ≤ pstate u b → pstate t b = pstate u b) ∧
      (p = 0 → pstate u b ≠ 0 → (getBench t b).waking = true) ∧ SameBenches [b] s t ∧ OnlyParts [.regs, .yards, .health] s t)) ∧
    (b < benchCount s → pstate s b ≠ 0 → Gives (.benchWake l) s (fun t => (getBench t b).waking = true ∧ (getBench t b).deep = false ∧
      (getBench t b).ctx = x.ctx ∧ pstate t b = pstate s b ∧ SameBenches [b] s t ∧ OnlyParts [.regs, .yards] s t)) ∧
    (b < benchCount s → x.sw = some w → w.incoming = none → w.phase = .save → Gives (.benchWake l) s (fun t =>
      (getBench t b).sw = none ∧ (getBench t b).ctx = x.ctx ∧ rd t Reg.benchStateCtxXfer b = 0 ∧ SameBenches [b] s t ∧ OnlyParts [.regs, .yards] s t)) ∧
    (x.waking = true → Gives (.wakeComplete l) s (fun t => pstate t b = 0 ∧ rd t Reg.bankBenchPlan b = 0 ∧
      getBench t b = { x with waking := false, deep := false } ∧ OnlyBenches [b] s t ∧ OnlyRegs [(Reg.benchStatePstate, b), (Reg.bankBenchPlan, b)] s t ∧
      OnlyParts [.regs, .yards] s t)) ∧
    (x.waking = false → Gives (.wakeComplete l) s (fun t => t = s)) ∧
    (x.ctx = some key → runnable u key = false → x.sw = none → x.hold = none →
      (((getCtx u key).blockedNs.orElse (fun _ => (getCtx u key).idleNs)).getD s.clock.ns) + 1000 * rd s Reg.bankPwrBlockedHoldUs 0 ≤ s.clock.ns →
      Gives (.blockedHoldExpiry l) s (fun t => getBench t b = { x with deep := true } ∧
        pstate t b = (if pstate s b = 1 ∧ blocked u key = false then 2 else pstate s b) ∧ OnlyBenches [b] u t ∧
        OnlyRegs [(Reg.benchStatePstate, b)] u t ∧ OnlyParts [.regs, .yards] s t)) ∧
    (darkDue u b = true → Gives (.idleDarkExpiry l) s (fun t => toSave t ∧ rd t Reg.benchStateCtxXfer b = 1 ∧ SameBenches [b] s t ∧
      OnlyParts [.regs, .yards, .health] s t)) ∧
    (darkDue u b = false → Gives (.idleDarkExpiry l) s (fun t => t = u))

/-- With nothing unsettled in the fabric. On an UP port that is not in ETHERNET mode, flits whose codewords have at most 15 symbol errors and
whose check holds count what was corrected and take what they acknowledge out of the replay buffer; the next data flit in order is accepted and
acknowledged by an idle flit, a credit flit returns its credits; a flit that fails is answered with a nak and counted. A silent UP port enters
RETRAIN with its replay buffer empty. A RETRAIN attempt brings the port UP with four or eight lanes, or counts, and the third failure takes it DOWN.
A DOWN port the device has starts training and sends its block. A block of another generation ends in state 5, a miswired partner in state 4, and
before the 64th exchange a block that echoes adds its flight. A newer advertisement of another member enters the link map, an older one does not. -/
def Obligations.PortsFollowTheLink : Prop :=
  ∀ (s : State) (pt : BitVec 4) (fs ack : BitVec 12) (crcOk : Bool) (errs : List (BitVec 10)) (vc : BitVec 5) (n lanes : BitVec 8) (b : CapBlock)
    (m : Msg), s.fab.unacked = [] → s.crush.lost = [] →
    let p := pt.toNat
    let l := getLink s p
    let up := linkIn s p 2 = true
    let good := crcOk = true ∧ errs.all (fun e => e.toNat ≤ 15) = true
    let left := if l.replay.any (fun f => f.1 == ack.toNat) then (l.replay.dropWhile (fun (f : Nat × List Byte) => f.1 != ack.toNat)).drop 1
      else l.replay
    let l1 := { l with peerNaks := 0, replay := left }
    let sat := fun (f : Fld) (t : State) => rd t f p = min (rd s f p + 1) (2 ^ f.width - 1)
    let fixed := fun (t : State) => rd t Reg.jeanoPortFecCorrected p = (rd s Reg.jeanoPortFecCorrected p +
      (errs.filter (fun e => e != 0 && e.toNat ≤ 15)).length) % 2 ^ Reg.jeanoPortFecCorrected.width ∧
      OnlyRegs [(Reg.jeanoPortFecCorrected, p)] s t ∧ OnlyParts [.regs, .fab, .out] s t
    let at_ := fun (k : Nat) (t : State) => rd t Reg.jeanoPortState p = k ∧ OnlyParts [.regs, .fab, .out, .free] s t
    let newer := (leNat ((m.data.drop 2).take 2) + 65536 - rd s Reg.jeanoLinkmapVersion (m.srcNode % 64)) % 65536
    (up → good → fs.toNat = l.rxNext → Gives (.dataFlit pt fs ack false crcOk errs) s (fun t =>
      getLink t p = { l1 with rxNext := (l.rxNext + 1) % 4096, naks := 0 } ∧ t.out = .flit p (flitBytes 0 fs.toNat 0 1 0 0 []) :: s.out ∧ fixed t)) ∧
    (up → good → fs.toNat ≠ l.rxNext → Gives (.dataFlit pt fs ack false crcOk errs) s (fun t => getLink t p = l1 ∧ t.out = s.out ∧ fixed t)) ∧
    (up → ¬ good → l.naks < 7 → Gives (.dataFlit pt fs ack false crcOk errs) s (fun t => getLink t p = { l with naks := l.naks + 1 } ∧
      t.out = .flit p (flitBytes 0 (lastGood l) 1 1 0 0 []) :: s.out ∧ at_ 2 t ∧
      rd t Reg.jeanoPortLinkRetries p = (rd s Reg.jeanoPortLinkRetries p + 1) % 2 ^ Reg.jeanoPortLinkRetries.width)) ∧
    (up → good → Gives (.idleFlit pt ack false crcOk errs) s (fun t => getLink t p = l1 ∧ fixed t)) ∧
    (up → good → Gives (.creditFlit pt ack false vc n crcOk errs) s (fun t =>
      getLink t p = { l1 with credits := mapMod l.credits vc.toNat 0 (· - n.toNat) } ∧ fixed t)) ∧
    (¬ up → Gives (.idleFlit pt ack false crcOk errs) s (fun t => t = s) ∧ Gives (.linkSilence pt) s (fun t => t = s)) ∧
    (up → Gives (.linkSilence pt) s (fun t => at_ 3 t ∧ (getLink t p).replay = [] ∧ sat Reg.jeanoPortRetrains t)) ∧
    (linkIn s p 3 = true → lanesUp lanes.toNat = some true → reachedTwice s p (rd s Reg.jeanoPortPartnerNode p) = false →
      Gives (.retrainTimeout pt lanes) s (fun t => at_ 2 t ∧ rd t Reg.jeanoPortLanes4 p = 1)) ∧
    (linkIn s p 3 = true → lanesUp lanes.toNat = none → l.tries < 2 →
      Gives (.retrainTimeout pt lanes) s (fun t => (getLink t p).tries = l.tries + 1 ∧ OnlyParts [.fab] s t)) ∧
    (linkIn s p 3 = true → lanesUp lanes.toNat = none → 2 ≤ l.tries → Gives (.retrainTimeout pt lanes) s (fun t => at_ 0 t ∧ sat Reg.jeanoPortDowns t)) ∧
    (linkIn s p 0 = true → bitOf (rd s Reg.caps0JeanoPortMask 0) p = true →
      Gives (.downRetry pt) s (fun t => at_ 1 t ∧ t.out.head? = some (.cap p (ownCap t p)))) ∧
    (linkIn s p 1 = true → 1 < b.genMin → Gives (.capabilityBlock pt b) s (at_ 5)) ∧
    (linkIn s p 1 = true → b.genMin ≤ 1 → 1 ≤ b.genMax → b.node < 1024 → miswired s p b = true → Gives (.capabilityBlock pt b) s (at_ 4)) ∧
    (linkIn s p 1 = true → b.genMin ≤ 1 → 1 ≤ b.genMax → b.node < 1024 → miswired s p b = false → b.tEcho ≠ 0 → l.exchanges < 63 →
      Gives (.capabilityBlock pt b) s (fun t => at_ 1 t ∧ rd t Reg.jeanoPortPartnerNode p = b.node ∧ getLink t p = { l with
        lastTx := b.tTx, lastRx := b.arrival, exchanges := l.exchanges + 1,
        flightSum := l.flightSum + (b.arrival + 2 ^ 33 - b.tEcho % 2 ^ 32 - b.tHold % 2 ^ 32) % 2 ^ 32 / 2 })) ∧
    (RequestArrives s .lsa m = true → sameDomain s m.srcNode = true → Gives (.lsa m) s (fun t => OnlyParts [.regs, .fab, .out, .free] s t ∧
      (newer = 0 ∨ 32768 ≤ newer → rd t Reg.jeanoLinkmapUp (m.srcNode % 64) = rd s Reg.jeanoLinkmapUp (m.srcNode % 64)) ∧
      (newer ≠ 0 → newer < 32768 → rd t Reg.jeanoLinkmapUp (m.srcNode % 64) = leNat (m.data.take 2) ∧
        rd t Reg.jeanoLinkmapVersion (m.srcNode % 64) = leNat ((m.data.drop 2).take 2) ∧
        rd t Reg.jeanoLsaCountCount 0 = (rd s Reg.jeanoLsaCountCount 0 + 1) % 2 ^ Reg.jeanoLsaCountCount.width)))

/-- A request that this device applies at once, to a function whose range translates to one run, no line of DRAM holding an error and the end
lines of the run stored under the key that writes them. READ of class S sends the run's bytes back under the request's sequence, while the output
queue does not age it out, and changes no byte. WRITE stores its data at the run; an ATOMIC without fetch the new value of R210; a REDUCE of no round
each element combined with the one there; and no other byte changes. SIGNAL adds its increment to its tally and to no other. MSG with room in the ring
stores its header and data in the next slot and the new tail, and signals the ring's tally. A request of another job changes no byte and no tally. -/
def Obligations.RequestsApplyAtTheTarget : Prop :=
  ∀ (s : State) (m : Msg) (pa pb p : Nat) (x : Route), s.mem.err = [] → s.fab.unacked = [] → s.crush.lost = [] →
    let f := m.dstFn
    let n := if m.aux % 16 < 2 then 4 else 8
    let bytes := fun (t : State) (a n : Nat) => (List.range n).map (fun i => memByte t.mem (a + i))
    let pay := m.data.drop 8
    let k := leNat (m.data.take 4)
    let ring := rd s Reg.fabVfRxBase f * 4096
    let slots := 2 ^ rd s Reg.fabVfRxLog2 f - 1
    let tail := leNat ((runBytes s [(pb, 8)]).drop 4) % slots
    let slot := leBytes 64 (m.srcNode % 1024 + m.srcFn % 1024 * 2 ^ 16 + m.data.length % 8192 * 2 ^ 32 + m.tag % 2 ^ 16 * 2 ^ 48) ++ m.data
    let sum := redBytesOf (m.aux % 16) (m.aux / 16) (runBytes s [(pa, pay.length)]) pay
    let parts := fun (t : State) => OnlyParts [.regs, .mem, .work, .fab, .ten, .out, .free] s t
    (RequestArrives s .read m = true → m.cls = .s → xlatRange s f m.addr m.len false = .ok [(pa, m.len)] → replyRoute s { m with kind := .read } = some x →
      Gives (.read m) s (fun t => OnlyBytes 0 0 s t ∧ SameTallies [] s t ∧ parts t ∧
        (1 + Config.queueTime s.free x.port < 64 → t.out.any (fun o => match o with
          | .fabric q r => q == x.port && r.kind == .readData && r.cls == .s && r.seq == m.seq && r.dstNode == m.srcNode && r.dstFn == m.srcFn &&
              r.srcNode == ownNode s && r.srcInc == ownInc s && r.dstInc == m.srcInc && r.srcEpoch == m.srcEpoch && r.len == m.len &&
              r.data == runBytes s [(pa, m.len)] && r.check == msgCheck r
          | _ => false) = true))) ∧
    (RequestArrives s .write m = true → xlatRange s f m.addr m.data.length true = .ok [(pa, m.data.length)] → keyKept s pa m.data.length = true →
      Gives (.write m) s (fun t => bytes t pa m.data.length = m.data ∧ OnlyBytes pa m.data.length s t ∧ SameTallies [] s t ∧ parts t)) ∧
    (RequestArrives s .atomic m = true → m.fetch = false → xlatRange s f m.addr n false = .ok [(pa, n)] → xlatRange s f m.addr n true = .ok [(pa, n)] →
      keyKept s pa n = true → Gives (.atomicMessage m) s (fun t => bytes t pa n = leBytes n (atomicNew (m.aux % 16) (m.aux / 16)
          (leNat (runBytes s [(pa, n)])) (leNat (m.data.take 8)) (leNat ((m.data.drop 8).take 8))) ∧
        OnlyBytes pa n s t ∧ SameTallies [] s t ∧ parts t)) ∧
    (RequestArrives s .reduce m = true → redN m = 0 → sum.length = pay.length → xlatRange s f m.addr pay.length false = .ok [(pa, pay.length)] →
      xlatRange s f m.addr pay.length true = .ok [(pa, pay.length)] → keyKept s pa pay.length = true →
      Gives (.reduceMessage m) s (fun t => bytes t pa pay.length = sum ∧ OnlyBytes pa pay.length s t ∧ SameTallies [] s t ∧ parts t)) ∧
    (RequestArrives s .signal m = true → Gives (.signalMessage m) s (fun t => tallyGet t f (k % 1024) = (tallyGet s f (k % 1024) + k / 2 ^ 16) % 2 ^ 32 ∧
      SameTallies [1024 * f + k % 1024] s t ∧ OnlyBytes 0 0 s t ∧ parts t)) ∧
    (RequestArrives s .msg m = true → 2 ≤ rd s Reg.fabVfRxLog2 f → rd s Reg.fabVfRxLog2 f ≤ 12 → xlatRange s f ring 8 false = .ok [(pb, 8)] →
      (tail + 1) % slots ≠ leNat ((runBytes s [(pb, 8)]).take 4) % slots →
      xlatRange s f (ring + 4096 * (1 + tail)) slot.length true = .ok [(pa, slot.length)] → keyKept s pa slot.length = true → keyKept s (pb + 4) 4 = true →
      xlatRange { s with mem := memPutBytes (lineKey s) s.mem pa slot } f (ring + 4) 4 true = .ok [(pb + 4, 4)] → (pa + slot.length ≤ pb ∨ pb + 8 ≤ pa) →
      Gives (.msg m) s (fun t => bytes t pa slot.length = slot ∧ bytes t (pb + 4) 4 = leBytes 4 ((tail + 1) % slots) ∧
        ((p < pa ∨ pa + slot.length ≤ p) → (p < pb + 4 ∨ pb + 8 ≤ p) → memByte t.mem p = memByte s.mem p) ∧
        tallyGet t f (rd s Reg.fabVfRxTally f) = (tallyGet s f (rd s Reg.fabVfRxTally f) + 1) % 2 ^ 32 ∧ parts t)) ∧
    (RequestArrives { s with regs := (wr s Reg.fabVfJob f m.job).regs } .write m = true → m.job ≠ rd s Reg.fabVfJob f →
      Gives (.write m) s (fun t => t.mem = s.mem ∧ t.work = s.work ∧ parts t))

/-- An answer for the only unsettled message, no line of DRAM holding an error. READ_DATA gives its bytes to the GET that waits for it alone, which
has then executed; ATOMIC_RESULT stores the old value at the run of its result, signals and completes the command; ACK settles a write; NAK with a
rights reason settles it and logs PERMISSION to its function, BUSY leaves it. A resend timer that has run out sends a class S message again with its
interval doubled up to 100 µs. Unsettled for dead_us, a class T write settles with TARGET_DEAD where its node was not heard since, else
FABRIC_TIMEOUT, in its function's log. Before their times these timers have no effect. A held message that expires is dropped; a round that times out
is discarded. S_ABORT names its node and settles what class S had sent there. -/
def Obligations.AnswersAndTimersSettle : Prop :=
  ∀ (s : State) (m : Msg) (mid pa q f : Nat) (u : Unacked) (c : Cmd) (fn : Fin 513) (line : Nat) (rn : BitVec 32) (nd : BitVec 10) (r : Round),
    s.crush.lost = [] → s.mem.err = [] →
    let e := getTake c u.off (m.data.take u.msg.len)
    let got := if c.b 6 1 = 1 then (runAddrs c.dstRuns).map (fun a => mapGet e.dramWrites a 0)
      else (List.range (c.b 32 32)).map (fun i => mapGet e.writes (c.b 64 24 + i) 0)
    let n := if u.msg.aux % 16 < 2 then 4 else 8
    let settled := fun (t : State) => t.fab.unacked = [] ∧ t.fab.held = s.fab.held ∧ t.crush = s.crush
    let dead := rd s Reg.jeanoCfgDeadUs 0 * 1000
    let heard := (mapFind s.fab.heard u.msg.dstNode).any (fun t => decide (u.firstNs ≤ t))
    let logged := fun (st : Status) (t : State) => t.regs = (logErr s u.msg.srcFn st 2 0 (u.peer % 1024)).regs ∧ t.work = s.work
    let tally := if c.b 356 1 = 1 then tallyInc s f (c.b 346 10) 1 else s
    (AnswerArrives s .readData m mid u = true → u.msg.kind = .read → getCmd s u.cid = some c → c.awaits = [mid] → c.st = .dispatched →
      (getCtx s (cmdCtx c)).epoch % 256 = m.srcEpoch % 256 → Gives (.readData m) s (fun t => getCmd t u.cid = some { e with
        st := .issued, hasOut := givesOutput c.status, assay := if givesOutput c.status then crc64 got else 0 } ∧
        settled t ∧ OnlyCmds [u.cid] s t ∧ OnlyParts [.work, .fab, .out] s t)) ∧
    (AnswerArrives s .atomicResult m mid u = true → u.msg.kind = .atomic → u.msg.fetch = true → m.status = .ok → getCmd s u.cid = some c →
      c.owner = .queue f q → xlatRange s f (c.b 64 48) n true = .ok [(pa, n)] → keyKept s pa n = true → Gives (.atomicResult m) s (fun t =>
        (List.range n).map (fun i => memByte t.mem (pa + i)) = leBytes n (leNat m.data) ∧ OnlyBytes pa n s t ∧
        (∃ e, getCmd t u.cid = some e ∧ e.st = .done ∧ e.status = .ok ∧ e.hasOut = true ∧ e.assay = crc64 (leBytes n (leNat m.data))) ∧
        t.work.tallies = (applySignals tally f c.signals).work.tallies ∧ settled t ∧ OnlyParts [.mem, .work, .fab, .ten, .out] s t)) ∧
    (AnswerArrives s .ack m mid u = true → u.msg.kind = .write → u.msg.fetch = false → m.ordPrev = 0 →
      Gives (.ack m) s (fun t => settled t ∧ OnlyParts [.fab, .out] s t)) ∧
    (AnswerArrives s .nak m mid u = true → u.msg.kind = .write → m.ordPrev = 5 → fenceCovers s mid = false → Gives (.nak m) s (fun t =>
      settled t ∧ logged .permission t ∧ OnlyParts [.regs, .fab, .out] s t)) ∧
    (AnswerArrives s .nak m mid u = true → u.localDue = false → m.ordPrev = 1 →
      Gives (.nak m) s (fun t => t.fab.unacked = s.fab.unacked ∧ OnlyParts [.fab, .out] s t)) ∧
    (s.fab.unacked = [(mid, u)] → u.sent = true → u.localDue = false → u.msg.cls = .s → u.msg.dstNode ≠ ownNode s → u.interval ≠ 0 →
      (s.clock.ns < u.lastNs + max 10000 u.interval → Gives (.resendTimer mid) s (fun t => t = s)) ∧
      (u.lastNs + max 10000 u.interval ≤ s.clock.ns → Gives (.resendTimer mid) s (fun t => ∃ v, getUn t mid = some v ∧ v.resends = u.resends + 1 ∧
        v.interval = min 100000 (2 * u.interval) ∧ v.msg.seq = u.msg.seq ∧ v.msg.data = u.msg.data ∧ v.firstNs = u.firstNs ∧
        OnlyParts [.regs, .fab, .out, .free] s t))) ∧
    (s.fab.unacked = [(mid, u)] → u.sent = true → u.msg.cls = .t → u.msg.kind = .write → fenceCovers s mid = false →
      (s.clock.ns < u.firstNs + dead → Gives (.deadBound mid) s (fun t => t = s)) ∧
      (u.firstNs + dead ≤ s.clock.ns → Gives (.deadBound mid) s (fun t => settled t ∧ logged (if heard then .fabricTimeout else .targetDead) t ∧
        OnlyParts [.regs, .fab] s t))) ∧
    (s.fab.held = [m] → m.srcNode = nd.toNat → m.seq = rn.toNat → Gives (.messageLifetimeExpiry nd m.cls rn) s (fun t => t.fab.held = [] ∧
      t.fab.unacked = s.fab.unacked ∧ OnlyParts [.regs, .fab] s t)) ∧
    (s.fab.rounds = [r] → r.fn = fn.val → r.line = line → r.round = rn.toNat → s.fab.unacked = [] → r.parts.all (fun m => m.srcNode != ownNode s) = true →
      (s.clock.ns < r.firstNs + dead → Gives (.roundTimeout fn line rn) s (fun t => t = s)) ∧
      (r.firstNs + dead ≤ s.clock.ns → Gives (.roundTimeout fn line rn) s (fun t => t.fab.rounds = [] ∧
        (∀ m ∈ r.parts, mapFind t.fab.refused (winKey m * 2 ^ 32 + m.seq) = some 4) ∧ OnlyParts [.regs, .fab, .out, .free] s t))) ∧
    (reachable s 0x500010 = true → Gives (.jeanoSAbort nd) s (fun t => rd t Reg.jeanoSAbortNode 0 = nd.toNat ∧ rd t Reg.jeanoSAbortGo 0 = 1 ∧
      OnlyRegs [(Reg.jeanoSAbortNode, 0), (Reg.jeanoSAbortGo, 0)] s t ∧ OnlyParts [.regs] s t)) ∧
    (rd s Reg.jeanoSAbortGo 0 ≠ 0 → s.fab.unacked = [(mid, u)] → u.msg.cls = .s → u.msg.dstNode = rd s Reg.jeanoSAbortNode 0 → u.msg.srcFn ≤ 512 →
      u.msg.kind = .write → s.crush.colls = [] → Gives .sAbortSettle s (fun t => settled t ∧ rd t Reg.jeanoSAbortGo 0 = 0)) ∧
    (rd s Reg.jeanoSAbortGo 0 = 0 → Gives .sAbortSettle s (fun t => t = s))

/-- Reference loss clears ref_ok, sets ref_lost and TIME's health cause, and a LOCKED time goes to HOLDOVER; a PLL's loss clears its lock bit and sets
lock_lost. The loss of the source (and an announce timeout for PTP, a 1PPS loss for PPS_IN, a leader loss for JEANO) takes a LOCKED time to HOLDOVER with
its start noted; another source's timeout has no effect. The reference's or the source's return, with the other there, starts ACQUIRING from start or
holdover. Lock while ACQUIRING, with both there and the offset below 100 ns for 16 s, makes it LOCKED, once and for all. HOLDOVER that has lasted
longer than max_s expires, and mutes the active cells whose holdover action is to mute; before, nothing expires. Time does not jump at any of these. -/
def Obligations.TimeStatesFollow : Prop :=
  ∀ (s : State) (j : Nat), j < 64 → s.radio.plan = [] ∨ s.radio.plan = [(j, s.radio.plan.head?.elim default (·.2))] →
    let st := rd s Reg.timeStateState 0
    let src := rd s Reg.timeStateSrc 0
    let starts := st = 0 ∨ st = 3 ∨ st = 4
    let held := fun (t : State) => rd t Reg.timeStateState 0 = 3 ∧ t.clock = { s.clock with srcOk := false, holdSince := some s.clock.up } ∧
      OnlyRegs [(Reg.timeStateState, 0)] s t ∧ OnlyParts [.regs, .clock] s t
    let acquired := fun (ok : Bool) (go : Prop) (t : State) => (go → rd t Reg.timeStateState 0 = 1 ∧ t.clock = { s.clock with srcOk := ok, below := none }) ∧
      (¬ go → rd t Reg.timeStateState 0 = st ∧ t.clock = { s.clock with srcOk := ok })
    let ref := [(Reg.timeClkStatusRefOk, 0), (Reg.timeClkStatusRefLost, 0), (Reg.healthCauseTime, 0), (Reg.timeStateState, 0), (Reg.cellState, j)]
    Gives .referenceLoss s (fun t => rd t Reg.timeClkStatusRefOk 0 = 0 ∧ rd t Reg.timeClkStatusRefLost 0 = 1 ∧ rd t Reg.healthCauseTime 0 = 1 ∧
      (st = 2 → rd t Reg.timeStateState 0 = 3 ∧ t.clock = { s.clock with holdSince := some s.clock.up }) ∧ (st = 0 ∨ 3 ≤ st → rd t Reg.timeStateState 0 = st) ∧
      t.clock.ns = s.clock.ns ∧ OnlyRegs ref s t ∧ OnlyParts [.regs, .ten, .clock, .out] s t) ∧
    Gives .referenceReturn s (fun t => rd t Reg.timeClkStatusRefOk 0 = 1 ∧ acquired s.clock.srcOk (src ≠ 0 ∧ s.clock.srcOk = true ∧ starts) t ∧
      OnlyRegs [(Reg.timeClkStatusRefOk, 0), (Reg.timeStateState, 0)] s t ∧ OnlyParts [.regs, .clock] s t) ∧
    Gives (.pllLockLoss .serdes) s (fun t => rd t Reg.timeClkStatusSerdesLock 0 = 0 ∧ rd t Reg.timeClkStatusLockLost 0 = 1 ∧ rd t Reg.healthCauseTime 0 = 1 ∧
      OnlyRegs [(Reg.timeClkStatusSerdesLock, 0), (Reg.timeClkStatusLockLost, 0), (Reg.healthCauseTime, 0)] s t ∧ OnlyParts [.regs, .ten, .out] s t) ∧
    (src ≠ 0 → st = 2 → Gives .sourceLoss s held) ∧ (src = 1 → st = 2 → Gives .announceTimeout s held) ∧
    (src = 2 → st = 2 → Gives .ppsLoss s held) ∧ (src = 3 → st = 2 → Gives .leaderLoss s held) ∧
    (src ≠ 1 → Gives .announceTimeout s (fun t => t = s)) ∧ (src ≠ 2 → Gives .ppsLoss s (fun t => t = s)) ∧ (src ≠ 3 → Gives .leaderLoss s (fun t => t = s)) ∧
    (src ≠ 0 → Gives .sourceReturn s (fun t => acquired true (rdB s Reg.timeClkStatusRefOk 0 = true ∧ starts) t ∧
      OnlyRegs [(Reg.timeStateState, 0)] s t ∧ OnlyParts [.regs, .clock] s t)) ∧
    (st = 1 → followed s = true → lockDue s = true → Gives .lockAchieved s (fun t => rd t Reg.timeStateState 0 = 2 ∧
      t.clock = { s.clock with everLocked := true, holdSince := none } ∧ fnReady t 16 = true ∧ OnlyParts [.regs, .clock] s t)) ∧
    (st ≠ 1 ∨ followed s = false ∨ lockDue s = false → Gives .lockAchieved s (fun t => t = s)) ∧
    (st = 3 → holdExpired s = true → Gives .holdoverExpired s (fun t => rd t Reg.timeStateState 0 = 4 ∧
      (s.radio.plan ≠ [] → rd t Reg.cellState j = (if rd s Reg.cellState j = 4 ∧ rd s Reg.cellHoldMute j ≠ 0 then 5 else rd s Reg.cellState j)) ∧
      OnlyRegs [(Reg.timeStateState, 0), (Reg.cellState, j)] s t ∧ OnlyParts [.regs] s t)) ∧
    (st ≠ 3 ∨ holdExpired s = false → Gives .holdoverExpired s (fun t => t = s))

/-- TIME_ADDEND and TIME_STEP of the owner (the manager while the source is FREE, else firmware), on a reachable register, set an addend within
±1,000 ppm of nominal, and add a signed number of nanoseconds while no cell is active, by one write or by its low and high words; of anyone else they are
discarded and logged with PERMISSION. A leader's answer and a Delay_Resp that ends an exchange show the offset in picoseconds; an addend that the servo
then chooses (a free value of the model) lies in the permitted range. Sync and Follow_Up of the source note arrival and departure in sixteenths of a
nanosecond, and a boundary clock answers Delay_Req with the arrival and sends Sync with its Follow_Up on the ports of its profile. The device's own
Delay_Req notes its departure. ESMC of the selected port and Announce of the source enter what the profile's choice makes of them. -/
def Obligations.TimeBaseAndPtp : Prop :=
  ∀ (s : State) (v : BitVec 40) (d e : BitVec 64) (lo hi : BitVec 32) (mgr : Bool) (q : BitVec 4) (dom lev : BitVec 8) (ds : BitVec 256)
    (nd : BitVec 10) (t1 t2 t3 : Nat),
    let src := rd s Reg.timeStateSrc 0
    let p := s.clock.ptp
    let k := q.toNat
    let nominal := 0xF3CF3CF4
    let owner := mgr = decide (src = 0)
    let there := fun (a : Nat) => mgr = false ∨ reachable s a = true
    let inRange := fun (a : Nat) => nominal - nominal / 1000 ≤ a ∧ a ≤ nominal + nominal / 1000
    let from_ := src = 1 ∧ k = rd s Reg.timeStateSrcPort 0 ∧ dom.toNat = p.domain
    let shown := fun (ps : Int) (t : State) => rd t Reg.timeOffsetOffsetPs 0 = (max (-(2 ^ 31)) (min (2 ^ 31 - 1) ps) % (2 ^ 32 : Int)).toNat ∧
      (rd t Reg.timeAddendAddend 0 = rd s Reg.timeAddendAddend 0 ∨ inRange (rd t Reg.timeAddendAddend 0)) ∧ t.clock.ns = s.clock.ns ∧
      OnlyRegs [(Reg.timeOffsetOffsetPs, 0), (Reg.timeAddendAddend, 0)] s t ∧ OnlyParts [.regs, .clock, .free] s t
    let ptp := fun (p : Ptp) (t : State) => t.clock = { s.clock with ptp := p } ∧ OnlyParts [.clock] s t
    let stepped := fun (v : Int) (low : Nat) (t : State) => t.clock.ns = (((s.clock.ns : Int) + v) % 2 ^ 64).toNat ∧ t.clock.stepLow = low ∧
      t.clock.frac = s.clock.frac ∧ OnlyParts [.clock] s t
    (owner → there 0x700020 → inRange v.toNat → Gives (.timeAddend v mgr) s (fun t => rd t Reg.timeAddendAddend 0 = v.toNat ∧
      OnlyRegs [(Reg.timeAddendAddend, 0)] s t ∧ OnlyParts [.regs] s t)) ∧
    (owner → there 0x700020 → ¬ inRange v.toNat → Gives (.timeAddend v mgr) s (fun t => t = logErr s 0 .badFormat 0 0 0x700020)) ∧
    (owner → there 0x700028 → cellsActive s = false → Gives (.timeStep (.whole d) mgr) s (stepped d.toInt s.clock.stepLow) ∧
      Gives (.timeStep (.high hi) mgr) s (stepped (signedOf (hi.toNat * 2 ^ 32 + s.clock.stepLow) 64) 0)) ∧
    (there 0x700028 → Gives (.timeStep (.low lo) mgr) s (fun t => t = { s with clock := { s.clock with stepLow := lo.toNat } })) ∧
    (owner → there 0x700028 → cellsActive s = true → Gives (.timeStep (.whole d) mgr) s (fun t => t = logErr s 0 .permission 0 0 0x700028)) ∧
    (¬ owner → (there 0x700020 → Gives (.timeAddend v mgr) s (fun t => t = logErr s 0 .permission 0 0 0x700020)) ∧
      (there 0x700028 → src ≠ 2 → Gives (.timeStep (.whole d) mgr) s (fun t => t = logErr s 0 .permission 0 0 0x700028))) ∧
    (src = 3 → Gives (.timeMessage (.answer q d e)) s (shown (((s.clock.ns : Int) - (d.toNat + rd s Reg.jeanoPortFlightNs k + e.toNat : Nat)) * 1000)) ∧
      Gives (.timeMessage .due) s (fun t => t = emit s (.timeMsg s.boot.image.leader s.clock.ns))) ∧
    (src ≠ 3 → Gives (.timeMessage (.answer q d e)) s (fun t => t = s)) ∧
    (timeNode s = s.boot.image.leader → Gives (.timeMessage (.request nd)) s (fun t => t = emit s (.timeMsg nd.toNat s.clock.ns))) ∧
    (from_ → Gives (.sync q dom (some d)) s (ptp { p with t1 := some (d.toNat * 16), t2 := some (rxTime s k) }) ∧
      Gives (.sync q dom none) s (ptp { p with t1 := none, t2 := some (rxTime s k) }) ∧
      Gives (.followUp q dom d) s (ptp { p with t1 := some (d.toNat * 16) }) ∧
      Gives (.announce q dom ds) s (ptp { p with parent := Config.bestMaster p.parent ds.toNat }) ∧
      Gives (.ptpMessageInterval q .delayReq) s (fun t => t.clock = { s.clock with ptp := { p with t3 := some (txTime s k) } } ∧
        t.out = .ptp k .delayReq (txTime s k) :: s.out ∧ OnlyParts [.clock, .out] s t) ∧
      (p.t1 = some t1 → p.t2 = some t2 → p.t3 = some t3 → Gives (.delayResp q dom d) s (fun t =>
        shown ((((t2 : Int) - t1) - ((d.toNat * 16 : Nat) - t3)) * 125 / 4) t ∧ t.clock.ptp = { p with t3 := none }))) ∧
    (src = 0 ∨ src = 3 → Gives (.sync q dom (some d)) s (fun t => t = s) ∧ Gives (.delayResp q dom d) s (fun t => t = s)) ∧
    (sendsTime s k = true → Gives (.ptpMessageInterval q .sync) s (fun t =>
      t = emit (emit s (.ptp k .sync (txTime s k))) (.ptp k .followUp (txTime s k))) ∧
      (dom.toNat = p.domain → Gives (.delayReq q dom) s (fun t => t = emit s (.ptp k .delayResp (rxTime s k))))) ∧
    (sendsTime s k = false → Gives (.delayReq q dom) s (fun t => t = s)) ∧
    (p.synceOpt ≠ 0 → k = p.syncePort → Gives (.esmc q lev) s (fun t =>
      rd t Reg.timeStateSynceOk 0 = (if Config.synceOk p.synceOpt lev.toNat then 1 else 0) ∧ OnlyRegs [(Reg.timeStateSynceOk, 0)] s t ∧
      OnlyParts [.regs, .out] s t)) ∧
    (p.synceOpt = 0 ∨ k ≠ p.syncePort → Gives (.esmc q lev) s (fun t => t = s))

/-- A departure on a queue that takes timestamps enters its id and its time, or with 64 in it is counted as lost. A read pops the oldest entry into the
registers, or shows an empty queue; an entry that the full queue lost in the same G-clock enters after all. A manager comparator that is not armed takes
its staged group at the commit; one that is armed and not due keeps its group, the new one waits and the commit bit reads 1, for firmware's commits too; a
bad group is logged. A comparator that is not due does not fire; a due one-shot drives its pin, remembers what it fired for, and is late where its time had
passed; a due periodic one pulses its pin and its compare value moves on by whole periods beyond the time. A selected edge is stamped on an input with
room, and popped. 1PPS_OUT rises for its width at a whole second plus its offset, where enabled, and not otherwise. -/
def Obligations.TimestampsAndComparators : Prop :=
  ∀ (s : State) (q : BitVec 4) (id : BitVec 16) (k : BitVec 6) (g : TrigGroup) (arm : Bool) (r : LoopIn) (up : Bool) (e : Nat × Nat × Nat)
    (l : List (Nat × Nat × Nat)) (c : Nat × Bool) (cs : List (Nat × Bool)),
    let j := q.toNat
    let i := k.toNat
    let tq := mapGet s.clock.tsq j []
    let tx := txTime s j
    let lost := match mapFind s.clock.tsqDrop j with | some (n, _, d) => if n = s.clock.g then [d] else [] | none => []
    let own := trigGroup s i
    let off := 0x70200C + 32 * i
    let turns := (s.clock.ns - own.compareNs) / own.periodNs + 1
    let staged : TrigGroup := {
      compareNs := rd s Reg.trigCompareNs i, periodNs := rd s Reg.trigPeriodNs i, action := rd s Reg.trigAction i, target := rd s Reg.trigTarget i }
    let late := if own.compareNs < s.clock.ns ∨ s.clock.stepTo = some own.compareNs then 1 else rd s Reg.trigLate i
    (tsqTakes s j = true → tq.length < 64 → Gives (.timestampPush q id) s (fun t =>
      mapGet t.clock.tsq j [] = tq ++ [(id.toNat, tx / 16 % 2 ^ 64, tx % 16 * 2 ^ 28)] ∧ OnlyParts [.clock] s t)) ∧
    (tsqTakes s j = true → 64 ≤ tq.length → Gives (.timestampPush q id) s (fun t => rd t Reg.tsqOverflow j = 1 ∧ mapGet t.clock.tsq j [] = tq ∧
      rd t Reg.tsqOverflowCount j = (rd s Reg.tsqOverflowCount j + 1) % 2 ^ Reg.tsqOverflowCount.width ∧ OnlyParts [.regs, .clock] s t)) ∧
    (tsqTakes s j = false → Gives (.timestampPush q id) s (fun t => t = s)) ∧
    (j < 12 → reachable s (0x701000 + 32 * j) = true → pfClosed s (0x701000 + 32 * j) = none →
      (tq = e :: l → Gives (.tsqId q) s (fun t => mapGet t.clock.tsq j [] = l ++ lost ∧ rd t Reg.tsqId j = e.1 % 2 ^ Reg.tsqId.width ∧
        rd t Reg.tsqValid j = 1 ∧ rd t Reg.tsqFill j = (l ++ lost).length % 2 ^ Reg.tsqFill.width ∧ rd t Reg.tsqTsNs j = e.2.1 % 2 ^ Reg.tsqTsNs.width ∧
        OnlyParts [.regs, .clock, .out] s t)) ∧
      (tq = [] → Gives (.tsqId q) s (fun t => rd t Reg.tsqValid j = 0 ∧ rd t Reg.tsqFill j = 0 ∧ OnlyParts [.regs, .out] s t))) ∧
    (48 ≤ i → reachable s off = true →
      (trigBad i staged = false → rdB s Reg.trigArmed i = false → Gives (.trigCommit k none arm) s (fun t => trigGroup t i = staged ∧
        rd t Reg.trigCommit i = 0 ∧ OnlyParts [.regs, .live, .clock] s t)) ∧
      (trigBad i staged = false → rdB s Reg.trigArmed i = true → trigDue s i = false → Gives (.trigCommit k none arm) s (fun t =>
        mapFind t.clock.trigNext i = some staged ∧ rd t Reg.trigCommit i = 1 ∧ trigGroup t i = own ∧ OnlyParts [.regs, .clock] s t)) ∧
      (trigBad i staged = true → Gives (.trigCommit k none arm) s (fun t => t = logErr s 0 .badFormat 0 0 off))) ∧
    (i < 48 → trigBad i g = true → Gives (.trigCommit k (some g) arm) s (fun t => t = logErr s 0 .badFormat 0 0 off)) ∧
    (i < 48 → trigBad i g = false → s.clock.trigNext = [] → rdB s Reg.trigArmed i = true → trigDue s i = false → arm = true →
      Gives (.trigCommit k (some g) arm) s (fun t => trigGroup t i = own ∧ mapFind t.clock.trigNext i = some g ∧ rd t Reg.trigArmed i = 1 ∧
        rd t Reg.trigCommit i = 1 ∧ OnlyParts [.regs, .clock] s t)) ∧
    (i < 48 → trigBad i g = false → s.clock.trigNext = [] → rdB s Reg.trigArmed i = false ∨ arm = false → Gives (.trigCommit k (some g) arm) s (fun t =>
      trigGroup t i = { compareNs := g.compareNs % 2 ^ 64, periodNs := g.periodNs % 2 ^ Reg.trigPeriodNs.width, action := g.action, target := g.target } ∧
      rd t Reg.trigArmed i = (if arm then 1 else 0) ∧ rd t Reg.trigCommit i = 0 ∧ t.clock.trigNext = [] ∧ OnlyParts [.regs, .live, .clock] s t)) ∧
    (trigDue s i = false → Gives (.triggerFire k r) s (fun t => t = s)) ∧
    (trigDue s i = true → mapFind s.clock.trigNext i = none → own.periodNs = 0 → own.action = 2 → pinLost s i own.target = false →
      Gives (.triggerFire k r) s (fun t => t.out = .pin own.target true :: s.out ∧ own.target ∈ t.clock.evt ∧ trigDue t i = false ∧ rd t Reg.trigLate i = late ∧
        OnlyRegs [(Reg.trigLate, i)] s t ∧ OnlyParts [.regs, .clock, .out] s t)) ∧
    (trigDue s i = true → mapFind s.clock.trigNext i = none → own.periodNs ≠ 0 → own.action = 5 → pinLost s i own.target = false →
      Gives (.triggerFire k r) s (fun t => t.out = .pulse own.target :: s.out ∧
        rdLive t Reg.trigCompareNs i = (own.compareNs + turns * own.periodNs) % 2 ^ 64 ∧ s.clock.ns < own.compareNs + turns * own.periodNs ∧
        rd t Reg.trigMissed i = (rd s Reg.trigMissed i + (turns - 1)) % 2 ^ Reg.trigMissed.width ∧ rd t Reg.trigLate i = late ∧
        OnlyRegs [(Reg.trigLate, i), (Reg.trigMissed, i)] s t ∧ OnlyParts [.regs, .live, .clock, .out] s t)) ∧
    (j < 8 → rdB s Reg.capEnable j = true → (rd s Reg.capEdge j = 2 ∨ rd s Reg.capEdge j = (if up then 0 else 1)) → (mapGet s.clock.cap j []).length < 8 →
      Gives (.captureEdge q up) s (fun t => mapGet t.clock.cap j [] = mapGet s.clock.cap j [] ++ [(s.clock.ns, up)] ∧
        rd t Reg.capFill j = (mapGet s.clock.cap j []).length + 1 ∧ OnlyRegs [(Reg.capFill, j)] s t ∧ OnlyParts [.regs, .clock] s t)) ∧
    (j < 9 → reachable s (0x703004 + 32 * j) = true → pfClosed s (0x703004 + 32 * j) = none → mapGet s.clock.cap j [] = c :: cs →
      Gives (.capPop q) s (fun t => mapGet t.clock.cap j [] = cs ∧ rd t Reg.capValid j = 1 ∧
        rd t Reg.capTsNs j = c.1 % 2 ^ Reg.capTsNs.width ∧ rd t Reg.capRising j = (if c.2 then 1 else 0) ∧ OnlyParts [.regs, .clock, .out] s t)) ∧
    (ppsDue s = true → Gives .ppsOut s (fun t =>
      t = emit { s with clock := { s.clock with ppsLast := some s.clock.ns } } (.pps (rd s Reg.timePpsOutWidthMs 0)))) ∧
    (ppsDue s = false → Gives .ppsOut s (fun t => t = s))

/-- A FAPI request tail beyond the ring is discarded and logged; a good one on an enabled pair is taken whole and its head follows; one new
entry with zero reserved fields is a published group, and the running cores of the pair see the FAPI event. Every cell but an OFF one answers PARAM.request on pair 0.
CONFIG.request in IDLE or CONFIGURED sets the parameters and leaves CONFIGURED, a bad TLV is answered MSG_INVALID_CONFIG and another state MSG_INVALID_STATE;
START runs a CONFIGURED cell from the next 10 ms frame; STOP makes a RUNNING cell CONFIGURED and gives up its work and HARQ buffers. An indication that does not fit its pair is dropped and counted.
No slot indication is written before its lead; one of an active cell carries RADIO_LATE behind its lead, SYNC_STATE when muted. The error code numbers are the model's (log 90). -/
def Obligations.FapiRingsAndCellRequests : Prop :=
  ∀ (s : State) (ring : BitVec 4) (value : BitVec 32) (cell : BitVec 9) (tlvs : List CfgTlv) (sfn : BitVec 10) (slot : BitVec 7) (p : CellPlan)
    (core : Fin 64),
    let r := ring.toNat
    let c := cell.toNat
    let n := 2 ^ rd s Reg.fapiRingReqLog2 r
    let up := reachable s (0x820018 + 64 * r) = true
    let okLog := 2 ≤ rd s Reg.fapiRingReqLog2 r ∧ rd s Reg.fapiRingReqLog2 r ≤ 12
    let head := rd s Reg.fapiRingReqHead r % n
    let at_ := rd s Reg.fapiRingReqBase r + 32 * head
    let e := leNat (hostBytes s (rd s Reg.fapiRingPasid r) at_ 32)
    let tells := fun (k : Nat) (m : FapiInd) (u t : State) =>
      if (fapiPut u k (fapiEntry 0 0 m.place.1 m.place.2.1 m.place.2.2) (Config.fapiGroup m.fields)).isSome = true then
        t.out.head? = some (.fapi k m) ∧ rd t Reg.fapiRingIndDropped k = rd u Reg.fapiRingIndDropped k
      else rd t Reg.fapiRingIndDropped k = (rd u Reg.fapiRingIndDropped k + 1) % 2 ^ 32 ∧ rd t Reg.healthCauseRadio 0 = 1 ∧ t.host = u.host
    let own := [(Reg.fapiRingIndTail, 0), (Reg.fapiRingIndDropped, 0), (Reg.healthCauseRadio, 0)]
    let p5 := fun (q err : Nat) (u t : State) => tells 0 (.response q c err) u t ∧ t.radio.params = u.radio.params ∧ t.radio.startNs = u.radio.startNs ∧
      t.radio.work = u.radio.work ∧ OnlyRegs own u t ∧ OnlyParts [.regs, .host, .ten, .radio, .out] u t
    let to_ := fun (st : Nat) (x : Radio) => wr { s with radio := x } Reg.cellState c st
    let start := slotStart s p.mu sfn.toNat slot.toNat
    (reachable s (0x820018 + 64 * r) = false → Gives (.fapiReqTail ring value) s (fun t => t = logErr s 0 .notReady 0 0 (0x820018 + 64 * r))) ∧
    (up → n ≤ value.toNat → Gives (.fapiReqTail ring value) s (fun t => t = logErr s 0 .badFormat 0 0 (0x820018 + 64 * r))) ∧
    (up → okLog → value.toNat < n → rd s Reg.fapiRingEnable r = 0 → Gives (.fapiReqTail ring value) s (fun t =>
      rd t Reg.fapiRingReqTail r = value.toNat ∧ OnlyRegs [(Reg.fapiRingReqTail, r)] s t ∧ OnlyParts [.regs] s t)) ∧
    (up → okLog → value.toNat < n → rd s Reg.fapiRingEnable r = 1 → value.toNat = (head + 1) % n → hostOk s (rd s Reg.fapiRingPasid r) at_ 32 = true →
      bitsOf e 48 16 = 0 → bitsOf e 105 7 = 0 → bitsOf e 129 127 = 0 → bitsOf e 64 32 ≤ 4194304 → Gives (.fapiReqTail ring value) s (fun t =>
        rd t Reg.fapiRingReqTail r = value.toNat ∧ rd t Reg.fapiRingReqHead r = value.toNat ∧ t.radio.groups = s.radio.groups ++ [{
          ring := r, cell := bitsOf e 96 9, sfn := bitsOf e 112 10, slot := bitsOf e 122 7, addr := bitsOf e 0 48, len := bitsOf e 64 32,
          publishNs := s.clock.ns }] ∧
        (core.val ∈ bitList 64 (rd s Reg.chiselFapiMapMask r) → coreRuns s core.val = true → bitOf ((getCore t core.val).reg 0x30) 6 = true) ∧
        OnlyParts [.regs, .cores, .radio] s t)) ∧
    (cellSt s c ≠ 0 → Gives (.paramRequest cell) s (p5 0 0 s)) ∧
    (cellSt s c = 0 → Gives (.paramRequest cell) s (fun t => t = s) ∧ Gives (.startRequest cell) s (fun t => t = s) ∧
      Gives (.stopRequest cell) s (fun t => t = s) ∧ Gives (.configRequest cell tlvs) s (fun t => t = s)) ∧
    (cellPlan s c = some p → (cellSt s c = 2 ∨ cellSt s c = 3) → tlvs.any (tlvBad p) = false → Gives (.configRequest cell tlvs) s
      (p5 1 0 (to_ 3 { s.radio with params := mapSet s.radio.params c (applyTlvs (mapGet s.radio.params c []) tlvs) }))) ∧
    (cellPlan s c = some p → (cellSt s c = 2 ∨ cellSt s c = 3) → tlvs.any (tlvBad p) = true → Gives (.configRequest cell tlvs) s (p5 1 errInvalidConfig s)) ∧
    (cellPlan s c = some p → (cellSt s c = 1 ∨ cellSt s c = 4 ∨ cellSt s c = 5) → Gives (.configRequest cell tlvs) s (p5 1 errInvalidState s)) ∧
    (cellSt s c = 3 → Gives (.startRequest cell) s
      (p5 2 0 (to_ 4 { s.radio with startNs := mapSet s.radio.startNs c ((s.clock.ns / 10000000 + 1) * 10000000) }))) ∧
    (cellSt s c ≠ 3 → cellSt s c ≠ 0 → Gives (.startRequest cell) s (p5 2 errInvalidState s)) ∧
    (cellSt s c = 4 → Gives (.stopRequest cell) s (fun t => tells 0 (.response 3 c 0) s t ∧ rd t Reg.cellState c = 3 ∧ mapFind t.radio.startNs c = none ∧
      mapFind t.radio.harq c = none ∧
      t.radio.sections = s.radio.sections.filter (fun x => x.cell ≠ c) ∧ t.radio.work = s.radio.work.filter (fun w => w.cell ≠ c) ∧ t.radio.frames = s.radio.frames.filter (fun x => x.cell ≠ c) ∧
      OnlyRegs ((Reg.cellState, c) :: own) s t ∧ OnlyParts [.regs, .host, .ten, .radio, .out] s t)) ∧
    (cellSt s c ≠ 4 → cellSt s c ≠ 0 → Gives (.stopRequest cell) s (p5 3 errInvalidState s)) ∧
    (cellPlan s c = some p → (cellSt s c = 4 ∨ cellSt s c = 5) → mapGet s.radio.startNs c 0 ≤ start → start ≤ s.clock.ns + 1000 * p.p7LeadUs →
      Gives (.slotIndication cell sfn slot) s (fun t =>
      (let late := start < s.clock.ns + 1000 * p.p7LeadUs
       let tlv := (if late then [tlvLate 3 1] else []) ++ (if cellSt s c = 5 ∨ rd s Reg.timeStateState 0 = 4 then [tlvSync s] else [])
       tells (rd s Reg.cellFapiRing c) (.slot c sfn.toNat slot.toNat tlv) s t ∧
       rd t Reg.cellLate c = (if late then (rd s Reg.cellLate c + 1) % 2 ^ 32 else rd s Reg.cellLate c)) ∧ OnlyParts [.regs, .host, .ten, .radio, .out] s t)) ∧
    (cellPlan s c = some p → (cellSt s c ≠ 4 ∧ cellSt s c ≠ 5 ∨ s.clock.ns + 1000 * p.p7LeadUs < start) → Gives (.slotIndication cell sfn slot) s (fun t => t = s))

/-- A P7 request of a group published with its lead, whose PDUs are all supported, is kept for its slot; one published later is skipped, counted and
reported; a transport block of UL_TTI that is new takes a free HARQ buffer. A decode release with nothing due does nothing; with one block due it raises
the peak load, and within budget sets no cap. Once its time has come, a closed reception window sets SYMBOL in the running cores of its numerology and their slot tag, and a
passed indication deadline counts late unless the indication was written; neither does anything before. An enabled engine that is not quarantined takes the next job of its kind: one
job less, one job counted, and a bad descriptor ends BAD_FORMAT without reading; without a job, or disabled, it does nothing. -/
def Obligations.SlotRequestsAndSieve : Prop :=
  ∀ (s : State) (ring : BitVec 4) (cell : BitVec 9) (sfn : BitVec 10) (slot : BitVec 7) (sym : BitVec 4) (pdus : List Pdu) (p : CellPlan) (g : FapiGroup)
    (tb : UlBlock) (mu : BitVec 2) (aff : BitVec 16) (e : BitVec 6) (core : Fin 64) (j : SieveJob),
    let c := cell.toNat
    let key := slotKey10 c sfn.toNat slot.toNat
    let found := cellPlan s c = some p ∧ s.radio.groups.find? (fun g => g.ring == ring.toNat && g.cell == c && g.sfn == sfn.toNat && g.slot == slot.toNat) = some g
    let active := cellSt s c = 4 ∨ cellSt s c = 5
    let lead := g.publishNs + 1000 * p.p7LeadUs
    let start := slotStart s p.mu sfn.toNat slot.toNat
    let kept := fun (k : P7Kind) (t : State) => t.radio.work = s.radio.work ++ [⟨k, c, sfn.toNat, slot.toNat, pdus⟩]
    let skipped := fun (t : State) => rd t Reg.cellLateRequests c = (rd s Reg.cellLateRequests c + 1) % 2 ^ 32 ∧ t.radio.work = s.radio.work ∧
      OnlyParts [.regs, .host, .ten, .radio, .out] s t
    let due := sortBy capBefore (dueTbs s mu.toNat sfn.toNat slot.toNat)
    let on := fun (lo hi : Nat) => lo ≤ e.toNat ∧ e.toNat ≤ hi ∧ rd s Reg.sieveEngEnabled e.toNat = 1 ∧ rd s Reg.sieveEngQuarantined e.toNat = 0
    let taken := fun (t : State) => t.radio.jobs = [] ∧ rd t Reg.sieveEngJobs e.toNat = (rd s Reg.sieveEngJobs e.toNat + 1) % 2 ^ Reg.sieveEngJobs.width ∧
      (j.bad = true → t.host = s.host ∧ t.mem.err = s.mem.err) ∧ (j.bad = true → inRadioLots s (resultAt j.desc) 8 = true →
        (List.range 8).map (fun i => memByte t.mem (resultAt j.desc + i)) = sieveResult .badFormat 0 false false false 0) ∧
      (j.bad = true → inRadioLots s (resultAt j.desc) 8 = false → t.mem = s.mem)
    (found → active → lead ≤ start → pdus.all (·.supported) = true →
      Gives (.dlTtiRequest ring cell sfn slot pdus) s (fun t => kept .dlTti t ∧ OnlyParts [.radio] s t) ∧
      Gives (.ulDciRequest ring cell sfn slot pdus) s (fun t => kept .ulDci t ∧ OnlyParts [.radio] s t) ∧
      Gives (.txDataRequest ring cell sfn slot pdus) s (fun t => kept .txData t ∧ OnlyParts [.radio] s t) ∧
      Gives (.ulTtiRequest ring cell sfn slot pdus) s (fun t => kept .ulTti t ∧ OnlyParts [.regs, .radio] s t) ∧
      (pdus.filterMap (·.tb) = [tb] → tb.retx = false → (mapGet s.radio.harq c []).length < p.harqBuffers → Gives (.ulTtiRequest ring cell sfn slot pdus) s (fun t =>
        kept .ulTti t ∧ tb.harq ∈ mapGet t.radio.harq c [] ∧ OnlyParts [.radio] s t))) ∧
    (found → active → start < lead → Gives (.dlTtiRequest ring cell sfn slot pdus) s skipped ∧ Gives (.ulTtiRequest ring cell sfn slot pdus) s skipped ∧
      Gives (.ulDciRequest ring cell sfn slot pdus) s skipped ∧ Gives (.txDataRequest ring cell sfn slot pdus) s skipped) ∧
    (due = [] → Gives (.decodeRelease mu sfn slot) s (fun t => t = s)) ∧
    (∀ d ∈ due, due = [d] → cellPlan s d.cell = some p →
      (let b := decoders s * (slotStart s mu.toNat sfn.toNat slot.toNat + 1000 * (p.indDeadlineUs - 20) - s.clock.ns) * 40
       d.work d.maxIter ≤ b → 0 < b → p.indDeadlineUs < 2 ^ 32 → d.maxIter * 65536 < 2 ^ 32 → Gives (.decodeRelease mu sfn slot) s (fun t =>
        mapFind t.radio.caps (d.cell * 65536 + d.tb.tbId % 65536) = none ∧
        rd t Reg.sievePeakLoad 0 = max (rd s Reg.sievePeakLoad 0) (min (d.work d.maxIter * 65536 / b) (2 ^ 32 - 1)) ∧
        OnlyRegs [(Reg.sievePeakLoad, 0)] s t ∧ OnlyParts [.regs, .radio] s t))) ∧
    (cellPlan s c = some p → symStart s p sfn.toNat slot.toNat sym.toNat + p.rxCloseNs ≤ s.clock.ns → Gives (.receptionWindowClose cell sfn slot sym) s (fun t =>
      (coreRuns s core.val = true → (getCore s core.val).reg 0x45 = p.mu → bitOf ((getCore t core.val).reg 0x30) 2 = true ∧
        (getCore t core.val).reg 0x44 = sfn.toNat + slot.toNat * 2 ^ 10 + sym.toNat * 2 ^ 17) ∧
      (coreRuns s core.val = false → getCore t core.val = getCore s core.val) ∧ OnlyParts [.regs, .cores] s t)) ∧
    (cellPlan s c = some p → s.clock.ns < symStart s p sfn.toNat slot.toNat sym.toNat + p.rxCloseNs → Gives (.receptionWindowClose cell sfn slot sym) s (fun t => t = s)) ∧
    (cellPlan s c = some p → s.clock.ns < start + 1000 * p.indDeadlineUs → Gives (.indicationDeadline cell sfn slot aff) s (fun t => t = s)) ∧
    (cellPlan s c = some p → start + 1000 * p.indDeadlineUs ≤ s.clock.ns → active → key ∉ s.radio.written → Gives (.indicationDeadline cell sfn slot aff) s (fun t =>
      rd t Reg.cellLate c = (rd s Reg.cellLate c + 1) % 2 ^ 32 ∧ mapGet t.radio.marks key [] = mapGet s.radio.marks key [] ++ [tlvLate 2 aff.toNat] ∧
      OnlyRegs [(Reg.cellLate, c)] s t ∧ OnlyParts [.regs, .radio] s t)) ∧
    (cellPlan s c = some p → start + 1000 * p.indDeadlineUs ≤ s.clock.ns → active → key ∈ s.radio.written → Gives (.indicationDeadline cell sfn slot aff) s (fun t => key ∉ t.radio.written ∧
      t.radio.marks = s.radio.marks ∧ OnlyParts [.radio] s t)) ∧
    (s.radio.jobs = [j] → on 0 31 → j.op = 1 → Gives (.ldpcDec e) s taken) ∧
    (s.radio.jobs = [j] → on 32 47 → j.op = 2 → Gives (.ldpcEnc e) s taken) ∧
    (s.radio.jobs = [j] → on 48 55 → j.op = 3 → Gives (.polarDec e) s taken) ∧
    (s.radio.jobs = [j] → on 56 63 → j.op = 4 → Gives (.polarEnc e) s taken) ∧
    ((s.radio.jobs = [] ∨ rd s Reg.sieveEngEnabled e.toNat = 0 ∨ rd s Reg.sieveEngQuarantined e.toNat = 1) → Gives (.ldpcDec e) s (fun t => t = s) ∧
      Gives (.ldpcEnc e) s (fun t => t = s) ∧ Gives (.polarDec e) s (fun t => t = s) ∧ Gives (.polarEnc e) s (fun t => t = s))

/-- An uplink frame of a RUNNING cell inside its reception window and in sequence is counted and its PRBs are decompressed into the slot's IQ, an
early, late or old one is discarded and counted. C-plane and unknown frames received are discarded and counted; a one-way delay message is answered with
the time base. ARP and neighbour requests are answered for the device's own addresses alone. Once the transmit window has opened, a symbol's release takes its sections: with none and enough tokens
only the unused PRBs are told, and with one section of one PRB whose frame the tokens allow, the frame goes out compressed at the nominal
width; a symbol whose C-plane was late sends nothing. Before their time neither row does anything. At the transmit window's end a frame that the tokens never allowed is dropped and RADIO_LATE
counted; a frame they allow is sent. -/
def Obligations.FronthaulFrames : Prop :=
  ∀ (s : State) (cell : BitVec 9) (fr : UFrame) (lport : BitVec 5) (id : BitVec 8) (port : BitVec 6) (a4 : BitVec 32) (a6 : BitVec 128)
    (sfn : BitVec 10) (slot : BitVec 7) (sym : BitVec 4) (p : CellPlan) (x : FhSection) (f : FhFrame) (b : Nat × List Nat),
    let c := cell.toNat
    let sk := symKey c sfn.toNat slot.toNat sym.toNat
    let k := p.lport / 4
    let l := lport.toNat / 4
    let frames := fun (i n : Nat) (t : State) => rd t Reg.fhPortRxFrames i = (rd s Reg.fhPortRxFrames i + 1) % 2 ^ 64 ∧
      rd t Reg.fhPortRxDiscarded i = (if n = 0 then rd s Reg.fhPortRxDiscarded i else (rd s Reg.fhPortRxDiscarded i + n) % 2 ^ 32)
    let air := symStart s p fr.sfn fr.slot fr.symbol
    let key := p.lport * 65536 + fr.eaxc % 65536
    let d := match mapFind s.radio.rxSeq key with
      | none => 1
      | some l => (fr.seq.toNat + 256 - l) % 256
    let inWindow := air + p.rxCloseNs ≥ s.clock.ns ∧ s.clock.ns ≥ air + p.rxOpenNs ∧ d < 128
    let iqAt := (symKey c fr.sfn fr.slot fr.symbol * 65536 + fr.eaxc % 65536) * 1024 + fr.startPrb
    let mine := s.radio.sections.filter (fun x => x.of c sfn.toNat slot.toNat sym.toNat)
    let left := s.radio.sections.filter (fun x => !x.of c sfn.toNat slot.toNat sym.toNat)
    let tokens := mapGet (fillTokens s c p).radio.tokens c 0
    let need := f.bytes * 8 * 1000000000
    let sAt := fun (p : CellPlan) => symStart s p sfn.toNat slot.toNat sym.toNat
    let open_ := fun (p : CellPlan) => cellPlan s c = some p ∧ sAt p ≤ s.clock.ns + p.txOpenNs
    let ended := fun (p : CellPlan) => cellPlan s c = some p ∧ sAt p ≤ s.clock.ns + p.txCloseNs
    let waiting := s.radio.frames.filter (fun x => x.of c sfn.toNat slot.toNat sym.toNat)
    (cellPlan s c = some p → p.lport < 32 → cellSt s c = 4 → inWindow → fr.prbs = [b] → fr.startPrb < p.nPrb → fr.startPrb < 1024 →
      Gives (.uplinkUPlane cell fr) s (fun t =>
        frames k 0 t ∧ mapGet t.radio.iq iqAt 0 = packLanes 16 (bfpExpand b.1 b.2 (fr.width.getD p.wNom)) ∧ mapFind t.radio.rxSeq key = some fr.seq.toNat ∧
        rd t Reg.fhPortSeqGaps k = (if 1 < d then (rd s Reg.fhPortSeqGaps k + 1) % 2 ^ 32 else rd s Reg.fhPortSeqGaps k) ∧
        OnlyRegs [(Reg.fhPortRxFrames, k), (Reg.fhPortSeqGaps, k)] s t ∧ OnlyParts [.regs, .radio] s t)) ∧
    (cellPlan s c = some p → p.lport < 32 → cellSt s c = 4 → ¬ inWindow → Gives (.uplinkUPlane cell fr) s (fun t => frames k 1 t ∧
      rd t Reg.cellUlWindow c = (rd s Reg.cellUlWindow c + 1) % 2 ^ 32 ∧ OnlyParts [.regs] s t)) ∧
    Gives (.receivedCPlane lport) s (fun t => frames l 1 t ∧ OnlyRegs [(Reg.fhPortRxFrames, l), (Reg.fhPortRxDiscarded, l)] s t ∧ OnlyParts [.regs] s t) ∧
    Gives (.unknownFrame lport) s (fun t => frames l 1 t ∧ OnlyRegs [(Reg.fhPortRxFrames, l), (Reg.fhPortRxDiscarded, l)] s t ∧ OnlyParts [.regs] s t) ∧
    Gives (.oneWayDelay lport id) s (fun t => frames l 0 t ∧ rd t Reg.fhPortTxFrames l = (rd s Reg.fhPortTxFrames l + 1) % 2 ^ 64 ∧
      t.out = .fh lport.toNat (.delayAnswer id.toNat s.clock.ns) :: s.out ∧ OnlyParts [.regs, .out] s t) ∧
    Gives (.arpRequest port a4) s (fun t => t = if mapFind s.net.v4 port.toNat = some a4.toNat then emit s (.netAnswer port.toNat a4.toNat) else s) ∧
    Gives (.neighborSolicitation port a6) s (fun t => t = if mapFind s.net.v6 port.toNat = some a6.toNat then emit s (.netAnswer port.toNat a6.toNat) else s) ∧
    (cellPlan s c = some p → s.clock.ns + p.txOpenNs < sAt p → Gives (.symbolRelease cell sfn slot sym) s (fun t => t = s)) ∧
    (cellPlan s c = some p → s.clock.ns + p.txCloseNs < sAt p → Gives (.transmitWindowEnd cell sfn slot sym) s (fun t => t = s)) ∧
    (open_ p → cellSt s c = 4 → sk ∉ s.radio.cLate → mine = [] → Gives (.symbolRelease cell sfn slot sym) s (fun t =>
      t.radio.sections = left ∧ t.out = (if p.nPrb = 0 then s.out else
        .fh p.lport (.unused c sfn.toNat slot.toNat sym.toNat (List.range p.nPrb)) :: s.out) ∧ OnlyParts [.radio, .out] s t)) ∧
    (open_ p → p.lport < 32 → cellSt s c = 4 → sk ∉ s.radio.cLate → mine = [x] → x.prbs = 1 → p.adaptive = false → s.mem.err = [] →
      (let data := (List.range 48).map (fun i => memDeliver s (x.pa + i))
       f = { cell := x.cell, sfn := x.sfn, slot := x.slot, sym := x.sym, eaxc := x.eaxc, section_ := x.section_, startPrb := x.startPrb, width := p.wNom,
             prbs := [bfpCompress (prbParts data) p.wNom], bytes := frameBytes p.dynHeader 1 p.wNom, core := x.core }) → need ≤ tokens →
      Gives (.symbolRelease cell sfn slot sym) s (fun t => t.radio.sections = left ∧ t.out.head? = some (.fh p.lport (.uPlane f)) ∧
        mapGet t.radio.tokens c 0 = tokens - need ∧ rd t Reg.fhPortTxFrames k = (rd s Reg.fhPortTxFrames k + 1) % 2 ^ 64 ∧ t.radio.frames = s.radio.frames ∧
        t.host = s.host)) ∧
    (open_ p → sk ∈ s.radio.cLate → Gives (.symbolRelease cell sfn slot sym) s (fun t => t.radio.sections = left ∧ t.out = s.out ∧
      OnlyParts [.radio] s t)) ∧
    (ended p → p.lport < 32 → cellSt s c = 4 → sk ∉ s.radio.cLate → mine = [] → waiting = [f] → need ≤ tokens →
      Gives (.transmitWindowEnd cell sfn slot sym) s (fun t => t.out = .fh p.lport (.uPlane f) :: s.out ∧ rd t Reg.cellLate c = rd s Reg.cellLate c ∧
        f ∉ t.radio.frames ∧ OnlyRegs [(Reg.fhPortTxFrames, k)] s t ∧ OnlyParts [.regs, .radio, .out] s t)) ∧
    (ended p → cellSt s c = 4 → sk ∉ s.radio.cLate → mine = [] → waiting = [f] → tokens < need → f.core < 64 → c < 384 →
      Gives (.transmitWindowEnd cell sfn slot sym) s (fun t =>
        rd t Reg.cellLate c = (rd s Reg.cellLate c + 1) % 2 ^ 32 ∧ f ∉ t.radio.frames ∧ OnlyParts [.regs, .host, .ten, .cores, .radio, .out] s t))

/-- On a core that may issue: ADD, SUB, MUL write the low 32 bits or, with sat, the clamped result and STATUS.sat; the result lands one bundle later, two
for MUL and MULH. AND, OR, XOR, MIN, MAX, SLT, SLTU, SHL, SHR, SHRU and the immediate forms compute as on 32-bit words, immediates signed; LUI gives
imm << 15. A shift by 32 or more still writes its register, the value free (log 108 says the spec states none). The slot that ends the bundle then ends it;
nothing else changes. A core that may not issue does nothing. -/
def Obligations.ScalarInstructions : Prop :=
  ∀ (s : State) (core : BitVec 6) (gd ga gb : BitVec 5) (imm : BitVec 12) (imm17 : BitVec 17) (sat last : Bool),
    let n := core.toNat
    let c := getCore s n
    let a := c.g ga.toNat
    let b := c.g gb.toNat
    let x := BitVec.ofNat 32 a
    let y := BitVec.ofNat 32 b
    let i := imm.signExtend 32
    let clamp := fun (v : Int) => max (-2147483648) (min 2147483647 v)
    let fin := fun (u : State) => if last then endBundle u n else u
    let put := fun (lat v : Nat) (mark : Bool) => fin (putCore s n { c with
      mid := true
      pend := c.pend ++ (⟨kG gd.toNat, v, c.bundle + lat, .write⟩ :: (if mark then [⟨0x28, 4, c.bundle + lat, .set⟩] else [])) })
    let arith := fun (lat : Nat) (v : Int) (t : State) =>
      t = put lat (BitVec.ofInt 32 (if sat then clamp v else v)).toNat (sat && (clamp v != v))
    let word := fun (v : BitVec 32) (t : State) => t = put 1 v.toNat false
    let flag := fun (p : Bool) (t : State) => t = put 1 (if p then 1 else 0) false
    let open_ := fun (t : State) => t.free = s.free + 1 ∧ (getCore t n).mid = true ∧ (getCore t n).pend.take c.pend.length = c.pend ∧
      ((getCore t n).pend[c.pend.length]?).map (fun p => (p.key, p.lands)) = some (kG gd.toNat, c.bundle + 1) ∧ SameCores [n] s t ∧ OnlyParts [.cores, .free] s t
    (mayIssue s n = true → a < 2 ^ 32 → b < 2 ^ 32 →
      Gives (.add core gd ga gb sat last) s (arith 1 (x.toInt + y.toInt)) ∧
      Gives (.sub core gd ga gb sat last) s (arith 1 (x.toInt - y.toInt)) ∧
      Gives (.mul core gd ga gb sat last) s (arith 2 (x.toInt * y.toInt)) ∧
      Gives (.mulh core gd ga gb sat last) s (fun t => t = put 2 ((x.signExtend 64 * y.signExtend 64).extractLsb' 32 32).toNat false) ∧
      Gives (.and core gd ga gb sat last) s (word (x &&& y)) ∧
      Gives (.or core gd ga gb sat last) s (word (x ||| y)) ∧
      Gives (.xor core gd ga gb sat last) s (word (x ^^^ y)) ∧
      Gives (.min core gd ga gb sat last) s (word (if x.slt y then x else y)) ∧
      Gives (.max core gd ga gb sat last) s (word (if x.slt y then y else x)) ∧
      Gives (.slt core gd ga gb sat last) s (flag (x.slt y)) ∧
      Gives (.sltu core gd ga gb sat last) s (flag (x.ult y)) ∧
      Gives (.addi core gd ga imm last) s (word (x + i)) ∧
      Gives (.andi core gd ga imm last) s (word (x &&& i)) ∧
      Gives (.ori core gd ga imm last) s (word (x ||| i)) ∧
      Gives (.xori core gd ga imm last) s (word (x ^^^ i)) ∧
      Gives (.lui core gd imm17 last) s (fun t => t = put 1 (imm17.toNat * 2 ^ 15) false)) ∧
    (mayIssue s n = true → a < 2 ^ 32 → b < 32 →
      Gives (.shl core gd ga gb sat last) s (arith 1 (x.toInt * 2 ^ b)) ∧
      Gives (.shr core gd ga gb sat last) s (word (x.sshiftRight b)) ∧
      Gives (.shru core gd ga gb sat last) s (word (x >>> b))) ∧
    (mayIssue s n = true → a < 2 ^ 32 → imm.toNat < 32 →
      Gives (.shli core gd ga imm last) s (word (x <<< imm.toNat)) ∧
      Gives (.shri core gd ga imm last) s (word (x.sshiftRight imm.toNat)) ∧
      Gives (.shrui core gd ga imm last) s (word (x >>> imm.toNat))) ∧
    (mayIssue s n = true → 32 ≤ b → Gives (.shl core gd ga gb sat false) s open_ ∧ Gives (.shr core gd ga gb sat false) s open_ ∧
      Gives (.shru core gd ga gb sat false) s open_) ∧
    (mayIssue s n = true → 32 ≤ imm.toNat → Gives (.shli core gd ga imm false) s open_ ∧ Gives (.shri core gd ga imm false) s open_ ∧
      Gives (.shrui core gd ga imm false) s open_) ∧
    (mayIssue s n = false → Gives (.add core gd ga gb sat last) s (fun t => t = s) ∧ Gives (.shri core gd ga imm last) s (fun t => t = s))

/-- LOOP and LOOPI in any slot of a bundle of a core that may issue, outside delay bundles: with level below 3 and end above 0 the core takes three
writes due at the next bundle, LSn the next bundle's address, LEn the loop's address plus 16 × end and LCn the count, and where fetch goes on. In the last slot, LSn is the next bundle's
address, LEn the loop's address plus 16 × end and LCn the count when the next bundle issues, and fetch goes on at the next bundle, or at LEn + 16 when the
count is 0. Level 3 or end 0 faults with cause LOOP. -/
def Obligations.LoopsSetTheirLevel : Prop :=
  ∀ (s : State) (core : BitVec 6) (gs : BitVec 5) (level : BitVec 2) (lend : BitVec 13) (count lendi : BitVec 10) (last : Bool),
    let n := core.toNat
    let c := getCore s n
    let k := level.toNat
    let faults := fun (t : State) => rd t Reg.chiselCoreState n = 4 ∧ rd t Reg.chiselCoreCause n = 5 ∧
      rd t Reg.chiselCoreFaultPc n = c.pc % 2 ^ Reg.chiselCoreFaultPc.width
    let issued := fun (count end_ : Nat) (t : State) => (let u := putCore s n { c with mid := true, loopTo := some (if count % 2 ^ 16 = 0 then c.pc + 16 * end_ + 16 else c.pc + 16), pend := c.pend ++
        [⟨0x1C + k, c.pc + 16, c.bundle + 1, .write⟩, ⟨0x20 + k, c.pc + 16 * end_, c.bundle + 1, .write⟩, ⟨0x18 + k, count, c.bundle + 1, .write⟩] }
      t = if last then endBundle u n else u)
    let looped := fun (count last : Nat) (t : State) =>
      (getCore t n).reg (0x1C + k) = c.pc + 16 ∧ (getCore t n).reg (0x20 + k) = last ∧ (getCore t n).reg (0x18 + k) = count ∧
      (getCore t n).pc = (if count = 0 then last + 16 else c.pc + 16)
    (mayIssue s n = true → c.delay = 0 → c.pc % 16 = 0 → k ≠ 3 → lend ≠ 0 → c.g gs.toNat < 2 ^ 16 → c.pc + 16 * lend.toNat + 16 < 0x20000 →
      Gives (.loop core level gs lend true) s (looped (c.g gs.toNat) (c.pc + 16 * lend.toNat))) ∧
    (mayIssue s n = true → c.delay = 0 → c.pc % 16 = 0 → k ≠ 3 → lendi ≠ 0 → c.pc + 16 * lendi.toNat + 16 < 0x20000 →
      Gives (.loopi core level count lendi true) s (looped count.toNat (c.pc + 16 * lendi.toNat))) ∧
    (mayIssue s n = true → c.delay = 0 → k ≠ 3 → lend ≠ 0 → Gives (.loop core level gs lend last) s (issued (c.g gs.toNat) lend.toNat)) ∧
    (mayIssue s n = true → c.delay = 0 → k ≠ 3 → lendi ≠ 0 → Gives (.loopi core level count lendi last) s (issued count.toNat lendi.toNat)) ∧
    (mayIssue s n = true → c.delay = 0 → (k = 3 ∨ lend = 0) → Gives (.loop core level gs lend last) s faults) ∧
    (mayIssue s n = true → c.delay = 0 → (k = 3 ∨ lendi = 0) → Gives (.loopi core level count lendi last) s faults)

/-- A branch, CALL, JR or RTI outside delay bundles starts them, with its target when it is taken; in a delay bundle it faults ILLEGAL. WAIT keeps its mask.
A bundle's end, shown on NOP: stores are seen, a result due lands, fetch is sequential, goes to the branch target after the last delay bundle, or after an RTI
to IPC with STATUS from ISTAT; while loop_en is set a loop whose end this bundle is loops back with its count lowered, or ends. A fetch address outside the
instruction memory faults ADDR. A core with a WAIT becomes WAITING, and resumes when a masked event is set. -/
def Obligations.BranchesAndBundles : Prop :=
  ∀ (s : State) (core : BitVec 6) (ga : BitVec 5) (off : BitVec 17) (last : Bool) (k : Fin 3) (p : PendReg) (w : PendMem) (x m : Nat),
    let n := core.toNat
    let c := getCore s n
    let v := (BitVec.ofNat 32 (c.g ga.toNat)).toInt
    let rel := (BitVec.ofInt 32 ((c.pc : Int) + 16 * off.toInt)).toNat
    let fin := fun (u : State) => if last then endBundle u n else u
    let goes := fun (taken : Bool) (target : Nat) (t : State) =>
      t = fin (putCore s n { c with mid := true, delay := 3, target := if taken then some target else none, rti := false })
    let faults := fun (cause pc : Nat) (t : State) => rd t Reg.chiselCoreState n = 4 ∧ rd t Reg.chiselCoreCause n = cause ∧
      rd t Reg.chiselCoreFaultPc n = pc % 2 ^ Reg.chiselCoreFaultPc.width ∧ rd t Reg.healthCauseChisel 0 = 1 ∧ (getCore t n).stores = [] ∧
      (getCore t n).delay = 0 ∧ OnlyParts [.regs, .work, .ten, .cores, .radio, .out] s t
    let ends := fun (j : Nat) => c.reg (0x18 + j) ≠ 0 ∧ c.reg (0x20 + j) = c.pc
    let loops := c.loopEn = true ∧ ends k.val ∧ (∀ j : Fin 3, k.val < j.val → ¬ ends j.val)
    let noLoop := c.loopEn = false ∨ ∀ j : Fin 3, ¬ ends j.val
    let plain := mayIssue s n = true ∧ c.loopTo = none ∧ c.waitMask = none
    let ok := fun (pc : Nat) => pc % 16 = 0 ∧ pc < 0x20000
    let next := fun (pc delay : Nat) (t : State) => (getCore t n).pc = pc ∧ (getCore t n).delay = delay ∧ (getCore t n).bundle = c.bundle + 1 ∧
      (getCore t n).mid = false ∧ (getCore t n).stores = [] ∧ rd t Reg.chiselCoreState n = 2 ∧
      rd t Reg.chiselCoreLivePc n = pc % 2 ^ Reg.chiselCoreLivePc.width ∧ SameCores [n] s t ∧ OnlyParts [.regs, .cores] s t
    (mayIssue s n = true → c.delay = 0 → c.g ga.toNat < 2 ^ 32 →
      Gives (.b core off last) s (goes true rel) ∧
      Gives (.beqz core ga off last) s (goes (v == 0) rel) ∧
      Gives (.bnez core ga off last) s (goes (v != 0) rel) ∧
      Gives (.bltz core ga off last) s (goes (decide (v < 0)) rel) ∧
      Gives (.bgez core ga off last) s (goes (decide (0 ≤ v)) rel) ∧
      Gives (.bgtz core ga off last) s (goes (decide (0 < v)) rel) ∧
      Gives (.blez core ga off last) s (goes (decide (v ≤ 0)) rel) ∧
      Gives (.jr core ga last) s (goes true (c.g ga.toNat)) ∧
      Gives (.call core off last) s (fun t => t = fin (putCore s n { c with
        mid := true, delay := 3, target := some rel, rti := false, pend := c.pend ++ [⟨kG 31, c.pc + 48, c.bundle + 1, .write⟩] })) ∧
      Gives (.rti core false) s (fun t => (getCore t n).delay = 3 ∧ (getCore t n).rti = true ∧ (getCore t n).pc = c.pc ∧ SameCores [n] s t ∧ OnlyParts [.cores] s t) ∧
      Gives (.wait core ga last) s (fun t => t = fin (putCore s n { c with mid := true, waitMask := some (c.g ga.toNat), waitNs := s.clock.ns })) ∧
      Gives (.nop core last) s (fun t => t = fin (putCore s n { c with mid := true }))) ∧
    (mayIssue s n = true → c.delay ≠ 0 → Gives (.b core off last) s (faults 1 c.pc) ∧ Gives (.rti core last) s (faults 1 c.pc) ∧
      Gives (.wait core ga last) s (faults 1 c.pc) ∧ Gives (.call core off last) s (faults 1 c.pc)) ∧
    (plain → noLoop → c.delay ≠ 1 → ok (c.pc + 16) → Gives (.nop core true) s (fun t => next (c.pc + 16) (c.delay - 1) t ∧
      (getCore t n).pend = c.pend.filter (fun q => decide (c.bundle + 1 < q.lands)) ∧
      (c.pend = [p] → p.kind = .write → p.lands = c.bundle + 1 → p.key ≠ 0x43 → p.key ≠ 0x100 → (getCore t n).reg p.key = p.value % 2 ^ coreWidth p.key) ∧
      (c.pend = [p] → c.bundle + 1 < p.lands → (getCore t n).regs = c.regs) ∧
      (c.stores = [w] → (getCore t n).bytes w.addr w.data.length = w.data))) ∧
    (plain → noLoop → c.delay = 1 → c.rti = false → c.target = some x → ok x → Gives (.nop core true) s (fun t => next x 0 t ∧ (getCore t n).target = none)) ∧
    (plain → noLoop → c.delay = 1 → c.rti = false → c.target = none → ok (c.pc + 16) → Gives (.nop core true) s (next (c.pc + 16) 0)) ∧
    (plain → noLoop → c.delay = 1 → c.rti = true → c.pend = [] → c.stores = [] → ok (c.reg 0x29) → Gives (.nop core true) s (fun t => next (c.reg 0x29) 0 t ∧
      (getCore t n).rti = false ∧ (getCore t n).reg 0x28 = c.reg 0x2A % 8)) ∧
    (plain → loops → 1 < c.reg (0x18 + k.val) → c.reg (0x18 + k.val) < 2 ^ 16 → c.pend = [] → c.delay ≠ 1 → ok (c.reg (0x1C + k.val)) →
      Gives (.nop core true) s (fun t => next (c.reg (0x1C + k.val)) (c.delay - 1) t ∧ (getCore t n).reg (0x18 + k.val) = c.reg (0x18 + k.val) - 1)) ∧
    (plain → loops → c.reg (0x18 + k.val) = 1 → (∀ j : Fin 3, j ≠ k → ¬ ends j.val) → c.pend = [] → c.delay ≠ 1 → ok (c.pc + 16) →
      Gives (.nop core true) s (fun t => next (c.pc + 16) (c.delay - 1) t ∧ (getCore t n).reg (0x18 + k.val) = 0)) ∧
    (plain → noLoop → c.delay = 0 → ¬ ok (c.pc + 16) → Gives (.nop core true) s (faults 2 (c.pc + 16))) ∧
    (mayIssue s n = true → c.loopTo = none → noLoop → c.delay = 0 → c.waitMask = some m → ok (c.pc + 16) → Gives (.nop core true) s (fun t =>
      rd t Reg.chiselCoreState n = 3 ∧ (getCore t n).pc = c.pc + 16)) ∧
    (rd s Reg.chiselCoreState n = 3 → c.reg 0x30 &&& c.waitMask.getD 0 ≠ 0 → Gives (.waitEnd core) s (fun t => rd t Reg.chiselCoreState n = 2 ∧
      getCore t n = { c with waitMask := none } ∧ rd t Reg.chiselCoreWaitCycles n =
        (rd s Reg.chiselCoreWaitCycles n + (s.clock.ns - c.waitNs) * 7 / 5) % 2 ^ Reg.chiselCoreWaitCycles.width ∧ OnlyParts [.regs, .cores] s t)) ∧
    (c.reg 0x30 &&& c.waitMask.getD 0 = 0 → Gives (.waitEnd core) s (fun t => t = s))

/-- On a core that may issue, slot 1 reaches X and slot 2 Y at An + off × size, wrapped once into a circular buffer; an aligned access inside its memory
loads LD16 sign-extended, LD32, LDV or LDBC to every lane for the next bundle, or keeps the store for it, and with postmod An moves by AMn, wrapped once;
any other faults ADDR. MOVA, ADDA and MFA move and add byte offsets. MFS reads a listed special register, TNOW_LO and CYCLE_LO latching their high words;
MTS writes one two bundles on, three for loop registers; WDOG restarts the watchdog, EV bits written 1 are cleared; an unlisted number, or MTS to a
read-only one, faults ILLEGAL. EVSET sets SW. -/
def Obligations.MemoryAndSpecialRegisters : Prop :=
  ∀ (s : State) (core : BitVec 6) (y post last : Bool) (g : BitVec 5) (v : BitVec 4) (a : BitVec 3) (off : BitVec 12) (num : BitVec 8),
    let n := core.toNat
    let c := getCore s n
    let i := a.toNat
    let ab : Int := c.reg i
    let al : Int := c.reg (8 + i)
    let once := fun (x : Int) => if al = 0 then x else if ab + al ≤ x then x - al else if x < ab then x + al else x
    let ea := fun (size : Nat) => once ((c.reg (0x50 + i) : Int) + off.toInt * size)
    let lo : Int := if y then 0x200000 else 0x100000
    let ok := fun (size : Nat) => ea size % size = 0 ∧ lo ≤ ea size ∧ ea size + size ≤ lo + 0x40000
    let fin := fun (u : State) => if last then endBundle u n else u
    let next := (BitVec.ofInt 32 (once ((c.reg (0x50 + i) : Int) + (BitVec.ofNat 32 (c.reg (0x10 + i))).toInt))).toNat
    let stepped := if post then [(⟨0x50 + i, next, c.bundle + 1, .write⟩ : PendReg)] else []
    let data := fun (size : Nat) => leNat (c.bytes (ea size).toNat size)
    let later := fun (l : List PendReg) => fin (putCore s n { c with mid := true, pend := c.pend ++ l })
    let loads := fun (key w : Nat) (t : State) => t = later (⟨key, w, c.bundle + 1, .write⟩ :: stepped)
    let stores := fun (size key : Nat) (t : State) => t = fin (putCore s n { c with
      mid := true, pend := c.pend ++ stepped, stores := c.stores ++ [⟨(ea size).toNat, leBytes size (c.reg key)⟩] })
    let faults := fun (cause : Nat) (t : State) => rd t Reg.chiselCoreState n = 4 ∧ rd t Reg.chiselCoreCause n = cause ∧
      rd t Reg.chiselCoreFaultPc n = c.pc % 2 ^ Reg.chiselCoreFaultPc.width ∧ (getCore t n).mid = false ∧
      OnlyParts [.regs, .work, .ten, .cores, .radio, .out] s t
    let moves := fun (key lat w : Nat) (t : State) => t = later [⟨key, w, c.bundle + lat, .write⟩]
    let k := num.toNat
    let listed := k ∈ List.range 0x18 ∨ k ∈ [0x18, 0x19, 0x1A, 0x1C, 0x1D, 0x1E, 0x20, 0x21, 0x22, 0x28, 0x29, 0x2A, 0x2B, 0x30, 0x31, 0x38, 0x39, 0x3A,
      0x3B, 0x3C, 0x3D, 0x3E, 0x3F, 0x40, 0x41, 0x42, 0x43, 0x44, 0x45, 0x46, 0x48, 0x49, 0x4A, 0x4B, 0x50, 0x51, 0x52, 0x53, 0x54, 0x55, 0x56, 0x57]
    let ro := k ∈ [0x3B, 0x3F, 0x40, 0x41, 0x44, 0x48, 0x4A, 0x4B]
    let cycles := (s.clock.ns - c.startNs) * 7 / 5
    let kg := 0x100 + g.toNat
    let kv := 0x200 + v.toNat
    (mayIssue s n = true → c.reg (0x10 + i) < 2 ^ 32 → (ok 2 → Gives (.ld16 core y g a post off last) s (loads kg (BitVec.ofInt 32 (BitVec.ofNat 16 (data 2)).toInt).toNat) ∧
        Gives (.ldbc core y v a post off last) s (loads kv ((List.range 32).map (fun j => data 2 * 2 ^ (16 * j))).sum) ∧
        Gives (.st16 core y g a post off last) s (stores 2 kg)) ∧
      (ok 4 → Gives (.ld32 core y g a post off last) s (loads kg (data 4)) ∧ Gives (.st32 core y g a post off last) s (stores 4 kg)) ∧
      (ok 64 → Gives (.ldv core y v a post off last) s (loads kv (data 64)) ∧ Gives (.stv core y v a post off last) s (stores 64 kv)) ∧
      (¬ ok 2 → Gives (.ld16 core y g a post off last) s (faults 2) ∧ Gives (.ldbc core y v a post off last) s (faults 2) ∧
        Gives (.st16 core y g a post off last) s (faults 2)) ∧
      (¬ ok 4 → Gives (.ld32 core y g a post off last) s (faults 2) ∧ Gives (.st32 core y g a post off last) s (faults 2)) ∧
      (¬ ok 64 → Gives (.ldv core y v a post off last) s (faults 2) ∧ Gives (.stv core y v a post off last) s (faults 2)) ∧
      Gives (.mova core g a last) s (moves (0x50 + i) 1 (c.reg kg)) ∧
      Gives (.adda core a off last) s (moves (0x50 + i) 1 (BitVec.ofInt 32 ((c.reg (0x50 + i) : Int) + off.toInt)).toNat) ∧
      Gives (.mfa core g a last) s (moves kg 1 (c.reg (0x50 + i))) ∧
      Gives (.evset core last) s (fun t => t = later [⟨0x30, 256, c.bundle + 1, .set⟩]) ∧
      (listed → k ∉ [0x40, 0x41, 0x48, 0x49, 0x4A, 0x4B] → Gives (.mfs core g num last) s (moves kg 1 (c.reg k))) ∧
      (k = 0x40 → Gives (.mfs core g num false) s (fun t => t = putCore s n { c with
        mid := true, tnowHi := s.clock.ns / 2 ^ 32 % 2 ^ 32, pend := c.pend ++ [⟨kg, s.clock.ns % 2 ^ 32, c.bundle + 1, .write⟩] })) ∧
      (k = 0x41 → Gives (.mfs core g num last) s (moves kg 1 c.tnowHi)) ∧
      (k = 0x4A → Gives (.mfs core g num false) s (fun t => t = putCore s n { c with
        mid := true, cycleHi := cycles / 2 ^ 32 % 2 ^ 32, pend := c.pend ++ [⟨kg, cycles % 2 ^ 32, c.bundle + 1, .write⟩] })) ∧
      (k = 0x4B → Gives (.mfs core g num last) s (moves kg 1 c.cycleHi)) ∧
      (k = 0x48 → Gives (.mfs core g num last) s (moves kg 1
        (n + rd s Reg.chiselCoreImage n * 2 ^ 8 + min 255 (rd s Reg.chiselCoreRestarts n) * 2 ^ 16))) ∧
      (¬ listed → Gives (.mfs core g num last) s (faults 1) ∧ Gives (.mts core g num last) s (faults 1)) ∧
      (ro → Gives (.mts core g num last) s (faults 1)) ∧
      (listed → ¬ ro → k ≠ 0x30 → k ≠ 0x49 → Gives (.mts core g num last) s (moves k (if 0x18 ≤ k ∧ k ≤ 0x22 then 3 else 2) (c.reg kg))) ∧
      (k = 0x49 → Gives (.mts core g num last) s (fun t => t = fin (putCore s n { c with mid := true, wdogNs := s.clock.ns }))) ∧
      (k = 0x30 → Gives (.mts core g num last) s (fun t => t = later [⟨0x30, c.reg kg, c.bundle + 2, .clear⟩])))

/-- On a core that may issue: each int16 lane of VADD, VSUB, VMAX, VMIN, VABS, VNEG, VSHL, VSHR, VMUL, VMAC, VNRW and the parts of VCMUL and VCMAC are exact
results that wrap, or with sat clamp and set STATUS.sat; right shifts are arithmetic; conj negates the imaginary part of operand a. VADDW, VSUBW, VMACW and
VCMACW do so on 32-bit lanes of an even pair, and an odd pair faults ILLEGAL. VAND, VOR, VXOR act on bits; VMOV, VBCAST, VPERM and VZERO move. Results
land one bundle later, two for moves and VNRW, three for products; nothing else changes. -/
def Obligations.VectorInstructions : Prop :=
  ∀ (s : State) (core : BitVec 6) (vd va vb : BitVec 4) (ga : BitVec 5) (sh : BitVec 5) (sat conj last : Bool),
    let n := core.toNat
    let c := getCore s n
    let d := vd.toNat
    let reg := fun (k : Nat) => BitVec.ofNat 512 (c.reg (0x200 + k))
    let l16 := fun (k i : Nat) => ((reg k).extractLsb' (16 * i) 16).toInt
    let l32 := fun (k i : Nat) => ((reg (k + i / 16)).extractLsb' (32 * (i % 16)) 32).toInt
    let a := l16 va.toNat
    let b := l16 vb.toNat
    let im := fun (i : Nat) => if conj then - a i else a i
    let cx := fun (i : Nat) => if i % 2 = 0 then a i * b i - im (i + 1) * b (i + 1) else a (i - 1) * b i + im i * b (i - 1)
    let fin := fun (u : State) => if last then endBundle u n else u
    let later := fun (l : List PendReg) (t : State) => t = fin (putCore s n { c with mid := true, pend := c.pend ++ l })
    let clamp := fun (w : Nat) (x : Int) => max (-(2 ^ (w - 1))) (min (2 ^ (w - 1) - 1) x)
    let code := fun (w : Nat) (x : Int) => (BitVec.ofInt w (if sat then clamp w x else x)).toNat
    let mark := fun (w lat : Nat) (f : Nat → Int) =>
      if sat && (List.range 32).any (fun i => clamp w (f i) != f i) then [(⟨0x28, 4, c.bundle + lat, .set⟩ : PendReg)] else []
    let at_ := fun (k lat : Nat) (x : Nat) => (⟨0x200 + k, x, c.bundle + lat, .write⟩ : PendReg)
    let lanes := fun (lat : Nat) (f : Nat → Int) => later
      (at_ d lat ((List.range 32).map (fun i => code 16 (f i) * 2 ^ (16 * i))).sum :: mark 16 lat f)
    let wide := fun (lat : Nat) (f : Nat → Int) => later
      (at_ d lat ((List.range 16).map (fun i => code 32 (f i) * 2 ^ (32 * i))).sum ::
       at_ (d + 1) lat ((List.range 16).map (fun i => code 32 (f (16 + i)) * 2 ^ (32 * i))).sum :: mark 32 lat f)
    let odd := fun (x : BitVec 4) => x.toNat % 2 = 1
    let illegal := fun (t : State) => rd t Reg.chiselCoreState n = 4 ∧ rd t Reg.chiselCoreCause n = 1 ∧ (getCore t n).mid = false
    mayIssue s n = true → (∀ k : Fin 16, c.reg (0x200 + k.val) < 2 ^ 512) →
      Gives (.vadd core vd va vb sat last) s (lanes 1 (fun i => a i + b i)) ∧
      Gives (.vsub core vd va vb sat last) s (lanes 1 (fun i => a i - b i)) ∧
      (sat = false → Gives (.vmax core vd va vb last) s (lanes 1 (fun i => max (a i) (b i))) ∧ Gives (.vmin core vd va vb last) s (lanes 1 (fun i => min (a i) (b i)))) ∧
      Gives (.vabs core vd va sat last) s (lanes 1 (fun i => max (a i) (- a i))) ∧
      Gives (.vneg core vd va sat last) s (lanes 1 (fun i => - a i)) ∧
      Gives (.vshl core vd va sh sat last) s (lanes 1 (fun i => a i * 2 ^ sh.toNat)) ∧
      Gives (.vshr core vd va sh sat last) s (lanes 1 (fun i => a i >>> sh.toNat)) ∧
      Gives (.vand core vd va vb last) s (later [at_ d 1 (reg va.toNat &&& reg vb.toNat).toNat]) ∧
      Gives (.vor core vd va vb last) s (later [at_ d 1 (reg va.toNat ||| reg vb.toNat).toNat]) ∧
      Gives (.vxor core vd va vb last) s (later [at_ d 1 (reg va.toNat ^^^ reg vb.toNat).toNat]) ∧
      Gives (.vmul core vd va vb sh sat last) s (lanes 3 (fun i => (a i * b i) >>> sh.toNat)) ∧
      Gives (.vmac core vd va vb sh sat last) s (lanes 3 (fun i => l16 d i + (a i * b i) >>> sh.toNat)) ∧
      Gives (.vcmul core vd va vb sh sat conj last) s (lanes 3 (fun i => (cx i) >>> sh.toNat)) ∧
      Gives (.vcmac core vd va vb sh sat conj last) s (lanes 3 (fun i => l16 d i + (cx i) >>> sh.toNat)) ∧
      (¬ odd vd → Gives (.vmacw core vd va vb sh sat last) s (wide 3 (fun i => l32 d i + (a i * b i) >>> sh.toNat)) ∧
        Gives (.vcmacw core vd va vb sh sat conj last) s (wide 3 (fun i => l32 d i + (cx i) >>> sh.toNat))) ∧
      (¬ odd vd → ¬ odd va → ¬ odd vb → Gives (.vaddw core vd va vb sat last) s (wide 1 (fun i => l32 va.toNat i + l32 vb.toNat i)) ∧
        Gives (.vsubw core vd va vb sat last) s (wide 1 (fun i => l32 va.toNat i - l32 vb.toNat i))) ∧
      (¬ odd va → Gives (.vnrw core vd va sh sat last) s (lanes 2 (fun i => l32 va.toNat i >>> sh.toNat))) ∧
      (odd va → Gives (.vnrw core vd va sh sat last) s illegal ∧ Gives (.vaddw core vd va vb sat last) s illegal ∧ Gives (.vsubw core vd va vb sat last) s illegal) ∧
      (odd vd → Gives (.vmacw core vd va vb sh sat last) s illegal ∧ Gives (.vcmacw core vd va vb sh sat conj last) s illegal) ∧
      Gives (.vmov core vd va last) s (later [at_ d 2 (c.reg (0x200 + va.toNat))]) ∧
      Gives (.vbcast core vd ga last) s (later [at_ d 2 ((List.range 32).map (fun i => c.reg (0x100 + ga.toNat) % 2 ^ 16 * 2 ^ (16 * i))).sum]) ∧
      (sat = false → Gives (.vperm core vd va vb last) s (lanes 2 (fun i => a ((reg vb.toNat).extractLsb' (16 * i) 5).toNat))) ∧
      Gives (.vzero core vd last) s (later [at_ d 2 0])

/-- A POST of 64-byte units, aligned in X or Y, goes through at once when its port has room: port 0 queues a Sieve job, port 1 adds a radio command,
port 2 delivers a message with MBOX set, port 3 adds a section, port 4 writes a group to its ring. A misaligned address faults PORT, one
outside ADDR; a full port stalls the POST until an entry is freed. An enabled event interrupts at a boundary: IPC, ISTAT, ie and loop_en cleared, fetch at
IVEC. A passed compare time sets TCMP once. Waiting completion entries are written as the ring gets room. A watchdog not written in time faults; an illegal
word faults ILLEGAL, a reserved port PORT. A faulted core restarts from its image at its entry unless it faulted thrice in a second. -/
def Obligations.PostsAndCoreEvents : Prop :=
  ∀ (s : State) (core : BitVec 6) (a : BitVec 3) (slot : BitVec 2) (word : BitVec 32) (tgt : Fin 64) (p : CellPlan) (x : Stall) (im : L1Image) (e : Nat),
    let n := core.toNat
    let c := getCore s n
    let at_ := c.reg (0x50 + a.toNat)
    let bs := c.bytes at_ 64
    let d := leNat bs
    let inside := at_ % 64 = 0 ∧ ((0x100000 ≤ at_ ∧ at_ + 64 ≤ 0x140000) ∨ (0x200000 ≤ at_ ∧ at_ + 64 ≤ 0x240000))
    let free := c.stall = none ∧ c.cqWait = []
    let posts := mayIssue s n = true ∧ inside ∧ free
    let c' := { c with mid := true, stall := none }
    let busy := fun (t : State) => rd t Reg.chiselCoreBusyCycles n = (rd s Reg.chiselCoreBusyCycles n + 1) % 2 ^ Reg.chiselCoreBusyCycles.width ∧
      rd t Reg.chiselCorePortStalls n = rd s Reg.chiselCorePortStalls n % 2 ^ Reg.chiselCorePortStalls.width
    let faults := fun (cause pc : Nat) (t : State) => rd t Reg.chiselCoreState n = 4 ∧ rd t Reg.chiselCoreCause n = cause ∧
      rd t Reg.chiselCoreFaultPc n = pc % 2 ^ Reg.chiselCoreFaultPc.width ∧ rd t Reg.healthCauseChisel 0 = 1 ∧ (getCore t n).stall = none ∧
      OnlyParts [.regs, .work, .ten, .cores, .radio, .out] s t
    let op := bitsOf d 4 4
    let ent := bitsOf d 128 256
    let ring := bitsOf d 96 8
    let key := slotKey10 (bitsOf ent 96 9) (bitsOf ent 112 10) (bitsOf ent 122 7)
    let stag := c.reg 0x46
    let posted := Cmd.fresh (.radio n stag (bitsOf d 36 5)) s.work.nextCid (leNat (c.bytes at_ 128)) 128
    (posts → portFull s n 0 = false → 1 ≤ op → op ≤ 4 → sieveEngines s op ≠ 0 → Gives (.postSieve core a 0 false) s (fun t =>
      t.radio.jobs = s.radio.jobs ++ [{ core := n, desc := d, mute := false }] ∧ getCore t n = c' ∧ busy t ∧ OnlyParts [.regs, .cores, .radio] s t)) ∧
    (mayIssue s n = true → at_ % 64 = 0 → 0x100000 ≤ at_ → at_ + 128 ≤ 0x140000 → free → portFull s n 1 = false → headerBad posted (benchCount s) = none → posted.bodyLen = 1 →
      (posted.opcode = 1 ∨ posted.opcode = 3 ∨ posted.opcode = 6) → Gives (.postRadioCmd core a 1 false) s (fun t =>
        getCmd t s.work.nextCid = some posted ∧ t.work.nextCid = s.work.nextCid + 1 ∧ getCore t n = c' ∧ OnlyParts [.regs, .work, .cores] s t)) ∧
    (posts → tgt.val = bitsOf d 0 6 → tgt.val < rd s Reg.chiselInfoCores 0 → tgt.val ≠ n → coreRuns s tgt.val = true → 2 ≤ (getCore s tgt.val).reg 0x3D →
      (getCore s tgt.val).reg 0x3D ≤ 12 → ((getCore s tgt.val).reg 0x3F + 1) % 2 ^ (getCore s tgt.val).reg 0x3D ≠ (getCore s tgt.val).reg 0x3E % 2 ^ (getCore s tgt.val).reg 0x3D →
      Gives (.postMbox core a 0 false) s (fun t => bitOf ((getCore t tgt.val).reg 0x30) 5 = true ∧
        (getCore t tgt.val).reg 0x3F = ((getCore s tgt.val).reg 0x3F + 1) % 2 ^ (getCore s tgt.val).reg 0x3D ∧ getCore t n = c' ∧
        (let w := (getCore s tgt.val).reg 0x3C + 64 * ((getCore s tgt.val).reg 0x3F % 2 ^ (getCore s tgt.val).reg 0x3D)
         0x200000 ≤ w → w + 64 ≤ 0x240000 → (getCore t tgt.val).bytes w 64 = BitVec.ofNat 8 n :: bs.drop 1) ∧
        OnlyParts [.regs, .cores] s t)) ∧
    (posts → portFull s n 3 = false → cellPlan s (bitsOf d 2 9) = some p → fhTxBad s p d = false → cellSt s (bitsOf d 2 9) = 4 → bitsOf d 0 2 = 0 →
      s.clock.ns + p.txCloseNs < symStart s p (bitsOf d 15 10) (bitsOf d 25 7) (bitsOf d 11 4) → Gives (.postFhTx core a 0 false) s (fun t =>
        t.radio.sections = s.radio.sections ++ [{
          core := n, cell := bitsOf d 2 9, sfn := bitsOf d 15 10, slot := bitsOf d 25 7, sym := bitsOf d 11 4, startPrb := bitsOf d 32 9, prbs := bitsOf d 41 9,
          section_ := bitsOf d 50 12, eaxc := bitsOf d 64 16, pa := bitsOf d 96 48 }] ∧ getCore t n = c' ∧ busy t ∧ OnlyParts [.regs, .cores, .radio] s t)) ∧
    (posts → ring < 16 → bitsOf d 104 24 = 0 → bitsOf d 384 128 = 0 → bitsOf ent 48 16 = 0 → bitsOf ent 105 7 = 0 → bitsOf ent 129 127 = 0 →
      bitsOf d 64 32 ≤ 4194304 → inRadioLots s (bitsOf d 0 64) (bitsOf d 64 32) = true → s.mem.err = [] →
      (fapiPut s ring ent ((List.range (bitsOf d 64 32)).map (fun i => memDeliver s (bitsOf d 0 64 + i)))).isSome = true → Gives (.postFapiInd core a 0 false) s (fun t =>
        t.out.head? = some (.fapi ring (.group (bitsOf ent 96 9) (bitsOf ent 112 10) (bitsOf ent 122 7) (mapGet s.radio.marks key []))) ∧
        key ∈ t.radio.written ∧ mapGet t.radio.marks key [] = [] ∧ getCore t n = c')) ∧
    (mayIssue s n = true → at_ % 64 ≠ 0 → Gives (.postMbox core a 0 false) s (faults 4 c.pc) ∧ Gives (.postSieve core a 0 true) s (faults 4 c.pc)) ∧
    (mayIssue s n = true → at_ % 64 = 0 → ¬ inside → Gives (.postSieve core a 0 false) s (faults 2 c.pc) ∧ Gives (.postFhTx core a 0 false) s (faults 2 c.pc)) ∧
    (mayIssue s n = true → inside → c.stall = none → portFull s n 0 = true → Gives (.postSieve core a 0 false) s (fun t =>
      getCore t n = { c with mid := true, stall := some ⟨0, bs, stag, s.clock.ns⟩ } ∧ OnlyParts [.cores] s t)) ∧
    (c.stall = some x → x.port = 0 → portFull s n 0 = false → c.cqWait = [] → x.data.length = 64 → sieveEngines s (bitsOf (leNat x.data) 4 4) ≠ 0 →
      Gives (.portQueueEntryFreed core) s (fun t => t.radio.jobs = s.radio.jobs ++ [{ core := n, desc := leNat x.data, mute := false }] ∧
        getCore t n = { c with stall := none } ∧ rd t Reg.chiselCorePortStalls n =
          (rd s Reg.chiselCorePortStalls n + (s.clock.ns - x.sinceNs) * 7 / 5) % 2 ^ Reg.chiselCorePortStalls.width ∧ OnlyParts [.regs, .cores, .radio] s t)) ∧
    ((c.stall = none ∨ c.cqWait ≠ []) → Gives (.portQueueEntryFreed core) s (fun t => t = s)) ∧
    (coreRuns s n = true → c.mid = false → c.delay = 0 → c.stall = none → bitOf (c.reg 0x28) 0 = true → c.reg 0x30 &&& c.reg 0x31 ≠ 0 → c.pend = [] → c.stores = [] →
      c.reg 0x2B % 16 = 0 → c.reg 0x2B < 0x20000 → Gives (.interruptEntry core) s (fun t => (getCore t n).reg 0x29 = c.pc % 2 ^ 32 ∧
        (getCore t n).reg 0x2A = c.reg 0x28 % 8 ∧ (getCore t n).reg 0x28 = c.reg 0x28 / 4 * 4 % 8 ∧ (getCore t n).pc = c.reg 0x2B ∧
        rd t Reg.chiselCoreState n = 2 ∧ SameCores [n] s t ∧ OnlyParts [.regs, .cores] s t)) ∧
    ((bitOf (c.reg 0x28) 0 = false ∨ c.reg 0x30 &&& c.reg 0x31 = 0 ∨ c.delay ≠ 0) → Gives (.interruptEntry core) s (fun t => t = s)) ∧
    (coreRuns s n = true → c.tcmpArmed = true → c.reg 0x42 + c.reg 0x43 * 2 ^ 32 ≤ s.clock.ns → Gives (.tcmp core) s (fun t =>
      bitOf ((getCore t n).reg 0x30) 7 = true ∧ (getCore t n).tcmpArmed = false ∧ (getCore t n).pc = c.pc ∧ OnlyParts [.regs, .cores] s t)) ∧
    ((c.tcmpArmed = false ∨ s.clock.ns < c.reg 0x42 + c.reg 0x43 * 2 ^ 32) → Gives (.tcmp core) s (fun t => t = s)) ∧
    (coreRuns s n = true → c.cqWait = [e] → c.stall = none → 2 ≤ c.reg 0x39 → c.reg 0x39 ≤ 12 →
      (c.reg 0x3B % 2 ^ c.reg 0x39 + 1) % 2 ^ c.reg 0x39 ≠ c.reg 0x3A % 2 ^ c.reg 0x39 → Gives (.completionEntry core) s (fun t => (getCore t n).cqWait = [] ∧
        bitOf ((getCore t n).reg 0x30) 3 = true ∧ (getCore t n).reg 0x3B = (c.reg 0x3B % 2 ^ c.reg 0x39 + 1) % 2 ^ c.reg 0x39 ∧
        (let w := c.reg 0x38 + 16 * (c.reg 0x3B % 2 ^ c.reg 0x39)
         0x200000 ≤ w → w + 16 ≤ 0x240000 → (getCore t n).bytes w 16 = leBytes 16 e) ∧ OnlyParts [.regs, .cores] s t)) ∧
    (coreRuns s n = true → rd s Reg.chiselCfgWdogUs 0 ≠ 0 → c.wdogNs + 1000 * rd s Reg.chiselCfgWdogUs 0 ≤ s.clock.ns → Gives (.watchdog core) s (faults 3 c.pc)) ∧
    ((rd s Reg.chiselCfgWdogUs 0 = 0 ∨ s.clock.ns < c.wdogNs + 1000 * rd s Reg.chiselCfgWdogUs 0) → Gives (.watchdog core) s (fun t => t = s)) ∧
    (mayIssue s n = true → slotIllegal slot.toNat word.toNat = true → Gives (.illegalOpcode core slot word) s (faults 1 c.pc)) ∧
    (mayIssue s n = true → word.extractLsb' 22 10 = 0x181#10 → slot = 0 → word.extractLsb' 0 11 = 0 → 4 < (word.extractLsb' 18 4).toNat →
      Gives (.illegalOpcode core slot word) s (faults 4 c.pc)) ∧
    (mapFind s.images (rd s Reg.chiselCoreImage n) = some im → rd s Reg.chiselCoreState n = 4 →
      (c.faultNs.length < 3 ∨ c.faultNs.getD 2 0 + 1000000000 < c.faultNs.headD 0) → Gives (.coreRestart core) s (fun t =>
        rd t Reg.chiselCoreState n = 2 ∧ rd t Reg.chiselCoreRestarts n = min (rd s Reg.chiselCoreRestarts n + 1) (2 ^ Reg.chiselCoreRestarts.width - 1) ∧
        (getCore t n).pc = im.entry ∧ (getCore t n).regs = [] ∧ (getCore t n).pend = [] ∧ (im.imem.length ≤ 0x20000 → im.x = [] → im.y = [] →
          (getCore t n).bytes 0 im.imem.length = im.imem) ∧ SameCores [n] s t ∧ OnlyParts [.regs, .cores] s t)) ∧
    (rd s Reg.chiselCoreState n ≠ 4 → Gives (.coreRestart core) s (fun t => t = s))

/-- For a defined stream: a packet of the right form inside its window is stored once, another counts as discarded; a transmit packet, from its lead on, carries
its filtered samples, zeros when muted or, with an underrun counted and told, when not ready; a symbol of an NR stream is written to its cell's IQ and its core
told. A measured block enters the mask history; a decided violation is counted, and with MUTE mutes; unmute ends it. For a channel of the plan: a preamble
found within AFC's limits whose mark and turns match starts a demodulation with AFC's estimates, or is counted lost; a packet that has ended is recorded in the ring
with room, or dropped; idle power is blended into the noise floor with weight 1/16. Transmit entries are read in order and kept with their
symbols, a malformed one is reported; a transmission's end is told once it has come. FFT outputs and the waveform's chips are free values (log 100, 101). -/
def Obligations.StreamsAndChirp : Prop :=
  ∀ (s : State) (st : BitVec 4) (sfn : BitVec 10) (seq : BitVec 16) (b : Bool) (x : BitVec 32) (xs : List (BitVec 32)) (c : StreamCfg) (p : CellPlan)
    (slot : BitVec 7) (sym : BitVec 4) (pw : List (BitVec 16)) (ch : BitVec 6) (sf : BitVec 4) (hit : ChirpHit) (rec_ : ChirpRec) (d0 : Demod) (stop : Bool × Bool × List (List Nat)) (room : Nat) (m : BitVec 16) (tail tag : BitVec 16)
    (x0 : ChirpTx) (i : Nat),
    let n := st.toNat
    let k := ch.toNat
    let own := streamKind s n ≠ 0 ∧ mapFind s.tdfe.cfg n = some c ∧ rd s Reg.tdfeStreamLport n < 32 ∧ rd s Reg.tdfeStreamCore n < 64
    let lp := rd s Reg.tdfeStreamLport n
    let up := fun (f : Fld) (i v : Nat) (t : State) => rd t f i = (rd s f i + v) % 2 ^ f.width
    let told := fun (core : Nat) (t : State) => coreRuns s core = true →
      bitOf ((getCore t core).reg 0x30) 3 = true ∨ bitOf ((getCore t core).reg 0x30) 4 = true
    let at_ := sampleNs s n sfn.toNat (seq.toNat * c.spp)
    let seqKey := (n * 1024 + sfn.toNat) * 65536 + seq.toNat
    let inWindow := at_ ≤ s.clock.ns ∧ s.clock.ns ≤ at_ + 1000 * c.rxUs ∧ seqKey ∉ s.tdfe.seqs
    let muted := rd s Reg.tdfeStreamMuted n ≠ 0
    let sent := fun (l : List Nat) (t : State) => t.out.head? = some (.fh lp (.roe n seq.toNat l)) ∧ up Reg.fhPortTxFrames (lp / 4) 1 t
    let base := (symKey (rd s Reg.tdfeStreamCell n) sfn.toNat slot.toNat sym.toNat * 65536 + n) * 1024
    let hist := fun (v : Bool) => ((v :: mapGet s.tdfe.hist n []).take 8)
    let ds := mapGet s.tdfe.demods k []
    let on := channelOn s k = true ∧ 6 ≤ sf.toNat ∧ sf.toNat ≤ 12
    let core := rd s Reg.tdfeStreamCore (rd s Reg.chirpChStream k)
    let pre := rd s Reg.chirpChPreMin k
    let found := on ∧ hitDetected hit pre sf.toNat = true
    let marked := hitMarked hit pre sf.toNat (rd s Reg.chirpChMark k) = true
    let ended := ds.find? (fun d => d.sf == sf.toNat) = some d0 ∧ packetStop (rd s Reg.chirpChMaxSymbols k) rec_.syms = some stop ∧ core < 64
    let bs := chirpRecord k d0 rec_.rssiQ rec_.snrQ stop
    let txs := txSamples s n sfn.toNat c seq.toNat
    let due := s.clock.ns + 1000 * c.leadUs ≥ at_
    let old := (BitVec.ofNat 16 (rd s Reg.chirpChNoiseFloor k)).toInt
    let quiet := s.cfg.pending = []
    let txOk := rd s Reg.caps1Chirp 0 ≠ 0 ∧ inRadioLots s s.tdfe.txBase (64 * 2 ^ s.tdfe.txLog) = true
    let entry := leNat (runBytes s [(s.tdfe.txBase + 64 * (s.tdfe.txHead % 2 ^ s.tdfe.txLog), 64)])
    let symbols := (List.range (bitsOf entry 112 11)).map (fun i => leNat (runBytes s [(bitsOf entry 128 39 + 2 * i, 2)]))
    (own → inWindow → xs.length + 1 = c.spp → Gives (.roeRxPacket st sfn seq true (x :: xs)) s (fun t => up Reg.fhPortRxFrames (lp / 4) 1 t ∧
      mapGet t.tdfe.rx (sampleKey n sfn.toNat (seq.toNat * c.spp)) 0 = x.toNat ∧ seqKey ∈ t.tdfe.seqs ∧ OnlyRegs [(Reg.fhPortRxFrames, lp / 4)] s t ∧
      OnlyParts [.regs, .tdfe] s t)) ∧
    (own → ¬ inWindow → xs.length + 1 = c.spp → Gives (.roeRxPacket st sfn seq true (x :: xs)) s (fun t => up Reg.tdfeStreamRxDiscarded n 1 t ∧ OnlyParts [.regs] s t)) ∧
    (own → (b = false ∨ xs.length ≠ c.spp) → Gives (.roeRxPacket st sfn seq b xs) s (fun t => up Reg.fhPortRxDiscarded (lp / 4) 1 t ∧ OnlyParts [.regs] s t)) ∧
    (own → due → muted → Gives (.txPacket st sfn seq b) s (fun t => sent (List.replicate c.spp 0) t ∧ up Reg.tdfeStreamSatCount n (if b then txs.2 else 0) t ∧
      OnlyRegs [(Reg.fhPortTxFrames, lp / 4), (Reg.tdfeStreamSatCount, n)] s t ∧ OnlyParts [.regs, .out] s t)) ∧
    (own → ¬ due → Gives (.txPacket st sfn seq b) s (fun t => t = s)) ∧
    (own → due → ¬ muted → Gives (.txPacket st sfn seq true) s (fun t => sent txs.1 t ∧ up Reg.tdfeStreamSatCount n txs.2 t ∧
      OnlyRegs [(Reg.fhPortTxFrames, lp / 4), (Reg.tdfeStreamSatCount, n)] s t ∧ OnlyParts [.regs, .out] s t)) ∧
    (own → due → ¬ muted → streamKind s n = 2 → Gives (.txPacket st sfn seq false) s (fun t => sent (List.replicate c.spp 0) t ∧ up Reg.tdfeStreamTxUnderrun n 1 t ∧
      told (rd s Reg.tdfeStreamCore n) t ∧ OnlyParts [.regs, .cores, .out] s t)) ∧
    (own → streamKind s n = 1 → cellPlan s (rd s Reg.tdfeStreamCell n) = some p → Gives (.rxSymbol st sfn slot sym) s (fun t =>
      told (rd s Reg.tdfeStreamCore n) t ∧ t.free = s.free + 1 ∧ (¬ (base ≤ i ∧ i < base + p.nPrb) → mapGet t.radio.iq i 0 = mapGet s.radio.iq i 0) ∧
      OnlyParts [.regs, .cores, .radio, .free] s t)) ∧
    (streamKind s n ≠ 0 → quiet → maskHit s n pw = none → rdLive s Reg.tdfeStreamSegCount n ≤ 32 → Gives (.maskBlock st pw) s (fun t =>
      mapGet t.tdfe.hist n [] = hist false ∧ (0 < rdLive s Reg.tdfeStreamSegCount n → rd t Reg.tdfeSegLastQ (32 * n) = (pw.getD 0 0).toNat) ∧
      rd t Reg.tdfeStreamMuted n = rd s Reg.tdfeStreamMuted n ∧ OnlyParts [.regs, .tdfe] s t)) ∧
    (streamKind s n ≠ 0 → quiet → maskHit s n pw = some (i, room) → rdLive s Reg.tdfeStreamSegCount n ≤ 32 →
      rdLive s Reg.tdfeStreamNViol n < ((hist true).filter id).length → rd s Reg.tdfeStreamCore n < 64 → Gives (.maskBlock st pw) s (fun t =>
        mapGet t.tdfe.hist n [] = hist true ∧ rd t Reg.tdfeStreamViolated n = 1 ∧ up Reg.tdfeStreamViolations n 1 t ∧ rd t Reg.healthCauseRadio 0 = 1 ∧
        rd t Reg.tdfeStreamLastExcess n = min room (2 ^ 16 - 1) ∧ told (rd s Reg.tdfeStreamCore n) t ∧
        (rdLive s Reg.tdfeStreamAction n = 1 → ¬ muted → rd t Reg.tdfeStreamMuted n = 1))) ∧
    (reachable s (0xB00118 + 64 * n) = true → streamKind s n ≠ 0 → Gives (.unmute st) s (fun t => rd t Reg.tdfeStreamMuted n = 0 ∧
      OnlyRegs [(Reg.tdfeStreamMuted, n)] s t ∧ OnlyParts [.regs] s t)) ∧
    (reachable s (0xB00118 + 64 * n) = true → rd s Reg.caps1Tdfe 0 = 0 → Gives (.unmute st) s (fun t => t = logErr s 0 .noUnit 0 0 (0xB00118 + 64 * n))) ∧
    (reachable s (0xB00118 + 64 * n) = true → rd s Reg.caps1Tdfe 0 = 1 → streamKind s n = 0 → Gives (.unmute st) s (fun t => t = s)) ∧
    (streamKind s n = 0 → Gives (.txPacket st sfn seq b) s (fun t => t = s)) ∧
    (on → hitDetected hit pre sf.toNat = false → Gives (.chirpDetect ch sf hit) s (fun t => t = s)) ∧
    (found → marked → ds.length < 2 → sf.toNat ∉ ds.map (·.sf) → Gives (.chirpDetect ch sf hit) s (fun t =>
      (let u := afcUp hit pre
       let d := afcDown hit
       let hz := 62500 * 2 ^ rd s Reg.chirpChBw k
       mapGet t.tdfe.demods k [] = ds.map (fun d => { d with overlap := true }) ++ [⟨sf.toNat, !ds.isEmpty,
         ((hit.timeNs : Int) + (d - u) / 2 * 1000000000 / (256 * hz : Nat)).toNat, (u + d) / 2 * hz / (256 * 2 ^ sf.toNat : Nat),
         (d - u) / 2 * 1000000000 / (256 * hz : Nat), (hit.windows.map (·.peak)).foldl max 0⟩]) ∧ OnlyParts [.tdfe] s t)) ∧
    (found → marked → (2 ≤ ds.length ∨ sf.toNat ∈ ds.map (·.sf)) → Gives (.chirpDetect ch sf hit) s (fun t => up Reg.chirpChCollisions k 1 t ∧
      OnlyRegs [(Reg.chirpChCollisions, k)] s t ∧ OnlyParts [.regs] s t)) ∧
    (found → ¬ marked → Gives (.chirpDetect ch sf hit) s (fun t => up Reg.chirpChMarkMismatch k 1 t ∧ OnlyRegs [(Reg.chirpChMarkMismatch, k)] s t ∧
      OnlyParts [.regs] s t)) ∧
    (ended → bs.length ≤ room → s.tdfe.rxTail + bs.length ≤ s.tdfe.rxSize → inRadioLots s s.tdfe.rxBase s.tdfe.rxSize = true →
      keyKept s (s.tdfe.rxBase + s.tdfe.rxTail) bs.length = true → s.mem.err = [] → Gives (.packetEnd ch sf rec_ room) s (fun t =>
      (List.range bs.length).map (fun j => memByte t.mem (s.tdfe.rxBase + s.tdfe.rxTail + j)) = bs ∧
      t.tdfe.rxTail = (s.tdfe.rxTail + bs.length) % s.tdfe.rxSize ∧ up Reg.chirpChPackets k 1 t ∧ sf.toNat ∉ (mapGet t.tdfe.demods k []).map (·.sf) ∧ told core t)) ∧
    (ended → room < bs.length → Gives (.packetEnd ch sf rec_ room) s (fun t => up Reg.chirpStatRxDropped 0 1 t ∧ t.mem = s.mem ∧
      t.tdfe.rxTail = s.tdfe.rxTail ∧ sf.toNat ∉ (mapGet t.tdfe.demods k []).map (·.sf) ∧ told core t)) ∧
    ((sf.toNat ∉ ds.map (·.sf) ∨ packetStop (rd s Reg.chirpChMaxSymbols k) rec_.syms = none) → Gives (.packetEnd ch sf rec_ room) s (fun t => t = s)) ∧
    (channelOn s k = true → rd s Reg.chirpChNoiseFloor k = 0x8000 → Gives (.noiseFloor ch (some m)) s (fun t => rd t Reg.chirpChNoiseFloor k = m.toNat ∧
      OnlyRegs [(Reg.chirpChNoiseFloor, k)] s t)) ∧
    (channelOn s k = true → rd s Reg.chirpChNoiseFloor k ≠ 0x8000 → rd s Reg.chirpChNoiseFloor k < 2 ^ 16 → Gives (.noiseFloor ch (some m)) s (fun t =>
      rd t Reg.chirpChNoiseFloor k = (BitVec.ofInt 16 ((15 * old + m.toInt) >>> 4)).toNat ∧ OnlyRegs [(Reg.chirpChNoiseFloor, k)] s t ∧ OnlyParts [.regs] s t)) ∧
    Gives (.noiseFloor ch none) s (fun t => t = s) ∧
    (txOk → tail.toNat % 2 ^ s.tdfe.txLog = s.tdfe.txHead % 2 ^ s.tdfe.txLog → Gives (.chirpTxRingRead tail) s (fun t =>
      t.tdfe = { s.tdfe with txHead := tail.toNat % 2 ^ s.tdfe.txLog } ∧ OnlyParts [.tdfe] s t)) ∧
    (txOk → s.mem.err = [] → tail.toNat < 2 ^ s.tdfe.txLog → tail.toNat = (s.tdfe.txHead % 2 ^ s.tdfe.txLog + 1) % 2 ^ s.tdfe.txLog → s.tdfe.txLog ≠ 0 →
      chirpTxBad s entry symbols = false → bitsOf entry 0 64 = 0 → Gives (.chirpTxRingRead tail) s (fun t => t.tdfe.txHead = tail.toNat ∧
        t.tdfe.tx = s.tdfe.tx ++ [⟨bitsOf entry 64 6, bitsOf entry 192 16, s.clock.ns, bitsOf entry 70 4, bitsOf entry 80 16, bitsOf entry 96 12, bitsOf entry 176 8,
          bitsOf entry 184 6, symbols⟩])) ∧
    (txOk → s.mem.err = [] → tail.toNat < 2 ^ s.tdfe.txLog → tail.toNat = (s.tdfe.txHead % 2 ^ s.tdfe.txLog + 1) % 2 ^ s.tdfe.txLog → s.tdfe.txLog ≠ 0 →
      bitsOf entry 208 304 ≠ 0 → Gives (.chirpTxRingRead tail) s (fun t => t.tdfe = { s.tdfe with txHead := tail.toNat })) ∧
    (s.tdfe.tx = [x0] → x0.channel = k → x0.tag = tag.toNat → chirpEnd s x0 ≤ s.clock.ns → core < 64 → Gives (.chirpTxDone ch tag) s (fun t =>
      t.tdfe.tx = [] ∧ told core t ∧ OnlyParts [.regs, .cores, .tdfe] s t)) ∧
    (s.tdfe.tx = [x0] → s.clock.ns < chirpEnd s x0 → Gives (.chirpTxDone ch tag) s (fun t => t = s))

/-- MR_EXTEND sets MR5 to MR7 to SM3 of the old value and m; MR0 to MR4 give PERMISSION. ATTEST gathers a report whose nonce, function and measurements stand
at their places and holds go, or ends NOT_READY, PERMISSION or TRANSLATION_FAULT; ATTESTATION_REPORT writes it, signed, with status OK. KEY_DELIVERY decrypts the
blob in the reserve; KEY_INSTALL installs the keys or ends PERMISSION or BAD_FORMAT. A challenge is drawn anew. A debug token is accepted once, MR4 extended and
the level raised, or ends PERMISSION. SVN_COMMIT raises each minimum to its running value, never lowers it, extends MR4 and writes the record. An L1 image
that fails its signature or checks loads no core; one that passes is measured into MR3 and its cores run from its entry. -/
def Obligations.SecurityRequests : Prop :=
  ∀ (s : State) (b1 b2 b3 b4 : Bool) (r : ReportSt) (kr : KeyReq) (pl : List Byte) (d : Nat) (idx : BitVec 3) (obj : List Byte) (core : Fin 64) (i : Nat),
    let x := rd s Reg.secMrExtendIndex 0
    let f := rd s Reg.secAttestFn 0
    let out := rd s Reg.secAttestOut 0
    let lives := fun (f : Nat) => f ≠ 0 ∧ f ≤ rd s Reg.tenInfoVfs 0 ∧ vfState s f ≠ 0
    let ends := fun (st : Status) (t : State) => rd t Reg.secAttestStatus 0 = st.code ∧ rd t Reg.secAttestGo 0 = 0 ∧
      OnlyRegs [(Reg.secAttestStatus, 0), (Reg.secAttestGo, 0)] s t ∧ OnlyParts [.regs] s t
    let ident := rd s Reg.secStatusIdentityOk 0 ≠ 0
    let keyF := rd s Reg.secKeyFn 0
    let blob := rd s Reg.secKeyBlob 0
    let keyEnds := fun (st : Status) (t : State) => rd t Reg.secKeyStatus 0 = st.code ∧ rd t Reg.secKeyGo 0 = 0
    let word := fun (o n : Nat) => leNat ((pl.drop o).take n)
    let noLots := ∀ n ∈ List.range 384, rd s Reg.lotOwnerOwner n ≠ kr.fn
    let good := kr.plain = some pl ∧ lives kr.fn ∧ word 32 2 = kr.fn
    let tok := memBytes s (rd s Reg.secDebugToken 0) 288
    let level := ((bodyOf tok).headD 0).toNat
    let mr := fun (i m : Nat) => digest (leBytes 32 (rd s Reg.secMrValue i) ++ leBytes 32 m) % 2 ^ 256
    let top := fun (a b : Fld) => max (rd s a 0) (rd s b 0)
    let svn := fun (t : State) => rd t Reg.secSvnFwMin 0 = top Reg.secSvnFwMin Reg.secSvnRunFw ∧ rd t Reg.secSvnImgMin 0 = top Reg.secSvnImgMin Reg.secSvnRunImg ∧
      rd t Reg.secSvnL1Min 0 = top Reg.secSvnL1Min Reg.secSvnRunL1
    let h := l1Header obj
    let turn := s.boot.l1[idx.toNat]? = some obj ∧ fnReady s 13 = true ∧ (∀ j ∈ List.range idx.toNat, rd s Reg.chiselImageStatus j ≠ 0) ∧
      rd s Reg.chiselImageStatus idx.toNat = 0
    let fits := l1Refused s idx.toNat obj
    let signed := verifyObject s 4 (rd s Reg.secSvnL1Min 0) (fun g => if bitOf h 4 then g == 1 || g == 2 else g == 0) false obj
    let failed := fun (st : Status) (t : State) => rd t Reg.chiselImageStatus idx.toNat = 2 ∧ rd t Reg.chiselImageReason idx.toNat = st.code ∧ t.cores = s.cores ∧
      t.images = s.images
    (5 ≤ x → x < 8 → Gives .mrExtend s (fun t => rd t Reg.secMrValue x = mr x (rd s Reg.secMrExtendValue 0) ∧ rd t Reg.secMrExtendStatus 0 = Status.ok.code ∧
      OnlyRegs [(Reg.secMrValue, x), (Reg.secMrExtendStatus, 0)] s t ∧ OnlyParts [.regs] s t)) ∧
    (x < 5 → Gives .mrExtend s (fun t => rd t Reg.secMrExtendStatus 0 = Status.permission.code ∧ OnlyRegs [(Reg.secMrExtendStatus, 0)] s t ∧ OnlyParts [.regs] s t)) ∧
    (s.sec.report = none → ident → f ≤ 512 → (f = 0 ∨ lives f) → out % 64 = 0 → inReserve s out 512 = true → Gives .attest s (fun t =>
      (t.sec.report.any (fun r => r.fn == f && r.out == out && (r.bytes.drop 4).take 2 == leBytes 2 f && (r.bytes.drop 0x30).take 32 == leBytes 32 (rd s Reg.secAttestNonce 0) &&
        (r.bytes.drop (0x50 + 32 * (i % 8))).take 32 == leBytes 32 (rd s Reg.secMrValue (i % 8)))) = true ∧ rd t Reg.secAttestGo 0 = 1 ∧
      (f ≠ 0 → rd t Reg.secVfBusy f = 1) ∧ OnlyRegs [(Reg.secAttestGo, 0), (Reg.secVfBusy, f)] s t ∧ OnlyParts [.regs, .sec] s t)) ∧
    (s.sec.report = none → ident → f ≠ 0 → ¬ lives f → Gives .attest s (ends .permission)) ∧
    (s.sec.report = none → ¬ ident → Gives .attest s (ends .notReady)) ∧
    (s.sec.report = none → ident → (f = 0 ∨ lives f) → (out % 64 ≠ 0 ∨ inReserve s out 512 = false) → Gives .attest s (ends .translationFault)) ∧
    (s.sec.report = some r → s.sec.d = some d → r.bytes.length = 448 → Gives .attestationReport s (fun t => (List.range 448).map (fun j => memByte t.mem (r.out + j)) = r.bytes ∧
      rd t Reg.secAttestStatus 0 = Status.ok.code ∧ rd t Reg.secAttestGo 0 = 0 ∧ t.sec.report = none ∧ OnlyBytes r.out 512 s t)) ∧
    (s.sec.keyReq = none → s.sec.d = some d → inReserve s blob 161 = true → Gives .keyDelivery s (fun t =>
      t.sec.keyReq = some { fn := keyF, plain := Config.sm2Decrypt d (memBytes s blob 161) } ∧ rd t Reg.secKeyGo 0 = 1)) ∧
    (s.sec.keyReq = none → s.sec.d = some d → inReserve s blob 161 = false → Gives .keyDelivery s (fun t => keyEnds .translationFault t ∧ OnlyParts [.regs] s t)) ∧
    (s.sec.keyReq = some kr → good → pl.length = 64 → (pl.drop 34).all (· == 0) = true → pl.take 16 ≠ (pl.drop 16).take 16 → noLots → kr.fn ≤ 512 → Gives .keyInstall s (fun t =>
      keyEnds .ok t ∧ mapFind t.mem.keys kr.fn = some (word 0 32) ∧ rd t Reg.secVfDelivered kr.fn = 1 ∧ rd t Reg.secVfBusy kr.fn = 0 ∧ t.sec.keyReq = none ∧
      OnlyParts [.regs, .mem, .sec] s t)) ∧
    (s.sec.keyReq = some kr → kr.fn ≤ 512 → (kr.plain = none ∨ (kr.plain = some pl ∧ (word 32 2 ≠ kr.fn ∨ ¬ lives kr.fn))) → Gives .keyInstall s (fun t => keyEnds .permission t ∧ t.mem = s.mem)) ∧
    (s.sec.keyReq = some kr → kr.fn ≤ 512 → good → ((pl.drop 34).any (· != 0) = true ∨ pl.take 16 = (pl.drop 16).take 16) → Gives .keyInstall s (fun t => keyEnds .badFormat t ∧ t.mem = s.mem)) ∧
    (s.sec.keyReq = some kr → kr.fn ≤ 512 → good → pl.length = 64 → (pl.drop 34).all (· == 0) = true → pl.take 16 ≠ (pl.drop 16).take 16 → ¬ noLots → Gives .keyInstall s (fun t => keyEnds .permission t ∧ t.mem = s.mem)) ∧
    Gives .debugChallenge s (fun t => t.sec = { s.sec with chalOpen := true } ∧ t.free = s.free + 1 ∧ OnlyRegs [(Reg.secDebugChal, 0)] s t ∧ OnlyParts [.regs, .sec, .free] s t) ∧
    (inReserve s (rd s Reg.secDebugToken 0) 288 = true → Gives .debugToken s (fun t => if tokenOk s tok then
        rd t Reg.secDebugStatus 0 = Status.ok.code ∧ t.sec.chalOpen = false ∧ rd t Reg.secMrValue 4 = mr 4 (digest tok) ∧ level ≤ rd t Reg.secStatusDebug 0
      else rd t Reg.secDebugStatus 0 = Status.permission.code ∧ t.sec = s.sec ∧ OnlyRegs [(Reg.secDebugStatus, 0)] s t)) ∧
    (s.sec.chalOpen = false → tokenOk s tok = false) ∧
    (rd s Reg.secSvnRunFw 0 < 2 ^ 16 → rd s Reg.secSvnRunImg 0 < 2 ^ 16 → rd s Reg.secSvnRunL1 0 < 2 ^ 16 → Gives (.svnCommit b1 b2 b3 b4) s (fun t => svn t ∧
      rd t Reg.secMrValue 4 = mr 4 (digest (leBytes 2 (top Reg.secSvnFwMin Reg.secSvnRunFw) ++ leBytes 2 (top Reg.secSvnImgMin Reg.secSvnRunImg) ++
        leBytes 2 (top Reg.secSvnL1Min Reg.secSvnRunL1) ++ leBytes 2 0)) ∧
      ((b1 ∨ b2) → (b3 ∨ b4) → t.boot.recValid = true ∧ (s.boot.recValid = true → s.boot.recBank ≤ 1 → t.boot.recBank = s.boot.recBank)) ∧
      ((b1 = false ∧ b2 = false) → rd t Reg.healthCauseRecord 0 = 1))) ∧
    (turn → Gives (.l1ImageLoad idx) s (fun t => (signed.isSome = true → failed .permission t) ∧
      (signed = none → fits.isSome = true → failed (fits.getD .ok) t) ∧
      (signed = none → fits = none → rd t Reg.chiselImageStatus idx.toNat = 1 ∧ rd t Reg.secMrValue 3 = mr 3 (digest obj) ∧
        mapFind t.images idx.toNat = some {
          entry := bitsOf h 128 17
          imem := ((bodyOf obj).drop 64).take (bitsOf h 160 32)
          x := (((bodyOf obj).drop 64).drop (bitsOf h 160 32)).take (bitsOf h 192 32)
          y := (((bodyOf obj).drop 64).drop (bitsOf h 160 32 + bitsOf h 192 32)).take (bitsOf h 224 32) } ∧
        (core.val ∈ bitList 64 (bitsOf h 64 64) → rd t Reg.chiselCoreState core.val = 2 ∧ (getCore t core.val).pc = bitsOf h 128 17 ∧ (getCore t core.val).regs = []) ∧
        (core.val ∉ bitList 64 (bitsOf h 64 64) → getCore t core.val = getCore s core.val)))) ∧
    (¬ turn → s.boot.l1[idx.toNat]? = some obj → Gives (.l1ImageLoad idx) s (fun t => t = s))

/-- A control bit reaches the entry of a VF at or below NumVFs alone, and none before its registers can be. STOP, its clearing, FREEZE and RESUME move a VF as Table 15.5 says and nothing else; a state that does not accept them gives PERMISSION and moves
nothing. QUIESCING ends in QUIESCED when no step and no collective is left, and goes on while one is. FREEZE gives each open bench that holds the VF's context a
switch to save it; FREEZING ends in FROZEN when all is at rest. NUM_VFS above TotalVFs, or raised in VENDOR debug, is logged and changes nothing else; before
configuration lock it waits; after it, it takes effect: each VF enabled is ACTIVE with no queue, tally or context, and each disabled begins a reset that ends OFF;
a VF already in a reset ends it ACTIVE or OFF by the last number written. -/
def Obligations.VfStates : Prop :=
  ∀ (s : State) (fn : Fin 513) (n : BitVec 16) (b k j : Nat) (g : Fin 513) (r : ResetSt),
    let f := fn.val
    let live := f ≠ 0 ∧ f ≤ rd s Reg.tenInfoVfs 0 ∧ reachable s (0xC10000 + 64 * f) = true
    let st := vfState s f
    let moves := fun (v : Nat) (fl : Fld) (x : Nat) (t : State) => vfState t f = v ∧ rd t fl f = x ∧ OnlyRegs [(Reg.vfCtlState, f), (fl, f)] s t ∧ OnlyParts [.regs] s t
    let denied := fun (t : State) => rd t Reg.vfCtlLastStatus f = Status.permission.code ∧ OnlyRegs [(Reg.vfCtlLastStatus, f)] s t ∧ OnlyParts [.regs] s t
    let control := fun (P : State → Prop) => Gives (.stop fn) s P ∧ Gives (.stopClear fn) s P ∧ Gives (.freeze fn) s P ∧ Gives (.resume fn) s P ∧
      Gives (.reset fn) s P ∧ Gives (.forceReset fn) s P
    let atMost := benchCount s ≤ 32
    let myBench := b < benchCount s ∧ benchOpen s b = true ∧ (getBench s b).ctx = some k ∧ k / 32 = f
    let leaves := fun (t : State) => (myBench → (getBench t b).sw = some { outgoing := some k, incoming := none, phase := .grace, startNs := s.clock.ns, graceNs := s.clock.ns, starve := false }) ∧
      OnlyParts [.regs, .yards] s t
    let stepLeft := s.work.steps.any (fun e => e.1 / 64 == f) = true
    let collLeft := s.crush.colls.any (fun e => e.2.fn == f) = true
    let m := n.toNat
    let old := rd s Reg.tenInfoVfs 0
    let raises := rd s Reg.secStatusDebug 0 = 2 ∧ old < m
    let v := g.val
    let fresh := fun (t : State) => vfState t v = 1 ∧ rd t Reg.vfCtlStop v = 0 ∧ (j / 64 = v → getQ t j = Queue.reset) ∧
      (j / 1024 = v → mapGet t.work.tallies j 0 = 0) ∧ (j / 32 = v → (getCtx t j).res = .empty) ∧ rd t Reg.secVfDelivered v = 0 ∧ rd t Reg.vfPartYardPages v = 0
    let ending := fun (t : State) => (mapFind t.ten.resets v).any (fun r => r.cause == 2 && r.toOff && r.startNs == s.clock.ns) = true ∧
      vfState t v = 4 ∧ rd t Reg.vfCtlForceReset v = 1 ∧ (j / 64 = v → getStep t j = none)
    (live → st = 1 → Gives (.stop fn) s (moves 2 Reg.vfCtlStop 1)) ∧
    (live → st ≠ 1 → rd s Reg.vfCtlStop f = 0 → Gives (.stop fn) s denied) ∧
    (live → st ≠ 1 → rd s Reg.vfCtlStop f ≠ 0 → Gives (.stop fn) s (fun t => t = s)) ∧
    (reachable s (0xC10000 + 64 * f) = false → control (fun t => t = logErr s 0 .notReady 0 0 (0xC10000 + 64 * f))) ∧
    (reachable s (0xC10000 + 64 * f) = true → (f = 0 ∨ old < f) → control (fun t => t = s)) ∧
    (live → (st = 2 ∨ st = 3) → Gives (.stopClear fn) s (moves 1 Reg.vfCtlStop 0)) ∧
    (live → st ≠ 2 → st ≠ 3 → rd s Reg.vfCtlStop f = 0 → Gives (.stopClear fn) s (fun t => t = s)) ∧
    (live → st ≠ 2 → st ≠ 3 → rd s Reg.vfCtlStop f ≠ 0 → Gives (.stopClear fn) s denied) ∧
    (st = 2 → ¬ stepLeft → ¬ collLeft → Gives (.quiesced fn) s (moves 3 Reg.vfCtlState 3)) ∧
    ((st ≠ 2 ∨ stepLeft ∨ collLeft) → Gives (.quiesced fn) s (fun t => t = s)) ∧
    (live → atMost → (st = 1 ∨ st = 3) → Gives (.freeze fn) s (fun t => vfState t f = 5 ∧ rd t Reg.vfCtlFreeze f = 1 ∧ leaves t)) ∧
    (live → st ≠ 1 → st ≠ 3 → Gives (.freeze fn) s denied) ∧
    (st = 5 → atRest s f = true → Gives (.frozen fn) s (moves 6 Reg.vfCtlFreeze 0)) ∧
    (st = 5 → atMost → atRest s f = false → Gives (.frozen fn) s (fun t => vfState t f = 5 ∧ leaves t)) ∧
    (st ≠ 5 → Gives (.frozen fn) s (fun t => t = s)) ∧
    (live → st = 6 → Gives (.resume fn) s (moves 1 Reg.vfCtlStop 0)) ∧
    (live → st ≠ 6 → Gives (.resume fn) s denied) ∧
    (totalVfs s < m → Gives (.numVfs n) s (fun t => t = logErr s 0 .badFormat 0 0 0)) ∧
    (m ≤ totalVfs s → raises → Gives (.numVfs n) s (fun t => t = logErr s 0 .permission 0 0 0)) ∧
    (m ≤ totalVfs s → ¬ raises → rd s Reg.readySummaryLocked 0 = 0 → Gives (.numVfs n) s (fun t => t = { s with boot := { s.boot with numVfs := some m } })) ∧
    (m ≤ totalVfs s → ¬ raises → rd s Reg.readySummaryLocked 0 ≠ 0 → atMost → FnsOk s → Gives (.numVfs n) s (fun t => rd t Reg.tenInfoVfs 0 = m ∧
      (old < v → v ≤ m → mapFind s.ten.resets v = none → fresh t) ∧
      (m < v → v ≤ old → mapFind s.ten.resets v = none → ending t) ∧
      (old < v → v ≤ m → mapFind s.ten.resets v = some r → mapFind t.ten.resets v = some { r with toOff := false }) ∧
      (m < v → v ≤ old → mapFind s.ten.resets v = some r → mapFind t.ten.resets v = some { r with toOff := true })))

/-- A reset from QUIESCED empties the VF's queues, tallies, contexts (each epoch up by one) and job, reports its cause, raises the epoch and ends ACTIVE, and
leaves every other function's queues, tallies and contexts and all of DRAM; another state refuses it with PERMISSION. A forced reset or an FLR enters RESETTING
with its cause and drops the VF's steps and unacknowledged messages; a state OFF or RESETTING discards it. A forced reset goes on while a command of the VF
drains, or the message lifetime of 16 µs has not passed since its last message; then the VF is ACTIVE with its report, or OFF with its lots in RELEASING
where it was disabled. -/
def Obligations.VfResets : Prop :=
  ∀ (s : State) (fn : Fin 513) (j e : Nat) (r : ResetSt),
    let f := fn.val
    let there := f ≠ 0 ∧ f ≤ rd s Reg.tenInfoVfs 0 ∧ benchCount s ≤ 32 ∧ FnsOk s
    let live := there ∧ reachable s (0xC10000 + 64 * f) = true
    let st := vfState s f
    let denied := fun (t : State) => rd t Reg.vfCtlLastStatus f = Status.permission.code ∧ OnlyRegs [(Reg.vfCtlLastStatus, f)] s t ∧ OnlyParts [.regs] s t
    let clean := fun (t : State) => getQ t j = (if j / 64 = f then Queue.reset else getQ s j) ∧ getStep t j = (if j / 64 = f then none else getStep s j) ∧
      mapGet t.work.tallies j 0 = (if j / 1024 = f then 0 else mapGet s.work.tallies j 0) ∧
      getCtx t j = (if j / 32 = f then { Ctx.fresh with epoch := ((getCtx s j).epoch + 1) % 256 } else getCtx s j) ∧
      rd t Reg.fabVfJob f = 0 ∧ rd t Reg.vfCtlEpoch f = (rd s Reg.vfCtlEpoch f + 1) % 2 ^ 16 ∧ rd t Reg.vfDirtyEnable f = 0 ∧ rd t Reg.vfCtlStop f = 0 ∧
      rd t Reg.tenHistBin (32 * f + e % 32) = 0
    let report := fun (r : ResetSt) (t : State) => rd t Reg.vfCtlCause f = r.cause % 4 ∧ rd t Reg.vfCtlSquashedCmds f = min 65535 r.squashedCmds ∧
      rd t Reg.vfCtlSquashedColls f = min 255 r.squashedColls ∧ rd t Reg.vfCtlDrainedCmds f = min 65535 r.drained ∧ rd t Reg.vfCtlDrainNs f = (s.clock.ns - r.startNs) % 2 ^ 32
    let silent := fun (t : State) => t.fab.unacked.any (fun e => e.2.msg.srcFn == f) = false
    let begun := fun (c : Nat) (t : State) => (mapFind t.ten.resets f).any (fun r => r.cause == c && !r.toOff && r.startNs == s.clock.ns) = true ∧
      vfState t f = 4 ∧ rd t Reg.vfCtlForceReset f = 1 ∧ (j / 64 = f → getStep t j = none) ∧ silent t
    let drains := s.work.cmds.any (fun e => !e.2.owner.isRadio && e.2.owner.fn == f && e.2.st != .done) = true
    let waits := (match lastSent s f r.lastNs with | some w => decide (s.clock.ns < w + 16000) | none => false) = true
    (live → st = 3 → Gives (.reset fn) s (fun t => clean t ∧ vfState t f = 1 ∧
      report { startNs := s.clock.ns, cause := 1, squashedCmds := 0, squashedColls := 0, drained := 0, lastNs := none, toOff := false } t ∧
      OnlyParts [.regs, .work, .yards, .ten] s t)) ∧
    (live → st ≠ 3 → Gives (.reset fn) s denied) ∧
    (live → st ≠ 0 → st ≠ 4 → Gives (.forceReset fn) s (begun 2)) ∧
    (live → (st = 0 ∨ st = 4) → Gives (.forceReset fn) s (fun t => t = s)) ∧
    (there → st ≠ 0 → st ≠ 4 → Gives (.flr fn) s (begun 3)) ∧
    (there → (st = 0 ∨ st = 4) → Gives (.flr fn) s (fun t => t = s)) ∧
    (mapFind s.ten.resets f = some r → (drains ∨ waits) → Gives (.forcedResetDone fn) s (fun t => t = s)) ∧
    (mapFind s.ten.resets f = some r → benchCount s ≤ 32 → ¬ drains → ¬ waits → Gives (.forcedResetDone fn) s (fun t =>
      clean t ∧ report r t ∧ silent t ∧ vfState t f = (if r.toOff then 0 else 1) ∧ (∀ n ∈ List.range 384, r.toOff = true → lotOwnerOf s n = f → lotIdle s n = true →
        rd t Reg.lotOwnerState n = 1) ∧ OnlyParts [.regs, .mem, .work, .yards, .fab, .ten, .free] s t)) ∧
    (mapFind s.ten.resets f = none → Gives (.forcedResetDone fn) s (fun t => t = s))

/-- A metering tick first applies the committed groups of its kind; then each function's four buckets gain a microsecond of their rate, up to their burst. A
sample adds one count for every RUNNING queue to its function's depth and delay bins, or for every port and class to the fabric's bins, saturating; with the
period at 0 it adds nothing; clear zeroes every bin. A SAVE or RESTORE starts only while none runs. A descriptor in a bad line ends MEM_UE, a malformed one BAD_FORMAT, a VF of the wrong
state or lots without a delivered key PERMISSION, too small a capacity BAD_FORMAT, an image space that is not there TRANSLATION_FAULT, with nothing written; else the
header and encrypted body stand at the image address and the status is OK. SAVE_LIVE draws the live_id and begins marking. RESTORE with the wrong state or
key_check ends PERMISSION, another signature BAD_VERSION, and a wrong image BAD_FORMAT, none of them changing the target; a LIVE image's lots go to the listed
lots and its live_id is kept; a full FINAL's tallies and queue blocks replace the target's. MIGRATION_COMPLETE clears go and shows status and bytes. -/
def Obligations.SamplesAndMigration : Prop :=
  ∀ (s : State) (depths delays : List Nat) (f i e o l pick : Nat) (m : Migration) (p : Snap) (lots : List Nat) (hb enc body : List Byte),
    let top := 2 ^ 32 - 1
    let fl := fun (x : Fld) => (List.range x.count).map (fun j => (x, j))
    let u := applyKind s 4
    let tops := fun (rate burst : Fld) (a b : SMap Nat) => mapGet a f 0 = min (rdLive u burst f * 1024) (mapGet b f 0 + rdLive u rate f * 100)
    let runs := s.work.queues.filter (fun q => q.2.state == .running && q.1 / 64 == f)
    let age := fun (q : Queue) => match q.bells with | [] => 1 | b :: _ => max 1 ((s.clock.ns - b.2) / 1000)
    let d := migDesc s
    let v := bitsOf d 16 10
    let addr := bitsOf d 64 48
    let turn := fun (op : Nat) => s.ten.mig = none ∧ bitsOf d 4 2 = op ∧ reachable s 0xC00010 = true
    let at_ := inReserve s (rd s Reg.migDescPa 0 / 64 * 64) 64 = true
    let spoilt := at_ ∧ badLine s (rd s Reg.migDescPa 0 / 64) = true
    let sound := at_ ∧ ¬ spoilt ∧ migBad d = false
    let state := if bitsOf d 4 2 = 1 then vfState s v = 6 else vfState s v = 1 ∨ vfState s v = 6
    let there := v ≤ rd s Reg.tenInfoVfs 0
    let keyed := lots = [] ∨ s.mem.delivered.contains v = true
    let ends := fun (st : Status) (t : State) => (t.ten = { s.ten with mig := some { op := bitsOf d 4 2, fn := v, status := st, bytes := 0 } }) ∧ rd t Reg.migCtrlGo 0 = 1 ∧
      OnlyRegs [(Reg.migCtrlGo, 0)] s t ∧ t.host = s.host ∧ t.mem = s.mem
    let image := fun (t : State) (off n : Nat) => if bitOf d 6 then (List.range n).map (fun j => memByte t.mem (addr + off + j)) else hostBytes t (bitsOf d 192 20) (addr + off) n
    let saved := fun (phase : Nat) (full : Bool) (live : Nat) (body : List Byte) (t : State) =>
      let h := leNat (image t 0 64)
      bitsOf h 0 4 = 1 ∧ bitsOf h 4 2 = phase ∧ bitOf h 6 = full ∧ bitsOf h 16 10 = v ∧ bitsOf h 26 9 = lots.length ∧ bitsOf h 64 64 = rd s Reg.detSignatureSignature 0 ∧
      bitsOf h 128 64 = live ∧ bitsOf h 192 64 = keyCheck s v ∧ bitsOf h 256 64 = body.length ∧ image t 64 body.length = xtsLines true (slotKey s v) 0 (body.length / 64) body ∧
      bitsOf h 320 64 = crc64 (image t 64 body.length) ∧ t.ten.mig = some { op := bitsOf d 4 2, fn := v, status := .ok, bytes := 64 + body.length } ∧ rd t Reg.migCtrlGo 0 = 1 ∧
      OnlyParts [.regs, .mem, .host, .ten, .boot, .out, .free] s t
    let ready := sound ∧ there ∧ state ∧ imageLots s v = lots ∧ keyed ∧ lots.length < 512 ∧ rd s Reg.detSignatureSignature 0 < 2 ^ 64
    let goes := fun (n : Nat) => bitsOf d 128 64 ≥ 64 + n ∧ migFits s d (64 + n) = true ∧ s.mem.err = [] ∧ (bitOf d 6 = true → keyKept s addr (64 + n) = true) ∧ (senseRuns s 5 0 (lots.map (fun n => (n * 2 ^ 30, 2 ^ 30)))).2 = none
    let id := Config.entropy s.free % 2 ^ 64
    let whole := lotsFull s lots
    let h := leNat hb
    let n := bitsOf h 256 64
    let found := s.mem.err = [] ∧ (migRead s d 0 64).2 = .ok hb ∧ n % 64 = 0 ∧ 64 + n ≤ bitsOf d 128 64 ∧ (migRead s d 64 n).2 = .ok enc
    let calm := there ∧ vfState s v = 6 ∧ s.work.queues.any (fun e => e.1 / 64 == v && e.2.state != .disabled) = false ∧
      (List.range 32).any (fun c => (getCtx s (ctxKey v c)).res != .empty) = false ∧
      (lotList s d).all (fun n => lotOwnerOf s n == v && lotIdle s n && decide (n < 384) && n != rd s Reg.bankPartSaveLot v) = true ∧ bitsOf h 192 64 = keyCheck s v
    let whichOk := bitsOf h 0 4 = 1 ∧ bitsOf h 4 2 ≤ 1 ∧ bitsOf h 26 9 = (lotList s d).length ∧ crc64 enc = bitsOf h 320 64 ∧
      ¬ (bitsOf h 4 2 = 1 ∧ bitOf h 6 = false ∧ mapFind s.ten.liveIn v ≠ some (bitsOf h 128 64))
    let fits := calm ∧ bitsOf h 64 64 = rd s Reg.detSignatureSignature 0 ∧ whichOk ∧ body = xtsLines false (slotKey s v) 0 (n / 64) enc
    let done := fun (t : State) => t.ten.mig = some { op := 2, fn := v, status := .ok, bytes := 64 + n } ∧ rd t Reg.migCtrlGo 0 = 1
    (f ≤ rd s Reg.tenInfoVfs 0 → Gives .meteringTick s (fun t => tops Reg.fabVfCir Reg.fabVfCbs t.fab.tc u.fab.tc ∧ tops Reg.fabVfPir Reg.fabVfPbs t.fab.tp u.fab.tp ∧
      tops Reg.vfPartHostCir Reg.vfPartHostCbs t.fab.hostTc u.fab.hostTc ∧ tops Reg.vfPartHostPir Reg.vfPartHostPbs t.fab.hostTp u.fab.hostTp ∧ OnlyParts [.fab] u t)) ∧
    (s.cfg.pending.filter (fun p => p.kind == 4) = [p] → p.index ≤ 512 → snapCrc p.values = p.crc → p.values.length = 4 → p.values.all (· < 2 ^ 10) = true →
      [rdLive u Reg.fabVfCir p.index, rdLive u Reg.fabVfPir p.index, rdLive u Reg.fabVfCbs p.index, rdLive u Reg.fabVfPbs p.index] = p.values) ∧
    (s.cfg.pending.filter (fun p => p.kind == 4) = [] → u = s) ∧
    (rd s Reg.tenSamplePeriodUs 0 ≠ 0 → i < 16 → f ≤ 512 → rd s Reg.tenHistBin (32 * f + i) < 2 ^ 32 → rd s Reg.tenHistBin (32 * f + 16 + i) < 2 ^ 32 → Gives .tenantSample s (fun t =>
      rd t Reg.tenHistBin (32 * f + i) = min top (rd s Reg.tenHistBin (32 * f + i) + (runs.filter (fun q => histBin q.2.depth 1 == i)).length) ∧
      rd t Reg.tenHistBin (32 * f + 16 + i) = min top (rd s Reg.tenHistBin (32 * f + 16 + i) +
        (runs.filter (fun q => (if q.2.depth = 0 then 0 else histBin (age q.2) 1) == i)).length) ∧ OnlyParts [.regs] s t)) ∧
    (rd s Reg.tenSamplePeriodUs 0 = 0 → Gives .tenantSample s (fun t => t = s)) ∧
    (reachable s 0xC00004 = true → Gives .tenSampleClear s (fun t => (e < 16416 → rd t Reg.tenHistBin e = 0) ∧ OnlyRegs (fl Reg.tenHistBin) s t ∧ OnlyParts [.regs] s t)) ∧
    (rd s Reg.jeanoSamplePeriodUs 0 ≠ 0 → i < 16 → l < 48 → rd s Reg.jeanoHistBin (32 * l + i) < 2 ^ 32 → rd s Reg.jeanoHistBin (32 * l + 16 + i) < 2 ^ 32 →
      Gives (.queueSample depths delays) s (fun t =>
        rd t Reg.jeanoHistBin (32 * l + i) = min top (rd s Reg.jeanoHistBin (32 * l + i) + (if histBin (depths.getD l 0) 256 = i then 1 else 0)) ∧
        rd t Reg.jeanoHistBin (32 * l + 16 + i) = min top (rd s Reg.jeanoHistBin (32 * l + 16 + i) + (if histBin (delays.getD l 0) 16 = i then 1 else 0)) ∧
        OnlyRegs (fl Reg.jeanoHistBin) s t ∧ OnlyParts [.regs] s t)) ∧
    (rd s Reg.jeanoSamplePeriodUs 0 = 0 → Gives (.queueSample depths delays) s (fun t => t = s)) ∧
    (reachable s 0x500014 = true → Gives .jeanoSampleClear s (fun t => (e < 1536 → rd t Reg.jeanoHistBin e = 0) ∧ OnlyRegs (fl Reg.jeanoHistBin) s t ∧ OnlyParts [.regs] s t)) ∧
    (s.ten.mig = some m → Gives .saveLive s (fun t => t = s) ∧ Gives .saveFinal s (fun t => t = s) ∧ Gives .restore s (fun t => t = s)) ∧
    (turn 0 → ¬ sound → Gives .saveLive s (ends (if spoilt then .memUe else .badFormat))) ∧
    (turn 1 → ¬ sound → Gives .saveFinal s (ends (if spoilt then .memUe else .badFormat))) ∧
    (turn 2 → ¬ sound → Gives .restore s (ends (if spoilt then .memUe else .badFormat))) ∧
    (turn 0 → sound → (¬ there ∨ ¬ state ∨ (imageLots s v = lots ∧ ¬ keyed)) → Gives .saveLive s (ends .permission)) ∧
    (turn 1 → sound → (¬ there ∨ ¬ state ∨ (imageLots s v = lots ∧ ¬ keyed)) → Gives .saveFinal s (ends .permission)) ∧
    (turn 0 → ready → bitsOf d 128 64 < 64 + lots.length * 2 ^ 30 → Gives .saveLive s (ends .badFormat)) ∧
    (turn 0 → ready → lots.length * 2 ^ 30 + 64 ≤ bitsOf d 128 64 → migFits s d (64 + lots.length * 2 ^ 30) = false → Gives .saveLive s (ends .translationFault)) ∧
    (turn 0 → ready → goes (lots.length * 2 ^ 30) → Gives .saveLive s (fun t => saved 0 true id whole t ∧ mapFind t.ten.liveOut v = some id ∧
      mapFind t.ten.liveLots v = some lots ∧ mapFind t.ten.marks v = some [] ∧ t.free = s.free + 1)) ∧
    (turn 1 → ready → (mapFind s.ten.liveOut v = none ∨ mapGet s.ten.liveLots v [] ≠ lots) → body = stateSection s v ++ whole → goes body.length →
      Gives .saveFinal s (fun t => saved 1 true 0 body t ∧ t.free = s.free)) ∧
    (turn 1 → ready → mapFind s.ten.liveOut v = some l → l < 2 ^ 64 → mapGet s.ten.liveLots v [] = lots → body = stateSection s v ++ lotsMarked s v lots → goes body.length →
      Gives .saveFinal s (fun t => saved 1 false l body t ∧ t.free = s.free)) ∧
    (turn 2 → sound → 64 ≤ bitsOf d 128 64 → s.mem.err = [] → (migRead s d 0 64).2 = .error .translationFault → Gives .restore s (ends .translationFault)) ∧
    (turn 2 → sound → found → ¬ calm → Gives .restore s (ends .permission)) ∧
    (turn 2 → sound → found → calm → bitsOf h 64 64 ≠ rd s Reg.detSignatureSignature 0 → Gives .restore s (ends .badVersion)) ∧
    (turn 2 → sound → found → calm → bitsOf h 64 64 = rd s Reg.detSignatureSignature 0 → ¬ whichOk → Gives .restore s (ends .badFormat)) ∧
    (turn 2 → sound → found → fits → bitsOf h 4 2 = 0 → n = (lotList s d).length * 2 ^ 30 → Gives .restore s (fun t => done t ∧
      mapFind t.ten.liveIn v = some (bitsOf h 128 64) ∧ t.work = s.work ∧
      ((lotList s d)[pick]? = some l → l ∉ (lotList s d).drop (pick + 1) → o < 2 ^ 30 → keyKept s (l * 2 ^ 30 + o) 1 = true → memByte t.mem (l * 2 ^ 30 + o) = body.getD (pick * 2 ^ 30 + o) 0))) ∧
    (turn 2 → sound → found → fits → bitsOf h 4 2 = 1 → bitOf h 6 = true → lotList s d = [] → body.length = 8256 → leNat ((body.drop 8192).take 8) = 0 → Gives .restore s (fun t =>
      done t ∧ (i < 1024 → tallyGet t v i = leNat ((body.drop (4096 + 4 * i)).take 4)) ∧
      (e < 64 → getQ t (qKey v e) = queueFrom ((body.drop (64 * e)).take 64) false s.clock.ns) ∧ t.mem = s.mem)) ∧
    (s.ten.mig = some m → Gives .migrationComplete s (fun t => t.ten = { s.ten with mig := none } ∧ rd t Reg.migCtrlGo 0 = 0 ∧ rd t Reg.migCtrlStatus 0 = m.status.code ∧
      rd t Reg.migBytesBytes 0 = m.bytes % 2 ^ 64 ∧ OnlyRegs [(Reg.migCtrlGo, 0), (Reg.migCtrlStatus, 0), (Reg.migBytesBytes, 0)] s t ∧ OnlyParts [.regs, .ten] s t)) ∧
    (s.ten.mig = none → Gives .migrationComplete s (fun t => t = s))

/-- RESET_N low puts every register but the hold-up store's charge at its reset value, with the stores of units as at reset and host memory and NVM kept; a running
hold-up sequence delays that. Its rise starts the machine when conversion runs: salt, key of slot 0 and incarnation are drawn in that order, and SECURITY, NVM and UCIe
come up. READY_RESTART does both on its key, nothing on another value. FIRMWARE_VERIFY loads the winning record, or notes it lost in MR4; it takes the preferred slot,
else the other, measures it into MR0 and shows it; with neither the start is restricted. The identity gives the key pair and device ID, or the start is restricted. The
grade record is measured into MR1 and loads CAPS, bench numbers and absences, or restricts the start with its status. IMAGE takes the preferred slot, else the
other, measures it into MR2, is READY with its signature, places the node where its JEANO section (when sound) says, and admits the cell plan or shows why not; with
neither slot IMAGE is FAILED and the start restricted. -/
def Obligations.StartAndRestart : Prop :=
  ∀ (s : State) (key : BitVec 32) (fl : Fld) (idx i d : Nat) (o : List Byte) (g : GradeRec) (a b : Sections) (bank : Nat),
    let z := State.reset
    let cold := fun (t : State) => (fldKey fl idx ≠ fldKey Reg.powerHoldStoredDj 0 → rd t fl idx = rd z fl idx) ∧
      rd t Reg.powerHoldStoredDj 0 = rd s Reg.powerHoldStoredDj 0 % 2 ^ 16 ∧ t.work = z.work ∧ t.yards = z.yards ∧ t.fab = z.fab ∧ t.cores = z.cores ∧ t.mem.dram = z.mem.dram ∧
      t.host = s.host ∧ t.boot.nvm = s.boot.nvm ∧ t.boot.resetLow = true ∧ t.live = z.live ∧ t.sec = z.sec ∧ t.power = z.power ∧ t.clock = z.clock ∧ t.out = s.out ∧ t.free = s.free
    let begun := fun (t : State) => t.mem.salt = Config.entropy s.free % 2 ^ 26 ∧ mapFind t.mem.keys 0 = some (Config.entropy (s.free + 1) % 2 ^ 256) ∧
      rd t Reg.jeanoNodeIncarnation 0 = Config.entropy (s.free + 2) % 2 ^ 16 ∧ t.free = s.free + 3 ∧ ([1, 2, 4].all (fun j => rd t Reg.readyFnState j == 1)) = true ∧
      rd t Reg.timeClkStatusUcieLock 0 = 1 ∧ t.clock = z.clock ∧ t.boot.resetLow = false ∧ t.boot.nvm = s.boot.nvm ∧ t.host = s.host ∧ t.work = z.work
    let mr := fun (i : Nat) (bs : List Byte) => digest (leBytes 32 (rd s Reg.secMrValue i) ++ leBytes 32 (digest bs)) % 2 ^ 256
    let halted := fun (j : Nat) (st : Status) (t : State) => rd t Reg.readyFnState j = 3 ∧ rd t Reg.readyFnStatus j = st.code ∧ rd t Reg.readySummaryRestricted 0 = 1 ∧
      rd t Reg.caps0BenchCount 0 = 0 ∧ rd t Reg.caps0DramLots 0 = 0 ∧ ([9, 10, 11, 12].all (fun k => rd t Reg.readyFnState k == 3)) = true
    let why := fun (f : List Byte → Option Status) (x : Option (List Byte)) => match x with | none => Status.badFormat | some o => (f o).getD .ok
    let rejected := fun (f : List Byte → Option Status) (x : Option (List Byte)) => x.all (fun o => (f o).isSome) = true
    let v := loadRecord s
    let fw := rd v Reg.readyNextFwSlot 0
    let fwOk := verifyObject v 1 (rd v Reg.secSvnFwMin 0) (· == 0) false
    let fwAt := fun (k : Nat) => regionObject s (regFw k)
    let fwTurn := fnReady s 2 = true ∧ rd s Reg.readyFnState 0 < 2 ∧ rd s Reg.secStatusFirmwareOk 0 = 0 ∧ fw < 2
    let record := fun (t : State) => (recWinner s = none → rd t Reg.readyBootPrecLost 0 = 1 ∧ rd t Reg.secMrValue 4 = mr 4 [0x50, 0x52, 0x45, 0x43, 0x4C, 0x4F, 0x53, 0x54]) ∧
      (recWinner s = some bank → t.boot.recBank = bank ∧ t.boot.recValid = true ∧ rd t Reg.readyBootPrecBank 0 = bank) ∧ OnlyParts [.regs, .mem, .boot, .health] s t
    let fwTaken := fun (slot : Nat) (t : State) => record t ∧ rd t Reg.secStatusFirmwareOk 0 = 1 ∧ rd t Reg.secSvnRunFw 0 = svnOf o ∧ rd t Reg.readyBootFwSlot 0 = slot ∧
      rd t Reg.readyBootFwFallback 0 = (if slot = fw then 0 else 1) ∧ rd t Reg.secMrValue 0 = mr 0 o ∧ (rd v Reg.readyBootPrecLost 0 ≠ 0 → rd t Reg.secSvnFwMin 0 = svnOf o)
    let idTurn := rd s Reg.secStatusFirmwareOk 0 ≠ 0 ∧ rd s Reg.readyFnState 1 < 2
    let puf := Config.pufKey (nvmBytes s 0 0x1000)
    let pub := (Config.sm2Pub d).toNat
    let grTurn := rd s Reg.secStatusFirmwareOk 0 ≠ 0 ∧ fnReady s 1 = true ∧ rd s Reg.readyFnState 0 < 2
    let grOk := verifyObject s 2 0 (· == 0) true
    let grAt := regionObject s (0x1000, 0x3000)
    let first := rd s Reg.readyNextImgSlot 0
    let imTurn := fnReady s 0 = true ∧ rd s Reg.readyFnState 3 = 1 ∧ first < 2
    let imOk := fun (o : List Byte) => match verifyObject s 3 (rd s Reg.secSvnImgMin 0) (fun x => x == 1 || x == 2) false o with
      | some st => some st | none => if imageForm (bodyOf o) then none else some Status.badFormat
    let imAt := fun (k : Nat) => regionObject s (regImg k)
    let imTaken := fun (slot : Nat) (t : State) =>
      let c := sectionsOf (bodyOf o) (if slot = 0 then a else b)
      rd t Reg.secStatusImageOk 0 = 1 ∧ rd t Reg.secSvnRunImg 0 = svnOf o ∧ rd t Reg.readyBootImgSlot 0 = slot ∧ rd t Reg.readyBootImgFallback 0 = (if slot = first then 0 else 1) ∧
      rd t Reg.secMrValue 2 = mr 2 o ∧ rd t Reg.readyFnState 3 = 2 ∧ rd t Reg.detSignatureSignature 0 = detSignature t ∧ (hasSection (bodyOf o) 0xB = false →
        rd t Reg.plumbPlumb 0 = bit01 c.plumb ∧
        (jeanoBad s c = none → rd t Reg.jeanoNodeCol 0 = c.node % 8 ∧ rd t Reg.jeanoNodeRow 0 = c.node / 8 % 8 ∧ rd t Reg.jeanoNodeRowsM1 0 = c.rowsM1 ∧ rd t Reg.jeanoNodeColsM1 0 = c.colsM1) ∧
        (c.cells ≠ [] → planReason s c = 0 → rd t Reg.radioPlanStatus 0 = 1 ∧ (i < c.cells.length → mapFind t.radio.plan i = c.cells[i]? ∧ rd t Reg.cellState i ≥ 1)) ∧
        (c.cells ≠ [] → planReason s c ≠ 0 → rd t Reg.radioPlanStatus 0 = 2 ∧ rd t Reg.radioPlanReason 0 = planReason s c ∧ t.radio.plan = s.radio.plan)) ∧
      OnlyParts [.regs, .live, .yards, .ten, .clock, .radio, .net, .tdfe, .cfg, .boot, .power, .out] s t
    (s.power.holdRun = false → Gives .resetNAssert s cold) ∧
    (s.power.holdRun = true → Gives .resetNAssert s (fun t => t = { s with boot := { s.boot with resetLow := true } })) ∧
    (s.boot.resetLow = true → s.boot.converting = true → s.power.holdRun = false → Gives .resetNRelease s begun) ∧
    (s.boot.resetLow = true → (s.boot.converting = false ∨ s.power.holdRun = true) → Gives .resetNRelease s (fun t => t = { s with boot := { s.boot with resetLow := false } })) ∧
    (s.boot.resetLow = false → Gives .resetNRelease s (fun t => t = s)) ∧
    (key = 0x5A5AA5A5 → s.boot.resetLow = false → s.boot.converting = true → s.power.holdRun = false → Gives (.readyRestart key) s begun) ∧
    (key ≠ 0x5A5AA5A5 → Gives (.readyRestart key) s (fun t => t = s)) ∧
    (fwTurn → fwAt fw = some o → (if fwOk o = none then Gives .firmwareVerify s (fwTaken fw)
      else (rejected fwOk (fwAt (1 - fw)) → Gives .firmwareVerify s (fun t => record t ∧ halted 0 (why fwOk (some o)) t)))) ∧
    (fwTurn → rejected fwOk (fwAt fw) → fwAt (1 - fw) = some o → (fwOk o = none → Gives .firmwareVerify s (fwTaken (1 - fw)))) ∧
    (fwTurn → fwAt fw = none → fwAt (1 - fw) = none → Gives .firmwareVerify s (fun t => record t ∧ halted 0 .badFormat t)) ∧
    (idTurn → Gives .identityDerive s (fun t => (puf = none → halted 0 .permission t ∧ rd t Reg.readyFnState 1 = 3 ∧ t.sec = s.sec) ∧
      (puf = some d → t.sec = { s.sec with d := some d } ∧ rd t Reg.secPubkeyKey 0 = pub ∧ rd t Reg.secDeviceIdId 0 = digest (leBytes 64 pub) % 2 ^ 64 ∧
        rd t Reg.secStatusIdentityOk 0 = 1 ∧ rd t Reg.readyFnState 1 = 2) ∧ OnlyParts [.regs, .sec] s t)) ∧
    (grTurn → rejected grOk grAt → Gives (.gradeRecordVerify g) s (fun t => halted 0 (why grOk grAt) t ∧ OnlyParts [.regs] s t)) ∧
    (grTurn → grAt = some o → Gives (.gradeRecordVerify g) s (fun t => (grOk o = none → gradeOk g = false → halted 0 .badFormat t) ∧
      (grOk o = none → gradeOk g = true → rd t Reg.caps0BenchCount 0 = g.benches ∧ rd t Reg.caps0DramLots 0 = g.lots ∧ rd t Reg.caps0JeanoPortMask 0 = g.jeanoMask ∧
        rd t Reg.caps1ChiselCount 0 = g.chisel ∧ rd t Reg.caps1RadioUnits 0 = g.radioUnits ∧ rd t Reg.secOwnerKeyKey 0 = g.ownerKey.toNat ∧ rd t Reg.secStatusGradeOk 0 = 1 ∧
        rd t Reg.secMrValue 1 = mr 1 o ∧ rd t Reg.readyFnState 0 = 2 ∧
        (i < g.benches → rd t Reg.benchIdPhysical i = ((List.range 34).filter (fun p => !g.harvested.contains p)).getD i 0) ∧
        (g.benches ≤ i → i < 32 → rd t Reg.readyFnState (32 + i) = 4)) ∧ OnlyParts [.regs] s t)) ∧
    (imTurn → imAt first = some o → (if imOk o = none then Gives (.imageVerify a b) s (imTaken first)
      else (rejected imOk (imAt (1 - first)) → Gives (.imageVerify a b) s (fun t => halted 3 (why imOk (some o)) t ∧ OnlyParts [.regs] s t)))) ∧
    (imTurn → rejected imOk (imAt first) → imAt (1 - first) = some o → (imOk o = none → Gives (.imageVerify a b) s (imTaken (1 - first)))) ∧
    (imTurn → imAt first = none → imAt (1 - first) = none → Gives (.imageVerify a b) s (fun t => halted 3 .badFormat t ∧ OnlyParts [.regs] s t))

/-- A function whose bring-up succeeds is READY (a bench free and active), one that fails FAILED with its status (a bench in quarantine; the NVM restricts the start); then
no function whose conditions of Table 17.1 hold is left unstarted. A Survey item's results are stored, a change beyond Table 17.3 sets its bit, cable
ports take what their probe found, and the item is done; the seventh makes the Survey READY. A stored model is used until a changed airflow asks for a new step, whose
fitted model COOLING_STEP stores and uses. Lock is taken when IMAGE and the stacks are READY and hold is 0 or the manager has asked: lots go to firmware, radio, the
reserve, and none; MEMORY is READY; a waiting NumVFs takes effect, but for a raise in VENDOR debug. A manager's write after lock is logged; one before the conditions is kept. A commit is logged in a restricted start; else it takes the next
token; it is refused with its status, or waits as a snapshot of the staged values with its CRC, in place of one of the same group. At its boundary an intact snapshot
becomes live, APPLIED; a damaged one is TORN, changes no live value and sets the cause. -/
def Obligations.BringUpAndLock : Prop :=
  ∀ (s : State) (idx : BitVec 8) (st : Status) (aux : Nat) (item : SurveyItem) (kd tau theta : BitVec 16) (manager : Bool) (kind : BitVec 4) (p : Snap) (w : Nat)
    (pr : CableProbe) (tm : Nat × Nat × Nat) (j : Fin 256) (probes : List CableProbe) (means : List Nat) (us : Nat),
    let i := idx.toNat
    let bench := 32 ≤ i ∧ i < 64
    let quar := bitOf (rd s Reg.healthQuarBenches 0) (i - 32)
    let settled := fun (t : State) => j.val ∈ fnOrder → rd t Reg.readyFnState j = 0 → ¬ ((fnDeps t j).all (fnReady t) = true ∧ fnMayStart t j = true)
    let failed := fun (t : State) => rd t Reg.readyFnState i = 3 ∧ settled t ∧ OnlyParts [.regs, .mem, .yards, .boot, .health, .out] s t
    let k := itemNum item
    let turn := itemReady s item = true ∧ s.boot.surveyDone.contains k = false
    let ws := (itemWords s item).take 1000
    let changed := surveyChanged s k ws
    let doneNow := fun (t : State) => t.boot.surveyDone = insertNat s.boot.surveyDone k ∧
      ((insertNat s.boot.surveyDone k).length = 7 → rd t Reg.readyFnState 7 = 2 ∧ rd t Reg.surveyStateState 0 = 2 ∧ t.boot.recPending = true)
    let model := fun (m : Nat × Nat × Nat) (src : Nat) (t : State) => rd t Reg.thermModelKD 0 = m.1 % 2 ^ 16 ∧ rd t Reg.thermModelTau 0 = m.2.1 % 2 ^ 16 ∧
      rd t Reg.thermModelTheta 0 = m.2.2 % 2 ^ 16 ∧ rd t Reg.thermModelSource 0 = src
    let radio := if rd s Reg.radioPlanStatus 0 = 1 then rd s Reg.memRsvRadioLots 0 else 0
    let mgr := rd s Reg.memRsvMgrLots 0
    let isLocked := rd s Reg.readySummaryLocked 0 ≠ 0
    let may := fnReady s 3 = true ∧ [9, 10, 11, 12].all (fnReady s) = true ∧ ¬ isLocked
    let asked := rd s Reg.cfgLockHold 0 = 0 ∨ s.boot.lockAsked = true ∨ manager = true
    let kk := rd s Reg.cfgCommitKind 0
    let ix := rd s Reg.cfgCommitIndex 0
    let tail := rd s Reg.cfgResultIdxTail 0
    let room := (tail + 64 - rd s Reg.cfgResultIdxHead 0) % 64 ≠ 63 ∧ tail < 64
    let token := (rd s Reg.cfgCommitToken 0 + 1) % 2 ^ 16
    let r := fun (f : Fld) => rd s f ix
    let refusal : Option Status :=
      if kk = 0 ∨ 5 < kk ∨ (if kk = 5 then 15 else 512) < ix ∨ (kk = 3 ∧ ix = 0) then some .badFormat
      else if kk ≠ 5 ∧ rd s Reg.tenInfoVfs 0 < ix then some .permission
      else if kk = 5 ∧ streamKind s ix = 0 then some .noUnit
      else if fnReady s 3 = false then some .notReady
      else if kk = 2 ∧ benchCount s - rd s Reg.bankRotCount 0 < (((List.range 513).filter (· != ix)).map (rdLive s Reg.bankPartBenchMin)).sum + r Reg.bankPartBenchMin then some .quota
      else if kk = 2 ∧ (r Reg.bankPartBenchMax < r Reg.bankPartBenchMin ∨ benchCount s < r Reg.bankPartBenchMax ∨ r Reg.bankPartQuantum < 2 ∨ 1000 < r Reg.bankPartQuantum) then some .badFormat
      else if kk = 3 ∧ 192 < r Reg.vfPartYardPages then some .badFormat
      else if kk = 5 ∧ (32 < r Reg.tdfeStreamSegCount ∨ ∃ g ∈ List.range 32, rd s Reg.tdfeSegHi (32 * ix + g) < rd s Reg.tdfeSegLo (32 * ix + g)) then some .badFormat
      else none
    let result := fun (tok kd ixn out : Nat) (st : Status) (t : State) => rd t Reg.cfgResultToken tail = tok ∧ rd t Reg.cfgResultKind tail = kd ∧ rd t Reg.cfgResultIndex tail = ixn ∧
      rd t Reg.cfgResultOutcome tail = out ∧ rd t Reg.cfgResultStatus tail = st.code ∧ rd t Reg.cfgResultIdxTail 0 = (tail + 1) % 64
    let vs := (groupFields kk ix).map (fun e => rd s e.1 e.2)
    let pend := s.cfg.pending
    let open_ := rd s Reg.readySummaryRestricted 0 = 0
    let barred := rd s Reg.secStatusDebug 0 = 2 ∧ s.boot.numVfs.any (fun m => decide (rd s Reg.tenInfoVfs 0 < m)) = true
    let due := pend.filter (fun p => p.kind == kind.toNat) = [p] ∧ p.index ≤ (if p.kind = 5 then 15 else 512) ∧ p.values.length = (groupFields p.kind p.index).length ∧ p.kind ≤ 5 ∧
      1 ≤ p.kind ∧ p.token < 2 ^ 16 ∧ snapCrc p.values = p.crc
    benchCount s ≤ 32 → FnsOk s →
    (bringing s i = true → (i ≠ 2 → Gives (.functionReady idx (some st) aux) s (fun t => failed t ∧ rd t Reg.readyFnStatus i = st.code ∧
      (bench → bitOf (rd t Reg.healthQuarBenches 0) (i - 32) = true ∧ t.boot.recPending = true))) ∧
      (i = 2 → Gives (.functionReady idx (some st) aux) s (fun t => failed t ∧ rd t Reg.readySummaryRestricted 0 = 1 ∧ rd t Reg.readyFnState 0 = 3 ∧
        rd t Reg.readyFnStatus 0 = Status.internal.code)) ∧
      (mayReady s i = true → ¬ (bench ∧ quar = true) → Gives (.functionReady idx none aux) s (fun t => rd t Reg.readyFnState i = 2 ∧ settled t ∧
        (bench → rd t Reg.benchStateRole (i - 32) = 0 ∧ rd t Reg.benchStatePstate (i - 32) = 0) ∧ OnlyParts [.regs, .mem, .boot, .health, .out] s t)) ∧
      (mayReady s i = true → bench → quar = true → Gives (.functionReady idx none aux) s failed) ∧
      (mayReady s i = false → Gives (.functionReady idx none aux) s (fun t => t = s))) ∧
    (bringing s i = false → Gives (.functionReady idx none aux) s (fun t => t = s)) ∧
    (turn → Gives (.surveyMeasurement item) s (fun t => (w < ws.length → mapFind t.boot.survey (1024 * k + w) = ws[w]?) ∧
      (changed = true → bitOf (rd t Reg.surveyStateChanged 0) k = true) ∧ (changed = false → rd t Reg.surveyStateChanged 0 = rd s Reg.surveyStateChanged 0) ∧
      (k < 6 → doneNow t) ∧ (k = 6 → s.boot.thermal = some tm → model tm 2 t ∧ (item = .cooling ws true ∨ changed = false → doneNow t ∧
        rd t Reg.surveyStateThermalReused 0 = 1)) ∧ settled t ∧
      (item = .supplies means us → rd t Reg.powerHoldERecordDj 0 = cdiv (6 * us) 100000 % 2 ^ 16 ∧ mapFind t.boot.survey 1023 = some us) ∧
      (item = .cables probes → w < 16 → probes[w]? = some pr → rd t Reg.cableState w = (if rd s Reg.cableCeilingCw w = 0 then 0 else if pr = .short then 5 else if pr = .open_ then 1 else 2)) ∧
      t.mem = s.mem ∧ t.work = s.work)) ∧
    (¬ turn → Gives (.surveyMeasurement item) s (fun t => t = s)) ∧
    (fnReady s 3 = true → rd s Reg.surveyStateState 0 ≠ 0 → s.boot.surveyDone.contains 6 = false → Gives (.coolingStep kd tau theta) s (fun t =>
      model (kd.toNat, tau.toNat, theta.toNat) 1 t ∧ t.boot.thermal = some (kd.toNat, tau.toNat, theta.toNat) ∧ t.boot.recPending = true ∧
      t.boot.surveyDone = insertNat s.boot.surveyDone 6 ∧ OnlyParts [.regs, .boot] s t)) ∧
    (may → asked → rd s Reg.caps0DramLots 0 ≤ 384 → (s.boot.numVfs.all (· ≤ 512)) = true → Gives (.configurationLock manager) s (fun t => rd t Reg.readySummaryLocked 0 = 1 ∧
      rd t Reg.cfgLockLock 0 = 1 ∧ rd t Reg.readyFnState 13 = 2 ∧ (w < rd s Reg.caps0DramLots 0 → rd t Reg.lotOwnerState w = 0 ∧
        rd t Reg.lotOwnerOwner w = (if w < 2 then 0x3FF else if w < 2 + radio then 0x3FE else if w < 2 + radio + mgr then 0x3FD else 0)) ∧
      t.boot.numVfs = none ∧ (s.boot.numVfs.isSome = true → ¬ barred → some (rd t Reg.tenInfoVfs 0) = s.boot.numVfs) ∧
      (barred → rd t Reg.tenInfoVfs 0 = rd s Reg.tenInfoVfs 0) ∧ settled t)) ∧
    (manager = true → isLocked → Gives (.configurationLock manager) s (fun t => t = logErr s 0 .permission 0 0 0x20000)) ∧
    (manager = true → ¬ isLocked → ¬ may → Gives (.configurationLock manager) s (fun t => t = { s with boot := { s.boot with lockAsked := true } })) ∧
    (manager = false → ¬ (may ∧ asked) → Gives (.configurationLock manager) s (fun t => t = s)) ∧
    (rd s Reg.readySummaryRestricted 0 ≠ 0 → Gives .cfgCommit s (fun t => t = logErr s 0 .notReady 0 0 0x20010)) ∧
    (open_ → room → ix < 2 ^ 10 → kk < 16 → refusal.isSome = true → pend.filter (fun p => p.kind == kk && p.index == ix) = [] → Gives .cfgCommit s (fun t =>
      rd t Reg.cfgCommitToken 0 = token ∧ result token kk ix 2 (refusal.getD .ok) t ∧ OnlyParts [.regs] s t)) ∧
    (open_ → refusal = none → Gives .cfgCommit s (fun t => rd t Reg.cfgCommitToken 0 = token ∧
      t.cfg.pending = pend.filter (fun p => !(p.kind == kk && p.index == ix)) ++ [{ kind := kk, index := ix, token := token, values := vs, crc := snapCrc vs }] ∧
      rd t Reg.cfgPendingCount 0 = t.cfg.pending.length % 2 ^ 10 ∧ (kk ≠ 3 → t.live = s.live) ∧ (kk = 3 → rdLive t Reg.vfPartYardPages ix = r Reg.vfPartYardPages % 2 ^ 8) ∧
      (room → pend.filter (fun p => p.kind == kk && p.index == ix) = [p] → p.token < 2 ^ 16 → result p.token kk ix 3 .ok t) ∧ OnlyParts [.regs, .live, .cfg] s t)) ∧
    (due → Gives (.stagedApply kind false) s (fun t => t.cfg.pending = pend.filter (· != p) ∧ (room → result p.token p.kind p.index 1 .ok t) ∧
      (w < p.values.length → ((groupFields p.kind p.index)[w]?).all (fun e => rdLive t e.1 e.2 == p.values.getD w 0 % 2 ^ e.1.width) = true) ∧
      OnlyParts [.regs, .live, .yards, .cfg] s t)) ∧
    (due → Gives (.stagedApply kind true) s (fun t => t.live = s.live ∧ (room → result p.token p.kind p.index 4 .cfgTorn t) ∧ rd t Reg.healthCauseCfg 0 = 1 ∧
      OnlyParts [.regs, .yards, .ten, .cfg, .out] s t)) ∧
    (pend.filter (fun p => p.kind == kind.toNat) = [] → Gives (.stagedApply kind false) s (fun t => t = s))

/-- An operation through CFG_NVM ends NOT_READY while the NVM, or the memory of its buffer, is not READY; BAD_FORMAT when a window transfer is longer than 64 KiB;
TRANSLATION_FAULT when its buffer is not in the manager reserve; PERMISSION outside the regions it may touch; a PROGRAM from a bad line MEM_UE. A READ else delivers the bytes of the NVM to the
window, or to memory. An ERASE leaves 0xFF in its range. A PROGRAM clears the bits the buffer has clear, in its range; a grade record's region takes the whole
buffer, erased around it, if a record that verifies starts it, and is PERMISSION otherwise. Each says OK, and no other byte of the NVM changes. READY_NEXT puts the selection into the
registers and the record. A write of the record goes to the bank that is not the winner, with the next sequence number, as one of its two attempts reads back; that
bank then holds the record, byte for byte, and is the winner, and nothing pends. When both fail the winner stays and HEALTH is told. A pending record is written: in the hold-up
sequence when the store is ready and carries it, else at once after the Survey or, 16 times a day, on a new UE_PERSISTENT record, and hourly; else nothing is. -/
def Obligations.NvmAndRecord : Prop :=
  ∀ (s : State) (i x : Nat) (fw img ok1 ok2 : Bool),
    let a := rd s Reg.cfgNvmNvmOffset 0
    let n := rd s Reg.cfgNvmLength 0
    let pa := rd s Reg.cfgNvmPa 0
    let window := rd s Reg.cfgNvmWin 0 ≠ 0
    let says_ := fun (st : Status) (t : State) => rd t Reg.cfgNvmStatus 0 = st.code ∧ OnlyRegs [(Reg.cfgNvmStatus, 0)] s t ∧ OnlyParts [.regs] s t
    let up := fnReady s 2 = true
    let noDram := fnReady s 13 = false ∨ rd s Reg.readySummaryRestricted 0 ≠ 0
    let buffer := up ∧ (if window then n ≤ 65536 else ¬ noDram ∧ inReserve s pa n = true)
    let lies := fun (rs : List (Nat × Nat)) => rs.any (fun r => decide (r.1 ≤ a ∧ a + n ≤ r.1 + r.2)) = true
    let grade := [(0x1000, 0x3000)]
    let readable := grade ++ [(0x4000, 0x1000), (0x10000, 0x10000), (0x40000, 0x40000), (0x80000, 0x40000), (0x100000, 0x800000), (0x900000, 0x800000), (0x2000000, 0x4000000), (0x6000000, 0x4000000)]
    let inUse := fun (ok slot : Fld) (k : Nat) => rdB s ok 0 && rd s slot 0 == k
    let writable := [(0x10000, 0x10000)] ++ (if inUse Reg.secStatusFirmwareOk Reg.readyBootFwSlot 0 then [] else [(0x100000, 0x800000)]) ++
      (if inUse Reg.secStatusFirmwareOk Reg.readyBootFwSlot 1 then [] else [(0x900000, 0x800000)]) ++ (if inUse Reg.secStatusImageOk Reg.readyBootImgSlot 0 then [] else [(0x2000000, 0x4000000)]) ++
      (if inUse Reg.secStatusImageOk Reg.readyBootImgSlot 1 then [] else [(0x6000000, 0x4000000)])
    let within := a ≤ x ∧ x < a + n
    let bs := nvmBuffer s
    let wrote := fun (b : Byte) (t : State) => nvmByte t x = b ∧ rd t Reg.cfgNvmStatus 0 = Status.ok.code ∧ OnlyRegs [(Reg.cfgNvmStatus, 0)] s t ∧
      t.boot = { s.boot with nvm := t.boot.nvm } ∧ OnlyParts [.regs, .boot] s t
    let len := leNat (bs.take 8)
    let gradeGood := a = 0x1000 ∧ len ≠ 0 ∧ bs.length = len + 8 ∧ len + 8 ≤ 0x3000 ∧ verifyObject s 2 0 (· == 0) true (bs.drop 8) = none
    let bank := if s.boot.recValid then 1 - s.boot.recBank else 0
    let base := if bank = 0 then 0x40000 else 0x80000
    let seq := if s.boot.recValid then (s.boot.recSeq + 1) % 2 ^ 32 else 1
    let recorded := fun (u t : State) => if ok1 ∨ ok2 then t.boot = { u.boot with nvm := t.boot.nvm, recValid := true, recBank := bank, recSeq := seq, recPending := false, recAtOnce := false, recUe := false } ∧
        nvmByte t x = (if base ≤ x ∧ x < base + 0x1C000 then (recBytes u seq).getD (x - base) 0 else if base ≤ x ∧ x < base + 0x40000 then 0xFF else nvmByte s x) ∧ t.regs = u.regs ∧
        OnlyParts [.regs, .boot] s t
      else t.boot = { u.boot with nvm := t.boot.nvm } ∧ rd t Reg.healthCauseRecord 0 = 1 ∧ (nvmByte t x = if base ≤ x ∧ x < base + 0x40000 then 0xFF else nvmByte s x) ∧
        OnlyRegs [(Reg.healthCauseRecord, 0)] u t ∧ OnlyParts [.regs, .boot, .ten, .out] s t
    let pends := s.boot.recBank ≤ 1 ∧ s.boot.recPending = true
    let holdOk := rd s Reg.powerHoldRecordOk 0 ≠ 0 ∧ rd s Reg.powerStatHoldReady 0 ≠ 0
    let day := s.boot.recUeNs.filter (fun w => decide (s.clock.up < w + 86400000000000))
    let ueDue := s.boot.recUe = true ∧ day.length < 16
    let hourDue := (match s.boot.recLastNs with | none => true | some w => decide (w + 3600000000000 ≤ s.clock.up)) = true
    let whole := nvmBufferBad s = false
    (¬ up → Gives .nvmRead s (says_ .notReady) ∧ Gives .nvmErase s (says_ .notReady) ∧ Gives .nvmProgram s (says_ .notReady)) ∧
    (up → window → 65536 < n → Gives .nvmRead s (says_ .badFormat) ∧ Gives .nvmProgram s (says_ .badFormat)) ∧
    (up → ¬ window → noDram → Gives .nvmRead s (says_ .notReady) ∧ Gives .nvmProgram s (says_ .notReady)) ∧
    (up → ¬ window → ¬ noDram → inReserve s pa n = false → Gives .nvmRead s (says_ .translationFault) ∧ Gives .nvmProgram s (says_ .translationFault)) ∧
    (buffer → ¬ lies readable → Gives .nvmRead s (says_ .permission)) ∧
    (up → ¬ lies (grade ++ writable) → Gives .nvmErase s (says_ .permission)) ∧
    (buffer → ¬ whole → Gives .nvmProgram s (says_ .memUe)) ∧
    (buffer → whole → ¬ lies (grade ++ writable) → Gives .nvmProgram s (says_ .permission)) ∧
    (buffer → lies readable → window → Gives .nvmRead s (fun t => rd t Reg.cfgNvmStatus 0 = Status.ok.code ∧ (i < n → rd t Reg.cfgNvmWinByte i = (nvmByte s (a + i)).toNat) ∧
      OnlyParts [.regs] s t)) ∧
    (buffer → lies readable → ¬ window → Gives .nvmRead s (fun t => rd t Reg.cfgNvmStatus 0 = Status.ok.code ∧ (i < n → keyKept s pa n = true → s.mem.err = [] → memByte t.mem (pa + i) = nvmByte s (a + i)) ∧
      OnlyBytes pa n s t ∧ OnlyRegs [(Reg.cfgNvmStatus, 0)] s t ∧ OnlyParts [.regs, .mem, .ten] s t)) ∧
    (up → lies (grade ++ writable) → Gives .nvmErase s (wrote (if within then 0xFF else nvmByte s x))) ∧
    (buffer → whole → lies grade → gradeGood → Gives .nvmProgram s (wrote (if within then bs.getD (x - a) 0 else if 0x1000 ≤ x ∧ x < 0x4000 then 0xFF else nvmByte s x))) ∧
    (buffer → whole → lies grade → ¬ gradeGood → Gives .nvmProgram s (says_ .permission)) ∧
    (buffer → whole → lies writable → ¬ lies grade → Gives .nvmProgram s (wrote (if within then bs.getD (x - a) 0 &&& nvmByte s x else nvmByte s x))) ∧
    (s.boot.recBank ≤ 1 → Gives (.readyNext fw img ok1 ok2) s (fun t => rd t Reg.readyNextFwSlot 0 = bit01 fw ∧ rd t Reg.readyNextImgSlot 0 = bit01 img ∧
      recorded (wr (wr s Reg.readyNextFwSlot 0 (bit01 fw)) Reg.readyNextImgSlot 0 (bit01 img)) t)) ∧
    (pends → s.power.holdRun = true → holdOk → Gives (.persistentRecordWrite ok1 ok2) s (recorded s)) ∧
    (pends → s.power.holdRun = false → s.boot.recAtOnce = true → Gives (.persistentRecordWrite ok1 ok2) s (recorded s)) ∧
    (pends → s.power.holdRun = false → s.boot.recAtOnce = false → ueDue → Gives (.persistentRecordWrite ok1 ok2) s
      (recorded { s with boot := { s.boot with recUeNs := s.clock.up :: day } })) ∧
    (pends → s.power.holdRun = false → s.boot.recAtOnce = false → ¬ ueDue → hourDue → Gives (.persistentRecordWrite ok1 ok2) s
      (recorded { s with boot := { s.boot with recLastNs := some s.clock.up } })) ∧
    (s.boot.recPending = false ∨ (s.power.holdRun = true ∧ ¬ holdOk) ∨ (s.power.holdRun = false ∧ s.boot.recAtOnce = false ∧ ¬ ueDue ∧ ¬ hourDue) →
      Gives (.persistentRecordWrite ok1 ok2) s (fun t => t = s))

/-- Conversion starts the device unless RESET_N is low. An input loss or a trip stops every unit: no core runs, no step or command is left, nothing of DRAM or of the fabric stays; the
state, the cause and for a trip full fans follow, and the management ports with a link are told of a loss. A discharge ends the hold-up sequence with less than 2 J stored. A measured
store shows its capacitance, V_target, energy and record_ok. A measurement shows the voltage's band and the means of 10 ms and 1 s, raises the peaks, and samples powered cable ports. The
pace in force is the larger of the limiter's and the loop's; after 1 ms at 15 the ladder may be asked. The watchdog drives full duty once no loop cycle has run for 50 ms. A limiting port
that has delivered its energy trips, and its third trip in 60 s latches FAULT; it retries after 1 s, is probed when ABSENT, and leaves FAULT by the manager's clear alone. A band is held when it lies within
40 to t_cap, until it is stopped or its minutes end. An Ethernet link shows its state. In any other state each row does nothing. -/
def Obligations.PowerStageAndCables : Prop :=
  ∀ (s : State) (high up : Bool) (uf mv w cmw : BitVec 16) (lim : Bool) (cables : List (BitVec 16 × Bool)) (pace : BitVec 4) (cause : TripCause) (port : BitVec 4)
    (cls : Nat) (b : Band) (i p : Nat),
    let z := State.reset
    let j := port.toNat
    let conv := s.boot.converting = true
    let runs := conv ∧ rd s Reg.powerStatState 0 < 2
    let mean := fun (n : Nat) (l : List Nat) => if l = [] then 0 else (l.take n).sum / (l.take n).length
    let only := fun (ks : List (Fld × Nat)) (t : State) => OnlyRegs ks s t ∧ OnlyParts [.regs] s t
    let quiet := fun (t : State) => t.cores = [] ∧ t.work.steps = [] ∧ t.work.cmds = [] ∧ t.mem.dram = [] ∧ t.fab = z.fab ∧ t.crush = z.crush ∧
      (i < 32 → rd t Reg.benchStatePstate i = rd z Reg.benchStatePstate i ∧ (rd s Reg.readyFnState (32 + i) ≠ 4 → rd t Reg.readyFnState (32 + i) = 0)) ∧
      (i < 16 → rd t Reg.cableState i = rd z Reg.cableState i) ∧ t.boot.nvm = s.boot.nvm ∧ t.host = s.host
    let lossCause := if high then 2 else 1
    let tripCause := match cause with | .overpower => 3 | .dieThermal => 4 | .dramThermal => 5
    let told := fun (kind : Nat) (t : State) => (i = 0 → rd s Reg.healthMgmtStatLink0 0 = 1 → t.out.any (fun o => match o with | .datagram 0 bs => bs[5]? == some (BitVec.ofNat 8 kind) | _ => false) = true) ∧
      (i = 1 → rd s Reg.healthMgmtStatLink1 0 = 1 → t.out.any (fun o => match o with | .datagram 1 bs => bs[5]? == some (BitVec.ofNat 8 kind) | _ => false) = true)
    let full := fun (t : State) => i < 4 → rd t Reg.pwmDuty i = 255
    let e := rd s Reg.powerHoldCeilingDj 0
    let c := uf.toNat
    let store := [(Reg.powerHoldCapUf, 0), (Reg.powerHoldVTargetMv, 0), (Reg.powerHoldStoredDj, 0), (Reg.powerStatHoldReady, 0), (Reg.powerHoldRecordOk, 0)]
    let recUs := mapGet s.boot.survey 1023 0
    let energyMw := mapGet s.power.limitE j 0
    let heard := s.clock.up :: mapGet s.power.trips j []
    let recent := heard.filter (fun t => decide (s.clock.up < t + 60000000000))
    let tripped := rd s Reg.cableState j = 3 ∧ 100000 * rd s Reg.cableFaultMj j ≤ energyMw
    let v := mv.toNat
    let samples := ((w.toNat, tenantDraw s) :: s.power.samples).take 100000
    let ws := samples.map (·.1)
    let peaked := fun (f : Fld) (m : Nat) (t : State) => rd t f 0 = if rd s f 0 < m then m % 2 ^ 16 else rd s f 0
    let at15 := s.power.fullSince.any (fun t => decide (t + 1000000 ≤ s.clock.up)) = true
    let idle := s.power.loopNs.all (fun t => decide (t + 50000000 ≤ s.clock.up)) = true
    let probed := fun (x : CableProbe) (t : State) => rd t Reg.cableState j = (if rd s Reg.cableCeilingCw j = 0 then 0 else match x with | .short => 5 | .open_ => 1 | .load _ => 2) ∧
      OnlyParts [.regs, .ten, .out] s t
    let lo := rd s Reg.thermBandLo 0
    let hi := rd s Reg.thermBandHi 0
    let ended := fun (t : State) => t.power = { s.power with band := none } ∧ rd t Reg.thermBandState 0 = 0 ∧ OnlyRegs [(Reg.thermBandState, 0)] s t ∧ OnlyParts [.regs, .power] s t
    (conv ∨ s.power.holdRun = true → Gives .conversionStart s (fun t => t = s)) ∧
    (¬ conv → s.power.holdRun = false → s.boot.resetLow = true → Gives .conversionStart s (fun t => t = { s with boot := { s.boot with converting := true } })) ∧
    (¬ conv → s.power.holdRun = false → s.boot.resetLow = false → Gives .conversionStart s (fun t => t.boot.converting = true ∧ t.mem.salt = Config.entropy s.free % 2 ^ 26 ∧
      rd t Reg.jeanoNodeIncarnation 0 = Config.entropy (s.free + 2) % 2 ^ 16 ∧ t.free = s.free + 3 ∧ ([1, 2, 4].all (fun k => rd t Reg.readyFnState k == 1)) = true ∧ t.clock = z.clock ∧
      t.boot.nvm = s.boot.nvm ∧ t.host = s.host ∧ t.work = z.work ∧ t.fab = z.fab ∧ t.cores = [] ∧ t.mem.dram = z.mem.dram)) ∧
    (conv → Gives (.inputLoss high) s (fun t => quiet t ∧ told 2 t ∧ t.boot.converting = false ∧ t.power = { s.power with holdRun := true } ∧ rd t Reg.powerStatState 0 = 2 ∧
      rd t Reg.powerInInMv 0 = 0 ∧ rd t Reg.healthCauseFault 0 = 1 ∧ (s.boot.recPending = true → rd t Reg.powerStatLastStop 0 = lossCause) ∧ t.free = s.free + 1)) ∧
    (¬ conv → Gives (.inputLoss high) s (fun t => t = s) ∧ Gives (.powerMeasure mv w cables) s (fun t => t = s)) ∧
    (s.power.holdRun = true → s.boot.resetLow = false → Gives .holdupDischarge s (fun t => t.power = { s.power with holdRun := false } ∧ rd t Reg.powerHoldStoredDj 0 < 20 ∧
      rd t Reg.powerStatHoldReady 0 = 0 ∧ t.free = s.free + 1 ∧ OnlyRegs [(Reg.powerHoldStoredDj, 0), (Reg.powerStatHoldReady, 0)] s t ∧ OnlyParts [.regs, .power, .free] s t)) ∧
    (s.power.holdRun = true → s.boot.resetLow = true → Gives .holdupDischarge s (fun t => rd t Reg.powerHoldStoredDj 0 < 20 ∧ t.power = z.power ∧ t.work = z.work ∧ t.fab = z.fab ∧
      t.cores = [] ∧ t.mem.dram = z.mem.dram ∧ t.boot.nvm = s.boot.nvm ∧ t.boot.resetLow = true ∧ t.host = s.host ∧ t.free = s.free + 1)) ∧
    (s.power.holdRun = false → Gives .holdupDischarge s (fun t => t = s)) ∧
    (fnReady s 3 = false ∨ ¬ runs → Gives (.holdReady uf) s (fun t => t = s)) ∧
    (fnReady s 3 = true → runs → c < 100 → Gives (.holdReady uf) s (fun t => rd t Reg.powerHoldCapUf 0 = c ∧ rd t Reg.powerStatHoldReady 0 = 0 ∧ rd t Reg.powerHoldRecordOk 0 = 0 ∧
      only [(Reg.powerHoldCapUf, 0), (Reg.powerStatHoldReady, 0), (Reg.powerHoldRecordOk, 0)] t)) ∧
    (fnReady s 3 = true → runs → 100 ≤ c → e < 2 ^ 16 → Gives (.holdReady uf) s (fun t => rd t Reg.powerHoldCapUf 0 = c ∧ rd t Reg.powerStatHoldReady 0 = 1 ∧
      rd t Reg.powerHoldStoredDj 0 = min e (18 * c / 1000) ∧ (let x := rd t Reg.powerHoldVTargetMv 0
        x ≤ 60000 ∧ x * x * c ≤ 2 * 10 ^ 11 * e ∧ (x < 60000 → 2 * 10 ^ 11 * e < (x + 1) * (x + 1) * c)) ∧
      rd t Reg.powerHoldRecordOk 0 = (if 0 ∈ s.boot.surveyDone ∧ recUs ≤ 750000 ∧
        (6 * recUs + 10 ^ 6) * (2 * 10 ^ 6) + 4 * 10 ^ 8 * c ≤ min (2 * 10 ^ 11 * e) (36 * 10 ^ 8 * c) then 1 else 0) ∧ only store t)) ∧
    (conv → Gives (.powerMeasure mv w cables) s (fun t => t.power.samples = samples ∧ rd t Reg.powerInInMv 0 = v ∧ rd t Reg.powerStatInOk 0 = (if 40000 ≤ v ∧ v ≤ 60000 then 1 else 0) ∧
      rd t Reg.powerStatInLow 0 = (if 38000 ≤ v ∧ v < 40000 then 1 else 0) ∧ rd t Reg.powerStatInHigh 0 = (if 60000 < v ∧ v ≤ 62000 then 1 else 0) ∧
      rd t Reg.powerInP10msW 0 = mean 1000 ws % 2 ^ 16 ∧ rd t Reg.powerAvgP1sW 0 = mean 100000 ws % 2 ^ 16 ∧ peaked Reg.powerAvgPeak20W (mean 2000 ws) t ∧
      peaked Reg.powerActBasePeakW (mean 2000 (samples.map (fun x => x.1 - x.2))) t ∧
      (cables[j]? = some (cmw, lim) → (rd s Reg.cableState j = 2 ∨ rd s Reg.cableState j = 3) → rd t Reg.cablePowerMw j = cmw.toNat ∧ rd t Reg.cableState j = (if lim then 3 else 2) ∧
        mapFind t.power.limitE j = (if lim then some (energyMw + cmw.toNat) else none)) ∧
      (rd s Reg.cableState j ≠ 2 → rd s Reg.cableState j ≠ 3 → rd t Reg.cableState j = rd s Reg.cableState j ∧ rd t Reg.cablePowerMw j = rd s Reg.cablePowerMw j) ∧
      OnlyParts [.regs, .power] s t)) ∧
    (runs → Gives (.paceUpdate pace) s (fun t => (let q := max pace.toNat s.power.paceLoop
      rd t Reg.powerActPace 0 = q % 16 ∧ t.power = { s.power with paceLim := pace.toNat, fullSince := if q = 15 then some (s.power.fullSince.getD s.clock.up) else none }) ∧
      OnlyRegs [(Reg.powerActPace, 0)] s t ∧ OnlyParts [.regs, .power] s t)) ∧
    (¬ runs → Gives (.paceUpdate pace) s (fun t => t = s) ∧ Gives (.trip cause) s (fun t => t = s)) ∧
    (runs → at15 → Gives .ladderRequest s (fun t => t.power = { s.power with ask := true } ∧ rd t Reg.powerStatOver 0 = 1 ∧ OnlyRegs [(Reg.powerStatOver, 0)] s t ∧
      OnlyParts [.regs, .power] s t)) ∧
    (¬ (runs ∧ at15) → Gives .ladderRequest s (fun t => t = s)) ∧
    (runs → (cause = .overpower → 1500 < mean 2000 (s.power.samples.map (·.1))) → Gives (.trip cause) s (fun t => quiet t ∧ told 3 t ∧ full t ∧ rd t Reg.powerStatState 0 = 3 ∧
      rd t Reg.powerStatLastStop 0 = tripCause ∧ rd t Reg.healthCausePower 0 = 1 ∧ t.boot = { s.boot with recPending := true, recAtOnce := true } ∧ t.power = s.power)) ∧
    (mean 2000 (s.power.samples.map (·.1)) ≤ 1500 → Gives (.trip .overpower) s (fun t => t = s)) ∧
    (idle → Gives .pwmWatchdog s (fun t => full t ∧ only [(Reg.pwmDuty, 0), (Reg.pwmDuty, 1), (Reg.pwmDuty, 2), (Reg.pwmDuty, 3)] t)) ∧
    (¬ idle → Gives .pwmWatchdog s (fun t => t = s)) ∧
    (tripped → Gives (.cableFaultTrip port) s (fun t => rd t Reg.cableState j = (if 3 ≤ recent.length then 5 else 4) ∧ rd t Reg.cablePowerMw j = 0 ∧
      rd t Reg.cableTrips j = min (2 ^ 16 - 1) (rd s Reg.cableTrips j + 1) ∧ mapFind t.power.trips j = some (recent.take 3) ∧ mapFind t.power.limitE j = none ∧
      (3 ≤ recent.length → rd t Reg.healthCausePower 0 = 1) ∧ (recent.length < 3 → OnlyRegs [(Reg.cableState, j), (Reg.cablePowerMw, j), (Reg.cableTrips, j)] s t) ∧
      OnlyParts [.regs, .power, .ten, .out] s t)) ∧
    (¬ tripped → Gives (.cableFaultTrip port) s (fun t => t = s)) ∧
    ((rd s Reg.cableState j = 4 ∧ (mapGet s.power.trips j []).head?.any (fun t => decide (t + 1000000000 ≤ s.clock.up)) = true) →
      Gives (.cableRetry port) s (fun t => rd t Reg.cableState j = 2 ∧ only [(Reg.cableState, j)] t)) ∧
    (rd s Reg.cableState j ≠ 4 → Gives (.cableRetry port) s (fun t => t = s)) ∧
    (rd s Reg.cableState j = 1 → Gives (.cableProbe port .short) s (probed .short) ∧ Gives (.cableProbe port .open_) s (probed .open_) ∧ Gives (.cableProbe port (.load cls)) s (probed (.load cls))) ∧
    (rd s Reg.cableState j ≠ 1 → Gives (.cableProbe port (.load cls)) s (fun t => t = s)) ∧
    (rd s Reg.cableState j = 5 → Gives (.cableClear port .short) s (probed .short) ∧ Gives (.cableClear port .open_) s (probed .open_) ∧ Gives (.cableClear port (.load cls)) s (probed (.load cls))) ∧
    (rd s Reg.cableState j ≠ 5 → Gives (.cableClear port (.load cls)) s (fun t => t = s)) ∧
    (40 ≤ lo → lo < hi → hi ≤ rd s Reg.thermCfgTCap 0 → Gives .bandHold s (fun t => rd t Reg.thermBandState 0 = 1 ∧
      t.power = { s.power with band := some ⟨lo, hi, none, s.clock.up + rd s Reg.thermBandMinutes 0 * 60000000000⟩ } ∧ OnlyRegs [(Reg.thermBandState, 0)] s t ∧ OnlyParts [.regs, .power] s t)) ∧
    (¬ (40 ≤ lo ∧ lo < hi ∧ hi ≤ rd s Reg.thermCfgTCap 0) → Gives .bandHold s (fun t => t = s)) ∧
    (s.power.band = some b → Gives .bandStop s ended ∧ (b.untilNs ≤ s.clock.up → Gives .bandEnd s ended) ∧ (s.clock.up < b.untilNs → Gives .bandEnd s (fun t => t = s))) ∧
    (s.power.band = none → Gives .bandStop s (fun t => t = s) ∧ Gives .bandEnd s (fun t => t = s)) ∧
    (fnReady s 3 = true → p < 8 → p < rd s Reg.caps1FronthaulPorts 0 → i < (match rd s Reg.fhPortMode p with | 0 => 1 | 1 => 2 | _ => 4) → rd s Reg.fhPortLinkUp p < 16 →
      Gives (.ethernetLinkState (.fronthaul p i) up) s (fun t => bitOf (rd t Reg.fhPortLinkUp p) i = up ∧ (∀ k ∈ List.range 4, k ≠ i → bitOf (rd t Reg.fhPortLinkUp p) k = bitOf (rd s Reg.fhPortLinkUp p) k) ∧
        only [(Reg.fhPortLinkUp, p)] t)) ∧
    (p < 2 → 1 ≤ rd s Reg.readyFnState (5 + p) → Gives (.ethernetLinkState (.mgmt p) up) s (fun t => rd t (if p = 0 then Reg.healthMgmtStatLink0 else Reg.healthMgmtStatLink1) 0 = (if up then 1 else 0) ∧
      only [(if p = 0 then Reg.healthMgmtStatLink0 else Reg.healthMgmtStatLink1, 0)] t)) ∧
    (((p = 14 ∧ rd s Reg.jeanoCfgEth14 0 = 1) ∨ (p = 15 ∧ rd s Reg.jeanoCfgEth15 0 = 1)) → Gives (.ethernetLinkState (.outer p) up) s (fun t => rd t Reg.jeanoPortState p = (if up then 2 else 0))) ∧
    (¬ ((p = 14 ∧ rd s Reg.jeanoCfgEth14 0 ≠ 0) ∨ (p = 15 ∧ rd s Reg.jeanoCfgEth15 0 ≠ 0)) → Gives (.ethernetLinkState (.outer p) up) s (fun t => t = s))

/-- Every hb_ms a heartbeat leaves each management port with a link, with the next sequence number. A datagram on a port without link is nothing; one of another magic, version or domain, or with
reserved bits, is dropped and counted; a member's is heard, with its incarnation: a HEARTBEAT or RESTARTED makes it live on the port, a LOSS or TRIP dead on both; a silence of dead_ms makes it dead on the port; each change raises
the cause. Each decay takes an eighth of every score, rounded up, and lifts suspicion at suspect_off. Evidence about a member is stored once, shown and flooded; expired evidence and expulsions are dropped. EXPEL, DEAD, WATCH and REMOVE
of a member are refused with PERMISSION without the suspicion, evidence or silence they need; an expulsion beyond the budget gives QUOTA and watches instead; an allowed one sets the member's entry and the next version, is counted and
flooded. A change that arrives is applied in version order; of two with one version the lower origin's stands, and a later one is kept. -/
def Obligations.MembersAndHealthList : Prop :=
  ∀ (s : State) (port : Bool) (d : Datagram) (node : BitVec 10) (e : Evidence) (c l : HChange) (i : Nat),
    let up := s.clock.up
    let ns := s.clock.ns
    let inDomain := fun (n : Nat) => sameDomain s n = true
    let member := fun (n : Nat) => inDomain n ∧ rd s Reg.healthMemberPresent (n % 64) ≠ 0
    let link := fun (p : Nat) => rd s (if p = 0 then Reg.healthMgmtStatLink0 else Reg.healthMgmtStatLink1) 0
    let bit_ := fun (p : Bool) => if p then Reg.healthMemberMgmt1 else Reg.healthMemberMgmt0
    let pn := if port then 1 else 0
    let raised := fun (t : State) => rd t Reg.healthCauseLiveness 0 = 1
    let sent := fun (p : Nat) => if link p = 0 then [] else [Out.datagram p (datagramBytes s 1 p 0)]
    let beat := mapGet s.health.ticked 0 0 + rd s Reg.healthMgmtHbMs 0 * 1000000 ≤ up
    let decay := mapGet s.health.ticked 1 0 + rd s Reg.healthScoreCfgDecayS 0 * 1000000000 ≤ up
    let good := d.magic = 0x314E5250 ∧ d.ver = 1 ∧ d.reserved = 0 ∧ inDomain d.node
    let dn := d.node % 64
    let all := fun (P : State → Prop) => Gives (.heartbeat port d) s P ∧ Gives (.restarted port d) s P ∧ Gives (.lossDatagram port d) s P ∧ Gives (.tripDatagram port d) s P
    let heard := fun (t : State) => rd t Reg.healthMemberHeardNs dn = ns % 2 ^ 64 ∧ rd t Reg.healthMemberIncarnation dn = d.incarnation % 2 ^ 16 ∧ mapFind t.health.heard (2 * dn + pn) = some up
    let lives := fun (t : State) => heard t ∧ rd t (bit_ port) dn = 1 ∧ (rd s (bit_ port) dn = 0 → raised t)
    let dies := fun (t : State) => heard t ∧ rd t Reg.healthMemberMgmt0 dn = 0 ∧ rd t Reg.healthMemberMgmt1 dn = 0 ∧
      ((rd s Reg.healthMemberMgmt0 dn ≠ 0 ∨ rd s Reg.healthMemberMgmt1 dn ≠ 0) → raised t)
    let n := node.toNat
    let m := n % 64
    let silent := member n ∧ mapGet s.health.heard (2 * m + pn) 0 + rd s Reg.healthMgmtDeadMs 0 * 1000000 ≤ up
    let v := rd s Reg.healthMemberScore i
    let w := v - (v + 7) / 8
    let window := rd s Reg.healthListCfgWindowH 0 * 3600000000000
    let keep := s.health.evidence.filter (fun e => decide (ns < e.time + window))
    let expels := s.health.expels.filter (fun t => decide (ns < t + window))
    let shown := fun (es : List Evidence) (k : Nat) (t : State) => (let es := es.filter (fun e => e.node % 64 == k)
      rd t Reg.healthMemberEvidence k = (if es.any (fun e => !e.proving) = true then 1 else 0) + (if es.any (fun e => e.proving) = true then 2 else 0) ∧
      rd t Reg.healthMemberEvidenceNs k = (es.map (·.time)).foldl max 0 % 2 ^ 64)
    let fresh := fun (e : Evidence) => member e.node ∧ e ∉ s.health.evidence
    let stored := fun (e : Evidence) (t : State) => t.health = { s.health with evidence := s.health.evidence ++ [e] } ∧ shown (s.health.evidence ++ [e]) (e.node % 64) t ∧
      rd t Reg.healthCauseEvidence 0 = 1 ∧ t.boot = { s.boot with recPending := true } ∧ OnlyParts [.regs, .health, .boot, .ten, .out] s t
    let own : Evidence := ⟨n, false, 0, ns⟩
    let counts := fun (t : State) => rd t Reg.healthListSpoiled 0 = ((List.range 64).filter (fun k => decide (2 ≤ rd t Reg.healthMemberList k))).length % 2 ^ Reg.healthListSpoiled.width ∧
      rd t Reg.healthListWatched 0 = ((List.range 64).filter (fun k => decide (rd t Reg.healthMemberList k = 1))).length % 2 ^ Reg.healthListWatched.width
    let next := (rd s Reg.healthListVersion 0 + 1) % 2 ^ 32
    let entry := fun (op : HOp) => match op with | .expel => 2 | .dead => 3 | .watch => 1 | .remove => 0
    let changed := fun (op : HOp) (n : Nat) (t : State) => rd t Reg.healthMemberList (n % 64) = entry op ∧ rd t Reg.healthCauseList 0 = 1 ∧ t.boot.recPending = true ∧ counts t
    let others := fun (n : Nat) (t : State) => i < 64 → i ≠ n % 64 → rd t Reg.healthMemberList i = rd s Reg.healthMemberList i
    let reach := reachable s 0xF00040 = true
    let cmd := fun (code : Nat) (st : Status) (t : State) => rd t Reg.healthListCmdNode 0 = n ∧ rd t Reg.healthListCmdOp 0 = code ∧ rd t Reg.healthListCmdStatus 0 = st.code
    let refused := fun (code : Nat) (st : Status) (t : State) => cmd code st t ∧
      OnlyRegs [(Reg.healthListCmdNode, 0), (Reg.healthListCmdOp, 0), (Reg.healthListCmdStatus, 0)] s t ∧ OnlyParts [.regs] s t
    let issued := fun (code : Nat) (st : Status) (op : HOp) (t : State) => cmd code st t ∧ changed op n t ∧ others n t ∧ rd t Reg.healthListVersion 0 = next ∧
      t.out.head? = some (.listChange ⟨next, ownNode s, op, n⟩) ∧ t.health.expels = (if op = .expel then s.health.expels ++ [ns] else s.health.expels)
    let suspect := rd s Reg.healthMemberSuspect m ≠ 0
    let alive := rd s Reg.healthMemberMgmt0 m ≠ 0 ∨ rd s Reg.healthMemberMgmt1 m ≠ 0 ∨
      (List.range 64).any (fun a => a != m && (a / 8 == m / 8 || a % 8 == m % 8) && linkUsable s (n / 64 * 64 + a) n) = true
    let proof := s.health.evidence.any (fun e => e.node == n && decide (ns < e.time + window)) = true
    let budget := expels.length < rd s Reg.healthListCfgBudget 0
    let cv := rd s Reg.healthListVersion 0
    (beat → Gives .heartbeatPeriod s (fun t => t.out = sent 1 ++ sent 0 ++ s.out ∧ mapFind t.health.ticked 0 = some up ∧
      (i < 2 → link i ≠ 0 → mapGet t.health.mgmtSeq i 0 = (mapGet s.health.mgmtSeq i 0 + 1) % 2 ^ 32) ∧ OnlyParts [.health, .out] s t)) ∧
    (¬ beat → Gives .heartbeatPeriod s (fun t => t = s)) ∧
    (link pn = 0 → all (fun t => t = s)) ∧
    (link pn ≠ 0 → ¬ good → all (fun t => rd t Reg.healthMgmtStatRxDropped 0 = (rd s Reg.healthMgmtStatRxDropped 0 + 1) % 2 ^ Reg.healthMgmtStatRxDropped.width ∧
      OnlyRegs [(Reg.healthMgmtStatRxDropped, 0)] s t ∧ OnlyParts [.regs] s t)) ∧
    (link pn ≠ 0 → good → ¬ member d.node → all (fun t => t = s)) ∧
    (link pn ≠ 0 → good → member d.node → Gives (.heartbeat port d) s lives ∧ Gives (.restarted port d) s lives ∧ Gives (.lossDatagram port d) s dies ∧ Gives (.tripDatagram port d) s dies) ∧
    (silent → Gives (.livenessTimeout port node) s (fun t => rd t (bit_ port) m = 0 ∧ (rd s (bit_ port) m ≠ 0 → raised t) ∧ OnlyParts [.regs, .ten, .out] s t)) ∧
    (¬ silent → Gives (.livenessTimeout port node) s (fun t => t = s)) ∧
    (decay → i < 64 → v < 2 ^ 16 → Gives .scoreDecay s (fun t => rd t Reg.healthMemberScore i = w ∧
      rd t Reg.healthMemberSuspect i = (if w ≤ rd s Reg.healthScoreCfgSuspectOff 0 then 0 else rd s Reg.healthMemberSuspect i) ∧ mapFind t.health.ticked 1 = some up ∧
      OnlyParts [.regs, .health] s t)) ∧
    (¬ decay → Gives .scoreDecay s (fun t => t = s)) ∧
    (reachable s 0xF00048 = false → Gives (.evidence node) s (fun t => t = logErr s 0 .notReady 0 0 0xF00048)) ∧
    (reachable s 0xF00048 = true → ¬ member n → Gives (.evidence node) s (fun t => rd t Reg.healthEvidenceNode 0 = n ∧ rd t Reg.healthEvidenceStatus 0 = Status.badFormat.code ∧
      OnlyRegs [(Reg.healthEvidenceNode, 0), (Reg.healthEvidenceStatus, 0)] s t ∧ OnlyParts [.regs] s t)) ∧
    (reachable s 0xF00048 = true → fresh own → Gives (.evidence node) s (fun t => stored own t ∧ t.out.head? = some (.evidence own) ∧ rd t Reg.healthEvidenceNode 0 = n ∧
      rd t Reg.healthEvidenceStatus 0 = Status.ok.code)) ∧
    (fresh e → Gives (.evidenceRecord e) s (stored e)) ∧
    (¬ fresh e → Gives (.evidenceRecord e) s (fun t => t = s)) ∧
    Gives .evidenceExpiry s (fun t => t.health = { s.health with evidence := keep, expels := expels } ∧ (i < 64 → shown keep i t) ∧ counts t ∧
      rd t Reg.healthListExpels 0 = min 15 expels.length ∧ OnlyParts [.regs, .health] s t) ∧
    (¬ reach → (let denied := fun (t : State) => t = logErr s 0 .notReady 0 0 0xF00040
      Gives (.expel node) s denied ∧ Gives (.dead node) s denied ∧ Gives (.watch node) s denied ∧ Gives (.remove node) s denied)) ∧
    (reach → ¬ member n → Gives (.expel node) s (refused 1 .badFormat) ∧ Gives (.dead node) s (refused 2 .badFormat) ∧ Gives (.watch node) s (refused 3 .badFormat) ∧
      Gives (.remove node) s (refused 4 .badFormat)) ∧
    (reach → member n → Gives (.remove node) s (issued 4 .ok .remove)) ∧
    (reach → member n → ¬ suspect → Gives (.watch node) s (refused 3 .permission)) ∧
    (reach → member n → suspect → Gives (.watch node) s (issued 3 .ok .watch)) ∧
    (reach → member n → alive → Gives (.dead node) s (refused 2 .permission)) ∧
    (reach → member n → ¬ alive → Gives (.dead node) s (issued 2 .ok .dead)) ∧
    (reach → member n → ¬ (suspect ∧ proof) → Gives (.expel node) s (refused 1 .permission)) ∧
    (reach → member n → suspect → proof → ¬ budget → Gives (.expel node) s (issued 1 .quota .watch)) ∧
    (reach → member n → suspect → proof → budget → Gives (.expel node) s (issued 1 .ok .expel)) ∧
    (¬ member c.node → Gives (.listChange c) s (fun t => t = s)) ∧
    (member c.node → c.version = next → s.health.early = [] → Gives (.listChange c) s (fun t => changed c.op c.node t ∧ others c.node t ∧ rd t Reg.healthListVersion 0 = next ∧
      t.health.last = some c ∧ t.health.expels = (if c.op = .expel then s.health.expels ++ [ns] else s.health.expels))) ∧
    (member c.node → c.version ≠ next → c.version = cv → s.health.last = some l → l.version = cv → c.origin < l.origin → l.origin ≠ ownNode s → Gives (.listChange c) s (fun t =>
      changed c.op c.node t ∧ rd t Reg.healthListVersion 0 = cv ∧ t.health.last = some c ∧
      (i < 64 → i ≠ c.node % 64 → rd t Reg.healthMemberList i = ((s.health.prevList.find? (fun x => x.1 == i)).elim 0 (·.2)) % 4))) ∧
    (member c.node → c.version ≠ next → c.version = cv → (s.health.last = none ∨ (s.health.last = some l ∧ (l.version ≠ cv ∨ l.origin ≤ c.origin))) →
      Gives (.listChange c) s (fun t => t = s)) ∧
    (member c.node → c.version ≠ next → cv < c.version → c ∉ s.health.early → Gives (.listChange c) s (fun t =>
      t = { s with health := { s.health with early := s.health.early ++ [c] } })) ∧
    (member c.node → c.version ≠ next → c.version < cv → Gives (.listChange c) s (fun t => t = s))

/-- An issued command that a shadow check selects and no bench has checked compares its assay with that of a free bench: the same counts a check and lets it commit; with a third run, a
difference counts a mismatch, kills the command, floods evidence, and quarantines the bench that stands alone; three different assays end it INTERNAL with a fault record. With no free bench it commits unchecked and is counted. A free unit
not under proof takes a run of the sweep, or one of its own patterns in an idle window that is long enough. A result whose unit has been taken meanwhile is discarded; a pass proves the unit, and one of the sweep is logged; a
failure floods evidence, keeps the entry and quarantines the bench or engine. The sweep lists every pattern and load of its masks for every idle bench and engine, and the other benches as skipped; it ends
when none is left. A period in which a unit was not proved counts as missed. A release waits for the next start. In any other state each row does nothing. -/
def Obligations.ShadowAndProving : Prop :=
  ∀ (s : State) (cid : Nat) (b b3 : BitVec 5) (x x3 : BitVec 64) (c : Cmd) (u : BitVec 6) (engine pass inBand : Bool) (pattern : BitVec 3) (load : BitVec 2) (r : ProveRun) (i k : Nat)
    (mask : BitVec 32),
    let up := s.clock.up
    let here := getCmd s cid = some c ∧ c.bench < 32
    let checks := here ∧ c.st = .issued ∧ c.member = false ∧ shadowSelected s c = true ∧ c.checked = false
    let mine := fun (b : BitVec 5) => shadowBench s c b.toNat = true
    let third := some (b3, x3)
    let more := fun (f : Fld) (t : State) => rd t f 0 = (rd s f 0 + 1) % 2 ^ 32
    let apart := checks ∧ mine b ∧ mine b3 ∧ b3 ≠ b ∧ x.toNat ≠ c.assay
    let off := fun (n : Nat) (t : State) => rd t Reg.benchStateRole n = 3 ∧ bitOf (rd t Reg.healthQuarBenches 0) n = true ∧ t.boot.recPending = true
    let flooded := fun (proving : Bool) (n : Nat) (t : State) => t.out.head? = some (.evidence ⟨ownNode s, proving, n, s.clock.ns⟩)
    let mismatch := fun (t : State) => more Reg.healthShadowChecks t ∧ more Reg.healthShadowMismatches t ∧ rd t Reg.healthCauseShadow 0 = 1
    let killed := fun (t : State) => (getCmd t cid).any (fun c' => c'.st == .requeued && c'.kills == min 255 (c.kills + 1)) = true ∧
      rd t Reg.benchKillsCount c.bench = (rd s Reg.benchKillsCount c.bench + 1) % 2 ^ Reg.benchKillsCount.width
    let n := u.toNat
    let p := pattern.toNat
    let h := s.health
    let swept : ProveRun := ⟨n, engine, p, load.toNat, true⟩
    let able := proveUnit s engine n = true ∧ h.runs.any (fun r => r.unit == n && r.engine == engine) = false
    let window := rd s Reg.healthProveState 0 ≠ 1 ∧ rd s Reg.healthProveIdleEnable 0 ≠ 0 ∧ (if engine then p = 6 else p < 6) ∧ load.toNat ≤ 1 ∧ proveRoom s engine n p = true
    let found := h.runs.find? (fun r => r.unit == n && r.engine == engine) = some r
    let left := h.runs.filter (· != r)
    let ends := fun (due runs : List ProveRun) (t : State) => rd t Reg.healthProveState 0 =
      (if rd s Reg.healthProveState 0 = 1 ∧ due = [] ∧ runs.any (·.sweep) = false then 2 else rd s Reg.healthProveState 0)
    let id := n + (if engine then 64 else 0)
    let tail := rd s Reg.healthProveIdxTail 0
    let room := (tail + 64 - rd s Reg.healthProveIdxHead 0) % 64 ≠ 63 ∧ tail < 64
    let logged := fun (pass : Bool) (t : State) => rd t Reg.healthProveLogEntry tail = proveEntry s r pass inBand % 2 ^ 128 ∧ rd t Reg.healthProveIdxTail 0 = (tail + 1) % 64
    let free := proveUnit s engine n = true
    let beat := mapGet h.ticked 2 0 + rd s Reg.healthProveIdlePeriodS 0 * 1000000000 ≤ up
    let units := ((List.range (benchCount s)).filter (fun b => rd s Reg.benchStateRole b != 3 && fnReady s (32 + b))) ++ ((List.range 64).filter (proveEngine s)).map (64 + ·)
    let allProved := units.all (fun v => h.proved.contains v) = true
    let listed := fun (e : Bool) (v q : Nat) => if e then proveEngine s v = true ∧ v < 64 ∧ q = 6 else proveBench s v = true ∧ v < benchCount s ∧ q < 6
    let inMasks := fun (q l : Nat) => bitOf (rd s Reg.healthProvePatterns 0) q = true ∧ q < 7 ∧ bitOf (rd s Reg.healthProveLoads 0) l = true ∧ l < 4
    benchCount s ≤ 32 →
    (here → ¬ checks → Gives (.shadowCompare cid b x none) s (fun t => t = s) ∧ Gives (.shadowTimeout cid) s (fun t => t = s)) ∧
    (getCmd s cid = none → Gives (.shadowCompare cid b x none) s (fun t => t = s) ∧ Gives (.shadowTimeout cid) s (fun t => t = s)) ∧
    (checks → mine b → x.toNat = c.assay → Gives (.shadowCompare cid b x none) s (fun t => more Reg.healthShadowChecks t ∧ getCmd t cid = some { c with checked := true } ∧
      OnlyRegs [(Reg.healthShadowChecks, 0)] s t ∧ OnlyParts [.regs, .work] s t)) ∧
    (checks → mine b → x.toNat ≠ c.assay → Gives (.shadowCompare cid b x none) s (fun t => t = s)) ∧
    (apart → x3.toNat = c.assay → Gives (.shadowCompare cid b x third) s (fun t => mismatch t ∧ killed t ∧ off b.toNat t ∧ flooded false b.toNat t)) ∧
    (apart → x3 = x → Gives (.shadowCompare cid b x third) s (fun t => mismatch t ∧ killed t ∧ off c.bench t ∧ flooded false c.bench t)) ∧
    (apart → x3.toNat ≠ c.assay → x3 ≠ x → Gives (.shadowCompare cid b x third) s (fun t => mismatch t ∧ flooded false c.bench t ∧ rd t Reg.healthCauseFault 0 = 1 ∧
      t.free = s.free + 1 ∧ ((getCmd t cid).any (fun c' => c'.st == .done && c'.status == .internal && c'.kills == c.kills) = true))) ∧
    (checks → (List.range (benchCount s)).any (shadowBench s c) = false → Gives (.shadowTimeout cid) s (fun t => more Reg.healthShadowSkipped t ∧ getCmd t cid = some { c with checked := true } ∧
      OnlyRegs [(Reg.healthShadowSkipped, 0)] s t ∧ OnlyParts [.regs, .work] s t)) ∧
    (checks → (List.range (benchCount s)).any (shadowBench s c) = true → Gives (.shadowTimeout cid) s (fun t => t = s)) ∧
    (able → swept ∈ h.due → Gives (.provingRun u engine pattern load) s (fun t => t = { s with health := { h with due := h.due.filter (· != swept), runs := h.runs ++ [swept] } })) ∧
    (able → swept ∉ h.due → window → Gives (.provingRun u engine pattern load) s (fun t => t = { s with health := { h with runs := h.runs ++ [⟨n, engine, p, load.toNat, false⟩] } })) ∧
    (¬ (able ∧ (swept ∈ h.due ∨ window)) → Gives (.provingRun u engine pattern load) s (fun t => t = s)) ∧
    (h.runs.find? (fun r => r.unit == n && r.engine == engine) = none → Gives (.provingResult u engine pass inBand) s (fun t => t = s)) ∧
    (found → ¬ free → Gives (.provingResult u engine pass inBand) s (fun t => t.health = { h with runs := left } ∧ ends h.due left t ∧
      (n < 32 → r.sweep = true → engine = false → bitOf (rd t Reg.healthProveSkipped 0) n = true) ∧ OnlyRegs [(Reg.healthProveSkipped, 0), (Reg.healthProveState, 0)] s t ∧
      OnlyParts [.regs, .health] s t)) ∧
    (found → free → Gives (.provingResult u engine true inBand) s (fun t => t.health.runs = left ∧ id ∈ t.health.proved ∧ t.health.due = h.due ∧ t.health.fails = h.fails ∧ ends h.due left t ∧
      (r.sweep = true → room → logged true t) ∧ (r.sweep = false → OnlyRegs [(Reg.healthProveState, 0)] s t) ∧ OnlyParts [.regs, .health] s t)) ∧
    (found → free → (engine = false → n < 32) → Gives (.provingResult u engine false inBand) s (fun t => (let due := h.due.filter (fun d => !(d.unit == r.unit && d.engine == r.engine))
      t.health.runs = left ∧ id ∈ t.health.proved ∧ t.health.due = due ∧ t.health.fails = (proveEntry s r false inBand :: h.fails).take 256 ∧ ends due left t) ∧
      (room → logged false t) ∧ (if engine then rd t Reg.sieveEngQuarantined n = 1 ∧ t.boot.recPending = true else off n t) ∧ rd t Reg.healthCauseProving 0 = 1)) ∧
    (beat → Gives .provingPeriod s (fun t => t.health = { h with proved := [], ticked := mapSet h.ticked 2 up } ∧
      rd t Reg.healthProveMissed 0 = (if rd s Reg.healthProveIdleEnable 0 ≠ 0 ∧ ¬ allProved then (rd s Reg.healthProveMissed 0 + 1) % 2 ^ 32 else rd s Reg.healthProveMissed 0) ∧
      OnlyRegs [(Reg.healthProveMissed, 0)] s t ∧ OnlyParts [.regs, .health] s t)) ∧
    (¬ beat → Gives .provingPeriod s (fun t => t = s)) ∧
    (reachable s 0xF00064 = false → Gives .sweep s (fun t => t = logErr s 0 .notReady 0 0 0xF00064)) ∧
    (reachable s 0xF00064 = true → rd s Reg.healthProveState 0 = 1 → Gives .sweep s (fun t => t = s)) ∧
    (reachable s 0xF00064 = true → rd s Reg.healthProveState 0 ≠ 1 → Gives .sweep s (fun t =>
      (⟨i, engine, p, load.toNat, true⟩ ∈ t.health.due ↔ listed engine i p ∧ inMasks p load.toNat) ∧
      (k < 32 → (bitOf (rd t Reg.healthProveSkipped 0) k = true ↔ k < benchCount s ∧ proveBench s k = false)) ∧
      rd t Reg.healthProveState 0 = (if t.health.due = [] ∧ h.runs.any (·.sweep) = false then 2 else 1) ∧ t.health = { h with due := t.health.due } ∧
      OnlyRegs [(Reg.healthProveSkipped, 0), (Reg.healthProveState, 0)] s t ∧ OnlyParts [.regs, .health] s t)) ∧
    (reachable s 0xF00074 = false → Gives (.quarantineRelease mask) s (fun t => t = logErr s 0 .notReady 0 0 0xF00074)) ∧
    (reachable s 0xF00074 = true → Gives (.quarantineRelease mask) s (fun t => t = { s with health := { h with release := h.release ||| mask.toNat }, boot := { s.boot with recPending := true } }))

end
end

