-- ==== Sys2Proof/Laws/Maps.lean ====
section
/-! SUPPORT. Laws of the sparse maps: a read after a write, and that every operation keeps the canonical form. -/

namespace Sys2Proof.Machine

variable {α : Type}

@[simp] theorem mapFind_nil (k : Nat) : mapFind ([] : SMap α) k = none := rfl

theorem mapFind_mapSet (m : SMap α) (k j : Nat) (v : α) : mapFind (mapSet m k v) j = if k = j then some v else mapFind m j := by
  induction m with
  | nil => simp [mapSet, mapFind]
  | cons e t ih =>
    obtain ⟨i, w⟩ := e
    simp only [mapSet]
    split
    · rfl
    · split
      · subst_vars; simp only [mapFind]; split <;> simp_all
      · simp only [mapFind, ih]; split <;> split <;> simp_all

@[simp] theorem mapFind_mapSet_same (m : SMap α) (k : Nat) (v : α) : mapFind (mapSet m k v) k = some v := by simp [mapFind_mapSet]

theorem mapFind_filter_true (m : SMap α) (p : Nat → α → Bool) (j : Nat) (h : ∀ v, p j v = true) :
    mapFind (m.filter (fun e => p e.1 e.2)) j = mapFind m j := by
  induction m with
  | nil => rfl
  | cons e t ih =>
    obtain ⟨i, w⟩ := e
    simp only [List.filter_cons]
    split
    · simp only [mapFind, ih]
    · simp only [mapFind, ih]; split
      · subst_vars; simp_all
      · rfl

theorem mapFind_filter_false (m : SMap α) (p : Nat → α → Bool) (j : Nat) (h : ∀ v, p j v = false) :
    mapFind (m.filter (fun e => p e.1 e.2)) j = none := by
  induction m with
  | nil => rfl
  | cons e t ih =>
    obtain ⟨i, w⟩ := e
    simp only [List.filter_cons]
    split
    · simp only [mapFind, ih]; split
      · subst_vars; simp_all
      · rfl
    · exact ih

theorem mapFind_mapErase (m : SMap α) (k j : Nat) : mapFind (mapErase m k) j = if k = j then none else mapFind m j := by
  split
  · subst_vars; exact mapFind_filter_false m (fun i _ => decide (i ≠ j)) j (by simp)
  · exact mapFind_filter_true m (fun i _ => decide (i ≠ k)) j (by intro v; simp; omega)

theorem mapGet_mapSet (m : SMap α) (k j : Nat) (v d : α) : mapGet (mapSet m k v) j d = if k = j then v else mapGet m j d := by
  simp only [mapGet, mapFind_mapSet]; split <;> rfl

/-- A read after a write: the written key reads as written, every other key as before. -/
theorem mapGet_mapPut [DecidableEq α] (m : SMap α) (k j : Nat) (v d : α) :
    mapGet (mapPut m k v d) j d = if k = j then v else mapGet m j d := by
  simp only [mapPut]
  split
  · simp only [mapGet, mapFind_mapErase]; split <;> simp_all
  · exact mapGet_mapSet m k j v d

theorem mapFind_mapPut_ne [DecidableEq α] (m : SMap α) (k j : Nat) (v d : α) (h : k ≠ j) : mapFind (mapPut m k v d) j = mapFind m j := by
  simp only [mapPut]; split
  · simp [mapFind_mapErase, h]
  · simp [mapFind_mapSet, h]

/-! ### Rising keys and the canonical form -/

theorem rising_cons (a : Nat) (l : List Nat) : rising (a :: l) = true ↔ (∀ b ∈ l, a < b) ∧ rising l = true := by
  simp [rising]

theorem rising_filter (m : SMap α) (p : Nat × α → Bool) (h : rising (m.map (·.1)) = true) : rising ((m.filter p).map (·.1)) = true := by
  induction m with
  | nil => rfl
  | cons e t ih =>
    simp only [List.map_cons, rising_cons] at h
    simp only [List.filter_cons]
    split
    · simp only [List.map_cons, rising_cons]
      refine ⟨fun b hb => h.1 b ?_, ih h.2⟩
      simp only [List.mem_map, List.mem_filter] at hb ⊢
      obtain ⟨x, hx, rfl⟩ := hb; exact ⟨x, hx.1, rfl⟩
    · exact ih h.2

theorem mem_mapSet (m : SMap α) (k : Nat) (v : α) (e : Nat × α) (h : e ∈ mapSet m k v) : e = (k, v) ∨ e ∈ m := by
  induction m with
  | nil => simp [mapSet] at h; exact .inl h
  | cons x t ih =>
    obtain ⟨i, w⟩ := x
    simp only [mapSet] at h
    split at h
    · simpa using h
    · split at h
      · rcases List.mem_cons.1 h with h | h
        · exact .inl h
        · exact .inr (List.mem_cons_of_mem _ h)
      · rcases List.mem_cons.1 h with h | h
        · exact .inr (h ▸ List.mem_cons_self ..)
        · exact (ih h).imp id (List.mem_cons_of_mem _)

theorem rising_mapSet (m : SMap α) (k : Nat) (v : α) (h : rising (m.map (·.1)) = true) : rising ((mapSet m k v).map (·.1)) = true := by
  induction m with
  | nil => simp [mapSet, rising]
  | cons x t ih =>
    obtain ⟨i, w⟩ := x
    simp only [List.map_cons, rising_cons] at h
    simp only [mapSet]
    split
    · simp only [List.map_cons, rising_cons, List.mem_cons]
      refine ⟨?_, h⟩
      rintro b (rfl | hb)
      · assumption
      · exact Nat.lt_trans ‹_› (h.1 b hb)
    · split
      · subst_vars; simpa [rising_cons] using h
      · simp only [List.map_cons, rising_cons]
        refine ⟨fun b hb => ?_, ih h.2⟩
        simp only [List.mem_map] at hb
        obtain ⟨e, he, rfl⟩ := hb
        rcases mem_mapSet t k v e he with rfl | he
        · simp only; omega
        · exact h.1 _ (List.mem_map_of_mem he)

theorem rising_mapErase (m : SMap α) (k : Nat) (h : rising (m.map (·.1)) = true) : rising ((mapErase m k).map (·.1)) = true :=
  rising_filter m _ h

variable [DecidableEq α]

theorem rising_mapPut (m : SMap α) (k : Nat) (v d : α) (h : rising (m.map (·.1)) = true) : rising ((mapPut m k v d).map (·.1)) = true := by
  simp only [mapPut]; split
  · exact rising_mapErase m k h
  · exact rising_mapSet m k v h

theorem canonical_filter (d : α) (m : SMap α) (p : Nat × α → Bool) (h : canonical d m = true) : canonical d (m.filter p) = true := by
  simp only [canonical, Bool.and_eq_true, List.all_eq_true] at h ⊢
  exact ⟨rising_filter m p h.1, fun e he => h.2 e (List.mem_filter.1 he).1⟩

theorem canonical_mapPut (d : α) (m : SMap α) (k : Nat) (v : α) (h : canonical d m = true) : canonical d (mapPut m k v d) = true := by
  simp only [mapPut]
  split
  · exact canonical_filter d m _ h
  · simp only [canonical, Bool.and_eq_true, List.all_eq_true] at h ⊢
    refine ⟨rising_mapSet m k v h.1, fun e he => ?_⟩
    rcases mem_mapSet m k v e he with rfl | he
    · simpa using ‹¬ v = d›
    · exact h.2 e he

theorem canonical_nil (d : α) : canonical d ([] : SMap α) = true := rfl

end Sys2Proof.Machine
end

