-- ==== Sys2Proof/Laws/Kept.lean ====
section
/-! SUPPORT. What an operation may change: the relation Kept (only the listed parts differ, and the memories stay canonical), how it
composes, and one law for each update of a part. -/

namespace Sys2Proof.Machine

/-- Only the listed parts differ, and the invariant of the memories goes on holding. -/
def Kept (w : List Part) (s t : State) : Prop := OnlyParts w s t ∧ (Inv s → Inv t)

/-- Every part of the first list is in the second. -/
def subParts (a b : List Part) : Bool := a.all (fun p => b.contains p)

theorem subParts_mem {a b : List Part} (h : subParts a b = true) {p : Part} (hp : p ∈ a) : p ∈ b := by
  simp only [subParts, List.all_eq_true] at h
  simpa using h p hp

theorem Same.refl (s : State) (p : Part) : Same s s p := by cases p <;> rfl

theorem Same.trans {s t u : State} {p : Part} (h : Same s t p) (k : Same t u p) : Same s u p := by
  cases p <;> exact Eq.trans k h

variable {w w' : List Part} {s0 s t : State}

theorem Kept.refl (w : List Part) (s : State) : Kept w s s := ⟨fun p _ => Same.refl s p, id⟩

theorem Kept.trans {u : State} (h : Kept w s t) (k : Kept w t u) : Kept w s u :=
  ⟨fun p hp => Same.trans (h.1 p hp) (k.1 p hp), fun i => k.2 (h.2 i)⟩

/-- An operation that changes few parts, after others that change more. -/
theorem Kept.app (h : Kept w s0 s) (hw : subParts w' w = true) (k : Kept w' s t) : Kept w s0 t :=
  Kept.trans h ⟨fun p hp => k.1 p (fun hq => hp (subParts_mem hw hq)), k.2⟩

theorem Kept.ite {c : Prop} [Decidable c] (h : Kept w s0 s) (k : Kept w s0 t) : Kept w s0 (if c then s else t) := by
  split <;> assumption

theorem Kept.ite_fst {α : Type} {c : Prop} [Decidable c] {a b : State × α} (h : Kept w s0 a.1) (k : Kept w s0 b.1) :
    Kept w s0 (if c then a else b).1 := by
  split <;> assumption

theorem Kept.foldl {α : Type} {g : State → α → State} {l : List α} (h : Kept w s0 s) (k : ∀ t x, Kept w s0 t → Kept w s0 (g t x)) :
    Kept w s0 (l.foldl g s) := by
  induction l generalizing s with
  | nil => exact h
  | cons x l ih => exact ih (k _ _ h)

/-- The state part of a fold that carries a second value along. -/
theorem Kept.foldl_fst {α β : Type} {g : State × β → α → State × β} {l : List α} {p : State × β} (h : Kept w s0 p.1)
    (k : ∀ q x, Kept w s0 q.1 → Kept w s0 (g q x).1) : Kept w s0 (l.foldl g p).1 := by
  induction l generalizing p with
  | nil => exact h
  | cons x l ih => exact ih (k _ _ h)

/-- The state of a pair that an equation names. -/
theorem Kept.fst {α : Type} {f : State × α} {b : α} (h : f = (t, b)) (k : Kept w s0 f.1) : Kept w s0 t := by rw [h] at k; exact k

/-- The same for a pair whose second part is the state. -/
theorem Kept.snd {α : Type} {f : α × State} {b : α} (h : f = (b, t)) (k : Kept w s0 f.2) : Kept w s0 t := by rw [h] at k; exact k

/-- An answer's next state, if it has one. -/
def AnsKept (w : List Part) (s0 : State) (a : Ans) : Prop := ∃ t, a = .next t ∧ Kept w s0 t

theorem AnsKept.next (h : Kept w s0 t) : AnsKept w s0 (.next t) := ⟨t, rfl, h⟩

/-- An optional state, if there is one. -/
def OptKept (w : List Part) (s0 : State) (a : Option State) : Prop := ∀ t, a = some t → Kept w s0 t

theorem OptKept.some (h : Kept w s0 t) : OptKept w s0 (some t) := by
  intro u hu; cases hu; exact h

theorem OptKept.none : OptKept w s0 none := by
  intro u hu; cases hu

/-- What the execution of a command on a bench left, whether it waits, fails or has run. -/
def RanKept (w : List Part) (s0 : State) : Ran → Prop
  | .wait s _ => Kept w s0 s
  | .fail s _ _ => Kept w s0 s
  | .ok s _ => Kept w s0 s

theorem RanKept.wait {c : Cmd} (h : Kept w s0 t) : RanKept w s0 (.wait t c) := h

theorem RanKept.fail {a : Status} {n : Nat} (h : Kept w s0 t) : RanKept w s0 (.fail t a n) := h

theorem RanKept.ok {c : Cmd} (h : Kept w s0 t) : RanKept w s0 (.ok t c) := h

theorem Kept.of_wait {r : Ran} {c : Cmd} (h : r = .wait t c) (k : RanKept w s0 r) : Kept w s0 t := by rw [h] at k; exact k

theorem Kept.of_fail {r : Ran} {a : Status} {n : Nat} (h : r = .fail t a n) (k : RanKept w s0 r) : Kept w s0 t := by rw [h] at k; exact k

theorem Kept.of_ok {r : Ran} {c : Cmd} (h : r = .ok t c) (k : RanKept w s0 r) : Kept w s0 t := by rw [h] at k; exact k

theorem RanKept.app {r : Ran} (h : Kept w s0 s) (hw : subParts w' w = true) (k : RanKept w' s r) : RanKept w s0 r := by
  cases r <;> exact Kept.app h hw k

theorem subParts_trans {a b c : List Part} (h : subParts a b = true) (k : subParts b c = true) : subParts a c = true := by
  simp only [subParts, List.all_eq_true] at h k ⊢
  intro p hp; exact k p (by simpa using h p hp)

theorem contains_of_sub {a b : List Part} {p : Part} (h : a.contains p = true) (k : subParts a b = true) : b.contains p = true := by
  have := subParts_mem k (p := p) (by simpa using h); simpa using this

theorem Kept.of_opt {a : Option State} (k : OptKept w s0 a) (h : a = some t) : Kept w s0 t := k t h

theorem Kept.setRegs {x : SMap Nat} (h : Kept w s0 s) (eregs : w.contains .regs = true) (hregs : rising (s.regs.map (·.1)) = true → rising (x.map (·.1)) = true) :
    Kept w s0 { s with regs := x } := by
  refine Kept.trans h ⟨fun p hp => ?_, fun i => ?_⟩
  · cases p <;> first | rfl | (exfalso; simp_all)
  · exact ⟨i.1, i.2.1, i.2.2.1, hregs i.2.2.2⟩

theorem Kept.setLive {x : SMap Nat} (h : Kept w s0 s) (elive : w.contains .live = true) :
    Kept w s0 { s with live := x } := by
  refine Kept.trans h ⟨fun p hp => ?_, fun i => ?_⟩
  · cases p <;> first | rfl | (exfalso; simp_all)
  · exact ⟨i.1, i.2.1, i.2.2.1, i.2.2.2⟩

theorem Kept.setMem {x : Mem} (h : Kept w s0 s) (emem : w.contains .mem = true) (hmem : Memory.wf s.mem.dram = true → Memory.wf x.dram = true) :
    Kept w s0 { s with mem := x } := by
  refine Kept.trans h ⟨fun p hp => ?_, fun i => ?_⟩
  · cases p <;> first | rfl | (exfalso; simp_all)
  · exact ⟨hmem i.1, i.2.1, i.2.2.1, i.2.2.2⟩

theorem Kept.setHost {x : HostMem} (h : Kept w s0 s) (ehost : w.contains .host = true) (hhost : Memory.wf s.host.bytes = true → Memory.wf x.bytes = true) :
    Kept w s0 { s with host := x } := by
  refine Kept.trans h ⟨fun p hp => ?_, fun i => ?_⟩
  · cases p <;> first | rfl | (exfalso; simp_all)
  · exact ⟨i.1, hhost i.2.1, i.2.2.1, i.2.2.2⟩

theorem Kept.setWork {x : Work} (h : Kept w s0 s) (ework : w.contains .work = true) :
    Kept w s0 { s with work := x } := by
  refine Kept.trans h ⟨fun p hp => ?_, fun i => ?_⟩
  · cases p <;> first | rfl | (exfalso; simp_all)
  · exact ⟨i.1, i.2.1, i.2.2.1, i.2.2.2⟩

theorem Kept.setYards {x : Yards} (h : Kept w s0 s) (eyards : w.contains .yards = true) :
    Kept w s0 { s with yards := x } := by
  refine Kept.trans h ⟨fun p hp => ?_, fun i => ?_⟩
  · cases p <;> first | rfl | (exfalso; simp_all)
  · exact ⟨i.1, i.2.1, i.2.2.1, i.2.2.2⟩

theorem Kept.setFab {x : Fab} (h : Kept w s0 s) (efab : w.contains .fab = true) :
    Kept w s0 { s with fab := x } := by
  refine Kept.trans h ⟨fun p hp => ?_, fun i => ?_⟩
  · cases p <;> first | rfl | (exfalso; simp_all)
  · exact ⟨i.1, i.2.1, i.2.2.1, i.2.2.2⟩

theorem Kept.setCrush {x : Crush} (h : Kept w s0 s) (ecrush : w.contains .crush = true) :
    Kept w s0 { s with crush := x } := by
  refine Kept.trans h ⟨fun p hp => ?_, fun i => ?_⟩
  · cases p <;> first | rfl | (exfalso; simp_all)
  · exact ⟨i.1, i.2.1, i.2.2.1, i.2.2.2⟩

theorem Kept.setTen {x : Ten} (h : Kept w s0 s) (eten : w.contains .ten = true) :
    Kept w s0 { s with ten := x } := by
  refine Kept.trans h ⟨fun p hp => ?_, fun i => ?_⟩
  · cases p <;> first | rfl | (exfalso; simp_all)
  · exact ⟨i.1, i.2.1, i.2.2.1, i.2.2.2⟩

theorem Kept.setClock {x : Clock} (h : Kept w s0 s) (eclock : w.contains .clock = true) :
    Kept w s0 { s with clock := x } := by
  refine Kept.trans h ⟨fun p hp => ?_, fun i => ?_⟩
  · cases p <;> first | rfl | (exfalso; simp_all)
  · exact ⟨i.1, i.2.1, i.2.2.1, i.2.2.2⟩

theorem Kept.setCores {x : SMap Core} (h : Kept w s0 s) (ecores : w.contains .cores = true) :
    Kept w s0 { s with cores := x } := by
  refine Kept.trans h ⟨fun p hp => ?_, fun i => ?_⟩
  · cases p <;> first | rfl | (exfalso; simp_all)
  · exact ⟨i.1, i.2.1, i.2.2.1, i.2.2.2⟩

theorem Kept.setImages {x : SMap L1Image} (h : Kept w s0 s) (eimages : w.contains .images = true) :
    Kept w s0 { s with images := x } := by
  refine Kept.trans h ⟨fun p hp => ?_, fun i => ?_⟩
  · cases p <;> first | rfl | (exfalso; simp_all)
  · exact ⟨i.1, i.2.1, i.2.2.1, i.2.2.2⟩

theorem Kept.setRadio {x : Radio} (h : Kept w s0 s) (eradio : w.contains .radio = true) :
    Kept w s0 { s with radio := x } := by
  refine Kept.trans h ⟨fun p hp => ?_, fun i => ?_⟩
  · cases p <;> first | rfl | (exfalso; simp_all)
  · exact ⟨i.1, i.2.1, i.2.2.1, i.2.2.2⟩

theorem Kept.setNet {x : Net} (h : Kept w s0 s) (enet : w.contains .net = true) :
    Kept w s0 { s with net := x } := by
  refine Kept.trans h ⟨fun p hp => ?_, fun i => ?_⟩
  · cases p <;> first | rfl | (exfalso; simp_all)
  · exact ⟨i.1, i.2.1, i.2.2.1, i.2.2.2⟩

theorem Kept.setTdfe {x : Tdfe} (h : Kept w s0 s) (etdfe : w.contains .tdfe = true) :
    Kept w s0 { s with tdfe := x } := by
  refine Kept.trans h ⟨fun p hp => ?_, fun i => ?_⟩
  · cases p <;> first | rfl | (exfalso; simp_all)
  · exact ⟨i.1, i.2.1, i.2.2.1, i.2.2.2⟩

theorem Kept.setCfg {x : CfgSt} (h : Kept w s0 s) (ecfg : w.contains .cfg = true) :
    Kept w s0 { s with cfg := x } := by
  refine Kept.trans h ⟨fun p hp => ?_, fun i => ?_⟩
  · cases p <;> first | rfl | (exfalso; simp_all)
  · exact ⟨i.1, i.2.1, i.2.2.1, i.2.2.2⟩

theorem Kept.setSec {x : Sec} (h : Kept w s0 s) (esec : w.contains .sec = true) :
    Kept w s0 { s with sec := x } := by
  refine Kept.trans h ⟨fun p hp => ?_, fun i => ?_⟩
  · cases p <;> first | rfl | (exfalso; simp_all)
  · exact ⟨i.1, i.2.1, i.2.2.1, i.2.2.2⟩

theorem Kept.setBoot {x : Boot} (h : Kept w s0 s) (eboot : w.contains .boot = true) (hboot : canonical (0xFF : Byte) s.boot.nvm = true → canonical (0xFF : Byte) x.nvm = true) :
    Kept w s0 { s with boot := x } := by
  refine Kept.trans h ⟨fun p hp => ?_, fun i => ?_⟩
  · cases p <;> first | rfl | (exfalso; simp_all)
  · exact ⟨i.1, i.2.1, hboot i.2.2.1, i.2.2.2⟩

theorem Kept.setPower {x : Power} (h : Kept w s0 s) (epower : w.contains .power = true) :
    Kept w s0 { s with power := x } := by
  refine Kept.trans h ⟨fun p hp => ?_, fun i => ?_⟩
  · cases p <;> first | rfl | (exfalso; simp_all)
  · exact ⟨i.1, i.2.1, i.2.2.1, i.2.2.2⟩

theorem Kept.setHealth {x : Health} (h : Kept w s0 s) (ehealth : w.contains .health = true) :
    Kept w s0 { s with health := x } := by
  refine Kept.trans h ⟨fun p hp => ?_, fun i => ?_⟩
  · cases p <;> first | rfl | (exfalso; simp_all)
  · exact ⟨i.1, i.2.1, i.2.2.1, i.2.2.2⟩

theorem Kept.setOut {x : List Out} (h : Kept w s0 s) (eout : w.contains .out = true) :
    Kept w s0 { s with out := x } := by
  refine Kept.trans h ⟨fun p hp => ?_, fun i => ?_⟩
  · cases p <;> first | rfl | (exfalso; simp_all)
  · exact ⟨i.1, i.2.1, i.2.2.1, i.2.2.2⟩

theorem Kept.setFree {x : Nat} (h : Kept w s0 s) (efree : w.contains .free = true) :
    Kept w s0 { s with free := x } := by
  refine Kept.trans h ⟨fun p hp => ?_, fun i => ?_⟩
  · cases p <;> first | rfl | (exfalso; simp_all)
  · exact ⟨i.1, i.2.1, i.2.2.1, i.2.2.2⟩

theorem Kept.setMemBoot {x0 : Mem} {x1 : Boot} (h : Kept w s0 s) (emem : w.contains .mem = true) (eboot : w.contains .boot = true) (hmem : Memory.wf s.mem.dram = true → Memory.wf x0.dram = true) (hboot : canonical (0xFF : Byte) s.boot.nvm = true → canonical (0xFF : Byte) x1.nvm = true) :
    Kept w s0 { s with mem := x0, boot := x1 } := by
  refine Kept.trans h ⟨fun p hp => ?_, fun i => ?_⟩
  · cases p <;> first | rfl | (exfalso; simp_all)
  · exact ⟨hmem i.1, i.2.1, hboot i.2.2.1, i.2.2.2⟩

theorem Kept.setMemBootHealth {x0 : Mem} {x1 : Boot} {x2 : Health} (h : Kept w s0 s) (emem : w.contains .mem = true) (eboot : w.contains .boot = true) (ehealth : w.contains .health = true) (hmem : Memory.wf s.mem.dram = true → Memory.wf x0.dram = true) (hboot : canonical (0xFF : Byte) s.boot.nvm = true → canonical (0xFF : Byte) x1.nvm = true) :
    Kept w s0 { s with mem := x0, boot := x1, health := x2 } := by
  refine Kept.trans h ⟨fun p hp => ?_, fun i => ?_⟩
  · cases p <;> first | rfl | (exfalso; simp_all)
  · exact ⟨hmem i.1, i.2.1, hboot i.2.2.1, i.2.2.2⟩

theorem Kept.setWorkFabTen {x0 : Work} {x1 : Fab} {x2 : Ten} (h : Kept w s0 s) (ework : w.contains .work = true) (efab : w.contains .fab = true) (eten : w.contains .ten = true) :
    Kept w s0 { s with work := x0, fab := x1, ten := x2 } := by
  refine Kept.trans h ⟨fun p hp => ?_, fun i => ?_⟩
  · cases p <;> first | rfl | (exfalso; simp_all)
  · exact ⟨i.1, i.2.1, i.2.2.1, i.2.2.2⟩

theorem Kept.setMemWorkYardsFabCrushCoresRadioTdfeHealth {x0 : Mem} {x1 : Work} {x2 : Yards} {x3 : Fab} {x4 : Crush} {x5 : SMap Core} {x6 : Radio} {x7 : Tdfe} {x8 : Health} (h : Kept w s0 s) (emem : w.contains .mem = true) (ework : w.contains .work = true) (eyards : w.contains .yards = true) (efab : w.contains .fab = true) (ecrush : w.contains .crush = true) (ecores : w.contains .cores = true) (eradio : w.contains .radio = true) (etdfe : w.contains .tdfe = true) (ehealth : w.contains .health = true) (hmem : Memory.wf s.mem.dram = true → Memory.wf x0.dram = true) :
    Kept w s0 { s with mem := x0, work := x1, yards := x2, fab := x3, crush := x4, cores := x5, radio := x6, tdfe := x7, health := x8 } := by
  refine Kept.trans h ⟨fun p hp => ?_, fun i => ?_⟩
  · cases p <;> first | rfl | (exfalso; simp_all)
  · exact ⟨hmem i.1, i.2.1, i.2.2.1, i.2.2.2⟩

theorem Kept.setWorkRadio {x0 : Work} {x1 : Radio} (h : Kept w s0 s) (ework : w.contains .work = true) (eradio : w.contains .radio = true) :
    Kept w s0 { s with work := x0, radio := x1 } := by
  refine Kept.trans h ⟨fun p hp => ?_, fun i => ?_⟩
  · cases p <;> first | rfl | (exfalso; simp_all)
  · exact ⟨i.1, i.2.1, i.2.2.1, i.2.2.2⟩

theorem Kept.setNetBoot {x0 : Net} {x1 : Boot} (h : Kept w s0 s) (enet : w.contains .net = true) (eboot : w.contains .boot = true) (hboot : canonical (0xFF : Byte) s.boot.nvm = true → canonical (0xFF : Byte) x1.nvm = true) :
    Kept w s0 { s with net := x0, boot := x1 } := by
  refine Kept.trans h ⟨fun p hp => ?_, fun i => ?_⟩
  · cases p <;> first | rfl | (exfalso; simp_all)
  · exact ⟨i.1, i.2.1, hboot i.2.2.1, i.2.2.2⟩

theorem Kept.setClockBoot {x0 : Clock} {x1 : Boot} (h : Kept w s0 s) (eclock : w.contains .clock = true) (eboot : w.contains .boot = true) (hboot : canonical (0xFF : Byte) s.boot.nvm = true → canonical (0xFF : Byte) x1.nvm = true) :
    Kept w s0 { s with clock := x0, boot := x1 } := by
  refine Kept.trans h ⟨fun p hp => ?_, fun i => ?_⟩
  · cases p <;> first | rfl | (exfalso; simp_all)
  · exact ⟨i.1, i.2.1, hboot i.2.2.1, i.2.2.2⟩

theorem Kept.setYardsRadio {x0 : Yards} {x1 : Radio} (h : Kept w s0 s) (eyards : w.contains .yards = true) (eradio : w.contains .radio = true) :
    Kept w s0 { s with yards := x0, radio := x1 } := by
  refine Kept.trans h ⟨fun p hp => ?_, fun i => ?_⟩
  · cases p <;> first | rfl | (exfalso; simp_all)
  · exact ⟨i.1, i.2.1, i.2.2.1, i.2.2.2⟩

theorem Kept.setBootPower {x0 : Boot} {x1 : Power} (h : Kept w s0 s) (eboot : w.contains .boot = true) (epower : w.contains .power = true) (hboot : canonical (0xFF : Byte) s.boot.nvm = true → canonical (0xFF : Byte) x0.nvm = true) :
    Kept w s0 { s with boot := x0, power := x1 } := by
  refine Kept.trans h ⟨fun p hp => ?_, fun i => ?_⟩
  · cases p <;> first | rfl | (exfalso; simp_all)
  · exact ⟨i.1, i.2.1, hboot i.2.2.1, i.2.2.2⟩

theorem Kept.setWorkTen {x0 : Work} {x1 : Ten} (h : Kept w s0 s) (ework : w.contains .work = true) (eten : w.contains .ten = true) :
    Kept w s0 { s with work := x0, ten := x1 } := by
  refine Kept.trans h ⟨fun p hp => ?_, fun i => ?_⟩
  · cases p <;> first | rfl | (exfalso; simp_all)
  · exact ⟨i.1, i.2.1, i.2.2.1, i.2.2.2⟩

theorem Kept.setHostRadio {x0 : HostMem} {x1 : Radio} (h : Kept w s0 s) (ehost : w.contains .host = true) (eradio : w.contains .radio = true) (hhost : Memory.wf s.host.bytes = true → Memory.wf x0.bytes = true) :
    Kept w s0 { s with host := x0, radio := x1 } := by
  refine Kept.trans h ⟨fun p hp => ?_, fun i => ?_⟩
  · cases p <;> first | rfl | (exfalso; simp_all)
  · exact ⟨i.1, hhost i.2.1, i.2.2.1, i.2.2.2⟩

/-! ### The memories' own operations -/

theorem memPut_wf {m : Mem} {key pa : Nat} {b : Byte} (h : Memory.wf m.dram = true) : Memory.wf (memPut m key pa b).dram = true :=
  canonical_mapPut _ _ _ _ h

theorem memPutBytes_wf {m : Mem} {key : Nat → Nat} {pa : Nat} {bs : List Byte} (h : Memory.wf m.dram = true) :
    Memory.wf (memPutBytes key m pa bs).dram = true := by
  induction bs generalizing m pa with
  | nil => exact h
  | cons b t ih => exact ih (memPut_wf h)

theorem rekeyLine_wf {m : Mem} {key line : Nat} (h : Memory.wf m.dram = true) : Memory.wf (rekeyLine m key line).dram = true := by
  unfold rekeyLine
  split
  · exact h
  · split
    · exact h
    · exact memPutBytes_wf h

theorem memStore_wf {m : Mem} {key : Nat → Nat} {k j a b pa : Nat} {bs : List Byte} (h : Memory.wf m.dram = true) :
    Memory.wf (if bs = [] then m else memPutBytes key (rekeyLine (rekeyLine m k a) j b) pa bs).dram = true := by
  split
  · exact h
  · exact memPutBytes_wf (rekeyLine_wf (rekeyLine_wf h))

theorem memClearLot_wf {m : Mem} {n : Nat} (h : Memory.wf m.dram = true) : Memory.wf (memClearLot m n).dram = true :=
  canonical_filter _ _ _ h

theorem hostPut_wf {m : HostMem} {p a : Nat} {bs : List Byte} (h : Memory.wf m.bytes = true) : Memory.wf (hostPut m p a bs).bytes = true := by
  induction bs generalizing m a with
  | nil => exact h
  | cons b t ih => exact ih (canonical_mapPut _ _ _ _ h)

theorem areaPut_wf {m : HostMem} {p base size pos : Nat} {bs : List Byte} (h : Memory.wf m.bytes = true) :
    Memory.wf (areaPut m p base size pos bs).bytes = true := hostPut_wf (hostPut_wf h)

theorem filter_wf {m : SMap Byte} {p : Nat × Byte → Bool} (h : Memory.wf m = true) : Memory.wf (m.filter p) = true :=
  canonical_filter _ _ _ h

theorem mapPuts_wf {m x : SMap Byte} (h : Memory.wf m = true) : Memory.wf (x.foldl (fun m e => mapPut m e.1 e.2 0) m) = true := by
  induction x generalizing m with
  | nil => exact h
  | cons e t ih => exact ih (canonical_mapPut _ _ _ _ h)

theorem nvmErase_wf {m : SMap Byte} {a n : Nat} (h : canonical (0xFF : Byte) m = true) : canonical (0xFF : Byte) (nvmErase m a n) = true :=
  canonical_filter _ _ _ h

theorem mem_nvmRun {a : Nat} {bs : List Byte} {e : Nat × Byte} (h : e ∈ nvmRun a bs) : a ≤ e.1 ∧ e.1 < a + bs.length ∧ e.2 ≠ 0xFF := by
  induction bs generalizing a with
  | nil => simp [nvmRun] at h
  | cons b t ih =>
    simp only [nvmRun, List.length_cons] at h ⊢
    split at h
    · exact ⟨by have := ih h; omega, by have := ih h; omega, (ih h).2.2⟩
    · rcases List.mem_cons.1 h with rfl | h
      · exact ⟨by simp, by simp, by simpa using ‹¬ b = 0xFF›⟩
      · exact ⟨by have := ih h; omega, by have := ih h; omega, (ih h).2.2⟩

theorem rising_nvmRun (a : Nat) (bs : List Byte) : rising ((nvmRun a bs).map (·.1)) = true := by
  induction bs generalizing a with
  | nil => rfl
  | cons b t ih =>
    simp only [nvmRun]
    split
    · exact ih _
    · simp only [List.map_cons, rising_cons, List.mem_map]
      refine ⟨?_, ih _⟩
      rintro _ ⟨e, he, rfl⟩
      have := mem_nvmRun he
      omega

theorem rising_append {l r : List Nat} (hl : rising l = true) (hr : rising r = true) (h : ∀ a ∈ l, ∀ b ∈ r, a < b) : rising (l ++ r) = true := by
  induction l with
  | nil => simpa using hr
  | cons a t ih =>
    simp only [rising_cons, List.cons_append, List.mem_append] at hl ⊢
    refine ⟨?_, ih hl.2 fun x hx => h x (by simp [hx])⟩
    rintro b (hb | hb)
    · exact hl.1 b hb
    · exact h a (by simp) b hb

theorem nvmPut_wf {m : SMap Byte} {a : Nat} {bs : List Byte} (h : canonical (0xFF : Byte) m = true) :
    canonical (0xFF : Byte) (nvmPut m a bs) = true := by
  simp only [canonical, Bool.and_eq_true, List.all_eq_true, decide_eq_true_eq] at h ⊢
  obtain ⟨hr, hd⟩ := h
  refine ⟨?_, fun e he => ?_⟩
  · simp only [nvmPut, List.map_append]
    refine rising_append (rising_append (rising_filter _ _ hr) (rising_nvmRun _ _) ?_) (rising_filter _ _ hr) ?_
    · intro x hx y hy
      simp only [List.mem_map, List.mem_filter, decide_eq_true_eq] at hx hy
      obtain ⟨e, ⟨_, he⟩, rfl⟩ := hx
      obtain ⟨g, hg, rfl⟩ := hy
      have := mem_nvmRun hg
      omega
    · intro x hx y hy
      simp only [List.mem_append, List.mem_map, List.mem_filter, decide_eq_true_eq] at hx hy
      obtain ⟨g, ⟨_, hg⟩, rfl⟩ := hy
      rcases hx with ⟨e, ⟨_, he⟩, rfl⟩ | ⟨e, he, rfl⟩
      · omega
      · have := mem_nvmRun he
        omega
  · simp only [nvmPut, List.mem_append, List.mem_filter] at he
    rcases he with (he | he) | he
    · exact hd e he.1
    · exact (mem_nvmRun he).2.2
    · exact hd e he.1

end Sys2Proof.Machine
end

