-- ==== Sys2Proof/Laws/OpsKept.lean ====
section
/-! SUPPORT. What every operation of Machine/Ops.lean may change, as a law of Kept. -/

set_option linter.unreachableTactic false
set_option linter.unusedTactic false
set_option linter.unusedVariables false

namespace Sys2Proof.Machine

theorem wr_kept {s : State} {f : Fld} {i : Nat} {v : Nat} {pw : List Part} {s0 : State} (h : Kept pw s0 s) (hw : subParts [.regs] pw = true) :
    Kept pw s0 (wr s f i v) := by
  refine Kept.app h hw ?_
  exact Kept.setRegs (Kept.refl _ _) rfl (fun i => rising_mapPut _ _ _ _ i)

theorem wrLive_kept {s : State} {f : Fld} {i : Nat} {v : Nat} {pw : List Part} {s0 : State} (h : Kept pw s0 s) (hw : subParts [.live] pw = true) :
    Kept pw s0 (wrLive s f i v) := by
  refine Kept.app h hw ?_
  unfold wrLive
  repeat' first
    | with_reducible exact Kept.refl _ _
    | fail_if_no_progress ((with_reducible refine Kept.setLive ?_ ?e); (case e => rfl))

theorem bump_kept {s : State} {f : Fld} {i : Nat} {n : Nat} {pw : List Part} {s0 : State} (h : Kept pw s0 s) (hw : subParts [.regs] pw = true) :
    Kept pw s0 (bump s f i n) := by
  refine Kept.app h hw ?_
  unfold bump
  repeat' first
    | with_reducible exact Kept.refl _ _
    | ((with_reducible refine wr_kept ?_ ?e); (case e => rfl))

theorem bumpSat_kept {s : State} {f : Fld} {i : Nat} {n : Nat} {pw : List Part} {s0 : State} (h : Kept pw s0 s) (hw : subParts [.regs] pw = true) :
    Kept pw s0 (bumpSat s f i n) := by
  refine Kept.app h hw ?_
  unfold bumpSat
  repeat' first
    | with_reducible exact Kept.refl _ _
    | ((with_reducible refine wr_kept ?_ ?e); (case e => rfl))

theorem raiseTo_kept {s : State} {f : Fld} {i : Nat} {v : Nat} {pw : List Part} {s0 : State} (h : Kept pw s0 s) (hw : subParts [.regs] pw = true) :
    Kept pw s0 (raiseTo s f i v) := by
  refine Kept.app h hw ?_
  unfold raiseTo
  repeat' first
    | with_reducible exact Kept.refl _ _
    | with_reducible refine Kept.ite ?_ ?_
    | ((with_reducible refine wr_kept ?_ ?e); (case e => rfl))

theorem emit_kept {s : State} {o : Out} {pw : List Part} {s0 : State} (h : Kept pw s0 s) (hw : subParts [.out] pw = true) :
    Kept pw s0 (emit s o) := by
  refine Kept.app h hw ?_
  unfold emit
  repeat' first
    | with_reducible exact Kept.refl _ _
    | fail_if_no_progress ((with_reducible refine Kept.setOut ?_ ?e); (case e => rfl))

theorem drawn_kept {s : State} {pw : List Part} {s0 : State} (h : Kept pw s0 s) (hw : subParts [.free] pw = true) :
    Kept pw s0 (drawn s) := by
  refine Kept.app h hw ?_
  unfold drawn
  repeat' first
    | with_reducible exact Kept.refl _ _
    | fail_if_no_progress ((with_reducible refine Kept.setFree ?_ ?e); (case e => rfl))

theorem raiseMsix_kept {s : State} {f : Nat} {v : Nat} {pw : List Part} {s0 : State} (h : Kept pw s0 s) (hw : subParts [.ten, .out] pw = true) :
    Kept pw s0 (raiseMsix s f v) := by
  refine Kept.app h hw ?_
  unfold raiseMsix
  repeat' first
    | with_reducible exact Kept.refl _ _
    | with_reducible refine Kept.ite ?_ ?_
    | ((with_reducible refine emit_kept ?_ ?e); (case e => rfl))
    | dsimp only
    | fail_if_no_progress ((with_reducible refine Kept.setTen ?_ ?e); (case e => rfl))

theorem healthIrq_kept {s : State} {pw : List Part} {s0 : State} (h : Kept pw s0 s) (hw : subParts [.ten, .out] pw = true) :
    Kept pw s0 (healthIrq s) := by
  refine Kept.app h hw ?_
  unfold healthIrq
  repeat' first
    | with_reducible exact Kept.refl _ _
    | with_reducible refine Kept.ite ?_ ?_
    | ((with_reducible refine raiseMsix_kept ?_ ?e); (case e => rfl))

theorem healthCause_kept {s : State} {cause : Fld} {pw : List Part} {s0 : State} (h : Kept pw s0 s) (hw : subParts [.regs, .ten, .out] pw = true) :
    Kept pw s0 (healthCause s cause) := by
  refine Kept.app h hw ?_
  unfold healthCause
  repeat' first
    | with_reducible exact Kept.refl _ _
    | ((with_reducible refine healthIrq_kept ?_ ?e); (case e => rfl))
    | ((with_reducible refine wr_kept ?_ ?e); (case e => rfl))

theorem logErr_kept {s : State} {f : Nat} {st : Status} {source : Nat} {tag : Nat} {detail : Nat} {pw : List Part} {s0 : State} (h : Kept pw s0 s) (hw : subParts [.regs] pw = true) :
    Kept pw s0 (logErr s f st source tag detail) := by
  refine Kept.app h hw ?_
  unfold logErr
  repeat' first
    | with_reducible exact Kept.refl _ _
    | with_reducible refine Kept.ite ?_ ?_
    | ((with_reducible refine bumpSat_kept ?_ ?e); (case e => rfl))
    | ((with_reducible refine wr_kept ?_ ?e); (case e => rfl))

theorem markRegion_kept {s : State} {pa : Nat} {pw : List Part} {s0 : State} (h : Kept pw s0 s) (hw : subParts [.ten] pw = true) :
    Kept pw s0 (markRegion s pa) := by
  refine Kept.app h hw ?_
  unfold markRegion
  repeat' first
    | with_reducible exact Kept.refl _ _
    | dsimp only
    | fail_if_no_progress ((with_reducible refine Kept.setTen ?_ ?e); (case e => rfl))
    | split

theorem dramStore_kept {s : State} {pa : Nat} {bs : List Byte} {pw : List Part} {s0 : State} (h : Kept pw s0 s) (hw : subParts [.mem, .ten] pw = true) :
    Kept pw s0 (dramStore s pa bs) := by
  refine Kept.app h hw ?_
  unfold dramStore
  repeat' first
    | with_reducible assumption
    | with_reducible exact Kept.refl _ _
    | ((with_reducible refine markRegion_kept ?_ ?e); (case e => rfl))
    | with_reducible refine Kept.foldl ?_ ?_
    | dsimp only
    | fail_if_no_progress ((with_reducible refine Kept.setMem ?_ ?e ?i); (case e => rfl); (case i => first | with_reducible exact id | with_reducible exact fun h => memPutBytes_wf h | with_reducible exact fun h => memStore_wf h | with_reducible exact fun h => rekeyLine_wf h | with_reducible exact fun h => memClearLot_wf h | with_reducible exact fun h => mapPuts_wf (filter_wf h) | exact fun _ => rfl))
    | intro _

theorem keepFault_kept {s : State} {kind : Nat} {line : Nat} {rec_ : Nat} {pw : List Part} {s0 : State} (h : Kept pw s0 s) (hw : subParts [.regs, .mem, .boot] pw = true) :
    Kept pw s0 (keepFault s kind line rec_) := by
  refine Kept.app h hw ?_
  unfold keepFault
  repeat' first
    | with_reducible exact Kept.refl _ _
    | with_reducible refine Kept.ite ?_ ?_
    | ((with_reducible refine bumpSat_kept ?_ ?e); (case e => rfl))
    | dsimp only
    | fail_if_no_progress ((with_reducible refine Kept.setMemBoot ?_ ?e0 ?e1 ?i0 ?i1); (case e0 => rfl); (case e1 => rfl); (case i0 => first | with_reducible exact id | with_reducible exact fun h => memPutBytes_wf h | with_reducible exact fun h => memStore_wf h | with_reducible exact fun h => rekeyLine_wf h | with_reducible exact fun h => memClearLot_wf h | with_reducible exact fun h => mapPuts_wf (filter_wf h) | exact fun _ => rfl); (case i1 => first | with_reducible exact id | with_reducible exact fun h => nvmPut_wf (nvmErase_wf h) | with_reducible exact fun h => nvmErase_wf h | with_reducible exact fun h => nvmPut_wf h))
    | split

theorem faultRecord_kept {s : State} {kind : Nat} {source : Nat} {tag : Nat} {line : Nat} {syms : Nat} {pw : List Part} {s0 : State} (h : Kept pw s0 s) (hw : subParts [.regs, .mem, .ten, .boot, .out] pw = true) :
    Kept pw s0 (faultRecord s kind source tag line syms) := by
  refine Kept.app h hw ?_
  unfold faultRecord
  repeat' first
    | with_reducible exact Kept.refl _ _
    | with_reducible refine Kept.ite ?_ ?_
    | ((with_reducible refine bumpSat_kept ?_ ?e); (case e => rfl))
    | ((with_reducible refine wr_kept ?_ ?e); (case e => rfl))
    | ((with_reducible refine keepFault_kept ?_ ?e); (case e => rfl))
    | ((with_reducible refine healthCause_kept ?_ ?e); (case e => rfl))

theorem senseLine_kept {s : State} {source : Nat} {tag : Nat} {line : Nat} {e : LineErr} {pw : List Part} {s0 : State} (h : Kept pw s0 s) (hw : subParts [.regs, .mem, .ten, .boot, .out] pw = true) :
    Kept pw s0 (senseLine s source tag line e).1 := by
  refine Kept.app h hw ?_
  unfold senseLine
  repeat' first
    | with_reducible exact Kept.refl _ _
    | with_reducible refine Kept.ite ?_ ?_
    | with_reducible refine Kept.ite_fst ?_ ?_
    | ((with_reducible refine faultRecord_kept ?_ ?e); (case e => rfl))
    | ((with_reducible refine bump_kept ?_ ?e); (case e => rfl))
    | dsimp only
    | fail_if_no_progress ((with_reducible refine Kept.setMem ?_ ?e ?i); (case e => rfl); (case i => first | with_reducible exact id | with_reducible exact fun h => memPutBytes_wf h | with_reducible exact fun h => memStore_wf h | with_reducible exact fun h => rekeyLine_wf h | with_reducible exact fun h => memClearLot_wf h | with_reducible exact fun h => mapPuts_wf (filter_wf h) | exact fun _ => rfl))

theorem senseAt_kept {s : State} {source : Nat} {tag : Nat} {line : Nat} {pw : List Part} {s0 : State} (h : Kept pw s0 s) (hw : subParts [.regs, .mem, .ten, .boot, .out] pw = true) :
    Kept pw s0 (senseAt s source tag line).1 := by
  refine Kept.app h hw ?_
  unfold senseAt
  repeat' first
    | with_reducible exact Kept.refl _ _
    | ((with_reducible refine senseLine_kept ?_ ?e); (case e => rfl))
    | split

theorem senseRuns_kept {s : State} {source : Nat} {tag : Nat} {runs : List (Nat × Nat)} {pw : List Part} {s0 : State} (h : Kept pw s0 s) (hw : subParts [.regs, .mem, .ten, .boot, .out] pw = true) :
    Kept pw s0 (senseRuns s source tag runs).1 := by
  refine Kept.app h hw ?_
  unfold senseRuns
  repeat' first
    | with_reducible assumption
    | with_reducible exact Kept.refl _ _
    | ((with_reducible refine senseAt_kept ?_ ?e); (case e => rfl))
    | with_reducible refine Kept.foldl_fst ?_ ?_
    | dsimp only
    | split
    | intro _

theorem logXlat_kept {s : State} {x : XFault} {pw : List Part} {s0 : State} (h : Kept pw s0 s) (hw : subParts [.regs] pw = true) :
    Kept pw s0 (logXlat s x) := by
  refine Kept.app h hw ?_
  unfold logXlat
  repeat' first
    | with_reducible exact Kept.refl _ _
    | ((with_reducible refine logErr_kept ?_ ?e); (case e => rfl))
    | split

theorem walkReads_kept {s : State} {f : Nat} {va : Nat} {pw : List Part} {s0 : State} (h : Kept pw s0 s) (hw : subParts [.regs, .mem, .ten, .boot, .out] pw = true) :
    Kept pw s0 (walkReads s f va) := by
  refine Kept.app h hw ?_
  unfold walkReads
  repeat' first
    | with_reducible exact Kept.refl _ _
    | ((with_reducible refine senseRuns_kept ?_ ?e); (case e => rfl))

theorem translate_kept {s : State} {f : Nat} {va : Nat} {n : Nat} {write : Bool} {pw : List Part} {s0 : State} (h : Kept pw s0 s) (hw : subParts [.regs, .mem, .ten, .boot, .out] pw = true) :
    Kept pw s0 (translate s f va n write).1 := by
  refine Kept.app h hw ?_
  unfold translate
  repeat' first
    | with_reducible assumption
    | with_reducible exact Kept.refl _ _
    | with_reducible refine Kept.ite ?_ ?_
    | ((with_reducible refine walkReads_kept ?_ ?e); (case e => rfl))
    | ((with_reducible refine logXlat_kept ?_ ?e); (case e => rfl))
    | with_reducible refine Kept.foldl ?_ ?_
    | dsimp only
    | split
    | intro _

theorem storeRuns_kept {s : State} {runs : List (Nat × Nat)} {bs : List Byte} {pw : List Part} {s0 : State} (h : Kept pw s0 s) (hw : subParts [.mem, .ten] pw = true) :
    Kept pw s0 (storeRuns s runs bs) := by
  induction runs generalizing s bs with
  | nil => exact h
  | cons r t ih => exact ih (dramStore_kept h hw)

theorem readRuns_kept {s : State} {source : Nat} {tag : Nat} {runs : List (Nat × Nat)} {pw : List Part} {s0 : State} (h : Kept pw s0 s) (hw : subParts [.regs, .mem, .ten, .boot, .out] pw = true) :
    Kept pw s0 (readRuns s source tag runs).1 := by
  refine Kept.app h hw ?_
  unfold readRuns
  repeat' first
    | with_reducible exact Kept.refl _ _
    | fail_if_no_progress ((with_reducible refine Kept.fst (by assumption) (senseRuns_kept ?_ ?e)); (case e => rfl))
    | split

theorem writeRuns_kept {s : State} {source : Nat} {tag : Nat} {runs : List (Nat × Nat)} {bs : List Byte} {pw : List Part} {s0 : State} (h : Kept pw s0 s) (hw : subParts [.regs, .mem, .ten, .boot, .out] pw = true) :
    Kept pw s0 (writeRuns s source tag runs bs).1 := by
  refine Kept.app h hw ?_
  unfold writeRuns
  repeat' first
    | with_reducible exact Kept.refl _ _
    | fail_if_no_progress ((with_reducible refine Kept.fst (by assumption) (senseRuns_kept ?_ ?e)); (case e => rfl))
    | ((with_reducible refine storeRuns_kept ?_ ?e); (case e => rfl))
    | split

theorem dirtyPage_kept {s : State} {f : Nat} {pasid : Nat} {page : Nat} {pw : List Part} {s0 : State} (h : Kept pw s0 s) (hw : subParts [.regs, .host] pw = true) :
    Kept pw s0 (dirtyPage s f pasid page) := by
  refine Kept.app h hw ?_
  unfold dirtyPage
  repeat' first
    | with_reducible exact Kept.refl _ _
    | with_reducible refine Kept.ite ?_ ?_
    | ((with_reducible refine wr_kept ?_ ?e); (case e => rfl))
    | fail_if_no_progress ((with_reducible refine Kept.setHost ?_ ?e ?i); (case e => rfl); (case i => first | with_reducible exact id | with_reducible exact fun h => hostPut_wf h | with_reducible exact fun h => hostPut_wf (areaPut_wf h)))

theorem hostStore_kept {s : State} {f : Nat} {pasid : Nat} {a : Nat} {bs : List Byte} {pw : List Part} {s0 : State} (h : Kept pw s0 s) (hw : subParts [.regs, .host] pw = true) :
    Kept pw s0 (hostStore s f pasid a bs) := by
  refine Kept.app h hw ?_
  unfold hostStore
  repeat' first
    | with_reducible assumption
    | with_reducible exact Kept.refl _ _
    | with_reducible refine Kept.ite ?_ ?_
    | ((with_reducible refine dirtyPage_kept ?_ ?e); (case e => rfl))
    | with_reducible refine Kept.foldl ?_ ?_
    | fail_if_no_progress ((with_reducible refine Kept.setHost ?_ ?e ?i); (case e => rfl); (case i => first | with_reducible exact id | with_reducible exact fun h => hostPut_wf h | with_reducible exact fun h => hostPut_wf (areaPut_wf h)))
    | intro _

theorem spaceRead_kept {s : State} {f : Nat} {host : Bool} {pasid : Nat} {a : Nat} {n : Nat} {pw : List Part} {s0 : State} (h : Kept pw s0 s) (hw : subParts [.regs, .mem, .ten, .boot, .out] pw = true) :
    Kept pw s0 (spaceRead s f host pasid a n).1 := by
  refine Kept.app h hw ?_
  unfold spaceRead
  repeat' first
    | with_reducible exact Kept.refl _ _
    | with_reducible refine Kept.ite_fst ?_ ?_
    | fail_if_no_progress ((with_reducible refine Kept.fst (by assumption) (translate_kept ?_ ?e)); (case e => rfl))
    | fail_if_no_progress ((with_reducible refine Kept.fst (by assumption) (readRuns_kept ?_ ?e)); (case e => rfl))
    | split

theorem spaceWrite_kept {s : State} {f : Nat} {host : Bool} {pasid : Nat} {a : Nat} {bs : List Byte} {pw : List Part} {s0 : State} (h : Kept pw s0 s) (hw : subParts [.regs, .mem, .host, .ten, .boot, .out] pw = true) :
    Kept pw s0 (spaceWrite s f host pasid a bs).1 := by
  refine Kept.app h hw ?_
  unfold spaceWrite
  repeat' first
    | with_reducible exact Kept.refl _ _
    | with_reducible refine Kept.ite_fst ?_ ?_
    | ((with_reducible refine hostStore_kept ?_ ?e); (case e => rfl))
    | fail_if_no_progress ((with_reducible refine Kept.fst (by assumption) (translate_kept ?_ ?e)); (case e => rfl))
    | fail_if_no_progress ((with_reducible refine Kept.fst (by assumption) (writeRuns_kept ?_ ?e)); (case e => rfl))
    | split

theorem putTokens_kept {s : State} {f : Nat} {t : Nat} {pw : List Part} {s0 : State} (h : Kept pw s0 s) (hw : subParts [.regs, .mem] pw = true) :
    Kept pw s0 (putTokens s f t) := by
  refine Kept.app h hw ?_
  unfold putTokens
  repeat' first
    | with_reducible exact Kept.refl _ _
    | ((with_reducible refine wr_kept ?_ ?e); (case e => rfl))
    | dsimp only
    | fail_if_no_progress ((with_reducible refine Kept.setMem ?_ ?e ?i); (case e => rfl); (case i => first | with_reducible exact id | with_reducible exact fun h => memPutBytes_wf h | with_reducible exact fun h => memStore_wf h | with_reducible exact fun h => rekeyLine_wf h | with_reducible exact fun h => memClearLot_wf h | with_reducible exact fun h => mapPuts_wf (filter_wf h) | exact fun _ => rfl))

theorem chargeDram_kept {s : State} {f : Nat} {bytes : Nat} {pw : List Part} {s0 : State} (h : Kept pw s0 s) (hw : subParts [.regs, .mem] pw = true) :
    Kept pw s0 (chargeDram s f bytes) := by
  refine Kept.app h hw ?_
  unfold chargeDram
  repeat' first
    | with_reducible exact Kept.refl _ _
    | with_reducible refine Kept.ite ?_ ?_
    | ((with_reducible refine putTokens_kept ?_ ?e); (case e => rfl))

theorem noteWait_kept {s : State} {f : Nat} {pw : List Part} {s0 : State} (h : Kept pw s0 s) (hw : subParts [.regs] pw = true) :
    Kept pw s0 (noteWait s f) := by
  refine Kept.app h hw ?_
  unfold noteWait
  repeat' first
    | with_reducible exact Kept.refl _ _
    | ((with_reducible refine bump_kept ?_ ?e); (case e => rfl))

theorem refundDram_kept {s : State} {f : Nat} {bytes : Nat} {pw : List Part} {s0 : State} (h : Kept pw s0 s) (hw : subParts [.regs, .mem] pw = true) :
    Kept pw s0 (refundDram s f bytes) := by
  refine Kept.app h hw ?_
  unfold refundDram
  repeat' first
    | with_reducible exact Kept.refl _ _
    | ((with_reducible refine putTokens_kept ?_ ?e); (case e => rfl))

theorem routeR_kept {s : State} {src : Nat} {dst : Nat} {bytes : Nat} {pw : List Part} {s0 : State} (h : Kept pw s0 s) (hw : subParts [.mem] pw = true) :
    Kept pw s0 (routeR s src dst bytes) := by
  refine Kept.app h hw ?_
  unfold routeR
  repeat' first
    | with_reducible assumption
    | with_reducible exact Kept.refl _ _
    | with_reducible refine Kept.foldl ?_ ?_
    | dsimp only
    | fail_if_no_progress ((with_reducible refine Kept.setMem ?_ ?e ?i); (case e => rfl); (case i => first | with_reducible exact id | with_reducible exact fun h => memPutBytes_wf h | with_reducible exact fun h => memStore_wf h | with_reducible exact fun h => rekeyLine_wf h | with_reducible exact fun h => memClearLot_wf h | with_reducible exact fun h => mapPuts_wf (filter_wf h) | exact fun _ => rfl))
    | split
    | intro _

theorem channelR_kept {s : State} {line : Nat} {pw : List Part} {s0 : State} (h : Kept pw s0 s) (hw : subParts [.mem] pw = true) :
    Kept pw s0 (channelR s line) := by
  refine Kept.app h hw ?_
  unfold channelR
  repeat' first
    | with_reducible exact Kept.refl _ _
    | with_reducible refine Kept.ite ?_ ?_
    | dsimp only
    | fail_if_no_progress ((with_reducible refine Kept.setMem ?_ ?e ?i); (case e => rfl); (case i => first | with_reducible exact id | with_reducible exact fun h => memPutBytes_wf h | with_reducible exact fun h => memStore_wf h | with_reducible exact fun h => rekeyLine_wf h | with_reducible exact fun h => memClearLot_wf h | with_reducible exact fun h => mapPuts_wf (filter_wf h) | exact fun _ => rfl))

theorem radioTraffic_kept {s : State} {stop : Nat} {runs : List (Nat × Nat)} {write : Bool} {pw : List Part} {s0 : State} (h : Kept pw s0 s) (hw : subParts [.mem] pw = true) :
    Kept pw s0 (radioTraffic s stop runs write) := by
  refine Kept.app h hw ?_
  unfold radioTraffic
  repeat' first
    | with_reducible assumption
    | with_reducible exact Kept.refl _ _
    | ((with_reducible refine channelR_kept ?_ ?e); (case e => rfl))
    | ((with_reducible refine routeR_kept ?_ ?e); (case e => rfl))
    | with_reducible refine Kept.foldl ?_ ?_
    | dsimp only
    | split
    | intro _

theorem tallyPut_kept {s : State} {f : Nat} {t : Nat} {v : Nat} {pw : List Part} {s0 : State} (h : Kept pw s0 s) (hw : subParts [.work] pw = true) :
    Kept pw s0 (tallyPut s f t v) := by
  refine Kept.app h hw ?_
  unfold tallyPut
  repeat' first
    | with_reducible exact Kept.refl _ _
    | dsimp only
    | fail_if_no_progress ((with_reducible refine Kept.setWork ?_ ?e); (case e => rfl))

theorem tallyInc_kept {s : State} {f : Nat} {t : Nat} {v : Nat} {pw : List Part} {s0 : State} (h : Kept pw s0 s) (hw : subParts [.work] pw = true) :
    Kept pw s0 (tallyInc s f t v) := by
  refine Kept.app h hw ?_
  unfold tallyInc
  repeat' first
    | with_reducible exact Kept.refl _ _
    | ((with_reducible refine tallyPut_kept ?_ ?e); (case e => rfl))

theorem putQ_kept {s : State} {k : Nat} {q : Queue} {pw : List Part} {s0 : State} (h : Kept pw s0 s) (hw : subParts [.work] pw = true) :
    Kept pw s0 (putQ s k q) := by
  refine Kept.app h hw ?_
  unfold putQ
  repeat' first
    | with_reducible exact Kept.refl _ _
    | dsimp only
    | fail_if_no_progress ((with_reducible refine Kept.setWork ?_ ?e); (case e => rfl))

theorem putStep_kept {s : State} {k : Nat} {x : StepSt} {pw : List Part} {s0 : State} (h : Kept pw s0 s) (hw : subParts [.work] pw = true) :
    Kept pw s0 (putStep s k x) := by
  refine Kept.app h hw ?_
  unfold putStep
  repeat' first
    | with_reducible exact Kept.refl _ _
    | dsimp only
    | fail_if_no_progress ((with_reducible refine Kept.setWork ?_ ?e); (case e => rfl))

theorem dropStep_kept {s : State} {k : Nat} {pw : List Part} {s0 : State} (h : Kept pw s0 s) (hw : subParts [.work] pw = true) :
    Kept pw s0 (dropStep s k) := by
  refine Kept.app h hw ?_
  unfold dropStep
  repeat' first
    | with_reducible exact Kept.refl _ _
    | dsimp only
    | fail_if_no_progress ((with_reducible refine Kept.setWork ?_ ?e); (case e => rfl))

theorem putCmd_kept {s : State} {cid : Nat} {c : Cmd} {pw : List Part} {s0 : State} (h : Kept pw s0 s) (hw : subParts [.work] pw = true) :
    Kept pw s0 (putCmd s cid c) := by
  refine Kept.app h hw ?_
  unfold putCmd
  repeat' first
    | with_reducible exact Kept.refl _ _
    | dsimp only
    | fail_if_no_progress ((with_reducible refine Kept.setWork ?_ ?e); (case e => rfl))

theorem dropCmd_kept {s : State} {cid : Nat} {pw : List Part} {s0 : State} (h : Kept pw s0 s) (hw : subParts [.work] pw = true) :
    Kept pw s0 (dropCmd s cid) := by
  refine Kept.app h hw ?_
  unfold dropCmd
  repeat' first
    | with_reducible exact Kept.refl _ _
    | dsimp only
    | fail_if_no_progress ((with_reducible refine Kept.setWork ?_ ?e); (case e => rfl))

theorem applySignals_kept {s : State} {f : Nat} {sigs : List (Nat × Nat)} {pw : List Part} {s0 : State} (h : Kept pw s0 s) (hw : subParts [.work] pw = true) :
    Kept pw s0 (applySignals s f sigs) := by
  refine Kept.app h hw ?_
  unfold applySignals
  repeat' first
    | with_reducible assumption
    | with_reducible exact Kept.refl _ _
    | ((with_reducible refine tallyInc_kept ?_ ?e); (case e => rfl))
    | with_reducible refine Kept.foldl ?_ ?_
    | intro _

theorem putCtx_kept {s : State} {k : Nat} {c : Ctx} {pw : List Part} {s0 : State} (h : Kept pw s0 s) (hw : subParts [.yards] pw = true) :
    Kept pw s0 (putCtx s k c) := by
  refine Kept.app h hw ?_
  unfold putCtx
  repeat' first
    | with_reducible exact Kept.refl _ _
    | dsimp only
    | fail_if_no_progress ((with_reducible refine Kept.setYards ?_ ?e); (case e => rfl))

theorem putBench_kept {s : State} {b : Nat} {x : BenchSt} {pw : List Part} {s0 : State} (h : Kept pw s0 s) (hw : subParts [.yards] pw = true) :
    Kept pw s0 (putBench s b x) := by
  refine Kept.app h hw ?_
  unfold putBench
  repeat' first
    | with_reducible exact Kept.refl _ _
    | dsimp only
    | fail_if_no_progress ((with_reducible refine Kept.setYards ?_ ?e); (case e => rfl))

theorem releaseFrames_kept {s : State} {c : Cmd} {n : Nat} {pw : List Part} {s0 : State} (h : Kept pw s0 s) (hw : subParts [.yards] pw = true) :
    Kept pw s0 (releaseFrames s c n) := by
  refine Kept.app h hw ?_
  unfold releaseFrames
  repeat' first
    | with_reducible exact Kept.refl _ _
    | with_reducible refine Kept.ite ?_ ?_
    | ((with_reducible refine putBench_kept ?_ ?e); (case e => rfl))

theorem whenReached_kept {s : State} {addr : Nat} {act : State → State} {pw : List Part} {s0 : State} (h : Kept pw s0 s) (hw : subParts [.regs] pw = true)
    (hact : ∀ s , Kept pw s0 s → Kept pw s0 (act s)) :
    Kept pw s0 (whenReached s addr act) := by
  unfold whenReached
  repeat' first
    | with_reducible assumption
    | with_reducible refine Kept.ite ?_ ?_
    | ((with_reducible refine logErr_kept ?_ ?e); (case e => first | exact subParts_trans rfl hw | exact contains_of_sub rfl hw))
    | with_reducible refine hact _ ?_

theorem fnSet_kept {s : State} {i : Nat} {st : Nat} {status : Status} {pw : List Part} {s0 : State} (h : Kept pw s0 s) (hw : subParts [.regs] pw = true) :
    Kept pw s0 (fnSet s i st status) := by
  refine Kept.app h hw ?_
  unfold fnSet
  repeat' first
    | with_reducible exact Kept.refl _ _
    | with_reducible refine Kept.ite ?_ ?_
    | ((with_reducible refine wr_kept ?_ ?e); (case e => rfl))
    | ((with_reducible refine bumpSat_kept ?_ ?e); (case e => rfl))
    | dsimp only
    | split

end Sys2Proof.Machine
end

