-- ==== Sys2Proof/Laws/PortsKept.lean ====
section
/-! SUPPORT. What every operation of Machine/Ports.lean may change, as a law of Kept. -/

set_option linter.unreachableTactic false
set_option linter.unusedTactic false
set_option linter.unusedVariables false

namespace Sys2Proof.Machine

theorem putCore_kept {s : State} {n : Nat} {c : Core} {pw : List Part} {s0 : State} (h : Kept pw s0 s) (hw : subParts [.cores] pw = true) :
    Kept pw s0 (putCore s n c) := by
  refine Kept.app h hw ?_
  unfold putCore
  repeat' first
    | with_reducible exact Kept.refl _ _
    | fail_if_no_progress ((with_reducible refine Kept.setCores ?_ ?e); (case e => rfl))

theorem showCore_kept {s : State} {n : Nat} {pw : List Part} {s0 : State} (h : Kept pw s0 s) (hw : subParts [.regs] pw = true) :
    Kept pw s0 (showCore s n) := by
  refine Kept.app h hw ?_
  unfold showCore
  repeat' first
    | with_reducible exact Kept.refl _ _
    | ((with_reducible refine wr_kept ?_ ?e); (case e => rfl))

theorem coreEvent_kept {s : State} {n : Nat} {bit : Nat} {pw : List Part} {s0 : State} (h : Kept pw s0 s) (hw : subParts [.regs, .cores] pw = true) :
    Kept pw s0 (coreEvent s n bit) := by
  refine Kept.app h hw ?_
  unfold coreEvent
  repeat' first
    | with_reducible exact Kept.refl _ _
    | with_reducible refine Kept.ite ?_ ?_
    | ((with_reducible refine showCore_kept ?_ ?e); (case e => rfl))
    | ((with_reducible refine putCore_kept ?_ ?e); (case e => rfl))

theorem coreComplete_kept {s : State} {n : Nat} {port : Nat} {st : Status} {tag : Nat} {aux : Nat} {pw : List Part} {s0 : State} (h : Kept pw s0 s) (hw : subParts [.regs, .cores] pw = true) :
    Kept pw s0 (coreComplete s n port st tag aux) := by
  refine Kept.app h hw ?_
  unfold coreComplete
  repeat' first
    | with_reducible exact Kept.refl _ _
    | with_reducible refine Kept.ite ?_ ?_
    | ((with_reducible refine showCore_kept ?_ ?e); (case e => rfl))
    | ((with_reducible refine putCore_kept ?_ ?e); (case e => rfl))

theorem mboxDeliver_kept {s : State} {target : Nat} {sender : Nat} {bs : List Byte} {pw : List Part} {s0 : State} (h : Kept pw s0 s) (hw : subParts [.regs, .cores] pw = true) :
    OptKept pw s0 (mboxDeliver s target sender bs) := by
  suffices hh : OptKept [.regs, .cores] s (mboxDeliver s target sender bs) from fun t ht => Kept.app h hw (hh t ht)
  unfold mboxDeliver
  repeat' first
    | with_reducible refine OptKept.some ?_
    | with_reducible exact OptKept.none
    | with_reducible exact Kept.refl _ _
    | ((with_reducible refine showCore_kept ?_ ?e); (case e => rfl))
    | ((with_reducible refine putCore_kept ?_ ?e); (case e => rfl))
    | split

end Sys2Proof.Machine
end

