-- ==== Sys2Proof/Laws/StepQueueKept.lean ====
section
/-! SUPPORT. What every operation of Machine/StepQueue.lean may change, as a law of Kept. -/

set_option linter.unreachableTactic false
set_option linter.unusedTactic false
set_option linter.unusedVariables false

namespace Sys2Proof.Machine

theorem showFn_kept {s : State} {f : Nat} {pw : List Part} {s0 : State} (h : Kept pw s0 s) (hw : subParts [.regs] pw = true) :
    Kept pw s0 (showFn s f) := by
  refine Kept.app h hw ?_
  unfold showFn
  repeat' first
    | with_reducible exact Kept.refl _ _
    | ((with_reducible refine wr_kept ?_ ?e); (case e => rfl))

theorem completeStep_kept {s : State} {f : Nat} {q : Nat} {st : Status} {first : Nat} {sqIndex : Nat} {stepId : Nat} {assay : Nat} {endNs : Nat} {notify : Bool} {pw : List Part} {s0 : State} (h : Kept pw s0 s) (hw : subParts [.regs, .mem, .host, .work, .ten, .boot, .out] pw = true) :
    Kept pw s0 (completeStep s f q st first sqIndex stepId assay endNs notify) := by
  refine Kept.app h hw ?_
  unfold completeStep
  repeat' first
    | with_reducible exact Kept.refl _ _
    | with_reducible refine Kept.ite ?_ ?_
    | fail_if_no_progress ((with_reducible refine Kept.fst (by assumption) (spaceWrite_kept ?_ ?e)); (case e => rfl))
    | ((with_reducible refine putQ_kept ?_ ?e); (case e => rfl))
    | ((with_reducible refine raiseMsix_kept ?_ ?e); (case e => rfl))
    | dsimp only
    | split

theorem spaceOk_kept {s : State} {f : Nat} {host : Bool} {pasid : Nat} {a : Nat} {n : Nat} {pw : List Part} {s0 : State} (h : Kept pw s0 s) (hw : subParts [.regs, .mem, .ten, .boot, .out] pw = true) :
    Kept pw s0 (spaceOk s f host pasid a n).1 := by
  refine Kept.app h hw ?_
  unfold spaceOk
  repeat' first
    | with_reducible exact Kept.refl _ _
    | with_reducible refine Kept.ite_fst ?_ ?_
    | fail_if_no_progress ((with_reducible refine Kept.fst (by assumption) (translate_kept ?_ ?e)); (case e => rfl))
    | split

theorem openStep_kept {s : State} {f : Nat} {x : Queue} {pw : List Part} {s0 : State} (h : Kept pw s0 s) (hw : subParts [.regs, .mem, .ten, .boot, .out] pw = true) :
    Kept pw s0 (openStep s f x).1 := by
  refine Kept.app h hw ?_
  unfold openStep
  repeat' first
    | with_reducible exact Kept.refl _ _
    | fail_if_no_progress ((with_reducible refine Kept.fst (by assumption) (spaceRead_kept ?_ ?e)); (case e => rfl))
    | fail_if_no_progress ((with_reducible refine Kept.fst (by assumption) (spaceOk_kept ?_ ?e)); (case e => rfl))
    | dsimp only
    | split

theorem noteRadioEnd_kept {s : State} {c : Cmd} {pw : List Part} {s0 : State} (h : Kept pw s0 s) (hw : subParts [.yards] pw = true) :
    Kept pw s0 (noteRadioEnd s c) := by
  refine Kept.app h hw ?_
  unfold noteRadioEnd
  repeat' first
    | with_reducible exact Kept.refl _ _
    | with_reducible refine Kept.ite ?_ ?_
    | ((with_reducible refine putBench_kept ?_ ?e); (case e => rfl))
    | dsimp only
    | split

theorem endRadio_kept {s : State} {cid : Nat} {c : Cmd} {st : Status} {pw : List Part} {s0 : State} (h : Kept pw s0 s) (hw : subParts [.regs, .work, .yards, .cores] pw = true) :
    Kept pw s0 (endRadio s cid c st) := by
  refine Kept.app h hw ?_
  unfold endRadio
  repeat' first
    | with_reducible exact Kept.refl _ _
    | with_reducible refine Kept.ite ?_ ?_
    | ((with_reducible refine noteRadioEnd_kept ?_ ?e); (case e => rfl))
    | ((with_reducible refine dropCmd_kept ?_ ?e); (case e => rfl))
    | ((with_reducible refine coreComplete_kept ?_ ?e); (case e => rfl))
    | dsimp only
    | split

theorem finishOne_kept {s : State} {cid : Nat} {c : Cmd} {st : Status} {fault : Nat} {pw : List Part} {s0 : State} (h : Kept pw s0 s) (hw : subParts [.regs, .work, .yards, .cores] pw = true) :
    Kept pw s0 (finishOne s cid c st fault) := by
  refine Kept.app h hw ?_
  unfold finishOne
  repeat' first
    | with_reducible exact Kept.refl _ _
    | ((with_reducible refine releaseFrames_kept ?_ ?e); (case e => rfl))
    | ((with_reducible refine putCmd_kept ?_ ?e); (case e => rfl))
    | ((with_reducible refine endRadio_kept ?_ ?e); (case e => rfl))
    | ((with_reducible refine putStep_kept ?_ ?e); (case e => rfl))
    | dsimp only
    | split

theorem endMembers_kept {s : State} {key : Nat} {bank : Nat} {members : List Nat} {st : Status} {pw : List Part} {s0 : State} (h : Kept pw s0 s) (hw : subParts [.regs, .work, .yards, .cores] pw = true) :
    Kept pw s0 (endMembers s key bank members st) := by
  refine Kept.app h hw ?_
  unfold endMembers
  repeat' first
    | with_reducible assumption
    | with_reducible exact Kept.refl _ _
    | with_reducible refine Kept.ite ?_ ?_
    | ((with_reducible refine putCtx_kept ?_ ?e); (case e => rfl))
    | ((with_reducible refine finishOne_kept ?_ ?e); (case e => rfl))
    | with_reducible refine Kept.foldl ?_ ?_
    | split
    | intro _

theorem finish_kept {s : State} {cid : Nat} {c : Cmd} {st : Status} {fault : Nat} {pw : List Part} {s0 : State} (h : Kept pw s0 s) (hw : subParts [.regs, .work, .yards, .cores] pw = true) :
    Kept pw s0 (finish s cid c st fault) := by
  refine Kept.app h hw ?_
  unfold finish
  repeat' first
    | with_reducible exact Kept.refl _ _
    | with_reducible refine Kept.ite ?_ ?_
    | ((with_reducible refine finishOne_kept ?_ ?e); (case e => rfl))
    | ((with_reducible refine endMembers_kept ?_ ?e); (case e => rfl))

theorem addCmd_kept {s : State} {c : Cmd} {bad : Option (Status × Nat)} {pw : List Part} {s0 : State} (h : Kept pw s0 s) (hw : subParts [.regs, .work, .yards, .cores] pw = true) :
    Kept pw s0 (addCmd s c bad) := by
  refine Kept.app h hw ?_
  unfold addCmd
  repeat' first
    | with_reducible exact Kept.refl _ _
    | ((with_reducible refine putCmd_kept ?_ ?e); (case e => rfl))
    | ((with_reducible refine finish_kept ?_ ?e); (case e => rfl))
    | ((with_reducible refine putStep_kept ?_ ?e); (case e => rfl))
    | dsimp only
    | fail_if_no_progress ((with_reducible refine Kept.setWork ?_ ?e); (case e => rfl))
    | split

theorem readNext_kept {s : State} {f : Nat} {q : Nat} {x : StepSt} {pw : List Part} {s0 : State} (h : Kept pw s0 s) (hw : subParts [.regs, .mem, .work, .yards, .ten, .cores, .boot, .out] pw = true) :
    Kept pw s0 (readNext s f q x) := by
  refine Kept.app h hw ?_
  unfold readNext
  repeat' first
    | with_reducible exact Kept.refl _ _
    | with_reducible refine Kept.ite ?_ ?_
    | ((with_reducible refine addCmd_kept ?_ ?e); (case e => rfl))
    | ((with_reducible refine putStep_kept ?_ ?e); (case e => rfl))
    | fail_if_no_progress ((with_reducible refine Kept.fst (by assumption) (spaceRead_kept ?_ ?e)); (case e => rfl))
    | dsimp only
    | split

theorem settleChains_kept {s : State} {x : StepSt} {es : List (Nat × Cmd)} {pw : List Part} {s0 : State} (h : Kept pw s0 s) (hw : subParts [.regs, .work, .yards, .cores] pw = true) :
    Kept pw s0 (settleChains s x es) := by
  refine Kept.app h hw ?_
  unfold settleChains
  repeat' first
    | with_reducible assumption
    | with_reducible exact Kept.refl _ _
    | with_reducible refine Kept.ite ?_ ?_
    | ((with_reducible refine endMembers_kept ?_ ?e); (case e => rfl))
    | with_reducible refine Kept.foldl ?_ ?_
    | split
    | intro _

theorem dropStepCmds_kept {s : State} {f : Nat} {q : Nat} {pw : List Part} {s0 : State} (h : Kept pw s0 s) (hw : subParts [.work] pw = true) :
    Kept pw s0 (dropStepCmds s f q) := by
  refine Kept.app h hw ?_
  unfold dropStepCmds
  repeat' first
    | with_reducible exact Kept.refl _ _
    | ((with_reducible refine dropStep_kept ?_ ?e); (case e => rfl))
    | dsimp only
    | fail_if_no_progress ((with_reducible refine Kept.setWork ?_ ?e); (case e => rfl))

end Sys2Proof.Machine
end

