-- ==== Sys2Proof/Laws/IssueKept.lean ====
section
/-! SUPPORT. What every operation of Machine/Issue.lean may change, as a law of Kept. -/

set_option linter.unreachableTactic false
set_option linter.unusedTactic false
set_option linter.unusedVariables false

namespace Sys2Proof.Machine

theorem showBench_kept {s : State} {b : Nat} {pw : List Part} {s0 : State} (h : Kept pw s0 s) (hw : subParts [.regs] pw = true) :
    Kept pw s0 (showBench s b) := by
  refine Kept.app h hw ?_
  unfold showBench
  repeat' first
    | with_reducible exact Kept.refl _ _
    | ((with_reducible refine wr_kept ?_ ?e); (case e => rfl))

theorem yardStall_kept {s : State} {b : Nat} {pw : List Part} {s0 : State} (h : Kept pw s0 s) (hw : subParts [.regs, .free] pw = true) :
    Kept pw s0 (yardStall s b) := by
  refine Kept.app h hw ?_
  unfold yardStall
  repeat' first
    | with_reducible exact Kept.refl _ _
    | ((with_reducible refine bump_kept ?_ ?e); (case e => rfl))
    | ((with_reducible refine drawn_kept ?_ ?e); (case e => rfl))

theorem startCmd_kept {s : State} {cid : Nat} {c : Cmd} {run : State → Nat → Cmd → Ran} {pw : List Part} {s0 : State} (h : Kept pw s0 s) (hw : subParts [.regs, .work, .yards, .cores] pw = true)
    (hrun : ∀ s x0 x1, Kept pw s0 s → RanKept pw s0 (run s x0 x1)) :
    Kept pw s0 (startCmd s cid c run) := by
  unfold startCmd
  repeat' first
    | with_reducible assumption
    | with_reducible refine Kept.ite ?_ ?_
    | ((with_reducible refine putCmd_kept ?_ ?e); (case e => first | exact subParts_trans rfl hw | exact contains_of_sub rfl hw))
    | ((with_reducible refine showBench_kept ?_ ?e); (case e => first | exact subParts_trans rfl hw | exact contains_of_sub rfl hw))
    | ((with_reducible refine finish_kept ?_ ?e); (case e => first | exact subParts_trans rfl hw | exact contains_of_sub rfl hw))
    | dsimp only
    | split
    | with_reducible refine Kept.of_wait (by assumption) (hrun _ _ _ ?_)
    | with_reducible refine Kept.of_fail (by assumption) (hrun _ _ _ ?_)
    | with_reducible refine Kept.of_ok (by assumption) (hrun _ _ _ ?_)

theorem issueBench_kept {s : State} {cid : Nat} {kind : Cmd → Bool} {plan : State → Cmd → State × Except (Status × Nat) Cmd} {free : State → Cmd → Bool} {run : State → Nat → Cmd → Ran} {pw : List Part} {s0 : State} (h : Kept pw s0 s) (hw : subParts [.regs, .work, .yards, .cores] pw = true)
    (hplan : ∀ s x0, Kept pw s0 s → Kept pw s0 (plan s x0).1) (hrun : ∀ s x0 x1, Kept pw s0 s → RanKept pw s0 (run s x0 x1)) :
    Kept pw s0 (issueBench s cid kind plan free run) := by
  unfold issueBench
  repeat' first
    | with_reducible assumption
    | with_reducible refine Kept.ite ?_ ?_
    | ((with_reducible refine startCmd_kept ?_ ?e ?_); (case e => first | exact subParts_trans rfl hw | exact contains_of_sub rfl hw))
    | ((with_reducible refine finish_kept ?_ ?e); (case e => first | exact subParts_trans rfl hw | exact contains_of_sub rfl hw))
    | dsimp only
    | fail_if_no_progress ((with_reducible refine Kept.setWork ?_ ?e); (case e => first | exact subParts_trans rfl hw | exact contains_of_sub rfl hw))
    | split
    | with_reducible refine Kept.fst (by assumption) (hplan _ _ ?_)

theorem killCmd_kept {s : State} {cid : Nat} {c : Cmd} {pw : List Part} {s0 : State} (h : Kept pw s0 s) (hw : subParts [.regs, .mem, .work, .yards, .fab] pw = true) :
    Kept pw s0 (killCmd s cid c) := by
  refine Kept.app h hw ?_
  unfold killCmd
  repeat' first
    | with_reducible exact Kept.refl _ _
    | with_reducible refine Kept.ite ?_ ?_
    | ((with_reducible refine putCtx_kept ?_ ?e); (case e => rfl))
    | ((with_reducible refine refundDram_kept ?_ ?e); (case e => rfl))
    | ((with_reducible refine releaseFrames_kept ?_ ?e); (case e => rfl))
    | ((with_reducible refine putCmd_kept ?_ ?e); (case e => rfl))
    | dsimp only
    | fail_if_no_progress ((with_reducible refine Kept.setFab ?_ ?e); (case e => rfl))

theorem killAll_kept {s : State} {b : Nat} {cs : List (Nat × Cmd)} {pw : List Part} {s0 : State} (h : Kept pw s0 s) (hw : subParts [.regs, .mem, .work, .yards, .fab] pw = true) :
    Kept pw s0 (killAll s b cs) := by
  refine Kept.app h hw ?_
  unfold killAll
  repeat' first
    | with_reducible assumption
    | with_reducible exact Kept.refl _ _
    | ((with_reducible refine bump_kept ?_ ?e); (case e => rfl))
    | ((with_reducible refine killCmd_kept ?_ ?e); (case e => rfl))
    | with_reducible refine Kept.foldl ?_ ?_
    | intro _

end Sys2Proof.Machine
end

