-- ==== Sys2Proof/Laws/SlotKept.lean ====
section
/-! SUPPORT. What every operation of Machine/Slot.lean may change, as a law of Kept. -/

set_option linter.unreachableTactic false
set_option linter.unusedTactic false
set_option linter.unusedVariables false

namespace Sys2Proof.Machine

theorem dramReplace_kept {s : State} {pa : Nat} {n : Nat} {bytes : SMap Byte} {pw : List Part} {s0 : State} (h : Kept pw s0 s) (hw : subParts [.mem, .ten] pw = true) :
    Kept pw s0 (dramReplace s pa n bytes) := by
  refine Kept.app h hw ?_
  unfold dramReplace
  repeat' first
    | with_reducible assumption
    | with_reducible exact Kept.refl _ _
    | ((with_reducible refine markRegion_kept ?_ ?e); (case e => rfl))
    | with_reducible refine Kept.foldl ?_ ?_
    | dsimp only
    | fail_if_no_progress ((with_reducible refine Kept.setMem ?_ ?e ?i); (case e => rfl); (case i => first | with_reducible exact id | with_reducible exact fun h => memPutBytes_wf h | with_reducible exact fun h => memStore_wf h | with_reducible exact fun h => rekeyLine_wf h | with_reducible exact fun h => memClearLot_wf h | with_reducible exact fun h => mapPuts_wf (filter_wf h) | exact fun _ => rfl))
    | intro _

theorem writeSlot_kept {s : State} {f : Nat} {c : Nat} {x : Ctx} {pw : List Part} {s0 : State} (h : Kept pw s0 s) (hw : subParts [.mem, .ten] pw = true) :
    Kept pw s0 (writeSlot s f c x) := by
  refine Kept.app h hw ?_
  unfold writeSlot
  repeat' first
    | with_reducible assumption
    | with_reducible exact Kept.refl _ _
    | ((with_reducible refine dramReplace_kept ?_ ?e); (case e => rfl))
    | with_reducible refine Kept.foldl ?_ ?_
    | intro _

theorem readSlot_kept {s : State} {f : Nat} {c : Nat} {pw : List Part} {s0 : State} (h : Kept pw s0 s) (hw : subParts [.regs, .mem, .ten, .boot, .out] pw = true) :
    Kept pw s0 (readSlot s f c).1 := by
  refine Kept.app h hw ?_
  unfold readSlot
  repeat' first
    | with_reducible exact Kept.refl _ _
    | with_reducible refine Kept.ite_fst ?_ ?_
    | ((with_reducible refine senseRuns_kept ?_ ?e); (case e => rfl))
    | fail_if_no_progress ((with_reducible refine Kept.fst (by assumption) (senseRuns_kept ?_ ?e)); (case e => rfl))
    | ((with_reducible refine faultRecord_kept ?_ ?e); (case e => rfl))
    | dsimp only
    | split

end Sys2Proof.Machine
end

