-- ==== Sys2Proof/Laws/BanksmanKept.lean ====
section
/-! SUPPORT. What every operation of Machine/Banksman.lean may change, as a law of Kept. -/

set_option linter.unreachableTactic false
set_option linter.unusedTactic false
set_option linter.unusedVariables false

namespace Sys2Proof.Machine

theorem showPart_kept {s : State} {f : Nat} {pw : List Part} {s0 : State} (h : Kept pw s0 s) (hw : subParts [.regs] pw = true) :
    Kept pw s0 (showPart s f) := by
  refine Kept.app h hw ?_
  unfold showPart
  repeat' first
    | with_reducible exact Kept.refl _ _
    | ((with_reducible refine wr_kept ?_ ?e); (case e => rfl))

theorem showParts_kept {s : State} {pw : List Part} {s0 : State} (h : Kept pw s0 s) (hw : subParts [.regs] pw = true) :
    Kept pw s0 (showParts s) := by
  refine Kept.app h hw ?_
  unfold showParts
  repeat' first
    | with_reducible assumption
    | with_reducible exact Kept.refl _ _
    | ((with_reducible refine showPart_kept ?_ ?e); (case e => rfl))
    | with_reducible refine Kept.foldl ?_ ?_
    | intro _

theorem showFloor_kept {s : State} {b : Nat} {pw : List Part} {s0 : State} (h : Kept pw s0 s) (hw : subParts [.regs] pw = true) :
    Kept pw s0 (showFloor s b) := by
  refine Kept.app h hw ?_
  unfold showFloor
  repeat' first
    | with_reducible exact Kept.refl _ _
    | ((with_reducible refine wr_kept ?_ ?e); (case e => rfl))

theorem refreshWaits_kept {s : State} {pw : List Part} {s0 : State} (h : Kept pw s0 s) (hw : subParts [.regs, .yards] pw = true) :
    Kept pw s0 (refreshWaits s) := by
  refine Kept.app h hw ?_
  unfold refreshWaits
  repeat' first
    | with_reducible assumption
    | with_reducible exact Kept.refl _ _
    | with_reducible refine Kept.ite ?_ ?_
    | ((with_reducible refine putCtx_kept ?_ ?e); (case e => rfl))
    | ((with_reducible refine raiseTo_kept ?_ ?e); (case e => rfl))
    | ((with_reducible refine showParts_kept ?_ ?e); (case e => rfl))
    | with_reducible refine Kept.foldl ?_ ?_
    | dsimp only
    | split
    | intro _

theorem accrueBenches_kept {s : State} {d : Nat} {pw : List Part} {s0 : State} (h : Kept pw s0 s) (hw : subParts [.regs, .yards] pw = true) :
    Kept pw s0 (accrueBenches s d) := by
  refine Kept.app h hw ?_
  unfold accrueBenches
  repeat' first
    | with_reducible assumption
    | with_reducible exact Kept.refl _ _
    | ((with_reducible refine bump_kept ?_ ?e); (case e => rfl))
    | with_reducible refine Kept.foldl ?_ ?_
    | dsimp only
    | fail_if_no_progress ((with_reducible refine Kept.setYards ?_ ?e); (case e => rfl))
    | intro _

theorem sweepDone_kept {s : State} {pw : List Part} {s0 : State} (h : Kept pw s0 s) (hw : subParts [.regs] pw = true) :
    Kept pw s0 (sweepDone s) := by
  refine Kept.app h hw ?_
  unfold sweepDone
  repeat' first
    | with_reducible exact Kept.refl _ _
    | with_reducible refine Kept.ite ?_ ?_
    | ((with_reducible refine wr_kept ?_ ?e); (case e => rfl))

theorem stopProving_kept {s : State} {b : Nat} {pw : List Part} {s0 : State} (h : Kept pw s0 s) (hw : subParts [.regs, .health] pw = true) :
    Kept pw s0 (stopProving s b) := by
  refine Kept.app h hw ?_
  unfold stopProving
  repeat' first
    | with_reducible exact Kept.refl _ _
    | with_reducible refine Kept.ite ?_ ?_
    | ((with_reducible refine sweepDone_kept ?_ ?e); (case e => rfl))
    | ((with_reducible refine wr_kept ?_ ?e); (case e => rfl))
    | dsimp only
    | fail_if_no_progress ((with_reducible refine Kept.setHealth ?_ ?e); (case e => rfl))
    | split

theorem startSwitch_kept {s : State} {b : Nat} {next : Option Nat} {starve : Bool} {pw : List Part} {s0 : State} (h : Kept pw s0 s) (hw : subParts [.regs, .yards, .health] pw = true) :
    Kept pw s0 (startSwitch s b next starve) := by
  refine Kept.app h hw ?_
  unfold startSwitch
  repeat' first
    | with_reducible exact Kept.refl _ _
    | with_reducible refine Kept.ite ?_ ?_
    | ((with_reducible refine putBench_kept ?_ ?e); (case e => rfl))
    | ((with_reducible refine stopProving_kept ?_ ?e); (case e => rfl))
    | ((with_reducible refine wr_kept ?_ ?e); (case e => rfl))

theorem killCtx_kept {s : State} {b : Nat} {key : Nat} {all : Bool} {pw : List Part} {s0 : State} (h : Kept pw s0 s) (hw : subParts [.regs, .mem, .work, .yards, .fab] pw = true) :
    Kept pw s0 (killCtx s b key all).1 := by
  refine Kept.app h hw ?_
  unfold killCtx
  repeat' first
    | with_reducible exact Kept.refl _ _
    | ((with_reducible refine killAll_kept ?_ ?e); (case e => rfl))

theorem saveOut_kept {s : State} {b : Nat} {key : Nat} {pw : List Part} {s0 : State} (h : Kept pw s0 s) (hw : subParts [.regs, .mem, .yards, .ten] pw = true) :
    Kept pw s0 (saveOut s b key) := by
  refine Kept.app h hw ?_
  unfold saveOut
  repeat' first
    | with_reducible exact Kept.refl _ _
    | ((with_reducible refine writeSlot_kept ?_ ?e); (case e => rfl))
    | ((with_reducible refine putCtx_kept ?_ ?e); (case e => rfl))
    | ((with_reducible refine putBench_kept ?_ ?e); (case e => rfl))
    | ((with_reducible refine showBench_kept ?_ ?e); (case e => rfl))
    | ((with_reducible refine wr_kept ?_ ?e); (case e => rfl))

theorem countSwitch_kept {s : State} {w : Switch} {pw : List Part} {s0 : State} (h : Kept pw s0 s) (hw : subParts [.regs, .yards] pw = true) :
    Kept pw s0 (countSwitch s w) := by
  refine Kept.app h hw ?_
  unfold countSwitch
  repeat' first
    | with_reducible exact Kept.refl _ _
    | with_reducible refine Kept.ite ?_ ?_
    | ((with_reducible refine bump_kept ?_ ?e); (case e => rfl))
    | ((with_reducible refine wr_kept ?_ ?e); (case e => rfl))
    | dsimp only
    | fail_if_no_progress ((with_reducible refine Kept.setYards ?_ ?e); (case e => rfl))

theorem failCtx_kept {s : State} {key : Nat} {pw : List Part} {s0 : State} (h : Kept pw s0 s) (hw : subParts [.regs, .work, .yards, .cores] pw = true) :
    Kept pw s0 (failCtx s key) := by
  refine Kept.app h hw ?_
  unfold failCtx
  repeat' first
    | with_reducible assumption
    | with_reducible exact Kept.refl _ _
    | ((with_reducible refine finish_kept ?_ ?e); (case e => rfl))
    | with_reducible refine Kept.foldl ?_ ?_
    | intro _

theorem placeCtx_kept {s : State} {b : Nat} {key : Nat} {starve : Bool} {pw : List Part} {s0 : State} (h : Kept pw s0 s) (hw : subParts [.regs, .mem, .work, .yards, .ten, .cores, .boot, .out] pw = true) :
    Kept pw s0 (placeCtx s b key starve) := by
  refine Kept.app h hw ?_
  unfold placeCtx
  repeat' first
    | with_reducible exact Kept.refl _ _
    | with_reducible refine Kept.ite ?_ ?_
    | fail_if_no_progress ((with_reducible refine Kept.fst (by assumption) (readSlot_kept ?_ ?e)); (case e => rfl))
    | ((with_reducible refine failCtx_kept ?_ ?e); (case e => rfl))
    | ((with_reducible refine bumpSat_kept ?_ ?e); (case e => rfl))
    | ((with_reducible refine putCtx_kept ?_ ?e); (case e => rfl))
    | ((with_reducible refine putBench_kept ?_ ?e); (case e => rfl))
    | ((with_reducible refine showBench_kept ?_ ?e); (case e => rfl))
    | ((with_reducible refine wr_kept ?_ ?e); (case e => rfl))
    | dsimp only
    | split

theorem abandonSwitch_kept {s : State} {b : Nat} {pw : List Part} {s0 : State} (h : Kept pw s0 s) (hw : subParts [.regs, .yards] pw = true) :
    Kept pw s0 (abandonSwitch s b) := by
  refine Kept.app h hw ?_
  unfold abandonSwitch
  repeat' first
    | with_reducible exact Kept.refl _ _
    | ((with_reducible refine wr_kept ?_ ?e); (case e => rfl))
    | ((with_reducible refine putBench_kept ?_ ?e); (case e => rfl))

theorem wedgeKill_kept {s : State} {b : Nat} {hold : FloorHold} {pw : List Part} {s0 : State} (h : Kept pw s0 s) (hw : subParts [.regs, .mem, .work, .yards, .fab, .health] pw = true) :
    Kept pw s0 (wedgeKill s b hold) := by
  refine Kept.app h hw ?_
  unfold wedgeKill
  repeat' first
    | with_reducible exact Kept.refl _ _
    | ((with_reducible refine abandonSwitch_kept ?_ ?e); (case e => rfl))
    | ((with_reducible refine killCtx_kept ?_ ?e); (case e => rfl))
    | ((with_reducible refine bump_kept ?_ ?e); (case e => rfl))
    | ((with_reducible refine putCtx_kept ?_ ?e); (case e => rfl))
    | ((with_reducible refine showBench_kept ?_ ?e); (case e => rfl))
    | ((with_reducible refine putBench_kept ?_ ?e); (case e => rfl))
    | ((with_reducible refine stopProving_kept ?_ ?e); (case e => rfl))
    | dsimp only
    | split

theorem reserveBench_kept {s : State} {b : Nat} {c : Chosen} {pw : List Part} {s0 : State} (h : Kept pw s0 s) (hw : subParts [.regs, .mem, .work, .yards, .fab, .health] pw = true) :
    Kept pw s0 (reserveBench s b c) := by
  refine Kept.app h hw ?_
  unfold reserveBench
  repeat' first
    | with_reducible exact Kept.refl _ _
    | ((with_reducible refine wedgeKill_kept ?_ ?e); (case e => rfl))
    | split

theorem unchoose_kept {s : State} {b : Nat} {c : Chosen} {pw : List Part} {s0 : State} (h : Kept pw s0 s) (hw : subParts [.yards] pw = true) :
    Kept pw s0 (unchoose s b c) := by
  refine Kept.app h hw ?_
  unfold unchoose
  repeat' first
    | with_reducible exact Kept.refl _ _
    | ((with_reducible refine putBench_kept ?_ ?e); (case e => rfl))

theorem saveForDark_kept {s : State} {b : Nat} {pw : List Part} {s0 : State} (h : Kept pw s0 s) (hw : subParts [.regs, .yards, .health] pw = true) :
    Kept pw s0 (saveForDark s b) := by
  refine Kept.app h hw ?_
  unfold saveForDark
  repeat' first
    | with_reducible exact Kept.refl _ _
    | ((with_reducible refine startSwitch_kept ?_ ?e); (case e => rfl))
    | ((with_reducible refine wr_kept ?_ ?e); (case e => rfl))
    | ((with_reducible refine putBench_kept ?_ ?e); (case e => rfl))
    | dsimp only
    | split

theorem capBenches_kept {s : State} {pw : List Part} {s0 : State} (h : Kept pw s0 s) (hw : subParts [.regs, .yards, .health] pw = true) :
    Kept pw s0 (capBenches s) := by
  refine Kept.app h hw ?_
  unfold capBenches
  repeat' first
    | with_reducible assumption
    | with_reducible exact Kept.refl _ _
    | ((with_reducible refine startSwitch_kept ?_ ?e); (case e => rfl))
    | with_reducible refine Kept.foldl ?_ ?_
    | intro _

theorem trimPart_kept {s : State} {f : Nat} {pw : List Part} {s0 : State} (h : Kept pw s0 s) (hw : subParts [.regs, .yards, .health] pw = true) :
    Kept pw s0 (trimPart s f) := by
  refine Kept.app h hw ?_
  unfold trimPart
  repeat' first
    | with_reducible assumption
    | with_reducible exact Kept.refl _ _
    | ((with_reducible refine startSwitch_kept ?_ ?e); (case e => rfl))
    | with_reducible refine Kept.foldl ?_ ?_
    | intro _

end Sys2Proof.Machine
end

