-- ==== Sys2Proof/Laws/RoutesKept.lean ====
section
/-! SUPPORT. What every operation of Machine/Routes.lean may change, as a law of Kept. -/

set_option linter.unreachableTactic false
set_option linter.unusedTactic false
set_option linter.unusedVariables false

namespace Sys2Proof.Machine

theorem putLink_kept {s : State} {p : Nat} {l : PortLink} {pw : List Part} {s0 : State} (h : Kept pw s0 s) (hw : subParts [.fab] pw = true) :
    Kept pw s0 (putLink s p l) := by
  refine Kept.app h hw ?_
  unfold putLink
  repeat' first
    | with_reducible exact Kept.refl _ _
    | dsimp only
    | fail_if_no_progress ((with_reducible refine Kept.setFab ?_ ?e); (case e => rfl))

theorem sendIdle_kept {s : State} {p : Nat} {nak : Bool} {pw : List Part} {s0 : State} (h : Kept pw s0 s) (hw : subParts [.out] pw = true) :
    Kept pw s0 (sendIdle s p nak) := by
  refine Kept.app h hw ?_
  unfold sendIdle
  repeat' first
    | with_reducible exact Kept.refl _ _
    | ((with_reducible refine emit_kept ?_ ?e); (case e => rfl))

theorem sendData_kept {s : State} {p : Nat} {f : Nat × List Byte} {pw : List Part} {s0 : State} (h : Kept pw s0 s) (hw : subParts [.out] pw = true) :
    Kept pw s0 (sendData s p f) := by
  refine Kept.app h hw ?_
  unfold sendData
  repeat' first
    | with_reducible exact Kept.refl _ _
    | ((with_reducible refine emit_kept ?_ ?e); (case e => rfl))

theorem pushFlit_kept {s : State} {p : Nat} {payload : List Byte} {pw : List Part} {s0 : State} (h : Kept pw s0 s) (hw : subParts [.fab, .out] pw = true) :
    Kept pw s0 (pushFlit s p payload) := by
  refine Kept.app h hw ?_
  unfold pushFlit
  repeat' first
    | with_reducible exact Kept.refl _ _
    | ((with_reducible refine sendData_kept ?_ ?e); (case e => rfl))
    | ((with_reducible refine putLink_kept ?_ ?e); (case e => rfl))

theorem putStream_kept {s : State} {p : Nat} {bs : List Byte} {pw : List Part} {s0 : State} (h : Kept pw s0 s) (hw : subParts [.fab, .out] pw = true) :
    Kept pw s0 (putStream s p bs) := by
  refine Kept.app h hw ?_
  unfold putStream
  repeat' first
    | with_reducible assumption
    | with_reducible exact Kept.refl _ _
    | ((with_reducible refine pushFlit_kept ?_ ?e); (case e => rfl))
    | ((with_reducible refine putLink_kept ?_ ?e); (case e => rfl))
    | with_reducible refine Kept.foldl ?_ ?_
    | intro _

theorem flushPort_kept {s : State} {p : Nat} {pw : List Part} {s0 : State} (h : Kept pw s0 s) (hw : subParts [.fab, .out] pw = true) :
    Kept pw s0 (flushPort s p) := by
  refine Kept.app h hw ?_
  unfold flushPort
  repeat' first
    | with_reducible exact Kept.refl _ _
    | with_reducible refine Kept.ite ?_ ?_
    | ((with_reducible refine sendIdle_kept ?_ ?e); (case e => rfl))
    | ((with_reducible refine pushFlit_kept ?_ ?e); (case e => rfl))
    | ((with_reducible refine putLink_kept ?_ ?e); (case e => rfl))

theorem idlePorts_kept {s : State} {pw : List Part} {s0 : State} (h : Kept pw s0 s) (hw : subParts [.fab, .out] pw = true) :
    Kept pw s0 (idlePorts s) := by
  refine Kept.app h hw ?_
  unfold idlePorts
  repeat' first
    | with_reducible assumption
    | with_reducible exact Kept.refl _ _
    | ((with_reducible refine flushPort_kept ?_ ?e); (case e => rfl))
    | with_reducible refine Kept.foldl ?_ ?_
    | intro _

theorem putFlits_kept {s : State} {p : Nat} {m : Msg} {pw : List Part} {s0 : State} (h : Kept pw s0 s) (hw : subParts [.fab, .out] pw = true) :
    Kept pw s0 (putFlits s p m) := by
  refine Kept.app h hw ?_
  unfold putFlits
  repeat' first
    | with_reducible exact Kept.refl _ _
    | ((with_reducible refine putStream_kept ?_ ?e); (case e => rfl))
    | ((with_reducible refine putLink_kept ?_ ?e); (case e => rfl))

theorem leave_kept {s : State} {p : Nat} {m : Msg} {coll : Option CollMsg} {rides : Bool} {pw : List Part} {s0 : State} (h : Kept pw s0 s) (hw : subParts [.fab, .out] pw = true) :
    Kept pw s0 (leave s p m coll rides) := by
  refine Kept.app h hw ?_
  unfold leave
  repeat' first
    | with_reducible exact Kept.refl _ _
    | with_reducible refine Kept.ite ?_ ?_
    | ((with_reducible refine emit_kept ?_ ?e); (case e => rfl))
    | ((with_reducible refine putFlits_kept ?_ ?e); (case e => rfl))
    | split

theorem queueOut_kept {s : State} {p : Nat} {m : Msg} {coll : Option CollMsg} {rides : Bool} {pw : List Part} {s0 : State} (h : Kept pw s0 s) (hw : subParts [.regs, .fab, .out, .free] pw = true) :
    Kept pw s0 (queueOut s p m coll rides).1 := by
  refine Kept.app h hw ?_
  unfold queueOut
  repeat' first
    | with_reducible exact Kept.refl _ _
    | with_reducible refine Kept.ite_fst ?_ ?_
    | ((with_reducible refine drawn_kept ?_ ?e); (case e => rfl))
    | ((with_reducible refine bump_kept ?_ ?e); (case e => rfl))
    | ((with_reducible refine leave_kept ?_ ?e); (case e => rfl))

theorem discardMsg_kept {s : State} {m : Msg} {pw : List Part} {s0 : State} (h : Kept pw s0 s) (hw : subParts [.regs] pw = true) :
    Kept pw s0 (discardMsg s m) := by
  refine Kept.app h hw ?_
  unfold discardMsg
  repeat' first
    | with_reducible exact Kept.refl _ _
    | with_reducible refine Kept.ite ?_ ?_
    | ((with_reducible refine bump_kept ?_ ?e); (case e => rfl))

theorem forwardMsg_kept {s : State} {m : Msg} {coll : Option CollMsg} {pw : List Part} {s0 : State} (h : Kept pw s0 s) (hw : subParts [.regs, .fab, .out, .free] pw = true) :
    Kept pw s0 (forwardMsg s m coll) := by
  refine Kept.app h hw ?_
  unfold forwardMsg
  repeat' first
    | with_reducible exact Kept.refl _ _
    | ((with_reducible refine discardMsg_kept ?_ ?e); (case e => rfl))
    | ((with_reducible refine queueOut_kept ?_ ?e); (case e => rfl))
    | split

theorem arriving_kept {s : State} {m : Msg} {act : State → State} {pw : List Part} {s0 : State} (h : Kept pw s0 s) (hw : subParts [.out] pw = true)
    (hact : ∀ s , Kept pw s0 s → Kept pw s0 (act s)) :
    Kept pw s0 (arriving s m act) := by
  unfold arriving
  repeat' first
    | with_reducible assumption
    | with_reducible refine Kept.ite ?_ ?_
    | ((with_reducible refine emit_kept ?_ ?e); (case e => first | exact subParts_trans rfl hw | exact contains_of_sub rfl hw))
    | with_reducible refine hact _ ?_

end Sys2Proof.Machine
end

