-- ==== Sys2Proof/Laws/FabricCoreKept.lean ====
section
/-! SUPPORT. What every operation of Machine/FabricCore.lean may change, as a law of Kept. -/

set_option linter.unreachableTactic false
set_option linter.unusedTactic false
set_option linter.unusedVariables false

namespace Sys2Proof.Machine

theorem putUn_kept {s : State} {mid : Nat} {u : Unacked} {pw : List Part} {s0 : State} (h : Kept pw s0 s) (hw : subParts [.fab] pw = true) :
    Kept pw s0 (putUn s mid u) := by
  refine Kept.app h hw ?_
  unfold putUn
  repeat' first
    | with_reducible exact Kept.refl _ _
    | dsimp only
    | fail_if_no_progress ((with_reducible refine Kept.setFab ?_ ?e); (case e => rfl))

theorem dropUn_kept {s : State} {mid : Nat} {pw : List Part} {s0 : State} (h : Kept pw s0 s) (hw : subParts [.fab] pw = true) :
    Kept pw s0 (dropUn s mid) := by
  refine Kept.app h hw ?_
  unfold dropUn
  repeat' first
    | with_reducible exact Kept.refl _ _
    | dsimp only
    | fail_if_no_progress ((with_reducible refine Kept.setFab ?_ ?e); (case e => rfl))

theorem meter_kept {s : State} {m : Msg} {pw : List Part} {s0 : State} (h : Kept pw s0 s) (hw : subParts [.regs, .fab] pw = true) :
    Kept pw s0 (meter s m).1 := by
  refine Kept.app h hw ?_
  unfold meter
  repeat' first
    | with_reducible exact Kept.refl _ _
    | ((with_reducible refine bump_kept ?_ ?e); (case e => rfl))
    | dsimp only
    | fail_if_no_progress ((with_reducible refine Kept.setFab ?_ ?e); (case e => rfl))
    | split

theorem depart_kept {s : State} {mid : Nat} {u : Unacked} {pw : List Part} {s0 : State} (h : Kept pw s0 s) (hw : subParts [.regs, .fab, .out, .free] pw = true) :
    Kept pw s0 (depart s mid u) := by
  refine Kept.app h hw ?_
  unfold depart
  repeat' first
    | with_reducible exact Kept.refl _ _
    | with_reducible refine Kept.ite ?_ ?_
    | with_reducible refine Kept.ite_fst ?_ ?_
    | ((with_reducible refine putUn_kept ?_ ?e); (case e => rfl))
    | ((with_reducible refine meter_kept ?_ ?e); (case e => rfl))
    | ((with_reducible refine queueOut_kept ?_ ?e); (case e => rfl))
    | dsimp only
    | split

theorem launch_kept {s : State} {mid : Nat} {pw : List Part} {s0 : State} (h : Kept pw s0 s) (hw : subParts [.regs, .fab, .out, .free] pw = true) :
    Kept pw s0 (launch s mid) := by
  refine Kept.app h hw ?_
  unfold launch
  repeat' first
    | with_reducible exact Kept.refl _ _
    | with_reducible refine Kept.ite ?_ ?_
    | ((with_reducible refine depart_kept ?_ ?e); (case e => rfl))
    | dsimp only
    | fail_if_no_progress ((with_reducible refine Kept.setFab ?_ ?e); (case e => rfl))
    | split

theorem launchReady_kept {s : State} {pw : List Part} {s0 : State} (h : Kept pw s0 s) (hw : subParts [.regs, .fab, .out, .free] pw = true) :
    Kept pw s0 (launchReady s) := by
  refine Kept.app h hw ?_
  unfold launchReady
  repeat' first
    | with_reducible assumption
    | with_reducible exact Kept.refl _ _
    | ((with_reducible refine launch_kept ?_ ?e); (case e => rfl))
    | with_reducible refine Kept.foldl ?_ ?_
    | split
    | intro _

theorem resend_kept {s : State} {mid : Nat} {u : Unacked} {late : Bool} {pw : List Part} {s0 : State} (h : Kept pw s0 s) (hw : subParts [.regs, .fab, .out, .free] pw = true) :
    Kept pw s0 (resend s mid u late) := by
  refine Kept.app h hw ?_
  unfold resend
  repeat' first
    | with_reducible exact Kept.refl _ _
    | with_reducible refine Kept.ite ?_ ?_
    | ((with_reducible refine depart_kept ?_ ?e); (case e => rfl))
    | ((with_reducible refine bump_kept ?_ ?e); (case e => rfl))
    | dsimp only
    | split

theorem failover_kept {s : State} {pw : List Part} {s0 : State} (h : Kept pw s0 s) (hw : subParts [.regs, .fab, .out, .free] pw = true) :
    Kept pw s0 (failover s) := by
  refine Kept.app h hw ?_
  unfold failover
  repeat' first
    | with_reducible assumption
    | with_reducible exact Kept.refl _ _
    | ((with_reducible refine resend_kept ?_ ?e); (case e => rfl))
    | with_reducible refine Kept.foldl ?_ ?_
    | split
    | intro _

theorem fenceNote_kept {s : State} {mid : Nat} {st : Status} {pw : List Part} {s0 : State} (h : Kept pw s0 s) (hw : subParts [.fab] pw = true) :
    Kept pw s0 (fenceNote s mid st) := by
  refine Kept.app h hw ?_
  unfold fenceNote
  repeat' first
    | with_reducible exact Kept.refl _ _
    | with_reducible refine Kept.ite ?_ ?_
    | dsimp only
    | fail_if_no_progress ((with_reducible refine Kept.setFab ?_ ?e); (case e => rfl))

theorem noteFailure_kept {s : State} {mid : Nat} {u : Unacked} {st : Status} {pw : List Part} {s0 : State} (h : Kept pw s0 s) (hw : subParts [.regs, .fab] pw = true) :
    Kept pw s0 (noteFailure s mid u st) := by
  refine Kept.app h hw ?_
  unfold noteFailure
  repeat' first
    | with_reducible exact Kept.refl _ _
    | with_reducible refine Kept.ite ?_ ?_
    | ((with_reducible refine fenceNote_kept ?_ ?e); (case e => rfl))
    | ((with_reducible refine logErr_kept ?_ ?e); (case e => rfl))

theorem atomicDone_kept {s : State} {cid : Nat} {st : Status} {value : Nat} {sizeB : Nat} {pw : List Part} {s0 : State} (h : Kept pw s0 s) (hw : subParts [.regs, .mem, .work, .yards, .ten, .cores, .boot, .out] pw = true) :
    Kept pw s0 (atomicDone s cid st value sizeB) := by
  refine Kept.app h hw ?_
  unfold atomicDone
  repeat' first
    | with_reducible exact Kept.refl _ _
    | with_reducible refine Kept.ite ?_ ?_
    | with_reducible refine Kept.ite_fst ?_ ?_
    | fail_if_no_progress ((with_reducible refine Kept.fst (by assumption) (translate_kept ?_ ?e)); (case e => rfl))
    | fail_if_no_progress ((with_reducible refine Kept.fst (by assumption) (writeRuns_kept ?_ ?e)); (case e => rfl))
    | ((with_reducible refine tallyInc_kept ?_ ?e); (case e => rfl))
    | ((with_reducible refine applySignals_kept ?_ ?e); (case e => rfl))
    | ((with_reducible refine finish_kept ?_ ?e); (case e => rfl))
    | dsimp only
    | split

theorem getReady_kept {s : State} {cid : Nat} {c : Cmd} {pw : List Part} {s0 : State} (h : Kept pw s0 s) (hw : subParts [.work] pw = true) :
    Kept pw s0 (getReady s cid c) := by
  refine Kept.app h hw ?_
  unfold getReady
  repeat' first
    | with_reducible exact Kept.refl _ _
    | with_reducible refine Kept.ite ?_ ?_
    | ((with_reducible refine putCmd_kept ?_ ?e); (case e => rfl))

theorem settleOne_kept {s : State} {mid : Nat} {st : Status} {acked : Bool} {pw : List Part} {s0 : State} (h : Kept pw s0 s) (hw : subParts [.regs, .mem, .work, .yards, .fab, .crush, .ten, .cores, .boot, .out, .free] pw = true) :
    Kept pw s0 (settleOne s mid st acked) := by
  refine Kept.app h hw ?_
  unfold settleOne
  repeat' first
    | with_reducible assumption
    | with_reducible exact Kept.refl _ _
    | with_reducible refine Kept.ite ?_ ?_
    | ((with_reducible refine dropUn_kept ?_ ?e); (case e => rfl))
    | ((with_reducible refine noteFailure_kept ?_ ?e); (case e => rfl))
    | ((with_reducible refine getReady_kept ?_ ?e); (case e => rfl))
    | ((with_reducible refine finish_kept ?_ ?e); (case e => rfl))
    | ((with_reducible refine atomicDone_kept ?_ ?e); (case e => rfl))
    | ((with_reducible refine launchReady_kept ?_ ?e); (case e => rfl))
    | with_reducible refine Kept.foldl ?_ ?_
    | dsimp only
    | fail_if_no_progress ((with_reducible refine Kept.setFab ?_ ?e); (case e => rfl))
    | fail_if_no_progress ((with_reducible refine Kept.setCrush ?_ ?e); (case e => rfl))
    | split
    | intro _

theorem enqueue_kept {s : State} {m : Msg} {cid : Nat} {peer : Nat} {off : Nat} {after : List Nat} {coll : Option CollMsg} {mcast : Bool} {lead : Option Nat} {pw : List Part} {s0 : State} (h : Kept pw s0 s) (hw : subParts [.regs, .mem, .work, .yards, .fab, .crush, .ten, .cores, .boot, .out, .free] pw = true) :
    Kept pw s0 (enqueue s m cid peer off after coll mcast lead) := by
  refine Kept.app h hw ?_
  unfold enqueue
  repeat' first
    | with_reducible exact Kept.refl _ _
    | with_reducible refine Kept.ite ?_ ?_
    | ((with_reducible refine settleOne_kept ?_ ?e); (case e => rfl))
    | ((with_reducible refine launch_kept ?_ ?e); (case e => rfl))
    | dsimp only
    | fail_if_no_progress ((with_reducible refine Kept.setFab ?_ ?e); (case e => rfl))

theorem learnInc_kept {s : State} {node : Nat} {inc : Nat} {pw : List Part} {s0 : State} (h : Kept pw s0 s) (hw : subParts [.regs, .mem, .work, .yards, .fab, .crush, .ten, .cores, .boot, .out, .free] pw = true) :
    Kept pw s0 (learnInc s node inc) := by
  refine Kept.app h hw ?_
  unfold learnInc
  repeat' first
    | with_reducible assumption
    | with_reducible exact Kept.refl _ _
    | with_reducible refine Kept.ite ?_ ?_
    | ((with_reducible refine dropUn_kept ?_ ?e); (case e => rfl))
    | ((with_reducible refine settleOne_kept ?_ ?e); (case e => rfl))
    | ((with_reducible refine launchReady_kept ?_ ?e); (case e => rfl))
    | with_reducible refine Kept.foldl ?_ ?_
    | dsimp only
    | fail_if_no_progress ((with_reducible refine Kept.setFab ?_ ?e); (case e => rfl))
    | split
    | intro _

theorem ackOne_kept {s : State} {node : Nat} {cls : TClass} {seq : Nat} {pw : List Part} {s0 : State} (h : Kept pw s0 s) (hw : subParts [.regs, .mem, .work, .yards, .fab, .crush, .ten, .cores, .boot, .out, .free] pw = true) :
    Kept pw s0 (ackOne s node cls seq) := by
  refine Kept.app h hw ?_
  unfold ackOne
  repeat' first
    | with_reducible exact Kept.refl _ _
    | with_reducible refine Kept.ite ?_ ?_
    | ((with_reducible refine settleOne_kept ?_ ?e); (case e => rfl))
    | split

theorem dataTo_kept {s : State} {mid : Nat} {u : Unacked} {epoch : Nat} {bs : List Byte} {pw : List Part} {s0 : State} (h : Kept pw s0 s) (hw : subParts [.regs, .mem, .work, .yards, .fab, .crush, .ten, .cores, .boot, .out, .free] pw = true) :
    Kept pw s0 (dataTo s mid u epoch bs) := by
  refine Kept.app h hw ?_
  unfold dataTo
  repeat' first
    | with_reducible exact Kept.refl _ _
    | with_reducible refine Kept.ite ?_ ?_
    | ((with_reducible refine settleOne_kept ?_ ?e); (case e => rfl))
    | ((with_reducible refine putCmd_kept ?_ ?e); (case e => rfl))
    | ((with_reducible refine enqueue_kept ?_ ?e); (case e => rfl))
    | dsimp only
    | split

theorem resultTo_kept {s : State} {mid : Nat} {u : Unacked} {v : Nat} {st : Status} {pw : List Part} {s0 : State} (h : Kept pw s0 s) (hw : subParts [.regs, .mem, .work, .yards, .fab, .crush, .ten, .cores, .boot, .out, .free] pw = true) :
    Kept pw s0 (resultTo s mid u v st) := by
  refine Kept.app h hw ?_
  unfold resultTo
  repeat' first
    | with_reducible exact Kept.refl _ _
    | with_reducible refine Kept.ite ?_ ?_
    | ((with_reducible refine settleOne_kept ?_ ?e); (case e => rfl))
    | ((with_reducible refine atomicDone_kept ?_ ?e); (case e => rfl))

theorem nakTo_kept {s : State} {mid : Nat} {u : Unacked} {reason : Nat} {va : Nat} {pw : List Part} {s0 : State} (h : Kept pw s0 s) (hw : subParts [.regs, .mem, .work, .yards, .fab, .crush, .ten, .cores, .boot, .out, .free] pw = true) :
    Kept pw s0 (nakTo s mid u reason va) := by
  refine Kept.app h hw ?_
  unfold nakTo
  repeat' first
    | with_reducible exact Kept.refl _ _
    | with_reducible refine Kept.ite ?_ ?_
    | ((with_reducible refine settleOne_kept ?_ ?e); (case e => rfl))
    | ((with_reducible refine resend_kept ?_ ?e); (case e => rfl))
    | ((with_reducible refine putUn_kept ?_ ?e); (case e => rfl))
    | dsimp only
    | split

theorem advertise_kept {s : State} {pw : List Part} {s0 : State} (h : Kept pw s0 s) (hw : subParts [.regs, .mem, .work, .yards, .fab, .crush, .ten, .cores, .boot, .out, .free] pw = true) :
    Kept pw s0 (advertise s) := by
  refine Kept.app h hw ?_
  unfold advertise
  repeat' first
    | with_reducible assumption
    | with_reducible exact Kept.refl _ _
    | ((with_reducible refine enqueue_kept ?_ ?e); (case e => rfl))
    | ((with_reducible refine wr_kept ?_ ?e); (case e => rfl))
    | with_reducible refine Kept.foldl ?_ ?_
    | dsimp only
    | intro _

theorem setPort_kept {s : State} {p : Nat} {st : Nat} {pw : List Part} {s0 : State} (h : Kept pw s0 s) (hw : subParts [.regs, .mem, .work, .yards, .fab, .crush, .ten, .cores, .boot, .out, .free] pw = true) :
    Kept pw s0 (setPort s p st) := by
  refine Kept.app h hw ?_
  unfold setPort
  repeat' first
    | with_reducible exact Kept.refl _ _
    | with_reducible refine Kept.ite ?_ ?_
    | ((with_reducible refine failover_kept ?_ ?e); (case e => rfl))
    | ((with_reducible refine advertise_kept ?_ ?e); (case e => rfl))
    | ((with_reducible refine wr_kept ?_ ?e); (case e => rfl))

theorem applyLsa_kept {s : State} {m : Msg} {pw : List Part} {s0 : State} (h : Kept pw s0 s) (hw : subParts [.regs, .fab, .out, .free] pw = true) :
    Kept pw s0 (applyLsa s m) := by
  refine Kept.app h hw ?_
  unfold applyLsa
  repeat' first
    | with_reducible exact Kept.refl _ _
    | with_reducible refine Kept.ite ?_ ?_
    | ((with_reducible refine failover_kept ?_ ?e); (case e => rfl))
    | ((with_reducible refine bump_kept ?_ ?e); (case e => rfl))
    | ((with_reducible refine wr_kept ?_ ?e); (case e => rfl))

theorem localAnswer_kept {s : State} {m : Msg} {r : Reply} {pw : List Part} {s0 : State} (h : Kept pw s0 s) (hw : subParts [.regs, .mem, .work, .yards, .fab, .crush, .ten, .cores, .boot, .out, .free] pw = true) :
    Kept pw s0 (localAnswer s m r) := by
  refine Kept.app h hw ?_
  unfold localAnswer
  repeat' first
    | with_reducible exact Kept.refl _ _
    | ((with_reducible refine ackOne_kept ?_ ?e); (case e => rfl))
    | ((with_reducible refine nakTo_kept ?_ ?e); (case e => rfl))
    | ((with_reducible refine dataTo_kept ?_ ?e); (case e => rfl))
    | ((with_reducible refine resultTo_kept ?_ ?e); (case e => rfl))
    | split

theorem sendReply_kept {s : State} {m : Msg} {r : Reply} {pw : List Part} {s0 : State} (h : Kept pw s0 s) (hw : subParts [.regs, .mem, .work, .yards, .fab, .crush, .ten, .cores, .boot, .out, .free] pw = true) :
    Kept pw s0 (sendReply s m r) := by
  refine Kept.app h hw ?_
  unfold sendReply
  repeat' first
    | with_reducible exact Kept.refl _ _
    | with_reducible refine Kept.ite ?_ ?_
    | ((with_reducible refine localAnswer_kept ?_ ?e); (case e => rfl))
    | ((with_reducible refine meter_kept ?_ ?e); (case e => rfl))
    | ((with_reducible refine queueOut_kept ?_ ?e); (case e => rfl))
    | dsimp only
    | split

theorem markApplied_kept {s : State} {k : Nat} {seq : Nat} {pw : List Part} {s0 : State} (h : Kept pw s0 s) (hw : subParts [.fab] pw = true) :
    Kept pw s0 (markApplied s k seq) := by
  refine Kept.app h hw ?_
  unfold markApplied
  repeat' first
    | with_reducible exact Kept.refl _ _
    | dsimp only
    | fail_if_no_progress ((with_reducible refine Kept.setFab ?_ ?e); (case e => rfl))

theorem remoteRead_kept {s : State} {f : Nat} {a : Nat} {n : Nat} {pw : List Part} {s0 : State} (h : Kept pw s0 s) (hw : subParts [.regs, .mem, .ten, .boot, .out] pw = true) :
    Kept pw s0 (remoteRead s f a n).1 := by
  refine Kept.app h hw ?_
  unfold remoteRead
  repeat' first
    | with_reducible exact Kept.refl _ _
    | fail_if_no_progress ((with_reducible refine Kept.fst (by assumption) (translate_kept ?_ ?e)); (case e => rfl))
    | fail_if_no_progress ((with_reducible refine Kept.fst (by assumption) (readRuns_kept ?_ ?e)); (case e => rfl))
    | ((with_reducible refine chargeDram_kept ?_ ?e); (case e => rfl))
    | split

theorem remoteWrite_kept {s : State} {f : Nat} {a : Nat} {bs : List Byte} {pw : List Part} {s0 : State} (h : Kept pw s0 s) (hw : subParts [.regs, .mem, .ten, .boot, .out] pw = true) :
    Kept pw s0 (remoteWrite s f a bs).1 := by
  refine Kept.app h hw ?_
  unfold remoteWrite
  repeat' first
    | with_reducible exact Kept.refl _ _
    | fail_if_no_progress ((with_reducible refine Kept.fst (by assumption) (translate_kept ?_ ?e)); (case e => rfl))
    | fail_if_no_progress ((with_reducible refine Kept.fst (by assumption) (writeRuns_kept ?_ ?e)); (case e => rfl))
    | ((with_reducible refine chargeDram_kept ?_ ?e); (case e => rfl))
    | split

theorem applyReduce_kept {s : State} {m : Msg} {pw : List Part} {s0 : State} (h : Kept pw s0 s) (hw : subParts [.regs, .mem, .ten, .boot, .out] pw = true) :
    Kept pw s0 (applyReduce s m).1 := by
  refine Kept.app h hw ?_
  unfold applyReduce
  repeat' first
    | with_reducible exact Kept.refl _ _
    | fail_if_no_progress ((with_reducible refine Kept.fst (by assumption) (remoteRead_kept ?_ ?e)); (case e => rfl))
    | ((with_reducible refine remoteWrite_kept ?_ ?e); (case e => rfl))
    | dsimp only
    | split

theorem settleAt_kept {s : State} {m : Msg} {r : Reply} {pw : List Part} {s0 : State} (h : Kept pw s0 s) (hw : subParts [.fab] pw = true) :
    Kept pw s0 (settleAt s m r) := by
  refine Kept.app h hw ?_
  unfold settleAt
  repeat' first
    | with_reducible exact Kept.refl _ _
    | with_reducible refine Kept.ite ?_ ?_
    | ((with_reducible refine markApplied_kept ?_ ?e); (case e => rfl))
    | dsimp only
    | fail_if_no_progress ((with_reducible refine Kept.setFab ?_ ?e); (case e => rfl))
    | split

theorem stageRound_kept {s : State} {m : Msg} {pw : List Part} {s0 : State} (h : Kept pw s0 s) (hw : subParts [.regs, .mem, .work, .yards, .fab, .crush, .ten, .cores, .boot, .out, .free] pw = true) :
    Kept pw s0 (stageRound s m).1 := by
  refine Kept.app h hw ?_
  unfold stageRound
  repeat' first
    | with_reducible assumption
    | with_reducible exact Kept.refl _ _
    | with_reducible refine Kept.ite_fst ?_ ?_
    | ((with_reducible refine bump_kept ?_ ?e); (case e => rfl))
    | ((with_reducible refine applyReduce_kept ?_ ?e); (case e => rfl))
    | ((with_reducible refine sendReply_kept ?_ ?e); (case e => rfl))
    | ((with_reducible refine settleAt_kept ?_ ?e); (case e => rfl))
    | with_reducible refine Kept.foldl ?_ ?_
    | with_reducible refine Kept.foldl_fst ?_ ?_
    | dsimp only
    | fail_if_no_progress ((with_reducible refine Kept.setFab ?_ ?e); (case e => rfl))
    | split
    | intro _

theorem putAtoms_kept {s : State} {l : List AtomRec} {pw : List Part} {s0 : State} (h : Kept pw s0 s) (hw : subParts [.regs, .fab] pw = true) :
    Kept pw s0 (putAtoms s l) := by
  refine Kept.app h hw ?_
  unfold putAtoms
  repeat' first
    | with_reducible exact Kept.refl _ _
    | ((with_reducible refine wr_kept ?_ ?e); (case e => rfl))
    | dsimp only
    | fail_if_no_progress ((with_reducible refine Kept.setFab ?_ ?e); (case e => rfl))

theorem applyAtomic_kept {s : State} {m : Msg} {pw : List Part} {s0 : State} (h : Kept pw s0 s) (hw : subParts [.regs, .mem, .fab, .ten, .boot, .out] pw = true) :
    Kept pw s0 (applyAtomic s m).1 := by
  refine Kept.app h hw ?_
  unfold applyAtomic
  repeat' first
    | with_reducible exact Kept.refl _ _
    | with_reducible refine Kept.ite_fst ?_ ?_
    | ((with_reducible refine bump_kept ?_ ?e); (case e => rfl))
    | fail_if_no_progress ((with_reducible refine Kept.fst (by assumption) (remoteRead_kept ?_ ?e)); (case e => rfl))
    | fail_if_no_progress ((with_reducible refine Kept.fst (by assumption) (remoteWrite_kept ?_ ?e)); (case e => rfl))
    | ((with_reducible refine putAtoms_kept ?_ ?e); (case e => rfl))
    | dsimp only
    | split

theorem deliverRing_kept {s : State} {m : Msg} {pw : List Part} {s0 : State} (h : Kept pw s0 s) (hw : subParts [.regs, .mem, .work, .ten, .boot, .out] pw = true) :
    Kept pw s0 (deliverRing s m).1 := by
  refine Kept.app h hw ?_
  unfold deliverRing
  repeat' first
    | with_reducible exact Kept.refl _ _
    | with_reducible refine Kept.ite_fst ?_ ?_
    | fail_if_no_progress ((with_reducible refine Kept.fst (by assumption) (remoteRead_kept ?_ ?e)); (case e => rfl))
    | fail_if_no_progress ((with_reducible refine Kept.fst (by assumption) (remoteWrite_kept ?_ ?e)); (case e => rfl))
    | ((with_reducible refine tallyInc_kept ?_ ?e); (case e => rfl))
    | dsimp only
    | split

theorem applyMsg_kept {s : State} {m : Msg} {pw : List Part} {s0 : State} (h : Kept pw s0 s) (hw : subParts [.regs, .mem, .work, .yards, .fab, .crush, .ten, .cores, .boot, .out, .free] pw = true) :
    Kept pw s0 (applyMsg s m).1 := by
  refine Kept.app h hw ?_
  unfold applyMsg
  repeat' first
    | with_reducible exact Kept.refl _ _
    | with_reducible refine Kept.ite_fst ?_ ?_
    | fail_if_no_progress ((with_reducible refine Kept.fst (by assumption) (remoteRead_kept ?_ ?e)); (case e => rfl))
    | ((with_reducible refine remoteWrite_kept ?_ ?e); (case e => rfl))
    | ((with_reducible refine applyAtomic_kept ?_ ?e); (case e => rfl))
    | ((with_reducible refine stageRound_kept ?_ ?e); (case e => rfl))
    | ((with_reducible refine applyReduce_kept ?_ ?e); (case e => rfl))
    | ((with_reducible refine tallyInc_kept ?_ ?e); (case e => rfl))
    | ((with_reducible refine deliverRing_kept ?_ ?e); (case e => rfl))
    | ((with_reducible refine applyLsa_kept ?_ ?e); (case e => rfl))
    | dsimp only
    | split

theorem duplicateReply_kept {s : State} {m : Msg} {pw : List Part} {s0 : State} (h : Kept pw s0 s) (hw : subParts [.regs, .mem, .work, .yards, .fab, .crush, .ten, .cores, .boot, .out, .free] pw = true) :
    Kept pw s0 (duplicateReply s m).1 := by
  refine Kept.app h hw ?_
  unfold duplicateReply
  repeat' first
    | with_reducible exact Kept.refl _ _
    | with_reducible refine Kept.ite_fst ?_ ?_
    | ((with_reducible refine applyMsg_kept ?_ ?e); (case e => rfl))
    | split

theorem answerAgain_kept {s : State} {m : Msg} {pw : List Part} {s0 : State} (h : Kept pw s0 s) (hw : subParts [.regs, .mem, .work, .yards, .fab, .crush, .ten, .cores, .boot, .out, .free] pw = true) :
    Kept pw s0 (answerAgain s m) := by
  refine Kept.app h hw ?_
  unfold answerAgain
  repeat' first
    | with_reducible exact Kept.refl _ _
    | ((with_reducible refine duplicateReply_kept ?_ ?e); (case e => rfl))
    | ((with_reducible refine sendReply_kept ?_ ?e); (case e => rfl))

theorem applyNow_kept {s : State} {m : Msg} {pw : List Part} {s0 : State} (h : Kept pw s0 s) (hw : subParts [.regs, .mem, .work, .yards, .fab, .crush, .ten, .cores, .boot, .out, .free] pw = true) :
    Kept pw s0 (applyNow s m) := by
  refine Kept.app h hw ?_
  unfold applyNow
  repeat' first
    | with_reducible exact Kept.refl _ _
    | ((with_reducible refine applyMsg_kept ?_ ?e); (case e => rfl))
    | ((with_reducible refine settleAt_kept ?_ ?e); (case e => rfl))
    | ((with_reducible refine sendReply_kept ?_ ?e); (case e => rfl))

theorem releaseHeld_kept {fuel : Nat} {s : State} {pw : List Part} {s0 : State} (h : Kept pw s0 s) (hw : subParts [.regs, .mem, .work, .yards, .fab, .crush, .ten, .cores, .boot, .out, .free] pw = true) :
    Kept pw s0 (releaseHeld fuel s) := by
  refine Kept.app h hw ?_
  have key : ∀ fuel (s : State) (s0 : State), Kept [.regs, .mem, .work, .yards, .fab, .crush, .ten, .cores, .boot, .out, .free] s0 s → Kept [.regs, .mem, .work, .yards, .fab, .crush, .ten, .cores, .boot, .out, .free] s0 (releaseHeld fuel s) := by
    intro fuel
    induction fuel with
    | zero =>
      intro s s0 h
      unfold releaseHeld
      repeat' first
        | with_reducible assumption
    | succ k ih =>
      intro s s0 h
      unfold releaseHeld
      repeat' first
        | refine ih _ _ ?_
        | with_reducible assumption
        | with_reducible refine Kept.ite ?_ ?_
        | ((with_reducible refine answerAgain_kept ?_ ?e); (case e => rfl))
        | ((with_reducible refine applyNow_kept ?_ ?e); (case e => rfl))
        | dsimp only
        | fail_if_no_progress ((with_reducible refine Kept.setFab ?_ ?e); (case e => rfl))
        | split
  exact key _ _ _ (Kept.refl _ _)

theorem seeInc_kept {s : State} {node : Nat} {inc : Nat} {pw : List Part} {s0 : State} (h : Kept pw s0 s) (hw : subParts [.regs, .fab] pw = true) :
    Kept pw s0 (seeInc s node inc) := by
  refine Kept.app h hw ?_
  unfold seeInc
  repeat' first
    | with_reducible exact Kept.refl _ _
    | with_reducible refine Kept.ite ?_ ?_
    | ((with_reducible refine wr_kept ?_ ?e); (case e => rfl))
    | dsimp only
    | fail_if_no_progress ((with_reducible refine Kept.setFab ?_ ?e); (case e => rfl))

theorem hear_kept {s : State} {node : Nat} {pw : List Part} {s0 : State} (h : Kept pw s0 s) (hw : subParts [.fab] pw = true) :
    Kept pw s0 (hear s node) := by
  refine Kept.app h hw ?_
  unfold hear
  repeat' first
    | with_reducible exact Kept.refl _ _
    | dsimp only
    | fail_if_no_progress ((with_reducible refine Kept.setFab ?_ ?e); (case e => rfl))

theorem admitMsg_kept {s : State} {m : Msg} {pw : List Part} {s0 : State} (h : Kept pw s0 s) (hw : subParts [.regs, .mem, .work, .yards, .fab, .crush, .ten, .cores, .boot, .out, .free] pw = true) :
    Kept pw s0 (admitMsg s m).1 := by
  refine Kept.app h hw ?_
  unfold admitMsg
  repeat' first
    | with_reducible exact Kept.refl _ _
    | with_reducible refine Kept.ite_fst ?_ ?_
    | ((with_reducible refine hear_kept ?_ ?e); (case e => rfl))
    | ((with_reducible refine sendReply_kept ?_ ?e); (case e => rfl))
    | ((with_reducible refine discardMsg_kept ?_ ?e); (case e => rfl))
    | ((with_reducible refine seeInc_kept ?_ ?e); (case e => rfl))

theorem onRequest_kept {s : State} {kind : MsgKind} {m : Msg} {pw : List Part} {s0 : State} (h : Kept pw s0 s) (hw : subParts [.regs, .mem, .work, .yards, .fab, .crush, .ten, .cores, .boot, .out, .free] pw = true) :
    Kept pw s0 (onRequest s kind m) := by
  refine Kept.app h hw ?_
  unfold onRequest
  repeat' first
    | with_reducible assumption
    | with_reducible exact Kept.refl _ _
    | ((with_reducible refine arriving_kept ?_ ?e ?_); (case e => rfl))
    | ((with_reducible refine forwardMsg_kept ?_ ?e); (case e => rfl))
    | ((with_reducible refine admitMsg_kept ?_ ?e); (case e => rfl))
    | ((with_reducible refine sendReply_kept ?_ ?e); (case e => rfl))
    | ((with_reducible refine answerAgain_kept ?_ ?e); (case e => rfl))
    | ((with_reducible refine noteWait_kept ?_ ?e); (case e => rfl))
    | ((with_reducible refine applyNow_kept ?_ ?e); (case e => rfl))
    | ((with_reducible refine releaseHeld_kept ?_ ?e); (case e => rfl))
    | dsimp only
    | fail_if_no_progress ((with_reducible refine Kept.setFab ?_ ?e); (case e => rfl))
    | split
    | intro _

theorem deliverAll_kept {fuel : Nat} {s : State} {pw : List Part} {s0 : State} (h : Kept pw s0 s) (hw : subParts [.regs, .mem, .work, .yards, .fab, .crush, .ten, .cores, .boot, .out, .free] pw = true) :
    Kept pw s0 (deliverAll fuel s) := by
  induction fuel generalizing s with
  | zero => exact h
  | succ k ih =>
    rw [deliverAll]
    split
    · exact h
    · exact ih (onRequest_kept (putUn_kept h (subParts_trans rfl hw)) (subParts_trans rfl hw))

theorem deliverLocal_kept {s : State} {pw : List Part} {s0 : State} (h : Kept pw s0 s) (hw : subParts [.regs, .mem, .work, .yards, .fab, .crush, .ten, .cores, .boot, .out, .free] pw = true) :
    Kept pw s0 (deliverLocal s) := by
  refine Kept.app h hw ?_
  unfold deliverLocal
  repeat' first
    | with_reducible exact Kept.refl _ _
    | ((with_reducible refine deliverAll_kept ?_ ?e); (case e => rfl))

theorem onAnswer_kept {s : State} {kind : MsgKind} {m : Msg} {act : State → Msg → State} {pw : List Part} {s0 : State} (h : Kept pw s0 s) (hw : subParts [.regs, .mem, .work, .yards, .fab, .crush, .ten, .cores, .boot, .out, .free] pw = true)
    (hact : ∀ s x0, Kept pw s0 s → Kept pw s0 (act s x0)) :
    Kept pw s0 (onAnswer s kind m act) := by
  unfold onAnswer
  repeat' first
    | with_reducible assumption
    | ((with_reducible refine arriving_kept ?_ ?e ?_); (case e => first | exact subParts_trans rfl hw | exact contains_of_sub rfl hw))
    | ((with_reducible refine forwardMsg_kept ?_ ?e); (case e => first | exact subParts_trans rfl hw | exact contains_of_sub rfl hw))
    | ((with_reducible refine hear_kept ?_ ?e); (case e => first | exact subParts_trans rfl hw | exact contains_of_sub rfl hw))
    | ((with_reducible refine discardMsg_kept ?_ ?e); (case e => first | exact subParts_trans rfl hw | exact contains_of_sub rfl hw))
    | ((with_reducible refine learnInc_kept ?_ ?e); (case e => first | exact subParts_trans rfl hw | exact contains_of_sub rfl hw))
    | dsimp only
    | split
    | intro _
    | with_reducible refine hact _ _ ?_

end Sys2Proof.Machine
end

