-- ==== Sys2Proof/Laws/SkipKept.lean ====
section
/-! SUPPORT. What every operation of Machine/Skip.lean may change, as a law of Kept. -/

set_option linter.unreachableTactic false
set_option linter.unusedTactic false
set_option linter.unusedVariables false

namespace Sys2Proof.Machine

theorem sideRuns_kept {s : State} {c : Cmd} {space : Nat} {len : Nat} {rows : List Nat} {write : Bool} {pw : List Part} {s0 : State} (h : Kept pw s0 s) (hw : subParts [.regs, .mem, .ten, .boot, .out] pw = true) :
    Kept pw s0 (sideRuns s c space len rows write).1 := by
  refine Kept.app h hw ?_
  unfold sideRuns
  repeat' first
    | with_reducible assumption
    | with_reducible exact Kept.refl _ _
    | with_reducible refine Kept.ite_fst ?_ ?_
    | fail_if_no_progress ((with_reducible refine Kept.fst (by assumption) (translate_kept ?_ ?e)); (case e => rfl))
    | with_reducible refine Kept.foldl_fst ?_ ?_
    | dsimp only
    | split
    | intro _

theorem skipSides_kept {s : State} {c : Cmd} {x : SkipCmd} {pw : List Part} {s0 : State} (h : Kept pw s0 s) (hw : subParts [.regs, .mem, .ten, .boot, .out] pw = true) :
    Kept pw s0 (skipSides s c x).1 := by
  refine Kept.app h hw ?_
  unfold skipSides
  repeat' first
    | with_reducible exact Kept.refl _ _
    | fail_if_no_progress ((with_reducible refine Kept.fst (by assumption) (sideRuns_kept ?_ ?e)); (case e => rfl))
    | split

theorem sidesOnce_kept {s : State} {c : Cmd} {x : SkipCmd} {pw : List Part} {s0 : State} (h : Kept pw s0 s) (hw : subParts [.regs, .mem, .ten, .boot, .out] pw = true) :
    Kept pw s0 (sidesOnce s c x).1 := by
  refine Kept.app h hw ?_
  unfold sidesOnce
  repeat' first
    | with_reducible exact Kept.refl _ _
    | with_reducible refine Kept.ite_fst ?_ ?_
    | ((with_reducible refine skipSides_kept ?_ ?e); (case e => rfl))

theorem skipPlan_kept {s : State} {c : Cmd} {pw : List Part} {s0 : State} (h : Kept pw s0 s) (hw : subParts [.regs, .mem, .ten, .boot, .out] pw = true) :
    Kept pw s0 (skipPlan s c).1 := by
  refine Kept.app h hw ?_
  unfold skipPlan
  repeat' first
    | with_reducible exact Kept.refl _ _
    | with_reducible refine Kept.ite ?_ ?_
    | with_reducible refine Kept.ite_fst ?_ ?_
    | ((with_reducible refine logErr_kept ?_ ?e); (case e => rfl))
    | fail_if_no_progress ((with_reducible refine Kept.fst (by assumption) (sidesOnce_kept ?_ ?e)); (case e => rfl))
    | dsimp only
    | split

theorem payDram_kept {s : State} {c : Cmd} {cost : Nat} {pw : List Part} {s0 : State} (h : Kept pw s0 s) (hw : subParts [.regs, .mem] pw = true) :
    Kept pw s0 (payDram s c cost).1 := by
  refine Kept.app h hw ?_
  unfold payDram
  repeat' first
    | with_reducible exact Kept.refl _ _
    | with_reducible refine Kept.ite ?_ ?_
    | with_reducible refine Kept.ite_fst ?_ ?_
    | ((with_reducible refine putTokens_kept ?_ ?e); (case e => rfl))
    | ((with_reducible refine noteWait_kept ?_ ?e); (case e => rfl))

theorem payHost_kept {s : State} {f : Nat} {done : Nat} {reqs : List Nat} {pw : List Part} {s0 : State} (h : Kept pw s0 s) (hw : subParts [.regs, .fab] pw = true) :
    Kept pw s0 (payHost s f done reqs).1 := by
  refine Kept.app h hw ?_
  have key : ∀ reqs (s : State) (f : Nat) (done : Nat) (s0 : State), Kept [.regs, .fab] s0 s → Kept [.regs, .fab] s0 (payHost s f done reqs).1 := by
    intro reqs
    induction reqs with
    | nil =>
      intro s f done s0 h
      unfold payHost
      repeat' first
        | with_reducible assumption
    | cons a l ih =>
      intro s f done s0 h
      unfold payHost
      repeat' first
        | refine ih _ _ _ _ ?_
        | with_reducible assumption
        | ((with_reducible refine wr_kept ?_ ?e); (case e => rfl))
        | dsimp only
        | fail_if_no_progress ((with_reducible refine Kept.setFab ?_ ?e); (case e => rfl))
        | split
  exact key _ _ _ _ _ (Kept.refl _ _)

theorem skipStore_kept {s : State} {c : Cmd} {x : SkipCmd} {bs : List Byte} {pw : List Part} {s0 : State} (h : Kept pw s0 s) (hw : subParts [.regs, .mem, .host, .ten, .cores] pw = true) :
    Kept pw s0 (skipStore s c x bs) := by
  refine Kept.app h hw ?_
  unfold skipStore
  repeat' first
    | with_reducible assumption
    | with_reducible exact Kept.refl _ _
    | ((with_reducible refine hostStore_kept ?_ ?e); (case e => rfl))
    | ((with_reducible refine putCore_kept ?_ ?e); (case e => rfl))
    | ((with_reducible refine storeRuns_kept ?_ ?e); (case e => rfl))
    | with_reducible refine Kept.foldl ?_ ?_
    | dsimp only
    | split
    | intro _

theorem skipStop_kept {s : State} {c : Cmd} {x : SkipCmd} {pw : List Part} {s0 : State} (h : Kept pw s0 s) (hw : subParts [.regs, .mem, .ten, .boot, .out] pw = true) :
    Kept pw s0 (skipStop s c x).1 := by
  refine Kept.app h hw ?_
  unfold skipStop
  repeat' first
    | with_reducible exact Kept.refl _ _
    | ((with_reducible refine senseRuns_kept ?_ ?e); (case e => rfl))

theorem skipRun_kept {s : State} {cid : Nat} {c : Cmd} {pw : List Part} {s0 : State} (h : Kept pw s0 s) (hw : subParts [.regs, .mem, .host, .fab, .ten, .cores, .boot, .out, .free] pw = true) :
    RanKept pw s0 (skipRun s cid c) := by
  refine RanKept.app h hw ?_
  unfold skipRun
  repeat' first
    | with_reducible refine RanKept.wait ?_
    | with_reducible refine RanKept.fail ?_
    | with_reducible refine RanKept.ok ?_
    | with_reducible exact Kept.refl _ _
    | with_reducible refine Kept.ite ?_ ?_
    | ((with_reducible refine payDram_kept ?_ ?e); (case e => rfl))
    | ((with_reducible refine payHost_kept ?_ ?e); (case e => rfl))
    | ((with_reducible refine radioTraffic_kept ?_ ?e); (case e => rfl))
    | fail_if_no_progress ((with_reducible refine Kept.fst (by assumption) (skipStop_kept ?_ ?e)); (case e => rfl))
    | ((with_reducible refine bump_kept ?_ ?e); (case e => rfl))
    | ((with_reducible refine skipStore_kept ?_ ?e); (case e => rfl))
    | ((with_reducible refine yardStall_kept ?_ ?e); (case e => rfl))
    | dsimp only
    | split

end Sys2Proof.Machine
end

