-- ==== Sys2Proof/Laws/CrusherKept.lean ====
section
/-! SUPPORT. What every operation of Machine/Crusher.lean may change, as a law of Kept. -/

set_option linter.unreachableTactic false
set_option linter.unusedTactic false
set_option linter.unusedVariables false

namespace Sys2Proof.Machine

theorem crGroupRead_kept {s : State} {f : Nat} {g : Nat} {pw : List Part} {s0 : State} (h : Kept pw s0 s) (hw : subParts [.regs, .mem, .ten, .boot, .out] pw = true) :
    Kept pw s0 (crGroupRead s f g).1 := by
  refine Kept.app h hw ?_
  unfold crGroupRead
  repeat' first
    | with_reducible exact Kept.refl _ _
    | fail_if_no_progress ((with_reducible refine Kept.fst (by assumption) (senseRuns_kept ?_ ?e)); (case e => rfl))
    | split

theorem putColl_kept {s : State} {cid : Nat} {k : Coll} {pw : List Part} {s0 : State} (h : Kept pw s0 s) (hw : subParts [.crush] pw = true) :
    Kept pw s0 (putColl s cid k) := by
  refine Kept.app h hw ?_
  unfold putColl
  repeat' first
    | with_reducible exact Kept.refl _ _
    | dsimp only
    | fail_if_no_progress ((with_reducible refine Kept.setCrush ?_ ?e); (case e => rfl))

theorem showCrush_kept {s : State} {f : Nat} {pw : List Part} {s0 : State} (h : Kept pw s0 s) (hw : subParts [.regs] pw = true) :
    Kept pw s0 (showCrush s f) := by
  refine Kept.app h hw ?_
  unfold showCrush
  repeat' first
    | with_reducible exact Kept.refl _ _
    | ((with_reducible refine wr_kept ?_ ?e); (case e => rfl))
    | ((with_reducible refine showFn_kept ?_ ?e); (case e => rfl))

theorem sendColl_kept {s : State} {cid : Nat} {k : Coll} {rk : Nat} {phase : CollPhase} {m : CollMsg} {payload : List Byte} {pw : List Part} {s0 : State} (h : Kept pw s0 s) (hw : subParts [.regs, .mem, .work, .yards, .fab, .crush, .ten, .cores, .boot, .out, .free] pw = true) :
    Kept pw s0 (sendColl s cid k rk phase m payload) := by
  refine Kept.app h hw ?_
  unfold sendColl
  repeat' first
    | with_reducible exact Kept.refl _ _
    | ((with_reducible refine enqueue_kept ?_ ?e); (case e => rfl))
    | dsimp only
    | split

theorem sendChunk_kept {s : State} {cid : Nat} {k : Coll} {rk : Nat} {stage : Nat} {chunk : Nat} {payload : List Byte} {pw : List Part} {s0 : State} (h : Kept pw s0 s) (hw : subParts [.regs, .mem, .work, .yards, .fab, .crush, .ten, .cores, .boot, .out, .free] pw = true) :
    Kept pw s0 (sendChunk s cid k rk stage chunk payload) := by
  refine Kept.app h hw ?_
  unfold sendChunk
  repeat' first
    | with_reducible assumption
    | with_reducible exact Kept.refl _ _
    | ((with_reducible refine sendColl_kept ?_ ?e); (case e => rfl))
    | with_reducible refine Kept.foldl ?_ ?_
    | dsimp only
    | split
    | intro _

theorem pumpColl_kept {fuel : Nat} {s : State} {cid : Nat} {pw : List Part} {s0 : State} (h : Kept pw s0 s) (hw : subParts [.regs, .mem, .work, .yards, .fab, .crush, .ten, .cores, .boot, .out, .free] pw = true) :
    Kept pw s0 (pumpColl fuel s cid) := by
  induction fuel generalizing s with
  | zero => exact h
  | succ n ih =>
    rw [pumpColl]
    split
    · exact h
    · split
      · exact h
      · split
        · exact h
        · exact ih (sendChunk_kept (putColl_kept h (subParts_trans rfl hw)) (subParts_trans rfl hw))

theorem pumpAll_kept {s : State} {pw : List Part} {s0 : State} (h : Kept pw s0 s) (hw : subParts [.regs, .mem, .work, .yards, .fab, .crush, .ten, .cores, .boot, .out, .free] pw = true) :
    Kept pw s0 (pumpAll s) := by
  refine Kept.app h hw ?_
  unfold pumpAll
  repeat' first
    | with_reducible assumption
    | with_reducible exact Kept.refl _ _
    | ((with_reducible refine pumpColl_kept ?_ ?e); (case e => rfl))
    | with_reducible refine Kept.foldl ?_ ?_
    | intro _

theorem endColl_kept {s : State} {cid : Nat} {k : Coll} {c : Cmd} {st : Status} {fault : Nat} {pw : List Part} {s0 : State} (h : Kept pw s0 s) (hw : subParts [.regs, .work, .yards, .crush, .cores] pw = true) :
    Kept pw s0 (endColl s cid k c st fault) := by
  refine Kept.app h hw ?_
  unfold endColl
  repeat' first
    | with_reducible exact Kept.refl _ _
    | ((with_reducible refine showCrush_kept ?_ ?e); (case e => rfl))
    | ((with_reducible refine finish_kept ?_ ?e); (case e => rfl))
    | dsimp only
    | fail_if_no_progress ((with_reducible refine Kept.setCrush ?_ ?e); (case e => rfl))

theorem sendAborts_kept {s : State} {cid : Nat} {k : Coll} {st : Status} {pw : List Part} {s0 : State} (h : Kept pw s0 s) (hw : subParts [.regs, .mem, .work, .yards, .fab, .crush, .ten, .cores, .boot, .out, .free] pw = true) :
    Kept pw s0 (sendAborts s cid k st) := by
  refine Kept.app h hw ?_
  unfold sendAborts
  repeat' first
    | with_reducible assumption
    | with_reducible exact Kept.refl _ _
    | ((with_reducible refine sendColl_kept ?_ ?e); (case e => rfl))
    | ((with_reducible refine bump_kept ?_ ?e); (case e => rfl))
    | with_reducible refine Kept.foldl ?_ ?_
    | dsimp only
    | intro _

theorem failColl_kept {s : State} {cid : Nat} {st : Status} {fault : Nat} {pw : List Part} {s0 : State} (h : Kept pw s0 s) (hw : subParts [.regs, .mem, .work, .yards, .fab, .crush, .ten, .cores, .boot, .out, .free] pw = true) :
    Kept pw s0 (failColl s cid st fault) := by
  refine Kept.app h hw ?_
  unfold failColl
  repeat' first
    | with_reducible exact Kept.refl _ _
    | with_reducible refine Kept.ite ?_ ?_
    | ((with_reducible refine sendAborts_kept ?_ ?e); (case e => rfl))
    | ((with_reducible refine endColl_kept ?_ ?e); (case e => rfl))
    | dsimp only
    | split

theorem scoreLate_kept {s : State} {n : Nat} {pw : List Part} {s0 : State} (h : Kept pw s0 s) (hw : subParts [.regs] pw = true) :
    Kept pw s0 (scoreLate s n) := by
  refine Kept.app h hw ?_
  unfold scoreLate
  repeat' first
    | with_reducible exact Kept.refl _ _
    | with_reducible refine Kept.ite ?_ ?_
    | ((with_reducible refine wr_kept ?_ ?e); (case e => rfl))

theorem takeFigures_kept {s : State} {k : Coll} {r : Report} {pw : List Part} {s0 : State} (h : Kept pw s0 s) (hw : subParts [.regs, .crush] pw = true) :
    Kept pw s0 (takeFigures s k r) := by
  refine Kept.app h hw ?_
  unfold takeFigures
  repeat' first
    | with_reducible exact Kept.refl _ _
    | with_reducible refine Kept.ite ?_ ?_
    | ((with_reducible refine bump_kept ?_ ?e); (case e => rfl))
    | ((with_reducible refine raiseTo_kept ?_ ?e); (case e => rfl))
    | ((with_reducible refine scoreLate_kept ?_ ?e); (case e => rfl))
    | dsimp only
    | fail_if_no_progress ((with_reducible refine Kept.setCrush ?_ ?e); (case e => rfl))
    | split

theorem readInput_kept {s : State} {cid : Nat} {k : Coll} {c : Cmd} {pw : List Part} {s0 : State} (h : Kept pw s0 s) (hw : subParts [.regs, .mem, .work, .yards, .fab, .crush, .ten, .cores, .boot, .out, .free] pw = true) :
    Kept pw s0 (readInput s cid k c) := by
  refine Kept.app h hw ?_
  unfold readInput
  repeat' first
    | with_reducible exact Kept.refl _ _
    | fail_if_no_progress ((with_reducible refine Kept.fst (by assumption) (payDram_kept ?_ ?e)); (case e => rfl))
    | ((with_reducible refine putCmd_kept ?_ ?e); (case e => rfl))
    | fail_if_no_progress ((with_reducible refine Kept.fst (by assumption) (readRuns_kept ?_ ?e)); (case e => rfl))
    | ((with_reducible refine failColl_kept ?_ ?e); (case e => rfl))
    | ((with_reducible refine putColl_kept ?_ ?e); (case e => rfl))
    | dsimp only
    | split

theorem shareResult_kept {s : State} {cid : Nat} {k : Coll} {x : CrCmd} {pw : List Part} {s0 : State} (h : Kept pw s0 s) (hw : subParts [.crush] pw = true) :
    Kept pw s0 (shareResult s cid k x) := by
  refine Kept.app h hw ?_
  unfold shareResult
  repeat' first
    | with_reducible exact Kept.refl _ _
    | with_reducible refine Kept.ite ?_ ?_
    | ((with_reducible refine putColl_kept ?_ ?e); (case e => rfl))

theorem writeStage_kept {s : State} {cid : Nat} {k : Coll} {c : Cmd} {pw : List Part} {s0 : State} (h : Kept pw s0 s) (hw : subParts [.regs, .mem, .work, .yards, .fab, .crush, .ten, .cores, .boot, .out, .free] pw = true) :
    Kept pw s0 (writeStage s cid k c) := by
  refine Kept.app h hw ?_
  unfold writeStage
  repeat' first
    | with_reducible assumption
    | with_reducible exact Kept.refl _ _
    | fail_if_no_progress ((with_reducible refine Kept.fst (by assumption) (payDram_kept ?_ ?e)); (case e => rfl))
    | ((with_reducible refine putCmd_kept ?_ ?e); (case e => rfl))
    | ((with_reducible refine writeRuns_kept ?_ ?e); (case e => rfl))
    | ((with_reducible refine failColl_kept ?_ ?e); (case e => rfl))
    | ((with_reducible refine putColl_kept ?_ ?e); (case e => rfl))
    | with_reducible refine Kept.foldl_fst ?_ ?_
    | dsimp only
    | split
    | intro _

theorem advanceColl_kept {s : State} {cid : Nat} {pw : List Part} {s0 : State} (h : Kept pw s0 s) (hw : subParts [.regs, .mem, .work, .yards, .fab, .crush, .ten, .cores, .boot, .out, .free] pw = true) :
    Kept pw s0 (advanceColl s cid) := by
  refine Kept.app h hw ?_
  unfold advanceColl
  repeat' first
    | with_reducible exact Kept.refl _ _
    | with_reducible refine Kept.ite ?_ ?_
    | ((with_reducible refine readInput_kept ?_ ?e); (case e => rfl))
    | ((with_reducible refine shareResult_kept ?_ ?e); (case e => rfl))
    | ((with_reducible refine writeStage_kept ?_ ?e); (case e => rfl))
    | ((with_reducible refine pumpColl_kept ?_ ?e); (case e => rfl))
    | ((with_reducible refine showCrush_kept ?_ ?e); (case e => rfl))
    | dsimp only
    | split

theorem actVerdict_kept {s : State} {cid : Nat} {agree : Bool} {r : Report} {pw : List Part} {s0 : State} (h : Kept pw s0 s) (hw : subParts [.regs, .mem, .work, .yards, .fab, .crush, .ten, .cores, .boot, .out, .free] pw = true) :
    Kept pw s0 (actVerdict s cid agree r) := by
  refine Kept.app h hw ?_
  unfold actVerdict
  repeat' first
    | with_reducible assumption
    | with_reducible exact Kept.refl _ _
    | with_reducible refine Kept.ite ?_ ?_
    | ((with_reducible refine takeFigures_kept ?_ ?e); (case e => rfl))
    | ((with_reducible refine sendColl_kept ?_ ?e); (case e => rfl))
    | ((with_reducible refine endColl_kept ?_ ?e); (case e => rfl))
    | ((with_reducible refine bump_kept ?_ ?e); (case e => rfl))
    | ((with_reducible refine advanceColl_kept ?_ ?e); (case e => rfl))
    | ((with_reducible refine putColl_kept ?_ ?e); (case e => rfl))
    | with_reducible refine Kept.foldl ?_ ?_
    | dsimp only
    | split
    | intro _

theorem tryReport_kept {s : State} {cid : Nat} {pw : List Part} {s0 : State} (h : Kept pw s0 s) (hw : subParts [.regs, .mem, .work, .yards, .fab, .crush, .ten, .cores, .boot, .out, .free] pw = true) :
    Kept pw s0 (tryReport s cid) := by
  refine Kept.app h hw ?_
  unfold tryReport
  repeat' first
    | with_reducible exact Kept.refl _ _
    | with_reducible refine Kept.ite ?_ ?_
    | ((with_reducible refine putColl_kept ?_ ?e); (case e => rfl))
    | ((with_reducible refine actVerdict_kept ?_ ?e); (case e => rfl))
    | ((with_reducible refine sendColl_kept ?_ ?e); (case e => rfl))
    | dsimp only
    | split

theorem judgeChunk_kept {s : State} {cid : Nat} {k : Coll} {c : Cmd} {i : Nat} {stage : Nat} {chunk : Nat} {check : Nat} {bytes : List Byte} {pw : List Part} {s0 : State} (h : Kept pw s0 s) (hw : subParts [.regs, .mem, .work, .yards, .fab, .crush, .ten, .cores, .boot, .out, .free] pw = true) :
    Kept pw s0 (judgeChunk s cid k c i stage chunk check bytes) := by
  refine Kept.app h hw ?_
  unfold judgeChunk
  repeat' first
    | with_reducible exact Kept.refl _ _
    | with_reducible refine Kept.ite ?_ ?_
    | ((with_reducible refine putColl_kept ?_ ?e); (case e => rfl))
    | ((with_reducible refine advanceColl_kept ?_ ?e); (case e => rfl))
    | ((with_reducible refine sendColl_kept ?_ ?e); (case e => rfl))
    | ((with_reducible refine bump_kept ?_ ?e); (case e => rfl))
    | ((with_reducible refine failColl_kept ?_ ?e); (case e => rfl))

theorem takeData_kept {s : State} {cid : Nat} {k : Coll} {c : Cmd} {m : CollMsg} {i : Nat} {pw : List Part} {s0 : State} (h : Kept pw s0 s) (hw : subParts [.regs, .mem, .work, .yards, .fab, .crush, .ten, .cores, .boot, .out, .free] pw = true) :
    Kept pw s0 (takeData s cid k c m i) := by
  refine Kept.app h hw ?_
  unfold takeData
  repeat' first
    | with_reducible exact Kept.refl _ _
    | with_reducible refine Kept.ite ?_ ?_
    | ((with_reducible refine judgeChunk_kept ?_ ?e); (case e => rfl))
    | ((with_reducible refine putColl_kept ?_ ?e); (case e => rfl))
    | dsimp only
    | split

theorem actColl_kept {s : State} {cid : Nat} {k : Coll} {c : Cmd} {phase : CollPhase} {m : CollMsg} {pw : List Part} {s0 : State} (h : Kept pw s0 s) (hw : subParts [.regs, .mem, .work, .yards, .fab, .crush, .ten, .cores, .boot, .out, .free] pw = true) :
    Kept pw s0 (actColl s cid k c phase m) := by
  refine Kept.app h hw ?_
  unfold actColl
  repeat' first
    | with_reducible exact Kept.refl _ _
    | with_reducible refine Kept.ite ?_ ?_
    | ((with_reducible refine putColl_kept ?_ ?e); (case e => rfl))
    | ((with_reducible refine tryReport_kept ?_ ?e); (case e => rfl))
    | ((with_reducible refine actVerdict_kept ?_ ?e); (case e => rfl))
    | ((with_reducible refine takeData_kept ?_ ?e); (case e => rfl))
    | ((with_reducible refine showCrush_kept ?_ ?e); (case e => rfl))
    | ((with_reducible refine pumpAll_kept ?_ ?e); (case e => rfl))
    | ((with_reducible refine sendChunk_kept ?_ ?e); (case e => rfl))
    | ((with_reducible refine bump_kept ?_ ?e); (case e => rfl))
    | ((with_reducible refine endColl_kept ?_ ?e); (case e => rfl))
    | dsimp only
    | split

theorem applyColl_kept {s : State} {phase : CollPhase} {m : CollMsg} {pw : List Part} {s0 : State} (h : Kept pw s0 s) (hw : subParts [.regs, .mem, .work, .yards, .fab, .crush, .ten, .cores, .boot, .out, .free] pw = true) :
    Kept pw s0 (applyColl s phase m).1 := by
  refine Kept.app h hw ?_
  unfold applyColl
  repeat' first
    | with_reducible exact Kept.refl _ _
    | with_reducible refine Kept.ite ?_ ?_
    | with_reducible refine Kept.ite_fst ?_ ?_
    | ((with_reducible refine bump_kept ?_ ?e); (case e => rfl))
    | ((with_reducible refine actColl_kept ?_ ?e); (case e => rfl))
    | ((with_reducible refine showCrush_kept ?_ ?e); (case e => rfl))
    | dsimp only
    | fail_if_no_progress ((with_reducible refine Kept.setCrush ?_ ?e); (case e => rfl))
    | split

theorem sweepLost_kept {s : State} {pw : List Part} {s0 : State} (h : Kept pw s0 s) (hw : subParts [.regs, .mem, .work, .yards, .fab, .crush, .ten, .cores, .boot, .out, .free] pw = true) :
    Kept pw s0 (sweepLost s) := by
  refine Kept.app h hw ?_
  unfold sweepLost
  repeat' first
    | with_reducible assumption
    | with_reducible exact Kept.refl _ _
    | ((with_reducible refine failColl_kept ?_ ?e); (case e => rfl))
    | with_reducible refine Kept.foldl ?_ ?_
    | dsimp only
    | fail_if_no_progress ((with_reducible refine Kept.setCrush ?_ ?e); (case e => rfl))
    | split
    | intro _

theorem onColl_kept {s : State} {phase : CollPhase} {m : CollMsg} {pw : List Part} {s0 : State} (h : Kept pw s0 s) (hw : subParts [.regs, .mem, .work, .yards, .fab, .crush, .ten, .cores, .boot, .out, .free] pw = true) :
    Kept pw s0 (onColl s phase m) := by
  refine Kept.app h hw ?_
  unfold onColl
  repeat' first
    | with_reducible assumption
    | with_reducible exact Kept.refl _ _
    | ((with_reducible refine arriving_kept ?_ ?e ?_); (case e => rfl))
    | ((with_reducible refine forwardMsg_kept ?_ ?e); (case e => rfl))
    | ((with_reducible refine admitMsg_kept ?_ ?e); (case e => rfl))
    | ((with_reducible refine sweepLost_kept ?_ ?e); (case e => rfl))
    | ((with_reducible refine sendReply_kept ?_ ?e); (case e => rfl))
    | ((with_reducible refine applyColl_kept ?_ ?e); (case e => rfl))
    | ((with_reducible refine settleAt_kept ?_ ?e); (case e => rfl))
    | dsimp only
    | split
    | intro _

theorem loseMember_kept {s : State} {node : Nat} {pw : List Part} {s0 : State} (h : Kept pw s0 s) (hw : subParts [.regs, .mem, .work, .yards, .fab, .crush, .ten, .cores, .boot, .out, .free] pw = true) :
    Kept pw s0 (loseMember s node) := by
  refine Kept.app h hw ?_
  unfold loseMember
  repeat' first
    | with_reducible assumption
    | with_reducible exact Kept.refl _ _
    | ((with_reducible refine failColl_kept ?_ ?e); (case e => rfl))
    | with_reducible refine Kept.foldl ?_ ?_
    | intro _

theorem crRuns_kept {s : State} {f : Nat} {a : Nat} {n : Nat} {write : Bool} {pw : List Part} {s0 : State} (h : Kept pw s0 s) (hw : subParts [.regs, .mem, .ten, .boot, .out] pw = true) :
    Kept pw s0 (crRuns s f a n write).1 := by
  refine Kept.app h hw ?_
  unfold crRuns
  repeat' first
    | with_reducible exact Kept.refl _ _
    | with_reducible refine Kept.ite_fst ?_ ?_
    | ((with_reducible refine translate_kept ?_ ?e); (case e => rfl))

theorem takeEarly_kept {s : State} {cid : Nat} {k : Coll} {pw : List Part} {s0 : State} (h : Kept pw s0 s) (hw : subParts [.regs, .mem, .work, .yards, .fab, .crush, .ten, .cores, .boot, .out, .free] pw = true) :
    Kept pw s0 (takeEarly s cid k) := by
  refine Kept.app h hw ?_
  unfold takeEarly
  repeat' first
    | with_reducible assumption
    | with_reducible exact Kept.refl _ _
    | ((with_reducible refine actColl_kept ?_ ?e); (case e => rfl))
    | with_reducible refine Kept.foldl ?_ ?_
    | dsimp only
    | fail_if_no_progress ((with_reducible refine Kept.setCrush ?_ ?e); (case e => rfl))
    | split
    | intro _

theorem joinColl_kept {s : State} {cid : Nat} {c : Cmd} {k : Coll} {pw : List Part} {s0 : State} (h : Kept pw s0 s) (hw : subParts [.regs, .mem, .work, .yards, .fab, .crush, .ten, .cores, .boot, .out, .free] pw = true) :
    Kept pw s0 (joinColl s cid c k) := by
  refine Kept.app h hw ?_
  unfold joinColl
  repeat' first
    | with_reducible assumption
    | with_reducible exact Kept.refl _ _
    | with_reducible refine Kept.ite ?_ ?_
    | ((with_reducible refine putCmd_kept ?_ ?e); (case e => rfl))
    | ((with_reducible refine putColl_kept ?_ ?e); (case e => rfl))
    | ((with_reducible refine sendColl_kept ?_ ?e); (case e => rfl))
    | ((with_reducible refine showCrush_kept ?_ ?e); (case e => rfl))
    | ((with_reducible refine tryReport_kept ?_ ?e); (case e => rfl))
    | ((with_reducible refine takeEarly_kept ?_ ?e); (case e => rfl))
    | with_reducible refine Kept.foldl ?_ ?_
    | dsimp only
    | fail_if_no_progress ((with_reducible refine Kept.setWork ?_ ?e); (case e => rfl))
    | split
    | intro _

theorem crushRefuse_kept {s : State} {cid : Nat} {c : Cmd} {k : Coll} {st : Status} {fault : Nat} {pw : List Part} {s0 : State} (h : Kept pw s0 s) (hw : subParts [.regs, .mem, .work, .yards, .fab, .crush, .ten, .cores, .boot, .out, .free] pw = true) :
    Kept pw s0 (crushRefuse s cid c k st fault) := by
  refine Kept.app h hw ?_
  unfold crushRefuse
  repeat' first
    | with_reducible exact Kept.refl _ _
    | with_reducible refine Kept.ite ?_ ?_
    | ((with_reducible refine finish_kept ?_ ?e); (case e => rfl))
    | ((with_reducible refine sendAborts_kept ?_ ?e); (case e => rfl))

theorem crushStart_kept {s : State} {cid : Nat} {c : Cmd} {k : Coll} {send : List Nat} {recv : List Nat} {pw : List Part} {s0 : State} (h : Kept pw s0 s) (hw : subParts [.regs, .mem, .work, .yards, .fab, .crush, .ten, .cores, .boot, .out, .free] pw = true) :
    Kept pw s0 (crushStart s cid c k send recv) := by
  refine Kept.app h hw ?_
  unfold crushStart
  repeat' first
    | with_reducible exact Kept.refl _ _
    | with_reducible refine Kept.ite ?_ ?_
    | ((with_reducible refine finish_kept ?_ ?e); (case e => rfl))
    | fail_if_no_progress ((with_reducible refine Kept.fst (by assumption) (crRuns_kept ?_ ?e)); (case e => rfl))
    | ((with_reducible refine crushRefuse_kept ?_ ?e); (case e => rfl))
    | ((with_reducible refine joinColl_kept ?_ ?e); (case e => rfl))
    | split

theorem crushCmd_kept {s : State} {cid : Nat} {op : Nat} {pw : List Part} {s0 : State} (h : Kept pw s0 s) (hw : subParts [.regs, .mem, .work, .yards, .fab, .crush, .ten, .cores, .boot, .out, .free] pw = true) :
    Kept pw s0 (crushCmd s cid op) := by
  refine Kept.app h hw ?_
  unfold crushCmd
  repeat' first
    | with_reducible exact Kept.refl _ _
    | with_reducible refine Kept.ite ?_ ?_
    | ((with_reducible refine finish_kept ?_ ?e); (case e => rfl))
    | fail_if_no_progress ((with_reducible refine Kept.fst (by assumption) (crGroupRead_kept ?_ ?e)); (case e => rfl))
    | ((with_reducible refine crushRefuse_kept ?_ ?e); (case e => rfl))
    | fail_if_no_progress ((with_reducible refine Kept.fst (by assumption) (crRuns_kept ?_ ?e)); (case e => rfl))
    | fail_if_no_progress ((with_reducible refine Kept.fst (by assumption) (payDram_kept ?_ ?e)); (case e => rfl))
    | ((with_reducible refine putCmd_kept ?_ ?e); (case e => rfl))
    | fail_if_no_progress ((with_reducible refine Kept.fst (by assumption) (readRuns_kept ?_ ?e)); (case e => rfl))
    | ((with_reducible refine crushStart_kept ?_ ?e); (case e => rfl))
    | dsimp only
    | split

theorem resumeFabric_kept {s : State} {pw : List Part} {s0 : State} (h : Kept pw s0 s) (hw : subParts [.regs, .mem, .work, .yards, .fab, .crush, .ten, .cores, .boot, .out, .free] pw = true) :
    Kept pw s0 (resumeFabric s) := by
  refine Kept.app h hw ?_
  unfold resumeFabric
  repeat' first
    | with_reducible assumption
    | with_reducible exact Kept.refl _ _
    | ((with_reducible refine deliverLocal_kept ?_ ?e); (case e => rfl))
    | ((with_reducible refine releaseHeld_kept ?_ ?e); (case e => rfl))
    | ((with_reducible refine sweepLost_kept ?_ ?e); (case e => rfl))
    | ((with_reducible refine advanceColl_kept ?_ ?e); (case e => rfl))
    | with_reducible refine Kept.foldl ?_ ?_
    | intro _

end Sys2Proof.Machine
end

