-- ==== Sys2Proof/Laws/MessagesKept.lean ====
section
/-! SUPPORT. What every operation of Machine/Messages.lean may change, as a law of Kept. -/

set_option linter.unreachableTactic false
set_option linter.unusedTactic false
set_option linter.unusedVariables false

namespace Sys2Proof.Machine

theorem settleFabric_kept {s : State} {pw : List Part} {s0 : State} (h : Kept pw s0 s) (hw : subParts [.regs, .mem, .work, .yards, .fab, .crush, .ten, .cores, .boot, .out, .free] pw = true) :
    Kept pw s0 (settleFabric s) := by
  refine Kept.app h hw ?_
  unfold settleFabric
  repeat' first
    | with_reducible exact Kept.refl _ _
    | ((with_reducible refine sweepLost_kept ?_ ?e); (case e => rfl))
    | ((with_reducible refine deliverLocal_kept ?_ ?e); (case e => rfl))

theorem enterRetrain_kept {s : State} {p : Nat} {pw : List Part} {s0 : State} (h : Kept pw s0 s) (hw : subParts [.regs, .mem, .work, .yards, .fab, .crush, .ten, .cores, .boot, .out, .free] pw = true) :
    Kept pw s0 (enterRetrain s p) := by
  refine Kept.app h hw ?_
  unfold enterRetrain
  repeat' first
    | with_reducible exact Kept.refl _ _
    | with_reducible refine Kept.ite ?_ ?_
    | ((with_reducible refine putLink_kept ?_ ?e); (case e => rfl))
    | ((with_reducible refine setPort_kept ?_ ?e); (case e => rfl))
    | ((with_reducible refine bumpSat_kept ?_ ?e); (case e => rfl))

theorem goDown_kept {s : State} {p : Nat} {pw : List Part} {s0 : State} (h : Kept pw s0 s) (hw : subParts [.regs, .mem, .work, .yards, .fab, .crush, .ten, .cores, .boot, .out, .free] pw = true) :
    Kept pw s0 (goDown s p) := by
  refine Kept.app h hw ?_
  unfold goDown
  repeat' first
    | with_reducible exact Kept.refl _ _
    | ((with_reducible refine setPort_kept ?_ ?e); (case e => rfl))
    | ((with_reducible refine bumpSat_kept ?_ ?e); (case e => rfl))
    | ((with_reducible refine putLink_kept ?_ ?e); (case e => rfl))

theorem linkAck_kept {s : State} {p : Nat} {ackSeq : Nat} {nak : Bool} {pw : List Part} {s0 : State} (h : Kept pw s0 s) (hw : subParts [.regs, .mem, .work, .yards, .fab, .crush, .ten, .cores, .boot, .out, .free] pw = true) :
    Kept pw s0 (linkAck s p ackSeq nak) := by
  refine Kept.app h hw ?_
  unfold linkAck
  repeat' first
    | with_reducible assumption
    | with_reducible exact Kept.refl _ _
    | with_reducible refine Kept.ite ?_ ?_
    | ((with_reducible refine putLink_kept ?_ ?e); (case e => rfl))
    | ((with_reducible refine bump_kept ?_ ?e); (case e => rfl))
    | ((with_reducible refine enterRetrain_kept ?_ ?e); (case e => rfl))
    | ((with_reducible refine sendData_kept ?_ ?e); (case e => rfl))
    | with_reducible refine Kept.foldl ?_ ?_
    | intro _

theorem onFlit_kept {s : State} {p : Nat} {ackSeq : Nat} {nak : Bool} {crcOk : Bool} {errs : List (BitVec 10)} {act : State → State} {pw : List Part} {s0 : State} (h : Kept pw s0 s) (hw : subParts [.regs, .mem, .work, .yards, .fab, .crush, .ten, .cores, .boot, .out, .free] pw = true)
    (hact : ∀ s , Kept pw s0 s → Kept pw s0 (act s)) :
    Kept pw s0 (onFlit s p ackSeq nak crcOk errs act) := by
  unfold onFlit
  repeat' first
    | with_reducible assumption
    | with_reducible refine Kept.ite ?_ ?_
    | ((with_reducible refine bump_kept ?_ ?e); (case e => first | exact subParts_trans rfl hw | exact contains_of_sub rfl hw))
    | ((with_reducible refine sendIdle_kept ?_ ?e); (case e => first | exact subParts_trans rfl hw | exact contains_of_sub rfl hw))
    | ((with_reducible refine putLink_kept ?_ ?e); (case e => first | exact subParts_trans rfl hw | exact contains_of_sub rfl hw))
    | ((with_reducible refine enterRetrain_kept ?_ ?e); (case e => first | exact subParts_trans rfl hw | exact contains_of_sub rfl hw))
    | ((with_reducible refine linkAck_kept ?_ ?e); (case e => first | exact subParts_trans rfl hw | exact contains_of_sub rfl hw))
    | split
    | with_reducible refine hact _ ?_

end Sys2Proof.Machine
end

