-- ==== Sys2Proof/Laws/SignedKept.lean ====
section
/-! SUPPORT. What every operation of Machine/Signed.lean may change, as a law of Kept. -/

set_option linter.unreachableTactic false
set_option linter.unusedTactic false
set_option linter.unusedVariables false

namespace Sys2Proof.Machine

theorem mrExtend_kept {s : State} {i : Nat} {m : Nat} {pw : List Part} {s0 : State} (h : Kept pw s0 s) (hw : subParts [.regs] pw = true) :
    Kept pw s0 (mrExtend s i m) := by
  refine Kept.app h hw ?_
  unfold mrExtend
  repeat' first
    | with_reducible exact Kept.refl _ _
    | ((with_reducible refine wr_kept ?_ ?e); (case e => rfl))

theorem measure_kept {s : State} {i : Nat} {obj : List Byte} {pw : List Part} {s0 : State} (h : Kept pw s0 s) (hw : subParts [.regs] pw = true) :
    Kept pw s0 (measure s i obj) := by
  refine Kept.app h hw ?_
  unfold measure
  repeat' first
    | with_reducible exact Kept.refl _ _
    | ((with_reducible refine mrExtend_kept ?_ ?e); (case e => rfl))

theorem recWrite_kept {s : State} {ok1 : Bool} {ok2 : Bool} {pw : List Part} {s0 : State} (h : Kept pw s0 s) (hw : subParts [.regs, .ten, .boot, .out] pw = true) :
    Kept pw s0 (recWrite s ok1 ok2) := by
  refine Kept.app h hw ?_
  unfold recWrite
  repeat' first
    | with_reducible exact Kept.refl _ _
    | with_reducible refine Kept.ite ?_ ?_
    | ((with_reducible refine healthCause_kept ?_ ?e); (case e => rfl))
    | dsimp only
    | fail_if_no_progress ((with_reducible refine Kept.setBoot ?_ ?e ?i); (case e => rfl); (case i => first | with_reducible exact id | with_reducible exact fun h => nvmPut_wf (nvmErase_wf h) | with_reducible exact fun h => nvmErase_wf h | with_reducible exact fun h => nvmPut_wf h))

theorem recMark_kept {s : State} {pw : List Part} {s0 : State} (h : Kept pw s0 s) (hw : subParts [.boot] pw = true) :
    Kept pw s0 (recMark s) := by
  refine Kept.app h hw ?_
  unfold recMark
  repeat' first
    | with_reducible exact Kept.refl _ _
    | dsimp only
    | fail_if_no_progress ((with_reducible refine Kept.setBoot ?_ ?e ?i); (case e => rfl); (case i => first | with_reducible exact id | with_reducible exact fun h => nvmPut_wf (nvmErase_wf h) | with_reducible exact fun h => nvmErase_wf h | with_reducible exact fun h => nvmPut_wf h))

theorem recLoad_kept {s : State} {b : Nat} {pw : List Part} {s0 : State} (h : Kept pw s0 s) (hw : subParts [.regs, .mem, .boot, .health] pw = true) :
    Kept pw s0 (recLoad s b) := by
  refine Kept.app h hw ?_
  unfold recLoad
  repeat' first
    | with_reducible assumption
    | with_reducible exact Kept.refl _ _
    | ((with_reducible refine wr_kept ?_ ?e); (case e => rfl))
    | with_reducible refine Kept.foldl ?_ ?_
    | dsimp only
    | fail_if_no_progress ((with_reducible refine Kept.setMemBootHealth ?_ ?e0 ?e1 ?e2 ?i0 ?i1); (case e0 => rfl); (case e1 => rfl); (case e2 => rfl); (case i0 => first | with_reducible exact id | with_reducible exact fun h => memPutBytes_wf h | with_reducible exact fun h => memStore_wf h | with_reducible exact fun h => rekeyLine_wf h | with_reducible exact fun h => memClearLot_wf h | with_reducible exact fun h => mapPuts_wf (filter_wf h) | exact fun _ => rfl); (case i1 => first | with_reducible exact id | with_reducible exact fun h => nvmPut_wf (nvmErase_wf h) | with_reducible exact fun h => nvmErase_wf h | with_reducible exact fun h => nvmPut_wf h))
    | intro _

end Sys2Proof.Machine
end

