-- ==== Sys2Proof/Laws/HealthKept.lean ====
section
/-! SUPPORT. What every operation of Machine/Health.lean may change, as a law of Kept. -/

set_option linter.unreachableTactic false
set_option linter.unusedTactic false
set_option linter.unusedVariables false

namespace Sys2Proof.Machine

theorem sendDatagram_kept {s : State} {kind : Nat} {cause : Nat} {port : Nat} {pw : List Part} {s0 : State} (h : Kept pw s0 s) (hw : subParts [.health, .out] pw = true) :
    Kept pw s0 (sendDatagram s kind cause port) := by
  refine Kept.app h hw ?_
  unfold sendDatagram
  repeat' first
    | with_reducible exact Kept.refl _ _
    | with_reducible refine Kept.ite ?_ ?_
    | ((with_reducible refine emit_kept ?_ ?e); (case e => rfl))
    | dsimp only
    | fail_if_no_progress ((with_reducible refine Kept.setHealth ?_ ?e); (case e => rfl))

theorem notifyMgmt_kept {s : State} {kind : Nat} {cause : Nat} {pw : List Part} {s0 : State} (h : Kept pw s0 s) (hw : subParts [.health, .out] pw = true) :
    Kept pw s0 (notifyMgmt s kind cause) := by
  refine Kept.app h hw ?_
  unfold notifyMgmt
  repeat' first
    | with_reducible exact Kept.refl _ _
    | ((with_reducible refine sendDatagram_kept ?_ ?e); (case e => rfl))

theorem ticked_kept {s : State} {k : Nat} {pw : List Part} {s0 : State} (h : Kept pw s0 s) (hw : subParts [.health] pw = true) :
    Kept pw s0 (ticked s k) := by
  refine Kept.app h hw ?_
  unfold ticked
  repeat' first
    | with_reducible exact Kept.refl _ _
    | dsimp only
    | fail_if_no_progress ((with_reducible refine Kept.setHealth ?_ ?e); (case e => rfl))

theorem setLive_kept {s : State} {port : Bool} {n : Nat} {v : Nat} {pw : List Part} {s0 : State} (h : Kept pw s0 s) (hw : subParts [.regs, .ten, .out] pw = true) :
    Kept pw s0 (setLive s port n v) := by
  refine Kept.app h hw ?_
  unfold setLive
  repeat' first
    | with_reducible exact Kept.refl _ _
    | with_reducible refine Kept.ite ?_ ?_
    | ((with_reducible refine healthCause_kept ?_ ?e); (case e => rfl))
    | ((with_reducible refine wr_kept ?_ ?e); (case e => rfl))

theorem onDatagram_kept {s : State} {port : Bool} {d : Datagram} {gone : Bool} {pw : List Part} {s0 : State} (h : Kept pw s0 s) (hw : subParts [.regs, .mem, .work, .yards, .fab, .crush, .ten, .cores, .boot, .health, .out, .free] pw = true) :
    Kept pw s0 (onDatagram s port d gone) := by
  refine Kept.app h hw ?_
  unfold onDatagram
  repeat' first
    | with_reducible exact Kept.refl _ _
    | with_reducible refine Kept.ite ?_ ?_
    | ((with_reducible refine bump_kept ?_ ?e); (case e => rfl))
    | ((with_reducible refine settleFabric_kept ?_ ?e); (case e => rfl))
    | ((with_reducible refine learnInc_kept ?_ ?e); (case e => rfl))
    | ((with_reducible refine wr_kept ?_ ?e); (case e => rfl))
    | ((with_reducible refine setLive_kept ?_ ?e); (case e => rfl))
    | dsimp only
    | fail_if_no_progress ((with_reducible refine Kept.setHealth ?_ ?e); (case e => rfl))

theorem showEvidence_kept {s : State} {n : Nat} {pw : List Part} {s0 : State} (h : Kept pw s0 s) (hw : subParts [.regs] pw = true) :
    Kept pw s0 (showEvidence s n) := by
  refine Kept.app h hw ?_
  unfold showEvidence
  repeat' first
    | with_reducible exact Kept.refl _ _
    | ((with_reducible refine wr_kept ?_ ?e); (case e => rfl))

theorem applyEvidence_kept {s : State} {e : Evidence} {pw : List Part} {s0 : State} (h : Kept pw s0 s) (hw : subParts [.regs, .ten, .boot, .health, .out] pw = true) :
    Kept pw s0 (applyEvidence s e) := by
  refine Kept.app h hw ?_
  unfold applyEvidence
  repeat' first
    | with_reducible exact Kept.refl _ _
    | with_reducible refine Kept.ite ?_ ?_
    | ((with_reducible refine recMark_kept ?_ ?e); (case e => rfl))
    | ((with_reducible refine healthCause_kept ?_ ?e); (case e => rfl))
    | ((with_reducible refine showEvidence_kept ?_ ?e); (case e => rfl))
    | dsimp only
    | fail_if_no_progress ((with_reducible refine Kept.setHealth ?_ ?e); (case e => rfl))

theorem floodEvidence_kept {s : State} {node : Nat} {proving : Bool} {unit : Nat} {pw : List Part} {s0 : State} (h : Kept pw s0 s) (hw : subParts [.regs, .ten, .boot, .health, .out] pw = true) :
    Kept pw s0 (floodEvidence s node proving unit) := by
  refine Kept.app h hw ?_
  unfold floodEvidence
  repeat' first
    | with_reducible exact Kept.refl _ _
    | ((with_reducible refine emit_kept ?_ ?e); (case e => rfl))
    | ((with_reducible refine applyEvidence_kept ?_ ?e); (case e => rfl))

theorem showList_kept {s : State} {pw : List Part} {s0 : State} (h : Kept pw s0 s) (hw : subParts [.regs] pw = true) :
    Kept pw s0 (showList s) := by
  refine Kept.app h hw ?_
  unfold showList
  repeat' first
    | with_reducible exact Kept.refl _ _
    | ((with_reducible refine wr_kept ?_ ?e); (case e => rfl))

theorem applyChange_kept {s : State} {c : HChange} {pw : List Part} {s0 : State} (h : Kept pw s0 s) (hw : subParts [.regs, .mem, .work, .yards, .fab, .crush, .ten, .cores, .boot, .health, .out, .free] pw = true) :
    Kept pw s0 (applyChange s c) := by
  refine Kept.app h hw ?_
  unfold applyChange
  repeat' first
    | with_reducible assumption
    | with_reducible exact Kept.refl _ _
    | with_reducible refine Kept.ite ?_ ?_
    | ((with_reducible refine wr_kept ?_ ?e); (case e => rfl))
    | ((with_reducible refine healthCause_kept ?_ ?e); (case e => rfl))
    | ((with_reducible refine recMark_kept ?_ ?e); (case e => rfl))
    | ((with_reducible refine showList_kept ?_ ?e); (case e => rfl))
    | ((with_reducible refine settleFabric_kept ?_ ?e); (case e => rfl))
    | ((with_reducible refine failover_kept ?_ ?e); (case e => rfl))
    | ((with_reducible refine settleOne_kept ?_ ?e); (case e => rfl))
    | ((with_reducible refine loseMember_kept ?_ ?e); (case e => rfl))
    | with_reducible refine Kept.foldl ?_ ?_
    | dsimp only
    | fail_if_no_progress ((with_reducible refine Kept.setHealth ?_ ?e); (case e => rfl))
    | intro _

theorem issueChange_kept {s : State} {op : HOp} {n : Nat} {pw : List Part} {s0 : State} (h : Kept pw s0 s) (hw : subParts [.regs, .mem, .work, .yards, .fab, .crush, .ten, .cores, .boot, .health, .out, .free] pw = true) :
    Kept pw s0 (issueChange s op n) := by
  refine Kept.app h hw ?_
  unfold issueChange
  repeat' first
    | with_reducible exact Kept.refl _ _
    | ((with_reducible refine emit_kept ?_ ?e); (case e => rfl))
    | ((with_reducible refine applyChange_kept ?_ ?e); (case e => rfl))

theorem tryChange_kept {s : State} {op : HOp} {n : Nat} {pw : List Part} {s0 : State} (h : Kept pw s0 s) (hw : subParts [.regs, .mem, .work, .yards, .fab, .crush, .ten, .cores, .boot, .health, .out, .free] pw = true) :
    Kept pw s0 (tryChange s op n) := by
  refine Kept.app h hw ?_
  unfold tryChange
  repeat' first
    | with_reducible exact Kept.refl _ _
    | ((with_reducible refine wr_kept ?_ ?e); (case e => rfl))
    | ((with_reducible refine issueChange_kept ?_ ?e); (case e => rfl))
    | dsimp only
    | split

theorem listCmd_kept {s : State} {op : HOp} {code : Nat} {n : Nat} {pw : List Part} {s0 : State} (h : Kept pw s0 s) (hw : subParts [.regs, .mem, .work, .yards, .fab, .crush, .ten, .cores, .boot, .health, .out, .free] pw = true) :
    Kept pw s0 (listCmd s op code n) := by
  refine Kept.app h hw ?_
  unfold listCmd
  repeat' first
    | with_reducible exact Kept.refl _ _
    | with_reducible refine Kept.ite ?_ ?_
    | ((with_reducible refine logErr_kept ?_ ?e); (case e => rfl))
    | ((with_reducible refine tryChange_kept ?_ ?e); (case e => rfl))
    | ((with_reducible refine wr_kept ?_ ?e); (case e => rfl))

theorem revertChange_kept {s : State} {pw : List Part} {s0 : State} (h : Kept pw s0 s) (hw : subParts [.regs, .health] pw = true) :
    Kept pw s0 (revertChange s) := by
  refine Kept.app h hw ?_
  unfold revertChange
  repeat' first
    | with_reducible assumption
    | with_reducible exact Kept.refl _ _
    | ((with_reducible refine wr_kept ?_ ?e); (case e => rfl))
    | with_reducible refine Kept.foldl ?_ ?_
    | dsimp only
    | fail_if_no_progress ((with_reducible refine Kept.setHealth ?_ ?e); (case e => rfl))
    | intro _

theorem applyEarly_kept {fuel : Nat} {s : State} {pw : List Part} {s0 : State} (h : Kept pw s0 s) (hw : subParts [.regs, .mem, .work, .yards, .fab, .crush, .ten, .cores, .boot, .health, .out, .free] pw = true) :
    Kept pw s0 (applyEarly fuel s) := by
  induction fuel generalizing s with
  | zero => exact h
  | succ k ih =>
    rw [applyEarly]
    split
    · exact h
    · exact ih (applyChange_kept (Kept.setHealth h (contains_of_sub rfl hw)) (subParts_trans rfl hw))

theorem quarantine_kept {s : State} {b : Nat} {pw : List Part} {s0 : State} (h : Kept pw s0 s) (hw : subParts [.regs, .yards, .boot, .health] pw = true) :
    Kept pw s0 (quarantine s b) := by
  refine Kept.app h hw ?_
  unfold quarantine
  repeat' first
    | with_reducible exact Kept.refl _ _
    | with_reducible refine Kept.ite ?_ ?_
    | ((with_reducible refine recMark_kept ?_ ?e); (case e => rfl))
    | ((with_reducible refine wr_kept ?_ ?e); (case e => rfl))
    | ((with_reducible refine putBench_kept ?_ ?e); (case e => rfl))
    | ((with_reducible refine startSwitch_kept ?_ ?e); (case e => rfl))

theorem shadowKill_kept {s : State} {cid : Nat} {c : Cmd} {pw : List Part} {s0 : State} (h : Kept pw s0 s) (hw : subParts [.regs, .mem, .work, .yards, .fab] pw = true) :
    Kept pw s0 (shadowKill s cid c) := by
  refine Kept.app h hw ?_
  unfold shadowKill
  repeat' first
    | with_reducible exact Kept.refl _ _
    | ((with_reducible refine killAll_kept ?_ ?e); (case e => rfl))

theorem proveLog_kept {s : State} {e : Nat} {pw : List Part} {s0 : State} (h : Kept pw s0 s) (hw : subParts [.regs] pw = true) :
    Kept pw s0 (proveLog s e) := by
  refine Kept.app h hw ?_
  unfold proveLog
  repeat' first
    | with_reducible exact Kept.refl _ _
    | with_reducible refine Kept.ite ?_ ?_
    | ((with_reducible refine bumpSat_kept ?_ ?e); (case e => rfl))
    | ((with_reducible refine wr_kept ?_ ?e); (case e => rfl))

theorem proveFailed_kept {s : State} {r : ProveRun} {entry : Nat} {pw : List Part} {s0 : State} (h : Kept pw s0 s) (hw : subParts [.regs, .yards, .ten, .boot, .health, .out] pw = true) :
    Kept pw s0 (proveFailed s r entry) := by
  refine Kept.app h hw ?_
  unfold proveFailed
  repeat' first
    | with_reducible exact Kept.refl _ _
    | with_reducible refine Kept.ite ?_ ?_
    | ((with_reducible refine recMark_kept ?_ ?e); (case e => rfl))
    | ((with_reducible refine wr_kept ?_ ?e); (case e => rfl))
    | ((with_reducible refine quarantine_kept ?_ ?e); (case e => rfl))
    | ((with_reducible refine healthCause_kept ?_ ?e); (case e => rfl))
    | ((with_reducible refine proveLog_kept ?_ ?e); (case e => rfl))
    | ((with_reducible refine floodEvidence_kept ?_ ?e); (case e => rfl))
    | dsimp only
    | fail_if_no_progress ((with_reducible refine Kept.setHealth ?_ ?e); (case e => rfl))

end Sys2Proof.Machine
end

