-- ==== Sys2Proof/Laws/StagedKept.lean ====
section
/-! SUPPORT. What every operation of Machine/Staged.lean may change, as a law of Kept. -/

set_option linter.unreachableTactic false
set_option linter.unusedTactic false
set_option linter.unusedVariables false

namespace Sys2Proof.Machine

theorem cfgResult_kept {s : State} {token : Nat} {kind : Nat} {index : Nat} {outcome : Nat} {st : Status} {pw : List Part} {s0 : State} (h : Kept pw s0 s) (hw : subParts [.regs] pw = true) :
    Kept pw s0 (cfgResult s token kind index outcome st) := by
  refine Kept.app h hw ?_
  unfold cfgResult
  repeat' first
    | with_reducible assumption
    | with_reducible exact Kept.refl _ _
    | with_reducible refine Kept.ite ?_ ?_
    | ((with_reducible refine bumpSat_kept ?_ ?e); (case e => rfl))
    | ((with_reducible refine wr_kept ?_ ?e); (case e => rfl))
    | with_reducible refine Kept.foldl ?_ ?_
    | intro _

theorem putPending_kept {s : State} {l : List Snap} {pw : List Part} {s0 : State} (h : Kept pw s0 s) (hw : subParts [.regs, .cfg] pw = true) :
    Kept pw s0 (putPending s l) := by
  refine Kept.app h hw ?_
  unfold putPending
  repeat' first
    | with_reducible exact Kept.refl _ _
    | ((with_reducible refine wr_kept ?_ ?e); (case e => rfl))
    | dsimp only
    | fail_if_no_progress ((with_reducible refine Kept.setCfg ?_ ?e); (case e => rfl))

theorem applySnap_kept {s : State} {p : Snap} {pw : List Part} {s0 : State} (h : Kept pw s0 s) (hw : subParts [.regs, .live, .ten, .cfg, .out] pw = true) :
    Kept pw s0 (applySnap s p) := by
  refine Kept.app h hw ?_
  unfold applySnap
  repeat' first
    | with_reducible assumption
    | with_reducible exact Kept.refl _ _
    | with_reducible refine Kept.ite ?_ ?_
    | ((with_reducible refine putPending_kept ?_ ?e); (case e => rfl))
    | ((with_reducible refine cfgResult_kept ?_ ?e); (case e => rfl))
    | ((with_reducible refine wrLive_kept ?_ ?e); (case e => rfl))
    | ((with_reducible refine healthCause_kept ?_ ?e); (case e => rfl))
    | ((with_reducible refine logErr_kept ?_ ?e); (case e => rfl))
    | with_reducible refine Kept.foldl ?_ ?_
    | intro _

theorem applyKind_kept {s : State} {kind : Nat} {pw : List Part} {s0 : State} (h : Kept pw s0 s) (hw : subParts [.regs, .live, .ten, .cfg, .out] pw = true) :
    Kept pw s0 (applyKind s kind) := by
  refine Kept.app h hw ?_
  unfold applyKind
  repeat' first
    | with_reducible assumption
    | with_reducible exact Kept.refl _ _
    | ((with_reducible refine applySnap_kept ?_ ?e); (case e => rfl))
    | with_reducible refine Kept.foldl ?_ ?_
    | intro _

end Sys2Proof.Machine
end

