-- ==== Sys2Proof/Laws/TenancyKept.lean ====
section
/-! SUPPORT. What every operation of Machine/Tenancy.lean may change, as a law of Kept. -/

set_option linter.unreachableTactic false
set_option linter.unusedTactic false
set_option linter.unusedVariables false

namespace Sys2Proof.Machine

theorem setVf_kept {s : State} {f : Nat} {st : Nat} {pw : List Part} {s0 : State} (h : Kept pw s0 s) (hw : subParts [.regs] pw = true) :
    Kept pw s0 (setVf s f st) := by
  refine Kept.app h hw ?_
  unfold setVf
  repeat' first
    | with_reducible exact Kept.refl _ _
    | ((with_reducible refine wr_kept ?_ ?e); (case e => rfl))

theorem vfActive_kept {s : State} {f : Nat} {pw : List Part} {s0 : State} (h : Kept pw s0 s) (hw : subParts [.regs] pw = true) :
    Kept pw s0 (vfActive s f) := by
  refine Kept.app h hw ?_
  unfold vfActive
  repeat' first
    | with_reducible exact Kept.refl _ _
    | ((with_reducible refine wr_kept ?_ ?e); (case e => rfl))
    | ((with_reducible refine setVf_kept ?_ ?e); (case e => rfl))

theorem ctlRefuse_kept {s : State} {f : Nat} {pw : List Part} {s0 : State} (h : Kept pw s0 s) (hw : subParts [.regs] pw = true) :
    Kept pw s0 (ctlRefuse s f) := by
  refine Kept.app h hw ?_
  unfold ctlRefuse
  repeat' first
    | with_reducible exact Kept.refl _ _
    | ((with_reducible refine wr_kept ?_ ?e); (case e => rfl))

theorem onVf_kept {s : State} {f : Nat} {act : State → State} {pw : List Part} {s0 : State} (h : Kept pw s0 s) (hw : subParts [.regs] pw = true)
    (hact : ∀ s , Kept pw s0 s → Kept pw s0 (act s)) :
    Kept pw s0 (onVf s f act) := by
  unfold onVf
  repeat' first
    | with_reducible assumption
    | with_reducible refine Kept.ite ?_ ?_
    | ((with_reducible refine logErr_kept ?_ ?e); (case e => first | exact subParts_trans rfl hw | exact contains_of_sub rfl hw))
    | with_reducible refine hact _ ?_

theorem setKey_kept {s : State} {f : Nat} {key : Nat} {delivered : Bool} {pw : List Part} {s0 : State} (h : Kept pw s0 s) (hw : subParts [.regs, .mem] pw = true) :
    Kept pw s0 (setKey s f key delivered) := by
  refine Kept.app h hw ?_
  unfold setKey
  repeat' first
    | with_reducible exact Kept.refl _ _
    | ((with_reducible refine wr_kept ?_ ?e); (case e => rfl))
    | dsimp only
    | fail_if_no_progress ((with_reducible refine Kept.setMem ?_ ?e ?i); (case e => rfl); (case i => first | with_reducible exact id | with_reducible exact fun h => memPutBytes_wf h | with_reducible exact fun h => memStore_wf h | with_reducible exact fun h => rekeyLine_wf h | with_reducible exact fun h => memClearLot_wf h | with_reducible exact fun h => mapPuts_wf (filter_wf h) | exact fun _ => rfl))

theorem freshKey_kept {s : State} {f : Nat} {pw : List Part} {s0 : State} (h : Kept pw s0 s) (hw : subParts [.regs, .mem, .free] pw = true) :
    Kept pw s0 (freshKey s f) := by
  refine Kept.app h hw ?_
  unfold freshKey
  repeat' first
    | with_reducible exact Kept.refl _ _
    | ((with_reducible refine drawn_kept ?_ ?e); (case e => rfl))
    | ((with_reducible refine setKey_kept ?_ ?e); (case e => rfl))

theorem clearCtxs_kept {s : State} {f : Nat} {pw : List Part} {s0 : State} (h : Kept pw s0 s) (hw : subParts [.regs, .yards] pw = true) :
    Kept pw s0 (clearCtxs s f) := by
  refine Kept.app h hw ?_
  unfold clearCtxs
  repeat' first
    | with_reducible assumption
    | with_reducible exact Kept.refl _ _
    | ((with_reducible refine wr_kept ?_ ?e); (case e => rfl))
    | ((with_reducible refine putBench_kept ?_ ?e); (case e => rfl))
    | ((with_reducible refine showBench_kept ?_ ?e); (case e => rfl))
    | ((with_reducible refine putCtx_kept ?_ ?e); (case e => rfl))
    | with_reducible refine Kept.foldl ?_ ?_
    | dsimp only
    | split
    | intro _

theorem resetActions_kept {s : State} {f : Nat} {r : ResetSt} {pw : List Part} {s0 : State} (h : Kept pw s0 s) (hw : subParts [.regs, .work, .yards, .ten] pw = true) :
    Kept pw s0 (resetActions s f r) := by
  refine Kept.app h hw ?_
  unfold resetActions
  repeat' first
    | with_reducible assumption
    | with_reducible exact Kept.refl _ _
    | ((with_reducible refine clearCtxs_kept ?_ ?e); (case e => rfl))
    | ((with_reducible refine wr_kept ?_ ?e); (case e => rfl))
    | ((with_reducible refine logErr_kept ?_ ?e); (case e => rfl))
    | ((with_reducible refine bump_kept ?_ ?e); (case e => rfl))
    | ((with_reducible refine showPart_kept ?_ ?e); (case e => rfl))
    | ((with_reducible refine showFn_kept ?_ ?e); (case e => rfl))
    | ((with_reducible refine vfActive_kept ?_ ?e); (case e => rfl))
    | with_reducible refine Kept.foldl ?_ ?_
    | dsimp only
    | fail_if_no_progress ((with_reducible refine Kept.setWorkTen ?_ ?e0 ?e1 ); (case e0 => rfl); (case e1 => rfl))
    | intro _

theorem endMigration_kept {s : State} {f : Nat} {pw : List Part} {s0 : State} (h : Kept pw s0 s) (hw : subParts [.ten] pw = true) :
    Kept pw s0 (endMigration s f) := by
  refine Kept.app h hw ?_
  unfold endMigration
  repeat' first
    | with_reducible exact Kept.refl _ _
    | with_reducible refine Kept.ite ?_ ?_
    | dsimp only
    | fail_if_no_progress ((with_reducible refine Kept.setTen ?_ ?e); (case e => rfl))
    | split

theorem beginReset_kept {s : State} {f : Nat} {cause : Nat} {toOff : Bool} {pw : List Part} {s0 : State} (h : Kept pw s0 s) (hw : subParts [.regs, .mem, .work, .yards, .fab, .crush, .ten, .cores, .boot, .out, .free] pw = true) :
    Kept pw s0 (beginReset s f cause toOff) := by
  refine Kept.app h hw ?_
  unfold beginReset
  repeat' first
    | with_reducible assumption
    | with_reducible exact Kept.refl _ _
    | ((with_reducible refine failColl_kept ?_ ?e); (case e => rfl))
    | ((with_reducible refine killCmd_kept ?_ ?e); (case e => rfl))
    | ((with_reducible refine endMigration_kept ?_ ?e); (case e => rfl))
    | ((with_reducible refine showFn_kept ?_ ?e); (case e => rfl))
    | ((with_reducible refine wr_kept ?_ ?e); (case e => rfl))
    | ((with_reducible refine setVf_kept ?_ ?e); (case e => rfl))
    | with_reducible refine Kept.foldl ?_ ?_
    | dsimp only
    | fail_if_no_progress ((with_reducible refine Kept.setFab ?_ ?e); (case e => rfl))
    | fail_if_no_progress ((with_reducible refine Kept.setWorkFabTen ?_ ?e0 ?e1 ?e2 ); (case e0 => rfl); (case e1 => rfl); (case e2 => rfl))
    | split
    | intro _

theorem forceWith_kept {s : State} {f : Nat} {cause : Nat} {pw : List Part} {s0 : State} (h : Kept pw s0 s) (hw : subParts [.regs, .mem, .work, .yards, .fab, .crush, .ten, .cores, .boot, .out, .free] pw = true) :
    Kept pw s0 (forceWith s f cause) := by
  refine Kept.app h hw ?_
  unfold forceWith
  repeat' first
    | with_reducible exact Kept.refl _ _
    | with_reducible refine Kept.ite ?_ ?_
    | ((with_reducible refine beginReset_kept ?_ ?e); (case e => rfl))

theorem releaseLots_kept {s : State} {f : Nat} {pw : List Part} {s0 : State} (h : Kept pw s0 s) (hw : subParts [.regs] pw = true) :
    Kept pw s0 (releaseLots s f) := by
  refine Kept.app h hw ?_
  unfold releaseLots
  repeat' first
    | with_reducible assumption
    | with_reducible exact Kept.refl _ _
    | ((with_reducible refine wr_kept ?_ ?e); (case e => rfl))
    | with_reducible refine Kept.foldl ?_ ?_
    | split
    | intro _

theorem enableVf_kept {s : State} {f : Nat} {pw : List Part} {s0 : State} (h : Kept pw s0 s) (hw : subParts [.regs, .live, .mem, .work, .yards, .ten, .free] pw = true) :
    Kept pw s0 (enableVf s f) := by
  refine Kept.app h hw ?_
  unfold enableVf
  repeat' first
    | with_reducible assumption
    | with_reducible exact Kept.refl _ _
    | ((with_reducible refine clearCtxs_kept ?_ ?e); (case e => rfl))
    | ((with_reducible refine freshKey_kept ?_ ?e); (case e => rfl))
    | ((with_reducible refine wrLive_kept ?_ ?e); (case e => rfl))
    | ((with_reducible refine wr_kept ?_ ?e); (case e => rfl))
    | ((with_reducible refine vfActive_kept ?_ ?e); (case e => rfl))
    | with_reducible refine Kept.foldl ?_ ?_
    | dsimp only
    | fail_if_no_progress ((with_reducible refine Kept.setWork ?_ ?e); (case e => rfl))
    | fail_if_no_progress ((with_reducible refine Kept.setTen ?_ ?e); (case e => rfl))
    | split
    | intro _

theorem applyNumVfs_kept {s : State} {m : Nat} {pw : List Part} {s0 : State} (h : Kept pw s0 s) (hw : subParts [.regs, .live, .mem, .work, .yards, .fab, .crush, .ten, .cores, .boot, .out, .free] pw = true) :
    Kept pw s0 (applyNumVfs s m) := by
  refine Kept.app h hw ?_
  unfold applyNumVfs
  repeat' first
    | with_reducible assumption
    | with_reducible exact Kept.refl _ _
    | ((with_reducible refine enableVf_kept ?_ ?e); (case e => rfl))
    | ((with_reducible refine beginReset_kept ?_ ?e); (case e => rfl))
    | ((with_reducible refine wr_kept ?_ ?e); (case e => rfl))
    | with_reducible refine Kept.foldl ?_ ?_
    | dsimp only
    | fail_if_no_progress ((with_reducible refine Kept.setTen ?_ ?e); (case e => rfl))
    | split
    | intro _

theorem emptyBenches_kept {s : State} {f : Nat} {pw : List Part} {s0 : State} (h : Kept pw s0 s) (hw : subParts [.regs, .yards, .health] pw = true) :
    Kept pw s0 (emptyBenches s f) := by
  refine Kept.app h hw ?_
  unfold emptyBenches
  repeat' first
    | with_reducible assumption
    | with_reducible exact Kept.refl _ _
    | ((with_reducible refine startSwitch_kept ?_ ?e); (case e => rfl))
    | with_reducible refine Kept.foldl ?_ ?_
    | split
    | intro _

theorem sampleQueue_kept {s : State} {k : Nat} {x : Queue} {pw : List Part} {s0 : State} (h : Kept pw s0 s) (hw : subParts [.regs] pw = true) :
    Kept pw s0 (sampleQueue s k x) := by
  refine Kept.app h hw ?_
  unfold sampleQueue
  repeat' first
    | with_reducible exact Kept.refl _ _
    | ((with_reducible refine bumpSat_kept ?_ ?e); (case e => rfl))

end Sys2Proof.Machine
end

