-- ==== Sys2Proof/Laws/StartUpKept.lean ====
section
/-! SUPPORT. What every operation of Machine/StartUp.lean may change, as a law of Kept. -/

set_option linter.unreachableTactic false
set_option linter.unusedTactic false
set_option linter.unusedVariables false

namespace Sys2Proof.Machine

theorem settleFn_kept {s : State} {i : Nat} {pw : List Part} {s0 : State} (h : Kept pw s0 s) (hw : subParts [.regs] pw = true) :
    Kept pw s0 (settleFn s i) := by
  refine Kept.app h hw ?_
  unfold settleFn
  repeat' first
    | with_reducible exact Kept.refl _ _
    | with_reducible refine Kept.ite ?_ ?_
    | ((with_reducible refine fnSet_kept ?_ ?e); (case e => rfl))

theorem settle_kept {s : State} {pw : List Part} {s0 : State} (h : Kept pw s0 s) (hw : subParts [.regs] pw = true) :
    Kept pw s0 (settle s) := by
  refine Kept.app h hw ?_
  unfold settle
  repeat' first
    | with_reducible assumption
    | with_reducible exact Kept.refl _ _
    | ((with_reducible refine settleFn_kept ?_ ?e); (case e => rfl))
    | with_reducible refine Kept.foldl ?_ ?_
    | intro _

theorem restrict_kept {s : State} {i : Nat} {st : Status} {pw : List Part} {s0 : State} (h : Kept pw s0 s) (hw : subParts [.regs] pw = true) :
    Kept pw s0 (restrict s i st) := by
  refine Kept.app h hw ?_
  unfold restrict
  repeat' first
    | with_reducible assumption
    | with_reducible exact Kept.refl _ _
    | with_reducible refine Kept.ite ?_ ?_
    | ((with_reducible refine wr_kept ?_ ?e); (case e => rfl))
    | ((with_reducible refine fnSet_kept ?_ ?e); (case e => rfl))
    | ((with_reducible refine settle_kept ?_ ?e); (case e => rfl))
    | with_reducible refine Kept.foldl ?_ ?_
    | split
    | intro _

theorem resetFlds_kept {s : State} {fs : List Fld} {pw : List Part} {s0 : State} (h : Kept pw s0 s) (hw : subParts [.regs] pw = true) :
    Kept pw s0 (resetFlds s fs) := by
  refine Kept.app h hw ?_
  unfold resetFlds
  repeat' first
    | with_reducible exact Kept.refl _ _
    | fail_if_no_progress ((with_reducible refine Kept.setRegs ?_ ?e ?i); (case e => rfl); (case i => first | with_reducible exact id | with_reducible exact fun h => rising_filter _ _ h))

theorem stopUnits_kept {s : State} {pw : List Part} {s0 : State} (h : Kept pw s0 s) (hw : subParts [.regs, .mem, .work, .yards, .fab, .crush, .cores, .radio, .tdfe, .cfg, .health] pw = true) :
    Kept pw s0 (stopUnits s) := by
  refine Kept.app h hw ?_
  unfold stopUnits
  repeat' first
    | with_reducible assumption
    | with_reducible exact Kept.refl _ _
    | ((with_reducible refine resetFlds_kept ?_ ?e); (case e => rfl))
    | ((with_reducible refine wr_kept ?_ ?e); (case e => rfl))
    | with_reducible refine Kept.foldl ?_ ?_
    | dsimp only
    | fail_if_no_progress ((with_reducible refine Kept.setMemWorkYardsFabCrushCoresRadioTdfeHealth ?_ ?e0 ?e1 ?e2 ?e3 ?e4 ?e5 ?e6 ?e7 ?e8 ?i0); (case e0 => rfl); (case e1 => rfl); (case e2 => rfl); (case e3 => rfl); (case e4 => rfl); (case e5 => rfl); (case e6 => rfl); (case e7 => rfl); (case e8 => rfl); (case i0 => first | with_reducible exact id | with_reducible exact fun h => memPutBytes_wf h | with_reducible exact fun h => memStore_wf h | with_reducible exact fun h => rekeyLine_wf h | with_reducible exact fun h => memClearLot_wf h | with_reducible exact fun h => mapPuts_wf (filter_wf h) | exact fun _ => rfl))
    | split
    | intro _

theorem coldState_kept {s : State} {pw : List Part} {s0 : State} (h : Kept pw s0 s) (hw : subParts [.regs, .live, .mem, .work, .yards, .fab, .crush, .ten, .clock, .cores, .images, .radio, .net, .tdfe, .cfg, .sec, .boot, .power, .health] pw = true) :
    Kept pw s0 (coldState s) := by
  refine Kept.app h hw ⟨fun p hp => ?_, fun i => ⟨rfl, i.2.1, i.2.2.1, rising_mapPut _ _ _ _ rfl⟩⟩
  cases p <;> first | rfl | exact absurd (by decide) hp

theorem startSeq_kept {s : State} {pw : List Part} {s0 : State} (h : Kept pw s0 s) (hw : subParts [.regs, .live, .mem, .work, .yards, .fab, .crush, .ten, .clock, .cores, .images, .radio, .net, .tdfe, .cfg, .sec, .boot, .power, .health, .free] pw = true) :
    Kept pw s0 (startSeq s) := by
  refine Kept.app h hw ?_
  unfold startSeq
  repeat' first
    | with_reducible assumption
    | with_reducible exact Kept.refl _ _
    | ((with_reducible refine coldState_kept ?_ ?e); (case e => rfl))
    | ((with_reducible refine drawn_kept ?_ ?e); (case e => rfl))
    | ((with_reducible refine freshKey_kept ?_ ?e); (case e => rfl))
    | ((with_reducible refine wr_kept ?_ ?e); (case e => rfl))
    | ((with_reducible refine fnSet_kept ?_ ?e); (case e => rfl))
    | with_reducible refine Kept.foldl ?_ ?_
    | dsimp only
    | fail_if_no_progress ((with_reducible refine Kept.setMem ?_ ?e ?i); (case e => rfl); (case i => first | with_reducible exact id | with_reducible exact fun h => memPutBytes_wf h | with_reducible exact fun h => memStore_wf h | with_reducible exact fun h => rekeyLine_wf h | with_reducible exact fun h => memClearLot_wf h | with_reducible exact fun h => mapPuts_wf (filter_wf h) | exact fun _ => rfl))
    | intro _

theorem resetLow_kept {s : State} {pw : List Part} {s0 : State} (h : Kept pw s0 s) (hw : subParts [.regs, .live, .mem, .work, .yards, .fab, .crush, .ten, .clock, .cores, .images, .radio, .net, .tdfe, .cfg, .sec, .boot, .power, .health] pw = true) :
    Kept pw s0 (resetLow s) := by
  refine Kept.app h hw ?_
  unfold resetLow
  repeat' first
    | with_reducible exact Kept.refl _ _
    | with_reducible refine Kept.ite ?_ ?_
    | ((with_reducible refine coldState_kept ?_ ?e); (case e => rfl))
    | dsimp only
    | fail_if_no_progress ((with_reducible refine Kept.setBoot ?_ ?e ?i); (case e => rfl); (case i => first | with_reducible exact id | with_reducible exact fun h => nvmPut_wf (nvmErase_wf h) | with_reducible exact fun h => nvmErase_wf h | with_reducible exact fun h => nvmPut_wf h))

theorem resetHigh_kept {s : State} {pw : List Part} {s0 : State} (h : Kept pw s0 s) (hw : subParts [.regs, .live, .mem, .work, .yards, .fab, .crush, .ten, .clock, .cores, .images, .radio, .net, .tdfe, .cfg, .sec, .boot, .power, .health, .free] pw = true) :
    Kept pw s0 (resetHigh s) := by
  refine Kept.app h hw ?_
  unfold resetHigh
  repeat' first
    | with_reducible exact Kept.refl _ _
    | with_reducible refine Kept.ite ?_ ?_
    | ((with_reducible refine startSeq_kept ?_ ?e); (case e => rfl))
    | dsimp only
    | fail_if_no_progress ((with_reducible refine Kept.setBoot ?_ ?e ?i); (case e => rfl); (case i => first | with_reducible exact id | with_reducible exact fun h => nvmPut_wf (nvmErase_wf h) | with_reducible exact fun h => nvmErase_wf h | with_reducible exact fun h => nvmPut_wf h))

theorem loadRecord_kept {s : State} {pw : List Part} {s0 : State} (h : Kept pw s0 s) (hw : subParts [.regs, .mem, .boot, .health] pw = true) :
    Kept pw s0 (loadRecord s) := by
  refine Kept.app h hw ?_
  unfold loadRecord
  repeat' first
    | with_reducible exact Kept.refl _ _
    | ((with_reducible refine recLoad_kept ?_ ?e); (case e => rfl))
    | ((with_reducible refine mrExtend_kept ?_ ?e); (case e => rfl))
    | ((with_reducible refine wr_kept ?_ ?e); (case e => rfl))
    | split

theorem loadGrade_kept {s : State} {g : GradeRec} {pw : List Part} {s0 : State} (h : Kept pw s0 s) (hw : subParts [.regs] pw = true) :
    Kept pw s0 (loadGrade s g) := by
  refine Kept.app h hw ?_
  unfold loadGrade
  repeat' first
    | with_reducible assumption
    | with_reducible exact Kept.refl _ _
    | ((with_reducible refine wr_kept ?_ ?e); (case e => rfl))
    | ((with_reducible refine fnSet_kept ?_ ?e); (case e => rfl))
    | with_reducible refine Kept.foldl ?_ ?_
    | intro _

theorem nvmDone_kept {s : State} {st : Status} {pw : List Part} {s0 : State} (h : Kept pw s0 s) (hw : subParts [.regs] pw = true) :
    Kept pw s0 (nvmDone s st) := by
  refine Kept.app h hw ?_
  unfold nvmDone
  repeat' first
    | with_reducible exact Kept.refl _ _
    | ((with_reducible refine wr_kept ?_ ?e); (case e => rfl))

theorem nvmDeliver_kept {s : State} {bs : List Byte} {pw : List Part} {s0 : State} (h : Kept pw s0 s) (hw : subParts [.regs, .mem, .ten] pw = true) :
    Kept pw s0 (nvmDeliver s bs) := by
  refine Kept.app h hw ?_
  unfold nvmDeliver
  repeat' first
    | with_reducible assumption
    | with_reducible exact Kept.refl _ _
    | with_reducible refine Kept.ite ?_ ?_
    | ((with_reducible refine wr_kept ?_ ?e); (case e => rfl))
    | ((with_reducible refine dramStore_kept ?_ ?e); (case e => rfl))
    | with_reducible refine Kept.foldl ?_ ?_
    | intro _

end Sys2Proof.Machine
end

