-- ==== Sys2Proof/Laws/BringUpKept.lean ====
section
/-! SUPPORT. What every operation of Machine/BringUp.lean may change, as a law of Kept. -/

set_option linter.unreachableTactic false
set_option linter.unusedTactic false
set_option linter.unusedVariables false

namespace Sys2Proof.Machine

theorem commitGroup_kept {s : State} {kind : Nat} {index : Nat} {fw : Bool} {pw : List Part} {s0 : State} (h : Kept pw s0 s) (hw : subParts [.regs, .live, .cfg] pw = true) :
    Kept pw s0 (commitGroup s kind index fw) := by
  refine Kept.app h hw ?_
  unfold commitGroup
  repeat' first
    | with_reducible assumption
    | with_reducible exact Kept.refl _ _
    | with_reducible refine Kept.ite ?_ ?_
    | ((with_reducible refine wr_kept ?_ ?e); (case e => rfl))
    | ((with_reducible refine cfgResult_kept ?_ ?e); (case e => rfl))
    | ((with_reducible refine putPending_kept ?_ ?e); (case e => rfl))
    | ((with_reducible refine wrLive_kept ?_ ?e); (case e => rfl))
    | with_reducible refine Kept.foldl ?_ ?_
    | dsimp only
    | split
    | intro _

theorem assignLots_kept {s : State} {pw : List Part} {s0 : State} (h : Kept pw s0 s) (hw : subParts [.regs] pw = true) :
    Kept pw s0 (assignLots s) := by
  refine Kept.app h hw ?_
  unfold assignLots
  repeat' first
    | with_reducible assumption
    | with_reducible exact Kept.refl _ _
    | ((with_reducible refine wr_kept ?_ ?e); (case e => rfl))
    | with_reducible refine Kept.foldl ?_ ?_
    | split
    | intro _

theorem takeLock_kept {s : State} {pw : List Part} {s0 : State} (h : Kept pw s0 s) (hw : subParts [.regs, .live, .mem, .work, .yards, .fab, .crush, .ten, .cores, .boot, .out, .free] pw = true) :
    Kept pw s0 (takeLock s) := by
  refine Kept.app h hw ?_
  unfold takeLock
  repeat' first
    | with_reducible exact Kept.refl _ _
    | with_reducible refine Kept.ite ?_ ?_
    | ((with_reducible refine assignLots_kept ?_ ?e); (case e => rfl))
    | ((with_reducible refine wr_kept ?_ ?e); (case e => rfl))
    | ((with_reducible refine fnSet_kept ?_ ?e); (case e => rfl))
    | ((with_reducible refine logErr_kept ?_ ?e); (case e => rfl))
    | ((with_reducible refine applyNumVfs_kept ?_ ?e); (case e => rfl))
    | ((with_reducible refine settle_kept ?_ ?e); (case e => rfl))
    | dsimp only
    | fail_if_no_progress ((with_reducible refine Kept.setBoot ?_ ?e ?i); (case e => rfl); (case i => first | with_reducible exact id | with_reducible exact fun h => nvmPut_wf (nvmErase_wf h) | with_reducible exact fun h => nvmErase_wf h | with_reducible exact fun h => nvmPut_wf h))
    | split

theorem repairStack_kept {s : State} {stack : Nat} {spare : Nat} {pw : List Part} {s0 : State} (h : Kept pw s0 s) (hw : subParts [.mem, .boot] pw = true) :
    Kept pw s0 (repairStack s stack spare) := by
  refine Kept.app h hw ?_
  unfold repairStack
  repeat' first
    | with_reducible exact Kept.refl _ _
    | with_reducible refine Kept.ite ?_ ?_
    | ((with_reducible refine recMark_kept ?_ ?e); (case e => rfl))
    | dsimp only
    | fail_if_no_progress ((with_reducible refine Kept.setMem ?_ ?e ?i); (case e => rfl); (case i => first | with_reducible exact id | with_reducible exact fun h => memPutBytes_wf h | with_reducible exact fun h => memStore_wf h | with_reducible exact fun h => rekeyLine_wf h | with_reducible exact fun h => memClearLot_wf h | with_reducible exact fun h => mapPuts_wf (filter_wf h) | exact fun _ => rfl))

theorem onReady_kept {s : State} {i : Nat} {aux : Nat} {pw : List Part} {s0 : State} (h : Kept pw s0 s) (hw : subParts [.regs, .mem, .boot, .health, .out] pw = true) :
    Kept pw s0 (onReady s i aux) := by
  refine Kept.app h hw ?_
  unfold onReady
  repeat' first
    | with_reducible assumption
    | with_reducible exact Kept.refl _ _
    | with_reducible refine Kept.ite ?_ ?_
    | ((with_reducible refine wr_kept ?_ ?e); (case e => rfl))
    | ((with_reducible refine sendDatagram_kept ?_ ?e); (case e => rfl))
    | ((with_reducible refine repairStack_kept ?_ ?e); (case e => rfl))
    | ((with_reducible refine showBench_kept ?_ ?e); (case e => rfl))
    | with_reducible refine Kept.foldl ?_ ?_
    | intro _

theorem onFail_kept {s : State} {i : Nat} {st : Status} {pw : List Part} {s0 : State} (h : Kept pw s0 s) (hw : subParts [.regs, .yards, .boot, .health] pw = true) :
    Kept pw s0 (onFail s i st) := by
  refine Kept.app h hw ?_
  unfold onFail
  repeat' first
    | with_reducible exact Kept.refl _ _
    | with_reducible refine Kept.ite ?_ ?_
    | ((with_reducible refine restrict_kept ?_ ?e); (case e => rfl))
    | ((with_reducible refine fnSet_kept ?_ ?e); (case e => rfl))
    | ((with_reducible refine quarantine_kept ?_ ?e); (case e => rfl))

theorem probeCable_kept {s : State} {j : Nat} {p : CableProbe} {pw : List Part} {s0 : State} (h : Kept pw s0 s) (hw : subParts [.regs, .ten, .out] pw = true) :
    Kept pw s0 (probeCable s j p) := by
  refine Kept.app h hw ?_
  unfold probeCable
  repeat' first
    | with_reducible exact Kept.refl _ _
    | with_reducible refine Kept.ite ?_ ?_
    | ((with_reducible refine wr_kept ?_ ?e); (case e => rfl))
    | ((with_reducible refine healthCause_kept ?_ ?e); (case e => rfl))
    | split

theorem showRecordOk_kept {s : State} {pw : List Part} {s0 : State} (h : Kept pw s0 s) (hw : subParts [.regs] pw = true) :
    Kept pw s0 (showRecordOk s) := by
  refine Kept.app h hw ?_
  unfold showRecordOk
  repeat' first
    | with_reducible exact Kept.refl _ _
    | ((with_reducible refine wr_kept ?_ ?e); (case e => rfl))

theorem itemDone_kept {s : State} {item : Nat} {pw : List Part} {s0 : State} (h : Kept pw s0 s) (hw : subParts [.regs, .boot] pw = true) :
    Kept pw s0 (itemDone s item) := by
  refine Kept.app h hw ?_
  unfold itemDone
  repeat' first
    | with_reducible exact Kept.refl _ _
    | with_reducible refine Kept.ite ?_ ?_
    | ((with_reducible refine recMark_kept ?_ ?e); (case e => rfl))
    | ((with_reducible refine wr_kept ?_ ?e); (case e => rfl))
    | ((with_reducible refine fnSet_kept ?_ ?e); (case e => rfl))
    | dsimp only
    | fail_if_no_progress ((with_reducible refine Kept.setBoot ?_ ?e ?i); (case e => rfl); (case i => first | with_reducible exact id | with_reducible exact fun h => nvmPut_wf (nvmErase_wf h) | with_reducible exact fun h => nvmErase_wf h | with_reducible exact fun h => nvmPut_wf h))

theorem useModel_kept {s : State} {m : Nat × Nat × Nat} {source : Nat} {pw : List Part} {s0 : State} (h : Kept pw s0 s) (hw : subParts [.regs] pw = true) :
    Kept pw s0 (useModel s m source) := by
  refine Kept.app h hw ?_
  unfold useModel
  repeat' first
    | with_reducible assumption
    | with_reducible exact Kept.refl _ _
    | ((with_reducible refine wr_kept ?_ ?e); (case e => rfl))
    | with_reducible refine Kept.foldl ?_ ?_
    | intro _

theorem sensorCheck_kept {s : State} {pw : List Part} {s0 : State} (h : Kept pw s0 s) (hw : subParts [.regs, .ten, .out] pw = true) :
    Kept pw s0 (sensorCheck s) := by
  refine Kept.app h hw ?_
  unfold sensorCheck
  repeat' first
    | with_reducible exact Kept.refl _ _
    | with_reducible refine Kept.ite ?_ ?_
    | ((with_reducible refine healthCause_kept ?_ ?e); (case e => rfl))
    | ((with_reducible refine wr_kept ?_ ?e); (case e => rfl))

end Sys2Proof.Machine
end

