-- ==== Sys2Proof/Laws/ChiselCoreKept.lean ====
section
/-! SUPPORT. What every operation of Machine/ChiselCore.lean may change, as a law of Kept. -/

set_option linter.unreachableTactic false
set_option linter.unusedTactic false
set_option linter.unusedVariables false

namespace Sys2Proof.Machine

theorem coreFault_kept {s : State} {n : Nat} {cause : Nat} {pc : Nat} {pw : List Part} {s0 : State} (h : Kept pw s0 s) (hw : subParts [.regs, .work, .ten, .cores, .radio, .out] pw = true) :
    Kept pw s0 (coreFault s n cause pc) := by
  refine Kept.app h hw ?_
  unfold coreFault
  repeat' first
    | with_reducible exact Kept.refl _ _
    | ((with_reducible refine putCore_kept ?_ ?e); (case e => rfl))
    | ((with_reducible refine wr_kept ?_ ?e); (case e => rfl))
    | ((with_reducible refine healthCause_kept ?_ ?e); (case e => rfl))
    | ((with_reducible refine showCore_kept ?_ ?e); (case e => rfl))
    | dsimp only
    | fail_if_no_progress ((with_reducible refine Kept.setWorkRadio ?_ ?e0 ?e1 ); (case e0 => rfl); (case e1 => rfl))

theorem endBundle_kept {s : State} {n : Nat} {pw : List Part} {s0 : State} (h : Kept pw s0 s) (hw : subParts [.regs, .work, .ten, .cores, .radio, .out] pw = true) :
    Kept pw s0 (endBundle s n) := by
  refine Kept.app h hw ?_
  unfold endBundle
  repeat' first
    | with_reducible exact Kept.refl _ _
    | with_reducible refine Kept.ite ?_ ?_
    | ((with_reducible refine bump_kept ?_ ?e); (case e => rfl))
    | ((with_reducible refine putCore_kept ?_ ?e); (case e => rfl))
    | ((with_reducible refine coreFault_kept ?_ ?e); (case e => rfl))
    | ((with_reducible refine showCore_kept ?_ ?e); (case e => rfl))
    | ((with_reducible refine wr_kept ?_ ?e); (case e => rfl))

theorem issueSlot_kept {s : State} {core : BitVec 6} {last : Bool} {f : Core → Except Nat Core} {pw : List Part} {s0 : State} (h : Kept pw s0 s) (hw : subParts [.regs, .work, .ten, .cores, .radio, .out] pw = true) :
    Kept pw s0 (issueSlot s core last f) := by
  refine Kept.app h hw ?_
  unfold issueSlot
  repeat' first
    | with_reducible exact Kept.refl _ _
    | with_reducible refine Kept.ite ?_ ?_
    | ((with_reducible refine coreFault_kept ?_ ?e); (case e => rfl))
    | ((with_reducible refine putCore_kept ?_ ?e); (case e => rfl))
    | ((with_reducible refine endBundle_kept ?_ ?e); (case e => rfl))
    | dsimp only
    | split

theorem plainSlot_kept {s : State} {core : BitVec 6} {last : Bool} {f : Core → Core} {pw : List Part} {s0 : State} (h : Kept pw s0 s) (hw : subParts [.regs, .work, .ten, .cores, .radio, .out] pw = true) :
    Kept pw s0 (plainSlot s core last f) := by
  refine Kept.app h hw ?_
  unfold plainSlot
  repeat' first
    | with_reducible exact Kept.refl _ _
    | ((with_reducible refine issueSlot_kept ?_ ?e); (case e => rfl))

theorem controlSlot_kept {s : State} {core : BitVec 6} {last : Bool} {f : Core → Except Nat Core} {pw : List Part} {s0 : State} (h : Kept pw s0 s) (hw : subParts [.regs, .work, .ten, .cores, .radio, .out] pw = true) :
    Kept pw s0 (controlSlot s core last f) := by
  refine Kept.app h hw ?_
  unfold controlSlot
  repeat' first
    | with_reducible exact Kept.refl _ _
    | ((with_reducible refine issueSlot_kept ?_ ?e); (case e => rfl))

theorem salu_kept {s : State} {core : BitVec 6} {gd : BitVec 5} {ga : BitVec 5} {gb : BitVec 5} {last : Bool} {lat : Nat} {f : Nat → Nat → Nat × Bool} {pw : List Part} {s0 : State} (h : Kept pw s0 s) (hw : subParts [.regs, .work, .ten, .cores, .radio, .out] pw = true) :
    Kept pw s0 (salu s core gd ga gb last lat f) := by
  refine Kept.app h hw ?_
  unfold salu
  repeat' first
    | with_reducible exact Kept.refl _ _
    | ((with_reducible refine plainSlot_kept ?_ ?e); (case e => rfl))

theorem salui_kept {s : State} {core : BitVec 6} {gd : BitVec 5} {ga : BitVec 5} {last : Bool} {f : Nat → Nat} {pw : List Part} {s0 : State} (h : Kept pw s0 s) (hw : subParts [.regs, .work, .ten, .cores, .radio, .out] pw = true) :
    Kept pw s0 (salui s core gd ga last f) := by
  refine Kept.app h hw ?_
  unfold salui
  repeat' first
    | with_reducible exact Kept.refl _ _
    | ((with_reducible refine plainSlot_kept ?_ ?e); (case e => rfl))

theorem drawnIf_kept {p : Bool} {s : State} {pw : List Part} {s0 : State} (h : Kept pw s0 s) (hw : subParts [.free] pw = true) :
    Kept pw s0 (drawnIf p s) := by
  refine Kept.app h hw ?_
  unfold drawnIf
  repeat' first
    | with_reducible exact Kept.refl _ _
    | with_reducible refine Kept.ite ?_ ?_
    | ((with_reducible refine drawn_kept ?_ ?e); (case e => rfl))

theorem branchIf_kept {s : State} {core : BitVec 6} {ga : BitVec 5} {off : BitVec 17} {last : Bool} {p : Int → Bool} {pw : List Part} {s0 : State} (h : Kept pw s0 s) (hw : subParts [.regs, .work, .ten, .cores, .radio, .out] pw = true) :
    Kept pw s0 (branchIf s core ga off last p) := by
  refine Kept.app h hw ?_
  unfold branchIf
  repeat' first
    | with_reducible exact Kept.refl _ _
    | ((with_reducible refine controlSlot_kept ?_ ?e); (case e => rfl))

theorem vec2_kept {s : State} {core : BitVec 6} {vd : BitVec 4} {va : BitVec 4} {vb : BitVec 4} {sat : Bool} {last : Bool} {f : Int → Int → Int} {pw : List Part} {s0 : State} (h : Kept pw s0 s) (hw : subParts [.regs, .work, .ten, .cores, .radio, .out] pw = true) :
    Kept pw s0 (vec2 s core vd va vb sat last f) := by
  refine Kept.app h hw ?_
  unfold vec2
  repeat' first
    | with_reducible exact Kept.refl _ _
    | ((with_reducible refine plainSlot_kept ?_ ?e); (case e => rfl))

theorem vecBits_kept {s : State} {core : BitVec 6} {vd : BitVec 4} {va : BitVec 4} {vb : BitVec 4} {last : Bool} {f : Nat → Nat → Nat} {pw : List Part} {s0 : State} (h : Kept pw s0 s) (hw : subParts [.regs, .work, .ten, .cores, .radio, .out] pw = true) :
    Kept pw s0 (vecBits s core vd va vb last f) := by
  refine Kept.app h hw ?_
  unfold vecBits
  repeat' first
    | with_reducible exact Kept.refl _ _
    | ((with_reducible refine plainSlot_kept ?_ ?e); (case e => rfl))

theorem loadSlot_kept {s : State} {core : BitVec 6} {y : Bool} {key : Nat} {a : BitVec 3} {post : Bool} {off : BitVec 12} {last : Bool} {size : Nat} {f : Nat → Nat} {pw : List Part} {s0 : State} (h : Kept pw s0 s) (hw : subParts [.regs, .work, .ten, .cores, .radio, .out] pw = true) :
    Kept pw s0 (loadSlot s core y key a post off last size f) := by
  refine Kept.app h hw ?_
  unfold loadSlot
  repeat' first
    | with_reducible exact Kept.refl _ _
    | ((with_reducible refine issueSlot_kept ?_ ?e); (case e => rfl))

theorem storeSlot_kept {s : State} {core : BitVec 6} {y : Bool} {key : Nat} {a : BitVec 3} {post : Bool} {off : BitVec 12} {last : Bool} {size : Nat} {pw : List Part} {s0 : State} (h : Kept pw s0 s) (hw : subParts [.regs, .work, .ten, .cores, .radio, .out] pw = true) :
    Kept pw s0 (storeSlot s core y key a post off last size) := by
  refine Kept.app h hw ?_
  unfold storeSlot
  repeat' first
    | with_reducible exact Kept.refl _ _
    | ((with_reducible refine issueSlot_kept ?_ ?e); (case e => rfl))

end Sys2Proof.Machine
end

