-- ==== Sys2Proof/Laws/ChiselKept.lean ====
section
/-! SUPPORT. What every operation of Machine/Chisel.lean may change, as a law of Kept. -/

set_option linter.unreachableTactic false
set_option linter.unusedTactic false
set_option linter.unusedVariables false

namespace Sys2Proof.Machine

theorem endWait_kept {s : State} {n : Nat} {pw : List Part} {s0 : State} (h : Kept pw s0 s) (hw : subParts [.regs, .cores] pw = true) :
    Kept pw s0 (endWait s n) := by
  refine Kept.app h hw ?_
  unfold endWait
  repeat' first
    | with_reducible exact Kept.refl _ _
    | ((with_reducible refine bump_kept ?_ ?e); (case e => rfl))
    | ((with_reducible refine wr_kept ?_ ?e); (case e => rfl))
    | ((with_reducible refine putCore_kept ?_ ?e); (case e => rfl))

end Sys2Proof.Machine
end

