-- ==== Sys2Proof/Laws/FabricKept.lean ====
section
/-! SUPPORT. What every operation of Machine/Fabric.lean may change, as a law of Kept. -/

set_option linter.unreachableTactic false
set_option linter.unusedTactic false
set_option linter.unusedVariables false

namespace Sys2Proof.Machine

theorem destsRead_kept {s : State} {f : Nat} {x : FabCmd} {pw : List Part} {s0 : State} (h : Kept pw s0 s) (hw : subParts [.regs, .mem, .ten, .boot, .out] pw = true) :
    Kept pw s0 (destsRead s f x).1 := by
  refine Kept.app h hw ?_
  unfold destsRead
  repeat' first
    | with_reducible exact Kept.refl _ _
    | fail_if_no_progress ((with_reducible refine Kept.fst (by assumption) (senseRuns_kept ?_ ?e)); (case e => rfl))
    | split

theorem translateIf_kept {s : State} {f : Nat} {va : Nat} {n : Nat} {write : Bool} {pw : List Part} {s0 : State} (h : Kept pw s0 s) (hw : subParts [.regs, .mem, .ten, .boot, .out] pw = true) :
    Kept pw s0 (translateIf s f va n write).1 := by
  refine Kept.app h hw ?_
  unfold translateIf
  repeat' first
    | with_reducible exact Kept.refl _ _
    | with_reducible refine Kept.ite_fst ?_ ?_
    | ((with_reducible refine translate_kept ?_ ?e); (case e => rfl))

theorem fabSides_kept {s : State} {f : Nat} {x : FabCmd} {pw : List Part} {s0 : State} (h : Kept pw s0 s) (hw : subParts [.regs, .mem, .ten, .boot, .out] pw = true) :
    Kept pw s0 (fabSides s f x).1 := by
  refine Kept.app h hw ?_
  unfold fabSides
  repeat' first
    | with_reducible exact Kept.refl _ _
    | fail_if_no_progress ((with_reducible refine Kept.fst (by assumption) (translateIf_kept ?_ ?e)); (case e => rfl))
    | split

theorem fabOnce_kept {s : State} {c : Cmd} {x : FabCmd} {pw : List Part} {s0 : State} (h : Kept pw s0 s) (hw : subParts [.regs, .mem, .ten, .boot, .out] pw = true) :
    Kept pw s0 (fabOnce s c x).1 := by
  refine Kept.app h hw ?_
  unfold fabOnce
  repeat' first
    | with_reducible exact Kept.refl _ _
    | with_reducible refine Kept.ite_fst ?_ ?_
    | ((with_reducible refine fabSides_kept ?_ ?e); (case e => rfl))

theorem fabricPlan_kept {s : State} {c : Cmd} {pw : List Part} {s0 : State} (h : Kept pw s0 s) (hw : subParts [.regs, .mem, .ten, .boot, .out] pw = true) :
    Kept pw s0 (fabricPlan s c).1 := by
  refine Kept.app h hw ?_
  unfold fabricPlan
  repeat' first
    | with_reducible exact Kept.refl _ _
    | with_reducible refine Kept.ite_fst ?_ ?_
    | ((with_reducible refine destsRead_kept ?_ ?e); (case e => rfl))
    | fail_if_no_progress ((with_reducible refine Kept.fst (by assumption) (fabOnce_kept ?_ ?e)); (case e => rfl))
    | split

theorem runGet_kept {s : State} {cid : Nat} {c : Cmd} {x : FabCmd} {d : Nat × Nat} {pw : List Part} {s0 : State} (h : Kept pw s0 s) (hw : subParts [.regs, .mem, .work, .yards, .fab, .crush, .ten, .cores, .boot, .out, .free] pw = true) :
    RanKept pw s0 (runGet s cid c x d) := by
  refine RanKept.app h hw ?_
  unfold runGet
  repeat' first
    | with_reducible refine RanKept.wait ?_
    | with_reducible refine RanKept.ok ?_
    | with_reducible assumption
    | with_reducible exact Kept.refl _ _
    | fail_if_no_progress ((with_reducible refine Kept.fst (by assumption) (payDram_kept ?_ ?e)); (case e => rfl))
    | ((with_reducible refine putCmd_kept ?_ ?e); (case e => rfl))
    | ((with_reducible refine enqueue_kept ?_ ?e); (case e => rfl))
    | with_reducible refine Kept.foldl ?_ ?_
    | dsimp only
    | split
    | intro _

theorem runFence_kept {s : State} {c : Cmd} {x : FabCmd} {dests : List (Nat × Nat)} {pw : List Part} {s0 : State} (h : Kept pw s0 s) (hw : subParts [] pw = true) :
    RanKept pw s0 (runFence s c x dests) := by
  refine RanKept.app h hw ?_
  unfold runFence
  repeat' first
    | with_reducible refine RanKept.wait ?_
    | with_reducible refine RanKept.fail ?_
    | with_reducible refine RanKept.ok ?_
    | with_reducible exact Kept.refl _ _
    | dsimp only
    | split

theorem fabricRun_kept {s : State} {cid : Nat} {c : Cmd} {pw : List Part} {s0 : State} (h : Kept pw s0 s) (hw : subParts [.regs, .mem, .work, .yards, .fab, .crush, .ten, .cores, .boot, .out, .free] pw = true) :
    RanKept pw s0 (fabricRun s cid c) := by
  refine RanKept.app h hw ?_
  unfold fabricRun
  repeat' first
    | with_reducible refine RanKept.wait ?_
    | with_reducible refine RanKept.fail ?_
    | with_reducible refine RanKept.ok ?_
    | with_reducible exact Kept.refl _ _
    | ((with_reducible refine runFence_kept ?_ ?e); (case e => rfl))
    | ((with_reducible refine runGet_kept ?_ ?e); (case e => rfl))
    | fail_if_no_progress ((with_reducible refine Kept.fst (by assumption) (payDram_kept ?_ ?e)); (case e => rfl))
    | fail_if_no_progress ((with_reducible refine Kept.fst (by assumption) (senseRuns_kept ?_ ?e)); (case e => rfl))
    | dsimp only
    | split

theorem fabricCmd_kept {s : State} {cid : Nat} {op : Nat} {pw : List Part} {s0 : State} (h : Kept pw s0 s) (hw : subParts [.regs, .mem, .work, .yards, .fab, .crush, .ten, .cores, .boot, .out, .free] pw = true) :
    Kept pw s0 (fabricCmd s cid op) := by
  refine Kept.app h hw ?_
  unfold fabricCmd
  repeat' first
    | with_reducible assumption
    | with_reducible exact Kept.refl _ _
    | ((with_reducible refine issueBench_kept ?_ ?e ?_ ?_); (case e => rfl))
    | ((with_reducible refine fabricPlan_kept ?_ ?e); (case e => rfl))
    | ((with_reducible refine fabricRun_kept ?_ ?e); (case e => rfl))
    | intro _

theorem handOver_kept {s : State} {cid : Nat} {peer : Nat} {mcast : Bool} {m : Msg} {pw : List Part} {s0 : State} (h : Kept pw s0 s) (hw : subParts [.regs, .mem, .work, .yards, .fab, .crush, .ten, .cores, .boot, .out, .free] pw = true) :
    Kept pw s0 (handOver s cid peer mcast m) := by
  refine Kept.app h hw ?_
  unfold handOver
  repeat' first
    | with_reducible exact Kept.refl _ _
    | with_reducible refine Kept.ite ?_ ?_
    | ((with_reducible refine putCmd_kept ?_ ?e); (case e => rfl))
    | ((with_reducible refine enqueue_kept ?_ ?e); (case e => rfl))
    | split

theorem handAll_kept {s : State} {cid : Nat} {c : Cmd} {pw : List Part} {s0 : State} (h : Kept pw s0 s) (hw : subParts [.regs, .mem, .work, .yards, .fab, .crush, .ten, .cores, .boot, .out, .free] pw = true) :
    Kept pw s0 (handAll s cid c) := by
  refine Kept.app h hw ?_
  unfold handAll
  repeat' first
    | with_reducible assumption
    | with_reducible exact Kept.refl _ _
    | ((with_reducible refine handOver_kept ?_ ?e); (case e => rfl))
    | with_reducible refine Kept.foldl ?_ ?_
    | intro _

end Sys2Proof.Machine
end

