-- ==== Sys2Proof/Laws/CommitKept.lean ====
section
/-! SUPPORT. What every operation of Machine/Commit.lean may change, as a law of Kept. -/

set_option linter.unreachableTactic false
set_option linter.unusedTactic false
set_option linter.unusedVariables false

namespace Sys2Proof.Machine

theorem closeMembers_kept {s : State} {members : List Nat} {st : Status} {pw : List Part} {s0 : State} (h : Kept pw s0 s) (hw : subParts [.regs, .work, .yards, .cores] pw = true) :
    Kept pw s0 (closeMembers s members st) := by
  refine Kept.app h hw ?_
  unfold closeMembers
  repeat' first
    | with_reducible assumption
    | with_reducible exact Kept.refl _ _
    | ((with_reducible refine applySignals_kept ?_ ?e); (case e => rfl))
    | ((with_reducible refine finish_kept ?_ ?e); (case e => rfl))
    | with_reducible refine Kept.foldl ?_ ?_
    | dsimp only
    | split
    | intro _

theorem commitDram_kept {s : State} {c : Cmd} {pw : List Part} {s0 : State} (h : Kept pw s0 s) (hw : subParts [.regs, .mem, .ten, .boot, .out] pw = true) :
    Kept pw s0 (commitDram s c).1 := by
  refine Kept.app h hw ?_
  unfold commitDram
  repeat' first
    | with_reducible exact Kept.refl _ _
    | with_reducible refine Kept.ite_fst ?_ ?_
    | ((with_reducible refine writeRuns_kept ?_ ?e); (case e => rfl))

theorem commitCmd_kept {s : State} {cid : Nat} {c : Cmd} {pw : List Part} {s0 : State} (h : Kept pw s0 s) (hw : subParts [.regs, .mem, .work, .yards, .fab, .crush, .ten, .cores, .boot, .out, .free] pw = true) :
    Kept pw s0 (commitCmd s cid c) := by
  refine Kept.app h hw ?_
  unfold commitCmd
  repeat' first
    | with_reducible exact Kept.refl _ _
    | with_reducible refine Kept.ite ?_ ?_
    | ((with_reducible refine releaseFrames_kept ?_ ?e); (case e => rfl))
    | ((with_reducible refine putCtx_kept ?_ ?e); (case e => rfl))
    | ((with_reducible refine commitDram_kept ?_ ?e); (case e => rfl))
    | ((with_reducible refine putCmd_kept ?_ ?e); (case e => rfl))
    | ((with_reducible refine handAll_kept ?_ ?e); (case e => rfl))
    | ((with_reducible refine closeMembers_kept ?_ ?e); (case e => rfl))
    | ((with_reducible refine finish_kept ?_ ?e); (case e => rfl))
    | ((with_reducible refine applySignals_kept ?_ ?e); (case e => rfl))
    | ((with_reducible refine showBench_kept ?_ ?e); (case e => rfl))
    | split

theorem tallyCmd_kept {s : State} {cid : Nat} {op : Nat} {pw : List Part} {s0 : State} (h : Kept pw s0 s) (hw : subParts [.regs, .work, .yards, .ten, .cores, .out] pw = true) :
    Kept pw s0 (tallyCmd s cid op) := by
  refine Kept.app h hw ?_
  unfold tallyCmd
  repeat' first
    | with_reducible exact Kept.refl _ _
    | with_reducible refine Kept.ite ?_ ?_
    | ((with_reducible refine finish_kept ?_ ?e); (case e => rfl))
    | ((with_reducible refine tallyPut_kept ?_ ?e); (case e => rfl))
    | ((with_reducible refine applySignals_kept ?_ ?e); (case e => rfl))
    | ((with_reducible refine raiseMsix_kept ?_ ?e); (case e => rfl))
    | dsimp only
    | split

end Sys2Proof.Machine
end

