-- ==== Sys2Proof/Laws/DresserKept.lean ====
section
/-! SUPPORT. What every operation of Machine/Dresser.lean may change, as a law of Kept. -/

set_option linter.unreachableTactic false
set_option linter.unusedTactic false
set_option linter.unusedVariables false

namespace Sys2Proof.Machine

theorem dresserPlan_kept {s : State} {c : Cmd} {pw : List Part} {s0 : State} (h : Kept pw s0 s) (hw : subParts [] pw = true) :
    Kept pw s0 (dresserPlan s c).1 := by
  refine Kept.app h hw ?_
  unfold dresserPlan
  repeat' first
    | with_reducible exact Kept.refl _ _
    | with_reducible refine Kept.ite_fst ?_ ?_
    | split

theorem dresserStage_kept {s : State} {c : Cmd} {out : Option (List (Nat × List Byte × Nat))} {pw : List Part} {s0 : State} (h : Kept pw s0 s) (hw : subParts [.regs, .free] pw = true) :
    RanKept pw s0 (dresserStage s c out) := by
  refine RanKept.app h hw ?_
  unfold dresserStage
  repeat' first
    | with_reducible refine RanKept.fail ?_
    | with_reducible refine RanKept.ok ?_
    | with_reducible exact Kept.refl _ _
    | ((with_reducible refine yardStall_kept ?_ ?e); (case e => rfl))
    | ((with_reducible refine wr_kept ?_ ?e); (case e => rfl))
    | dsimp only
    | split

theorem dresserCmd_kept {s : State} {cid : Nat} {op : Nat} {out : (Nat → Byte) → DresserCmd → Option (List (Nat × List Byte × Nat))} {pw : List Part} {s0 : State} (h : Kept pw s0 s) (hw : subParts [.regs, .work, .yards, .cores, .free] pw = true) :
    Kept pw s0 (dresserCmd s cid op out) := by
  refine Kept.app h hw ?_
  unfold dresserCmd
  repeat' first
    | with_reducible assumption
    | with_reducible exact Kept.refl _ _
    | ((with_reducible refine issueBench_kept ?_ ?e ?_ ?_); (case e => rfl))
    | ((with_reducible refine dresserPlan_kept ?_ ?e); (case e => rfl))
    | ((with_reducible refine dresserStage_kept ?_ ?e); (case e => rfl))
    | intro _

end Sys2Proof.Machine
end

