-- ==== Sys2Proof/Laws/HostAccessKept.lean ====
section
/-! SUPPORT. What every operation of Machine/HostAccess.lean may change, as a law of Kept. -/

set_option linter.unreachableTactic false
set_option linter.unusedTactic false
set_option linter.unusedVariables false

namespace Sys2Proof.Machine

theorem popTsq_kept {s : State} {k : Nat} {pw : List Part} {s0 : State} (h : Kept pw s0 s) (hw : subParts [.regs, .clock] pw = true) :
    Kept pw s0 (popTsq s k) := by
  refine Kept.app h hw ?_
  unfold popTsq
  repeat' first
    | with_reducible exact Kept.refl _ _
    | ((with_reducible refine wr_kept ?_ ?e); (case e => rfl))
    | dsimp only
    | fail_if_no_progress ((with_reducible refine Kept.setClock ?_ ?e); (case e => rfl))
    | split

theorem popCap_kept {s : State} {j : Nat} {pw : List Part} {s0 : State} (h : Kept pw s0 s) (hw : subParts [.regs, .clock] pw = true) :
    Kept pw s0 (popCap s j) := by
  refine Kept.app h hw ?_
  unfold popCap
  repeat' first
    | with_reducible exact Kept.refl _ _
    | ((with_reducible refine wr_kept ?_ ?e); (case e => rfl))
    | dsimp only
    | fail_if_no_progress ((with_reducible refine Kept.setClock ?_ ?e); (case e => rfl))
    | split

theorem readEffect_kept {s : State} {addr : Nat} {pw : List Part} {s0 : State} (h : Kept pw s0 s) (hw : subParts [.regs, .clock] pw = true) :
    Kept pw s0 (readEffect s addr) := by
  refine Kept.app h hw ?_
  unfold readEffect
  repeat' first
    | with_reducible exact Kept.refl _ _
    | with_reducible refine Kept.ite ?_ ?_
    | ((with_reducible refine popTsq_kept ?_ ?e); (case e => rfl))
    | ((with_reducible refine popCap_kept ?_ ?e); (case e => rfl))

theorem readWord_kept {s : State} {fn : Nat} {addr : Nat} {pw : List Part} {s0 : State} (h : Kept pw s0 s) (hw : subParts [.regs, .clock] pw = true) :
    Kept pw s0 (readWord s fn addr).1 := by
  refine Kept.app h hw ?_
  unfold readWord
  repeat' first
    | with_reducible exact Kept.refl _ _
    | with_reducible refine Kept.ite_fst ?_ ?_
    | ((with_reducible refine logErr_kept ?_ ?e); (case e => rfl))
    | ((with_reducible refine readEffect_kept ?_ ?e); (case e => rfl))
    | dsimp only
    | split

theorem latchHigh_kept {s : State} {fn : Nat} {addr : Nat} {pw : List Part} {s0 : State} (h : Kept pw s0 s) (hw : subParts [.ten] pw = true) :
    Kept pw s0 (latchHigh s fn addr) := by
  refine Kept.app h hw ?_
  unfold latchHigh
  repeat' first
    | with_reducible exact Kept.refl _ _
    | with_reducible refine Kept.ite ?_ ?_
    | dsimp only
    | fail_if_no_progress ((with_reducible refine Kept.setTen ?_ ?e); (case e => rfl))

theorem writeField_kept {s : State} {f : Fld} {i : Nat} {lo : Nat} {n : Nat} {data : Nat} {pw : List Part} {s0 : State} (h : Kept pw s0 s) (hw : subParts [.regs] pw = true) :
    Kept pw s0 (writeField s f i lo n data) := by
  refine Kept.app h hw ?_
  unfold writeField
  repeat' first
    | with_reducible exact Kept.refl _ _
    | with_reducible refine Kept.ite ?_ ?_
    | ((with_reducible refine wr_kept ?_ ?e); (case e => rfl))
    | ((with_reducible refine logErr_kept ?_ ?e); (case e => rfl))
    | dsimp only
    | split

theorem flushMsix_kept {s : State} {fn : Nat} {pw : List Part} {s0 : State} (h : Kept pw s0 s) (hw : subParts [.ten, .out] pw = true) :
    Kept pw s0 (flushMsix s fn) := by
  refine Kept.app h hw ?_
  unfold flushMsix
  repeat' first
    | with_reducible assumption
    | with_reducible exact Kept.refl _ _
    | ((with_reducible refine emit_kept ?_ ?e); (case e => rfl))
    | with_reducible refine Kept.foldl ?_ ?_
    | dsimp only
    | fail_if_no_progress ((with_reducible refine Kept.setTen ?_ ?e); (case e => rfl))
    | intro _

theorem writeBits_kept {s : State} {lo : Nat} {n : Nat} {data : Nat} {pw : List Part} {s0 : State} (h : Kept pw s0 s) (hw : subParts [.regs] pw = true) :
    Kept pw s0 (writeBits s lo n data) := by
  refine Kept.app h hw ?_
  unfold writeBits
  repeat' first
    | with_reducible assumption
    | with_reducible exact Kept.refl _ _
    | ((with_reducible refine writeField_kept ?_ ?e); (case e => rfl))
    | with_reducible refine Kept.foldl ?_ ?_
    | intro _

theorem writeCqHead_kept {s : State} {fn : Nat} {addr : Nat} {n : Nat} {data : Nat} {pw : List Part} {s0 : State} (h : Kept pw s0 s) (hw : subParts [.work] pw = true) :
    Kept pw s0 (writeCqHead s fn addr n data) := by
  refine Kept.app h hw ?_
  unfold writeCqHead
  repeat' first
    | with_reducible assumption
    | with_reducible exact Kept.refl _ _
    | ((with_reducible refine putQ_kept ?_ ?e); (case e => rfl))
    | with_reducible refine Kept.foldl ?_ ?_
    | dsimp only
    | split
    | intro _

theorem setTrig_kept {s : State} {k : Nat} {g : TrigGroup} {pw : List Part} {s0 : State} (h : Kept pw s0 s) (hw : subParts [.live] pw = true) :
    Kept pw s0 (setTrig s k g) := by
  refine Kept.app h hw ?_
  unfold setTrig
  repeat' first
    | with_reducible exact Kept.refl _ _
    | ((with_reducible refine wrLive_kept ?_ ?e); (case e => rfl))

theorem applyTrig_kept {s : State} {k : Nat} {g : TrigGroup} {pw : List Part} {s0 : State} (h : Kept pw s0 s) (hw : subParts [.regs, .live, .clock] pw = true) :
    Kept pw s0 (applyTrig s k g) := by
  refine Kept.app h hw ?_
  unfold applyTrig
  repeat' first
    | with_reducible exact Kept.refl _ _
    | ((with_reducible refine setTrig_kept ?_ ?e); (case e => rfl))
    | ((with_reducible refine wr_kept ?_ ?e); (case e => rfl))
    | dsimp only
    | fail_if_no_progress ((with_reducible refine Kept.setClock ?_ ?e); (case e => rfl))

theorem settleTrig_kept {s : State} {pw : List Part} {s0 : State} (h : Kept pw s0 s) (hw : subParts [.regs, .live, .clock] pw = true) :
    Kept pw s0 (settleTrig s) := by
  refine Kept.app h hw ?_
  unfold settleTrig
  repeat' first
    | with_reducible assumption
    | with_reducible exact Kept.refl _ _
    | ((with_reducible refine applyTrig_kept ?_ ?e); (case e => rfl))
    | with_reducible refine Kept.foldl ?_ ?_
    | split
    | intro _

theorem pfWrite_kept {s : State} {a : Nat} {n : Nat} {d : Nat} {pw : List Part} {s0 : State} (h : Kept pw s0 s) (hw : subParts [.regs, .live, .work, .clock] pw = true) :
    Kept pw s0 (pfWrite s a n d) := by
  refine Kept.app h hw ?_
  unfold pfWrite
  repeat' first
    | with_reducible exact Kept.refl _ _
    | with_reducible refine Kept.ite ?_ ?_
    | ((with_reducible refine logErr_kept ?_ ?e); (case e => rfl))
    | ((with_reducible refine settleTrig_kept ?_ ?e); (case e => rfl))
    | ((with_reducible refine writeCqHead_kept ?_ ?e); (case e => rfl))
    | ((with_reducible refine writeBits_kept ?_ ?e); (case e => rfl))
    | split

theorem vfWrite_kept {s : State} {f : Nat} {a : Nat} {n : Nat} {d : Nat} {pw : List Part} {s0 : State} (h : Kept pw s0 s) (hw : subParts [.regs, .work, .ten, .out] pw = true) :
    Kept pw s0 (vfWrite s f a n d) := by
  refine Kept.app h hw ?_
  unfold vfWrite
  repeat' first
    | with_reducible exact Kept.refl _ _
    | with_reducible refine Kept.ite ?_ ?_
    | ((with_reducible refine logErr_kept ?_ ?e); (case e => rfl))
    | ((with_reducible refine flushMsix_kept ?_ ?e); (case e => rfl))
    | ((with_reducible refine writeCqHead_kept ?_ ?e); (case e => rfl))
    | ((with_reducible refine writeBits_kept ?_ ?e); (case e => rfl))

end Sys2Proof.Machine
end

