-- ==== Sys2Proof/Laws/TimeKept.lean ====
section
/-! SUPPORT. What every operation of Machine/Time.lean may change, as a law of Kept. -/

set_option linter.unreachableTactic false
set_option linter.unusedTactic false
set_option linter.unusedVariables false

namespace Sys2Proof.Machine

theorem setTimeSt_kept {s : State} {v : Nat} {pw : List Part} {s0 : State} (h : Kept pw s0 s) (hw : subParts [.regs] pw = true) :
    Kept pw s0 (setTimeSt s v) := by
  refine Kept.app h hw ?_
  unfold setTimeSt
  repeat' first
    | with_reducible exact Kept.refl _ _
    | ((with_reducible refine wr_kept ?_ ?e); (case e => rfl))

theorem muteCells_kept {s : State} {pw : List Part} {s0 : State} (h : Kept pw s0 s) (hw : subParts [.regs] pw = true) :
    Kept pw s0 (muteCells s) := by
  refine Kept.app h hw ?_
  unfold muteCells
  repeat' first
    | with_reducible assumption
    | with_reducible exact Kept.refl _ _
    | ((with_reducible refine wr_kept ?_ ?e); (case e => rfl))
    | with_reducible refine Kept.foldl ?_ ?_
    | split
    | intro _

theorem setBelow_kept {s : State} {b : Option Nat} {pw : List Part} {s0 : State} (h : Kept pw s0 s) (hw : subParts [.clock] pw = true) :
    Kept pw s0 (setBelow s b) := by
  refine Kept.app h hw ?_
  unfold setBelow
  repeat' first
    | with_reducible exact Kept.refl _ _
    | dsimp only
    | fail_if_no_progress ((with_reducible refine Kept.setClock ?_ ?e); (case e => rfl))

theorem timeLost_kept {s : State} {pw : List Part} {s0 : State} (h : Kept pw s0 s) (hw : subParts [.regs, .clock] pw = true) :
    Kept pw s0 (timeLost s) := by
  refine Kept.app h hw ?_
  unfold timeLost
  repeat' first
    | with_reducible exact Kept.refl _ _
    | with_reducible refine Kept.ite ?_ ?_
    | ((with_reducible refine setTimeSt_kept ?_ ?e); (case e => rfl))
    | ((with_reducible refine setBelow_kept ?_ ?e); (case e => rfl))
    | ((with_reducible refine muteCells_kept ?_ ?e); (case e => rfl))
    | dsimp only
    | fail_if_no_progress ((with_reducible refine Kept.setClock ?_ ?e); (case e => rfl))
    | split

theorem sourceLost_kept {s : State} {pw : List Part} {s0 : State} (h : Kept pw s0 s) (hw : subParts [.regs, .clock] pw = true) :
    Kept pw s0 (sourceLost s) := by
  refine Kept.app h hw ?_
  unfold sourceLost
  repeat' first
    | with_reducible exact Kept.refl _ _
    | with_reducible refine Kept.ite ?_ ?_
    | ((with_reducible refine timeLost_kept ?_ ?e); (case e => rfl))
    | dsimp only
    | fail_if_no_progress ((with_reducible refine Kept.setClock ?_ ?e); (case e => rfl))

theorem timeAcquire_kept {s : State} {pw : List Part} {s0 : State} (h : Kept pw s0 s) (hw : subParts [.regs, .clock] pw = true) :
    Kept pw s0 (timeAcquire s) := by
  refine Kept.app h hw ?_
  unfold timeAcquire
  repeat' first
    | with_reducible exact Kept.refl _ _
    | with_reducible refine Kept.ite ?_ ?_
    | ((with_reducible refine setTimeSt_kept ?_ ?e); (case e => rfl))
    | ((with_reducible refine setBelow_kept ?_ ?e); (case e => rfl))

theorem radioReady_kept {s : State} {pw : List Part} {s0 : State} (h : Kept pw s0 s) (hw : subParts [.regs] pw = true) :
    Kept pw s0 (radioReady s) := by
  refine Kept.app h hw ?_
  unfold radioReady
  repeat' first
    | with_reducible assumption
    | with_reducible exact Kept.refl _ _
    | with_reducible refine Kept.ite ?_ ?_
    | ((with_reducible refine wr_kept ?_ ?e); (case e => rfl))
    | ((with_reducible refine fnSet_kept ?_ ?e); (case e => rfl))
    | with_reducible refine Kept.foldl ?_ ?_
    | split
    | intro _

theorem timeReady_kept {s : State} {pw : List Part} {s0 : State} (h : Kept pw s0 s) (hw : subParts [.regs] pw = true) :
    Kept pw s0 (timeReady s) := by
  refine Kept.app h hw ?_
  unfold timeReady
  repeat' first
    | with_reducible exact Kept.refl _ _
    | with_reducible refine Kept.ite ?_ ?_
    | ((with_reducible refine radioReady_kept ?_ ?e); (case e => rfl))
    | ((with_reducible refine fnSet_kept ?_ ?e); (case e => rfl))

theorem stepBy_kept {s : State} {d : Int} {pw : List Part} {s0 : State} (h : Kept pw s0 s) (hw : subParts [.clock] pw = true) :
    Kept pw s0 (stepBy s d) := by
  refine Kept.app h hw ?_
  unfold stepBy
  repeat' first
    | with_reducible exact Kept.refl _ _
    | dsimp only
    | fail_if_no_progress ((with_reducible refine Kept.setClock ?_ ?e); (case e => rfl))

theorem applyStep_kept {s : State} {d : Int} {manager : Bool} {pw : List Part} {s0 : State} (h : Kept pw s0 s) (hw : subParts [.regs, .clock] pw = true) :
    Kept pw s0 (applyStep s d manager) := by
  refine Kept.app h hw ?_
  unfold applyStep
  repeat' first
    | with_reducible exact Kept.refl _ _
    | with_reducible refine Kept.ite ?_ ?_
    | ((with_reducible refine logErr_kept ?_ ?e); (case e => rfl))
    | ((with_reducible refine stepBy_kept ?_ ?e); (case e => rfl))

theorem steer_kept {s : State} {pw : List Part} {s0 : State} (h : Kept pw s0 s) (hw : subParts [.regs, .clock, .free] pw = true) :
    Kept pw s0 (steer s) := by
  refine Kept.app h hw ?_
  unfold steer
  repeat' first
    | with_reducible exact Kept.refl _ _
    | with_reducible refine Kept.ite ?_ ?_
    | ((with_reducible refine drawn_kept ?_ ?e); (case e => rfl))
    | ((with_reducible refine wr_kept ?_ ?e); (case e => rfl))
    | dsimp only
    | fail_if_no_progress ((with_reducible refine Kept.setClock ?_ ?e); (case e => rfl))

theorem showOffset_kept {s : State} {ps : Int} {pw : List Part} {s0 : State} (h : Kept pw s0 s) (hw : subParts [.regs, .clock] pw = true) :
    Kept pw s0 (showOffset s ps) := by
  refine Kept.app h hw ?_
  unfold showOffset
  repeat' first
    | with_reducible exact Kept.refl _ _
    | ((with_reducible refine setBelow_kept ?_ ?e); (case e => rfl))
    | ((with_reducible refine wr_kept ?_ ?e); (case e => rfl))

theorem setPtp_kept {s : State} {p : Ptp} {pw : List Part} {s0 : State} (h : Kept pw s0 s) (hw : subParts [.clock] pw = true) :
    Kept pw s0 (setPtp s p) := by
  refine Kept.app h hw ?_
  unfold setPtp
  repeat' first
    | with_reducible exact Kept.refl _ _
    | dsimp only
    | fail_if_no_progress ((with_reducible refine Kept.setClock ?_ ?e); (case e => rfl))

theorem takeSeconds_kept {s : State} {origin : Nat} {pw : List Part} {s0 : State} (h : Kept pw s0 s) (hw : subParts [.clock] pw = true) :
    Kept pw s0 (takeSeconds s origin) := by
  refine Kept.app h hw ?_
  unfold takeSeconds
  repeat' first
    | with_reducible exact Kept.refl _ _
    | with_reducible refine Kept.ite ?_ ?_
    | ((with_reducible refine stepBy_kept ?_ ?e); (case e => rfl))

theorem takeOrigin_kept {s : State} {origin : Nat} {pw : List Part} {s0 : State} (h : Kept pw s0 s) (hw : subParts [.clock] pw = true) :
    Kept pw s0 (takeOrigin s origin) := by
  refine Kept.app h hw ?_
  unfold takeOrigin
  repeat' first
    | with_reducible exact Kept.refl _ _
    | ((with_reducible refine setPtp_kept ?_ ?e); (case e => rfl))
    | ((with_reducible refine takeSeconds_kept ?_ ?e); (case e => rfl))

theorem takeGroup_kept {s : State} {k : Nat} {g : TrigGroup} {pw : List Part} {s0 : State} (h : Kept pw s0 s) (hw : subParts [.regs, .live, .clock] pw = true) :
    Kept pw s0 (takeGroup s k g) := by
  refine Kept.app h hw ?_
  unfold takeGroup
  repeat' first
    | with_reducible exact Kept.refl _ _
    | with_reducible refine Kept.ite ?_ ?_
    | ((with_reducible refine applyTrig_kept ?_ ?e); (case e => rfl))
    | ((with_reducible refine wr_kept ?_ ?e); (case e => rfl))
    | dsimp only
    | fail_if_no_progress ((with_reducible refine Kept.setClock ?_ ?e); (case e => rfl))

theorem stageTrig_kept {s : State} {k : Nat} {g : TrigGroup} {pw : List Part} {s0 : State} (h : Kept pw s0 s) (hw : subParts [.regs] pw = true) :
    Kept pw s0 (stageTrig s k g) := by
  refine Kept.app h hw ?_
  unfold stageTrig
  repeat' first
    | with_reducible exact Kept.refl _ _
    | ((with_reducible refine wr_kept ?_ ?e); (case e => rfl))

end Sys2Proof.Machine
end

