-- ==== Sys2Proof/Laws/ImageKept.lean ====
section
/-! SUPPORT. What every operation of Machine/Image.lean may change, as a law of Kept. -/

set_option linter.unreachableTactic false
set_option linter.unusedTactic false
set_option linter.unusedVariables false

namespace Sys2Proof.Machine

theorem refuseSection_kept {s : State} {id : Nat} {st : Status} {pw : List Part} {s0 : State} (h : Kept pw s0 s) (hw : subParts [.regs] pw = true) :
    Kept pw s0 (refuseSection s id st) := by
  refine Kept.app h hw ?_
  unfold refuseSection
  repeat' first
    | with_reducible exact Kept.refl _ _
    | ((with_reducible refine logErr_kept ?_ ?e); (case e => rfl))

theorem takeSection_kept {s : State} {id : Nat} {bad : Option Status} {load : State → State} {pw : List Part} {s0 : State} (h : Kept pw s0 s) (hw : subParts [.regs] pw = true)
    (hload : ∀ s , Kept pw s0 s → Kept pw s0 (load s)) :
    Kept pw s0 (takeSection s id bad load) := by
  unfold takeSection
  repeat' first
    | with_reducible assumption
    | ((with_reducible refine refuseSection_kept ?_ ?e); (case e => first | exact subParts_trans rfl hw | exact contains_of_sub rfl hw))
    | split
    | with_reducible refine hload _ ?_

theorem wrAll_kept {s : State} {l : List (Fld × Nat)} {pw : List Part} {s0 : State} (h : Kept pw s0 s) (hw : subParts [.regs] pw = true) :
    Kept pw s0 (wrAll s l) := by
  refine Kept.app h hw ?_
  unfold wrAll
  repeat' first
    | with_reducible assumption
    | with_reducible exact Kept.refl _ _
    | ((with_reducible refine wr_kept ?_ ?e); (case e => rfl))
    | with_reducible refine Kept.foldl ?_ ?_
    | intro _

theorem loadDevice_kept {s : State} {c : Sections} {pw : List Part} {s0 : State} (h : Kept pw s0 s) (hw : subParts [.regs] pw = true) :
    Kept pw s0 (loadDevice s c) := by
  refine Kept.app h hw ?_
  unfold loadDevice
  repeat' first
    | with_reducible exact Kept.refl _ _
    | ((with_reducible refine wrAll_kept ?_ ?e); (case e => rfl))

theorem loadMemory_kept {s : State} {c : Sections} {pw : List Part} {s0 : State} (h : Kept pw s0 s) (hw : subParts [.regs, .boot] pw = true) :
    Kept pw s0 (loadMemory s c) := by
  refine Kept.app h hw ?_
  unfold loadMemory
  repeat' first
    | with_reducible exact Kept.refl _ _
    | ((with_reducible refine wrAll_kept ?_ ?e); (case e => rfl))
    | dsimp only
    | fail_if_no_progress ((with_reducible refine Kept.setBoot ?_ ?e ?i); (case e => rfl); (case i => first | with_reducible exact id | with_reducible exact fun h => nvmPut_wf (nvmErase_wf h) | with_reducible exact fun h => nvmErase_wf h | with_reducible exact fun h => nvmPut_wf h))

theorem loadJeano_kept {s : State} {c : Sections} {pw : List Part} {s0 : State} (h : Kept pw s0 s) (hw : subParts [.regs, .net, .boot] pw = true) :
    Kept pw s0 (loadJeano s c) := by
  refine Kept.app h hw ?_
  unfold loadJeano
  repeat' first
    | with_reducible exact Kept.refl _ _
    | ((with_reducible refine wrAll_kept ?_ ?e); (case e => rfl))
    | dsimp only
    | fail_if_no_progress ((with_reducible refine Kept.setNetBoot ?_ ?e0 ?e1 ?i1); (case e0 => rfl); (case e1 => rfl); (case i1 => first | with_reducible exact id | with_reducible exact fun h => nvmPut_wf (nvmErase_wf h) | with_reducible exact fun h => nvmErase_wf h | with_reducible exact fun h => nvmPut_wf h))

theorem showMembers_kept {s : State} {pw : List Part} {s0 : State} (h : Kept pw s0 s) (hw : subParts [.regs] pw = true) :
    Kept pw s0 (showMembers s) := by
  refine Kept.app h hw ?_
  unfold showMembers
  repeat' first
    | with_reducible assumption
    | with_reducible exact Kept.refl _ _
    | ((with_reducible refine wr_kept ?_ ?e); (case e => rfl))
    | with_reducible refine Kept.foldl ?_ ?_
    | intro _

theorem loadTime_kept {s : State} {c : Sections} {pw : List Part} {s0 : State} (h : Kept pw s0 s) (hw : subParts [.regs, .clock, .boot, .out] pw = true) :
    Kept pw s0 (loadTime s c) := by
  refine Kept.app h hw ?_
  unfold loadTime
  repeat' first
    | with_reducible assumption
    | with_reducible exact Kept.refl _ _
    | ((with_reducible refine emit_kept ?_ ?e); (case e => rfl))
    | ((with_reducible refine wrAll_kept ?_ ?e); (case e => rfl))
    | with_reducible refine Kept.foldl ?_ ?_
    | dsimp only
    | fail_if_no_progress ((with_reducible refine Kept.setClockBoot ?_ ?e0 ?e1 ?i1); (case e0 => rfl); (case e1 => rfl); (case i1 => first | with_reducible exact id | with_reducible exact fun h => nvmPut_wf (nvmErase_wf h) | with_reducible exact fun h => nvmErase_wf h | with_reducible exact fun h => nvmPut_wf h))
    | intro _

theorem loadTdfe_kept {s : State} {c : Sections} {pw : List Part} {s0 : State} (h : Kept pw s0 s) (hw : subParts [.regs, .tdfe] pw = true) :
    Kept pw s0 (loadTdfe s c) := by
  refine Kept.app h hw ?_
  unfold loadTdfe
  repeat' first
    | with_reducible assumption
    | with_reducible exact Kept.refl _ _
    | ((with_reducible refine wrAll_kept ?_ ?e); (case e => rfl))
    | ((with_reducible refine wr_kept ?_ ?e); (case e => rfl))
    | with_reducible refine Kept.foldl ?_ ?_
    | fail_if_no_progress ((with_reducible refine Kept.setTdfe ?_ ?e); (case e => rfl))
    | intro _

theorem showCell_kept {s : State} {i : Nat} {p : CellPlan} {pw : List Part} {s0 : State} (h : Kept pw s0 s) (hw : subParts [.regs] pw = true) :
    Kept pw s0 (showCell s i p) := by
  refine Kept.app h hw ?_
  unfold showCell
  repeat' first
    | with_reducible assumption
    | with_reducible exact Kept.refl _ _
    | ((with_reducible refine wr_kept ?_ ?e); (case e => rfl))
    | with_reducible refine Kept.foldl ?_ ?_
    | intro _

theorem showRotation_kept {s : State} {c : Sections} {pw : List Part} {s0 : State} (h : Kept pw s0 s) (hw : subParts [.regs] pw = true) :
    Kept pw s0 (showRotation s c) := by
  refine Kept.app h hw ?_
  unfold showRotation
  repeat' first
    | with_reducible assumption
    | with_reducible exact Kept.refl _ _
    | ((with_reducible refine wrAll_kept ?_ ?e); (case e => rfl))
    | ((with_reducible refine wr_kept ?_ ?e); (case e => rfl))
    | with_reducible refine Kept.foldl ?_ ?_
    | intro _

theorem loadPlan_kept {s : State} {c : Sections} {pw : List Part} {s0 : State} (h : Kept pw s0 s) (hw : subParts [.regs, .yards, .radio] pw = true) :
    Kept pw s0 (loadPlan s c) := by
  refine Kept.app h hw ?_
  unfold loadPlan
  repeat' first
    | with_reducible assumption
    | with_reducible exact Kept.refl _ _
    | with_reducible refine Kept.ite ?_ ?_
    | ((with_reducible refine wr_kept ?_ ?e); (case e => rfl))
    | ((with_reducible refine wrAll_kept ?_ ?e); (case e => rfl))
    | ((with_reducible refine refuseSection_kept ?_ ?e); (case e => rfl))
    | ((with_reducible refine fnSet_kept ?_ ?e); (case e => rfl))
    | ((with_reducible refine showCell_kept ?_ ?e); (case e => rfl))
    | ((with_reducible refine showRotation_kept ?_ ?e); (case e => rfl))
    | with_reducible refine Kept.foldl ?_ ?_
    | dsimp only
    | fail_if_no_progress ((with_reducible refine Kept.setYardsRadio ?_ ?e0 ?e1 ); (case e0 => rfl); (case e1 => rfl))
    | intro _

theorem loadL1_kept {s : State} {c : Sections} {pw : List Part} {s0 : State} (h : Kept pw s0 s) (hw : subParts [.regs, .boot] pw = true) :
    Kept pw s0 (loadL1 s c) := by
  refine Kept.app h hw ?_
  unfold loadL1
  repeat' first
    | with_reducible exact Kept.refl _ _
    | ((with_reducible refine wrAll_kept ?_ ?e); (case e => rfl))
    | dsimp only
    | fail_if_no_progress ((with_reducible refine Kept.setBoot ?_ ?e ?i); (case e => rfl); (case i => first | with_reducible exact id | with_reducible exact fun h => nvmPut_wf (nvmErase_wf h) | with_reducible exact fun h => nvmErase_wf h | with_reducible exact fun h => nvmPut_wf h))

theorem loadPower_kept {s : State} {c : Sections} {pw : List Part} {s0 : State} (h : Kept pw s0 s) (hw : subParts [.regs, .live, .power] pw = true) :
    Kept pw s0 (loadPower s c) := by
  refine Kept.app h hw ?_
  unfold loadPower
  repeat' first
    | with_reducible assumption
    | with_reducible exact Kept.refl _ _
    | ((with_reducible refine wrAll_kept ?_ ?e); (case e => rfl))
    | ((with_reducible refine wr_kept ?_ ?e); (case e => rfl))
    | ((with_reducible refine wrLive_kept ?_ ?e); (case e => rfl))
    | with_reducible refine Kept.foldl ?_ ?_
    | dsimp only
    | fail_if_no_progress ((with_reducible refine Kept.setPower ?_ ?e); (case e => rfl))
    | intro _

theorem loadMgmt_kept {s : State} {c : Sections} {pw : List Part} {s0 : State} (h : Kept pw s0 s) (hw : subParts [.regs, .net, .boot] pw = true) :
    Kept pw s0 (loadMgmt s c) := by
  refine Kept.app h hw ?_
  unfold loadMgmt
  repeat' first
    | with_reducible exact Kept.refl _ _
    | ((with_reducible refine wrAll_kept ?_ ?e); (case e => rfl))
    | dsimp only
    | fail_if_no_progress ((with_reducible refine Kept.setNetBoot ?_ ?e0 ?e1 ?i1); (case e0 => rfl); (case e1 => rfl); (case i1 => first | with_reducible exact id | with_reducible exact fun h => nvmPut_wf (nvmErase_wf h) | with_reducible exact fun h => nvmErase_wf h | with_reducible exact fun h => nvmPut_wf h))

theorem applyDefault_kept {s : State} {e : Nat} {pw : List Part} {s0 : State} (h : Kept pw s0 s) (hw : subParts [.regs, .boot] pw = true) :
    Kept pw s0 (applyDefault s e).1 := by
  refine Kept.app h hw ?_
  unfold applyDefault
  repeat' first
    | with_reducible assumption
    | with_reducible exact Kept.refl _ _
    | with_reducible refine Kept.ite_fst ?_ ?_
    | ((with_reducible refine logErr_kept ?_ ?e); (case e => rfl))
    | ((with_reducible refine recMark_kept ?_ ?e); (case e => rfl))
    | ((with_reducible refine wr_kept ?_ ?e); (case e => rfl))
    | ((with_reducible refine writeField_kept ?_ ?e); (case e => rfl))
    | with_reducible refine Kept.foldl_fst ?_ ?_
    | dsimp only
    | fail_if_no_progress ((with_reducible refine Kept.setBoot ?_ ?e ?i); (case e => rfl); (case i => first | with_reducible exact id | with_reducible exact fun h => nvmPut_wf (nvmErase_wf h) | with_reducible exact fun h => nvmErase_wf h | with_reducible exact fun h => nvmPut_wf h))
    | split
    | intro _

theorem loadDefaults_kept {s : State} {bs : List Byte} {pw : List Part} {s0 : State} (h : Kept pw s0 s) (hw : subParts [.regs, .live, .cfg, .boot] pw = true) :
    Kept pw s0 (loadDefaults s bs) := by
  refine Kept.app h hw ?_
  unfold loadDefaults
  repeat' first
    | with_reducible assumption
    | with_reducible exact Kept.refl _ _
    | ((with_reducible refine logErr_kept ?_ ?e); (case e => rfl))
    | ((with_reducible refine applyDefault_kept ?_ ?e); (case e => rfl))
    | ((with_reducible refine commitGroup_kept ?_ ?e); (case e => rfl))
    | with_reducible refine Kept.foldl ?_ ?_
    | with_reducible refine Kept.foldl_fst ?_ ?_
    | dsimp only
    | split
    | intro _

theorem loadSections_kept {s : State} {body : List Byte} {given : Sections} {pw : List Part} {s0 : State} (h : Kept pw s0 s) (hw : subParts [.regs, .live, .yards, .clock, .radio, .net, .tdfe, .cfg, .boot, .power, .out] pw = true) :
    Kept pw s0 (loadSections s body given) := by
  refine Kept.app h hw ?_
  unfold loadSections
  repeat' first
    | with_reducible assumption
    | with_reducible exact Kept.refl _ _
    | with_reducible refine Kept.ite ?_ ?_
    | ((with_reducible refine loadDevice_kept ?_ ?e); (case e => rfl))
    | ((with_reducible refine takeSection_kept ?_ ?e ?_); (case e => rfl))
    | ((with_reducible refine loadMemory_kept ?_ ?e); (case e => rfl))
    | ((with_reducible refine loadJeano_kept ?_ ?e); (case e => rfl))
    | ((with_reducible refine showMembers_kept ?_ ?e); (case e => rfl))
    | ((with_reducible refine wr_kept ?_ ?e); (case e => rfl))
    | ((with_reducible refine loadTime_kept ?_ ?e); (case e => rfl))
    | ((with_reducible refine loadTdfe_kept ?_ ?e); (case e => rfl))
    | ((with_reducible refine loadPlan_kept ?_ ?e); (case e => rfl))
    | ((with_reducible refine loadL1_kept ?_ ?e); (case e => rfl))
    | ((with_reducible refine loadPower_kept ?_ ?e); (case e => rfl))
    | ((with_reducible refine loadMgmt_kept ?_ ?e); (case e => rfl))
    | ((with_reducible refine loadDefaults_kept ?_ ?e); (case e => rfl))
    | intro _

theorem imageReady_kept {s : State} {pw : List Part} {s0 : State} (h : Kept pw s0 s) (hw : subParts [.regs, .ten, .out] pw = true) :
    Kept pw s0 (imageReady s) := by
  refine Kept.app h hw ?_
  unfold imageReady
  repeat' first
    | with_reducible exact Kept.refl _ _
    | with_reducible refine Kept.ite ?_ ?_
    | ((with_reducible refine showRecordOk_kept ?_ ?e); (case e => rfl))
    | ((with_reducible refine sensorCheck_kept ?_ ?e); (case e => rfl))
    | ((with_reducible refine showList_kept ?_ ?e); (case e => rfl))
    | ((with_reducible refine wr_kept ?_ ?e); (case e => rfl))
    | ((with_reducible refine settle_kept ?_ ?e); (case e => rfl))
    | ((with_reducible refine fnSet_kept ?_ ?e); (case e => rfl))
    | ((with_reducible refine timeReady_kept ?_ ?e); (case e => rfl))
    | ((with_reducible refine setTimeSt_kept ?_ ?e); (case e => rfl))

end Sys2Proof.Machine
end

