-- ==== Sys2Proof/Laws/MemoryStackKept.lean ====
section
/-! SUPPORT. What every operation of Machine/MemoryStack.lean may change, as a law of Kept. -/

set_option linter.unreachableTactic false
set_option linter.unusedTactic false
set_option linter.unusedVariables false

namespace Sys2Proof.Machine

theorem chargeHost_kept {s : State} {pa : Nat} {bytes : Nat} {pw : List Part} {s0 : State} (h : Kept pw s0 s) (hw : subParts [.regs, .mem] pw = true) :
    Kept pw s0 (chargeHost s pa bytes) := by
  refine Kept.app h hw ?_
  unfold chargeHost
  repeat' first
    | with_reducible exact Kept.refl _ _
    | ((with_reducible refine chargeDram_kept ?_ ?e); (case e => rfl))

end Sys2Proof.Machine
end

