-- ==== Sys2Proof/Laws/MigrationKept.lean ====
section
/-! SUPPORT. What every operation of Machine/Migration.lean may change, as a law of Kept. -/

set_option linter.unreachableTactic false
set_option linter.unusedTactic false
set_option linter.unusedVariables false

namespace Sys2Proof.Machine

theorem migRead_kept {s : State} {d : Nat} {off : Nat} {n : Nat} {pw : List Part} {s0 : State} (h : Kept pw s0 s) (hw : subParts [.regs, .mem, .ten, .boot, .out] pw = true) :
    Kept pw s0 (migRead s d off n).1 := by
  refine Kept.app h hw ?_
  unfold migRead
  repeat' first
    | with_reducible exact Kept.refl _ _
    | with_reducible refine Kept.ite_fst ?_ ?_
    | fail_if_no_progress ((with_reducible refine Kept.fst (by assumption) (readRuns_kept ?_ ?e)); (case e => rfl))
    | split

theorem migWrite_kept {s : State} {d : Nat} {bs : List Byte} {pw : List Part} {s0 : State} (h : Kept pw s0 s) (hw : subParts [.mem, .host, .ten] pw = true) :
    Kept pw s0 (migWrite s d bs) := by
  refine Kept.app h hw ?_
  unfold migWrite
  repeat' first
    | with_reducible exact Kept.refl _ _
    | with_reducible refine Kept.ite ?_ ?_
    | ((with_reducible refine dramStore_kept ?_ ?e); (case e => rfl))
    | fail_if_no_progress ((with_reducible refine Kept.setHost ?_ ?e ?i); (case e => rfl); (case i => first | with_reducible exact id | with_reducible exact fun h => hostPut_wf h | with_reducible exact fun h => hostPut_wf (areaPut_wf h)))

theorem migOpen_kept {s : State} {op : Nat} {fn : Nat} {st : Status} {bytes : Nat} {pw : List Part} {s0 : State} (h : Kept pw s0 s) (hw : subParts [.regs, .ten] pw = true) :
    Kept pw s0 (migOpen s op fn st bytes) := by
  refine Kept.app h hw ?_
  unfold migOpen
  repeat' first
    | with_reducible exact Kept.refl _ _
    | ((with_reducible refine wr_kept ?_ ?e); (case e => rfl))
    | dsimp only
    | fail_if_no_progress ((with_reducible refine Kept.setTen ?_ ?e); (case e => rfl))

theorem saveImage_kept {s : State} {d : Nat} {img : List Byte} {pw : List Part} {s0 : State} (h : Kept pw s0 s) (hw : subParts [.regs, .mem, .host, .ten, .boot, .out] pw = true) :
    Kept pw s0 (saveImage s d img) := by
  refine Kept.app h hw ?_
  unfold saveImage
  repeat' first
    | with_reducible exact Kept.refl _ _
    | with_reducible refine Kept.ite ?_ ?_
    | ((with_reducible refine migOpen_kept ?_ ?e); (case e => rfl))
    | fail_if_no_progress ((with_reducible refine Kept.fst (by assumption) (senseRuns_kept ?_ ?e)); (case e => rfl))
    | ((with_reducible refine migWrite_kept ?_ ?e); (case e => rfl))
    | split

theorem loadStep_kept {s : State} {f : Nat} {bs : List Byte} {pw : List Part} {s0 : State} (h : Kept pw s0 s) (hw : subParts [.regs, .mem, .work, .yards, .ten, .cores, .boot, .out] pw = true) :
    Kept pw s0 (loadStep s f bs).1 := by
  refine Kept.app h hw ?_
  unfold loadStep
  repeat' first
    | with_reducible assumption
    | with_reducible exact Kept.refl _ _
    | ((with_reducible refine putQ_kept ?_ ?e); (case e => rfl))
    | ((with_reducible refine readNext_kept ?_ ?e); (case e => rfl))
    | ((with_reducible refine putStep_kept ?_ ?e); (case e => rfl))
    | ((with_reducible refine putCmd_kept ?_ ?e); (case e => rfl))
    | ((with_reducible refine finish_kept ?_ ?e); (case e => rfl))
    | with_reducible refine Kept.foldl ?_ ?_
    | dsimp only
    | split
    | intro _

theorem loadSteps_kept {n : Nat} {s : State} {f : Nat} {bs : List Byte} {pw : List Part} {s0 : State} (h : Kept pw s0 s) (hw : subParts [.regs, .mem, .work, .yards, .ten, .cores, .boot, .out] pw = true) :
    Kept pw s0 (loadSteps n s f bs).1 := by
  refine Kept.app h hw ?_
  have key : ∀ n (s : State) (f : Nat) (bs : List Byte) (s0 : State), Kept [.regs, .mem, .work, .yards, .ten, .cores, .boot, .out] s0 s → Kept [.regs, .mem, .work, .yards, .ten, .cores, .boot, .out] s0 (loadSteps n s f bs).1 := by
    intro n
    induction n with
    | zero =>
      intro s f bs s0 h
      unfold loadSteps
      repeat' first
        | with_reducible assumption
    | succ k ih =>
      intro s f bs s0 h
      unfold loadSteps
      repeat' first
        | refine ih _ _ _ _ ?_
        | with_reducible assumption
        | ((with_reducible refine loadStep_kept ?_ ?e); (case e => rfl))
  exact key _ _ _ _ _ (Kept.refl _ _)

theorem loadCtxs_kept {cs : List Nat} {s : State} {f : Nat} {bs : List Byte} {pw : List Part} {s0 : State} (h : Kept pw s0 s) (hw : subParts [.mem, .yards, .ten] pw = true) :
    Kept pw s0 (loadCtxs cs s f bs).1 := by
  refine Kept.app h hw ?_
  have key : ∀ cs (s : State) (f : Nat) (bs : List Byte) (s0 : State), Kept [.mem, .yards, .ten] s0 s → Kept [.mem, .yards, .ten] s0 (loadCtxs cs s f bs).1 := by
    intro cs
    induction cs with
    | nil =>
      intro s f bs s0 h
      unfold loadCtxs
      repeat' first
        | with_reducible assumption
    | cons a l ih =>
      intro s f bs s0 h
      unfold loadCtxs
      repeat' first
        | refine ih _ _ _ _ ?_
        | with_reducible assumption
        | ((with_reducible refine dramStore_kept ?_ ?e); (case e => rfl))
        | ((with_reducible refine putCtx_kept ?_ ?e); (case e => rfl))
  exact key _ _ _ _ _ (Kept.refl _ _)

theorem loadState_kept {s : State} {f : Nat} {bs : List Byte} {pw : List Part} {s0 : State} (h : Kept pw s0 s) (hw : subParts [.regs, .mem, .work, .yards, .ten, .cores, .boot, .out] pw = true) :
    Kept pw s0 (loadState s f bs).1 := by
  refine Kept.app h hw ?_
  unfold loadState
  repeat' first
    | with_reducible assumption
    | with_reducible exact Kept.refl _ _
    | ((with_reducible refine putQ_kept ?_ ?e); (case e => rfl))
    | ((with_reducible refine tallyPut_kept ?_ ?e); (case e => rfl))
    | ((with_reducible refine loadSteps_kept ?_ ?e); (case e => rfl))
    | ((with_reducible refine loadCtxs_kept ?_ ?e); (case e => rfl))
    | with_reducible refine Kept.foldl ?_ ?_
    | dsimp only
    | intro _

theorem loadLots_kept {s : State} {lots : List Nat} {bs : List Byte} {pw : List Part} {s0 : State} (h : Kept pw s0 s) (hw : subParts [.mem, .ten] pw = true) :
    Kept pw s0 (loadLots s lots bs) := by
  refine Kept.app h hw ?_
  unfold loadLots
  repeat' first
    | with_reducible assumption
    | with_reducible exact Kept.refl _ _
    | ((with_reducible refine dramStore_kept ?_ ?e); (case e => rfl))
    | with_reducible refine Kept.foldl ?_ ?_
    | intro _

theorem loadRegions_kept {n : Nat} {s : State} {lots : List Nat} {bs : List Byte} {pw : List Part} {s0 : State} (h : Kept pw s0 s) (hw : subParts [.mem, .ten] pw = true) :
    Kept pw s0 (loadRegions n s lots bs) := by
  refine Kept.app h hw ?_
  have key : ∀ n (s : State) (lots : List Nat) (bs : List Byte) (s0 : State), Kept [.mem, .ten] s0 s → Kept [.mem, .ten] s0 (loadRegions n s lots bs) := by
    intro n
    induction n with
    | zero =>
      intro s lots bs s0 h
      unfold loadRegions
      repeat' first
        | with_reducible assumption
    | succ k ih =>
      intro s lots bs s0 h
      unfold loadRegions
      repeat' first
        | refine ih _ _ _ _ ?_
        | with_reducible assumption
        | ((with_reducible refine dramStore_kept ?_ ?e); (case e => rfl))
        | split
  exact key _ _ _ _ _ (Kept.refl _ _)

end Sys2Proof.Machine
end

