-- ==== Sys2Proof/Laws/RadioCoreKept.lean ====
section
/-! SUPPORT. What every operation of Machine/RadioCore.lean may change, as a law of Kept. -/

set_option linter.unreachableTactic false
set_option linter.unusedTactic false
set_option linter.unusedVariables false

namespace Sys2Proof.Machine

theorem radioRead_kept {s : State} {stop : Nat} {pa : Nat} {n : Nat} {pw : List Part} {s0 : State} (h : Kept pw s0 s) (hw : subParts [.regs, .mem, .ten, .boot, .out] pw = true) :
    Kept pw s0 (radioRead s stop pa n).1 := by
  refine Kept.app h hw ?_
  unfold radioRead
  repeat' first
    | with_reducible assumption
    | with_reducible exact Kept.refl _ _
    | ((with_reducible refine senseAt_kept ?_ ?e); (case e => rfl))
    | ((with_reducible refine radioTraffic_kept ?_ ?e); (case e => rfl))
    | with_reducible refine Kept.foldl_fst ?_ ?_
    | dsimp only
    | intro _

theorem radioWrite_kept {s : State} {stop : Nat} {pa : Nat} {bs : List Byte} {pw : List Part} {s0 : State} (h : Kept pw s0 s) (hw : subParts [.regs, .mem, .ten, .boot, .out] pw = true) :
    Kept pw s0 (radioWrite s stop pa bs) := by
  refine Kept.app h hw ?_
  unfold radioWrite
  repeat' first
    | with_reducible exact Kept.refl _ _
    | with_reducible refine Kept.ite ?_ ?_
    | ((with_reducible refine writeRuns_kept ?_ ?e); (case e => rfl))
    | ((with_reducible refine radioTraffic_kept ?_ ?e); (case e => rfl))

theorem fapiPut_kept {s : State} {ring : Nat} {entry : Nat} {bs : List Byte} {pw : List Part} {s0 : State} (h : Kept pw s0 s) (hw : subParts [.regs, .host, .ten, .radio, .out] pw = true) :
    OptKept pw s0 (fapiPut s ring entry bs) := by
  suffices hh : OptKept [.regs, .host, .ten, .radio, .out] s (fapiPut s ring entry bs) from fun t ht => Kept.app h hw (hh t ht)
  unfold fapiPut
  repeat' first
    | with_reducible refine OptKept.some ?_
    | with_reducible exact OptKept.none
    | with_reducible exact Kept.refl _ _
    | ((with_reducible refine raiseMsix_kept ?_ ?e); (case e => rfl))
    | ((with_reducible refine wr_kept ?_ ?e); (case e => rfl))
    | dsimp only
    | fail_if_no_progress ((with_reducible refine Kept.setHostRadio ?_ ?e0 ?e1 ?i0); (case e0 => rfl); (case e1 => rfl); (case i0 => first | with_reducible exact id | with_reducible exact fun h => hostPut_wf h | with_reducible exact fun h => hostPut_wf (areaPut_wf h)))
    | split

theorem fapiDrop_kept {s : State} {ring : Nat} {pw : List Part} {s0 : State} (h : Kept pw s0 s) (hw : subParts [.regs, .ten, .out] pw = true) :
    Kept pw s0 (fapiDrop s ring) := by
  refine Kept.app h hw ?_
  unfold fapiDrop
  repeat' first
    | with_reducible exact Kept.refl _ _
    | ((with_reducible refine healthCause_kept ?_ ?e); (case e => rfl))
    | ((with_reducible refine bump_kept ?_ ?e); (case e => rfl))

theorem indicate_kept {s : State} {ring : Nat} {m : FapiInd} {pw : List Part} {s0 : State} (h : Kept pw s0 s) (hw : subParts [.regs, .host, .ten, .radio, .out] pw = true) :
    Kept pw s0 (indicate s ring m) := by
  refine Kept.app h hw ?_
  unfold indicate
  repeat' first
    | with_reducible exact Kept.refl _ _
    | ((with_reducible refine Kept.of_opt (fapiPut_kept ?_ ?e) (by assumption)); (case e => rfl))
    | ((with_reducible refine fapiDrop_kept ?_ ?e); (case e => rfl))
    | ((with_reducible refine emit_kept ?_ ?e); (case e => rfl))
    | dsimp only
    | split

theorem indicateCell_kept {s : State} {c : Nat} {m : FapiInd} {pw : List Part} {s0 : State} (h : Kept pw s0 s) (hw : subParts [.regs, .host, .ten, .radio, .out] pw = true) :
    Kept pw s0 (indicateCell s c m) := by
  refine Kept.app h hw ?_
  unfold indicateCell
  repeat' first
    | with_reducible exact Kept.refl _ _
    | ((with_reducible refine indicate_kept ?_ ?e); (case e => rfl))

theorem radioLate_kept {s : State} {cell : Nat} {sfn : Nat} {slot : Nat} {output : Nat} {affected : Nat} {pw : List Part} {s0 : State} (h : Kept pw s0 s) (hw : subParts [.regs, .host, .ten, .radio, .out] pw = true) :
    Kept pw s0 (radioLate s cell sfn slot output affected) := by
  refine Kept.app h hw ?_
  unfold radioLate
  repeat' first
    | with_reducible exact Kept.refl _ _
    | ((with_reducible refine indicateCell_kept ?_ ?e); (case e => rfl))
    | ((with_reducible refine bump_kept ?_ ?e); (case e => rfl))

theorem fillTokens_kept {s : State} {c : Nat} {p : CellPlan} {pw : List Part} {s0 : State} (h : Kept pw s0 s) (hw : subParts [.radio] pw = true) :
    Kept pw s0 (fillTokens s c p) := by
  refine Kept.app h hw ?_
  unfold fillTokens
  repeat' first
    | with_reducible exact Kept.refl _ _
    | dsimp only
    | fail_if_no_progress ((with_reducible refine Kept.setRadio ?_ ?e); (case e => rfl))

theorem sendFrames_kept {s : State} {c : Nat} {p : CellPlan} {fs : List FhFrame} {pw : List Part} {s0 : State} (h : Kept pw s0 s) (hw : subParts [.regs, .radio, .out] pw = true) :
    Kept pw s0 (sendFrames s c p fs).1 := by
  induction fs generalizing s with
  | nil => exact h
  | cons f t ih =>
    rw [sendFrames]
    split
    · exact h
    · exact ih (bump_kept (emit_kept (Kept.setRadio h (contains_of_sub rfl hw)) (subParts_trans rfl hw)) (subParts_trans rfl hw))

end Sys2Proof.Machine
end

