-- ==== Sys2Proof/Laws/PostQueueKept.lean ====
section
/-! SUPPORT. What every operation of Machine/PostQueue.lean may change, as a law of Kept. -/

set_option linter.unreachableTactic false
set_option linter.unusedTactic false
set_option linter.unusedVariables false

namespace Sys2Proof.Machine

theorem sieveDone_kept {s : State} {j : SieveJob} {out : List Byte} {res : List Byte} {st : Status} {pw : List Part} {s0 : State} (h : Kept pw s0 s) (hw : subParts [.regs, .mem, .ten, .cores, .boot, .out] pw = true) :
    Kept pw s0 (sieveDone s j out res st) := by
  refine Kept.app h hw ?_
  unfold sieveDone
  repeat' first
    | with_reducible exact Kept.refl _ _
    | with_reducible refine Kept.ite ?_ ?_
    | ((with_reducible refine radioWrite_kept ?_ ?e); (case e => rfl))
    | ((with_reducible refine coreComplete_kept ?_ ?e); (case e => rfl))

theorem postSieve_kept {s : State} {n : Nat} {bs : List Byte} {pw : List Part} {s0 : State} (h : Kept pw s0 s) (hw : subParts [.regs, .mem, .ten, .cores, .radio, .boot, .out] pw = true) :
    Kept pw s0 (postSieve s n bs) := by
  refine Kept.app h hw ?_
  unfold postSieve
  repeat' first
    | with_reducible exact Kept.refl _ _
    | with_reducible refine Kept.ite ?_ ?_
    | ((with_reducible refine coreComplete_kept ?_ ?e); (case e => rfl))
    | ((with_reducible refine sieveDone_kept ?_ ?e); (case e => rfl))
    | dsimp only
    | fail_if_no_progress ((with_reducible refine Kept.setRadio ?_ ?e); (case e => rfl))

theorem postRadio_kept {s : State} {n : Nat} {slotTag : Nat} {bs : List Byte} {pw : List Part} {s0 : State} (h : Kept pw s0 s) (hw : subParts [.regs, .work, .cores] pw = true) :
    Kept pw s0 (postRadio s n slotTag bs) := by
  refine Kept.app h hw ?_
  unfold postRadio
  repeat' first
    | with_reducible exact Kept.refl _ _
    | ((with_reducible refine coreComplete_kept ?_ ?e); (case e => rfl))
    | ((with_reducible refine putCmd_kept ?_ ?e); (case e => rfl))
    | dsimp only
    | fail_if_no_progress ((with_reducible refine Kept.setWork ?_ ?e); (case e => rfl))
    | split

theorem postMbox_kept {s : State} {n : Nat} {bs : List Byte} {pw : List Part} {s0 : State} (h : Kept pw s0 s) (hw : subParts [.regs, .cores] pw = true) :
    Kept pw s0 (postMbox s n bs) := by
  refine Kept.app h hw ?_
  unfold postMbox
  repeat' first
    | with_reducible exact Kept.refl _ _
    | with_reducible refine Kept.ite ?_ ?_
    | ((with_reducible refine coreComplete_kept ?_ ?e); (case e => rfl))
    | ((with_reducible refine Kept.of_opt (mboxDeliver_kept ?_ ?e) (by assumption)); (case e => rfl))
    | split

theorem postFhTx_kept {s : State} {n : Nat} {bs : List Byte} {pw : List Part} {s0 : State} (h : Kept pw s0 s) (hw : subParts [.regs, .mem, .host, .ten, .cores, .radio, .boot, .out] pw = true) :
    Kept pw s0 (postFhTx s n bs) := by
  refine Kept.app h hw ?_
  unfold postFhTx
  repeat' first
    | with_reducible exact Kept.refl _ _
    | with_reducible refine Kept.ite ?_ ?_
    | ((with_reducible refine coreComplete_kept ?_ ?e); (case e => rfl))
    | ((with_reducible refine radioLate_kept ?_ ?e); (case e => rfl))
    | ((with_reducible refine radioRead_kept ?_ ?e); (case e => rfl))
    | ((with_reducible refine bump_kept ?_ ?e); (case e => rfl))
    | ((with_reducible refine emit_kept ?_ ?e); (case e => rfl))
    | dsimp only
    | fail_if_no_progress ((with_reducible refine Kept.setRadio ?_ ?e); (case e => rfl))
    | split

theorem postFapi_kept {s : State} {n : Nat} {bs : List Byte} {pw : List Part} {s0 : State} (h : Kept pw s0 s) (hw : subParts [.regs, .mem, .host, .ten, .cores, .radio, .boot, .out] pw = true) :
    Kept pw s0 (postFapi s n bs) := by
  refine Kept.app h hw ?_
  unfold postFapi
  repeat' first
    | with_reducible exact Kept.refl _ _
    | with_reducible refine Kept.ite ?_ ?_
    | ((with_reducible refine coreComplete_kept ?_ ?e); (case e => rfl))
    | ((with_reducible refine radioRead_kept ?_ ?e); (case e => rfl))
    | ((with_reducible refine Kept.of_opt (fapiPut_kept ?_ ?e) (by assumption)); (case e => rfl))
    | ((with_reducible refine fapiDrop_kept ?_ ?e); (case e => rfl))
    | ((with_reducible refine emit_kept ?_ ?e); (case e => rfl))
    | dsimp only
    | fail_if_no_progress ((with_reducible refine Kept.setRadio ?_ ?e); (case e => rfl))
    | split

theorem takePost_kept {s : State} {n : Nat} {x : Stall} {pw : List Part} {s0 : State} (h : Kept pw s0 s) (hw : subParts [.regs, .mem, .host, .work, .ten, .cores, .radio, .boot, .out] pw = true) :
    Kept pw s0 (takePost s n x) := by
  refine Kept.app h hw ?_
  unfold takePost
  repeat' first
    | with_reducible exact Kept.refl _ _
    | ((with_reducible refine postSieve_kept ?_ ?e); (case e => rfl))
    | ((with_reducible refine postRadio_kept ?_ ?e); (case e => rfl))
    | ((with_reducible refine postMbox_kept ?_ ?e); (case e => rfl))
    | ((with_reducible refine postFhTx_kept ?_ ?e); (case e => rfl))
    | ((with_reducible refine postFapi_kept ?_ ?e); (case e => rfl))
    | split

theorem tryPost_kept {s : State} {n : Nat} {pw : List Part} {s0 : State} (h : Kept pw s0 s) (hw : subParts [.regs, .mem, .host, .work, .ten, .cores, .radio, .boot, .out] pw = true) :
    Kept pw s0 (tryPost s n) := by
  refine Kept.app h hw ?_
  unfold tryPost
  repeat' first
    | with_reducible exact Kept.refl _ _
    | with_reducible refine Kept.ite ?_ ?_
    | ((with_reducible refine putCore_kept ?_ ?e); (case e => rfl))
    | ((with_reducible refine bump_kept ?_ ?e); (case e => rfl))
    | ((with_reducible refine takePost_kept ?_ ?e); (case e => rfl))
    | dsimp only
    | split

theorem postSlot_kept {s : State} {core : BitVec 6} {port : Nat} {a : BitVec 3} {units : BitVec 4} {last : Bool} {pw : List Part} {s0 : State} (h : Kept pw s0 s) (hw : subParts [.regs, .mem, .host, .work, .ten, .cores, .radio, .boot, .out] pw = true) :
    Kept pw s0 (postSlot s core port a units last) := by
  refine Kept.app h hw ?_
  unfold postSlot
  repeat' first
    | with_reducible exact Kept.refl _ _
    | with_reducible refine Kept.ite ?_ ?_
    | ((with_reducible refine coreFault_kept ?_ ?e); (case e => rfl))
    | ((with_reducible refine tryPost_kept ?_ ?e); (case e => rfl))
    | ((with_reducible refine putCore_kept ?_ ?e); (case e => rfl))
    | ((with_reducible refine endBundle_kept ?_ ?e); (case e => rfl))

end Sys2Proof.Machine
end

