-- ==== Sys2Proof/Laws/PowerKept.lean ====
section
/-! SUPPORT. What every operation of Machine/Power.lean may change, as a law of Kept. -/

set_option linter.unreachableTactic false
set_option linter.unusedTactic false
set_option linter.unusedVariables false

namespace Sys2Proof.Machine

theorem cableSample_kept {s : State} {j : Nat} {c : BitVec 16 × Bool} {pw : List Part} {s0 : State} (h : Kept pw s0 s) (hw : subParts [.regs, .power] pw = true) :
    Kept pw s0 (cableSample s j c) := by
  refine Kept.app h hw ?_
  unfold cableSample
  repeat' first
    | with_reducible exact Kept.refl _ _
    | ((with_reducible refine wr_kept ?_ ?e); (case e => rfl))
    | dsimp only
    | fail_if_no_progress ((with_reducible refine Kept.setPower ?_ ?e); (case e => rfl))

theorem showPace_kept {s : State} {pw : List Part} {s0 : State} (h : Kept pw s0 s) (hw : subParts [.regs, .power] pw = true) :
    Kept pw s0 (showPace s) := by
  refine Kept.app h hw ?_
  unfold showPace
  repeat' first
    | with_reducible exact Kept.refl _ _
    | ((with_reducible refine wr_kept ?_ ?e); (case e => rfl))
    | dsimp only
    | fail_if_no_progress ((with_reducible refine Kept.setPower ?_ ?e); (case e => rfl))

theorem endBand_kept {s : State} {state : Nat} {pw : List Part} {s0 : State} (h : Kept pw s0 s) (hw : subParts [.regs, .power] pw = true) :
    Kept pw s0 (endBand s state) := by
  refine Kept.app h hw ?_
  unfold endBand
  repeat' first
    | with_reducible exact Kept.refl _ _
    | ((with_reducible refine wr_kept ?_ ?e); (case e => rfl))
    | dsimp only
    | fail_if_no_progress ((with_reducible refine Kept.setPower ?_ ?e); (case e => rfl))

theorem countReads_kept {s : State} {rs : List (Option (BitVec 8))} {pw : List Part} {s0 : State} (h : Kept pw s0 s) (hw : subParts [.regs, .ten, .power, .out] pw = true) :
    Kept pw s0 (countReads s rs) := by
  refine Kept.app h hw ?_
  unfold countReads
  repeat' first
    | with_reducible assumption
    | with_reducible exact Kept.refl _ _
    | ((with_reducible refine healthCause_kept ?_ ?e); (case e => rfl))
    | ((with_reducible refine wr_kept ?_ ?e); (case e => rfl))
    | with_reducible refine Kept.foldl ?_ ?_
    | dsimp only
    | fail_if_no_progress ((with_reducible refine Kept.setPower ?_ ?e); (case e => rfl))
    | split
    | intro _

theorem readTemps_kept {s : State} {r : LoopIn} {pw : List Part} {s0 : State} (h : Kept pw s0 s) (hw : subParts [.regs, .ten, .power, .out] pw = true) :
    Kept pw s0 (readTemps s r) := by
  refine Kept.app h hw ?_
  unfold readTemps
  repeat' first
    | with_reducible exact Kept.refl _ _
    | ((with_reducible refine countReads_kept ?_ ?e); (case e => rfl))
    | ((with_reducible refine wr_kept ?_ ?e); (case e => rfl))
    | dsimp only
    | split

theorem readTachs_kept {s : State} {rpm : List (BitVec 16)} {pw : List Part} {s0 : State} (h : Kept pw s0 s) (hw : subParts [.regs, .ten, .power, .out] pw = true) :
    Kept pw s0 (readTachs s rpm) := by
  refine Kept.app h hw ?_
  unfold readTachs
  repeat' first
    | with_reducible assumption
    | with_reducible exact Kept.refl _ _
    | ((with_reducible refine wr_kept ?_ ?e); (case e => rfl))
    | ((with_reducible refine healthCause_kept ?_ ?e); (case e => rfl))
    | with_reducible refine Kept.foldl ?_ ?_
    | dsimp only
    | fail_if_no_progress ((with_reducible refine Kept.setPower ?_ ?e); (case e => rfl))
    | split
    | intro _

theorem setDuty_kept {s : State} {i : Nat} {tErr : Int} {dP : Int} {d : Nat} {pw : List Part} {s0 : State} (h : Kept pw s0 s) (hw : subParts [.regs, .power] pw = true) :
    Kept pw s0 (setDuty s i tErr dP d) := by
  refine Kept.app h hw ?_
  unfold setDuty
  repeat' first
    | with_reducible exact Kept.refl _ _
    | with_reducible refine Kept.ite ?_ ?_
    | ((with_reducible refine wr_kept ?_ ?e); (case e => rfl))
    | dsimp only
    | fail_if_no_progress ((with_reducible refine Kept.setPower ?_ ?e); (case e => rfl))
    | split

theorem refineKp_kept {s : State} {d : Nat} {pw : List Part} {s0 : State} (h : Kept pw s0 s) (hw : subParts [.regs] pw = true) :
    Kept pw s0 (refineKp s d) := by
  refine Kept.app h hw ?_
  unfold refineKp
  repeat' first
    | with_reducible exact Kept.refl _ _
    | ((with_reducible refine wr_kept ?_ ?e); (case e => rfl))

theorem rungAction_kept {s : State} {rung : Nat} {pw : List Part} {s0 : State} (h : Kept pw s0 s) (hw : subParts [.regs, .power] pw = true) :
    Kept pw s0 (rungAction s rung) := by
  refine Kept.app h hw ?_
  unfold rungAction
  repeat' first
    | with_reducible exact Kept.refl _ _
    | ((with_reducible refine showPace_kept ?_ ?e); (case e => rfl))
    | dsimp only
    | fail_if_no_progress ((with_reducible refine Kept.setPower ?_ ?e); (case e => rfl))
    | split

theorem rungUndo_kept {s : State} {rung : Nat} {pw : List Part} {s0 : State} (h : Kept pw s0 s) (hw : subParts [.regs, .power] pw = true) :
    Kept pw s0 (rungUndo s rung) := by
  refine Kept.app h hw ?_
  unfold rungUndo
  repeat' first
    | with_reducible exact Kept.refl _ _
    | ((with_reducible refine showPace_kept ?_ ?e); (case e => rfl))
    | dsimp only
    | fail_if_no_progress ((with_reducible refine Kept.setPower ?_ ?e); (case e => rfl))
    | split

theorem enterRung_kept {s : State} {rung : Nat} {pw : List Part} {s0 : State} (h : Kept pw s0 s) (hw : subParts [.regs, .power] pw = true) :
    Kept pw s0 (enterRung s rung) := by
  refine Kept.app h hw ?_
  unfold enterRung
  repeat' first
    | with_reducible exact Kept.refl _ _
    | ((with_reducible refine wr_kept ?_ ?e); (case e => rfl))
    | dsimp only
    | fail_if_no_progress ((with_reducible refine Kept.setPower ?_ ?e); (case e => rfl))

theorem ladder_kept {s : State} {dieErr : Int} {dramErr : Int} {pw : List Part} {s0 : State} (h : Kept pw s0 s) (hw : subParts [.regs, .power] pw = true) :
    Kept pw s0 (ladder s dieErr dramErr) := by
  refine Kept.app h hw ?_
  unfold ladder
  repeat' first
    | with_reducible exact Kept.refl _ _
    | with_reducible refine Kept.ite ?_ ?_
    | ((with_reducible refine rungAction_kept ?_ ?e); (case e => rfl))
    | ((with_reducible refine enterRung_kept ?_ ?e); (case e => rfl))
    | ((with_reducible refine rungUndo_kept ?_ ?e); (case e => rfl))
    | fail_if_no_progress ((with_reducible refine Kept.setPower ?_ ?e); (case e => rfl))

theorem showBand_kept {s : State} {pw : List Part} {s0 : State} (h : Kept pw s0 s) (hw : subParts [.regs, .power] pw = true) :
    Kept pw s0 (showBand s) := by
  refine Kept.app h hw ?_
  unfold showBand
  repeat' first
    | with_reducible exact Kept.refl _ _
    | with_reducible refine Kept.ite ?_ ?_
    | ((with_reducible refine wr_kept ?_ ?e); (case e => rfl))
    | ((with_reducible refine endBand_kept ?_ ?e); (case e => rfl))
    | dsimp only
    | fail_if_no_progress ((with_reducible refine Kept.setPower ?_ ?e); (case e => rfl))
    | split

theorem loopCycle_kept {s : State} {r : LoopIn} {pw : List Part} {s0 : State} (h : Kept pw s0 s) (hw : subParts [.regs, .ten, .power, .out, .free] pw = true) :
    Kept pw s0 (loopCycle s r) := by
  refine Kept.app h hw ?_
  unfold loopCycle
  repeat' first
    | with_reducible assumption
    | with_reducible exact Kept.refl _ _
    | with_reducible refine Kept.ite ?_ ?_
    | ((with_reducible refine drawn_kept ?_ ?e); (case e => rfl))
    | ((with_reducible refine readTachs_kept ?_ ?e); (case e => rfl))
    | ((with_reducible refine readTemps_kept ?_ ?e); (case e => rfl))
    | ((with_reducible refine endBand_kept ?_ ?e); (case e => rfl))
    | ((with_reducible refine wr_kept ?_ ?e); (case e => rfl))
    | ((with_reducible refine setDuty_kept ?_ ?e); (case e => rfl))
    | ((with_reducible refine showBand_kept ?_ ?e); (case e => rfl))
    | ((with_reducible refine ladder_kept ?_ ?e); (case e => rfl))
    | ((with_reducible refine refineKp_kept ?_ ?e); (case e => rfl))
    | with_reducible refine Kept.foldl ?_ ?_
    | dsimp only
    | fail_if_no_progress ((with_reducible refine Kept.setPower ?_ ?e); (case e => rfl))
    | split
    | intro _

end Sys2Proof.Machine
end

