-- ==== Sys2Proof/Laws/RadioKept.lean ====
section
/-! SUPPORT. What every operation of Machine/Radio.lean may change, as a law of Kept. -/

set_option linter.unreachableTactic false
set_option linter.unusedTactic false
set_option linter.unusedVariables false

namespace Sys2Proof.Machine

theorem readFapiEntry_kept {s : State} {ring : Nat} {i : Nat} {pw : List Part} {s0 : State} (h : Kept pw s0 s) (hw : subParts [.regs, .host, .ten, .radio, .out] pw = true) :
    Kept pw s0 (readFapiEntry s ring i) := by
  refine Kept.app h hw ?_
  unfold readFapiEntry
  repeat' first
    | with_reducible exact Kept.refl _ _
    | with_reducible refine Kept.ite ?_ ?_
    | ((with_reducible refine logErr_kept ?_ ?e); (case e => rfl))
    | ((with_reducible refine indicateCell_kept ?_ ?e); (case e => rfl))
    | dsimp only
    | fail_if_no_progress ((with_reducible refine Kept.setRadio ?_ ?e); (case e => rfl))

theorem p5Response_kept {s : State} {request : Nat} {cell : Nat} {err : Nat} {pw : List Part} {s0 : State} (h : Kept pw s0 s) (hw : subParts [.regs, .host, .ten, .radio, .out] pw = true) :
    Kept pw s0 (p5Response s request cell err) := by
  refine Kept.app h hw ?_
  unfold p5Response
  repeat' first
    | with_reducible exact Kept.refl _ _
    | ((with_reducible refine indicate_kept ?_ ?e); (case e => rfl))

theorem reportPdus_kept {s : State} {c : Nat} {sfn : Nat} {slot : Nat} {pdus : List Pdu} {pw : List Part} {s0 : State} (h : Kept pw s0 s) (hw : subParts [.regs, .host, .ten, .radio, .out] pw = true) :
    Kept pw s0 (reportPdus s c sfn slot pdus) := by
  refine Kept.app h hw ?_
  unfold reportPdus
  repeat' first
    | with_reducible assumption
    | with_reducible exact Kept.refl _ _
    | ((with_reducible refine indicateCell_kept ?_ ?e); (case e => rfl))
    | with_reducible refine Kept.foldl ?_ ?_
    | split
    | intro _

theorem takeHarq_kept {s : State} {c : Nat} {sfn : Nat} {slot : Nat} {p : CellPlan} {pdus : List Pdu} {pw : List Part} {s0 : State} (h : Kept pw s0 s) (hw : subParts [.regs, .radio] pw = true) :
    Kept pw s0 (takeHarq s c sfn slot p pdus) := by
  refine Kept.app h hw ?_
  unfold takeHarq
  repeat' first
    | with_reducible assumption
    | with_reducible exact Kept.refl _ _
    | ((with_reducible refine bump_kept ?_ ?e); (case e => rfl))
    | with_reducible refine Kept.foldl ?_ ?_
    | dsimp only
    | fail_if_no_progress ((with_reducible refine Kept.setRadio ?_ ?e); (case e => rfl))
    | split
    | intro _

theorem p7_kept {s : State} {kind : P7Kind} {ring : Nat} {c : Nat} {sfn : Nat} {slot : Nat} {pdus : List Pdu} {pw : List Part} {s0 : State} (h : Kept pw s0 s) (hw : subParts [.regs, .host, .work, .ten, .radio, .out] pw = true) :
    Kept pw s0 (p7 s kind ring c sfn slot pdus) := by
  refine Kept.app h hw ?_
  unfold p7
  repeat' first
    | with_reducible exact Kept.refl _ _
    | with_reducible refine Kept.ite ?_ ?_
    | ((with_reducible refine indicateCell_kept ?_ ?e); (case e => rfl))
    | ((with_reducible refine bump_kept ?_ ?e); (case e => rfl))
    | ((with_reducible refine reportPdus_kept ?_ ?e); (case e => rfl))
    | ((with_reducible refine takeHarq_kept ?_ ?e); (case e => rfl))
    | dsimp only
    | fail_if_no_progress ((with_reducible refine Kept.setRadio ?_ ?e); (case e => rfl))
    | split

theorem pruneSlots_kept {s : State} {pw : List Part} {s0 : State} (h : Kept pw s0 s) (hw : subParts [.radio] pw = true) :
    Kept pw s0 (pruneSlots s) := by
  refine Kept.app h hw ?_
  unfold pruneSlots
  repeat' first
    | with_reducible exact Kept.refl _ _
    | dsimp only
    | fail_if_no_progress ((with_reducible refine Kept.setRadio ?_ ?e); (case e => rfl))

theorem fhReceived_kept {s : State} {lport : Nat} {pw : List Part} {s0 : State} (h : Kept pw s0 s) (hw : subParts [.regs] pw = true) :
    Kept pw s0 (fhReceived s lport) := by
  refine Kept.app h hw ?_
  unfold fhReceived
  repeat' first
    | with_reducible exact Kept.refl _ _
    | ((with_reducible refine bump_kept ?_ ?e); (case e => rfl))

theorem fhDiscard_kept {s : State} {lport : Nat} {pw : List Part} {s0 : State} (h : Kept pw s0 s) (hw : subParts [.regs] pw = true) :
    Kept pw s0 (fhDiscard s lport) := by
  refine Kept.app h hw ?_
  unfold fhDiscard
  repeat' first
    | with_reducible exact Kept.refl _ _
    | ((with_reducible refine bump_kept ?_ ?e); (case e => rfl))

theorem buildFrames_kept {s : State} {p : CellPlan} {w : Nat} {x : FhSection} {pw : List Part} {s0 : State} (h : Kept pw s0 s) (hw : subParts [.regs, .mem, .ten, .boot, .out] pw = true) :
    Kept pw s0 (buildFrames s p w x).1 := by
  refine Kept.app h hw ?_
  unfold buildFrames
  repeat' first
    | with_reducible exact Kept.refl _ _
    | ((with_reducible refine radioRead_kept ?_ ?e); (case e => rfl))

theorem slotEvent_kept {s : State} {bit : Nat} {mu : Nat} {sfn : Nat} {slot : Nat} {sym : Nat} {pw : List Part} {s0 : State} (h : Kept pw s0 s) (hw : subParts [.regs, .cores] pw = true) :
    Kept pw s0 (slotEvent s bit mu sfn slot sym) := by
  refine Kept.app h hw ?_
  unfold slotEvent
  repeat' first
    | with_reducible assumption
    | with_reducible exact Kept.refl _ _
    | ((with_reducible refine coreEvent_kept ?_ ?e); (case e => rfl))
    | ((with_reducible refine putCore_kept ?_ ?e); (case e => rfl))
    | with_reducible refine Kept.foldl ?_ ?_
    | dsimp only
    | split
    | intro _

theorem markCapped_kept {s : State} {sfn : Nat} {slot : Nat} {x : DueTb × Nat × Bool} {pw : List Part} {s0 : State} (h : Kept pw s0 s) (hw : subParts [.regs, .radio] pw = true) :
    Kept pw s0 (markCapped s sfn slot x) := by
  refine Kept.app h hw ?_
  unfold markCapped
  repeat' first
    | with_reducible exact Kept.refl _ _
    | with_reducible refine Kept.ite ?_ ?_
    | ((with_reducible refine bump_kept ?_ ?e); (case e => rfl))
    | dsimp only
    | fail_if_no_progress ((with_reducible refine Kept.setRadio ?_ ?e); (case e => rfl))

theorem runJob_kept {s : State} {e : Nat} {j : SieveJob} {pw : List Part} {s0 : State} (h : Kept pw s0 s) (hw : subParts [.regs, .mem, .host, .ten, .cores, .radio, .boot, .out] pw = true) :
    Kept pw s0 (runJob s e j) := by
  refine Kept.app h hw ?_
  unfold runJob
  repeat' first
    | with_reducible exact Kept.refl _ _
    | with_reducible refine Kept.ite ?_ ?_
    | ((with_reducible refine bump_kept ?_ ?e); (case e => rfl))
    | ((with_reducible refine sieveDone_kept ?_ ?e); (case e => rfl))
    | ((with_reducible refine radioRead_kept ?_ ?e); (case e => rfl))
    | ((with_reducible refine indicateCell_kept ?_ ?e); (case e => rfl))
    | dsimp only
    | fail_if_no_progress ((with_reducible refine Kept.setRadio ?_ ?e); (case e => rfl))

theorem engineTakes_kept {s : State} {e : Nat} {op : Nat} {lo : Nat} {hi : Nat} {pw : List Part} {s0 : State} (h : Kept pw s0 s) (hw : subParts [.regs, .mem, .host, .ten, .cores, .radio, .boot, .out] pw = true) :
    Kept pw s0 (engineTakes s e op lo hi) := by
  refine Kept.app h hw ?_
  unfold engineTakes
  repeat' first
    | with_reducible exact Kept.refl _ _
    | with_reducible refine Kept.ite ?_ ?_
    | ((with_reducible refine runJob_kept ?_ ?e); (case e => rfl))
    | dsimp only
    | fail_if_no_progress ((with_reducible refine Kept.setRadio ?_ ?e); (case e => rfl))
    | split

end Sys2Proof.Machine
end

