-- ==== Sys2Proof/Laws/SlabKept.lean ====
section
/-! SUPPORT. What every operation of Machine/Slab.lean may change, as a law of Kept. -/

set_option linter.unreachableTactic false
set_option linter.unusedTactic false
set_option linter.unusedVariables false

namespace Sys2Proof.Machine

theorem slabPlan_kept {s : State} {c : Cmd} {pw : List Part} {s0 : State} (h : Kept pw s0 s) (hw : subParts [] pw = true) :
    Kept pw s0 (slabPlan s c).1 := by
  refine Kept.app h hw ?_
  unfold slabPlan
  repeat' first
    | with_reducible exact Kept.refl _ _
    | with_reducible refine Kept.ite_fst ?_ ?_
    | split

theorem slabRun_kept {s : State} {cid : Nat} {c : Cmd} {pw : List Part} {s0 : State} (h : Kept pw s0 s) (hw : subParts [.regs, .yards, .free] pw = true) :
    RanKept pw s0 (slabRun s cid c) := by
  refine RanKept.app h hw ?_
  unfold slabRun
  repeat' first
    | with_reducible refine RanKept.fail ?_
    | with_reducible refine RanKept.ok ?_
    | with_reducible exact Kept.refl _ _
    | ((with_reducible refine bump_kept ?_ ?e); (case e => rfl))
    | ((with_reducible refine wr_kept ?_ ?e); (case e => rfl))
    | ((with_reducible refine yardStall_kept ?_ ?e); (case e => rfl))
    | ((with_reducible refine putCtx_kept ?_ ?e); (case e => rfl))
    | dsimp only
    | split

end Sys2Proof.Machine
end

