-- ==== Sys2Proof/Laws/State.lean ====
section
/-! SUPPORT. Laws of the register file and of the state's updates: what an update leaves in every part, and what a read after it gives. -/

namespace Sys2Proof.Machine

/-! ### Parts after an update -/

@[simp] theorem wr_live (s : State) (f : Fld) (i v : Nat) : (wr s f i v).live = s.live := rfl
@[simp] theorem wr_mem (s : State) (f : Fld) (i v : Nat) : (wr s f i v).mem = s.mem := rfl
@[simp] theorem wr_host (s : State) (f : Fld) (i v : Nat) : (wr s f i v).host = s.host := rfl
@[simp] theorem wr_work (s : State) (f : Fld) (i v : Nat) : (wr s f i v).work = s.work := rfl
@[simp] theorem wr_yards (s : State) (f : Fld) (i v : Nat) : (wr s f i v).yards = s.yards := rfl
@[simp] theorem wr_fab (s : State) (f : Fld) (i v : Nat) : (wr s f i v).fab = s.fab := rfl
@[simp] theorem wr_crush (s : State) (f : Fld) (i v : Nat) : (wr s f i v).crush = s.crush := rfl
@[simp] theorem wr_ten (s : State) (f : Fld) (i v : Nat) : (wr s f i v).ten = s.ten := rfl
@[simp] theorem wr_clock (s : State) (f : Fld) (i v : Nat) : (wr s f i v).clock = s.clock := rfl
@[simp] theorem wr_cores (s : State) (f : Fld) (i v : Nat) : (wr s f i v).cores = s.cores := rfl
@[simp] theorem wr_images (s : State) (f : Fld) (i v : Nat) : (wr s f i v).images = s.images := rfl
@[simp] theorem wr_radio (s : State) (f : Fld) (i v : Nat) : (wr s f i v).radio = s.radio := rfl
@[simp] theorem wr_net (s : State) (f : Fld) (i v : Nat) : (wr s f i v).net = s.net := rfl
@[simp] theorem wr_tdfe (s : State) (f : Fld) (i v : Nat) : (wr s f i v).tdfe = s.tdfe := rfl
@[simp] theorem wr_cfg (s : State) (f : Fld) (i v : Nat) : (wr s f i v).cfg = s.cfg := rfl
@[simp] theorem wr_sec (s : State) (f : Fld) (i v : Nat) : (wr s f i v).sec = s.sec := rfl
@[simp] theorem wr_boot (s : State) (f : Fld) (i v : Nat) : (wr s f i v).boot = s.boot := rfl
@[simp] theorem wr_power (s : State) (f : Fld) (i v : Nat) : (wr s f i v).power = s.power := rfl
@[simp] theorem wr_health (s : State) (f : Fld) (i v : Nat) : (wr s f i v).health = s.health := rfl
@[simp] theorem wr_out (s : State) (f : Fld) (i v : Nat) : (wr s f i v).out = s.out := rfl
@[simp] theorem wr_free (s : State) (f : Fld) (i v : Nat) : (wr s f i v).free = s.free := rfl
@[simp] theorem wr_pending (s : State) (f : Fld) (i v : Nat) : (wr s f i v).pending = s.pending := rfl
@[simp] theorem wrLive_regs (s : State) (f : Fld) (i v : Nat) : (wrLive s f i v).regs = s.regs := rfl
@[simp] theorem wrLive_mem (s : State) (f : Fld) (i v : Nat) : (wrLive s f i v).mem = s.mem := rfl
@[simp] theorem wrLive_host (s : State) (f : Fld) (i v : Nat) : (wrLive s f i v).host = s.host := rfl
@[simp] theorem wrLive_work (s : State) (f : Fld) (i v : Nat) : (wrLive s f i v).work = s.work := rfl
@[simp] theorem wrLive_yards (s : State) (f : Fld) (i v : Nat) : (wrLive s f i v).yards = s.yards := rfl
@[simp] theorem wrLive_fab (s : State) (f : Fld) (i v : Nat) : (wrLive s f i v).fab = s.fab := rfl
@[simp] theorem wrLive_crush (s : State) (f : Fld) (i v : Nat) : (wrLive s f i v).crush = s.crush := rfl
@[simp] theorem wrLive_ten (s : State) (f : Fld) (i v : Nat) : (wrLive s f i v).ten = s.ten := rfl
@[simp] theorem wrLive_clock (s : State) (f : Fld) (i v : Nat) : (wrLive s f i v).clock = s.clock := rfl
@[simp] theorem wrLive_cores (s : State) (f : Fld) (i v : Nat) : (wrLive s f i v).cores = s.cores := rfl
@[simp] theorem wrLive_images (s : State) (f : Fld) (i v : Nat) : (wrLive s f i v).images = s.images := rfl
@[simp] theorem wrLive_radio (s : State) (f : Fld) (i v : Nat) : (wrLive s f i v).radio = s.radio := rfl
@[simp] theorem wrLive_net (s : State) (f : Fld) (i v : Nat) : (wrLive s f i v).net = s.net := rfl
@[simp] theorem wrLive_tdfe (s : State) (f : Fld) (i v : Nat) : (wrLive s f i v).tdfe = s.tdfe := rfl
@[simp] theorem wrLive_cfg (s : State) (f : Fld) (i v : Nat) : (wrLive s f i v).cfg = s.cfg := rfl
@[simp] theorem wrLive_sec (s : State) (f : Fld) (i v : Nat) : (wrLive s f i v).sec = s.sec := rfl
@[simp] theorem wrLive_boot (s : State) (f : Fld) (i v : Nat) : (wrLive s f i v).boot = s.boot := rfl
@[simp] theorem wrLive_power (s : State) (f : Fld) (i v : Nat) : (wrLive s f i v).power = s.power := rfl
@[simp] theorem wrLive_health (s : State) (f : Fld) (i v : Nat) : (wrLive s f i v).health = s.health := rfl
@[simp] theorem wrLive_out (s : State) (f : Fld) (i v : Nat) : (wrLive s f i v).out = s.out := rfl
@[simp] theorem wrLive_free (s : State) (f : Fld) (i v : Nat) : (wrLive s f i v).free = s.free := rfl
@[simp] theorem wrLive_pending (s : State) (f : Fld) (i v : Nat) : (wrLive s f i v).pending = s.pending := rfl
@[simp] theorem emit_regs (s : State) (o : Out) : (emit s o).regs = s.regs := rfl
@[simp] theorem emit_live (s : State) (o : Out) : (emit s o).live = s.live := rfl
@[simp] theorem emit_mem (s : State) (o : Out) : (emit s o).mem = s.mem := rfl
@[simp] theorem emit_host (s : State) (o : Out) : (emit s o).host = s.host := rfl
@[simp] theorem emit_work (s : State) (o : Out) : (emit s o).work = s.work := rfl
@[simp] theorem emit_yards (s : State) (o : Out) : (emit s o).yards = s.yards := rfl
@[simp] theorem emit_fab (s : State) (o : Out) : (emit s o).fab = s.fab := rfl
@[simp] theorem emit_crush (s : State) (o : Out) : (emit s o).crush = s.crush := rfl
@[simp] theorem emit_ten (s : State) (o : Out) : (emit s o).ten = s.ten := rfl
@[simp] theorem emit_clock (s : State) (o : Out) : (emit s o).clock = s.clock := rfl
@[simp] theorem emit_cores (s : State) (o : Out) : (emit s o).cores = s.cores := rfl
@[simp] theorem emit_images (s : State) (o : Out) : (emit s o).images = s.images := rfl
@[simp] theorem emit_radio (s : State) (o : Out) : (emit s o).radio = s.radio := rfl
@[simp] theorem emit_net (s : State) (o : Out) : (emit s o).net = s.net := rfl
@[simp] theorem emit_tdfe (s : State) (o : Out) : (emit s o).tdfe = s.tdfe := rfl
@[simp] theorem emit_cfg (s : State) (o : Out) : (emit s o).cfg = s.cfg := rfl
@[simp] theorem emit_sec (s : State) (o : Out) : (emit s o).sec = s.sec := rfl
@[simp] theorem emit_boot (s : State) (o : Out) : (emit s o).boot = s.boot := rfl
@[simp] theorem emit_power (s : State) (o : Out) : (emit s o).power = s.power := rfl
@[simp] theorem emit_health (s : State) (o : Out) : (emit s o).health = s.health := rfl
@[simp] theorem emit_free (s : State) (o : Out) : (emit s o).free = s.free := rfl
@[simp] theorem emit_pending (s : State) (o : Out) : (emit s o).pending = s.pending := rfl
@[simp] theorem drawn_regs (s : State) : (drawn s).regs = s.regs := rfl
@[simp] theorem drawn_live (s : State) : (drawn s).live = s.live := rfl
@[simp] theorem drawn_mem (s : State) : (drawn s).mem = s.mem := rfl
@[simp] theorem drawn_host (s : State) : (drawn s).host = s.host := rfl
@[simp] theorem drawn_work (s : State) : (drawn s).work = s.work := rfl
@[simp] theorem drawn_yards (s : State) : (drawn s).yards = s.yards := rfl
@[simp] theorem drawn_fab (s : State) : (drawn s).fab = s.fab := rfl
@[simp] theorem drawn_crush (s : State) : (drawn s).crush = s.crush := rfl
@[simp] theorem drawn_ten (s : State) : (drawn s).ten = s.ten := rfl
@[simp] theorem drawn_clock (s : State) : (drawn s).clock = s.clock := rfl
@[simp] theorem drawn_cores (s : State) : (drawn s).cores = s.cores := rfl
@[simp] theorem drawn_images (s : State) : (drawn s).images = s.images := rfl
@[simp] theorem drawn_radio (s : State) : (drawn s).radio = s.radio := rfl
@[simp] theorem drawn_net (s : State) : (drawn s).net = s.net := rfl
@[simp] theorem drawn_tdfe (s : State) : (drawn s).tdfe = s.tdfe := rfl
@[simp] theorem drawn_cfg (s : State) : (drawn s).cfg = s.cfg := rfl
@[simp] theorem drawn_sec (s : State) : (drawn s).sec = s.sec := rfl
@[simp] theorem drawn_boot (s : State) : (drawn s).boot = s.boot := rfl
@[simp] theorem drawn_power (s : State) : (drawn s).power = s.power := rfl
@[simp] theorem drawn_health (s : State) : (drawn s).health = s.health := rfl
@[simp] theorem drawn_out (s : State) : (drawn s).out = s.out := rfl
@[simp] theorem drawn_pending (s : State) : (drawn s).pending = s.pending := rfl
@[simp] theorem putQ_regs (s : State) (k : Nat) (q : Queue) : (putQ s k q).regs = s.regs := rfl
@[simp] theorem putQ_live (s : State) (k : Nat) (q : Queue) : (putQ s k q).live = s.live := rfl
@[simp] theorem putQ_mem (s : State) (k : Nat) (q : Queue) : (putQ s k q).mem = s.mem := rfl
@[simp] theorem putQ_host (s : State) (k : Nat) (q : Queue) : (putQ s k q).host = s.host := rfl
@[simp] theorem putQ_yards (s : State) (k : Nat) (q : Queue) : (putQ s k q).yards = s.yards := rfl
@[simp] theorem putQ_fab (s : State) (k : Nat) (q : Queue) : (putQ s k q).fab = s.fab := rfl
@[simp] theorem putQ_crush (s : State) (k : Nat) (q : Queue) : (putQ s k q).crush = s.crush := rfl
@[simp] theorem putQ_ten (s : State) (k : Nat) (q : Queue) : (putQ s k q).ten = s.ten := rfl
@[simp] theorem putQ_clock (s : State) (k : Nat) (q : Queue) : (putQ s k q).clock = s.clock := rfl
@[simp] theorem putQ_cores (s : State) (k : Nat) (q : Queue) : (putQ s k q).cores = s.cores := rfl
@[simp] theorem putQ_images (s : State) (k : Nat) (q : Queue) : (putQ s k q).images = s.images := rfl
@[simp] theorem putQ_radio (s : State) (k : Nat) (q : Queue) : (putQ s k q).radio = s.radio := rfl
@[simp] theorem putQ_net (s : State) (k : Nat) (q : Queue) : (putQ s k q).net = s.net := rfl
@[simp] theorem putQ_tdfe (s : State) (k : Nat) (q : Queue) : (putQ s k q).tdfe = s.tdfe := rfl
@[simp] theorem putQ_cfg (s : State) (k : Nat) (q : Queue) : (putQ s k q).cfg = s.cfg := rfl
@[simp] theorem putQ_sec (s : State) (k : Nat) (q : Queue) : (putQ s k q).sec = s.sec := rfl
@[simp] theorem putQ_boot (s : State) (k : Nat) (q : Queue) : (putQ s k q).boot = s.boot := rfl
@[simp] theorem putQ_power (s : State) (k : Nat) (q : Queue) : (putQ s k q).power = s.power := rfl
@[simp] theorem putQ_health (s : State) (k : Nat) (q : Queue) : (putQ s k q).health = s.health := rfl
@[simp] theorem putQ_out (s : State) (k : Nat) (q : Queue) : (putQ s k q).out = s.out := rfl
@[simp] theorem putQ_free (s : State) (k : Nat) (q : Queue) : (putQ s k q).free = s.free := rfl
@[simp] theorem putQ_pending (s : State) (k : Nat) (q : Queue) : (putQ s k q).pending = s.pending := rfl
@[simp] theorem putStep_regs (s : State) (k : Nat) (x : StepSt) : (putStep s k x).regs = s.regs := rfl
@[simp] theorem putStep_live (s : State) (k : Nat) (x : StepSt) : (putStep s k x).live = s.live := rfl
@[simp] theorem putStep_mem (s : State) (k : Nat) (x : StepSt) : (putStep s k x).mem = s.mem := rfl
@[simp] theorem putStep_host (s : State) (k : Nat) (x : StepSt) : (putStep s k x).host = s.host := rfl
@[simp] theorem putStep_yards (s : State) (k : Nat) (x : StepSt) : (putStep s k x).yards = s.yards := rfl
@[simp] theorem putStep_fab (s : State) (k : Nat) (x : StepSt) : (putStep s k x).fab = s.fab := rfl
@[simp] theorem putStep_crush (s : State) (k : Nat) (x : StepSt) : (putStep s k x).crush = s.crush := rfl
@[simp] theorem putStep_ten (s : State) (k : Nat) (x : StepSt) : (putStep s k x).ten = s.ten := rfl
@[simp] theorem putStep_clock (s : State) (k : Nat) (x : StepSt) : (putStep s k x).clock = s.clock := rfl
@[simp] theorem putStep_cores (s : State) (k : Nat) (x : StepSt) : (putStep s k x).cores = s.cores := rfl
@[simp] theorem putStep_images (s : State) (k : Nat) (x : StepSt) : (putStep s k x).images = s.images := rfl
@[simp] theorem putStep_radio (s : State) (k : Nat) (x : StepSt) : (putStep s k x).radio = s.radio := rfl
@[simp] theorem putStep_net (s : State) (k : Nat) (x : StepSt) : (putStep s k x).net = s.net := rfl
@[simp] theorem putStep_tdfe (s : State) (k : Nat) (x : StepSt) : (putStep s k x).tdfe = s.tdfe := rfl
@[simp] theorem putStep_cfg (s : State) (k : Nat) (x : StepSt) : (putStep s k x).cfg = s.cfg := rfl
@[simp] theorem putStep_sec (s : State) (k : Nat) (x : StepSt) : (putStep s k x).sec = s.sec := rfl
@[simp] theorem putStep_boot (s : State) (k : Nat) (x : StepSt) : (putStep s k x).boot = s.boot := rfl
@[simp] theorem putStep_power (s : State) (k : Nat) (x : StepSt) : (putStep s k x).power = s.power := rfl
@[simp] theorem putStep_health (s : State) (k : Nat) (x : StepSt) : (putStep s k x).health = s.health := rfl
@[simp] theorem putStep_out (s : State) (k : Nat) (x : StepSt) : (putStep s k x).out = s.out := rfl
@[simp] theorem putStep_free (s : State) (k : Nat) (x : StepSt) : (putStep s k x).free = s.free := rfl
@[simp] theorem putStep_pending (s : State) (k : Nat) (x : StepSt) : (putStep s k x).pending = s.pending := rfl
@[simp] theorem dropStep_regs (s : State) (k : Nat) : (dropStep s k).regs = s.regs := rfl
@[simp] theorem dropStep_live (s : State) (k : Nat) : (dropStep s k).live = s.live := rfl
@[simp] theorem dropStep_mem (s : State) (k : Nat) : (dropStep s k).mem = s.mem := rfl
@[simp] theorem dropStep_host (s : State) (k : Nat) : (dropStep s k).host = s.host := rfl
@[simp] theorem dropStep_yards (s : State) (k : Nat) : (dropStep s k).yards = s.yards := rfl
@[simp] theorem dropStep_fab (s : State) (k : Nat) : (dropStep s k).fab = s.fab := rfl
@[simp] theorem dropStep_crush (s : State) (k : Nat) : (dropStep s k).crush = s.crush := rfl
@[simp] theorem dropStep_ten (s : State) (k : Nat) : (dropStep s k).ten = s.ten := rfl
@[simp] theorem dropStep_clock (s : State) (k : Nat) : (dropStep s k).clock = s.clock := rfl
@[simp] theorem dropStep_cores (s : State) (k : Nat) : (dropStep s k).cores = s.cores := rfl
@[simp] theorem dropStep_images (s : State) (k : Nat) : (dropStep s k).images = s.images := rfl
@[simp] theorem dropStep_radio (s : State) (k : Nat) : (dropStep s k).radio = s.radio := rfl
@[simp] theorem dropStep_net (s : State) (k : Nat) : (dropStep s k).net = s.net := rfl
@[simp] theorem dropStep_tdfe (s : State) (k : Nat) : (dropStep s k).tdfe = s.tdfe := rfl
@[simp] theorem dropStep_cfg (s : State) (k : Nat) : (dropStep s k).cfg = s.cfg := rfl
@[simp] theorem dropStep_sec (s : State) (k : Nat) : (dropStep s k).sec = s.sec := rfl
@[simp] theorem dropStep_boot (s : State) (k : Nat) : (dropStep s k).boot = s.boot := rfl
@[simp] theorem dropStep_power (s : State) (k : Nat) : (dropStep s k).power = s.power := rfl
@[simp] theorem dropStep_health (s : State) (k : Nat) : (dropStep s k).health = s.health := rfl
@[simp] theorem dropStep_out (s : State) (k : Nat) : (dropStep s k).out = s.out := rfl
@[simp] theorem dropStep_free (s : State) (k : Nat) : (dropStep s k).free = s.free := rfl
@[simp] theorem dropStep_pending (s : State) (k : Nat) : (dropStep s k).pending = s.pending := rfl
@[simp] theorem putCmd_regs (s : State) (c : Nat) (x : Cmd) : (putCmd s c x).regs = s.regs := rfl
@[simp] theorem putCmd_live (s : State) (c : Nat) (x : Cmd) : (putCmd s c x).live = s.live := rfl
@[simp] theorem putCmd_mem (s : State) (c : Nat) (x : Cmd) : (putCmd s c x).mem = s.mem := rfl
@[simp] theorem putCmd_host (s : State) (c : Nat) (x : Cmd) : (putCmd s c x).host = s.host := rfl
@[simp] theorem putCmd_yards (s : State) (c : Nat) (x : Cmd) : (putCmd s c x).yards = s.yards := rfl
@[simp] theorem putCmd_fab (s : State) (c : Nat) (x : Cmd) : (putCmd s c x).fab = s.fab := rfl
@[simp] theorem putCmd_crush (s : State) (c : Nat) (x : Cmd) : (putCmd s c x).crush = s.crush := rfl
@[simp] theorem putCmd_ten (s : State) (c : Nat) (x : Cmd) : (putCmd s c x).ten = s.ten := rfl
@[simp] theorem putCmd_clock (s : State) (c : Nat) (x : Cmd) : (putCmd s c x).clock = s.clock := rfl
@[simp] theorem putCmd_cores (s : State) (c : Nat) (x : Cmd) : (putCmd s c x).cores = s.cores := rfl
@[simp] theorem putCmd_images (s : State) (c : Nat) (x : Cmd) : (putCmd s c x).images = s.images := rfl
@[simp] theorem putCmd_radio (s : State) (c : Nat) (x : Cmd) : (putCmd s c x).radio = s.radio := rfl
@[simp] theorem putCmd_net (s : State) (c : Nat) (x : Cmd) : (putCmd s c x).net = s.net := rfl
@[simp] theorem putCmd_tdfe (s : State) (c : Nat) (x : Cmd) : (putCmd s c x).tdfe = s.tdfe := rfl
@[simp] theorem putCmd_cfg (s : State) (c : Nat) (x : Cmd) : (putCmd s c x).cfg = s.cfg := rfl
@[simp] theorem putCmd_sec (s : State) (c : Nat) (x : Cmd) : (putCmd s c x).sec = s.sec := rfl
@[simp] theorem putCmd_boot (s : State) (c : Nat) (x : Cmd) : (putCmd s c x).boot = s.boot := rfl
@[simp] theorem putCmd_power (s : State) (c : Nat) (x : Cmd) : (putCmd s c x).power = s.power := rfl
@[simp] theorem putCmd_health (s : State) (c : Nat) (x : Cmd) : (putCmd s c x).health = s.health := rfl
@[simp] theorem putCmd_out (s : State) (c : Nat) (x : Cmd) : (putCmd s c x).out = s.out := rfl
@[simp] theorem putCmd_free (s : State) (c : Nat) (x : Cmd) : (putCmd s c x).free = s.free := rfl
@[simp] theorem putCmd_pending (s : State) (c : Nat) (x : Cmd) : (putCmd s c x).pending = s.pending := rfl
@[simp] theorem dropCmd_regs (s : State) (c : Nat) : (dropCmd s c).regs = s.regs := rfl
@[simp] theorem dropCmd_live (s : State) (c : Nat) : (dropCmd s c).live = s.live := rfl
@[simp] theorem dropCmd_mem (s : State) (c : Nat) : (dropCmd s c).mem = s.mem := rfl
@[simp] theorem dropCmd_host (s : State) (c : Nat) : (dropCmd s c).host = s.host := rfl
@[simp] theorem dropCmd_yards (s : State) (c : Nat) : (dropCmd s c).yards = s.yards := rfl
@[simp] theorem dropCmd_fab (s : State) (c : Nat) : (dropCmd s c).fab = s.fab := rfl
@[simp] theorem dropCmd_crush (s : State) (c : Nat) : (dropCmd s c).crush = s.crush := rfl
@[simp] theorem dropCmd_ten (s : State) (c : Nat) : (dropCmd s c).ten = s.ten := rfl
@[simp] theorem dropCmd_clock (s : State) (c : Nat) : (dropCmd s c).clock = s.clock := rfl
@[simp] theorem dropCmd_cores (s : State) (c : Nat) : (dropCmd s c).cores = s.cores := rfl
@[simp] theorem dropCmd_images (s : State) (c : Nat) : (dropCmd s c).images = s.images := rfl
@[simp] theorem dropCmd_radio (s : State) (c : Nat) : (dropCmd s c).radio = s.radio := rfl
@[simp] theorem dropCmd_net (s : State) (c : Nat) : (dropCmd s c).net = s.net := rfl
@[simp] theorem dropCmd_tdfe (s : State) (c : Nat) : (dropCmd s c).tdfe = s.tdfe := rfl
@[simp] theorem dropCmd_cfg (s : State) (c : Nat) : (dropCmd s c).cfg = s.cfg := rfl
@[simp] theorem dropCmd_sec (s : State) (c : Nat) : (dropCmd s c).sec = s.sec := rfl
@[simp] theorem dropCmd_boot (s : State) (c : Nat) : (dropCmd s c).boot = s.boot := rfl
@[simp] theorem dropCmd_power (s : State) (c : Nat) : (dropCmd s c).power = s.power := rfl
@[simp] theorem dropCmd_health (s : State) (c : Nat) : (dropCmd s c).health = s.health := rfl
@[simp] theorem dropCmd_out (s : State) (c : Nat) : (dropCmd s c).out = s.out := rfl
@[simp] theorem dropCmd_free (s : State) (c : Nat) : (dropCmd s c).free = s.free := rfl
@[simp] theorem dropCmd_pending (s : State) (c : Nat) : (dropCmd s c).pending = s.pending := rfl
@[simp] theorem tallyPut_regs (s : State) (f t v : Nat) : (tallyPut s f t v).regs = s.regs := rfl
@[simp] theorem tallyPut_live (s : State) (f t v : Nat) : (tallyPut s f t v).live = s.live := rfl
@[simp] theorem tallyPut_mem (s : State) (f t v : Nat) : (tallyPut s f t v).mem = s.mem := rfl
@[simp] theorem tallyPut_host (s : State) (f t v : Nat) : (tallyPut s f t v).host = s.host := rfl
@[simp] theorem tallyPut_yards (s : State) (f t v : Nat) : (tallyPut s f t v).yards = s.yards := rfl
@[simp] theorem tallyPut_fab (s : State) (f t v : Nat) : (tallyPut s f t v).fab = s.fab := rfl
@[simp] theorem tallyPut_crush (s : State) (f t v : Nat) : (tallyPut s f t v).crush = s.crush := rfl
@[simp] theorem tallyPut_ten (s : State) (f t v : Nat) : (tallyPut s f t v).ten = s.ten := rfl
@[simp] theorem tallyPut_clock (s : State) (f t v : Nat) : (tallyPut s f t v).clock = s.clock := rfl
@[simp] theorem tallyPut_cores (s : State) (f t v : Nat) : (tallyPut s f t v).cores = s.cores := rfl
@[simp] theorem tallyPut_images (s : State) (f t v : Nat) : (tallyPut s f t v).images = s.images := rfl
@[simp] theorem tallyPut_radio (s : State) (f t v : Nat) : (tallyPut s f t v).radio = s.radio := rfl
@[simp] theorem tallyPut_net (s : State) (f t v : Nat) : (tallyPut s f t v).net = s.net := rfl
@[simp] theorem tallyPut_tdfe (s : State) (f t v : Nat) : (tallyPut s f t v).tdfe = s.tdfe := rfl
@[simp] theorem tallyPut_cfg (s : State) (f t v : Nat) : (tallyPut s f t v).cfg = s.cfg := rfl
@[simp] theorem tallyPut_sec (s : State) (f t v : Nat) : (tallyPut s f t v).sec = s.sec := rfl
@[simp] theorem tallyPut_boot (s : State) (f t v : Nat) : (tallyPut s f t v).boot = s.boot := rfl
@[simp] theorem tallyPut_power (s : State) (f t v : Nat) : (tallyPut s f t v).power = s.power := rfl
@[simp] theorem tallyPut_health (s : State) (f t v : Nat) : (tallyPut s f t v).health = s.health := rfl
@[simp] theorem tallyPut_out (s : State) (f t v : Nat) : (tallyPut s f t v).out = s.out := rfl
@[simp] theorem tallyPut_free (s : State) (f t v : Nat) : (tallyPut s f t v).free = s.free := rfl
@[simp] theorem tallyPut_pending (s : State) (f t v : Nat) : (tallyPut s f t v).pending = s.pending := rfl
@[simp] theorem putCtx_regs (s : State) (k : Nat) (c : Ctx) : (putCtx s k c).regs = s.regs := rfl
@[simp] theorem putCtx_live (s : State) (k : Nat) (c : Ctx) : (putCtx s k c).live = s.live := rfl
@[simp] theorem putCtx_mem (s : State) (k : Nat) (c : Ctx) : (putCtx s k c).mem = s.mem := rfl
@[simp] theorem putCtx_host (s : State) (k : Nat) (c : Ctx) : (putCtx s k c).host = s.host := rfl
@[simp] theorem putCtx_work (s : State) (k : Nat) (c : Ctx) : (putCtx s k c).work = s.work := rfl
@[simp] theorem putCtx_fab (s : State) (k : Nat) (c : Ctx) : (putCtx s k c).fab = s.fab := rfl
@[simp] theorem putCtx_crush (s : State) (k : Nat) (c : Ctx) : (putCtx s k c).crush = s.crush := rfl
@[simp] theorem putCtx_ten (s : State) (k : Nat) (c : Ctx) : (putCtx s k c).ten = s.ten := rfl
@[simp] theorem putCtx_clock (s : State) (k : Nat) (c : Ctx) : (putCtx s k c).clock = s.clock := rfl
@[simp] theorem putCtx_cores (s : State) (k : Nat) (c : Ctx) : (putCtx s k c).cores = s.cores := rfl
@[simp] theorem putCtx_images (s : State) (k : Nat) (c : Ctx) : (putCtx s k c).images = s.images := rfl
@[simp] theorem putCtx_radio (s : State) (k : Nat) (c : Ctx) : (putCtx s k c).radio = s.radio := rfl
@[simp] theorem putCtx_net (s : State) (k : Nat) (c : Ctx) : (putCtx s k c).net = s.net := rfl
@[simp] theorem putCtx_tdfe (s : State) (k : Nat) (c : Ctx) : (putCtx s k c).tdfe = s.tdfe := rfl
@[simp] theorem putCtx_cfg (s : State) (k : Nat) (c : Ctx) : (putCtx s k c).cfg = s.cfg := rfl
@[simp] theorem putCtx_sec (s : State) (k : Nat) (c : Ctx) : (putCtx s k c).sec = s.sec := rfl
@[simp] theorem putCtx_boot (s : State) (k : Nat) (c : Ctx) : (putCtx s k c).boot = s.boot := rfl
@[simp] theorem putCtx_power (s : State) (k : Nat) (c : Ctx) : (putCtx s k c).power = s.power := rfl
@[simp] theorem putCtx_health (s : State) (k : Nat) (c : Ctx) : (putCtx s k c).health = s.health := rfl
@[simp] theorem putCtx_out (s : State) (k : Nat) (c : Ctx) : (putCtx s k c).out = s.out := rfl
@[simp] theorem putCtx_free (s : State) (k : Nat) (c : Ctx) : (putCtx s k c).free = s.free := rfl
@[simp] theorem putCtx_pending (s : State) (k : Nat) (c : Ctx) : (putCtx s k c).pending = s.pending := rfl
@[simp] theorem putBench_regs (s : State) (b : Nat) (x : BenchSt) : (putBench s b x).regs = s.regs := rfl
@[simp] theorem putBench_live (s : State) (b : Nat) (x : BenchSt) : (putBench s b x).live = s.live := rfl
@[simp] theorem putBench_mem (s : State) (b : Nat) (x : BenchSt) : (putBench s b x).mem = s.mem := rfl
@[simp] theorem putBench_host (s : State) (b : Nat) (x : BenchSt) : (putBench s b x).host = s.host := rfl
@[simp] theorem putBench_work (s : State) (b : Nat) (x : BenchSt) : (putBench s b x).work = s.work := rfl
@[simp] theorem putBench_fab (s : State) (b : Nat) (x : BenchSt) : (putBench s b x).fab = s.fab := rfl
@[simp] theorem putBench_crush (s : State) (b : Nat) (x : BenchSt) : (putBench s b x).crush = s.crush := rfl
@[simp] theorem putBench_ten (s : State) (b : Nat) (x : BenchSt) : (putBench s b x).ten = s.ten := rfl
@[simp] theorem putBench_clock (s : State) (b : Nat) (x : BenchSt) : (putBench s b x).clock = s.clock := rfl
@[simp] theorem putBench_cores (s : State) (b : Nat) (x : BenchSt) : (putBench s b x).cores = s.cores := rfl
@[simp] theorem putBench_images (s : State) (b : Nat) (x : BenchSt) : (putBench s b x).images = s.images := rfl
@[simp] theorem putBench_radio (s : State) (b : Nat) (x : BenchSt) : (putBench s b x).radio = s.radio := rfl
@[simp] theorem putBench_net (s : State) (b : Nat) (x : BenchSt) : (putBench s b x).net = s.net := rfl
@[simp] theorem putBench_tdfe (s : State) (b : Nat) (x : BenchSt) : (putBench s b x).tdfe = s.tdfe := rfl
@[simp] theorem putBench_cfg (s : State) (b : Nat) (x : BenchSt) : (putBench s b x).cfg = s.cfg := rfl
@[simp] theorem putBench_sec (s : State) (b : Nat) (x : BenchSt) : (putBench s b x).sec = s.sec := rfl
@[simp] theorem putBench_boot (s : State) (b : Nat) (x : BenchSt) : (putBench s b x).boot = s.boot := rfl
@[simp] theorem putBench_power (s : State) (b : Nat) (x : BenchSt) : (putBench s b x).power = s.power := rfl
@[simp] theorem putBench_health (s : State) (b : Nat) (x : BenchSt) : (putBench s b x).health = s.health := rfl
@[simp] theorem putBench_out (s : State) (b : Nat) (x : BenchSt) : (putBench s b x).out = s.out := rfl
@[simp] theorem putBench_free (s : State) (b : Nat) (x : BenchSt) : (putBench s b x).free = s.free := rfl
@[simp] theorem putBench_pending (s : State) (b : Nat) (x : BenchSt) : (putBench s b x).pending = s.pending := rfl
@[simp] theorem putCore_regs (s : State) (n : Nat) (c : Core) : (putCore s n c).regs = s.regs := rfl
@[simp] theorem putCore_live (s : State) (n : Nat) (c : Core) : (putCore s n c).live = s.live := rfl
@[simp] theorem putCore_mem (s : State) (n : Nat) (c : Core) : (putCore s n c).mem = s.mem := rfl
@[simp] theorem putCore_host (s : State) (n : Nat) (c : Core) : (putCore s n c).host = s.host := rfl
@[simp] theorem putCore_work (s : State) (n : Nat) (c : Core) : (putCore s n c).work = s.work := rfl
@[simp] theorem putCore_yards (s : State) (n : Nat) (c : Core) : (putCore s n c).yards = s.yards := rfl
@[simp] theorem putCore_fab (s : State) (n : Nat) (c : Core) : (putCore s n c).fab = s.fab := rfl
@[simp] theorem putCore_crush (s : State) (n : Nat) (c : Core) : (putCore s n c).crush = s.crush := rfl
@[simp] theorem putCore_ten (s : State) (n : Nat) (c : Core) : (putCore s n c).ten = s.ten := rfl
@[simp] theorem putCore_clock (s : State) (n : Nat) (c : Core) : (putCore s n c).clock = s.clock := rfl
@[simp] theorem putCore_images (s : State) (n : Nat) (c : Core) : (putCore s n c).images = s.images := rfl
@[simp] theorem putCore_radio (s : State) (n : Nat) (c : Core) : (putCore s n c).radio = s.radio := rfl
@[simp] theorem putCore_net (s : State) (n : Nat) (c : Core) : (putCore s n c).net = s.net := rfl
@[simp] theorem putCore_tdfe (s : State) (n : Nat) (c : Core) : (putCore s n c).tdfe = s.tdfe := rfl
@[simp] theorem putCore_cfg (s : State) (n : Nat) (c : Core) : (putCore s n c).cfg = s.cfg := rfl
@[simp] theorem putCore_sec (s : State) (n : Nat) (c : Core) : (putCore s n c).sec = s.sec := rfl
@[simp] theorem putCore_boot (s : State) (n : Nat) (c : Core) : (putCore s n c).boot = s.boot := rfl
@[simp] theorem putCore_power (s : State) (n : Nat) (c : Core) : (putCore s n c).power = s.power := rfl
@[simp] theorem putCore_health (s : State) (n : Nat) (c : Core) : (putCore s n c).health = s.health := rfl
@[simp] theorem putCore_out (s : State) (n : Nat) (c : Core) : (putCore s n c).out = s.out := rfl
@[simp] theorem putCore_free (s : State) (n : Nat) (c : Core) : (putCore s n c).free = s.free := rfl
@[simp] theorem putCore_pending (s : State) (n : Nat) (c : Core) : (putCore s n c).pending = s.pending := rfl

/-! ### Register fields -/

/-- A written field reads as the bits of the value that fit it. -/
@[simp] theorem rd_wr_same (s : State) (f : Fld) (i v : Nat) : rd (wr s f i v) f i = v % 2 ^ f.width := by
  simp [rd, wr, mapGet_mapPut]

/-- A write leaves every other field instance as it was. -/
theorem rd_wr_ne (s : State) (f g : Fld) (i j v : Nat) (h : fldKey f i ≠ fldKey g j) : rd (wr s f i v) g j = rd s g j := by
  simp [rd, wr, mapGet, mapFind_mapPut_ne _ _ _ _ _ h]

/-- A written committed copy reads as the bits of the value that fit it. -/
@[simp] theorem rdLive_wrLive_same (s : State) (f : Fld) (i v : Nat) : rdLive (wrLive s f i v) f i = v % 2 ^ f.width := by
  simp [rdLive, wrLive, mapGet_mapPut]

theorem rdLive_wrLive_ne (s : State) (f g : Fld) (i j v : Nat) (h : fldKey f i ≠ fldKey g j) :
    rdLive (wrLive s f i v) g j = rdLive s g j := by
  simp [rdLive, wrLive, mapGet, mapFind_mapPut_ne _ _ _ _ _ h]

/-- A field whose keys are equal parts of the state's registers reads the same. -/
theorem rd_congr {s t : State} (h : t.regs = s.regs) (f : Fld) (i : Nat) : rd t f i = rd s f i := by simp [rd, h]

theorem rdLive_congr {s t : State} (h : t.live = s.live) (f : Fld) (i : Nat) : rdLive t f i = rdLive s f i := by simp [rdLive, h]

@[simp] theorem rdLive_wr (s : State) (f g : Fld) (i j v : Nat) : rdLive (wr s f i v) g j = rdLive s g j := rfl

@[simp] theorem rd_wrLive (s : State) (f g : Fld) (i j v : Nat) : rd (wrLive s f i v) g j = rd s g j := rfl

@[simp] theorem rd_emit (s : State) (o : Out) (f : Fld) (i : Nat) : rd (emit s o) f i = rd s f i := rfl

@[simp] theorem rd_putQ (s : State) (k : Nat) (q : Queue) (f : Fld) (i : Nat) : rd (putQ s k q) f i = rd s f i := rfl

@[simp] theorem rd_putCmd (s : State) (k : Nat) (q : Cmd) (f : Fld) (i : Nat) : rd (putCmd s k q) f i = rd s f i := rfl

@[simp] theorem rd_putBench (s : State) (k : Nat) (q : BenchSt) (f : Fld) (i : Nat) : rd (putBench s k q) f i = rd s f i := rfl

@[simp] theorem rd_putCore (s : State) (k : Nat) (q : Core) (f : Fld) (i : Nat) : rd (putCore s k q) f i = rd s f i := rfl

/-! ### Queues, commands, benches, cores and tallies -/

theorem getQ_putQ (s : State) (k j : Nat) (q : Queue) : getQ (putQ s k q) j = if k = j then q else getQ s j := by
  simp [getQ, putQ, mapGet_mapSet]

theorem getCmd_putCmd (s : State) (k j : Nat) (c : Cmd) : getCmd (putCmd s k c) j = if k = j then some c else getCmd s j := by
  simp [getCmd, putCmd, mapFind_mapSet]

theorem getStep_putStep (s : State) (k j : Nat) (x : StepSt) : getStep (putStep s k x) j = if k = j then some x else getStep s j := by
  simp [getStep, putStep, mapFind_mapSet]

theorem getBench_putBench (s : State) (b j : Nat) (x : BenchSt) : getBench (putBench s b x) j = if b = j then x else getBench s j := by
  simp [getBench, putBench, mapGet_mapSet]

theorem getCtx_putCtx (s : State) (k j : Nat) (x : Ctx) : getCtx (putCtx s k x) j = if k = j then x else getCtx s j := by
  simp [getCtx, putCtx, mapGet_mapSet]

theorem getCore_putCore (s : State) (k j : Nat) (x : Core) : getCore (putCore s k x) j = if k = j then x else getCore s j := by
  simp [getCore, putCore, mapGet_mapSet]

theorem tallyGet_tallyPut (s : State) (f t g u v : Nat) :
    tallyGet (tallyPut s f t v) g u = if 1024 * f + t = 1024 * g + u then v % 2 ^ 32 else tallyGet s g u := by
  simp [tallyGet, tallyPut, mapGet_mapPut]

/-! ### Bytes of device DRAM -/

/-- A stored byte reads back, and every other byte reads as before. -/
theorem memByte_memPut (m : Mem) (key pa x : Nat) (b : Byte) : memByte (memPut m key pa b) x = if pa = x then b else memByte m x := by
  simp [memByte, memPut, mapGet_mapPut]

/-- A run of stored bytes leaves every byte outside it as it was. -/
theorem memByte_memPutBytes_out (key : Nat → Nat) (m : Mem) (pa x : Nat) (bs : List Byte) (h : ¬ (pa ≤ x ∧ x < pa + bs.length)) :
    memByte (memPutBytes key m pa bs) x = memByte m x := by
  induction bs generalizing m pa with
  | nil => rfl
  | cons b t ih =>
    simp only [List.length_cons] at h
    rw [memPutBytes, ih _ _ (by omega), memByte_memPut, if_neg (by omega)]

/-- A run of stored bytes reads back. -/
theorem memByte_memPutBytes_in (key : Nat → Nat) (m : Mem) (pa i : Nat) (bs : List Byte) (h : i < bs.length) :
    memByte (memPutBytes key m pa bs) (pa + i) = bs[i] := by
  induction bs generalizing m pa i with
  | nil => simp at h
  | cons b t ih =>
    cases i with
    | zero =>
      rw [memPutBytes, memByte_memPutBytes_out _ _ _ _ _ (by omega), memByte_memPut, if_pos (by omega)]; rfl
    | succ j =>
      simp only [List.length_cons] at h
      rw [memPutBytes, show pa + (j + 1) = pa + 1 + j by omega, ih _ _ _ (by omega)]; rfl

theorem memByte_memClearLot (m : Mem) (n x : Nat) : memByte (memClearLot m n) x = if lotOf x = n then 0 else memByte m x := by
  unfold memByte memClearLot mapGet
  split
  · rw [mapFind_filter_false m.dram (fun k _ => decide (lotOf k ≠ n)) x (by simpa using ‹_›)]; rfl
  · rw [mapFind_filter_true m.dram (fun k _ => decide (lotOf k ≠ n)) x (by simpa using ‹_›)]

/-! ### The reset state -/

theorem rd_reset (f : Fld) (i : Nat) : rd State.reset f i = rst f i := rfl

end Sys2Proof.Machine
end

