-- ==== Sys2Proof/Laws/TdfeKept.lean ====
section
/-! SUPPORT. What every operation of Machine/Tdfe.lean may change, as a law of Kept. -/

set_option linter.unreachableTactic false
set_option linter.unusedTactic false
set_option linter.unusedVariables false

namespace Sys2Proof.Machine

theorem streamEvent_kept {s : State} {n : Nat} {st : Status} {event : Nat} {sfn : Nat} {slot : Nat} {sym : Nat} {pw : List Part} {s0 : State} (h : Kept pw s0 s) (hw : subParts [.regs, .cores] pw = true) :
    Kept pw s0 (streamEvent s n st event sfn slot sym) := by
  refine Kept.app h hw ?_
  unfold streamEvent
  repeat' first
    | with_reducible exact Kept.refl _ _
    | ((with_reducible refine coreComplete_kept ?_ ?e); (case e => rfl))

theorem chirpEvent_kept {s : State} {c : Nat} {st : Status} {tag : Nat} {aux : Nat} {pw : List Part} {s0 : State} (h : Kept pw s0 s) (hw : subParts [.regs, .cores] pw = true) :
    Kept pw s0 (chirpEvent s c st tag aux) := by
  refine Kept.app h hw ?_
  unfold chirpEvent
  repeat' first
    | with_reducible exact Kept.refl _ _
    | ((with_reducible refine coreComplete_kept ?_ ?e); (case e => rfl))

theorem chirpTxEntry_kept {s : State} {e : Nat} {pw : List Part} {s0 : State} (h : Kept pw s0 s) (hw : subParts [.regs, .mem, .host, .ten, .cores, .radio, .tdfe, .boot, .out] pw = true) :
    Kept pw s0 (chirpTxEntry s e) := by
  refine Kept.app h hw ?_
  unfold chirpTxEntry
  repeat' first
    | with_reducible exact Kept.refl _ _
    | with_reducible refine Kept.ite ?_ ?_
    | with_reducible refine Kept.ite_fst ?_ ?_
    | ((with_reducible refine radioRead_kept ?_ ?e); (case e => rfl))
    | ((with_reducible refine chirpEvent_kept ?_ ?e); (case e => rfl))
    | dsimp only
    | fail_if_no_progress ((with_reducible refine Kept.setTdfe ?_ ?e); (case e => rfl))

end Sys2Proof.Machine
end

