-- ==== Sys2Proof/Laws/TickKept.lean ====
section
/-! SUPPORT. What every operation of Machine/Tick.lean may change, as a law of Kept. -/

set_option linter.unreachableTactic false
set_option linter.unusedTactic false
set_option linter.unusedVariables false

namespace Sys2Proof.Machine

theorem tick_kept {s : State} {pw : List Part} {s0 : State} (h : Kept pw s0 s) (hw : subParts [.regs, .yards, .fab, .clock, .out] pw = true) :
    Kept pw s0 (tick s) := by
  refine Kept.app h hw ?_
  unfold tick
  repeat' first
    | with_reducible exact Kept.refl _ _
    | with_reducible refine Kept.ite ?_ ?_
    | ((with_reducible refine accrueBenches_kept ?_ ?e); (case e => rfl))
    | ((with_reducible refine refreshWaits_kept ?_ ?e); (case e => rfl))
    | ((with_reducible refine idlePorts_kept ?_ ?e); (case e => rfl))
    | dsimp only
    | fail_if_no_progress ((with_reducible refine Kept.setClock ?_ ?e); (case e => rfl))

end Sys2Proof.Machine
end

