-- ==== Sys2Proof/Laws/TriggerKept.lean ====
section
/-! SUPPORT. What every operation of Machine/Trigger.lean may change, as a law of Kept. -/

set_option linter.unreachableTactic false
set_option linter.unusedTactic false
set_option linter.unusedVariables false

namespace Sys2Proof.Machine

theorem slotBoundary_kept {s : State} {t : Nat} {pw : List Part} {s0 : State} (h : Kept pw s0 s) (hw : subParts [.regs, .cores] pw = true) :
    Kept pw s0 (slotBoundary s t) := by
  refine Kept.app h hw ?_
  unfold slotBoundary
  repeat' first
    | with_reducible assumption
    | with_reducible exact Kept.refl _ _
    | ((with_reducible refine slotEvent_kept ?_ ?e); (case e => rfl))
    | with_reducible refine Kept.foldl ?_ ?_
    | dsimp only
    | split
    | intro _

theorem setDivider_kept {s : State} {k : Nat} {pw : List Part} {s0 : State} (h : Kept pw s0 s) (hw : subParts [.regs, .power] pw = true) :
    Kept pw s0 (setDivider s k) := by
  refine Kept.app h hw ?_
  unfold setDivider
  repeat' first
    | with_reducible exact Kept.refl _ _
    | with_reducible refine Kept.ite ?_ ?_
    | ((with_reducible refine bump_kept ?_ ?e); (case e => rfl))
    | ((with_reducible refine wr_kept ?_ ?e); (case e => rfl))
    | dsimp only
    | fail_if_no_progress ((with_reducible refine Kept.setPower ?_ ?e); (case e => rfl))

theorem setCap_kept {s : State} {c : Nat} {pw : List Part} {s0 : State} (h : Kept pw s0 s) (hw : subParts [.regs, .yards, .power, .health] pw = true) :
    Kept pw s0 (setCap s c) := by
  refine Kept.app h hw ?_
  unfold setCap
  repeat' first
    | with_reducible exact Kept.refl _ _
    | ((with_reducible refine capBenches_kept ?_ ?e); (case e => rfl))
    | ((with_reducible refine wr_kept ?_ ?e); (case e => rfl))
    | dsimp only
    | fail_if_no_progress ((with_reducible refine Kept.setPower ?_ ?e); (case e => rfl))

theorem subframeBoundary_kept {s : State} {t : Nat} {pw : List Part} {s0 : State} (h : Kept pw s0 s) (hw : subParts [.regs, .yards, .cores, .power, .health] pw = true) :
    Kept pw s0 (subframeBoundary s t) := by
  refine Kept.app h hw ?_
  unfold subframeBoundary
  repeat' first
    | with_reducible assumption
    | with_reducible exact Kept.refl _ _
    | with_reducible refine Kept.ite ?_ ?_
    | ((with_reducible refine coreEvent_kept ?_ ?e); (case e => rfl))
    | ((with_reducible refine setDivider_kept ?_ ?e); (case e => rfl))
    | ((with_reducible refine setCap_kept ?_ ?e); (case e => rfl))
    | ((with_reducible refine wr_kept ?_ ?e); (case e => rfl))
    | with_reducible refine Kept.foldl ?_ ?_
    | split
    | intro _

theorem drivePin_kept {s : State} {n : Nat} {high : Bool} {pw : List Part} {s0 : State} (h : Kept pw s0 s) (hw : subParts [.clock, .out] pw = true) :
    Kept pw s0 (drivePin s n high) := by
  refine Kept.app h hw ?_
  unfold drivePin
  repeat' first
    | with_reducible exact Kept.refl _ _
    | ((with_reducible refine emit_kept ?_ ?e); (case e => rfl))
    | dsimp only
    | fail_if_no_progress ((with_reducible refine Kept.setClock ?_ ?e); (case e => rfl))

theorem takePin_kept {s : State} {k : Nat} {n : Nat} {pw : List Part} {s0 : State} (h : Kept pw s0 s) (hw : subParts [.clock] pw = true) :
    Kept pw s0 (takePin s k n) := by
  refine Kept.app h hw ?_
  unfold takePin
  repeat' first
    | with_reducible exact Kept.refl _ _
    | dsimp only
    | fail_if_no_progress ((with_reducible refine Kept.setClock ?_ ?e); (case e => rfl))

theorem tdStart_kept {s : State} {pw : List Part} {s0 : State} (h : Kept pw s0 s) (hw : subParts [.regs, .out] pw = true) :
    Kept pw s0 (tdStart s) := by
  refine Kept.app h hw ?_
  unfold tdStart
  repeat' first
    | with_reducible assumption
    | with_reducible exact Kept.refl _ _
    | with_reducible refine Kept.ite ?_ ?_
    | ((with_reducible refine emit_kept ?_ ?e); (case e => rfl))
    | ((with_reducible refine wr_kept ?_ ?e); (case e => rfl))
    | with_reducible refine Kept.foldl ?_ ?_
    | intro _

theorem trigAct_kept {s : State} {k : Nat} {g : TrigGroup} {r : LoopIn} {pw : List Part} {s0 : State} (h : Kept pw s0 s) (hw : subParts [.regs, .yards, .ten, .clock, .cores, .power, .health, .out, .free] pw = true) :
    Kept pw s0 (trigAct s k g r) := by
  refine Kept.app h hw ?_
  unfold trigAct
  repeat' first
    | with_reducible exact Kept.refl _ _
    | with_reducible refine Kept.ite ?_ ?_
    | ((with_reducible refine takePin_kept ?_ ?e); (case e => rfl))
    | ((with_reducible refine slotBoundary_kept ?_ ?e); (case e => rfl))
    | ((with_reducible refine subframeBoundary_kept ?_ ?e); (case e => rfl))
    | ((with_reducible refine wr_kept ?_ ?e); (case e => rfl))
    | ((with_reducible refine loopCycle_kept ?_ ?e); (case e => rfl))
    | ((with_reducible refine tdStart_kept ?_ ?e); (case e => rfl))
    | ((with_reducible refine drivePin_kept ?_ ?e); (case e => rfl))
    | ((with_reducible refine emit_kept ?_ ?e); (case e => rfl))
    | ((with_reducible refine healthCause_kept ?_ ?e); (case e => rfl))
    | dsimp only
    | split

theorem trigDone_kept {s : State} {k : Nat} {g : TrigGroup} {pw : List Part} {s0 : State} (h : Kept pw s0 s) (hw : subParts [.regs, .live, .clock] pw = true) :
    Kept pw s0 (trigDone s k g) := by
  refine Kept.app h hw ?_
  unfold trigDone
  repeat' first
    | with_reducible exact Kept.refl _ _
    | with_reducible refine Kept.ite ?_ ?_
    | ((with_reducible refine wr_kept ?_ ?e); (case e => rfl))
    | ((with_reducible refine bump_kept ?_ ?e); (case e => rfl))
    | ((with_reducible refine wrLive_kept ?_ ?e); (case e => rfl))
    | ((with_reducible refine applyTrig_kept ?_ ?e); (case e => rfl))
    | dsimp only
    | fail_if_no_progress ((with_reducible refine Kept.setClock ?_ ?e); (case e => rfl))
    | split

end Sys2Proof.Machine
end

