-- ==== Sys2Proof/Tests/Slice0.lean ====
section
/-! SUPPORT. Tests of the model: ill-formed commands that the checks of WellFormed refuse, small steps with the results the spec states,
and, for the statements of Obligations, states and operands that meet their hypotheses. -/

namespace Sys2Proof.Tests

open Sys2Proof Sys2Proof.Machine

set_option Elab.async false

/-! ### Ill-formed commands (WellFormed) -/

def okMsg (k : MsgKind) : Msg := { (default : Msg) with kind := k, dstNode := 1023, srcFn := 512, len := 64 }
def okDatagram : Datagram :=
  { magic := 0x5950, ver := 1, node := 5, deviceId := 7, incarnation := 3, port := 0, cause := 0, seq := 1, time := 9, listVersion := 0, ready := 0, reserved := 0 }
def okBlock : CapBlock :=
  { ver := 1, genMin := 1, genMax := 1, node := 3, port := 15, plumb := false, lanesOk := 255, incarnation := 1, detSignature := 2, tTx := 3, tEcho := 4, tHold := 5,
    arrival := 6, verG2 := 1, verG3 := 1, ansG2 := 1, ansG3 := 1 }
def okPdu : Pdu := { (default : Pdu) with prbCount := 275, symCount := 14 }
def okFrame : UFrame := { sfn := 1023, slot := 79, symbol := 13, eaxc := 1, seq := 0, width := some 9, startPrb := 0, prbs := [(15, List.replicate 24 1)] }

theorem test_wf_write : (Instr.registerWrite 0 0xF00004 false 1).wf = true := by decide
theorem test_ill_write_align : (Instr.registerWrite 0 0xF00002 false 1).wf = false := by decide
theorem test_ill_write_align_wide : (Instr.registerWrite 0 0xF00004 true 1).wf = false := by decide
theorem test_ill_write_width : (Instr.registerWrite 0 0xF00004 false 0x100000000).wf = false := by decide
theorem test_ill_read_align : (Instr.lowWordRead 0 0xF00001 false).wf = false := by decide
theorem test_ill_window_align : (Instr.benchWindowAbsentAccess 3 6 true).wf = false := by decide
theorem test_ill_proxy_align : (Instr.notClockedProxyAccess 0x900001 none).wf = false := by decide
theorem test_ill_trigger : (Instr.triggerFire 0 ⟨20, [], [1, 2, 3, 4, 5]⟩).wf = false := by decide
theorem test_ill_trigger_sensors : (Instr.triggerFire 0 ⟨20, List.replicate 17 none, []⟩).wf = false := by decide
theorem test_wf_block : (Instr.capabilityBlock 0 okBlock).wf = true := by decide
theorem test_ill_block_node : (Instr.capabilityBlock 0 { okBlock with node := 1024 }).wf = false := by decide
theorem test_ill_block_gen : (Instr.capabilityBlock 0 { okBlock with genMax := 16 }).wf = false := by decide
theorem test_ill_block_lanes : (Instr.capabilityBlock 0 { okBlock with lanesOk := 256 }).wf = false := by decide
theorem test_ill_block_version : (Instr.capabilityBlock 0 { okBlock with ver := 16 }).wf = false := by decide
theorem test_wf_lsa : (Instr.lsa (okMsg .lsa)).wf = true := by decide
theorem test_ill_lsa_kind : (Instr.lsa (okMsg .write)).wf = false := by decide
theorem test_ill_flit_codewords : (Instr.dataFlit 0 0 0 false true [0, 1, 2]).wf = false := by decide
theorem test_ill_trig_group : (Instr.trigCommit 0 (some ⟨2 ^ 64, 0, 0, 0⟩) true).wf = false := by decide
theorem test_ill_packet : (Instr.packetEnd 0 7 ⟨0, 0, [[1, 2]]⟩ 64).wf = false := by decide
theorem test_ill_message_via : (Instr.write { okMsg .write with via := 17 }).wf = false := by decide
theorem test_wf_message : (Instr.write (okMsg .write)).wf = true := by decide
theorem test_ill_message_kind : (Instr.write (okMsg .read)).wf = false := by decide
theorem test_ill_message_kinds : ([Instr.read (okMsg .write), .readData (okMsg .read), .atomicMessage (okMsg .read), .atomicResult (okMsg .atomic),
    .reduceMessage (okMsg .write), .signalMessage (okMsg .msg), .msg (okMsg .signal), .ack (okMsg .nak), .nak (okMsg .ack)].any Instr.wf) = false := by decide
theorem test_ill_message_node : (Instr.read { okMsg .read with dstNode := 1024 }).wf = false := by decide
theorem test_ill_message_length : (Instr.write { okMsg .write with len := 4097 }).wf = false := by decide
theorem test_ill_message_addr : (Instr.write { okMsg .write with addr := 0x1000000000000 }).wf = false := by decide
theorem test_ill_read_with_data : (Instr.read { okMsg .read with data := [1] }).wf = false := by decide
theorem test_ill_coll_kind : ([Instr.desc, .count, .verdict, .data, .ackVerified, .refetch, .abort].any
    (fun c => (c { (default : CollMsg) with msg := okMsg .write }).wf)) = false := by decide
theorem test_ill_coll_group : (Instr.desc { (default : CollMsg) with msg := okMsg .coll, group := 64 }).wf = false := by decide
theorem test_ill_sample : (Instr.queueSample (List.replicate 49 0) []).wf = false := by decide
theorem test_ill_sample_delays : (Instr.queueSample [] (List.replicate 49 0)).wf = false := by decide
theorem test_wf_pdu : okPdu.wf = true := by decide
theorem test_ill_pdus : ([Instr.dlTtiRequest, .ulTtiRequest, .ulDciRequest, .txDataRequest].any
    (fun c => (c 0 0 0 0 [{ okPdu with prbStart := 1 }]).wf)) = false := by decide
theorem test_ill_pdu_symbols : (Instr.ulTtiRequest 0 0 0 0 [{ okPdu with symStart := 1 }]).wf = false := by decide
theorem test_wf_frame : (Instr.uplinkUPlane 0 okFrame).wf = true := by decide
theorem test_ill_frame_symbol : (Instr.uplinkUPlane 0 { okFrame with symbol := 14 }).wf = false := by decide
theorem test_ill_frame_mantissas : (Instr.uplinkUPlane 0 { okFrame with prbs := [(0, [1])] }).wf = false := by decide
theorem test_ill_vf : ([Instr.stop, .stopClear, .quiesced, .reset, .forceReset, .flr, .forcedResetDone, .freeze, .frozen, .resume].any
    (fun c => (c 0).wf)) = false := by decide
theorem test_ill_measure : (Instr.powerMeasure 0 0 (List.replicate 17 (0, false))).wf = false := by decide
theorem test_ill_datagram : ([Instr.heartbeat, .lossDatagram, .tripDatagram, .restarted].any (fun c => (c false { okDatagram with ver := 256 }).wf)) = false := by decide
theorem test_ill_datagram_node : (Instr.heartbeat true { okDatagram with node := 65536 }).wf = false := by decide
theorem test_ill_change : (Instr.listChange ⟨1, 1024, .expel, 3⟩).wf = false := by decide
theorem test_ill_evidence : (Instr.evidenceRecord ⟨1, true, 128, 0⟩).wf = false := by decide
theorem test_ill_evidence_node : (Instr.evidenceRecord ⟨1024, true, 0, 0⟩).wf = false := by decide


/-! ### Small states of the witnesses -/

/-- Two results are equal. -/
def okIs {e a : Type} [DecidableEq e] [DecidableEq a] (x y : Except e a) : Bool :=
  match x, y with
  | .ok u, .ok v => decide (u = v)
  | .error u, .error v => decide (u = v)
  | _, _ => false
/-- Sys2Proof.Machine.FnsOk, decided. -/
def fnsOk (s : State) : Bool := s.work.cmds.all fun e => decide (e.2.owner.fn ≤ 512)
/-- Host memory with the given bytes under PASID 5, all of it pinned. -/
def hostOf (ps : List (Nat × List Byte)) : HostMem := { bytes := ps.foldl (fun m p => (hostPut ⟨m, []⟩ 5 p.1 p.2).bytes) [], pins := [⟨5, 0, 2 ^ 40⟩] }
/-- A state with registers written. -/
def withRegs (s : State) (l : List (Fld × Nat × Nat)) : State := l.foldl (fun s e => wr s e.1 e.2.1 e.2.2) s
/-- Reset, a microsecond later. -/
def s0 : State := { State.reset with clock := { State.reset.clock with ns := 1000 } }
/-- IMAGE ready, 32 benches, four VFs. -/
def ready (s : State) : State := withRegs s [(Reg.readyFnState, 3, 2), (Reg.caps0BenchCount, 0, 32), (Reg.tenInfoVfs, 0, 4)]
/-- A state with queue k. -/
def qOf (x : Queue) (k : Nat) (s : State) : State := putQ s k x
/-- A number from its fields: place and value. -/
def bits (l : List (Nat × Nat)) : Nat := (l.map (fun e => e.2 * 2 ^ e.1)).sum
/-- A context on bench b with eight pages, two of them mapped and filled. -/
def ctxB (b : Nat) : Ctx := { Ctx.fresh with res := .resident b, pages := 8, mapped := [0, 1], yard := (List.range 256).map (fun i => (i, BitVec.ofNat 8 (i * 7 + 1))) }
/-- A state that holds command 7 of a step of PF0 and its context on bench 2. -/
def bench0 (c : Cmd) (ctx : Ctx) : State :=
  let s := withRegs (ready s0) [(Reg.benchStateRole, 2, 1), (Reg.benchStatePstate, 2, 0), (Reg.caps0DramLots, 0, 64), (Reg.bankPartSaveLot, 0, 3), (Reg.lotOwnerOwner, 3, 0x3FD)]
  let s := wrLive s Reg.bankPartBenchMax 0 4
  let s := putStep s 3 { (default : StepSt) with cmdCount := 4 }
  let s := putCtx s 0 ctx
  let s := putBench s 2 { BenchSt.reset with ctx := some 0 }
  { putCmd s 7 c with work := { (putCmd s 7 c).work with nextCid := 8, nextSeq := 5 } }
/-- A command header: opcode and body length. -/
def hdr (op len : Nat) : Nat := 1 + op * 16 + 0x77 * 2^16 + len * 2^32
/-- A command of queue 3 of PF0. -/
def mkC (op blen body : Nat) (st : CmdSt) : Cmd := { Cmd.fresh (.queue 0 3) 0 (hdr op blen + body * 2^512) (64 + 64 * blen) with st := st, seq := 4, bench := 2, held := st != .waiting, rpages := [0], wpages := [1] }
/-- Command 7. -/
def getC (s : State) : Cmd := (getCmd s 7).getD default
/-- A state whose translation table maps one page of function f to a lot. -/
def xl (s : State) (f lot : Nat) : State :=
  let b := 3 * 2 ^ 30
  let s := withRegs s [(Reg.xlatRootEnable, f, 1), (Reg.xlatRootL1Base, f, (b + 0x10000) / 4096), (Reg.lotOwnerOwner, 3, 0x3FD), (Reg.lotOwnerOwner, lot, if f = 0 then 0x3FD else f), (Reg.caps0DramLots, 0, 64)]
  let k := lineKey s
  { s with mem := memPutBytes k (memPutBytes k (memPutBytes k s.mem (b + 0x10000) (leBytes 8 (b + 0x11001))) (b + 0x11000) (leBytes 8 (b + 0x12001))) (b + 0x12000) (leBytes 8 (lot * 2^30 + 2^21 + 15)) }
/-- A state with Chisel cores 3 and 5 running, core 3 with given registers. -/
def cS (l : List (Nat × Nat)) (f : Core → Core) : State :=
  let s := withRegs (ready s0) [(Reg.chiselCoreState, 3, 2), (Reg.chiselCoreState, 5, 2), (Reg.chiselInfoCores, 0, 8)]
  let c := l.foldl (fun c e => c.setReg e.1 e.2) { Core.zero with pc := 0x40, bundle := 9, pend := [⟨kG 9, 5, 10, .write⟩, ⟨kG 8, 6, 11, .write⟩] }
  putCore (putCore s 5 Core.zero) 3 (f c)
/-- Values of G1 and G2. -/
def gg (a b : Nat) : List (Nat × Nat) := [(kG 1, a), (kG 2, b)]
/-- A cell of the plan. -/
def pl0 : CellPlan := { (default : CellPlan) with mu := 1, nPrb := 4, lport := 5, wNom := 9, wFloor := 7, p7LeadUs := 300, rateBps := 1000000000, burst := 10000, maxIter := 8, harqBuffers := 2, txOpenNs := 200000, txCloseNs := 100000, rxOpenNs := 1000, rxCloseNs := 2000000, indDeadlineUs := 3000 }
/-- A state with a cell in state st and its ring pair in host memory. -/
def rdS (st : Nat) (l : List (Fld × Nat × Nat)) : State :=
  let s := withRegs (ready s0) ([(Reg.cellState, 2, st), (Reg.cellFapiRing, 2, 3), (Reg.fapiRingReqLog2, 3, 3), (Reg.fapiRingEnable, 3, 1), (Reg.fapiRingPasid, 3, 5), (Reg.fapiRingReqBase, 3, 4096), (Reg.chiselFapiMapMask, 3, 2), (Reg.chiselCoreState, 1, 2),
    (Reg.fapiRingIndLog2, 3, 3), (Reg.fapiRingIndBase, 3, 8192), (Reg.fapiRingIndDataBase, 3, 16384), (Reg.fapiRingIndDataSize, 3, 4000000), (Reg.fapiRingIndLog2, 0, 3), (Reg.fapiRingEnable, 0, 1), (Reg.fapiRingPasid, 0, 5), (Reg.fapiRingIndBase, 0, 8192), (Reg.fapiRingIndDataBase, 0, 16384), (Reg.fapiRingIndDataSize, 0, 4000000)] ++ l)
  { s with host := hostOf [(4096, leBytes 32 (bits [(64, 77), (96, 2), (112, 0), (122, 1)]))], radio := { s.radio with plan := [(2, pl0)] } }
/-- The SFN of the second frame of the time base. -/
def sfn0 : Nat := (2 + 1024 - Config.sfnEpoch % 1024) % 1024


/-! ### General statements -/

theorem wit_EmptyQueuePassesOneGClock : State.reset.pending = [] ∧ clocked State.reset = false ∧
    clocked { State.reset with boot := { State.reset.boot with converting := true, resetLow := false } } = true := by decide +kernel
theorem wit_CommandsKeepToTheirParts : exec .meteringTick State.reset = .next (match execMeteringTick State.reset with | .next t => t | _ => State.reset) := by
  rfl
theorem wit_StepKeepsInvariant : Machine.Inv State.reset ∧ step State.reset = .next State.reset := ⟨by unfold Machine.Inv; decide +kernel, by rfl⟩
theorem wit_StepKeepsCommandFunctions : FnsOk (bench0 (mkC 2 2 0 .issued) (ctxB 2)) ∧ (bench0 (mkC 2 2 0 .issued) (ctxB 2)).work.cmds ≠ [] := by
  unfold FnsOk; decide +kernel
/-- Whatever the offset of the frame numbers: a slot j < 512 frames from now starts there, so a radio command can be met before and after
its time. -/
theorem wit_slotStart (s : State) (mu slot j : Nat) (hj : j < 512) :
    slotStart s mu ((now s / 10000000 + j + Config.sfnEpoch) % 1024) slot = (now s / 10000000 + j) * 10000000 + slot * (1000000 / 2 ^ mu) := by
  have h : ((now s / 10000000 + j + Config.sfnEpoch) % 1024 + 1024 - (now s / 10000000 + Config.sfnEpoch) % 1024) % 1024 = j := by omega
  simp only [slotStart, h, hj, true_or, if_true]
/-! ### hostaccess -/

namespace W01

/-- The hypotheses of clause `cl` of Obligations.RegisterWritesFollowAccessCodes, its clauses counted in their order. -/
def hyps_RegisterWritesFollowAccessCodes (cl : Nat) (s : State) (d : BitVec 64) (fn : Fin 513) (a : BitVec 32) (w : Bool) (g : Fin 513) (q : Fin 64) : Bool :=
  let off := a.toNat / (if w then 8 else 4) * (if w then 8 else 4)
  ((cl == 0 && decide (reachable s 0xF00004 = true) && decide (rd s Reg.healthIrqVector 0 < 64) && decide (rd s Reg.healthIrqEnable 0 ≤ 1) && decide (s.clock.trigNext = [])) ||
    (cl == 1 && decide (reachable s 0xF00000 = true) && decide (s.clock.trigNext = [])) ||
    (cl == 2 && decide (s.clock.trigNext = [])) ||
    (cl == 3 && decide (reachable s 0x400004 = true) && decide (rdB s Reg.readySummaryLocked 0 = true) && decide (s.clock.trigNext = [])) ||
    (cl == 4 && decide (reachable s 0x400004 = true) && decide (rdB s Reg.readySummaryLocked 0 = false) && decide (s.clock.trigNext = []) && decide (rd s Reg.memRsvMgrLots 0 < 512) && decide (1 ≤ d.toNat / 2 ^ 18 % 512) && decide (d.toNat / 2 ^ 18 % 512 ≤ 64)) ||
    (cl == 5 && decide (reachable s 0x702640 = true) && decide (s.clock.trigNext = [])) ||
    (cl == 6 && decide (reachable s off = false)) ||
    (cl == 7 && (([Status.noUnit, Status.notClocked]).any (fun st => decide (reachable s off = true) && decide (pfClosed s off = some st) && cl == 7))) ||
    (cl == 8 && decide (fnPresent s fn.val = false)) ||
    (cl == 9 && decide (g.val ≠ 0) && decide (fnPresent s g.val = true) && decide (s.ten.pendBits = [])))

/-- The hypotheses of clause `cl` of Obligations.LowWordReadLatchesHighWord, its clauses counted in their order. -/
def hyps_LowWordReadLatchesHighWord (cl : Nat) (fn : Fin 513) (addr : BitVec 32) (s : State) (v : Nat) (st : Status) : Bool :=
  let a := addr.toNat
  let open_ := fun (a : Nat) => fn.val = 0 → reachable s a = true → pfClosed s a = none ∧ readEffect s a = s
  ((cl == 0 && decide (mapFind s.ten.latch (fn.val * 2 ^ 32 + a) = none) && decide (open_ a)) ||
    (cl == 1 && decide (mapFind s.ten.latch (fn.val * 2 ^ 32 + a) = some v)) ||
    (cl == 2 && decide (mapFind s.ten.latch a = none) && decide (reachable s a = true) && decide (pfClosed s a = some st)) ||
    (cl == 3 && decide (mapFind s.ten.latch a = none) && decide (reachable s a = false)) ||
    (cl == 4 && decide (a % 8 = 0) && decide (open_ a) && decide (open_ (a + 4)) && decide (a ≠ 0x700010)))

/-- The hypotheses of clause `cl` of Obligations.AbsentBenchWindow, its clauses counted in their order. -/
def hyps_AbsentBenchWindow (cl : Nat) (b : BitVec 5) (off : BitVec 16) (w : Bool) (s : State) : Bool :=
  (cl == 0 && decide (benchCount s ≤ b.toNat)) ||
    (cl == 1 && decide (b.toNat < benchCount s))

/-- The hypotheses of clause `cl` of Obligations.ErrorLogRing, its clauses counted in their order. -/
def hyps_ErrorLogRing (cl : Nat) (s : State) (st : Status) (source tag detail : Nat) : Bool :=
  decide (rd s Reg.pfErrlogIdxTail 0 < 64) && decide (rd s Reg.pfErrlogIdxHead 0 < 64) && decide (s.clock.ns < 2 ^ 64) && decide (source < 256) && (
          ((cl == 0 && decide ((rd s Reg.pfErrlogIdxTail 0 + 64 - rd s Reg.pfErrlogIdxHead 0) % 64 ≠ 63)) ||
            (cl == 1 && decide ((rd s Reg.pfErrlogIdxTail 0 + 64 - rd s Reg.pfErrlogIdxHead 0) % 64 = 63)) ||
            cl == 2))

/-- The hypotheses of clause `cl` of Obligations.ProxyWindowsAndRefresh, its clauses counted in their order. -/
def hyps_ProxyWindowsAndRefresh (cl : Nat) (s : State) (addr d : BitVec 32) (k : BitVec 2) (t0 t1 t2 t3 : BitVec 8) (j : Nat) (i : Fin 4) : Bool :=
  (cl == 0 && decide (reachable s addr.toNat = true) && decide (domainRuns s addr.toNat = some false)) ||
    (cl == 1 && decide (reachable s addr.toNat = true) && decide (domainRuns s addr.toNat = some true) && decide (addr.toNat % 4 = 0)) ||
    cl == 2

def allCauses : List (Fld × Nat × Nat) := [(Reg.healthCauseFault,0,1),(Reg.healthCauseRadio,0,1),(Reg.healthCauseRecord,0,1),(Reg.healthCauseList,0,1)]
def pxS : State := withRegs (ready s0) [(Reg.benchStatePstate,1,0),(Reg.benchStatePstate,0,1),(Reg.memRefreshHot,0,4)]

theorem wit_RegisterWritesFollowAccessCodes : (([0, 1, 2, 3, 5, 8, 9].all fun cl => decide (hyps_RegisterWritesFollowAccessCodes cl (withRegs (ready s0) ((Reg.readySummaryLocked,0,1)::allCauses)) 0x1201 5 0 false 4 3)) &&
    (decide (hyps_RegisterWritesFollowAccessCodes 7 (withRegs (ready s0) [(Reg.caps0BenchCount,0,7)]) 0x42 512 0x270123 true 0 0)) &&
    (decide (hyps_RegisterWritesFollowAccessCodes 6 (withRegs s0 ((Reg.readySummaryLocked,0,1)::allCauses)) 0x42 512 0x123457 false 0 0)) &&
    ([1].any (fun n => decide (hyps_RegisterWritesFollowAccessCodes 4 (withRegs (ready s0) allCauses) (BitVec.ofNat 64 (n * 2^18)) 5 0x400004 false 2 0)))) = true := by decide +kernel
theorem wit_LowWordReadLatchesHighWord : (([0, 4].all fun cl => decide (hyps_LowWordReadLatchesHighWord cl 0 0x10 (ready s0) 0 .ok)) &&
    (decide (hyps_LowWordReadLatchesHighWord 3 0 0x700014 s0 0 .noUnit)) &&
    (decide (hyps_LowWordReadLatchesHighWord 2 0 0x210100 (withRegs (ready s0) [(Reg.caps0BenchCount,0,1)]) 0 .noUnit)) &&
    (decide (hyps_LowWordReadLatchesHighWord 1 0 0x700014 (match execLowWordRead 0 0x700010 false { ready s0 with clock := { s0.clock with ns := 2^40 } } with | .next t => t | _ => s0) 256 .ok))) = true := by decide +kernel
theorem wit_AbsentBenchWindow : ((decide (hyps_AbsentBenchWindow 1 31 0x100 false (ready s0))) &&
    (decide (hyps_AbsentBenchWindow 0 31 0x100 true (wr (ready s0) Reg.caps0BenchCount 0 31)))) = true := by decide +kernel
theorem wit_ErrorLogRing : (([1, 2].all fun cl => decide (hyps_ErrorLogRing cl (withRegs s0 [(Reg.pfErrlogIdxTail,0,63)]) .noUnit 3 0x12345 0x123456789)) &&
    ([1].any (fun h => decide (hyps_ErrorLogRing 0 (withRegs s0 [(Reg.pfErrlogIdxTail,0,63),(Reg.pfErrlogIdxHead,0,h)]) .noUnit 255 0x12345 0x123456789)))) = true := by decide +kernel
theorem wit_ProxyWindowsAndRefresh : (([0, 2].all fun cl => decide (hyps_ProxyWindowsAndRefresh cl pxS 0x200100 77 3 85 84 84 82 3 0)) &&
    (decide (hyps_ProxyWindowsAndRefresh 1 pxS 0x210104 77 3 85 84 84 200 0 2))) = true := by decide +kernel

end W01

/-! ### stepqueue -/

namespace W02

/-- The hypotheses of clause `cl` of Obligations.QueueBlockCommands, its clauses counted in their order. -/
def hyps_QueueBlockCommands (cl : Nat) (s : State) (fn : Fin 513) (q : BitVec 6) (v : BitVec 32) (w : BitVec 64) : Bool :=
  decide (fnPresent s fn.val = true) && (
    let k := 64 * fn.val + q.toNat
    let x := getQ s k
    ((cl == 0 && decide (v.toNat % 4096 < 2 ^ x.sqLog)) ||
      (cl == 1 && decide (2 ^ x.sqLog ≤ v.toNat % 4096)) ||
      (cl == 2 && decide (x.state = .disabled) && decide (2 ≤ x.sqLog) && decide (x.sqLog ≤ 12) && decide (2 ≤ x.cqLog) && decide (x.cqLog ≤ 12) && decide (x.prio ≠ 3)) ||
      (cl == 3 && decide (x.state = .disabled) && decide (x.prio = 3 ∨ x.sqLog < 2 ∨ 12 < x.cqLog)) ||
      (cl == 4 && decide (x.state = .error ∨ x.state = .stopping)) ||
      (cl == 5 && decide (x.state = .running) && decide (x.busy = false)) ||
      (cl == 6 && decide (x.state = .running) && decide (x.busy = true)) ||
      (cl == 7 && decide (x.state = .error)) ||
      (cl == 8 && decide (x.state = .disabled)) ||
      (cl == 9 && decide (x.state = .disabled)) ||
      (cl == 10 && decide (x.state = .disabled)) ||
      (cl == 11 && decide (x.state = .disabled)) ||
      (cl == 12 && decide (x.state ≠ .disabled))))

/-- The hypotheses of clause `cl` of Obligations.TallyWrites, its clauses counted in their order. -/
def hyps_TallyWrites (cl : Nat) (s : State) (fn : Fin 513) (n : BitVec 10) (v a b : BitVec 32) : Bool :=
  decide (fnPresent s fn.val = true) && cl == 0

/-- The hypotheses of clause `cl` of Obligations.StepsStartAndReadCommands, its clauses counted in their order. -/
def hyps_StepsStartAndReadCommands (cl : Nat) (s : State) (fn : Fin 513) (q : BitVec 6) (st : StepSt) : Bool :=
  let f := fn.val
  let k := 64 * f + q.toNat
  let x := getQ s k
  let e := leNat (hostBytes s x.pasid (x.sqBase * 64 + 64 * x.sqHead) 64)
  let h := leNat (hostBytes s x.pasid (bitsOf e 128 48) 64)
  ((cl == 0 && decide (stepReady s f x = true) && decide (x.sqHost = true) && decide (bitOf e 4 = true) && decide (bitOf e 5 = true) && decide (hostOk s x.pasid (x.sqBase * 64 + 64 * x.sqHead) 64 = true) && decide (hostOk s x.pasid (bitsOf e 128 48) 64 = true) && decide (hostOk s x.pasid (bitsOf e 192 48) (32 * bitsOf h 32 16) = true) && decide (entryCheck e = none) && decide (headerCheck s h = none)) ||
    (cl == 1 && (decide (getStep s k = some st) && decide (fnRuns s f = true) && decide (st.failing = false) && decide (st.cut = false) && decide (st.nextIdx < st.cmdCount) && decide (st.imageHost = true) && (
                let hd := leNat (hostBytes s x.pasid (st.imageAddr + st.nextPos) 64)
                let len := 64 + 64 * bitsOf hd 32 4
                let raw := leNat (hostBytes s x.pasid (st.imageAddr + st.nextPos) len)
                decide (st.nextPos + len ≤ st.imageLen) && decide (hostOk s x.pasid (st.imageAddr + st.nextPos) 64 = true) && decide (hostOk s x.pasid (st.imageAddr + st.nextPos) len = true) && decide (headerBad (Cmd.fresh (.queue f q.toNat) st.nextIdx raw len) st.vbCount = none) && cl == 1))))

/-- The hypotheses of clause `cl` of Obligations.StepCompletionWritesEntry, its clauses counted in their order. -/
def hyps_StepCompletionWritesEntry (cl : Nat) (s : State) (q : BitVec 6) (st : StepSt) : Bool :=
  let k := q.toNat
  let x := getQ s k
  let es := stepCmds s 0 k
  decide (getStep s k = some st) && decide (stepDone st es = true) && decide (st.nextIdx = st.cmdCount) && decide (st.recordHost = true) && decide (x.cqHost = true) && decide (hostOk s x.pasid st.recordAddr (32 * es.length) = true) && decide (hostOk s x.pasid (x.cqBase * 64 + 32 * x.cqTail) 32 = true) && decide (x.state = .running) && cl == 0

def qs (x : Queue) : State := putQ (ready s0) (64*2+3) x
def entryN : Nat := 1 + 2^4 + 2^5 + 2^6 + 77 * 2^64 + 0x2000 * 2^128 + 0x3000*2^192
def hdrN : Nat := 1 + 2*2^8 + 1 * 2^32 + 192 * 2^64
def cmdN : Nat := 1 + 5 * 2^4 + 0x1234*2^16 + 1*2^32 + 1*2^512
def sStep : State := { qs { Queue.reset with sqLog := 2, cqLog := 2, state := .running, sqHost := true, cqHost := true, pasid := 5, sqBase := 0x1000/64, cqBase := 0x4000/64, sqHead := 3, sqTail := 1, stopOnError := true } with host := hostOf [(0x1000+64*3, leBytes 64 entryN), (0x2000, leBytes 64 hdrN), (0x2040, leBytes 128 cmdN)] }
def sStep' : State := wr sStep Reg.vfCtlState 2 1
def fin (a : Ans) : State := match a with | .next t => t | _ => s0
def sRead : State := fin (execStepStart 2 3 sStep')
def z0 : State := { (fin (execStepStart 0 3 { (putQ (ready s0) 3 { Queue.reset with sqLog := 2, cqLog := 2, state := .running, sqHost := true, cqHost := true, pasid := 5, sqBase := 0x1000/64, cqBase := 0x4000/64, sqHead := 3, sqTail := 1, cqTail := 3, cqHead := 1, stopOnError := true }) with host := hostOf [(0x1000+64*3, leBytes 64 entryN), (0x2000, leBytes 64 hdrN), (0x2040, leBytes 128 cmdN)] })) with free := 0 }
def z1 : State := fin (execCommandRead 0 3 z0)
def z2 (st : Status) : State := match getCmd z1 0 with | some c => finish z1 0 c st 0 | none => z1

theorem wit_QueueBlockCommands : (([0, 2, 8, 9, 10, 11].all fun cl => decide (hyps_QueueBlockCommands cl (qs { Queue.reset with sqLog := 4, cqLog := 2, prio := 1 }) 2 3 15 0xFEDCBA9876543210)) &&
    ([4, 7, 12].all fun cl => decide (hyps_QueueBlockCommands cl (qs { Queue.reset with sqLog := 12, cqLog := 12, state := .error }) 2 3 0xFFF 7)) &&
    ([1, 3].all fun cl => decide (hyps_QueueBlockCommands cl (qs { Queue.reset with sqLog := 4, cqLog := 2, prio := 3 }) 2 3 16 0xFEDCBA9876543210)) &&
    (decide (hyps_QueueBlockCommands 5 (qs { Queue.reset with sqLog := 12, cqLog := 12, state := .running, sqTail := 4 }) 2 3 0xFFF 7)) &&
    (decide (hyps_QueueBlockCommands 6 (qs { Queue.reset with sqLog := 12, cqLog := 12, state := .running, busy := true, sqTail := 4 }) 2 3 0xFFF 7))) = true := by decide +kernel
theorem wit_TallyWrites : ((decide (hyps_TallyWrites 0 (tallyPut (ready s0) 2 1023 0xFFFFFFFF) 2 1023 5 0 1))) = true := by decide +kernel
theorem wit_StepsStartAndReadCommands : ((decide (hyps_StepsStartAndReadCommands 0 sStep' 2 3 default)) &&
    (decide (hyps_StepsStartAndReadCommands 1 sRead 2 3 ((getStep sRead 131).getD default)))) = true := by decide +kernel
theorem wit_StepCompletionWritesEntry : ((decide (hyps_StepCompletionWritesEntry 0 (z2 .ok) 3 ((getStep (z2 .ok) 3).getD default)))) = true := by decide +kernel

end W02

/-! ### bench -/

namespace W03

/-- The hypotheses of clause `cl` of Obligations.SlabAccumulatesAndDrains, its clauses counted in their order. -/
def hyps_SlabAccumulatesAndDrains (cl : Nat) (s : State) (cid : Nat) (c : Cmd) : Bool :=
  decide (Executes s cid c = true) && decide (c.opcode = 1) && (
      let x := slabOf c
      decide (x.w.init ≠ 2) && cl == 0)

/-- The hypotheses of clause `cl` of Obligations.BenchCommandsIssueOnce, its clauses counted in their order. -/
def hyps_BenchCommandsIssueOnce (cl : Nat) (s : State) (cid b : Nat) (c d : Cmd) (st : Status) (a k : Nat) (x : StepSt) : Bool :=
  decide (getCmd s cid = some c) && decide (isDresser 1 c = true) && decide (c.st = .waiting) && ((cl == 0 && decide (streamReady s c = false)) ||
          (cl == 1 && decide (streamReady s c = true) && decide (benchFor s c = none) && decide (c.owner.isRadio = false) && decide ((dresserPlan s { c with bench := c.bench }).1 = s) && okIs (dresserPlan s { c with bench := c.bench }).2 (.ok d)) ||
          (cl == 2 && decide (streamReady s c = true) && decide (benchFor s c = some b) && decide (c.owner.stepKey = some k) && decide (getStep s k = some x) && decide ((dresserPlan s { c with bench := b }).1 = s) && okIs (dresserPlan s { c with bench := b }).2 (.error (st, a))) ||
          (cl == 3 && decide (streamReady s c = true) && decide (benchFor s c = some b) && decide ((dresserPlan s { c with bench := b }).1 = s) && okIs (dresserPlan s { c with bench := b }).2 (.ok d) && decide (dresserFree s d = true) && decide (outranked s cid d = false) && decide (spacePages s d - (getCtx s (cmdCtx d)).mapped.length - shadowsHeld s (cmdCtx d) < d.wpages.length) && decide (d.held = false) && decide (canRelease { s with work := { s.work with nextSeq := s.work.nextSeq + 1 } } (cmdCtx d) cid { d with st := .dispatched, seq := s.work.nextSeq, regSeq := if c.ranges = [] then s.work.nextSeq else c.regSeq } = true)))

/-- The hypotheses of clause `cl` of Obligations.DresserRowsAreStaged, its clauses counted in their order. -/
def hyps_DresserRowsAreStaged (cl : Nat) (s : State) (cid : Nat) (c : Cmd) : Bool :=
  decide (Executes s cid c = true) && decide (c.opcode = 2) && (
      let x := dresserOf c
      let byte := (getCtx s (cmdCtx c)).byte
      let g := fun (i : Nat) (t : Stream) (row col : Nat) => if mapReads x.blk i then t.f32At byte row col else 0
      let mapRows := (List.range x.rows).map (fun row => (x.outAddr + row * x.outStride, (List.range x.cols).flatMap (fun col =>
        leBytes (outBytes x.r.fmt) (f32Out x.r (mapElem x.blk (g 0 x.x row col) (g 1 x.y row col) (g 2 x.z row col))))))
      let sumRows := (List.range x.rows).map (fun row => (x.outAddr + row * x.outStride,
        leBytes (outBytes x.r.fmt) (f32Out x.r (rowSum ((List.range x.cols).map (x.x.f32At byte row))))))
      let randRows := (List.range x.rows).map (fun row => (x.outAddr + row * x.outStride, (List.range x.cols).flatMap (fun col =>
        leBytes (outBytes x.r.fmt) (if bitsOf x.blk 256 2 = 0 then randomElem x.blk (row * x.cols + col)
          else f32Out x.r (randomElem x.blk (row * x.cols + col))))))
      let best := fun (m : Bool) => (List.range x.rows).map (fun row => reduceIdx m ((dresserFmt x.x.fmt).getD (.int 8))
        ((List.range x.cols).map (fun k => (x.x.elem byte row k, x.indexBase + k))))
      let idxRows := fun (m : Bool) =>
        (best m).zipIdx.map (fun b => (x.outAddr + b.2 * x.outStride, leBytes (lineLen ((dresserFmt x.x.fmt).getD (.int 8)).bits 1) b.1.1)) ++
        (best m).zipIdx.map (fun b => (x.out2Addr + b.2 * x.out2Stride, leBytes 4 b.1.2))
      let fits := fun (rows : List (Nat × List Byte)) => outsideYard (spacePages s c) (rows.map (fun e => (e.1, e.2.length))) = none
      ((cl == 0 && decide (x.op = 1) && decide (fits mapRows)) ||
        (cl == 1 && decide (x.op = 2) && decide (fits sumRows)) ||
        (cl == 2 && decide (x.op = 5) && decide (fits (idxRows true))) ||
        (cl == 3 && decide (x.op = 6) && decide (fits (idxRows false))) ||
        (cl == 4 && decide (x.op = 8) && decide (fits randRows)) ||
        (cl == 5 && decide (x.op = 9))))

/-- The hypotheses of clause `cl` of Obligations.DresserWideAndQuant, its clauses counted in their order. -/
def hyps_DresserWideAndQuant (cl : Nat) (s : State) (cid : Nat) (c : Cmd) (t1 t2 : Tile) : Bool :=
  decide (Executes s cid c = true) && decide (c.opcode = 2) && (
      let x := dresserOf c
      let byte := (getCtx s (cmdCtx c)).byte
      let fits := fun (o : List (Nat × List Byte × Nat)) => outsideYard (spacePages s c) (o.map (fun e => (e.1, e.2.1.length))) = none
      let sums := cellsOut x { ew := wideEw x, complex := false, rows := x.rows, cols := 1, cells := (List.range x.rows).map (fun row =>
        Cell.zero.cycle ((List.range x.cols).map (fun k => contrib (wideEw x) (x.x.valAt byte row k)))) }
      let both := cellsOut x { t1 with cells := List.zipWith (wideCombine t1.complex) t1.cells t2.cells }
      let blocks := fun (r : Nat) => (List.range (cdiv x.cols 32)).map (fun b => mxBlock (x.blk % 16)
        ((((List.range 32).map (32 * b + ·)).filter (· < x.cols)).map (x.x.valAt byte r)))
      let quant := (List.range x.rows).map (fun r => (x.outAddr + r * x.outStride, packCodes (dBits (x.blk % 16)) ((blocks r).flatMap (·.2)), 0)) ++
        (List.range x.rows).map (fun r => (x.out2Addr + r * x.out2Stride, (blocks r).flatMap (fun b => leBytes 1 b.1), 0))
      ((cl == 0 && decide (x.op = 3) && decide ((wctlOf x.wraw).init ≠ 2) && decide (fits sums)) ||
        (cl == 1 && decide (x.op = 4) && decide (x.rows * x.cols ≠ 0) && decide (readTile byte x.x.addr = some t1) && decide (readTile byte x.y.addr = some t2) && decide (t1.rows = x.rows) && decide (t1.cols = x.cols) && decide (t2.rows = x.rows) && decide (t2.cols = x.cols) && decide (t1.ew = t2.ew) && decide (t1.complex = t2.complex) && decide (t1.complex = true → 6 ≤ x.r.fmt ∧ anyMeet (dresserOuts x 2) = false) && decide (fits both)) ||
        (cl == 2 && decide (x.op = 4) && decide (x.rows * x.cols ≠ 0) && decide (readTile byte x.x.addr = some t1) && decide (readTile byte x.y.addr = some t2) && decide (t1.ew ≠ t2.ew) && decide (c.owner.isRadio = false)) ||
        (cl == 3 && decide (x.op = 7) && decide (fits quant))))

def slabBody (drain init : Nat) : Nat := bits [(38,0),(40,init),(64, if drain = 1 then 7 else 0),(107,drain),(128, 2^128-1),(256,2^128-1),(512+8,2),(512+16,2),(512+32,32),(512+64,0),(512+88,64),(512+112,128),(512+136,64),(512+208,if drain=1 then 65536 else 0),(512+232,if drain = 1 then 64 else 0)]
def slabS (d i : Nat) (ctx : Ctx) : State := bench0 (mkC 1 2 (slabBody d i) .dispatched) ctx
def ctxO : Ctx := getCtx (match execSlab 7 (slabS 0 0 (ctxB 2)) with | .next t => t | _ => s0) 0
def mapBlk : Nat := bits [(0, 1), (6, 0), (9, 0), (13, 0), (384, 0)]
def mapBody : Nat := bits [(64, 7), (96, 1), (128, 2), (144, 3), (176, 0), (200, 64), (320, 65536), (344, 64), (512, mapBlk)]
def mapS (st : CmdSt) (body : Nat) (ctx : Ctx) : State := bench0 { mkC 2 2 body st with rpages := [], wpages := [] } ctx
def planOf (s : State) : Cmd := match dresserPlan s { getC s with bench := 2 } with | (_, .ok d) => d | _ => default
def mapW : State := mapS .waiting mapBody (ctxB 2)
def badW : State := mapS .waiting (mapBody + 2^118) (ctxB 2)
def nbW : State := mapS .waiting mapBody { ctxB 2 with res := .saved }
def fullW : State := putCmd (mapS .waiting mapBody { ctxB 2 with mapped := [0,1,2,3,4,5,6] }) 6 { mkC 2 2 mapBody .issued with held := true, wpages := [3] }
def earlyW : State := putCmd mapW 6 { mkC 2 2 mapBody .waiting with idx := 0 }
def earlyW' : State := putCmd earlyW 7 { getC earlyW with idx := 1 }
def fullW2 : State := putCmd fullW 6 { mkC 3 1 0 .issued with held := true, wpages := [3] }
def dS (op : Nat) (extra : List (Nat × Nat)) : State := bench0 { mkC 2 2 (bits ([(96, op), (128, 2), (144, 3), (320, 65536), (344, 64)] ++ extra)) .dispatched with rpages := [] } (ctxB 2)
def tst (cl : Nat) (s : State) : Bool := decide (hyps_DresserRowsAreStaged cl s 7 (getC s))
def tileAt (ew : Int) : List Byte := Tile.bytes { ew := ew, complex := false, rows := 2, cols := 1, cells := [{ Cell.zero with a := 5 }, { Cell.zero with a := BitVec.ofInt 128 (-9), nan := true }] }
def ctxT (e : Int) : Ctx := { ctxB 2 with pages := 8, yard := putBytes (putBytes [] 0 (tileAt 3)) 1024 (tileAt e) }
def wS (e : Int) (op : Nat) (extra : List (Nat × Nat)) : State := bench0 { mkC 2 2 (bits ([(96, op), (128, 2), (144, 1), (320, 65536)] ++ extra)) .dispatched with rpages := [] } (ctxT e)
def t1 (s : State) : Tile := (readTile (getCtx s 0).byte 0).getD default
def t2 (s : State) : Tile := (readTile (getCtx s 0).byte 1024).getD default
def tst2 (cl : Nat) (s : State) : Bool := decide (hyps_DresserWideAndQuant cl s 7 (getC s) (t1 s) (t2 s))

theorem wit_SlabAccumulatesAndDrains : ((decide (hyps_SlabAccumulatesAndDrains 0 (slabS 1 1 ctxO) 7 (getC (slabS 1 1 ctxO))))) = true := by decide +kernel
theorem wit_BenchCommandsIssueOnce : ((decide (hyps_BenchCommandsIssueOnce 1 nbW 7 2 (getC nbW) (planOf nbW) .badFormat 0 3 ((getStep mapW 3).getD default))) &&
    (decide (hyps_BenchCommandsIssueOnce 2 badW 7 2 (getC badW) (planOf mapW) .badFormat 0 3 ((getStep mapW 3).getD default))) &&
    (decide (hyps_BenchCommandsIssueOnce 3 fullW2 7 2 (getC fullW2) (planOf fullW2) .badFormat 0 3 ((getStep mapW 3).getD default))) &&
    (decide (hyps_BenchCommandsIssueOnce 0 earlyW' 7 2 (getC earlyW') (planOf fullW) .badFormat 0 3 ((getStep mapW 3).getD default)))) = true := by decide +kernel
theorem wit_DresserRowsAreStaged : ((tst 5 (dS 9 [])) &&
    (tst 1 (dS 2 [(64,7),(200,64)])) &&
    (tst 4 (dS 8 [(64,7),(512+256,0)])) &&
    (tst 2 (dS 5 [(200,64),(368,70000),(392,64)])) &&
    (tst 3 (dS 6 [(200,64),(368,70000),(392,64)])) &&
    (tst 0 (bench0 { mkC 2 2 mapBody .dispatched with rpages := [] } (ctxB 2)))) = true := by decide +kernel
theorem wit_DresserWideAndQuant : ((tst2 0 (dS 3 [(64,7),(200,64)])) &&
    (tst2 1 (wS 3 4 [(64,8),(102,13),(106,13),(224,1024)])) &&
    (tst2 2 (wS 4 4 [(64,8),(102,13),(106,13),(224,1024)])) &&
    (tst2 3 (dS 7 [(102,10),(200,64),(368,70016),(392,64)]))) = true := by decide +kernel

end W03

/-! ### movers -/

namespace W04

/-- The hypotheses of clause `cl` of Obligations.SkipMovesOrWaits, its clauses counted in their order. -/
def hyps_SkipMovesOrWaits (cl : Nat) (s : State) (cid pa q f : Nat) (c : Cmd) : Bool :=
  decide (Executes s cid c = true) && decide (c.opcode = 3) && (
      let x := skipOf c
      let t0 := mapGet s.mem.tokens f 0
      let cost := runCost c.srcRuns false + runCost c.dstRuns true
      decide (x.nk = false) && decide (x.dims = 0) && decide (x.len0 ≠ 0) && decide (x.zero = true ∨ x.srcSp = 0) && decide (c.srcRuns = []) && decide (c.waited = false) && ((cl == 0 && decide (c.owner = .queue 0 q) && decide (x.dstSp = 0) && decide (c.dstRuns = []) && decide (rangeBlocked s cid c.regSeq c.ranges = false)) ||
                    (cl == 1 && decide (c.owner = .queue 0 q) && decide (x.dstSp = 1 ∨ x.dstSp = 3) && decide (c.dstRuns = [(pa, x.len0)]) && decide ((partialLines c.dstRuns).flatMap (errLines s.mem) = []) && decide (keyKept s pa x.len0 = true) && decide (rangeBlocked s cid c.regSeq c.ranges = false)) ||
                    (cl == 2 && decide (rangeBlocked s cid c.regSeq c.ranges = true)) ||
                    (cl == 3 && decide (c.owner = .queue f q) && decide (f ≠ 0) && decide (f ≤ 512) && decide (c.bench < 32) && decide (x.dstSp ≠ 2) && decide (rangeBlocked s cid c.regSeq c.ranges = false) && decide (rdLive s Reg.dramBucketBorrow f = 0) && decide (t0 < cost - c.tokens - c.lent))))

/-- The hypotheses of clause `cl` of Obligations.FabricPayloadsAreStaged, its clauses counted in their order. -/
def hyps_FabricPayloadsAreStaged (cl : Nat) (s : State) (cid : Nat) (c : Cmd) (dests : List (Nat × Nat)) : Bool :=
  decide (Executes s cid c = true) && decide (c.opcode = 5) && decide (c.srcRuns = []) && decide (runCost c.dstRuns true ≤ c.tokens + c.lent) && decide (rangeBlocked s cid s.work.nextSeq (runLines c.dstRuns true) = false) && (
            let x := fabOf c
            let f := c.owner.fn
            decide (x.dests s f = some dests) && decide (x.inline_ = true ∨ x.dram = false) && ((cl == 0 && decide (x.op = 2)) ||
                  (cl == 1 && decide (x.op = 5)) ||
                  (cl == 2 && decide (x.op = 3)) ||
                  (cl == 3 && decide (x.op = 4)) ||
                  (cl == 4 && decide (x.op = 6)) ||
                  (cl == 5 && decide (x.op = 8))))

/-- The hypotheses of clause `cl` of Obligations.GetAndFenceWait, its clauses counted in their order. -/
def hyps_GetAndFenceWait (cl : Nat) (s : State) (cid : Nat) (c : Cmd) (d : Nat × Nat) (st : Status) (dests : List (Nat × Nat)) : Bool :=
  decide (Executes s cid c = true) && decide (c.opcode = 5) && (
      let x := fabOf c
      let f := c.owner.fn
      let mid := s.fab.nextMid
      let snap := if c.awaits ≠ [] then c.awaits
        else (s.fab.unacked.filter (fun e => e.2.msg.srcFn == f && e.2.msg.kind != .coll &&
          (x.fenceAll || dests.any (fun d => d.1 == e.2.msg.dstNode && d.2 == e.2.msg.dstFn)))).map (·.1)
      (([0, 1].contains cl && (decide (x.op = 1) && decide (x.dests s f = some [d]) && decide (c.awaits = []) && decide (rangeBlocked s cid c.regSeq c.ranges = false) && decide (d.1 ≠ ownNode s) && decide (s.fab.unacked.all (fun e => !e.2.localDue) = true) && decide (runCost c.dstRuns true ≤ c.tokens + c.lent) && ((cl == 0 && decide (spoiledFor s d.1 (if f = 0 then .s else .t) = true) && decide (x.dram = false)) ||
                        (cl == 1 && decide (spoiledFor s d.1 .s = false) && decide (segments x.raddr x.len = [(0, x.len)]) && decide (f = 0) && decide (getUn s mid = none) && decide (replayBytes s + 36 ≤ 2 ^ 24) && decide ((s.fab.unacked.filter (fun e => e.2.sent && pairKey e.2.msg.dstNode e.2.msg.cls == pairKey d.1 .s)).length < 4096))))) ||
        ([2, 3, 4].contains cl && (decide (x.op = 7) && decide (x.dests s f = some dests) && ((cl == 2 && decide (snap.any (fun m => (getUn s m).isSome) = true)) ||
              (cl == 3 && decide (snap.any (fun m => (getUn s m).isSome) = false) && decide (snap.findSome? (fun m => mapFind s.fab.settled m) = none)) ||
              (cl == 4 && decide (snap.any (fun m => (getUn s m).isSome) = false) && decide (snap.findSome? (fun m => mapFind s.fab.settled m) = some st) && decide (c.owner.isRadio = false)))))))

/-- The hypotheses of clause `cl` of Obligations.CommitResolvesTheYard, its clauses counted in their order. -/
def hyps_CommitResolvesTheYard (cl : Nat) (s : State) (cid k off : Nat) (c : Cmd) (y : StepSt) : Bool :=
  decide (getCmd s cid = some c) && decide (c.owner.stepKey = some k) && decide (getStep s k = some y) && decide (c.buf = []) && decide (c.chain = []) && decide (c.dramWrites = []) && decide (c.awaits = []) && decide (rising (c.writes.map (·.1)) = true) && decide (s.fab.unacked.all (fun e => !e.2.localDue) = true) && (
                    ((cl == 0 && decide (mayCommit s cid c = false)) ||
                      (cl == 1 && decide (mayCommit s cid c = true))))

/-- The hypotheses of clause `cl` of Obligations.TallyCommandsAndZeroing, its clauses counted in their order. -/
def hyps_TallyCommandsAndZeroing (cl : Nat) (s : State) (cid k f q : Nat) (c : Cmd) (y : StepSt) (b : BitVec 5) : Bool :=
  decide (getCmd s cid = some c) && decide (c.owner = .queue f q) && decide (k = 64 * f + q) && decide (getStep s k = some y) && decide (c.opcode = 6) && decide (streamReady s c = true) && (
              let op := c.b 0 4
              (([0, 1, 2].contains cl && (decide (tallyBad c = false) && decide (quotaBad s f false = false) && ((cl == 0 && decide (op = 1)) ||
                      (cl == 1 && decide (op = 2)) ||
                      (cl == 2 && decide (op = 3))))) ||
                (cl == 3 && decide (op = 1) && decide (tallyBad c = true)) ||
                (cl == 4 && decide (b.toNat < benchCount s)) ||
                (cl == 5 && decide (benchCount s ≤ b.toNat))))

def skBody (src dst ssp dsp zero len : Nat) : Nat := bits [(0,src),(64,dst),(128,ssp),(130,dsp),(134,1),(138,zero),(160,len)]
def skC (body : Nat) (runs : List (Nat × Nat)) : Cmd := { mkC 3 1 body .dispatched with rpages := [], wpages := [], dstRuns := runs, ranges := runLines runs true, regSeq := 4 }
def skS (body : Nat) (runs : List (Nat × Nat)) : State := { bench0 (skC body runs) (ctxB 2) with free := 0 }
def tSk (cl : Nat) (s : State) (pa f : Nat) : Bool := decide (hyps_SkipMovesOrWaits cl s 7 pa 3 f (getC s))
def vfS : State := let s := skS (skBody 3 65530 0 1 0 200) [(2^30+17, 200)]; let s := putCtx s 96 (ctxB 2); let s := putCmd s 7 { getC s with owner := .queue 3 3, tokens := 5 }; { s with mem := { s.mem with tokens := [(3, 100)] } }
def peerS (s : State) : State :=
  let s := withRegs s [(Reg.fabVfPeerBase, 0, 3 * 2^30), (Reg.fabVfPeerCount, 0, 4), (Reg.fabVfMcastBase, 0, 3 * 2^30 + 4096), (Reg.fabVfMcastCount, 0, 2), (Reg.fabVfJob, 0, 9), (Reg.jeanoNodeCol, 0, 2)]
  { s with mem := memPutBytes (lineKey s) (memPutBytes (lineKey s) s.mem (3 * 2^30 + 8) (leBytes 8 (1 + 5 * 2 + 7 * 2^11))) (3*2^30+4096) (leBytes 8 0x14 ++ leBytes 8 (0) ++ leBytes 2 3 ++ leBytes 2 4) }
def fbS (op : Nat) (l : List (Nat × Nat)) : State := peerS (bench0 { mkC 5 1 (bits ([(0, op), (8, 1)] ++ l)) .dispatched with rpages := [], wpages := [] } (ctxB 2))
def tFb (cl : Nat) (s : State) : Bool := decide (hyps_FabricPayloadsAreStaged cl s 7 (getC s) (((fabOf (getC s)).dests s 0).getD []))
def tGf (cl : Nat) (s : State) (st : Status) : Bool := decide (hyps_GetAndFenceWait cl s 7 (getC s) ((((fabOf (getC s)).dests s 0).getD []).headD (0,0)) st (((fabOf (getC s)).dests s 0).getD []))
def getS : State := fbS 1 [(32, 100), (64, 65536), (128, 4000 - 100)]
def sndS : State := match execGet 7 getS with | .next t => t | _ => s0
def fnS (l : List (Nat × Nat)) (aw : List Nat) : State := let s := { fbS 7 l with fab := { sndS.fab with settled := [(9, .fabricTimeout)] } }; putCmd s 7 { getC s with awaits := aw }
def cmC : Cmd := { Cmd.fresh (.queue 0 3) 0 (1 + 2 * 16 + 2 * 2^44 + (5 + 3 * 2^16) * 2^320 + (5 + 9 * 2^16) * 2^352 ) 128 with st := .issued, seq := 4, bench := 2, held := true, writes := [(3, 0xAA), (4, 0), (65537, 7)], wpages := [0, 3], assay := 99 }
def cmS (c : Cmd) : State := bench0 c (ctxB 2)
def tCm (cl : Nat) (c : Cmd) (off : Nat) : Bool := let s := cmS c; decide (hyps_CommitResolvesTheYard cl s 7 3 off c ((getStep s 3).getD default))
def taC (body : Nat) : Cmd := { Cmd.fresh (.queue 0 3) 0 (1 + 6 * 16 + 1 * 2^44 + 2^32 + (5 + 3 * 2^16) * 2^320 + body * 2^512) 128 with st := .waiting }
def tTa (cl : Nat) (c : Cmd) (b : BitVec 5) : Bool := let s := bench0 c (ctxB 2); decide (hyps_TallyCommandsAndZeroing cl s 7 3 0 3 c ((getStep s 3).getD default) b)

theorem wit_SkipMovesOrWaits : ((tSk 3 vfS (2^30+17) 3) &&
    (tSk 0 (skS (skBody 3 65530 0 0 0 20) []) 0 0) &&
    (tSk 2 (putCmd (skS (skBody 3 65530 0 3 0 200) [(2^30+17, 200)]) 5 { skC 0 [(2^30, 20)] with regSeq := 3 }) (2^30+17) 0) &&
    (tSk 1 (let s := skS (skBody 3 65530 0 3 0 200) [(2^30+17, 200)]; { s with mem := { s.mem with dram := [(2^30+5,1),(2^30+20, 9),(2^30+217, 1)] } }) (2^30+17) 0)) = true := by decide +kernel
theorem wit_FabricPayloadsAreStaged : ((tFb 4 (fbS 6 [(330, 2), (320, 7)])) &&
    (tFb 1 (fbS 5 [(32, 50), (64, 3), (128, 4000), (4,1)])) &&
    (tFb 2 (fbS 3 [(18,1),(22,7),(128,64),(192,5),(256,6)])) &&
    (tFb 3 (fbS 4 [(18,0),(22,0),(32,8),(128,64),(357,2),(364,77)])) &&
    (tFb 5 (fbS 8 [(32, 10), (7,1), (512, 0x0102030405060708090a)])) &&
    (tFb 0 (fbS 2 [(32, 5000), (64, 3), (128, 4000), (330, 2), (320, 7)]))) = true := by decide +kernel
theorem wit_GetAndFenceWait : ((tGf 1 getS .ok) &&
    (tGf 2 (fnS [] []) .ok) &&
    (tGf 3 (fnS [] [5]) .ok) &&
    (tGf 4 (fnS [] [5,9]) .fabricTimeout) &&
    (tGf 0 (wr getS Reg.healthMemberList 5 3) .ok)) = true := by decide +kernel
theorem wit_CommitResolvesTheYard : ((tCm 1 cmC 3) &&
    (tCm 0 { cmC with st := .dispatched } 3)) = true := by decide +kernel
theorem wit_TallyCommandsAndZeroing : (([0, 4].all fun cl => tTa cl (taC 1) 2) &&
    (tTa 3 (taC (1+16)) 31) &&
    (tTa 2 (taC (3 + 63 * 2^64)) 31) &&
    (tTa 1 (taC (2 + 1023 * 2^16 + 0xFFFFFFFF * 2^32)) 31) &&
    (decide (hyps_TallyCommandsAndZeroing 5 (withRegs (bench0 (taC 1) (ctxB 2)) [(Reg.caps0BenchCount,0,31)]) 7 3 0 3 (taC 1) ((getStep (bench0 (taC 1) (ctxB 2)) 3).getD default) 31))) = true := by decide +kernel

end W04

/-! ### crusher -/

namespace W05

/-- The hypotheses of clause `cl` of Obligations.CollectivesJoin, its clauses counted in their order. -/
def hyps_CollectivesJoin (cl : Nat) (s : State) (cid q f entry rank : Nat) (c : Cmd) (members : List (Nat × Nat)) (bs : List Byte) (cnt a b st : List (Nat × Nat)) : Bool :=
  let x := crushOf c
  let n := members.length
  let send := (countsOf x n bs).1
  let recv := (countsOf x n bs).2
  let ranges := runLines (a ++ cnt) false ++ runLines (b ++ st) true
  decide (getCmd s cid = some c) && decide (c.owner = .queue f q) && decide (c.opcode = 4) && decide (c.bodyLen = 1) && decide (streamReady s c = true) && decide (x.bad = false) && decide ((crGroupRead s f x.group).1 = s) && okIs (crGroupRead s f x.group).2 (.ok (entry, members, rank)) && decide (x.shapeBad n rank [] [] = false) && decide (fnReady s 14 = true) && decide (n ≤ 1 ∨ fnReady s 15 = true) && decide ((crRuns s f x.counts (x.countBytes n) false).1 = s) && okIs (crRuns s f x.counts (x.countBytes n) false).2 (.ok cnt) && decide (rangeBlocked s cid s.work.nextSeq (runLines cnt false) = false) && decide (runCost cnt false ≤ c.tokens + c.lent) && decide ((readRuns s 0 c.tag cnt).1 = s) && okIs (readRuns s 0 c.tag cnt).2 (.ok bs) && decide (x.shapeBad n rank send recv = false) && decide ((crRuns s f x.src (x.inLen n rank send recv) false).1 = s) && okIs (crRuns s f x.src (x.inLen n rank send recv) false).2 (.ok a) && decide ((crRuns s f x.dst (x.outLen n rank recv) true).1 = s) && okIs (crRuns s f x.dst (x.outLen n rank recv) true).2 (.ok b) && decide ((crRuns s f x.stage (x.outLen n rank recv) true).1 = s) && okIs (crRuns s f x.stage (x.outLen n rank recv) true).2 (.ok st) && decide (quotaBad s f false = false) && decide (f = 0 ∨ rdLive s Reg.fabVfPir f ≠ 0) && decide (rangeBlocked s cid s.work.nextSeq ranges = false) && decide (rangesHeld s cid ≤ 508) && decide (crushFree s f x.group = true) && decide (s.crush.early = []) && decide (s.crush.lost = []) && decide (members.all (fun d => !spoiledFor s d.1 (if f = 0 then .s else .t)) = true) && decide (rank ≠ 0) && decide (n ≤ 8 * rank + 1) && (
                                                          ((cl == 0 && decide (x.op = 1)) ||
                                                            (cl == 1 && decide (x.op = 2)) ||
                                                            (cl == 2 && decide (x.op = 3)) ||
                                                            (cl == 3 && decide (x.op = 4)) ||
                                                            (cl == 4 && decide (x.op = 5)) ||
                                                            (cl == 5 && decide (x.op = 6)) ||
                                                            (cl == 6 && decide (x.op = 7)) ||
                                                            (cl == 7 && decide (x.op = 8)) ||
                                                            (cl == 8 && decide (x.op = 9))))

/-- The hypotheses of clause `cl` of Obligations.CollectiveMessages, its clauses counted in their order. -/
def hyps_CollectiveMessages (cl : Nat) (s : State) (m : CollMsg) (cid i j q : Nat) (k : Coll) (c : Cmd) : Bool :=
  decide (CollArrives s m cid k c i = true) && decide (c.owner = .queue k.fn q) && decide (k.fn ≤ 512) && (
        let key := chunkKey m.stage i m.chunk
        let p := (m.msg.data.drop 24).zipIdx.foldl (fun p b => mapSet p (m.offset + b.2) b.1) (mapGet k.partial_ key [])
        let total := m.offset + (m.msg.data.drop 24).length
        let k := { k with lastNs := mapSet k.lastNs i s.clock.ns }
        let open_ : Nat → Bool := fun n => !spoiledFor s n (if k.fn = 0 then TClass.s else TClass.t)
        ((cl == 0 && decide (k.reported = true)) ||
          (cl == 1 && decide (j < k.members.length) && decide (j ≠ i) && decide (8 * k.rank + 1 ≤ j) && decide (j ≤ 8 * k.rank + 8) && decide (mapFind k.reports j = none)) ||
          (cl == 2 && decide (k.reported = true)) ||
          (cl == 3 && decide (k.verdict.isSome = true)) ||
          (cl == 4 && decide (k.verdict = none) && decide (m.agree = false)) ||
          (cl == 5 && decide (k.verdict = none) && decide (m.agree = true) && decide (s.mem.err = []) && k.members.all (fun d => open_ d.1)) ||
          (cl == 6 && decide (c.st ≠ .committing) && decide (m.last = false) && decide (mapFind k.ends key = none)) ||
          (cl == 7 && decide (c.st ≠ .committing) && decide (m.last = true) && decide (chunkDone p total = true) && decide (open_ m.msg.srcNode) && decide (crc64 ((List.range total).map (fun o => mapGet p o 0)) ≠ m.check) && decide (mapGet k.fails key 0 < 3)) ||
          (cl == 8 && decide (∀ e ∈ s.crush.colls, e.2.toSend = [])) ||
          (cl == 9 && decide ((mapFind k.retain key).isSome = true) && decide (open_ m.msg.srcNode)) ||
          (cl == 10 && decide (c.st ≠ .committing) && decide (m.status ≠ .translationFault) && decide (m.status ≠ .permission)) ||
          (cl == 11 && decide (c.st = .committing))))

/-- The hypotheses of clause `cl` of Obligations.CollectiveEnds, its clauses counted in their order. -/
def hyps_CollectiveEnds (cl : Nat) (s : State) (cid q pa pb n : Nat) (k : Coll) (c : Cmd) (r : BitVec 10) (d : Nat × Nat) : Bool :=
  decide (getColl s cid = some k) && decide (getCmd s cid = some c) && decide (c.owner = .queue k.fn q) && decide (s.crush.lost = []) && decide (k.fn ≤ 512) && (
            let silent := (mapFind s.fab.heard d.1).all (fun t => decide (t + rd s Reg.jeanoCfgDeadUs 0 * 1000 ≤ s.clock.ns))
            let bound := rd s Reg.jeanoCfgDeadUs 0 * 1000
            let since := Nat.max (Nat.max k.joinNs k.verdictNs) (mapGet k.lastNs r.toNat 0)
            ((cl == 0 && decide (c.st = .dispatched) && decide (k.verdict = some true) && decide (k.staged = true) && decide (k.retain = []) && decide (k.toSend = [])) ||
              (cl == 1 && decide (k.staged = false ∨ k.retain ≠ [] ∨ k.toSend ≠ [] ∨ k.verdict ≠ some true)) ||
              (cl == 2 && decide (c.st = .committing) && decide (k.dst = [(pa, n)]) && decide (k.stg = [(pb, n)]) && decide (s.mem.err = []) && decide (keyKept s pa n = true)) ||
              (cl == 3 && decide (k.verdict = none) && decide (c.st ≠ .committing) && decide (k.joinNs + rd s Reg.crusherCfgJoinMs 0 * 1000000 ≤ s.clock.ns)) ||
              (cl == 4 && decide (k.verdict ≠ none ∨ s.clock.ns < k.joinNs + rd s Reg.crusherCfgJoinMs 0 * 1000000)) ||
              ([5, 6].contains cl && (decide (k.fn ≠ 0) && decide (r.toNat ≠ k.rank) && decide (k.members[r.toNat]? = some d) && decide (c.st = .dispatched) && decide (k.awaits (crushOf c) r.toNat = true) && decide (since + bound ≤ s.clock.ns) && ((cl == 5 && decide (silent = true)) ||
                            (cl == 6 && decide (silent = false))))) ||
              (cl == 7 && decide (s.clock.ns < since + bound)) ||
              (cl == 8 && decide (k.fn = 0))))

def crBase (s : State) : State :=
  let s := withRegs s [(Reg.readyFnState, 14, 2), (Reg.readyFnState, 15, 2), (Reg.crusherGrpBase, 0, 3 * 2^30), (Reg.crusherGrpGroupCount, 0, 2), (Reg.jeanoNodeCol, 0, 2), (Reg.jeanoCfgDomainsM1,0,0), (Reg.jeanoNodeColsM1,0,3), (Reg.fabVfJob, 0, 9)]
  { s with mem := memPutBytes (lineKey s) s.mem (3 * 2^30) (leBytes 32 (1 + 2 + 1 * 2^14 + 2 * 2^17)) }
def crC (l : List (Nat × Nat)) : Cmd := mkC 4 1 (bits l) .waiting
def crS (l : List (Nat × Nat)) : State := crBase (bench0 (crC l) (ctxB 2))
def tCr (cl : Nat) (s : State) : Bool :=
  let c := getC s; let x := crushOf c
  match crGroup s 0 x.group with
  | .error _ => false
  | .ok (e, ms, r) =>
    match crRuns s 0 x.counts (x.countBytes ms.length) false with
    | (_, .ok ct) =>
      let bs := runBytes s ct
      let sd := (countsOf x ms.length bs).1; let rc := (countsOf x ms.length bs).2
      match crRuns s 0 x.src (x.inLen ms.length r sd rc) false, crRuns s 0 x.dst (x.outLen ms.length r rc) true, crRuns s 0 x.stage (x.outLen ms.length r rc) true with
      | (_, .ok a), (_, .ok b), (_, .ok t) => decide (hyps_CollectivesJoin cl s 7 3 0 e r c ms bs ct a b t)
      | _, _, _ => false
    | _ => false
def crV (o : Nat) (cn : List Nat) : State := let s := xl (crS [(0,o),(256, 4096), (320, 0), (192,8192)]) 0 4; { s with mem := memPutBytes (lineKey s) s.mem (4*2^30+2^21) (cn.flatMap (leBytes 4)) }
def crP (s : State) : State := putCmd s 7 { getC s with tokens := 64 }
def joinedS : State := let s := crS [(0,9)]; putColl (putCmd s 7 { getC s with st := .dispatched, seq := 5, regSeq := 5 }) 7 { (default : Coll) with op := 9, members := [(1, 0), (2, 0)], rank := 1, hash := 1638323232462235308, joinNs := 1000, reported := true }
def msgOf (s : State) (src : Nat) (stage chunk off : Nat) (last : Bool) (check : Nat) (agree : Bool) (st : Status) (data : List Byte) : CollMsg :=
  let b := collBlank s ((getColl s 7).getD default)
  let w : Msg := { b.msg with srcNode := src, dstNode := 2, dstInc := ownInc s, srcInc := 5, job := 9, seq := 3, data := leBytes 24 0 ++ data }
  { b with msg := { w with check := msgCheck w }, stage := stage, chunk := chunk, offset := off, last := last, check := check, agree := agree, status := st }
def sk (g : Coll → Coll) (h : Cmd → Cmd) : State :=
  let s := { joinedS with fab := { joinedS.fab with seenInc := [(1, 5), (2, 5)] } }
  let s := putColl s 7 (g ((getColl s 7).getD default))
  putCmd s 7 (h (getC s))
def tCm2 (cl : Nat) (s : State) (m : CollMsg) (i j : Nat) : Bool := CollArrives s m 7 ((getColl s 7).getD default) (getC s) i && decide (hyps_CollectiveMessages cl s m 7 i j 3 ((getColl s 7).getD default) (getC s))
def tEnd (cl : Nat) (s : State) (r : BitVec 10) : Bool := let k := (getColl s 7).getD default; decide (hyps_CollectiveEnds cl s 7 3 (2^31) (2^30 + 5) 9 k (getC s) r ((k.members[r.toNat]?).getD (0,0)))
def stg : List (Nat × Nat) := [(2^30+5, 9)]
def late (s : State) : State := { s with clock := { s.clock with ns := 2000000000 } }
def awS (h : List (Nat × Nat)) : State := let s := late (sk (fun k => { k with fn := 3, retain := [(chunkKey 0 0 0, [1])], verdict := some true }) (fun c => { c with owner := .queue 3 3 })); { s with fab := { s.fab with heard := h } }

theorem wit_CollectivesJoin_1 : ((tCr 8 (crS [(0,9)])) &&
    (tCr 6 (crP (crV 7 [5, 6]))) &&
    (tCr 7 (crP (crV 8 [5, 6, 7, 8]))) &&
    ([1].any (fun o => tCr 0 (crS [(0,o),(256,if o = 2 then 0 else 64)]))) &&
    ([2].any (fun o => tCr 1 (crS [(0,o),(256,if o = 2 then 0 else 64)]))) &&
    ([3].any (fun o => tCr 2 (crS [(0,o),(256,if o = 2 then 0 else 64)])))) = true := by decide +kernel
theorem wit_CollectivesJoin_2 : (([4].any (fun o => tCr 3 (crS [(0,o),(256,if o = 2 then 0 else 64)]))) &&
    ([5].any (fun o => tCr 4 (crS [(0,o),(256,if o = 2 then 0 else 64)]))) &&
    ([6].any (fun o => tCr 5 (crS [(0,o),(256,if o = 2 then 0 else 64)])))) = true := by decide +kernel
theorem wit_CollectiveMessages : (([0, 2, 3, 7, 8, 9, 10].all fun cl => tCm2 cl (sk (fun k => { k with verdict := some true, retain := [(chunkKey 1 0 0, [5,6])] }) id) (msgOf joinedS 1 1 0 0 true 0 true .collMemberLost [1,2,3]) 0 3) &&
    ([1, 5, 6].all fun cl => tCm2 cl (sk (fun k => { k with reported := false, rank := 0, members := [(2,0),(1,0),(3,0),(4,0)] }) id) (msgOf joinedS 1 1 0 0 false 0 true .ok [1,2,3]) 1 3) &&
    (tCm2 4 (sk id id) (msgOf joinedS 1 1 0 0 true 0 false .ok [1,2,3]) 0 3) &&
    (tCm2 11 (sk (fun k => { k with verdict := some true }) (fun c => { c with st := .committing })) (msgOf joinedS 1 1 0 0 true 0 true .collMemberLost [1,2,3]) 0 3)) = true := by decide +kernel
theorem wit_CollectiveEnds : (([1, 2, 4, 7, 8].all fun cl => tEnd cl (let s := sk (fun k => { k with stg := stg, dst := [(2^31, 9)] }) (fun c => { c with st := .committing, raw := 1 + 4*16 + 2^44 + (5 + 3 * 2^16) * 2^320 }); { s with mem := memPutBytes (lineKey s) s.mem (2^30+3) [1,2,3,4,5,6,7,8,9,10,11,12] }) 0) &&
    (tEnd 5 (awS []) 0) &&
    (tEnd 3 (late (sk id id)) 0) &&
    (tEnd 6 (awS [(1, 1999999999)]) 0) &&
    (tEnd 0 (sk (fun k => { k with verdict := some true, staged := true }) id) 0)) = true := by decide +kernel

end W05

/-! ### memory -/

namespace W06

/-- The hypotheses of clause `cl` of Obligations.LotsAndInvalidation, its clauses counted in their order. -/
def hyps_LotsAndInvalidation (cl : Nat) (s : State) (lot : Fin 384) (o : BitVec 10) (hdm all : Bool) (q : List Nat) (a : Nat) : Bool :=
  let n := lot.val
  let off := 0x401000 + 2 * n
  let mine := fun (f : Nat) => rdB s Reg.memInvalAll 0 || f == rd s Reg.memInvalVf 0
  let busy := s.work.cmds.any (fun e => mine e.2.owner.fn && (e.2.ranges != [] || e.2.inFlight) && e.2.regSeq < s.mem.invalSeq && e.2.st != .done)
  (([0, 1, 2, 3].contains cl && (decide (reachable s off = true) && decide (n < rd s Reg.caps0DramLots 0) && ((cl == 0 && decide (lotIdle s n = true) && decide (lotOwnerOf s n = 0) && decide (1 ≤ o.toNat) && decide (o.toNat ≤ 512)) ||
          (cl == 1 && decide (lotIdle s n = true) && decide (1 ≤ lotOwnerOf s n) && decide (lotOwnerOf s n ≤ 512) && decide (isSaveLot s n = false)) ||
          (cl == 2 && decide (lotIdle s n = false)) ||
          (cl == 3 && decide (isSaveLot s n = true) && decide (lotOwnerOf s n ≠ 0))))) ||
    (cl == 4 && decide (rd s Reg.lotOwnerState n = 1) && decide (lotRegistered s n = false)) ||
    (cl == 5 && decide (rd s Reg.lotOwnerState n ≠ 1 ∨ lotRegistered s n = true)) ||
    (cl == 6 && decide (s.mem.clearQ = n :: q)) ||
    (cl == 7 && decide (reachable s 0x400020 = true)) ||
    (cl == 8 && decide (busy = false)) ||
    (cl == 9 && decide (busy = true)))

/-- The hypotheses of clause `cl` of Obligations.HostMemoryScrubAndBuckets, its clauses counted in their order. -/
def hyps_HostMemoryScrubAndBuckets (cl : Nat) (s : State) (pa : BitVec 39) (data : BitVec 512) (mask : BitVec 64) (e : LineErr) (f : Nat) (i : Fin 64) : Bool :=
  let a := pa.toNat / 64 * 64
  let lines := dramSize s / 64
  let line := s.mem.scrubLine % lines
  ((cl == 0 && decide (dramReady s = true) && decide (hdmOk s a = true) && decide (s.mem.err = []) && decide (keyKept s a 64 = true)) ||
    (cl == 1 && decide (dramReady s = true) && decide (hdmOk s a = false)) ||
    (cl == 2 && decide (dramReady s = false)) ||
    (cl == 3 && decide (rd s Reg.memScrubEnable 0 = 0)) ||
    (cl == 4 && decide (rd s Reg.memScrubEnable 0 ≠ 0) && decide (dramSize s ≠ 0) && decide (mapFind s.mem.stored line = none)) ||
    (cl == 5 && decide (rd s Reg.memScrubEnable 0 ≠ 0) && decide (dramSize s ≠ 0) && decide ((mapFind s.mem.stored line).isSome = true) && decide (popCount 72 e.syms.toNat = 1) && decide (e.hard = false) && decide (e.wrong = false)) ||
    (cl == 6 && decide (rd s Reg.memScrubEnable 0 ≠ 0) && decide (dramSize s ≠ 0) && decide (errAt s.mem line = none)) ||
    (cl == 7 && decide (s.cfg.pending = []) && decide (s.fab.held = []) && decide (s.fab.unacked = []) && decide (s.crush.colls = []) && decide (s.crush.lost = []) && decide (f ≤ rd s Reg.tenInfoVfs 0)))

def mS (l : List (Fld × Nat × Nat)) : State := withRegs (ready s0) ([(Reg.caps0DramLots, 0, 64)] ++ l)
def hS (l : List (Fld × Nat × Nat)) : State := mS ([9,10,11,12].map (fun i => (Reg.readyFnState, i, 2)) ++ [(Reg.lotOwnerOwner, 5, 9), (Reg.lotOwnerHdm, 5, 1)] ++ l)
def hS' (l : List (Fld × Nat × Nat)) : State := let s := hS l; { s with mem := { s.mem with dram := [(5*2^30+65, 7), (5*2^30+127, 9), (5*2^30+128, 1)], stored := [(0,0)] } }
def er1 : LineErr := { syms := 4, hard := false, rereadOk := false, wrong := false }
def tH (cl : Nat) (s : State) (pa : BitVec 39) (d : BitVec 512) (m : BitVec 64) (f : Nat) (i : Fin 64) : Bool := decide (hyps_HostMemoryScrubAndBuckets cl s pa d m er1 f i)

theorem wit_LotsAndInvalidation : (([2, 4, 6, 7, 8].all fun cl => decide (hyps_LotsAndInvalidation cl (let s := mS [(Reg.lotOwnerOwner, 5, 9), (Reg.lotOwnerState, 5, 1)]; { s with mem := { s.mem with dram := [(5*2^30, 1), (5*2^30+7, 2), (6*2^30, 1)], clearQ := [5, 6] } }) 5 512 true true [6] (6*2^30))) &&
    ([0, 5, 9].all fun cl => decide (hyps_LotsAndInvalidation cl (let s := mS [(Reg.memInvalAll,0,1)]; let s := putCmd s 3 { Cmd.fresh (.queue 4 0) 0 0 64 with ranges := [⟨0,1,true⟩], regSeq := 1 }; { s with mem := { s.mem with invalSeq := 2 } }) 5 512 true true [6] (6*2^30))) &&
    (decide (hyps_LotsAndInvalidation 1 (mS [(Reg.lotOwnerOwner, 5, 9)]) 5 7 true false [] 0)) &&
    (decide (hyps_LotsAndInvalidation 3 (mS [(Reg.lotOwnerOwner, 5, 9), (Reg.bankPartSaveLot, 9, 5)]) 5 7 true false [] 0))) = true := by decide +kernel
theorem wit_HostMemoryScrubAndBuckets : (([0, 5, 6, 7].all fun cl => tH cl (hS' []) (5*2^30+70) 0x1234567890 0x1 3 1) &&
    ([1, 3].all fun cl => tH cl (withRegs (hS' []) [(Reg.memScrubEnable, 0, 0)]) (6*2^30+70) 0x1234567890 0x0 0 0) &&
    (tH 2 (withRegs (hS' []) [(Reg.readyFnState, 10, 1), (Reg.memScrubEnable, 0, 1)]) (6*2^30+70) 0x1234567890 0x0 0 0) &&
    (tH 4 (let s := withRegs (hS' []) [(Reg.memScrubEnable, 0, 1)]; { s with mem := { s.mem with scrubLine := 4 } }) (6*2^30+70) 0x1234567890 0x0 0 0)) = true := by decide +kernel

end W06

/-! ### banksman -/

namespace W07

/-- The hypotheses of clause `cl` of Obligations.RadioFloors, its clauses counted in their order. -/
def hyps_RadioFloors (cl : Nat) (s : State) (n : BitVec 12) (sfn : BitVec 10) (e : ResEntry) (i b : Nat) (c : Chosen) (l : BitVec 5) (h : FloorHold) (cid core t p : Nat) (r : Cmd) : Bool :=
  decide (benchCount s ≤ 32) && decide (fnsOk s = true) && (
      let reserve := s.clock.ns + reserveIn s e
      let release := reserve + rd s Reg.bankRotLeadUs 0 * 1000
      let bs := sortBy (fun a b => a < b) ((planChoice s reserve).take (resFloor e (throttleAt s release)).1)
      let x := getBench s l.toNat
      let held := (getBench s b).hold
      (([0, 1, 2].contains cl && (decide (s.yards.recipe[n.toNat]? = some e) && ((cl == 0 && decide (reserveIn s e ≤ 50000) && decide (rdB s Reg.bankRotPeriod20 0 = false ∨ sfn.toNat % 2 = 0) && decide ((allBenches s).all (fun b => (getBench s b).chosen.all (fun c => !(c.entry == n.toNat && c.reserveNs == reserve))) = true) && decide (bs[i]? = some b)) ||
            (cl == 1 && decide (50000 < reserveIn s e)) ||
            (cl == 2 && decide (b < benchCount s) && decide ((getBench s b).chosen.find? (fun c => c.entry == n.toNat && decide (c.reserveNs ≤ s.clock.ns)) = some c) && decide (held = none))))) ||
        (cl == 3 && decide (x.hold = some h) && decide (h.ready = false) && decide (awake s l.toNat = true) && decide (x.ctx.all (quiet s) = true)) ||
        (cl == 4 && decide (x.hold = some h) && decide (h.ready = true ∨ awake s l.toNat = false)) ||
        ([5, 6, 7].contains cl && (decide (getCmd s cid = some r) && decide (r.owner = .radio core t p) && decide (r.opcode ≠ 6) && decide (r.inStream = true) && decide (floorCovers s t p = false) && ((cl == 5 && decide (extraChoice s = []) && decide (r.extra = false)) ||
                    (cl == 6 && decide (extraChoice s = []) && decide (r.extra = true)) ||
                    (cl == 7 && decide ((extraChoice s).head? = some b))))) ||
        (cl == 8 && decide (x.hold = some h) && decide (radioLeft s h.slotTag h.pos = false) && decide (h.reserved = false ∨ h.endNs ≤ s.clock.ns) && decide (x.chosen.find? (fun c => c.reserveNs ≤ s.clock.ns) = none)) ||
        (cl == 9 && decide (x.hold = some h) && decide (radioLeft s h.slotTag h.pos = true ∨ (h.reserved = true ∧ s.clock.ns < h.endNs)))))

/-- The hypotheses of clause `cl` of Obligations.ContextSwitches, its clauses counted in their order. -/
def hyps_ContextSwitches (cl : Nat) (s : State) (l : BitVec 5) (fn : Fin 513) (k : BitVec 5) (w : Switch) (key cid b : Nat) (c : Cmd) (rest : List Nat) : Bool :=
  decide (benchCount s ≤ 32) && decide (fnsOk s = true) && (
      let x := getBench s l.toNat
      let u := refreshWaits s
      let own := ctxKey fn.val k.toNat
      let since := fun (b : Nat) => match (getBench u b).ctx with | some k => ((getCtx u k).blockedNs).getD u.clock.ns | none => u.clock.ns
      ((cl == 0 && decide (x.sw = some w) && decide (w.phase = .grace) && decide (w.outgoing = some key) && decide (quiet s key = true ∨ w.startNs + 1000 * rd s Reg.bankSwitchCfgGraceUs 0 ≤ s.clock.ns)) ||
        (cl == 1 && decide (x.sw = some w) && decide (w.phase = .save) && decide (w.outgoing = some key) && decide (w.incoming = none) && decide (quiet s key = true) && decide (awake s l.toNat = true) && decide ((getCtx s key).mapped.all (· < 192) = true)) ||
        (cl == 2 && decide (x.sw = some w) && decide (w.phase = .save) && decide (w.outgoing = some key) && decide (quiet s key = false)) ||
        (cl == 3 && decide (x.sw = some w) && decide (w.phase = .restore) && decide (w.incoming = some key) && decide (awake s l.toNat = true) && decide ((getCtx s key).res = .empty)) ||
        (cl == 4 && decide (benchOpen u l.toNat = true) && decide (x.ctx = some key) && decide (waiters u = []) && decide (s.clock.ns - (getCtx u key).quantumNs < qEff u (key / 32))) ||
        (cl == 5 && decide (benchOpen u l.toNat = true) && decide (x.ctx = some key) && decide (waiters u = []) && decide (qEff u (key / 32) ≤ s.clock.ns - (getCtx u key).quantumNs)) ||
        (cl == 6 && decide (benchOpen u l.toNat = true) && decide (x.ctx = none) && decide (tenantBenches u < rd u Reg.bankThermTenantCap 0) && decide (freeBenchTaker u l.toNat = some key)) ||
        (cl == 7 && decide (waiting u own = true) && decide (saveLotOk u fn.val = true) && decide (rd s Reg.bankCfgStarveMs 0 * 1000000 ≤ waitedNs u own + 1000000) && decide ((allBenches u).filter (fun b => benchOpen u b && (getBench u b).ctx.isNone && fitsBench u own b && mayGain u fn.val && decide (tenantBenches u < rd u Reg.bankThermTenantCap 0)) = b :: rest)) ||
        (cl == 8 && decide (waitedNs u own + 1000000 < rd s Reg.bankCfgStarveMs 0 * 1000000)) ||
        (cl == 9 && decide (waiting u own = false)) ||
        (cl == 10 && decide (waiting u own = true) && decide (saveLotOk u fn.val = true) && decide (sortBy (fun a b => since a < since b) (takeable u own) = b :: rest) && decide ((takeable u own).all (fun b => (getBench u b).ctx.any (blocked u)) = true) && decide ((takeable u own).any (fun b => since b + 1000 * rd s Reg.bankSwitchCfgEvictMinUs 0 ≤ s.clock.ns) = true) && decide ((getBench u b).ctx = some key))))

/-- The hypotheses of clause `cl` of Obligations.BenchPowerStates, its clauses counted in their order. -/
def hyps_BenchPowerStates (cl : Nat) (s : State) (l : BitVec 5) (w : Switch) (q key : Nat) : Bool :=
  let b := l.toNat
  let x := getBench s b
  let u := refreshWaits s
  ((cl == 0 && decide (b < benchCount s) && decide (1 ≤ q) && decide (q ≤ 3) && decide (q ≤ deepest u b)) ||
    (cl == 1 && decide (b < benchCount s) && decide (pstate s b ≠ 0)) ||
    (cl == 2 && decide (b < benchCount s) && decide (x.sw = some w) && decide (w.incoming = none) && decide (w.phase = .save)) ||
    (cl == 3 && decide (x.waking = true)) ||
    (cl == 4 && decide (x.waking = false)) ||
    (cl == 5 && decide (x.ctx = some key) && decide (runnable u key = false) && decide (x.sw = none) && decide (x.hold = none) && decide ((((getCtx u key).blockedNs.orElse (fun _ => (getCtx u key).idleNs)).getD s.clock.ns) + 1000 * rd s Reg.bankPwrBlockedHoldUs 0 ≤ s.clock.ns)) ||
    (cl == 6 && decide (darkDue u b = true)) ||
    (cl == 7 && decide (darkDue u b = false)))

def resE : ResEntry := { (default : ResEntry) with count12 := 2, hold12 := 30, posBase := 5, releaseNs := 1000000, mu := 1 }
def rotS : State := let s := bench0 (mkC 2 2 0 .dispatched) (ctxB 2); let s := withRegs s ([(Reg.bankRotMaskMask, 0, 0x1C), (Reg.bankRotCount, 0, 3), (Reg.bankRotLeadUs, 0, 20)] ++ [2,3,4].map (fun b => (Reg.readyFnState, 32 + b, 2))); { s with yards := { s.yards with recipe := [resE] } }
def radC : Cmd := { Cmd.fresh (.radio 3 17 2) 0 (hdr 1 2) 192 with st := .waiting }
def tRF (cl : Nat) (s : State) (i b : Nat) (c : Chosen) (l : BitVec 5) : Bool := decide (hyps_RadioFloors cl s 0 7 resE i b c l (((getBench s l.toNat).hold).getD default) 9 3 17 2 (((getCmd s 9)).getD default))
def atN (s : State) (n : Nat) : State := { s with clock := { s.clock with ns := n } }
def planS : State := match execFloorPlanPoint 0 7 (putCmd (atN rotS 950000) 9 radC) with | .next t => t | _ => s0
def resS : State := match execFloorReservation 0 (atN (withRegs planS [(Reg.benchStatePstate, 3, 0)]) 980000) with | .next t => t | _ => s0
def ho (t : Nat) : FloorHold := { slotTag := t, pos := 2, endNs := 5, reserved := true, ready := true, lastNs := 9 }
def resS2 : State := putBench resS 3 { getBench resS 3 with waking := false }
def tCS (cl : Nat) (s : State) (l : BitVec 5) (key cid b : Nat) (rest : List Nat) (fn : Fin 513 := 0) (k : BitVec 5 := 1) : Bool := decide (hyps_ContextSwitches cl s l fn k (((getBench s l.toNat).sw).getD default) key cid b ((getCmd s cid).getD default) rest)
def swS (ph : SwPhase) (out inc : Option Nat) (s : State) : State := putBench s 2 { getBench s 2 with sw := some { outgoing := out, incoming := inc, phase := ph, startNs := 5, graceNs := 7, starve := false } }
def quietS : State := let s := putCmd rotS 7 { getC rotS with st := .done }; putCtx s 0 { getCtx s 0 with mapped := [0,1] }
def waitC : Cmd := let c := mkC 2 2 0 .waiting; { c with raw := c.raw + 1 * 2^36, idx := 3 }
def wtS : State := let s := putCmd quietS 8 waitC; let s := withRegs s [(Reg.benchStatePstate,3,0),(Reg.bankThermTenantCap, 0, 32),(Reg.tenInfoVfs,0,0)]; wrLive (wrLive s Reg.bankPartWeight 0 5) Reg.bankPartBenchMax 0 9
def uS : State := refreshWaits wtS
def evS : State := let s := withRegs wtS ((List.range 32).filterMap (fun b => if b = 2 then none else some (Reg.readyFnState, 32+b, 0))); let c := mkC 5 1 7 .dispatched; putCmd s 7 { c with awaits := [5] }
def uE : State := refreshWaits evS
def tBP (cl : Nat) (s : State) (l : BitVec 5) (q : Nat) : Bool := decide (hyps_BenchPowerStates cl s l (((getBench s l.toNat).sw).getD default) q 0)
def pwS : State := withRegs quietS [(Reg.bankPwrModelPActiveMw,0,900),(Reg.bankPwrModelPGatedMw,0,400),(Reg.bankPwrModelPRetainMw,0,200),(Reg.bankPwrModelPDarkMw,0,0),(Reg.bankPwrModelEGatedNj,0,1),(Reg.bankPwrModelERetainNj,0,1000),(Reg.bankPwrModelEDarkNj,0,50000)]
def atNs (s : State) (n : Nat) : State := { s with clock := { s.clock with ns := n } }
def idle2 (s : State) (t : Nat) : State := putCtx s 0 { getCtx s 0 with idleNs := some t }

theorem wit_RadioFloors_1 : (([4, 5, 9].all fun cl => tRF cl (withRegs resS [(Reg.bankRotMaskMask, 0, 0x18)]) 0 3 default 4) &&
    ([1, 7].all fun cl => tRF cl (putCmd rotS 9 radC) 0 3 default 3) &&
    (tRF 3 resS2 0 3 default 3) &&
    (tRF 0 (atN rotS 950000) 0 3 default 2) &&
    (tRF 2 (atN planS 980000) 0 3 ((getBench planS 3).chosen.headD default) 2) &&
    (tRF 6 (putCmd (withRegs resS [(Reg.bankRotMaskMask, 0, 0x18)]) 9 { radC with extra := true }) 0 3 default 3)) = true := by decide +kernel
theorem wit_RadioFloors_2 : ((tRF 8 (putBench (putCmd planS 9 { radC with st := .done }) 3 { getBench resS 3 with hold := some (ho 18) }) 0 3 default 3)) = true := by decide +kernel
theorem wit_ContextSwitches_1 : (([4, 8, 9].all fun cl => tCS cl quietS 2 0 7 0 []) &&
    ([6, 7].all fun cl => (let u := refreshWaits (atN uS (10^10)); let f := (allBenches u).filter (fun b => benchOpen u b && (getBench u b).ctx.isNone && fitsBench u 1 b && mayGain u 0 && decide (tenantBenches u < rd u Reg.bankThermTenantCap 0)); tCS cl (atN uS (10^10)) 3 1 7 (f.headD 0) f.tail 0 1)) &&
    (tCS 5 (atN quietS (10^10)) 2 0 7 0 []) &&
    (tCS 10 (atN uE (10^10)) 3 0 7 2 [] 0 1) &&
    (tCS 2 (swS .save (some 0) none rotS) 2 0 7 0 []) &&
    (tCS 1 (swS .save (some 0) none quietS) 2 0 7 0 [])) = true := by decide +kernel
theorem wit_ContextSwitches_2 : ((tCS 0 (swS .grace (some 0) none (atN rotS (10^9))) 2 0 7 0 []) &&
    (tCS 3 (swS .restore (some 0) (some 5) (putBench quietS 2 BenchSt.reset)) 2 5 7 0 [])) = true := by decide +kernel
theorem wit_BenchPowerStates : (([0, 1, 4, 5, 6].all fun cl => [1].any (fun q => [9980000].any (fun n => tBP cl (withRegs (idle2 (atNs pwS n) 0) [(Reg.bankRotMaskMask,0,0),(Reg.bankPwrIdleDarkMs,0,2),(Reg.benchStatePstate,2,1)]) 2 q))) &&
    ([3, 7].all fun cl => tBP cl (putBench (withRegs pwS [(Reg.benchStatePstate,2,1),(Reg.bankRotMaskMask,0,0)]) 2 { getBench pwS 2 with waking := true }) 2 1) &&
    (tBP 2 (putBench (withRegs pwS [(Reg.benchStatePstate,2,1),(Reg.bankRotMaskMask,0,0)]) 2 { getBench pwS 2 with sw := some { (default : Switch) with phase := .save, incoming := none, outgoing := some 0 } }) 2 1)) = true := by decide +kernel

end W07

/-! ### messages -/

namespace W08

/-- The hypotheses of clause `cl` of Obligations.PortsFollowTheLink, its clauses counted in their order. -/
def hyps_PortsFollowTheLink (cl : Nat) (s : State) (pt : BitVec 4) (fs ack : BitVec 12) (crcOk : Bool) (errs : List (BitVec 10)) (vc : BitVec 5) (n lanes : BitVec 8) (b : CapBlock) (m : Msg) : Bool :=
  decide (s.fab.unacked = []) && decide (s.crush.lost = []) && (
      let p := pt.toNat
      let l := getLink s p
      let up := linkIn s p 2 = true
      let good := crcOk = true ∧ errs.all (fun e => e.toNat ≤ 15) = true
      ((cl == 0 && decide (up) && decide (good) && decide (fs.toNat = l.rxNext)) ||
        (cl == 1 && decide (up) && decide (good) && decide (fs.toNat ≠ l.rxNext)) ||
        (cl == 2 && decide (up) && decide (¬ good) && decide (l.naks < 7)) ||
        (cl == 3 && decide (up) && decide (good)) ||
        (cl == 4 && decide (up) && decide (good)) ||
        (cl == 5 && decide (¬ up)) ||
        (cl == 6 && decide (up)) ||
        (cl == 7 && decide (linkIn s p 3 = true) && decide (lanesUp lanes.toNat = some true) && decide (reachedTwice s p (rd s Reg.jeanoPortPartnerNode p) = false)) ||
        (cl == 8 && decide (linkIn s p 3 = true) && decide (lanesUp lanes.toNat = none) && decide (l.tries < 2)) ||
        (cl == 9 && decide (linkIn s p 3 = true) && decide (lanesUp lanes.toNat = none) && decide (2 ≤ l.tries)) ||
        (cl == 10 && decide (linkIn s p 0 = true) && decide (bitOf (rd s Reg.caps0JeanoPortMask 0) p = true)) ||
        (cl == 11 && decide (linkIn s p 1 = true) && decide (1 < b.genMin)) ||
        (cl == 12 && decide (linkIn s p 1 = true) && decide (b.genMin ≤ 1) && decide (1 ≤ b.genMax) && decide (b.node < 1024) && decide (miswired s p b = true)) ||
        (cl == 13 && decide (linkIn s p 1 = true) && decide (b.genMin ≤ 1) && decide (1 ≤ b.genMax) && decide (b.node < 1024) && decide (miswired s p b = false) && decide (b.tEcho ≠ 0) && decide (l.exchanges < 63)) ||
        (cl == 14 && decide (RequestArrives s .lsa m = true) && decide (sameDomain s m.srcNode = true))))

/-- The hypotheses of clause `cl` of Obligations.RequestsApplyAtTheTarget, its clauses counted in their order. -/
def hyps_RequestsApplyAtTheTarget (cl : Nat) (s : State) (m : Msg) (pa pb p : Nat) (x : Route) : Bool :=
  decide (s.mem.err = []) && decide (s.fab.unacked = []) && decide (s.crush.lost = []) && (
        let f := m.dstFn
        let n := if m.aux % 16 < 2 then 4 else 8
        let pay := m.data.drop 8
        let ring := rd s Reg.fabVfRxBase f * 4096
        let slots := 2 ^ rd s Reg.fabVfRxLog2 f - 1
        let tail := leNat ((runBytes s [(pb, 8)]).drop 4) % slots
        let slot := leBytes 64 (m.srcNode % 1024 + m.srcFn % 1024 * 2 ^ 16 + m.data.length % 8192 * 2 ^ 32 + m.tag % 2 ^ 16 * 2 ^ 48) ++ m.data
        let sum := redBytesOf (m.aux % 16) (m.aux / 16) (runBytes s [(pa, pay.length)]) pay
        ((cl == 0 && decide (RequestArrives s .read m = true) && decide (m.cls = .s) && okIs (xlatRange s f m.addr m.len false) (.ok [(pa, m.len)]) && decide (replyRoute s { m with kind := .read } = some x)) ||
          (cl == 1 && decide (RequestArrives s .write m = true) && okIs (xlatRange s f m.addr m.data.length true) (.ok [(pa, m.data.length)]) && decide (keyKept s pa m.data.length = true)) ||
          (cl == 2 && decide (RequestArrives s .atomic m = true) && decide (m.fetch = false) && okIs (xlatRange s f m.addr n false) (.ok [(pa, n)]) && okIs (xlatRange s f m.addr n true) (.ok [(pa, n)]) && decide (keyKept s pa n = true)) ||
          (cl == 3 && decide (RequestArrives s .reduce m = true) && decide (redN m = 0) && decide (sum.length = pay.length) && okIs (xlatRange s f m.addr pay.length false) (.ok [(pa, pay.length)]) && okIs (xlatRange s f m.addr pay.length true) (.ok [(pa, pay.length)]) && decide (keyKept s pa pay.length = true)) ||
          (cl == 4 && decide (RequestArrives s .signal m = true)) ||
          (cl == 5 && decide (RequestArrives s .msg m = true) && decide (2 ≤ rd s Reg.fabVfRxLog2 f) && decide (rd s Reg.fabVfRxLog2 f ≤ 12) && okIs (xlatRange s f ring 8 false) (.ok [(pb, 8)]) && decide ((tail + 1) % slots ≠ leNat ((runBytes s [(pb, 8)]).take 4) % slots) && okIs (xlatRange s f (ring + 4096 * (1 + tail)) slot.length true) (.ok [(pa, slot.length)]) && decide (keyKept s pa slot.length = true) && decide (keyKept s (pb + 4) 4 = true) && okIs (xlatRange { s with mem := memPutBytes (lineKey s) s.mem pa slot } f (ring + 4) 4 true) (.ok [(pb + 4, 4)]) && decide (pa + slot.length ≤ pb ∨ pb + 8 ≤ pa)) ||
          (cl == 6 && decide (RequestArrives { s with regs := (wr s Reg.fabVfJob f m.job).regs } .write m = true) && decide (m.job ≠ rd s Reg.fabVfJob f))))

/-- The hypotheses of clause `cl` of Obligations.AnswersAndTimersSettle, its clauses counted in their order. -/
def hyps_AnswersAndTimersSettle (cl : Nat) (s : State) (m : Msg) (mid pa q f : Nat) (u : Unacked) (c : Cmd) (fn : Fin 513) (line : Nat) (rn : BitVec 32) (nd : BitVec 10) (r : Round) : Bool :=
  decide (s.crush.lost = []) && decide (s.mem.err = []) && (
      let n := if u.msg.aux % 16 < 2 then 4 else 8
      let dead := rd s Reg.jeanoCfgDeadUs 0 * 1000
      ((cl == 0 && decide (AnswerArrives s .readData m mid u = true) && decide (u.msg.kind = .read) && decide (getCmd s u.cid = some c) && decide (c.awaits = [mid]) && decide (c.st = .dispatched) && decide ((getCtx s (cmdCtx c)).epoch % 256 = m.srcEpoch % 256)) ||
        (cl == 1 && decide (AnswerArrives s .atomicResult m mid u = true) && decide (u.msg.kind = .atomic) && decide (u.msg.fetch = true) && decide (m.status = .ok) && decide (getCmd s u.cid = some c) && decide (c.owner = .queue f q) && okIs (xlatRange s f (c.b 64 48) n true) (.ok [(pa, n)]) && decide (keyKept s pa n = true)) ||
        (cl == 2 && decide (AnswerArrives s .ack m mid u = true) && decide (u.msg.kind = .write) && decide (u.msg.fetch = false) && decide (m.ordPrev = 0)) ||
        (cl == 3 && decide (AnswerArrives s .nak m mid u = true) && decide (u.msg.kind = .write) && decide (m.ordPrev = 5) && decide (fenceCovers s mid = false)) ||
        (cl == 4 && decide (AnswerArrives s .nak m mid u = true) && decide (u.localDue = false) && decide (m.ordPrev = 1)) ||
        ([5, 6].contains cl && (decide (s.fab.unacked = [(mid, u)]) && decide (u.sent = true) && decide (u.localDue = false) && decide (u.msg.cls = .s) && decide (u.msg.dstNode ≠ ownNode s) && decide (u.interval ≠ 0) && ((cl == 5 && decide (s.clock.ns < u.lastNs + max 10000 u.interval)) ||
                      (cl == 6 && decide (u.lastNs + max 10000 u.interval ≤ s.clock.ns))))) ||
        ([7, 8].contains cl && (decide (s.fab.unacked = [(mid, u)]) && decide (u.sent = true) && decide (u.msg.cls = .t) && decide (u.msg.kind = .write) && decide (fenceCovers s mid = false) && ((cl == 7 && decide (s.clock.ns < u.firstNs + dead)) ||
                    (cl == 8 && decide (u.firstNs + dead ≤ s.clock.ns))))) ||
        (cl == 9 && decide (s.fab.held = [m]) && decide (m.srcNode = nd.toNat) && decide (m.seq = rn.toNat)) ||
        ([10, 11].contains cl && (decide (s.fab.rounds = [r]) && decide (r.fn = fn.val) && decide (r.line = line) && decide (r.round = rn.toNat) && decide (s.fab.unacked = []) && decide (r.parts.all (fun m => m.srcNode != ownNode s) = true) && ((cl == 10 && decide (s.clock.ns < r.firstNs + dead)) ||
                      (cl == 11 && decide (r.firstNs + dead ≤ s.clock.ns))))) ||
        (cl == 12 && decide (reachable s 0x500010 = true)) ||
        (cl == 13 && decide (rd s Reg.jeanoSAbortGo 0 ≠ 0) && decide (s.fab.unacked = [(mid, u)]) && decide (u.msg.cls = .s) && decide (u.msg.dstNode = rd s Reg.jeanoSAbortNode 0) && decide (u.msg.srcFn ≤ 512) && decide (u.msg.kind = .write) && decide (s.crush.colls = [])) ||
        (cl == 14 && decide (rd s Reg.jeanoSAbortGo 0 = 0))))

def blkOk : CapBlock := { ownCap s0 0 with ver := 1, genMin := 1, genMax := 2, node := 3, tTx := 77, tEcho := 5, arrival := 105, tHold := 10 }
def plS (st : Nat) (l : PortLink) (mask : Nat := 0xFFFF) : State := putLink (withRegs (ready s0) [(Reg.jeanoPortState, 3, st), (Reg.jeanoNodeCol, 0, 2), (Reg.caps0JeanoPortMask, 0, mask), (Reg.jeanoNodeColsM1, 0, 3), (Reg.jeanoPortState, 1, 2), (Reg.jeanoPortPartnerNode, 1, 1), (Reg.jeanoLinkmapUp, 1, 0xFFFF)]) 3 l
def l0 : PortLink := { PortLink.reset with replay := [(7,[1]), (8,[2]), (9,[3])], rxNext := 4095, naks := 2, tries := 1 }
def lsaM (v : Nat) : Msg := let w : Msg := { Msg.blank with kind := .lsa, cls := .s, srcNode := 1, dstNode := 2, dstInc := 0, srcInc := 5, seq := 3, data := leBytes 2 0xFFFF ++ leBytes 2 v, len := 4 }; { w with check := msgCheck w }
def tPl (cl : Nat) (s : State) (ok : Bool) (errs : List (BitVec 10)) (lanes : BitVec 8) (b : CapBlock) (a : Msg) : Bool := let s := { s with fab := { s.fab with seenInc := [(1, 5)] } }; decide (hyps_PortsFollowTheLink cl s 3 4095 8 ok errs 6 200 lanes b a)
def rqS : State := let s := xl (withRegs (ready s0) [(Reg.fabVfJob, 0, 9), (Reg.jeanoNodeCol, 0, 2), (Reg.jeanoPortState, 1, 2), (Reg.jeanoPortPartnerNode, 1, 1), (Reg.jeanoLinkmapUp, 1, 0xFFFF), (Reg.jeanoNodeColsM1,0,3)]) 0 4; { s with mem := memPutBytes (lineKey s) s.mem (4*2^30+2^21) [1,2,3,4,5,6,7,8,9,10,11,12], fab := { s.fab with seenInc := [(1, 5)] } }
def rqM (kind : MsgKind) (addr len aux : Nat) (data : List Byte) : Msg :=
  let w : Msg := { Msg.blank with kind := kind, cls := .s, srcNode := 1, srcFn := 4, dstNode := 2, dstInc := ownInc rqS, srcInc := 5, job := 9, seq := 3, addr := addr, len := len, data := data, aux := aux, tag := 0x77 }
  { w with check := msgCheck w }
def tRq (cl : Nat) (s : State) (m : Msg) (pa pb p : Nat) : Bool := decide (hyps_RequestsApplyAtTheTarget cl s m pa pb p ((replyRoute s m).getD ⟨0,[],0⟩))
def rgS : State := withRegs { rqS with mem := memPutBytes (lineKey rqS) rqS.mem (4*2^30+2^21) (leBytes 4 0 ++ leBytes 4 1) } [(Reg.fabVfRxLog2, 0, 2), (Reg.fabVfRxTally, 0, 6)]
def rqJ : Msg := let m := {rqM .write 62 5 0 [9,8,7,6,5] with job := 8}; { m with check := msgCheck m }
def peerS2 (s : State) : State :=
  let s := withRegs s [(Reg.fabVfPeerBase, 0, 3 * 2^30 + 0x20000), (Reg.fabVfPeerCount, 0, 4), (Reg.fabVfJob, 0, 9), (Reg.jeanoNodeCol, 0, 2)]
  { s with mem := memPutBytes (lineKey s) s.mem (3 * 2^30 + 0x20008) (leBytes 8 (1 + 5 * 2 + 7 * 2^11)) }
def getC2 : State := peerS2 (bench0 { mkC 5 1 (bits [(0, 1), (8, 1), (32, 100), (64, 65536), (128, 3900)]) .dispatched with rpages := [], wpages := [] } (ctxB 2))
def sndS2 : State := match execGet 7 getC2 with | .next t => t | _ => s0
def anM (kind : MsgKind) (data : List Byte) (op st : Nat) : Msg :=
  let w : Msg := { Msg.blank with kind := kind, cls := .s, srcNode := 5, dstNode := 2, srcInc := heldInc sndS2 5, seq := 0, data := data, ordPrev := op, status := if st = 0 then .ok else .targetDead }
  { w with check := msgCheck w }
def u0 : Unacked := (getUn sndS2 0).getD default
def unK (k : MsgKind) (fetch : Bool) (cls : TClass := .s) : State := { sndS2 with fab := { sndS2.fab with unacked := [(0, { u0 with msg := { u0.msg with kind := k, fetch := fetch, cls := cls, aux := 1 } })] } }
def tAn (cl : Nat) (s : State) (m : Msg) (pa : Nat) (rn : BitVec 32 := 0) : Bool := decide (hyps_AnswersAndTimersSettle cl s m 0 pa 3 0 ((getUn s 0).getD default) (getC s) 4 7 rn 5 (s.fab.rounds.headD default))
def lateS (s : State) : State := { s with clock := { s.clock with ns := 10^9 } }
def rndS (t : Nat) : State := { getC2 with clock := { getC2.clock with ns := t }, fab := { getC2.fab with unacked := [], rounds := [{ (default : Round) with fn := 4, line := 7, round := 0, n := 3, firstNs := 5, parts := [rqM .reduce 448 16 0 [], { rqM .reduce 448 16 0 [] with srcFn := 5, seq := 8 }] }] } }

theorem wit_AnswersAndTimersSettle_1 : ((tAn 0 sndS2 (anM .readData [3, 4] 0 0) 0) &&
    (tAn 1 (let s := xl (unK .atomic true) 0 4; putCmd s 7 { getC s with st := .committing, raw := (getC s).raw + 2^(512+356) + 5 * 2^(512+346) - 65536 * 2^(512+64), awaits := [0] }) (anM .atomicResult (leBytes 4 77) 0 0) (4*2^30+2^21)) &&
    ([2, 5].all fun cl => [10999].any (fun t => (let s := unK .write false; tAn cl { s with clock := { s.clock with ns := t }, fab := { s.fab with unacked := s.fab.unacked.map (fun e => (e.1, { e.2 with interval := 7 })) } } (anM .ack [] 0 0) 0))) &&
    (tAn 3 (unK .write false) (anM .nak [] 5 0) 0) &&
    ([4, 13].all fun cl => tAn cl (wr (wr (unK .write false) Reg.jeanoSAbortGo 0 1) Reg.jeanoSAbortNode 0 5) (anM .nak [] 1 0) 0) &&
    ([11000].any (fun t => (let s := unK .write false; tAn 6 { s with clock := { s.clock with ns := t }, fab := { s.fab with unacked := s.fab.unacked.map (fun e => (e.1, { e.2 with interval := 7 })) } } (anM .ack [] 0 0) 0)))) = true := by decide +kernel
theorem wit_AnswersAndTimersSettle_2 : (([7, 9, 12, 14].all fun cl => tAn cl (let s := unK .write false .t; { s with fab := { s.fab with held := [anM .ack [] 0 0], heard := [(5, 2000)] } }) (anM .ack [] 0 0) 0) &&
    (tAn 8 (lateS (unK .write false .t)) (anM .nak [] 1 0) 0) &&
    (tAn 10 (rndS 10) (anM .ack [] 0 0) 0) &&
    (tAn 11 (rndS 1000000000) (anM .ack [] 0 0) 0)) = true := by decide +kernel
theorem wit_PortsFollowTheLink_1 : (([0, 3, 4, 6, 14].all fun cl => tPl cl (plS 2 l0) true [0,3,15] 15 blkOk (lsaM 9)) &&
    (tPl 1 (plS 2 { l0 with rxNext := 4 }) true [0,3,15] 15 blkOk (lsaM 40000)) &&
    (tPl 2 (plS 2 l0) false [] 15 blkOk (lsaM 0)) &&
    ([5, 8].all fun cl => tPl cl (plS 3 l0) true [] 7 blkOk (lsaM 9)) &&
    (tPl 7 (plS 3 l0) true [] 15 blkOk (lsaM 9)) &&
    (tPl 9 (plS 3 { l0 with tries := 2 }) true [] 7 blkOk (lsaM 9))) = true := by decide +kernel
theorem wit_PortsFollowTheLink_2 : ((tPl 10 (plS 0 l0) true [] 7 blkOk (lsaM 9)) &&
    (tPl 11 (plS 1 l0) true [] 7 { blkOk with genMin := 2 } (lsaM 9)) &&
    (tPl 12 (plS 1 l0) true [] 7 { blkOk with node := 70 } (lsaM 9)) &&
    (tPl 13 (plS 1 l0) true [] 7 blkOk (lsaM 9))) = true := by decide +kernel
theorem wit_RequestsApplyAtTheTarget_1 : ((tRq 0 rqS (rqM .read 3 5 0 []) (4*2^30+2^21+3) 0 1) &&
    (tRq 1 rqS (rqM .write 62 5 0 [9,8,7,6,5]) (4*2^30+2^21+62) 0 1) &&
    (tRq 2 rqS (rqM .atomic 4 16 (1 + 16 * 0) (leBytes 8 0xFFFFFFFF ++ leBytes 8 0)) (4*2^30+2^21+4) 0 1) &&
    (tRq 3 rqS (rqM .reduce 4 16 (0 + 16 * 4) (leBytes 8 0 ++ leBytes 4 0xFFFFFFFF ++ leBytes 4 0x7FFFFFFF)) (4*2^30+2^21+4) 0 1) &&
    (tRq 4 rqS (rqM .signal 4 16 (0 + 16 * 4) (leBytes 4 (5 + 7 * 2^16))) (4*2^30+2^21+4) 0 1) &&
    (tRq 5 rgS (rqM .msg 0 3 0 [1,2,3]) (4*2^30+2^21+8192) (4*2^30+2^21) 1)) = true := by decide +kernel
theorem wit_RequestsApplyAtTheTarget_2 : ((tRq 6 rqS rqJ (4*2^30+2^21+62) 0 1)) = true := by decide +kernel

end W08

/-! ### time -/

namespace W09

/-- The hypotheses of clause `cl` of Obligations.TimeStatesFollow, its clauses counted in their order. -/
def hyps_TimeStatesFollow (cl : Nat) (s : State) (j : Nat) : Bool :=
  decide (j < 64) && decide (s.radio.plan = [] ∨ s.radio.plan = [(j, s.radio.plan.head?.elim default (·.2))]) && (
      let st := rd s Reg.timeStateState 0
      let src := rd s Reg.timeStateSrc 0
      (cl == 0 ||
        (cl == 1 && decide (src ≠ 0) && decide (st = 2)) ||
        (cl == 2 && decide (src = 1) && decide (st = 2)) ||
        (cl == 3 && decide (src = 2) && decide (st = 2)) ||
        (cl == 4 && decide (src = 3) && decide (st = 2)) ||
        (cl == 5 && decide (src ≠ 1)) ||
        (cl == 6 && decide (src ≠ 2)) ||
        (cl == 7 && decide (src ≠ 3)) ||
        (cl == 8 && decide (src ≠ 0)) ||
        (cl == 9 && decide (st = 1) && decide (followed s = true) && decide (lockDue s = true)) ||
        (cl == 10 && decide (st ≠ 1 ∨ followed s = false ∨ lockDue s = false)) ||
        (cl == 11 && decide (st = 3) && decide (holdExpired s = true)) ||
        (cl == 12 && decide (st ≠ 3 ∨ holdExpired s = false))))

/-- The hypotheses of clause `cl` of Obligations.TimeBaseAndPtp, its clauses counted in their order. -/
def hyps_TimeBaseAndPtp (cl : Nat) (s : State) (v : BitVec 40) (d e : BitVec 64) (lo hi : BitVec 32) (mgr : Bool) (q : BitVec 4) (dom lev : BitVec 8) (ds : BitVec 256) (nd : BitVec 10) (t1 t2 t3 : Nat) : Bool :=
  let src := rd s Reg.timeStateSrc 0
  let p := s.clock.ptp
  let k := q.toNat
  let nominal := 0xF3CF3CF4
  let owner := mgr = decide (src = 0)
  let there := fun (a : Nat) => mgr = false ∨ reachable s a = true
  let inRange := fun (a : Nat) => nominal - nominal / 1000 ≤ a ∧ a ≤ nominal + nominal / 1000
  let from_ := src = 1 ∧ k = rd s Reg.timeStateSrcPort 0 ∧ dom.toNat = p.domain
  ((cl == 0 && decide (owner) && decide (there 0x700020) && decide (inRange v.toNat)) ||
    (cl == 1 && decide (owner) && decide (there 0x700020) && decide (¬ inRange v.toNat)) ||
    (cl == 2 && decide (owner) && decide (there 0x700028) && decide (cellsActive s = false)) ||
    (cl == 3 && decide (there 0x700028)) ||
    (cl == 4 && decide (owner) && decide (there 0x700028) && decide (cellsActive s = true)) ||
    ([5, 6].contains cl && (decide (¬ owner) && ((cl == 5 && decide (there 0x700020)) ||
        (cl == 6 && decide (there 0x700028) && decide (src ≠ 2))))) ||
    (cl == 7 && decide (src = 3)) ||
    (cl == 8 && decide (src ≠ 3)) ||
    (cl == 9 && decide (timeNode s = s.boot.image.leader)) ||
    ([10, 11].contains cl && (decide (from_) && (cl == 10 ||
        (cl == 11 && decide (p.t1 = some t1) && decide (p.t2 = some t2) && decide (p.t3 = some t3))))) ||
    (cl == 12 && decide (src = 0 ∨ src = 3)) ||
    ([13, 14].contains cl && (decide (sendsTime s k = true) && (cl == 13 ||
        (cl == 14 && decide (dom.toNat = p.domain))))) ||
    (cl == 15 && decide (sendsTime s k = false)) ||
    (cl == 16 && decide (p.synceOpt ≠ 0) && decide (k = p.syncePort)) ||
    (cl == 17 && decide (p.synceOpt = 0 ∨ k ≠ p.syncePort)))

/-- The hypotheses of clause `cl` of Obligations.TimestampsAndComparators, its clauses counted in their order. -/
def hyps_TimestampsAndComparators (cl : Nat) (s : State) (q : BitVec 4) (id : BitVec 16) (k : BitVec 6) (g : TrigGroup) (arm : Bool) (r : LoopIn) (up : Bool) (e : Nat × Nat × Nat) (l : List (Nat × Nat × Nat)) (c : Nat × Bool) (cs : List (Nat × Bool)) : Bool :=
  let j := q.toNat
  let i := k.toNat
  let tq := mapGet s.clock.tsq j []
  let own := trigGroup s i
  let off := 0x70200C + 32 * i
  let staged : TrigGroup := {
    compareNs := rd s Reg.trigCompareNs i, periodNs := rd s Reg.trigPeriodNs i, action := rd s Reg.trigAction i, target := rd s Reg.trigTarget i }
  ((cl == 0 && decide (tsqTakes s j = true) && decide (tq.length < 64)) ||
    (cl == 1 && decide (tsqTakes s j = true) && decide (64 ≤ tq.length)) ||
    (cl == 2 && decide (tsqTakes s j = false)) ||
    ([3, 4].contains cl && (decide (j < 12) && decide (reachable s (0x701000 + 32 * j) = true) && decide (pfClosed s (0x701000 + 32 * j) = none) && ((cl == 3 && decide (tq = e :: l)) ||
            (cl == 4 && decide (tq = []))))) ||
    ([5, 6, 7].contains cl && (decide (48 ≤ i) && decide (reachable s off = true) && ((cl == 5 && decide (trigBad i staged = false) && decide (rdB s Reg.trigArmed i = false)) ||
          (cl == 6 && decide (trigBad i staged = false) && decide (rdB s Reg.trigArmed i = true) && decide (trigDue s i = false)) ||
          (cl == 7 && decide (trigBad i staged = true))))) ||
    (cl == 8 && decide (i < 48) && decide (trigBad i g = true)) ||
    (cl == 9 && decide (i < 48) && decide (trigBad i g = false) && decide (s.clock.trigNext = []) && decide (rdB s Reg.trigArmed i = true) && decide (trigDue s i = false) && decide (arm = true)) ||
    (cl == 10 && decide (i < 48) && decide (trigBad i g = false) && decide (s.clock.trigNext = []) && decide (rdB s Reg.trigArmed i = false ∨ arm = false)) ||
    (cl == 11 && decide (trigDue s i = false)) ||
    (cl == 12 && decide (trigDue s i = true) && decide (mapFind s.clock.trigNext i = none) && decide (own.periodNs = 0) && decide (own.action = 2) && decide (pinLost s i own.target = false)) ||
    (cl == 13 && decide (trigDue s i = true) && decide (mapFind s.clock.trigNext i = none) && decide (own.periodNs ≠ 0) && decide (own.action = 5) && decide (pinLost s i own.target = false)) ||
    (cl == 14 && decide (j < 8) && decide (rdB s Reg.capEnable j = true) && decide (rd s Reg.capEdge j = 2 ∨ rd s Reg.capEdge j = (if up then 0 else 1)) && decide ((mapGet s.clock.cap j []).length < 8)) ||
    (cl == 15 && decide (j < 9) && decide (reachable s (0x703004 + 32 * j) = true) && decide (pfClosed s (0x703004 + 32 * j) = none) && decide (mapGet s.clock.cap j [] = c :: cs)) ||
    (cl == 16 && decide (ppsDue s = true)) ||
    (cl == 17 && decide (ppsDue s = false)))

def tmS (st src : Nat) (ok : Bool) (l : List (Fld × Nat × Nat) := []) : State := let s := withRegs (ready s0) ([(Reg.timeStateState, 0, st), (Reg.timeStateSrc, 0, src), (Reg.cellState, 3, 4), (Reg.cellHoldMute, 3, 1)] ++ l); { s with clock := { s.clock with srcOk := ok, up := 77 }, radio := { s.radio with plan := [(3, default)] } }
def tmD (st src : Nat) (ok : Bool) (r : Nat) : State := let s := tmS st src ok [(Reg.timeClkStatusRefOk, 0, r), (Reg.timeHoldoverMaxS, 0, 3)]; { s with clock := { s.clock with up := 10^12, holdSince := some 7, below := some 9, everLocked := true } }
def ptS (st src : Nat) (bc : Bool) (dom : Nat) : State := let s := tmS st src true [(Reg.timeStateSrcPort, 0, 4), (Reg.timeClkStatusRefOk, 0, 1), (Reg.tsqRxAdj, 4, 65000), (Reg.jeanoCfgEth14, 0, 1)]; { s with clock := { s.clock with ptp := { s.clock.ptp with bc := bc, domain := dom, t1 := some 5, t2 := some 100000, t3 := some 7, syncePort := 4, synceOpt := 1 }, stepLow := 5 }, boot := { s.boot with image := { s.boot.image with leader := 0 } } }
def tTP (cl : Nat) (s : State) (v : BitVec 40) (m : Bool) (q : BitVec 4) (dom : BitVec 8) : Bool := decide (hyps_TimeBaseAndPtp cl s v 0xFFFFFFFFFFFFFFF0 9 7 0xFFFFFFFF m q dom 3 9 5 5 100000 7)
def tsS (l : List (Fld × Nat × Nat)) (tq : List (Nat × Nat × Nat)) (cp : List (Nat × Bool)) (live : List (Fld × Nat × Nat)) : State := let s := live.foldl (fun s e => wrLive s e.1 e.2.1 e.2.2) (withRegs (ready s0) l); { s with clock := { s.clock with tsq := [(5, tq)], cap := [(5, cp)] } }
def lp0 : LoopIn := { (default : LoopIn) with die := 0 }
def tTs (cl : Nat) (s : State) (k : BitVec 6) (g : TrigGroup) (up : Bool) : Bool := let l := mapGet s.clock.tsq 5 []; let c := mapGet s.clock.cap 5 []; [true, false].any (fun a => decide (hyps_TimestampsAndComparators cl s 5 9 k g a lp0 up (l.headD default) l.tail (c.headD default) c.tail))
def tTs' (cl : Nat) (s : State) (q : BitVec 4) : Bool := decide (hyps_TimestampsAndComparators cl s q 9 50 ⟨0,0,0,0⟩ true lp0 true default [] default [])

theorem wit_TimeStatesFollow : (([0, 1, 2, 6, 7, 8, 10, 12].all fun cl => [2].any (fun st => [1].any (fun src => [true, false].any (fun ok => [0,1].any (fun r => decide (hyps_TimeStatesFollow cl (tmS st src ok [(Reg.timeClkStatusRefOk, 0, r)]) 3) || decide (hyps_TimeStatesFollow cl (tmD st src ok r) 3)))))) &&
    ([5, 9].all fun cl => [1].any (fun st => [2].any (fun src => [true, false].any (fun ok => [0,1].any (fun r => decide (hyps_TimeStatesFollow cl (tmS st src ok [(Reg.timeClkStatusRefOk, 0, r)]) 3) || decide (hyps_TimeStatesFollow cl (tmD st src ok r) 3)))))) &&
    ([2].any (fun st => [2].any (fun src => [true, false].any (fun ok => [0,1].any (fun r => decide (hyps_TimeStatesFollow 3 (tmS st src ok [(Reg.timeClkStatusRefOk, 0, r)]) 3) || decide (hyps_TimeStatesFollow 3 (tmD st src ok r) 3)))))) &&
    ([2].any (fun st => [3].any (fun src => [true, false].any (fun ok => [0,1].any (fun r => decide (hyps_TimeStatesFollow 4 (tmS st src ok [(Reg.timeClkStatusRefOk, 0, r)]) 3) || decide (hyps_TimeStatesFollow 4 (tmD st src ok r) 3)))))) &&
    ([3].any (fun st => [0].any (fun src => [true, false].any (fun ok => [0,1].any (fun r => decide (hyps_TimeStatesFollow 11 (tmS st src ok [(Reg.timeClkStatusRefOk, 0, r)]) 3) || decide (hyps_TimeStatesFollow 11 (tmD st src ok r) 3))))))) = true := by decide +kernel
theorem wit_TimeBaseAndPtp : (([0, 2, 3, 5, 6, 8, 9, 10, 11, 13, 14, 15, 16, 17].all fun cl => [0].any (fun st => [1].any (fun src => [true, false].any (fun m => [4, 3, 8, 9].any (fun q => [24, 44].any (fun dm => tTP cl (withRegs (ptS st src true dm) [(Reg.cellState,3,st)]) (BitVec.ofNat 40 (0xF3CF3CF4 + src)) m (BitVec.ofNat 4 q) (BitVec.ofNat 8 dm))))))) &&
    ([1, 4, 12].all fun cl => tTP cl (ptS 1 0 true 24) 5 true 4 24) &&
    ([0].any (fun st => [3].any (fun src => [true, false].any (fun m => [4, 3, 8, 9].any (fun q => [24, 44].any (fun dm => tTP 7 (withRegs (ptS st src true dm) [(Reg.cellState,3,st)]) (BitVec.ofNat 40 (0xF3CF3CF4 + src)) m (BitVec.ofNat 4 q) (BitVec.ofNat 8 dm)))))))) = true := by decide +kernel
theorem wit_TimestampsAndComparators_1 : (([0, 3, 7, 11, 14, 15, 16].all fun cl => tTs cl (tsS [(Reg.capEnable,5,1),(Reg.capEdge,5,2),(Reg.timePpsOutEnable,0,1),(Reg.timePpsOutOffsetNs,0,1000),(Reg.trigAction,50,7)] [(1,2,3),(4,5,6)] [(7,true),(8,false)] []) 50 ⟨0,0,0,0⟩ false) &&
    ([2, 4, 5, 17].all fun cl => [8].any (fun q => tTs' cl (tsS [] [] [] []) q)) &&
    ([9, 10].all fun cl => tTs cl (tsS [(Reg.trigArmed,7,1)] [] [] [(Reg.trigCompareNs,7,2000)]) 7 ⟨3000,0,2,5⟩ false) &&
    ([8, 12].all fun cl => tTs cl (let s := (tsS [(Reg.trigArmed,7,1)] [] [] [(Reg.trigCompareNs,7,1000),(Reg.trigAction,7,2),(Reg.trigTarget,7,5)]); { s with clock := { s.clock with stepTo := some 1000 } }) 7 ⟨3000,0,9,5⟩ false) &&
    (tTs 1 (tsS [] (List.replicate 64 (1,2,3)) [(7,true),(8,false)] []) 50 ⟨0,0,0,0⟩ false) &&
    (tTs 6 (tsS [(Reg.trigArmed,50,1)] [] [] [(Reg.trigCompareNs,50,2000)]) 50 ⟨0,0,0,0⟩ true)) = true := by decide +kernel
theorem wit_TimestampsAndComparators_2 : ((tTs 13 (tsS [(Reg.trigArmed,7,1)] [] [] [(Reg.trigCompareNs,7,100),(Reg.trigPeriodNs,7,300),(Reg.trigAction,7,5),(Reg.trigTarget,7,5)]) 7 ⟨3000,0,2,5⟩ false)) = true := by decide +kernel

end W09

/-! ### radio -/

namespace W10

/-- The hypotheses of clause `cl` of Obligations.FapiRingsAndCellRequests, its clauses counted in their order. -/
def hyps_FapiRingsAndCellRequests (cl : Nat) (s : State) (ring : BitVec 4) (value : BitVec 32) (cell : BitVec 9) (tlvs : List CfgTlv) (sfn : BitVec 10) (slot : BitVec 7) (p : CellPlan) (core : Fin 64) : Bool :=
  let r := ring.toNat
  let c := cell.toNat
  let n := 2 ^ rd s Reg.fapiRingReqLog2 r
  let up := reachable s (0x820018 + 64 * r) = true
  let okLog := 2 ≤ rd s Reg.fapiRingReqLog2 r ∧ rd s Reg.fapiRingReqLog2 r ≤ 12
  let head := rd s Reg.fapiRingReqHead r % n
  let at_ := rd s Reg.fapiRingReqBase r + 32 * head
  let e := leNat (hostBytes s (rd s Reg.fapiRingPasid r) at_ 32)
  let start := slotStart s p.mu sfn.toNat slot.toNat
  ((cl == 0 && decide (reachable s (0x820018 + 64 * r) = false)) ||
    (cl == 1 && decide (up) && decide (n ≤ value.toNat)) ||
    (cl == 2 && decide (up) && decide (okLog) && decide (value.toNat < n) && decide (rd s Reg.fapiRingEnable r = 0)) ||
    (cl == 3 && decide (up) && decide (okLog) && decide (value.toNat < n) && decide (rd s Reg.fapiRingEnable r = 1) && decide (value.toNat = (head + 1) % n) && decide (hostOk s (rd s Reg.fapiRingPasid r) at_ 32 = true) && decide (bitsOf e 48 16 = 0) && decide (bitsOf e 105 7 = 0) && decide (bitsOf e 129 127 = 0) && decide (bitsOf e 64 32 ≤ 4194304)) ||
    (cl == 4 && decide (cellSt s c ≠ 0)) ||
    (cl == 5 && decide (cellSt s c = 0)) ||
    (cl == 6 && decide (cellPlan s c = some p) && decide (cellSt s c = 2 ∨ cellSt s c = 3) && decide (tlvs.any (tlvBad p) = false)) ||
    (cl == 7 && decide (cellPlan s c = some p) && decide (cellSt s c = 2 ∨ cellSt s c = 3) && decide (tlvs.any (tlvBad p) = true)) ||
    (cl == 8 && decide (cellPlan s c = some p) && decide (cellSt s c = 1 ∨ cellSt s c = 4 ∨ cellSt s c = 5)) ||
    (cl == 9 && decide (cellSt s c = 3)) ||
    (cl == 10 && decide (cellSt s c ≠ 3) && decide (cellSt s c ≠ 0)) ||
    (cl == 11 && decide (cellSt s c = 4)) ||
    (cl == 12 && decide (cellSt s c ≠ 4) && decide (cellSt s c ≠ 0)) ||
    (cl == 13 && decide (cellPlan s c = some p) && decide (cellSt s c = 4 ∨ cellSt s c = 5) && decide (mapGet s.radio.startNs c 0 ≤ start) && decide (start ≤ s.clock.ns + 1000 * p.p7LeadUs)) ||
    (cl == 14 && decide (cellPlan s c = some p) && decide (cellSt s c ≠ 4 ∧ cellSt s c ≠ 5 ∨ s.clock.ns + 1000 * p.p7LeadUs < start)))

/-- The hypotheses of clause `cl` of Obligations.SlotRequestsAndSieve, its clauses counted in their order. -/
def hyps_SlotRequestsAndSieve (cl : Nat) (s : State) (ring : BitVec 4) (cell : BitVec 9) (sfn : BitVec 10) (slot : BitVec 7) (sym : BitVec 4) (pdus : List Pdu) (p : CellPlan) (g : FapiGroup) (tb : UlBlock) (mu : BitVec 2) (aff : BitVec 16) (e : BitVec 6) (core : Fin 64) (j : SieveJob) : Bool :=
  let c := cell.toNat
  let key := slotKey10 c sfn.toNat slot.toNat
  let found := cellPlan s c = some p ∧ s.radio.groups.find? (fun g => g.ring == ring.toNat && g.cell == c && g.sfn == sfn.toNat && g.slot == slot.toNat) = some g
  let active := cellSt s c = 4 ∨ cellSt s c = 5
  let lead := g.publishNs + 1000 * p.p7LeadUs
  let start := slotStart s p.mu sfn.toNat slot.toNat
  let due := sortBy capBefore (dueTbs s mu.toNat sfn.toNat slot.toNat)
  let on := fun (lo hi : Nat) => lo ≤ e.toNat ∧ e.toNat ≤ hi ∧ rd s Reg.sieveEngEnabled e.toNat = 1 ∧ rd s Reg.sieveEngQuarantined e.toNat = 0
  (([0, 1].contains cl && (decide (found) && decide (active) && decide (lead ≤ start) && decide (pdus.all (·.supported) = true) && (cl == 0 ||
              (cl == 1 && decide (pdus.filterMap (·.tb) = [tb]) && decide (tb.retx = false) && decide ((mapGet s.radio.harq c []).length < p.harqBuffers))))) ||
    (cl == 2 && decide (found) && decide (active) && decide (start < lead)) ||
    (cl == 3 && decide (due = [])) ||
    (cl == 4 && ((due).any (fun d => decide (due = [d]) && decide (cellPlan s d.cell = some p) && (
          let b := decoders s * (slotStart s mu.toNat sfn.toNat slot.toNat + 1000 * (p.indDeadlineUs - 20) - s.clock.ns) * 40
          decide (d.work d.maxIter ≤ b) && decide (0 < b) && decide (p.indDeadlineUs < 2 ^ 32) && decide (d.maxIter * 65536 < 2 ^ 32) && cl == 4)))) ||
    (cl == 5 && decide (cellPlan s c = some p) && decide (symStart s p sfn.toNat slot.toNat sym.toNat + p.rxCloseNs ≤ s.clock.ns)) ||
    (cl == 6 && decide (cellPlan s c = some p) && decide (s.clock.ns < symStart s p sfn.toNat slot.toNat sym.toNat + p.rxCloseNs)) ||
    (cl == 7 && decide (cellPlan s c = some p) && decide (s.clock.ns < start + 1000 * p.indDeadlineUs)) ||
    (cl == 8 && decide (cellPlan s c = some p) && decide (start + 1000 * p.indDeadlineUs ≤ s.clock.ns) && decide (active) && decide (key ∉ s.radio.written)) ||
    (cl == 9 && decide (cellPlan s c = some p) && decide (start + 1000 * p.indDeadlineUs ≤ s.clock.ns) && decide (active) && decide (key ∈ s.radio.written)) ||
    (cl == 10 && decide (s.radio.jobs = [j]) && decide (on 0 31) && decide (j.op = 1)) ||
    (cl == 11 && decide (s.radio.jobs = [j]) && decide (on 32 47) && decide (j.op = 2)) ||
    (cl == 12 && decide (s.radio.jobs = [j]) && decide (on 48 55) && decide (j.op = 3)) ||
    (cl == 13 && decide (s.radio.jobs = [j]) && decide (on 56 63) && decide (j.op = 4)) ||
    (cl == 14 && decide (s.radio.jobs = [] ∨ rd s Reg.sieveEngEnabled e.toNat = 0 ∨ rd s Reg.sieveEngQuarantined e.toNat = 1)))

/-- The hypotheses of clause `cl` of Obligations.FronthaulFrames, its clauses counted in their order. -/
def hyps_FronthaulFrames (cl : Nat) (s : State) (cell : BitVec 9) (fr : UFrame) (lport : BitVec 5) (id : BitVec 8) (port : BitVec 6) (a4 : BitVec 32) (a6 : BitVec 128) (sfn : BitVec 10) (slot : BitVec 7) (sym : BitVec 4) (p : CellPlan) (x : FhSection) (f : FhFrame) (b : Nat × List Nat) : Bool :=
  let c := cell.toNat
  let sk := symKey c sfn.toNat slot.toNat sym.toNat
  let l := lport.toNat / 4
  let air := symStart s p fr.sfn fr.slot fr.symbol
  let key := p.lport * 65536 + fr.eaxc % 65536
  let d := match mapFind s.radio.rxSeq key with
    | none => 1
    | some l => (fr.seq.toNat + 256 - l) % 256
  let inWindow := air + p.rxCloseNs ≥ s.clock.ns ∧ s.clock.ns ≥ air + p.rxOpenNs ∧ d < 128
  let mine := s.radio.sections.filter (fun x => x.of c sfn.toNat slot.toNat sym.toNat)
  let tokens := mapGet (fillTokens s c p).radio.tokens c 0
  let need := f.bytes * 8 * 1000000000
  let sAt := fun (p : CellPlan) => symStart s p sfn.toNat slot.toNat sym.toNat
  let open_ := fun (p : CellPlan) => cellPlan s c = some p ∧ sAt p ≤ s.clock.ns + p.txOpenNs
  let ended := fun (p : CellPlan) => cellPlan s c = some p ∧ sAt p ≤ s.clock.ns + p.txCloseNs
  let waiting := s.radio.frames.filter (fun x => x.of c sfn.toNat slot.toNat sym.toNat)
  ((cl == 0 && decide (cellPlan s c = some p) && decide (p.lport < 32) && decide (cellSt s c = 4) && decide (inWindow) && decide (fr.prbs = [b]) && decide (fr.startPrb < p.nPrb) && decide (fr.startPrb < 1024)) ||
    (cl == 1 && decide (cellPlan s c = some p) && decide (p.lport < 32) && decide (cellSt s c = 4) && decide (¬ inWindow)) ||
    cl == 2 ||
    (cl == 3 && decide (cellPlan s c = some p) && decide (s.clock.ns + p.txOpenNs < sAt p)) ||
    (cl == 4 && decide (cellPlan s c = some p) && decide (s.clock.ns + p.txCloseNs < sAt p)) ||
    (cl == 5 && decide (open_ p) && decide (cellSt s c = 4) && decide (sk ∉ s.radio.cLate) && decide (mine = [])) ||
    (cl == 6 && (decide (open_ p) && decide (p.lport < 32) && decide (cellSt s c = 4) && decide (sk ∉ s.radio.cLate) && decide (mine = [x]) && decide (x.prbs = 1) && decide (p.adaptive = false) && decide (s.mem.err = []) && decide (let data := (List.range 48).map (fun i => memDeliver s (x.pa + i)); f = { cell := x.cell, sfn := x.sfn, slot := x.slot, sym := x.sym, eaxc := x.eaxc, section_ := x.section_, startPrb := x.startPrb, width := p.wNom, prbs := [bfpCompress (prbParts data) p.wNom], bytes := frameBytes p.dynHeader 1 p.wNom, core := x.core }) && decide (need ≤ tokens) && cl == 6)) ||
    (cl == 7 && decide (open_ p) && decide (sk ∈ s.radio.cLate)) ||
    (cl == 8 && decide (ended p) && decide (p.lport < 32) && decide (cellSt s c = 4) && decide (sk ∉ s.radio.cLate) && decide (mine = []) && decide (waiting = [f]) && decide (need ≤ tokens)) ||
    (cl == 9 && decide (ended p) && decide (cellSt s c = 4) && decide (sk ∉ s.radio.cLate) && decide (mine = []) && decide (waiting = [f]) && decide (tokens < need) && decide (f.core < 64) && decide (c < 384)))

def tRd (cl : Nat) (s : State) (v : BitVec 32) (tlvs : List CfgTlv) (slot : BitVec 7) : Bool := decide (hyps_FapiRingsAndCellRequests cl s 3 v 2 tlvs (BitVec.ofInt 10 (-(Config.sfnEpoch : Int))) slot pl0 1)
def tb0 : UlBlock := ⟨9, 4, false, [⟨false, 384, 20000, 3⟩]⟩
def gS (st pub : Nat) (jobs : List SieveJob) (l : List (Fld × Nat × Nat)) : State :=
  let s := rdS st ([(Reg.caps0DramLots,0,64), (Reg.lotOwnerOwner, 4, 0x3FE), (Reg.sieveEngEnabled, 3, 1), (Reg.sieveEngEnabled, 40, 1), (Reg.sieveEngEnabled, 50, 1), (Reg.sieveEngEnabled, 60, 1)] ++ l)
  let s := putCore s 1 ((getCore s 1).setReg 0x45 1)
  { s with clock := { s.clock with ns := 20000000 }, radio := { s.radio with groups := [⟨3, 2, (2 + 1024 - Config.sfnEpoch % 1024) % 1024, 5, 0, 0, pub⟩], jobs := jobs, work := [⟨.ulTti, 2, 7, 3, [⟨true, 0, 1, 0, 1, some tb0⟩]⟩] } }
def tG (cl : Nat) (s : State) (slot : BitVec 7) (e : BitVec 6) (fn : BitVec 10) : Bool := decide (hyps_SlotRequestsAndSieve cl s 3 2 fn slot 3 [⟨true, 0, 1, 0, 1, some tb0⟩] pl0 (s.radio.groups.headD default) tb0 1 7 e 1 (s.radio.jobs.headD ⟨0, 0, false⟩))
def jb (op : Nat) : SieveJob := { core := 1, mute := false, desc := bits [(0,1), (4, op), (8, 2), (26, if op = 1 then 8 else 0), (224, 4 * 2^30)] }
def fS (ns : Nat) (secs : List FhSection) (frs : List FhFrame) (cl : List Nat) (tok : Nat) : State := let s := gS 4 0 [] []
  { s with mem := memPutBytes (lineKey s) s.mem (4*2^30) ((List.range 48).map (BitVec.ofNat 8 ·)), clock := { s.clock with ns := ns }, net := { s.net with v4 := [(14, 77)] }, radio := { s.radio with sections := secs, frames := frs, cLate := cl, tokens := [(2, tok)], tokensNs := [(2, ns)] } }
def sec0 : FhSection := { (default : FhSection) with core := 1, cell := 2, sfn := sfn0, slot := 5, sym := 3, startPrb := 1, prbs := 1, pa := 4*2^30, eaxc := 7 }
def fr0 : FhFrame := { cell := 2, sfn := sfn0, slot := 5, sym := 3, eaxc := 7, section_ := 0, startPrb := 1, width := 9, prbs := [bfpCompress (prbParts ((List.range 48).map (BitVec.ofNat 8 ·))) 9], bytes := frameBytes false 1 9, core := 1 }
def uf (seq : BitVec 8) : UFrame := { sfn := sfn0, slot := 5, symbol := 3, eaxc := 7, seq := seq, width := none, startPrb := 1, prbs := [(2, List.range 24)] }
def tF (cl : Nat) (s : State) (a4 : BitVec 32) (u : UFrame) : Bool := decide (hyps_FronthaulFrames cl s 2 u 7 9 14 a4 5 (BitVec.ofNat 10 sfn0) 5 3 pl0 sec0 fr0 (2, List.range 24))

theorem wit_FapiRingsAndCellRequests : ((tRd 0 (withRegs (rdS 1 []) [(Reg.readyFnState, 3, 0)]) 1 [] 1) &&
    ([1, 4, 8, 10, 11].all fun cl => [4].any (fun k => tRd cl (rdS k []) (1 + k * 2) [] 1)) &&
    ([2, 6, 9, 12].all fun cl => [3].any (fun k => tRd cl (rdS k [(Reg.fapiRingEnable, 3, 0), (Reg.fapiRingEnable, 0, 0)]) (1 + k) [.set .carrierFreq 0] 0)) &&
    ([3, 5, 14].all fun cl => [0].any (fun k => tRd cl (rdS k []) (1 + k * 2) [] 1)) &&
    ([2].any (fun k => tRd 7 (rdS k [(Reg.fapiRingIndLog2, 3, 1)]) (1 + k) [.unsupported 3] 0))) = true := by decide +kernel
theorem wit_FronthaulFrames : ((tF 2 (fS 22700000 [] [fr0] [] 5) 78 (uf 3))) = true := by decide +kernel
theorem wit_SlotRequestsAndSieve : (([3, 10].all fun cl => [(1,3)].any (fun e => tG cl (gS 4 (30 * 10^6) [jb e.1] []) 3 (BitVec.ofNat 6 e.2) 9)) &&
    ([(2,40)].any (fun e => tG 11 (gS 4 (30 * 10^6) [jb e.1] []) 3 (BitVec.ofNat 6 e.2) 9)) &&
    ([(3,50)].any (fun e => tG 12 (gS 4 (30 * 10^6) [jb e.1] []) 3 (BitVec.ofNat 6 e.2) 9)) &&
    ([(4,60)].any (fun e => tG 13 (gS 4 (30 * 10^6) [jb e.1] []) 3 (BitVec.ofNat 6 e.2) 9)) &&
    (tG 14 (gS 4 1000 [] []) 5 3 (BitVec.ofNat 10 ((2 + 1024 - Config.sfnEpoch % 1024) % 1024)))) = true := by decide +kernel

end W10

/-! ### chisel -/

namespace W11

/-- The hypotheses of clause `cl` of Obligations.ScalarInstructions, its clauses counted in their order. -/
def hyps_ScalarInstructions (cl : Nat) (s : State) (core : BitVec 6) (gd ga gb : BitVec 5) (imm : BitVec 12) (imm17 : BitVec 17) (sat last : Bool) : Bool :=
  let n := core.toNat
  let c := getCore s n
  let a := c.g ga.toNat
  let b := c.g gb.toNat
  ((cl == 0 && decide (mayIssue s n = true) && decide (a < 2 ^ 32) && decide (b < 2 ^ 32)) ||
    (cl == 1 && decide (mayIssue s n = true) && decide (a < 2 ^ 32) && decide (b < 32)) ||
    (cl == 2 && decide (mayIssue s n = true) && decide (a < 2 ^ 32) && decide (imm.toNat < 32)) ||
    (cl == 3 && decide (mayIssue s n = true) && decide (32 ≤ b)) ||
    (cl == 4 && decide (mayIssue s n = true) && decide (32 ≤ imm.toNat)) ||
    (cl == 5 && decide (mayIssue s n = false)))

/-- The hypotheses of clause `cl` of Obligations.LoopsSetTheirLevel, its clauses counted in their order. -/
def hyps_LoopsSetTheirLevel (cl : Nat) (s : State) (core : BitVec 6) (gs : BitVec 5) (level : BitVec 2) (lend : BitVec 13) (count lendi : BitVec 10) (last : Bool) : Bool :=
  let n := core.toNat
  let c := getCore s n
  let k := level.toNat
  ((cl == 0 && decide (mayIssue s n = true) && decide (c.delay = 0) && decide (c.pc % 16 = 0) && decide (k ≠ 3) && decide (lend ≠ 0) && decide (c.g gs.toNat < 2 ^ 16) && decide (c.pc + 16 * lend.toNat + 16 < 0x20000)) ||
    (cl == 1 && decide (mayIssue s n = true) && decide (c.delay = 0) && decide (c.pc % 16 = 0) && decide (k ≠ 3) && decide (lendi ≠ 0) && decide (c.pc + 16 * lendi.toNat + 16 < 0x20000)) ||
    (cl == 2 && decide (mayIssue s n = true) && decide (c.delay = 0) && decide (k ≠ 3) && decide (lend ≠ 0)) ||
    (cl == 3 && decide (mayIssue s n = true) && decide (c.delay = 0) && decide (k ≠ 3) && decide (lendi ≠ 0)) ||
    (cl == 4 && decide (mayIssue s n = true) && decide (c.delay = 0) && decide (k = 3 ∨ lend = 0)) ||
    (cl == 5 && decide (mayIssue s n = true) && decide (c.delay = 0) && decide (k = 3 ∨ lendi = 0)))

/-- The hypotheses of clause `cl` of Obligations.BranchesAndBundles, its clauses counted in their order. -/
def hyps_BranchesAndBundles (cl : Nat) (s : State) (core : BitVec 6) (ga : BitVec 5) (off : BitVec 17) (last : Bool) (k : Fin 3) (p : PendReg) (w : PendMem) (x m : Nat) : Bool :=
  let n := core.toNat
  let c := getCore s n
  let ends := fun (j : Nat) => c.reg (0x18 + j) ≠ 0 ∧ c.reg (0x20 + j) = c.pc
  let loops := c.loopEn = true ∧ ends k.val ∧ (∀ j : Fin 3, k.val < j.val → ¬ ends j.val)
  let noLoop := c.loopEn = false ∨ ∀ j : Fin 3, ¬ ends j.val
  let plain := mayIssue s n = true ∧ c.loopTo = none ∧ c.waitMask = none
  let ok := fun (pc : Nat) => pc % 16 = 0 ∧ pc < 0x20000
  ((cl == 0 && decide (mayIssue s n = true) && decide (c.delay = 0) && decide (c.g ga.toNat < 2 ^ 32)) ||
    (cl == 1 && decide (mayIssue s n = true) && decide (c.delay ≠ 0)) ||
    (cl == 2 && decide (plain) && decide (noLoop) && decide (c.delay ≠ 1) && decide (ok (c.pc + 16))) ||
    (cl == 3 && decide (plain) && decide (noLoop) && decide (c.delay = 1) && decide (c.rti = false) && decide (c.target = some x) && decide (ok x)) ||
    (cl == 4 && decide (plain) && decide (noLoop) && decide (c.delay = 1) && decide (c.rti = false) && decide (c.target = none) && decide (ok (c.pc + 16))) ||
    (cl == 5 && decide (plain) && decide (noLoop) && decide (c.delay = 1) && decide (c.rti = true) && decide (c.pend = []) && decide (c.stores = []) && decide (ok (c.reg 0x29))) ||
    (cl == 6 && decide (plain) && decide (loops) && decide (1 < c.reg (0x18 + k.val)) && decide (c.reg (0x18 + k.val) < 2 ^ 16) && decide (c.pend = []) && decide (c.delay ≠ 1) && decide (ok (c.reg (0x1C + k.val)))) ||
    (cl == 7 && decide (plain) && decide (loops) && decide (c.reg (0x18 + k.val) = 1) && decide (∀ j : Fin 3, j ≠ k → ¬ ends j.val) && decide (c.pend = []) && decide (c.delay ≠ 1) && decide (ok (c.pc + 16))) ||
    (cl == 8 && decide (plain) && decide (noLoop) && decide (c.delay = 0) && decide (¬ ok (c.pc + 16))) ||
    (cl == 9 && decide (mayIssue s n = true) && decide (c.loopTo = none) && decide (noLoop) && decide (c.delay = 0) && decide (c.waitMask = some m) && decide (ok (c.pc + 16))) ||
    (cl == 10 && decide (rd s Reg.chiselCoreState n = 3) && decide (c.reg 0x30 &&& c.waitMask.getD 0 ≠ 0)) ||
    (cl == 11 && decide (c.reg 0x30 &&& c.waitMask.getD 0 = 0)))

def tSc (cl : Nat) (a b : Nat) (imm : BitVec 12) (sat last : Bool) : Bool := decide (hyps_ScalarInstructions cl (cS (gg a b) id) 3 4 1 2 imm 0x1ABCD sat last)
def tBr (cl : Nat) (s : State) (off : BitVec 17) (last : Bool) (k : Fin 3) : Bool := let c := getCore s 3; decide (hyps_BranchesAndBundles cl s 3 1 off last k (c.pend.headD default) (c.stores.headD default) (c.target.getD 0) (c.waitMask.getD 0))

theorem wit_ScalarInstructions : (([0, 1, 2].all fun cl => [true].any (fun l => [true].any (fun k => [(5,7)].any (fun e => [0].any (fun i => tSc cl e.1 e.2 i k l))))) &&
    ([3, 4].all fun cl => [true].any (fun l => [true].any (fun k => [(3,32)].any (fun e => [32].any (fun i => tSc cl e.1 e.2 i k l))))) &&
    (decide (hyps_ScalarInstructions 5 s0 3 4 1 2 4 0x1ABCD true true))) = true := by decide +kernel
theorem wit_LoopsSetTheirLevel : (([0, 1, 2, 3].all fun cl => [0].any (fun k => [1].any (fun e => [0].any (fun v => decide (hyps_LoopsSetTheirLevel cl (cS [(kG 1, v)] id) 3 1 (BitVec.ofNat 2 k) (BitVec.ofNat 13 e) (BitVec.ofNat 10 v) (BitVec.ofNat 10 e) (e + v == 1 || v == 7)))))) &&
    ([4, 5].all fun cl => [0].any (fun k => [0].any (fun e => [0].any (fun v => decide (hyps_LoopsSetTheirLevel cl (cS [(kG 1, v)] id) 3 1 (BitVec.ofNat 2 k) (BitVec.ofNat 13 e) (BitVec.ofNat 10 v) (BitVec.ofNat 10 e) (e + v == 1 || v == 7))))))) = true := by decide +kernel
theorem wit_BranchesAndBundles_1 : (([0, 8, 11].all fun cl => tBr cl (cS [] (fun c => { c with pc := 0x1FFF0 })) 5 true 0) &&
    ([1, 4].all fun cl => tBr cl (cS [] (fun c => { c with delay := 1, pend := [] })) 5 true 0) &&
    (tBr 9 (cS [] (fun c => { c with waitMask := some 4 })) 5 true 0) &&
    ([true].any (fun l => [0].any (fun v => [0].any (fun o => tBr 2 (cS [(kG 1, v)] id) o l 1)))) &&
    (tBr 10 (wr (cS [(0x30, 4)] (fun c => { c with waitMask := some 4 })) Reg.chiselCoreState 3 3) 5 true 0) &&
    ([1].any (fun d => tBr 5 (cS [(0x29, 0x200), (0x2A, 7)] (fun c => { c with delay := d, rti := true, pend := [] })) 5 true 1))) = true := by decide +kernel
theorem wit_BranchesAndBundles_2 : (([true].any (fun l => [1].any (fun d => tBr 3 (cS [(kG 1, 5)] (fun c => { c with delay := d, target := some 0x100 })) 5 l 1))) &&
    ([1].any (fun v => [0].any (fun k => tBr 7 (cS [(0x18+k, v), (0x20+k, 0x40), (0x1C+k, 0x20)] (fun c => { c with pend := [] })) 5 true (Fin.ofNat 3 k)))) &&
    ([2].any (fun v => [0].any (fun k => tBr 6 (cS [(0x18+k, v), (0x20+k, 0x40), (0x1C+k, 0x20)] (fun c => { c with pend := [] })) 5 true (Fin.ofNat 3 k))))) = true := by decide +kernel

end W11

/-! ### chisel2 -/

namespace W12

/-- The hypotheses of clause `cl` of Obligations.MemoryAndSpecialRegisters, its clauses counted in their order. -/
def hyps_MemoryAndSpecialRegisters (cl : Nat) (s : State) (core : BitVec 6) (y post last : Bool) (g : BitVec 5) (v : BitVec 4) (a : BitVec 3) (off : BitVec 12) (num : BitVec 8) : Bool :=
  let n := core.toNat
  let c := getCore s n
  let i := a.toNat
  let ab : Int := c.reg i
  let al : Int := c.reg (8 + i)
  let once := fun (x : Int) => if al = 0 then x else if ab + al ≤ x then x - al else if x < ab then x + al else x
  let ea := fun (size : Nat) => once ((c.reg (0x50 + i) : Int) + off.toInt * size)
  let lo : Int := if y then 0x200000 else 0x100000
  let ok := fun (size : Nat) => ea size % size = 0 ∧ lo ≤ ea size ∧ ea size + size ≤ lo + 0x40000
  let k := num.toNat
  let listed := k ∈ List.range 0x18 ∨ k ∈ [0x18, 0x19, 0x1A, 0x1C, 0x1D, 0x1E, 0x20, 0x21, 0x22, 0x28, 0x29, 0x2A, 0x2B, 0x30, 0x31, 0x38, 0x39, 0x3A,
    0x3B, 0x3C, 0x3D, 0x3E, 0x3F, 0x40, 0x41, 0x42, 0x43, 0x44, 0x45, 0x46, 0x48, 0x49, 0x4A, 0x4B, 0x50, 0x51, 0x52, 0x53, 0x54, 0x55, 0x56, 0x57]
  let ro := k ∈ [0x3B, 0x3F, 0x40, 0x41, 0x44, 0x48, 0x4A, 0x4B]
  decide (mayIssue s n = true) && decide (c.reg (0x10 + i) < 2 ^ 32) && ((cl == 0 && decide (ok 2)) ||
        (cl == 1 && decide (ok 4)) ||
        (cl == 2 && decide (ok 64)) ||
        (cl == 3 && decide (¬ ok 2)) ||
        (cl == 4 && decide (¬ ok 4)) ||
        (cl == 5 && decide (¬ ok 64)) ||
        cl == 6 ||
        (cl == 7 && decide (listed) && decide (k ∉ [0x40, 0x41, 0x48, 0x49, 0x4A, 0x4B])) ||
        (cl == 8 && decide (k = 0x40)) ||
        (cl == 9 && decide (k = 0x41)) ||
        (cl == 10 && decide (k = 0x4A)) ||
        (cl == 11 && decide (k = 0x4B)) ||
        (cl == 12 && decide (k = 0x48)) ||
        (cl == 13 && decide (¬ listed)) ||
        (cl == 14 && decide (ro)) ||
        (cl == 15 && decide (listed) && decide (¬ ro) && decide (k ≠ 0x30) && decide (k ≠ 0x49)) ||
        (cl == 16 && decide (k = 0x49)) ||
        (cl == 17 && decide (k = 0x30)))

/-- The hypotheses of clause `cl` of Obligations.VectorInstructions, its clauses counted in their order. -/
def hyps_VectorInstructions (cl : Nat) (s : State) (core : BitVec 6) (vd va vb : BitVec 4) (ga : BitVec 5) (sh : BitVec 5) (sat conj last : Bool) : Bool :=
  let n := core.toNat
  let c := getCore s n
  let odd := fun (x : BitVec 4) => x.toNat % 2 = 1
  decide (mayIssue s n = true) && decide (∀ k : Fin 16, c.reg (0x200 + k.val) < 2 ^ 512) && (cl == 0 ||
        (cl == 1 && decide (sat = false)) ||
        (cl == 2 && decide (¬ odd vd)) ||
        (cl == 3 && decide (¬ odd vd) && decide (¬ odd va) && decide (¬ odd vb)) ||
        (cl == 4 && decide (¬ odd va)) ||
        (cl == 5 && decide (odd va)) ||
        (cl == 6 && decide (odd vd)) ||
        (cl == 7 && decide (sat = false)))

def mS (l : List (Nat × Nat)) : State := cS (l ++ [(kG 1, 0x80017FFE), (0x12, 0xFFFFFFC0), (kV 1, 2^500 + 77)]) (fun c => (c.store 0x100000 [1,0x80,3,4,5,6,7,8]).store 0x200040 [9,0xF0,1,1])
def tMe (cl : Nat) (s : State) (y post last : Bool) (off num : Nat) : Bool := decide (hyps_MemoryAndSpecialRegisters cl s 3 y post last 1 1 2 (BitVec.ofNat 12 off) (BitVec.ofNat 8 num))
def vv (k : Nat) : Nat := ((List.range 32).map (fun i => ((i * 7919 + k * 40503) * 2654435761 / 2^9 % 65536) * 2^(16*i))).sum
def vS : State := cS ((List.range 16).map (fun k => (kV k, if k = 5 then 2^511 + 0x80008000 else vv k)) ++ [(kG 1, 0x12348765)]) id

theorem wit_MemoryAndSpecialRegisters : (([0, 1, 2].all fun cl => [true].any (fun p => [0].any (fun o => [0x200000].any (fun a => tMe cl (mS [(0x52, a), (2, 0x200000), (10, 0x60)]) true p true o 0x40)))) &&
    ([3, 4, 5, 6, 7, 8, 9, 10, 11, 12, 13, 14, 15, 16, 17].all fun cl => (List.range 0x60 ++ [200]).any (fun k => tMe cl (mS [(k, 5)]) true true false 0 k && tMe cl (mS [(k, 5)]) true true true 0 k))) = true := by decide +kernel
theorem wit_VectorInstructions : (([0, 1, 2, 3, 4, 7].all fun cl => [true].any (fun l => [false].any (fun sa => [true].any (fun cj => [(4,6,8,0)].any (fun e => decide (hyps_VectorInstructions cl vS 3 (BitVec.ofNat 4 e.1) (BitVec.ofNat 4 e.2.1) (BitVec.ofNat 4 e.2.2.1) 1 (BitVec.ofNat 5 e.2.2.2) sa cj l)))))) &&
    ([5, 6].all fun cl => [true].any (fun l => [true].any (fun sa => [true].any (fun cj => [(5,5,5,0)].any (fun e => decide (hyps_VectorInstructions cl vS 3 (BitVec.ofNat 4 e.1) (BitVec.ofNat 4 e.2.1) (BitVec.ofNat 4 e.2.2.1) 1 (BitVec.ofNat 5 e.2.2.2) sa cj l))))))) = true := by decide +kernel

end W12

/-! ### chisel3 -/

namespace W13

/-- The hypotheses of clause `cl` of Obligations.PostsAndCoreEvents, its clauses counted in their order. -/
def hyps_PostsAndCoreEvents (cl : Nat) (s : State) (core : BitVec 6) (a : BitVec 3) (slot : BitVec 2) (word : BitVec 32) (tgt : Fin 64) (p : CellPlan) (x : Stall) (im : L1Image) (e : Nat) : Bool :=
  let n := core.toNat
  let c := getCore s n
  let at_ := c.reg (0x50 + a.toNat)
  let bs := c.bytes at_ 64
  let d := leNat bs
  let inside := at_ % 64 = 0 ∧ ((0x100000 ≤ at_ ∧ at_ + 64 ≤ 0x140000) ∨ (0x200000 ≤ at_ ∧ at_ + 64 ≤ 0x240000))
  let free := c.stall = none ∧ c.cqWait = []
  let posts := mayIssue s n = true ∧ inside ∧ free
  let c' := { c with mid := true, stall := none }
  let op := bitsOf d 4 4
  let ent := bitsOf d 128 256
  let ring := bitsOf d 96 8
  let stag := c.reg 0x46
  let posted := Cmd.fresh (.radio n stag (bitsOf d 36 5)) s.work.nextCid (leNat (c.bytes at_ 128)) 128
  ((cl == 0 && decide (posts) && decide (portFull s n 0 = false) && decide (1 ≤ op) && decide (op ≤ 4) && decide (sieveEngines s op ≠ 0)) ||
    (cl == 1 && decide (mayIssue s n = true) && decide (at_ % 64 = 0) && decide (0x100000 ≤ at_) && decide (at_ + 128 ≤ 0x140000) && decide (free) && decide (portFull s n 1 = false) && decide (headerBad posted (benchCount s) = none) && decide (posted.bodyLen = 1) && decide (posted.opcode = 1 ∨ posted.opcode = 3 ∨ posted.opcode = 6)) ||
    (cl == 2 && decide (posts) && decide (tgt.val = bitsOf d 0 6) && decide (tgt.val < rd s Reg.chiselInfoCores 0) && decide (tgt.val ≠ n) && decide (coreRuns s tgt.val = true) && decide (2 ≤ (getCore s tgt.val).reg 0x3D) && decide ((getCore s tgt.val).reg 0x3D ≤ 12) && decide (((getCore s tgt.val).reg 0x3F + 1) % 2 ^ (getCore s tgt.val).reg 0x3D ≠ (getCore s tgt.val).reg 0x3E % 2 ^ (getCore s tgt.val).reg 0x3D)) ||
    (cl == 3 && decide (posts) && decide (portFull s n 3 = false) && decide (cellPlan s (bitsOf d 2 9) = some p) && decide (fhTxBad s p d = false) && decide (cellSt s (bitsOf d 2 9) = 4) && decide (bitsOf d 0 2 = 0) && decide (s.clock.ns + p.txCloseNs < symStart s p (bitsOf d 15 10) (bitsOf d 25 7) (bitsOf d 11 4))) ||
    (cl == 4 && decide (posts) && decide (ring < 16) && decide (bitsOf d 104 24 = 0) && decide (bitsOf d 384 128 = 0) && decide (bitsOf ent 48 16 = 0) && decide (bitsOf ent 105 7 = 0) && decide (bitsOf ent 129 127 = 0) && decide (bitsOf d 64 32 ≤ 4194304) && decide (inRadioLots s (bitsOf d 0 64) (bitsOf d 64 32) = true) && decide (s.mem.err = []) && decide ((fapiPut s ring ent ((List.range (bitsOf d 64 32)).map (fun i => memDeliver s (bitsOf d 0 64 + i)))).isSome = true)) ||
    (cl == 5 && decide (mayIssue s n = true) && decide (at_ % 64 ≠ 0)) ||
    (cl == 6 && decide (mayIssue s n = true) && decide (at_ % 64 = 0) && decide (¬ inside)) ||
    (cl == 7 && decide (mayIssue s n = true) && decide (inside) && decide (c.stall = none) && decide (portFull s n 0 = true)) ||
    (cl == 8 && decide (c.stall = some x) && decide (x.port = 0) && decide (portFull s n 0 = false) && decide (c.cqWait = []) && decide (x.data.length = 64) && decide (sieveEngines s (bitsOf (leNat x.data) 4 4) ≠ 0)) ||
    (cl == 9 && decide (c.stall = none ∨ c.cqWait ≠ [])) ||
    (cl == 10 && decide (coreRuns s n = true) && decide (c.mid = false) && decide (c.delay = 0) && decide (c.stall = none) && decide (bitOf (c.reg 0x28) 0 = true) && decide (c.reg 0x30 &&& c.reg 0x31 ≠ 0) && decide (c.pend = []) && decide (c.stores = []) && decide (c.reg 0x2B % 16 = 0) && decide (c.reg 0x2B < 0x20000)) ||
    (cl == 11 && decide (bitOf (c.reg 0x28) 0 = false ∨ c.reg 0x30 &&& c.reg 0x31 = 0 ∨ c.delay ≠ 0)) ||
    (cl == 12 && decide (coreRuns s n = true) && decide (c.tcmpArmed = true) && decide (c.reg 0x42 + c.reg 0x43 * 2 ^ 32 ≤ s.clock.ns)) ||
    (cl == 13 && decide (c.tcmpArmed = false ∨ s.clock.ns < c.reg 0x42 + c.reg 0x43 * 2 ^ 32)) ||
    (cl == 14 && decide (coreRuns s n = true) && decide (c.cqWait = [e]) && decide (c.stall = none) && decide (2 ≤ c.reg 0x39) && decide (c.reg 0x39 ≤ 12) && decide ((c.reg 0x3B % 2 ^ c.reg 0x39 + 1) % 2 ^ c.reg 0x39 ≠ c.reg 0x3A % 2 ^ c.reg 0x39)) ||
    (cl == 15 && decide (coreRuns s n = true) && decide (rd s Reg.chiselCfgWdogUs 0 ≠ 0) && decide (c.wdogNs + 1000 * rd s Reg.chiselCfgWdogUs 0 ≤ s.clock.ns)) ||
    (cl == 16 && decide (rd s Reg.chiselCfgWdogUs 0 = 0 ∨ s.clock.ns < c.wdogNs + 1000 * rd s Reg.chiselCfgWdogUs 0)) ||
    (cl == 17 && decide (mayIssue s n = true) && decide (slotIllegal slot.toNat word.toNat = true)) ||
    (cl == 18 && decide (mayIssue s n = true) && decide (word.extractLsb' 22 10 = 0x181#10) && decide (slot = 0) && decide (word.extractLsb' 0 11 = 0) && decide (4 < (word.extractLsb' 18 4).toNat)) ||
    (cl == 19 && decide (mapFind s.images (rd s Reg.chiselCoreImage n) = some im) && decide (rd s Reg.chiselCoreState n = 4) && decide (c.faultNs.length < 3 ∨ c.faultNs.getD 2 0 + 1000000000 < c.faultNs.headD 0)) ||
    (cl == 20 && decide (rd s Reg.chiselCoreState n ≠ 4)))

def pS (d : Nat) (f : Core → Core) (l : List (Fld × Nat × Nat)) : State :=
  let s := rdS 4 ([(Reg.caps0DramLots,0,64), (Reg.lotOwnerOwner, 4, 0x3FE), (Reg.sieveCountLdpcDec, 0, 4), (Reg.chiselInfoCores, 0, 8)] ++ l)
  let m := cS [(0x52, 0x200040), (0x46, 77)] (fun c => f (c.store 0x200040 (leBytes 128 d)))
  { m with
    regs := l.foldl (fun r e => (wr { m with regs := r } e.1 e.2.1 e.2.2).regs) (s.regs.foldl (fun r e => mapSet r e.1 e.2) m.regs)
    radio := s.radio
    host := s.host
    images := [(0, ⟨0x20, [1,2,3], [], []⟩)] }
def tPo (cl : Nat) (s : State) (slot word : Nat) : Bool := let c := getCore s 3; decide (hyps_PostsAndCoreEvents cl s 3 2 (BitVec.ofNat 2 slot) (BitVec.ofNat 32 word) 5 pl0 (c.stall.getD default) ⟨0x20, [1,2,3], [], []⟩ (c.cqWait.headD 0))

theorem wit_PostsAndCoreEvents_1 : (([0, 4, 9, 11, 13, 16, 17, 20].all fun cl => tPo cl (pS (bits [(0,1),(4,1)]) id []) 0 0x06000000) &&
    ([3].any (fun o => tPo 1 (pS (hdr o 1 + 5 * 2^512) (fun c => c.setReg 0x52 0x100000 |>.store 0x100000 (leBytes 128 (hdr o 1 + 5 * 2^512))) [(Reg.caps0BenchCount, 0, 32)]) 0 0)) &&
    (tPo 2 (let s := pS (5 + 0xABCD * 256) id []; putCore s 5 ((((getCore s 5).setReg 0x3C 0x200000).setReg 0x3D 2).setReg 0x3F 3 |>.setReg 0x3E 2)) 0 0) &&
    ([5, 18].all fun cl => tPo cl (pS (bits [(0,1),(4,1)]) (·.setReg 0x52 0x200044) []) 0 0x60600000) &&
    (tPo 6 (pS (bits [(0,1),(4,1)]) (·.setReg 0x52 0x240000) []) 2 (0x60400000 + 5 * 2^18)) &&
    (tPo 7 (let s := pS (bits [(0,1),(4,1)]) id []; { s with radio := { s.radio with jobs := List.replicate 16 ⟨3, 0, false⟩ } }) 0 0)) = true := by decide +kernel
theorem wit_PostsAndCoreEvents_2 : ((tPo 8 (pS 0 (fun c => { c with stall := some ⟨0, leBytes 64 (bits [(0,1),(4,1)]), 5, 100⟩, mid := true }) []) 0 0) &&
    ([10, 12, 15].all fun cl => [1].any (fun st => tPo cl (pS 0 (fun c => { ((c.setReg 0x28 st).setReg 0x30 4 |>.setReg 0x31 6).setReg 0x2B 0x100 with pend := [], tcmpArmed := true }) [(Reg.chiselCfgWdogUs, 0, 1)]) 0 0)) &&
    (tPo 14 (pS 0 (fun c => { ((c.setReg 0x38 0x200000).setReg 0x39 2).setReg 0x3B 1 with cqWait := [0x123456] }) []) 0 0) &&
    (tPo 19 (pS 0 (fun c => { c with faultNs := [5, 3] }) [(Reg.chiselCoreState, 3, 4)]) 0 0)) = true := by decide +kernel

end W13

/-! ### tdfe_sec -/

namespace W14

/-- The hypotheses of clause `cl` of Obligations.StreamsAndChirp, its clauses counted in their order. -/
def hyps_StreamsAndChirp (cl : Nat) (s : State) (st : BitVec 4) (sfn : BitVec 10) (seq : BitVec 16) (b : Bool) (x : BitVec 32) (xs : List (BitVec 32)) (c : StreamCfg) (p : CellPlan) (slot : BitVec 7) (sym : BitVec 4) (pw : List (BitVec 16)) (ch : BitVec 6) (sf : BitVec 4) (hit : ChirpHit) (rec_ : ChirpRec) (d0 : Demod) (stop : Bool × Bool × List (List Nat)) (room : Nat) (m : BitVec 16) (tail tag : BitVec 16) (x0 : ChirpTx) (i : Nat) : Bool :=
  let n := st.toNat
  let k := ch.toNat
  let own := streamKind s n ≠ 0 ∧ mapFind s.tdfe.cfg n = some c ∧ rd s Reg.tdfeStreamLport n < 32 ∧ rd s Reg.tdfeStreamCore n < 64
  let at_ := sampleNs s n sfn.toNat (seq.toNat * c.spp)
  let seqKey := (n * 1024 + sfn.toNat) * 65536 + seq.toNat
  let inWindow := at_ ≤ s.clock.ns ∧ s.clock.ns ≤ at_ + 1000 * c.rxUs ∧ seqKey ∉ s.tdfe.seqs
  let muted := rd s Reg.tdfeStreamMuted n ≠ 0
  let hist := fun (v : Bool) => ((v :: mapGet s.tdfe.hist n []).take 8)
  let ds := mapGet s.tdfe.demods k []
  let on := channelOn s k = true ∧ 6 ≤ sf.toNat ∧ sf.toNat ≤ 12
  let core := rd s Reg.tdfeStreamCore (rd s Reg.chirpChStream k)
  let pre := rd s Reg.chirpChPreMin k
  let found := on ∧ hitDetected hit pre sf.toNat = true
  let marked := hitMarked hit pre sf.toNat (rd s Reg.chirpChMark k) = true
  let ended := ds.find? (fun d => d.sf == sf.toNat) = some d0 ∧ packetStop (rd s Reg.chirpChMaxSymbols k) rec_.syms = some stop ∧ core < 64
  let bs := chirpRecord k d0 rec_.rssiQ rec_.snrQ stop
  let due := s.clock.ns + 1000 * c.leadUs ≥ at_
  let quiet := s.cfg.pending = []
  let txOk := rd s Reg.caps1Chirp 0 ≠ 0 ∧ inRadioLots s s.tdfe.txBase (64 * 2 ^ s.tdfe.txLog) = true
  let entry := leNat (runBytes s [(s.tdfe.txBase + 64 * (s.tdfe.txHead % 2 ^ s.tdfe.txLog), 64)])
  let symbols := (List.range (bitsOf entry 112 11)).map (fun i => leNat (runBytes s [(bitsOf entry 128 39 + 2 * i, 2)]))
  ((cl == 0 && decide (own) && decide (inWindow) && decide (xs.length + 1 = c.spp)) ||
    (cl == 1 && decide (own) && decide (¬ inWindow) && decide (xs.length + 1 = c.spp)) ||
    (cl == 2 && decide (own) && decide (b = false ∨ xs.length ≠ c.spp)) ||
    (cl == 3 && decide (own) && decide (due) && decide (muted)) ||
    (cl == 4 && decide (own) && decide (¬ due)) ||
    (cl == 5 && decide (own) && decide (due) && decide (¬ muted)) ||
    (cl == 6 && decide (own) && decide (due) && decide (¬ muted) && decide (streamKind s n = 2)) ||
    (cl == 7 && decide (own) && decide (streamKind s n = 1) && decide (cellPlan s (rd s Reg.tdfeStreamCell n) = some p)) ||
    (cl == 8 && decide (streamKind s n ≠ 0) && decide (quiet) && decide (maskHit s n pw = none) && decide (rdLive s Reg.tdfeStreamSegCount n ≤ 32)) ||
    (cl == 9 && decide (streamKind s n ≠ 0) && decide (quiet) && decide (maskHit s n pw = some (i, room)) && decide (rdLive s Reg.tdfeStreamSegCount n ≤ 32) && decide (rdLive s Reg.tdfeStreamNViol n < ((hist true).filter id).length) && decide (rd s Reg.tdfeStreamCore n < 64)) ||
    (cl == 10 && decide (reachable s (0xB00118 + 64 * n) = true) && decide (streamKind s n ≠ 0)) ||
    (cl == 11 && decide (reachable s (0xB00118 + 64 * n) = true) && decide (rd s Reg.caps1Tdfe 0 = 0)) ||
    (cl == 12 && decide (reachable s (0xB00118 + 64 * n) = true) && decide (rd s Reg.caps1Tdfe 0 = 1) && decide (streamKind s n = 0)) ||
    (cl == 13 && decide (streamKind s n = 0)) ||
    (cl == 14 && decide (on) && decide (hitDetected hit pre sf.toNat = false)) ||
    (cl == 15 && decide (found) && decide (marked) && decide (ds.length < 2) && decide (sf.toNat ∉ ds.map (·.sf))) ||
    (cl == 16 && decide (found) && decide (marked) && decide (2 ≤ ds.length ∨ sf.toNat ∈ ds.map (·.sf))) ||
    (cl == 17 && decide (found) && decide (¬ marked)) ||
    (cl == 18 && decide (ended) && decide (bs.length ≤ room) && decide (s.tdfe.rxTail + bs.length ≤ s.tdfe.rxSize) && decide (inRadioLots s s.tdfe.rxBase s.tdfe.rxSize = true) && decide (keyKept s (s.tdfe.rxBase + s.tdfe.rxTail) bs.length = true) && decide (s.mem.err = [])) ||
    (cl == 19 && decide (ended) && decide (room < bs.length)) ||
    (cl == 20 && decide (sf.toNat ∉ ds.map (·.sf) ∨ packetStop (rd s Reg.chirpChMaxSymbols k) rec_.syms = none)) ||
    (cl == 21 && decide (channelOn s k = true) && decide (rd s Reg.chirpChNoiseFloor k = 0x8000)) ||
    (cl == 22 && decide (channelOn s k = true) && decide (rd s Reg.chirpChNoiseFloor k ≠ 0x8000) && decide (rd s Reg.chirpChNoiseFloor k < 2 ^ 16)) ||
    cl == 23 ||
    (cl == 24 && decide (txOk) && decide (tail.toNat % 2 ^ s.tdfe.txLog = s.tdfe.txHead % 2 ^ s.tdfe.txLog)) ||
    (cl == 25 && decide (txOk) && decide (s.mem.err = []) && decide (tail.toNat < 2 ^ s.tdfe.txLog) && decide (tail.toNat = (s.tdfe.txHead % 2 ^ s.tdfe.txLog + 1) % 2 ^ s.tdfe.txLog) && decide (s.tdfe.txLog ≠ 0) && decide (chirpTxBad s entry symbols = false) && decide (bitsOf entry 0 64 = 0)) ||
    (cl == 26 && decide (txOk) && decide (s.mem.err = []) && decide (tail.toNat < 2 ^ s.tdfe.txLog) && decide (tail.toNat = (s.tdfe.txHead % 2 ^ s.tdfe.txLog + 1) % 2 ^ s.tdfe.txLog) && decide (s.tdfe.txLog ≠ 0) && decide (bitsOf entry 208 304 ≠ 0)) ||
    (cl == 27 && decide (s.tdfe.tx = [x0]) && decide (x0.channel = k) && decide (x0.tag = tag.toNat) && decide (chirpEnd s x0 ≤ s.clock.ns) && decide (core < 64)) ||
    (cl == 28 && decide (s.tdfe.tx = [x0]) && decide (s.clock.ns < chirpEnd s x0)))

def scfg : StreamCfg := { (default : StreamCfg) with spp := 2, rxUs := 100, fftLog := 7, rxTaps := [32767, 5], fftOffset := 0 }
def tdS (kind : Nat) (l : List (Fld × Nat × Nat)) (live : List (Fld × Nat × Nat)) (f : Tdfe → Tdfe) : State :=
  let s := rdS 4 ([(Reg.caps1Tdfe,0,1),(Reg.caps1Chirp,0,1),(Reg.tdfeInfoStreams,0,8),(Reg.tdfeStreamKind,3,kind),(Reg.tdfeStreamCore,3,5),(Reg.tdfeStreamRateKhz,3,1920),(Reg.tdfeStreamLport,3,9),(Reg.tdfeStreamCell,3,2),
    (Reg.chirpChEnabled,7,1),(Reg.chirpChPreMin,7,6),(Reg.chirpChMark,7,5),(Reg.chirpChMaxSymbols,7,2),(Reg.chirpChStream,7,3),(Reg.chiselCoreState,5,2),(Reg.caps0DramLots,0,64), (Reg.lotOwnerOwner, 4, 0x3FE)] ++ l)
  let s := live.foldl (fun s e => wrLive s e.1 e.2.1 e.2.2) s
  let s := { s with clock := { s.clock with ns := 20010000 }, tdfe := f { s.tdfe with cfg := [(3, scfg)], rxBase := 4*2^30, rxSize := 4096, rxTail := 128, txBase := 4*2^30+4096, txLog := 2 } }
  putCore s 5 Core.zero
def hit0 (bin m : Int) : ChirpHit := ⟨(List.range 8).map (fun _ => ⟨bin, 100, 2⟩), bin - 20, bin - 20, m, 19000000⟩
def flatSym (k : Nat) : List Nat := (List.range 64).map (fun i => if i = k then 90 else 1)
def dm (sf : Nat) (o : Bool) : Demod := ⟨sf, o, 5, -7, 9, 100⟩
def tTdH (cl : Nat) (h : ChirpHit) (r : ChirpRec) (s : State) (seq : BitVec 16) (b : Bool) (xs : List (BitVec 32)) (pw : List (BitVec 16)) (i room : Nat) (tail : BitVec 16) (sf : BitVec 4 := 9) : Bool :=
  decide (hyps_StreamsAndChirp cl s 3 (BitVec.ofNat 10 sfn0) seq b 0x12345678 xs scfg pl0 5 3 pw 7 sf h r (((mapGet s.tdfe.demods 7 []).find? (fun d => d.sf == sf.toNat)).getD default) ((packetStop (rd s Reg.chirpChMaxSymbols 7) r.syms).getD (false, false, [])) room 0xFFF0 tail 9 ((s.tdfe.tx.headD default)) i)
def tTd (cl : Nat) := tTdH cl (hit0 512 (512 + 256*5)) ⟨-50, 20, [flatSym 3, flatSym 9]⟩
def x9 (st : Nat) : ChirpTx := ⟨7, 9, st, 7, 8, 5, 0, 0, [3]⟩
def etx (s : State) (k : Nat) : State := { s with mem := memPutBytes (lineKey s) (memPutBytes (lineKey s) s.mem (4*2^30+4096) (leBytes 64 (bits [(64,7),(70,7),(80,6),(112,1),(128,4*2^30+5000),(208,k)]))) (4*2^30+5000) (leBytes 2 77) }

theorem wit_StreamsAndChirp_1 : (([2, 8, 10, 15, 20, 21, 23, 24].all fun cl => [2].any (fun k => [0].any (fun q => tTd cl (tdS k [] [] id) q true [7] [] 0 5000 0))) &&
    ([1].any (fun k => [100].any (fun q => tTd 7 (tdS k [] [] id) q true [7] [] 0 5000 0))) &&
    ([0].any (fun a => tTd 9 (tdS 1 [(Reg.tdfeStreamCore,3,5)] [(Reg.tdfeStreamSegCount,3,2),(Reg.tdfeStreamAction,3,a),(Reg.tdfeSegLimit,97,20),(Reg.tdfeSegLimit,96,20)] id) 9 false [7,8] [5,100] 1 80 1)) &&
    ([11, 13].all fun cl => tTd cl (tdS 1 [(Reg.caps1Tdfe,0,0)] [] id) 9 false [7,8] [] 0 3 1) &&
    ([0].any (fun k => [0].any (fun q => tTd 12 (tdS k [] [] id) q true [7] [] 0 5000 0))) &&
    ([(200000,5)].any (fun e => tTdH 14 (hit0 e.1 (e.1 + 256 * e.2)) ⟨-50, 20, [flatSym 3]⟩ (tdS 2 [] [] (fun t => { t with demods := [(7, [dm 8 false])] })) 9 false [7,8] [5,0xFFF0] 1 8 1))) = true := by decide +kernel
theorem wit_StreamsAndChirp_2 : (([16, 19].all fun cl => [[dm 9 false]].any (fun d => tTd cl (tdS 2 [] [] (fun t => { t with demods := [(7, d)] })) 9 false [7,8] [5,0xFFF0] 1 8 1)) &&
    ([17, 18].all fun cl => [dm 9 true].any (fun d => tTdH cl (hit0 0 0) ⟨-50, 20, [flatSym 3, flatSym 9]⟩ (tdS 2 [] [] (fun t => { t with demods := [(7, [d])], rxTail := 0 })) 9 false [7,8] [5,0xFFF0] 1 4096 1)) &&
    (tTd 22 (tdS 2 [(Reg.chirpChNoiseFloor,7,0xFF00)] [] id) 9 false [7,8] [5,0xFFF0] 1 8 1) &&
    ([25, 28].all fun cl => [(0,0)].any (fun e => tTd cl (etx (tdS 2 [] [] (fun t => { t with tx := [x9 e.1] })) e.2) 9 false [7,8] [5,0xFFF0] 1 8 1)) &&
    ([(20000000,1)].any (fun e => tTd 26 (etx (tdS 2 [] [] (fun t => { t with tx := [x9 e.1] })) e.2) 9 false [7,8] [5,0xFFF0] 1 8 1)) &&
    ((let s := tdS 2 [] [] (fun t => { t with tx := [x9 1000] }); tTd 27 { s with clock := { s.clock with ns := 10^12 } } 9 true [7,8] [5,0xFFF0] 1 8 9))) = true := by decide +kernel

end W14

/-! ### security -/

namespace W15

/-- The hypotheses of clause `cl` of Obligations.SecurityRequests, its clauses counted in their order. -/
def hyps_SecurityRequests (cl : Nat) (s : State) (b1 b2 b3 b4 : Bool) (r : ReportSt) (kr : KeyReq) (pl : List Byte) (d : Nat) (idx : BitVec 3) (obj : List Byte) (core : Fin 64) (i : Nat) : Bool :=
  let x := rd s Reg.secMrExtendIndex 0
  let f := rd s Reg.secAttestFn 0
  let out := rd s Reg.secAttestOut 0
  let lives := fun (f : Nat) => f ≠ 0 ∧ f ≤ rd s Reg.tenInfoVfs 0 ∧ vfState s f ≠ 0
  let ident := rd s Reg.secStatusIdentityOk 0 ≠ 0
  let blob := rd s Reg.secKeyBlob 0
  let word := fun (o n : Nat) => leNat ((pl.drop o).take n)
  let noLots := ∀ n ∈ List.range 384, rd s Reg.lotOwnerOwner n ≠ kr.fn
  let good := kr.plain = some pl ∧ lives kr.fn ∧ word 32 2 = kr.fn
  let turn := s.boot.l1[idx.toNat]? = some obj ∧ fnReady s 13 = true ∧ (∀ j ∈ List.range idx.toNat, rd s Reg.chiselImageStatus j ≠ 0) ∧
    rd s Reg.chiselImageStatus idx.toNat = 0
  ((cl == 0 && decide (5 ≤ x) && decide (x < 8)) ||
    (cl == 1 && decide (x < 5)) ||
    (cl == 2 && decide (s.sec.report = none) && decide (ident) && decide (f ≤ 512) && decide (f = 0 ∨ lives f) && decide (out % 64 = 0) && decide (inReserve s out 512 = true)) ||
    (cl == 3 && decide (s.sec.report = none) && decide (ident) && decide (f ≠ 0) && decide (¬ lives f)) ||
    (cl == 4 && decide (s.sec.report = none) && decide (¬ ident)) ||
    (cl == 5 && decide (s.sec.report = none) && decide (ident) && decide (f = 0 ∨ lives f) && decide (out % 64 ≠ 0 ∨ inReserve s out 512 = false)) ||
    (cl == 6 && decide (s.sec.report = some r) && decide (s.sec.d = some d) && decide (r.bytes.length = 448)) ||
    (cl == 7 && decide (s.sec.keyReq = none) && decide (s.sec.d = some d) && decide (inReserve s blob 161 = true)) ||
    (cl == 8 && decide (s.sec.keyReq = none) && decide (s.sec.d = some d) && decide (inReserve s blob 161 = false)) ||
    (cl == 9 && decide (s.sec.keyReq = some kr) && decide (good) && decide (pl.length = 64) && decide ((pl.drop 34).all (· == 0) = true) && decide (pl.take 16 ≠ (pl.drop 16).take 16) && decide (noLots) && decide (kr.fn ≤ 512)) ||
    (cl == 10 && decide (s.sec.keyReq = some kr) && decide (kr.fn ≤ 512) && decide (kr.plain = none ∨ (kr.plain = some pl ∧ (word 32 2 ≠ kr.fn ∨ ¬ lives kr.fn)))) ||
    (cl == 11 && decide (s.sec.keyReq = some kr) && decide (kr.fn ≤ 512) && decide (good) && decide ((pl.drop 34).any (· != 0) = true ∨ pl.take 16 = (pl.drop 16).take 16)) ||
    (cl == 12 && decide (s.sec.keyReq = some kr) && decide (kr.fn ≤ 512) && decide (good) && decide (pl.length = 64) && decide ((pl.drop 34).all (· == 0) = true) && decide (pl.take 16 ≠ (pl.drop 16).take 16) && decide (¬ noLots)) ||
    cl == 13 ||
    (cl == 14 && decide (inReserve s (rd s Reg.secDebugToken 0) 288 = true)) ||
    (cl == 15 && decide (s.sec.chalOpen = false)) ||
    (cl == 16 && decide (rd s Reg.secSvnRunFw 0 < 2 ^ 16) && decide (rd s Reg.secSvnRunImg 0 < 2 ^ 16) && decide (rd s Reg.secSvnRunL1 0 < 2 ^ 16)) ||
    (cl == 17 && decide (turn)) ||
    (cl == 18 && decide (¬ turn) && decide (s.boot.l1[idx.toNat]? = some obj)))

def seS (l : List (Fld × Nat × Nat)) (d : Option Nat) : State :=
  let s := withRegs (ready s0) ([(Reg.secStatusIdentityOk,0,1),(Reg.caps0DramLots,0,64),(Reg.lotOwnerOwner,3,0x3FD),(Reg.vfCtlState,2,1),(Reg.vfCtlState,3,1),(Reg.readyFnState,13,2),(Reg.caps1ChiselCount,0,8),(Reg.lotOwnerOwner,9,3)] ++ l)
  { s with sec := { s.sec with d := d, chalOpen := true } }
def tSe (cl : Nat) (s : State) (b1 b2 b3 b4 : Bool) (idx : BitVec 3) (core : Fin 64) : Bool :=
  decide (hyps_SecurityRequests cl s b1 b2 b3 b4 (s.sec.report.getD default) (s.sec.keyReq.getD default) (((s.sec.keyReq.getD default).plain).getD []) ((s.sec.d).getD 0) idx ((s.boot.l1[idx.toNat]?).getD []) core 5)
def pt (f a b : Nat) (n : Nat := 30) : List Byte := leBytes 16 a ++ leBytes 16 b ++ leBytes 2 f ++ leBytes n 0
def tokn (kind level : Nat) (chal : Nat) (svn : Nat := 0) (body : List Byte := []) (dev : Nat := 0) (sg : Nat := 0) : List Byte :=
  let body := if body = [] then leBytes 16 level ++ leBytes 16 chal else body
  body ++ leBytes 256 (bits [(0,1),(4,kind),(8,sg),(16,svn),(64,dev),(128,body.length),(256,digest body),(512,2)])
def l1b (ver mask : Nat) (ilen : Nat := 16) : List Byte := leBytes 64 (bits [(0,ver),(64,mask),(128,0x20),(160,ilen),(192,4),(224,4)]) ++ leBytes (ilen + 8) 0x123456

theorem wit_SecurityRequests_1 : (([1, 5, 8, 13, 15, 16].all fun cl => tSe cl (let s := seS [] (some 4); { s with sec := { s.sec with chalOpen := false } }) true false false true 0 3) &&
    (tSe 4 (seS [(Reg.secStatusIdentityOk,0,0)] none) false false false true 0 3) &&
    (tSe 7 (let s := seS [(Reg.secKeyBlob,0,3*2^30+5),(Reg.secKeyFn,0,2)] (some 4); s) true false false true 0 3) &&
    ([5].any (fun i => tSe 0 (seS [(Reg.secMrExtendIndex,0,i),(Reg.secMrExtendValue,0,77)] none) true true true true 0 3)) &&
    ([(2, none)].any (fun e => tSe 10 (let s := seS [] (some 4); { s with sec := { s.sec with keyReq := some ⟨e.1, e.2⟩ } }) true false false true 0 3)) &&
    ([(1,5)].any (fun e => tSe 17 (let s := seS [] (some 4); { s with boot := { s.boot with l1 := [tokn 4 0 0 0 (l1b e.1 e.2)] } }) true false false true 0 2))) = true := by decide +kernel
theorem wit_SecurityRequests_2 : (([(2, some (pt 2 5 6))].any (fun e => tSe 9 (let s := seS [] (some 4); { s with sec := { s.sec with keyReq := some ⟨e.1, e.2⟩ } }) true false false true 0 3)) &&
    ([(2, some (pt 2 5 5))].any (fun e => tSe 11 (let s := seS [] (some 4); { s with sec := { s.sec with keyReq := some ⟨e.1, e.2⟩ } }) true false false true 0 3)) &&
    ([(3, some (pt 3 5 6))].any (fun e => tSe 12 (let s := seS [] (some 4); { s with sec := { s.sec with keyReq := some ⟨e.1, e.2⟩ } }) true false false true 0 3)) &&
    (tSe 18 (let s := seS [(Reg.chiselImageStatus,0,1)] (some 4); { s with boot := { s.boot with l1 := [[], tokn 4 0 0 0 (l1b 1 5)] } }) true false false true 0 2) &&
    (tSe 6 (let s := seS [] (some 4); { s with sec := { s.sec with report := some ⟨2, 3*2^30+64, (List.range 448).map (BitVec.ofNat 8 ·)⟩ } }) true false false true 0 3) &&
    ([4].any (fun f => [0].any (fun o => tSe 3 (seS [(Reg.secAttestFn,0,f),(Reg.secAttestOut,0,o),(Reg.secSvnRunFw,0,7),(Reg.secSvnImgMin,0,9),(Reg.secSvnRunImg,0,8)] (some 4)) false false false true 0 3)))) = true := by decide +kernel
theorem wit_SecurityRequests_3 : (([0].any (fun f => [3*2^30].any (fun o => tSe 2 (seS [(Reg.secAttestFn,0,f),(Reg.secAttestOut,0,o),(Reg.secSvnRunFw,0,7),(Reg.secSvnImgMin,0,9),(Reg.secSvnRunImg,0,8)] (some 4)) false false false true 0 3))) &&
    ([(1,55)].any (fun e => tSe 14 (let s := seS [(Reg.secDebugToken,0,3*2^30+128),(Reg.secDebugChal,0,55),(Reg.secStatusGradeOk,0,1),(Reg.tenInfoVfs,0,0)] (some 4); { s with mem := memPutBytes (lineKey s) s.mem (3*2^30+128) (tokn 5 e.1 e.2 0 [] 0 (if e.1 = 1 then 1 else 0)) }) true false false true 0 3))) = true := by decide +kernel

end W15

/-! ### tenancy -/

namespace W16

/-- The hypotheses of clause `cl` of Obligations.VfStates, its clauses counted in their order. -/
def hyps_VfStates (cl : Nat) (s : State) (fn : Fin 513) (n : BitVec 16) (b k j : Nat) (g : Fin 513) (r : ResetSt) : Bool :=
  let f := fn.val
  let live := f ≠ 0 ∧ f ≤ rd s Reg.tenInfoVfs 0 ∧ reachable s (0xC10000 + 64 * f) = true
  let st := vfState s f
  let atMost := benchCount s ≤ 32
  let stepLeft := s.work.steps.any (fun e => e.1 / 64 == f) = true
  let collLeft := s.crush.colls.any (fun e => e.2.fn == f) = true
  let m := n.toNat
  let old := rd s Reg.tenInfoVfs 0
  let raises := rd s Reg.secStatusDebug 0 = 2 ∧ old < m
  ((cl == 0 && decide (live) && decide (st = 1)) ||
    (cl == 1 && decide (live) && decide (st ≠ 1) && decide (rd s Reg.vfCtlStop f = 0)) ||
    (cl == 2 && decide (live) && decide (st ≠ 1) && decide (rd s Reg.vfCtlStop f ≠ 0)) ||
    (cl == 3 && decide (reachable s (0xC10000 + 64 * f) = false)) ||
    (cl == 4 && decide (reachable s (0xC10000 + 64 * f) = true) && decide (f = 0 ∨ old < f)) ||
    (cl == 5 && decide (live) && decide (st = 2 ∨ st = 3)) ||
    (cl == 6 && decide (live) && decide (st ≠ 2) && decide (st ≠ 3) && decide (rd s Reg.vfCtlStop f = 0)) ||
    (cl == 7 && decide (live) && decide (st ≠ 2) && decide (st ≠ 3) && decide (rd s Reg.vfCtlStop f ≠ 0)) ||
    (cl == 8 && decide (st = 2) && decide (¬ stepLeft) && decide (¬ collLeft)) ||
    (cl == 9 && decide (st ≠ 2 ∨ stepLeft ∨ collLeft)) ||
    (cl == 10 && decide (live) && decide (atMost) && decide (st = 1 ∨ st = 3)) ||
    (cl == 11 && decide (live) && decide (st ≠ 1) && decide (st ≠ 3)) ||
    (cl == 12 && decide (st = 5) && decide (atRest s f = true)) ||
    (cl == 13 && decide (st = 5) && decide (atMost) && decide (atRest s f = false)) ||
    (cl == 14 && decide (st ≠ 5)) ||
    (cl == 15 && decide (live) && decide (st = 6)) ||
    (cl == 16 && decide (live) && decide (st ≠ 6)) ||
    (cl == 17 && decide (totalVfs s < m)) ||
    (cl == 18 && decide (m ≤ totalVfs s) && decide (raises)) ||
    (cl == 19 && decide (m ≤ totalVfs s) && decide (¬ raises) && decide (rd s Reg.readySummaryLocked 0 = 0)) ||
    (cl == 20 && decide (m ≤ totalVfs s) && decide (¬ raises) && decide (rd s Reg.readySummaryLocked 0 ≠ 0) && decide (atMost) && decide (fnsOk s = true)))

/-- The hypotheses of clause `cl` of Obligations.VfResets, its clauses counted in their order. -/
def hyps_VfResets (cl : Nat) (s : State) (fn : Fin 513) (j e : Nat) (r : ResetSt) : Bool :=
  let f := fn.val
  let there := f ≠ 0 ∧ f ≤ rd s Reg.tenInfoVfs 0 ∧ benchCount s ≤ 32 ∧ fnsOk s = true
  let live := there ∧ reachable s (0xC10000 + 64 * f) = true
  let st := vfState s f
  let drains := s.work.cmds.any (fun e => !e.2.owner.isRadio && e.2.owner.fn == f && e.2.st != .done) = true
  let waits := (match lastSent s f r.lastNs with | some w => decide (s.clock.ns < w + 16000) | none => false) = true
  ((cl == 0 && decide (live) && decide (st = 3)) ||
    (cl == 1 && decide (live) && decide (st ≠ 3)) ||
    (cl == 2 && decide (live) && decide (st ≠ 0) && decide (st ≠ 4)) ||
    (cl == 3 && decide (live) && decide (st = 0 ∨ st = 4)) ||
    (cl == 4 && decide (there) && decide (st ≠ 0) && decide (st ≠ 4)) ||
    (cl == 5 && decide (there) && decide (st = 0 ∨ st = 4)) ||
    (cl == 6 && decide (mapFind s.ten.resets f = some r) && decide (drains ∨ waits)) ||
    (cl == 7 && decide (mapFind s.ten.resets f = some r) && decide (benchCount s ≤ 32) && decide (¬ drains) && decide (¬ waits)) ||
    (cl == 8 && decide (mapFind s.ten.resets f = none)))

def tnS (st : Nat) (l : List (Fld × Nat × Nat)) : State :=
  let s := withRegs (ready s0) ([(Reg.vfCtlState, 2, st), (Reg.caps0DramLots, 0, 64), (Reg.benchStatePstate, 2, 0), (Reg.vfDirtyEnable, 2, 1), (Reg.fabVfJob, 2, 5), (Reg.tenHistBin, 70, 4), (Reg.readyFnState, 34, 2), (Reg.lotOwnerOwner, 7, 2), (Reg.lotOwnerOwner, 3, 0x3FD)] ++ l)
  let s := putCtx s 64 { ctxB 2 with res := .resident 2, epoch := 255 }
  let s := putBench s 2 { BenchSt.reset with ctx := some 64 }
  let s := qOf { Queue.reset with state := .running, sqTail := 3 } 130 s
  let s := qOf { Queue.reset with state := .running, sqTail := 4 } 66 s
  let s := tallyPut (tallyPut s 2 6 9) 1 3 8
  s
def addStep (s : State) : State := putCmd (putStep s 130 { (default : StepSt) with cmdCount := 4 }) 7 { mkC 2 2 0 .dispatched with owner := .queue 2 2 }
def tVs (cl : Nat) (s : State) (fn : Fin 513) (n : BitVec 16 := 5) (b := 2) (k := 64) (j := 130) (g : Fin 513 := 5) : Bool :=
  decide (hyps_VfStates cl s fn n b k j g ((mapFind s.ten.resets g.val).getD default))
def tTn (cl : Nat) (s : State) (fn : Fin 513) (n : BitVec 16 := 5) (b := 2) (k := 64) (j := 130) (e := 6) (g : Fin 513 := 5) : Bool := tVs cl s fn n b k j g
def tVr (cl : Nat) (s : State) (fn : Fin 513) (n : BitVec 16 := 5) (b := 2) (k := 64) (j := 130) (e := 6) (g : Fin 513 := 5) : Bool :=
  decide (hyps_VfResets cl s fn j e ((mapFind s.ten.resets fn.val).getD default))

theorem wit_VfStates_1 : (([1, 6, 9, 11, 14, 16, 19].all fun cl => [0].any (fun i => tTn cl (tnS i []) 2)) &&
    ([0, 7, 10].all fun cl => [1].any (fun i => tTn cl (addStep (tnS i [(Reg.vfCtlStop, 2, 1)])) 2 5 2 64 (64*2+ i) 6 1)) &&
    ([5, 8].all fun cl => [2].any (fun i => tTn cl (tnS i []) 2)) &&
    ([3, 13].all fun cl => tVs cl (withRegs (tnS 5 []) [(Reg.readyFnState, 3, 0)]) 2) &&
    ([2, 15].all fun cl => [6].any (fun i => tTn cl (addStep (tnS i [(Reg.vfCtlStop, 2, 1)])) 2 5 2 64 (64*2+ i) 6 1)) &&
    ([4, 20].all fun cl => [0].any (fun f => tVs cl (tnS 3 [(Reg.readySummaryLocked, 0, 1), (Reg.tenInfoVfs, 0, 2)]) (Fin.ofNat 513 f)))) = true := by decide +kernel
theorem wit_VfStates_2 : ((tVs 12 (let s := tnS 5 []; putBench s 2 BenchSt.reset) 2) &&
    ([5].any (fun n => [0].any (fun l => [2].any (fun d => tTn 18 (tnS 1 [(Reg.readySummaryLocked, 0, l), (Reg.secStatusDebug, 0, d)]) 2 (BitVec.ofNat 16 n) 2 64 320 5 (if n = 2 then 3 else 5))))) &&
    ([513].any (fun n => [0].any (fun l => [0].any (fun d => tTn 17 (tnS 1 [(Reg.readySummaryLocked, 0, l), (Reg.secStatusDebug, 0, d)]) 2 (BitVec.ofNat 16 n) 2 64 320 5 (if n = 2 then 3 else 5)))))) = true := by decide +kernel
theorem wit_VfResets : (([1, 3, 5, 8].all fun cl => [0].any (fun i => tVr cl (tnS i []) 2)) &&
    ([0, 2, 4].all fun cl => [3].any (fun i => tVr cl (tnS i []) 2)) &&
    (tVr 6 (let s := addStep (tnS 4 []); { s with ten := { s.ten with resets := [(2, ⟨4, 2, 7, 300, 70000, some 1, true⟩)] } }) 2) &&
    ([(0,5)].any (fun e => tVr 7 (let s := tnS e.2 []; { s with ten := { s.ten with resets := [(2, ⟨4, 2, 7, 300, 70000, none, e.1 == 1⟩)] } }) 2))) = true := by decide +kernel

end W16

/-! ### migration -/

namespace W17

/-- The hypotheses of clause `cl` of Obligations.SamplesAndMigration, its clauses counted in their order. -/
def hyps_SamplesAndMigration (cl : Nat) (s : State) (depths delays : List Nat) (f i e o l pick : Nat) (m : Migration) (p : Snap) (lots : List Nat) (hb enc body : List Byte) : Bool :=
  let d := migDesc s
  let v := bitsOf d 16 10
  let addr := bitsOf d 64 48
  let turn := fun (op : Nat) => s.ten.mig = none ∧ bitsOf d 4 2 = op ∧ reachable s 0xC00010 = true
  let at_ := inReserve s (rd s Reg.migDescPa 0 / 64 * 64) 64 = true
  let spoilt := at_ ∧ badLine s (rd s Reg.migDescPa 0 / 64) = true
  let sound := at_ ∧ ¬ spoilt ∧ migBad d = false
  let state := if bitsOf d 4 2 = 1 then vfState s v = 6 else vfState s v = 1 ∨ vfState s v = 6
  let there := v ≤ rd s Reg.tenInfoVfs 0
  let keyed := lots = [] ∨ s.mem.delivered.contains v = true
  let ready := sound ∧ there ∧ state ∧ imageLots s v = lots ∧ keyed ∧ lots.length < 512 ∧ rd s Reg.detSignatureSignature 0 < 2 ^ 64
  let goes := fun (n : Nat) => bitsOf d 128 64 ≥ 64 + n ∧ migFits s d (64 + n) = true ∧ s.mem.err = [] ∧ (bitOf d 6 = true → keyKept s addr (64 + n) = true) ∧ (senseRuns s 5 0 (lots.map (fun n => (n * 2 ^ 30, 2 ^ 30)))).2 = none
  let whole := lotsFull s lots
  let h := leNat hb
  let n := bitsOf h 256 64
  let found := s.mem.err = [] ∧ okIs (migRead s d 0 64).2 (.ok hb) = true ∧ n % 64 = 0 ∧ 64 + n ≤ bitsOf d 128 64 ∧ okIs (migRead s d 64 n).2 (.ok enc) = true
  let calm := there ∧ vfState s v = 6 ∧ s.work.queues.any (fun e => e.1 / 64 == v && e.2.state != .disabled) = false ∧
    (List.range 32).any (fun c => (getCtx s (ctxKey v c)).res != .empty) = false ∧
    (lotList s d).all (fun n => lotOwnerOf s n == v && lotIdle s n && decide (n < 384) && n != rd s Reg.bankPartSaveLot v) = true ∧ bitsOf h 192 64 = keyCheck s v
  let whichOk := bitsOf h 0 4 = 1 ∧ bitsOf h 4 2 ≤ 1 ∧ bitsOf h 26 9 = (lotList s d).length ∧ crc64 enc = bitsOf h 320 64 ∧
    ¬ (bitsOf h 4 2 = 1 ∧ bitOf h 6 = false ∧ mapFind s.ten.liveIn v ≠ some (bitsOf h 128 64))
  let fits := calm ∧ bitsOf h 64 64 = rd s Reg.detSignatureSignature 0 ∧ whichOk ∧ body = xtsLines false (slotKey s v) 0 (n / 64) enc
  ((cl == 0 && decide (f ≤ rd s Reg.tenInfoVfs 0)) ||
    (cl == 1 && decide (s.cfg.pending.filter (fun p => p.kind == 4) = [p]) && decide (p.index ≤ 512) && decide (snapCrc p.values = p.crc) && decide (p.values.length = 4) && decide (p.values.all (· < 2 ^ 10) = true)) ||
    (cl == 2 && decide (s.cfg.pending.filter (fun p => p.kind == 4) = [])) ||
    (cl == 3 && decide (rd s Reg.tenSamplePeriodUs 0 ≠ 0) && decide (i < 16) && decide (f ≤ 512) && decide (rd s Reg.tenHistBin (32 * f + i) < 2 ^ 32) && decide (rd s Reg.tenHistBin (32 * f + 16 + i) < 2 ^ 32)) ||
    (cl == 4 && decide (rd s Reg.tenSamplePeriodUs 0 = 0)) ||
    (cl == 5 && decide (reachable s 0xC00004 = true)) ||
    (cl == 6 && decide (rd s Reg.jeanoSamplePeriodUs 0 ≠ 0) && decide (i < 16) && decide (l < 48) && decide (rd s Reg.jeanoHistBin (32 * l + i) < 2 ^ 32) && decide (rd s Reg.jeanoHistBin (32 * l + 16 + i) < 2 ^ 32)) ||
    (cl == 7 && decide (rd s Reg.jeanoSamplePeriodUs 0 = 0)) ||
    (cl == 8 && decide (reachable s 0x500014 = true)) ||
    (cl == 9 && decide (s.ten.mig = some m)) ||
    (cl == 10 && decide (turn 0) && decide (¬ sound)) ||
    (cl == 11 && decide (turn 1) && decide (¬ sound)) ||
    (cl == 12 && decide (turn 2) && decide (¬ sound)) ||
    (cl == 13 && decide (turn 0) && decide (sound) && decide (¬ there ∨ ¬ state ∨ (imageLots s v = lots ∧ ¬ keyed))) ||
    (cl == 14 && decide (turn 1) && decide (sound) && decide (¬ there ∨ ¬ state ∨ (imageLots s v = lots ∧ ¬ keyed))) ||
    (cl == 15 && decide (turn 0) && decide (ready) && decide (bitsOf d 128 64 < 64 + lots.length * 2 ^ 30)) ||
    (cl == 16 && decide (turn 0) && decide (ready) && decide (lots.length * 2 ^ 30 + 64 ≤ bitsOf d 128 64) && decide (migFits s d (64 + lots.length * 2 ^ 30) = false)) ||
    (cl == 17 && decide (turn 0) && decide (ready) && decide (goes (lots.length * 2 ^ 30))) ||
    (cl == 18 && decide (turn 1) && decide (ready) && decide (mapFind s.ten.liveOut v = none ∨ mapGet s.ten.liveLots v [] ≠ lots) && decide (body = stateSection s v ++ whole) && decide (goes body.length)) ||
    (cl == 19 && decide (turn 1) && decide (ready) && decide (mapFind s.ten.liveOut v = some l) && decide (l < 2 ^ 64) && decide (mapGet s.ten.liveLots v [] = lots) && decide (body = stateSection s v ++ lotsMarked s v lots) && decide (goes body.length)) ||
    (cl == 20 && decide (turn 2) && decide (sound) && decide (64 ≤ bitsOf d 128 64) && decide (s.mem.err = []) && okIs ((migRead s d 0 64).2) (.error .translationFault)) ||
    (cl == 21 && decide (turn 2) && decide (sound) && decide (found) && decide (¬ calm)) ||
    (cl == 22 && decide (turn 2) && decide (sound) && decide (found) && decide (calm) && decide (bitsOf h 64 64 ≠ rd s Reg.detSignatureSignature 0)) ||
    (cl == 23 && decide (turn 2) && decide (sound) && decide (found) && decide (calm) && decide (bitsOf h 64 64 = rd s Reg.detSignatureSignature 0) && decide (¬ whichOk)) ||
    (cl == 24 && decide (turn 2) && decide (sound) && decide (found) && decide (fits) && decide (bitsOf h 4 2 = 0) && decide (n = (lotList s d).length * 2 ^ 30)) ||
    (cl == 25 && decide (turn 2) && decide (sound) && decide (found) && decide (fits) && decide (bitsOf h 4 2 = 1) && decide (bitOf h 6 = true) && decide (lotList s d = []) && decide (body.length = 8256) && decide (leNat ((body.drop 8192).take 8) = 0)) ||
    (cl == 26 && decide (s.ten.mig = some m)) ||
    (cl == 27 && decide (s.ten.mig = none)))

def tSM (cl : Nat) (s : State) (depths delays : List Nat := []) (f := 2) (i := 3) (e := 5) (o := 0) (l := 0) (pick := 0) (body : List Byte := []) : Bool :=
  let d := migDesc s
  let v := bitsOf d 16 10
  let hb := (match (migRead s d 0 64).2 with | .ok b => b | .error _ => [])
  let enc := (match (migRead s d 64 (bitsOf (leNat hb) 256 64)).2 with | .ok b => b | .error _ => [])
  let body := if body = [] then (if enc = [] then [] else xtsLines false (slotKey s v) 0 (enc.length / 64) enc) else body
  decide (hyps_SamplesAndMigration cl s depths delays f i e o l pick (s.ten.mig.getD default) ((s.cfg.pending.filter (fun p => p.kind == 4)).headD ⟨4, 0, 0, [], 0⟩) (imageLots s v) hb enc body)
def baseM : State := withRegs (ready s0) [(Reg.caps0DramLots, 0, 64), (Reg.lotOwnerOwner, 3, 0x3FD), (Reg.migDescPa, 0, 3*2^30), (Reg.detSignatureSignature, 0, 0x1234), (Reg.vfCtlState, 2, 6)]
def mgS (op f cap space addr : Nat) (l : List (Fld × Nat × Nat)) (extra : Nat := 0) : State :=
  let s := withRegs baseM l
  let d := 1 + op * 16 + space * 64 + f * 2^16 + addr * 2^64 + cap * 2^128 + (if space = 0 then 5 * 2^192 else 0) + extra
  { s with mem := { memPutBytes (lineKey s) s.mem (3*2^30) (leBytes 64 d) with keys := [(2, 0x123456789)] }, host := { bytes := [], pins := [⟨5, 0, 2 ^ 40⟩] } }
def afterS (s : State) (op f cap : Nat) (k : State → State := id) : State :=
  let s := match (if op = 0 then execSaveLive s else execSaveFinal s) with | .next t => t | _ => s0
  let s := { s with ten := { s.ten with mig := none } }
  k { s with mem := memPutBytes (lineKey s) s.mem (3*2^30) (leBytes 64 (1 + 2 * 16 + f * 2^16 + 4096 * 2^64 + cap * 2^128 + 5 * 2^192)) }

theorem wit_SamplesAndMigration_1 : (([0, 2, 4, 5, 7, 8, 10, 27].all fun cl => tSM cl (mgS 0 2 64 0 4096 [] (2^26))) &&
    (tSM 1 (let s := baseM; { s with cfg := { s.cfg with pending := [⟨4, 2, 9, [1,2,3,4], snapCrc [1,2,3,4]⟩, ⟨3, 2, 9, [1,2,3,4], 0⟩] } })) &&
    ([3, 6].all fun cl => [0].any (fun i => tSM cl (qOf { Queue.reset with state := .running, sqTail := 7, sqLog := 5, bells := [(7, 0)] } 128 (qOf { Queue.reset with state := .running, sqTail := 3, sqLog := 5, bells := [(7, 990)] } 130 (withRegs baseM [(Reg.tenSamplePeriodUs, 0, 1), (Reg.jeanoSamplePeriodUs, 0, 1), (Reg.tenHistBin, 67, 2^32-1), (Reg.jeanoHistBin, 67, 2^32-1)]))) [0, 300, 3000] [10, 100, 1000] 2 i (60+i) 0 2 0)) &&
    ([9, 26].all fun cl => (let s := baseM; tSM cl { s with ten := { s.ten with mig := some ⟨0, 2, .memUe, 2^65 + 7⟩ } })) &&
    ([1].any (fun o => tSM 11 (mgS o 2 64 0 4096 [] (2^26)))) &&
    ([2].any (fun o => tSM 12 (mgS o 2 64 0 4096 [] (2^26))))) = true := by decide +kernel
theorem wit_SamplesAndMigration_2 : ((tSM 13 (mgS 0 2 64 0 4096 [(Reg.lotOwnerOwner, 9, 2)])) &&
    (tSM 14 (mgS 1 2 64 0 4096 [(Reg.vfCtlState, 2, 1)])) &&
    ([(0,2,63,0,4096)].any (fun e => tSM 15 (mgS e.1 e.2.1 e.2.2.1 e.2.2.2.1 e.2.2.2.2 []) (body := if e.1 = 1 then stateSection (mgS e.1 e.2.1 e.2.2.1 e.2.2.2.1 e.2.2.2.2 []) e.2.1 else []))) &&
    ([(0,2,64,1,4096)].any (fun e => tSM 16 (mgS e.1 e.2.1 e.2.2.1 e.2.2.2.1 e.2.2.2.2 []) (body := if e.1 = 1 then stateSection (mgS e.1 e.2.1 e.2.2.1 e.2.2.2.1 e.2.2.2.2 []) e.2.1 else []))) &&
    ([(0,2,64,0,4096)].any (fun e => tSM 17 (mgS e.1 e.2.1 e.2.2.1 e.2.2.2.1 e.2.2.2.2 []) (body := if e.1 = 1 then stateSection (mgS e.1 e.2.1 e.2.2.1 e.2.2.2.1 e.2.2.2.2 []) e.2.1 else []))) &&
    (tSM 20 (afterS (mgS 0 2 64 0 4096 []) 0 2 64 (fun s => { s with host := { s.host with pins := [] } })))) = true := by decide +kernel

end W17

/-! ### start -/

namespace W18

/-- The hypotheses of clause `cl` of Obligations.StartAndRestart, its clauses counted in their order. -/
def hyps_StartAndRestart (cl : Nat) (s : State) (key : BitVec 32) (fl : Fld) (idx i d : Nat) (o : List Byte) (g : GradeRec) (a b : Sections) (bank : Nat) : Bool :=
  let rejected := fun (f : List Byte → Option Status) (x : Option (List Byte)) => x.all (fun o => (f o).isSome)
  let v := loadRecord s
  let fw := rd v Reg.readyNextFwSlot 0
  let fwOk := verifyObject v 1 (rd v Reg.secSvnFwMin 0) (· == 0) false
  let fwAt := fun (k : Nat) => regionObject s (regFw k)
  let fwTurn := fnReady s 2 = true ∧ rd s Reg.readyFnState 0 < 2 ∧ rd s Reg.secStatusFirmwareOk 0 = 0 ∧ fw < 2
  let idTurn := rd s Reg.secStatusFirmwareOk 0 ≠ 0 ∧ rd s Reg.readyFnState 1 < 2
  let grTurn := rd s Reg.secStatusFirmwareOk 0 ≠ 0 ∧ fnReady s 1 = true ∧ rd s Reg.readyFnState 0 < 2
  let grOk := verifyObject s 2 0 (· == 0) true
  let grAt := regionObject s (0x1000, 0x3000)
  let first := rd s Reg.readyNextImgSlot 0
  let imTurn := fnReady s 0 = true ∧ rd s Reg.readyFnState 3 = 1 ∧ first < 2
  let imOk := fun (o : List Byte) => match verifyObject s 3 (rd s Reg.secSvnImgMin 0) (fun x => x == 1 || x == 2) false o with
    | some st => some st | none => if imageForm (bodyOf o) then none else some Status.badFormat
  let imAt := fun (k : Nat) => regionObject s (regImg k)
  ((cl == 0 && decide (s.power.holdRun = false)) ||
    (cl == 1 && decide (s.power.holdRun = true)) ||
    (cl == 2 && decide (s.boot.resetLow = true) && decide (s.boot.converting = true) && decide (s.power.holdRun = false)) ||
    (cl == 3 && decide (s.boot.resetLow = true) && decide (s.boot.converting = false ∨ s.power.holdRun = true)) ||
    (cl == 4 && decide (s.boot.resetLow = false)) ||
    (cl == 5 && decide (key = 0x5A5AA5A5) && decide (s.boot.resetLow = false) && decide (s.boot.converting = true) && decide (s.power.holdRun = false)) ||
    (cl == 6 && decide (key ≠ 0x5A5AA5A5)) ||
    (cl == 7 && decide (fwTurn) && decide (fwAt fw = some o)) ||
    (cl == 8 && decide (fwTurn) && decide (rejected fwOk (fwAt fw)) && decide (fwAt (1 - fw) = some o) && decide ((fwOk o : Option Status) = none)) ||
    (cl == 9 && decide (fwTurn) && decide (fwAt fw = none) && decide (fwAt (1 - fw) = none)) ||
    (cl == 10 && decide (idTurn)) ||
    (cl == 11 && decide (grTurn) && decide (rejected grOk grAt)) ||
    (cl == 12 && decide (grTurn) && decide (grAt = some o)) ||
    (cl == 13 && decide (imTurn) && decide (imAt first = some o)) ||
    (cl == 14 && decide (imTurn) && decide (rejected imOk (imAt first)) && decide (imAt (1 - first) = some o) && ((imOk o : Option Status) == none)) ||
    (cl == 15 && decide (imTurn) && decide (imAt first = none) && decide (imAt (1 - first) = none)))

def tSt (cl : Nat) (s : State) (key : BitVec 32) (o : List Byte := []) (fl : Fld := Reg.lotOwnerOwner) (idx := 7) (i := 0) (g : GradeRec := default) (a : Sections := default) (b : Sections := default) : Bool :=
  decide (hyps_StartAndRestart cl s key fl idx i 7 o g a b ((recWinner s).getD 0))
def rsS (low conv hold : Bool) : State := let s := withRegs (ready s0) [(Reg.powerHoldStoredDj, 0, 99), (Reg.lotOwnerOwner, 7, 5)]; { s with boot := { s.boot with resetLow := low, converting := conv }, power := { s.power with holdRun := hold }, host := hostOf [(4, [5])] }
def tokn (kind : Nat) (svn : Nat := 0) (body : List Byte := []) (sg : Nat := 0) (bad : Bool := false) : List Byte :=
  body ++ leBytes 256 (bits [(0,1),(4,kind),(8,sg),(16,svn),(64,0),(128,body.length),(256,if bad then 1 else digest body),(512,2)])
def putObj (r : Nat × Nat) (o : List Byte) (s : State) : State := { s with boot := { s.boot with nvm := nvmPut s.boot.nvm r.1 (leBytes 8 o.length ++ o) } }
def fwS : State := withRegs (ready s0) [(Reg.readyFnState, 2, 2)]
def grS : State := withRegs fwS [(Reg.secStatusFirmwareOk, 0, 1), (Reg.readyFnState, 1, 2)]
def grd : GradeRec := { (default : GradeRec) with benches := 16, lots := 256, jeanoMask := 0xFFFF, fronthaul := 8, chisel := 64, sieve := 2, tdfe := true, radioUnits := 384, harvested := (List.range 34).drop 16, ownerKey := 5 }
def imS : State := withRegs (ready s0) [(Reg.readyFnState, 0, 2), (Reg.readyFnState, 3, 1), (Reg.caps0JeanoPortMask, 0, 0xFFFF), (Reg.caps1FronthaulPorts, 0, 8), (Reg.caps1ChiselCount, 0, 64), (Reg.caps1RadioUnits, 0, 384), (Reg.caps1Tdfe, 0, 1), (Reg.secStatusGradeOk, 0, 1)]
def imgB (ids : List Nat) : List Byte := let n := ids.length; let l := (64 + 16 * n + 63) / 64 * 64; let h := bits [(0,1),(20,n),(32,l)]; let d := leBytes 64 h ++ ids.flatMap (fun i => leBytes 16 (bits [(0,i),(32,0)])); d ++ List.replicate (l - d.length) 0
def cel : CellPlan := { pl0 with burst := 70000, t := 4, r := 4, lDl := 1, lUl := 1, lport := 4, wNom := 9, wFloor := 9, p7LeadUs := 300 }
def secs : Sections := { (default : Sections) with node := 11, rowsM1 := 3, colsM1 := 4, cells := [cel, cel], portModes := [0,0,0,0,0,0,0,0], radioLots := 1, plumb := true, recipeClean := true }

theorem wit_StartAndRestart_1 : (([0, 2, 6, 12].all fun cl => tSt cl (putObj regGrade (tokn 2 0 [1,2,3]) grS) 0 (tokn 2 0 [1,2,3]) Reg.lotOwnerOwner 7 20 grd) &&
    ([1, 3].all fun cl => [true].any (fun l => [true].any (fun c => [true].any (fun h => tSt cl (rsS l c h) 0 [] Reg.powerHoldStoredDj 0)))) &&
    ([4, 5].all fun cl => [false].any (fun l => [true].any (fun c => [false].any (fun h => tSt cl (rsS l c h) 0x5A5AA5A5 [] Reg.lotOwnerOwner 7)))) &&
    ([(0,0)].any (fun e => (let o := tokn 1 7 [1,2,3]; let ob := tokn 1 7 [1,2,3] 0 true; let p (k : Nat) (x : Nat) (s : State) := if x = 0 then putObj (regFw k) o s else if x = 1 then putObj (regFw k) ob s else s; tSt 7 (p 1 e.2 (p 0 e.1 fwS)) 0 (if e.1 = 0 then o else if e.2 = 0 then o else ob)))) &&
    ([(2,2)].any (fun e => (let o := tokn 1 7 [1,2,3]; let ob := tokn 1 7 [1,2,3] 0 true; let p (k : Nat) (x : Nat) (s : State) := if x = 0 then putObj (regFw k) o s else if x = 1 then putObj (regFw k) ob s else s; tSt 9 (p 1 e.2 (p 0 e.1 fwS)) 0 (if e.1 = 0 then o else if e.2 = 0 then o else ob)))) &&
    (tSt 10 (withRegs fwS [(Reg.secStatusFirmwareOk, 0, 1)]) 0)) = true := by decide +kernel
theorem wit_StartAndRestart_2 : (((let o := tokn 3 7 (imgB [1,3,5,0xB]) 1; tSt 13 (putObj (regImg 0) o imS) 0 o Reg.lotOwnerOwner 7 1 default secs secs)) &&
    ([(2,2)].any (fun e => (let o := tokn 3 7 (imgB [1,3,5]) 1; let ob := tokn 3 7 (imgB [1,3,5]) 1 true; let p (k : Nat) (x : Nat) (s : State) := if x = 0 then putObj (regImg k) o s else if x = 1 then putObj (regImg k) ob s else s; tSt 15 (p 1 e.2 (p 0 e.1 imS)) 0 (if e.1 = 0 then o else if e.2 = 0 then o else ob) Reg.lotOwnerOwner 7 1 default secs { secs with cells := [{ cel with nPrb := 0 }] }))) &&
    ([1].any (fun k => (let o := tokn 2 0 [1,2,3] 0 (k = 1); tSt 11 (if k = 2 then grS else putObj regGrade o grS) 0 o Reg.lotOwnerOwner 7 (if k = 0 then 5 else 20) (if k = 3 then default else grd))))) = true := by decide +kernel

end W18

/-! ### bringup -/

namespace W19

/-- The hypotheses of clause `cl` of Obligations.BringUpAndLock, its clauses counted in their order. -/
def hyps_BringUpAndLock (cl : Nat) (s : State) (idx : BitVec 8) (st : Status) (aux : Nat) (item : SurveyItem) (kd tau theta : BitVec 16) (manager : Bool) (kind : BitVec 4) (p : Snap) (w : Nat) (pr : CableProbe) (tm : Nat × Nat × Nat) (j : Fin 256) (probes : List CableProbe) (means : List Nat) (us : Nat) : Bool :=
  let i := idx.toNat
  let bench := 32 ≤ i ∧ i < 64
  let quar := bitOf (rd s Reg.healthQuarBenches 0) (i - 32)
  let k := itemNum item
  let turn := itemReady s item = true ∧ s.boot.surveyDone.contains k = false
  let isLocked := rd s Reg.readySummaryLocked 0 ≠ 0
  let may := fnReady s 3 = true ∧ [9, 10, 11, 12].all (fnReady s) = true ∧ ¬ isLocked
  let asked := rd s Reg.cfgLockHold 0 = 0 ∨ s.boot.lockAsked = true ∨ manager = true
  let kk := rd s Reg.cfgCommitKind 0
  let ix := rd s Reg.cfgCommitIndex 0
  let tail := rd s Reg.cfgResultIdxTail 0
  let room := (tail + 64 - rd s Reg.cfgResultIdxHead 0) % 64 ≠ 63 ∧ tail < 64
  let r := fun (f : Fld) => rd s f ix
  let refusal : Option Status :=
    if kk = 0 ∨ 5 < kk ∨ (if kk = 5 then 15 else 512) < ix ∨ (kk = 3 ∧ ix = 0) then some .badFormat
    else if kk ≠ 5 ∧ rd s Reg.tenInfoVfs 0 < ix then some .permission
    else if kk = 5 ∧ streamKind s ix = 0 then some .noUnit
    else if fnReady s 3 = false then some .notReady
    else if kk = 2 ∧ benchCount s - rd s Reg.bankRotCount 0 < (((List.range 513).filter (· != ix)).map (rdLive s Reg.bankPartBenchMin)).sum + r Reg.bankPartBenchMin then some .quota
    else if kk = 2 ∧ (r Reg.bankPartBenchMax < r Reg.bankPartBenchMin ∨ benchCount s < r Reg.bankPartBenchMax ∨ r Reg.bankPartQuantum < 2 ∨ 1000 < r Reg.bankPartQuantum) then some .badFormat
    else if kk = 3 ∧ 192 < r Reg.vfPartYardPages then some .badFormat
    else if kk = 5 ∧ (32 < r Reg.tdfeStreamSegCount ∨ ∃ g ∈ List.range 32, rd s Reg.tdfeSegHi (32 * ix + g) < rd s Reg.tdfeSegLo (32 * ix + g)) then some .badFormat
    else none
  let pend := s.cfg.pending
  let open_ := rd s Reg.readySummaryRestricted 0 = 0
  let due := pend.filter (fun p => p.kind == kind.toNat) = [p] ∧ p.index ≤ (if p.kind = 5 then 15 else 512) ∧ p.values.length = (groupFields p.kind p.index).length ∧ p.kind ≤ 5 ∧
    1 ≤ p.kind ∧ p.token < 2 ^ 16 ∧ snapCrc p.values = p.crc
  decide (benchCount s ≤ 32) && decide (fnsOk s = true) && (([0, 1, 2, 3, 4].contains cl && (decide (bringing s i = true) && ((cl == 0 && decide (i ≠ 2)) ||
            (cl == 1 && decide (i = 2)) ||
            (cl == 2 && decide (mayReady s i = true) && decide (¬ (bench ∧ quar = true))) ||
            (cl == 3 && decide (mayReady s i = true) && decide (bench) && decide (quar = true)) ||
            (cl == 4 && decide (mayReady s i = false))))) ||
        (cl == 5 && decide (bringing s i = false)) ||
        (cl == 6 && decide (turn)) ||
        (cl == 7 && decide (¬ turn)) ||
        (cl == 8 && decide (fnReady s 3 = true) && decide (rd s Reg.surveyStateState 0 ≠ 0) && decide (s.boot.surveyDone.contains 6 = false)) ||
        (cl == 9 && decide (may) && decide (asked) && decide (rd s Reg.caps0DramLots 0 ≤ 384) && decide ((s.boot.numVfs.all (· ≤ 512)) = true)) ||
        (cl == 10 && decide (manager = true) && decide (isLocked)) ||
        (cl == 11 && decide (manager = true) && decide (¬ isLocked) && decide (¬ may)) ||
        (cl == 12 && decide (manager = false) && decide (¬ (may ∧ asked))) ||
        (cl == 13 && decide (rd s Reg.readySummaryRestricted 0 ≠ 0)) ||
        (cl == 14 && decide (open_) && decide (room) && decide (ix < 2 ^ 10) && decide (kk < 16) && decide (refusal.isSome = true) && decide (pend.filter (fun p => p.kind == kk && p.index == ix) = [])) ||
        (cl == 15 && decide (open_) && decide (refusal = none)) ||
        (cl == 16 && decide (due)) ||
        (cl == 17 && decide (due)) ||
        (cl == 18 && decide (pend.filter (fun p => p.kind == kind.toNat) = [])))

def tBr (cl : Nat) (s : State) (idx : BitVec 8) (item : SurveyItem := .flights) (manager := false) (kind : BitVec 4 := 0) (w := 3) (j : Nat := 13) : Bool :=
  let p := (s.cfg.pending.filter (fun p => p.kind == (if kind = 0 then rd s Reg.cfgCommitKind 0 else kind.toNat))).headD default
  let pb := match item with | .cables l => l | _ => []
  let mu := match item with | .supplies m t => (m, t) | _ => ([], 0)
  decide (hyps_BringUpAndLock cl s idx .translationFault 2 item 100 200 300 manager kind p w (pb.getD w .short) ((s.boot.thermal).getD (0,0,0)) (Fin.ofNat 256 j) pb mu.1 mu.2)
def buS (l : List (Fld × Nat × Nat)) : State := withRegs s0 ([(Reg.readyFnState, 0, 2), (Reg.caps0BenchCount, 0, 32), (Reg.caps0DramLots, 0, 64), (Reg.tenInfoVfs, 0, 4), (Reg.memRsvMgrLots, 0, 2), (Reg.caps0JeanoPortMask, 0, 3)] ++ l)
def brU (i : Nat) (l : List (Fld × Nat × Nat) := []) : State := buS ([(Reg.readyFnState, i, 1)] ++ l)
def suS (d : List Nat) (l : List (Fld × Nat × Nat) := []) : State := let s := buS ([(Reg.readyFnState, 3, 2), (Reg.readyFnState, 64, 2), (Reg.readyFnState, 65, 3), (Reg.cableCeilingCw, 3, 9), (Reg.cableCeilingCw, 4, 9), (Reg.cableCeilingCw, 5, 9), (Reg.jeanoPortFlightNs, 3, 77), (Reg.surveyStateState, 0, 1)] ++ [9,10,11,12].map (fun i => (Reg.readyFnState, i, 3)) ++ l); { s with boot := { s.boot with surveyDone := d, before := [(3, 5), (2*1024+6, 60), (5*1024+3, 100), (6*1024, 100)] } }
def lkS (l : List (Fld × Nat × Nat)) (nv : Option Nat) (asked : Bool) : State := let s := buS ([(Reg.readyFnState, 3, 2), (Reg.radioPlanStatus, 0, 1), (Reg.memRsvRadioLots, 0, 3)] ++ [9,10,11,12].map (fun i => (Reg.readyFnState, i, 2)) ++ l); { s with boot := { s.boot with numVfs := nv, lockAsked := asked } }
def cmS (k i : Nat) (l : List (Fld × Nat × Nat)) (pend : List Snap := []) : State := let s := buS ([(Reg.readyFnState, 3, 2), (Reg.cfgCommitKind, 0, k), (Reg.cfgCommitIndex, 0, i), (Reg.cfgCommitToken, 0, 65535), (Reg.cfgResultIdxTail, 0, 63), (Reg.bankPartQuantum, 2, 5), (Reg.bankPartBenchMax, 2, 5), (Reg.bankPartBenchMin, 2, 3), (Reg.vfPartYardPages, 2, 100)] ++ l); { s with cfg := { s.cfg with pending := pend } }
def pd (k i : Nat) : Snap := let vs := (groupFields k i).map (fun _ => 37); ⟨k, i, 77, vs, snapCrc vs⟩

theorem wit_BringUpAndLock_1 : (([1, 2, 7, 12, 14, 18].all fun cl => [2].any (fun i => tBr cl (brU i) (BitVec.ofNat 8 i))) &&
    ([5, 6, 8].all fun cl => [.flights].any (fun it => [2].any (fun w => tBr cl (suS []) 0 it false 0 w))) &&
    ([0, 4].all fun cl => [5].any (fun i => tBr cl (brU i) (BitVec.ofNat 8 i))) &&
    ([16, 17].all fun cl => [1].any (fun k => [0].any (fun w => tBr cl (cmS 0 0 [] [pd k 2, pd (k%5+1) 1]) 0 .flights false (BitVec.ofNat 4 k) w))) &&
    ([(1,2)].any (fun e => tBr 15 (cmS e.1 e.2 []) 0)) &&
    (tBr 13 (cmS 2 2 [(Reg.readySummaryRestricted, 0, 1)]) 0)) = true := by decide +kernel
theorem wit_BringUpAndLock_2 : (([true].any (fun m => tBr 11 (lkS [(Reg.readyFnState, 11, 1)] none false) 0 .flights m)) &&
    ([none].any (fun nv => tBr 9 (lkS [(Reg.secStatusDebug, 0, 2)] nv true) 0 .flights false)) &&
    ([true].any (fun m => tBr 10 (lkS [(Reg.readySummaryLocked, 0, 1)] none false) 0 .flights m)) &&
    ([40].any (fun i => tBr 3 (brU i [(Reg.readyFnState, 3, 2), (Reg.readyFnState, 64, 2), (Reg.readyFnState, 65, 2), (Reg.healthMgmtStatLink0, 0, 1), (Reg.healthQuarBenches, 0, 0x100), (Reg.readyFnState, 0, 2), (Reg.thermTempDie, 0, 20), (Reg.readyFnState, 10, 2), (Reg.readyFnState, 11, 2), (Reg.readyFnState, 12, 2)]) (BitVec.ofNat 8 i) .flights false 0 3 (if i = 9 then 40 else 13)))) = true := by decide +kernel

end W19

/-! ### nvm -/

namespace W20

/-- The hypotheses of clause `cl` of Obligations.NvmAndRecord, its clauses counted in their order. -/
def hyps_NvmAndRecord (cl : Nat) (s : State) (i x : Nat) (fw img ok1 ok2 : Bool) : Bool :=
  let a := rd s Reg.cfgNvmNvmOffset 0
  let n := rd s Reg.cfgNvmLength 0
  let pa := rd s Reg.cfgNvmPa 0
  let window := rd s Reg.cfgNvmWin 0 ≠ 0
  let up := fnReady s 2 = true
  let noDram := fnReady s 13 = false ∨ rd s Reg.readySummaryRestricted 0 ≠ 0
  let buffer := up ∧ (if window then n ≤ 65536 else ¬ noDram ∧ inReserve s pa n = true)
  let lies := fun (rs : List (Nat × Nat)) => rs.any (fun r => decide (r.1 ≤ a ∧ a + n ≤ r.1 + r.2)) = true
  let grade := [(0x1000, 0x3000)]
  let readable := grade ++ [(0x4000, 0x1000), (0x10000, 0x10000), (0x40000, 0x40000), (0x80000, 0x40000), (0x100000, 0x800000), (0x900000, 0x800000), (0x2000000, 0x4000000), (0x6000000, 0x4000000)]
  let inUse := fun (ok slot : Fld) (k : Nat) => rdB s ok 0 && rd s slot 0 == k
  let writable := [(0x10000, 0x10000)] ++ (if inUse Reg.secStatusFirmwareOk Reg.readyBootFwSlot 0 then [] else [(0x100000, 0x800000)]) ++
    (if inUse Reg.secStatusFirmwareOk Reg.readyBootFwSlot 1 then [] else [(0x900000, 0x800000)]) ++ (if inUse Reg.secStatusImageOk Reg.readyBootImgSlot 0 then [] else [(0x2000000, 0x4000000)]) ++
    (if inUse Reg.secStatusImageOk Reg.readyBootImgSlot 1 then [] else [(0x6000000, 0x4000000)])
  let bs := nvmBuffer s
  let len := leNat (bs.take 8)
  let gradeGood := a = 0x1000 ∧ len ≠ 0 ∧ bs.length = len + 8 ∧ len + 8 ≤ 0x3000 ∧ verifyObject s 2 0 (· == 0) true (bs.drop 8) = none
  let pends := s.boot.recBank ≤ 1 ∧ s.boot.recPending = true
  let holdOk := rd s Reg.powerHoldRecordOk 0 ≠ 0 ∧ rd s Reg.powerStatHoldReady 0 ≠ 0
  let day := s.boot.recUeNs.filter (fun w => decide (s.clock.up < w + 86400000000000))
  let ueDue := s.boot.recUe = true ∧ day.length < 16
  let hourDue := (match s.boot.recLastNs with | none => true | some w => decide (w + 3600000000000 ≤ s.clock.up)) = true
  let whole := nvmBufferBad s = false
  ((cl == 0 && decide (¬ up)) ||
    (cl == 1 && decide (up) && decide (window) && decide (65536 < n)) ||
    (cl == 2 && decide (up) && decide (¬ window) && decide (noDram)) ||
    (cl == 3 && decide (up) && decide (¬ window) && decide (¬ noDram) && decide (inReserve s pa n = false)) ||
    (cl == 4 && decide (buffer) && decide (¬ lies readable)) ||
    (cl == 5 && decide (up) && decide (¬ lies (grade ++ writable))) ||
    (cl == 6 && decide (buffer) && decide (¬ whole)) ||
    (cl == 7 && decide (buffer) && decide (whole) && decide (¬ lies (grade ++ writable))) ||
    (cl == 8 && decide (buffer) && decide (lies readable) && decide (window)) ||
    (cl == 9 && decide (buffer) && decide (lies readable) && decide (¬ window)) ||
    (cl == 10 && decide (up) && decide (lies (grade ++ writable))) ||
    (cl == 11 && decide (buffer) && decide (whole) && decide (lies grade) && decide (gradeGood)) ||
    (cl == 12 && decide (buffer) && decide (whole) && decide (lies grade) && decide (¬ gradeGood)) ||
    (cl == 13 && decide (buffer) && decide (whole) && decide (lies writable) && decide (¬ lies grade)) ||
    (cl == 14 && decide (s.boot.recBank ≤ 1)) ||
    (cl == 15 && decide (pends) && decide (s.power.holdRun = true) && decide (holdOk)) ||
    (cl == 16 && decide (pends) && decide (s.power.holdRun = false) && decide (s.boot.recAtOnce = true)) ||
    (cl == 17 && decide (pends) && decide (s.power.holdRun = false) && decide (s.boot.recAtOnce = false) && decide (ueDue)) ||
    (cl == 18 && decide (pends) && decide (s.power.holdRun = false) && decide (s.boot.recAtOnce = false) && decide (¬ ueDue) && decide (hourDue)) ||
    (cl == 19 && decide (s.boot.recPending = false ∨ (s.power.holdRun = true ∧ ¬ holdOk) ∨ (s.power.holdRun = false ∧ s.boot.recAtOnce = false ∧ ¬ ueDue ∧ ¬ hourDue))))

def tNv (cl : Nat) (s : State) (i x : Nat) (fw img ok1 ok2 : Bool := false) : Bool := decide (hyps_NvmAndRecord cl s i x fw img ok1 ok2)
def nvS (a n pa win : Nat) (l : List (Fld × Nat × Nat) := []) : State :=
  let s := withRegs (ready s0) ([(Reg.readyFnState, 2, 2), (Reg.readyFnState, 13, 2), (Reg.caps0DramLots, 0, 64), (Reg.lotOwnerOwner, 3, 0x3FD), (Reg.cfgNvmNvmOffset, 0, a), (Reg.cfgNvmLength, 0, n), (Reg.cfgNvmPa, 0, pa), (Reg.cfgNvmWin, 0, win),
    (Reg.cfgNvmWinByte, 0, 0x5A), (Reg.cfgNvmWinByte, 1, 0x77), (Reg.secStatusFirmwareOk, 0, 1), (Reg.secStatusImageOk, 0, 1), (Reg.readyBootImgSlot, 0, 1)] ++ l)
  { s with mem := memPutBytes (lineKey s) s.mem (3*2^30 + 64) [0x31, 0x42, 0x53], boot := { s.boot with nvm := [(0x1002, 0x11), (0x10001, 0x5F), (0x10003, 9), (0x100002, 3)] } }
def upS (at1 ue : Bool) (days : List Nat) (last : Option Nat) : State := let s := nvS 0 0 0 0; { s with clock := { s.clock with up := 10^14 }, boot := { s.boot with recPending := true, recAtOnce := at1, recUe := ue, recUeNs := days, recLastNs := last } }

theorem wit_NvmAndRecord_1 : (([8, 10, 13, 14, 19].all fun cl => tNv cl (nvS 0x10000 0x10000 0 1) 1 0x10001) &&
    ([4, 5, 7, 16].all fun cl => tNv cl (upS true false [] (some (10^14-7))) 0 0x40001 true true true false) &&
    ([9, 12].all fun cl => [0x1000].any (fun a => [(0, 3*2^30+64)].any (fun e => tNv cl (nvS a 64 e.2 e.1) 1 (a+1)))) &&
    (tNv 1 (nvS 0x10000 0x10001 0 1) 1 0x10001) &&
    (tNv 0 (nvS 0x10000 64 (3*2^30) 0 [(Reg.readyFnState, 2, 1)]) 1 0x10001) &&
    (tNv 2 (nvS 0x10000 64 (3*2^30) 0 [(Reg.readyFnState, 13, 1)]) 1 0x10001)) = true := by decide +kernel
theorem wit_NvmAndRecord_2 : ((tNv 17 (upS false true [] (some (10^14-7))) 0 0x40001 true true true false) &&
    ([0].any (fun a => [(0, 0)].any (fun e => tNv 3 (nvS a 64 e.2 e.1) 1 (a+1)))) &&
    (tNv 18 (upS false true (List.replicate 16 (10^14-5)) (some 5)) 0 0x40001 true true true false) &&
    (tNv 6 (let s := nvS 0x10000 64 (3*2^30+64) 0; { s with mem := { s.mem with err := [(3*2^30/64+1, { syms := 0x1F, hard := true, rereadOk := false, wrong := false })] } }) 1 0x10001) &&
    ([(1,1)].any (fun e => (let s := nvS 0 0 0 0 [(Reg.powerHoldRecordOk, 0, e.1), (Reg.powerStatHoldReady, 0, e.2)]; tNv 15 { s with boot := { s.boot with recPending := true }, power := { s.power with holdRun := true } } 0 0x40001 true true true false)))) = true := by decide +kernel

end W20

/-! ### power -/

namespace W21

/-- The hypotheses of clause `cl` of Obligations.PowerStageAndCables, its clauses counted in their order. -/
def hyps_PowerStageAndCables (cl : Nat) (s : State) (high up : Bool) (uf mv w cmw : BitVec 16) (lim : Bool) (cables : List (BitVec 16 × Bool)) (pace : BitVec 4) (cause : TripCause) (port : BitVec 4) (cls : Nat) (b : Band) (i p : Nat) : Bool :=
  let j := port.toNat
  let conv := s.boot.converting = true
  let runs := conv ∧ rd s Reg.powerStatState 0 < 2
  let mean := fun (n : Nat) (l : List Nat) => if l = [] then 0 else (l.take n).sum / (l.take n).length
  let e := rd s Reg.powerHoldCeilingDj 0
  let c := uf.toNat
  let energyMw := mapGet s.power.limitE j 0
  let tripped := rd s Reg.cableState j = 3 ∧ 100000 * rd s Reg.cableFaultMj j ≤ energyMw
  let at15 := s.power.fullSince.any (fun t => decide (t + 1000000 ≤ s.clock.up)) = true
  let idle := s.power.loopNs.all (fun t => decide (t + 50000000 ≤ s.clock.up)) = true
  let lo := rd s Reg.thermBandLo 0
  let hi := rd s Reg.thermBandHi 0
  ((cl == 0 && decide (conv ∨ s.power.holdRun = true)) ||
    (cl == 1 && decide (¬ conv) && decide (s.power.holdRun = false) && decide (s.boot.resetLow = true)) ||
    (cl == 2 && decide (¬ conv) && decide (s.power.holdRun = false) && decide (s.boot.resetLow = false)) ||
    (cl == 3 && decide (conv)) ||
    (cl == 4 && decide (¬ conv)) ||
    (cl == 5 && decide (s.power.holdRun = true) && decide (s.boot.resetLow = false)) ||
    (cl == 6 && decide (s.power.holdRun = true) && decide (s.boot.resetLow = true)) ||
    (cl == 7 && decide (s.power.holdRun = false)) ||
    (cl == 8 && decide (fnReady s 3 = false ∨ ¬ runs)) ||
    (cl == 9 && decide (fnReady s 3 = true) && decide (runs) && decide (c < 100)) ||
    (cl == 10 && decide (fnReady s 3 = true) && decide (runs) && decide (100 ≤ c) && decide (e < 2 ^ 16)) ||
    (cl == 11 && decide (conv)) ||
    (cl == 12 && decide (runs)) ||
    (cl == 13 && decide (¬ runs)) ||
    (cl == 14 && decide (runs) && decide (at15)) ||
    (cl == 15 && decide (¬ (runs ∧ at15))) ||
    (cl == 16 && decide (runs) && decide (cause = .overpower → 1500 < mean 2000 (s.power.samples.map (·.1)))) ||
    (cl == 17 && decide (mean 2000 (s.power.samples.map (·.1)) ≤ 1500)) ||
    (cl == 18 && decide (idle)) ||
    (cl == 19 && decide (¬ idle)) ||
    (cl == 20 && decide (tripped)) ||
    (cl == 21 && decide (¬ tripped)) ||
    (cl == 22 && decide (rd s Reg.cableState j = 4) && decide ((mapGet s.power.trips j []).head?.any (fun t => decide (t + 1000000000 ≤ s.clock.up)) = true)) ||
    (cl == 23 && decide (rd s Reg.cableState j ≠ 4)) ||
    (cl == 24 && decide (rd s Reg.cableState j = 1)) ||
    (cl == 25 && decide (rd s Reg.cableState j ≠ 1)) ||
    (cl == 26 && decide (rd s Reg.cableState j = 5)) ||
    (cl == 27 && decide (rd s Reg.cableState j ≠ 5)) ||
    (cl == 28 && decide (40 ≤ lo) && decide (lo < hi) && decide (hi ≤ rd s Reg.thermCfgTCap 0)) ||
    (cl == 29 && decide (¬ (40 ≤ lo ∧ lo < hi ∧ hi ≤ rd s Reg.thermCfgTCap 0))) ||
    ([30, 31, 32].contains cl && (decide (s.power.band = some b) && (cl == 30 ||
        (cl == 31 && decide (b.untilNs ≤ s.clock.up)) ||
        (cl == 32 && decide (s.clock.up < b.untilNs))))) ||
    (cl == 33 && decide (s.power.band = none)) ||
    (cl == 34 && decide (fnReady s 3 = true) && decide (p < 8) && decide (p < rd s Reg.caps1FronthaulPorts 0) && decide (i < (match rd s Reg.fhPortMode p with | 0 => 1 | 1 => 2 | _ => 4)) && decide (rd s Reg.fhPortLinkUp p < 16)) ||
    (cl == 35 && decide (p < 2) && decide (1 ≤ rd s Reg.readyFnState (5 + p))) ||
    (cl == 36 && decide ((p = 14 ∧ rd s Reg.jeanoCfgEth14 0 = 1) ∨ (p = 15 ∧ rd s Reg.jeanoCfgEth15 0 = 1))) ||
    (cl == 37 && decide (¬ ((p = 14 ∧ rd s Reg.jeanoCfgEth14 0 ≠ 0) ∨ (p = 15 ∧ rd s Reg.jeanoCfgEth15 0 ≠ 0)))))

def pwS (l : List (Fld × Nat × Nat)) (f : State → State := id) : State :=
  let s := withRegs (ready s0) ([(Reg.readyFnState, 34, 2), (Reg.readyFnState, 6, 1), (Reg.healthMgmtStatLink0, 0, 1), (Reg.benchStatePstate, 2, 0), (Reg.benchStateRole, 2, 1), (Reg.thermModelPRunW, 0, 7), (Reg.powerHoldCeilingDj, 0, 90),
    (Reg.thermCfgTCap, 0, 90), (Reg.thermBandLo, 0, 50), (Reg.thermBandHi, 0, 60), (Reg.thermBandMinutes, 0, 5), (Reg.caps1FronthaulPorts, 0, 3), (Reg.fhPortMode, 1, 1), (Reg.jeanoCfgEth15, 0, 1)] ++ l)
  f { s with boot := { s.boot with converting := true, nvm := [(0x1002, 0x11)] }, clock := { s.clock with up := 70 * 10^9 } }
def tPw (cl : Nat) (s : State) (high up := true) (uf := 500) (mv := 48000) (w := 900) (pace := 9) (cause : TripCause := .overpower) (port := 3) (i := 1) (p := 1) : Bool :=
  let cables : List (BitVec 16 × Bool) := [(1,false),(2,true),(3,true),(1000,up),(5,false)]
  decide (hyps_PowerStageAndCables cl s high up (BitVec.ofNat 16 uf) (BitVec.ofNat 16 mv) (BitVec.ofNat 16 w) (cables.getD port (0, false)).1 (cables.getD port (0, false)).2 cables (BitVec.ofNat 4 pace) cause (BitVec.ofNat 4 port) 3 (s.power.band.getD default) i p)

theorem wit_PowerStageAndCables_1 : (([0, 3, 7, 10, 11, 12, 15, 16, 17, 18, 21, 23, 25, 27, 28, 33, 34, 35, 37].all fun cl => tPw cl (pwS []) (cause := .dieThermal) (i := 0)) &&
    ([1, 4, 8, 13].all fun cl => [0].any (fun st => [false].any (fun c => tPw cl (pwS [(Reg.powerStatState, 0, st)] (fun s => { s with boot := { s.boot with converting := c } })) c c))) &&
    ([30, 31].all fun cl => [69*10^9].any (fun e => tPw cl (pwS [] (fun s => { s with power := { s.power with band := some ⟨5,6,some 3,e⟩ } })))) &&
    ([14, 19].all fun cl => [(15,0,some (70*10^9-1000000))].any (fun e => tPw cl (pwS [] (fun s => { s with power := { s.power with paceLoop := e.1, fullSince := e.2.2, loopNs := e.2.2 } })) (pace := e.2.1))) &&
    ([39].any (fun e => tPw 29 (pwS [(Reg.thermBandLo, 0, e)]))) &&
    ([71*10^9].any (fun e => tPw 32 (pwS [] (fun s => { s with power := { s.power with band := some ⟨5,6,some 3,e⟩ } }))))) = true := by decide +kernel
theorem wit_PowerStageAndCables_2 : (([0].any (fun c => tPw 9 (pwS [] (fun s => { s with boot := { s.boot with surveyDone := [0], survey := [(1023, 700000)] } })) (uf := c))) &&
    ([15].any (fun p => [0].any (fun i => [true].any (fun u => tPw 36 (pwS [(Reg.fhPortLinkUp, 1, 9), (Reg.jeanoPortState, 15, 2)]) (up := u) (i := i) (p := p))))) &&
    ([(true,true)].any (fun e => tPw 6 (pwS [] (fun s => { s with boot := { s.boot with converting := false, resetLow := e.2, recPending := true }, power := { s.power with holdRun := e.1 } })) true true)) &&
    ([(true,false)].any (fun e => tPw 5 (pwS [] (fun s => { s with boot := { s.boot with converting := false, resetLow := e.2, recPending := true }, power := { s.power with holdRun := e.1 } })) true true)) &&
    (tPw 2 (pwS [(Reg.powerStatState, 0, 0)] (fun s => { s with boot := { s.boot with converting := false, resetLow := false, recPending := false }, power := { s.power with holdRun := false } })) true true) &&
    ([1].any (fun st => [0].any (fun n => tPw 24 (pwS [(Reg.cableState, 3, st), (Reg.cableFaultMj, 3, 5), (Reg.cableCeilingCw, 3, 40), (Reg.cableTrips, 3, 65534 + n)] (fun s => { s with power := { s.power with limitE := [(3, 499999 + n)], trips := [(3, (List.range n).map (fun k => 69 * 10^9 - k))] } })))))) = true := by decide +kernel
theorem wit_PowerStageAndCables_3 : (([3].any (fun st => [1].any (fun n => tPw 20 (pwS [(Reg.cableState, 3, st), (Reg.cableFaultMj, 3, 5), (Reg.cableCeilingCw, 3, 40), (Reg.cableTrips, 3, 65534 + n)] (fun s => { s with power := { s.power with limitE := [(3, 499999 + n)], trips := [(3, (List.range n).map (fun k => 69 * 10^9 - k))] } }))))) &&
    ([4].any (fun st => [1].any (fun n => tPw 22 (pwS [(Reg.cableState, 3, st), (Reg.cableFaultMj, 3, 5), (Reg.cableCeilingCw, 3, 40), (Reg.cableTrips, 3, 65534 + n)] (fun s => { s with power := { s.power with limitE := [(3, 499999 + n)], trips := [(3, (List.range n).map (fun k => 69 * 10^9 - k))] } }))))) &&
    ([5].any (fun st => [0].any (fun n => tPw 26 (pwS [(Reg.cableState, 3, st), (Reg.cableFaultMj, 3, 5), (Reg.cableCeilingCw, 3, 40), (Reg.cableTrips, 3, 65534 + n)] (fun s => { s with power := { s.power with limitE := [(3, 499999 + n)], trips := [(3, (List.range n).map (fun k => 69 * 10^9 - k))] } })))))) = true := by decide +kernel

end W21

/-! ### health -/

namespace W22

/-- The hypotheses of clause `cl` of Obligations.MembersAndHealthList, its clauses counted in their order. -/
def hyps_MembersAndHealthList (cl : Nat) (s : State) (port : Bool) (d : Datagram) (node : BitVec 10) (e : Evidence) (c l : HChange) (i : Nat) : Bool :=
  let up := s.clock.up
  let ns := s.clock.ns
  let inDomain := fun (n : Nat) => sameDomain s n = true
  let member := fun (n : Nat) => inDomain n ∧ rd s Reg.healthMemberPresent (n % 64) ≠ 0
  let link := fun (p : Nat) => rd s (if p = 0 then Reg.healthMgmtStatLink0 else Reg.healthMgmtStatLink1) 0
  let pn := if port then 1 else 0
  let beat := mapGet s.health.ticked 0 0 + rd s Reg.healthMgmtHbMs 0 * 1000000 ≤ up
  let decay := mapGet s.health.ticked 1 0 + rd s Reg.healthScoreCfgDecayS 0 * 1000000000 ≤ up
  let good := d.magic = 0x314E5250 ∧ d.ver = 1 ∧ d.reserved = 0 ∧ inDomain d.node
  let n := node.toNat
  let m := n % 64
  let silent := member n ∧ mapGet s.health.heard (2 * m + pn) 0 + rd s Reg.healthMgmtDeadMs 0 * 1000000 ≤ up
  let v := rd s Reg.healthMemberScore i
  let window := rd s Reg.healthListCfgWindowH 0 * 3600000000000
  let expels := s.health.expels.filter (fun t => decide (ns < t + window))
  let fresh := fun (e : Evidence) => member e.node ∧ e ∉ s.health.evidence
  let own : Evidence := ⟨n, false, 0, ns⟩
  let next := (rd s Reg.healthListVersion 0 + 1) % 2 ^ 32
  let reach := reachable s 0xF00040 = true
  let suspect := rd s Reg.healthMemberSuspect m ≠ 0
  let alive := rd s Reg.healthMemberMgmt0 m ≠ 0 ∨ rd s Reg.healthMemberMgmt1 m ≠ 0 ∨
    (List.range 64).any (fun a => a != m && (a / 8 == m / 8 || a % 8 == m % 8) && linkUsable s (n / 64 * 64 + a) n) = true
  let proof := s.health.evidence.any (fun e => e.node == n && decide (ns < e.time + window)) = true
  let budget := expels.length < rd s Reg.healthListCfgBudget 0
  let cv := rd s Reg.healthListVersion 0
  ((cl == 0 && decide (beat)) ||
    (cl == 1 && decide (¬ beat)) ||
    (cl == 2 && decide (link pn = 0)) ||
    (cl == 3 && decide (link pn ≠ 0) && decide (¬ good)) ||
    (cl == 4 && decide (link pn ≠ 0) && decide (good) && decide (¬ member d.node)) ||
    (cl == 5 && decide (link pn ≠ 0) && decide (good) && decide (member d.node)) ||
    (cl == 6 && decide (silent)) ||
    (cl == 7 && decide (¬ silent)) ||
    (cl == 8 && decide (decay) && decide (i < 64) && decide (v < 2 ^ 16)) ||
    (cl == 9 && decide (¬ decay)) ||
    (cl == 10 && decide (reachable s 0xF00048 = false)) ||
    (cl == 11 && decide (reachable s 0xF00048 = true) && decide (¬ member n)) ||
    (cl == 12 && decide (reachable s 0xF00048 = true) && decide (fresh own)) ||
    (cl == 13 && decide (fresh e)) ||
    (cl == 14 && decide (¬ fresh e)) ||
    cl == 15 ||
    (cl == 16 && (decide (¬ reach) && (
      cl == 16))) ||
    (cl == 17 && decide (reach) && decide (¬ member n)) ||
    (cl == 18 && decide (reach) && decide (member n)) ||
    (cl == 19 && decide (reach) && decide (member n) && decide (¬ suspect)) ||
    (cl == 20 && decide (reach) && decide (member n) && decide (suspect)) ||
    (cl == 21 && decide (reach) && decide (member n) && decide (alive)) ||
    (cl == 22 && decide (reach) && decide (member n) && decide (¬ alive)) ||
    (cl == 23 && decide (reach) && decide (member n) && decide (¬ (suspect ∧ proof))) ||
    (cl == 24 && decide (reach) && decide (member n) && decide (suspect) && decide (proof) && decide (¬ budget)) ||
    (cl == 25 && decide (reach) && decide (member n) && decide (suspect) && decide (proof) && decide (budget)) ||
    (cl == 26 && decide (¬ member c.node)) ||
    (cl == 27 && decide (member c.node) && decide (c.version = next) && decide (s.health.early = [])) ||
    (cl == 28 && decide (member c.node) && decide (c.version ≠ next) && decide (c.version = cv) && decide (s.health.last = some l) && decide (l.version = cv) && decide (c.origin < l.origin) && decide (l.origin ≠ ownNode s)) ||
    (cl == 29 && decide (member c.node) && decide (c.version ≠ next) && decide (c.version = cv) && decide (s.health.last = none ∨ (s.health.last = some l ∧ (l.version ≠ cv ∨ l.origin ≤ c.origin)))) ||
    (cl == 30 && decide (member c.node) && decide (c.version ≠ next) && decide (cv < c.version) && decide (c ∉ s.health.early)) ||
    (cl == 31 && decide (member c.node) && decide (c.version ≠ next) && decide (c.version < cv)))

def hlS (l : List (Fld × Nat × Nat)) (f : State → State := id) : State :=
  let s := withRegs (ready s0) ([(Reg.readyFnState, 3, 2), (Reg.healthMgmtStatLink0, 0, 1), (Reg.healthMemberPresent, 5, 1), (Reg.healthMemberPresent, 3, 1), (Reg.healthMemberMgmt0, 5, 1), (Reg.jeanoNodeRowsM1, 0, 7), (Reg.jeanoNodeColsM1, 0, 7),
    (Reg.healthMemberScore, 5, 100), (Reg.healthMemberSuspect, 5, 1), (Reg.healthScoreCfgSuspectOff, 0, 88), (Reg.healthListCfgWindowH, 0, 1), (Reg.healthListCfgBudget, 0, 2), (Reg.healthListVersion, 0, 7), (Reg.healthMemberList, 9, 2)] ++ l)
  f { s with clock := { s.clock with up := 90 * 10^9, ns := 4000 * 10^9 } }
def dg (node inc ver res : Nat) : Datagram := ⟨0x314E5250, ver, node, 1, inc, 0, 0, 3, 4, 5, 6, res⟩
def tHl (cl : Nat) (s : State) (port := false) (d : Datagram := dg 5 7 1 0) (node := 5) (e : Evidence := ⟨5, true, 2, 399 * 10^9⟩) (c : HChange := ⟨8, 3, .watch, 5⟩) (i := 5) : Bool :=
  decide (hyps_MembersAndHealthList cl s port d (BitVec.ofNat 10 node) e c (s.health.last.getD default) i)

theorem wit_MembersAndHealthList_1 : (([0, 5, 6, 8, 12, 13, 15, 18, 20, 21, 23, 27].all fun cl => [0].any (fun k => tHl cl (hlS [(Reg.healthMemberScore, 5, k)]))) &&
    ([7, 11, 14, 17].all fun cl => [true].any (fun r => [4].any (fun n => [[⟨5, true, 2, 399 * 10^9⟩]].any (fun es => tHl cl (hlS [(Reg.readyFnState, 3, if r then 2 else 1)] (fun s => { s with health := { s.health with evidence := es, expels := [1, 401 * 10^9] } })) (node := n))))) &&
    ([19, 22].all fun cl => [0].any (fun k => tHl cl (hlS [] (fun s => { s with health := { s.health with ticked := [(0, k * 10^9), (1, k * 10^9 - 30 * 10^9)], heard := [(10, (90 * k - 8000) * 10^9)] } })) (node := 3 + k / 45))) &&
    ([1, 9].all fun cl => [90].any (fun k => tHl cl (hlS [] (fun s => { s with health := { s.health with ticked := [(0, k * 10^9), (1, k * 10^9 - 30 * 10^9)], heard := [(10, (90 * k - 8000) * 10^9)] } })) (node := 3 + k / 45))) &&
    ([10, 16].all fun cl => [false].any (fun r => [5].any (fun n => [[]].any (fun es => tHl cl (hlS [(Reg.readyFnState, 3, if r then 2 else 1)] (fun s => { s with health := { s.health with evidence := es, expels := [1, 401 * 10^9] } })) (node := n))))) &&
    ([true].any (fun p => [dg 5 7 1 0].any (fun d => tHl 2 (hlS []) p d)))) = true := by decide +kernel
theorem wit_MembersAndHealthList_2 : (([false].any (fun p => [dg 4 1 1 0].any (fun d => tHl 4 (hlS []) p d))) &&
    ([false].any (fun p => [dg 5 1 2 0].any (fun d => tHl 3 (hlS []) p d))) &&
    ([true].any (fun r => [5].any (fun n => [[⟨5, false, 0, 4000*10^9⟩]].any (fun es => tHl 25 (hlS [(Reg.readyFnState, 3, if r then 2 else 1)] (fun s => { s with health := { s.health with evidence := es, expels := [1, 401 * 10^9] } })) (node := n))))) &&
    ([6].any (fun v => [5].any (fun n => [none].any (fun l => [9].any (fun i => tHl 31 (hlS [(Reg.healthMemberList, 5, 2)] (fun s => { s with health := { s.health with last := l, prevList := [(3, 1), (9, 0)] } })) (c := ⟨v, 3, .expel, n⟩) (i := i)))))) &&
    ([6].any (fun v => [4].any (fun n => [none].any (fun l => [9].any (fun i => tHl 26 (hlS [(Reg.healthMemberList, 5, 2)] (fun s => { s with health := { s.health with last := l, prevList := [(3, 1), (9, 0)] } })) (c := ⟨v, 3, .expel, n⟩) (i := i)))))) &&
    ([7].any (fun v => [5].any (fun n => [none].any (fun l => [9].any (fun i => tHl 29 (hlS [(Reg.healthMemberList, 5, 2)] (fun s => { s with health := { s.health with last := l, prevList := [(3, 1), (9, 0)] } })) (c := ⟨v, 3, .expel, n⟩) (i := i))))))) = true := by decide +kernel
theorem wit_MembersAndHealthList_3 : (([9].any (fun v => [5].any (fun n => [none].any (fun l => [9].any (fun i => tHl 30 (hlS [(Reg.healthMemberList, 5, 2)] (fun s => { s with health := { s.health with last := l, prevList := [(3, 1), (9, 0)] } })) (c := ⟨v, 3, .expel, n⟩) (i := i)))))) &&
    ([0].any (fun b => [5].any (fun n => tHl 24 (hlS [(Reg.healthListCfgBudget, 0, b), (Reg.healthMemberMgmt0, 5, 0)] (fun s => { s with health := { s.health with evidence := [⟨5, true, 1, 500 * 10^9⟩], expels := [1, 401 * 10^9] } })) (node := n) (i := 9)))) &&
    ([7].any (fun v => [5].any (fun n => [some ⟨7, 4, .dead, 9⟩].any (fun l => [9].any (fun i => tHl 28 (hlS [(Reg.healthMemberList, 5, 2)] (fun s => { s with health := { s.health with last := l, prevList := [(3, 1), (9, 0)] } })) (c := ⟨v, 3, .expel, n⟩) (i := i))))))) = true := by decide +kernel

end W22

/-! ### proving -/

namespace W23

/-- The hypotheses of clause `cl` of Obligations.ShadowAndProving, its clauses counted in their order. -/
def hyps_ShadowAndProving (cl : Nat) (s : State) (cid : Nat) (b b3 : BitVec 5) (x x3 : BitVec 64) (c : Cmd) (u : BitVec 6) (engine pass inBand : Bool) (pattern : BitVec 3) (load : BitVec 2) (r : ProveRun) (i k : Nat) (mask : BitVec 32) : Bool :=
  let up := s.clock.up
  let here := getCmd s cid = some c ∧ c.bench < 32
  let checks := here ∧ c.st = .issued ∧ c.member = false ∧ shadowSelected s c = true ∧ c.checked = false
  let mine := fun (b : BitVec 5) => shadowBench s c b.toNat = true
  let apart := checks ∧ mine b ∧ mine b3 ∧ b3 ≠ b ∧ x.toNat ≠ c.assay
  let n := u.toNat
  let p := pattern.toNat
  let h := s.health
  let swept : ProveRun := ⟨n, engine, p, load.toNat, true⟩
  let able := proveUnit s engine n = true ∧ h.runs.any (fun r => r.unit == n && r.engine == engine) = false
  let window := rd s Reg.healthProveState 0 ≠ 1 ∧ rd s Reg.healthProveIdleEnable 0 ≠ 0 ∧ (if engine then p = 6 else p < 6) ∧ load.toNat ≤ 1 ∧ proveRoom s engine n p = true
  let found := h.runs.find? (fun r => r.unit == n && r.engine == engine) = some r
  let free := proveUnit s engine n = true
  let beat := mapGet h.ticked 2 0 + rd s Reg.healthProveIdlePeriodS 0 * 1000000000 ≤ up
  decide (benchCount s ≤ 32) && ((cl == 0 && decide (here) && decide (¬ checks)) ||
      (cl == 1 && decide (getCmd s cid = none)) ||
      (cl == 2 && decide (checks) && decide (mine b) && decide (x.toNat = c.assay)) ||
      (cl == 3 && decide (checks) && decide (mine b) && decide (x.toNat ≠ c.assay)) ||
      (cl == 4 && decide (apart) && decide (x3.toNat = c.assay)) ||
      (cl == 5 && decide (apart) && decide (x3 = x)) ||
      (cl == 6 && decide (apart) && decide (x3.toNat ≠ c.assay) && decide (x3 ≠ x)) ||
      (cl == 7 && decide (checks) && decide ((List.range (benchCount s)).any (shadowBench s c) = false)) ||
      (cl == 8 && decide (checks) && decide ((List.range (benchCount s)).any (shadowBench s c) = true)) ||
      (cl == 9 && decide (able) && decide (swept ∈ h.due)) ||
      (cl == 10 && decide (able) && decide (swept ∉ h.due) && decide (window)) ||
      (cl == 11 && decide (¬ (able ∧ (swept ∈ h.due ∨ window)))) ||
      (cl == 12 && decide (h.runs.find? (fun r => r.unit == n && r.engine == engine) = none)) ||
      (cl == 13 && decide (found) && decide (¬ free)) ||
      (cl == 14 && decide (found) && decide (free)) ||
      (cl == 15 && decide (found) && decide (free) && decide (engine = false → n < 32)) ||
      (cl == 16 && decide (beat)) ||
      (cl == 17 && decide (¬ beat)) ||
      (cl == 18 && decide (reachable s 0xF00064 = false)) ||
      (cl == 19 && decide (reachable s 0xF00064 = true) && decide (rd s Reg.healthProveState 0 = 1)) ||
      (cl == 20 && decide (reachable s 0xF00064 = true) && decide (rd s Reg.healthProveState 0 ≠ 1)) ||
      (cl == 21 && decide (reachable s 0xF00074 = false)) ||
      (cl == 22 && decide (reachable s 0xF00074 = true)))

def shC (st : CmdSt) (op : Nat) : Cmd := { mkC op 2 0 st with idx := 0, assay := 77 }
def shS (c : Cmd) (l : List (Fld × Nat × Nat)) (f : State → State := id) : State :=
  let s := bench0 c (ctxB 2)
  f (withRegs s ([(Reg.healthShadowActive, 0, 1), (Reg.healthShadowShadowN, 0, 2), (Reg.readyFnState, 34, 2), (Reg.readyFnState, 36, 2), (Reg.readyFnState, 37, 2), (Reg.readyFnState, 18, 2), (Reg.sieveEngEnabled, 5, 1), (Reg.healthProveIdleEnable, 0, 1),
    (Reg.healthProvePatterns, 0, 127), (Reg.healthProveLoads, 0, 3), (Reg.healthMemberPresent, 0, 1)] ++ l))
def tSh (cl : Nat) (s : State) (b := 4) (b3 := 5) (x := 77) (x3 := 77) (u := 4) (engine := false) (pass inBand := true) (pattern := 3) (load := 1) (i := 4) (k := 4) (cid := 7) : Bool :=
  decide (hyps_ShadowAndProving cl s cid (BitVec.ofNat 5 b) (BitVec.ofNat 5 b3) (BitVec.ofNat 64 x) (BitVec.ofNat 64 x3) ((getCmd s cid).getD default) (BitVec.ofNat 6 u) engine pass inBand (BitVec.ofNat 3 pattern) (BitVec.ofNat 2 load)
    ((s.health.runs.find? (fun r => r.unit == u && r.engine == engine)).getD default) i k 5)
def rn (u : Nat) (e : Bool) (p l : Nat) (w : Bool) : ProveRun := ⟨u, e, p, l, w⟩

theorem wit_ShadowAndProving_1 : (([3, 4, 8, 10, 12, 17, 20, 22].all fun cl => [CmdSt.issued].any (fun st => [2].any (fun op => [(78,77)].any (fun e => [(4,5)].any (fun b => tSh cl (shS (shC st op) []) (b := b.1) (b3 := b.2) (x := e.1) (x3 := e.2)))))) &&
    ([0, 11, 14, 15, 19].all fun cl => [true].any (fun ps => [1].any (fun st => [[rn 5 true 6 0 true]].any (fun rs => [(5,true)].any (fun e => tSh cl (shS (shC .issued 1) [(Reg.healthProveState, 0, st), (Reg.healthProveIdxTail, 0, 63)] (fun s => { s with health := { s.health with runs := rs } })) (u := e.1) (engine := e.2) (pass := ps)))))) &&
    ([18, 21].all fun cl => tSh cl (shS (shC .issued 1) [(Reg.readyFnState, 3, 0)])) &&
    (tSh 1 (shS (shC .issued 1) []) (cid := 8)) &&
    (tSh 7 (shS (shC .issued 2) [(Reg.readyFnState, 36, 0), (Reg.readyFnState, 37, 0)])) &&
    ([CmdSt.issued].any (fun st => [2].any (fun op => [(77,77)].any (fun e => [(4,5)].any (fun b => tSh 2 (shS (shC st op) []) (b := b.1) (b3 := b.2) (x := e.1) (x3 := e.2))))))) = true := by decide +kernel
theorem wit_ShadowAndProving_2 : (([CmdSt.issued].any (fun st => [2].any (fun op => [(78,78)].any (fun e => [(4,5)].any (fun b => tSh 5 (shS (shC st op) []) (b := b.1) (b3 := b.2) (x := e.1) (x3 := e.2)))))) &&
    ([CmdSt.issued].any (fun st => [2].any (fun op => [(78,79)].any (fun e => [(4,5)].any (fun b => tSh 6 (shS (shC st op) []) (b := b.1) (b3 := b.2) (x := e.1) (x3 := e.2)))))) &&
    ([60].any (fun t => [[]].any (fun pr => tSh 16 (shS (shC .issued 1) [(Reg.healthProveIdlePeriodS, 0, 60), (Reg.healthProveMissed, 0, 2^32-1)] (fun s => { s with clock := { s.clock with up := t * 10^9 }, health := { s.health with proved := pr } }))))) &&
    ([true].any (fun ps => [0].any (fun st => [[rn 9 false 3 1 true]].any (fun rs => [(9,false)].any (fun e => tSh 13 (shS (shC .issued 1) [(Reg.healthProveState, 0, st), (Reg.healthProveIdxTail, 0, 63)] (fun s => { s with health := { s.health with runs := rs } })) (u := e.1) (engine := e.2) (pass := ps)))))) &&
    ([[]].any (fun rs => [[rn 4 false 3 1 true]].any (fun due => [(4,false,3)].any (fun e => tSh 9 (shS (shC .issued 1) [(Reg.healthProveState, 0, if due = [] then 0 else 1)] (fun s => { s with health := { s.health with runs := rs, due := due } })) (u := e.1) (engine := e.2.1) (pattern := e.2.2) (load := if e.2.1 then 0 else 1)))))) = true := by decide +kernel

end W23


end Sys2Proof.Tests
end

section
/-! SUPPORT. Scope (chapter 00): accesses of the host to registers, and what settles the statements about them. -/

namespace Sys2Proof.Machine

/-! ### The rows as the model's own meanings -/

theorem exec_registerWrite (fn : Fin 513) (a : BitVec 32) (w : Bool) (d : BitVec 64) (s : State) :
    exec (.registerWrite fn a w d) s = execRegisterWrite fn a w d s := rfl

theorem exec_lowWordRead (fn : Fin 513) (a : BitVec 32) (w : Bool) (s : State) :
    exec (.lowWordRead fn a w) s = execLowWordRead fn a w s := rfl

theorem exec_benchWindowAbsentAccess (b : BitVec 5) (off : BitVec 16) (w : Bool) (s : State) :
    exec (.benchWindowAbsentAccess b off w) s = execBenchWindowAbsentAccess b off w s := rfl

/-! ### Reads of a word -/

/-- Every block of registers that is always reachable begins at a multiple of 8. -/
theorem alwaysReachable_of_next {a : Nat} (ha : a % 8 = 0) (h : alwaysReachable (a + 4) = true) : alwaysReachable a = true := by
  simp only [alwaysReachable, Bool.or_eq_true, Bool.and_eq_true, decide_eq_true_eq] at h ⊢
  omega

/-- PF0 reaches the low word of a pair when it reaches the high one. -/
theorem reachable_of_next {s : State} {a : Nat} (ha : a % 8 = 0) (h : reachable s (a + 4) = true) : reachable s a = true := by
  simp only [reachable, Bool.or_eq_true] at h ⊢
  exact h.imp (alwaysReachable_of_next ha) id

theorem regWord_of_not_reachable {s : State} {a : Nat} (h : reachable s a = false) : regWord s 0 a = 0xFFFFFFFF := by
  simp [regWord, h]

/-- A read of the word does nothing beside returning it: no stopped clock or absent unit hides it, and it pops no queue. -/
def ReadsPlainly (s : State) (fn a : Nat) : Prop := fn = 0 → reachable s a = true → pfClosed s a = none ∧ readEffect s a = s

theorem readWord_of_plain {s : State} {fn a : Nat} (h : ReadsPlainly s fn a) : readWord s fn a = (s, regWord s fn a) := by
  unfold readWord
  split
  case isTrue hf =>
    obtain ⟨rfl, hr⟩ := hf
    obtain ⟨hc, he⟩ := h rfl hr
    simp only [hc, he]
  case isFalse => rfl

theorem readWord_of_closed {s : State} {a : Nat} {st : Status} (hr : reachable s a = true) (hc : pfClosed s a = some st) :
    readWord s 0 a = (logErr s 0 st 0 0 a, 0xFFFFFFFF) := by
  simp [readWord, hr, hc]

theorem readWord_of_not_reachable {s : State} {a : Nat} (h : reachable s a = false) : readWord s 0 a = (s, 0xFFFFFFFF) := by
  simp [readWord, h, regWord_of_not_reachable]

/-! ### The read latch (R12) -/

theorem latchHigh_of_not_reachable {s : State} {a : Nat} (h : reachable s a = false) : latchHigh s 0 a = s := by
  simp [latchHigh, h]

@[simp] theorem latchHigh_out (s : State) (fn a : Nat) : (latchHigh s fn a).out = s.out := by
  unfold latchHigh; split <;> rfl

/-- The low word of a 64-bit register leaves its high word, as it is then, in the latch. -/
theorem mapFind_latchHigh {s : State} {fn a : Nat} (hl : lowOf64 fn a = true) (hr : fn ≠ 0 ∨ reachable s a = true) :
    mapFind (latchHigh s fn a).ten.latch (latchKey fn (a + 4)) = some (regWord s fn (a + 4)) := by
  have hc : (lowOf64 fn a && (fn != 0 || reachable s a)) = true := by simpa [hl] using hr
  simp only [latchHigh, hc, if_true]
  split
  · obtain ⟨rfl, rfl⟩ := ‹_›
    simp [mapFind_mapSet, latchKey]
  · simp

/-! ### LOW_WORD_READ -/

section
variable {s : State} {fn : Fin 513} {addr : BitVec 32}

/-- A word that waits in the latch is answered from it, and leaves it. -/
theorem execLowWordRead_latched {v : Nat} (h : mapFind s.ten.latch (latchKey fn.val addr.toNat) = some v) :
    execLowWordRead fn addr false s =
      .next (emit { s with ten := { s.ten with latch := mapErase s.ten.latch (latchKey fn.val addr.toNat) } } (.regData [v])) := by
  simp [execLowWordRead, h]

/-- Any other word is read, and its register's high word latched unless the word is closed. -/
theorem execLowWordRead_unlatched (h : mapFind s.ten.latch (latchKey fn.val addr.toNat) = none) :
    execLowWordRead fn addr false s =
      .next (emit (if fn.val = 0 ∧ (pfClosed s addr.toNat).isSome = true then (readWord s fn.val addr.toNat).1
        else latchHigh (readWord s fn.val addr.toNat).1 fn.val addr.toNat) (.regData [(readWord s fn.val addr.toNat).2])) := by
  simp [execLowWordRead, h]

/-- A plain read of a pair that is not the time base's answers both words and changes nothing else. -/
theorem execLowWordRead_wide (ha : addr.toNat % 8 = 0) (hlo : ReadsPlainly s fn.val addr.toNat)
    (hhi : ReadsPlainly s fn.val (addr.toNat + 4)) (ht : addr.toNat ≠ 0x700010) :
    execLowWordRead fn addr true s =
      .next (emit s (.regData [regWord s fn.val addr.toNat, regWord s fn.val (addr.toNat + 4)])) := by
  have hhigh : (if (pfClosed s addr.toNat).isSome && fn.val == 0 then (s, 0xFFFFFFFF) else readWord s fn.val (addr.toNat + 4)) =
      (s, regWord s fn.val (addr.toNat + 4)) := by
    split
    case isTrue hf =>
      obtain ⟨hc, h0⟩ : (pfClosed s addr.toNat).isSome = true ∧ fn.val = 0 := by rwa [Bool.and_eq_true, beq_iff_eq] at hf
      have hr : reachable s addr.toNat = false := by
        by_contra hr
        simp [(hlo h0 (by simpa using hr)).1] at hc
      have hr' : reachable s (addr.toNat + 4) = false := by
        by_contra h
        simp [reachable_of_next ha (by simpa using h)] at hr
      rw [h0, regWord_of_not_reachable hr']
    case isFalse => exact readWord_of_plain hhi
  simp only [execLowWordRead, if_true, readWord_of_plain hlo, hhigh, ht, false_and, and_false, if_false]

/-- A plain read that the latch does not answer changes the latch and the answer only. -/
theorem lowWordRead_plain_gives (h : mapFind s.ten.latch (latchKey fn.val addr.toNat) = none) (hp : ReadsPlainly s fn.val addr.toNat) :
    Gives (.lowWordRead fn addr false) s (fun t => t.out = .regData [regWord s fn.val addr.toNat] :: s.out ∧ OnlyParts [.ten, .out] s t ∧
      (lowOf64 fn.val addr.toNat = true → (fn.val ≠ 0 ∨ reachable s addr.toNat = true) →
        mapFind t.ten.latch (latchKey fn.val (addr.toNat + 4)) = some (regWord s fn.val (addr.toNat + 4)))) := by
  refine ⟨_, (exec_lowWordRead ..).trans (execLowWordRead_unlatched h), ?_⟩
  simp only [readWord_of_plain hp]
  split
  case isTrue hc =>
    refine ⟨rfl, (emit_kept (Kept.refl _ _) rfl).1, fun _ hr => ?_⟩
    have hr := hr.resolve_left (not_not_intro hc.1)
    simp [(hp hc.1 hr).1] at hc
  case isFalse =>
    exact ⟨by simp [emit], (emit_kept (latchHigh_kept (Kept.refl _ _) rfl) rfl).1, mapFind_latchHigh⟩

end

/-! ### A staging copy wider than its register -/

/-- IMAGE is READY, and the staging copy of comparator 50's 64-bit compare_ns holds 2 ^ 64: no write leaves such a value there, but the
register file is a map to plain numbers and can hold it. -/
def wideCompare : State :=
  { State.reset with regs := [(fldKey Reg.readyFnState 3, 2), (fldKey Reg.trigCompareNs 50, 2 ^ 64)] }

theorem reachable_wideCompare : reachable wideCompare 0x702640 = true := by decide +kernel

theorem exec_compareWrite (s : State) : exec (.registerWrite 0 0x702640 true 0) s = .next (pfWrite s 0x702640 64 0) := by
  simp [exec_registerWrite, execRegisterWrite]

/-- The written bits take their place below bit 64, which stays set, so the whole is beyond the field's range and the write is discarded. -/
theorem rd_pfWrite_wideCompare : rd (pfWrite wideCompare 0x702640 64 0) Reg.trigCompareNs 50 = 2 ^ 64 := by decide +kernel

end Sys2Proof.Machine

section

open Sys2Proof Sys2Proof.Machine

/-- Settles O11: both sides of bench_count are branches of the row. -/
theorem absentBenchWindow : Obligations.AbsentBenchWindow := by
  intro b off w s
  simp only [Gives, exec_benchWindowAbsentAccess, execBenchWindowAbsentAccess]
  refine ⟨fun h => ?_, fun h => ?_⟩
  · have hb : ¬ b.toNat < benchCount s := Nat.not_lt.2 h
    exact ⟨⟨_, if_neg hb, rfl⟩, ⟨_, if_neg hb, rfl⟩⟩
  · exact ⟨s, if_pos h, rfl⟩

/-- Settles O10: what one read answers follows from whether its word waits in the latch, is reached, and is closed. -/
theorem lowWordReadLatchesHighWord : Obligations.LowWordReadLatchesHighWord := by
  intro fn addr s v st a open_
  refine ⟨lowWordRead_plain_gives, fun h => ?_, fun h hr hc => ?_, fun h hr => ?_, fun ha hlo hhi ht => ?_⟩
  · refine ⟨_, (exec_lowWordRead ..).trans (execLowWordRead_latched h), rfl, ?_, ?_⟩
    · exact (emit_kept (Kept.setTen (Kept.refl _ s) rfl) rfl).1
    · simp [mapFind_mapErase, latchKey, a]
  · refine ⟨_, (exec_lowWordRead ..).trans (execLowWordRead_unlatched (by simpa [latchKey] using h)), ?_⟩
    simp [readWord_of_closed hr hc, hc, a]
  · refine ⟨_, (exec_lowWordRead ..).trans (execLowWordRead_unlatched (by simpa [latchKey] using h)), ?_⟩
    simp [readWord_of_not_reachable hr, latchHigh_of_not_reachable hr, a]
  · exact ⟨_, (exec_lowWordRead ..).trans (execLowWordRead_wide ha hlo hhi ht), rfl⟩

/-- Refutes O9: of a comparator whose staging copy holds 2 ^ 64 a 64-bit write of 0 is discarded, where the statement says that it is taken.
The clause of compare_ns has no premise that the copy held before fits its 64 bits, as those of HEALTH_IRQ and MEM_RSV have. -/
theorem not_registerWritesFollowAccessCodes : ¬ Obligations.RegisterWritesFollowAccessCodes := by
  intro h
  obtain ⟨-, -, -, -, -, hcompare, -⟩ := h wideCompare 0 0 0 false 0 0
  obtain ⟨t, ht, htaken, -⟩ := hcompare reachable_wideCompare rfl
  obtain rfl : pfWrite wideCompare 0x702640 64 0 = t := Host.Outcome.next.inj ((exec_compareWrite _).symm.trans ht)
  rw [rd_pfWrite_wideCompare] at htaken
  exact absurd htaken (by decide)

end

end

section
/-! SUPPORT. Start and restart (chapter 17): what reports, a restricted start, a reset, the record and the identity leave; and what the
statement StartAndRestart, which stays unsettled, turns on. Its clauses of a verified image depend on Config.sm2Verify, of which nothing
can be proved: accepting nothing, the statement holds; accepting one image, it fails, by an error log tail wider than its register. -/

namespace Sys2Proof.Machine

/-! ### A function's report -/

/-- The fields a function's report touches, whatever the function: READY_SUMMARY's bits and failed count, and READY_FN. -/
def reportKey (k : Nat) : Bool := (524288 ≤ k && k ≤ 524294) || k == 524304 || (526336 ≤ k && k < 542720)

theorem summaryBit_key {i : Nat} {f : Fld} (h : summaryBit i = some f) : reportKey (fldKey f 0) = true ∧ fldKey f 0 < 524304 := by
  unfold summaryBit at h
  split at h <;> cases h <;> exact ⟨rfl, by decide⟩

theorem reportKey_fn {f : Fld} {i : Nat} (hf : f ∈ [Reg.readyFnState, Reg.readyFnStatus, Reg.readyFnReadyMs]) (hi : i < 256) :
    reportKey (fldKey f i) = true := by
  simp only [List.mem_cons, List.not_mem_nil, or_false] at hf
  simp only [reportKey, Bool.or_eq_true, Bool.and_eq_true, decide_eq_true_eq]
  rcases hf with rfl | rfl | rfl <;> simp only [fldKey, Reg.readyFnState, Reg.readyFnStatus, Reg.readyFnReadyMs] <;> omega

/-- What a read after a report gives, of any field the report's own updates do not write. -/
theorem rd_fnSet_of_ne {s : State} {i st j : Nat} {c : Status} {f : Fld} (hstate : fldKey Reg.readyFnState i ≠ fldKey f j)
    (hstatus : fldKey Reg.readyFnStatus i ≠ fldKey f j) (hms : fldKey Reg.readyFnReadyMs i ≠ fldKey f j)
    (hfailed : fldKey Reg.readySummaryFailed 0 ≠ fldKey f j) (hbit : ∀ g, summaryBit i = some g → fldKey g 0 ≠ fldKey f j) :
    rd (fnSet s i st c) f j = rd s f j := by
  unfold fnSet
  dsimp only
  split
  case h_1 => split <;> split <;> simp [bumpSat, rd_wr_ne, *]
  case h_2 hb =>
    rw [rd_wr_ne _ _ _ _ _ _ (hbit _ hb)]
    split <;> split <;> simp [bumpSat, rd_wr_ne, *]

/-- A report leaves every other field. -/
theorem rd_fnSet_of_not_reportKey {s : State} {i st j : Nat} {c : Status} {f : Fld} (hi : i < 256) (hf : reportKey (fldKey f j) = false) :
    rd (fnSet s i st c) f j = rd s f j := by
  have hne : ∀ g n, reportKey (fldKey g n) = true → fldKey g n ≠ fldKey f j := fun g n hg he => by simp [he, hf] at hg
  exact rd_fnSet_of_ne (hne _ _ (reportKey_fn (by simp) hi)) (hne _ _ (reportKey_fn (by simp) hi)) (hne _ _ (reportKey_fn (by simp) hi))
    (hne _ _ rfl) (fun g hg => hne _ _ (summaryBit_key hg).1)

theorem rd_fnSet_state (s : State) (i st j : Nat) (c : Status) :
    rd (fnSet s i st c) Reg.readyFnState j = if i = j then st % 8 else rd s Reg.readyFnState j := by
  split
  case isTrue h =>
    subst h
    have hbit : ∀ g, summaryBit i = some g → fldKey g 0 ≠ fldKey Reg.readyFnState i := fun g hg => by
      have := (summaryBit_key hg).2
      simp only [fldKey, Reg.readyFnState] at this ⊢; omega
    have hstatus : fldKey Reg.readyFnStatus i ≠ fldKey Reg.readyFnState i := by simp [fldKey, Reg.readyFnState, Reg.readyFnStatus]
    have hms : fldKey Reg.readyFnReadyMs i ≠ fldKey Reg.readyFnState i := by simp [fldKey, Reg.readyFnState, Reg.readyFnReadyMs]
    have hfailed : fldKey Reg.readySummaryFailed 0 ≠ fldKey Reg.readyFnState i := by
      simp only [fldKey, Reg.readyFnState, Reg.readySummaryFailed]; omega
    have hw : Reg.readyFnState.width = 3 := rfl
    unfold fnSet
    dsimp only
    split
    case h_1 => split <;> split <;> simp [bumpSat, rd_wr_ne, *]
    case h_2 hb =>
      rw [rd_wr_ne _ _ _ _ _ _ (hbit _ hb)]
      split <;> split <;> simp [bumpSat, rd_wr_ne, *]
  case isFalse h =>
    refine rd_fnSet_of_ne ?_ ?_ ?_ ?_ fun g hg => ?_
    case refine_5 => have := (summaryBit_key hg).2; simp only [fldKey, Reg.readyFnState] at this ⊢; omega
    all_goals simp only [fldKey, Reg.readyFnState, Reg.readyFnStatus, Reg.readyFnReadyMs, Reg.readySummaryFailed]; omega

theorem rd_fnSet_status (s : State) (i st j : Nat) (c : Status) :
    rd (fnSet s i st c) Reg.readyFnStatus j = if i = j then (if st = 3 then c.code else 0) else rd s Reg.readyFnStatus j := by
  split
  case isTrue h =>
    subst h
    have hbit : ∀ g, summaryBit i = some g → fldKey g 0 ≠ fldKey Reg.readyFnStatus i := fun g hg => by
      have := (summaryBit_key hg).2
      simp only [fldKey, Reg.readyFnStatus] at this ⊢; omega
    have hms : fldKey Reg.readyFnReadyMs i ≠ fldKey Reg.readyFnStatus i := by simp [fldKey, Reg.readyFnStatus, Reg.readyFnReadyMs]
    have hfailed : fldKey Reg.readySummaryFailed 0 ≠ fldKey Reg.readyFnStatus i := by
      simp only [fldKey, Reg.readyFnStatus, Reg.readySummaryFailed]; omega
    have hcode : c.code % 2 ^ Reg.readyFnStatus.width = c.code := by cases c <;> rfl
    have hc : (if st = 3 then c.code else 0) % 2 ^ Reg.readyFnStatus.width = if st = 3 then c.code else 0 := by
      split
      · exact hcode
      · rfl
    unfold fnSet
    dsimp only
    split
    case h_1 => split <;> split <;> simp [bumpSat, rd_wr_ne, *]
    case h_2 hb =>
      rw [rd_wr_ne _ _ _ _ _ _ (hbit _ hb)]
      split <;> split <;> simp [bumpSat, rd_wr_ne, *]
  case isFalse h =>
    refine rd_fnSet_of_ne ?_ ?_ ?_ ?_ fun g hg => ?_
    case refine_5 => have := (summaryBit_key hg).2; simp only [fldKey, Reg.readyFnStatus] at this ⊢; omega
    all_goals simp only [fldKey, Reg.readyFnState, Reg.readyFnStatus, Reg.readyFnReadyMs, Reg.readySummaryFailed]; omega

/-! ### Settling -/

/-- The functions with a property keep their report, and every field that is no part of a report stays. -/
def ReportsKeep (P : Nat → Prop) (s t : State) : Prop :=
  (∀ j, P j → rd t Reg.readyFnState j = rd s Reg.readyFnState j ∧ rd t Reg.readyFnStatus j = rd s Reg.readyFnStatus j) ∧
    ∀ f j, reportKey (fldKey f j) = false → rd t f j = rd s f j

/-- Functions that were settled keep their report. -/
def ReportsGrow (s t : State) : Prop := ReportsKeep (fun j => 2 ≤ rd s Reg.readyFnState j) s t

theorem ReportsKeep.refl (P : Nat → Prop) (s : State) : ReportsKeep P s s := ⟨fun _ _ => ⟨rfl, rfl⟩, fun _ _ _ => rfl⟩

theorem ReportsKeep.trans {P : Nat → Prop} {s t u : State} (h : ReportsKeep P s t) (k : ReportsKeep P t u) : ReportsKeep P s u :=
  ⟨fun j hj => ⟨(k.1 j hj).1.trans (h.1 j hj).1, (k.1 j hj).2.trans (h.1 j hj).2⟩, fun f j hf => (k.2 f j hf).trans (h.2 f j hf)⟩

theorem ReportsKeep.foldl {P : Nat → Prop} {α : Type} {g : State → α → State} {l : List α} (k : ∀ x ∈ l, ∀ t, ReportsKeep P t (g t x)) (s : State) :
    ReportsKeep P s (l.foldl g s) := by
  induction l generalizing s with
  | nil => exact .refl P s
  | cons x l ih => exact (k x (by simp) s).trans (ih (fun y hy => k y (by simp [hy])) _)

theorem reportsKeep_fnSet {P : Nat → Prop} {s : State} {i st : Nat} {c : Status} (hi : i < 256) (h : ¬ P i) : ReportsKeep P s (fnSet s i st c) := by
  refine ⟨fun j hj => ?_, fun f j hf => rd_fnSet_of_not_reportKey hi hf⟩
  have hij : i ≠ j := by rintro rfl; exact h hj
  exact ⟨by rw [rd_fnSet_state, if_neg hij], by rw [rd_fnSet_status, if_neg hij]⟩

theorem ReportsGrow.trans {s t u : State} (h : ReportsGrow s t) (k : ReportsGrow t u) : ReportsGrow s u := by
  refine ReportsKeep.trans h ⟨fun j hj => k.1 j ?_, k.2⟩
  simpa only [(h.1 j hj).1] using hj

/-- A fold of updates none of which forgets a settled report. -/
theorem ReportsGrow.foldl {α : Type} {g : State → α → State} {l : List α} (k : ∀ x ∈ l, ∀ t, ReportsGrow t (g t x)) (s : State) :
    ReportsGrow s (l.foldl g s) := by
  induction l generalizing s with
  | nil => exact .refl _ s
  | cons x l ih => exact (k x (by simp) s).trans (ih (fun y hy => k y (by simp [hy])) _)

theorem reportsGrow_settleFn {s : State} {i : Nat} (hi : i < 256) : ReportsGrow s (settleFn s i) := by
  unfold settleFn
  dsimp only
  split
  case isTrue => exact .refl _ s
  case isFalse h =>
    have hset : ∀ st c, ReportsGrow s (fnSet s i st c) := fun st c => reportsKeep_fnSet hi (by omega)
    split
    · split
      · split
        · exact hset 1 .ok
        · exact .refl _ s
      · exact hset 3 .notReady
    · split
      · exact hset 1 .ok
      · exact .refl _ s

theorem reportsGrow_settle (s : State) : ReportsGrow s (settle s) :=
  ReportsGrow.foldl (fun i hi _ => reportsGrow_settleFn (by revert i; decide +kernel)) s

/-! ### A restricted start -/

/-- The fields that a restricted start reports beside READY_FN (R3, R433). -/
def restrictFlds : List Fld :=
  [Reg.readySummaryRestricted, Reg.powerStatState, Reg.secStatusFailReason, Reg.caps0BenchCount, Reg.caps0DramLots, Reg.caps0JeanoPortMask,
   Reg.caps1FronthaulPorts, Reg.caps1ChiselCount, Reg.caps1Sieve, Reg.caps1Tdfe, Reg.caps1Chirp, Reg.caps1RadioUnits]

/-- The start's registers as `restrict` writes them: its cause, and CAPS of zero. -/
def restrictCause (s : State) (st : Status) : State :=
  let s := wr s Reg.readySummaryRestricted 0 1
  let s := if rd s Reg.powerStatState 0 = 0 then wr s Reg.powerStatState 0 1 else s
  let s := if rd s Reg.secStatusFailReason 0 = 0 then wr s Reg.secStatusFailReason 0 st.code else s
  [Reg.caps0BenchCount, Reg.caps0DramLots, Reg.caps0JeanoPortMask, Reg.caps1FronthaulPorts, Reg.caps1ChiselCount, Reg.caps1Sieve,
    Reg.caps1Tdfe, Reg.caps1Chirp, Reg.caps1RadioUnits].foldl (fun s f => wr s f 0 0) s

/-- What CAPS reports absent reads ABSENT. -/
def restrictAbsent (s : State) : State := (capsFns.filter (fun k => rd s Reg.readyFnState k < 2)).foldl (fun s k => fnSet s k 4 .ok) s

/-- A stack is powered down. -/
def stackDown (s : State) (k : Nat) : State := if rd s Reg.readyFnState k = 3 then s else fnSet s k 3 .notReady

/-- Stacks that have started are powered down. -/
def restrictStacks (s : State) : State := [9, 10, 11, 12].foldl stackDown s

theorem restrict_eq (s : State) (i : Nat) (st : Status) :
    restrict s i st = settle (restrictStacks (restrictAbsent (restrictCause (fnSet s i 3 st) st))) := rfl

theorem rd_restrictCause_of_ne {s : State} {st : Status} {f : Fld} {j : Nat} (h : ∀ g ∈ restrictFlds, fldKey g 0 ≠ fldKey f j) :
    rd (restrictCause s st) f j = rd s f j := by
  simp only [restrictFlds, List.forall_mem_cons] at h
  obtain ⟨h1, h2, h3, h4, h5, h6, h7, h8, h9, h10, h11, h12, -⟩ := h
  simp only [restrictCause, List.foldl_cons, List.foldl_nil]
  repeat rw [rd_wr_ne _ _ _ _ _ _ (by assumption)]
  split <;> split <;> simp [rd_wr_ne, *]

theorem rd_restrictCause_restricted (s : State) (st : Status) : rd (restrictCause s st) Reg.readySummaryRestricted 0 = 1 := by
  simp only [restrictCause, List.foldl_cons, List.foldl_nil]
  repeat rw [rd_wr_ne _ _ _ _ _ _ (by decide)]
  split <;> split <;> simp [rd_wr_ne, fldKey, Reg.readySummaryRestricted, Reg.powerStatState, Reg.secStatusFailReason]

theorem rd_restrictCause_caps (s : State) (st : Status) :
    rd (restrictCause s st) Reg.caps0BenchCount 0 = 0 ∧ rd (restrictCause s st) Reg.caps0DramLots 0 = 0 := by
  simp only [restrictCause, List.foldl_cons, List.foldl_nil]
  constructor
  all_goals
    repeat rw [rd_wr_ne _ _ _ _ _ _ (by decide)]
    simp

theorem reportsKeep_restrictAbsent (s : State) : ReportsKeep (· ∉ capsFns) s (restrictAbsent s) := by
  have hlt : ∀ i ∈ capsFns, i < 256 := by decide +kernel
  refine ReportsKeep.foldl (fun i hi t => ?_) s
  have hi := (List.mem_filter.1 hi).1
  exact reportsKeep_fnSet (hlt i hi) (not_not_intro hi)

theorem rd_stackDown_state (s : State) (k j : Nat) :
    rd (stackDown s k) Reg.readyFnState j = if k = j then 3 else rd s Reg.readyFnState j := by
  unfold stackDown
  split
  · split <;> simp_all
  · rw [rd_fnSet_state]

theorem reportsKeep_restrictStacks (s : State) : ReportsKeep (· ∉ [9, 10, 11, 12]) s (restrictStacks s) := by
  have hlt : ∀ i ∈ [9, 10, 11, 12], i < 256 := by decide
  refine ReportsKeep.foldl (fun i hi t => ?_) s
  unfold stackDown
  split
  · exact .refl _ t
  · exact reportsKeep_fnSet (hlt i hi) (not_not_intro hi)

/-- Every stack reads FAILED in a restricted start. -/
theorem rd_restrictStacks_stack (s : State) {k : Nat} (hk : k ∈ [9, 10, 11, 12]) : rd (restrictStacks s) Reg.readyFnState k = 3 := by
  simp only [restrictStacks, List.foldl_cons, List.foldl_nil, rd_stackDown_state]
  simp only [List.mem_cons, List.not_mem_nil, or_false] at hk
  rcases hk with rfl | rfl | rfl | rfl <;> rfl

/-- A function that is no unit of CAPS and no stack keeps through a restricted start the report it was given. -/
theorem rd_restrict_report {s : State} {i j : Nat} {st : Status} {f : Fld} (hf : f ∈ [Reg.readyFnState, Reg.readyFnStatus]) (hj : j < 9)
    (hset : 2 ≤ rd (fnSet s i 3 st) Reg.readyFnState j) : rd (restrict s i st) f j = rd (fnSet s i 3 st) f j := by
  have hcause : ∀ g, g ∈ [Reg.readyFnState, Reg.readyFnStatus] → rd (restrictCause (fnSet s i 3 st) st) g j = rd (fnSet s i 3 st) g j := by
    intro g hg
    have hout : ∀ r ∈ restrictFlds, fldKey r 0 < 526336 ∨ 542720 ≤ fldKey r 0 := by decide
    refine rd_restrictCause_of_ne fun r hr => ?_
    have := hout r hr
    simp only [List.mem_cons, List.not_mem_nil, or_false] at hg
    rcases hg with rfl | rfl <;> simp only [fldKey, Reg.readyFnState, Reg.readyFnStatus] at this ⊢ <;> omega
  have hcaps : j ∉ capsFns := fun h => by
    have hge : ∀ i ∈ capsFns, 9 ≤ i := by decide +kernel
    have := hge j h
    omega
  have hstack : j ∉ [9, 10, 11, 12] := by simp; omega
  have habsent := (reportsKeep_restrictAbsent (restrictCause (fnSet s i 3 st) st)).1 j hcaps
  have hdown := (reportsKeep_restrictStacks (restrictAbsent (restrictCause (fnSet s i 3 st) st))).1 j hstack
  have hstate := hdown.1.trans (habsent.1.trans (hcause _ (by simp)))
  have hgrow := (reportsGrow_settle (restrictStacks (restrictAbsent (restrictCause (fnSet s i 3 st) st)))).1 j (by simpa only [hstate] using hset)
  rw [restrict_eq]
  simp only [List.mem_cons, List.not_mem_nil, or_false] at hf
  rcases hf with rfl | rfl
  · exact hgrow.1.trans hstate
  · exact hgrow.2.trans (hdown.2.trans (habsent.2.trans (hcause _ (by simp))))

/-- Fields of no report are, after a restricted start, as its cause left them. -/
theorem rd_restrict_of_not_reportKey {s : State} {i j : Nat} {st : Status} {f : Fld} (hf : reportKey (fldKey f j) = false) :
    rd (restrict s i st) f j = rd (restrictCause (fnSet s i 3 st) st) f j := by
  rw [restrict_eq, (reportsGrow_settle _).2 f j hf, (reportsKeep_restrictStacks _).2 f j hf, (reportsKeep_restrictAbsent _).2 f j hf]

/-- What a restricted start neither reports nor writes beside its reports stays. -/
theorem rd_restrict_of_ne {s : State} {i j : Nat} {st : Status} {f : Fld} (hi : i < 256) (hf : reportKey (fldKey f j) = false)
    (hne : ∀ g ∈ restrictFlds, fldKey g 0 ≠ fldKey f j) : rd (restrict s i st) f j = rd s f j := by
  rw [rd_restrict_of_not_reportKey hf, rd_restrictCause_of_ne hne, rd_fnSet_of_not_reportKey hi hf]

/-- Function `j` has failed with its status and the start is restricted: CAPS of zero, and no stack runs (R3, R433, R446). -/
def Halted (j : Nat) (st : Status) (t : State) : Prop :=
  rd t Reg.readyFnState j = 3 ∧ rd t Reg.readyFnStatus j = st.code ∧ rd t Reg.readySummaryRestricted 0 = 1 ∧
    rd t Reg.caps0BenchCount 0 = 0 ∧ rd t Reg.caps0DramLots 0 = 0 ∧ ([9, 10, 11, 12].all (fun k => rd t Reg.readyFnState k == 3)) = true

theorem halted_restrict (s : State) {i : Nat} (st : Status) (hi : i < 9) : Halted i st (restrict s i st) := by
  have hstate : rd (fnSet s i 3 st) Reg.readyFnState i = 3 := by simp [rd_fnSet_state]
  refine ⟨?_, ?_, ?_, ?_, ?_, ?_⟩
  · rw [rd_restrict_report (by simp) hi (by omega), hstate]
  · rw [rd_restrict_report (by simp) hi (by omega)]; simp [rd_fnSet_status]
  · rw [rd_restrict_of_not_reportKey rfl, rd_restrictCause_restricted]
  · rw [rd_restrict_of_not_reportKey rfl, (rd_restrictCause_caps _ _).1]
  · rw [rd_restrict_of_not_reportKey rfl, (rd_restrictCause_caps _ _).2]
  · simp only [List.all_eq_true, beq_iff_eq]
    intro k hk
    have hdown := rd_restrictStacks_stack (restrictAbsent (restrictCause (fnSet s i 3 st) st)) hk
    rw [restrict_eq, ((reportsGrow_settle _).1 k (by omega)).1, hdown]

/-! ### Reset and the start sequence (R500, R439) -/

theorem exec_resetNAssert (s : State) : exec .resetNAssert s = .next (resetLow s) := rfl
theorem exec_resetNRelease (s : State) : exec .resetNRelease s = .next (resetHigh s) := rfl
theorem exec_readyRestart (key : BitVec 32) (s : State) :
    exec (.readyRestart key) s = .next (if key = 0x5A5AA5A5 ∧ s.boot.resetLow = false then resetHigh (resetLow s) else s) := rfl

theorem resetLow_of_holdRun {s : State} (h : s.power.holdRun = true) : resetLow s = { s with boot := { s.boot with resetLow := true } } := by
  simp [resetLow, h]

theorem resetLow_of_not_holdRun {s : State} (h : s.power.holdRun = false) :
    resetLow s = coldState { s with boot := { s.boot with resetLow := true } } := by
  simp [resetLow, h]

theorem resetHigh_of_high {s : State} (h : s.boot.resetLow = false) : resetHigh s = s := by simp [resetHigh, h]

theorem resetHigh_of_start {s : State} (hl : s.boot.resetLow = true) (hc : s.boot.converting = true) (hh : s.power.holdRun = false) :
    resetHigh s = startSeq { s with boot := { s.boot with resetLow := false } } := by
  simp [resetHigh, hl, hc, hh]

theorem resetHigh_of_wait {s : State} (hl : s.boot.resetLow = true) (h : s.boot.converting = false ∨ s.power.holdRun = true) :
    resetHigh s = { s with boot := { s.boot with resetLow := false } } := by
  rcases h with h | h <;> simp [resetHigh, hl, h]

/-- Every register of a cold state but the hold-up store's charge is at its reset value. -/
theorem rd_coldState_of_ne {s : State} {f : Fld} {i : Nat} (h : fldKey f i ≠ fldKey Reg.powerHoldStoredDj 0) :
    rd (coldState s) f i = rd State.reset f i := by
  unfold coldState
  rw [rd_wr_ne _ _ _ _ _ _ h.symm]
  rfl

theorem rd_coldState_stored (s : State) : rd (coldState s) Reg.powerHoldStoredDj 0 = rd s Reg.powerHoldStoredDj 0 % 2 ^ 16 := by
  unfold coldState
  exact rd_wr_same ..

/-- What the start sequence leaves, of a state whose registers count from `s.free`. -/
def Begun (s t : State) : Prop :=
  t.mem.salt = Config.entropy s.free % 2 ^ 26 ∧ mapFind t.mem.keys 0 = some (Config.entropy (s.free + 1) % 2 ^ 256) ∧
    rd t Reg.jeanoNodeIncarnation 0 = Config.entropy (s.free + 2) % 2 ^ 16 ∧ t.free = s.free + 3 ∧
    ([1, 2, 4].all (fun j => rd t Reg.readyFnState j == 1)) = true ∧ rd t Reg.timeClkStatusUcieLock 0 = 1 ∧ t.clock = State.reset.clock ∧
    t.boot.resetLow = s.boot.resetLow ∧ t.boot.nvm = s.boot.nvm ∧ t.host = s.host ∧ t.work = State.reset.work

/-- Only the draws, the reset line, the NVM and host memory of the state before matter. -/
theorem Begun.congr {s s' t : State} (h : Begun s t) (hf : s.free = s'.free) (hl : s.boot.resetLow = s'.boot.resetLow)
    (hn : s.boot.nvm = s'.boot.nvm) (hh : s.host = s'.host) : Begun s' t := by
  unfold Begun at h ⊢
  rwa [hf, hl, hn, hh] at h

/-- The start sequence between the cold state and its three functions coming up. -/
def startDraws (s : State) : State :=
  let s := drawn { s with mem := { s.mem with salt := Config.entropy s.free % 2 ^ 26 } }
  let s := freshKey s 0
  let s := drawn (wr s Reg.jeanoNodeIncarnation 0 (Config.entropy s.free))
  [Reg.timeClkStatusRefOk, Reg.timeClkStatusRootLock, Reg.timeClkStatusSerdesLock, Reg.timeClkStatusUcieLock].foldl
    (fun s f => wr s f 0 1) s

theorem startSeq_eq (s : State) : startSeq s = [1, 2, 4].foldl (fun s i => fnSet s i 1 .ok) (startDraws (coldState s)) := rfl

theorem startDraws_kept (s : State) : Kept [.regs, .mem, .free] s (startDraws s) := by
  unfold startDraws
  refine Kept.foldl ?_ fun t f h => wr_kept h rfl
  exact drawn_kept (wr_kept (freshKey_kept (drawn_kept (Kept.setMem (Kept.refl _ s) rfl id) rfl) rfl) rfl) rfl

theorem rd_drawn (s : State) (f : Fld) (i : Nat) : rd (drawn s) f i = rd s f i := rfl
theorem drawn_free (s : State) : (drawn s).free = s.free + 1 := rfl
/-- A drawn key pair takes its slot; its key_check is a value of no concern here. -/
theorem setKey_eq (s : State) (f key : Nat) : ∃ kc, setKey s f key false =
    wr (wr { s with mem := { s.mem with keys := mapSet s.mem.keys f key, delivered := s.mem.delivered.filter (· != f) } }
      Reg.secVfDelivered f 0) Reg.secVfKeyCheck f kc := by
  unfold setKey
  exact ⟨_, rfl⟩

theorem freshKey_mem (s : State) (f : Nat) : (freshKey s f).mem =
    { s.mem with keys := mapSet s.mem.keys f (Config.entropy s.free % 2 ^ 256), delivered := s.mem.delivered.filter (· != f) } := by
  unfold freshKey
  obtain ⟨kc, h⟩ := setKey_eq s f (Config.entropy s.free % 2 ^ 256)
  rw [h]
  rfl

theorem freshKey_free (s : State) (f : Nat) : (freshKey s f).free = s.free + 1 := by
  unfold freshKey
  obtain ⟨kc, h⟩ := setKey_eq s f (Config.entropy s.free % 2 ^ 256)
  rw [h]
  rfl

/-- The state whose salt has been drawn. -/
def saltDrawn (s : State) : State := drawn { s with mem := { s.mem with salt := Config.entropy s.free % 2 ^ 26 } }

/-- The PLLs of a start have locked. -/
def locksSet (s : State) : State :=
  wr (wr (wr (wr s Reg.timeClkStatusRefOk 0 1) Reg.timeClkStatusRootLock 0 1) Reg.timeClkStatusSerdesLock 0 1) Reg.timeClkStatusUcieLock 0 1

theorem startDraws_eq (s : State) : startDraws s = locksSet (drawn (wr (freshKey (saltDrawn s) 0) Reg.jeanoNodeIncarnation 0
    (Config.entropy (freshKey (saltDrawn s) 0).free))) := rfl

theorem locksSet_mem (s : State) : (locksSet s).mem = s.mem := rfl
theorem locksSet_free (s : State) : (locksSet s).free = s.free := rfl

theorem rd_locksSet (s : State) : rd (locksSet s) Reg.jeanoNodeIncarnation 0 = rd s Reg.jeanoNodeIncarnation 0 ∧
    rd (locksSet s) Reg.timeClkStatusUcieLock 0 = 1 := by
  unfold locksSet
  constructor
  · repeat rw [rd_wr_ne _ _ _ _ _ _ (by decide)]
  · rw [rd_wr_same]; rfl

theorem startDraws_draws (s : State) :
    (startDraws s).mem.salt = Config.entropy s.free % 2 ^ 26 ∧ mapFind (startDraws s).mem.keys 0 = some (Config.entropy (s.free + 1) % 2 ^ 256) ∧
      (startDraws s).free = s.free + 3 := by
  rw [startDraws_eq, locksSet_mem, locksSet_free, drawn_mem, drawn_free, wr_mem, wr_free, freshKey_mem, freshKey_free]
  exact ⟨rfl, mapFind_mapSet_same .., rfl⟩

theorem rd_startDraws (s : State) : rd (startDraws s) Reg.jeanoNodeIncarnation 0 = Config.entropy (s.free + 2) % 2 ^ 16 ∧
    rd (startDraws s) Reg.timeClkStatusUcieLock 0 = 1 := by
  rw [startDraws_eq, (rd_locksSet _).1, rd_drawn, rd_wr_same, freshKey_free]
  exact ⟨rfl, (rd_locksSet _).2⟩

theorem begun_startSeq (s : State) : Begun s (startSeq s) := by
  rw [startSeq_eq]
  set c := coldState s
  set d := startDraws c
  set t := [1, 2, 4].foldl (fun s i => fnSet s i 1 .ok) d with ht
  have hkeep : ReportsKeep (fun _ => False) d t := ReportsKeep.foldl (fun i hi t => reportsKeep_fnSet (by simp at hi; omega) not_false) d
  have hdt : OnlyParts [.regs] d t := (Kept.foldl (Kept.refl _ d) (fun t i h => fnSet_kept h rfl)).1
  have hcd := (startDraws_kept c).1
  have hpart := fun p (hp : p ∉ [Part.regs, .mem, .free]) => Same.trans (hcd p hp) (hdt p (by simp at hp ⊢; exact hp.1))
  have hmem : t.mem = d.mem := hdt .mem (by decide)
  have hfree : t.free = d.free := hdt .free (by decide)
  have hclock : t.clock = c.clock := hpart .clock (by decide)
  have hboot : t.boot = c.boot := hpart .boot (by decide)
  have hhost : t.host = c.host := hpart .host (by decide)
  have hwork : t.work = c.work := hpart .work (by decide)
  obtain ⟨dsalt, dkey, dfree⟩ := startDraws_draws c
  obtain ⟨rinc, rlock⟩ := rd_startDraws c
  have hfns : ([1, 2, 4].all (fun j => rd t Reg.readyFnState j == 1)) = true := by simp [ht, rd_fnSet_state]
  unfold Begun
  rw [hmem, hfree, hclock, hboot, hhost, hwork, hkeep.2 _ _ rfl, hkeep.2 _ _ rfl]
  exact ⟨dsalt, dkey, rinc, dfree, hfns, rlock, rfl, rfl, rfl, rfl, rfl⟩

/-- A pulse of RESET_N starts a converting device, as of the state before it. -/
theorem begun_restart {s : State} (hc : s.boot.converting = true) (hh : s.power.holdRun = false) :
    Begun { s with boot := { s.boot with resetLow := false } } (resetHigh (resetLow s)) := by
  have hlow := resetLow_of_not_holdRun hh
  have hstart := resetHigh_of_start (s := resetLow s) (by rw [hlow]; rfl) (by rw [hlow]; exact hc) (by rw [hlow]; rfl)
  rw [hstart, hlow]
  exact (begun_startSeq _).congr rfl rfl rfl rfl

/-- What RESET_N low leaves of a state, at one register field (R500). -/
def Cold (fl : Fld) (idx : Nat) (s t : State) : Prop :=
  (fldKey fl idx ≠ fldKey Reg.powerHoldStoredDj 0 → rd t fl idx = rd State.reset fl idx) ∧
    rd t Reg.powerHoldStoredDj 0 = rd s Reg.powerHoldStoredDj 0 % 2 ^ 16 ∧ t.work = State.reset.work ∧ t.yards = State.reset.yards ∧
    t.fab = State.reset.fab ∧ t.cores = State.reset.cores ∧ t.mem.dram = State.reset.mem.dram ∧ t.host = s.host ∧ t.boot.nvm = s.boot.nvm ∧
    t.boot.resetLow = true ∧ t.live = State.reset.live ∧ t.sec = State.reset.sec ∧ t.power = State.reset.power ∧ t.clock = State.reset.clock ∧
    t.out = s.out ∧ t.free = s.free

theorem cold_coldState (fl : Fld) (idx : Nat) (s : State) : Cold fl idx s (coldState { s with boot := { s.boot with resetLow := true } }) :=
  ⟨rd_coldState_of_ne, rd_coldState_stored _, rfl, rfl, rfl, rfl, rfl, rfl, rfl, rfl, rfl, rfl, rfl, rfl, rfl, rfl⟩

/-! ### The record (R438, R452) -/

/-- The winning record is loaded, or noted lost in MR4, and only the parts that a record feeds differ. -/
def Recorded (bank : Nat) (s t : State) : Prop :=
  (recWinner s = none → rd t Reg.readyBootPrecLost 0 = 1 ∧ rd t Reg.secMrValue 4 =
      digest (leBytes 32 (rd s Reg.secMrValue 4) ++ leBytes 32 (digest [0x50, 0x52, 0x45, 0x43, 0x4C, 0x4F, 0x53, 0x54])) % 2 ^ 256) ∧
    (recWinner s = some bank → t.boot.recBank = bank ∧ t.boot.recValid = true ∧ rd t Reg.readyBootPrecBank 0 = bank) ∧
    OnlyParts [.regs, .mem, .boot, .health] s t

theorem recWinner_lt {s : State} {b : Nat} (h : recWinner s = some b) : b < 2 := by
  unfold recWinner at h
  split at h
  · simp only [Option.some.injEq] at h
    split at h <;> omega
  all_goals simp at h <;> omega

/-- Folds of register writes keep the boot part. -/
theorem boot_foldl {α : Type} {g : State → α → State} (hg : ∀ s x, (g s x).boot = s.boot) (l : List α) (s : State) :
    (l.foldl g s).boot = s.boot := by
  induction l generalizing s with
  | nil => rfl
  | cons x l ih => exact (ih _).trans (hg s x)

/-- A fold of register writes leaves a field that none of them writes. -/
theorem rd_foldl {α : Type} {g : State → α → State} {f : Fld} {j : Nat} {l : List α} (hg : ∀ x ∈ l, ∀ s, rd (g s x) f j = rd s f j) (s : State) :
    rd (l.foldl g s) f j = rd s f j := by
  induction l generalizing s with
  | nil => rfl
  | cons x l ih => exact (ih (fun y hy => hg y (by simp [hy])) _).trans (hg x (by simp) s)

/-- A health list entry of a record, shown. -/
def showListed (s : State) (w : Nat) : State := wr s Reg.healthMemberList (w % 64) (w / 64)

/-- A quarantined engine of a record, shown. -/
def showQuarantined (s : State) (e : Nat) : State := wr s Reg.sieveEngQuarantined e 1

/-- A one-instance field of a record, shown. -/
def showField (s : State) (e : Fld × Nat) : State := wr s e.1 0 e.2

/-- A record's load: the bank is the winner, and its registers are written, the bank's number first. -/
theorem recLoad_eq (s : State) (b : Nat) : ∃ (s1 : State) (l : List (Fld × Nat)) (q : Nat) (m : List Nat),
    recLoad s b = m.foldl showListed ((bitList 64 q).foldl showQuarantined (((Reg.readyBootPrecBank, b) :: l).foldl showField s1)) ∧
      l.map (·.1) = [Reg.readyNextFwSlot, Reg.readyNextImgSlot, Reg.secSvnFwMin, Reg.secSvnImgMin, Reg.secSvnL1Min, Reg.powerStatLastStop,
        Reg.healthListVersion, Reg.healthQuarBenches] ∧
      s1.boot.recBank = b ∧ s1.boot.recValid = true ∧ s1.boot.nvm = s.boot.nvm := by
  unfold recLoad
  extract_lets
  exact ⟨_, [(_, _), (_, _), (_, _), (_, _), (_, _), (_, _), (_, _), (_, _)], _, _, rfl, rfl, rfl, rfl, rfl⟩

/-- The boot part of a state whose record is loaded. -/
theorem recLoad_boot (s : State) (b : Nat) :
    (recLoad s b).boot.recBank = b ∧ (recLoad s b).boot.recValid = true ∧ (recLoad s b).boot.nvm = s.boot.nvm := by
  obtain ⟨s1, l, q, m, h, -, hb⟩ := recLoad_eq s b
  have hlisted : ∀ t w, (showListed t w).boot = t.boot := fun _ _ => rfl
  have hquar : ∀ t e, (showQuarantined t e).boot = t.boot := fun _ _ => rfl
  have hfield : ∀ t e, (showField t e).boot = t.boot := fun _ _ => rfl
  rwa [h, boot_foldl hlisted, boot_foldl hquar, boot_foldl hfield]

theorem rd_recLoad_bank {s : State} {b : Nat} (hb : b < 2) : rd (recLoad s b) Reg.readyBootPrecBank 0 = b := by
  obtain ⟨s1, l, q, m, h, hl, -⟩ := recLoad_eq s b
  have hlisted : ∀ w ∈ m, ∀ t, rd (showListed t w) Reg.readyBootPrecBank 0 = rd t Reg.readyBootPrecBank 0 := fun w _ t =>
    rd_wr_ne _ _ _ _ _ _ (by simp only [fldKey, Reg.readyBootPrecBank, Reg.healthMemberList]; omega)
  have hquar : ∀ e ∈ bitList 64 q, ∀ t, rd (showQuarantined t e) Reg.readyBootPrecBank 0 = rd t Reg.readyBootPrecBank 0 := fun e _ t =>
    rd_wr_ne _ _ _ _ _ _ (by simp only [fldKey, Reg.readyBootPrecBank, Reg.sieveEngQuarantined]; omega)
  have hfields : ∀ e ∈ l, ∀ t, rd (showField t e) Reg.readyBootPrecBank 0 = rd t Reg.readyBootPrecBank 0 := fun e he t => by
    have hne : ∀ f ∈ l.map (·.1), fldKey f 0 ≠ fldKey Reg.readyBootPrecBank 0 := by rw [hl]; decide
    exact rd_wr_ne _ _ _ _ _ _ (hne _ (List.mem_map_of_mem he))
  rw [h, rd_foldl hlisted, rd_foldl hquar, List.foldl_cons, rd_foldl hfields, showField, rd_wr_same]
  exact Nat.mod_eq_of_lt hb

/-- A start without a record. -/
theorem loadRecord_of_none {s : State} (h : recWinner s = none) :
    loadRecord s = wr (wr s Reg.readyBootPrecLost 0 1) Reg.secMrValue 4
      (digest (leBytes 32 (rd (wr s Reg.readyBootPrecLost 0 1) Reg.secMrValue 4) ++ leBytes 32 (digest [0x50, 0x52, 0x45, 0x43, 0x4C, 0x4F, 0x53, 0x54]))) := by
  simp only [loadRecord, h, mrExtend, precLostMark]

theorem loadRecord_of_some {s : State} {b : Nat} (h : recWinner s = some b) : loadRecord s = recLoad s b := by simp only [loadRecord, h]

theorem loadRecord_nvm (s : State) : (loadRecord s).boot.nvm = s.boot.nvm := by
  cases h : recWinner s with
  | none => rw [loadRecord_of_none h, wr_boot, wr_boot]
  | some b => rw [loadRecord_of_some h, (recLoad_boot _ _).2.2]

theorem recorded_loadRecord (bank : Nat) (s : State) : Recorded bank s (loadRecord s) := by
  refine ⟨fun h => ?_, fun h => ?_, (loadRecord_kept (Kept.refl _ s) rfl).1⟩
  · rw [loadRecord_of_none h]
    refine ⟨?_, ?_⟩
    · rw [rd_wr_ne _ _ _ _ _ _ (by decide), rd_wr_same]; rfl
    · rw [rd_wr_same, rd_wr_ne _ _ _ _ _ _ (by decide)]; rfl
  · rw [loadRecord_of_some h]
    exact ⟨(recLoad_boot _ _).1, (recLoad_boot _ _).2.1, rd_recLoad_bank (recWinner_lt h)⟩

/-- What the record left holds after updates of other registers. -/
theorem Recorded.of_regs {bank : Nat} {s t u : State} (h : Recorded bank s t) (hu : OnlyParts [.regs] t u)
    (hr : ∀ k ∈ [(Reg.readyBootPrecLost, 0), (Reg.secMrValue, 4), (Reg.readyBootPrecBank, 0)], rd u k.1 k.2 = rd t k.1 k.2) : Recorded bank s u := by
  obtain ⟨hlost, hbank, hparts⟩ := h
  simp only [List.forall_mem_cons] at hr
  obtain ⟨rlost, rmr, rbank, -⟩ := hr
  have hboot : u.boot = t.boot := hu .boot (by decide)
  refine ⟨fun h => ⟨rlost.trans (hlost h).1, rmr.trans (hlost h).2⟩, fun h => ?_, fun p hp => ?_⟩
  · obtain ⟨b, v, r⟩ := hbank h
    exact ⟨by rw [hboot, b], by rw [hboot, v], rbank.trans r⟩
  · exact Same.trans (hparts p hp) (hu p (by simp at hp ⊢; exact hp.1))

theorem recorded_restrict {bank : Nat} {s v : State} (h : Recorded bank s v) (st : Status) : Recorded bank s (restrict v 0 st) := by
  refine h.of_regs (restrict_kept (Kept.refl _ v) rfl).1 ?_
  simp only [List.forall_mem_cons]
  refine ⟨?_, ?_, ?_, by simp⟩ <;> exact rd_restrict_of_ne (by decide) rfl (by decide)

/-! ### Objects of two slots -/

/-- Why an object, or its absence, is refused by a check. -/
def refusal (f : List Byte → Option Status) (x : Option (List Byte)) : Status := match x with | none => .badFormat | some o => (f o).getD .ok

/-- A slot is empty, or its object fails a check. -/
def Refused (f : List Byte → Option Status) (x : Option (List Byte)) : Prop := x.all (fun o => (f o).isSome) = true

theorem regionObject_congr {s t : State} (h : t.boot.nvm = s.boot.nvm) (r : Nat × Nat) : regionObject t r = regionObject s r := by
  have hbytes : ∀ a n, nvmBytes t a n = nvmBytes s a n := fun a n => by simp [nvmBytes, nvmByte, h]
  simp [regionObject, hbytes]

theorem tryObject_refused {s : State} {r : Nat × Nat} {kind minSvn : Nat} {allowed : Nat → Bool} {bound : Bool}
    (h : Refused (verifyObject s kind minSvn allowed bound) (regionObject s r)) :
    tryObject s r kind minSvn allowed bound = .error (refusal (verifyObject s kind minSvn allowed bound) (regionObject s r)) := by
  unfold tryObject
  cases hx : regionObject s r with
  | none => rfl
  | some o =>
    obtain ⟨st, hst⟩ := Option.isSome_iff_exists.1 (by simpa [Refused, hx] using h)
    simp [hst, refusal]

theorem trySlots_refused {s : State} {slot : Nat → Nat × Nat} {first kind minSvn : Nat} {allowed : Nat → Bool}
    (h : Refused (verifyObject s kind minSvn allowed false) (regionObject s (slot first)))
    (h' : Refused (verifyObject s kind minSvn allowed false) (regionObject s (slot (1 - first)))) :
    trySlots s slot first kind minSvn allowed = .error (refusal (verifyObject s kind minSvn allowed false) (regionObject s (slot first))) := by
  simp only [trySlots, tryObject_refused h, tryObject_refused h']

/-- The check of an image: it verifies and has the form of R443. -/
def imageCheck (s : State) (o : List Byte) : Option Status :=
  match verifyObject s 3 (rd s Reg.secSvnImgMin 0) (fun x => x == 1 || x == 2) false o with
  | some st => some st
  | none => if imageForm (bodyOf o) then none else some Status.badFormat

theorem tryImage_refused {s : State} {slot : Nat} (h : Refused (imageCheck s) (regionObject s (regImg slot))) :
    tryImage s slot = .error (refusal (imageCheck s) (regionObject s (regImg slot))) := by
  unfold tryImage tryObject
  cases hx : regionObject s (regImg slot) with
  | none => rfl
  | some o =>
    have h : (imageCheck s o).isSome = true := by simpa [Refused, hx] using h
    simp only [refusal]
    unfold imageCheck at h ⊢
    cases hv : verifyObject s 3 (rd s Reg.secSvnImgMin 0) (fun x => x == 1 || x == 2) false o with
    | some st => rfl
    | none =>
      simp only [hv] at h ⊢
      split at h <;> simp_all

/-! ### Verification refused (R433, R438) -/

/-- FIRMWARE_VERIFY's turn (R438). -/
theorem execFirmwareVerify_turn {s : State} (h2 : fnReady s 2 = true) (h0 : rd s Reg.readyFnState 0 < 2) (hok : rd s Reg.secStatusFirmwareOk 0 = 0)
    {st : Status} (ht : trySlots (loadRecord s) regFw (rd (loadRecord s) Reg.readyNextFwSlot 0) 1 (rd (loadRecord s) Reg.secSvnFwMin 0) (· == 0) =
      .error st) : execFirmwareVerify s = .next (restrict (loadRecord s) 0 st) := by
  simp only [execFirmwareVerify, h2, rdB, hok, ht]
  simp [h0]

theorem firmwareVerify_refused {s : State} (bank : Nat) (h2 : fnReady s 2 = true) (h0 : rd s Reg.readyFnState 0 < 2)
    (hok : rd s Reg.secStatusFirmwareOk 0 = 0) {first : Nat} (hf : rd (loadRecord s) Reg.readyNextFwSlot 0 = first)
    (h : Refused (verifyObject (loadRecord s) 1 (rd (loadRecord s) Reg.secSvnFwMin 0) (· == 0) false) (regionObject s (regFw first)))
    (h' : Refused (verifyObject (loadRecord s) 1 (rd (loadRecord s) Reg.secSvnFwMin 0) (· == 0) false) (regionObject s (regFw (1 - first)))) :
    Gives .firmwareVerify s (fun t => Recorded bank s t ∧ Halted 0
      (refusal (verifyObject (loadRecord s) 1 (rd (loadRecord s) Reg.secSvnFwMin 0) (· == 0) false) (regionObject s (regFw first))) t) := by
  subst hf
  rw [← regionObject_congr (loadRecord_nvm s)] at h h' ⊢
  exact ⟨_, execFirmwareVerify_turn h2 h0 hok (trySlots_refused h h'),
    recorded_restrict (recorded_loadRecord bank s) _, halted_restrict _ _ (by decide)⟩

theorem gradeRecordVerify_refused {s : State} {g : GradeRec} (hok : rd s Reg.secStatusFirmwareOk 0 ≠ 0) (h1 : fnReady s 1 = true)
    (h0 : rd s Reg.readyFnState 0 < 2) (h : Refused (verifyObject s 2 0 (· == 0) true) (regionObject s regGrade)) :
    Gives (.gradeRecordVerify g) s (fun t => Halted 0 (refusal (verifyObject s 2 0 (· == 0) true) (regionObject s regGrade)) t ∧
      OnlyParts [.regs] s t) := by
  refine ⟨restrict s 0 _, ?_, halted_restrict _ _ (by decide), (restrict_kept (Kept.refl _ s) rfl).1⟩
  show execGradeRecordVerify g s = _
  simp only [execGradeRecordVerify, tryObject_refused h, rdB, h1]
  simp [h0, hok]

theorem imageVerify_refused {s : State} {a b : Sections} (h0 : fnReady s 0 = true) (h3 : rd s Reg.readyFnState 3 = 1)
    (h : Refused (imageCheck s) (regionObject s (regImg (rd s Reg.readyNextImgSlot 0))))
    (h' : Refused (imageCheck s) (regionObject s (regImg (1 - rd s Reg.readyNextImgSlot 0)))) :
    Gives (.imageVerify a b) s (fun t => Halted 3 (refusal (imageCheck s) (regionObject s (regImg (rd s Reg.readyNextImgSlot 0)))) t ∧
      OnlyParts [.regs] s t) := by
  refine ⟨restrict s 3 _, ?_, halted_restrict _ _ (by decide), (restrict_kept (Kept.refl _ s) rfl).1⟩
  show execImageVerify a b s = _
  simp only [execImageVerify, tryImage_refused h, tryImage_refused h', h3, h0]
  simp

/-! ### The identity (R419) -/

theorem identityDerive_lost {s : State} (hok : rd s Reg.secStatusFirmwareOk 0 ≠ 0) (h1 : rd s Reg.readyFnState 1 < 2)
    (hp : Config.pufKey (nvmBytes s 0 0x1000) = none) :
    exec .identityDerive s = .next (restrict (fnSet s 1 3 .internal) 0 .permission) := by
  show execIdentityDerive s = _
  simp only [execIdentityDerive, show regHelper = (0, 0x1000) from rfl, hp, rdB]
  simp [hok, h1]

/-- The identity's registers and key of a private key. -/
def identified (s : State) (d : Nat) : State :=
  wr (wr (wr (wr (wr { s with sec := { s.sec with d := some d } } Reg.secPubkeyKey 0 (Config.sm2Pub d).toNat)
    Reg.secDeviceIdId 0 (digest (leBytes 64 (Config.sm2Pub d).toNat))) Reg.secCertChain 0 (leNat (certChain s)))
    Reg.secCertLenLen 0 (certChain s).length) Reg.secStatusIdentityOk 0 1

theorem identityDerive_found {s : State} {d : Nat} (hok : rd s Reg.secStatusFirmwareOk 0 ≠ 0) (h1 : rd s Reg.readyFnState 1 < 2)
    (hp : Config.pufKey (nvmBytes s 0 0x1000) = some d) :
    exec .identityDerive s = .next (settle (fnSet (identified s d) 1 2 .ok)) := by
  show execIdentityDerive s = _
  simp only [execIdentityDerive, show regHelper = (0, 0x1000) from rfl, hp, rdB, identified]
  simp [hok, h1]

theorem identified_kept (s : State) (d : Nat) : Kept [.regs, .sec] s (identified s d) :=
  wr_kept (wr_kept (wr_kept (wr_kept (wr_kept (Kept.setSec (Kept.refl _ s) rfl) rfl) rfl) rfl) rfl) rfl

theorem rd_identified (s : State) (d : Nat) :
    rd (identified s d) Reg.secPubkeyKey 0 = (Config.sm2Pub d).toNat ∧
      rd (identified s d) Reg.secDeviceIdId 0 = digest (leBytes 64 (Config.sm2Pub d).toNat) % 2 ^ 64 ∧ rd (identified s d) Reg.secStatusIdentityOk 0 = 1 := by
  unfold identified
  refine ⟨?_, ?_, ?_⟩
  · repeat rw [rd_wr_ne _ _ _ _ _ _ (by decide)]
    rw [rd_wr_same]
    exact Nat.mod_eq_of_lt (show _ < 2 ^ Reg.secPubkeyKey.width from BitVec.isLt _)
  · repeat rw [rd_wr_ne _ _ _ _ _ _ (by decide)]
    exact rd_wr_same ..
  · rw [rd_wr_same]; rfl

/-- A function that is READY when everything settles stays so, with every field of no report. -/
theorem rd_settle_fnSet {s : State} {i : Nat} {f : Fld} {j : Nat} (hi : i < 256) (hf : reportKey (fldKey f j) = false) :
    rd (settle (fnSet s i 2 .ok)) f j = rd s f j := by
  rw [(reportsGrow_settle _).2 f j hf, rd_fnSet_of_not_reportKey hi hf]

theorem identityDerive_gives {s : State} (d : Nat) (hok : rd s Reg.secStatusFirmwareOk 0 ≠ 0) (h1 : rd s Reg.readyFnState 1 < 2) :
    Gives .identityDerive s (fun t =>
      (Config.pufKey (nvmBytes s 0 0x1000) = none → Halted 0 .permission t ∧ rd t Reg.readyFnState 1 = 3 ∧ t.sec = s.sec) ∧
      (Config.pufKey (nvmBytes s 0 0x1000) = some d → t.sec = { s.sec with d := some d } ∧ rd t Reg.secPubkeyKey 0 = (Config.sm2Pub d).toNat ∧
        rd t Reg.secDeviceIdId 0 = digest (leBytes 64 (Config.sm2Pub d).toNat) % 2 ^ 64 ∧ rd t Reg.secStatusIdentityOk 0 = 1 ∧
        rd t Reg.readyFnState 1 = 2) ∧ OnlyParts [.regs, .sec] s t) := by
  cases hp : Config.pufKey (nvmBytes s 0 0x1000) with
  | none =>
    have hkept : Kept [.regs] s (restrict (fnSet s 1 3 .internal) 0 .permission) := restrict_kept (fnSet_kept (Kept.refl _ s) rfl) rfl
    have hstate : rd (fnSet (fnSet s 1 3 .internal) 0 3 .permission) Reg.readyFnState 1 = 3 := by simp [rd_fnSet_state]
    refine ⟨_, identityDerive_lost hok h1 hp, fun _ => ⟨halted_restrict _ _ (by decide), ?_, hkept.1 .sec (by decide)⟩, fun h => by simp at h,
      fun p hp' => hkept.1 p (by simp at hp' ⊢; exact hp'.1)⟩
    rw [rd_restrict_report (by simp) (by decide) (by omega), hstate]
  | some e =>
    have hkept : Kept [.regs] (identified s e) (settle (fnSet (identified s e) 1 2 .ok)) := settle_kept (fnSet_kept (Kept.refl _ _) rfl) rfl
    refine ⟨_, identityDerive_found hok h1 hp, fun h => by simp at h, fun h => ?_, fun p hp => ?_⟩
    · obtain rfl : e = d := by simpa using h
      obtain ⟨rpub, rid, rok⟩ := rd_identified s e
      have hstate : rd (fnSet (identified s e) 1 2 .ok) Reg.readyFnState 1 = 2 := by rw [rd_fnSet_state, if_pos rfl]
      refine ⟨hkept.1 .sec (by decide), ?_, ?_, ?_, ?_⟩
      · rw [rd_settle_fnSet (by decide) rfl, rpub]
      · rw [rd_settle_fnSet (by decide) rfl, rid]
      · rw [rd_settle_fnSet (by decide) rfl, rok]
      · exact ((reportsGrow_settle _).1 1 (le_of_eq hstate.symm)).1.trans hstate
    · exact Same.trans ((identified_kept s e).1 p hp) (hkept.1 p (by simp at hp ⊢; exact hp.1))

/-! ### The statement where no object verifies -/

/-- A signature check that accepts nothing refuses every object. -/
theorem verifyObject_isSome_of_reject (hr : ∀ k m g, Config.sm2Verify k m g = false) (s : State) (kind minSvn : Nat) (allowed : Nat → Bool)
    (bound : Bool) (o : List Byte) : (verifyObject s kind minSvn allowed bound o).isSome = true := by
  unfold verifyObject
  dsimp only
  repeat' split
  all_goals simp_all

/-- Where no signature is accepted, every clause of StartAndRestart holds: those of a verified object have nothing to say, and the others are proved
above. So the statement has no refutation while Config.sm2Verify is a constant without a body. -/
theorem startAndRestart_of_reject (hr : ∀ k m g, Config.sm2Verify k m g = false) : Obligations.StartAndRestart := by
  intro s key fl idx i d o g a b bank
  have hv := verifyObject_isSome_of_reject hr
  have hi : ∀ o, (imageCheck s o).isSome = true := fun o => by
    obtain ⟨st, h⟩ := Option.isSome_iff_exists.1 (hv s 3 (rd s Reg.secSvnImgMin 0) (fun x => x == 1 || x == 2) false o)
    simp [imageCheck, h]
  have href : ∀ (f : List Byte → Option Status) x, (∀ o, (f o).isSome = true) → Refused f x := fun f x h => by cases x <;> simp [Refused, h]
  dsimp only
  refine ⟨?_, ?_, ?_, ?_, ?_, ?_, ?_, ?_, ?_, ?_, ?_, ?_, ?_, ?_, ?_, ?_⟩
  · exact fun h => ⟨_, exec_resetNAssert s, by rw [resetLow_of_not_holdRun h]; exact cold_coldState fl idx s⟩
  · exact fun h => ⟨_, exec_resetNAssert s, resetLow_of_holdRun h⟩
  · exact fun hl hc hh => ⟨_, exec_resetNRelease s, by rw [resetHigh_of_start hl hc hh]; exact begun_startSeq _⟩
  · exact fun hl h => ⟨_, exec_resetNRelease s, resetHigh_of_wait hl h⟩
  · exact fun hl => ⟨_, exec_resetNRelease s, resetHigh_of_high hl⟩
  · intro hk hl hc hh
    refine ⟨_, exec_readyRestart key s, ?_⟩
    rw [if_pos ⟨hk, hl⟩]
    exact begun_restart hc hh
  · exact fun hk => ⟨_, exec_readyRestart key s, if_neg fun h => hk h.1⟩
  · rintro ⟨h2, h0, hok, -⟩ ho
    rw [if_neg (Option.isSome_iff_ne_none.1 (hv ..))]
    intro h'
    have := firmwareVerify_refused bank h2 h0 hok rfl (href _ _ (hv _ _ _ _ _)) h'
    simp only [ho] at this
    exact this
  · exact fun _ _ _ h => absurd h (Option.isSome_iff_ne_none.1 (hv ..))
  · rintro ⟨h2, h0, hok, -⟩ hn hn'
    have := firmwareVerify_refused bank h2 h0 hok rfl (href _ _ (hv _ _ _ _ _)) (href _ _ (hv _ _ _ _ _))
    simp only [hn] at this
    exact this
  · exact fun ⟨hok, h1⟩ => identityDerive_gives d hok h1
  · rintro ⟨hok, h1, h0⟩ h
    have := gradeRecordVerify_refused (g := g) hok h1 h0 h
    rw [regGrade] at this
    cases hx : regionObject s (0x1000, 0x3000) with
    | none => simp only [hx] at this; exact this
    | some o => simp only [hx] at this; exact this
  · rintro ⟨hok, h1, h0⟩ ho
    obtain ⟨t, ht, -, hp⟩ := gradeRecordVerify_refused (g := g) hok h1 h0 (href _ _ (hv _ _ _ _ _))
    exact ⟨t, ht, fun h => absurd h (Option.isSome_iff_ne_none.1 (hv ..)), fun h => absurd h (Option.isSome_iff_ne_none.1 (hv ..)), hp⟩
  · rintro ⟨h0, h3, -⟩ ho
    refine (if_neg fun h => absurd h (Option.isSome_iff_ne_none.1 (hi o))).mpr fun _ => ?_
    have := imageVerify_refused (a := a) (b := b) h0 h3 (href _ _ hi) (href _ _ hi)
    simp only [ho] at this
    exact this
  · exact fun _ _ _ h => absurd h (Option.isSome_iff_ne_none.1 (hi o))
  · rintro ⟨h0, h3, -⟩ hn hn'
    have := imageVerify_refused (a := a) (b := b) h0 h3 (href _ _ hi) (href _ _ hi)
    simp only [hn] at this
    exact this

/-! ### An image taken -/

/-- The state of the taken image before its sections load. -/
def imageNoted (s : State) (slot : Nat) (o : List Byte) : State :=
  wrAll (if rdB (measure s 2 o) Reg.readyBootPrecLost 0 then wr (measure s 2 o) Reg.secSvnImgMin 0 (svnOf o) else measure s 2 o)
    [(Reg.secStatusImageOk, 1), (Reg.secSvnRunImg, svnOf o), (Reg.readyBootImgSlot, slot),
      (Reg.readyBootImgFallback, bit01 (slot != rd s Reg.readyNextImgSlot 0))]

theorem tryImage_ok {s : State} {slot : Nat} {o : List Byte} (ho : regionObject s (regImg slot) = some o) (hc : imageCheck s o = none) :
    tryImage s slot = .ok o := by
  unfold imageCheck at hc
  unfold tryImage tryObject
  simp only [ho]
  cases hv : verifyObject s 3 (rd s Reg.secSvnImgMin 0) (fun x => x == 1 || x == 2) false o with
  | some st => simp [hv] at hc
  | none =>
    simp only [hv] at hc ⊢
    split at hc <;> simp_all

/-- The preferred slot's image is taken. -/
theorem exec_imageVerify_taken {s : State} {a b : Sections} {o : List Byte} (h0 : fnReady s 0 = true) (h3 : rd s Reg.readyFnState 3 = 1)
    (hf : rd s Reg.readyNextImgSlot 0 = 0) (ho : regionObject s (regImg 0) = some o) (hc : imageCheck s o = none) :
    exec (.imageVerify a b) s = .next (imageReady (loadSections (imageNoted s 0 o) (bodyOf o) a)) := by
  show execImageVerify a b s = _
  unfold execImageVerify imageNoted
  simp only [h0, h3, hf, tryImage_ok ho hc]
  simp

/-! ### Fields that IMAGE's end leaves -/

theorem healthIrq_regs (s : State) : (healthIrq s).regs = s.regs := by
  unfold healthIrq raiseMsix
  split
  · split <;> rfl
  · rfl

theorem rd_healthCause_of_ne {s : State} {c f : Fld} {i : Nat} (h : fldKey c 0 ≠ fldKey f i) : rd (healthCause s c) f i = rd s f i := by
  unfold healthCause
  rw [rd_congr (healthIrq_regs _), rd_wr_ne _ _ _ _ _ _ h]

/-- RADIO's report moves no cell of an empty plan. -/
theorem rd_radioReady_of_no_plan {s : State} {f : Fld} {j : Nat} (hp : s.radio.plan = []) (hf : reportKey (fldKey f j) = false) :
    rd (radioReady s) f j = rd s f j := by
  unfold radioReady
  dsimp only
  split
  · rw [hp, List.foldl_nil, rd_fnSet_of_not_reportKey (by decide) hf]
  · rfl

theorem rd_timeReady_of_no_plan {s : State} {f : Fld} {j : Nat} (hp : s.radio.plan = []) (hf : reportKey (fldKey f j) = false) :
    rd (timeReady s) f j = rd s f j := by
  have hradio : (fnSet s 16 2 .ok).radio = s.radio := (fnSet_kept (Kept.refl _ s) (pw := [.regs]) rfl).1 .radio (by decide)
  unfold timeReady
  split
  · rfl
  · rw [rd_radioReady_of_no_plan (by rw [hradio, hp]) hf, rd_fnSet_of_not_reportKey (by decide) hf]

theorem rd_sensorCheck_mr (s : State) : rd (sensorCheck s) Reg.secMrValue 2 = rd s Reg.secMrValue 2 := by
  unfold sensorCheck
  split
  · rw [rd_healthCause_of_ne (by decide), rd_wr_ne _ _ _ _ _ _ (by decide)]
  · rfl

theorem rd_showList_mr (s : State) : rd (showList s) Reg.secMrValue 2 = rd s Reg.secMrValue 2 := by
  unfold showList
  extract_lets
  repeat rw [rd_wr_ne _ _ _ _ _ _ (by decide)]

/-- What IMAGE's end writes beside reports, without a plan, is no measurement. -/
theorem rd_imageReady_mr {s : State} (hp : s.radio.plan = []) : rd (imageReady s) Reg.secMrValue 2 = rd s Reg.secMrValue 2 := by
  set u := showRecordOk (sensorCheck (showList (wr s Reg.detSignatureSignature 0 (detSignature s)))) with hu
  have hru : rd u Reg.secMrValue 2 = rd s Reg.secMrValue 2 := by
    rw [hu, showRecordOk, rd_wr_ne _ _ _ _ _ _ (by decide), rd_sensorCheck_mr, rd_showList_mr, rd_wr_ne _ _ _ _ _ _ (by decide)]
  have hkept : Kept [.regs, .ten, .out] s (settle (fnSet u 3 2 .ok)) :=
    settle_kept (fnSet_kept (showRecordOk_kept (sensorCheck_kept (showList_kept (wr_kept (Kept.refl _ s) rfl) rfl) rfl) rfl) rfl) rfl
  have hradio : (settle (fnSet u 3 2 .ok)).radio = s.radio := hkept.1 .radio (by decide)
  have hr := (rd_settle_fnSet (s := u) (i := 3) (f := Reg.secMrValue) (j := 2) (by decide) rfl).trans hru
  unfold imageReady
  simp only [← hu]
  split
  · rw [rd_timeReady_of_no_plan (by rw [hradio, hp]) rfl, hr]
  · rw [setTimeSt, rd_wr_ne _ _ _ _ _ _ (by decide), hr]

/-! ### A refused section logged over a measurement -/

/-- The body of an image with one empty section, MEMORY: header, directory entry and padding (R443). -/
def memoryBody : List Byte := leBytes 64 (1 + 2 ^ 20 + 128 * 2 ^ 32) ++ leBytes 64 2

/-- An image signed for the owner, svn 7 (Table 16.1). -/
def memoryImage : List Byte :=
  memoryBody ++ leBytes 256 (1 + 3 * 2 ^ 4 + 2 ^ 8 + 7 * 2 ^ 16 + 128 * 2 ^ 128 + digest memoryBody * 2 ^ 256 + 2 * 2 ^ 512)

/-- A MEMORY section whose share of 51 % is refused (R18). -/
def wideShare : Sections := { (default : Sections) with memRshare := 51 }

/-- IMAGE's turn on a device whose slot A holds that image, and whose error log tail holds 65540: entry 65540 lies where MR2 does. -/
def tailAtMr2 : State :=
  { State.reset with
    regs := [(fldKey Reg.readyFnState 0, 2), (fldKey Reg.readyFnState 3, 1), (fldKey Reg.pfErrlogIdxTail 0, 65540), (fldKey Reg.secStatusGradeOk 0, 1)]
    boot := { State.reset.boot with nvm := nvmRun (regImg 0).1 (leBytes 8 384 ++ memoryImage) } }

theorem tailAtMr2_object : regionObject tailAtMr2 (regImg 0) = some memoryImage := by decide +kernel

theorem memoryImage_form : imageForm (bodyOf memoryImage) = true := by decide +kernel

theorem imageCheck_memoryImage (hv : Config.sm2Verify 0 (signedPart memoryImage) 2 = true) : imageCheck tailAtMr2 memoryImage = none := by
  have h1 : wellFormed 3 memoryImage = true := by decide +kernel
  have h2 : bitsOf (trailer memoryImage) 256 256 = digest (bodyOf memoryImage) := by decide +kernel
  have h3 : bitsOf (trailer memoryImage) 64 64 = 0 := by decide +kernel
  have h4 : bitsOf (trailer memoryImage) 8 2 = 1 := by decide +kernel
  have h5 : bitsOf (trailer memoryImage) 1024 1024 = 0 := by decide +kernel
  have h6 : BitVec.ofNat 512 (bitsOf (trailer memoryImage) 512 512) = 2 := by decide +kernel
  have h7 : rd tailAtMr2 Reg.secDeviceIdId 0 = 0 := by decide +kernel
  have h8 : rd tailAtMr2 Reg.secSvnImgMin 0 = 0 := by decide +kernel
  have h9 : signerKey tailAtMr2 (trailer memoryImage) = some 0 := by
    have : rd tailAtMr2 Reg.secOwnerKeyKey 0 = 0 := by decide +kernel
    have : rdB tailAtMr2 Reg.secStatusGradeOk 0 = true := by decide +kernel
    simp only [signerKey, h4, h5]
    simp [*]
  have : verifyObject tailAtMr2 3 (rd tailAtMr2 Reg.secSvnImgMin 0) (fun x => x == 1 || x == 2) false memoryImage = none := by
    simp only [verifyObject, h1, h2, h3, h4, h6, h7, h8, h9, hv]
    simp
  simp only [imageCheck, this, memoryImage_form]
  simp

/-- The device with the image's sections loaded: MEMORY is refused, and its log entry lies in MR2. -/
def sectionRefused : State := loadSections (imageNoted tailAtMr2 0 memoryImage) (bodyOf memoryImage) wideShare

theorem sectionRefused_plan : sectionRefused.radio.plan = [] := by decide +kernel

theorem sectionRefused_mr2 : rd sectionRefused Reg.secMrValue 2 < 2 ^ 128 := by decide +kernel

theorem measurement_ge : 2 ^ 128 ≤ digest (leBytes 32 (rd tailAtMr2 Reg.secMrValue 2) ++ leBytes 32 (digest memoryImage)) % 2 ^ 256 := by decide +kernel

/-- What the statement says of MR2 when the preferred slot's image is taken. -/
theorem mr2_of_startAndRestart (h : Obligations.StartAndRestart) {s : State} (a : Sections) {o : List Byte} (h0 : fnReady s 0 = true)
    (h3 : rd s Reg.readyFnState 3 = 1) (hf : rd s Reg.readyNextImgSlot 0 = 0) (ho : regionObject s (regImg 0) = some o)
    (hc : imageCheck s o = none) :
    rd (imageReady (loadSections (imageNoted s 0 o) (bodyOf o) a)) Reg.secMrValue 2 =
      digest (leBytes 32 (rd s Reg.secMrValue 2) ++ leBytes 32 (digest o)) % 2 ^ 256 := by
  obtain ⟨-, -, -, -, -, -, -, -, -, -, -, -, -, himage, -, -⟩ := h s 0 Reg.plumbPlumb 0 0 0 o default a a 0
  dsimp only at himage
  rw [hf] at himage
  obtain ⟨t, ht, -, -, -, -, hmr, -⟩ := (if_pos hc).mp (himage ⟨h0, h3, by decide⟩ ho)
  obtain rfl := Host.Outcome.next.inj ((exec_imageVerify_taken h0 h3 hf ho hc).symm.trans ht)
  exact hmr

/-- Where one signature over one image is accepted, StartAndRestart fails: a refused MEMORY section is logged at the tail that the state holds, 65540,
and that entry is MR2, which the statement says holds the image's measurement. The clause has no premise that the tail fits its 6 bits.
So the statement has no proof while Config.sm2Verify is a constant without a body. -/
theorem not_startAndRestart_of_accept (hv : Config.sm2Verify 0 (signedPart memoryImage) 2 = true) : ¬ Obligations.StartAndRestart := by
  intro h
  have h0 : fnReady tailAtMr2 0 = true := by decide +kernel
  have h3 : rd tailAtMr2 Reg.readyFnState 3 = 1 := by decide +kernel
  have hf : rd tailAtMr2 Reg.readyNextImgSlot 0 = 0 := by decide +kernel
  have hmr := mr2_of_startAndRestart h wideShare h0 h3 hf tailAtMr2_object (imageCheck_memoryImage hv)
  have hlow : rd (imageReady sectionRefused) Reg.secMrValue 2 < 2 ^ 128 := (rd_imageReady_mr sectionRefused_plan).trans_lt sectionRefused_mr2
  exact absurd (hmr ▸ hlow) (Nat.not_lt.2 measurement_ge)

end Sys2Proof.Machine
end

section
/-! SUPPORT. Bench commands at execution, and the Dresser's exact sums (chapters 02 and 04): what a dispatched command that runs, or that fails
its own checks, leaves. -/

namespace Sys2Proof.Machine

/-! ### Register frames -/

section
variable {ks : List (Fld × Nat)} {s0 s : State}

theorem OnlyRegs.refl (ks : List (Fld × Nat)) (s : State) : OnlyRegs ks s s := fun _ _ _ => rfl

theorem OnlyRegs.wr {f : Fld} {i v : Nat} (h : OnlyRegs ks s0 s) (hk : (f, i) ∈ ks) : OnlyRegs ks s0 (wr s f i v) :=
  fun g j hne => (rd_wr_ne s f g i j v (hne _ hk).symm).trans (h g j hne)

theorem OnlyRegs.of_regs {t : State} (h : OnlyRegs ks s0 s) (ht : t.regs = s.regs) : OnlyRegs ks s0 t :=
  fun g j hne => (rd_congr ht g j).trans (h g j hne)

theorem OnlyRegs.showBench {b : Nat} (h : OnlyRegs ks s0 s) (hk : benchShown b ⊆ ks) : OnlyRegs ks s0 (showBench s b) := by
  unfold Machine.showBench
  iterate 11 refine OnlyRegs.wr ?_ (hk (by simp [benchShown]))
  exact h

theorem OnlyRegs.yardStall {b : Nat} (h : OnlyRegs ks s0 s) (hk : (Reg.benchStallCycCount, b) ∈ ks) : OnlyRegs ks s0 (yardStall s b) :=
  OnlyRegs.wr (h.of_regs (drawn_regs s)) hk

end

/-! ### What the end of an execution leaves -/

@[simp] theorem showBench_work (s : State) (b : Nat) : (showBench s b).work = s.work := rfl

@[simp] theorem getCmd_showBench (s : State) (b k : Nat) : getCmd (showBench s b) k = getCmd s k := rfl

/-- A command stored on a state that differs from the first in the listed registers and parts only has been staged on the first. -/
theorem stagedAs_showBench_putCmd {s t : State} {cid : Nat} {d : Cmd} {more : List (Fld × Nat)} {parts : List Part} (hw : t.work = s.work)
    (hr : OnlyRegs (benchShown d.bench ++ more) s t) (hp : Kept ([.regs, .work] ++ parts) s t) :
    StagedAs s (showBench (putCmd t cid d) d.bench) cid d more parts := by
  refine ⟨by simp [getCmd_putCmd], ⟨?_, fun j hj => ?_⟩, ?_, ?_⟩
  · simp [putCmd, hw]
  · rw [getCmd_showBench, getCmd_putCmd, if_neg (by simpa [eq_comm] using hj), getCmd, hw, getCmd]
  · exact (hr.of_regs (putCmd_regs t cid d)).showBench (List.subset_append_left _ _)
  · exact (showBench_kept (putCmd_kept hp rfl) rfl).1

/-- A command as its completion leaves it (Table 05.10). -/
def Cmd.ended (c : Cmd) (st : Status) (fault : Nat) : Cmd :=
  { c with st := .done, status := st, fault := fault, held := false, snap := none, writes := [], wpages := [], rpages := [], discard := [],
           ranges := [], srcRuns := [], dstRuns := [], buf := [], awaits := [], dramWrites := [], hasOut := c.hasOut && givesOutput st,
           assay := if givesOutput st then c.assay else 0 }

/-- A command of a queue stays listed when it completes, until its step is posted. -/
theorem getCmd_finishOne {s : State} {cid : Nat} {c : Cmd} {st : Status} {fault : Nat} (h : c.owner.isRadio = false) :
    getCmd (finishOne s cid c st fault) cid = some (c.ended st fault) := by
  obtain ⟨k, hk⟩ : ∃ k, c.owner.stepKey = some k := by
    cases ho : c.owner with
    | queue f q => exact ⟨_, rfl⟩
    | radio n t p => simp [ho, Owner.isRadio] at h
  simp only [finishOne, hk]
  split <;> exact mapFind_mapSet_same ..

theorem finish_of_not_closer {s : State} {cid : Nat} {c : Cmd} {st : Status} {fault : Nat} (h : c.closer = false) :
    finish s cid c st fault = finishOne s cid c st fault := by
  simp [finish, h]

/-! ### Execution of a dispatched bench command (R83, R85) -/

theorem executes_iff {s : State} {cid : Nat} {c : Cmd} :
    Executes s cid c = true ↔ getCmd s cid = some c ∧ c.st = .dispatched ∧ (benchRuns s c).isSome = true ∧ c.held = true ∧
      readBlocked s (cmdCtx c) cid c = false := by
  simp [Executes, and_assoc]

/-- The state in which an attempt to execute a bench command ends. -/
def ranEnd (cid : Nat) (c : Cmd) : Ran → State
  | .wait t d => showBench (putCmd t cid d) d.bench
  | .fail t st a => showBench (finish t cid c st a) c.bench
  | .ok t d => showBench (putCmd t cid { d with st := .issued }) d.bench

theorem startCmd_of_held {s : State} {cid : Nat} {c : Cmd} {run : State → Nat → Cmd → Ran} (hh : c.held = true)
    (hr : readBlocked s (cmdCtx c) cid c = false) : startCmd s cid c run = ranEnd cid c (run s cid c) := by
  have hheld : { c with held := true } = c := by rw [← hh]
  rw [startCmd, hheld]
  simp only [hh, hr]
  cases run s cid c <;> rfl

/-- Its frames are held and its pages free, so a command that executes is run at once. -/
theorem issueBench_of_executes {s : State} {cid : Nat} {c : Cmd} {kind : Cmd → Bool}
    {plan : State → Cmd → State × Except (Status × Nat) Cmd} {free : State → Cmd → Bool} {run : State → Nat → Cmd → Ran}
    (h : Executes s cid c = true) (hk : kind c = true) : issueBench s cid kind plan free run = ranEnd cid c (run s cid c) := by
  obtain ⟨hc, hst, hb, hh, hr⟩ := executes_iff.1 h
  rw [← startCmd_of_held hh hr]
  simp [issueBench, hc, hk, hst, hb]

/-! ### Dresser commands -/

theorem exec_rowWideSum (cid : Nat) (s : State) : exec (.rowWideSum cid) s = .next (dresserCmd s cid 3 runWideSum) := rfl

theorem exec_wideAdd (cid : Nat) (s : State) : exec (.wideAdd cid) s = .next (dresserCmd s cid 4 runWideAdd) := rfl

theorem exec_mxQuant (cid : Nat) (s : State) :
    exec (.mxQuant cid) s = .next (dresserCmd s cid 7 (fun byte x => some (runMxQuant byte x))) := rfl

theorem isDresser_of_op {c : Cmd} {op : Nat} (h : c.opcode = 2) (ho : (dresserOf c).op = op) : isDresser op c = true := by
  have hb : c.b 96 6 = op := ho
  simp [isDresser, h, hb]

/-- The registers of a bench's Dresser that an execution writes, beside those that show its context. -/
def dresserShown (b : Nat) : List (Fld × Nat) := [(Reg.benchLive2DresserTag, b), (Reg.benchStallCycCount, b)]

section
variable {s : State} {cid op : Nat} {c : Cmd} {out : (Nat → Byte) → DresserCmd → Option (List (Nat × List Byte × Nat))}

/-- A Dresser command that executes with these output pieces stages them, and changes nothing but its bench's window beside. -/
theorem dresserCmd_stagedAs {o : List (Nat × List Byte × Nat)} (h : Executes s cid c = true) (h2 : c.opcode = 2) (hop : (dresserOf c).op = op)
    (ho : out (getCtx s (cmdCtx c)).byte (dresserOf c) = some o) :
    StagedAs s (dresserCmd s cid op out) cid { stageOut c o with st := .issued } (dresserShown c.bench) [.free] := by
  have hrun : dresserStage s c (out (getCtx s (cmdCtx c)).byte (dresserOf c)) =
      .ok (yardStall (wr s Reg.benchLive2DresserTag c.bench c.tag) c.bench) (stageOut c o) := by rw [ho]; rfl
  rw [dresserCmd, issueBench_of_executes h (isDresser_of_op h2 hop), hrun]
  refine stagedAs_showBench_putCmd (d := { stageOut c o with st := .issued }) rfl ?_ ?_
  · exact OnlyRegs.yardStall ((OnlyRegs.refl _ s).wr (by simp [dresserShown])) (by simp [stageOut, dresserShown])
  · exact yardStall_kept (wr_kept (Kept.refl _ s) rfl) rfl

/-- One whose operands are refused at execution completes with BAD_FORMAT. -/
theorem getCmd_dresserCmd_refused (h : Executes s cid c = true) (h2 : c.opcode = 2) (hop : (dresserOf c).op = op)
    (ho : out (getCtx s (cmdCtx c)).byte (dresserOf c) = none) (hradio : c.owner.isRadio = false) :
    getCmd (dresserCmd s cid op out) cid = some (c.ended .badFormat 0) := by
  have hrun : dresserStage s c (out (getCtx s (cmdCtx c)).byte (dresserOf c)) =
      .fail (yardStall (wr s Reg.benchLive2DresserTag c.bench c.tag) c.bench) .badFormat 0 := by rw [ho]; rfl
  have hclose : c.closer = false := by simp [Cmd.closer, h2]
  rw [dresserCmd, issueBench_of_executes h (isDresser_of_op h2 hop), hrun, ranEnd, getCmd_showBench, finish_of_not_closer hclose,
    getCmd_finishOne hradio]

end

/-! ### Output pieces of the wide operations (R95, R96) -/

section
variable {byte : Nat → Byte} {x : DresserCmd} {t u : Tile}

/-- A ROW_WIDE_SUM that does not load sums every row into a zero cell of its control word's window. -/
theorem runWideSum_of_not_load (h : (wctlOf x.wraw).init ≠ 2) :
    runWideSum byte x = some (cellsOut x { ew := wideEw x, complex := false, rows := x.rows, cols := 1, cells := (List.range x.rows).map (fun row =>
      Cell.zero.cycle ((List.range x.cols).map (fun k => contrib (wideEw x) (x.x.valAt byte row k)))) }) :=
  if_neg (fun hl => h hl.1)

/-- Tiles of the command's shape, of one window and of one kind, combine cell by cell. -/
theorem runWideAdd_of_alike (hn : x.rows * x.cols ≠ 0) (ht : readTile byte x.x.addr = some t) (hu : readTile byte x.y.addr = some u)
    (htr : t.rows = x.rows) (htc : t.cols = x.cols) (hur : u.rows = x.rows) (huc : u.cols = x.cols) (hew : t.ew = u.ew)
    (hk : t.complex = u.complex) (hf : t.complex = true → 6 ≤ x.r.fmt) :
    runWideAdd byte x = some (cellsOut x { t with cells := List.zipWith (wideCombine t.complex) t.cells u.cells }) := by
  have hfit : ¬ (t.complex = true ∧ x.r.fmt < 6) := fun ⟨hc, hlt⟩ => absurd (hf hc) (Nat.not_le.2 hlt)
  simp [runWideAdd, hn, ht, hu, htr, htc, hur, huc, hew, ← hk, hfit]

/-- Tiles of two windows are refused. -/
theorem runWideAdd_of_ew_ne (hn : x.rows * x.cols ≠ 0) (ht : readTile byte x.x.addr = some t) (hu : readTile byte x.y.addr = some u)
    (hew : t.ew ≠ u.ew) : runWideAdd byte x = none := by
  simp [runWideAdd, hn, ht, hu, hew]

end

end Sys2Proof.Machine

section

open Sys2Proof Sys2Proof.Machine

/-- Settles O21: each row runs dresserCmd with its operation's output pieces, which the hypotheses determine. That the output lies in the
space is not used: the plan checked it at issue, and execution stages without checking it again. -/
theorem dresserWideAndQuant : Obligations.DresserWideAndQuant := by
  intro s cid c t1 t2 h h2
  refine ⟨fun hop hinit _ => ?_, fun hop hn ht hu htr htc hur huc hew hk hf _ => ?_, fun hop hn ht hu hew hradio => ?_, fun hop _ => ?_⟩
  · exact ⟨_, exec_rowWideSum cid s, dresserCmd_stagedAs h h2 hop (runWideSum_of_not_load hinit)⟩
  · have hout := runWideAdd_of_alike hn ht hu htr htc hur huc hew hk fun hc => (hf hc).1
    exact ⟨_, exec_wideAdd cid s, dresserCmd_stagedAs h h2 hop hout⟩
  · have hend := getCmd_dresserCmd_refused h h2 hop (runWideAdd_of_ew_ne hn ht hu hew) hradio
    exact ⟨_, exec_wideAdd cid s, _, hend, rfl, rfl, rfl⟩
  · exact ⟨_, exec_mxQuant cid s, dresserCmd_stagedAs h h2 hop rfl⟩

end

end

section
/-! SUPPORT. SLAB commands at execution (chapter 03): the bank, the command and the registers that one that loads no tile leaves. -/

namespace Sys2Proof.Machine

/-! ### The banks of a context -/

@[simp] theorem Ctx.bank_setBank_same (x : Ctx) (i : Nat) (b : Bank) : (x.setBank i b).bank i = b := by
  by_cases h : i = 0 <;> simp [Ctx.bank, Ctx.setBank, h]

@[simp] theorem Ctx.bank_setBank_other (x : Ctx) (i : Nat) (b : Bank) : (x.setBank i b).bank (1 - i) = x.bank (1 - i) := by
  by_cases h : i = 0
  · simp [Ctx.bank, Ctx.setBank, h]
  · simp [Ctx.bank, Ctx.setBank, h, show 1 - i = 0 by omega]

@[simp] theorem Ctx.yard_setBank (x : Ctx) (i : Nat) (b : Bank) : (x.setBank i b).yard = x.yard := by
  by_cases h : i = 0 <;> simp [Ctx.setBank, h]

/-! ### The window of a bench -/

/-- Fields with one stride and different bases are different registers of each bench. -/
theorem fldKey_ne_of_base_ne {f g : Fld} (hs : g.stride = f.stride) (hb : f.base ≠ g.base) (b : Nat) : fldKey f b ≠ fldKey g b := by
  simp [fldKey, hs, hb]

/-- What a SLAB execution writes of a bench's window beside the feed counter. -/
def besideFeedCyc (b : Nat) : List (Fld × Nat) := benchShown b ++ [(Reg.benchLive0SlabTag, b), (Reg.benchStallCycCount, b)]

/-- The feed counter is none of them: the fields of one window are laid out alike on every bench, so bench 0 shows it. -/
theorem fldKey_feedCyc_ne (b : Nat) : ∀ k ∈ besideFeedCyc b, fldKey Reg.benchFeedCycCount b ≠ fldKey k.1 k.2 := by
  have hfld : ∀ k ∈ besideFeedCyc 0, k.1.stride = Reg.benchFeedCycCount.stride ∧ Reg.benchFeedCycCount.base ≠ k.1.base := by decide
  have hmap : besideFeedCyc b = (besideFeedCyc 0).map (fun k => (k.1, b)) := rfl
  rw [hmap, List.forall_mem_map]
  exact fun k hk => fldKey_ne_of_base_ne (hfld k hk).1 (hfld k hk).2 b

/-- The registers of a bench's Slab that an execution writes, beside those that show its context. -/
def slabShown (b : Nat) : List (Fld × Nat) :=
  [(Reg.benchLive0SlabTag, b), (Reg.benchFeedCycCount, b), (Reg.benchStallCycCount, b)]

/-! ### Execution without a load (R70, R71, R76) -/

/-- The bank that a SLAB command names, as it finds it. -/
def slabOld (s : State) (c : Cmd) : Bank := (getCtx s (cmdCtx c)).bank (slabOf c).bank

/-- The bank initialised as acc_init says, without a tile, and fed every problem in entry order. -/
def slabFed (s : State) (c : Cmd) : Bank :=
  (slabOf c).probs.foldl (feedProb (slabOf c) (getCtx s (cmdCtx c)).byte) ((slabOf c).init (slabOld s c) none)

/-- The bank as the command leaves it: closed by a drain, else with the command as its newest member (R70). -/
def slabBank (s : State) (cid : Nat) (c : Cmd) : Bank :=
  if (slabOf c).drain then { slabFed s c with isOpen := false, init := [], members := [] }
  else { slabFed s c with members := (slabOld s c).members ++ [cid] }

/-- The command as it leaves itself: a drain stages its output, and keeps the chain it closes and the bank a kill puts back (R71, R76). -/
def slabStaged (s : State) (c : Cmd) : Cmd :=
  if (slabOf c).drain then
    { stageOut c ((slabOf c).drainOut (slabFed s c)) with chain := (slabOld s c).members, snap := some (slabOld s c) }
  else c

/-- The command as it is stored: issued. -/
def slabIssued (s : State) (c : Cmd) : Cmd := { slabStaged s c with st := .issued }

/-- The state with the Slab's tag shown, and the feed's and the stalled A-clocks counted. -/
def slabCounted (s : State) (c : Cmd) : State :=
  yardStall (bump (wr s Reg.benchLive0SlabTag c.bench c.tag) Reg.benchFeedCycCount c.bench (slabOf c).feedClocks) c.bench

/-- The counted state with the command's bank as it leaves it. -/
def slabEnd (s : State) (cid : Nat) (c : Cmd) : State :=
  putCtx (slabCounted s c) (cmdCtx c) ((getCtx s (cmdCtx c)).setBank (slabOf c).bank (slabBank s cid c))

/-- The state in which the execution ends. -/
def slabDone (s : State) (cid : Nat) (c : Cmd) : State := showBench (putCmd (slabEnd s cid c) cid (slabIssued s c)) c.bench

theorem exec_slab (cid : Nat) (s : State) : exec (.slab cid) s = execSlab cid s := rfl

section
variable {s : State} {cid : Nat} {c : Cmd}

theorem slabRun_of_not_load (h : (slabOf c).w.init ≠ 2) : slabRun s cid c = .ok (slabEnd s cid c) (slabStaged s c) := by
  have hinit : ((slabOf c).w.init == 2) = false := beq_false_of_ne h
  cases hd : (slabOf c).drain <;>
    simp only [slabRun, slabEnd, slabBank, slabStaged, hinit, hd, Bool.false_and, Bool.false_eq_true, if_false, if_true] <;> rfl

@[simp] theorem slabIssued_bench (s : State) (c : Cmd) : (slabIssued s c).bench = c.bench := by
  unfold slabIssued slabStaged; split <;> rfl

theorem execSlab_of_not_load (h : Executes s cid c = true) (h1 : c.opcode = 1) (hload : (slabOf c).w.init ≠ 2) :
    execSlab cid s = .next (slabDone s cid c) := by
  have hend : ranEnd cid c (.ok (slabEnd s cid c) (slabStaged s c)) =
      showBench (putCmd (slabEnd s cid c) cid (slabIssued s c)) (slabIssued s c).bench := rfl
  rw [execSlab, issueBench_of_executes h (by simp [h1]), slabRun_of_not_load hload, hend, slabIssued_bench, slabDone]

theorem slabIssued_of_drain (hd : (slabOf c).drain = true) : slabIssued s c =
    { stageOut c ((slabOf c).drainOut (slabFed s c)) with st := .issued, chain := (slabOld s c).members, snap := some (slabOld s c) } := by
  rw [slabIssued, slabStaged, if_pos hd]

theorem slabIssued_of_not_drain (hd : (slabOf c).drain = false) : slabIssued s c = { c with st := .issued } := by
  rw [slabIssued, slabStaged, hd, if_neg Bool.false_ne_true]

theorem slabBank_of_drain (hd : (slabOf c).drain = true) :
    slabBank s cid c = { slabFed s c with isOpen := false, init := [], members := [] } := if_pos hd

theorem slabBank_of_not_drain (hd : (slabOf c).drain = false) :
    slabBank s cid c = { slabFed s c with members := (slabOld s c).members ++ [cid] } := by simp [slabBank, hd]

theorem getCtx_slabDone :
    getCtx (slabDone s cid c) (cmdCtx c) = (getCtx s (cmdCtx c)).setBank (slabOf c).bank (slabBank s cid c) :=
  (getCtx_putCtx _ _ _ _).trans (if_pos rfl)

theorem slabDone_sameCtxs : SameCtxs [cmdCtx c] s (slabDone s cid c) :=
  fun _ hj => (getCtx_putCtx _ _ _ _).trans (if_neg fun he => hj (List.mem_singleton.2 he.symm))

theorem slabCounted_onlyRegs (s : State) (c : Cmd) : OnlyRegs (benchShown c.bench ++ slabShown c.bench) s (slabCounted s c) :=
  (((OnlyRegs.refl _ s).wr (by simp [slabShown])).wr (by simp [slabShown])).yardStall (by simp [slabShown])

@[simp] theorem slabEnd_work (s : State) (cid : Nat) (c : Cmd) : (slabEnd s cid c).work = s.work := rfl

theorem slabEnd_kept (s : State) (cid : Nat) (c : Cmd) : Kept [.regs, .work, .yards, .free] s (slabEnd s cid c) :=
  putCtx_kept (yardStall_kept (bump_kept (wr_kept (Kept.refl _ s) rfl) rfl) rfl) rfl

/-- The feed counter grows by the feed's A-clocks: what is written after it, and the tag before it, are other registers. -/
theorem rd_feedCyc_slabDone : rd (slabDone s cid c) Reg.benchFeedCycCount c.bench =
    (rd s Reg.benchFeedCycCount c.bench + (slabOf c).feedClocks) % 2 ^ Reg.benchFeedCycCount.width := by
  have hne := fldKey_feedCyc_ne c.bench
  have htag := hne (Reg.benchLive0SlabTag, c.bench) (by simp [besideFeedCyc])
  have hstall : OnlyRegs (besideFeedCyc c.bench)
      (bump (wr s Reg.benchLive0SlabTag c.bench c.tag) Reg.benchFeedCycCount c.bench (slabOf c).feedClocks) (slabCounted s c) :=
    (OnlyRegs.refl _ _).yardStall (by simp [besideFeedCyc])
  have hafter := (hstall.of_regs (t := putCmd (slabEnd s cid c) cid (slabIssued s c)) rfl).showBench (List.subset_append_left _ _)
  rw [slabDone, hafter _ _ hne, bump, rd_wr_same, rd_wr_ne _ _ _ _ _ _ htag.symm]

theorem slabDone_stagedAs : StagedAs s (slabDone s cid c) cid (slabIssued s c) (slabShown c.bench) [.yards, .free] := by
  have hregs : OnlyRegs (benchShown (slabIssued s c).bench ++ slabShown c.bench) s (slabEnd s cid c) := by
    rw [slabIssued_bench]
    exact (slabCounted_onlyRegs s c).of_regs rfl
  have hdone := stagedAs_showBench_putCmd (cid := cid) (parts := [.yards, .free]) (slabEnd_work s cid c) hregs (slabEnd_kept s cid c)
  rwa [slabIssued_bench] at hdone

end

end Sys2Proof.Machine

section

open Sys2Proof Sys2Proof.Machine

/-- Settles O18: the execution ends in slabDone, and each clause is a law of one part of that state. -/
theorem slabAccumulatesAndDrains : Obligations.SlabAccumulatesAndDrains := by
  intro s cid c h h1 x ctx old fed out hload
  refine ⟨slabDone s cid c, (exec_slab cid s).trans (execSlab_of_not_load h h1 hload), ?_⟩
  obtain ⟨hcmd, hcmds, hregs, hparts⟩ := slabDone_stagedAs (s := s) (cid := cid) (c := c)
  rw [slabIssued_bench] at hregs
  refine ⟨fun hd => ⟨?_, ?_⟩, fun hd => ⟨?_, ?_⟩, ?_, ?_, rd_feedCyc_slabDone, rfl, slabDone_sameCtxs, hcmds, hregs, hparts⟩
  · rw [hcmd, slabIssued_of_not_drain hd]
  · rw [getCtx_slabDone, Ctx.bank_setBank_same, slabBank_of_not_drain hd]; rfl
  · rw [hcmd, slabIssued_of_drain hd]; rfl
  · rw [getCtx_slabDone, Ctx.bank_setBank_same, slabBank_of_drain hd]; rfl
  · rw [getCtx_slabDone, Ctx.bank_setBank_other]
  · rw [getCtx_slabDone, Ctx.yard_setBank]

end

end

section
/-! SUPPORT. The not-clocked proxy, the share windows and refresh (chapters 04 and 06). -/

namespace Sys2Proof.Machine

theorem exec_notClockedProxyAccess (a : BitVec 32) (w : Option (BitVec 32)) (s : State) :
    exec (.notClockedProxyAccess a w) s = execNotClockedProxyAccess a w s := rfl

theorem exec_galleryShareWindow (s : State) : exec .galleryShareWindow s = .next { s with mem := { s.mem with galleryR := [] } } := rfl

theorem exec_channelShareWindow (s : State) : exec .channelShareWindow s = .next { s with mem := { s.mem with chanR := [] } } := rfl

theorem exec_refresh (k : BitVec 2) (s : State) :
    exec (.refresh k) s = .next { s with mem := { s.mem with refreshed := mapMod s.mem.refreshed k.toNat 0 (· + 1) } } := rfl

/-! ### Registers of a clock domain -/

section
variable {s : State} {a : Nat} {b : Bool}

/-- A register has a clock domain only in the window of a bench that is there (R6). -/
theorem pfClosed_of_domainRuns (h : domainRuns s a = some b) : pfClosed s a = if b then none else some .notClocked := by
  have hbench : ¬ (0x200000 ≤ a ∧ a < 0x400000 ∧ benchCount s ≤ (a - 0x200000) / 65536) := by
    rintro ⟨hlo, hhi, hn⟩
    rw [domainRuns, if_pos ⟨hlo, hhi⟩, if_neg fun hd => absurd hd.2.2 (Nat.not_lt.2 hn)] at h
    cases h
  rw [pfClosed, if_neg hbench, h]
  cases b <;> rfl

/-- No register of a clock domain is a queue whose read pops. -/
theorem readEffect_of_domainRuns (h : domainRuns s a = some b) : readEffect s a = s := by
  have hr : ¬ (0x700000 ≤ a ∧ a < 0x704000) := by
    rintro ⟨hlo, hhi⟩
    rw [domainRuns, if_neg (by omega), if_neg (by omega), if_neg (by omega)] at h
    cases h
  rw [readEffect, if_neg (by omega), if_neg (by omega)]

theorem readWord_of_stopped (hr : reachable s a = true) (h : domainRuns s a = some false) :
    readWord s 0 a = (logErr s 0 .notClocked 0 0 a, 0xFFFFFFFF) := by
  simp [readWord, hr, pfClosed_of_domainRuns h]

theorem readWord_of_running (hr : reachable s a = true) (h : domainRuns s a = some true) : readWord s 0 a = (s, regWord s 0 a) := by
  simp [readWord, hr, pfClosed_of_domainRuns h, readEffect_of_domainRuns h]

theorem pfWrite_of_stopped {n d : Nat} (hr : reachable s a = true) (h : domainRuns s a = some false) :
    pfWrite s a n d = logErr s 0 .notClocked 0 0 a := by
  simp [pfWrite, hr, pfClosed_of_domainRuns h]

end

section
variable {s : State} {addr d : BitVec 32} {b : Bool}

theorem execNotClockedProxyAccess_read (h : domainRuns s addr.toNat = some b) :
    execNotClockedProxyAccess addr none s =
      .next (emit (readWord s 0 addr.toNat).1 (.regData [(readWord s 0 addr.toNat).2])) := by
  simp only [execNotClockedProxyAccess, h]

theorem execNotClockedProxyAccess_write (h : domainRuns s addr.toNat = some b) :
    execNotClockedProxyAccess addr (some d) s = .next (pfWrite s addr.toNat 32 d.toNat) := by
  simp only [execNotClockedProxyAccess, h]

/-- A 32-bit write of PF0 at a word's own address. -/
theorem exec_registerWrite_word (ha : addr.toNat % 4 = 0) :
    exec (.registerWrite 0 addr false (d.setWidth 64)) s = .next (pfWrite s addr.toNat 32 d.toNat) := by
  have haddr : addr.toNat / 4 * 4 = addr.toNat := Nat.div_mul_cancel (Nat.dvd_of_mod_eq_zero ha)
  have hd : (d.setWidth 64).toNat % 2 ^ 32 = d.toNat := by
    rw [BitVec.toNat_setWidth, Nat.mod_mod_of_dvd _ (by decide), Nat.mod_eq_of_lt d.isLt]
  simp only [exec_registerWrite, execRegisterWrite, Bool.false_eq_true, if_false, haddr, hd]
  rfl

end

/-! ### The sensors of the stacks (R166) -/

/-- Four bits listed by their numbers read back as they are. -/
theorem bitOf_ofBitList_four : ∀ (b0 b1 b2 b3 : Bool) (i : Fin 4),
    bitOf (ofBitList ((List.range 4).filter (fun j => [b0, b1, b2, b3].getD j false)) % 2 ^ 4) i.val = [b0, b1, b2, b3].getD i.val false := by
  decide

theorem bitOf_ofBitList_filter (p : Nat → Bool) (i : Fin 4) :
    bitOf (ofBitList ((List.range 4).filter p) % 2 ^ 4) i.val = p i.val := by
  have hp : ∀ j : Fin 4, p j.val = [p 0, p 1, p 2, p 3].getD j.val false := by
    intro j
    match j with
    | 0 | 1 | 2 | 3 => rfl
  have hlist : (List.range 4).filter p = (List.range 4).filter (fun j => [p 0, p 1, p 2, p 3].getD j false) :=
    List.filter_congr fun j hj => hp ⟨j, List.mem_range.1 hj⟩
  rw [hlist, bitOf_ofBitList_four, ← hp i]

/-- The state with the four readings shown. -/
def tempsShown (s : State) (t0 t1 t2 t3 : BitVec 8) : State :=
  wr (wr (wr (wr s Reg.memTempStack 0 t0.toNat) Reg.memTempStack 1 t1.toNat) Reg.memTempStack 2 t2.toNat) Reg.memTempStack 3 t3.toNat

/-- The stacks that are hot after their readings. -/
def hotBits (s : State) (ts : List (BitVec 8)) : Nat :=
  ofBitList ((List.range 4).filter (fun i => hotAfter (bitOf (rd s Reg.memRefreshHot 0) i) (ts.getD i 0).toInt))

theorem exec_refreshTempRead (t0 t1 t2 t3 : BitVec 8) (s : State) :
    exec (.refreshTempRead t0 t1 t2 t3) s = .next (wr (tempsShown s t0 t1 t2 t3) Reg.memRefreshHot 0 (hotBits s [t0, t1, t2, t3])) := rfl

/-- What the register of a stack shows after the readings: its own, which the later ones and the hot bits leave. -/
theorem rd_tempsShown (s : State) (t0 t1 t2 t3 : BitVec 8) (v : Nat) (i : Fin 4) :
    rd (wr (tempsShown s t0 t1 t2 t3) Reg.memRefreshHot 0 v) Reg.memTempStack i.val = ([t0, t1, t2, t3].getD i.val 0).toNat := by
  have hfit : ∀ t : BitVec 8, t.toNat % 2 ^ Reg.memTempStack.width = t.toNat := fun t => Nat.mod_eq_of_lt t.isLt
  have hhot : fldKey Reg.memRefreshHot 0 ≠ fldKey Reg.memTempStack i.val := by revert i; decide
  have hother : ∀ j k : Nat, j ≠ k → fldKey Reg.memTempStack j ≠ fldKey Reg.memTempStack k := by
    intro j k hjk
    simp only [fldKey, Reg.memTempStack]
    omega
  rw [rd_wr_ne _ _ _ _ _ _ hhot, tempsShown]
  match i with
  | 0 | 1 | 2 | 3 => simp [rd_wr_ne, hother, hfit]

theorem refreshTempRead_onlyRegs (s : State) (t0 t1 t2 t3 : BitVec 8) (v : Nat) :
    OnlyRegs [(Reg.memTempStack, 0), (Reg.memTempStack, 1), (Reg.memTempStack, 2), (Reg.memTempStack, 3), (Reg.memRefreshHot, 0)] s
      (wr (tempsShown s t0 t1 t2 t3) Reg.memRefreshHot 0 v) :=
  (((((OnlyRegs.refl _ s).wr (by simp)).wr (by simp)).wr (by simp)).wr (by simp)).wr (by simp)

theorem refreshTempRead_onlyParts (s : State) (t0 t1 t2 t3 : BitVec 8) (v : Nat) :
    OnlyParts [.regs] s (wr (tempsShown s t0 t1 t2 t3) Reg.memRefreshHot 0 v) :=
  (wr_kept (wr_kept (wr_kept (wr_kept (wr_kept (Kept.refl _ s) rfl) rfl) rfl) rfl) rfl).1

end Sys2Proof.Machine

section

open Sys2Proof Sys2Proof.Machine

/-- Settles O13: a domain that has a clock closes its register or leaves it plain, and the other rows are one update each. -/
theorem proxyWindowsAndRefresh : Obligations.ProxyWindowsAndRefresh := by
  intro s addr d k t0 t1 t2 t3 j i
  refine ⟨fun hr h => ⟨?_, ?_⟩, fun hr h ha => ⟨?_, ?_⟩, ?_, ?_, ?_, ?_⟩
  · exact ⟨_, (exec_notClockedProxyAccess ..).trans (execNotClockedProxyAccess_read h), by rw [readWord_of_stopped hr h]⟩
  · exact ⟨_, (exec_notClockedProxyAccess ..).trans (execNotClockedProxyAccess_write h), pfWrite_of_stopped hr h⟩
  · exact ⟨_, (exec_notClockedProxyAccess ..).trans (execNotClockedProxyAccess_read h), by rw [readWord_of_running hr h]⟩
  · exact ⟨_, (exec_notClockedProxyAccess ..).trans (execNotClockedProxyAccess_write h), _, exec_registerWrite_word ha, rfl⟩
  · exact ⟨_, exec_galleryShareWindow s, rfl, rfl⟩
  · exact ⟨_, exec_channelShareWindow s, rfl, rfl⟩
  · refine ⟨_, exec_refresh k s, rfl, ?_⟩
    rw [mapMod, mapGet_mapSet]
    by_cases hj : k.toNat = j
    · rw [if_pos hj, if_pos hj.symm, hj]
    · rw [if_neg hj, if_neg (Ne.symm hj), Nat.add_zero]
  · have hshown := rd_tempsShown s t0 t1 t2 t3 (hotBits s [t0, t1, t2, t3])
    refine ⟨_, exec_refreshTempRead t0 t1 t2 t3 s, hshown 0, hshown 1, hshown 2, hshown 3, ?_,
      refreshTempRead_onlyParts _ _ _ _ _ _, refreshTempRead_onlyRegs _ _ _ _ _ _⟩
    rw [rd_wr_same]
    exact bitOf_ofBitList_filter _ i

end

end

section
/-! SUPPORT. The Dresser's row operations at execution (chapter 04): output rows whose pieces carry no accumulator flags. -/

namespace Sys2Proof.Machine

theorem exec_map (cid : Nat) (s : State) : exec (.map cid) s = .next (dresserCmd s cid 1 (fun byte x => some (runMap byte x))) := rfl

theorem exec_rowSum (cid : Nat) (s : State) :
    exec (.rowSum cid) s = .next (dresserCmd s cid 2 (fun byte x => some (runRowSum byte x))) := rfl

theorem exec_rowMaxi (cid : Nat) (s : State) :
    exec (.rowMaxi cid) s = .next (dresserCmd s cid 5 (fun byte x => some (runRowIdx true byte x))) := rfl

theorem exec_rowMini (cid : Nat) (s : State) :
    exec (.rowMini cid) s = .next (dresserCmd s cid 6 (fun byte x => some (runRowIdx false byte x))) := rfl

theorem exec_random (cid : Nat) (s : State) :
    exec (.random cid) s = .next (dresserCmd s cid 8 (fun _ x => some (runRandom x))) := rfl

theorem exec_discard (cid : Nat) (s : State) : exec (.discard cid) s = .next (dresserCmd s cid 9 (fun _ _ => some [])) := rfl

/-- Output rows as the pieces of an operation that keeps no accumulator cells, and so raises no flag. -/
def unflagged (rows : List (Nat × List Byte)) : List (Nat × List Byte × Nat) := rows.map (fun e => (e.1, e.2, 0))

/-- A command that has executed and staged these rows. -/
def rowsStaged (c : Cmd) (rows : List (Nat × List Byte)) : Cmd :=
  { c with st := .issued, writes := rows.foldl (fun w e => putBytes w e.1 e.2) [], accFlags := 0, hasOut := rows.flatMap (·.2) ≠ [],
           assay := if rows.flatMap (·.2) = [] then 0 else crc64 (rows.flatMap (·.2)), status := .ok }

theorem unflagged_map {α : Type} (l : List α) (g : α → Nat × List Byte) :
    unflagged (l.map g) = l.map (fun a => ((g a).1, (g a).2, 0)) := List.map_map

theorem unflagged_append (a b : List (Nat × List Byte)) : unflagged (a ++ b) = unflagged a ++ unflagged b := List.map_append

theorem unflagged_flags (rows : List (Nat × List Byte)) : ((unflagged rows).map (·.2.2)).foldl orFlags 0 = 0 := by
  induction rows with
  | nil => rfl
  | cons e t ih => simpa [unflagged, orFlags] using ih

theorem unflagged_bytes (rows : List (Nat × List Byte)) : (unflagged rows).flatMap (·.2.1) = rows.flatMap (·.2) := List.flatMap_map ..

theorem unflagged_writes (rows : List (Nat × List Byte)) (w : SMap Byte) :
    (unflagged rows).foldl (fun w e => putBytes w e.1 e.2.1) w = rows.foldl (fun w e => putBytes w e.1 e.2) w := List.foldl_map ..

theorem stageOut_unflagged (c : Cmd) (rows : List (Nat × List Byte)) :
    { stageOut c (unflagged rows) with st := .issued } = rowsStaged c rows := by
  simp only [stageOut, rowsStaged, unflagged_flags, unflagged_bytes, unflagged_writes]
  rfl

section
variable {s : State} {cid op : Nat} {c : Cmd} {out : (Nat → Byte) → DresserCmd → Option (List (Nat × List Byte × Nat))}

/-- A Dresser command that executes with these rows stages them, and changes nothing but its bench's window beside. -/
theorem dresserCmd_rowsStaged {rows : List (Nat × List Byte)} (h : Executes s cid c = true) (h2 : c.opcode = 2) (hop : (dresserOf c).op = op)
    (ho : out (getCtx s (cmdCtx c)).byte (dresserOf c) = some (unflagged rows)) :
    StagedAs s (dresserCmd s cid op out) cid (rowsStaged c rows) (dresserShown c.bench) [.free] :=
  stageOut_unflagged c rows ▸ dresserCmd_stagedAs h h2 hop ho

end

/-- The values of ROW_MAXI and ROW_MINI are output before the indices, row by row. -/
theorem runRowIdx_eq (m : Bool) (byte : Nat → Byte) (x : DresserCmd) :
    let f := (dresserFmt x.x.fmt).getD (.int 8)
    let best := (List.range x.rows).map (fun row =>
      reduceIdx m f ((List.range x.cols).map (fun k => (x.x.elem byte row k, x.indexBase + k))))
    runRowIdx m byte x = unflagged (best.zipIdx.map (fun b => (x.outAddr + b.2 * x.outStride, leBytes (lineLen f.bits 1) b.1.1)) ++
      best.zipIdx.map (fun b => (x.out2Addr + b.2 * x.out2Stride, leBytes 4 b.1.2))) := by
  intro f best
  rw [unflagged_append, unflagged_map, unflagged_map]
  rfl

end Sys2Proof.Machine

section

open Sys2Proof Sys2Proof.Machine

/-- Settles O20: each row runs dresserCmd with its operation's output rows, none of which carries a flag. That they lie in the space is not
used: the plan checked it at issue, and execution stages without checking it again. -/
theorem dresserRowsAreStaged : Obligations.DresserRowsAreStaged := by
  intro s cid c h h2
  refine ⟨fun hop _ => ?_, fun hop _ => ?_, fun hop _ => ?_, fun hop _ => ?_, fun hop _ => ?_, fun hop => ?_⟩
  · exact ⟨_, exec_map cid s, dresserCmd_rowsStaged h h2 hop (by rw [unflagged_map]; rfl)⟩
  · exact ⟨_, exec_rowSum cid s, dresserCmd_rowsStaged h h2 hop (by rw [unflagged_map]; rfl)⟩
  · exact ⟨_, exec_rowMaxi cid s, dresserCmd_rowsStaged h h2 hop (by rw [runRowIdx_eq])⟩
  · exact ⟨_, exec_rowMini cid s, dresserCmd_rowsStaged h h2 hop (by rw [runRowIdx_eq])⟩
  · exact ⟨_, exec_random cid s, dresserCmd_rowsStaged h h2 hop (by rw [unflagged_map]; rfl)⟩
  · exact ⟨_, exec_discard cid s, dresserCmd_rowsStaged h h2 hop rfl⟩

end

end

section
/-! SUPPORT. A SKIP whose physical run lies in a lot that no device has, where the tokens it pays are read as the lot's owner. -/

namespace Sys2Proof.Machine

theorem exec_skip (cid : Nat) (s : State) :
    exec (.skip cid) s = .next (issueBench s cid (fun c => c.opcode == 3) skipPlan skipFree skipRun) := rfl

/-- LOT_OWNER's stride reaches DRAM_BUCKET's level of PF0 at lot 6148: the table has 384 lots. -/
theorem fldKey_lotOwner_beyond : fldKey Reg.lotOwnerOwner 6148 = fldKey Reg.dramBucketLevel 0 := by decide

/-- The first address of that lot. -/
def farPa : Nat := 6148 * 2 ^ 30

/-- A killable SKIP of PF0 that fills one byte of that lot with zero, dispatched. -/
def farSkip : Cmd :=
  { Cmd.fresh (.queue 0 0) 0 (1 + 3 * 2 ^ 4 + 2 ^ 32 + (3 * 2 ^ 130 + 2 ^ 138 + 2 ^ 160) * 2 ^ 512) 128 with
    st := .dispatched, held := true, dstRuns := [(farPa, 1)] }

/-- Its context is resident on bench 0, the tokens it leaves are one KiB, and the line it writes is stored under the key pair of slot 0. -/
def farSkipState : State :=
  { State.reset with
    regs := [(fldKey Reg.benchStatePstate 0, 0), (fldKey Reg.benchStateRole 0, 1)]
    mem := { State.reset.mem with stored := [(farPa / 64, 0)], tokens := [(0, 1152)], keys := [(1, 1)] }
    work := { State.reset.work with cmds := [(7, farSkip)] }
    yards := { State.reset.yards with ctxs := [(0, { Ctx.fresh with res := .resident 0 })] } }

theorem executes_farSkip : Executes farSkipState 7 farSkip = true := by decide +kernel

theorem opcode_farSkip : farSkip.opcode = 3 := by decide +kernel

/-- What its body states: one byte of zero to a physical address. -/
theorem skipOf_farSkip : (skipOf farSkip).nk = false ∧ (skipOf farSkip).dims = 0 ∧ (skipOf farSkip).len0 = 1 ∧ (skipOf farSkip).zero = true ∧
    (skipOf farSkip).dstSp = 3 := by decide +kernel

theorem keyKept_farSkip : keyKept farSkipState farPa 1 = true := by decide +kernel

/-- The level of the tokens left makes slot 1 the key slot of the lot, so the byte beside the written one is stored again as garbage. -/
theorem memByte_farSkip :
    memByte (issueBench farSkipState 7 (fun c => c.opcode == 3) skipPlan skipFree skipRun).mem (farPa + 1) ≠ 0 := by decide +kernel

end Sys2Proof.Machine

section

open Sys2Proof Sys2Proof.Machine

/-- Refutes O22: of a SKIP whose run lies in lot 6148, a byte beside the run changes. The owner of a lot that far beyond the table is read where
the level of PF0's bucket is shown, so paying for the access (R168) changes the key pair under which the line is written. The statement has no
premise that the run lies in the device's DRAM, which the translation of R107 ensures. -/
theorem not_skipMovesOrWaits : ¬ Obligations.SkipMovesOrWaits := by
  intro h
  obtain ⟨hnk, hdims, hlen, hzero, hsp⟩ := skipOf_farSkip
  obtain ⟨-, hdram, -⟩ := h farSkipState 7 farPa 0 0 farSkip executes_farSkip opcode_farSkip hnk hdims (by rw [hlen]; decide) (.inl hzero) rfl rfl
  obtain ⟨t, ht, -, -, hbytes, -⟩ := hdram rfl (.inr hsp) (by rw [hlen]; rfl) rfl (by rw [hlen]; exact keyKept_farSkip) rfl
  obtain rfl := Host.Outcome.next.inj ((exec_skip ..).symm.trans ht)
  exact memByte_farSkip (hbytes (farPa + 1) (by rw [hlen]; omega))

end

end

section
/-! SUPPORT. Commit of a bench command with nothing to hand over (R133): what its write set, its signals and its completion leave. -/

namespace Sys2Proof.Machine

/-! ### Signals -/

/-- A function's tallies after signals applied in order, each added modulo 2 ^ 32 (R128, R129). -/
def signalled (m : SMap Nat) (f : Nat) (sigs : List (Nat × Nat)) : SMap Nat :=
  sigs.foldl (fun m g => mapPut m (1024 * f + g.1) ((mapGet m (1024 * f + g.1) 0 + g.2) % 2 ^ 32) 0) m

/-- Replace all tallies. -/
def putTallies (s : State) (m : SMap Nat) : State := { s with work := { s.work with tallies := m } }

/-- Signals change the tallies alone, and see nothing else of the state. -/
theorem applySignals_eq (s : State) (f : Nat) (sigs : List (Nat × Nat)) :
    applySignals s f sigs = putTallies s (signalled s.work.tallies f sigs) := by
  induction sigs generalizing s with
  | nil => rfl
  | cons g t ih => exact ih (tallyInc s f g.1 g.2)

/-! ### Resolution of the Yard (R84, R100) -/

theorem mapFind_eq_none {α : Type} {m : SMap α} {k : Nat} (h : ∀ j ∈ m.map (·.1), k < j) : mapFind m k = none := by
  induction m with
  | nil => rfl
  | cons e t ih =>
    rw [List.map_cons, List.forall_mem_cons] at h
    exact (if_neg (Nat.ne_of_gt h.1)).trans (ih h.2)

/-- Entries of rising keys put into a map: a key they list reads as listed, every other as before. -/
theorem mapGet_puts {m w : SMap Byte} {k : Nat} (h : rising (w.map (·.1)) = true) :
    mapGet (w.foldl (fun y e => mapPut y e.1 e.2 0) m) k 0 = (mapFind w k).getD (mapGet m k 0) := by
  induction w generalizing m with
  | nil => rfl
  | cons e t ih =>
    obtain ⟨hlt, ht⟩ := (rising_cons ..).1 h
    rw [List.foldl_cons, ih ht, mapGet_mapPut, mapFind]
    by_cases hk : e.1 = k
    · subst hk
      rw [mapFind_eq_none hlt, if_pos rfl, if_pos rfl]
      rfl
    · rw [if_neg hk, if_neg hk]

theorem byte_resolveYard {x : Ctx} {c : Cmd} {off : Nat} (h : rising (c.writes.map (·.1)) = true) :
    (resolveYard x c).byte off = if c.discard.contains (off / 65536) then 0 else (mapFind c.writes off).getD (x.byte off) := by
  rw [Ctx.byte, resolveYard, mapGet]
  split
  case isTrue hd => rw [mapFind_filter_false _ (fun k _ => !c.discard.contains (k / 65536)) off fun _ => by rw [hd]; rfl]; rfl
  case isFalse hd =>
    rw [mapFind_filter_true _ (fun k _ => !c.discard.contains (k / 65536)) off fun _ => by simp only [hd]; rfl]
    exact mapGet_puts h

/-! ### Frames -/

/-- Frames released by a command of a queue go to zeroing on its bench. -/
theorem getBench_releaseFrames {s : State} {c : Cmd} {n : Nat} (h : c.owner.isRadio = false) (j : Nat) :
    getBench (releaseFrames s c n) j =
      if c.bench = j then { getBench s c.bench with zeroing := (getBench s c.bench).zeroing + n } else getBench s j := by
  rw [releaseFrames]
  split
  case isTrue h0 => split <;> simp_all
  case isFalse => simp only [h, getBench_putBench, Bool.false_eq_true, if_false]

theorem getCtx_releaseFrames (s : State) (c : Cmd) (n j : Nat) : getCtx (releaseFrames s c n) j = getCtx s j := by
  rw [releaseFrames]
  split <;> rfl

/-! ### Completion of a command of a queue -/

theorem isRadio_of_stepKey {o : Owner} {k : Nat} (h : o.stepKey = some k) : o.isRadio = false := by
  cases o with
  | queue f q => rfl
  | radio n t p => cases h

/-- A command without shadows completes with its record and the mark of its step, and nothing else. -/
theorem finishOne_of_no_shadows {s : State} {cid k : Nat} {c : Cmd} {y : StepSt} {st : Status} {fault : Nat} (h0 : c.shadows = 0)
    (hk : c.owner.stepKey = some k) (hy : getStep s k = some y) :
    finishOne s cid c st fault =
      putStep (putCmd s cid (c.ended st fault)) k { y with lastNs := now s, failing := y.failing || st.failing } := by
  have hstep : ∀ d, getStep (putCmd s cid d) k = some y := fun _ => hy
  rw [finishOne, h0, releaseFrames, if_pos rfl]
  simp only [hk, hstep]
  rfl

/-- A command past its point of no return completes no chain beside itself. -/
theorem finish_of_committing {s : State} {cid : Nat} {c : Cmd} {st : Status} {fault : Nat} (h : c.st = .committing) :
    finish s cid c st fault = finishOne s cid c st fault := by
  simp [finish, h]

/-! ### The commit -/

/-- The state with a command's write set resolved into its context, and the frames it replaced released. -/
def resolved (s : State) (c : Cmd) : State :=
  putCtx (releaseFrames s c (framesReleased (getCtx s (cmdCtx c)) c)) (cmdCtx c) (resolveYard (getCtx s (cmdCtx c)) c)

/-- A command at its point of no return. -/
def Cmd.committed (c : Cmd) (ns : Nat) : Cmd := { c with commitNs := ns, st := .committing, held := false, snap := none, ranges := [] }

/-- A command with its commit buffer handed over. -/
def Cmd.handed (c : Cmd) : Cmd := { c with buf := [] }

theorem Cmd.handed_of_buf {c : Cmd} (h : c.buf = []) : c.handed = c := by rw [Cmd.handed, ← h]

/-- What a commit does once the write set is in place: it hands over what the command has staged, and completes it and its chain. -/
def commitRest (s : State) (cid : Nat) (c : Cmd) : State :=
  let t := closeMembers (handAll (putCmd s cid (c.committed (now s))) cid c) c.chain c.status
  showBench (match getCmd t cid with
    | none => t
    | some d =>
      if d.st ≠ .committing ∨ d.awaits.any (fun m => (getUn t m).isSome) then t
      else finish (if c.status == .ok || c.status == .accOverflow then applySignals t c.owner.tallies c.signals else t) cid
        d.handed c.status c.fault) c.bench

/-- The tallies after a command's signals, which it sends where it succeeded (R129). -/
def commitTallies (s : State) (c : Cmd) : SMap Nat :=
  if givesOutput c.status then signalled s.work.tallies c.owner.tallies c.signals else s.work.tallies

/-- The work of the device after a commit: the command is done, its step knows, and its signals are applied. -/
def commitWork (s : State) (cid k : Nat) (c : Cmd) (y : StepSt) : Work :=
  { s.work with
    cmds := mapSet (mapSet s.work.cmds cid (c.committed (now s))) cid ((c.committed (now s)).ended c.status c.fault)
    steps := mapSet s.work.steps k { y with lastNs := now s, failing := y.failing || c.status.failing }
    tallies := commitTallies s c }

/-- The state after a commit of a command that has nothing to hand over. -/
def commitEnd (s : State) (cid k : Nat) (c : Cmd) (y : StepSt) : State :=
  showBench { resolved s c with work := commitWork s cid k c y } c.bench

section
variable {s : State} {cid k off : Nat} {c : Cmd} {y : StepSt}

@[simp] theorem releaseFrames_work (s : State) (c : Cmd) (n : Nat) : (releaseFrames s c n).work = s.work := by
  rw [releaseFrames]; split <;> rfl

@[simp] theorem releaseFrames_clock (s : State) (c : Cmd) (n : Nat) : (releaseFrames s c n).clock = s.clock := by
  rw [releaseFrames]; split <;> rfl

@[simp] theorem resolved_work (s : State) (c : Cmd) : (resolved s c).work = s.work := releaseFrames_work ..

@[simp] theorem now_resolved (s : State) (c : Cmd) : now (resolved s c) = now s := congrArg Clock.ns (releaseFrames_clock ..)

theorem resolved_kept (s : State) (c : Cmd) : Kept [.yards] s (resolved s c) :=
  putCtx_kept (releaseFrames_kept (Kept.refl _ s) rfl) rfl

theorem commitCmd_of_no_dram (h : c.dramWrites = []) : commitCmd s cid c = commitRest (resolved s c) cid c := by
  have hw : commitDram (resolved s c) c = (resolved s c, none) := if_pos h
  change commitRest (commitDram (resolved s c) c).1 cid (match (commitDram (resolved s c) c).2 with
    | some l => { c with status := .memUe, fault := c.b 64 48 + byteInLine c.dstRuns l }
    | none => c) = _
  rw [hw]

theorem signals_of_output (s : State) (c : Cmd) :
    (if c.status == .ok || c.status == .accOverflow then applySignals s c.owner.tallies c.signals else s) =
      putTallies s (commitTallies s c) := by
  rw [applySignals_eq, commitTallies, givesOutput]
  split <;> rfl

theorem commitRest_of_nothing_to_hand (hk : c.owner.stepKey = some k) (hy : getStep s k = some y) (hbuf : c.buf = [])
    (hchain : c.chain = []) (hawaits : c.awaits = []) :
    commitRest s cid c = showBench { s with work := commitWork s cid k c y } c.bench := by
  have hleft : closeMembers (handAll (putCmd s cid (c.committed (now s))) cid c) c.chain c.status = putCmd s cid (c.committed (now s)) := by
    simp [handAll, closeMembers, hbuf, hchain]
  have hget : getCmd (putCmd s cid (c.committed (now s))) cid = some (c.committed (now s)) := mapFind_mapSet_same ..
  have hhanded : (c.committed (now s)).handed = c.committed (now s) := Cmd.handed_of_buf hbuf
  have hfinal : ¬ ((c.committed (now s)).st ≠ .committing ∨
      (c.committed (now s)).awaits.any (fun m => (getUn (putCmd s cid (c.committed (now s))) m).isSome) = true) := by
    simp [Cmd.committed, hawaits]
  have hstep : getStep (putTallies (putCmd s cid (c.committed (now s))) (commitTallies s c)) k = some y := hy
  have hend := finishOne_of_no_shadows (cid := cid) (c := c.committed (now s)) (st := c.status) (fault := c.fault) rfl hk hstep
  simp only [commitRest, hleft, hget]
  rw [if_neg hfinal, hhanded, finish_of_committing rfl, signals_of_output]
  exact congrArg (showBench · c.bench) hend

/-- A command of a queue with nothing in its commit buffer, no chain behind it, no bytes for DRAM and no message awaited commits at once. -/
theorem commitCmd_of_nothing_to_hand (hk : c.owner.stepKey = some k) (hy : getStep s k = some y) (hbuf : c.buf = [])
    (hchain : c.chain = []) (hdram : c.dramWrites = []) (hawaits : c.awaits = []) : commitCmd s cid c = commitEnd s cid k c y := by
  have hy' : getStep (resolved s c) k = some y := by rwa [getStep, resolved_work]
  have hwork : commitWork (resolved s c) cid k c y = commitWork s cid k c y := by simp [commitWork, commitTallies]
  rw [commitCmd_of_no_dram hdram, commitRest_of_nothing_to_hand hk hy' hbuf hchain hawaits, hwork, commitEnd]

/-! ### What the commit leaves -/

theorem getCtx_commitEnd (j : Nat) :
    getCtx (commitEnd s cid k c y) j = if cmdCtx c = j then resolveYard (getCtx s (cmdCtx c)) c else getCtx s j :=
  (getCtx_putCtx ..).trans (by rw [getCtx_releaseFrames])

theorem getBench_commitEnd (h : c.owner.isRadio = false) (j : Nat) :
    getBench (commitEnd s cid k c y) j = if c.bench = j then
      { getBench s c.bench with zeroing := (getBench s c.bench).zeroing + framesReleased (getCtx s (cmdCtx c)) c } else getBench s j :=
  getBench_releaseFrames h j

theorem getCmd_commitEnd (j : Nat) :
    getCmd (commitEnd s cid k c y) j = if cid = j then some ((c.committed (now s)).ended c.status c.fault) else getCmd s j := by
  have hcmds : (commitEnd s cid k c y).work.cmds =
      mapSet (mapSet s.work.cmds cid (c.committed (now s))) cid ((c.committed (now s)).ended c.status c.fault) := rfl
  rw [getCmd, hcmds, mapFind_mapSet, mapFind_mapSet]
  split <;> rfl

theorem commitEnd_onlyRegs : OnlyRegs (benchShown c.bench) s (commitEnd s cid k c y) := by
  have hregs : ({ resolved s c with work := commitWork s cid k c y } : State).regs = s.regs := (resolved_kept s c).1 .regs (by decide)
  exact ((OnlyRegs.refl _ s).of_regs hregs).showBench fun _ h => h

theorem commitEnd_onlyParts : OnlyParts [.regs, .work, .yards] s (commitEnd s cid k c y) :=
  (showBench_kept (Kept.setWork (Kept.app (Kept.refl _ s) rfl (resolved_kept s c)) rfl) rfl).1

end

/-! ### The row -/

theorem exec_commit {s : State} {cid : Nat} {c : Cmd} (h : getCmd s cid = some c) :
    exec (.commit cid) s = .next (if mayCommit s cid c then deliverLocal (commitCmd s cid c) else s) := by
  change execCommit cid s = _
  rw [execCommit, h]

/-- Where nothing that the device has sent to itself waits, there is nothing to deliver. -/
theorem deliverLocal_of_none_due {s : State} (h : s.fab.unacked.all (fun e => !e.2.localDue) = true) : deliverLocal s = s := by
  have hfind : s.fab.unacked.find? (fun e => e.2.localDue) = none := by
    rw [List.find?_eq_none]
    simpa using h
  rw [deliverLocal]
  cases s.fab.unacked.length with
  | zero => rfl
  | succ n => rw [deliverAll, hfind]

theorem givesOutput_iff {st : Status} : givesOutput st = true ↔ st = .ok ∨ st = .accOverflow := by
  simp [givesOutput]

end Sys2Proof.Machine

section

open Sys2Proof Sys2Proof.Machine

/-- Settles O25: the commit ends in commitEnd, and each clause is a law of one part of that state. -/
theorem commitResolvesTheYard : Obligations.CommitResolvesTheYard := by
  intro s cid k off c y hc hk hy hbuf hchain hdram hawaits hrising hdue key x ok
  have hradio := isRadio_of_stepKey hk
  have hend : deliverLocal (commitCmd s cid c) = commitEnd s cid k c y := by
    have hfab : (commitEnd s cid k c y).fab = s.fab := commitEnd_onlyParts .fab (by decide)
    rw [commitCmd_of_nothing_to_hand hk hy hbuf hchain hdram hawaits, deliverLocal_of_none_due (by rwa [hfab])]
  have hctx : getCtx (commitEnd s cid k c y) key = resolveYard x c := (getCtx_commitEnd _).trans (if_pos rfl)
  have hbench := (getBench_commitEnd (s := s) (cid := cid) (k := k) (y := y) hradio c.bench).trans (if_pos rfl)
  refine ⟨fun hno => ⟨s, ?_, rfl⟩, fun hyes => ⟨commitEnd s cid k c y, ?_, ?_⟩⟩
  · rw [exec_commit hc, hno]; rfl
  · rw [exec_commit hc, hyes, ← hend]; rfl
  refine ⟨?_, by rw [hctx]; rfl, by rw [hctx]; rfl, by rw [hctx]; rfl, ?_, ?_, by rw [hbench], by rw [hbench], ?_, ?_, ?_, ?_, ?_, rfl,
    commitEnd_onlyRegs, commitEnd_onlyParts⟩
  · rw [hctx, byte_resolveYard hrising]
  · exact fun j hj => (getCtx_commitEnd j).trans (if_neg (List.ne_of_not_mem_cons hj).symm)
  · exact fun j hj => (getBench_commitEnd hradio j).trans (if_neg (List.ne_of_not_mem_cons hj).symm)
  · exact ⟨_, (getCmd_commitEnd cid).trans (if_pos rfl), rfl, rfl, rfl, if_congr givesOutput_iff rfl rfl, rfl, rfl⟩
  · intro hok
    rw [applySignals_eq]
    exact if_pos (givesOutput_iff.2 hok)
  · exact fun hok => if_neg (mt givesOutput_iff.1 hok)
  · exact fun j hj => (getCmd_commitEnd j).trans (if_neg (List.ne_of_not_mem_cons hj).symm)
  · exact fun j hj => (mapFind_mapSet ..).trans (if_neg (List.ne_of_not_mem_cons hj).symm)

end

end

section
/-! SUPPORT. A TALLY command that holds shadow frames: no dispatch leaves one, but the command store can list it, and its completion
releases them. -/

namespace Sys2Proof.Machine

theorem exec_tallySignal (cid : Nat) (s : State) : exec (.tallySignal cid) s = .next (tallyCmd s cid 1) := rfl

/-- A TALLY SIGNAL of queue 0 of PF0 with a reserved body field set, waiting in its stream and marked as holding the frame of one page. -/
def heldTally : Cmd :=
  { Cmd.fresh (.queue 0 0) 0 (1 + 6 * 2 ^ 4 + 2 ^ 32 + (1 + 1 * 2 ^ 4) * 2 ^ 512) 128 with held := true, wpages := [0] }

/-- The reset state with that command in a step of its queue. -/
def heldTallyState : State :=
  { State.reset with work := { State.reset.work with steps := [(0, default)], cmds := [(7, heldTally)] } }

theorem streamReady_heldTally : streamReady heldTallyState heldTally = true := by decide +kernel

theorem tallyBad_heldTally : tallyBad heldTally = true := by decide +kernel

/-- Its completion with BAD_FORMAT sends the frame of its page to zeroing on bench 0. -/
theorem zeroing_heldTally : (getBench (tallyCmd heldTallyState 7 1) 0).zeroing = 1 := by decide +kernel

end Sys2Proof.Machine

section

open Sys2Proof Sys2Proof.Machine

/-- Refutes O26: a TALLY command that is refused for its form while it is marked as holding a shadow frame releases the frame (R82), so its
bench changes, where the statement says that only queues, steps, commands and tallies do. The statement has no premise that the command holds
no frame. -/
theorem not_tallyCommandsAndZeroing : ¬ Obligations.TallyCommandsAndZeroing := by
  intro h
  obtain ⟨-, hbad, -⟩ := h heldTallyState 7 0 0 0 heldTally default 0 rfl rfl rfl rfl (by decide +kernel) streamReady_heldTally
  obtain ⟨t, ht, -, -, hparts⟩ := hbad (by decide +kernel) tallyBad_heldTally
  obtain rfl : tallyCmd heldTallyState 7 1 = t := Host.Outcome.next.inj ((exec_tallySignal ..).symm.trans ht)
  have hyards : (tallyCmd heldTallyState 7 1).yards = heldTallyState.yards := hparts .yards (by decide)
  have hzeroing := zeroing_heldTally
  rw [getBench, hyards] at hzeroing
  exact absurd hzeroing (by decide)

end

end

section
/-! SUPPORT. Queue blocks and host tally writes (chapter 05, R113-R117, R127, R128): what the rows that write them leave. -/

namespace Sys2Proof.Machine

theorem exec_sqTail (fn : Fin 513) (q : BitVec 6) (v : BitVec 32) (s : State) : exec (.sqTail fn q v) s = execSqTail fn q v s := rfl

theorem exec_queueEnable (fn : Fin 513) (q : BitVec 6) (s : State) : exec (.queueEnable fn q) s = execQueueEnable fn q s := rfl

theorem exec_queueDisable (fn : Fin 513) (q : BitVec 6) (s : State) : exec (.queueDisable fn q) s = execQueueDisable fn q s := rfl

theorem exec_queueConfigWrite (fn : Fin 513) (q : BitVec 6) (r : QReg) (v : BitVec 64) (s : State) :
    exec (.queueConfigWrite fn q r v) s = execQueueConfigWrite fn q r v s := rfl

theorem exec_tallyAdd (fn : Fin 513) (n : BitVec 10) (v : BitVec 32) (s : State) : exec (.tallyAdd fn n v) s = execTallyAdd fn n v s := rfl

theorem exec_tallySet (fn : Fin 513) (n : BitVec 10) (v : BitVec 32) (s : State) : exec (.tallySet fn n v) s = execTallySet fn n v s := rfl

/-! ### A stored queue block -/

@[simp] theorem getQ_putQ_same (s : State) (k : Nat) (x : Queue) : getQ (putQ s k x) k = x := (getQ_putQ ..).trans (if_pos rfl)

theorem putQ_onlyQueues (s : State) (k : Nat) (x : Queue) : OnlyQueues [k] s (putQ s k x) :=
  ⟨rfl, fun _ hj => (getQ_putQ ..).trans (if_neg (List.ne_of_not_mem_cons hj).symm)⟩

theorem putQ_onlyParts (s : State) (k : Nat) (x : Queue) : OnlyParts [.work] s (putQ s k x) := (putQ_kept (Kept.refl _ s) rfl).1

/-- A row that stores one queue block gives the block as stored. -/
theorem gives_putQ {i : Instr} {s : State} {k : Nat} {x : Queue} (he : exec i s = .next (putQ s k x)) :
    Gives i s (fun t => getQ t k = x ∧ OnlyParts [.work] s t ∧ OnlyQueues [k] s t) :=
  ⟨_, he, getQ_putQ_same .., putQ_onlyParts s k x, putQ_onlyQueues s k x⟩

/-- What a row gives may be weakened. -/
theorem Gives.imp {i : Instr} {s : State} {P P' : State → Prop} (h : Gives i s P) (hp : ∀ t, P t → P' t) : Gives i s P' :=
  let ⟨t, ht, hpt⟩ := h
  ⟨t, ht, hp t hpt⟩

/-! ### A stored queue block with an entry in the error log -/

@[simp] theorem logErr_work (s : State) (f : Nat) (st : Status) (a b c : Nat) : (logErr s f st a b c).work = s.work :=
  (logErr_kept (pw := [.regs]) (Kept.refl _ s) rfl).1 .work (by decide)

/-- What a log entry writes depends on the registers and the time alone. -/
theorem logErr_putQ_regs (s : State) (k f : Nat) (x : Queue) (st : Status) (a b c : Nat) :
    (logErr (putQ s k x) f st a b c).regs = (logErr s f st a b c).regs := by
  simp only [logErr, rd_putQ]
  split <;> split <;> rfl

/-- A row that stores one queue block and logs an error leaves the block as stored. -/
theorem gives_logErr_putQ {i : Instr} {s : State} {k f d : Nat} {x : Queue} {st : Status}
    (he : exec i s = .next (logErr (putQ s k x) f st 0 0 d)) :
    Gives i s (fun t => getQ t k = x ∧ t.regs = (logErr s f st 0 0 d).regs ∧ OnlyParts [.regs, .work] s t ∧ OnlyQueues [k] s t) := by
  have hq : ∀ j, getQ (logErr (putQ s k x) f st 0 0 d) j = getQ (putQ s k x) j := fun j => by rw [getQ, logErr_work, getQ]
  refine ⟨_, he, ?_, logErr_putQ_regs .., (logErr_kept (putQ_kept (Kept.refl _ s) rfl) rfl).1, ?_, fun j hj => ?_⟩
  · rw [hq, getQ_putQ_same]
  · rw [logErr_work]; rfl
  · exact (hq j).trans ((putQ_onlyQueues s k x).2 j hj)

/-! ### The rows of a queue block, branch by branch -/

/-- The configuration QUEUE_ENABLE accepts (R114). -/
def Queue.EnableLegal (x : Queue) : Prop := 2 ≤ x.sqLog ∧ x.sqLog ≤ 12 ∧ 2 ≤ x.cqLog ∧ x.cqLog ≤ 12 ∧ x.prio ≠ 3

section
variable {s : State} {fn : Fin 513} {q : BitVec 6} {k : Nat} {x : Queue}
  (hfn : fnPresent s fn.val = true) (hk : 64 * fn.val + q.toNat = k) (hx : getQ s k = x)
include hfn hk hx

theorem exec_sqTail_published {v : BitVec 32} (h : v.toNat % 4096 < x.sqLen) :
    ∃ bells, exec (.sqTail fn q v) s = .next (putQ s k { x with sqTail := v.toNat % 4096, bells := bells }) := by
  rw [exec_sqTail, execSqTail, if_neg (by simp [hfn])]
  simp only [qKey, hk, hx]
  rw [if_neg (Nat.not_le.2 h)]
  exact ⟨_, rfl⟩

theorem exec_sqTail_beyond {v : BitVec 32} (h : x.sqLen ≤ v.toNat % 4096) :
    exec (.sqTail fn q v) s =
      .next (logErr (putQ s k { x with lastStatus := .badFormat }) fn.val .badFormat 0 0 (queueOff q.toNat 0x20)) := by
  rw [exec_sqTail, execSqTail, if_neg (by simp [hfn])]
  simp only [qKey, hk, hx]
  rw [if_pos h]

theorem exec_queueEnable_legal (h : x.state = .disabled) (hl : x.EnableLegal) :
    exec (.queueEnable fn q) s = .next (putQ s k
      { x with enable := true, state := .running, sqHead := 0, cqHead := 0, cqTail := 0, phase := true }) := by
  unfold Queue.EnableLegal at hl
  rw [exec_queueEnable, execQueueEnable, if_neg (by simp [hfn])]
  simp only [qKey, hk, hx, h, if_pos hl]

theorem exec_queueEnable_illegal (h : x.state = .disabled) (hl : ¬ x.EnableLegal) :
    exec (.queueEnable fn q) s = .next (putQ s k { x with lastStatus := .badFormat }) := by
  unfold Queue.EnableLegal at hl
  rw [exec_queueEnable, execQueueEnable, if_neg (by simp [hfn])]
  simp only [qKey, hk, hx, h, if_neg hl]

theorem exec_queueEnable_refused (h : x.state = .error ∨ x.state = .stopping) :
    exec (.queueEnable fn q) s =
      .next (logErr (putQ s k { x with lastStatus := .permission }) fn.val .permission 0 0 (queueOff q.toNat 0x18)) := by
  rw [exec_queueEnable, execQueueEnable, if_neg (by simp [hfn])]
  rcases h with h | h <;> simp only [qKey, hk, hx, h]

theorem exec_queueDisable_running (h : x.state = .running) :
    exec (.queueDisable fn q) s = .next (putQ s k (if x.busy then { x with enable := false, state := .stopping } else x.disable)) := by
  rw [exec_queueDisable, execQueueDisable, if_neg (by simp [hfn])]
  simp only [qKey, hk, hx, h]

theorem exec_queueDisable_error (h : x.state = .error) : exec (.queueDisable fn q) s = .next (putQ s k x.disable) := by
  rw [exec_queueDisable, execQueueDisable, if_neg (by simp [hfn])]
  simp only [qKey, hk, hx, h]

theorem exec_queueConfigWrite_disabled {r : QReg} {w : BitVec 64} (h : x.state = .disabled) :
    exec (.queueConfigWrite fn q r w) s = .next (putQ s k (x.config r w.toNat)) := by
  rw [exec_queueConfigWrite, execQueueConfigWrite, if_neg (by simp [hfn])]
  simp only [qKey, hk, hx, if_pos h]

theorem exec_queueConfigWrite_refused {r : QReg} {w : BitVec 64} (h : x.state ≠ .disabled) :
    exec (.queueConfigWrite fn q r w) s = .next (logErr s fn.val .permission 0 0 (queueOff q.toNat (qregOff r))) := by
  rw [exec_queueConfigWrite, execQueueConfigWrite, if_neg (by simp [hfn])]
  simp only [qKey, hk, hx, if_neg h]

end

theorem Queue.config_qPasid (x : Queue) (v : Nat) : x.config .qPasid v = { x with pasid := v % 2 ^ 20 } := by
  simp only [Queue.config, bitsOf, Nat.pow_zero, Nat.div_one]

theorem Queue.config_sqBase (x : Queue) (v : Nat) : x.config .sqBase v = { x with sqBase := v / 64 % 2 ^ 42 } := rfl

theorem Queue.config_cqBase (x : Queue) (v : Nat) : x.config .cqBase v = { x with cqBase := v / 64 % 2 ^ 42 } := rfl

/-- The four fields a legal configuration is checked by, and the vector. -/
theorem Queue.config_qCfg (x : Queue) (v : Nat) :
    (x.config .qCfg v).sqLog = v % 16 ∧ (x.config .qCfg v).cqLog = v / 16 % 16 ∧ (x.config .qCfg v).prio = v / 1024 % 4 ∧
      (x.config .qCfg v).msix = v / 4096 % 64 ∧ (x.config .qCfg v).state = x.state := by
  simp [Queue.config, bitsOf]

end Sys2Proof.Machine

section

open Sys2Proof Sys2Proof.Machine

/-- Settles O14: each clause names the branch of its row, and each branch stores one queue block, with an entry in the log where it refuses. -/
theorem queueBlockCommands : Obligations.QueueBlockCommands := by
  intro s fn q v w hfn k x
  have hoff (o : Nat) : queueOff q.toNat o = 0x1000 + o + 64 * q.toNat := Nat.add_right_comm ..
  refine ⟨fun h => ?_, fun h => ?_, fun h h1 h2 h3 h4 h5 => ?_, fun h hbad => ?_, fun h => ?_, fun h hb => ?_, fun h hb => ?_, fun h => ?_,
    fun h => ?_, fun h => ?_, fun h => ?_, fun h => ?_, fun h => ?_⟩
  · obtain ⟨bells, he⟩ := exec_sqTail_published hfn rfl rfl h
    refine (gives_putQ he).imp fun t ⟨hx, hf⟩ => ?_
    rw [hx]
    exact ⟨rfl, rfl, rfl, hf⟩
  · have he := exec_sqTail_beyond hfn rfl rfl h
    rw [hoff] at he
    exact gives_logErr_putQ he
  · exact gives_putQ (exec_queueEnable_legal hfn rfl rfl h ⟨h1, h2, h3, h4, h5⟩)
  · exact gives_putQ (exec_queueEnable_illegal hfn rfl rfl h fun ⟨h1, _, _, h4, h5⟩ => by omega)
  · exact (gives_logErr_putQ (exec_queueEnable_refused hfn rfl rfl h)).imp fun t ⟨hx, _, hf⟩ => ⟨hx, hf⟩
  · refine (gives_putQ (exec_queueDisable_running hfn rfl rfl h)).imp fun t ⟨hx, hf⟩ => ?_
    rw [hx, if_neg (Bool.not_eq_true _ ▸ hb)]
    exact ⟨rfl, rfl, rfl, rfl, hf⟩
  · have he := exec_queueDisable_running hfn rfl rfl h
    rw [if_pos hb] at he
    exact gives_putQ he
  · refine (gives_putQ (exec_queueDisable_error hfn rfl rfl h)).imp fun t ⟨hx, hf⟩ => ?_
    rw [hx]
    exact ⟨rfl, hf⟩
  · have he := exec_queueConfigWrite_disabled hfn rfl rfl (r := .qPasid) (w := w) h
    rw [Queue.config_qPasid] at he
    exact gives_putQ he
  · exact gives_putQ (exec_queueConfigWrite_disabled hfn rfl rfl h)
  · exact gives_putQ (exec_queueConfigWrite_disabled hfn rfl rfl h)
  · refine (gives_putQ (exec_queueConfigWrite_disabled hfn rfl rfl h)).imp fun t ⟨hx, hf⟩ => ?_
    obtain ⟨hsq, hcq, hprio, hmsix, hst⟩ := Queue.config_qCfg x w.toNat
    rw [hx]
    exact ⟨hsq, hcq, hprio, hmsix, hst.trans h, hf⟩
  · refine ⟨_, exec_queueConfigWrite_refused hfn rfl rfl h, ?_⟩
    rw [hoff, qregOff]

/-- Settles O15: a tally that is written reads back modulo 2 ^ 32, and every other as before. -/
theorem tallyWrites : Obligations.TallyWrites := by
  intro s fn n v a b hfn
  have hother : ∀ w : Nat, SameTallies [1024 * fn.val + n.toNat] s (tallyPut s fn.val n.toNat w) := fun w _ hj =>
    (mapGet_mapPut ..).trans (if_neg (List.ne_of_not_mem_cons hj).symm)
  have hparts : ∀ w : Nat, OnlyParts [.work] s (tallyPut s fn.val n.toNat w) := fun w => (tallyPut_kept (Kept.refl _ s) rfl).1
  refine ⟨⟨tallyInc s fn.val n.toNat v.toNat, ?_, ?_, hparts _, rfl, hother _⟩, ⟨tallyPut s fn.val n.toNat v.toNat, ?_, ?_, hparts _, rfl, hother _⟩, ?_⟩
  · rw [exec_tallyAdd, execTallyAdd, if_pos hfn]
  · rw [tallyInc, tallyGet_tallyPut, if_pos rfl]
  · rw [exec_tallySet, execTallySet, if_pos hfn]
  · rw [tallyGet_tallyPut, if_pos rfl, Nat.mod_eq_of_lt v.isLt]
  · rw [satisfied, BitVec.toNat_sub, Nat.mod_eq_of_lt b.isLt, Nat.add_sub_assoc b.isLt.le, Nat.add_comm]

end
end

section
/-! SUPPORT. Commands that hold shadow frames where no premise excludes it: a waiting DRESSER command that fails its checks, and a command of
an outgoing context that is marked as running on another bench. Their completion and their kill release the frames (R82). -/

namespace Sys2Proof.Machine

theorem exec_graceEnd (l : BitVec 5) (s : State) : exec (.graceEnd l) s = execGraceEnd l s := rfl

/-- A MAP of queue 0 of PF0 with a reserved body bit set, waiting in its stream and marked as holding the frame of one page. -/
def heldMap : Cmd :=
  { Cmd.fresh (.queue 0 0) 0 (1 + 2 * 2 ^ 4 + 2 ^ 32 + 2 ^ (512 + 118)) 128 with held := true, wpages := [0] }

/-- The reset state with that command in a step of its queue, its context resident on bench 0, which is ACTIVE in the tenant role. -/
def heldMapState : State :=
  wr (wr { State.reset with
    yards := { State.reset.yards with ctxs := [(0, { Ctx.fresh with res := .resident 0 })] }
    work := { State.reset.work with steps := [(0, default)], cmds := [(7, heldMap)] } } Reg.benchStateRole 0 1) Reg.benchStatePstate 0 0

/-- What MAP leaves of that state. -/
def afterHeldMap : State := dresserCmd heldMapState 7 1 (fun byte x => some (runMap byte x))

theorem streamReady_heldMap : streamReady heldMapState heldMap = true := by decide +kernel

theorem benchFor_heldMap : benchFor heldMapState heldMap = some 0 := by decide +kernel

/-- The check that fails is that of the reserved bits. -/
theorem dresserPlan_heldMap : dresserPlan heldMapState { heldMap with bench := 0 } = (heldMapState, .error (.badFormat, 0)) := by
  rw [dresserPlan, if_pos (by decide +kernel)]

/-- Its completion with BAD_FORMAT sends the frame of its page to zeroing on bench 0. -/
theorem zeroing_afterHeldMap : (getBench afterHeldMap 0).zeroing = 1 := by decide +kernel

/-- A dispatched MAP of the context, holding the frame of one page, with bench 1 for its bench. -/
def strayMap : Cmd := { heldMap with st := .dispatched, bench := 1 }

/-- The switch of bench 0 in the grace of its outgoing context 0. -/
def graceSwitch : Switch := { outgoing := some 0, incoming := none, phase := .grace, startNs := 0, graceNs := 0, starve := false }

/-- The reset state at a time past every grace, with that switch and that command. -/
def strayState : State :=
  { State.reset with
    clock := { State.reset.clock with ns := 10 ^ 12 }
    yards := { State.reset.yards with benches := [(0, { BenchSt.reset with sw := some graceSwitch })] }
    work := { State.reset.work with cmds := [(7, strayMap)] } }

theorem benchCount_strayState : benchCount strayState ≤ 32 := by decide +kernel

theorem fnsOk_strayState : FnsOk strayState := by
  intro e he
  obtain rfl := List.mem_singleton.1 he
  decide

/-- The frame that the end of the grace takes from the command goes to zeroing on bench 1. -/
theorem zeroing_strayState : ∀ t, execGraceEnd 0 strayState = .next t → (getBench t 1).zeroing = 1 := by
  have h : (match execGraceEnd 0 strayState with | .next t => (getBench t 1).zeroing == 1 | _ => false) = true := by decide +kernel
  intro t ht
  rw [ht] at h
  simpa using h

end Sys2Proof.Machine

section

open Sys2Proof Sys2Proof.Machine

/-- Refutes O19: a MAP that fails its checks while it is marked as holding a shadow frame releases the frame (R82), so its bench changes,
where the statement says that its completion changes commands and steps only. The statement has no premise that the command holds no frame. -/
theorem not_benchCommandsIssueOnce : ¬ Obligations.BenchCommandsIssueOnce := by
  intro h
  obtain ⟨-, -, hbad, -⟩ := h heldMapState 7 0 heldMap default .badFormat 0 0 default rfl (by decide +kernel) rfl
  obtain ⟨t, ht, -, -, -, -, -, hparts⟩ := hbad streamReady_heldMap benchFor_heldMap rfl rfl dresserPlan_heldMap
  obtain rfl : afterHeldMap = t := Host.Outcome.next.inj ((exec_map ..).symm.trans ht)
  have hyards : afterHeldMap.yards = heldMapState.yards := hparts .yards (by decide)
  have hzeroing := zeroing_afterHeldMap
  rw [getBench, hyards] at hzeroing
  exact absurd hzeroing (by decide)

/-- Refutes O33: the end of a grace kills the outgoing context's commands, and a killed command's frames go to zeroing on the command's own
bench (R82). A command of the context that is marked with another bench than the one that switches so changes that other bench. The statement
has no premise that the context's commands name the bench of its switch. -/
theorem not_contextSwitches : ¬ Obligations.ContextSwitches := by
  intro h
  obtain ⟨hgrace, -⟩ := h strayState 0 0 0 graceSwitch 0 7 0 strayMap [] benchCount_strayState fnsOk_strayState
  obtain ⟨t, ht, -, hsame, -⟩ := hgrace rfl rfl rfl (.inr (by decide +kernel))
  have hzeroing := zeroing_strayState t ((exec_graceEnd ..).symm.trans ht)
  rw [hsame 1 (by decide)] at hzeroing
  exact absurd hzeroing (by decide)

end

end

section
/-! SUPPORT. Steps of a queue whose ring, image and record area lie in pinned host memory (chapter 05, R116-R126, R141-R146): what its start,
the reading of a command and its completion leave. -/

namespace Sys2Proof.Machine

theorem exec_stepStart (fn : Fin 513) (q : BitVec 6) (s : State) : exec (.stepStart fn q) s = execStepStart fn q s := rfl

theorem exec_commandRead (fn : Fin 513) (q : BitVec 6) (s : State) : exec (.commandRead fn q) s = execCommandRead fn q s := rfl

theorem exec_stepCompletion (fn : Fin 513) (q : BitVec 6) (s : State) : exec (.stepCompletion fn q) s = execStepCompletion fn q s := rfl

theorem onlyParts_withWork (s : State) (w : Work) : OnlyParts [.work] s { s with work := w } := by
  intro p hp
  cases p with
  | work => exact absurd List.mem_cons_self hp
  | _ => rfl

/-! ### Pinned host memory -/

theorem spaceRead_host {s : State} {f pasid a n : Nat} (h : hostOk s pasid a n = true) :
    spaceRead s f true pasid a n = (s, .ok (hostBytes s pasid a n)) := by
  rw [spaceRead, if_pos rfl, if_pos h]

theorem spaceOk_host {s : State} {f pasid a n : Nat} (h : hostOk s pasid a n = true) : spaceOk s f true pasid a n = (s, true) := by
  rw [spaceOk, if_pos rfl, h]

/-- The state after bytes are stored in host memory. -/
def withBytes (s : State) (pasid a : Nat) (bs : List Byte) : State := { s with host := hostPut s.host pasid a bs }

/-- A write of PF0 keeps no dirty page log. -/
theorem spaceWrite_host {s : State} {pasid a : Nat} {bs : List Byte} (h : hostOk s pasid a bs.length = true) :
    spaceWrite s 0 true pasid a bs = (withBytes s pasid a bs, none) := by
  rw [spaceWrite, if_pos rfl, if_pos h, hostStore, if_neg (by simp), withBytes]

@[simp] theorem hostPut_pins (h : HostMem) (pasid a : Nat) (bs : List Byte) : (hostPut h pasid a bs).pins = h.pins := by
  induction bs generalizing h a with
  | nil => rfl
  | cons b bs ih => exact ih ..

theorem hostKey_ne {pasid a i : Nat} (h0 : 0 < i) (h : i < 2 ^ 48) : hostKey pasid a ≠ hostKey pasid (a + i) := by
  unfold hostKey
  omega

/-- What lies before a store stays. -/
theorem mapGet_hostPut_before {h : HostMem} {pasid a i : Nat} {bs : List Byte} (h0 : 0 < i) (hlen : i + bs.length ≤ 2 ^ 48) :
    mapGet (hostPut h pasid (a + i) bs).bytes (hostKey pasid a) 0 = mapGet h.bytes (hostKey pasid a) 0 := by
  induction bs generalizing h i with
  | nil => rfl
  | cons b bs ih =>
    rw [List.length_cons] at hlen
    rw [hostPut, Nat.add_assoc, ih (Nat.succ_pos i) (by omega), mapGet_mapPut, if_neg (hostKey_ne h0 (by omega)).symm]

/-- Stored bytes are read back. -/
theorem mapGet_hostPut {h : HostMem} {pasid a i : Nat} {bs : List Byte} (hlen : bs.length ≤ 2 ^ 48) (hi : i < bs.length) :
    mapGet (hostPut h pasid a bs).bytes (hostKey pasid (a + i)) 0 = bs[i] := by
  induction bs generalizing h a i with
  | nil => exact absurd hi (Nat.not_lt_zero i)
  | cons b bs ih =>
    rw [List.length_cons] at hlen hi
    cases i with
    | zero => exact (mapGet_hostPut_before Nat.one_pos (by omega)).trans ((mapGet_mapPut ..).trans (if_pos rfl))
    | succ i =>
      have ha : a + (i + 1) = a + 1 + i := by omega
      rw [hostPut, ha]
      exact ih (by omega) (by omega)

/-- Bytes stored in a host range are what is read back from it. -/
theorem hostBytes_hostPut {t : State} {h : HostMem} {pasid a n : Nat} {bs : List Byte} (hn : bs.length = n)
    (ht : t.host = hostPut h pasid a bs) (hlen : n ≤ 2 ^ 48 := by decide) : hostBytes t pasid a n = bs := by
  subst hn
  refine List.ext_getElem (by simp [hostBytes]) fun i hi hi' => ?_
  simp only [hostBytes, List.getElem_map, List.getElem_range, ht]
  exact mapGet_hostPut hlen hi'

/-! ### The start of a step -/

/-- The step that an entry and its image header give (Tables 05.3 and 05.4). -/
def admitted (s : State) (x : Queue) (e h : Nat) : StepSt :=
  { stepId := bitsOf e 64 64, imageHost := bitOf e 4, imageAddr := bitsOf e 128 48, recordHost := bitOf e 5, recordAddr := bitsOf e 192 48,
    notify := bitOf e 6, assayCheck := bitOf e 7, expected := bitsOf e 256 64, sqIndex := x.sqHead, entry := e,
    vbCount := bitsOf h 8 6, cmdCount := bitsOf h 32 16, imageLen := bitsOf h 64 32, nextPos := 64, nextIdx := 0,
    failing := false, cut := false, admitNs := now s, lastNs := now s }

section
variable {s : State} {f : Nat} {x : Queue} {e h : Nat}
  (he : leNat (hostBytes s x.pasid (x.sqBase * 64 + 64 * x.sqHead) 64) = e) (hh : leNat (hostBytes s x.pasid (bitsOf e 128 48) 64) = h)
  (hring : x.sqHost = true) (himg : bitOf e 4 = true) (hrec : bitOf e 5 = true)
  (hring' : hostOk s x.pasid (x.sqBase * 64 + 64 * x.sqHead) 64 = true) (himg' : hostOk s x.pasid (bitsOf e 128 48) 64 = true)
  (hrec' : hostOk s x.pasid (bitsOf e 192 48) (32 * bitsOf h 32 16) = true) (hentry : entryCheck e = none) (hheader : headerCheck s h = none)
include he hh hring himg hrec hring' himg' hrec' hentry hheader

theorem openStep_host : openStep s f x = (s, .ok (admitted s x e h)) := by
  rw [openStep, hring, spaceRead_host hring']
  simp only [he, hentry, himg, spaceRead_host himg', hh, hheader, hrec, spaceOk_host hrec']
  rw [admitted, himg, hrec]

end

/-- The queue block while its next step runs. -/
def Queue.started (x : Queue) : Queue := { x with sqHead := (x.sqHead + 1) % x.sqLen, busy := true, bells := popBell x.bells }

@[simp] theorem getQ_showFn (s : State) (f j : Nat) : getQ (showFn s f) j = getQ s j := rfl

@[simp] theorem getStep_showFn (s : State) (f j : Nat) : getStep (showFn s f) j = getStep s j := rfl

@[simp] theorem getStep_putStep_same (s : State) (k : Nat) (x : StepSt) : getStep (putStep s k x) k = some x :=
  (getStep_putStep ..).trans (if_pos rfl)

/-- What stands where a queue has started a step. -/
theorem getQ_started (s : State) (k f j : Nat) (x : Queue) (st : StepSt) :
    getQ (showFn (putStep (putQ s k x) k st) f) j = if k = j then x else getQ s j :=
  getQ_putQ ..

theorem state_of_stepReady {s : State} {f : Nat} {x : Queue} (h : stepReady s f x = true) : x.state = .running := by
  simp only [stepReady, Bool.and_eq_true, beq_iff_eq] at h
  obtain ⟨⟨⟨⟨_, hrun⟩, _⟩, _⟩, _⟩ := h
  exact hrun

/-- A step that is admitted stands in its queue. -/
theorem execStepStart_admitted {s : State} {fn : Fin 513} {q : BitVec 6} {k : Nat} {x : Queue} {st : StepSt}
    (hk : 64 * fn.val + q.toNat = k) (hx : getQ s k = x) (hready : stepReady s fn.val x = true)
    (hopen : openStep (putQ s k x.started) fn.val x = (putQ s k x.started, .ok st)) :
    execStepStart fn q s = .next (showFn (putStep (putQ s k x.started) k st) fn.val) := by
  rw [Queue.started] at hopen
  simp only [execStepStart, qKey, hk, hx, hready, hopen]
  rfl

/-! ### The reading of a command -/

theorem addCmd_good (s : State) (c : Cmd) :
    addCmd s c none = putCmd { s with work := { s.work with nextCid := s.work.nextCid + 1 } } s.work.nextCid c := rfl

theorem readNext_host {s : State} {f q k len raw : Nat} {st : StepSt} {x : Queue} (hk : qKey f q = k) (hx : getQ s k = x)
    (hhost : st.imageHost = true)
    (hlen : 64 + 64 * bitsOf (leNat (hostBytes s x.pasid (st.imageAddr + st.nextPos) 64)) 32 4 = len)
    (hraw : leNat (hostBytes s x.pasid (st.imageAddr + st.nextPos) len) = raw) (hfits : st.nextPos + len ≤ st.imageLen)
    (hhead : hostOk s x.pasid (st.imageAddr + st.nextPos) 64 = true) (hbody : hostOk s x.pasid (st.imageAddr + st.nextPos) len = true)
    (hgood : headerBad (Cmd.fresh (.queue f q) st.nextIdx raw len) st.vbCount = none) :
    readNext s f q st = addCmd (putStep s k { st with nextIdx := st.nextIdx + 1, nextPos := st.nextPos + len })
      (Cmd.fresh (.queue f q) st.nextIdx raw len) none := by
  have hnot : ¬ st.imageLen < st.nextPos + len := Nat.not_lt.2 hfits
  simp only [readNext, hk, hx, hhost, spaceRead_host hhead, hlen, if_neg hnot, spaceRead_host hbody, hraw, hgood]
  rw [if_neg (by omega)]
  rfl

theorem execCommandRead_read {s t : State} {fn : Fin 513} {q : BitVec 6} {st : StepSt} (hst : getStep s (qKey fn.val q.toNat) = some st)
    (hruns : fnRuns s fn.val = true) (hgood : st.failing = false) (hcut : st.cut = false) (hidx : st.nextIdx < st.cmdCount)
    (hread : readNext s fn.val q.toNat st = t) : execCommandRead fn q s = .next t := by
  rw [execCommandRead, hst]
  simp only
  rw [if_neg (by simp [hruns, hgood, hcut, hidx]), hread]

/-! ### The completion of a step -/

/-- While every command of a failing step is final, no member of an open chain is left to give up. -/
theorem settleChains_of_stepDone {s : State} {x : StepSt} {es : List (Nat × Cmd)} (h : stepDone x es = true) : settleChains s x es = s := by
  have hfold : ∀ l : List (Nat × Cmd), (∀ e ∈ l, cmdFinal x e.2 = true) → l.foldl (fun s e =>
      if e.2.member && e.2.st == .issued && !closerLeft s (cmdCtx e.2) (e.2.b 106 1) then
        endMembers s (cmdCtx e.2) (e.2.b 106 1) [e.1] .notIssued else s) s = s := by
    intro l hl
    induction l with
    | nil => rfl
    | cons e l ih =>
      have hne : (e.2.st == .issued) = false := by
        have he := hl e List.mem_cons_self
        cases hst : e.2.st <;> simp_all [cmdFinal]
      rw [List.foldl_cons, if_neg (by simp [hne])]
      exact ih fun e he => hl e (List.mem_cons_of_mem _ he)
  unfold stepDone at h
  rw [settleChains, hfold es fun e he => List.all_eq_true.1 (Bool.and_eq_true _ _ ▸ h).2 e he]
  exact ite_self s

theorem length_leBytes (n v : Nat) : (leBytes n v).length = n := by
  induction n generalizing v with
  | zero => rfl
  | succ n ih => simp [leBytes, ih]

theorem length_completionBytes (phase : Bool) (st : Status) (a b c d e : Nat) : (completionBytes phase st a b c d e).length = 32 := by
  simp [completionBytes, length_leBytes]

theorem length_record (c : Cmd) : c.record.length = 32 := by
  unfold Cmd.record
  split <;> simp [recordBytes, length_leBytes]

theorem length_records (cs : List Cmd) : (cs.flatMap Cmd.record).length = 32 * cs.length := by
  induction cs with
  | nil => rfl
  | cons c cs ih => rw [List.flatMap_cons, List.length_append, length_record, ih, List.length_cons]; omega

/-- The queue block after a completion entry with status `st` (R116, R143). -/
def Queue.completed (x : Queue) (st : Status) : Queue :=
  { x with cqTail := (x.cqTail + 1) % x.cqLen, phase := if (x.cqTail + 1) % x.cqLen = 0 then !x.phase else x.phase,
           steps := (x.steps + 1) % 2 ^ 32, lastStatus := st, busy := false,
           state := if stepFails st && x.stopOnError then .error else .running }

/-- No vector of PF0 is masked by a VF's table. -/
theorem raiseMsix_pf0 (s : State) (v : Nat) : raiseMsix s 0 v = emit s (.msix 0 v) := if_neg (by simp)

theorem completeStep_host {s : State} {k : Nat} {x : Queue} {st : Status} {first sqIndex stepId assay endNs : Nat} {notify : Bool}
    {bs : List Byte} (hbs : completionBytes x.phase st first sqIndex stepId assay endNs = bs)
    (hk : qKey 0 k = k) (hx : getQ s k = x) (hhost : x.cqHost = true) (hok : hostOk s x.pasid (x.cqBase * 64 + 32 * x.cqTail) 32 = true)
    (hrun : x.state = .running) :
    completeStep s 0 k st first sqIndex stepId assay endNs notify =
      let t := putQ (withBytes s x.pasid (x.cqBase * 64 + 32 * x.cqTail) bs) k (x.completed st)
      if notify = true ∨ stepFails st = true then emit t (.msix 0 x.msix) else t := by
  have hok' : hostOk s x.pasid (x.cqBase * 64 + 32 * x.cqTail) bs.length = true := by rwa [← hbs, length_completionBytes]
  simp only [completeStep, hk, hx, hhost, hbs, spaceWrite_host hok', raiseMsix_pf0]
  have hstate : (if stepFails st && x.stopOnError then QState.error else .running) =
      if stepFails st = true ∧ x.stopOnError = true then .error else .running := by simp
  rw [Queue.completed, hstate]
  simp only [hrun, hhost, reduceCtorEq, if_false, true_and]
  by_cases hstop : stepFails st = true ∧ x.stopOnError = true
  · simp only [if_pos hstop]
  · simp only [if_neg hstop]

section
variable (c : Prop) [Decidable c] (t : State) (o : Out)

theorem work_emitIf : (if c then emit t o else t).work = t.work := by split <;> rfl

theorem getQ_emitIf (j : Nat) : getQ (if c then emit t o else t) j = getQ t j := by split <;> rfl

theorem getStep_emitIf (j : Nat) : getStep (if c then emit t o else t) j = getStep t j := by split <;> rfl

theorem hostBytes_emitIf (p a n : Nat) : hostBytes (if c then emit t o else t) p a n = hostBytes t p a n := by split <;> rfl

theorem mem_emitIf : (if c then emit t o else t).mem = t.mem := by split <;> rfl

theorem out_emitIf : (if c then emit t o else t).out = if c then o :: t.out else t.out := by split <;> rfl

end

/-- The state after the completion of a step of queue `k` of PF0: its records are written, it is gone, its completion entry is written, and
its queue goes on. -/
def completionEnd (s : State) (k : Nat) (x : Queue) (recordAddr : Nat) (recs bs : List Byte) (st : Status) : State :=
  putQ (withBytes (showFn (dropStepCmds (withBytes s x.pasid recordAddr recs) 0 k) 0) x.pasid (x.cqBase * 64 + 32 * x.cqTail) bs) k
    (x.completed st)

/-- A finished step of PF0 whose records and completion entry lie in pinned host memory. -/
theorem execStepCompletion_host {s : State} {q : BitVec 6} {k : Nat} {x : Queue} {st : StepSt} {es : List (Nat × Cmd)} {assay : Nat}
    {v : Status × Nat} {bs : List Byte} (hk : q.toNat = k) (hx : getQ s k = x) (hes : stepCmds s 0 k = es)
    (hassay : stepAssay (es.map (·.2)) = assay) (hv : stepStatus st (es.map (·.2)) assay = v)
    (hbs : completionBytes x.phase v.1 v.2 st.sqIndex st.stepId assay st.lastNs = bs)
    (hst : getStep s k = some st) (hdone : stepDone st es = true) (hread : st.nextIdx = st.cmdCount) (hrec : st.recordHost = true)
    (hcq : x.cqHost = true) (hrecs : hostOk s x.pasid st.recordAddr (32 * es.length) = true)
    (hring : hostOk s x.pasid (x.cqBase * 64 + 32 * x.cqTail) 32 = true) (hrun : x.state = .running) :
    execStepCompletion 0 q s = .next (
      let t := completionEnd s k x st.recordAddr (es.flatMap (·.2.record)) bs v.1
      if st.notify = true ∨ stepFails v.1 = true then emit t (.msix 0 x.msix) else t) := by
  have hkey : qKey 0 k = k := by rw [qKey]; omega
  have hlen : (es.flatMap (·.2.record)).length = 32 * es.length := by simpa [List.flatMap_map] using length_records (es.map (·.2))
  have hflat : (es.map (·.2)).flatMap Cmd.record = es.flatMap (·.2.record) := List.flatMap_map ..
  have hwrite := spaceWrite_host (hlen ▸ hrecs)
  have hstep : getStep (withBytes s x.pasid st.recordAddr (es.flatMap (·.2.record))) k = some st := hst
  simp only [execStepCompletion, Fin.val_zero, hk, hkey, hst, hes, settleChains_of_stepDone hdone, hdone, hx, hread, Nat.sub_self, unreadTags,
    List.flatMap_nil, List.append_nil, hassay, hv, hflat, hrec, hwrite, hstep]
  exact congrArg Host.Outcome.next (completeStep_host (s := showFn (dropStepCmds (withBytes s x.pasid st.recordAddr _) 0 k) 0) hbs hkey hx hcq
    (by simpa [hostOk, withBytes, showFn, dropStepCmds] using hring) hrun)

/-- A dropped step takes its commands with it. -/
theorem owner_of_mem_dropStepCmds {s : State} {f q : Nat} {e : Nat × Cmd} (he : e ∈ (dropStepCmds s f q).work.cmds) :
    e.2.owner ≠ .queue f q := by
  simpa using (List.mem_filter.1 he).2

theorem getStep_dropStepCmds (s : State) (f q j : Nat) :
    getStep (dropStepCmds s f q) j = if qKey f q = j then none else getStep s j :=
  mapFind_mapErase ..

theorem getQ_completionEnd (s : State) (k : Nat) (x : Queue) (a : Nat) (recs bs : List Byte) (st : Status) (j : Nat) :
    getQ (completionEnd s k x a recs bs st) j = if k = j then x.completed st else getQ s j :=
  getQ_putQ ..

theorem getStep_completionEnd (s : State) (k : Nat) (x : Queue) (a : Nat) (recs bs : List Byte) (st : Status) (j : Nat) :
    getStep (completionEnd s k x a recs bs st) j = if k = j then none else getStep s j := by
  refine (getStep_dropStepCmds (withBytes s x.pasid a recs) 0 k j).trans ?_
  rw [qKey, Nat.mul_zero, Nat.zero_add]
  rfl

end Sys2Proof.Machine

section

open Sys2Proof Sys2Proof.Machine

/-- Settles O16: every read of the start and of the command is a read of pinned host memory that succeeds, and every check passes. -/
theorem stepsStartAndReadCommands : Obligations.StepsStartAndReadCommands := by
  intro s fn q st f k x e h
  refine ⟨fun hready hring himg hrec hring' himg' hrec' hentry hheader => ?_, fun hst hruns hgood hcut hidx hhost => ?_⟩
  · have hopen : openStep (putQ s k x.started) f x = (putQ s k x.started, .ok (admitted s x e h)) :=
      openStep_host (s := putQ s k x.started) rfl rfl hring himg hrec hring' himg' hrec' hentry hheader
    have hrun : x.state = .running := state_of_stepReady hready
    refine ⟨_, (exec_stepStart ..).trans (execStepStart_admitted rfl rfl hready hopen), ?_⟩
    have hq : getQ (showFn (putStep (putQ s k x.started) k (admitted s x e h)) f) k = x.started := (getQ_started ..).trans (if_pos rfl)
    refine ⟨by rw [hq]; rfl, by rw [hq]; rfl, by rw [hq]; exact hrun, ⟨_, getStep_putStep_same .., ?_⟩, fun j hj => ?_, fun j hj => ?_, rfl, rfl, ?_⟩
    · exact ⟨rfl, rfl, rfl, rfl, rfl, rfl, rfl, rfl, rfl, rfl, rfl, rfl⟩
    · exact (getQ_started ..).trans (if_neg (List.ne_of_not_mem_cons hj).symm)
    · exact (getStep_putStep ..).trans (if_neg (List.ne_of_not_mem_cons hj).symm)
    · exact (showFn_kept (putStep_kept (putQ_kept (Kept.refl _ s) rfl) rfl) rfl).1
  · intro hd len raw hfits hhead hbody hbad
    have hread := readNext_host (s := s) (f := f) (q := q.toNat) rfl rfl hhost rfl rfl hfits hhead hbody hbad
    refine ⟨_, (exec_commandRead ..).trans (execCommandRead_read hst hruns hgood hcut hidx hread), ?_⟩
    refine ⟨(getCmd_putCmd ..).trans (if_pos rfl), getStep_putStep_same .., rfl, fun j hj => ?_, fun j hj => ?_, rfl, ?_⟩
    · exact (getCmd_putCmd ..).trans (if_neg (List.ne_of_not_mem_cons hj).symm)
    · exact (getStep_putStep ..).trans (if_neg (List.ne_of_not_mem_cons hj).symm)
    · exact onlyParts_withWork s _

/-- Settles O17: the completion is a write of the records and of the entry, and the queue block after it. -/
theorem stepCompletionWritesEntry : Obligations.StepCompletionWritesEntry := by
  intro s q st k x es assay v hst hdone hread hrec hcq hrecs hring hrun
  have hexec := execStepCompletion_host rfl rfl rfl rfl rfl rfl hst hdone hread hrec hcq hrecs hring hrun
  refine ⟨_, (exec_stepCompletion ..).trans hexec, ?_⟩
  generalize hbs : completionBytes x.phase v.1 v.2 st.sqIndex st.stepId assay st.lastNs = bs
  have hlen : bs.length = 32 := hbs ▸ length_completionBytes ..
  have hhost : hostBytes (completionEnd s k x st.recordAddr (es.flatMap (·.2.record)) bs v.1) x.pasid (x.cqBase * 64 + 32 * x.cqTail) 32 = bs :=
    hostBytes_hostPut hlen rfl
  have hk : q.toNat = k := rfl
  simp only [getQ_emitIf, getStep_emitIf, hostBytes_emitIf, work_emitIf, mem_emitIf, out_emitIf, SameQueues, SameSteps, getQ_completionEnd,
    getStep_completionEnd, eq_true hk, if_true]
  refine ⟨hhost, rfl, rfl, rfl, rfl, rfl, rfl, trivial, fun e => owner_of_mem_dropStepCmds, rfl, rfl, fun j hj => ?_, fun j hj => ?_⟩
  · exact if_neg (List.ne_of_not_mem_cons hj).symm
  · exact if_neg (List.ne_of_not_mem_cons hj).symm

end

end

section
/-! SUPPORT. FABRIC commands that stage messages at their execution (chapter 07, R198-R224): the run of the six ops that send at commit. -/

namespace Sys2Proof.Machine

theorem exec_put (cid : Nat) (s : State) : exec (.put cid) s = .next (fabricCmd s cid 2) := rfl

theorem exec_atomic (cid : Nat) (s : State) : exec (.atomic cid) s = .next (fabricCmd s cid 3) := rfl

theorem exec_fabricReduce (cid : Nat) (s : State) : exec (.fabricReduce cid) s = .next (fabricCmd s cid 4) := rfl

theorem exec_mcastPut (cid : Nat) (s : State) : exec (.mcastPut cid) s = .next (fabricCmd s cid 5) := rfl

theorem exec_signal (cid : Nat) (s : State) : exec (.signal cid) s = .next (fabricCmd s cid 6) := rfl

theorem exec_msgSend (cid : Nat) (s : State) : exec (.msgSend cid) s = .next (fabricCmd s cid 8) := rfl

/-- What has been paid for is not paid again (R168). -/
theorem payDram_of_paid {s : State} {c : Cmd} {cost : Nat} (h : cost ≤ c.tokens + c.lent) : payDram s c cost = (s, c, true) := by
  have hneed : cost - c.tokens - c.lent = 0 := by omega
  simp [payDram, hneed]

/-- A command whose payload is not in device DRAM takes it from its body or from its Yard. -/
theorem fabPayload_eq {s : State} {c : Cmd} {x : FabCmd} (h : x.inline_ = true ∨ x.dram = false) :
    fabPayload s c x = if x.inline_ then leBytes x.len (c.b 512 (8 * x.len))
      else (List.range x.len).map (fun i => (getCtx s (cmdCtx c)).byte (x.laddr + i)) := by
  unfold fabPayload
  rcases h with h | h <;> simp [h]

/-- A command as it stages the messages of its destinations. -/
def Cmd.staging (c : Cmd) (buf : List Msg) (out : Bool) (payload : List Byte) : Cmd :=
  { c with buf := buf, hasOut := out, assay := if out then crc64 payload else 0 }

section
variable {s : State} {cid : Nat} {c : Cmd} {dests : List (Nat × Nat)}
  (hsrc : c.srcRuns = []) (hpaid : runCost c.dstRuns true ≤ c.tokens + c.lent)
  (hfree : rangeBlocked s cid s.work.nextSeq (runLines c.dstRuns true) = false) (hdests : (fabOf c).dests s c.owner.fn = some dests)
include hsrc hpaid hfree hdests

/-- The run of an op that is neither GET nor FENCE reads nothing here, and stages its messages. -/
theorem fabricRun_stages (hget : (fabOf c).op ≠ 1) (hfence : (fabOf c).op ≠ 7) :
    fabricRun s cid c = .ok s (c.staging (dests.flatMap (stagedFor s c (fabOf c) (fabPayload s c (fabOf c))))
      (decide ((fabOf c).op = 2 ∨ (fabOf c).op = 5 ∨ (fabOf c).op = 8)) (fabPayload s c (fabOf c))) := by
  have hcost : runCost c.srcRuns false + runCost c.dstRuns true ≤ c.tokens + c.lent := by rwa [hsrc, runCost, List.map_nil, List.sum_nil, Nat.zero_add]
  have hblock : rangeBlocked s cid s.work.nextSeq (runLines c.srcRuns false ++ runLines c.dstRuns true) = false := by
    rwa [hsrc, runLines, List.map_nil, List.nil_append]
  simp only [fabricRun, hdests, Option.getD_some]
  split
  · exact absurd ‹_› hfence
  · exact absurd ‹_› hget
  · exact absurd ‹_› hget
  · have hkills : transientIn s c.srcRuns = false := by rw [hsrc]; rfl
    have hsense (tag : Nat) : senseRuns s 0 tag c.srcRuns = (s, none) := by rw [hsrc]; rfl
    rw [hblock, if_neg Bool.false_ne_true, payDram_of_paid hcost]
    simp only [hkills, hsense, Bool.false_eq_true, if_false, Cmd.staging, decide_eq_true_eq]

/-- Such a command, where it executes, stages what its op stages. -/
theorem stagedAs_fabricCmd (hexec : Executes s cid c = true) (hop : c.opcode = 5) {op : Nat} (hx : (fabOf c).op = op) (hget : op ≠ 1)
    (hfence : op ≠ 7) {pay : List Byte} (hpay : fabPayload s c (fabOf c) = pay) {out : Bool} (hout : decide (op = 2 ∨ op = 5 ∨ op = 8) = out)
    {msgs : Nat × Nat → List Msg} (hmsgs : ∀ d, stagedFor s c (fabOf c) pay d = msgs d) :
    StagedAs s (fabricCmd s cid op) cid
      { c with st := .issued, buf := dests.flatMap msgs, hasOut := out, assay := if out then crc64 pay else 0 } [] [] := by
  have hkind : (c.opcode == 5 && (c.b 0 4 == op || c.b 0 4 == 0 || 8 < c.b 0 4)) = true := by
    have hb : c.b 0 4 = op := hx
    simp [hop, hb]
  rw [fabricCmd, issueBench_of_executes hexec hkind, fabricRun_stages hsrc hpaid hfree hdests (hx ▸ hget) (hx ▸ hfence), hpay, hx, hout, ranEnd,
    funext hmsgs]
  exact stagedAs_showBench_putCmd rfl (OnlyRegs.refl _ _) (Kept.refl _ s)

end

end Sys2Proof.Machine

section

open Sys2Proof Sys2Proof.Machine

/-- Settles O23: one run serves the six ops, and each op's messages are a case of what is staged for one destination. -/
theorem fabricPayloadsAreStaged : Obligations.FabricPayloadsAreStaged := by
  intro s cid c dests hexec hop hsrc hpaid hfree x f pay req sig writes staged hdests hpay
  have hpayload : fabPayload s c x = pay := fabPayload_eq hpay
  have hstaged {op : Nat} (hx : x.op = op) (hget : op ≠ 1) (hfence : op ≠ 7) {out : Bool} (hout : decide (op = 2 ∨ op = 5 ∨ op = 8) = out)
      {msgs : Nat × Nat → List Msg} (hmsgs : ∀ d, stagedFor s c x pay d = msgs d) : staged out msgs (fabricCmd s cid op) :=
    stagedAs_fabricCmd hsrc hpaid hfree hdests hexec hop hx hget hfence hpayload hout hmsgs
  have hmsgs (op : Nat) (hx : x.op = op) (d : Nat × Nat) : stagedFor s c x pay d = stagedFor s c { x with op := op } pay d := by
    rw [← hx]
  refine ⟨fun h => ⟨_, exec_put .., hstaged h (by decide) (by decide) rfl fun d => (hmsgs 2 h d).trans rfl⟩,
    fun h => ⟨_, exec_mcastPut .., hstaged h (by decide) (by decide) rfl fun d => (hmsgs 5 h d).trans rfl⟩,
    fun h => ⟨_, exec_atomic .., hstaged h (by decide) (by decide) rfl fun d => (hmsgs 3 h d).trans rfl⟩,
    fun h => ⟨_, exec_fabricReduce .., hstaged h (by decide) (by decide) rfl fun d => (hmsgs 4 h d).trans rfl⟩,
    fun h => ⟨_, exec_signal .., hstaged h (by decide) (by decide) rfl fun d => (hmsgs 6 h d).trans rfl⟩,
    fun h => ⟨_, exec_msgSend .., hstaged h (by decide) (by decide) rfl fun d => (hmsgs 8 h d).trans rfl⟩⟩

end

end

section
/-! SUPPORT. A state that comes after another: the same commands wait, and every listed command acts for a function
the device can name if those before do. A law per operation; an operation's proof applies, along its branches, the laws of those it calls. -/

namespace Sys2Proof.Machine

/-- All parts but the queue and command store and the waiting commands. -/
def besides : List Part := [.regs, .live, .mem, .host, .yards, .fab, .crush, .ten, .clock, .cores, .images, .radio, .net, .tdfe, .cfg, .sec,
  .boot, .power, .health, .out, .free]

/-- A state comes after another: the same commands wait, and its listed commands act for functions the device can name if those before do. -/
def Follows (s t : State) : Prop := t.pending = s.pending ∧ (FnsOk s → FnsOk t)

/-- An answer is a next state that comes after. -/
def Goes (s : State) (a : Ans) : Prop := ∃ t, a = .next t ∧ Follows s t

section
variable {s0 s t : State}

theorem Follows.refl (s : State) : Follows s s := ⟨rfl, id⟩

theorem Follows.trans (h : Follows s0 s) (k : Follows s t) : Follows s0 t := ⟨k.1.trans h.1, k.2 ∘ h.2⟩

theorem Follows.op (h : Follows s0 s) (k : Kept besides s t) : Follows s0 t := by
  have hw : t.work = s.work := k.1 .work (by decide)
  have hp : t.pending = s.pending := k.1 .pending (by decide)
  refine h.trans ⟨hp, fun hf => ?_⟩
  rwa [FnsOk, hw]

/-- The listed commands decide. -/
theorem Follows.cmds (h : Follows s0 s) (hc : t.work.cmds = s.work.cmds) (hp : t.pending = s.pending) : Follows s0 t := by
  refine h.trans ⟨hp, fun hf => ?_⟩
  rwa [FnsOk, hc]

/-- An update that leaves the listed and the waiting commands. -/
theorem Follows.mk (h : Follows s0 s) {regs live mem host queues steps nextCid nextSeq tallies yards fab crush ten clock cores images radio net tdfe
    cfg sec boot power health out} {free : Nat} :
    Follows s0 (.mk regs live mem host (.mk queues steps s.work.cmds nextCid nextSeq tallies) yards fab crush ten clock cores images radio net tdfe
      cfg sec boot power health out free s.pending) :=
  h.cmds rfl rfl

theorem Follows.ite {c : Prop} [Decidable c] {a b : State} (ha : Follows s0 a) (hb : Follows s0 b) : Follows s0 (if c then a else b) := by
  split
  · exact ha
  · exact hb

theorem Follows.foldl {α : Type} {f : State → α → State} {l : List α} (h : Follows s0 s) (hf : ∀ s x, Follows s0 s → Follows s0 (f s x)) :
    Follows s0 (l.foldl f s) := by
  induction l generalizing s with
  | nil => exact h
  | cons x l ih => exact ih (hf s x h)

/-- A fold over a list, its members known. -/
theorem Follows.foldlMem {α : Type} {f : State → α → State} {l : List α} (h : Follows s0 s)
    (hf : ∀ s, ∀ x ∈ l, Follows s0 s → Follows s0 (f s x)) : Follows s0 (l.foldl f s) := by
  induction l generalizing s with
  | nil => exact h
  | cons x l ih => exact ih (hf s x List.mem_cons_self h) fun s y hy => hf s y (List.mem_cons_of_mem _ hy)

/-- A fold that carries a result beside the state. -/
theorem Follows.foldlFst {α β : Type} {f : State × β → α → State × β} {l : List α} {p : State × β} (h : Follows s0 p.1)
    (hf : ∀ p x, Follows s0 p.1 → Follows s0 (f p x).1) : Follows s0 (l.foldl f p).1 := by
  induction l generalizing p with
  | nil => exact h
  | cons x l ih => exact ih (hf p x h)

theorem Follows.fst {α : Type} {p : State × α} {x : α} (h : p = (t, x)) (k : Follows s0 p.1) : Follows s0 t := by rwa [h] at k

theorem Goes.next (h : Follows s t) : Goes s (.next t) := ⟨t, rfl, h⟩

theorem Goes.ite {c : Prop} [Decidable c] {a b : Ans} (ha : Goes s a) (hb : Goes s b) : Goes s (if c then a else b) := by
  split
  · exact ha
  · exact hb

end

theorem follows_abandonSwitch {s0 s} {b} (h : Follows s0 s) : Follows s0 (abandonSwitch s b) := h.op (abandonSwitch_kept (.refl _ s) rfl)

theorem follows_applyAtomic {s0 s} {m} (h : Follows s0 s) : Follows s0 (applyAtomic s m).1 := h.op (applyAtomic_kept (.refl _ s) rfl)

theorem follows_applyEvidence {s0 s} {e} (h : Follows s0 s) : Follows s0 (applyEvidence s e) := h.op (applyEvidence_kept (.refl _ s) rfl)

theorem follows_applyKind {s0 s} {kind} (h : Follows s0 s) : Follows s0 (applyKind s kind) := h.op (applyKind_kept (.refl _ s) rfl)

theorem follows_applyLsa {s0 s} {m} (h : Follows s0 s) : Follows s0 (applyLsa s m) := h.op (applyLsa_kept (.refl _ s) rfl)

theorem follows_applyReduce {s0 s} {m} (h : Follows s0 s) : Follows s0 (applyReduce s m).1 := h.op (applyReduce_kept (.refl _ s) rfl)

theorem follows_applySnap {s0 s} {p} (h : Follows s0 s) : Follows s0 (applySnap s p) := h.op (applySnap_kept (.refl _ s) rfl)

theorem follows_applyStep {s0 s} {d manager} (h : Follows s0 s) : Follows s0 (applyStep s d manager) := h.op (applyStep_kept (.refl _ s) rfl)

theorem follows_assignLots {s0 s} (h : Follows s0 s) : Follows s0 (assignLots s) := h.op (assignLots_kept (.refl _ s) rfl)

theorem follows_buildFrames {s0 s} {p w x} (h : Follows s0 s) : Follows s0 (buildFrames s p w x).1 := h.op (buildFrames_kept (.refl _ s) rfl)

theorem follows_bump {s0 s} {f i n} (h : Follows s0 s) : Follows s0 (bump s f i n) := h.op (bump_kept (.refl _ s) rfl)

theorem follows_bumpSat {s0 s} {f i n} (h : Follows s0 s) : Follows s0 (bumpSat s f i n) := h.op (bumpSat_kept (.refl _ s) rfl)

theorem follows_cableSample {s0 s} {j c} (h : Follows s0 s) : Follows s0 (cableSample s j c) := h.op (cableSample_kept (.refl _ s) rfl)

theorem follows_chargeDram {s0 s} {f bytes} (h : Follows s0 s) : Follows s0 (chargeDram s f bytes) := h.op (chargeDram_kept (.refl _ s) rfl)

theorem follows_chargeHost {s0 s} {pa bytes} (h : Follows s0 s) : Follows s0 (chargeHost s pa bytes) := h.op (chargeHost_kept (.refl _ s) rfl)

theorem follows_chirpEvent {s0 s} {c st tag aux} (h : Follows s0 s) : Follows s0 (chirpEvent s c st tag aux) :=
  h.op (chirpEvent_kept (.refl _ s) rfl)

theorem follows_chirpTxEntry {s0 s} {e} (h : Follows s0 s) : Follows s0 (chirpTxEntry s e) := h.op (chirpTxEntry_kept (.refl _ s) rfl)

theorem follows_clearCtxs {s0 s} {f} (h : Follows s0 s) : Follows s0 (clearCtxs s f) := h.op (clearCtxs_kept (.refl _ s) rfl)

theorem follows_commitDram {s0 s} {c} (h : Follows s0 s) : Follows s0 (commitDram s c).1 := h.op (commitDram_kept (.refl _ s) rfl)

theorem follows_commitGroup {s0 s} {kind index fw} (h : Follows s0 s) : Follows s0 (commitGroup s kind index fw) :=
  h.op (commitGroup_kept (.refl _ s) rfl)

theorem follows_coreComplete {s0 s} {n port st tag aux} (h : Follows s0 s) : Follows s0 (coreComplete s n port st tag aux) :=
  h.op (coreComplete_kept (.refl _ s) rfl)

theorem follows_coreEvent {s0 s} {n bit} (h : Follows s0 s) : Follows s0 (coreEvent s n bit) := h.op (coreEvent_kept (.refl _ s) rfl)

theorem follows_countSwitch {s0 s} {w} (h : Follows s0 s) : Follows s0 (countSwitch s w) := h.op (countSwitch_kept (.refl _ s) rfl)

theorem follows_crGroupRead {s0 s} {f g} (h : Follows s0 s) : Follows s0 (crGroupRead s f g).1 := h.op (crGroupRead_kept (.refl _ s) rfl)

theorem follows_crRuns {s0 s} {f a n write} (h : Follows s0 s) : Follows s0 (crRuns s f a n write).1 := h.op (crRuns_kept (.refl _ s) rfl)

theorem follows_ctlRefuse {s0 s} {f} (h : Follows s0 s) : Follows s0 (ctlRefuse s f) := h.op (ctlRefuse_kept (.refl _ s) rfl)

theorem follows_discardMsg {s0 s} {m} (h : Follows s0 s) : Follows s0 (discardMsg s m) := h.op (discardMsg_kept (.refl _ s) rfl)

theorem follows_dramStore {s0 s} {pa bs} (h : Follows s0 s) : Follows s0 (dramStore s pa bs) := h.op (dramStore_kept (.refl _ s) rfl)

theorem follows_drawn {s0 s} (h : Follows s0 s) : Follows s0 (drawn s) := h.op (drawn_kept (.refl _ s) rfl)

theorem follows_drawnIf {s0 s} {p} (h : Follows s0 s) : Follows s0 (drawnIf p s) := h.op (drawnIf_kept (.refl _ s) rfl)

theorem follows_dresserPlan {s0 s} {c} (h : Follows s0 s) : Follows s0 (dresserPlan s c).1 := h.op (dresserPlan_kept (.refl _ s) rfl)

theorem follows_dropUn {s0 s} {mid} (h : Follows s0 s) : Follows s0 (dropUn s mid) := h.op (dropUn_kept (.refl _ s) rfl)

theorem follows_emit {s0 s} {o} (h : Follows s0 s) : Follows s0 (emit s o) := h.op (emit_kept (.refl _ s) rfl)

theorem follows_emptyBenches {s0 s} {f} (h : Follows s0 s) : Follows s0 (emptyBenches s f) := h.op (emptyBenches_kept (.refl _ s) rfl)

theorem follows_endBand {s0 s} {state} (h : Follows s0 s) : Follows s0 (endBand s state) := h.op (endBand_kept (.refl _ s) rfl)

theorem follows_endMigration {s0 s} {f} (h : Follows s0 s) : Follows s0 (endMigration s f) := h.op (endMigration_kept (.refl _ s) rfl)

theorem follows_endWait {s0 s} {n} (h : Follows s0 s) : Follows s0 (endWait s n) := h.op (endWait_kept (.refl _ s) rfl)

theorem follows_engineTakes {s0 s} {e op lo hi} (h : Follows s0 s) : Follows s0 (engineTakes s e op lo hi) := h.op (engineTakes_kept (.refl _ s) rfl)

theorem follows_fabricPlan {s0 s} {c} (h : Follows s0 s) : Follows s0 (fabricPlan s c).1 := h.op (fabricPlan_kept (.refl _ s) rfl)

theorem follows_failover {s0 s} (h : Follows s0 s) : Follows s0 (failover s) := h.op (failover_kept (.refl _ s) rfl)

theorem follows_faultRecord {s0 s} {kind source tag line syms} (h : Follows s0 s) : Follows s0 (faultRecord s kind source tag line syms) :=
  h.op (faultRecord_kept (.refl _ s) rfl)

theorem follows_fhDiscard {s0 s} {lport} (h : Follows s0 s) : Follows s0 (fhDiscard s lport) := h.op (fhDiscard_kept (.refl _ s) rfl)

theorem follows_fhReceived {s0 s} {lport} (h : Follows s0 s) : Follows s0 (fhReceived s lport) := h.op (fhReceived_kept (.refl _ s) rfl)

theorem follows_fillTokens {s0 s} {c p} (h : Follows s0 s) : Follows s0 (fillTokens s c p) := h.op (fillTokens_kept (.refl _ s) rfl)

theorem follows_floodEvidence {s0 s} {node proving unit} (h : Follows s0 s) : Follows s0 (floodEvidence s node proving unit) :=
  h.op (floodEvidence_kept (.refl _ s) rfl)

theorem follows_flushMsix {s0 s} {fn} (h : Follows s0 s) : Follows s0 (flushMsix s fn) := h.op (flushMsix_kept (.refl _ s) rfl)

theorem follows_fnSet {s0 s} {i st status} (h : Follows s0 s) : Follows s0 (fnSet s i st status) := h.op (fnSet_kept (.refl _ s) rfl)

theorem follows_forwardMsg {s0 s} {m coll} (h : Follows s0 s) : Follows s0 (forwardMsg s m coll) := h.op (forwardMsg_kept (.refl _ s) rfl)

theorem follows_freshKey {s0 s} {f} (h : Follows s0 s) : Follows s0 (freshKey s f) := h.op (freshKey_kept (.refl _ s) rfl)

theorem follows_healthCause {s0 s} {cause} (h : Follows s0 s) : Follows s0 (healthCause s cause) := h.op (healthCause_kept (.refl _ s) rfl)

theorem follows_hear {s0 s} {node} (h : Follows s0 s) : Follows s0 (hear s node) := h.op (hear_kept (.refl _ s) rfl)

theorem follows_imageReady {s0 s} (h : Follows s0 s) : Follows s0 (imageReady s) := h.op (imageReady_kept (.refl _ s) rfl)

theorem follows_indicateCell {s0 s} {c m} (h : Follows s0 s) : Follows s0 (indicateCell s c m) := h.op (indicateCell_kept (.refl _ s) rfl)

theorem follows_itemDone {s0 s} {item} (h : Follows s0 s) : Follows s0 (itemDone s item) := h.op (itemDone_kept (.refl _ s) rfl)

theorem follows_l1Fail {s0 s} {idx mask st} (h : Follows s0 s) : Follows s0 (l1Fail s idx mask st) := h.op (l1Fail_kept (.refl _ s) rfl)

theorem follows_latchHigh {s0 s} {fn addr} (h : Follows s0 s) : Follows s0 (latchHigh s fn addr) := h.op (latchHigh_kept (.refl _ s) rfl)

theorem follows_launch {s0 s} {mid} (h : Follows s0 s) : Follows s0 (launch s mid) := h.op (launch_kept (.refl _ s) rfl)

theorem follows_launchReady {s0 s} (h : Follows s0 s) : Follows s0 (launchReady s) := h.op (launchReady_kept (.refl _ s) rfl)

theorem follows_loadGrade {s0 s} {g} (h : Follows s0 s) : Follows s0 (loadGrade s g) := h.op (loadGrade_kept (.refl _ s) rfl)

theorem follows_loadLots {s0 s} {lots bs} (h : Follows s0 s) : Follows s0 (loadLots s lots bs) := h.op (loadLots_kept (.refl _ s) rfl)

theorem follows_loadRecord {s0 s} (h : Follows s0 s) : Follows s0 (loadRecord s) := h.op (loadRecord_kept (.refl _ s) rfl)

theorem follows_loadRegions {s0 s} {n lots bs} (h : Follows s0 s) : Follows s0 (loadRegions n s lots bs) := h.op (loadRegions_kept (.refl _ s) rfl)

theorem follows_loadSections {s0 s} {body given} (h : Follows s0 s) : Follows s0 (loadSections s body given) :=
  h.op (loadSections_kept (.refl _ s) rfl)

theorem follows_logErr {s0 s} {f st source tag detail} (h : Follows s0 s) : Follows s0 (logErr s f st source tag detail) :=
  h.op (logErr_kept (.refl _ s) rfl)

theorem follows_markCapped {s0 s} {sfn slot x} (h : Follows s0 s) : Follows s0 (markCapped s sfn slot x) := h.op (markCapped_kept (.refl _ s) rfl)

theorem follows_measure {s0 s} {i obj} (h : Follows s0 s) : Follows s0 (measure s i obj) := h.op (measure_kept (.refl _ s) rfl)

theorem follows_meter {s0 s} {m} (h : Follows s0 s) : Follows s0 (meter s m).1 := h.op (meter_kept (.refl _ s) rfl)

theorem follows_migOpen {s0 s} {op fn st bytes} (h : Follows s0 s) : Follows s0 (migOpen s op fn st bytes) := h.op (migOpen_kept (.refl _ s) rfl)

theorem follows_migRead {s0 s} {d off n} (h : Follows s0 s) : Follows s0 (migRead s d off n).1 := h.op (migRead_kept (.refl _ s) rfl)

theorem follows_mrExtend {s0 s} {i m} (h : Follows s0 s) : Follows s0 (mrExtend s i m) := h.op (mrExtend_kept (.refl _ s) rfl)

theorem follows_muteCells {s0 s} (h : Follows s0 s) : Follows s0 (muteCells s) := h.op (muteCells_kept (.refl _ s) rfl)

theorem follows_noteFailure {s0 s} {mid u st} (h : Follows s0 s) : Follows s0 (noteFailure s mid u st) := h.op (noteFailure_kept (.refl _ s) rfl)

theorem follows_noteRadioEnd {s0 s} {c} (h : Follows s0 s) : Follows s0 (noteRadioEnd s c) := h.op (noteRadioEnd_kept (.refl _ s) rfl)

theorem follows_noteWait {s0 s} {f} (h : Follows s0 s) : Follows s0 (noteWait s f) := h.op (noteWait_kept (.refl _ s) rfl)

theorem follows_notifyMgmt {s0 s} {kind cause} (h : Follows s0 s) : Follows s0 (notifyMgmt s kind cause) := h.op (notifyMgmt_kept (.refl _ s) rfl)

theorem follows_nvmDeliver {s0 s} {bs} (h : Follows s0 s) : Follows s0 (nvmDeliver s bs) := h.op (nvmDeliver_kept (.refl _ s) rfl)

theorem follows_nvmDone {s0 s} {st} (h : Follows s0 s) : Follows s0 (nvmDone s st) := h.op (nvmDone_kept (.refl _ s) rfl)

theorem follows_onFail {s0 s} {i st} (h : Follows s0 s) : Follows s0 (onFail s i st) := h.op (onFail_kept (.refl _ s) rfl)

theorem follows_onReady {s0 s} {i aux} (h : Follows s0 s) : Follows s0 (onReady s i aux) := h.op (onReady_kept (.refl _ s) rfl)

theorem follows_openStep {s0 s} {f x} (h : Follows s0 s) : Follows s0 (openStep s f x).1 := h.op (openStep_kept (.refl _ s) rfl)

theorem follows_p5Response {s0 s} {request cell err} (h : Follows s0 s) : Follows s0 (p5Response s request cell err) :=
  h.op (p5Response_kept (.refl _ s) rfl)

theorem follows_payDram {s0 s} {c cost} (h : Follows s0 s) : Follows s0 (payDram s c cost).1 := h.op (payDram_kept (.refl _ s) rfl)

theorem follows_postFapi {s0 s} {n bs} (h : Follows s0 s) : Follows s0 (postFapi s n bs) := h.op (postFapi_kept (.refl _ s) rfl)

theorem follows_postFhTx {s0 s} {n bs} (h : Follows s0 s) : Follows s0 (postFhTx s n bs) := h.op (postFhTx_kept (.refl _ s) rfl)

theorem follows_postMbox {s0 s} {n bs} (h : Follows s0 s) : Follows s0 (postMbox s n bs) := h.op (postMbox_kept (.refl _ s) rfl)

theorem follows_postSieve {s0 s} {n bs} (h : Follows s0 s) : Follows s0 (postSieve s n bs) := h.op (postSieve_kept (.refl _ s) rfl)

theorem follows_probeCable {s0 s} {j p} (h : Follows s0 s) : Follows s0 (probeCable s j p) := h.op (probeCable_kept (.refl _ s) rfl)

theorem follows_proveFailed {s0 s} {r entry} (h : Follows s0 s) : Follows s0 (proveFailed s r entry) := h.op (proveFailed_kept (.refl _ s) rfl)

theorem follows_proveLog {s0 s} {e} (h : Follows s0 s) : Follows s0 (proveLog s e) := h.op (proveLog_kept (.refl _ s) rfl)

theorem follows_pruneSlots {s0 s} (h : Follows s0 s) : Follows s0 (pruneSlots s) := h.op (pruneSlots_kept (.refl _ s) rfl)

theorem follows_putBench {s0 s} {b x} (h : Follows s0 s) : Follows s0 (putBench s b x) := h.op (putBench_kept (.refl _ s) rfl)

theorem follows_putColl {s0 s} {cid k} (h : Follows s0 s) : Follows s0 (putColl s cid k) := h.op (putColl_kept (.refl _ s) rfl)

theorem follows_putCore {s0 s} {n c} (h : Follows s0 s) : Follows s0 (putCore s n c) := h.op (putCore_kept (.refl _ s) rfl)

theorem follows_putCtx {s0 s} {k c} (h : Follows s0 s) : Follows s0 (putCtx s k c) := h.op (putCtx_kept (.refl _ s) rfl)

theorem follows_putLink {s0 s} {p l} (h : Follows s0 s) : Follows s0 (putLink s p l) := h.op (putLink_kept (.refl _ s) rfl)

theorem follows_putTokens {s0 s} {f t} (h : Follows s0 s) : Follows s0 (putTokens s f t) := h.op (putTokens_kept (.refl _ s) rfl)

theorem follows_putUn {s0 s} {mid u} (h : Follows s0 s) : Follows s0 (putUn s mid u) := h.op (putUn_kept (.refl _ s) rfl)

theorem follows_quarantine {s0 s} {b} (h : Follows s0 s) : Follows s0 (quarantine s b) := h.op (quarantine_kept (.refl _ s) rfl)

theorem follows_queueOut {s0 s} {p m coll rides} (h : Follows s0 s) : Follows s0 (queueOut s p m coll rides).1 :=
  h.op (queueOut_kept (.refl _ s) rfl)

theorem follows_radioLate {s0 s} {cell sfn slot output affected} (h : Follows s0 s) : Follows s0 (radioLate s cell sfn slot output affected) :=
  h.op (radioLate_kept (.refl _ s) rfl)

theorem follows_radioRead {s0 s} {stop pa n} (h : Follows s0 s) : Follows s0 (radioRead s stop pa n).1 := h.op (radioRead_kept (.refl _ s) rfl)

theorem follows_radioReady {s0 s} (h : Follows s0 s) : Follows s0 (radioReady s) := h.op (radioReady_kept (.refl _ s) rfl)

theorem follows_radioWrite {s0 s} {stop pa bs} (h : Follows s0 s) : Follows s0 (radioWrite s stop pa bs) := h.op (radioWrite_kept (.refl _ s) rfl)

theorem follows_raiseMsix {s0 s} {f v} (h : Follows s0 s) : Follows s0 (raiseMsix s f v) := h.op (raiseMsix_kept (.refl _ s) rfl)

theorem follows_raiseTo {s0 s} {f i v} (h : Follows s0 s) : Follows s0 (raiseTo s f i v) := h.op (raiseTo_kept (.refl _ s) rfl)

theorem follows_readFapiEntry {s0 s} {ring i} (h : Follows s0 s) : Follows s0 (readFapiEntry s ring i) := h.op (readFapiEntry_kept (.refl _ s) rfl)

theorem follows_readRuns {s0 s} {source tag runs} (h : Follows s0 s) : Follows s0 (readRuns s source tag runs).1 :=
  h.op (readRuns_kept (.refl _ s) rfl)

theorem follows_readSlot {s0 s} {f c} (h : Follows s0 s) : Follows s0 (readSlot s f c).1 := h.op (readSlot_kept (.refl _ s) rfl)

theorem follows_readWord {s0 s} {fn addr} (h : Follows s0 s) : Follows s0 (readWord s fn addr).1 := h.op (readWord_kept (.refl _ s) rfl)

theorem follows_recMark {s0 s} (h : Follows s0 s) : Follows s0 (recMark s) := h.op (recMark_kept (.refl _ s) rfl)

theorem follows_recWrite {s0 s} {ok1 ok2} (h : Follows s0 s) : Follows s0 (recWrite s ok1 ok2) := h.op (recWrite_kept (.refl _ s) rfl)

theorem follows_refreshWaits {s0 s} (h : Follows s0 s) : Follows s0 (refreshWaits s) := h.op (refreshWaits_kept (.refl _ s) rfl)

theorem follows_refundDram {s0 s} {f bytes} (h : Follows s0 s) : Follows s0 (refundDram s f bytes) := h.op (refundDram_kept (.refl _ s) rfl)

theorem follows_releaseFrames {s0 s} {c n} (h : Follows s0 s) : Follows s0 (releaseFrames s c n) := h.op (releaseFrames_kept (.refl _ s) rfl)

theorem follows_releaseLots {s0 s} {f} (h : Follows s0 s) : Follows s0 (releaseLots s f) := h.op (releaseLots_kept (.refl _ s) rfl)

theorem follows_remoteRead {s0 s} {f a n} (h : Follows s0 s) : Follows s0 (remoteRead s f a n).1 := h.op (remoteRead_kept (.refl _ s) rfl)

theorem follows_remoteWrite {s0 s} {f a bs} (h : Follows s0 s) : Follows s0 (remoteWrite s f a bs).1 := h.op (remoteWrite_kept (.refl _ s) rfl)

theorem follows_reportPdus {s0 s} {c sfn slot pdus} (h : Follows s0 s) : Follows s0 (reportPdus s c sfn slot pdus) :=
  h.op (reportPdus_kept (.refl _ s) rfl)

theorem follows_resend {s0 s} {mid u late} (h : Follows s0 s) : Follows s0 (resend s mid u late) := h.op (resend_kept (.refl _ s) rfl)

theorem follows_resetFlds {s0 s} {fs} (h : Follows s0 s) : Follows s0 (resetFlds s fs) := h.op (resetFlds_kept (.refl _ s) rfl)

theorem follows_restrict {s0 s} {i st} (h : Follows s0 s) : Follows s0 (restrict s i st) := h.op (restrict_kept (.refl _ s) rfl)

theorem follows_revertChange {s0 s} (h : Follows s0 s) : Follows s0 (revertChange s) := h.op (revertChange_kept (.refl _ s) rfl)

theorem follows_sampleQueue {s0 s} {k x} (h : Follows s0 s) : Follows s0 (sampleQueue s k x) := h.op (sampleQueue_kept (.refl _ s) rfl)

theorem follows_saveForDark {s0 s} {b} (h : Follows s0 s) : Follows s0 (saveForDark s b) := h.op (saveForDark_kept (.refl _ s) rfl)

theorem follows_saveImage {s0 s} {d img} (h : Follows s0 s) : Follows s0 (saveImage s d img) := h.op (saveImage_kept (.refl _ s) rfl)

theorem follows_saveOut {s0 s} {b key} (h : Follows s0 s) : Follows s0 (saveOut s b key) := h.op (saveOut_kept (.refl _ s) rfl)

theorem follows_seeInc {s0 s} {node inc} (h : Follows s0 s) : Follows s0 (seeInc s node inc) := h.op (seeInc_kept (.refl _ s) rfl)

theorem follows_sendData {s0 s} {p f} (h : Follows s0 s) : Follows s0 (sendData s p f) := h.op (sendData_kept (.refl _ s) rfl)

theorem follows_sendFrames {s0 s} {c p fs} (h : Follows s0 s) : Follows s0 (sendFrames s c p fs).1 := h.op (sendFrames_kept (.refl _ s) rfl)

theorem follows_sendIdle {s0 s} {p nak} (h : Follows s0 s) : Follows s0 (sendIdle s p nak) := h.op (sendIdle_kept (.refl _ s) rfl)

theorem follows_senseAt {s0 s} {source tag line} (h : Follows s0 s) : Follows s0 (senseAt s source tag line).1 := h.op (senseAt_kept (.refl _ s) rfl)

theorem follows_senseRuns {s0 s} {source tag runs} (h : Follows s0 s) : Follows s0 (senseRuns s source tag runs).1 :=
  h.op (senseRuns_kept (.refl _ s) rfl)

theorem follows_sensorCheck {s0 s} (h : Follows s0 s) : Follows s0 (sensorCheck s) := h.op (sensorCheck_kept (.refl _ s) rfl)

theorem follows_setKey {s0 s} {f key delivered} (h : Follows s0 s) : Follows s0 (setKey s f key delivered) := h.op (setKey_kept (.refl _ s) rfl)

theorem follows_setLive {s0 s} {port n v} (h : Follows s0 s) : Follows s0 (setLive s port n v) := h.op (setLive_kept (.refl _ s) rfl)

theorem follows_setPtp {s0 s} {p} (h : Follows s0 s) : Follows s0 (setPtp s p) := h.op (setPtp_kept (.refl _ s) rfl)

theorem follows_setTimeSt {s0 s} {v} (h : Follows s0 s) : Follows s0 (setTimeSt s v) := h.op (setTimeSt_kept (.refl _ s) rfl)

theorem follows_setVf {s0 s} {f st} (h : Follows s0 s) : Follows s0 (setVf s f st) := h.op (setVf_kept (.refl _ s) rfl)

theorem follows_settle {s0 s} (h : Follows s0 s) : Follows s0 (settle s) := h.op (settle_kept (.refl _ s) rfl)

theorem follows_settleAt {s0 s} {m r} (h : Follows s0 s) : Follows s0 (settleAt s m r) := h.op (settleAt_kept (.refl _ s) rfl)

theorem follows_settleTrig {s0 s} (h : Follows s0 s) : Follows s0 (settleTrig s) := h.op (settleTrig_kept (.refl _ s) rfl)

theorem follows_shareResult {s0 s} {cid k x} (h : Follows s0 s) : Follows s0 (shareResult s cid k x) := h.op (shareResult_kept (.refl _ s) rfl)

theorem follows_showBench {s0 s} {b} (h : Follows s0 s) : Follows s0 (showBench s b) := h.op (showBench_kept (.refl _ s) rfl)

theorem follows_showCore {s0 s} {n} (h : Follows s0 s) : Follows s0 (showCore s n) := h.op (showCore_kept (.refl _ s) rfl)

theorem follows_showCrush {s0 s} {f} (h : Follows s0 s) : Follows s0 (showCrush s f) := h.op (showCrush_kept (.refl _ s) rfl)

theorem follows_showEvidence {s0 s} {n} (h : Follows s0 s) : Follows s0 (showEvidence s n) := h.op (showEvidence_kept (.refl _ s) rfl)

theorem follows_showFloor {s0 s} {b} (h : Follows s0 s) : Follows s0 (showFloor s b) := h.op (showFloor_kept (.refl _ s) rfl)

theorem follows_showFn {s0 s} {f} (h : Follows s0 s) : Follows s0 (showFn s f) := h.op (showFn_kept (.refl _ s) rfl)

theorem follows_showList {s0 s} (h : Follows s0 s) : Follows s0 (showList s) := h.op (showList_kept (.refl _ s) rfl)

theorem follows_showOffset {s0 s} {ps} (h : Follows s0 s) : Follows s0 (showOffset s ps) := h.op (showOffset_kept (.refl _ s) rfl)

theorem follows_showPace {s0 s} (h : Follows s0 s) : Follows s0 (showPace s) := h.op (showPace_kept (.refl _ s) rfl)

theorem follows_showPart {s0 s} {f} (h : Follows s0 s) : Follows s0 (showPart s f) := h.op (showPart_kept (.refl _ s) rfl)

theorem follows_showParts {s0 s} (h : Follows s0 s) : Follows s0 (showParts s) := h.op (showParts_kept (.refl _ s) rfl)

theorem follows_showRecordOk {s0 s} (h : Follows s0 s) : Follows s0 (showRecordOk s) := h.op (showRecordOk_kept (.refl _ s) rfl)

theorem follows_skipPlan {s0 s} {c} (h : Follows s0 s) : Follows s0 (skipPlan s c).1 := h.op (skipPlan_kept (.refl _ s) rfl)

theorem follows_slabPlan {s0 s} {c} (h : Follows s0 s) : Follows s0 (slabPlan s c).1 := h.op (slabPlan_kept (.refl _ s) rfl)

theorem follows_slotEvent {s0 s} {bit mu sfn slot sym} (h : Follows s0 s) : Follows s0 (slotEvent s bit mu sfn slot sym) :=
  h.op (slotEvent_kept (.refl _ s) rfl)

theorem follows_sourceLost {s0 s} (h : Follows s0 s) : Follows s0 (sourceLost s) := h.op (sourceLost_kept (.refl _ s) rfl)

theorem follows_spaceRead {s0 s} {f host pasid a n} (h : Follows s0 s) : Follows s0 (spaceRead s f host pasid a n).1 :=
  h.op (spaceRead_kept (.refl _ s) rfl)

theorem follows_spaceWrite {s0 s} {f host pasid a bs} (h : Follows s0 s) : Follows s0 (spaceWrite s f host pasid a bs).1 :=
  h.op (spaceWrite_kept (.refl _ s) rfl)

theorem follows_stageTrig {s0 s} {k g} (h : Follows s0 s) : Follows s0 (stageTrig s k g) := h.op (stageTrig_kept (.refl _ s) rfl)

theorem follows_startSwitch {s0 s} {b next starve} (h : Follows s0 s) : Follows s0 (startSwitch s b next starve) :=
  h.op (startSwitch_kept (.refl _ s) rfl)

theorem follows_steer {s0 s} (h : Follows s0 s) : Follows s0 (steer s) := h.op (steer_kept (.refl _ s) rfl)

theorem follows_stopProving {s0 s} {b} (h : Follows s0 s) : Follows s0 (stopProving s b) := h.op (stopProving_kept (.refl _ s) rfl)

theorem follows_storeRuns {s0 s} {runs bs} (h : Follows s0 s) : Follows s0 (storeRuns s runs bs) := h.op (storeRuns_kept (.refl _ s) rfl)

theorem follows_streamEvent {s0 s} {n st event sfn slot sym} (h : Follows s0 s) : Follows s0 (streamEvent s n st event sfn slot sym) :=
  h.op (streamEvent_kept (.refl _ s) rfl)

theorem follows_sweepDone {s0 s} (h : Follows s0 s) : Follows s0 (sweepDone s) := h.op (sweepDone_kept (.refl _ s) rfl)

theorem follows_takeFigures {s0 s} {k r} (h : Follows s0 s) : Follows s0 (takeFigures s k r) := h.op (takeFigures_kept (.refl _ s) rfl)

theorem follows_takeGroup {s0 s} {k g} (h : Follows s0 s) : Follows s0 (takeGroup s k g) := h.op (takeGroup_kept (.refl _ s) rfl)

theorem follows_takeHarq {s0 s} {c sfn slot p pdus} (h : Follows s0 s) : Follows s0 (takeHarq s c sfn slot p pdus) :=
  h.op (takeHarq_kept (.refl _ s) rfl)

theorem follows_takeOrigin {s0 s} {origin} (h : Follows s0 s) : Follows s0 (takeOrigin s origin) := h.op (takeOrigin_kept (.refl _ s) rfl)

theorem follows_tick {s0 s} (h : Follows s0 s) : Follows s0 (tick s) := h.op (tick_kept (.refl _ s) rfl)

theorem follows_ticked {s0 s} {k} (h : Follows s0 s) : Follows s0 (ticked s k) := h.op (ticked_kept (.refl _ s) rfl)

theorem follows_timeAcquire {s0 s} (h : Follows s0 s) : Follows s0 (timeAcquire s) := h.op (timeAcquire_kept (.refl _ s) rfl)

theorem follows_timeLost {s0 s} (h : Follows s0 s) : Follows s0 (timeLost s) := h.op (timeLost_kept (.refl _ s) rfl)

theorem follows_timeReady {s0 s} (h : Follows s0 s) : Follows s0 (timeReady s) := h.op (timeReady_kept (.refl _ s) rfl)

theorem follows_translate {s0 s} {f va n write} (h : Follows s0 s) : Follows s0 (translate s f va n write).1 := h.op (translate_kept (.refl _ s) rfl)

theorem follows_trigAct {s0 s} {k g r} (h : Follows s0 s) : Follows s0 (trigAct s k g r) := h.op (trigAct_kept (.refl _ s) rfl)

theorem follows_trigDone {s0 s} {k g} (h : Follows s0 s) : Follows s0 (trigDone s k g) := h.op (trigDone_kept (.refl _ s) rfl)

theorem follows_trimPart {s0 s} {f} (h : Follows s0 s) : Follows s0 (trimPart s f) := h.op (trimPart_kept (.refl _ s) rfl)

theorem follows_unchoose {s0 s} {b c} (h : Follows s0 s) : Follows s0 (unchoose s b c) := h.op (unchoose_kept (.refl _ s) rfl)

theorem follows_useModel {s0 s} {m source} (h : Follows s0 s) : Follows s0 (useModel s m source) := h.op (useModel_kept (.refl _ s) rfl)

theorem follows_vfActive {s0 s} {f} (h : Follows s0 s) : Follows s0 (vfActive s f) := h.op (vfActive_kept (.refl _ s) rfl)

theorem follows_wr {s0 s} {f i v} (h : Follows s0 s) : Follows s0 (wr s f i v) := h.op (wr_kept (.refl _ s) rfl)

theorem follows_wrAll {s0 s} {l} (h : Follows s0 s) : Follows s0 (wrAll s l) := h.op (wrAll_kept (.refl _ s) rfl)

theorem follows_wrLive {s0 s} {f i v} (h : Follows s0 s) : Follows s0 (wrLive s f i v) := h.op (wrLive_kept (.refl _ s) rfl)

theorem follows_writeBits {s0 s} {lo n data} (h : Follows s0 s) : Follows s0 (writeBits s lo n data) := h.op (writeBits_kept (.refl _ s) rfl)

theorem follows_writeRuns {s0 s} {source tag runs bs} (h : Follows s0 s) : Follows s0 (writeRuns s source tag runs bs).1 :=
  h.op (writeRuns_kept (.refl _ s) rfl)

/-! ### Commands the device can name -/

/-- Where every listed command of a state acts for a function the device can name, the owner acts for such a function too. -/
def Known (s : State) (o : Owner) : Prop := FnsOk s → o.fn ≤ 512

/-- Execution on a bench leaves a state that comes after, and the same owner's command. -/
def RanFollows (s0 : State) : Ran → Prop
  | .wait t d => Follows s0 t ∧ Known s0 d.owner
  | .fail t _ _ => Follows s0 t
  | .ok t d => Follows s0 t ∧ Known s0 d.owner

section
variable {s0 s t : State} {cid : Nat} {c : Cmd}

theorem mem_of_mapFind {α : Type} {m : SMap α} {k : Nat} {v : α} (h : mapFind m k = some v) : (k, v) ∈ m := by
  induction m with
  | nil => cases h
  | cons e m ih =>
    by_cases hk : e.1 = k
    · obtain rfl : e.2 = v := Option.some.inj ((if_pos hk).symm.trans h)
      exact hk ▸ List.mem_cons_self
    · exact List.mem_cons_of_mem _ (ih ((if_neg hk).symm.trans h))

theorem mem_of_getCmd (h : getCmd s cid = some c) : (cid, c) ∈ s.work.cmds := mem_of_mapFind h

theorem known_of_mem {e : Nat × Cmd} (he : e ∈ s.work.cmds) (h : Follows s0 s) : Known s0 e.2.owner := fun hf => h.2 hf e he

theorem known_of_getCmd (he : getCmd s cid = some c) (h : Follows s0 s) : Known s0 c.owner := known_of_mem (mem_of_getCmd he) h

theorem known_queue {f q : Nat} (hf : f ≤ 512) : Known s0 (.queue f q) := fun _ => hf

theorem RanFollows.wait {d : Cmd} (h : Follows s0 t) (k : Known s0 d.owner) : RanFollows s0 (.wait t d) := ⟨h, k⟩

theorem RanFollows.fail {st : Status} {a : Nat} (h : Follows s0 t) : RanFollows s0 (.fail t st a) := h

theorem RanFollows.ok {d : Cmd} (h : Follows s0 t) (k : Known s0 d.owner) : RanFollows s0 (.ok t d) := ⟨h, k⟩

theorem RanFollows.ite {p : Prop} [Decidable p] {a b : Ran} (ha : RanFollows s0 a) (hb : RanFollows s0 b) : RanFollows s0 (if p then a else b) := by
  split
  · exact ha
  · exact hb

theorem owner_payDram (s : State) (c : Cmd) (n : Nat) : (payDram s c n).2.1.owner = c.owner := by
  unfold payDram
  with_reducible repeat' first | exact rfl | split | dsimp only

theorem known_of_payDram {n : Nat} {d : Cmd} {paid : Bool} (he : payDram s c n = (t, d, paid)) (h : Known s0 c.owner) : Known s0 d.owner := by
  have ho := owner_payDram s c n
  rw [he] at ho
  exact (show d.owner = c.owner from ho) ▸ h

theorem known_getTake {off bs} (h : Known s0 c.owner) : Known s0 (getTake c off bs).owner := by
  unfold getTake
  split
  · exact h
  · exact h

theorem known_fresh {o : Owner} {i raw len : Nat} (h : Known s0 o) : Known s0 (Cmd.fresh o i raw len).owner := h

theorem known_radio {n t p : Nat} : Known s0 (.radio n t p) := fun _ => Nat.zero_le _

theorem follows_putCmd (h : Follows s0 s) (hc : Known s0 c.owner) : Follows s0 (putCmd s cid c) := by
  refine ⟨h.1, fun hf e he => ?_⟩
  obtain rfl | he := mem_mapSet _ _ _ _ he
  · exact hc hf
  · exact h.2 hf e he

theorem follows_dropCmd (h : Follows s0 s) : Follows s0 (dropCmd s cid) :=
  ⟨h.1, fun hf e he => h.2 hf e (List.mem_of_mem_filter he)⟩

theorem follows_putQ {k x} (h : Follows s0 s) : Follows s0 (putQ s k x) := h.cmds rfl rfl

theorem follows_putStep {k x} (h : Follows s0 s) : Follows s0 (putStep s k x) := h.cmds rfl rfl

theorem follows_tallyPut {f n v} (h : Follows s0 s) : Follows s0 (tallyPut s f n v) := h.cmds rfl rfl

theorem follows_tallyInc {f n v} (h : Follows s0 s) : Follows s0 (tallyInc s f n v) := h.cmds rfl rfl

/-- A part of the listed commands. -/
theorem follows_filter {p : Nat × Cmd → Bool} (h : Follows s0 s) (hc : t.work.cmds = s.work.cmds.filter p) (hp : t.pending = s.pending) :
    Follows s0 t :=
  ⟨hp.trans h.1, fun hf e he => h.2 hf e (List.mem_of_mem_filter (hc ▸ he))⟩

theorem follows_dropStepCmds {f q} (h : Follows s0 s) : Follows s0 (dropStepCmds s f q) := follows_filter h rfl rfl

theorem follows_arriving {m act} (h : Follows s0 s) (hact : ∀ s, Follows s0 s → Follows s0 (act s)) : Follows s0 (arriving s m act) := by
  unfold arriving
  with_reducible repeat' first | assumption | refine Follows.ite ?_ ?_ | refine hact _ ?_ | refine follows_emit ?_

theorem follows_onVf {f act} (h : Follows s0 s) (hact : ∀ s, Follows s0 s → Follows s0 (act s)) : Follows s0 (onVf s f act) := by
  unfold onVf
  with_reducible repeat' first | assumption | refine Follows.ite ?_ ?_ | refine hact _ ?_ | refine follows_logErr ?_

theorem follows_whenReached {addr act} (h : Follows s0 s) (hact : ∀ s, Follows s0 s → Follows s0 (act s)) :
    Follows s0 (whenReached s addr act) :=
  (hact s h).ite (follows_logErr h)

end

end Sys2Proof.Machine
end

section
/-! SUPPORT. The shared operations of steps and commands keep the listed commands to functions the device can name. -/

namespace Sys2Proof.Machine

theorem follows_endRadio {s0 s cid c st} (h : Follows s0 s) : Follows s0 (endRadio s cid c st) := by
  unfold endRadio
  with_reducible repeat' first | assumption | refine follows_dropCmd ?_ | refine follows_coreComplete ?_ | refine follows_noteRadioEnd ?_ | split

theorem follows_finishOne {s0 s cid c st fault} (h : Follows s0 s) (hc : Known s0 c.owner) : Follows s0 (finishOne s cid c st fault) := by
  unfold finishOne
  with_reducible repeat' first
    | assumption | refine follows_putStep ?_ | refine follows_putCmd ?_ ?_ | refine follows_endRadio ?_ | refine follows_releaseFrames ?_ | split
    | dsimp only

theorem follows_endMembers {s0 s key bank members st} (h : Follows s0 s) : Follows s0 (endMembers s key bank members st) := by
  unfold endMembers
  with_reducible repeat' first
    | assumption | refine follows_finishOne ?_ ?_ | refine follows_putCtx ?_ | refine known_of_getCmd (by assumption) ?_
    | refine Follows.foldl ?_ fun s x hs => ?_ | split

theorem follows_finish {s0 s cid c st fault} (h : Follows s0 s) (hc : Known s0 c.owner) : Follows s0 (finish s cid c st fault) :=
  .ite (follows_endMembers (follows_finishOne h hc)) (follows_finishOne h hc)

theorem follows_addCmd {s0 s c bad} (h : Follows s0 s) (hc : Known s0 c.owner) : Follows s0 (addCmd s c bad) := by
  unfold addCmd
  with_reducible repeat' first
    | assumption | refine follows_putStep ?_ | refine follows_putCmd ?_ ?_ | refine follows_finish ?_ ?_ | split | dsimp only
    | fail_if_no_progress refine Follows.mk ?_

theorem follows_readNext {s0 s f q x} (h : Follows s0 s) (hf : f ≤ 512) : Follows s0 (readNext s f q x) := by
  unfold readNext
  with_reducible repeat' first
    | assumption | refine follows_putStep ?_ | refine follows_addCmd ?_ ?_ | refine follows_spaceRead ?_ | refine known_fresh ?_
    | exact known_queue (by assumption) | refine Follows.fst (by assumption) ?_ | split | dsimp only

theorem follows_settleChains {s0 s x es} (h : Follows s0 s) : Follows s0 (settleChains s x es) :=
  .ite h (Follows.foldl h fun _ _ hs => .ite (follows_endMembers hs) hs)

theorem follows_completeStep {s0 s f q st first sqIndex stepId assay endNs notify} (h : Follows s0 s) :
    Follows s0 (completeStep s f q st first sqIndex stepId assay endNs notify) := by
  unfold completeStep
  with_reducible repeat' first
    | assumption | refine follows_putQ ?_ | refine follows_raiseMsix ?_ | refine follows_spaceWrite ?_ | refine Follows.fst (by assumption) ?_
    | split | dsimp only

theorem follows_applySignals {s0 s f sigs} (h : Follows s0 s) : Follows s0 (applySignals s f sigs) :=
  Follows.foldl h fun _ _ hs => follows_tallyInc hs

theorem follows_killCmd {s0 s cid c} (h : Follows s0 s) (hc : Known s0 c.owner) : Follows s0 (killCmd s cid c) :=
  follows_putCmd (follows_releaseFrames (.ite (.mk (follows_putCtx h)) (follows_refundDram (.mk (follows_putCtx h))))) hc

theorem follows_killAll {s0 s b cs} (h : Follows s0 s) (hc : ∀ e ∈ cs, Known s0 e.2.owner) : Follows s0 (killAll s b cs) :=
  follows_bump (h.foldlMem fun _ e he hs => follows_killCmd hs (hc e he))

theorem follows_failCtx {s0 s key} (h : Follows s0 s) : Follows s0 (failCtx s key) :=
  h.foldlMem fun _ _ he hs => follows_finish hs (known_of_mem (List.mem_of_mem_filter (List.mem_of_mem_filter he)) h)

theorem follows_killCtx {s0 s b key all} (h : Follows s0 s) : Follows s0 (killCtx s b key all).1 :=
  follows_killAll h fun _ he => known_of_mem (List.mem_of_mem_filter he) h

theorem follows_shadowKill {s0 s cid c} (h : Follows s0 s) (hc : Known s0 c.owner) : Follows s0 (shadowKill s cid c) :=
  follows_killAll h fun _ he => List.mem_singleton.1 he ▸ hc

theorem follows_startCmd {s0 s cid c run} (h : Follows s0 s) (hc : Known s0 c.owner)
    (hrun : ∀ s d, Follows s0 s → Known s0 d.owner → RanFollows s0 (run s cid d)) : Follows s0 (startCmd s cid c run) := by
  unfold startCmd
  dsimp only
  have hran := hrun s { c with held := true } h hc
  split
  · split
    · exact follows_putCmd h hc
    · exact follows_showBench (follows_finish h hc)
  split
  · exact follows_showBench (follows_putCmd h hc)
  generalize run s cid { c with held := true } = r at hran
  cases r with
  | wait t d => exact follows_showBench (follows_putCmd hran.1 hran.2)
  | fail t st a => exact follows_showBench (follows_finish hran hc)
  | ok t d => exact follows_showBench (follows_putCmd hran.1 hran.2)

/-- The checks of a bench command leave a state that comes after, and the same owner's command. -/
def PlanFollows (s0 : State) (p : State × Except (Status × Nat) Cmd) : Prop := Follows s0 p.1 ∧ ∀ d, p.2 = .ok d → Known s0 d.owner

theorem PlanFollows.error {s0 t e} (h : Follows s0 t) : PlanFollows s0 (t, .error e) :=
  ⟨h, fun d (he : Except.error e = Except.ok d) => by cases he⟩

theorem PlanFollows.ok {s0 t d} (h : Follows s0 t) (hd : Known s0 d.owner) : PlanFollows s0 (t, .ok d) :=
  ⟨h, fun e (he : Except.ok d = Except.ok e) => by cases he; exact hd⟩

theorem PlanFollows.ite {s0 : State} {p : Prop} [Decidable p] {a b} (ha : PlanFollows s0 a) (hb : PlanFollows s0 b) :
    PlanFollows s0 (if p then a else b) := by
  split
  · exact ha
  · exact hb

theorem follows_issueBench {s0 s cid kind plan free run} (h : Follows s0 s)
    (hplan : ∀ d, Known s0 d.owner → PlanFollows s0 (plan s d))
    (hrun : ∀ s d, Follows s0 s → Known s0 d.owner → RanFollows s0 (run s cid d)) : Follows s0 (issueBench s cid kind plan free run) := by
  unfold issueBench
  cases hg : getCmd s cid with
  | none => exact h
  | some c =>
    have hc := known_of_getCmd hg h
    obtain ⟨hs, hd⟩ := hplan { c with bench := (benchFor s c).getD c.bench } hc
    dsimp only
    with_reducible repeat' refine Follows.ite ?_ ?_
    · exact h
    · exact follows_startCmd h hc hrun
    · exact h
    · exact h
    · exact h
    generalize plan s _ = p at hs hd
    obtain ⟨t, e | d⟩ := p
    · exact follows_finish hs hc
    cases benchFor s c with
    | none => exact h
    | some b => exact h.ite (follows_startCmd (Follows.mk hs) (hd d rfl) hrun)

/-- A plan that goes on keeps its command's owner. -/
def Owned (o : Owner) : Except (Status × Nat) Cmd → Prop
  | .error _ => True
  | .ok d => d.owner = o

/-- An execution keeps its command's owner. -/
def RanOwned (o : Owner) : Ran → Prop
  | .wait _ d => d.owner = o
  | .fail _ _ _ => True
  | .ok _ d => d.owner = o

theorem Owned.error {o e} : Owned o (.error e) := trivial

theorem Owned.ok {o d} (h : d.owner = o) : Owned o (.ok d) := h

theorem RanOwned.wait {o t d} (h : d.owner = o) : RanOwned o (.wait t d) := h

theorem RanOwned.fail {o t st a} : RanOwned o (.fail t st a) := trivial

theorem RanOwned.ok {o t d} (h : d.owner = o) : RanOwned o (.ok t d) := h

theorem RanOwned.ite {o} {p : Prop} [Decidable p] {a b} (ha : RanOwned o a) (hb : RanOwned o b) : RanOwned o (if p then a else b) := by
  split
  · exact ha
  · exact hb

theorem planFollows {s0 : State} {c : Cmd} {p : State × Except (Status × Nat) Cmd} (h : Follows s0 p.1) (hc : Known s0 c.owner)
    (ho : Owned c.owner p.2) : PlanFollows s0 p := by
  refine ⟨h, fun d hd => ?_⟩
  rw [hd] at ho
  exact (show d.owner = c.owner from ho) ▸ hc

theorem ranFollows {s0 s : State} {c : Cmd} {r : Ran} (h : Follows s0 s) (hc : Known s0 c.owner) (k : RanKept besides s r)
    (ho : RanOwned c.owner r) : RanFollows s0 r := by
  cases r with
  | wait t d => exact ⟨h.op k, (show d.owner = c.owner from ho) ▸ hc⟩
  | fail t st a => exact h.op k
  | ok t d => exact ⟨h.op k, (show d.owner = c.owner from ho) ▸ hc⟩

theorem Owned.ite {o} {p : Prop} [Decidable p] {a b : State × Except (Status × Nat) Cmd} (ha : Owned o a.2) (hb : Owned o b.2) :
    Owned o (if p then a else b).2 := by
  split
  · exact ha
  · exact hb

theorem owned_slabPlan (s : State) (c : Cmd) : Owned c.owner (slabPlan s c).2 := by
  unfold slabPlan
  with_reducible repeat' first | exact Owned.error | exact Owned.ok rfl | refine Owned.ite ?_ ?_ | split

theorem owned_dresserPlan (s : State) (c : Cmd) : Owned c.owner (dresserPlan s c).2 := by
  unfold dresserPlan
  with_reducible repeat' first | exact Owned.error | exact Owned.ok rfl | refine Owned.ite ?_ ?_ | split

theorem owned_skipPlan (s : State) (c : Cmd) : Owned c.owner (skipPlan s c).2 := by
  unfold skipPlan
  with_reducible repeat' first | exact Owned.error | exact Owned.ok rfl | refine Owned.ite ?_ ?_ | split | dsimp only

theorem owned_fabricPlan (s : State) (c : Cmd) : Owned c.owner (fabricPlan s c).2 := by
  unfold fabricPlan
  with_reducible repeat' first | exact Owned.error | exact Owned.ok rfl | refine Owned.ite ?_ ?_ | split

theorem ranOwned_slabRun (s : State) (cid : Nat) (c : Cmd) : RanOwned c.owner (slabRun s cid c) := by
  unfold slabRun
  with_reducible refine RanOwned.ite RanOwned.fail (RanOwned.ok ?_)
  exact (apply_ite Cmd.owner ..).trans (ite_self _)

theorem ranOwned_dresserStage (s : State) (c : Cmd) (out) : RanOwned c.owner (dresserStage s c out) := by
  cases out with
  | none => trivial
  | some o => rfl

theorem ranOwned_skipRun (s : State) (cid : Nat) (c : Cmd) : RanOwned c.owner (skipRun s cid c) := by
  unfold skipRun
  with_reducible repeat' first
    | exact RanOwned.fail | refine RanOwned.ok ?_ | refine RanOwned.wait ?_ | exact owner_payDram _ _ _ | split | dsimp only

theorem ranOwned_runFence (s : State) (c : Cmd) (x : FabCmd) (dests) : RanOwned c.owner (runFence s c x dests) := by
  unfold runFence
  with_reducible repeat' first | exact RanOwned.fail | exact RanOwned.ok rfl | exact RanOwned.wait rfl | split | dsimp only

theorem follows_dresserCmd {s0 s cid op out} (h : Follows s0 s) : Follows s0 (dresserCmd s cid op out) :=
  follows_issueBench h (fun d hd => planFollows (follows_dresserPlan h) hd (owned_dresserPlan s d)) fun s _ hs hd =>
    ranFollows hs hd (dresserStage_kept (.refl _ s) rfl) (ranOwned_dresserStage ..)

end Sys2Proof.Machine
end

section
/-! SUPPORT. The same of the Chisel cores' slots, of the tallies and benches, and of what settles a message. -/

namespace Sys2Proof.Machine

/-- A core's commands are muted; whom they act for stays. -/
theorem follows_coreFault {s0 s n cause pc} (h : Follows s0 s) : Follows s0 (coreFault s n cause pc) := by
  refine follows_healthCause (follows_showCore (follows_wr (follows_wr (follows_wr ⟨h.1, fun hf e he => ?_⟩))))
  obtain ⟨d, hd, rfl⟩ := List.mem_map.1 he
  refine Eq.trans_le ?_ (h.2 hf d hd)
  dsimp only
  split
  · exact congrArg Owner.fn ((apply_ite Cmd.owner ..).trans (ite_self _))
  · rfl

theorem follows_deliverRing {s0 s m} (h : Follows s0 s) : Follows s0 (deliverRing s m).1 := by
  unfold deliverRing
  with_reducible repeat' first
    | assumption | refine follows_tallyInc ?_ | refine follows_remoteRead ?_ | refine follows_remoteWrite ?_ | refine Follows.fst (by assumption) ?_
    | split | dsimp only

theorem follows_endBundle {s0 s n} (h : Follows s0 s) : Follows s0 (endBundle s n) :=
  .ite (follows_coreFault (follows_bump (follows_putCore h))) (follows_showCore (.ite (follows_wr (follows_bump (follows_putCore h)))
    (follows_bump (follows_putCore h))))

theorem follows_getReady {s0 s cid c} (h : Follows s0 s) (hc : Known s0 c.owner) : Follows s0 (getReady s cid c) :=
  .ite (follows_putCmd h hc) (follows_putCmd h hc)

theorem follows_postRadio {s0 s n slotTag bs} (h : Follows s0 s) : Follows s0 (postRadio s n slotTag bs) := by
  unfold postRadio
  with_reducible repeat' first
    | assumption | refine follows_putCmd ?_ ?_ | refine follows_coreComplete ?_ | refine known_fresh ?_ | exact known_radio | split | dsimp only
    | fail_if_no_progress refine Follows.mk ?_

theorem follows_issueSlot {s0 s core last f} (h : Follows s0 s) : Follows s0 (issueSlot s core last f) := by
  unfold issueSlot
  with_reducible repeat' first
    | assumption | refine Follows.ite ?_ ?_ | refine follows_coreFault ?_ | refine follows_endBundle ?_ | refine follows_putCore ?_ | split

theorem follows_takePost {s0 s n x} (h : Follows s0 s) : Follows s0 (takePost s n x) := by
  unfold takePost
  with_reducible repeat' first
    | assumption | refine follows_postRadio ?_ | refine follows_postFapi ?_ | refine follows_postFhTx ?_ | refine follows_postMbox ?_
    | refine follows_postSieve ?_ | split

theorem follows_controlSlot {s0 s core last f} (h : Follows s0 s) : Follows s0 (controlSlot s core last f) := follows_issueSlot h

theorem follows_loadSlot {s0 s core y key a post off last size f} (h : Follows s0 s) :
    Follows s0 (loadSlot s core y key a post off last size f) := follows_issueSlot h

theorem follows_plainSlot {s0 s core last f} (h : Follows s0 s) : Follows s0 (plainSlot s core last f) := follows_issueSlot h

theorem follows_storeSlot {s0 s core y key a post off last size} (h : Follows s0 s) : Follows s0 (storeSlot s core y key a post off last size) :=
  follows_issueSlot h

theorem follows_tryPost {s0 s n} (h : Follows s0 s) : Follows s0 (tryPost s n) := by
  unfold tryPost
  with_reducible repeat' first | assumption | refine follows_takePost ?_ | refine follows_bump ?_ | refine follows_putCore ?_ | split

theorem follows_branchIf {s0 s core ga off last p} (h : Follows s0 s) : Follows s0 (branchIf s core ga off last p) := follows_controlSlot h

theorem follows_postSlot {s0 s core port a units last} (h : Follows s0 s) : Follows s0 (postSlot s core port a units last) :=
  .ite h (.ite (follows_coreFault h) (.ite (follows_coreFault h) (.ite (follows_endBundle (follows_tryPost (follows_putCore h))) (follows_tryPost
    (follows_putCore h)))))

theorem follows_salu {s0 s core gd ga gb last lat f} (h : Follows s0 s) : Follows s0 (salu s core gd ga gb last lat f) := follows_plainSlot h

theorem follows_salui {s0 s core gd ga last f} (h : Follows s0 s) : Follows s0 (salui s core gd ga last f) := follows_plainSlot h

theorem follows_vec2 {s0 s core vd va vb sat last f} (h : Follows s0 s) : Follows s0 (vec2 s core vd va vb sat last f) := follows_plainSlot h

theorem follows_vecBits {s0 s core vd va vb last f} (h : Follows s0 s) : Follows s0 (vecBits s core vd va vb last f) := follows_plainSlot h

theorem follows_wedgeKill {s0 s b hold} (h : Follows s0 s) : Follows s0 (wedgeKill s b hold) := by
  unfold wedgeKill
  with_reducible repeat' first
    | assumption | refine follows_killCtx ?_ | refine follows_abandonSwitch ?_ | refine follows_bump ?_ | refine follows_putBench ?_
    | refine follows_putCtx ?_ | refine follows_showBench ?_ | refine follows_stopProving ?_ | split

theorem follows_atomicDone {s0 s cid st value sizeB} (h : Follows s0 s) : Follows s0 (atomicDone s cid st value sizeB) := by
  unfold atomicDone
  with_reducible repeat' first
    | assumption | refine follows_tallyInc ?_ | refine follows_finish ?_ ?_ | refine follows_applySignals ?_ | refine follows_translate ?_
    | refine follows_writeRuns ?_ | refine known_of_getCmd (by assumption) ?_ | refine Follows.fst (by assumption) ?_ | split | dsimp only

theorem follows_closeMembers {s0 s members st} (h : Follows s0 s) : Follows s0 (closeMembers s members st) := by
  unfold closeMembers
  with_reducible repeat' first
    | assumption | refine follows_finish ?_ ?_ | refine follows_applySignals ?_ | refine known_of_getCmd (by assumption) ?_
    | refine Follows.foldl ?_ fun s x hs => ?_ | split | dsimp only

theorem follows_endColl {s0 s cid k c st fault} (h : Follows s0 s) (hc : Known s0 c.owner) : Follows s0 (endColl s cid k c st fault) :=
  follows_showCrush (follows_finish (.mk h) hc)

theorem follows_tallyCmd {s0 s cid op} (h : Follows s0 s) : Follows s0 (tallyCmd s cid op) := by
  unfold tallyCmd
  with_reducible repeat' first
    | assumption | refine follows_tallyPut ?_ | refine follows_finish ?_ ?_ | refine follows_applySignals ?_ | refine follows_raiseMsix ?_
    | refine known_of_getCmd (by assumption) ?_ | split | dsimp only

theorem follows_reserveBench {s0 s b c} (h : Follows s0 s) : Follows s0 (reserveBench s b c) := by
  unfold reserveBench
  with_reducible repeat' first | assumption | refine follows_wedgeKill ?_ | split

theorem follows_placeCtx {s0 s b key starve} (h : Follows s0 s) : Follows s0 (placeCtx s b key starve) := by
  unfold placeCtx
  with_reducible repeat' first
    | assumption | refine follows_failCtx ?_ | refine follows_bumpSat ?_ | refine follows_putBench ?_ | refine follows_putCtx ?_
    | refine follows_showBench ?_ | refine follows_wr ?_ | refine follows_readSlot ?_ | refine Follows.fst (by assumption) ?_ | split

theorem follows_settleOne {s0 s mid st acked} (h : Follows s0 s) : Follows s0 (settleOne s mid st acked) := by
  unfold settleOne
  with_reducible repeat' first
    | assumption | refine follows_finish ?_ ?_ | refine follows_getReady ?_ ?_ | refine follows_atomicDone ?_ | refine follows_dropUn ?_
    | refine follows_launchReady ?_ | refine follows_noteFailure ?_ | refine known_getTake ?_ | refine known_of_getCmd (by assumption) ?_
    | refine Follows.foldl ?_ fun s x hs => ?_ | split | fail_if_no_progress refine Follows.mk ?_

theorem follows_ackOne {s0 s node cls seq} (h : Follows s0 s) : Follows s0 (ackOne s node cls seq) := by
  unfold ackOne
  with_reducible repeat' first | assumption | refine follows_settleOne ?_ | split

theorem follows_enqueue {s0 s m cid peer off after coll mcast lead} (h : Follows s0 s) :
    Follows s0 (enqueue s m cid peer off after coll mcast lead) := .ite (follows_settleOne (.mk h)) (follows_launch (.mk h))

theorem follows_learnInc {s0 s node inc} (h : Follows s0 s) : Follows s0 (learnInc s node inc) :=
  .ite (.mk h) (follows_launchReady (.mk (Follows.foldl h fun _ _ hs => .ite (follows_dropUn hs) (follows_settleOne hs))))

end Sys2Proof.Machine
end

section
/-! SUPPORT. The same of the fabric's messages and links, and of the collectives. -/

namespace Sys2Proof.Machine

theorem follows_nakTo {s0 s mid u reason va} (h : Follows s0 s) : Follows s0 (nakTo s mid u reason va) := by
  unfold nakTo
  with_reducible repeat' first | assumption | refine follows_settleOne ?_ | refine follows_putUn ?_ | refine follows_resend ?_ | split

theorem follows_resultTo {s0 s mid u v st} (h : Follows s0 s) : Follows s0 (resultTo s mid u v st) :=
  .ite (follows_settleOne (follows_atomicDone h)) (follows_settleOne h)

theorem follows_dataTo {s0 s mid u epoch bs} (h : Follows s0 s) : Follows s0 (dataTo s mid u epoch bs) := by
  unfold dataTo
  with_reducible repeat' first
    | assumption | refine follows_putCmd ?_ ?_ | refine follows_settleOne ?_ | refine follows_enqueue ?_ | refine known_getTake ?_
    | refine known_of_getCmd (by assumption) ?_ | split | dsimp only

theorem follows_advertise {s0 s} (h : Follows s0 s) : Follows s0 (advertise s) :=
  Follows.foldl (follows_wr (follows_wr h)) fun _ _ hs => follows_enqueue hs

theorem follows_handOver {s0 s cid peer mcast m} (h : Follows s0 s) : Follows s0 (handOver s cid peer mcast m) := by
  unfold handOver
  with_reducible repeat' first
    | assumption | refine follows_putCmd ?_ ?_ | refine follows_enqueue ?_ | refine known_of_getCmd (by assumption) ?_ | split | dsimp only

theorem follows_sendColl {s0 s cid k rk phase m payload} (h : Follows s0 s) : Follows s0 (sendColl s cid k rk phase m payload) := by
  unfold sendColl
  with_reducible repeat' first | assumption | refine follows_enqueue ?_ | split

theorem follows_handAll {s0 s cid c} (h : Follows s0 s) : Follows s0 (handAll s cid c) :=
  Follows.foldl (Follows.foldl h fun _ _ hs => follows_handOver hs) fun _ _ hs => follows_handOver hs

theorem follows_localAnswer {s0 s m r} (h : Follows s0 s) : Follows s0 (localAnswer s m r) := by
  unfold localAnswer
  with_reducible repeat' first
    | assumption | refine follows_ackOne ?_ | refine follows_nakTo ?_ | refine follows_resultTo ?_ | refine follows_dataTo ?_ | split

theorem follows_sendAborts {s0 s cid k st} (h : Follows s0 s) : Follows s0 (sendAborts s cid k st) :=
  follows_bump (Follows.foldl h fun _ _ hs => follows_sendColl hs)

theorem follows_sendChunk {s0 s cid k rk stage chunk payload} (h : Follows s0 s) : Follows s0 (sendChunk s cid k rk stage chunk payload) :=
  Follows.foldl h fun _ _ hs => follows_sendColl hs

theorem follows_setPort {s0 s p st} (h : Follows s0 s) : Follows s0 (setPort s p st) := .ite h (follows_failover (follows_advertise (follows_wr h)))

theorem follows_commitCmd {s0 s cid c} (h : Follows s0 s) (hc : Known s0 c.owner) : Follows s0 (commitCmd s cid c) := by
  unfold commitCmd
  with_reducible repeat' first
    | assumption | refine follows_putCmd ?_ ?_ | refine follows_finish ?_ ?_ | refine follows_applySignals ?_ | refine follows_closeMembers ?_
    | refine follows_handAll ?_ | refine follows_putCtx ?_ | refine follows_releaseFrames ?_ | refine follows_showBench ?_
    | refine follows_commitDram ?_ | refine known_of_getCmd (by assumption) ?_ | split | dsimp only

theorem follows_crushRefuse {s0 s cid c k st fault} (h : Follows s0 s) (hc : Known s0 c.owner) : Follows s0 (crushRefuse s cid c k st fault) :=
  follows_finish (.ite (follows_sendAborts h) h) hc

theorem follows_enterRetrain {s0 s p} (h : Follows s0 s) : Follows s0 (enterRetrain s p) :=
  .ite h (follows_setPort (follows_bumpSat (follows_putLink h)))

theorem follows_failColl {s0 s cid st fault} (h : Follows s0 s) : Follows s0 (failColl s cid st fault) := by
  unfold failColl
  with_reducible repeat' first
    | assumption | refine follows_endColl ?_ ?_ | refine follows_sendAborts ?_ | refine known_of_getCmd (by assumption) ?_ | split

theorem follows_goDown {s0 s p} (h : Follows s0 s) : Follows s0 (goDown s p) := follows_setPort (follows_bumpSat (follows_putLink h))

theorem follows_sendReply {s0 s m r} (h : Follows s0 s) : Follows s0 (sendReply s m r) := by
  unfold sendReply
  with_reducible repeat' first | assumption | refine follows_localAnswer ?_ | refine follows_meter ?_ | refine follows_queueOut ?_ | split

theorem follows_admitMsg {s0 s m} (h : Follows s0 s) : Follows s0 (admitMsg s m).1 := by
  unfold admitMsg
  with_reducible repeat' first
    | assumption | refine follows_sendReply ?_ | refine follows_discardMsg ?_ | refine follows_hear ?_ | refine follows_seeInc ?_ | split
    | dsimp only

theorem follows_linkAck {s0 s p ackSeq nak} (h : Follows s0 s) : Follows s0 (linkAck s p ackSeq nak) :=
  .ite (follows_putLink h) (.ite (follows_enterRetrain (follows_bump (follows_putLink h))) (Follows.foldl (follows_bump (follows_putLink h)) fun _
    _ hs => follows_sendData hs))

theorem follows_loseMember {s0 s node} (h : Follows s0 s) : Follows s0 (loseMember s node) := Follows.foldl h fun _ _ hs => follows_failColl hs

theorem follows_sweepLost {s0 s} (h : Follows s0 s) : Follows s0 (sweepLost s) := by
  unfold sweepLost
  with_reducible repeat' first
    | assumption | refine follows_failColl ?_ | refine Follows.foldl ?_ fun s x hs => ?_ | split | fail_if_no_progress refine Follows.mk ?_

theorem follows_stageRound {s0 s m} (h : Follows s0 s) : Follows s0 (stageRound s m).1 := by
  unfold stageRound
  with_reducible repeat' first
    | assumption | refine follows_sendReply ?_ | refine follows_bump ?_ | refine follows_settleAt ?_ | refine follows_applyReduce ?_
    | refine Follows.foldlFst ?_ fun p x hp => ?_ | refine Follows.foldl ?_ fun s x hs => ?_ | split | dsimp only
    | fail_if_no_progress refine Follows.mk ?_

theorem follows_applyMsg {s0 s m} (h : Follows s0 s) : Follows s0 (applyMsg s m).1 := by
  unfold applyMsg
  with_reducible repeat' first
    | assumption | refine follows_tallyInc ?_ | refine follows_deliverRing ?_ | refine follows_stageRound ?_ | refine follows_applyLsa ?_
    | refine follows_applyAtomic ?_ | refine follows_applyReduce ?_ | refine follows_remoteRead ?_ | refine follows_remoteWrite ?_
    | refine Follows.fst (by assumption) ?_ | split

theorem follows_applyNow {s0 s m} (h : Follows s0 s) : Follows s0 (applyNow s m) := follows_sendReply (follows_settleAt (follows_applyMsg h))

theorem follows_duplicateReply {s0 s m} (h : Follows s0 s) : Follows s0 (duplicateReply s m).1 := by
  unfold duplicateReply
  with_reducible repeat' first | assumption | refine follows_applyMsg ?_ | split

theorem follows_answerAgain {s0 s m} (h : Follows s0 s) : Follows s0 (answerAgain s m) := follows_sendReply (follows_duplicateReply h)

theorem follows_releaseHeld {s0 s fuel} (h : Follows s0 s) : Follows s0 (releaseHeld fuel s) := by
  induction fuel generalizing s with
  | zero => exact h
  | succ n ih =>
    rw [releaseHeld]
    split
    · exact h
    · exact ih ((follows_answerAgain (.mk h)).ite (follows_applyNow (.mk h)))

theorem follows_onRequest {s0 s kind m} (h : Follows s0 s) : Follows s0 (onRequest s kind m) := by
  unfold onRequest
  with_reducible repeat' first
    | assumption | refine Follows.ite ?_ ?_ | refine follows_sendReply ?_ | refine follows_admitMsg ?_ | refine follows_applyNow ?_
    | refine follows_answerAgain ?_ | refine follows_releaseHeld ?_ | refine follows_forwardMsg ?_ | refine follows_noteWait ?_
    | refine follows_arriving ?_ fun s hs => ?_ | fail_if_no_progress refine Follows.mk ?_

theorem follows_deliverAll {s0 s fuel} (h : Follows s0 s) : Follows s0 (deliverAll fuel s) := by
  induction fuel generalizing s with
  | zero => exact h
  | succ n ih =>
    rw [deliverAll]
    split
    · exact h
    · exact ih (follows_onRequest (follows_putUn h))

theorem follows_deliverLocal {s0 s} (h : Follows s0 s) : Follows s0 (deliverLocal s) := follows_deliverAll h

theorem follows_settleFabric {s0 s} (h : Follows s0 s) : Follows s0 (settleFabric s) := follows_sweepLost (follows_deliverLocal h)

theorem follows_pumpColl {s0 s fuel cid} (h : Follows s0 s) : Follows s0 (pumpColl fuel s cid) := by
  induction fuel generalizing s with
  | zero => exact h
  | succ n ih =>
    rw [pumpColl]
    with_reducible repeat' first | assumption | refine Follows.ite ?_ ?_ | split
    exact ih (follows_sendChunk (follows_putColl h))

theorem follows_pumpAll {s0 s} (h : Follows s0 s) : Follows s0 (pumpAll s) := Follows.foldl h fun _ _ hs => follows_pumpColl hs

theorem follows_onAnswer {s0 s kind m act} (h : Follows s0 s) (hact : ∀ s m, Follows s0 s → Follows s0 (act s m)) :
    Follows s0 (onAnswer s kind m act) := by
  unfold onAnswer
  with_reducible repeat' first
    | assumption | refine Follows.ite ?_ ?_ | refine follows_learnInc ?_ | refine follows_discardMsg ?_ | refine follows_forwardMsg ?_
    | refine follows_hear ?_ | refine follows_arriving ?_ fun s hs => ?_ | refine hact _ _ ?_

theorem follows_onFlit {s0 s p ackSeq nak crcOk errs act} (h : Follows s0 s) (hact : ∀ s, Follows s0 s → Follows s0 (act s)) :
    Follows s0 (onFlit s p ackSeq nak crcOk errs act) := by
  unfold onFlit
  with_reducible repeat' first
    | assumption | refine Follows.ite ?_ ?_ | refine follows_enterRetrain ?_ | refine follows_linkAck ?_ | refine follows_bump ?_
    | refine follows_putLink ?_ | refine follows_sendIdle ?_ | refine hact _ ?_

theorem follows_readInput {s0 s cid k c} (h : Follows s0 s) (hc : Known s0 c.owner) : Follows s0 (readInput s cid k c) := by
  unfold readInput
  with_reducible repeat' first
    | assumption | refine follows_putCmd ?_ ?_ | refine follows_failColl ?_ | refine follows_putColl ?_ | refine follows_payDram ?_
    | refine follows_readRuns ?_ | refine known_of_payDram (by assumption) ?_ | refine Follows.fst (by assumption) ?_ | split | dsimp only

theorem follows_writeStage {s0 s cid k c} (h : Follows s0 s) (hc : Known s0 c.owner) : Follows s0 (writeStage s cid k c) := by
  unfold writeStage
  with_reducible repeat' first
    | assumption | refine follows_putCmd ?_ ?_ | refine follows_failColl ?_ | refine follows_putColl ?_ | refine follows_payDram ?_
    | refine follows_writeRuns ?_ | refine known_of_payDram (by assumption) ?_ | refine Follows.foldlFst ?_ fun p x hp => ?_
    | refine Follows.fst (by assumption) ?_ | split | dsimp only

/-- Each of the four advances acts for a collective whose command is listed. -/
theorem follows_advanceColl {s0 s cid} (h : Follows s0 s) : Follows s0 (advanceColl s cid) := by
  unfold advanceColl
  extract_lets onColl s1 s2 s3 s4
  have hstage {act : State → Coll → Cmd → State} {t : State} (ht : Follows s0 t)
      (hact : ∀ k c, Known s0 c.owner → Follows s0 (act t k c)) : Follows s0 (onColl act t) := by
    unfold onColl
    split
    · exact (hact _ _ (known_of_getCmd (by assumption) ht)).ite ht
    · exact ht
  have h1 : Follows s0 s1 := hstage (act := fun s k c => if k.inRead then s else readInput s cid k c) h fun _ _ hc => h.ite (follows_readInput h hc)
  have h2 : Follows s0 s2 := hstage (act := fun s k c => shareResult s cid k (crushOf c)) h1 fun _ _ _ => follows_shareResult h1
  have h3 : Follows s0 s3 := hstage (act := fun s k c => if k.staged || !k.inRead then s else writeStage s cid k c) h2
    fun _ _ hc => h2.ite (follows_writeStage h2 hc)
  have h4 : Follows s0 s4 := hstage (act := fun s k _ => pumpColl k.toSend.length s cid) h3 fun _ _ _ => follows_pumpColl h3
  split
  · exact follows_showCrush h4
  · exact h4

theorem follows_actVerdict {s0 s cid agree r} (h : Follows s0 s) : Follows s0 (actVerdict s cid agree r) := by
  unfold actVerdict
  with_reducible repeat' first
    | assumption | refine follows_endColl ?_ ?_ | refine follows_sendColl ?_ | refine follows_advanceColl ?_ | refine follows_bump ?_
    | refine follows_putColl ?_ | refine follows_takeFigures ?_ | refine known_of_getCmd (by assumption) ?_
    | refine Follows.foldl ?_ fun s x hs => ?_ | split

theorem follows_tryReport {s0 s cid} (h : Follows s0 s) : Follows s0 (tryReport s cid) := by
  unfold tryReport
  with_reducible repeat' first
    | assumption | refine Follows.ite ?_ ?_ | refine follows_sendColl ?_ | refine follows_actVerdict ?_ | refine follows_putColl ?_ | split

theorem follows_judgeChunk {s0 s cid k c i stage chunk check bytes} (h : Follows s0 s) :
    Follows s0 (judgeChunk s cid k c i stage chunk check bytes) :=
  .ite (follows_advanceColl (follows_sendColl (follows_putColl h))) (.ite (follows_failColl (follows_putColl (follows_bump h))) (follows_sendColl
    (follows_putColl (follows_bump h))))

theorem follows_takeData {s0 s cid k c m i} (h : Follows s0 s) : Follows s0 (takeData s cid k c m i) := by
  unfold takeData
  with_reducible repeat' first | assumption | refine follows_judgeChunk ?_ | refine follows_putColl ?_ | split | dsimp only

theorem follows_actColl {s0 s cid k c phase m} (h : Follows s0 s) (hc : Known s0 c.owner) : Follows s0 (actColl s cid k c phase m) := by
  unfold actColl
  with_reducible repeat' first
    | assumption | refine follows_endColl ?_ ?_ | refine follows_sendChunk ?_ | refine follows_pumpAll ?_ | refine follows_actVerdict ?_
    | refine follows_tryReport ?_ | refine follows_takeData ?_ | refine follows_bump ?_ | refine follows_putColl ?_ | refine follows_showCrush ?_
    | split | dsimp only

theorem follows_applyColl {s0 s phase m} (h : Follows s0 s) : Follows s0 (applyColl s phase m).1 := by
  unfold applyColl
  with_reducible repeat' first
    | assumption | refine follows_actColl ?_ ?_ | refine follows_bump ?_ | refine follows_showCrush ?_ | refine known_of_getCmd (by assumption) ?_
    | split | dsimp only | fail_if_no_progress refine Follows.mk ?_

theorem follows_onColl {s0 s phase m} (h : Follows s0 s) : Follows s0 (onColl s phase m) :=
  follows_arriving h fun _ hs => .ite (follows_forwardMsg hs) (.ite (follows_sweepLost (follows_admitMsg hs)) (.ite (follows_sendReply
    (follows_admitMsg hs)) (.ite (follows_sendReply (follows_admitMsg hs)) (follows_sweepLost (follows_sendReply (follows_settleAt
    (follows_applyColl (follows_admitMsg hs))))))))

end Sys2Proof.Machine
end

section
/-! SUPPORT. The same of the fabric's commands, of a migrated function, and of resets, the member list and the registers. -/

namespace Sys2Proof.Machine

/-- A listed command stands for itself, and an absent one is replaced. -/
theorem known_getD {s0 s cid} {c : Cmd} (h : Follows s0 s) (hc : Known s0 c.owner) : Known s0 ((getCmd s cid).getD c).owner := by
  cases hg : getCmd s cid with
  | none => exact hc
  | some d => exact known_of_getCmd hg h

theorem ranFollows_runGet {s0 s cid c x d} (h : Follows s0 s) (hc : Known s0 c.owner) : RanFollows s0 (runGet s cid c x d) := by
  unfold runGet
  refine RanFollows.ite (.wait h hc) (RanFollows.ite (.wait h hc) ?_)
  split
  · exact .wait (.fst (by assumption) (follows_payDram h)) (known_of_payDram (by assumption) hc)
  · rename_i t d1 hp
    have ht : Follows s0 t := .fst hp (follows_payDram h)
    have hd : Known s0 d1.owner := known_of_payDram hp hc
    dsimp only
    refine RanFollows.ite (.ok ht (known_getTake hd)) (.wait ?_ (known_getD ?_ hd)) <;>
      exact Follows.foldl (follows_putCmd ht hd) fun s g hs => follows_enqueue hs

theorem ranFollows_fabricRun {s0 s cid c} (h : Follows s0 s) (hc : Known s0 c.owner) : RanFollows s0 (fabricRun s cid c) := by
  unfold fabricRun
  extract_lets x dests
  split
  · exact ranFollows h hc (runFence_kept (.refl _ s) rfl) (ranOwned_runFence ..)
  · exact ranFollows_runGet h hc
  · exact .fail h
  refine RanFollows.ite (.wait h hc) ?_
  split
  · exact .wait (.fst (by assumption) (follows_payDram h)) (known_of_payDram (by assumption) hc)
  · rename_i t d hp
    have ht : Follows s0 t := .fst hp (follows_payDram h)
    have hd : Known s0 d.owner := known_of_payDram hp hc
    dsimp only
    split
    · exact .fail (.fst (by assumption) (follows_senseRuns ht))
    · exact .ok (.fst (by assumption) (follows_senseRuns ht)) hd

theorem follows_fabricCmd {s0 s cid op} (h : Follows s0 s) : Follows s0 (fabricCmd s cid op) :=
  follows_issueBench h (fun d hd => planFollows (follows_fabricPlan h) hd (owned_fabricPlan s d)) fun _ _ hs hd => ranFollows_fabricRun hs hd

theorem follows_takeEarly {s0 s cid k} (h : Follows s0 s) : Follows s0 (takeEarly s cid k) := by
  unfold takeEarly
  with_reducible repeat' first
    | assumption | refine follows_actColl ?_ ?_ | refine known_of_getCmd (by assumption) ?_ | refine Follows.foldl ?_ fun s x hs => ?_ | split
    | fail_if_no_progress refine Follows.mk ?_

theorem follows_joinColl {s0 s cid c k} (h : Follows s0 s) (hc : Known s0 c.owner) : Follows s0 (joinColl s cid c k) :=
  .ite (follows_putCmd h hc) (follows_showCrush (follows_tryReport (follows_takeEarly (.ite (Follows.foldl (follows_putColl (follows_putCmd (.mk
    h) hc)) fun _ _ hs => follows_sendColl hs) (follows_putColl (follows_putCmd (.mk h) hc))))))

theorem follows_crushStart {s0 s cid c k send recv} (h : Follows s0 s) (hc : Known s0 c.owner) : Follows s0 (crushStart s cid c k send recv) := by
  unfold crushStart
  with_reducible repeat' first
    | assumption | refine Follows.ite ?_ ?_ | refine follows_finish ?_ ?_ | refine follows_crushRefuse ?_ ?_ | refine follows_joinColl ?_ ?_
    | refine follows_crRuns ?_ | refine Follows.fst (by assumption) ?_ | split

theorem follows_crushCmd {s0 s cid op} (h : Follows s0 s) : Follows s0 (crushCmd s cid op) := by
  unfold crushCmd
  with_reducible repeat' first
    | assumption | refine Follows.ite ?_ ?_ | refine follows_putCmd ?_ ?_ | refine follows_finish ?_ ?_ | refine follows_crushRefuse ?_ ?_
    | refine follows_crushStart ?_ ?_ | refine follows_crGroupRead ?_ | refine follows_crRuns ?_ | refine follows_payDram ?_
    | refine follows_readRuns ?_ | refine known_of_payDram (by assumption) ?_ | refine known_of_getCmd (by assumption) ?_
    | refine Follows.fst (by assumption) ?_ | split

theorem follows_resumeFabric {s0 s} (h : Follows s0 s) : Follows s0 (resumeFabric s) :=
  follows_sweepLost (Follows.foldl (follows_deliverLocal (follows_releaseHeld h)) fun _ _ hs => follows_advanceColl hs)

theorem follows_loadStep {s0 s f bs} (h : Follows s0 s) (hf : f ≤ 512) : Follows s0 (loadStep s f bs).1 := by
  unfold loadStep
  extract_lets q ring n e codes rest code k qb s1 hdr x s2 dones rec_ s3
  have h2 : Follows s0 s2 := by
    refine Follows.foldl (follows_putStep (follows_putQ h)) fun s _ hs => ?_
    split
    · exact follows_readNext hs hf
    · exact hs
  refine (h2.foldlMem fun s c hc hs => ?_ : Follows s0 s3)
  have hk : Known s0 c.2.owner := known_of_mem (List.mem_of_mem_filter hc) h2
  with_reducible repeat' refine Follows.ite ?_ ?_
  · exact hs
  · exact follows_putCmd hs hk
  · exact follows_finish (follows_putCmd hs hk) hk
  · exact hs

theorem follows_loadSteps {s0 s n f bs} (h : Follows s0 s) (hf : f ≤ 512) : Follows s0 (loadSteps n s f bs).1 := by
  induction n generalizing s bs with
  | zero => exact h
  | succ n ih => exact ih (follows_loadStep h hf)

theorem follows_loadCtxs {s0 s cs f bs} (h : Follows s0 s) : Follows s0 (loadCtxs cs s f bs).1 := by
  induction cs generalizing s bs with
  | nil => exact h
  | cons c cs ih => exact ih (follows_putCtx (follows_dramStore h))

theorem follows_loadState {s0 s f bs} (h : Follows s0 s) (hf : f ≤ 512) : Follows s0 (loadState s f bs).1 :=
  follows_loadCtxs (follows_loadSteps (Follows.foldl (Follows.foldl h fun _ _ hs => follows_putQ hs) fun _ _ hs => follows_tallyPut hs) hf)

theorem follows_resetActions {s0 s f r} (h : Follows s0 s) : Follows s0 (resetActions s f r) := by
  unfold resetActions
  extract_lets w s1 ten s2 s3 s4 s5 s6 s7 s8 s9 s10
  have h1 : Follows s0 s1 := follows_filter h rfl rfl
  have h2 : Follows s0 s2 := h1.cmds rfl rfl
  have h5 : Follows s0 s5 := follows_wr (follows_wr (follows_wr (follows_wr (follows_wr (follows_clearCtxs h2)))))
  have h6 : Follows s0 s6 := Follows.foldl h5 fun _ _ hs => follows_wr hs
  have h7 : Follows s0 s7 := Follows.foldl h6 fun _ _ hs => follows_wr hs
  have h10 : Follows s0 s10 := Follows.foldl (follows_bump (follows_logErr h7)) fun _ _ hs => follows_wr hs
  exact follows_showPart (follows_showFn (follows_vfActive h10))

/-- The kills of a forced reset act for listed commands. -/
theorem follows_beginReset {s0 s f cause toOff} (h : Follows s0 s) : Follows s0 (beginReset s f cause toOff) := by
  unfold beginReset
  extract_lets mine past gone stay colls r fab1 s1 s2 s3 waitsReply keep w fab2 ten s4 s5
  have h1 : Follows s0 s1 := h.cmds rfl rfl
  have h2 : Follows s0 s2 := Follows.foldl h1 fun _ _ hs => follows_failColl hs
  have h3 : Follows s0 s3 := by
    refine h2.foldlMem fun s e he hs => (follows_killCmd hs ?_).ite hs
    exact known_of_mem (List.mem_of_mem_filter (List.mem_of_mem_filter he)) h
  have h4 : Follows s0 s4 := follows_filter h3 rfl rfl
  exact follows_showFn (follows_wr (follows_setVf (follows_endMigration h4)))

theorem follows_forceWith {s0 s f cause} (h : Follows s0 s) : Follows s0 (forceWith s f cause) := .ite h (follows_beginReset h)

theorem follows_enableVf {s0 s f} (h : Follows s0 s) : Follows s0 (enableVf s f) := by
  unfold enableVf
  with_reducible repeat' first
    | assumption | refine follows_clearCtxs ?_ | refine follows_freshKey ?_ | refine follows_vfActive ?_ | refine follows_wr ?_
    | refine follows_wrLive ?_ | refine Follows.foldl ?_ fun s x hs => ?_ | split | fail_if_no_progress refine Follows.mk ?_

theorem follows_applyNumVfs {s0 s m} (h : Follows s0 s) : Follows s0 (applyNumVfs s m) := by
  unfold applyNumVfs
  with_reducible repeat' first
    | assumption | refine follows_beginReset ?_ | refine follows_enableVf ?_ | refine follows_wr ?_ | refine Follows.foldl ?_ fun s x hs => ?_
    | split | fail_if_no_progress refine Follows.mk ?_

theorem follows_takeLock {s0 s} (h : Follows s0 s) : Follows s0 (takeLock s) := by
  unfold takeLock
  with_reducible repeat' first
    | assumption | refine follows_applyNumVfs ?_ | refine follows_assignLots ?_ | refine follows_fnSet ?_ | refine follows_logErr ?_
    | refine follows_settle ?_ | refine follows_wr ?_ | split | fail_if_no_progress refine Follows.mk ?_

/-- A stop leaves no command. -/
theorem follows_stopUnits {s0 s} (h : Follows s0 s) : Follows s0 (stopUnits s) := by
  unfold stopUnits
  extract_lets s1 s2 s3 z
  have h2 : Follows s0 s2 := Follows.foldl (follows_resetFlds h) fun _ _ hs => follows_wr (follows_wr (follows_wr hs))
  have h3 : Follows s0 s3 := Follows.foldl h2 fun _ _ hs => follows_wr hs
  exact ⟨h3.1, fun _ _ he => absurd he List.not_mem_nil⟩

/-- A reset leaves no command. -/
theorem follows_coldState {s0 s} (h : Follows s0 s) : Follows s0 (coldState s) :=
  follows_wr ⟨h.1, fun _ _ he => absurd he List.not_mem_nil⟩

theorem follows_startSeq {s0 s} (h : Follows s0 s) : Follows s0 (startSeq s) :=
  Follows.foldl (Follows.foldl (follows_drawn (follows_wr (follows_freshKey (follows_drawn (.mk (follows_coldState h)))))) fun _ _ hs =>
    follows_wr hs) fun _ _ hs => follows_fnSet hs

theorem follows_resetLow {s0 s} (h : Follows s0 s) : Follows s0 (resetLow s) := .ite (.mk h) (follows_coldState (.mk h))

theorem follows_resetHigh {s0 s} (h : Follows s0 s) : Follows s0 (resetHigh s) := .ite (.ite (follows_startSeq (.mk h)) (.mk h)) h

theorem follows_applyChange {s0 s c} (h : Follows s0 s) : Follows s0 (applyChange s c) := by
  unfold applyChange
  with_reducible repeat' first
    | assumption | refine Follows.ite ?_ ?_ | refine follows_settleOne ?_ | refine follows_loseMember ?_ | refine follows_settleFabric ?_
    | refine follows_failover ?_ | refine follows_healthCause ?_ | refine follows_recMark ?_ | refine follows_showList ?_ | refine follows_wr ?_
    | refine Follows.foldl ?_ fun s x hs => ?_ | fail_if_no_progress refine Follows.mk ?_

theorem follows_applyEarly {s0 s fuel} (h : Follows s0 s) : Follows s0 (applyEarly fuel s) := by
  induction fuel generalizing s with
  | zero => exact h
  | succ n ih =>
    rw [applyEarly]
    split
    · exact h
    · exact ih (follows_applyChange h.mk)

theorem follows_issueChange {s0 s op n} (h : Follows s0 s) : Follows s0 (issueChange s op n) := follows_emit (follows_applyChange h)

theorem follows_tryChange {s0 s op n} (h : Follows s0 s) : Follows s0 (tryChange s op n) := by
  unfold tryChange
  with_reducible repeat' first | assumption | refine follows_issueChange ?_ | refine follows_wr ?_ | split

theorem follows_listCmd {s0 s op code n} (h : Follows s0 s) : Follows s0 (listCmd s op code n) :=
  .ite (follows_logErr h) (follows_tryChange (follows_wr (follows_wr h)))

theorem follows_onDatagram {s0 s port d gone} (h : Follows s0 s) : Follows s0 (onDatagram s port d gone) :=
  .ite h (.ite (follows_bump h) (.ite h (.ite (follows_setLive (follows_setLive (follows_wr (follows_wr (.mk (follows_settleFabric
    (follows_learnInc h))))))) (follows_setLive (follows_wr (follows_wr (.mk (follows_settleFabric (follows_learnInc h)))))))))

theorem follows_writeCqHead {s0 s fn addr n data} (h : Follows s0 s) : Follows s0 (writeCqHead s fn addr n data) :=
  Follows.foldl h fun _ _ hs => .ite (follows_putQ hs) hs

theorem follows_p7 {s0 s kind ring c sfn slot pdus} (h : Follows s0 s) : Follows s0 (p7 s kind ring c sfn slot pdus) := by
  unfold p7
  with_reducible repeat' first
    | assumption | refine follows_bump ?_ | refine follows_indicateCell ?_ | refine follows_reportPdus ?_ | refine follows_takeHarq ?_ | split
    | fail_if_no_progress refine Follows.mk ?_

theorem follows_pfWrite {s0 s a n d} (h : Follows s0 s) : Follows s0 (pfWrite s a n d) := by
  unfold pfWrite
  with_reducible repeat' first
    | assumption | refine follows_writeCqHead ?_ | refine follows_logErr ?_ | refine follows_settleTrig ?_ | refine follows_writeBits ?_ | split

theorem follows_vfWrite {s0 s f a n d} (h : Follows s0 s) : Follows s0 (vfWrite s f a n d) :=
  .ite h (.ite (.ite (follows_logErr h) h) (follows_flushMsix (follows_writeCqHead (follows_writeBits h))))

end Sys2Proof.Machine
end

section
/-! SUPPORT. Every command's own meaning comes after the state it starts from: registers to tenants' benches. -/

namespace Sys2Proof.Machine

theorem fn_le_of_migBad {d : Nat} (h : migBad d = false) : bitsOf d 16 10 ≤ 512 := by
  simp only [migBad, Bool.or_eq_false_iff, decide_eq_false_iff_not] at h
  obtain ⟨⟨⟨-, h⟩, -⟩, -⟩ := h
  exact Nat.le_of_not_lt h

theorem follows_feedItem {s0 s changed item} (h : Follows s0 s) : Follows s0 (feedItem s changed item) := by
  cases item with
  | supplies _ t => exact follows_showRecordOk (follows_itemDone (follows_wr (.mk h)))
  | cables probes => exact follows_itemDone (Follows.foldl h fun _ _ hs => (follows_probeCable hs).ite hs)
  | flights | partners _ | dram _ => exact follows_itemDone h
  | sensors _ => exact follows_sensorCheck (follows_itemDone h)
  | cooling _ gaveUp =>
    rw [feedItem]
    split
    · exact (follows_useModel h).ite (follows_itemDone (follows_wr (follows_useModel h)))
    · exact (follows_itemDone h).ite h

theorem goes_execRegisterWrite {fn addr wide data s} : Goes s (execRegisterWrite fn addr wide data s) :=
  .next (.ite (follows_pfWrite (.refl s)) (follows_vfWrite (.refl s)))

theorem goes_execLowWordRead {fn addr wide s} : Goes s (execLowWordRead fn addr wide s) := by
  unfold execLowWordRead
  with_reducible repeat' first
    | exact Follows.refl _ | refine Goes.next ?_ | refine Goes.ite ?_ ?_ | refine follows_emit ?_ | refine follows_latchHigh ?_
    | refine follows_readWord ?_ | split | fail_if_no_progress refine Follows.mk ?_

theorem goes_execBenchWindowAbsentAccess {bench off write s} : Goes s (execBenchWindowAbsentAccess bench off write s) :=
  .ite (.next (.refl s)) (.next (.ite (follows_logErr (.refl s)) (follows_emit (follows_logErr (.refl s)))))

theorem goes_execNotClockedProxyAccess {addr write s} : Goes s (execNotClockedProxyAccess addr write s) := by
  unfold execNotClockedProxyAccess
  with_reducible repeat' first
    | exact Follows.refl _ | refine Goes.next ?_ | refine follows_pfWrite ?_ | refine follows_emit ?_ | refine follows_readWord ?_ | split

theorem goes_execGalleryShareWindow {s} : Goes s (execGalleryShareWindow s) := .next (.mk (.refl s))

theorem goes_execChannelShareWindow {s} : Goes s (execChannelShareWindow s) := .next (.mk (.refl s))

theorem goes_execRefresh {stack s} : Goes s (execRefresh stack s) := .next (.mk (.refl s))

theorem goes_execRefreshTempRead {t0 t1 t2 t3 s} : Goes s (execRefreshTempRead t0 t1 t2 t3 s) :=
  .next (follows_wr (Follows.foldl (.refl s) fun _ _ hs => follows_wr hs))

theorem goes_execSqTail {fn q value s} : Goes s (execSqTail fn q value s) :=
  .ite (.next (.refl s)) (.ite (.next (follows_logErr (follows_putQ (.refl s)))) (.next (follows_putQ (.refl s))))

theorem goes_execQueueEnable {fn q s} : Goes s (execQueueEnable fn q s) := by
  unfold execQueueEnable
  with_reducible repeat' first | exact Follows.refl _ | refine Goes.next ?_ | refine follows_putQ ?_ | refine follows_logErr ?_ | split

theorem goes_execQueueDisable {fn q s} : Goes s (execQueueDisable fn q s) := by
  unfold execQueueDisable
  with_reducible repeat' first | exact Follows.refl _ | refine Goes.next ?_ | refine follows_putQ ?_ | split

theorem goes_execQueueConfigWrite {fn q reg value s} : Goes s (execQueueConfigWrite fn q reg value s) :=
  .ite (.next (.refl s)) (.next (.ite (follows_putQ (.refl s)) (follows_logErr (.refl s))))

theorem goes_execStepStart {fn q s} : Goes s (execStepStart fn q s) := by
  unfold execStepStart
  with_reducible repeat' first
    | exact Follows.refl _ | refine Goes.next ?_ | refine Goes.ite ?_ ?_ | refine follows_putQ ?_ | refine follows_putStep ?_
    | refine follows_completeStep ?_ | refine follows_showFn ?_ | refine follows_openStep ?_ | refine Follows.fst (by assumption) ?_ | split

theorem goes_execCommandRead {fn q s} : Goes s (execCommandRead fn q s) := by
  unfold execCommandRead
  split
  · exact .next (.refl s)
  split
  · exact .next (.refl s)
  · exact .next (follows_readNext (.refl s) (Nat.le_of_lt_succ fn.isLt))

theorem goes_execStepCompletion {fn q s} : Goes s (execStepCompletion fn q s) := by
  unfold execStepCompletion
  with_reducible repeat' first
    | exact Follows.refl _ | refine Goes.next ?_ | refine follows_dropStepCmds ?_ | refine follows_settleChains ?_ | refine follows_completeStep ?_
    | refine follows_showFn ?_ | refine follows_spaceWrite ?_ | split | dsimp only

theorem goes_execTallyAdd {fn tally value s} : Goes s (execTallyAdd fn tally value s) := .next (.ite (follows_tallyInc (.refl s)) (.refl s))

theorem goes_execTallySet {fn tally value s} : Goes s (execTallySet fn tally value s) := .next (.ite (follows_tallyPut (.refl s)) (.refl s))

theorem goes_execSlab {cid s} : Goes s (execSlab cid s) :=
  .next (follows_issueBench (.refl s) (fun d hd => planFollows (follows_slabPlan (.refl s)) hd (owned_slabPlan s d)) fun s d hs hd =>
    ranFollows hs hd (slabRun_kept (.refl _ s) rfl) (ranOwned_slabRun s cid d))

theorem goes_execMap {cid s} : Goes s (execMap cid s) := .next (follows_dresserCmd (.refl s))

theorem goes_execRowSum {cid s} : Goes s (execRowSum cid s) := .next (follows_dresserCmd (.refl s))

theorem goes_execRowWideSum {cid s} : Goes s (execRowWideSum cid s) := .next (follows_dresserCmd (.refl s))

theorem goes_execWideAdd {cid s} : Goes s (execWideAdd cid s) := .next (follows_dresserCmd (.refl s))

theorem goes_execRowMaxi {cid s} : Goes s (execRowMaxi cid s) := .next (follows_dresserCmd (.refl s))

theorem goes_execRowMini {cid s} : Goes s (execRowMini cid s) := .next (follows_dresserCmd (.refl s))

theorem goes_execMxQuant {cid s} : Goes s (execMxQuant cid s) := .next (follows_dresserCmd (.refl s))

theorem goes_execRandom {cid s} : Goes s (execRandom cid s) := .next (follows_dresserCmd (.refl s))

theorem goes_execDiscard {cid s} : Goes s (execDiscard cid s) := .next (follows_dresserCmd (.refl s))

theorem goes_execSkip {cid s} : Goes s (execSkip cid s) :=
  .next (follows_issueBench (.refl s) (fun d hd => planFollows (follows_skipPlan (.refl s)) hd (owned_skipPlan s d)) fun s d hs hd =>
    ranFollows hs hd (skipRun_kept (.refl _ s) rfl) (ranOwned_skipRun s cid d))

theorem goes_execGet {cid s} : Goes s (execGet cid s) := .next (follows_deliverLocal (follows_fabricCmd (.refl s)))

theorem goes_execPut {cid s} : Goes s (execPut cid s) := .next (follows_fabricCmd (.refl s))

theorem goes_execAtomic {cid s} : Goes s (execAtomic cid s) := .next (follows_fabricCmd (.refl s))

theorem goes_execFabricReduce {cid s} : Goes s (execFabricReduce cid s) := .next (follows_fabricCmd (.refl s))

theorem goes_execMcastPut {cid s} : Goes s (execMcastPut cid s) := .next (follows_fabricCmd (.refl s))

theorem goes_execSignal {cid s} : Goes s (execSignal cid s) := .next (follows_fabricCmd (.refl s))

theorem goes_execFence {cid s} : Goes s (execFence cid s) := .next (follows_fabricCmd (.refl s))

theorem goes_execMsgSend {cid s} : Goes s (execMsgSend cid s) := .next (follows_fabricCmd (.refl s))

theorem goes_execTallySignal {cid s} : Goes s (execTallySignal cid s) := .next (follows_tallyCmd (.refl s))

theorem goes_execTallyCmdSet {cid s} : Goes s (execTallyCmdSet cid s) := .next (follows_tallyCmd (.refl s))

theorem goes_execNotify {cid s} : Goes s (execNotify cid s) := .next (follows_tallyCmd (.refl s))

theorem goes_execAllReduce {cid s} : Goes s (execAllReduce cid s) := .next (follows_sweepLost (follows_crushCmd (.refl s)))

theorem goes_execReduce {cid s} : Goes s (execReduce cid s) := .next (follows_sweepLost (follows_crushCmd (.refl s)))

theorem goes_execReduceScatter {cid s} : Goes s (execReduceScatter cid s) := .next (follows_sweepLost (follows_crushCmd (.refl s)))

theorem goes_execBroadcast {cid s} : Goes s (execBroadcast cid s) := .next (follows_sweepLost (follows_crushCmd (.refl s)))

theorem goes_execAllGather {cid s} : Goes s (execAllGather cid s) := .next (follows_sweepLost (follows_crushCmd (.refl s)))

theorem goes_execAllToAll {cid s} : Goes s (execAllToAll cid s) := .next (follows_sweepLost (follows_crushCmd (.refl s)))

theorem goes_execAllGatherV {cid s} : Goes s (execAllGatherV cid s) := .next (follows_sweepLost (follows_crushCmd (.refl s)))

theorem goes_execAllToAllV {cid s} : Goes s (execAllToAllV cid s) := .next (follows_sweepLost (follows_crushCmd (.refl s)))

theorem goes_execBarrier {cid s} : Goes s (execBarrier cid s) := .next (follows_sweepLost (follows_crushCmd (.refl s)))

theorem goes_execCommit {cid s} : Goes s (execCommit cid s) := by
  unfold execCommit
  with_reducible repeat' first
    | exact Follows.refl _ | refine Goes.next ?_ | refine follows_commitCmd ?_ ?_ | refine follows_deliverLocal ?_
    | refine known_of_getCmd (by assumption) ?_ | split

theorem goes_execFrameZeroingDone {bench s} : Goes s (execFrameZeroingDone bench s) :=
  .next (.ite (.refl s) (follows_showBench (follows_putBench (.refl s))))

theorem goes_execCollectiveCommit {cid s} : Goes s (execCollectiveCommit cid s) := by
  unfold execCollectiveCommit
  with_reducible repeat' first
    | exact Follows.refl _ | refine Goes.next ?_ | refine follows_putCmd ?_ ?_ | refine known_of_getCmd (by assumption) ?_ | split | dsimp only

theorem goes_execStageCopyDone {cid s} : Goes s (execStageCopyDone cid s) := by
  unfold execStageCopyDone
  with_reducible repeat' first
    | exact Follows.refl _ | refine Goes.next ?_ | refine follows_applySignals ?_ | refine follows_endColl ?_ ?_ | refine follows_chargeDram ?_
    | refine follows_storeRuns ?_ | refine follows_senseRuns ?_ | refine follows_writeRuns ?_ | refine known_of_getCmd (by assumption) ?_
    | refine Follows.fst (by assumption) ?_ | split | dsimp only

theorem goes_execJoinTimeout {cid s} : Goes s (execJoinTimeout cid s) := by
  unfold execJoinTimeout
  with_reducible repeat' first | exact Follows.refl _ | refine Goes.next ?_ | refine follows_failColl ?_ | refine follows_sweepLost ?_ | split

theorem goes_execTriggerFire {k r s} : Goes s (execTriggerFire k r s) := .next (.ite (follows_trigAct (follows_trigDone (.refl s))) (.refl s))

theorem goes_execFloorPlanPoint {entry sfn s} : Goes s (execFloorPlanPoint entry sfn s) := by
  unfold execFloorPlanPoint
  with_reducible repeat' first
    | exact Follows.refl _ | assumption | refine Goes.next ?_ | refine Follows.ite ?_ ?_ | refine follows_putBench ?_
    | refine follows_stopProving ?_ | refine Follows.foldl ?_ fun s x hs => ?_ | split

theorem goes_execFloorReservation {entry s} : Goes s (execFloorReservation entry s) := by
  unfold execFloorReservation
  with_reducible repeat' first
    | exact Follows.refl _ | assumption | refine Goes.next ?_ | refine follows_reserveBench ?_ | refine follows_showParts ?_
    | refine follows_unchoose ?_ | refine Follows.foldl ?_ fun s x hs => ?_ | split

theorem goes_execWedgeHandover {bench s} : Goes s (execWedgeHandover bench s) := by
  unfold execWedgeHandover
  with_reducible repeat' first
    | exact Follows.refl _ | refine Goes.next ?_ | refine Follows.ite ?_ ?_ | refine follows_putBench ?_ | refine follows_showBench ?_
    | refine follows_showFloor ?_ | refine follows_wr ?_ | split

theorem goes_execBeyondFloorTake {cid s} : Goes s (execBeyondFloorTake cid s) := by
  unfold execBeyondFloorTake
  with_reducible repeat' first
    | exact Follows.refl _ | refine Goes.next ?_ | refine follows_putCmd ?_ ?_ | refine follows_wedgeKill ?_ | refine follows_bump ?_
    | refine follows_showParts ?_ | refine known_of_getCmd (by assumption) ?_ | split | dsimp only

theorem goes_execFloorReturn {bench s} : Goes s (execFloorReturn bench s) := by
  unfold execFloorReturn
  with_reducible repeat' first
    | exact Follows.refl _ | refine Goes.next ?_ | refine follows_reserveBench ?_ | refine follows_bump ?_ | refine follows_putBench ?_
    | refine follows_putCtx ?_ | refine follows_showBench ?_ | refine follows_showFloor ?_ | refine follows_showParts ?_
    | refine follows_unchoose ?_ | refine follows_wr ?_ | split

theorem goes_execQuantumEnd {bench s} : Goes s (execQuantumEnd bench s) := by
  unfold execQuantumEnd
  with_reducible repeat' first
    | exact Follows.refl _ | refine Goes.next ?_ | refine follows_putCtx ?_ | refine follows_refreshWaits ?_ | refine follows_showParts ?_
    | refine follows_startSwitch ?_ | split | dsimp only

theorem goes_execGraceEnd {bench s} : Goes s (execGraceEnd bench s) := by
  unfold execGraceEnd
  with_reducible repeat' first
    | exact Follows.refl _ | refine Goes.next ?_ | refine follows_killCtx ?_ | refine follows_bump ?_ | refine follows_putBench ?_
    | refine follows_showBench ?_ | refine follows_showParts ?_ | refine follows_wr ?_ | split

theorem goes_execSaveDone {bench s} : Goes s (execSaveDone bench s) := by
  unfold execSaveDone
  with_reducible repeat' first
    | exact Follows.refl _ | refine Goes.next ?_ | refine follows_abandonSwitch ?_ | refine follows_countSwitch ?_ | refine follows_putBench ?_
    | refine follows_refreshWaits ?_ | refine follows_saveOut ?_ | refine follows_showParts ?_ | split

theorem goes_execRestoreDone {bench s} : Goes s (execRestoreDone bench s) := by
  unfold execRestoreDone
  with_reducible repeat' first
    | exact Follows.refl _ | refine Goes.next ?_ | refine follows_placeCtx ?_ | refine follows_countSwitch ?_ | refine follows_refreshWaits ?_
    | refine follows_showParts ?_ | split

theorem goes_execStarvationPoint {fn ctx s} : Goes s (execStarvationPoint fn ctx s) := by
  unfold execStarvationPoint
  with_reducible repeat' first
    | exact Follows.refl _ | refine Goes.next ?_ | refine follows_bump ?_ | refine follows_refreshWaits ?_ | refine follows_showParts ?_
    | refine follows_startSwitch ?_ | split | dsimp only

theorem goes_execEviction {fn ctx s} : Goes s (execEviction fn ctx s) := by
  unfold execEviction
  with_reducible repeat' first
    | exact Follows.refl _ | refine Goes.next ?_ | refine follows_killCtx ?_ | refine follows_bump ?_ | refine follows_putBench ?_
    | refine follows_refreshWaits ?_ | refine follows_showBench ?_ | refine follows_showParts ?_ | refine follows_startSwitch ?_
    | refine follows_wr ?_ | split | dsimp only

theorem goes_execBenchWake {bench s} : Goes s (execBenchWake bench s) := by
  unfold execBenchWake
  with_reducible repeat' first
    | exact Follows.refl _ | refine Goes.next ?_ | refine Follows.ite ?_ ?_ | refine follows_abandonSwitch ?_ | refine follows_putBench ?_ | split

theorem goes_execPowerStateChoice {bench s} : Goes s (execPowerStateChoice bench s) :=
  .next (.ite (follows_refreshWaits (.refl s)) (.ite (follows_saveForDark (follows_wr (follows_wr (follows_wr (follows_refreshWaits (.refl s))))))
    (.ite (follows_wr (follows_wr (follows_wr (follows_wr (follows_refreshWaits (.refl s)))))) (.ite (follows_putBench (follows_wr (follows_wr
    (follows_wr (follows_refreshWaits (.refl s)))))) (follows_wr (follows_wr (follows_wr (follows_refreshWaits (.refl s)))))))))

theorem goes_execBlockedHoldExpiry {bench s} : Goes s (execBlockedHoldExpiry bench s) := by
  unfold execBlockedHoldExpiry
  with_reducible repeat' first
    | exact Follows.refl _ | refine Goes.next ?_ | refine Follows.ite ?_ ?_ | refine follows_putBench ?_ | refine follows_refreshWaits ?_
    | refine follows_wr ?_ | split

theorem goes_execIdleDarkExpiry {bench s} : Goes s (execIdleDarkExpiry bench s) :=
  .next (.ite (follows_saveForDark (follows_refreshWaits (.refl s))) (follows_refreshWaits (.refl s)))

theorem goes_execLotOwner {lot owner hdm s} : Goes s (execLotOwner lot owner hdm s) := by
  unfold execLotOwner
  with_reducible repeat' first | exact Follows.refl _ | refine Goes.next ?_ | refine follows_logErr ?_ | refine follows_wr ?_ | split

theorem goes_execReleasingEnd {lot s} : Goes s (execReleasingEnd lot s) := .next (.ite (.refl s) (follows_wr (.mk (.refl s))))

theorem goes_execClearingEnd {lot s} : Goes s (execClearingEnd lot s) := by
  unfold execClearingEnd
  with_reducible repeat' first | exact Follows.refl _ | refine Goes.next ?_ | refine follows_wr ?_ | split | fail_if_no_progress refine Follows.mk ?_

theorem goes_execMemInval {vf all s} : Goes s (execMemInval vf all s) :=
  .next (.ite (follows_logErr (.refl s)) (follows_wr (follows_wr (follows_wr (.mk (.refl s))))))

theorem goes_execMemInvalDone {s} : Goes s (execMemInvalDone s) := .next (.ite (.refl s) (follows_wr (.refl s)))

theorem goes_execScrubRead {err s} : Goes s (execScrubRead err s) := by
  unfold execScrubRead
  refine .next (.ite (.refl s) ?_)
  extract_lets line m1 s1 m2 s2
  have h1 : Follows s s1 := .mk (.refl s)
  have h2 : Follows s s2 := by
    cases err with
    | none => exact h1
    | some e => exact .mk h1
  refine h1.ite ?_
  split
  · exact .fst (by assumption) (follows_senseAt h2)
  · have ht : Follows s _ := .fst (by assumption) (follows_senseAt h2)
    exact (follows_logErr ht).ite ht

theorem goes_execBucketRefill {s} : Goes s (execBucketRefill s) :=
  .next (follows_resumeFabric (Follows.foldl (follows_applyKind (.refl s)) fun _ _ hs => follows_putTokens hs))

theorem goes_execCxlMemRead {pa s} : Goes s (execCxlMemRead pa s) := by
  unfold execCxlMemRead
  with_reducible repeat' first
    | exact Follows.refl _ | refine Goes.next ?_ | refine follows_chargeHost ?_ | refine follows_emit ?_ | refine follows_logErr ?_
    | refine follows_senseAt ?_ | refine Follows.fst (by assumption) ?_ | split

theorem goes_execCxlMemWrite {pa data mask s} : Goes s (execCxlMemWrite pa data mask s) := by
  unfold execCxlMemWrite
  with_reducible repeat' first
    | exact Follows.refl _ | refine Goes.next ?_ | refine follows_chargeHost ?_ | refine follows_dramStore ?_ | refine follows_logErr ?_
    | refine follows_senseAt ?_ | refine Follows.fst (by assumption) ?_ | split

theorem goes_execDataFlit {port fseq ackSeq nak crcOk errs s} : Goes s (execDataFlit port fseq ackSeq nak crcOk errs s) :=
  .next (follows_settleFabric (follows_onFlit (.refl s) fun _ hs => .ite hs (follows_sendIdle (follows_putLink hs))))

theorem goes_execIdleFlit {port ackSeq nak crcOk errs s} : Goes s (execIdleFlit port ackSeq nak crcOk errs s) :=
  .next (follows_settleFabric (follows_onFlit (.refl s) fun _ hs => hs))

theorem goes_execCreditFlit {port ackSeq nak vc count crcOk errs s} : Goes s (execCreditFlit port ackSeq nak vc count crcOk errs s) :=
  .next (follows_settleFabric (follows_onFlit (.refl s) fun _ hs => follows_putLink hs))

theorem goes_execLinkSilence {port s} : Goes s (execLinkSilence port s) := .next (follows_settleFabric (follows_enterRetrain (.refl s)))

theorem goes_execRetrainTimeout {port lanesOk s} : Goes s (execRetrainTimeout port lanesOk s) := by
  unfold execRetrainTimeout
  with_reducible repeat' first
    | exact Follows.refl _ | refine Goes.next ?_ | refine Follows.ite ?_ ?_ | refine follows_setPort ?_ | refine follows_goDown ?_
    | refine follows_settleFabric ?_ | refine follows_putLink ?_ | refine follows_wr ?_ | split

theorem goes_execDownRetry {port s} : Goes s (execDownRetry port s) :=
  .next (.ite (.refl s) (follows_settleFabric (follows_emit (follows_setPort (follows_putLink (.refl s))))))

theorem goes_execCapabilityBlock {port block s} : Goes s (execCapabilityBlock port block s) := by
  unfold execCapabilityBlock
  with_reducible repeat' first
    | exact Follows.refl _ | assumption | refine Goes.next ?_ | refine Follows.ite ?_ ?_ | refine follows_setPort ?_ | refine follows_goDown ?_
    | refine follows_settleFabric ?_ | refine follows_emit ?_ | refine follows_putLink ?_ | refine follows_wr ?_
    | refine Follows.foldl ?_ fun s x hs => ?_ | split | fail_if_no_progress refine Follows.mk ?_

theorem goes_execLsa {m s} : Goes s (execLsa m s) := .next (follows_settleFabric (follows_onRequest (.refl s)))

end Sys2Proof.Machine
end

section
/-! SUPPORT. The same of lots, links, messages, time and radio requests. -/

namespace Sys2Proof.Machine

theorem goes_execRead {m s} : Goes s (execRead m s) := .next (follows_settleFabric (follows_onRequest (.refl s)))

theorem goes_execReadData {m s} : Goes s (execReadData m s) := by
  unfold execReadData
  with_reducible repeat' first
    | exact Follows.refl _ | assumption | refine Goes.next ?_ | refine follows_dataTo ?_ | refine follows_settleFabric ?_
    | refine follows_onAnswer ?_ fun s m hs => ?_ | split

theorem goes_execWrite {m s} : Goes s (execWrite m s) := .next (follows_settleFabric (follows_onRequest (.refl s)))

theorem goes_execAtomicMessage {m s} : Goes s (execAtomicMessage m s) := .next (follows_settleFabric (follows_onRequest (.refl s)))

theorem goes_execAtomicResult {m s} : Goes s (execAtomicResult m s) := by
  unfold execAtomicResult
  with_reducible repeat' first
    | exact Follows.refl _ | assumption | refine Goes.next ?_ | refine follows_resultTo ?_ | refine follows_settleFabric ?_
    | refine follows_onAnswer ?_ fun s m hs => ?_ | split

theorem goes_execReduceMessage {m s} : Goes s (execReduceMessage m s) := .next (follows_settleFabric (follows_onRequest (.refl s)))

theorem goes_execSignalMessage {m s} : Goes s (execSignalMessage m s) := .next (follows_settleFabric (follows_onRequest (.refl s)))

theorem goes_execMsg {m s} : Goes s (execMsg m s) := .next (follows_settleFabric (follows_onRequest (.refl s)))

theorem goes_execAck {m s} : Goes s (execAck m s) :=
  .next (follows_settleFabric (follows_onAnswer (.refl s) fun _ _ hs => Follows.foldl (follows_ackOne hs) fun _ _ hs => follows_ackOne hs))

theorem goes_execNak {m s} : Goes s (execNak m s) := by
  unfold execNak
  with_reducible repeat' first
    | exact Follows.refl _ | assumption | refine Goes.next ?_ | refine follows_nakTo ?_ | refine follows_settleFabric ?_
    | refine follows_onAnswer ?_ fun s m hs => ?_ | split

theorem goes_execDesc {m s} : Goes s (execDesc m s) := .next (follows_onColl (.refl s))

theorem goes_execCount {m s} : Goes s (execCount m s) := .next (follows_onColl (.refl s))

theorem goes_execVerdict {m s} : Goes s (execVerdict m s) := .next (follows_onColl (.refl s))

theorem goes_execData {m s} : Goes s (execData m s) := .next (follows_onColl (.refl s))

theorem goes_execAckVerified {m s} : Goes s (execAckVerified m s) := .next (follows_onColl (.refl s))

theorem goes_execRefetch {m s} : Goes s (execRefetch m s) := .next (follows_onColl (.refl s))

theorem goes_execAbort {m s} : Goes s (execAbort m s) := .next (follows_onColl (.refl s))

theorem goes_execResendTimer {mid s} : Goes s (execResendTimer mid s) := by
  unfold execResendTimer
  with_reducible repeat' first
    | exact Follows.refl _ | refine Goes.next ?_ | refine follows_settleFabric ?_ | refine follows_launch ?_ | refine follows_resend ?_ | split

theorem goes_execMessageLifetimeExpiry {srcNode cls seq s} : Goes s (execMessageLifetimeExpiry srcNode cls seq s) := by
  unfold execMessageLifetimeExpiry
  with_reducible repeat' first
    | exact Follows.refl _ | refine Goes.next ?_ | refine follows_discardMsg ?_ | split | fail_if_no_progress refine Follows.mk ?_

theorem goes_execDeadBound {mid s} : Goes s (execDeadBound mid s) := by
  unfold execDeadBound
  with_reducible repeat' first | exact Follows.refl _ | refine Goes.next ?_ | refine follows_settleOne ?_ | refine follows_settleFabric ?_ | split

theorem goes_execRoundTimeout {fn line round s} : Goes s (execRoundTimeout fn line round s) := by
  unfold execRoundTimeout
  with_reducible repeat' first
    | exact Follows.refl _ | assumption | refine Goes.next ?_ | refine follows_sendReply ?_ | refine follows_settleFabric ?_
    | refine follows_settleAt ?_ | refine Follows.foldl ?_ fun s x hs => ?_ | split | fail_if_no_progress refine Follows.mk ?_

theorem goes_execJeanoSAbort {node s} : Goes s (execJeanoSAbort node s) :=
  .next (.ite (follows_logErr (.refl s)) (follows_wr (follows_wr (.refl s))))

theorem goes_execSAbortSettle {s} : Goes s (execSAbortSettle s) :=
  .next (.ite (.refl s) (follows_wr (follows_loseMember (follows_settleFabric (Follows.foldl (.refl s) fun _ _ hs => follows_settleOne hs)))))

theorem goes_execMeteringTick {s} : Goes s (execMeteringTick s) := .next (Follows.foldl (follows_applyKind (.refl s)) fun _ _ hs => (.mk hs))

theorem goes_execQueueSample {depths delays s} : Goes s (execQueueSample depths delays s) :=
  .next (.ite (.refl s) (Follows.foldl (.refl s) fun _ _ hs => follows_bumpSat (follows_bumpSat hs)))

theorem goes_execJeanoSampleClear {s} : Goes s (execJeanoSampleClear s) :=
  .next (.ite (follows_logErr (.refl s)) (Follows.foldl (.refl s) fun _ _ hs => follows_wr hs))

theorem goes_execTimeMessage {m s} : Goes s (execTimeMessage m s) := by
  unfold execTimeMessage
  with_reducible repeat' first
    | exact Follows.refl _ | refine Goes.next ?_ | refine follows_emit ?_ | refine follows_showOffset ?_ | refine follows_steer ?_ | split

theorem goes_execReferenceLoss {s} : Goes s (execReferenceLoss s) :=
  .next (follows_timeLost (follows_healthCause (follows_wr (follows_wr (.refl s)))))

theorem goes_execReferenceReturn {s} : Goes s (execReferenceReturn s) := .next (follows_timeAcquire (follows_wr (.refl s)))

theorem goes_execTimeAddend {value manager s} : Goes s (execTimeAddend value manager s) :=
  .next (.ite (follows_logErr (.refl s)) (.ite (follows_logErr (.refl s)) (.ite (follows_logErr (.refl s)) (follows_wr (.refl s)))))

theorem goes_execTimeStep {value manager s} : Goes s (execTimeStep value manager s) := by
  unfold execTimeStep
  with_reducible repeat' first
    | exact Follows.refl _ | refine Goes.next ?_ | refine follows_applyStep ?_ | refine follows_logErr ?_ | split
    | fail_if_no_progress refine Follows.mk ?_

theorem goes_execSync {q domain origin s} : Goes s (execSync q domain origin s) := by
  unfold execSync
  with_reducible repeat' first | exact Follows.refl _ | refine Goes.next ?_ | refine follows_setPtp ?_ | refine follows_takeOrigin ?_ | split

theorem goes_execFollowUp {q domain origin s} : Goes s (execFollowUp q domain origin s) := .next (.ite (follows_takeOrigin (.refl s)) (.refl s))

theorem goes_execDelayReq {q domain s} : Goes s (execDelayReq q domain s) := .next (.ite (follows_emit (.refl s)) (.refl s))

theorem goes_execDelayResp {q domain received s} : Goes s (execDelayResp q domain received s) := by
  unfold execDelayResp
  with_reducible repeat' first
    | exact Follows.refl _ | refine Goes.next ?_ | refine follows_setPtp ?_ | refine follows_showOffset ?_ | refine follows_steer ?_ | split

theorem goes_execAnnounce {q domain dataset s} : Goes s (execAnnounce q domain dataset s) := .next (.ite (follows_setPtp (.refl s)) (.refl s))

theorem goes_execAnnounceTimeout {s} : Goes s (execAnnounceTimeout s) := .next (.ite (follows_sourceLost (.refl s)) (.refl s))

theorem goes_execEsmc {q level s} : Goes s (execEsmc q level s) :=
  .next (.ite (.refl s) (Follows.foldl (follows_wr (.refl s)) fun _ _ hs => .ite hs (follows_emit hs)))

theorem goes_execSourceLoss {s} : Goes s (execSourceLoss s) := .next (follows_sourceLost (.refl s))

theorem goes_execPpsLoss {s} : Goes s (execPpsLoss s) := .next (.ite (follows_sourceLost (.refl s)) (.refl s))

theorem goes_execLeaderLoss {s} : Goes s (execLeaderLoss s) := .next (.ite (follows_sourceLost (.refl s)) (.refl s))

theorem goes_execSourceReturn {s} : Goes s (execSourceReturn s) := .next (.ite (.refl s) (follows_timeAcquire (.mk (.refl s))))

theorem goes_execLockAchieved {s} : Goes s (execLockAchieved s) := .next (.ite (follows_timeReady (follows_setTimeSt (.mk (.refl s)))) (.refl s))

theorem goes_execHoldoverExpired {s} : Goes s (execHoldoverExpired s) := .next (.ite (follows_muteCells (follows_setTimeSt (.refl s))) (.refl s))

theorem goes_execTimestampPush {q id s} : Goes s (execTimestampPush q id s) := by
  unfold execTimestampPush
  with_reducible repeat' first
    | exact Follows.refl _ | refine Goes.next ?_ | refine Follows.ite ?_ ?_ | refine follows_bump ?_ | refine follows_wr ?_
    | fail_if_no_progress refine Follows.mk ?_

theorem goes_execTsqId {q s} : Goes s (execTsqId q s) := by
  unfold execTsqId
  with_reducible repeat' first | exact Follows.refl _ | refine Goes.next ?_ | refine follows_emit ?_ | refine follows_readWord ?_ | split

theorem goes_execTrigCommit {k group arm s} : Goes s (execTrigCommit k group arm s) := by
  unfold execTrigCommit
  with_reducible repeat' first
    | exact Follows.refl _ | refine Goes.next ?_ | refine follows_logErr ?_ | refine follows_settleTrig ?_ | refine follows_stageTrig ?_
    | refine follows_takeGroup ?_ | refine follows_wr ?_ | split

theorem goes_execCaptureEdge {input rising s} : Goes s (execCaptureEdge input rising s) := by
  unfold execCaptureEdge
  with_reducible repeat' first
    | exact Follows.refl _ | refine Goes.next ?_ | refine Follows.ite ?_ ?_ | refine follows_showOffset ?_ | refine follows_steer ?_
    | refine follows_wr ?_ | fail_if_no_progress refine Follows.mk ?_

theorem goes_execCapPop {input s} : Goes s (execCapPop input s) := by
  unfold execCapPop
  with_reducible repeat' first | exact Follows.refl _ | refine Goes.next ?_ | refine follows_emit ?_ | refine follows_readWord ?_ | split

theorem goes_execPpsOut {s} : Goes s (execPpsOut s) := .next (.ite (follows_emit (.mk (.refl s))) (.refl s))

theorem goes_execFapiReqTail {ring value s} : Goes s (execFapiReqTail ring value s) :=
  .next (.ite (follows_logErr (.refl s)) (.ite (follows_logErr (.refl s)) (.ite (follows_wr (.refl s)) (Follows.foldl (follows_wr (Follows.foldl
    (follows_wr (.refl s)) fun _ _ hs => follows_readFapiEntry hs)) fun _ _ hs => follows_coreEvent hs))))

theorem goes_execParamRequest {cell s} : Goes s (execParamRequest cell s) := .next (.ite (.refl s) (follows_p5Response (.refl s)))

theorem goes_execConfigRequest {cell tlvs s} : Goes s (execConfigRequest cell tlvs s) := by
  unfold execConfigRequest
  with_reducible repeat' first
    | exact Follows.refl _ | refine Goes.next ?_ | refine follows_p5Response ?_ | refine follows_wr ?_ | split
    | fail_if_no_progress refine Follows.mk ?_

theorem goes_execStartRequest {cell s} : Goes s (execStartRequest cell s) :=
  .next (.ite (.refl s) (.ite (follows_p5Response (.refl s)) (follows_p5Response (follows_wr (.mk (.refl s))))))

theorem goes_execStopRequest {cell s} : Goes s (execStopRequest cell s) :=
  .next (.ite (.refl s) (.ite (follows_p5Response (.refl s)) (follows_p5Response (follows_wr (.mk (.refl s))))))

theorem goes_execDlTtiRequest {ring cell sfn slot pdus s} : Goes s (execDlTtiRequest ring cell sfn slot pdus s) := .next (follows_p7 (.refl s))

theorem goes_execUlTtiRequest {ring cell sfn slot pdus s} : Goes s (execUlTtiRequest ring cell sfn slot pdus s) := .next (follows_p7 (.refl s))

theorem goes_execUlDciRequest {ring cell sfn slot pdus s} : Goes s (execUlDciRequest ring cell sfn slot pdus s) := .next (follows_p7 (.refl s))

theorem goes_execTxDataRequest {ring cell sfn slot pdus s} : Goes s (execTxDataRequest ring cell sfn slot pdus s) := .next (follows_p7 (.refl s))

theorem goes_execSlotIndication {cell sfn slot s} : Goes s (execSlotIndication cell sfn slot s) := by
  unfold execSlotIndication
  with_reducible repeat' first
    | exact Follows.refl _ | refine Goes.next ?_ | refine Follows.ite ?_ ?_ | refine follows_bump ?_ | refine follows_indicateCell ?_
    | refine follows_pruneSlots ?_ | split

theorem goes_execUplinkUPlane {cell frame s} : Goes s (execUplinkUPlane cell frame s) := by
  unfold execUplinkUPlane
  with_reducible repeat' first
    | exact Follows.refl _ | refine Goes.next ?_ | refine Follows.ite ?_ ?_ | refine follows_bump ?_ | refine follows_fhDiscard ?_
    | refine follows_fhReceived ?_ | split | fail_if_no_progress refine Follows.mk ?_

theorem goes_execReceivedCPlane {lport s} : Goes s (execReceivedCPlane lport s) := .next (follows_fhDiscard (follows_fhReceived (.refl s)))

theorem goes_execUnknownFrame {lport s} : Goes s (execUnknownFrame lport s) := .next (follows_fhDiscard (follows_fhReceived (.refl s)))

theorem goes_execOneWayDelay {lport id s} : Goes s (execOneWayDelay lport id s) := .next (follows_bump (follows_emit (follows_fhReceived (.refl s))))

theorem goes_execArpRequest {port addr s} : Goes s (execArpRequest port addr s) := .next (.ite (follows_emit (.refl s)) (.refl s))

theorem goes_execNeighborSolicitation {port addr s} : Goes s (execNeighborSolicitation port addr s) :=
  .next (.ite (follows_emit (.refl s)) (.refl s))

theorem goes_execSymbolRelease {cell sfn slot sym s} : Goes s (execSymbolRelease cell sfn slot sym s) := by
  unfold execSymbolRelease
  with_reducible repeat' first
    | exact Follows.refl _ | assumption | refine Goes.next ?_ | refine Follows.ite ?_ ?_ | refine follows_bump ?_ | refine follows_emit ?_
    | refine follows_fillTokens ?_ | refine follows_indicateCell ?_ | refine follows_buildFrames ?_ | refine follows_sendFrames ?_
    | refine Follows.foldlFst ?_ fun p x hp => ?_ | split | fail_if_no_progress refine Follows.mk ?_

theorem goes_execTransmitWindowEnd {cell sfn slot sym s} : Goes s (execTransmitWindowEnd cell sfn slot sym s) := by
  unfold execTransmitWindowEnd
  with_reducible repeat' first
    | exact Follows.refl _ | assumption | refine Goes.next ?_ | refine Follows.ite ?_ ?_ | refine follows_coreComplete ?_
    | refine follows_fillTokens ?_ | refine follows_radioLate ?_ | refine follows_sendFrames ?_ | refine Follows.foldl ?_ fun s x hs => ?_ | split
    | fail_if_no_progress refine Follows.mk ?_

theorem goes_execReceptionWindowClose {cell sfn slot sym s} : Goes s (execReceptionWindowClose cell sfn slot sym s) := by
  unfold execReceptionWindowClose
  with_reducible repeat' first | exact Follows.refl _ | refine Goes.next ?_ | refine follows_slotEvent ?_ | split

theorem goes_execDecodeRelease {mu sfn slot s} : Goes s (execDecodeRelease mu sfn slot s) :=
  .next (.ite (.refl s) (Follows.foldl (.ite (follows_bump (follows_raiseTo (.refl s))) (follows_raiseTo (.refl s))) fun _ _ hs =>
    follows_markCapped hs))

theorem goes_execIndicationDeadline {cell sfn slot affected s} : Goes s (execIndicationDeadline cell sfn slot affected s) :=
  .next (.ite (.refl s) (.ite (.mk (.refl s)) (.mk (follows_bump (.refl s)))))

theorem goes_execLdpcDec {engine s} : Goes s (execLdpcDec engine s) := .next (follows_engineTakes (.refl s))

theorem goes_execLdpcEnc {engine s} : Goes s (execLdpcEnc engine s) := .next (follows_engineTakes (.refl s))

theorem goes_execPolarDec {engine s} : Goes s (execPolarDec engine s) := .next (follows_engineTakes (.refl s))

theorem goes_execPolarEnc {engine s} : Goes s (execPolarEnc engine s) := .next (follows_engineTakes (.refl s))

theorem goes_execNop {core last s} : Goes s (execNop core last s) := .next (follows_plainSlot (.refl s))

theorem goes_execAdd {core gd ga gb sat last s} : Goes s (execAdd core gd ga gb sat last s) := .next (follows_salu (.refl s))

theorem goes_execSub {core gd ga gb sat last s} : Goes s (execSub core gd ga gb sat last s) := .next (follows_salu (.refl s))

theorem goes_execAnd {core gd ga gb _sat last s} : Goes s (execAnd core gd ga gb _sat last s) := .next (follows_salu (.refl s))

theorem goes_execOr {core gd ga gb _sat last s} : Goes s (execOr core gd ga gb _sat last s) := .next (follows_salu (.refl s))

theorem goes_execXor {core gd ga gb _sat last s} : Goes s (execXor core gd ga gb _sat last s) := .next (follows_salu (.refl s))

theorem goes_execShl {core gd ga gb sat last s} : Goes s (execShl core gd ga gb sat last s) := .next (follows_drawnIf (follows_salu (.refl s)))

theorem goes_execShr {core gd ga gb _sat last s} : Goes s (execShr core gd ga gb _sat last s) := .next (follows_drawnIf (follows_salu (.refl s)))

theorem goes_execShru {core gd ga gb _sat last s} : Goes s (execShru core gd ga gb _sat last s) := .next (follows_drawnIf (follows_salu (.refl s)))

theorem goes_execMin {core gd ga gb _sat last s} : Goes s (execMin core gd ga gb _sat last s) := .next (follows_salu (.refl s))

theorem goes_execMax {core gd ga gb _sat last s} : Goes s (execMax core gd ga gb _sat last s) := .next (follows_salu (.refl s))

end Sys2Proof.Machine
end

section
/-! SUPPORT. The same of the radio's windows and the Chisel cores. -/

namespace Sys2Proof.Machine

theorem goes_execSlt {core gd ga gb _sat last s} : Goes s (execSlt core gd ga gb _sat last s) := .next (follows_salu (.refl s))

theorem goes_execSltu {core gd ga gb _sat last s} : Goes s (execSltu core gd ga gb _sat last s) := .next (follows_salu (.refl s))

theorem goes_execMul {core gd ga gb sat last s} : Goes s (execMul core gd ga gb sat last s) := .next (follows_salu (.refl s))

theorem goes_execMulh {core gd ga gb _sat last s} : Goes s (execMulh core gd ga gb _sat last s) := .next (follows_salu (.refl s))

theorem goes_execAddi {core gd ga imm last s} : Goes s (execAddi core gd ga imm last s) := .next (follows_salui (.refl s))

theorem goes_execAndi {core gd ga imm last s} : Goes s (execAndi core gd ga imm last s) := .next (follows_salui (.refl s))

theorem goes_execOri {core gd ga imm last s} : Goes s (execOri core gd ga imm last s) := .next (follows_salui (.refl s))

theorem goes_execXori {core gd ga imm last s} : Goes s (execXori core gd ga imm last s) := .next (follows_salui (.refl s))

theorem goes_execShli {core gd ga imm last s} : Goes s (execShli core gd ga imm last s) := .next (follows_drawnIf (follows_salui (.refl s)))

theorem goes_execShri {core gd ga imm last s} : Goes s (execShri core gd ga imm last s) := .next (follows_drawnIf (follows_salui (.refl s)))

theorem goes_execShrui {core gd ga imm last s} : Goes s (execShrui core gd ga imm last s) := .next (follows_drawnIf (follows_salui (.refl s)))

theorem goes_execLui {core gd imm last s} : Goes s (execLui core gd imm last s) := .next (follows_plainSlot (.refl s))

theorem goes_execB {core off last s} : Goes s (execB core off last s) := .next (follows_controlSlot (.refl s))

theorem goes_execBeqz {core ga off last s} : Goes s (execBeqz core ga off last s) := .next (follows_branchIf (.refl s))

theorem goes_execBnez {core ga off last s} : Goes s (execBnez core ga off last s) := .next (follows_branchIf (.refl s))

theorem goes_execBltz {core ga off last s} : Goes s (execBltz core ga off last s) := .next (follows_branchIf (.refl s))

theorem goes_execBgez {core ga off last s} : Goes s (execBgez core ga off last s) := .next (follows_branchIf (.refl s))

theorem goes_execBgtz {core ga off last s} : Goes s (execBgtz core ga off last s) := .next (follows_branchIf (.refl s))

theorem goes_execBlez {core ga off last s} : Goes s (execBlez core ga off last s) := .next (follows_branchIf (.refl s))

theorem goes_execCall {core off last s} : Goes s (execCall core off last s) := .next (follows_controlSlot (.refl s))

theorem goes_execJr {core ga last s} : Goes s (execJr core ga last s) := .next (follows_controlSlot (.refl s))

theorem goes_execRti {core last s} : Goes s (execRti core last s) := .next (follows_controlSlot (.refl s))

theorem goes_execLoop {core level gs lend last s} : Goes s (execLoop core level gs lend last s) := .next (follows_controlSlot (.refl s))

theorem goes_execLoopi {core level count lend last s} : Goes s (execLoopi core level count lend last s) := .next (follows_controlSlot (.refl s))

theorem goes_execMfs {core gd num last s} : Goes s (execMfs core gd num last s) := .next (follows_issueSlot (.refl s))

theorem goes_execMts {core ga num last s} : Goes s (execMts core ga num last s) := .next (follows_issueSlot (.refl s))

theorem goes_execPostSieve {core a units last s} : Goes s (execPostSieve core a units last s) := .next (follows_postSlot (.refl s))

theorem goes_execPostRadioCmd {core a units last s} : Goes s (execPostRadioCmd core a units last s) := .next (follows_postSlot (.refl s))

theorem goes_execPostMbox {core a units last s} : Goes s (execPostMbox core a units last s) := .next (follows_postSlot (.refl s))

theorem goes_execPostFhTx {core a units last s} : Goes s (execPostFhTx core a units last s) := .next (follows_postSlot (.refl s))

theorem goes_execPostFapiInd {core a units last s} : Goes s (execPostFapiInd core a units last s) := .next (follows_postSlot (.refl s))

theorem goes_execPortQueueEntryFreed {core s} : Goes s (execPortQueueEntryFreed core s) := .next (follows_tryPost (.refl s))

theorem goes_execWait {core ga last s} : Goes s (execWait core ga last s) := .next (follows_controlSlot (.refl s))

theorem goes_execWaitEnd {core s} : Goes s (execWaitEnd core s) := .next (.ite (follows_endWait (.refl s)) (.refl s))

theorem goes_execEvset {core last s} : Goes s (execEvset core last s) := .next (follows_plainSlot (.refl s))

theorem goes_execLd16 {core y g a post off last s} : Goes s (execLd16 core y g a post off last s) := .next (follows_loadSlot (.refl s))

theorem goes_execLd32 {core y g a post off last s} : Goes s (execLd32 core y g a post off last s) := .next (follows_loadSlot (.refl s))

theorem goes_execLdv {core y v a post off last s} : Goes s (execLdv core y v a post off last s) := .next (follows_loadSlot (.refl s))

theorem goes_execLdbc {core y v a post off last s} : Goes s (execLdbc core y v a post off last s) := .next (follows_loadSlot (.refl s))

theorem goes_execSt16 {core y g a post off last s} : Goes s (execSt16 core y g a post off last s) := .next (follows_storeSlot (.refl s))

theorem goes_execSt32 {core y g a post off last s} : Goes s (execSt32 core y g a post off last s) := .next (follows_storeSlot (.refl s))

theorem goes_execStv {core y v a post off last s} : Goes s (execStv core y v a post off last s) := .next (follows_storeSlot (.refl s))

theorem goes_execMova {core ga a last s} : Goes s (execMova core ga a last s) := .next (follows_plainSlot (.refl s))

theorem goes_execAdda {core a off last s} : Goes s (execAdda core a off last s) := .next (follows_plainSlot (.refl s))

theorem goes_execMfa {core gd a last s} : Goes s (execMfa core gd a last s) := .next (follows_plainSlot (.refl s))

theorem goes_execVadd {core vd va vb sat last s} : Goes s (execVadd core vd va vb sat last s) := .next (follows_vec2 (.refl s))

theorem goes_execVsub {core vd va vb sat last s} : Goes s (execVsub core vd va vb sat last s) := .next (follows_vec2 (.refl s))

theorem goes_execVand {core vd va vb last s} : Goes s (execVand core vd va vb last s) := .next (follows_vecBits (.refl s))

theorem goes_execVor {core vd va vb last s} : Goes s (execVor core vd va vb last s) := .next (follows_vecBits (.refl s))

theorem goes_execVxor {core vd va vb last s} : Goes s (execVxor core vd va vb last s) := .next (follows_vecBits (.refl s))

theorem goes_execVshl {core vd va sh sat last s} : Goes s (execVshl core vd va sh sat last s) := .next (follows_plainSlot (.refl s))

theorem goes_execVshr {core vd va sh sat last s} : Goes s (execVshr core vd va sh sat last s) := .next (follows_plainSlot (.refl s))

theorem goes_execVmax {core vd va vb last s} : Goes s (execVmax core vd va vb last s) := .next (follows_vec2 (.refl s))

theorem goes_execVmin {core vd va vb last s} : Goes s (execVmin core vd va vb last s) := .next (follows_vec2 (.refl s))

theorem goes_execVabs {core vd va sat last s} : Goes s (execVabs core vd va sat last s) := .next (follows_plainSlot (.refl s))

theorem goes_execVneg {core vd va sat last s} : Goes s (execVneg core vd va sat last s) := .next (follows_plainSlot (.refl s))

theorem goes_execVaddw {core vd va vb sat last s} : Goes s (execVaddw core vd va vb sat last s) := .next (follows_issueSlot (.refl s))

theorem goes_execVsubw {core vd va vb sat last s} : Goes s (execVsubw core vd va vb sat last s) := .next (follows_issueSlot (.refl s))

theorem goes_execVmul {core vd va vb sh sat last s} : Goes s (execVmul core vd va vb sh sat last s) := .next (follows_plainSlot (.refl s))

theorem goes_execVmac {core vd va vb sh sat last s} : Goes s (execVmac core vd va vb sh sat last s) := .next (follows_plainSlot (.refl s))

theorem goes_execVmacw {core vd va vb sh sat last s} : Goes s (execVmacw core vd va vb sh sat last s) := .next (follows_issueSlot (.refl s))

theorem goes_execVcmul {core vd va vb sh sat conj last s} : Goes s (execVcmul core vd va vb sh sat conj last s) :=
  .next (follows_plainSlot (.refl s))

theorem goes_execVcmac {core vd va vb sh sat conj last s} : Goes s (execVcmac core vd va vb sh sat conj last s) :=
  .next (follows_plainSlot (.refl s))

theorem goes_execVcmacw {core vd va vb sh sat conj last s} : Goes s (execVcmacw core vd va vb sh sat conj last s) :=
  .next (follows_issueSlot (.refl s))

theorem goes_execVmov {core vd va last s} : Goes s (execVmov core vd va last s) := .next (follows_plainSlot (.refl s))

theorem goes_execVbcast {core vd ga last s} : Goes s (execVbcast core vd ga last s) := .next (follows_plainSlot (.refl s))

theorem goes_execVperm {core vd va vb last s} : Goes s (execVperm core vd va vb last s) := .next (follows_plainSlot (.refl s))

theorem goes_execVnrw {core vd va sh sat last s} : Goes s (execVnrw core vd va sh sat last s) := .next (follows_issueSlot (.refl s))

theorem goes_execVzero {core vd last s} : Goes s (execVzero core vd last s) := .next (follows_plainSlot (.refl s))

theorem goes_execInterruptEntry {core s} : Goes s (execInterruptEntry core s) :=
  .ite (.next (.refl s)) (.next (.ite (follows_coreFault (follows_putCore (.ite (follows_endWait (.refl s)) (.refl s)))) (follows_showCore
    (follows_putCore (.ite (follows_endWait (.refl s)) (.refl s))))))

theorem goes_execTcmp {core s} : Goes s (execTcmp core s) := .next (.ite (follows_showCore (follows_putCore (.refl s))) (.refl s))

theorem goes_execCompletionEntry {core s} : Goes s (execCompletionEntry core s) :=
  .next (.ite (follows_tryPost (follows_showCore (follows_putCore (.refl s)))) (.refl s))

theorem goes_execWatchdog {core s} : Goes s (execWatchdog core s) := .next (.ite (follows_coreFault (.refl s)) (.refl s))

theorem goes_execCoreRestart {core s} : Goes s (execCoreRestart core s) := by
  unfold execCoreRestart
  with_reducible repeat' first
    | exact Follows.refl _ | refine Goes.next ?_ | refine follows_bumpSat ?_ | refine follows_putCore ?_ | refine follows_showCore ?_
    | refine follows_wr ?_ | split

theorem goes_execL1ImageLoad {idx s} : Goes s (execL1ImageLoad idx s) := by
  unfold execL1ImageLoad
  with_reducible repeat' first
    | exact Follows.refl _ | assumption | refine Goes.next ?_ | refine follows_fnSet ?_ | refine follows_l1Fail ?_ | refine follows_measure ?_
    | refine follows_putCore ?_ | refine follows_radioReady ?_ | refine follows_showCore ?_ | refine follows_wr ?_
    | refine Follows.foldl ?_ fun s x hs => ?_ | split | dsimp only | fail_if_no_progress refine Follows.mk ?_

theorem goes_execRoeRxPacket {stream sfn seq native samples s} : Goes s (execRoeRxPacket stream sfn seq native samples s) := by
  unfold execRoeRxPacket
  with_reducible repeat' first
    | exact Follows.refl _ | refine Goes.next ?_ | refine Follows.ite ?_ ?_ | refine follows_bump ?_ | split
    | fail_if_no_progress refine Follows.mk ?_

theorem goes_execTxPacket {stream sfn seq ready s} : Goes s (execTxPacket stream sfn seq ready s) := by
  unfold execTxPacket
  with_reducible repeat' first
    | exact Follows.refl _ | refine Goes.next ?_ | refine Follows.ite ?_ ?_ | refine follows_bump ?_ | refine follows_emit ?_
    | refine follows_radioLate ?_ | refine follows_streamEvent ?_ | split

theorem goes_execRxSymbol {stream sfn slot sym s} : Goes s (execRxSymbol stream sfn slot sym s) := by
  unfold execRxSymbol
  with_reducible repeat' first
    | exact Follows.refl _ | refine Goes.next ?_ | refine follows_bump ?_ | refine follows_drawn ?_ | refine follows_streamEvent ?_ | split
    | fail_if_no_progress refine Follows.mk ?_

theorem goes_execMaskBlock {stream powers s} : Goes s (execMaskBlock stream powers s) := by
  unfold execMaskBlock
  with_reducible repeat' first
    | exact Follows.refl _ | assumption | refine Goes.next ?_ | refine Follows.ite ?_ ?_ | refine follows_applySnap ?_ | refine follows_bump ?_
    | refine follows_healthCause ?_ | refine follows_streamEvent ?_ | refine follows_wr ?_ | refine Follows.foldl ?_ fun s x hs => ?_ | split
    | fail_if_no_progress refine Follows.mk ?_

theorem goes_execUnmute {stream s} : Goes s (execUnmute stream s) :=
  .next (follows_whenReached (.refl s) fun _ hs => .ite (follows_logErr hs) (.ite hs (follows_wr hs)))

theorem goes_execChirpDetect {channel sf hit s} : Goes s (execChirpDetect channel sf hit s) :=
  .next (.ite (.refl s) (.ite (follows_bump (.refl s)) (.ite (follows_bump (.refl s)) (.mk (.refl s)))))

theorem goes_execPacketEnd {channel sf pkt room s} : Goes s (execPacketEnd channel sf pkt room s) := by
  unfold execPacketEnd
  with_reducible repeat' first
    | exact Follows.refl _ | refine Goes.next ?_ | refine Follows.ite ?_ ?_ | refine follows_bump ?_ | refine follows_chirpEvent ?_
    | refine follows_radioWrite ?_ | split | fail_if_no_progress refine Follows.mk ?_

theorem goes_execNoiseFloor {channel idle s} : Goes s (execNoiseFloor channel idle s) := by
  unfold execNoiseFloor
  with_reducible repeat' first | exact Follows.refl _ | refine Goes.next ?_ | refine Follows.ite ?_ ?_ | refine follows_wr ?_ | split

theorem goes_execChirpTxRingRead {tail s} : Goes s (execChirpTxRingRead tail s) :=
  .next (.ite (.refl s) (.mk (Follows.foldl (.refl s) fun _ _ hs => follows_chirpTxEntry (follows_radioRead hs))))

theorem goes_execChirpTxDone {channel tag s} : Goes s (execChirpTxDone channel tag s) := by
  unfold execChirpTxDone
  with_reducible repeat' first
    | exact Follows.refl _ | refine Goes.next ?_ | refine follows_chirpEvent ?_ | split | fail_if_no_progress refine Follows.mk ?_

theorem goes_execNumVfs {n s} : Goes s (execNumVfs n s) :=
  .next (.ite (follows_logErr (.refl s)) (.ite (follows_logErr (.refl s)) (.ite (follows_applyNumVfs (.refl s)) (.mk (.refl s)))))

end Sys2Proof.Machine
end

section
/-! SUPPORT. The same of tenants, security, power and health. -/

namespace Sys2Proof.Machine

theorem goes_execStop {fn s} : Goes s (execStop fn s) :=
  .next (follows_onVf (.refl s) fun _ hs => .ite (follows_wr (follows_setVf hs)) (.ite hs (follows_ctlRefuse hs)))

theorem goes_execStopClear {fn s} : Goes s (execStopClear fn s) :=
  .next (follows_onVf (.refl s) fun _ hs => .ite (follows_vfActive hs) (.ite (follows_ctlRefuse hs) hs))

theorem goes_execQuiesced {fn s} : Goes s (execQuiesced fn s) := .next (.ite (follows_setVf (.refl s)) (.refl s))

theorem goes_execReset {fn s} : Goes s (execReset fn s) :=
  .next (follows_onVf (.refl s) fun _ hs => .ite (follows_resetActions hs) (follows_ctlRefuse hs))

theorem goes_execForceReset {fn s} : Goes s (execForceReset fn s) := .next (follows_onVf (.refl s) fun _ hs => follows_forceWith hs)

theorem goes_execFlr {fn s} : Goes s (execFlr fn s) := .next (.ite (.refl s) (follows_forceWith (.refl s)))

theorem goes_execForcedResetDone {fn s} : Goes s (execForcedResetDone fn s) := by
  unfold execForcedResetDone
  with_reducible repeat' first
    | exact Follows.refl _ | refine Goes.next ?_ | refine follows_resetActions ?_ | refine follows_freshKey ?_ | refine follows_releaseLots ?_
    | refine follows_setVf ?_ | split | fail_if_no_progress refine Follows.mk ?_

theorem goes_execFreeze {fn s} : Goes s (execFreeze fn s) :=
  .next (follows_onVf (.refl s) fun _ hs => .ite (follows_emptyBenches (follows_wr (follows_setVf hs))) (follows_ctlRefuse hs))

theorem goes_execFrozen {fn s} : Goes s (execFrozen fn s) :=
  .next (.ite (.refl s) (.ite (follows_wr (follows_setVf (.refl s))) (follows_emptyBenches (.refl s))))

theorem goes_execResume {fn s} : Goes s (execResume fn s) :=
  .next (follows_onVf (.refl s) fun _ hs => .ite (follows_vfActive hs) (follows_ctlRefuse hs))

theorem goes_execSaveLive {s} : Goes s (execSaveLive s) := by
  unfold execSaveLive
  with_reducible repeat' first
    | exact Follows.refl _ | refine Goes.next ?_ | refine follows_drawn ?_ | refine follows_migOpen ?_ | refine follows_saveImage ?_ | split
    | dsimp only | fail_if_no_progress refine Follows.mk ?_

theorem goes_execSaveFinal {s} : Goes s (execSaveFinal s) := by
  unfold execSaveFinal
  with_reducible repeat' first | exact Follows.refl _ | refine Goes.next ?_ | refine follows_migOpen ?_ | refine follows_saveImage ?_ | split

theorem goes_execRestore {s} : Goes s (execRestore s) := by
  unfold execRestore
  extract_lets d f
  refine .next (.ite (.refl s) (.ite (follows_migOpen (.refl s)) ?_))
  split
  · exact follows_migOpen (.refl s)
  rename_i hbad
  have hf : f ≤ 512 := fn_le_of_migBad (Bool.eq_false_iff.2 fun h => hbad (.inl h))
  with_reducible repeat' first
    | assumption | exact .refl s | refine Follows.ite ?_ ?_ | refine follows_migOpen ?_ | refine follows_loadLots ?_ | refine follows_loadRegions ?_
    | refine follows_loadState ?_ (by assumption) | refine follows_showFn ?_ | refine Follows.fst (by assumption) ?_ | refine follows_migRead ?_
    | split | dsimp only | fail_if_no_progress refine Follows.mk ?_

theorem goes_execMigrationComplete {s} : Goes s (execMigrationComplete s) := by
  unfold execMigrationComplete
  with_reducible repeat' first | exact Follows.refl _ | refine Goes.next ?_ | refine follows_wr ?_ | split | fail_if_no_progress refine Follows.mk ?_

theorem goes_execTenantSample {s} : Goes s (execTenantSample s) :=
  .next (.ite (.refl s) (Follows.foldl (.refl s) fun _ _ hs => follows_sampleQueue hs))

theorem goes_execTenSampleClear {s} : Goes s (execTenSampleClear s) :=
  .next (.ite (follows_logErr (.refl s)) (Follows.foldl (.refl s) fun _ _ hs => .ite hs (follows_wr hs)))

theorem goes_execMrExtend {s} : Goes s (execMrExtend s) := .next (.ite (follows_wr (.refl s)) (follows_wr (follows_mrExtend (.refl s))))

theorem goes_execAttest {s} : Goes s (execAttest s) :=
  .next (.ite (.refl s) (.ite (follows_wr (follows_wr (.refl s))) (.ite (follows_wr (follows_wr (.refl s))) (.ite (follows_wr (follows_wr (.refl
    s))) (.ite (follows_wr (.mk (.refl s))) (follows_wr (follows_wr (.mk (.refl s)))))))))

theorem goes_execAttestationReport {s} : Goes s (execAttestationReport s) := by
  unfold execAttestationReport
  with_reducible repeat' first
    | exact Follows.refl _ | refine Goes.next ?_ | refine follows_dramStore ?_ | refine follows_drawn ?_ | refine follows_wr ?_ | split
    | fail_if_no_progress refine Follows.mk ?_

theorem goes_execKeyDelivery {s} : Goes s (execKeyDelivery s) := by
  unfold execKeyDelivery
  with_reducible repeat' first
    | exact Follows.refl _ | refine Goes.next ?_ | refine follows_wr ?_ | refine follows_readRuns ?_ | refine Follows.fst (by assumption) ?_ | split
    | fail_if_no_progress refine Follows.mk ?_

theorem goes_execKeyInstall {s} : Goes s (execKeyInstall s) := by
  unfold execKeyInstall
  with_reducible repeat' first
    | exact Follows.refl _ | refine Goes.next ?_ | refine follows_setKey ?_ | refine follows_wr ?_ | split
    | fail_if_no_progress refine Follows.mk ?_

theorem goes_execDebugChallenge {s} : Goes s (execDebugChallenge s) := .next (follows_drawn (follows_wr (.mk (.refl s))))

theorem goes_execDebugToken {s} : Goes s (execDebugToken s) := by
  unfold execDebugToken
  with_reducible repeat' first
    | exact Follows.refl _ | refine Goes.next ?_ | refine follows_measure ?_ | refine follows_raiseTo ?_ | refine follows_wr ?_
    | refine follows_readRuns ?_ | refine Follows.fst (by assumption) ?_ | split | fail_if_no_progress refine Follows.mk ?_

theorem goes_execSvnCommit {ok1 ok2 ok3 ok4 s} : Goes s (execSvnCommit ok1 ok2 ok3 ok4 s) :=
  .next (follows_recWrite (follows_recWrite (follows_mrExtend (follows_raiseTo (follows_raiseTo (follows_raiseTo (.refl s)))))))

theorem goes_execResetNAssert {s} : Goes s (execResetNAssert s) := .next (follows_resetLow (.refl s))

theorem goes_execResetNRelease {s} : Goes s (execResetNRelease s) := .next (follows_resetHigh (.refl s))

theorem goes_execFirmwareVerify {s} : Goes s (execFirmwareVerify s) := by
  unfold execFirmwareVerify
  with_reducible repeat' first
    | exact Follows.refl _ | refine Goes.next ?_ | refine follows_loadRecord ?_ | refine follows_measure ?_ | refine follows_restrict ?_
    | refine follows_wr ?_ | split | dsimp only

theorem goes_execIdentityDerive {s} : Goes s (execIdentityDerive s) := by
  unfold execIdentityDerive
  with_reducible repeat' first
    | exact Follows.refl _ | refine Goes.next ?_ | refine follows_fnSet ?_ | refine follows_restrict ?_ | refine follows_settle ?_
    | refine follows_wr ?_ | split | fail_if_no_progress refine Follows.mk ?_

theorem goes_execGradeRecordVerify {grade s} : Goes s (execGradeRecordVerify grade s) := by
  unfold execGradeRecordVerify
  with_reducible repeat' first
    | exact Follows.refl _ | refine Goes.next ?_ | refine follows_fnSet ?_ | refine follows_loadGrade ?_ | refine follows_measure ?_
    | refine follows_restrict ?_ | refine follows_settle ?_ | refine follows_wr ?_ | split

theorem goes_execImageVerify {a b s} : Goes s (execImageVerify a b s) := by
  unfold execImageVerify
  with_reducible repeat' first
    | exact Follows.refl _ | refine Goes.next ?_ | refine follows_imageReady ?_ | refine follows_loadSections ?_ | refine follows_measure ?_
    | refine follows_restrict ?_ | refine follows_wr ?_ | refine follows_wrAll ?_ | split

theorem goes_execFunctionReady {idx fail aux s} : Goes s (execFunctionReady idx fail aux s) := by
  unfold execFunctionReady
  with_reducible repeat' first
    | exact Follows.refl _ | refine Goes.next ?_ | refine follows_fnSet ?_ | refine follows_onFail ?_ | refine follows_onReady ?_
    | refine follows_settle ?_ | split

theorem goes_execSurveyMeasurement {item s} : Goes s (execSurveyMeasurement item s) :=
  .next (.ite (.refl s) (follows_settle (follows_feedItem (.ite (follows_wr (.ite (follows_wr (.mk (.refl s))) (.mk (.refl s)))) (.ite (follows_wr
    (.mk (.refl s))) (.mk (.refl s)))))))

theorem goes_execCoolingStep {kd tau theta s} : Goes s (execCoolingStep kd tau theta s) :=
  .next (.ite (.refl s) (follows_itemDone (follows_useModel (follows_recMark (.mk (.refl s))))))

theorem goes_execConfigurationLock {manager s} : Goes s (execConfigurationLock manager s) :=
  .next (.ite (follows_logErr (.refl s)) (.ite (follows_takeLock (.ite (.mk (.refl s)) (.refl s))) (.ite (.mk (.refl s)) (.refl s))))

theorem goes_execCfgCommit {s} : Goes s (execCfgCommit s) := .next (.ite (follows_logErr (.refl s)) (follows_commitGroup (.refl s)))

theorem goes_execStagedApply {kind damaged s} : Goes s (execStagedApply kind damaged s) :=
  .next (.ite (Follows.foldl (follows_applyKind (.mk (.refl s))) fun _ _ hs => follows_trimPart hs) (follows_applyKind (.mk (.refl s))))

theorem goes_execNvmRead {s} : Goes s (execNvmRead s) := by
  unfold execNvmRead
  with_reducible repeat' first | exact Follows.refl _ | refine Goes.next ?_ | refine follows_nvmDeliver ?_ | refine follows_nvmDone ?_ | split

theorem goes_execNvmErase {s} : Goes s (execNvmErase s) := by
  unfold execNvmErase
  with_reducible repeat' first
    | exact Follows.refl _ | refine Goes.next ?_ | refine follows_nvmDone ?_ | split | fail_if_no_progress refine Follows.mk ?_

theorem goes_execNvmProgram {s} : Goes s (execNvmProgram s) := by
  unfold execNvmProgram
  with_reducible repeat' first
    | exact Follows.refl _ | refine Goes.next ?_ | refine Follows.ite ?_ ?_ | refine follows_nvmDone ?_ | split
    | fail_if_no_progress refine Follows.mk ?_

theorem goes_execReadyNext {fw img ok1 ok2 s} : Goes s (execReadyNext fw img ok1 ok2 s) :=
  .next (follows_recWrite (follows_wr (follows_wr (.refl s))))

theorem goes_execReadyRestart {key s} : Goes s (execReadyRestart key s) := .next (.ite (follows_resetHigh (follows_resetLow (.refl s))) (.refl s))

theorem goes_execPersistentRecordWrite {ok1 ok2 s} : Goes s (execPersistentRecordWrite ok1 ok2 s) :=
  .next (.ite (.refl s) (.ite (.ite (follows_recWrite (.refl s)) (.refl s)) (.ite (follows_recWrite (.refl s)) (.ite (follows_recWrite (.mk (.refl
    s))) (.ite (follows_recWrite (.mk (.refl s))) (.refl s))))))

theorem goes_execConversionStart {s} : Goes s (execConversionStart s) :=
  .next (.ite (.refl s) (.ite (.mk (.refl s)) (follows_startSeq (.mk (.refl s)))))

theorem goes_execInputLoss {high s} : Goes s (execInputLoss high s) :=
  .next (.ite (.refl s) (.ite (follows_wr (follows_notifyMgmt (follows_drawn (follows_faultRecord (Follows.foldl (.mk (follows_stopUnits (.refl
    s))) fun _ _ hs => follows_wr hs))))) (follows_notifyMgmt (follows_drawn (follows_faultRecord (Follows.foldl (.mk (follows_stopUnits (.refl
    s))) fun _ _ hs => follows_wr hs))))))

theorem goes_execHoldupDischarge {s} : Goes s (execHoldupDischarge s) :=
  .next (.ite (.refl s) (.ite (follows_coldState (.mk (follows_drawn (follows_wr (follows_wr (.refl s)))))) (.mk (follows_drawn (follows_wr
    (follows_wr (.refl s)))))))

theorem goes_execHoldReady {capUf s} : Goes s (execHoldReady capUf s) :=
  .next (.ite (.refl s) (.ite (follows_showRecordOk (follows_wr (follows_wr (.refl s)))) (follows_showRecordOk (follows_wr (follows_wr (follows_wr
    (follows_wr (.refl s))))))))

theorem goes_execPowerMeasure {mv w cables s} : Goes s (execPowerMeasure mv w cables s) :=
  .next (.ite (.refl s) (Follows.foldl (follows_raiseTo (follows_raiseTo (Follows.foldl (.mk (.refl s)) fun _ _ hs => follows_wr hs))) fun _ _
    hs => .ite (follows_cableSample hs) hs))

theorem goes_execPaceUpdate {p s} : Goes s (execPaceUpdate p s) := .next (.ite (follows_showPace (.mk (.refl s))) (.refl s))

theorem goes_execLadderRequest {s} : Goes s (execLadderRequest s) := .next (.ite (follows_wr (.mk (.refl s))) (.refl s))

theorem goes_execTrip {cause s} : Goes s (execTrip cause s) :=
  .next (.ite (.refl s) (.mk (follows_recMark (follows_wr (follows_healthCause (follows_wr (Follows.foldl (follows_stopUnits (follows_notifyMgmt
    (.refl s))) fun _ _ hs => follows_wr hs)))))))

theorem goes_execPwmWatchdog {s} : Goes s (execPwmWatchdog s) := .next (.ite (Follows.foldl (.refl s) fun _ _ hs => follows_wr hs) (.refl s))

theorem goes_execCableFaultTrip {port s} : Goes s (execCableFaultTrip port s) :=
  .next (.ite (.refl s) (.ite (follows_healthCause (follows_wr (follows_bumpSat (follows_wr (.mk (.refl s)))))) (follows_wr (follows_bumpSat
    (follows_wr (.mk (.refl s)))))))

theorem goes_execCableRetry {port s} : Goes s (execCableRetry port s) := .next (.ite (follows_wr (.refl s)) (.refl s))

theorem goes_execCableProbe {port probe s} : Goes s (execCableProbe port probe s) := .next (.ite (follows_probeCable (.refl s)) (.refl s))

theorem goes_execCableClear {port probe s} : Goes s (execCableClear port probe s) := .next (.ite (follows_probeCable (.refl s)) (.refl s))

theorem goes_execBandHold {s} : Goes s (execBandHold s) := .next (.ite (follows_wr (.mk (.refl s))) (.refl s))

theorem goes_execBandStop {s} : Goes s (execBandStop s) := .next (.ite (follows_endBand (.refl s)) (.refl s))

theorem goes_execBandEnd {s} : Goes s (execBandEnd s) := by
  unfold execBandEnd
  with_reducible repeat' first | exact Follows.refl _ | refine Goes.next ?_ | refine follows_endBand ?_ | split

theorem goes_execHeartbeatPeriod {s} : Goes s (execHeartbeatPeriod s) := .next (.ite (follows_notifyMgmt (follows_ticked (.refl s))) (.refl s))

theorem goes_execHeartbeat {port d s} : Goes s (execHeartbeat port d s) := .next (follows_onDatagram (.refl s))

theorem goes_execLossDatagram {port d s} : Goes s (execLossDatagram port d s) := .next (follows_onDatagram (.refl s))

theorem goes_execTripDatagram {port d s} : Goes s (execTripDatagram port d s) := .next (follows_onDatagram (.refl s))

theorem goes_execRestarted {port d s} : Goes s (execRestarted port d s) := .next (follows_onDatagram (.refl s))

theorem goes_execLivenessTimeout {port node s} : Goes s (execLivenessTimeout port node s) := .next (.ite (follows_setLive (.refl s)) (.refl s))

theorem goes_execExpel {node s} : Goes s (execExpel node s) := .next (follows_listCmd (.refl s))

theorem goes_execDead {node s} : Goes s (execDead node s) := .next (follows_listCmd (.refl s))

theorem goes_execWatch {node s} : Goes s (execWatch node s) := .next (follows_listCmd (.refl s))

theorem goes_execRemove {node s} : Goes s (execRemove node s) := .next (follows_listCmd (.refl s))

theorem goes_execListChange {c s} : Goes s (execListChange c s) := by
  unfold execListChange
  with_reducible repeat' first
    | exact Follows.refl _ | refine Goes.next ?_ | refine Follows.ite ?_ ?_ | refine follows_applyChange ?_ | refine follows_applyEarly ?_
    | refine follows_tryChange ?_ | refine follows_revertChange ?_ | split | fail_if_no_progress refine Follows.mk ?_

theorem goes_execEvidence {node s} : Goes s (execEvidence node s) :=
  .next (.ite (follows_logErr (.refl s)) (.ite (follows_wr (follows_floodEvidence (follows_wr (.refl s)))) (follows_wr (follows_wr (.refl s)))))

theorem goes_execEvidenceRecord {e s} : Goes s (execEvidenceRecord e s) := .next (follows_applyEvidence (.refl s))

theorem goes_execEvidenceExpiry {s} : Goes s (execEvidenceExpiry s) :=
  .next (follows_showList (Follows.foldl (.mk (.refl s)) fun _ _ hs => follows_showEvidence hs))

theorem goes_execScoreDecay {s} : Goes s (execScoreDecay s) :=
  .next (.ite (.refl s) (Follows.foldl (follows_ticked (.refl s)) fun _ _ hs => .ite (follows_wr (.ite hs (follows_wr hs))) (.ite hs (follows_wr
    hs))))

theorem goes_execShadowCompare {cid bench assay third s} : Goes s (execShadowCompare cid bench assay third s) := by
  unfold execShadowCompare
  with_reducible repeat' first
    | exact Follows.refl _ | refine Goes.next ?_ | refine follows_putCmd ?_ ?_ | refine follows_finish ?_ ?_ | refine follows_shadowKill ?_ ?_
    | refine follows_bump ?_ | refine follows_drawn ?_ | refine follows_faultRecord ?_ | refine follows_floodEvidence ?_
    | refine follows_healthCause ?_ | refine follows_quarantine ?_ | refine known_of_getCmd (by assumption) ?_ | split | dsimp only

theorem goes_execShadowTimeout {cid s} : Goes s (execShadowTimeout cid s) := by
  unfold execShadowTimeout
  with_reducible repeat' first
    | exact Follows.refl _ | refine Goes.next ?_ | refine follows_putCmd ?_ ?_ | refine follows_bump ?_ | refine known_of_getCmd (by assumption) ?_
    | split | dsimp only

theorem goes_execProvingRun {unit engine pattern load s} : Goes s (execProvingRun unit engine pattern load s) :=
  .next (.ite (.refl s) (.ite (.mk (.refl s)) (.ite (.refl s) (.mk (.refl s)))))

theorem goes_execProvingResult {unit engine pass inBand s} : Goes s (execProvingResult unit engine pass inBand s) := by
  unfold execProvingResult
  with_reducible repeat' first
    | exact Follows.refl _ | refine Goes.next ?_ | refine follows_proveFailed ?_ | refine follows_proveLog ?_ | refine follows_sweepDone ?_
    | refine follows_wr ?_ | split | fail_if_no_progress refine Follows.mk ?_

theorem goes_execProvingPeriod {s} : Goes s (execProvingPeriod s) :=
  .next (.ite (.refl s) (.ite (follows_bump (follows_ticked (.mk (.refl s)))) (follows_ticked (.mk (.refl s)))))

theorem goes_execSweep {s} : Goes s (execSweep s) :=
  .next (.ite (follows_logErr (.refl s)) (.ite (.refl s) (follows_sweepDone (follows_wr (follows_wr (.mk (.refl s)))))))

theorem goes_execQuarantineRelease {mask s} : Goes s (execQuarantineRelease mask s) :=
  .next (.ite (follows_logErr (.refl s)) (follows_recMark (.mk (.refl s))))

theorem goes_execEthernetLinkState {port up s} : Goes s (execEthernetLinkState port up s) := by
  unfold execEthernetLinkState
  with_reducible repeat' first | exact Follows.refl _ | refine Goes.next ?_ | refine follows_setPort ?_ | refine follows_wr ?_ | split

theorem goes_execPllLockLoss {pll s} : Goes s (execPllLockLoss pll s) := .next (follows_healthCause (follows_wr (follows_wr (.refl s))))

theorem goes_execPtpMessageInterval {q kind s} : Goes s (execPtpMessageInterval q kind s) := by
  unfold execPtpMessageInterval
  with_reducible repeat' first | exact Follows.refl _ | refine Goes.next ?_ | refine follows_emit ?_ | refine follows_setPtp ?_ | split

theorem goes_execMemberLostTimeout {cid rank s} : Goes s (execMemberLostTimeout cid rank s) := by
  unfold execMemberLostTimeout
  with_reducible repeat' first
    | exact Follows.refl _ | refine Goes.next ?_ | refine Follows.ite ?_ ?_ | refine follows_failColl ?_ | refine follows_sweepLost ?_ | split

theorem goes_execWakeComplete {bench s} : Goes s (execWakeComplete bench s) :=
  .next (.ite (.refl s) (follows_wr (follows_wr (follows_putBench (.refl s)))))

theorem goes_execIllegalOpcode {core slot word s} : Goes s (execIllegalOpcode core slot word s) :=
  .next (.ite (.refl s) (.ite (follows_coreFault (.refl s)) (.ite (follows_coreFault (.refl s)) (.refl s))))

end Sys2Proof.Machine
end

section
/-! SUPPORT. All 344 commands. -/

namespace Sys2Proof.Machine

/-- Every command answers a next state that comes after: the same commands wait, and it names no new function. -/
theorem exec_goes (c : Instr) (s : State) : Goes s (exec c s) := by
  unfold exec
  cases c with
  | registerWrite => exact goes_execRegisterWrite
  | lowWordRead => exact goes_execLowWordRead
  | benchWindowAbsentAccess => exact goes_execBenchWindowAbsentAccess
  | notClockedProxyAccess => exact goes_execNotClockedProxyAccess
  | galleryShareWindow => exact goes_execGalleryShareWindow
  | channelShareWindow => exact goes_execChannelShareWindow
  | refresh => exact goes_execRefresh
  | refreshTempRead => exact goes_execRefreshTempRead
  | sqTail => exact goes_execSqTail
  | queueEnable => exact goes_execQueueEnable
  | queueDisable => exact goes_execQueueDisable
  | queueConfigWrite => exact goes_execQueueConfigWrite
  | stepStart => exact goes_execStepStart
  | commandRead => exact goes_execCommandRead
  | stepCompletion => exact goes_execStepCompletion
  | tallyAdd => exact goes_execTallyAdd
  | tallySet => exact goes_execTallySet
  | slab => exact goes_execSlab
  | map => exact goes_execMap
  | rowSum => exact goes_execRowSum
  | rowWideSum => exact goes_execRowWideSum
  | wideAdd => exact goes_execWideAdd
  | rowMaxi => exact goes_execRowMaxi
  | rowMini => exact goes_execRowMini
  | mxQuant => exact goes_execMxQuant
  | random => exact goes_execRandom
  | discard => exact goes_execDiscard
  | skip => exact goes_execSkip
  | get => exact goes_execGet
  | put => exact goes_execPut
  | atomic => exact goes_execAtomic
  | fabricReduce => exact goes_execFabricReduce
  | mcastPut => exact goes_execMcastPut
  | signal => exact goes_execSignal
  | fence => exact goes_execFence
  | msgSend => exact goes_execMsgSend
  | tallySignal => exact goes_execTallySignal
  | tallyCmdSet => exact goes_execTallyCmdSet
  | notify => exact goes_execNotify
  | allReduce => exact goes_execAllReduce
  | reduce => exact goes_execReduce
  | reduceScatter => exact goes_execReduceScatter
  | broadcast => exact goes_execBroadcast
  | allGather => exact goes_execAllGather
  | allToAll => exact goes_execAllToAll
  | allGatherV => exact goes_execAllGatherV
  | allToAllV => exact goes_execAllToAllV
  | barrier => exact goes_execBarrier
  | commit => exact goes_execCommit
  | frameZeroingDone => exact goes_execFrameZeroingDone
  | collectiveCommit => exact goes_execCollectiveCommit
  | stageCopyDone => exact goes_execStageCopyDone
  | joinTimeout => exact goes_execJoinTimeout
  | triggerFire => exact goes_execTriggerFire
  | floorPlanPoint => exact goes_execFloorPlanPoint
  | floorReservation => exact goes_execFloorReservation
  | wedgeHandover => exact goes_execWedgeHandover
  | beyondFloorTake => exact goes_execBeyondFloorTake
  | floorReturn => exact goes_execFloorReturn
  | quantumEnd => exact goes_execQuantumEnd
  | graceEnd => exact goes_execGraceEnd
  | saveDone => exact goes_execSaveDone
  | restoreDone => exact goes_execRestoreDone
  | starvationPoint => exact goes_execStarvationPoint
  | eviction => exact goes_execEviction
  | benchWake => exact goes_execBenchWake
  | powerStateChoice => exact goes_execPowerStateChoice
  | blockedHoldExpiry => exact goes_execBlockedHoldExpiry
  | idleDarkExpiry => exact goes_execIdleDarkExpiry
  | lotOwner => exact goes_execLotOwner
  | releasingEnd => exact goes_execReleasingEnd
  | clearingEnd => exact goes_execClearingEnd
  | memInval => exact goes_execMemInval
  | memInvalDone => exact goes_execMemInvalDone
  | scrubRead => exact goes_execScrubRead
  | bucketRefill => exact goes_execBucketRefill
  | cxlMemRead => exact goes_execCxlMemRead
  | cxlMemWrite => exact goes_execCxlMemWrite
  | dataFlit => exact goes_execDataFlit
  | idleFlit => exact goes_execIdleFlit
  | creditFlit => exact goes_execCreditFlit
  | linkSilence => exact goes_execLinkSilence
  | retrainTimeout => exact goes_execRetrainTimeout
  | downRetry => exact goes_execDownRetry
  | capabilityBlock => exact goes_execCapabilityBlock
  | lsa => exact goes_execLsa
  | read => exact goes_execRead
  | readData => exact goes_execReadData
  | write => exact goes_execWrite
  | atomicMessage => exact goes_execAtomicMessage
  | atomicResult => exact goes_execAtomicResult
  | reduceMessage => exact goes_execReduceMessage
  | signalMessage => exact goes_execSignalMessage
  | msg => exact goes_execMsg
  | ack => exact goes_execAck
  | nak => exact goes_execNak
  | desc => exact goes_execDesc
  | count => exact goes_execCount
  | verdict => exact goes_execVerdict
  | data => exact goes_execData
  | ackVerified => exact goes_execAckVerified
  | refetch => exact goes_execRefetch
  | abort => exact goes_execAbort
  | resendTimer => exact goes_execResendTimer
  | messageLifetimeExpiry => exact goes_execMessageLifetimeExpiry
  | deadBound => exact goes_execDeadBound
  | roundTimeout => exact goes_execRoundTimeout
  | jeanoSAbort => exact goes_execJeanoSAbort
  | sAbortSettle => exact goes_execSAbortSettle
  | meteringTick => exact goes_execMeteringTick
  | queueSample => exact goes_execQueueSample
  | jeanoSampleClear => exact goes_execJeanoSampleClear
  | timeMessage => exact goes_execTimeMessage
  | referenceLoss => exact goes_execReferenceLoss
  | referenceReturn => exact goes_execReferenceReturn
  | timeAddend => exact goes_execTimeAddend
  | timeStep => exact goes_execTimeStep
  | sync => exact goes_execSync
  | followUp => exact goes_execFollowUp
  | delayReq => exact goes_execDelayReq
  | delayResp => exact goes_execDelayResp
  | announce => exact goes_execAnnounce
  | announceTimeout => exact goes_execAnnounceTimeout
  | esmc => exact goes_execEsmc
  | sourceLoss => exact goes_execSourceLoss
  | ppsLoss => exact goes_execPpsLoss
  | leaderLoss => exact goes_execLeaderLoss
  | sourceReturn => exact goes_execSourceReturn
  | lockAchieved => exact goes_execLockAchieved
  | holdoverExpired => exact goes_execHoldoverExpired
  | timestampPush => exact goes_execTimestampPush
  | tsqId => exact goes_execTsqId
  | trigCommit => exact goes_execTrigCommit
  | captureEdge => exact goes_execCaptureEdge
  | capPop => exact goes_execCapPop
  | ppsOut => exact goes_execPpsOut
  | fapiReqTail => exact goes_execFapiReqTail
  | paramRequest => exact goes_execParamRequest
  | configRequest => exact goes_execConfigRequest
  | startRequest => exact goes_execStartRequest
  | stopRequest => exact goes_execStopRequest
  | dlTtiRequest => exact goes_execDlTtiRequest
  | ulTtiRequest => exact goes_execUlTtiRequest
  | ulDciRequest => exact goes_execUlDciRequest
  | txDataRequest => exact goes_execTxDataRequest
  | slotIndication => exact goes_execSlotIndication
  | uplinkUPlane => exact goes_execUplinkUPlane
  | receivedCPlane => exact goes_execReceivedCPlane
  | unknownFrame => exact goes_execUnknownFrame
  | oneWayDelay => exact goes_execOneWayDelay
  | arpRequest => exact goes_execArpRequest
  | neighborSolicitation => exact goes_execNeighborSolicitation
  | symbolRelease => exact goes_execSymbolRelease
  | transmitWindowEnd => exact goes_execTransmitWindowEnd
  | receptionWindowClose => exact goes_execReceptionWindowClose
  | decodeRelease => exact goes_execDecodeRelease
  | indicationDeadline => exact goes_execIndicationDeadline
  | ldpcDec => exact goes_execLdpcDec
  | ldpcEnc => exact goes_execLdpcEnc
  | polarDec => exact goes_execPolarDec
  | polarEnc => exact goes_execPolarEnc
  | nop => exact goes_execNop
  | add => exact goes_execAdd
  | sub => exact goes_execSub
  | and => exact goes_execAnd
  | or => exact goes_execOr
  | xor => exact goes_execXor
  | shl => exact goes_execShl
  | shr => exact goes_execShr
  | shru => exact goes_execShru
  | min => exact goes_execMin
  | max => exact goes_execMax
  | slt => exact goes_execSlt
  | sltu => exact goes_execSltu
  | mul => exact goes_execMul
  | mulh => exact goes_execMulh
  | addi => exact goes_execAddi
  | andi => exact goes_execAndi
  | ori => exact goes_execOri
  | xori => exact goes_execXori
  | shli => exact goes_execShli
  | shri => exact goes_execShri
  | shrui => exact goes_execShrui
  | lui => exact goes_execLui
  | b => exact goes_execB
  | beqz => exact goes_execBeqz
  | bnez => exact goes_execBnez
  | bltz => exact goes_execBltz
  | bgez => exact goes_execBgez
  | bgtz => exact goes_execBgtz
  | blez => exact goes_execBlez
  | call => exact goes_execCall
  | jr => exact goes_execJr
  | rti => exact goes_execRti
  | loop => exact goes_execLoop
  | loopi => exact goes_execLoopi
  | mfs => exact goes_execMfs
  | mts => exact goes_execMts
  | postSieve => exact goes_execPostSieve
  | postRadioCmd => exact goes_execPostRadioCmd
  | postMbox => exact goes_execPostMbox
  | postFhTx => exact goes_execPostFhTx
  | postFapiInd => exact goes_execPostFapiInd
  | portQueueEntryFreed => exact goes_execPortQueueEntryFreed
  | wait => exact goes_execWait
  | waitEnd => exact goes_execWaitEnd
  | evset => exact goes_execEvset
  | ld16 => exact goes_execLd16
  | ld32 => exact goes_execLd32
  | ldv => exact goes_execLdv
  | ldbc => exact goes_execLdbc
  | st16 => exact goes_execSt16
  | st32 => exact goes_execSt32
  | stv => exact goes_execStv
  | mova => exact goes_execMova
  | adda => exact goes_execAdda
  | mfa => exact goes_execMfa
  | vadd => exact goes_execVadd
  | vsub => exact goes_execVsub
  | vand => exact goes_execVand
  | vor => exact goes_execVor
  | vxor => exact goes_execVxor
  | vshl => exact goes_execVshl
  | vshr => exact goes_execVshr
  | vmax => exact goes_execVmax
  | vmin => exact goes_execVmin
  | vabs => exact goes_execVabs
  | vneg => exact goes_execVneg
  | vaddw => exact goes_execVaddw
  | vsubw => exact goes_execVsubw
  | vmul => exact goes_execVmul
  | vmac => exact goes_execVmac
  | vmacw => exact goes_execVmacw
  | vcmul => exact goes_execVcmul
  | vcmac => exact goes_execVcmac
  | vcmacw => exact goes_execVcmacw
  | vmov => exact goes_execVmov
  | vbcast => exact goes_execVbcast
  | vperm => exact goes_execVperm
  | vnrw => exact goes_execVnrw
  | vzero => exact goes_execVzero
  | interruptEntry => exact goes_execInterruptEntry
  | tcmp => exact goes_execTcmp
  | completionEntry => exact goes_execCompletionEntry
  | watchdog => exact goes_execWatchdog
  | coreRestart => exact goes_execCoreRestart
  | l1ImageLoad => exact goes_execL1ImageLoad
  | roeRxPacket => exact goes_execRoeRxPacket
  | txPacket => exact goes_execTxPacket
  | rxSymbol => exact goes_execRxSymbol
  | maskBlock => exact goes_execMaskBlock
  | unmute => exact goes_execUnmute
  | chirpDetect => exact goes_execChirpDetect
  | packetEnd => exact goes_execPacketEnd
  | noiseFloor => exact goes_execNoiseFloor
  | chirpTxRingRead => exact goes_execChirpTxRingRead
  | chirpTxDone => exact goes_execChirpTxDone
  | numVfs => exact goes_execNumVfs
  | stop => exact goes_execStop
  | stopClear => exact goes_execStopClear
  | quiesced => exact goes_execQuiesced
  | reset => exact goes_execReset
  | forceReset => exact goes_execForceReset
  | flr => exact goes_execFlr
  | forcedResetDone => exact goes_execForcedResetDone
  | freeze => exact goes_execFreeze
  | frozen => exact goes_execFrozen
  | resume => exact goes_execResume
  | saveLive => exact goes_execSaveLive
  | saveFinal => exact goes_execSaveFinal
  | restore => exact goes_execRestore
  | migrationComplete => exact goes_execMigrationComplete
  | tenantSample => exact goes_execTenantSample
  | tenSampleClear => exact goes_execTenSampleClear
  | mrExtend => exact goes_execMrExtend
  | attest => exact goes_execAttest
  | attestationReport => exact goes_execAttestationReport
  | keyDelivery => exact goes_execKeyDelivery
  | keyInstall => exact goes_execKeyInstall
  | debugChallenge => exact goes_execDebugChallenge
  | debugToken => exact goes_execDebugToken
  | svnCommit => exact goes_execSvnCommit
  | resetNAssert => exact goes_execResetNAssert
  | resetNRelease => exact goes_execResetNRelease
  | firmwareVerify => exact goes_execFirmwareVerify
  | identityDerive => exact goes_execIdentityDerive
  | gradeRecordVerify => exact goes_execGradeRecordVerify
  | imageVerify => exact goes_execImageVerify
  | functionReady => exact goes_execFunctionReady
  | surveyMeasurement => exact goes_execSurveyMeasurement
  | coolingStep => exact goes_execCoolingStep
  | configurationLock => exact goes_execConfigurationLock
  | cfgCommit => exact goes_execCfgCommit
  | stagedApply => exact goes_execStagedApply
  | nvmRead => exact goes_execNvmRead
  | nvmErase => exact goes_execNvmErase
  | nvmProgram => exact goes_execNvmProgram
  | readyNext => exact goes_execReadyNext
  | readyRestart => exact goes_execReadyRestart
  | persistentRecordWrite => exact goes_execPersistentRecordWrite
  | conversionStart => exact goes_execConversionStart
  | inputLoss => exact goes_execInputLoss
  | holdupDischarge => exact goes_execHoldupDischarge
  | holdReady => exact goes_execHoldReady
  | powerMeasure => exact goes_execPowerMeasure
  | paceUpdate => exact goes_execPaceUpdate
  | ladderRequest => exact goes_execLadderRequest
  | trip => exact goes_execTrip
  | pwmWatchdog => exact goes_execPwmWatchdog
  | cableFaultTrip => exact goes_execCableFaultTrip
  | cableRetry => exact goes_execCableRetry
  | cableProbe => exact goes_execCableProbe
  | cableClear => exact goes_execCableClear
  | bandHold => exact goes_execBandHold
  | bandStop => exact goes_execBandStop
  | bandEnd => exact goes_execBandEnd
  | heartbeatPeriod => exact goes_execHeartbeatPeriod
  | heartbeat => exact goes_execHeartbeat
  | lossDatagram => exact goes_execLossDatagram
  | tripDatagram => exact goes_execTripDatagram
  | restarted => exact goes_execRestarted
  | livenessTimeout => exact goes_execLivenessTimeout
  | expel => exact goes_execExpel
  | dead => exact goes_execDead
  | watch => exact goes_execWatch
  | remove => exact goes_execRemove
  | listChange => exact goes_execListChange
  | evidence => exact goes_execEvidence
  | evidenceRecord => exact goes_execEvidenceRecord
  | evidenceExpiry => exact goes_execEvidenceExpiry
  | scoreDecay => exact goes_execScoreDecay
  | shadowCompare => exact goes_execShadowCompare
  | shadowTimeout => exact goes_execShadowTimeout
  | provingRun => exact goes_execProvingRun
  | provingResult => exact goes_execProvingResult
  | provingPeriod => exact goes_execProvingPeriod
  | sweep => exact goes_execSweep
  | quarantineRelease => exact goes_execQuarantineRelease
  | ethernetLinkState => exact goes_execEthernetLinkState
  | pllLockLoss => exact goes_execPllLockLoss
  | ptpMessageInterval => exact goes_execPtpMessageInterval
  | memberLostTimeout => exact goes_execMemberLostTimeout
  | wakeComplete => exact goes_execWakeComplete
  | illegalOpcode => exact goes_execIllegalOpcode

end Sys2Proof.Machine
end

section
/-! SUPPORT. One step keeps the listed commands to functions the device can name. -/
namespace Sys2Proof.Machine

/-- A step answers a next state, and its listed commands act for functions the device can name if those before do. -/
theorem step_next (s : State) : ∃ t, step s = .next t ∧ (FnsOk s → FnsOk t) := by
  unfold step
  split
  · exact ⟨tick s, rfl, (follows_tick (.refl s)).2⟩
  · next c rest _ =>
    obtain ⟨t, ht, hf⟩ := exec_goes c { s with pending := rest }
    exact ⟨t, ht, hf.2⟩

end Sys2Proof.Machine
end

section
open Sys2Proof Sys2Proof.Machine

/-- Settles O3: each command's own meaning answers a next state, and none of the operations it is built of touches what waits. -/
theorem everyCommandCompletes : Obligations.EveryCommandCompletes := by
  intro c s
  obtain ⟨t, ht, hf⟩ := exec_goes c s
  exact ⟨t, ht, hf.1⟩

/-- Settles O4, by induction on the number of steps. -/
theorem everyRunGoesOn : Obligations.EveryRunGoesOn := by
  intro n
  induction n with
  | zero => exact fun s => ⟨s, rfl⟩
  | succ n ih =>
    intro s
    obtain ⟨t, ht, -⟩ := step_next s
    obtain ⟨u, hu⟩ := ih t
    refine ⟨u, ?_⟩
    rw [← hu]
    simp only [Host.Core.run, ht]

/-- Settles O8: every operation keeps the listed commands, drops some, or puts one back for a function that was there or that the device can name. -/
theorem stepKeepsCommandFunctions : Obligations.StepKeepsCommandFunctions := by
  intro s t h ht
  obtain ⟨u, hu, hf⟩ := step_next s
  obtain rfl : t = u := Host.Outcome.next.inj (ht.symm.trans hu)
  exact hf h

end

section
/-! SUPPORT. What a command may change, and that it keeps the invariant of the memories: host accesses, step queues and bench commands. -/

namespace Sys2Proof.Machine

/-- An answer is a next state in which only some parts differ and the memories are as canonical as before. -/
def Keeps (s : State) (a : Ans) : Prop := ∃ w, AnsKept w s a

theorem AnsKept.keeps {w : List Part} {s : State} {a : Ans} (h : AnsKept w s a) : Keeps s a := ⟨w, h⟩

theorem AnsKept.ite {w : List Part} {s0 : State} {c : Prop} [Decidable c] {a b : Ans} (ha : AnsKept w s0 a) (hb : AnsKept w s0 b) :
    AnsKept w s0 (if c then a else b) := by
  split
  · exact ha
  · exact hb

theorem execRegisterWrite_kept {fn addr wide data s} :
    AnsKept [.regs, .live, .work, .ten, .clock, .out] s (execRegisterWrite fn addr wide data s) :=
  .next (.ite (pfWrite_kept (.refl _ s) rfl) (vfWrite_kept (.refl _ s) rfl))

theorem execLowWordRead_kept {fn addr wide s} : AnsKept [.regs, .ten, .clock, .out] s (execLowWordRead fn addr wide s) := by
  unfold execLowWordRead
  with_reducible repeat' first
    | exact Kept.refl _ _ | refine AnsKept.next ?_ | refine AnsKept.ite ?_ ?_ | refine emit_kept ?_ (by decide)
    | refine latchHigh_kept ?_ (by decide) | refine readWord_kept ?_ (by decide) | split | fail_if_no_progress refine Kept.setTen ?_ (by decide)

theorem execBenchWindowAbsentAccess_kept {bench off write s} : AnsKept [.regs, .out] s (execBenchWindowAbsentAccess bench off write s) :=
  .ite (.next (.refl _ s)) (.next (.ite (logErr_kept (.refl _ s) rfl) (emit_kept (logErr_kept (.refl _ s) rfl) rfl)))

theorem execNotClockedProxyAccess_kept {addr write s} : AnsKept [.regs, .live, .work, .clock, .out] s (execNotClockedProxyAccess addr write s) := by
  unfold execNotClockedProxyAccess
  with_reducible repeat' first
    | exact Kept.refl _ _ | refine AnsKept.next ?_ | refine pfWrite_kept ?_ (by decide) | refine emit_kept ?_ (by decide)
    | refine readWord_kept ?_ (by decide) | split

theorem execGalleryShareWindow_kept {s} : AnsKept [.mem] s (execGalleryShareWindow s) := .next (Kept.setMem (.refl _ s) rfl id)

theorem execChannelShareWindow_kept {s} : AnsKept [.mem] s (execChannelShareWindow s) := .next (Kept.setMem (.refl _ s) rfl id)

theorem execRefresh_kept {stack s} : AnsKept [.mem] s (execRefresh stack s) := .next (Kept.setMem (.refl _ s) rfl id)

theorem execRefreshTempRead_kept {t0 t1 t2 t3 s} : AnsKept [.regs] s (execRefreshTempRead t0 t1 t2 t3 s) :=
  .next (wr_kept (Kept.foldl (.refl _ s) fun _ _ hs => wr_kept hs rfl) rfl)

theorem execSqTail_kept {fn q value s} : AnsKept [.regs, .work] s (execSqTail fn q value s) :=
  .ite (.next (.refl _ s)) (.ite (.next (logErr_kept (putQ_kept (.refl _ s) rfl) rfl)) (.next (putQ_kept (.refl _ s) rfl)))

theorem execQueueEnable_kept {fn q s} : AnsKept [.regs, .work] s (execQueueEnable fn q s) := by
  unfold execQueueEnable
  with_reducible repeat' first
    | exact Kept.refl _ _ | refine AnsKept.next ?_ | refine putQ_kept ?_ (by decide) | refine logErr_kept ?_ (by decide) | split

theorem execQueueDisable_kept {fn q s} : AnsKept [.work] s (execQueueDisable fn q s) := by
  unfold execQueueDisable
  with_reducible repeat' first | exact Kept.refl _ _ | refine AnsKept.next ?_ | refine putQ_kept ?_ (by decide) | split

theorem execQueueConfigWrite_kept {fn q reg value s} : AnsKept [.regs, .work] s (execQueueConfigWrite fn q reg value s) :=
  .ite (.next (.refl _ s)) (.next (.ite (putQ_kept (.refl _ s) rfl) (logErr_kept (.refl _ s) rfl)))

theorem execStepStart_kept {fn q s} : AnsKept [.regs, .mem, .host, .work, .ten, .boot, .out] s (execStepStart fn q s) := by
  unfold execStepStart
  with_reducible repeat' first
    | exact Kept.refl _ _ | refine AnsKept.next ?_ | refine AnsKept.ite ?_ ?_ | refine putQ_kept ?_ (by decide)
    | refine putStep_kept ?_ (by decide) | refine completeStep_kept ?_ (by decide) | refine showFn_kept ?_ (by decide)
    | refine openStep_kept ?_ (by decide) | refine Kept.fst (by assumption) ?_ | split

theorem execCommandRead_kept {fn q s} :
    AnsKept [.regs, .mem, .work, .yards, .ten, .cores, .boot, .out] s (execCommandRead fn q s) := by
  unfold execCommandRead
  split
  · exact .next (.refl _ s)
  split
  · exact .next (.refl _ s)
  · exact .next (readNext_kept (.refl _ s) rfl)

theorem execStepCompletion_kept {fn q s} :
    AnsKept [.regs, .mem, .host, .work, .yards, .ten, .cores, .boot, .out] s (execStepCompletion fn q s) := by
  unfold execStepCompletion
  with_reducible repeat' first
    | exact Kept.refl _ _ | refine AnsKept.next ?_ | refine dropStepCmds_kept ?_ (by decide) | refine settleChains_kept ?_ (by decide)
    | refine completeStep_kept ?_ (by decide) | refine showFn_kept ?_ (by decide) | refine spaceWrite_kept ?_ (by decide) | split | dsimp only

theorem execTallyAdd_kept {fn tally value s} : AnsKept [.work] s (execTallyAdd fn tally value s) :=
  .next (.ite (tallyInc_kept (.refl _ s) rfl) (.refl _ s))

theorem execTallySet_kept {fn tally value s} : AnsKept [.work] s (execTallySet fn tally value s) :=
  .next (.ite (tallyPut_kept (.refl _ s) rfl) (.refl _ s))

theorem execSlab_kept {cid s} : AnsKept [.regs, .work, .yards, .cores, .free] s (execSlab cid s) :=
  .next (issueBench_kept (.refl _ s) rfl (fun _ _ h => slabPlan_kept h rfl) fun _ _ _ h => slabRun_kept h rfl)

theorem execMap_kept {cid s} : AnsKept [.regs, .work, .yards, .cores, .free] s (execMap cid s) := .next (dresserCmd_kept (.refl _ s) rfl)

theorem execRowSum_kept {cid s} : AnsKept [.regs, .work, .yards, .cores, .free] s (execRowSum cid s) := .next (dresserCmd_kept (.refl _ s) rfl)

theorem execRowWideSum_kept {cid s} : AnsKept [.regs, .work, .yards, .cores, .free] s (execRowWideSum cid s) :=
  .next (dresserCmd_kept (.refl _ s) rfl)

theorem execWideAdd_kept {cid s} : AnsKept [.regs, .work, .yards, .cores, .free] s (execWideAdd cid s) := .next (dresserCmd_kept (.refl _ s) rfl)

theorem execRowMaxi_kept {cid s} : AnsKept [.regs, .work, .yards, .cores, .free] s (execRowMaxi cid s) := .next (dresserCmd_kept (.refl _ s) rfl)

theorem execRowMini_kept {cid s} : AnsKept [.regs, .work, .yards, .cores, .free] s (execRowMini cid s) := .next (dresserCmd_kept (.refl _ s) rfl)

theorem execMxQuant_kept {cid s} : AnsKept [.regs, .work, .yards, .cores, .free] s (execMxQuant cid s) := .next (dresserCmd_kept (.refl _ s) rfl)

theorem execRandom_kept {cid s} : AnsKept [.regs, .work, .yards, .cores, .free] s (execRandom cid s) := .next (dresserCmd_kept (.refl _ s) rfl)

theorem execDiscard_kept {cid s} : AnsKept [.regs, .work, .yards, .cores, .free] s (execDiscard cid s) := .next (dresserCmd_kept (.refl _ s) rfl)

theorem execSkip_kept {cid s} :
    AnsKept [.regs, .mem, .host, .work, .yards, .fab, .ten, .cores, .boot, .out, .free] s (execSkip cid s) :=
  .next (issueBench_kept (.refl _ s) rfl (fun _ _ h => skipPlan_kept h rfl) fun _ _ _ h => skipRun_kept h rfl)

theorem execGet_kept {cid s} : AnsKept [.regs, .mem, .work, .yards, .fab, .crush, .ten, .cores, .boot, .out, .free] s (execGet cid s) :=
  .next (deliverLocal_kept (fabricCmd_kept (.refl _ s) rfl) rfl)

theorem execPut_kept {cid s} : AnsKept [.regs, .mem, .work, .yards, .fab, .crush, .ten, .cores, .boot, .out, .free] s (execPut cid s) :=
  .next (fabricCmd_kept (.refl _ s) rfl)

theorem execAtomic_kept {cid s} : AnsKept [.regs, .mem, .work, .yards, .fab, .crush, .ten, .cores, .boot, .out, .free] s (execAtomic cid s) :=
  .next (fabricCmd_kept (.refl _ s) rfl)

theorem execFabricReduce_kept {cid s} :
    AnsKept [.regs, .mem, .work, .yards, .fab, .crush, .ten, .cores, .boot, .out, .free] s (execFabricReduce cid s) :=
  .next (fabricCmd_kept (.refl _ s) rfl)

theorem execMcastPut_kept {cid s} : AnsKept [.regs, .mem, .work, .yards, .fab, .crush, .ten, .cores, .boot, .out, .free] s (execMcastPut cid s) :=
  .next (fabricCmd_kept (.refl _ s) rfl)

theorem execSignal_kept {cid s} : AnsKept [.regs, .mem, .work, .yards, .fab, .crush, .ten, .cores, .boot, .out, .free] s (execSignal cid s) :=
  .next (fabricCmd_kept (.refl _ s) rfl)

theorem execFence_kept {cid s} : AnsKept [.regs, .mem, .work, .yards, .fab, .crush, .ten, .cores, .boot, .out, .free] s (execFence cid s) :=
  .next (fabricCmd_kept (.refl _ s) rfl)

theorem execMsgSend_kept {cid s} : AnsKept [.regs, .mem, .work, .yards, .fab, .crush, .ten, .cores, .boot, .out, .free] s (execMsgSend cid s) :=
  .next (fabricCmd_kept (.refl _ s) rfl)

theorem execTallySignal_kept {cid s} : AnsKept [.regs, .work, .yards, .ten, .cores, .out] s (execTallySignal cid s) :=
  .next (tallyCmd_kept (.refl _ s) rfl)

theorem execTallyCmdSet_kept {cid s} : AnsKept [.regs, .work, .yards, .ten, .cores, .out] s (execTallyCmdSet cid s) :=
  .next (tallyCmd_kept (.refl _ s) rfl)

theorem execNotify_kept {cid s} : AnsKept [.regs, .work, .yards, .ten, .cores, .out] s (execNotify cid s) := .next (tallyCmd_kept (.refl _ s) rfl)

theorem execAllReduce_kept {cid s} : AnsKept [.regs, .mem, .work, .yards, .fab, .crush, .ten, .cores, .boot, .out, .free] s (execAllReduce cid s) :=
  .next (sweepLost_kept (crushCmd_kept (.refl _ s) rfl) rfl)

theorem execReduce_kept {cid s} : AnsKept [.regs, .mem, .work, .yards, .fab, .crush, .ten, .cores, .boot, .out, .free] s (execReduce cid s) :=
  .next (sweepLost_kept (crushCmd_kept (.refl _ s) rfl) rfl)

theorem execReduceScatter_kept {cid s} :
    AnsKept [.regs, .mem, .work, .yards, .fab, .crush, .ten, .cores, .boot, .out, .free] s (execReduceScatter cid s) :=
  .next (sweepLost_kept (crushCmd_kept (.refl _ s) rfl) rfl)

theorem execBroadcast_kept {cid s} : AnsKept [.regs, .mem, .work, .yards, .fab, .crush, .ten, .cores, .boot, .out, .free] s (execBroadcast cid s) :=
  .next (sweepLost_kept (crushCmd_kept (.refl _ s) rfl) rfl)

theorem execAllGather_kept {cid s} : AnsKept [.regs, .mem, .work, .yards, .fab, .crush, .ten, .cores, .boot, .out, .free] s (execAllGather cid s) :=
  .next (sweepLost_kept (crushCmd_kept (.refl _ s) rfl) rfl)

theorem execAllToAll_kept {cid s} : AnsKept [.regs, .mem, .work, .yards, .fab, .crush, .ten, .cores, .boot, .out, .free] s (execAllToAll cid s) :=
  .next (sweepLost_kept (crushCmd_kept (.refl _ s) rfl) rfl)

theorem execAllGatherV_kept {cid s} :
    AnsKept [.regs, .mem, .work, .yards, .fab, .crush, .ten, .cores, .boot, .out, .free] s (execAllGatherV cid s) :=
  .next (sweepLost_kept (crushCmd_kept (.refl _ s) rfl) rfl)

theorem execAllToAllV_kept {cid s} : AnsKept [.regs, .mem, .work, .yards, .fab, .crush, .ten, .cores, .boot, .out, .free] s (execAllToAllV cid s) :=
  .next (sweepLost_kept (crushCmd_kept (.refl _ s) rfl) rfl)

theorem execBarrier_kept {cid s} : AnsKept [.regs, .mem, .work, .yards, .fab, .crush, .ten, .cores, .boot, .out, .free] s (execBarrier cid s) :=
  .next (sweepLost_kept (crushCmd_kept (.refl _ s) rfl) rfl)

end Sys2Proof.Machine
end

section
/-! SUPPORT. The same: commits, collectives and the Banksman. -/

namespace Sys2Proof.Machine

theorem execCommit_kept {cid s} : AnsKept [.regs, .mem, .work, .yards, .fab, .crush, .ten, .cores, .boot, .out, .free] s (execCommit cid s) := by
  unfold execCommit
  with_reducible repeat' first
    | exact Kept.refl _ _ | refine AnsKept.next ?_ | refine commitCmd_kept ?_ (by decide) | refine deliverLocal_kept ?_ (by decide) | split

theorem execFrameZeroingDone_kept {bench s} : AnsKept [.regs, .yards] s (execFrameZeroingDone bench s) :=
  .next (.ite (.refl _ s) (showBench_kept (putBench_kept (.refl _ s) rfl) rfl))

theorem execCollectiveCommit_kept {cid s} : AnsKept [.work] s (execCollectiveCommit cid s) := by
  unfold execCollectiveCommit
  with_reducible repeat' first | exact Kept.refl _ _ | refine AnsKept.next ?_ | refine putCmd_kept ?_ (by decide) | split

theorem execStageCopyDone_kept {cid s} : AnsKept [.regs, .mem, .work, .yards, .crush, .ten, .cores, .boot, .out] s (execStageCopyDone cid s) := by
  unfold execStageCopyDone
  with_reducible repeat' first
    | exact Kept.refl _ _ | refine AnsKept.next ?_ | refine applySignals_kept ?_ (by decide) | refine endColl_kept ?_ (by decide)
    | refine chargeDram_kept ?_ (by decide) | refine storeRuns_kept ?_ (by decide) | refine senseRuns_kept ?_ (by decide)
    | refine writeRuns_kept ?_ (by decide) | refine Kept.fst (by assumption) ?_ | split | dsimp only

theorem execJoinTimeout_kept {cid s} :
    AnsKept [.regs, .mem, .work, .yards, .fab, .crush, .ten, .cores, .boot, .out, .free] s (execJoinTimeout cid s) := by
  unfold execJoinTimeout
  with_reducible repeat' first
    | exact Kept.refl _ _ | refine AnsKept.next ?_ | refine failColl_kept ?_ (by decide) | refine sweepLost_kept ?_ (by decide) | split

theorem execTriggerFire_kept {k r s} :
    AnsKept [.regs, .live, .yards, .ten, .clock, .cores, .power, .health, .out, .free] s (execTriggerFire k r s) :=
  .next (.ite (trigAct_kept (trigDone_kept (.refl _ s) rfl) rfl) (.refl _ s))

theorem execFloorPlanPoint_kept {entry sfn s} : AnsKept [.regs, .yards, .health] s (execFloorPlanPoint entry sfn s) := by
  unfold execFloorPlanPoint
  with_reducible repeat' first
    | exact Kept.refl _ _ | assumption | refine AnsKept.next ?_ | refine Kept.ite ?_ ?_ | refine putBench_kept ?_ (by decide)
    | refine stopProving_kept ?_ (by decide) | refine Kept.foldl ?_ fun s x hs => ?_ | split

theorem execFloorReservation_kept {entry s} : AnsKept [.regs, .mem, .work, .yards, .fab, .health] s (execFloorReservation entry s) := by
  unfold execFloorReservation
  with_reducible repeat' first
    | exact Kept.refl _ _ | assumption | refine AnsKept.next ?_ | refine reserveBench_kept ?_ (by decide) | refine showParts_kept ?_ (by decide)
    | refine unchoose_kept ?_ (by decide) | refine Kept.foldl ?_ fun s x hs => ?_ | split

theorem execWedgeHandover_kept {bench s} : AnsKept [.regs, .yards] s (execWedgeHandover bench s) := by
  unfold execWedgeHandover
  with_reducible repeat' first
    | exact Kept.refl _ _ | refine AnsKept.next ?_ | refine Kept.ite ?_ ?_ | refine putBench_kept ?_ (by decide)
    | refine showBench_kept ?_ (by decide) | refine showFloor_kept ?_ (by decide) | refine wr_kept ?_ (by decide) | split

theorem execBeyondFloorTake_kept {cid s} : AnsKept [.regs, .mem, .work, .yards, .fab, .health] s (execBeyondFloorTake cid s) := by
  unfold execBeyondFloorTake
  with_reducible repeat' first
    | exact Kept.refl _ _ | refine AnsKept.next ?_ | refine putCmd_kept ?_ (by decide) | refine wedgeKill_kept ?_ (by decide)
    | refine bump_kept ?_ (by decide) | refine showParts_kept ?_ (by decide) | split

theorem execFloorReturn_kept {bench s} : AnsKept [.regs, .mem, .work, .yards, .fab, .health] s (execFloorReturn bench s) := by
  unfold execFloorReturn
  with_reducible repeat' first
    | exact Kept.refl _ _ | refine AnsKept.next ?_ | refine reserveBench_kept ?_ (by decide) | refine bump_kept ?_ (by decide)
    | refine putBench_kept ?_ (by decide) | refine putCtx_kept ?_ (by decide) | refine showBench_kept ?_ (by decide)
    | refine showFloor_kept ?_ (by decide) | refine showParts_kept ?_ (by decide) | refine unchoose_kept ?_ (by decide)
    | refine wr_kept ?_ (by decide) | split

theorem execQuantumEnd_kept {bench s} : AnsKept [.regs, .yards, .health] s (execQuantumEnd bench s) := by
  unfold execQuantumEnd
  with_reducible repeat' first
    | exact Kept.refl _ _ | refine AnsKept.next ?_ | refine putCtx_kept ?_ (by decide) | refine refreshWaits_kept ?_ (by decide)
    | refine showParts_kept ?_ (by decide) | refine startSwitch_kept ?_ (by decide) | split | dsimp only

theorem execGraceEnd_kept {bench s} : AnsKept [.regs, .mem, .work, .yards, .fab] s (execGraceEnd bench s) := by
  unfold execGraceEnd
  with_reducible repeat' first
    | exact Kept.refl _ _ | refine AnsKept.next ?_ | refine killCtx_kept ?_ (by decide) | refine bump_kept ?_ (by decide)
    | refine putBench_kept ?_ (by decide) | refine showBench_kept ?_ (by decide) | refine showParts_kept ?_ (by decide)
    | refine wr_kept ?_ (by decide) | split

theorem execSaveDone_kept {bench s} : AnsKept [.regs, .mem, .yards, .ten] s (execSaveDone bench s) := by
  unfold execSaveDone
  with_reducible repeat' first
    | exact Kept.refl _ _ | refine AnsKept.next ?_ | refine abandonSwitch_kept ?_ (by decide) | refine countSwitch_kept ?_ (by decide)
    | refine putBench_kept ?_ (by decide) | refine refreshWaits_kept ?_ (by decide) | refine saveOut_kept ?_ (by decide)
    | refine showParts_kept ?_ (by decide) | split

theorem execRestoreDone_kept {bench s} : AnsKept [.regs, .mem, .work, .yards, .ten, .cores, .boot, .out] s (execRestoreDone bench s) := by
  unfold execRestoreDone
  with_reducible repeat' first
    | exact Kept.refl _ _ | refine AnsKept.next ?_ | refine placeCtx_kept ?_ (by decide) | refine countSwitch_kept ?_ (by decide)
    | refine refreshWaits_kept ?_ (by decide) | refine showParts_kept ?_ (by decide) | split

theorem execStarvationPoint_kept {fn ctx s} : AnsKept [.regs, .yards, .health] s (execStarvationPoint fn ctx s) := by
  unfold execStarvationPoint
  with_reducible repeat' first
    | exact Kept.refl _ _ | refine AnsKept.next ?_ | refine bump_kept ?_ (by decide) | refine refreshWaits_kept ?_ (by decide)
    | refine showParts_kept ?_ (by decide) | refine startSwitch_kept ?_ (by decide) | split | dsimp only

theorem execEviction_kept {fn ctx s} : AnsKept [.regs, .mem, .work, .yards, .fab, .health] s (execEviction fn ctx s) := by
  unfold execEviction
  with_reducible repeat' first
    | exact Kept.refl _ _ | refine AnsKept.next ?_ | refine killCtx_kept ?_ (by decide) | refine bump_kept ?_ (by decide)
    | refine putBench_kept ?_ (by decide) | refine refreshWaits_kept ?_ (by decide) | refine showBench_kept ?_ (by decide)
    | refine showParts_kept ?_ (by decide) | refine startSwitch_kept ?_ (by decide) | refine wr_kept ?_ (by decide) | split | dsimp only

theorem execBenchWake_kept {bench s} : AnsKept [.regs, .yards] s (execBenchWake bench s) := by
  unfold execBenchWake
  with_reducible repeat' first
    | exact Kept.refl _ _ | refine AnsKept.next ?_ | refine Kept.ite ?_ ?_ | refine abandonSwitch_kept ?_ (by decide)
    | refine putBench_kept ?_ (by decide) | split

theorem execPowerStateChoice_kept {bench s} : AnsKept [.regs, .yards, .health] s (execPowerStateChoice bench s) :=
  .next (.ite (refreshWaits_kept (.refl _ s) rfl) (.ite (saveForDark_kept (wr_kept (wr_kept (wr_kept (refreshWaits_kept (.refl _ s) rfl) rfl) rfl)
    rfl) rfl) (.ite (wr_kept (wr_kept (wr_kept (wr_kept (refreshWaits_kept (.refl _ s) rfl) rfl) rfl) rfl) rfl) (.ite (putBench_kept (wr_kept
    (wr_kept (wr_kept (refreshWaits_kept (.refl _ s) rfl) rfl) rfl) rfl) rfl) (wr_kept (wr_kept (wr_kept (refreshWaits_kept (.refl _ s) rfl) rfl)
    rfl) rfl)))))

theorem execBlockedHoldExpiry_kept {bench s} : AnsKept [.regs, .yards] s (execBlockedHoldExpiry bench s) := by
  unfold execBlockedHoldExpiry
  with_reducible repeat' first
    | exact Kept.refl _ _ | refine AnsKept.next ?_ | refine Kept.ite ?_ ?_ | refine putBench_kept ?_ (by decide)
    | refine refreshWaits_kept ?_ (by decide) | refine wr_kept ?_ (by decide) | split

theorem execIdleDarkExpiry_kept {bench s} : AnsKept [.regs, .yards, .health] s (execIdleDarkExpiry bench s) :=
  .next (.ite (saveForDark_kept (refreshWaits_kept (.refl _ s) rfl) rfl) (refreshWaits_kept (.refl _ s) rfl))

end Sys2Proof.Machine
end

section
/-! SUPPORT. The same: memory, links and messages. -/

namespace Sys2Proof.Machine

theorem execLotOwner_kept {lot owner hdm s} : AnsKept [.regs] s (execLotOwner lot owner hdm s) := by
  unfold execLotOwner
  with_reducible repeat' first
    | exact Kept.refl _ _ | refine AnsKept.next ?_ | refine logErr_kept ?_ (by decide) | refine wr_kept ?_ (by decide) | split

theorem execReleasingEnd_kept {lot s} : AnsKept [.regs, .mem] s (execReleasingEnd lot s) :=
  .next (.ite (.refl _ s) (wr_kept (Kept.setMem (.refl _ s) rfl id) rfl))

theorem execClearingEnd_kept {lot s} : AnsKept [.regs, .mem] s (execClearingEnd lot s) := by
  unfold execClearingEnd
  refine .next ?_
  split
  · exact .refl _ s
  · exact .ite (.refl _ s) (wr_kept (wr_kept (Kept.setMem (.refl _ s) rfl fun h => memClearLot_wf h) rfl) rfl)

theorem execMemInval_kept {vf all s} : AnsKept [.regs, .mem] s (execMemInval vf all s) :=
  .next (.ite (logErr_kept (.refl _ s) rfl) (wr_kept (wr_kept (wr_kept (Kept.setMem (.refl _ s) rfl id) rfl) rfl) rfl))

theorem execMemInvalDone_kept {s} : AnsKept [.regs] s (execMemInvalDone s) := .next (.ite (.refl _ s) (wr_kept (.refl _ s) rfl))

theorem execScrubRead_kept {err s} : AnsKept [.regs, .mem, .ten, .boot, .out] s (execScrubRead err s) := by
  unfold execScrubRead
  refine .next (.ite (.refl _ s) ?_)
  extract_lets line m1 s1 m2 s2
  have h1 : Kept [.regs, .mem, .ten, .boot, .out] s s1 := Kept.setMem (.refl _ s) rfl id
  clear_value line s1
  have h2 : Kept [.regs, .mem, .ten, .boot, .out] s s2 := by
    cases err with
    | none => exact h1
    | some e => exact Kept.setMem h1 rfl id
  refine h1.ite ?_
  split
  · exact .fst (by assumption) (senseAt_kept h2 rfl)
  · have ht : Kept [.regs, .mem, .ten, .boot, .out] s _ := .fst (by assumption) (senseAt_kept h2 rfl)
    exact (logErr_kept ht rfl).ite ht

theorem execBucketRefill_kept {s} :
    AnsKept [.regs, .live, .mem, .work, .yards, .fab, .crush, .ten, .cores, .cfg, .boot, .out, .free] s (execBucketRefill s) :=
  .next (resumeFabric_kept (Kept.foldl (applyKind_kept (.refl _ s) rfl) fun _ _ hs => putTokens_kept hs rfl) rfl)

theorem execCxlMemRead_kept {pa s} : AnsKept [.regs, .mem, .ten, .boot, .out] s (execCxlMemRead pa s) := by
  unfold execCxlMemRead
  with_reducible repeat' first
    | exact Kept.refl _ _ | refine AnsKept.next ?_ | refine chargeHost_kept ?_ (by decide) | refine emit_kept ?_ (by decide)
    | refine logErr_kept ?_ (by decide) | refine senseAt_kept ?_ (by decide) | refine Kept.fst (by assumption) ?_ | split

theorem execCxlMemWrite_kept {pa data mask s} : AnsKept [.regs, .mem, .ten, .boot, .out] s (execCxlMemWrite pa data mask s) := by
  unfold execCxlMemWrite
  with_reducible repeat' first
    | exact Kept.refl _ _ | refine AnsKept.next ?_ | refine chargeHost_kept ?_ (by decide) | refine dramStore_kept ?_ (by decide)
    | refine logErr_kept ?_ (by decide) | refine senseAt_kept ?_ (by decide) | refine Kept.fst (by assumption) ?_ | split

theorem execDataFlit_kept {port fseq ackSeq nak crcOk errs s} :
    AnsKept [.regs, .mem, .work, .yards, .fab, .crush, .ten, .cores, .boot, .out, .free] s (execDataFlit port fseq ackSeq nak crcOk errs s) :=
  .next (settleFabric_kept (onFlit_kept (.refl _ s) rfl fun _ hs => .ite hs (sendIdle_kept (putLink_kept hs rfl) rfl)) rfl)

theorem execIdleFlit_kept {port ackSeq nak crcOk errs s} :
    AnsKept [.regs, .mem, .work, .yards, .fab, .crush, .ten, .cores, .boot, .out, .free] s (execIdleFlit port ackSeq nak crcOk errs s) :=
  .next (settleFabric_kept (onFlit_kept (.refl _ s) rfl fun _ hs => hs) rfl)

theorem execCreditFlit_kept {port ackSeq nak vc count crcOk errs s} :
    AnsKept [.regs, .mem, .work, .yards, .fab, .crush, .ten, .cores, .boot, .out, .free] s (execCreditFlit port ackSeq nak vc count crcOk errs s) :=
  .next (settleFabric_kept (onFlit_kept (.refl _ s) rfl fun _ hs => putLink_kept hs rfl) rfl)

theorem execLinkSilence_kept {port s} :
    AnsKept [.regs, .mem, .work, .yards, .fab, .crush, .ten, .cores, .boot, .out, .free] s (execLinkSilence port s) :=
  .next (settleFabric_kept (enterRetrain_kept (.refl _ s) rfl) rfl)

theorem execRetrainTimeout_kept {port lanesOk s} :
    AnsKept [.regs, .mem, .work, .yards, .fab, .crush, .ten, .cores, .boot, .out, .free] s (execRetrainTimeout port lanesOk s) := by
  unfold execRetrainTimeout
  with_reducible repeat' first
    | exact Kept.refl _ _ | refine AnsKept.next ?_ | refine Kept.ite ?_ ?_ | refine setPort_kept ?_ (by decide)
    | refine goDown_kept ?_ (by decide) | refine settleFabric_kept ?_ (by decide) | refine putLink_kept ?_ (by decide)
    | refine wr_kept ?_ (by decide) | split

theorem execDownRetry_kept {port s} :
    AnsKept [.regs, .mem, .work, .yards, .fab, .crush, .ten, .cores, .boot, .out, .free] s (execDownRetry port s) :=
  .next (.ite (.refl _ s) (settleFabric_kept (emit_kept (setPort_kept (putLink_kept (.refl _ s) rfl) rfl) rfl) rfl))

theorem execCapabilityBlock_kept {port block s} :
    AnsKept [.regs, .mem, .work, .yards, .fab, .crush, .ten, .cores, .boot, .out, .free] s (execCapabilityBlock port block s) := by
  unfold execCapabilityBlock
  with_reducible repeat' first
    | exact Kept.refl _ _ | assumption | refine AnsKept.next ?_ | refine Kept.ite ?_ ?_ | refine setPort_kept ?_ (by decide)
    | refine goDown_kept ?_ (by decide) | refine settleFabric_kept ?_ (by decide) | refine emit_kept ?_ (by decide)
    | refine putLink_kept ?_ (by decide) | refine wr_kept ?_ (by decide) | refine Kept.foldl ?_ fun s x hs => ?_ | split
    | fail_if_no_progress refine Kept.setFab ?_ (by decide)

theorem execLsa_kept {m s} : AnsKept [.regs, .mem, .work, .yards, .fab, .crush, .ten, .cores, .boot, .out, .free] s (execLsa m s) :=
  .next (settleFabric_kept (onRequest_kept (.refl _ s) rfl) rfl)

theorem execRead_kept {m s} : AnsKept [.regs, .mem, .work, .yards, .fab, .crush, .ten, .cores, .boot, .out, .free] s (execRead m s) :=
  .next (settleFabric_kept (onRequest_kept (.refl _ s) rfl) rfl)

theorem execReadData_kept {m s} : AnsKept [.regs, .mem, .work, .yards, .fab, .crush, .ten, .cores, .boot, .out, .free] s (execReadData m s) := by
  unfold execReadData
  with_reducible repeat' first
    | exact Kept.refl _ _ | assumption | refine AnsKept.next ?_ | refine dataTo_kept ?_ (by decide) | refine settleFabric_kept ?_ (by decide)
    | refine onAnswer_kept ?_ (by decide) fun s m hs => ?_ | split

theorem execWrite_kept {m s} : AnsKept [.regs, .mem, .work, .yards, .fab, .crush, .ten, .cores, .boot, .out, .free] s (execWrite m s) :=
  .next (settleFabric_kept (onRequest_kept (.refl _ s) rfl) rfl)

theorem execAtomicMessage_kept {m s} :
    AnsKept [.regs, .mem, .work, .yards, .fab, .crush, .ten, .cores, .boot, .out, .free] s (execAtomicMessage m s) :=
  .next (settleFabric_kept (onRequest_kept (.refl _ s) rfl) rfl)

theorem execAtomicResult_kept {m s} :
    AnsKept [.regs, .mem, .work, .yards, .fab, .crush, .ten, .cores, .boot, .out, .free] s (execAtomicResult m s) := by
  unfold execAtomicResult
  with_reducible repeat' first
    | exact Kept.refl _ _ | assumption | refine AnsKept.next ?_ | refine resultTo_kept ?_ (by decide) | refine settleFabric_kept ?_ (by decide)
    | refine onAnswer_kept ?_ (by decide) fun s m hs => ?_ | split

theorem execReduceMessage_kept {m s} :
    AnsKept [.regs, .mem, .work, .yards, .fab, .crush, .ten, .cores, .boot, .out, .free] s (execReduceMessage m s) :=
  .next (settleFabric_kept (onRequest_kept (.refl _ s) rfl) rfl)

theorem execSignalMessage_kept {m s} :
    AnsKept [.regs, .mem, .work, .yards, .fab, .crush, .ten, .cores, .boot, .out, .free] s (execSignalMessage m s) :=
  .next (settleFabric_kept (onRequest_kept (.refl _ s) rfl) rfl)

theorem execMsg_kept {m s} : AnsKept [.regs, .mem, .work, .yards, .fab, .crush, .ten, .cores, .boot, .out, .free] s (execMsg m s) :=
  .next (settleFabric_kept (onRequest_kept (.refl _ s) rfl) rfl)

theorem execAck_kept {m s} : AnsKept [.regs, .mem, .work, .yards, .fab, .crush, .ten, .cores, .boot, .out, .free] s (execAck m s) :=
  .next (settleFabric_kept (onAnswer_kept (.refl _ s) rfl fun _ _ hs => Kept.foldl (ackOne_kept hs rfl) fun _ _ hs => ackOne_kept hs rfl) rfl)

theorem execNak_kept {m s} : AnsKept [.regs, .mem, .work, .yards, .fab, .crush, .ten, .cores, .boot, .out, .free] s (execNak m s) := by
  unfold execNak
  with_reducible repeat' first
    | exact Kept.refl _ _ | assumption | refine AnsKept.next ?_ | refine nakTo_kept ?_ (by decide) | refine settleFabric_kept ?_ (by decide)
    | refine onAnswer_kept ?_ (by decide) fun s m hs => ?_ | split

theorem execDesc_kept {m s} : AnsKept [.regs, .mem, .work, .yards, .fab, .crush, .ten, .cores, .boot, .out, .free] s (execDesc m s) :=
  .next (onColl_kept (.refl _ s) rfl)

theorem execCount_kept {m s} : AnsKept [.regs, .mem, .work, .yards, .fab, .crush, .ten, .cores, .boot, .out, .free] s (execCount m s) :=
  .next (onColl_kept (.refl _ s) rfl)

theorem execVerdict_kept {m s} : AnsKept [.regs, .mem, .work, .yards, .fab, .crush, .ten, .cores, .boot, .out, .free] s (execVerdict m s) :=
  .next (onColl_kept (.refl _ s) rfl)

theorem execData_kept {m s} : AnsKept [.regs, .mem, .work, .yards, .fab, .crush, .ten, .cores, .boot, .out, .free] s (execData m s) :=
  .next (onColl_kept (.refl _ s) rfl)

theorem execAckVerified_kept {m s} : AnsKept [.regs, .mem, .work, .yards, .fab, .crush, .ten, .cores, .boot, .out, .free] s (execAckVerified m s) :=
  .next (onColl_kept (.refl _ s) rfl)

theorem execRefetch_kept {m s} : AnsKept [.regs, .mem, .work, .yards, .fab, .crush, .ten, .cores, .boot, .out, .free] s (execRefetch m s) :=
  .next (onColl_kept (.refl _ s) rfl)

theorem execAbort_kept {m s} : AnsKept [.regs, .mem, .work, .yards, .fab, .crush, .ten, .cores, .boot, .out, .free] s (execAbort m s) :=
  .next (onColl_kept (.refl _ s) rfl)

theorem execResendTimer_kept {mid s} :
    AnsKept [.regs, .mem, .work, .yards, .fab, .crush, .ten, .cores, .boot, .out, .free] s (execResendTimer mid s) := by
  unfold execResendTimer
  with_reducible repeat' first
    | exact Kept.refl _ _ | refine AnsKept.next ?_ | refine settleFabric_kept ?_ (by decide) | refine launch_kept ?_ (by decide)
    | refine resend_kept ?_ (by decide) | split

theorem execMessageLifetimeExpiry_kept {srcNode cls seq s} : AnsKept [.regs, .fab] s (execMessageLifetimeExpiry srcNode cls seq s) := by
  unfold execMessageLifetimeExpiry
  with_reducible repeat' first
    | exact Kept.refl _ _ | refine AnsKept.next ?_ | refine discardMsg_kept ?_ (by decide) | split
    | fail_if_no_progress refine Kept.setFab ?_ (by decide)

theorem execDeadBound_kept {mid s} :
    AnsKept [.regs, .mem, .work, .yards, .fab, .crush, .ten, .cores, .boot, .out, .free] s (execDeadBound mid s) := by
  unfold execDeadBound
  with_reducible repeat' first
    | exact Kept.refl _ _ | refine AnsKept.next ?_ | refine settleOne_kept ?_ (by decide) | refine settleFabric_kept ?_ (by decide) | split

theorem execRoundTimeout_kept {fn line round s} :
    AnsKept [.regs, .mem, .work, .yards, .fab, .crush, .ten, .cores, .boot, .out, .free] s (execRoundTimeout fn line round s) := by
  unfold execRoundTimeout
  with_reducible repeat' first
    | exact Kept.refl _ _ | assumption | refine AnsKept.next ?_ | refine sendReply_kept ?_ (by decide) | refine settleFabric_kept ?_ (by decide)
    | refine settleAt_kept ?_ (by decide) | refine Kept.foldl ?_ fun s x hs => ?_ | split | fail_if_no_progress refine Kept.setFab ?_ (by decide)

theorem execJeanoSAbort_kept {node s} : AnsKept [.regs] s (execJeanoSAbort node s) :=
  .next (.ite (logErr_kept (.refl _ s) rfl) (wr_kept (wr_kept (.refl _ s) rfl) rfl))

theorem execSAbortSettle_kept {s} : AnsKept [.regs, .mem, .work, .yards, .fab, .crush, .ten, .cores, .boot, .out, .free] s (execSAbortSettle s) :=
  .next (.ite (.refl _ s) (wr_kept (loseMember_kept (settleFabric_kept (Kept.foldl (.refl _ s) fun _ _ hs => settleOne_kept hs rfl) rfl) rfl) rfl))

theorem execMeteringTick_kept {s} : AnsKept [.regs, .live, .fab, .ten, .cfg, .out] s (execMeteringTick s) :=
  .next (Kept.foldl (applyKind_kept (.refl _ s) rfl) fun _ _ hs => (Kept.setFab hs rfl))

theorem execQueueSample_kept {depths delays s} : AnsKept [.regs] s (execQueueSample depths delays s) :=
  .next (.ite (.refl _ s) (Kept.foldl (.refl _ s) fun _ _ hs => bumpSat_kept (bumpSat_kept hs rfl) rfl))

theorem execJeanoSampleClear_kept {s} : AnsKept [.regs] s (execJeanoSampleClear s) :=
  .next (.ite (logErr_kept (.refl _ s) rfl) (Kept.foldl (.refl _ s) fun _ _ hs => wr_kept hs rfl))

end Sys2Proof.Machine
end

section
/-! SUPPORT. The same: the time base and the radio. -/

namespace Sys2Proof.Machine

theorem execTimeMessage_kept {m s} : AnsKept [.regs, .clock, .out, .free] s (execTimeMessage m s) := by
  unfold execTimeMessage
  with_reducible repeat' first
    | exact Kept.refl _ _ | refine AnsKept.next ?_ | refine emit_kept ?_ (by decide) | refine showOffset_kept ?_ (by decide)
    | refine steer_kept ?_ (by decide) | split

theorem execReferenceLoss_kept {s} : AnsKept [.regs, .ten, .clock, .out] s (execReferenceLoss s) :=
  .next (timeLost_kept (healthCause_kept (wr_kept (wr_kept (.refl _ s) rfl) rfl) rfl) rfl)

theorem execReferenceReturn_kept {s} : AnsKept [.regs, .clock] s (execReferenceReturn s) := .next (timeAcquire_kept (wr_kept (.refl _ s) rfl) rfl)

theorem execTimeAddend_kept {value manager s} : AnsKept [.regs] s (execTimeAddend value manager s) :=
  .next (.ite (logErr_kept (.refl _ s) rfl) (.ite (logErr_kept (.refl _ s) rfl) (.ite (logErr_kept (.refl _ s) rfl) (wr_kept (.refl _ s) rfl))))

theorem execTimeStep_kept {value manager s} : AnsKept [.regs, .clock] s (execTimeStep value manager s) := by
  unfold execTimeStep
  with_reducible repeat' first
    | exact Kept.refl _ _ | refine AnsKept.next ?_ | refine applyStep_kept ?_ (by decide) | refine logErr_kept ?_ (by decide) | split
    | fail_if_no_progress refine Kept.setClock ?_ (by decide)

theorem execSync_kept {q domain origin s} : AnsKept [.clock] s (execSync q domain origin s) := by
  unfold execSync
  with_reducible repeat' first
    | exact Kept.refl _ _ | refine AnsKept.next ?_ | refine setPtp_kept ?_ (by decide) | refine takeOrigin_kept ?_ (by decide) | split

theorem execFollowUp_kept {q domain origin s} : AnsKept [.clock] s (execFollowUp q domain origin s) :=
  .next (.ite (takeOrigin_kept (.refl _ s) rfl) (.refl _ s))

theorem execDelayReq_kept {q domain s} : AnsKept [.out] s (execDelayReq q domain s) := .next (.ite (emit_kept (.refl _ s) rfl) (.refl _ s))

theorem execDelayResp_kept {q domain received s} : AnsKept [.regs, .clock, .free] s (execDelayResp q domain received s) := by
  unfold execDelayResp
  with_reducible repeat' first
    | exact Kept.refl _ _ | refine AnsKept.next ?_ | refine setPtp_kept ?_ (by decide) | refine showOffset_kept ?_ (by decide)
    | refine steer_kept ?_ (by decide) | split

theorem execAnnounce_kept {q domain dataset s} : AnsKept [.clock] s (execAnnounce q domain dataset s) :=
  .next (.ite (setPtp_kept (.refl _ s) rfl) (.refl _ s))

theorem execAnnounceTimeout_kept {s} :
    AnsKept [.regs, .clock] s (execAnnounceTimeout s) := .next (.ite (sourceLost_kept (.refl _ s) rfl) (.refl _ s))

theorem execEsmc_kept {q level s} : AnsKept [.regs, .out] s (execEsmc q level s) :=
  .next (.ite (.refl _ s) (Kept.foldl (wr_kept (.refl _ s) rfl) fun _ _ hs => .ite hs (emit_kept hs rfl)))

theorem execSourceLoss_kept {s} : AnsKept [.regs, .clock] s (execSourceLoss s) := .next (sourceLost_kept (.refl _ s) rfl)

theorem execPpsLoss_kept {s} : AnsKept [.regs, .clock] s (execPpsLoss s) := .next (.ite (sourceLost_kept (.refl _ s) rfl) (.refl _ s))

theorem execLeaderLoss_kept {s} : AnsKept [.regs, .clock] s (execLeaderLoss s) := .next (.ite (sourceLost_kept (.refl _ s) rfl) (.refl _ s))

theorem execSourceReturn_kept {s} : AnsKept [.regs, .clock] s (execSourceReturn s) :=
  .next (.ite (.refl _ s) (timeAcquire_kept (Kept.setClock (.refl _ s) rfl) rfl))

theorem execLockAchieved_kept {s} : AnsKept [.regs, .clock] s (execLockAchieved s) :=
  .next (.ite (timeReady_kept (setTimeSt_kept (Kept.setClock (.refl _ s) rfl) rfl) rfl) (.refl _ s))

theorem execHoldoverExpired_kept {s} : AnsKept [.regs] s (execHoldoverExpired s) :=
  .next (.ite (muteCells_kept (setTimeSt_kept (.refl _ s) rfl) rfl) (.refl _ s))

theorem execTimestampPush_kept {q id s} : AnsKept [.regs, .clock] s (execTimestampPush q id s) := by
  unfold execTimestampPush
  with_reducible repeat' first
    | exact Kept.refl _ _ | refine AnsKept.next ?_ | refine Kept.ite ?_ ?_ | refine bump_kept ?_ (by decide) | refine wr_kept ?_ (by decide)
    | fail_if_no_progress refine Kept.setClock ?_ (by decide)

theorem execTsqId_kept {q s} : AnsKept [.regs, .clock, .out] s (execTsqId q s) := by
  unfold execTsqId
  with_reducible repeat' first
    | exact Kept.refl _ _ | refine AnsKept.next ?_ | refine emit_kept ?_ (by decide) | refine readWord_kept ?_ (by decide) | split

theorem execTrigCommit_kept {k group arm s} : AnsKept [.regs, .live, .clock] s (execTrigCommit k group arm s) := by
  unfold execTrigCommit
  with_reducible repeat' first
    | exact Kept.refl _ _ | refine AnsKept.next ?_ | refine logErr_kept ?_ (by decide) | refine settleTrig_kept ?_ (by decide)
    | refine stageTrig_kept ?_ (by decide) | refine takeGroup_kept ?_ (by decide) | refine wr_kept ?_ (by decide) | split

theorem execCaptureEdge_kept {input rising s} : AnsKept [.regs, .clock, .free] s (execCaptureEdge input rising s) := by
  unfold execCaptureEdge
  with_reducible repeat' first
    | exact Kept.refl _ _ | refine AnsKept.next ?_ | refine Kept.ite ?_ ?_ | refine showOffset_kept ?_ (by decide)
    | refine steer_kept ?_ (by decide) | refine wr_kept ?_ (by decide) | fail_if_no_progress refine Kept.setClock ?_ (by decide)

theorem execCapPop_kept {input s} : AnsKept [.regs, .clock, .out] s (execCapPop input s) := by
  unfold execCapPop
  with_reducible repeat' first
    | exact Kept.refl _ _ | refine AnsKept.next ?_ | refine emit_kept ?_ (by decide) | refine readWord_kept ?_ (by decide) | split

theorem execPpsOut_kept {s} : AnsKept [.clock, .out] s (execPpsOut s) := .next (.ite (emit_kept (Kept.setClock (.refl _ s) rfl) rfl) (.refl _ s))

theorem execFapiReqTail_kept {ring value s} : AnsKept [.regs, .host, .ten, .cores, .radio, .out] s (execFapiReqTail ring value s) :=
  .next (.ite (logErr_kept (.refl _ s) rfl) (.ite (logErr_kept (.refl _ s) rfl) (.ite (wr_kept (.refl _ s) rfl) (Kept.foldl (wr_kept (Kept.foldl
    (wr_kept (.refl _ s) rfl) fun _ _ hs => readFapiEntry_kept hs rfl) rfl) fun _ _ hs => coreEvent_kept hs rfl))))

theorem execParamRequest_kept {cell s} : AnsKept [.regs, .host, .ten, .radio, .out] s (execParamRequest cell s) :=
  .next (.ite (.refl _ s) (p5Response_kept (.refl _ s) rfl))

theorem execConfigRequest_kept {cell tlvs s} : AnsKept [.regs, .host, .ten, .radio, .out] s (execConfigRequest cell tlvs s) := by
  unfold execConfigRequest
  with_reducible repeat' first
    | exact Kept.refl _ _ | refine AnsKept.next ?_ | refine p5Response_kept ?_ (by decide) | refine wr_kept ?_ (by decide) | split
    | fail_if_no_progress refine Kept.setRadio ?_ (by decide)

theorem execStartRequest_kept {cell s} : AnsKept [.regs, .host, .ten, .radio, .out] s (execStartRequest cell s) :=
  .next (.ite (.refl _ s) (.ite (p5Response_kept (.refl _ s) rfl) (p5Response_kept (wr_kept (Kept.setRadio (.refl _ s) rfl) rfl) rfl)))

theorem execStopRequest_kept {cell s} : AnsKept [.regs, .host, .ten, .radio, .out] s (execStopRequest cell s) :=
  .next (.ite (.refl _ s) (.ite (p5Response_kept (.refl _ s) rfl) (p5Response_kept (wr_kept (Kept.setRadio (.refl _ s) rfl) rfl) rfl)))

theorem execDlTtiRequest_kept {ring cell sfn slot pdus s} :
    AnsKept [.regs, .host, .work, .ten, .radio, .out] s (execDlTtiRequest ring cell sfn slot pdus s) :=
  .next (p7_kept (.refl _ s) rfl)

theorem execUlTtiRequest_kept {ring cell sfn slot pdus s} :
    AnsKept [.regs, .host, .work, .ten, .radio, .out] s (execUlTtiRequest ring cell sfn slot pdus s) :=
  .next (p7_kept (.refl _ s) rfl)

theorem execUlDciRequest_kept {ring cell sfn slot pdus s} :
    AnsKept [.regs, .host, .work, .ten, .radio, .out] s (execUlDciRequest ring cell sfn slot pdus s) :=
  .next (p7_kept (.refl _ s) rfl)

theorem execTxDataRequest_kept {ring cell sfn slot pdus s} :
    AnsKept [.regs, .host, .work, .ten, .radio, .out] s (execTxDataRequest ring cell sfn slot pdus s) :=
  .next (p7_kept (.refl _ s) rfl)

theorem execSlotIndication_kept {cell sfn slot s} : AnsKept [.regs, .host, .ten, .radio, .out] s (execSlotIndication cell sfn slot s) := by
  unfold execSlotIndication
  with_reducible repeat' first
    | exact Kept.refl _ _ | refine AnsKept.next ?_ | refine Kept.ite ?_ ?_ | refine bump_kept ?_ (by decide)
    | refine indicateCell_kept ?_ (by decide) | refine pruneSlots_kept ?_ (by decide) | split

theorem execUplinkUPlane_kept {cell frame s} : AnsKept [.regs, .radio] s (execUplinkUPlane cell frame s) := by
  unfold execUplinkUPlane
  with_reducible repeat' first
    | exact Kept.refl _ _ | refine AnsKept.next ?_ | refine Kept.ite ?_ ?_ | refine bump_kept ?_ (by decide)
    | refine fhDiscard_kept ?_ (by decide) | refine fhReceived_kept ?_ (by decide) | split
    | fail_if_no_progress refine Kept.setRadio ?_ (by decide)

theorem execReceivedCPlane_kept {lport s} : AnsKept [.regs] s (execReceivedCPlane lport s) :=
  .next (fhDiscard_kept (fhReceived_kept (.refl _ s) rfl) rfl)

theorem execUnknownFrame_kept {lport s} :
    AnsKept [.regs] s (execUnknownFrame lport s) := .next (fhDiscard_kept (fhReceived_kept (.refl _ s) rfl) rfl)

theorem execOneWayDelay_kept {lport id s} : AnsKept [.regs, .out] s (execOneWayDelay lport id s) :=
  .next (bump_kept (emit_kept (fhReceived_kept (.refl _ s) rfl) rfl) rfl)

theorem execArpRequest_kept {port addr s} : AnsKept [.out] s (execArpRequest port addr s) := .next (.ite (emit_kept (.refl _ s) rfl) (.refl _ s))

theorem execNeighborSolicitation_kept {port addr s} : AnsKept [.out] s (execNeighborSolicitation port addr s) :=
  .next (.ite (emit_kept (.refl _ s) rfl) (.refl _ s))

theorem execSymbolRelease_kept {cell sfn slot sym s} :
    AnsKept [.regs, .mem, .host, .ten, .radio, .boot, .out] s (execSymbolRelease cell sfn slot sym s) := by
  unfold execSymbolRelease
  with_reducible repeat' first
    | exact Kept.refl _ _ | assumption | refine AnsKept.next ?_ | refine Kept.ite ?_ ?_ | refine bump_kept ?_ (by decide)
    | refine emit_kept ?_ (by decide) | refine fillTokens_kept ?_ (by decide) | refine indicateCell_kept ?_ (by decide)
    | refine buildFrames_kept ?_ (by decide) | refine sendFrames_kept ?_ (by decide) | refine Kept.foldl_fst ?_ fun p x hp => ?_ | split
    | fail_if_no_progress refine Kept.setRadio ?_ (by decide)

theorem execTransmitWindowEnd_kept {cell sfn slot sym s} :
    AnsKept [.regs, .host, .ten, .cores, .radio, .out] s (execTransmitWindowEnd cell sfn slot sym s) := by
  unfold execTransmitWindowEnd
  with_reducible repeat' first
    | exact Kept.refl _ _ | assumption | refine AnsKept.next ?_ | refine Kept.ite ?_ ?_ | refine coreComplete_kept ?_ (by decide)
    | refine fillTokens_kept ?_ (by decide) | refine radioLate_kept ?_ (by decide) | refine sendFrames_kept ?_ (by decide)
    | refine Kept.foldl ?_ fun s x hs => ?_ | split | fail_if_no_progress refine Kept.setRadio ?_ (by decide)

theorem execReceptionWindowClose_kept {cell sfn slot sym s} : AnsKept [.regs, .cores] s (execReceptionWindowClose cell sfn slot sym s) := by
  unfold execReceptionWindowClose
  with_reducible repeat' first | exact Kept.refl _ _ | refine AnsKept.next ?_ | refine slotEvent_kept ?_ (by decide) | split

theorem execDecodeRelease_kept {mu sfn slot s} : AnsKept [.regs, .radio] s (execDecodeRelease mu sfn slot s) :=
  .next (.ite (.refl _ s) (Kept.foldl (.ite (bump_kept (raiseTo_kept (.refl _ s) rfl) rfl) (raiseTo_kept (.refl _ s) rfl)) fun _ _ hs =>
    markCapped_kept hs rfl))

theorem execIndicationDeadline_kept {cell sfn slot affected s} : AnsKept [.regs, .radio] s (execIndicationDeadline cell sfn slot affected s) :=
  .next (.ite (.refl _ s) (.ite (Kept.setRadio (.refl _ s) rfl) (Kept.setRadio (bump_kept (.refl _ s) rfl) rfl)))

theorem execLdpcDec_kept {engine s} : AnsKept [.regs, .mem, .host, .ten, .cores, .radio, .boot, .out] s (execLdpcDec engine s) :=
  .next (engineTakes_kept (.refl _ s) rfl)

theorem execLdpcEnc_kept {engine s} : AnsKept [.regs, .mem, .host, .ten, .cores, .radio, .boot, .out] s (execLdpcEnc engine s) :=
  .next (engineTakes_kept (.refl _ s) rfl)

theorem execPolarDec_kept {engine s} : AnsKept [.regs, .mem, .host, .ten, .cores, .radio, .boot, .out] s (execPolarDec engine s) :=
  .next (engineTakes_kept (.refl _ s) rfl)

theorem execPolarEnc_kept {engine s} : AnsKept [.regs, .mem, .host, .ten, .cores, .radio, .boot, .out] s (execPolarEnc engine s) :=
  .next (engineTakes_kept (.refl _ s) rfl)

end Sys2Proof.Machine
end

section
/-! SUPPORT. The same: the Chisel instructions. -/

namespace Sys2Proof.Machine

theorem execNop_kept {core last s} : AnsKept [.regs, .work, .ten, .cores, .radio, .out] s (execNop core last s) :=
  .next (plainSlot_kept (.refl _ s) rfl)

theorem execAdd_kept {core gd ga gb sat last s} : AnsKept [.regs, .work, .ten, .cores, .radio, .out] s (execAdd core gd ga gb sat last s) :=
  .next (salu_kept (.refl _ s) rfl)

theorem execSub_kept {core gd ga gb sat last s} : AnsKept [.regs, .work, .ten, .cores, .radio, .out] s (execSub core gd ga gb sat last s) :=
  .next (salu_kept (.refl _ s) rfl)

theorem execAnd_kept {core gd ga gb _sat last s} : AnsKept [.regs, .work, .ten, .cores, .radio, .out] s (execAnd core gd ga gb _sat last s) :=
  .next (salu_kept (.refl _ s) rfl)

theorem execOr_kept {core gd ga gb _sat last s} : AnsKept [.regs, .work, .ten, .cores, .radio, .out] s (execOr core gd ga gb _sat last s) :=
  .next (salu_kept (.refl _ s) rfl)

theorem execXor_kept {core gd ga gb _sat last s} : AnsKept [.regs, .work, .ten, .cores, .radio, .out] s (execXor core gd ga gb _sat last s) :=
  .next (salu_kept (.refl _ s) rfl)

theorem execShl_kept {core gd ga gb sat last s} : AnsKept [.regs, .work, .ten, .cores, .radio, .out, .free] s (execShl core gd ga gb sat last s) :=
  .next (drawnIf_kept (salu_kept (.refl _ s) rfl) rfl)

theorem execShr_kept {core gd ga gb _sat last s} :
    AnsKept [.regs, .work, .ten, .cores, .radio, .out, .free] s (execShr core gd ga gb _sat last s) :=
  .next (drawnIf_kept (salu_kept (.refl _ s) rfl) rfl)

theorem execShru_kept {core gd ga gb _sat last s} :
    AnsKept [.regs, .work, .ten, .cores, .radio, .out, .free] s (execShru core gd ga gb _sat last s) :=
  .next (drawnIf_kept (salu_kept (.refl _ s) rfl) rfl)

theorem execMin_kept {core gd ga gb _sat last s} : AnsKept [.regs, .work, .ten, .cores, .radio, .out] s (execMin core gd ga gb _sat last s) :=
  .next (salu_kept (.refl _ s) rfl)

theorem execMax_kept {core gd ga gb _sat last s} : AnsKept [.regs, .work, .ten, .cores, .radio, .out] s (execMax core gd ga gb _sat last s) :=
  .next (salu_kept (.refl _ s) rfl)

theorem execSlt_kept {core gd ga gb _sat last s} : AnsKept [.regs, .work, .ten, .cores, .radio, .out] s (execSlt core gd ga gb _sat last s) :=
  .next (salu_kept (.refl _ s) rfl)

theorem execSltu_kept {core gd ga gb _sat last s} : AnsKept [.regs, .work, .ten, .cores, .radio, .out] s (execSltu core gd ga gb _sat last s) :=
  .next (salu_kept (.refl _ s) rfl)

theorem execMul_kept {core gd ga gb sat last s} : AnsKept [.regs, .work, .ten, .cores, .radio, .out] s (execMul core gd ga gb sat last s) :=
  .next (salu_kept (.refl _ s) rfl)

theorem execMulh_kept {core gd ga gb _sat last s} : AnsKept [.regs, .work, .ten, .cores, .radio, .out] s (execMulh core gd ga gb _sat last s) :=
  .next (salu_kept (.refl _ s) rfl)

theorem execAddi_kept {core gd ga imm last s} : AnsKept [.regs, .work, .ten, .cores, .radio, .out] s (execAddi core gd ga imm last s) :=
  .next (salui_kept (.refl _ s) rfl)

theorem execAndi_kept {core gd ga imm last s} : AnsKept [.regs, .work, .ten, .cores, .radio, .out] s (execAndi core gd ga imm last s) :=
  .next (salui_kept (.refl _ s) rfl)

theorem execOri_kept {core gd ga imm last s} : AnsKept [.regs, .work, .ten, .cores, .radio, .out] s (execOri core gd ga imm last s) :=
  .next (salui_kept (.refl _ s) rfl)

theorem execXori_kept {core gd ga imm last s} : AnsKept [.regs, .work, .ten, .cores, .radio, .out] s (execXori core gd ga imm last s) :=
  .next (salui_kept (.refl _ s) rfl)

theorem execShli_kept {core gd ga imm last s} : AnsKept [.regs, .work, .ten, .cores, .radio, .out, .free] s (execShli core gd ga imm last s) :=
  .next (drawnIf_kept (salui_kept (.refl _ s) rfl) rfl)

theorem execShri_kept {core gd ga imm last s} : AnsKept [.regs, .work, .ten, .cores, .radio, .out, .free] s (execShri core gd ga imm last s) :=
  .next (drawnIf_kept (salui_kept (.refl _ s) rfl) rfl)

theorem execShrui_kept {core gd ga imm last s} : AnsKept [.regs, .work, .ten, .cores, .radio, .out, .free] s (execShrui core gd ga imm last s) :=
  .next (drawnIf_kept (salui_kept (.refl _ s) rfl) rfl)

theorem execLui_kept {core gd imm last s} : AnsKept [.regs, .work, .ten, .cores, .radio, .out] s (execLui core gd imm last s) :=
  .next (plainSlot_kept (.refl _ s) rfl)

theorem execB_kept {core off last s} : AnsKept [.regs, .work, .ten, .cores, .radio, .out] s (execB core off last s) :=
  .next (controlSlot_kept (.refl _ s) rfl)

theorem execBeqz_kept {core ga off last s} : AnsKept [.regs, .work, .ten, .cores, .radio, .out] s (execBeqz core ga off last s) :=
  .next (branchIf_kept (.refl _ s) rfl)

theorem execBnez_kept {core ga off last s} : AnsKept [.regs, .work, .ten, .cores, .radio, .out] s (execBnez core ga off last s) :=
  .next (branchIf_kept (.refl _ s) rfl)

theorem execBltz_kept {core ga off last s} : AnsKept [.regs, .work, .ten, .cores, .radio, .out] s (execBltz core ga off last s) :=
  .next (branchIf_kept (.refl _ s) rfl)

theorem execBgez_kept {core ga off last s} : AnsKept [.regs, .work, .ten, .cores, .radio, .out] s (execBgez core ga off last s) :=
  .next (branchIf_kept (.refl _ s) rfl)

theorem execBgtz_kept {core ga off last s} : AnsKept [.regs, .work, .ten, .cores, .radio, .out] s (execBgtz core ga off last s) :=
  .next (branchIf_kept (.refl _ s) rfl)

theorem execBlez_kept {core ga off last s} : AnsKept [.regs, .work, .ten, .cores, .radio, .out] s (execBlez core ga off last s) :=
  .next (branchIf_kept (.refl _ s) rfl)

theorem execCall_kept {core off last s} : AnsKept [.regs, .work, .ten, .cores, .radio, .out] s (execCall core off last s) :=
  .next (controlSlot_kept (.refl _ s) rfl)

theorem execJr_kept {core ga last s} : AnsKept [.regs, .work, .ten, .cores, .radio, .out] s (execJr core ga last s) :=
  .next (controlSlot_kept (.refl _ s) rfl)

theorem execRti_kept {core last s} : AnsKept [.regs, .work, .ten, .cores, .radio, .out] s (execRti core last s) :=
  .next (controlSlot_kept (.refl _ s) rfl)

theorem execLoop_kept {core level gs lend last s} : AnsKept [.regs, .work, .ten, .cores, .radio, .out] s (execLoop core level gs lend last s) :=
  .next (controlSlot_kept (.refl _ s) rfl)

theorem execLoopi_kept {core level count lend last s} :
    AnsKept [.regs, .work, .ten, .cores, .radio, .out] s (execLoopi core level count lend last s) :=
  .next (controlSlot_kept (.refl _ s) rfl)

theorem execMfs_kept {core gd num last s} : AnsKept [.regs, .work, .ten, .cores, .radio, .out] s (execMfs core gd num last s) :=
  .next (issueSlot_kept (.refl _ s) rfl)

theorem execMts_kept {core ga num last s} : AnsKept [.regs, .work, .ten, .cores, .radio, .out] s (execMts core ga num last s) :=
  .next (issueSlot_kept (.refl _ s) rfl)

theorem execPostSieve_kept {core a units last s} :
    AnsKept [.regs, .mem, .host, .work, .ten, .cores, .radio, .boot, .out] s (execPostSieve core a units last s) :=
  .next (postSlot_kept (.refl _ s) rfl)

theorem execPostRadioCmd_kept {core a units last s} :
    AnsKept [.regs, .mem, .host, .work, .ten, .cores, .radio, .boot, .out] s (execPostRadioCmd core a units last s) :=
  .next (postSlot_kept (.refl _ s) rfl)

theorem execPostMbox_kept {core a units last s} :
    AnsKept [.regs, .mem, .host, .work, .ten, .cores, .radio, .boot, .out] s (execPostMbox core a units last s) :=
  .next (postSlot_kept (.refl _ s) rfl)

theorem execPostFhTx_kept {core a units last s} :
    AnsKept [.regs, .mem, .host, .work, .ten, .cores, .radio, .boot, .out] s (execPostFhTx core a units last s) :=
  .next (postSlot_kept (.refl _ s) rfl)

theorem execPostFapiInd_kept {core a units last s} :
    AnsKept [.regs, .mem, .host, .work, .ten, .cores, .radio, .boot, .out] s (execPostFapiInd core a units last s) :=
  .next (postSlot_kept (.refl _ s) rfl)

theorem execPortQueueEntryFreed_kept {core s} :
    AnsKept [.regs, .mem, .host, .work, .ten, .cores, .radio, .boot, .out] s (execPortQueueEntryFreed core s) :=
  .next (tryPost_kept (.refl _ s) rfl)

theorem execWait_kept {core ga last s} : AnsKept [.regs, .work, .ten, .cores, .radio, .out] s (execWait core ga last s) :=
  .next (controlSlot_kept (.refl _ s) rfl)

theorem execWaitEnd_kept {core s} : AnsKept [.regs, .cores] s (execWaitEnd core s) := .next (.ite (endWait_kept (.refl _ s) rfl) (.refl _ s))

theorem execEvset_kept {core last s} : AnsKept [.regs, .work, .ten, .cores, .radio, .out] s (execEvset core last s) :=
  .next (plainSlot_kept (.refl _ s) rfl)

theorem execLd16_kept {core y g a post off last s} : AnsKept [.regs, .work, .ten, .cores, .radio, .out] s (execLd16 core y g a post off last s) :=
  .next (loadSlot_kept (.refl _ s) rfl)

theorem execLd32_kept {core y g a post off last s} : AnsKept [.regs, .work, .ten, .cores, .radio, .out] s (execLd32 core y g a post off last s) :=
  .next (loadSlot_kept (.refl _ s) rfl)

theorem execLdv_kept {core y v a post off last s} : AnsKept [.regs, .work, .ten, .cores, .radio, .out] s (execLdv core y v a post off last s) :=
  .next (loadSlot_kept (.refl _ s) rfl)

theorem execLdbc_kept {core y v a post off last s} : AnsKept [.regs, .work, .ten, .cores, .radio, .out] s (execLdbc core y v a post off last s) :=
  .next (loadSlot_kept (.refl _ s) rfl)

theorem execSt16_kept {core y g a post off last s} : AnsKept [.regs, .work, .ten, .cores, .radio, .out] s (execSt16 core y g a post off last s) :=
  .next (storeSlot_kept (.refl _ s) rfl)

theorem execSt32_kept {core y g a post off last s} : AnsKept [.regs, .work, .ten, .cores, .radio, .out] s (execSt32 core y g a post off last s) :=
  .next (storeSlot_kept (.refl _ s) rfl)

theorem execStv_kept {core y v a post off last s} : AnsKept [.regs, .work, .ten, .cores, .radio, .out] s (execStv core y v a post off last s) :=
  .next (storeSlot_kept (.refl _ s) rfl)

theorem execMova_kept {core ga a last s} : AnsKept [.regs, .work, .ten, .cores, .radio, .out] s (execMova core ga a last s) :=
  .next (plainSlot_kept (.refl _ s) rfl)

theorem execAdda_kept {core a off last s} : AnsKept [.regs, .work, .ten, .cores, .radio, .out] s (execAdda core a off last s) :=
  .next (plainSlot_kept (.refl _ s) rfl)

theorem execMfa_kept {core gd a last s} : AnsKept [.regs, .work, .ten, .cores, .radio, .out] s (execMfa core gd a last s) :=
  .next (plainSlot_kept (.refl _ s) rfl)

theorem execVadd_kept {core vd va vb sat last s} : AnsKept [.regs, .work, .ten, .cores, .radio, .out] s (execVadd core vd va vb sat last s) :=
  .next (vec2_kept (.refl _ s) rfl)

theorem execVsub_kept {core vd va vb sat last s} : AnsKept [.regs, .work, .ten, .cores, .radio, .out] s (execVsub core vd va vb sat last s) :=
  .next (vec2_kept (.refl _ s) rfl)

theorem execVand_kept {core vd va vb last s} : AnsKept [.regs, .work, .ten, .cores, .radio, .out] s (execVand core vd va vb last s) :=
  .next (vecBits_kept (.refl _ s) rfl)

theorem execVor_kept {core vd va vb last s} : AnsKept [.regs, .work, .ten, .cores, .radio, .out] s (execVor core vd va vb last s) :=
  .next (vecBits_kept (.refl _ s) rfl)

theorem execVxor_kept {core vd va vb last s} : AnsKept [.regs, .work, .ten, .cores, .radio, .out] s (execVxor core vd va vb last s) :=
  .next (vecBits_kept (.refl _ s) rfl)

theorem execVshl_kept {core vd va sh sat last s} : AnsKept [.regs, .work, .ten, .cores, .radio, .out] s (execVshl core vd va sh sat last s) :=
  .next (plainSlot_kept (.refl _ s) rfl)

theorem execVshr_kept {core vd va sh sat last s} : AnsKept [.regs, .work, .ten, .cores, .radio, .out] s (execVshr core vd va sh sat last s) :=
  .next (plainSlot_kept (.refl _ s) rfl)

theorem execVmax_kept {core vd va vb last s} : AnsKept [.regs, .work, .ten, .cores, .radio, .out] s (execVmax core vd va vb last s) :=
  .next (vec2_kept (.refl _ s) rfl)

theorem execVmin_kept {core vd va vb last s} : AnsKept [.regs, .work, .ten, .cores, .radio, .out] s (execVmin core vd va vb last s) :=
  .next (vec2_kept (.refl _ s) rfl)

theorem execVabs_kept {core vd va sat last s} : AnsKept [.regs, .work, .ten, .cores, .radio, .out] s (execVabs core vd va sat last s) :=
  .next (plainSlot_kept (.refl _ s) rfl)

theorem execVneg_kept {core vd va sat last s} : AnsKept [.regs, .work, .ten, .cores, .radio, .out] s (execVneg core vd va sat last s) :=
  .next (plainSlot_kept (.refl _ s) rfl)

theorem execVaddw_kept {core vd va vb sat last s} : AnsKept [.regs, .work, .ten, .cores, .radio, .out] s (execVaddw core vd va vb sat last s) :=
  .next (issueSlot_kept (.refl _ s) rfl)

theorem execVsubw_kept {core vd va vb sat last s} : AnsKept [.regs, .work, .ten, .cores, .radio, .out] s (execVsubw core vd va vb sat last s) :=
  .next (issueSlot_kept (.refl _ s) rfl)

theorem execVmul_kept {core vd va vb sh sat last s} : AnsKept [.regs, .work, .ten, .cores, .radio, .out] s (execVmul core vd va vb sh sat last s) :=
  .next (plainSlot_kept (.refl _ s) rfl)

theorem execVmac_kept {core vd va vb sh sat last s} : AnsKept [.regs, .work, .ten, .cores, .radio, .out] s (execVmac core vd va vb sh sat last s) :=
  .next (plainSlot_kept (.refl _ s) rfl)

theorem execVmacw_kept {core vd va vb sh sat last s} :
    AnsKept [.regs, .work, .ten, .cores, .radio, .out] s (execVmacw core vd va vb sh sat last s) :=
  .next (issueSlot_kept (.refl _ s) rfl)

theorem execVcmul_kept {core vd va vb sh sat conj last s} :
    AnsKept [.regs, .work, .ten, .cores, .radio, .out] s (execVcmul core vd va vb sh sat conj last s) :=
  .next (plainSlot_kept (.refl _ s) rfl)

theorem execVcmac_kept {core vd va vb sh sat conj last s} :
    AnsKept [.regs, .work, .ten, .cores, .radio, .out] s (execVcmac core vd va vb sh sat conj last s) :=
  .next (plainSlot_kept (.refl _ s) rfl)

theorem execVcmacw_kept {core vd va vb sh sat conj last s} :
    AnsKept [.regs, .work, .ten, .cores, .radio, .out] s (execVcmacw core vd va vb sh sat conj last s) :=
  .next (issueSlot_kept (.refl _ s) rfl)

theorem execVmov_kept {core vd va last s} : AnsKept [.regs, .work, .ten, .cores, .radio, .out] s (execVmov core vd va last s) :=
  .next (plainSlot_kept (.refl _ s) rfl)

theorem execVbcast_kept {core vd ga last s} : AnsKept [.regs, .work, .ten, .cores, .radio, .out] s (execVbcast core vd ga last s) :=
  .next (plainSlot_kept (.refl _ s) rfl)

theorem execVperm_kept {core vd va vb last s} : AnsKept [.regs, .work, .ten, .cores, .radio, .out] s (execVperm core vd va vb last s) :=
  .next (plainSlot_kept (.refl _ s) rfl)

theorem execVnrw_kept {core vd va sh sat last s} : AnsKept [.regs, .work, .ten, .cores, .radio, .out] s (execVnrw core vd va sh sat last s) :=
  .next (issueSlot_kept (.refl _ s) rfl)

theorem execVzero_kept {core vd last s} : AnsKept [.regs, .work, .ten, .cores, .radio, .out] s (execVzero core vd last s) :=
  .next (plainSlot_kept (.refl _ s) rfl)

end Sys2Proof.Machine
end

section
/-! SUPPORT. The same: core events, streams and tenancy. -/

namespace Sys2Proof.Machine

theorem execInterruptEntry_kept {core s} : AnsKept [.regs, .work, .ten, .cores, .radio, .out] s (execInterruptEntry core s) :=
  .ite (.next (.refl _ s)) (.next (.ite (coreFault_kept (putCore_kept (.ite (endWait_kept (.refl _ s) rfl) (.refl _ s)) rfl) rfl) (showCore_kept
    (putCore_kept (.ite (endWait_kept (.refl _ s) rfl) (.refl _ s)) rfl) rfl)))

theorem execTcmp_kept {core s} : AnsKept [.regs, .cores] s (execTcmp core s) :=
  .next (.ite (showCore_kept (putCore_kept (.refl _ s) rfl) rfl) (.refl _ s))

theorem execCompletionEntry_kept {core s} : AnsKept [.regs, .mem, .host, .work, .ten, .cores, .radio, .boot, .out] s (execCompletionEntry core s) :=
  .next (.ite (tryPost_kept (showCore_kept (putCore_kept (.refl _ s) rfl) rfl) rfl) (.refl _ s))

theorem execWatchdog_kept {core s} : AnsKept [.regs, .work, .ten, .cores, .radio, .out] s (execWatchdog core s) :=
  .next (.ite (coreFault_kept (.refl _ s) rfl) (.refl _ s))

theorem execCoreRestart_kept {core s} : AnsKept [.regs, .cores] s (execCoreRestart core s) := by
  unfold execCoreRestart
  with_reducible repeat' first
    | exact Kept.refl _ _ | refine AnsKept.next ?_ | refine bumpSat_kept ?_ (by decide) | refine putCore_kept ?_ (by decide)
    | refine showCore_kept ?_ (by decide) | refine wr_kept ?_ (by decide) | split

theorem execL1ImageLoad_kept {idx s} : AnsKept [.regs, .cores, .images] s (execL1ImageLoad idx s) := by
  unfold execL1ImageLoad
  with_reducible repeat' first
    | exact Kept.refl _ _ | assumption | refine AnsKept.next ?_ | refine fnSet_kept ?_ (by decide) | refine l1Fail_kept ?_ (by decide)
    | refine measure_kept ?_ (by decide) | refine putCore_kept ?_ (by decide) | refine radioReady_kept ?_ (by decide)
    | refine showCore_kept ?_ (by decide) | refine wr_kept ?_ (by decide) | refine Kept.foldl ?_ fun s x hs => ?_ | split | dsimp only
    | fail_if_no_progress refine Kept.setImages ?_ (by decide)

theorem execRoeRxPacket_kept {stream sfn seq native samples s} : AnsKept [.regs, .tdfe] s (execRoeRxPacket stream sfn seq native samples s) := by
  unfold execRoeRxPacket
  with_reducible repeat' first
    | exact Kept.refl _ _ | refine AnsKept.next ?_ | refine Kept.ite ?_ ?_ | refine bump_kept ?_ (by decide) | split
    | fail_if_no_progress refine Kept.setTdfe ?_ (by decide)

theorem execTxPacket_kept {stream sfn seq ready s} :
    AnsKept [.regs, .host, .ten, .cores, .radio, .out] s (execTxPacket stream sfn seq ready s) := by
  unfold execTxPacket
  with_reducible repeat' first
    | exact Kept.refl _ _ | refine AnsKept.next ?_ | refine Kept.ite ?_ ?_ | refine bump_kept ?_ (by decide) | refine emit_kept ?_ (by decide)
    | refine radioLate_kept ?_ (by decide) | refine streamEvent_kept ?_ (by decide) | split

theorem execRxSymbol_kept {stream sfn slot sym s} : AnsKept [.regs, .cores, .radio, .free] s (execRxSymbol stream sfn slot sym s) := by
  unfold execRxSymbol
  refine .next ?_
  split
  · exact streamEvent_kept (Kept.setRadio (drawn_kept (bump_kept (bump_kept (.refl _ s) rfl) rfl) rfl) rfl) rfl
  · exact .refl _ s

theorem execMaskBlock_kept {stream powers s} : AnsKept [.regs, .live, .ten, .cores, .tdfe, .cfg, .out] s (execMaskBlock stream powers s) := by
  unfold execMaskBlock
  with_reducible repeat' first
    | exact Kept.refl _ _ | assumption | refine AnsKept.next ?_ | refine Kept.ite ?_ ?_ | refine applySnap_kept ?_ (by decide)
    | refine bump_kept ?_ (by decide) | refine healthCause_kept ?_ (by decide) | refine streamEvent_kept ?_ (by decide)
    | refine wr_kept ?_ (by decide) | refine Kept.foldl ?_ fun s x hs => ?_ | split | fail_if_no_progress refine Kept.setTdfe ?_ (by decide)

theorem execUnmute_kept {stream s} : AnsKept [.regs] s (execUnmute stream s) :=
  .next (whenReached_kept (.refl _ s) rfl fun _ hs => .ite (logErr_kept hs rfl) (.ite hs (wr_kept hs rfl)))

theorem execChirpDetect_kept {channel sf hit s} : AnsKept [.regs, .tdfe] s (execChirpDetect channel sf hit s) :=
  .next (.ite (.refl _ s) (.ite (bump_kept (.refl _ s) rfl) (.ite (bump_kept (.refl _ s) rfl) (Kept.setTdfe (.refl _ s) rfl))))

theorem execPacketEnd_kept {channel sf pkt room s} :
    AnsKept [.regs, .mem, .ten, .cores, .tdfe, .boot, .out] s (execPacketEnd channel sf pkt room s) := by
  unfold execPacketEnd
  with_reducible repeat' first
    | exact Kept.refl _ _ | refine AnsKept.next ?_ | refine Kept.ite ?_ ?_ | refine bump_kept ?_ (by decide)
    | refine chirpEvent_kept ?_ (by decide) | refine radioWrite_kept ?_ (by decide) | split
    | fail_if_no_progress refine Kept.setTdfe ?_ (by decide)

theorem execNoiseFloor_kept {channel idle s} : AnsKept [.regs] s (execNoiseFloor channel idle s) := by
  unfold execNoiseFloor
  with_reducible repeat' first | exact Kept.refl _ _ | refine AnsKept.next ?_ | refine Kept.ite ?_ ?_ | refine wr_kept ?_ (by decide) | split

theorem execChirpTxRingRead_kept {tail s} : AnsKept [.regs, .mem, .host, .ten, .cores, .radio, .tdfe, .boot, .out] s (execChirpTxRingRead tail s) :=
  .next (.ite (.refl _ s) (Kept.setTdfe (Kept.foldl (.refl _ s) fun _ _ hs => chirpTxEntry_kept (radioRead_kept hs rfl) rfl) rfl))

theorem execChirpTxDone_kept {channel tag s} : AnsKept [.regs, .cores, .tdfe] s (execChirpTxDone channel tag s) := by
  unfold execChirpTxDone
  with_reducible repeat' first
    | exact Kept.refl _ _ | refine AnsKept.next ?_ | refine chirpEvent_kept ?_ (by decide) | split
    | fail_if_no_progress refine Kept.setTdfe ?_ (by decide)

theorem execNumVfs_kept {n s} : AnsKept [.regs, .live, .mem, .work, .yards, .fab, .crush, .ten, .cores, .boot, .out, .free] s (execNumVfs n s) :=
  .next (.ite (logErr_kept (.refl _ s) rfl) (.ite (logErr_kept (.refl _ s) rfl) (.ite (applyNumVfs_kept (.refl _ s) rfl) (Kept.setBoot (.refl _ s)
    rfl id))))

theorem execStop_kept {fn s} : AnsKept [.regs] s (execStop fn s) :=
  .next (onVf_kept (.refl _ s) rfl fun _ hs => .ite (wr_kept (setVf_kept hs rfl) rfl) (.ite hs (ctlRefuse_kept hs rfl)))

theorem execStopClear_kept {fn s} : AnsKept [.regs] s (execStopClear fn s) :=
  .next (onVf_kept (.refl _ s) rfl fun _ hs => .ite (vfActive_kept hs rfl) (.ite (ctlRefuse_kept hs rfl) hs))

theorem execQuiesced_kept {fn s} : AnsKept [.regs] s (execQuiesced fn s) := .next (.ite (setVf_kept (.refl _ s) rfl) (.refl _ s))

theorem execReset_kept {fn s} : AnsKept [.regs, .work, .yards, .ten] s (execReset fn s) :=
  .next (onVf_kept (.refl _ s) rfl fun _ hs => .ite (resetActions_kept hs rfl) (ctlRefuse_kept hs rfl))

theorem execForceReset_kept {fn s} : AnsKept [.regs, .mem, .work, .yards, .fab, .crush, .ten, .cores, .boot, .out, .free] s (execForceReset fn s) :=
  .next (onVf_kept (.refl _ s) rfl fun _ hs => forceWith_kept hs rfl)

theorem execFlr_kept {fn s} : AnsKept [.regs, .mem, .work, .yards, .fab, .crush, .ten, .cores, .boot, .out, .free] s (execFlr fn s) :=
  .next (.ite (.refl _ s) (forceWith_kept (.refl _ s) rfl))

theorem execForcedResetDone_kept {fn s} : AnsKept [.regs, .mem, .work, .yards, .fab, .ten, .free] s (execForcedResetDone fn s) := by
  unfold execForcedResetDone
  with_reducible repeat' first
    | exact Kept.refl _ _ | refine AnsKept.next ?_ | refine resetActions_kept ?_ (by decide) | refine freshKey_kept ?_ (by decide)
    | refine releaseLots_kept ?_ (by decide) | refine setVf_kept ?_ (by decide) | split | fail_if_no_progress refine Kept.setFab ?_ (by decide)
    | fail_if_no_progress refine Kept.setTen ?_ (by decide)

theorem execFreeze_kept {fn s} : AnsKept [.regs, .yards, .health] s (execFreeze fn s) :=
  .next (onVf_kept (.refl _ s) rfl fun _ hs => .ite (emptyBenches_kept (wr_kept (setVf_kept hs rfl) rfl) rfl) (ctlRefuse_kept hs rfl))

theorem execFrozen_kept {fn s} : AnsKept [.regs, .yards, .health] s (execFrozen fn s) :=
  .next (.ite (.refl _ s) (.ite (wr_kept (setVf_kept (.refl _ s) rfl) rfl) (emptyBenches_kept (.refl _ s) rfl)))

theorem execResume_kept {fn s} : AnsKept [.regs] s (execResume fn s) :=
  .next (onVf_kept (.refl _ s) rfl fun _ hs => .ite (vfActive_kept hs rfl) (ctlRefuse_kept hs rfl))

theorem execSaveLive_kept {s} : AnsKept [.regs, .mem, .host, .ten, .boot, .out, .free] s (execSaveLive s) := by
  unfold execSaveLive
  with_reducible repeat' first
    | exact Kept.refl _ _ | refine AnsKept.next ?_ | refine drawn_kept ?_ (by decide) | refine migOpen_kept ?_ (by decide)
    | refine saveImage_kept ?_ (by decide) | split | dsimp only | fail_if_no_progress refine Kept.setTen ?_ (by decide)

theorem execSaveFinal_kept {s} : AnsKept [.regs, .mem, .host, .ten, .boot, .out] s (execSaveFinal s) := by
  unfold execSaveFinal
  with_reducible repeat' first
    | exact Kept.refl _ _ | refine AnsKept.next ?_ | refine migOpen_kept ?_ (by decide) | refine saveImage_kept ?_ (by decide) | split

theorem execRestore_kept {s} : AnsKept [.regs, .mem, .work, .yards, .ten, .cores, .boot, .out] s (execRestore s) := by
  unfold execRestore
  refine .next ?_
  with_reducible repeat' first
    | exact Kept.refl _ _ | refine Kept.ite ?_ ?_ | refine migOpen_kept ?_ (by decide) | refine loadLots_kept ?_ (by decide)
    | refine loadRegions_kept ?_ (by decide) | refine loadState_kept ?_ (by decide) | refine showFn_kept ?_ (by decide)
    | refine Kept.fst (by assumption) ?_ | refine migRead_kept ?_ (by decide) | split | dsimp only
    | fail_if_no_progress refine Kept.setTen ?_ (by decide)

theorem execMigrationComplete_kept {s} : AnsKept [.regs, .ten] s (execMigrationComplete s) := by
  unfold execMigrationComplete
  with_reducible repeat' first
    | exact Kept.refl _ _ | refine AnsKept.next ?_ | refine wr_kept ?_ (by decide) | split
    | fail_if_no_progress refine Kept.setTen ?_ (by decide)

theorem execTenantSample_kept {s} : AnsKept [.regs] s (execTenantSample s) :=
  .next (.ite (.refl _ s) (Kept.foldl (.refl _ s) fun _ _ hs => sampleQueue_kept hs rfl))

theorem execTenSampleClear_kept {s} : AnsKept [.regs] s (execTenSampleClear s) :=
  .next (.ite (logErr_kept (.refl _ s) rfl) (Kept.foldl (.refl _ s) fun _ _ hs => .ite hs (wr_kept hs rfl)))

end Sys2Proof.Machine
end

section
/-! SUPPORT. The same: security and the start. -/

namespace Sys2Proof.Machine

theorem execMrExtend_kept {s} : AnsKept [.regs] s (execMrExtend s) :=
  .next (.ite (wr_kept (.refl _ s) rfl) (wr_kept (mrExtend_kept (.refl _ s) rfl) rfl))

theorem execAttest_kept {s} : AnsKept [.regs, .sec] s (execAttest s) :=
  .next (.ite (.refl _ s) (.ite (wr_kept (wr_kept (.refl _ s) rfl) rfl) (.ite (wr_kept (wr_kept (.refl _ s) rfl) rfl) (.ite (wr_kept (wr_kept
    (.refl _ s) rfl) rfl) (.ite (wr_kept (Kept.setSec (.refl _ s) rfl) rfl) (wr_kept (wr_kept (Kept.setSec (.refl _ s) rfl) rfl) rfl))))))

theorem execAttestationReport_kept {s} : AnsKept [.regs, .mem, .ten, .sec, .free] s (execAttestationReport s) := by
  unfold execAttestationReport
  with_reducible repeat' first
    | exact Kept.refl _ _ | refine AnsKept.next ?_ | refine dramStore_kept ?_ (by decide) | refine drawn_kept ?_ (by decide)
    | refine wr_kept ?_ (by decide) | split | fail_if_no_progress refine Kept.setSec ?_ (by decide)

theorem execKeyDelivery_kept {s} : AnsKept [.regs, .mem, .ten, .sec, .boot, .out] s (execKeyDelivery s) := by
  unfold execKeyDelivery
  with_reducible repeat' first
    | exact Kept.refl _ _ | refine AnsKept.next ?_ | refine wr_kept ?_ (by decide) | refine readRuns_kept ?_ (by decide)
    | refine Kept.fst (by assumption) ?_ | split | fail_if_no_progress refine Kept.setSec ?_ (by decide)

theorem execKeyInstall_kept {s} : AnsKept [.regs, .mem, .sec] s (execKeyInstall s) := by
  unfold execKeyInstall
  with_reducible repeat' first
    | exact Kept.refl _ _ | refine AnsKept.next ?_ | refine setKey_kept ?_ (by decide) | refine wr_kept ?_ (by decide) | split
    | fail_if_no_progress refine Kept.setSec ?_ (by decide)

theorem execDebugChallenge_kept {s} : AnsKept [.regs, .sec, .free] s (execDebugChallenge s) :=
  .next (drawn_kept (wr_kept (Kept.setSec (.refl _ s) rfl) rfl) rfl)

theorem execDebugToken_kept {s} : AnsKept [.regs, .mem, .ten, .sec, .boot, .out] s (execDebugToken s) := by
  unfold execDebugToken
  with_reducible repeat' first
    | exact Kept.refl _ _ | refine AnsKept.next ?_ | refine measure_kept ?_ (by decide) | refine raiseTo_kept ?_ (by decide)
    | refine wr_kept ?_ (by decide) | refine readRuns_kept ?_ (by decide) | refine Kept.fst (by assumption) ?_ | split
    | fail_if_no_progress refine Kept.setSec ?_ (by decide)

theorem execSvnCommit_kept {ok1 ok2 ok3 ok4 s} : AnsKept [.regs, .ten, .boot, .out] s (execSvnCommit ok1 ok2 ok3 ok4 s) :=
  .next (recWrite_kept (recWrite_kept (mrExtend_kept (raiseTo_kept (raiseTo_kept (raiseTo_kept (.refl _ s) rfl) rfl) rfl) rfl) rfl) rfl)

theorem execResetNAssert_kept {s} :
    AnsKept [.regs, .live, .mem, .work, .yards, .fab, .crush, .ten, .clock, .cores, .images, .radio, .net, .tdfe, .cfg,
      .sec, .boot, .power, .health] s
      (execResetNAssert s) :=
  .next (resetLow_kept (.refl _ s) rfl)

theorem execResetNRelease_kept {s} :
    AnsKept [.regs, .live, .mem, .work, .yards, .fab, .crush, .ten, .clock, .cores, .images, .radio, .net, .tdfe, .cfg,
      .sec, .boot, .power, .health, .free] s
      (execResetNRelease s) :=
  .next (resetHigh_kept (.refl _ s) rfl)

theorem execFirmwareVerify_kept {s} : AnsKept [.regs, .mem, .boot, .health] s (execFirmwareVerify s) := by
  unfold execFirmwareVerify
  with_reducible repeat' first
    | exact Kept.refl _ _ | refine AnsKept.next ?_ | refine loadRecord_kept ?_ (by decide) | refine measure_kept ?_ (by decide)
    | refine restrict_kept ?_ (by decide) | refine wr_kept ?_ (by decide) | split | dsimp only

theorem execIdentityDerive_kept {s} : AnsKept [.regs, .sec] s (execIdentityDerive s) := by
  unfold execIdentityDerive
  with_reducible repeat' first
    | exact Kept.refl _ _ | refine AnsKept.next ?_ | refine fnSet_kept ?_ (by decide) | refine restrict_kept ?_ (by decide)
    | refine settle_kept ?_ (by decide) | refine wr_kept ?_ (by decide) | split | fail_if_no_progress refine Kept.setSec ?_ (by decide)

theorem execGradeRecordVerify_kept {grade s} : AnsKept [.regs] s (execGradeRecordVerify grade s) := by
  unfold execGradeRecordVerify
  with_reducible repeat' first
    | exact Kept.refl _ _ | refine AnsKept.next ?_ | refine fnSet_kept ?_ (by decide) | refine loadGrade_kept ?_ (by decide)
    | refine measure_kept ?_ (by decide) | refine restrict_kept ?_ (by decide) | refine settle_kept ?_ (by decide)
    | refine wr_kept ?_ (by decide) | split

theorem execImageVerify_kept {a b s} :
    AnsKept [.regs, .live, .yards, .ten, .clock, .radio, .net, .tdfe, .cfg, .boot, .power, .out] s (execImageVerify a b s) := by
  unfold execImageVerify
  with_reducible repeat' first
    | exact Kept.refl _ _ | refine AnsKept.next ?_ | refine imageReady_kept ?_ (by decide) | refine loadSections_kept ?_ (by decide)
    | refine measure_kept ?_ (by decide) | refine restrict_kept ?_ (by decide) | refine wr_kept ?_ (by decide) | refine wrAll_kept ?_ (by decide)
    | split

theorem execFunctionReady_kept {idx fail aux s} : AnsKept [.regs, .mem, .yards, .boot, .health, .out] s (execFunctionReady idx fail aux s) := by
  unfold execFunctionReady
  with_reducible repeat' first
    | exact Kept.refl _ _ | refine AnsKept.next ?_ | refine fnSet_kept ?_ (by decide) | refine onFail_kept ?_ (by decide)
    | refine onReady_kept ?_ (by decide) | refine settle_kept ?_ (by decide) | split

theorem feedItem_kept {w : List Part} {s0 s : State} {changed item} (h : Kept w s0 s) (hw : subParts [.regs, .ten, .boot, .out] w = true) :
    Kept w s0 (feedItem s changed item) := by
  refine Kept.app h hw ?_
  cases item with
  | supplies _ t => exact showRecordOk_kept (itemDone_kept (wr_kept (Kept.setBoot (.refl _ s) rfl id) rfl) rfl) rfl
  | cables probes => exact itemDone_kept (Kept.foldl (.refl _ s) fun _ _ ht => Kept.ite (probeCable_kept ht rfl) ht) rfl
  | flights | partners _ | dram _ => exact itemDone_kept (.refl _ s) rfl
  | sensors _ => exact sensorCheck_kept (itemDone_kept (.refl _ s) rfl) rfl
  | cooling _ gaveUp =>
    rw [feedItem]
    split
    · have hm {m} : Kept [.regs, .ten, .boot, .out] s (useModel s m 2) := useModel_kept (.refl _ s) rfl
      exact hm.ite (itemDone_kept (wr_kept hm rfl) rfl)
    · exact (itemDone_kept (.refl _ s) rfl).ite (.refl _ s)

/-- A listed sensor that did not answer raises the HEALTH vector, so this row may also send an interrupt. -/
theorem execSurveyMeasurement_kept {item s} : AnsKept [.regs, .ten, .boot, .out] s (execSurveyMeasurement item s) := by
  unfold execSurveyMeasurement
  refine .next (Kept.ite (.refl _ s) (settle_kept (feedItem_kept ?_ rfl) rfl))
  with_reducible repeat' first
    | exact Kept.refl _ _ | refine Kept.ite ?_ ?_ | refine wr_kept ?_ (by decide) | refine Kept.setBoot ?_ (by decide) id

theorem execCoolingStep_kept {kd tau theta s} : AnsKept [.regs, .boot] s (execCoolingStep kd tau theta s) :=
  .next (.ite (.refl _ s) (itemDone_kept (useModel_kept (recMark_kept (Kept.setBoot (.refl _ s) rfl id) rfl) rfl) rfl))

theorem execConfigurationLock_kept {manager s} :
    AnsKept [.regs, .live, .mem, .work, .yards, .fab, .crush, .ten, .cores, .boot, .out, .free] s (execConfigurationLock manager s) :=
  .next (.ite (logErr_kept (.refl _ s) rfl) (.ite (takeLock_kept (.ite (Kept.setBoot (.refl _ s) rfl id) (.refl _ s)) rfl) (.ite (Kept.setBoot
    (.refl _ s) rfl id) (.refl _ s))))

theorem execCfgCommit_kept {s} : AnsKept [.regs, .live, .cfg] s (execCfgCommit s) :=
  .next (.ite (logErr_kept (.refl _ s) rfl) (commitGroup_kept (.refl _ s) rfl))

theorem execStagedApply_kept {kind damaged s} : AnsKept [.regs, .live, .yards, .ten, .cfg, .health, .out] s (execStagedApply kind damaged s) :=
  .next (.ite (Kept.foldl (applyKind_kept (Kept.setCfg (.refl _ s) rfl) rfl) fun _ _ hs => trimPart_kept hs rfl) (applyKind_kept (Kept.setCfg
    (.refl _ s) rfl) rfl))

theorem execNvmRead_kept {s} : AnsKept [.regs, .mem, .ten] s (execNvmRead s) := by
  unfold execNvmRead
  with_reducible repeat' first
    | exact Kept.refl _ _ | refine AnsKept.next ?_ | refine nvmDeliver_kept ?_ (by decide) | refine nvmDone_kept ?_ (by decide) | split

theorem execNvmErase_kept {s} : AnsKept [.regs, .boot] s (execNvmErase s) := by
  unfold execNvmErase
  refine .next ?_
  split
  · exact nvmDone_kept (.refl _ s) rfl
  · exact .ite (nvmDone_kept (Kept.setBoot (.refl _ s) rfl fun h => nvmErase_wf h) rfl) (nvmDone_kept (.refl _ s) rfl)

theorem execNvmProgram_kept {s} : AnsKept [.regs, .boot] s (execNvmProgram s) := by
  unfold execNvmProgram
  refine .next ?_
  have hdone : ∀ st, Kept [.regs, .boot] s (nvmDone s st) := fun _ => nvmDone_kept (.refl _ s) rfl
  split
  · exact hdone _
  refine .ite (hdone _) (.ite (.ite ?_ (hdone _)) (.ite ?_ (hdone _)))
  · exact nvmDone_kept (Kept.setBoot (.refl _ s) rfl fun h => nvmPut_wf (nvmErase_wf h)) rfl
  · exact nvmDone_kept (Kept.setBoot (.refl _ s) rfl fun h => nvmPut_wf h) rfl

theorem execReadyNext_kept {fw img ok1 ok2 s} : AnsKept [.regs, .ten, .boot, .out] s (execReadyNext fw img ok1 ok2 s) :=
  .next (recWrite_kept (wr_kept (wr_kept (.refl _ s) rfl) rfl) rfl)

theorem execReadyRestart_kept {key s} :
    AnsKept [.regs, .live, .mem, .work, .yards, .fab, .crush, .ten, .clock, .cores, .images, .radio, .net, .tdfe, .cfg,
      .sec, .boot, .power, .health, .free] s
      (execReadyRestart key s) :=
  .next (.ite (resetHigh_kept (resetLow_kept (.refl _ s) rfl) rfl) (.refl _ s))

theorem execPersistentRecordWrite_kept {ok1 ok2 s} : AnsKept [.regs, .ten, .boot, .out] s (execPersistentRecordWrite ok1 ok2 s) :=
  .next (.ite (.refl _ s) (.ite (.ite (recWrite_kept (.refl _ s) rfl) (.refl _ s)) (.ite (recWrite_kept (.refl _ s) rfl) (.ite (recWrite_kept
    (Kept.setBoot (.refl _ s) rfl id) rfl) (.ite (recWrite_kept (Kept.setBoot (.refl _ s) rfl id) rfl) (.refl _ s))))))

end Sys2Proof.Machine
end

section
/-! SUPPORT. The same: power and health. -/

namespace Sys2Proof.Machine

theorem execConversionStart_kept {s} :
    AnsKept [.regs, .live, .mem, .work, .yards, .fab, .crush, .ten, .clock, .cores, .images, .radio, .net, .tdfe, .cfg,
      .sec, .boot, .power, .health, .free] s
      (execConversionStart s) :=
  .next (.ite (.refl _ s) (.ite (Kept.setBoot (.refl _ s) rfl id) (startSeq_kept (Kept.setBoot (.refl _ s) rfl id) rfl)))

theorem execInputLoss_kept {high s} :
    AnsKept [.regs, .mem, .work, .yards, .fab, .crush, .ten, .cores, .radio, .tdfe, .cfg, .boot, .power, .health, .out, .free] s
      (execInputLoss high s) := by
  unfold execInputLoss
  refine .next (Kept.ite (.refl _ s) ?_)
  extract_lets t b p t1 t2 t3 t4
  have h0 : Kept [.regs, .mem, .work, .yards, .fab, .crush, .ten, .cores, .radio, .tdfe, .cfg, .boot, .power, .health, .out, .free] s t :=
    stopUnits_kept (.refl _ s) rfl
  have h1 : Kept _ s t1 := Kept.setBootPower h0 rfl rfl id
  have h2 : Kept _ s t2 := Kept.foldl h1 fun _ _ h => wr_kept h rfl
  have h4 : Kept _ s t4 := notifyMgmt_kept (drawn_kept (faultRecord_kept h2 rfl) rfl) rfl
  exact .ite (wr_kept h4 rfl) h4

theorem execHoldupDischarge_kept {s} :
    AnsKept [.regs, .live, .mem, .work, .yards, .fab, .crush, .ten, .clock, .cores, .images, .radio, .net, .tdfe, .cfg,
      .sec, .boot, .power, .health, .free] s
      (execHoldupDischarge s) :=
  .next (.ite (.refl _ s) (.ite (coldState_kept (Kept.setPower (drawn_kept (wr_kept (wr_kept (.refl _ s) rfl) rfl) rfl) rfl) rfl) (Kept.setPower
    (drawn_kept (wr_kept (wr_kept (.refl _ s) rfl) rfl) rfl) rfl)))

theorem execHoldReady_kept {capUf s} : AnsKept [.regs] s (execHoldReady capUf s) :=
  .next (.ite (.refl _ s) (.ite (showRecordOk_kept (wr_kept (wr_kept (.refl _ s) rfl) rfl) rfl) (showRecordOk_kept (wr_kept (wr_kept (wr_kept
    (wr_kept (.refl _ s) rfl) rfl) rfl) rfl) rfl)))

theorem execPowerMeasure_kept {mv w cables s} : AnsKept [.regs, .power] s (execPowerMeasure mv w cables s) :=
  .next (.ite (.refl _ s) (Kept.foldl (raiseTo_kept (raiseTo_kept (Kept.foldl (Kept.setPower (.refl _ s) rfl) fun _ _ hs => wr_kept hs rfl) rfl)
    rfl) fun _ _ hs => .ite (cableSample_kept hs rfl) hs))

theorem execPaceUpdate_kept {p s} : AnsKept [.regs, .power] s (execPaceUpdate p s) :=
  .next (.ite (showPace_kept (Kept.setPower (.refl _ s) rfl) rfl) (.refl _ s))

theorem execLadderRequest_kept {s} : AnsKept [.regs, .power] s (execLadderRequest s) :=
  .next (.ite (wr_kept (Kept.setPower (.refl _ s) rfl) rfl) (.refl _ s))

theorem execTrip_kept {cause s} :
    AnsKept [.regs, .mem, .work, .yards, .fab, .crush, .ten, .cores, .radio, .tdfe, .cfg, .boot, .health, .out] s (execTrip cause s) := by
  unfold execTrip
  refine .next (Kept.ite (.refl _ s) ?_)
  extract_lets t t1 t2 t3 b
  have h0 : Kept [.regs, .mem, .work, .yards, .fab, .crush, .ten, .cores, .radio, .tdfe, .cfg, .boot, .health, .out] s t :=
    stopUnits_kept (notifyMgmt_kept (.refl _ s) rfl) rfl
  have h1 : Kept _ s t1 := Kept.foldl h0 fun _ _ h => wr_kept h rfl
  have h3 : Kept _ s t3 := recMark_kept (wr_kept (healthCause_kept (wr_kept h1 rfl) rfl) rfl) rfl
  clear_value t3
  exact Kept.setBoot h3 rfl id

theorem execPwmWatchdog_kept {s} : AnsKept [.regs] s (execPwmWatchdog s) :=
  .next (.ite (Kept.foldl (.refl _ s) fun _ _ hs => wr_kept hs rfl) (.refl _ s))

theorem execCableFaultTrip_kept {port s} : AnsKept [.regs, .ten, .power, .out] s (execCableFaultTrip port s) :=
  .next (.ite (.refl _ s) (.ite (healthCause_kept (wr_kept (bumpSat_kept (wr_kept (Kept.setPower (.refl _ s) rfl) rfl) rfl) rfl) rfl) (wr_kept
    (bumpSat_kept (wr_kept (Kept.setPower (.refl _ s) rfl) rfl) rfl) rfl)))

theorem execCableRetry_kept {port s} : AnsKept [.regs] s (execCableRetry port s) := .next (.ite (wr_kept (.refl _ s) rfl) (.refl _ s))

theorem execCableProbe_kept {port probe s} : AnsKept [.regs, .ten, .out] s (execCableProbe port probe s) :=
  .next (.ite (probeCable_kept (.refl _ s) rfl) (.refl _ s))

theorem execCableClear_kept {port probe s} : AnsKept [.regs, .ten, .out] s (execCableClear port probe s) :=
  .next (.ite (probeCable_kept (.refl _ s) rfl) (.refl _ s))

theorem execBandHold_kept {s} : AnsKept [.regs, .power] s (execBandHold s) := .next (.ite (wr_kept (Kept.setPower (.refl _ s) rfl) rfl) (.refl _ s))

theorem execBandStop_kept {s} : AnsKept [.regs, .power] s (execBandStop s) := .next (.ite (endBand_kept (.refl _ s) rfl) (.refl _ s))

theorem execBandEnd_kept {s} : AnsKept [.regs, .power] s (execBandEnd s) := by
  unfold execBandEnd
  with_reducible repeat' first | exact Kept.refl _ _ | refine AnsKept.next ?_ | refine endBand_kept ?_ (by decide) | split

theorem execHeartbeatPeriod_kept {s} : AnsKept [.health, .out] s (execHeartbeatPeriod s) :=
  .next (.ite (notifyMgmt_kept (ticked_kept (.refl _ s) rfl) rfl) (.refl _ s))

theorem execHeartbeat_kept {port d s} :
    AnsKept [.regs, .mem, .work, .yards, .fab, .crush, .ten, .cores, .boot, .health, .out, .free] s (execHeartbeat port d s) :=
  .next (onDatagram_kept (.refl _ s) rfl)

theorem execLossDatagram_kept {port d s} :
    AnsKept [.regs, .mem, .work, .yards, .fab, .crush, .ten, .cores, .boot, .health, .out, .free] s (execLossDatagram port d s) :=
  .next (onDatagram_kept (.refl _ s) rfl)

theorem execTripDatagram_kept {port d s} :
    AnsKept [.regs, .mem, .work, .yards, .fab, .crush, .ten, .cores, .boot, .health, .out, .free] s (execTripDatagram port d s) :=
  .next (onDatagram_kept (.refl _ s) rfl)

theorem execRestarted_kept {port d s} :
    AnsKept [.regs, .mem, .work, .yards, .fab, .crush, .ten, .cores, .boot, .health, .out, .free] s (execRestarted port d s) :=
  .next (onDatagram_kept (.refl _ s) rfl)

theorem execLivenessTimeout_kept {port node s} : AnsKept [.regs, .ten, .out] s (execLivenessTimeout port node s) :=
  .next (.ite (setLive_kept (.refl _ s) rfl) (.refl _ s))

theorem execExpel_kept {node s} :
    AnsKept [.regs, .mem, .work, .yards, .fab, .crush, .ten, .cores, .boot, .health, .out, .free] s (execExpel node s) :=
  .next (listCmd_kept (.refl _ s) rfl)

theorem execDead_kept {node s} :
    AnsKept [.regs, .mem, .work, .yards, .fab, .crush, .ten, .cores, .boot, .health, .out, .free] s (execDead node s) :=
  .next (listCmd_kept (.refl _ s) rfl)

theorem execWatch_kept {node s} :
    AnsKept [.regs, .mem, .work, .yards, .fab, .crush, .ten, .cores, .boot, .health, .out, .free] s (execWatch node s) :=
  .next (listCmd_kept (.refl _ s) rfl)

theorem execRemove_kept {node s} :
    AnsKept [.regs, .mem, .work, .yards, .fab, .crush, .ten, .cores, .boot, .health, .out, .free] s (execRemove node s) :=
  .next (listCmd_kept (.refl _ s) rfl)

theorem execListChange_kept {c s} :
    AnsKept [.regs, .mem, .work, .yards, .fab, .crush, .ten, .cores, .boot, .health, .out, .free] s (execListChange c s) := by
  unfold execListChange
  with_reducible repeat' first
    | exact Kept.refl _ _ | refine AnsKept.next ?_ | refine Kept.ite ?_ ?_ | refine applyChange_kept ?_ (by decide)
    | refine applyEarly_kept ?_ (by decide) | refine tryChange_kept ?_ (by decide) | refine revertChange_kept ?_ (by decide) | split
    | fail_if_no_progress refine Kept.setHealth ?_ (by decide)

theorem execEvidence_kept {node s} : AnsKept [.regs, .ten, .boot, .health, .out] s (execEvidence node s) :=
  .next (.ite (logErr_kept (.refl _ s) rfl) (.ite (wr_kept (floodEvidence_kept (wr_kept (.refl _ s) rfl) rfl) rfl) (wr_kept (wr_kept (.refl _ s)
    rfl) rfl)))

theorem execEvidenceRecord_kept {e s} : AnsKept [.regs, .ten, .boot, .health, .out] s (execEvidenceRecord e s) :=
  .next (applyEvidence_kept (.refl _ s) rfl)

theorem execEvidenceExpiry_kept {s} : AnsKept [.regs, .health] s (execEvidenceExpiry s) :=
  .next (showList_kept (Kept.foldl (Kept.setHealth (.refl _ s) rfl) fun _ _ hs => showEvidence_kept hs rfl) rfl)

theorem execScoreDecay_kept {s} : AnsKept [.regs, .health] s (execScoreDecay s) :=
  .next (.ite (.refl _ s) (Kept.foldl (ticked_kept (.refl _ s) rfl) fun _ _ hs => .ite (wr_kept (.ite hs (wr_kept hs rfl)) rfl) (.ite hs (wr_kept
    hs rfl))))

theorem execShadowCompare_kept {cid bench assay third s} :
    AnsKept [.regs, .mem, .work, .yards, .fab, .ten, .cores, .boot, .health, .out, .free] s (execShadowCompare cid bench assay third s) := by
  unfold execShadowCompare
  with_reducible repeat' first
    | exact Kept.refl _ _ | refine AnsKept.next ?_ | refine putCmd_kept ?_ (by decide) | refine finish_kept ?_ (by decide)
    | refine shadowKill_kept ?_ (by decide) | refine bump_kept ?_ (by decide) | refine drawn_kept ?_ (by decide)
    | refine faultRecord_kept ?_ (by decide) | refine floodEvidence_kept ?_ (by decide) | refine healthCause_kept ?_ (by decide)
    | refine quarantine_kept ?_ (by decide) | split

theorem execShadowTimeout_kept {cid s} : AnsKept [.regs, .work] s (execShadowTimeout cid s) := by
  unfold execShadowTimeout
  with_reducible repeat' first
    | exact Kept.refl _ _ | refine AnsKept.next ?_ | refine putCmd_kept ?_ (by decide) | refine bump_kept ?_ (by decide) | split

theorem execProvingRun_kept {unit engine pattern load s} : AnsKept [.health] s (execProvingRun unit engine pattern load s) :=
  .next (.ite (.refl _ s) (.ite (Kept.setHealth (.refl _ s) rfl) (.ite (.refl _ s) (Kept.setHealth (.refl _ s) rfl))))

theorem execProvingResult_kept {unit engine pass inBand s} :
    AnsKept [.regs, .yards, .ten, .boot, .health, .out] s (execProvingResult unit engine pass inBand s) := by
  unfold execProvingResult
  with_reducible repeat' first
    | exact Kept.refl _ _ | refine AnsKept.next ?_ | refine proveFailed_kept ?_ (by decide) | refine proveLog_kept ?_ (by decide)
    | refine sweepDone_kept ?_ (by decide) | refine wr_kept ?_ (by decide) | split | fail_if_no_progress refine Kept.setHealth ?_ (by decide)

theorem execProvingPeriod_kept {s} : AnsKept [.regs, .health] s (execProvingPeriod s) :=
  .next (.ite (.refl _ s) (.ite (bump_kept (ticked_kept (Kept.setHealth (.refl _ s) rfl) rfl) rfl) (ticked_kept (Kept.setHealth (.refl _ s) rfl)
    rfl)))

theorem execSweep_kept {s} : AnsKept [.regs, .health] s (execSweep s) :=
  .next (.ite (logErr_kept (.refl _ s) rfl) (.ite (.refl _ s) (sweepDone_kept (wr_kept (wr_kept (Kept.setHealth (.refl _ s) rfl) rfl) rfl) rfl)))

theorem execQuarantineRelease_kept {mask s} : AnsKept [.regs, .boot, .health] s (execQuarantineRelease mask s) :=
  .next (.ite (logErr_kept (.refl _ s) rfl) (recMark_kept (Kept.setHealth (.refl _ s) rfl) rfl))

theorem execEthernetLinkState_kept {port up s} :
    AnsKept [.regs, .mem, .work, .yards, .fab, .crush, .ten, .cores, .boot, .out, .free] s (execEthernetLinkState port up s) := by
  unfold execEthernetLinkState
  with_reducible repeat' first
    | exact Kept.refl _ _ | refine AnsKept.next ?_ | refine setPort_kept ?_ (by decide) | refine wr_kept ?_ (by decide) | split

theorem execPllLockLoss_kept {pll s} : AnsKept [.regs, .ten, .out] s (execPllLockLoss pll s) :=
  .next (healthCause_kept (wr_kept (wr_kept (.refl _ s) rfl) rfl) rfl)

theorem execPtpMessageInterval_kept {q kind s} : AnsKept [.clock, .out] s (execPtpMessageInterval q kind s) := by
  unfold execPtpMessageInterval
  with_reducible repeat' first
    | exact Kept.refl _ _ | refine AnsKept.next ?_ | refine emit_kept ?_ (by decide) | refine setPtp_kept ?_ (by decide) | split

theorem execMemberLostTimeout_kept {cid rank s} :
    AnsKept [.regs, .mem, .work, .yards, .fab, .crush, .ten, .cores, .boot, .out, .free] s (execMemberLostTimeout cid rank s) := by
  unfold execMemberLostTimeout
  with_reducible repeat' first
    | exact Kept.refl _ _ | refine AnsKept.next ?_ | refine Kept.ite ?_ ?_ | refine failColl_kept ?_ (by decide)
    | refine sweepLost_kept ?_ (by decide) | split

theorem execWakeComplete_kept {bench s} : AnsKept [.regs, .yards] s (execWakeComplete bench s) :=
  .next (.ite (.refl _ s) (wr_kept (wr_kept (putBench_kept (.refl _ s) rfl) rfl) rfl))

theorem execIllegalOpcode_kept {core slot word s} : AnsKept [.regs, .work, .ten, .cores, .radio, .out] s (execIllegalOpcode core slot word s) :=
  .next (.ite (.refl _ s) (.ite (coreFault_kept (.refl _ s) rfl) (.ite (coreFault_kept (.refl _ s) rfl) (.refl _ s))))

end Sys2Proof.Machine
end

section
/-! SUPPORT. Every command keeps the invariant of the memories. -/

namespace Sys2Proof.Machine

/-- Every command answers a next state, changes only some parts of the state, and keeps its memories canonical: its row's own law. -/
theorem exec_kept (c : Instr) (s : State) : Keeps s (exec c s) := by
  unfold exec
  cases c with
  | registerWrite => exact execRegisterWrite_kept.keeps
  | lowWordRead => exact execLowWordRead_kept.keeps
  | benchWindowAbsentAccess => exact execBenchWindowAbsentAccess_kept.keeps
  | notClockedProxyAccess => exact execNotClockedProxyAccess_kept.keeps
  | galleryShareWindow => exact execGalleryShareWindow_kept.keeps
  | channelShareWindow => exact execChannelShareWindow_kept.keeps
  | refresh => exact execRefresh_kept.keeps
  | refreshTempRead => exact execRefreshTempRead_kept.keeps
  | sqTail => exact execSqTail_kept.keeps
  | queueEnable => exact execQueueEnable_kept.keeps
  | queueDisable => exact execQueueDisable_kept.keeps
  | queueConfigWrite => exact execQueueConfigWrite_kept.keeps
  | stepStart => exact execStepStart_kept.keeps
  | commandRead => exact execCommandRead_kept.keeps
  | stepCompletion => exact execStepCompletion_kept.keeps
  | tallyAdd => exact execTallyAdd_kept.keeps
  | tallySet => exact execTallySet_kept.keeps
  | slab => exact execSlab_kept.keeps
  | map => exact execMap_kept.keeps
  | rowSum => exact execRowSum_kept.keeps
  | rowWideSum => exact execRowWideSum_kept.keeps
  | wideAdd => exact execWideAdd_kept.keeps
  | rowMaxi => exact execRowMaxi_kept.keeps
  | rowMini => exact execRowMini_kept.keeps
  | mxQuant => exact execMxQuant_kept.keeps
  | random => exact execRandom_kept.keeps
  | discard => exact execDiscard_kept.keeps
  | skip => exact execSkip_kept.keeps
  | get => exact execGet_kept.keeps
  | put => exact execPut_kept.keeps
  | atomic => exact execAtomic_kept.keeps
  | fabricReduce => exact execFabricReduce_kept.keeps
  | mcastPut => exact execMcastPut_kept.keeps
  | signal => exact execSignal_kept.keeps
  | fence => exact execFence_kept.keeps
  | msgSend => exact execMsgSend_kept.keeps
  | tallySignal => exact execTallySignal_kept.keeps
  | tallyCmdSet => exact execTallyCmdSet_kept.keeps
  | notify => exact execNotify_kept.keeps
  | allReduce => exact execAllReduce_kept.keeps
  | reduce => exact execReduce_kept.keeps
  | reduceScatter => exact execReduceScatter_kept.keeps
  | broadcast => exact execBroadcast_kept.keeps
  | allGather => exact execAllGather_kept.keeps
  | allToAll => exact execAllToAll_kept.keeps
  | allGatherV => exact execAllGatherV_kept.keeps
  | allToAllV => exact execAllToAllV_kept.keeps
  | barrier => exact execBarrier_kept.keeps
  | commit => exact execCommit_kept.keeps
  | frameZeroingDone => exact execFrameZeroingDone_kept.keeps
  | collectiveCommit => exact execCollectiveCommit_kept.keeps
  | stageCopyDone => exact execStageCopyDone_kept.keeps
  | joinTimeout => exact execJoinTimeout_kept.keeps
  | triggerFire => exact execTriggerFire_kept.keeps
  | floorPlanPoint => exact execFloorPlanPoint_kept.keeps
  | floorReservation => exact execFloorReservation_kept.keeps
  | wedgeHandover => exact execWedgeHandover_kept.keeps
  | beyondFloorTake => exact execBeyondFloorTake_kept.keeps
  | floorReturn => exact execFloorReturn_kept.keeps
  | quantumEnd => exact execQuantumEnd_kept.keeps
  | graceEnd => exact execGraceEnd_kept.keeps
  | saveDone => exact execSaveDone_kept.keeps
  | restoreDone => exact execRestoreDone_kept.keeps
  | starvationPoint => exact execStarvationPoint_kept.keeps
  | eviction => exact execEviction_kept.keeps
  | benchWake => exact execBenchWake_kept.keeps
  | powerStateChoice => exact execPowerStateChoice_kept.keeps
  | blockedHoldExpiry => exact execBlockedHoldExpiry_kept.keeps
  | idleDarkExpiry => exact execIdleDarkExpiry_kept.keeps
  | lotOwner => exact execLotOwner_kept.keeps
  | releasingEnd => exact execReleasingEnd_kept.keeps
  | clearingEnd => exact execClearingEnd_kept.keeps
  | memInval => exact execMemInval_kept.keeps
  | memInvalDone => exact execMemInvalDone_kept.keeps
  | scrubRead => exact execScrubRead_kept.keeps
  | bucketRefill => exact execBucketRefill_kept.keeps
  | cxlMemRead => exact execCxlMemRead_kept.keeps
  | cxlMemWrite => exact execCxlMemWrite_kept.keeps
  | dataFlit => exact execDataFlit_kept.keeps
  | idleFlit => exact execIdleFlit_kept.keeps
  | creditFlit => exact execCreditFlit_kept.keeps
  | linkSilence => exact execLinkSilence_kept.keeps
  | retrainTimeout => exact execRetrainTimeout_kept.keeps
  | downRetry => exact execDownRetry_kept.keeps
  | capabilityBlock => exact execCapabilityBlock_kept.keeps
  | lsa => exact execLsa_kept.keeps
  | read => exact execRead_kept.keeps
  | readData => exact execReadData_kept.keeps
  | write => exact execWrite_kept.keeps
  | atomicMessage => exact execAtomicMessage_kept.keeps
  | atomicResult => exact execAtomicResult_kept.keeps
  | reduceMessage => exact execReduceMessage_kept.keeps
  | signalMessage => exact execSignalMessage_kept.keeps
  | msg => exact execMsg_kept.keeps
  | ack => exact execAck_kept.keeps
  | nak => exact execNak_kept.keeps
  | desc => exact execDesc_kept.keeps
  | count => exact execCount_kept.keeps
  | verdict => exact execVerdict_kept.keeps
  | data => exact execData_kept.keeps
  | ackVerified => exact execAckVerified_kept.keeps
  | refetch => exact execRefetch_kept.keeps
  | abort => exact execAbort_kept.keeps
  | resendTimer => exact execResendTimer_kept.keeps
  | messageLifetimeExpiry => exact execMessageLifetimeExpiry_kept.keeps
  | deadBound => exact execDeadBound_kept.keeps
  | roundTimeout => exact execRoundTimeout_kept.keeps
  | jeanoSAbort => exact execJeanoSAbort_kept.keeps
  | sAbortSettle => exact execSAbortSettle_kept.keeps
  | meteringTick => exact execMeteringTick_kept.keeps
  | queueSample => exact execQueueSample_kept.keeps
  | jeanoSampleClear => exact execJeanoSampleClear_kept.keeps
  | timeMessage => exact execTimeMessage_kept.keeps
  | referenceLoss => exact execReferenceLoss_kept.keeps
  | referenceReturn => exact execReferenceReturn_kept.keeps
  | timeAddend => exact execTimeAddend_kept.keeps
  | timeStep => exact execTimeStep_kept.keeps
  | sync => exact execSync_kept.keeps
  | followUp => exact execFollowUp_kept.keeps
  | delayReq => exact execDelayReq_kept.keeps
  | delayResp => exact execDelayResp_kept.keeps
  | announce => exact execAnnounce_kept.keeps
  | announceTimeout => exact execAnnounceTimeout_kept.keeps
  | esmc => exact execEsmc_kept.keeps
  | sourceLoss => exact execSourceLoss_kept.keeps
  | ppsLoss => exact execPpsLoss_kept.keeps
  | leaderLoss => exact execLeaderLoss_kept.keeps
  | sourceReturn => exact execSourceReturn_kept.keeps
  | lockAchieved => exact execLockAchieved_kept.keeps
  | holdoverExpired => exact execHoldoverExpired_kept.keeps
  | timestampPush => exact execTimestampPush_kept.keeps
  | tsqId => exact execTsqId_kept.keeps
  | trigCommit => exact execTrigCommit_kept.keeps
  | captureEdge => exact execCaptureEdge_kept.keeps
  | capPop => exact execCapPop_kept.keeps
  | ppsOut => exact execPpsOut_kept.keeps
  | fapiReqTail => exact execFapiReqTail_kept.keeps
  | paramRequest => exact execParamRequest_kept.keeps
  | configRequest => exact execConfigRequest_kept.keeps
  | startRequest => exact execStartRequest_kept.keeps
  | stopRequest => exact execStopRequest_kept.keeps
  | dlTtiRequest => exact execDlTtiRequest_kept.keeps
  | ulTtiRequest => exact execUlTtiRequest_kept.keeps
  | ulDciRequest => exact execUlDciRequest_kept.keeps
  | txDataRequest => exact execTxDataRequest_kept.keeps
  | slotIndication => exact execSlotIndication_kept.keeps
  | uplinkUPlane => exact execUplinkUPlane_kept.keeps
  | receivedCPlane => exact execReceivedCPlane_kept.keeps
  | unknownFrame => exact execUnknownFrame_kept.keeps
  | oneWayDelay => exact execOneWayDelay_kept.keeps
  | arpRequest => exact execArpRequest_kept.keeps
  | neighborSolicitation => exact execNeighborSolicitation_kept.keeps
  | symbolRelease => exact execSymbolRelease_kept.keeps
  | transmitWindowEnd => exact execTransmitWindowEnd_kept.keeps
  | receptionWindowClose => exact execReceptionWindowClose_kept.keeps
  | decodeRelease => exact execDecodeRelease_kept.keeps
  | indicationDeadline => exact execIndicationDeadline_kept.keeps
  | ldpcDec => exact execLdpcDec_kept.keeps
  | ldpcEnc => exact execLdpcEnc_kept.keeps
  | polarDec => exact execPolarDec_kept.keeps
  | polarEnc => exact execPolarEnc_kept.keeps
  | nop => exact execNop_kept.keeps
  | add => exact execAdd_kept.keeps
  | sub => exact execSub_kept.keeps
  | and _ _ _ _ sat => exact (execAnd_kept (_sat := sat)).keeps
  | or _ _ _ _ sat => exact (execOr_kept (_sat := sat)).keeps
  | xor _ _ _ _ sat => exact (execXor_kept (_sat := sat)).keeps
  | shl => exact execShl_kept.keeps
  | shr _ _ _ _ sat => exact (execShr_kept (_sat := sat)).keeps
  | shru _ _ _ _ sat => exact (execShru_kept (_sat := sat)).keeps
  | min _ _ _ _ sat => exact (execMin_kept (_sat := sat)).keeps
  | max _ _ _ _ sat => exact (execMax_kept (_sat := sat)).keeps
  | slt _ _ _ _ sat => exact (execSlt_kept (_sat := sat)).keeps
  | sltu _ _ _ _ sat => exact (execSltu_kept (_sat := sat)).keeps
  | mul => exact execMul_kept.keeps
  | mulh _ _ _ _ sat => exact (execMulh_kept (_sat := sat)).keeps
  | addi => exact execAddi_kept.keeps
  | andi => exact execAndi_kept.keeps
  | ori => exact execOri_kept.keeps
  | xori => exact execXori_kept.keeps
  | shli => exact execShli_kept.keeps
  | shri => exact execShri_kept.keeps
  | shrui => exact execShrui_kept.keeps
  | lui => exact execLui_kept.keeps
  | b => exact execB_kept.keeps
  | beqz => exact execBeqz_kept.keeps
  | bnez => exact execBnez_kept.keeps
  | bltz => exact execBltz_kept.keeps
  | bgez => exact execBgez_kept.keeps
  | bgtz => exact execBgtz_kept.keeps
  | blez => exact execBlez_kept.keeps
  | call => exact execCall_kept.keeps
  | jr => exact execJr_kept.keeps
  | rti => exact execRti_kept.keeps
  | loop => exact execLoop_kept.keeps
  | loopi => exact execLoopi_kept.keeps
  | mfs => exact execMfs_kept.keeps
  | mts => exact execMts_kept.keeps
  | postSieve => exact execPostSieve_kept.keeps
  | postRadioCmd => exact execPostRadioCmd_kept.keeps
  | postMbox => exact execPostMbox_kept.keeps
  | postFhTx => exact execPostFhTx_kept.keeps
  | postFapiInd => exact execPostFapiInd_kept.keeps
  | portQueueEntryFreed => exact execPortQueueEntryFreed_kept.keeps
  | wait => exact execWait_kept.keeps
  | waitEnd => exact execWaitEnd_kept.keeps
  | evset => exact execEvset_kept.keeps
  | ld16 => exact execLd16_kept.keeps
  | ld32 => exact execLd32_kept.keeps
  | ldv => exact execLdv_kept.keeps
  | ldbc => exact execLdbc_kept.keeps
  | st16 => exact execSt16_kept.keeps
  | st32 => exact execSt32_kept.keeps
  | stv => exact execStv_kept.keeps
  | mova => exact execMova_kept.keeps
  | adda => exact execAdda_kept.keeps
  | mfa => exact execMfa_kept.keeps
  | vadd => exact execVadd_kept.keeps
  | vsub => exact execVsub_kept.keeps
  | vand => exact execVand_kept.keeps
  | vor => exact execVor_kept.keeps
  | vxor => exact execVxor_kept.keeps
  | vshl => exact execVshl_kept.keeps
  | vshr => exact execVshr_kept.keeps
  | vmax => exact execVmax_kept.keeps
  | vmin => exact execVmin_kept.keeps
  | vabs => exact execVabs_kept.keeps
  | vneg => exact execVneg_kept.keeps
  | vaddw => exact execVaddw_kept.keeps
  | vsubw => exact execVsubw_kept.keeps
  | vmul => exact execVmul_kept.keeps
  | vmac => exact execVmac_kept.keeps
  | vmacw => exact execVmacw_kept.keeps
  | vcmul => exact execVcmul_kept.keeps
  | vcmac => exact execVcmac_kept.keeps
  | vcmacw => exact execVcmacw_kept.keeps
  | vmov => exact execVmov_kept.keeps
  | vbcast => exact execVbcast_kept.keeps
  | vperm => exact execVperm_kept.keeps
  | vnrw => exact execVnrw_kept.keeps
  | vzero => exact execVzero_kept.keeps
  | interruptEntry => exact execInterruptEntry_kept.keeps
  | tcmp => exact execTcmp_kept.keeps
  | completionEntry => exact execCompletionEntry_kept.keeps
  | watchdog => exact execWatchdog_kept.keeps
  | coreRestart => exact execCoreRestart_kept.keeps
  | l1ImageLoad => exact execL1ImageLoad_kept.keeps
  | roeRxPacket => exact execRoeRxPacket_kept.keeps
  | txPacket => exact execTxPacket_kept.keeps
  | rxSymbol => exact execRxSymbol_kept.keeps
  | maskBlock => exact execMaskBlock_kept.keeps
  | unmute => exact execUnmute_kept.keeps
  | chirpDetect => exact execChirpDetect_kept.keeps
  | packetEnd => exact execPacketEnd_kept.keeps
  | noiseFloor => exact execNoiseFloor_kept.keeps
  | chirpTxRingRead => exact execChirpTxRingRead_kept.keeps
  | chirpTxDone => exact execChirpTxDone_kept.keeps
  | numVfs => exact execNumVfs_kept.keeps
  | stop => exact execStop_kept.keeps
  | stopClear => exact execStopClear_kept.keeps
  | quiesced => exact execQuiesced_kept.keeps
  | reset => exact execReset_kept.keeps
  | forceReset => exact execForceReset_kept.keeps
  | flr => exact execFlr_kept.keeps
  | forcedResetDone => exact execForcedResetDone_kept.keeps
  | freeze => exact execFreeze_kept.keeps
  | frozen => exact execFrozen_kept.keeps
  | resume => exact execResume_kept.keeps
  | saveLive => exact execSaveLive_kept.keeps
  | saveFinal => exact execSaveFinal_kept.keeps
  | restore => exact execRestore_kept.keeps
  | migrationComplete => exact execMigrationComplete_kept.keeps
  | tenantSample => exact execTenantSample_kept.keeps
  | tenSampleClear => exact execTenSampleClear_kept.keeps
  | mrExtend => exact execMrExtend_kept.keeps
  | attest => exact execAttest_kept.keeps
  | attestationReport => exact execAttestationReport_kept.keeps
  | keyDelivery => exact execKeyDelivery_kept.keeps
  | keyInstall => exact execKeyInstall_kept.keeps
  | debugChallenge => exact execDebugChallenge_kept.keeps
  | debugToken => exact execDebugToken_kept.keeps
  | svnCommit => exact execSvnCommit_kept.keeps
  | resetNAssert => exact execResetNAssert_kept.keeps
  | resetNRelease => exact execResetNRelease_kept.keeps
  | firmwareVerify => exact execFirmwareVerify_kept.keeps
  | identityDerive => exact execIdentityDerive_kept.keeps
  | gradeRecordVerify => exact execGradeRecordVerify_kept.keeps
  | imageVerify => exact execImageVerify_kept.keeps
  | functionReady => exact execFunctionReady_kept.keeps
  | surveyMeasurement => exact execSurveyMeasurement_kept.keeps
  | coolingStep => exact execCoolingStep_kept.keeps
  | configurationLock => exact execConfigurationLock_kept.keeps
  | cfgCommit => exact execCfgCommit_kept.keeps
  | stagedApply => exact execStagedApply_kept.keeps
  | nvmRead => exact execNvmRead_kept.keeps
  | nvmErase => exact execNvmErase_kept.keeps
  | nvmProgram => exact execNvmProgram_kept.keeps
  | readyNext => exact execReadyNext_kept.keeps
  | readyRestart => exact execReadyRestart_kept.keeps
  | persistentRecordWrite => exact execPersistentRecordWrite_kept.keeps
  | conversionStart => exact execConversionStart_kept.keeps
  | inputLoss => exact execInputLoss_kept.keeps
  | holdupDischarge => exact execHoldupDischarge_kept.keeps
  | holdReady => exact execHoldReady_kept.keeps
  | powerMeasure => exact execPowerMeasure_kept.keeps
  | paceUpdate => exact execPaceUpdate_kept.keeps
  | ladderRequest => exact execLadderRequest_kept.keeps
  | trip => exact execTrip_kept.keeps
  | pwmWatchdog => exact execPwmWatchdog_kept.keeps
  | cableFaultTrip => exact execCableFaultTrip_kept.keeps
  | cableRetry => exact execCableRetry_kept.keeps
  | cableProbe => exact execCableProbe_kept.keeps
  | cableClear => exact execCableClear_kept.keeps
  | bandHold => exact execBandHold_kept.keeps
  | bandStop => exact execBandStop_kept.keeps
  | bandEnd => exact execBandEnd_kept.keeps
  | heartbeatPeriod => exact execHeartbeatPeriod_kept.keeps
  | heartbeat => exact execHeartbeat_kept.keeps
  | lossDatagram => exact execLossDatagram_kept.keeps
  | tripDatagram => exact execTripDatagram_kept.keeps
  | restarted => exact execRestarted_kept.keeps
  | livenessTimeout => exact execLivenessTimeout_kept.keeps
  | expel => exact execExpel_kept.keeps
  | dead => exact execDead_kept.keeps
  | watch => exact execWatch_kept.keeps
  | remove => exact execRemove_kept.keeps
  | listChange => exact execListChange_kept.keeps
  | evidence => exact execEvidence_kept.keeps
  | evidenceRecord => exact execEvidenceRecord_kept.keeps
  | evidenceExpiry => exact execEvidenceExpiry_kept.keeps
  | scoreDecay => exact execScoreDecay_kept.keeps
  | shadowCompare => exact execShadowCompare_kept.keeps
  | shadowTimeout => exact execShadowTimeout_kept.keeps
  | provingRun => exact execProvingRun_kept.keeps
  | provingResult => exact execProvingResult_kept.keeps
  | provingPeriod => exact execProvingPeriod_kept.keeps
  | sweep => exact execSweep_kept.keeps
  | quarantineRelease => exact execQuarantineRelease_kept.keeps
  | ethernetLinkState => exact execEthernetLinkState_kept.keeps
  | pllLockLoss => exact execPllLockLoss_kept.keeps
  | ptpMessageInterval => exact execPtpMessageInterval_kept.keeps
  | memberLostTimeout => exact execMemberLostTimeout_kept.keeps
  | wakeComplete => exact execWakeComplete_kept.keeps
  | illegalOpcode => exact execIllegalOpcode_kept.keeps

/-- The waiting commands are no part of the invariant. -/
theorem inv_pending {s : State} {l : List Instr} (h : Inv s) : Inv { s with pending := l } := h

theorem inv_reset : Inv State.reset := ⟨rfl, rfl, rfl, rfl⟩

theorem fnsOk_of_no_cmds {s : State} (h : s.work.cmds = []) : FnsOk s := by simp [FnsOk, h]

end Sys2Proof.Machine

section

open Sys2Proof Sys2Proof.Machine

/-- Settles O6: after reset the memories and the register file are empty and no command is listed. -/
theorem resetMeetsInvariant : Obligations.ResetMeetsInvariant := ⟨inv_reset, fnsOk_of_no_cmds rfl⟩

/-- Settles O7: a step lets a G-clock pass or runs one command, and each of the two keeps the invariant by its own law. -/
theorem stepKeepsInvariant : Obligations.StepKeepsInvariant := by
  intro s t hi ht
  unfold step at ht
  split at ht
  · obtain rfl := Host.Outcome.next.inj ht
    exact (tick_kept (.refl [.regs, .yards, .fab, .clock, .out] s) rfl).2 hi
  · obtain ⟨w, u, hu, hk⟩ := exec_kept _ { s with pending := _ }
    obtain rfl := Host.Outcome.next.inj (hu.symm.trans ht)
    exact hk.2 (inv_pending hi)

end
end

section
/-! SUPPORT. Lots and the invalidation of translations (chapter 06, R153-R157): what the rows of a lot's life leave. -/

namespace Sys2Proof.Machine

theorem exec_lotOwner (lot : Fin 384) (o : BitVec 10) (hdm : Bool) (s : State) : exec (.lotOwner lot o hdm) s = execLotOwner lot o hdm s := rfl

theorem exec_releasingEnd (lot : Fin 384) (s : State) : exec (.releasingEnd lot) s = execReleasingEnd lot s := rfl

theorem exec_clearingEnd (lot : Fin 384) (s : State) : exec (.clearingEnd lot) s = execClearingEnd lot s := rfl

theorem exec_memInval (vf : BitVec 10) (all : Bool) (s : State) : exec (.memInval vf all) s = execMemInval vf all s := rfl

theorem exec_memInvalDone (s : State) : exec .memInvalDone s = execMemInvalDone s := rfl

/-! ### The fields of one lot -/

/-- A lot's fields lie in the same half-word, each at its own bits. -/
theorem fldKey_lotOwner_ne (n : Nat) :
    fldKey Reg.lotOwnerHdm n ≠ fldKey Reg.lotOwnerOwner n ∧ fldKey Reg.lotOwnerState n ≠ fldKey Reg.lotOwnerOwner n ∧
      fldKey Reg.lotOwnerState n ≠ fldKey Reg.lotOwnerHdm n :=
  ⟨fldKey_ne_of_base_ne (f := Reg.lotOwnerHdm) (g := Reg.lotOwnerOwner) rfl (by decide) n,
    fldKey_ne_of_base_ne (f := Reg.lotOwnerState) (g := Reg.lotOwnerOwner) rfl (by decide) n,
    fldKey_ne_of_base_ne (f := Reg.lotOwnerState) (g := Reg.lotOwnerHdm) rfl (by decide) n⟩

/-- A lot's entry after an accepted write. -/
def lotSet (s : State) (n o : Nat) (h : Bool) (st : Nat) : State :=
  wr (wr (wr s Reg.lotOwnerOwner n o) Reg.lotOwnerHdm n (bit01 h)) Reg.lotOwnerState n st

section
variable {s : State} {n o st : Nat} {h : Bool}

theorem rd_lotSet_owner (ho : o < 2 ^ 10) : rd (lotSet s n o h st) Reg.lotOwnerOwner n = o := by
  obtain ⟨hhdm, hstate, -⟩ := fldKey_lotOwner_ne n
  rw [lotSet, rd_wr_ne _ _ _ _ _ _ hstate, rd_wr_ne _ _ _ _ _ _ hhdm, rd_wr_same]
  exact Nat.mod_eq_of_lt ho

theorem rd_lotSet_hdm : rd (lotSet s n o h st) Reg.lotOwnerHdm n = if h then 1 else 0 := by
  obtain ⟨-, -, hstate⟩ := fldKey_lotOwner_ne n
  rw [lotSet, rd_wr_ne _ _ _ _ _ _ hstate, rd_wr_same]
  cases h <;> rfl

theorem rd_lotSet_state (hst : st < 2 ^ 2) : rd (lotSet s n o h st) Reg.lotOwnerState n = st := by
  rw [lotSet, rd_wr_same]
  exact Nat.mod_eq_of_lt hst

theorem lotSet_onlyRegs : OnlyRegs [(Reg.lotOwnerOwner, n), (Reg.lotOwnerHdm, n), (Reg.lotOwnerState, n)] s (lotSet s n o h st) :=
  (((OnlyRegs.refl _ s).wr (by simp)).wr (by simp)).wr (by simp)

theorem lotSet_onlyParts : OnlyParts [.regs] s (lotSet s n o h st) := (wr_kept (wr_kept (wr_kept (.refl _ s) rfl) rfl) rfl).1

end

/-! ### LOT_OWNER (R154, R376) -/

theorem lotWrite_grant {o : Nat} (h1 : 1 ≤ o) (h512 : o ≤ 512) (was hdm : Bool) : lotWrite 0 was o hdm = some (o, hdm, 0) := by
  have hne : o ≠ 0 := by omega
  simp [lotWrite, vfCode, hne, h1, h512]

theorem lotWrite_release {o : Nat} (h1 : 1 ≤ o) (h512 : o ≤ 512) (was hdm : Bool) : lotWrite o was 0 hdm = some (o, false, 1) := by
  have hne : o ≠ 0 := by omega
  simp [lotWrite, vfCode, hne.symm, hne, h1, h512]

section
variable {s : State} {lot : Fin 384} {o : BitVec 10} {hdm : Bool}

/-- A write of an IDLE lot that does not release a save lot is judged by its old and new owner. -/
theorem execLotOwner_accepted {e : Nat × Bool × Nat} (hr : reachable s (0x401000 + 2 * lot.val) = true)
    (hn : lot.val < rd s Reg.caps0DramLots 0) (hidle : lotIdle s lot.val = true)
    (hsave : o.toNat ≠ 0 ∨ lotOwnerOf s lot.val = 0 ∨ isSaveLot s lot.val = false)
    (hw : lotWrite (lotOwnerOf s lot.val) (rdB s Reg.lotOwnerHdm lot.val) o.toNat hdm = some e) :
    execLotOwner lot o hdm s = .next (lotSet s lot.val e.1 e.2.1 e.2.2) := by
  have hc : (lotIdle s lot.val && !(o.toNat == 0 && lotOwnerOf s lot.val != 0 && isSaveLot s lot.val)) = true := by
    rcases hsave with h | h | h <;> simp [hidle, h]
  simp only [execLotOwner, hr, Nat.not_le.2 hn, hc, hw, Bool.not_true, Bool.false_eq_true, if_false, if_true]
  rfl

/-- A write while the lot is not IDLE, or the release of a save lot, is logged (R154, R376). -/
theorem execLotOwner_refused (hr : reachable s (0x401000 + 2 * lot.val) = true) (hn : lot.val < rd s Reg.caps0DramLots 0)
    (h : lotIdle s lot.val = false ∨ (o.toNat = 0 ∧ lotOwnerOf s lot.val ≠ 0 ∧ isSaveLot s lot.val = true)) :
    execLotOwner lot o hdm s = .next (logErr s 0 .permission 0 0 (0x401000 + 2 * lot.val)) := by
  have hc : (lotIdle s lot.val && !(o.toNat == 0 && lotOwnerOf s lot.val != 0 && isSaveLot s lot.val)) = false := by
    rcases h with h | ⟨h0, hown, hs⟩
    · simp [h]
    · simp [h0, hown, hs]
  simp only [execLotOwner, hr, Nat.not_le.2 hn, hc, Bool.not_true, Bool.false_eq_true, if_false]

theorem lotOwner_gives {e : Nat × Bool × Nat} (h : execLotOwner lot o hdm s = .next (lotSet s lot.val e.1 e.2.1 e.2.2)) (ho : e.1 < 2 ^ 10)
    (hst : e.2.2 < 2 ^ 2) :
    Gives (.lotOwner lot o hdm) s (fun t => rd t Reg.lotOwnerOwner lot.val = e.1 ∧ rd t Reg.lotOwnerHdm lot.val = (if e.2.1 then 1 else 0) ∧
      rd t Reg.lotOwnerState lot.val = e.2.2 ∧
      OnlyRegs [(Reg.lotOwnerOwner, lot.val), (Reg.lotOwnerHdm, lot.val), (Reg.lotOwnerState, lot.val)] s t ∧ OnlyParts [.regs] s t) :=
  ⟨_, (exec_lotOwner ..).trans h, rd_lotSet_owner ho, rd_lotSet_hdm, rd_lotSet_state hst, lotSet_onlyRegs, lotSet_onlyParts⟩

end

/-! ### RELEASING_END and CLEARING_END (R154) -/

/-- A lot begins CLEARING, behind the lots released before. -/
def lotClearing (s : State) (n : Nat) : State := wr { s with mem := { s.mem with clearQ := s.mem.clearQ ++ [n] } } Reg.lotOwnerState n 2

/-- A lot has been cleared and is free; the given lots wait still. -/
def lotFreed (s : State) (n : Nat) (q : List Nat) : State :=
  wr (wr { s with mem := { memClearLot s.mem n with clearQ := q } } Reg.lotOwnerOwner n 0) Reg.lotOwnerState n 0

section
variable {s : State} {lot : Fin 384}

theorem execReleasingEnd_released (h : rd s Reg.lotOwnerState lot.val = 1) (hreg : lotRegistered s lot.val = false) :
    execReleasingEnd lot s = .next (lotClearing s lot.val) := by
  simp [execReleasingEnd, h, hreg, lotClearing]

theorem execReleasingEnd_stays (h : rd s Reg.lotOwnerState lot.val ≠ 1 ∨ lotRegistered s lot.val = true) :
    execReleasingEnd lot s = .next s := by
  rcases h with h | h <;> simp [execReleasingEnd, h]

theorem execClearingEnd_turn {q : List Nat} (h : s.mem.clearQ = lot.val :: q) : execClearingEnd lot s = .next (lotFreed s lot.val q) := by
  simp [execClearingEnd, h, lotFreed]

end

section
variable (s : State) (n : Nat) (q : List Nat)

theorem rd_lotClearing_state : rd (lotClearing s n) Reg.lotOwnerState n = 2 := rd_wr_same ..

theorem lotClearing_onlyRegs : OnlyRegs [(Reg.lotOwnerState, n)] s (lotClearing s n) :=
  ((OnlyRegs.refl _ s).of_regs (t := { s with mem := _ }) rfl).wr (by simp)

theorem lotClearing_onlyParts : OnlyParts [.regs, .mem] s (lotClearing s n) := 
  (wr_kept (Kept.setMem (x := { s.mem with clearQ := s.mem.clearQ ++ [n] }) (.refl _ s) rfl id) rfl).1

theorem rd_lotFreed_owner : rd (lotFreed s n q) Reg.lotOwnerOwner n = 0 := by
  obtain ⟨-, hstate, -⟩ := fldKey_lotOwner_ne n
  rw [lotFreed, rd_wr_ne _ _ _ _ _ _ hstate, rd_wr_same, Nat.zero_mod]

theorem rd_lotFreed_state : rd (lotFreed s n q) Reg.lotOwnerState n = 0 := rd_wr_same ..

theorem memByte_lotFreed (a : Nat) : memByte (lotFreed s n q).mem a = if lotOf a = n then 0 else memByte s.mem a :=
  memByte_memClearLot s.mem n a

theorem lotFreed_onlyRegs : OnlyRegs [(Reg.lotOwnerOwner, n), (Reg.lotOwnerState, n)] s (lotFreed s n q) :=
  (((OnlyRegs.refl _ s).of_regs (t := { s with mem := _ }) rfl).wr (by simp)).wr (by simp)

theorem lotFreed_onlyParts : OnlyParts [.regs, .mem] s (lotFreed s n q) :=
  (wr_kept (wr_kept (Kept.setMem (x := { memClearLot s.mem n with clearQ := q }) (.refl _ s) rfl fun h => memClearLot_wf h) rfl) rfl).1

end

/-! ### MEM_INVAL (R157) -/

/-- An invalidation has been asked for: commands that register from now on are not affected. -/
def invalAsked (s : State) (vf : Nat) (all : Bool) : State :=
  wr (wr (wr { s with mem := { s.mem with invalSeq := s.work.nextSeq } } Reg.memInvalVf 0 vf) Reg.memInvalAll 0 (bit01 all)) Reg.memInvalGo 0 1

theorem execMemInval_reached {s : State} {vf : BitVec 10} {all : Bool} (h : reachable s 0x400020 = true) :
    execMemInval vf all s = .next (invalAsked s vf.toNat all) := by
  simp [execMemInval, h, invalAsked]

section
variable (s : State) (vf : Nat) (all : Bool)

theorem rd_invalAsked_vf : rd (invalAsked s vf all) Reg.memInvalVf 0 = vf % 2 ^ 10 := by
  rw [invalAsked, rd_wr_ne _ _ _ _ _ _ (by decide), rd_wr_ne _ _ _ _ _ _ (by decide), rd_wr_same]
  rfl

theorem rd_invalAsked_all : rd (invalAsked s vf all) Reg.memInvalAll 0 = if all then 1 else 0 := by
  rw [invalAsked, rd_wr_ne _ _ _ _ _ _ (by decide), rd_wr_same]
  cases all <;> rfl

theorem rd_invalAsked_go : rd (invalAsked s vf all) Reg.memInvalGo 0 = 1 := rd_wr_same ..

theorem invalAsked_onlyRegs : OnlyRegs [(Reg.memInvalVf, 0), (Reg.memInvalAll, 0), (Reg.memInvalGo, 0)] s (invalAsked s vf all) :=
  ((((OnlyRegs.refl _ s).of_regs (t := { s with mem := _ }) rfl).wr (by simp)).wr (by simp)).wr (by simp)

theorem invalAsked_onlyParts : OnlyParts [.regs, .mem] s (invalAsked s vf all) :=
  (wr_kept (wr_kept (wr_kept (Kept.setMem (x := { s.mem with invalSeq := s.work.nextSeq }) (.refl _ s) rfl id) rfl) rfl) rfl).1

end

end Sys2Proof.Machine

section

open Sys2Proof Sys2Proof.Machine

/-- Settles O30: each clause's premises name the branch of its row, and each branch is one update of the lot's or the invalidation's fields. -/
theorem lotsAndInvalidation : Obligations.LotsAndInvalidation := by
  intro s lot o hdm all q a n off mine busy lotIs
  refine ⟨fun hr hn => ⟨fun hidle hown h1 h512 => ?_, fun hidle h1 h512 hsave => ?_, fun hidle => ?_, fun hsave hown => ?_⟩, fun hst hreg => ?_,
    fun h => ⟨s, (exec_releasingEnd ..).trans (execReleasingEnd_stays h), rfl⟩, fun hq => ?_, fun hr => ?_, fun hbusy => ?_, fun hbusy => ?_⟩
  · exact lotOwner_gives (e := (o.toNat, hdm, 0)) (execLotOwner_accepted hr hn hidle (.inr (.inl hown)) (hown ▸ lotWrite_grant h1 h512 ..))
      o.isLt (by show 0 < 2 ^ 2; decide)
  · exact lotOwner_gives (e := (lotOwnerOf s n, false, 1)) (execLotOwner_accepted hr hn hidle (.inr (.inr hsave)) (lotWrite_release h1 h512 ..))
      (by show lotOwnerOf s n < 2 ^ 10; omega) (by show 1 < 2 ^ 2; decide)
  · exact ⟨_, (exec_lotOwner ..).trans (execLotOwner_refused hr hn (.inl hidle)), rfl⟩
  · exact ⟨_, (exec_lotOwner ..).trans (execLotOwner_refused hr hn (.inr ⟨rfl, hown, hsave⟩)), rfl⟩
  · exact ⟨_, (exec_releasingEnd ..).trans (execReleasingEnd_released hst hreg), rd_lotClearing_state s n, rfl, lotClearing_onlyRegs s n,
      lotClearing_onlyParts s n⟩
  · exact ⟨_, (exec_clearingEnd ..).trans (execClearingEnd_turn hq), rd_lotFreed_owner s n q, rd_lotFreed_state s n q, rfl,
      fun ha => (memByte_lotFreed s n q a).trans (if_pos ha), fun ha => (memByte_lotFreed s n q a).trans (if_neg ha), lotFreed_onlyRegs s n q,
      lotFreed_onlyParts s n q⟩
  · exact ⟨_, (exec_memInval ..).trans (execMemInval_reached hr), (rd_invalAsked_vf ..).trans (Nat.mod_eq_of_lt o.isLt), rd_invalAsked_all ..,
      rd_invalAsked_go .., rfl, invalAsked_onlyRegs s o.toNat all, invalAsked_onlyParts s o.toNat all⟩
  · have hdone : execMemInvalDone s = .next (wr s Reg.memInvalGo 0 0) := congrArg Host.Outcome.next (if_neg (Bool.eq_false_iff.1 hbusy))
    exact ⟨_, (exec_memInvalDone s).trans hdone, rd_wr_same .., (OnlyRegs.refl _ s).wr (by simp), (wr_kept (.refl _ s) rfl).1⟩
  · exact ⟨s, (exec_memInvalDone s).trans (congrArg Host.Outcome.next (if_pos hbusy)), rfl⟩

end
end

section
/-! SUPPORT. A debug token in a line that cannot be read (R430, R163). -/

namespace Sys2Proof.Machine

theorem exec_debugToken (s : State) : exec .debugToken s = execDebugToken s := rfl

/-- No token is accepted while no challenge is open (R430). -/
theorem tokenOk_of_closed {s : State} (h : s.sec.chalOpen = false) (obj : List Byte) : tokenOk s obj = false := by
  simp [tokenOk, h]

/-- A token whose lines cannot be read ends MEM_UE (R163). -/
theorem execDebugToken_unreadable {s : State} (hin : inReserve s (rd s Reg.secDebugToken 0) 288 = true) {l : Nat}
    (hread : (senseRuns s 5 0 [(rd s Reg.secDebugToken 0, 288)]).2 = some l) :
    ∃ u, execDebugToken s = .next (wr u Reg.secDebugStatus 0 Status.memUe.code) := by
  obtain ⟨u, hu⟩ : ∃ u, senseRuns s 5 0 [(rd s Reg.secDebugToken 0, 288)] = (u, some l) := ⟨_, Prod.ext rfl hread⟩
  exact ⟨u, by simp [execDebugToken, hin, readRuns, hu]⟩

/-- So it does not end PERMISSION. -/
theorem not_gives_permission_of_unreadable {s : State} {l : Nat} (hin : inReserve s (rd s Reg.secDebugToken 0) 288 = true)
    (hread : (senseRuns s 5 0 [(rd s Reg.secDebugToken 0, 288)]).2 = some l) {P : State → Prop}
    (hP : ∀ t, P t → rd t Reg.secDebugStatus 0 = Status.permission.code) : ¬ Gives .debugToken s P := by
  rintro ⟨t, ht, hpost⟩
  obtain ⟨u, hu⟩ := execDebugToken_unreadable hin hread
  obtain rfl : wr u Reg.secDebugStatus 0 Status.memUe.code = t := Host.Outcome.next.inj (hu.symm.trans ((exec_debugToken s).symm.trans ht))
  exact absurd ((rd_wr_same ..).symm.trans (hP _ hpost)) (by decide)

/-- Reset, with one lot, of the manager reserve, whose first line is stored and has four spoilt symbols that no re-read recovers. -/
def spoiltToken : State :=
  let s := wr (wr State.reset Reg.caps0DramLots 0 1) Reg.lotOwnerOwner 0 0x3FD
  { s with mem := { s.mem with stored := [(0, 0)], err := [(0, { syms := 0xF, hard := true, rereadOk := false, wrong := false })] } }

/-- The token's bytes lie in the reserve: SEC_DEBUG_TOKEN is 0. -/
theorem inReserve_spoiltToken : inReserve spoiltToken (rd spoiltToken Reg.secDebugToken 0) 288 = true := by decide

/-- The error is of fewer than six symbols, so no decoder lets it escape (R161). -/
theorem senseRuns_spoiltToken : (senseRuns spoiltToken 5 0 [(rd spoiltToken Reg.secDebugToken 0, 288)]).2 = some 0 := by decide

end Sys2Proof.Machine

section

open Sys2Proof Sys2Proof.Machine

/-- Refutes O51: a debug token that lies in a persistently uncorrectable line of the reserve ends MEM_UE (R163), where the statement says that
every token of the reserve that is not accepted ends PERMISSION. The statement has no premise that the token's lines can be read. -/
theorem not_securityRequests : ¬ Obligations.SecurityRequests := by
  intro h
  obtain ⟨-, -, -, -, -, -, -, -, -, -, -, -, -, -, htoken, -⟩ := h spoiltToken false false false false default default [] 0 0 [] 0 0
  have hrefused : ¬ tokenOk spoiltToken (memBytes spoiltToken (rd spoiltToken Reg.secDebugToken 0) 288) = true :=
    Bool.not_eq_true _ ▸ tokenOk_of_closed rfl _
  exact not_gives_permission_of_unreadable inReserve_spoiltToken senseRuns_spoiltToken (fun _ => And.left ∘ (if_neg hrefused).mp)
    (htoken inReserve_spoiltToken)

end
end

section
/-! SUPPORT. A partition's lowered bench_max that takes a bench on which a proving run is listed (R357, R487). -/

namespace Sys2Proof.Machine

theorem exec_stagedApply (kind : BitVec 4) (damaged : Bool) (s : State) : exec (.stagedApply kind damaged) s = execStagedApply kind damaged s := rfl

/-- What the boundary of an intact snapshot, the only one pending, leaves (R448, R450). -/
def applied (s : State) (p : Snap) : State :=
  cfgResult (((groupFields p.kind p.index).zip p.values).foldl (fun s e => wrLive s e.1.1 e.1.2 e.2) (putPending s [])) p.token p.kind p.index 1 .ok

theorem applyKind_single {s : State} {p : Snap} (hpend : s.cfg.pending = [p]) (hcrc : snapCrc p.values = p.crc) :
    applyKind s p.kind = applied s p := by
  simp [applyKind, hpend, applySnap, hcrc, applied]

/-- An intact BANK_PART group is applied, and then the benches above its bench_max are given up. -/
theorem execStagedApply_single {s : State} {p : Snap} (hpend : s.cfg.pending = [p]) (hkind : p.kind = 2) (hcrc : snapCrc p.values = p.crc) :
    execStagedApply 2 false s = .next (trimPart (applied s p) p.index) := by
  have hdue : s.cfg.pending.filter (fun p => p.kind == 2) = [p] := by simp [hpend, hkind]
  rw [← applyKind_single hpend hcrc, hkind]
  simp [execStagedApply, hdue]

/-- PF0's BANK_PART group with bench_min and bench_max 0, weight 1 and a quantum of 10 ms, as a commit keeps it. -/
def loweredPart : Snap := { kind := 2, index := 0, token := 1, values := [0, 0, 1, 10], crc := snapCrc [0, 0, 1, 10] }

/-- Reset, with one bench, which is READY, holds PF0's context 0 and has a proving run listed on it; the lowered group waits for its
boundary. -/
def provedBenchState : State :=
  let s := wr (wr State.reset Reg.caps0BenchCount 0 1) Reg.readyFnState 32 2
  let s := putBench s 0 { getBench s 0 with ctx := some 0 }
  { s with
    health := { s.health with runs := [{ unit := 0, engine := false, pattern := 0, load := 0, sweep := false }] }
    cfg := { s.cfg with pending := [loweredPart] } }

theorem fnsOk_provedBenchState : FnsOk provedBenchState := fnsOk_of_no_cmds rfl

theorem benchCount_provedBenchState : benchCount provedBenchState ≤ 32 := by decide

theorem crc_loweredPart : snapCrc loweredPart.values = loweredPart.crc := Eq.refl (snapCrc [0, 0, 1, 10])

/-- The state after the group's boundary: the bench is given up. -/
def trimmedState : State := trimPart (applied provedBenchState loweredPart) loweredPart.index

/-- The switch that takes the bench discards the run. -/
theorem runs_trimmedState : trimmedState.health.runs = [] := by decide

end Sys2Proof.Machine

section

open Sys2Proof Sys2Proof.Machine

/-- Refutes O56: an intact BANK_PART snapshot whose bench_max is below the benches held gives a bench up (R357), and its switch kills a proving
run listed on that bench (R487), so the part `health` changes, which the statement's frame of an applied snapshot leaves out. The statement has
no premise that no proving run is listed on a bench that holds a context. -/
theorem not_bringUpAndLock : ¬ Obligations.BringUpAndLock := by
  intro h
  obtain ⟨-, -, -, -, -, -, -, -, -, -, -, -, happly, -⟩ :=
    h provedBenchState 0 .ok 0 .flights 0 0 0 false 2 loweredPart 0 .short (0, 0, 0) 0 [] [] 0 benchCount_provedBenchState fnsOk_provedBenchState
  obtain ⟨t, ht, -, -, -, hparts⟩ := happly ⟨rfl, by decide, rfl, by decide, by decide, by decide, crc_loweredPart⟩
  obtain rfl : trimmedState = t :=
    Host.Outcome.next.inj ((execStagedApply_single rfl rfl crc_loweredPart).symm.trans ((exec_stagedApply ..).symm.trans ht))
  have hhealth : trimmedState.health = provedBenchState.health := hparts .health (by decide)
  have hruns := runs_trimmedState
  rw [hhealth] at hruns
  exact absurd hruns (by decide)

end
end

section
/-! SUPPORT. Host accesses, the patrol scrub and the refill of the buckets (chapter 06, R149, R158-R170). -/

namespace Sys2Proof.Machine

theorem exec_cxlMemRead (pa : BitVec 39) (s : State) : exec (.cxlMemRead pa) s = execCxlMemRead pa s := rfl

theorem exec_cxlMemWrite (pa : BitVec 39) (data : BitVec 512) (mask : BitVec 64) (s : State) :
    exec (.cxlMemWrite pa data mask) s = execCxlMemWrite pa data mask s := rfl

theorem exec_scrubRead (e : Option LineErr) (s : State) : exec (.scrubRead e) s = execScrubRead e s := rfl

theorem exec_bucketRefill (s : State) : exec .bucketRefill s = execBucketRefill s := rfl

/-! ### Little-endian bytes -/

theorem getD_leBytes {n i : Nat} (h : i < n) (v : Nat) : (leBytes n v).getD i 0 = BitVec.ofNat 8 (v / 2 ^ (8 * i)) := by
  induction n generalizing v i with
  | zero => omega
  | succ n ih =>
    cases i with
    | zero => simp [leBytes]
    | succ i =>
      rw [leBytes, List.getD_cons_succ, ih (Nat.lt_of_succ_lt_succ h), Nat.div_div_eq_div_mul, Nat.mul_succ, Nat.pow_add, Nat.mul_comm 256]

/-! ### Lines without errors -/

theorem errAt_of_no_err {m : Mem} (h : m.err = []) (line : Nat) : errAt m line = none := by
  rw [errAt, h]
  exact ite_self _

theorem senseAt_of_none {s : State} {line : Nat} (h : errAt s.mem line = none) (source tag : Nat) : senseAt s source tag line = (s, false) := by
  rw [senseAt, h]

/-- A line holds nothing, or was stored under the key pair that reads and writes it now. -/
def LineKept (s : State) (line : Nat) : Prop := (mapFind s.mem.stored line).getD (lineKey s line) = lineKey s line

/-- A byte of such a line is delivered as it was written (R158). -/
theorem memDeliver_of_lineKept {s : State} {pa : Nat} (herr : s.mem.err = []) (hk : LineKept s (pa / 64)) : memDeliver s pa = memByte s.mem pa := by
  rw [memDeliver, errAt_of_no_err herr]
  cases hst : mapFind s.mem.stored (pa / 64) with
  | none => rfl
  | some k =>
    have hkey : k = lineKey s (pa / 64) := by simpa [LineKept, hst] using hk
    exact if_pos hkey

/-- Reading it to write it again changes nothing (R149). -/
theorem rekeyLine_of_lineKept {s : State} {line : Nat} (hk : LineKept s line) : rekeyLine s.mem (lineKey s line) line = s.mem := by
  rw [rekeyLine]
  cases hst : mapFind s.mem.stored line with
  | none => rfl
  | some k =>
    have hkey : k = lineKey s line := by simpa [LineKept, hst] using hk
    exact if_pos hkey

/-! ### States that hold the same line -/

/-- Both states hold the same bytes and errors, and read and write a line under the same key pair. -/
def SameLine (s t : State) (line : Nat) : Prop :=
  t.mem.dram = s.mem.dram ∧ t.mem.stored = s.mem.stored ∧ t.mem.err = s.mem.err ∧ lineKey t line = lineKey s line

section
variable {s t : State} {line : Nat}

theorem lineKey_congr (howner : lotOwnerOf t (lotOf (line * 64)) = lotOwnerOf s (lotOf (line * 64))) (hkeys : t.mem.keys = s.mem.keys) :
    lineKey t line = lineKey s line := by
  rw [lineKey, lineKey, keySlot, keySlot, howner, hkeys]

theorem SameLine.memByte (h : SameLine s t line) (x : Nat) : memByte t.mem x = Machine.memByte s.mem x := congrArg (mapGet · x 0) h.1

theorem SameLine.lineKept (h : SameLine s t line) (hk : LineKept s line) : LineKept t line := by
  obtain ⟨-, hstored, -, hkey⟩ := h
  rwa [LineKept, hstored, hkey]

theorem SameLine.err (h : SameLine s t line) (herr : s.mem.err = []) : t.mem.err = [] := h.2.2.1.trans herr

/-- The lots of the device lie before the place where LOT_OWNER's stride reaches DRAM_BUCKET's levels. -/
theorem fldKey_bucketLevel_ne_lotOwner {n : Nat} (hn : n < 6148) (f : Nat) : fldKey Reg.dramBucketLevel f ≠ fldKey Reg.lotOwnerOwner n := by
  simp only [fldKey, Reg.dramBucketLevel, Reg.lotOwnerOwner]
  omega

/-- A charge moves tokens and shows their level. -/
theorem sameLine_chargeHost (h : lotOf (line * 64) < 6148) (pa bytes : Nat) : SameLine s (chargeHost s pa bytes) line := by
  rw [chargeHost, chargeDram]
  split
  · exact ⟨rfl, rfl, rfl, rfl⟩
  · exact ⟨rfl, rfl, rfl, lineKey_congr (rd_wr_ne _ _ _ _ _ _ (fldKey_bucketLevel_ne_lotOwner h _)) rfl⟩

/-- Marks of regions stand beside the memory. -/
theorem sameLine_markRegions (ps : List (Nat × Nat)) : SameLine s (ps.foldl (fun s p => markRegion s p.1) s) line := by
  have hparts : OnlyParts [.ten] s (ps.foldl (fun s p => markRegion s p.1) s) := (Kept.foldl (.refl _ s) fun _ _ hs => markRegion_kept hs rfl).1
  have hmem : (ps.foldl (fun s p => markRegion s p.1) s).mem = s.mem := hparts .mem (by decide)
  exact ⟨congrArg _ hmem, congrArg _ hmem, congrArg _ hmem, lineKey_congr (rd_congr (hparts .regs (by decide)) _ _) (congrArg _ hmem)⟩

/-- A whole line that was stored under its key pair takes the bytes, and no other line changes. -/
theorem memByte_dramStore_line {bs : List Byte} (hlen : bs.length = 64) (hk : LineKept s line) (x : Nat) :
    memByte (dramStore s (line * 64) bs).mem x = if line * 64 ≤ x ∧ x < line * 64 + 64 then bs.getD (x - line * 64) 0 else memByte s.mem x := by
  have hne : bs ≠ [] := fun h => by simp [h] at hlen
  have hfirst : line * 64 / 64 = line := by omega
  have hlast : (line * 64 + bs.length - 1) / 64 = line := by omega
  have hsame : SameLine s ((pieces (line * 64) bs.length (2 ^ 21)).foldl (fun s p => markRegion s p.1) s) line := sameLine_markRegions _
  rw [dramStore]
  generalize (pieces (line * 64) bs.length (2 ^ 21)).foldl (fun s p => markRegion s p.1) s = u at hsame ⊢
  simp only [hne, if_false, hfirst, hlast, rekeyLine_of_lineKept (hsame.lineKept hk)]
  show memByte (memPutBytes (lineKey u) u.mem (line * 64) bs) x = _
  split
  · rename_i hx
    obtain ⟨i, rfl⟩ := Nat.exists_eq_add_of_le hx.1
    have hi : i < bs.length := by omega
    rw [memByte_memPutBytes_in _ _ _ _ _ hi, Nat.add_sub_cancel_left, List.getD_eq_getElem _ _ hi]
  · rw [memByte_memPutBytes_out _ _ _ _ _ (by rwa [hlen]), hsame.memByte]

end

/-! ### CXL_MEM_READ and CXL_MEM_WRITE (R149, R160) -/

/-- The bytes a host write leaves in its line: those its mask names, beside those that stand there. -/
def mergedLine (s : State) (a : Nat) (data : BitVec 512) (mask : BitVec 64) : List Byte :=
  (List.range 64).map (fun i => if mask.getLsbD i then (leBytes 64 data.toNat).getD i 0 else (memBytes s a 64).getD i 0)

section
variable {s : State} {pa : BitVec 39} {data : BitVec 512} {mask : BitVec 64}

theorem lotOf_lt_of_line (pa : BitVec 39) : lotOf (pa.toNat / 64 * 64) < 6148 := by
  have := pa.isLt
  rw [lotOf]
  omega

/-- Before the stacks are up (R150). -/
theorem execCxlMemRead_down (h : dramReady s = false) : execCxlMemRead pa s = .next (emit s (.cxlData (2 ^ 512 - 1))) := by
  simp only [execCxlMemRead, h, Bool.not_false, if_true]

theorem execCxlMemWrite_down (h : dramReady s = false) : execCxlMemWrite pa data mask s = .next s := by
  simp only [execCxlMemWrite, h, Bool.not_false, if_true]

/-- Where the host may not be served (R160). -/
theorem execCxlMemRead_refused (h : dramReady s = true) (hno : hdmOk s (pa.toNat / 64 * 64) = false) :
    execCxlMemRead pa s = .next (emit (logErr s 0 .permission 3 0 (lotOf (pa.toNat / 64 * 64))) (.cxlData (2 ^ 512 - 1))) := by
  simp only [execCxlMemRead, h, hno, Bool.not_true, Bool.not_false, Bool.false_eq_true, if_false, if_true]

theorem execCxlMemWrite_refused (h : dramReady s = true) (hno : hdmOk s (pa.toNat / 64 * 64) = false) :
    execCxlMemWrite pa data mask s = .next (logErr s 0 .permission 3 0 (lotOf (pa.toNat / 64 * 64))) := by
  simp only [execCxlMemWrite, h, hno, Bool.not_true, Bool.not_false, Bool.false_eq_true, if_false, if_true]

/-- A served read (R160). -/
theorem execCxlMemRead_served (h : dramReady s = true) (hok : hdmOk s (pa.toNat / 64 * 64) = true) (herr : s.mem.err = []) :
    execCxlMemRead pa s = .next (emit (chargeHost s (pa.toNat / 64 * 64) 64) (.cxlData (memNat s (pa.toNat / 64 * 64) 64))) := by
  have hsame := sameLine_chargeHost (s := s) (line := pa.toNat / 64) (lotOf_lt_of_line pa) (pa.toNat / 64 * 64) 64
  have hsense : senseAt (chargeHost s (pa.toNat / 64 * 64) 64) 1 0 (pa.toNat / 64 * 64 / 64) = (chargeHost s (pa.toNat / 64 * 64) 64, false) :=
    senseAt_of_none (errAt_of_no_err (hsame.err herr) _) 1 0
  simp only [execCxlMemRead, h, hok, hsense, Bool.not_true, Bool.false_eq_true, if_false]

/-- A served write with every byte named (R149). -/
theorem execCxlMemWrite_whole (h : dramReady s = true) (hok : hdmOk s (pa.toNat / 64 * 64) = true) (hmask : mask.toNat = 2 ^ 64 - 1) :
    execCxlMemWrite pa data mask s = .next (dramStore (chargeHost s (pa.toNat / 64 * 64) 64) (pa.toNat / 64 * 64) (leBytes 64 data.toNat)) := by
  have hne : mask ≠ 0 := by rintro rfl; exact absurd hmask (by decide)
  simp only [execCxlMemWrite, h, hok, hne, hmask, Bool.not_true, Bool.false_eq_true, if_false, if_true]

/-- A served write with some bytes named (R149). -/
theorem execCxlMemWrite_part (h : dramReady s = true) (hok : hdmOk s (pa.toNat / 64 * 64) = true) (herr : s.mem.err = []) (hne : mask ≠ 0)
    (hmask : mask.toNat ≠ 2 ^ 64 - 1) :
    execCxlMemWrite pa data mask s = .next (dramStore (chargeHost s (pa.toNat / 64 * 64) 128) (pa.toNat / 64 * 64)
      (mergedLine (chargeHost s (pa.toNat / 64 * 64) 128) (pa.toNat / 64 * 64) data mask)) := by
  have hsame := sameLine_chargeHost (s := s) (line := pa.toNat / 64) (lotOf_lt_of_line pa) (pa.toNat / 64 * 64) 128
  have hsense : senseAt (chargeHost s (pa.toNat / 64 * 64) 128) 1 0 (pa.toNat / 64 * 64 / 64) = (chargeHost s (pa.toNat / 64 * 64) 128, false) :=
    senseAt_of_none (errAt_of_no_err (hsame.err herr) _) 1 0
  simp only [execCxlMemWrite, h, hok, hne, hmask, hsense, mergedLine, Bool.not_true, Bool.false_eq_true, if_false]

/-- A host write with an empty mask (R149). -/
theorem execCxlMemWrite_none (h : dramReady s = true) (hok : hdmOk s (pa.toNat / 64 * 64) = true) : execCxlMemWrite pa data 0 s = .next s := by
  simp only [execCxlMemWrite, h, hok, Bool.not_true, Bool.false_eq_true, if_false, if_true]

end

section
variable {s : State} {line : Nat}

theorem lineKept_of_keyKept (h : keyKept s (line * 64) 64 = true) : LineKept s line := by
  have hfirst : line * 64 / 64 = line := by omega
  simp only [keyKept, List.all_cons, hfirst, Bool.and_eq_true, beq_iff_eq] at h
  exact h.1

/-- A line without an error, under its key pair, reads as it was written. -/
theorem memBytes_of_lineKept (herr : s.mem.err = []) (hk : LineKept s line) :
    memBytes s (line * 64) 64 = (List.range 64).map (fun i => memByte s.mem (line * 64 + i)) := by
  refine List.map_congr_left fun i hi => memDeliver_of_lineKept herr ?_
  have hline : (line * 64 + i) / 64 = line := by have := List.mem_range.1 hi; omega
  rwa [hline]

theorem getD_mergedLine (herr : s.mem.err = []) (hk : LineKept s line) (data : BitVec 512) (mask : BitVec 64) {i : Nat} (hi : i < 64) :
    (mergedLine s (line * 64) data mask).getD i 0 =
      if mask.getLsbD i then BitVec.ofNat 8 (data.toNat / 2 ^ (8 * i)) else memByte s.mem (line * 64 + i) := by
  rw [mergedLine, memBytes_of_lineKept herr hk, List.getD_eq_getElem _ _ (by simpa using hi), List.getElem_map, List.getElem_range, getD_leBytes hi,
    List.getD_eq_getElem _ _ (by simpa using hi), List.getElem_map, List.getElem_range]

/-- What a host write of a line leaves: the bytes the mask names, and no other change of a byte. -/
def HostWrote (s t : State) (line : Nat) (data : BitVec 512) (mask : BitVec 64) : Prop :=
  (∀ i, i < 64 → memByte t.mem (line * 64 + i) =
    if mask.getLsbD i then BitVec.ofNat 8 (data.toNat / 2 ^ (8 * i)) else memByte s.mem (line * 64 + i)) ∧
  OnlyBytes (line * 64) 64 s t ∧ OnlyParts [.regs, .mem, .ten] s t

/-- A charged store of a line whose bytes are the merged ones. -/
theorem hostWrote_dramStore {pa bytes : Nat} {bs : List Byte} (hlot : lotOf (line * 64) < 6148) (hk : LineKept s line) (hlen : bs.length = 64)
    {data : BitVec 512} {mask : BitVec 64} (hbs : ∀ i, i < 64 → bs.getD i 0 =
      if mask.getLsbD i then BitVec.ofNat 8 (data.toNat / 2 ^ (8 * i)) else memByte s.mem (line * 64 + i)) :
    HostWrote s (dramStore (chargeHost s pa bytes) (line * 64) bs) line data mask := by
  have hsame := sameLine_chargeHost (s := s) hlot pa bytes
  refine ⟨fun i hi => ?_, fun x hx => ?_, (dramStore_kept (chargeHost_kept (.refl _ s) rfl) rfl).1⟩
  · rw [memByte_dramStore_line hlen (hsame.lineKept hk), if_pos ⟨Nat.le_add_right _ _, by omega⟩, Nat.add_sub_cancel_left, hbs i hi]
  · rw [memByte_dramStore_line hlen (hsame.lineKept hk), if_neg hx, hsame.memByte]

theorem getLsbD_of_full {mask : BitVec 64} (h : mask.toNat = 2 ^ 64 - 1) {i : Nat} (hi : i < 64) : mask.getLsbD i = true := by
  rw [BitVec.getLsbD, h, Nat.testBit_two_pow_sub_one]
  exact decide_eq_true hi

end

/-- A served host read answers the line's bytes. -/
theorem cxlMemRead_serves {s : State} {pa : BitVec 39} (h : dramReady s = true) (hok : hdmOk s (pa.toNat / 64 * 64) = true) (herr : s.mem.err = [])
    (hkey : keyKept s (pa.toNat / 64 * 64) 64 = true) :
    Gives (.cxlMemRead pa) s (fun t =>
      t.out = .cxlData (leNat ((List.range 64).map (fun i => memByte s.mem (pa.toNat / 64 * 64 + i)))) :: s.out ∧
      OnlyBytes 0 0 s t ∧ OnlyParts [.regs, .mem, .out] s t) := by
  have hsame := sameLine_chargeHost (s := s) (line := pa.toNat / 64) (lotOf_lt_of_line pa) (pa.toNat / 64 * 64) 64
  have hcharge : Kept [.regs, .mem] s (chargeHost s (pa.toNat / 64 * 64) 64) := chargeHost_kept (.refl _ s) rfl
  refine ⟨_, (exec_cxlMemRead ..).trans (execCxlMemRead_served h hok herr), ?_, fun x _ => hsame.memByte x,
    (emit_kept (Kept.app (.refl _ s) rfl hcharge) rfl).1⟩
  have hout : (chargeHost s (pa.toNat / 64 * 64) 64).out = s.out := hcharge.1 .out (by decide)
  rw [memNat, memBytes_of_lineKept herr (lineKept_of_keyKept hkey), emit, hout]

/-- A served host write stores what its mask names, whether it covers the line, a part of it or nothing. -/
theorem cxlMemWrite_serves {s : State} {pa : BitVec 39} (data : BitVec 512) (mask : BitVec 64) (h : dramReady s = true)
    (hok : hdmOk s (pa.toNat / 64 * 64) = true) (herr : s.mem.err = []) (hkey : keyKept s (pa.toNat / 64 * 64) 64 = true) :
    Gives (.cxlMemWrite pa data mask) s (fun t => HostWrote s t (pa.toNat / 64) data mask) := by
  have hk := lineKept_of_keyKept hkey
  have hlot := lotOf_lt_of_line pa
  by_cases hnone : mask = 0
  · subst hnone
    exact ⟨s, (exec_cxlMemWrite ..).trans (execCxlMemWrite_none h hok), fun i _ => by simp, fun _ _ => rfl, (Kept.refl _ s).1⟩
  by_cases hwhole : mask.toNat = 2 ^ 64 - 1
  · refine ⟨_, (exec_cxlMemWrite ..).trans (execCxlMemWrite_whole h hok hwhole), hostWrote_dramStore hlot hk (length_leBytes ..) fun i hi => ?_⟩
    rw [getLsbD_of_full hwhole hi, if_pos rfl, getD_leBytes hi]
  · have hsame := sameLine_chargeHost (s := s) (line := pa.toNat / 64) hlot (pa.toNat / 64 * 64) 128
    refine ⟨_, (exec_cxlMemWrite ..).trans (execCxlMemWrite_part h hok herr hnone hwhole),
      hostWrote_dramStore hlot hk (by simp [mergedLine]) fun i hi => ?_⟩
    rw [getD_mergedLine (hsame.err herr) (hsame.lineKept hk) data mask hi, hsame.memByte]

/-! ### SCRUB_READ (R165) -/

/-- The scrub has moved on to a line. -/
def scrubMoved (s : State) (next : Nat) : State := { s with mem := { s.mem with scrubLine := next } }

/-- A line's decoder meets what it meets: an error, or none that was not there. -/
def errMet (s : State) (line : Nat) (err : Option LineErr) : State :=
  { s with mem := { s.mem with err := err.elim s.mem.err (mapSet s.mem.err line) } }

/-- A line's error is gone. -/
def errErased (s : State) (line : Nat) : State := { s with mem := { s.mem with err := mapErase s.mem.err line } }

/-- The scrub's place and the errors are beside the bytes of the memory. -/
theorem errErased_kept (s : State) (line next : Nat) (err : Option LineErr) :
    Kept [.mem] s (errErased (errMet (scrubMoved s next) line err) line) := by
  have hmoved : Kept [.mem] s (scrubMoved s next) := Kept.setMem (x := { s.mem with scrubLine := next }) (.refl _ s) rfl id
  have hmet : Kept [.mem] s (errMet (scrubMoved s next) line err) := hmoved.setMem rfl fun h => h
  exact hmet.setMem rfl fun h => h

/-- Scrub is switched on, and there is a line to read. -/
theorem not_idle {b : Bool} {n : Nat} (hb : b = true) (hn : n ≠ 0) : ¬ (!b || decide (n = 0)) = true := by simp [hb, hn]

theorem rdB_of_ne {s : State} {f : Fld} {i : Nat} (h : rd s f i ≠ 0) : rdB s f i = true := by simp [rdB, h]

section
variable {s : State} {line next : Nat} {e : LineErr}

theorem idle_of_off {b : Bool} (hb : b = false) (n : Nat) : (!b || decide (n = 0)) = true := by simp [hb]

theorem execScrubRead_off (h : rd s Reg.memScrubEnable 0 = 0) (err : Option LineErr) : execScrubRead err s = .next s := by
  unfold execScrubRead
  exact congrArg Host.Outcome.next (if_pos (idle_of_off (by simp [rdB, h]) _))

/-- A cleared line is left (R154). -/
theorem execScrubRead_cleared (h : rd s Reg.memScrubEnable 0 ≠ 0) (hsize : dramSize s ≠ 0) (hline : s.mem.scrubLine % (dramSize s / 64) = line)
    (hnext : (line + 1) % (dramSize s / 64) = next) (hcleared : mapFind s.mem.stored line = none) (err : Option LineErr) :
    execScrubRead err s = .next (scrubMoved s next) := by
  unfold execScrubRead
  rw [if_neg (not_idle (rdB_of_ne h) hsize)]
  extract_lets l m1 s1 m2 s2
  have hs1 : s1 = scrubMoved s next := by rw [← hnext, ← hline]; rfl
  have hl : l = line := hline
  clear_value l s1 
  rw [if_pos (by rw [hs1, hl]; exact Option.isNone_iff_eq_none.2 hcleared), hs1]

/-- A stored line that senses no persistent error leaves what its sensing leaves. -/
theorem execScrubRead_stored (h : rd s Reg.memScrubEnable 0 ≠ 0) (hsize : dramSize s ≠ 0) (hline : s.mem.scrubLine % (dramSize s / 64) = line)
    (hnext : (line + 1) % (dramSize s / 64) = next) (hst : (mapFind s.mem.stored line).isSome = true) {err : Option LineErr} {u : State}
    (hsense : senseAt (errMet (scrubMoved s next) line err) 3 0 line = (u, false)) : execScrubRead err s = .next u := by
  unfold execScrubRead
  rw [if_neg (not_idle (rdB_of_ne h) hsize)]
  extract_lets l m1 s1 m2 s2
  have hs1 : s1 = scrubMoved s next := by rw [← hnext, ← hline]; rfl
  have hl : l = line := hline
  clear_value l s1
  subst hl hs1
  have hs2 : s2 = errMet (scrubMoved s next) l err := by cases err <;> rfl
  clear_value s2
  rw [if_neg (by simpa [scrubMoved, Option.isSome_iff_ne_none] using hst), hs2, hsense]

/-- A soft error of one symbol is corrected, its line's error is gone, and the count rises (R162). -/
theorem senseLine_corrected (hn : popCount 72 e.syms.toNat = 1) (hhard : e.hard = false) (hwrong : e.wrong = false) (source tag : Nat) :
    senseLine s source tag line e =
      (bump (errErased s line) Reg.memCeCountCount 0 1, false) := by
  simp [senseLine, uncorrectable, errErased, hn, hhard, hwrong]

theorem senseAt_errMet (hst : (mapFind s.mem.stored line).isSome = true) (source tag : Nat) :
    senseAt (errMet s line (some e)) source tag line = senseLine (errMet s line (some e)) source tag line e := by
  have herr : errAt (errMet s line (some e)).mem line = some e := by simp [errAt, errMet, hst]
  rw [senseAt, herr]

end

/-- A stored line with a soft error of one symbol: the scrub moves on, corrects it and counts it. -/
theorem scrubRead_corrects {s : State} {line next : Nat} {e : LineErr} (h : rd s Reg.memScrubEnable 0 ≠ 0) (hsize : dramSize s ≠ 0)
    (hline : s.mem.scrubLine % (dramSize s / 64) = line) (hnext : (line + 1) % (dramSize s / 64) = next)
    (hst : (mapFind s.mem.stored line).isSome = true) (hn : popCount 72 e.syms.toNat = 1) (hhard : e.hard = false) (hwrong : e.wrong = false) :
    Gives (.scrubRead (some e)) s (fun t => t.mem.scrubLine = next ∧ mapFind t.mem.err line = none ∧
      rd t Reg.memCeCountCount 0 = (rd s Reg.memCeCountCount 0 + 1) % 2 ^ Reg.memCeCountCount.width ∧ OnlyBytes 0 0 s t ∧
      OnlyRegs [(Reg.memCeCountCount, 0)] s t ∧ OnlyParts [.regs, .mem] s t) := by
  have hsense := (senseAt_errMet (s := scrubMoved s next) (e := e) hst 3 0).trans (senseLine_corrected hn hhard hwrong 3 0)
  refine ⟨_, (exec_scrubRead ..).trans (execScrubRead_stored h hsize hline hnext hst hsense), rfl, ?_, rd_wr_same .., fun x _ => rfl,
    ((OnlyRegs.refl _ s).of_regs (t := errErased (errMet (scrubMoved s next) line (some e)) line) rfl).wr (by simp),
    (bump_kept (Kept.app (.refl _ s) rfl (errErased_kept s line next (some e))) rfl).1⟩
  show mapFind (mapErase _ line) line = none
  rw [mapFind_mapErase, if_pos rfl]

/-- A line without an error: the scrub moves on. -/
theorem execScrubRead_clean {s : State} {line next : Nat} (h : rd s Reg.memScrubEnable 0 ≠ 0) (hsize : dramSize s ≠ 0)
    (hline : s.mem.scrubLine % (dramSize s / 64) = line) (hnext : (line + 1) % (dramSize s / 64) = next) (hnone : errAt s.mem line = none) :
    execScrubRead none s = .next (scrubMoved s next) := by
  cases hst : mapFind s.mem.stored line with
  | none => exact execScrubRead_cleared h hsize hline hnext hst none
  | some k => exact execScrubRead_stored h hsize hline hnext (by simp [hst]) (senseAt_of_none (s := errMet (scrubMoved s next) line none) hnone 3 0)

/-! ### BUCKET_REFILL (R168, R170) -/

/-- What a function's bucket holds after a refill. -/
def refillGoal (s : State) (f : Nat) : Nat := min (burstBytes s f) (tokensOf s f + rdLive s Reg.dramBucketRate f * 9752 / 10)

/-- The refill of one function's bucket. -/
def refillOne (s : State) (f : Nat) : State := putTokens s f (refillGoal s f)

/-- The first `n` functions' buckets refilled. -/
def refilled (s : State) (n : Nat) : State := (List.range n).foldl refillOne s

section
variable (s : State)

theorem refilled_succ (n : Nat) : refilled s (n + 1) = refillOne (refilled s n) n := by
  simp [refilled, List.range_succ]

theorem refilled_onlyParts (n : Nat) : OnlyParts [.regs, .mem] s (refilled s n) := (Kept.foldl (.refl _ s) fun _ _ hs => putTokens_kept hs rfl).1

theorem tokensOf_putTokens (f t j : Nat) : tokensOf (putTokens s f t) j = if f = j then t else tokensOf s j := mapGet_mapPut ..

/-- A bucket that has not been refilled holds what it held; so a refill sees each bucket as it was. -/
theorem tokensOf_refilled_of_le {n f : Nat} (h : n ≤ f) : tokensOf (refilled s n) f = tokensOf s f := by
  induction n with
  | zero => rfl
  | succ n ih => rw [refilled_succ, refillOne, tokensOf_putTokens, if_neg (by omega), ih (by omega)]

theorem refillGoal_refilled (n : Nat) : refillGoal (refilled s n) n = refillGoal s n := by
  have hlive : (refilled s n).live = s.live := refilled_onlyParts s n .live (by decide)
  rw [refillGoal, refillGoal, tokensOf_refilled_of_le s (Nat.le_refl n), burstBytes, burstBytes, rdLive_congr hlive, rdLive_congr hlive]

theorem tokensOf_refilled {n f : Nat} (h : f < n) : tokensOf (refilled s n) f = refillGoal s f := by
  induction n with
  | zero => omega
  | succ n ih =>
    rw [refilled_succ, refillOne, tokensOf_putTokens, refillGoal_refilled]
    split
    · subst_vars; rfl
    · exact ih (by omega)

theorem fldKey_bucketLevel_ne {f j : Nat} (h : f ≠ j) : fldKey Reg.dramBucketLevel f ≠ fldKey Reg.dramBucketLevel j := by
  simp only [fldKey, Reg.dramBucketLevel]
  omega

/-- The level shown of a refilled bucket. -/
theorem rd_level_refilled {n f : Nat} (h : f < n) :
    rd (refilled s n) Reg.dramBucketLevel f = refillGoal s f / 1024 % 2 ^ Reg.dramBucketLevel.width := by
  induction n with
  | zero => omega
  | succ n ih =>
    rw [refilled_succ, refillOne, refillGoal_refilled, putTokens]
    by_cases hf : n = f
    · subst hf
      exact rd_wr_same ..
    · exact (rd_wr_ne _ _ _ _ _ _ (fldKey_bucketLevel_ne hf)).trans (ih (by omega))

theorem mem_refilled (n : Nat) : ∃ l, (refilled s n).mem = { s.mem with tokens := l } := by
  induction n with
  | zero => exact ⟨_, rfl⟩
  | succ n ih =>
    obtain ⟨l, hl⟩ := ih
    refine ⟨mapPut (refilled s n).mem.tokens n (refillGoal (refilled s n) n) 0, ?_⟩
    rw [refilled_succ]
    show { (refilled s n).mem with tokens := mapPut (refilled s n).mem.tokens n (refillGoal (refilled s n) n) 0 } = _
    rw [hl]

end

theorem sweepLost_of_none {s : State} (hlost : s.crush.lost = []) : sweepLost s = s := by
  rw [sweepLost, hlost]
  show { s with crush := { s.crush with lost := [] } } = s
  rw [← hlost]

/-- Nothing waits for tokens (R168). -/
theorem resumeFabric_of_idle {s : State} (hheld : s.fab.held = []) (hun : s.fab.unacked = []) (hcolls : s.crush.colls = [])
    (hlost : s.crush.lost = []) :
    resumeFabric s = s := by
  have hdeliver : deliverLocal s = s := deliverLocal_of_none_due (by simp [hun])
  rw [resumeFabric, hheld]
  simp only [List.length_nil, releaseHeld, hdeliver, hcolls, List.foldl_nil, sweepLost_of_none hlost]

/-- A refill with nothing staged and nothing that waits refills every enabled function's bucket. -/
theorem execBucketRefill_of_idle {s : State} (hpend : s.cfg.pending = []) (hheld : s.fab.held = []) (hun : s.fab.unacked = [])
    (hcolls : s.crush.colls = []) (hlost : s.crush.lost = []) :
    execBucketRefill s = .next (refilled s (rd s Reg.tenInfoVfs 0 + 1)) := by
  have happly : applyKind s 1 = s := by simp [applyKind, hpend]
  have hparts := refilled_onlyParts s (rd s Reg.tenInfoVfs 0 + 1)
  have hfab : (refilled s (rd s Reg.tenInfoVfs 0 + 1)).fab = s.fab := hparts .fab (by decide)
  have hcrush : (refilled s (rd s Reg.tenInfoVfs 0 + 1)).crush = s.crush := hparts .crush (by decide)
  rw [execBucketRefill, happly]
  exact congrArg Host.Outcome.next (resumeFabric_of_idle (s := refilled s (rd s Reg.tenInfoVfs 0 + 1)) (by rwa [hfab]) (by rwa [hfab])
    (by rwa [hcrush]) (by rwa [hcrush]))

end Sys2Proof.Machine

section

open Sys2Proof Sys2Proof.Machine

/-- Settles O31: each clause's premises name the branch of its row; a host access charges its lot's owner first, which leaves the line and its
key pair as they are, since the device's lots lie before the place where LOT_OWNER's stride reaches the bucket levels. -/
theorem hostMemoryScrubAndBuckets : Obligations.HostMemoryScrubAndBuckets := by
  intro s pa data mask e f i a ones lines line next
  refine ⟨fun hready hok herr hkey => ⟨cxlMemRead_serves hready hok herr hkey, ?_⟩, fun hready hno => ⟨?_, ?_⟩, fun hdown => ⟨?_, ?_⟩,
    fun hoff => ?_, fun hon hsize hcleared => ?_, fun hon hsize hst hn hhard hwrong => ?_, fun hon hsize hnone => ?_,
    fun hpend hheld hun hcolls hlost hf => ?_⟩
  · obtain ⟨t, ht, hbytes, hframe⟩ := cxlMemWrite_serves data mask hready hok herr hkey
    exact ⟨t, ht, hbytes i i.isLt, hframe⟩
  · exact ⟨_, (exec_cxlMemRead ..).trans (execCxlMemRead_refused hready hno), rfl⟩
  · exact ⟨_, (exec_cxlMemWrite ..).trans (execCxlMemWrite_refused hready hno), rfl⟩
  · exact ⟨_, (exec_cxlMemRead ..).trans (execCxlMemRead_down hdown), rfl⟩
  · exact ⟨_, (exec_cxlMemWrite ..).trans (execCxlMemWrite_down hdown), rfl⟩
  · exact ⟨_, (exec_scrubRead ..).trans (execScrubRead_off hoff _), rfl⟩
  · exact ⟨_, (exec_scrubRead ..).trans (execScrubRead_cleared hon hsize rfl rfl hcleared _), rfl⟩
  · exact scrubRead_corrects hon hsize rfl rfl hst hn hhard hwrong
  · exact ⟨_, (exec_scrubRead ..).trans (execScrubRead_clean hon hsize rfl rfl hnone), rfl⟩
  · have hlt : f < rd s Reg.tenInfoVfs 0 + 1 := Nat.lt_succ_of_le hf
    have htokens := tokensOf_refilled s hlt
    refine ⟨_, (exec_bucketRefill s).trans (execBucketRefill_of_idle hpend hheld hun hcolls hlost), htokens, ?_, ?_, refilled_onlyParts s _⟩
    · exact (rd_level_refilled s hlt).trans (by rw [← htokens, tokensOf])
    · obtain ⟨l, hl⟩ := mem_refilled s (rd s Reg.tenInfoVfs 0 + 1)
      rw [hl]

end
end

section
/-! SUPPORT. A test of the next state that a meaning answers, so that a concrete row is evaluated once. -/

namespace Sys2Proof.Machine

/-- An answer is a next state that passes a test. -/
def passes (a : Ans) (p : State → Bool) : Bool :=
  match a with
  | .next t => p t
  | _ => false

theorem of_passes {a : Ans} {p : State → Bool} (h : passes a p = true) {t : State} (ht : a = .next t) : p t = true := by rwa [ht] at h

end Sys2Proof.Machine

end

section
/-! SUPPORT. A port whose count of corrected codewords holds more than its 32 bits: no write leaves such a value there, but the register
file is a map to plain numbers and can hold it. -/

namespace Sys2Proof.Machine

theorem exec_idleFlit (p : BitVec 4) (a : BitVec 12) (nak ok : Bool) (errs : List (BitVec 10)) (s : State) :
    exec (.idleFlit p a nak ok errs) s = .next (settleFabric (onFlit s p.toNat a.toNat nak ok errs id)) := rfl

/-- Port 0 is UP, and its count of corrected codewords holds 2 ^ 32. -/
def wideCorrected : State :=
  { State.reset with regs := [(fldKey Reg.jeanoPortState 0, 2), (fldKey Reg.jeanoPortFecCorrected 0, 2 ^ 32)] }

theorem linkIn_wideCorrected : linkIn wideCorrected 0 2 = true := by decide

/-- An idle flit without a symbol error corrects nothing, and the count is not written. -/
theorem rd_idleFlit_wideCorrected :
    rd (settleFabric (onFlit wideCorrected 0 0 false true [] id)) Reg.jeanoPortFecCorrected 0 = 2 ^ 32 := by decide

end Sys2Proof.Machine

section

open Sys2Proof Sys2Proof.Machine

/-- Refutes O35: where no codeword of a flit was corrected the row leaves the count as it is, while the statement says that the count is then
reduced modulo 2 ^ 32. It has no premise that the count fits its 32 bits. -/
theorem not_portsFollowTheLink : ¬ Obligations.PortsFollowTheLink := by
  intro h
  obtain ⟨-, -, -, hidle, -⟩ := h wideCorrected 0 0 0 true [] 0 0 0 (ownCap State.reset 0) Msg.blank rfl rfl
  obtain ⟨t, ht, -, hcount, -⟩ := hidle linkIn_wideCorrected ⟨rfl, rfl⟩
  obtain rfl := Host.Outcome.next.inj ((exec_idleFlit ..).symm.trans ht)
  exact absurd (rd_idleFlit_wideCorrected.symm.trans hcount) (by decide)

end

end

section
/-! SUPPORT. A pending commit of policing parameters whose result goes beyond the result ring: the tail that the register file holds is
far above its 6 bits, so the entry's token lands on the count of VFs. -/

namespace Sys2Proof.Machine

theorem exec_meteringTick (s : State) : exec .meteringTick s = execMeteringTick s := rfl

/-- CFG_RESULT's stride reaches TEN_INFO at entry 778224: the ring has 64. -/
theorem fldKey_cfgResultToken_beyond : fldKey Reg.cfgResultToken 778224 = fldKey Reg.tenInfoVfs 0 := by decide

/-- One VF, with a byte in its committed bucket whose burst is 0, and a commit for PF0 of policing parameters under token 0 that lists none. -/
def farResult : State :=
  { State.reset with
    regs := [(fldKey Reg.cfgResultIdxTail 0, 778224), (fldKey Reg.tenInfoVfs 0, 1)]
    fab := { State.reset.fab with tc := [(1, 1)] }
    cfg := { pending := [{ kind := 4, index := 0, token := 0, values := [], crc := 0 }] } }

theorem vfs_farResult : 1 ≤ rd farResult Reg.tenInfoVfs 0 := by decide

/-- The tick applies the commit first, finds no VF left, and does not fill the bucket of VF 1, whose burst is 0, before the commit is applied
and after. -/
theorem meteringTick_farResult : passes (execMeteringTick farResult) (fun t => mapGet t.fab.tc 1 0 == 1) = true ∧
    rdLive (applyKind farResult 4) Reg.fabVfCbs 1 = 0 := by decide

end Sys2Proof.Machine

section

open Sys2Proof Sys2Proof.Machine

/-- Refutes O54: a metering tick applies the committed groups before it fills the buckets, and where CFG_RESULT_IDX.tail is above its 6 bits the
result of a commit overwrites the count of VFs, so that a VF listed before it is passed over and its bucket keeps more than its burst. The
statement has no premise that the tail fits its field. -/
theorem not_samplesAndMigration : ¬ Obligations.SamplesAndMigration := by
  intro h
  obtain ⟨htick, -⟩ := h farResult [] [] 1 0 0 0 0 0 default default [] [] [] []
  obtain ⟨t, ht, htc, -⟩ := htick vfs_farResult
  have hkept : mapGet t.fab.tc 1 0 = 1 := eq_of_beq (of_passes meteringTick_farResult.1 ((exec_meteringTick _).symm.trans ht))
  rw [hkept, meteringTick_farResult.2] at htc
  omega

end

end

section
/-! SUPPORT. Requests that arrive for this device and meet nothing in their way (R200, R206, R208). -/

namespace Sys2Proof.Machine

theorem Msg.sealed_check (m : Msg) : m.sealed.check = msgCheck m.sealed := rfl

theorem arriving_of_own {s : State} {m : Msg} {act : State → State} (h : 16 ≤ m.via) : arriving s m act = act s := if_pos h

/-- A request of class S that this device takes now meets nothing before it is applied. -/
theorem admitMsg_of_taken {s : State} {m : Msg} (h : TakenNow s m = true) (hcls : m.cls = .s) : admitMsg s m = (hear s m.srcNode, true) := by
  simp only [TakenNow, Bool.and_eq_true, beq_iff_eq, decide_eq_true_eq] at h
  obtain ⟨⟨⟨⟨⟨⟨⟨⟨⟨-, -⟩, hcheck⟩, -⟩, hdst⟩, hsrc⟩, -⟩, hwindow⟩, -⟩, -⟩ := h
  have hdst' : m.dstInc = ownInc (hear s m.srcNode) := hdst
  have hseen : seeInc (hear s m.srcNode) m.srcNode m.srcInc = hear s m.srcNode := if_pos hsrc
  have hfits : ¬ (4096 ≤ (m.seq + 2 ^ 32 - mapGet (hear s m.srcNode).fab.winLow (winKey m) 0 % 2 ^ 32) % 2 ^ 32 ∧
      (m.seq + 2 ^ 32 - mapGet (hear s m.srcNode).fab.winLow (winKey m) 0 % 2 ^ 32) % 2 ^ 32 < 2 ^ 31) := fun hout => Nat.not_le.2 hwindow hout.1
  simp only [admitMsg, hcheck, hdst', hseen, hcls, ne_eq, not_true_eq_false, if_false, false_and, if_neg hfits]

/-- A request of class S to PF0 that this device applies at once is applied. -/
theorem onRequest_here {s : State} {m : Msg} (h : RequestArrives s m.kind m = true) (hvia : 16 ≤ m.via) (hcls : m.cls = .s) (hfn : m.dstFn = 0) :
    onRequest s m.kind m = releaseHeld (applyNow (hear s m.srcNode) m).fab.held.length (applyNow (hear s m.srcNode) m) := by
  simp only [RequestArrives, Bool.and_eq_true] at h
  obtain ⟨⟨⟨⟨⟨htaken, -⟩, -⟩, hturn⟩, hserve⟩, -⟩ := h
  have htaken' : TakenNow s m = true := htaken
  simp only [TakenNow, Bool.and_eq_true, beq_iff_eq, Bool.not_eq_true'] at htaken
  obtain ⟨⟨⟨⟨⟨⟨⟨⟨⟨hdst, -⟩, -⟩, -⟩, -⟩, -⟩, -⟩, -⟩, hnew⟩, -⟩ := htaken
  have hnew' : isApplied (hear s m.srcNode) (winKey m) m.seq = false := hnew
  have hruns : (inTurn (hear s m.srcNode) m && mayServe (hear s m.srcNode) m) = true := Bool.and_eq_true_iff.2 ⟨hturn, hserve⟩
  unfold onRequest
  refine Eq.trans (arriving_of_own (m := m) hvia) ((if_neg (not_not.2 hdst)).trans ?_)
  show (if (!(admitMsg s m).2) = true then _ else if m.dstFn ≠ 0 ∧ (vfState _ m.dstFn = 5 ∨ vfState _ m.dstFn = 6) then _
    else if isApplied (admitMsg s m).1 (winKey m) m.seq = true then _
    else if (!(inTurn (admitMsg s m).1 m && mayServe (admitMsg s m).1 m)) = true then _
    else releaseHeld (applyNow (admitMsg s m).1 m).fab.held.length (applyNow (admitMsg s m).1 m)) = _
  simp [admitMsg_of_taken htaken' hcls, hfn, hnew', hruns]

end Sys2Proof.Machine

end

section
/-! SUPPORT. Translation tables for the two requests below: PF0's address 0 leads to the 2 MiB page at 2 ^ 21 of lot 0, which the manager
reserve owns. The root table alone lies where a state puts it. -/

namespace Sys2Proof.Machine

/-- The bytes of the tables (Table 06.3): the root's first entry points to the table at 4096, its first to the table at 8192, and its first
is a 2 MiB page with both rights. -/
def tableCells (root : Nat) : List Host.Cell :=
  [(4096, 0x01), (4097, 0x20), (8192, 0x0F), (8194, 0x20), (root, 0x01), (root + 1, 0x10)]

/-- A state whose PF0 is of job 1, whose lot 0 is of the manager reserve, and whose root table lies at 4096 × `l1`. -/
def mappedState (lots l1 : Nat) : State :=
  { State.reset with
    regs := [(fldKey Reg.caps0DramLots 0, lots), (fldKey Reg.lotOwnerOwner 0, 0x3FD), (fldKey Reg.xlatRootEnable 0, 1),
      (fldKey Reg.xlatRootL1Base 0, l1), (fldKey Reg.fabVfJob 0, 1)]
    mem := { State.reset.mem with dram := tableCells (4096 * l1) } }

end Sys2Proof.Machine

end

section
/-! SUPPORT. A fetched result for a command that still holds shadow frames. -/

namespace Sys2Proof.Machine

theorem exec_atomicResult (m : Msg) (s : State) : exec (.atomicResult m) s = execAtomicResult m s := rfl

/-- A fetching ATOMIC of PF0's queue 0 past its commit that is listed with a shadow frame: no commit leaves one, but the command store can. -/
def heldAtomic : Cmd :=
  { Cmd.fresh (.queue 0 0) 0 (1 + 5 * 2 ^ 4 + 2 ^ 32 + (3 + 2 ^ 5 + 2 ^ 6) * 2 ^ 512) 128 with
    st := .committing, held := true, wpages := [0], awaits := [0] }

/-- Its message to node 1. -/
def sentAtomic : Unacked :=
  { msg := { Msg.blank with kind := .atomic, cls := .s, dstNode := 1, fetch := true }, cid := 7, peer := 0, firstNs := 0, resends := 0,
    checkFails := 0, after := [], sent := true, off := 0, interval := 0, coll := none, lastNs := 0, port := 16, path := [], mcast := false,
    lead := none, dropped := false, localDue := false }

/-- The result that node 1 sends. -/
def resultMsg : Msg := ({ Msg.blank with kind := .atomicResult, cls := .s, srcNode := 1, fetch := true, len := 4, data := leBytes 4 5 } : Msg).sealed

def heldAtomicState : State :=
  let s := mappedState 1 0
  { s with work := { s.work with cmds := [(7, heldAtomic)] }, fab := { s.fab with unacked := [(0, sentAtomic)] } }

theorem keyKept_heldAtomic : keyKept heldAtomicState (2 ^ 21) 4 = true := by decide

theorem answerArrives_resultMsg : AnswerArrives heldAtomicState .atomicResult resultMsg 0 sentAtomic = true := by
  have hcheck : resultMsg.check = msgCheck resultMsg := Msg.sealed_check _
  simp only [AnswerArrives, Bool.and_eq_true, beq_iff_eq, and_assoc]
  refine ⟨?_, hcheck, ?_, ?_, rfl, ?_, ?_, ?_, ?_, ?_⟩ <;> decide

/-- Its word translates, the command completes, and its frame is released to zeroing on bench 0 (R82). -/
theorem atomicResult_heldAtomic : xlatRange heldAtomicState 0 (heldAtomic.b 64 48) 4 true = .ok [(2 ^ 21, 4)] ∧
    passes (execAtomicResult resultMsg heldAtomicState) (fun t => (getBench t 0).zeroing == 1) = true := by
  decide +kernel

end Sys2Proof.Machine

section

open Sys2Proof Sys2Proof.Machine

/-- Refutes O37: the completion of a fetching ATOMIC releases the shadow frames that the command holds (R82), so a command listed with one
leaves a frame to zero on its bench, while the statement says that no bench changes. It has no premise that the command holds none. -/
theorem not_answersAndTimersSettle : ¬ Obligations.AnswersAndTimersSettle := by
  intro h
  obtain ⟨-, hresult, -⟩ := h heldAtomicState resultMsg 0 (2 ^ 21) 0 0 sentAtomic heldAtomic 0 0 0 0 default rfl rfl
  obtain ⟨t, ht, -, -, -, -, -, hparts⟩ :=
    hresult answerArrives_resultMsg rfl rfl rfl rfl rfl atomicResult_heldAtomic.1 keyKept_heldAtomic
  have hyards : t.yards = heldAtomicState.yards := hparts .yards (by decide)
  have hzero : (getBench t 0).zeroing = 1 := eq_of_beq (of_passes atomicResult_heldAtomic.2 ((exec_atomicResult ..).symm.trans ht))
  rw [getBench, hyards] at hzero
  exact absurd hzero (by decide)

end

end

section
/-! SUPPORT. An atomic whose function's root table lies in a lot that no device has, where the tokens the request pays are read as the lot's
owner. -/

namespace Sys2Proof.Machine

theorem exec_atomicMessage (m : Msg) (s : State) : exec (.atomicMessage m) s = execAtomicMessage m s := rfl

/-- PF0's root table lies at the start of lot 6148, whose owner is read where the level of PF0's bucket is shown: it reads as the manager
reserve. Node 1 has been seen. -/
def farRoot : State :=
  let s := wr (mappedState 6149 (6148 * 2 ^ 18)) Reg.dramBucketLevel 0 0x3FD
  { s with fab := { s.fab with seenInc := [(1, 0)] } }

/-- Node 1 adds 1 to the word at PF0's address 0, without a fetch. -/
def addOne : Msg := ({ Msg.blank with kind := .atomic, cls := .s, srcNode := 1, job := 1, data := leBytes 8 1 ++ leBytes 8 0 } : Msg).sealed

theorem xlatRange_farRoot (w : Bool) : xlatRange farRoot 0 0 4 w = .ok [(2 ^ 21, 4)] := by cases w <;> decide

theorem keyKept_farRoot : keyKept farRoot (2 ^ 21) 4 = true := by decide

theorem requestArrives_addOne : RequestArrives farRoot .atomic addOne = true := by
  have hcheck : addOne.check = msgCheck addOne := Msg.sealed_check _
  simp only [RequestArrives, TakenNow, Bool.and_eq_true, beq_iff_eq, and_assoc]
  refine ⟨?_, ?_, hcheck, ?_, ?_, ?_, ?_, ?_, ?_, ?_, ?_, ?_, ?_, ?_, ?_⟩ <;> decide

/-- Paying for the read takes the root table out of the reserve, so the write does not translate and the word stays. -/
theorem memByte_addOne : passes (execAtomicMessage addOne farRoot) (fun t => memByte t.mem (2 ^ 21) == 0) = true := by
  rw [execAtomicMessage, show MsgKind.atomic = addOne.kind from rfl, onRequest_here requestArrives_addOne (by decide) (by decide) (by decide)]
  decide

end Sys2Proof.Machine

section

open Sys2Proof Sys2Proof.Machine

/-- Refutes O36: an ATOMIC that reads its word finds it no longer translated when it writes it back. The owner of a lot that far beyond the
table of lots is read where the level of PF0's bucket is shown, so paying for the read (R168) takes the root table out of the manager reserve.
The statement has no premise that the tables lie in the device's DRAM. -/
theorem not_requestsApplyAtTheTarget : ¬ Obligations.RequestsApplyAtTheTarget := by
  intro h
  obtain ⟨-, -, hatomic, -⟩ := h farRoot addOne (2 ^ 21) 0 0 ⟨0, [], 0⟩ rfl rfl rfl
  obtain ⟨t, ht, hbytes, -⟩ := hatomic requestArrives_addOne rfl (xlatRange_farRoot false) (xlatRange_farRoot true) keyKept_farRoot
  have hword : memByte t.mem (2 ^ 21) = 0 := eq_of_beq (of_passes memByte_addOne ((exec_atomicMessage ..).symm.trans ht))
  have hnew : memByte t.mem (2 ^ 21 + 0) = 1 := (List.cons.inj hbytes).1.trans (by decide)
  exact absurd (hword.symm.trans hnew) (by decide)

end

end

section
/-! SUPPORT. A message that leaves (chapter 07, R184-R191, R205-R207): the ports routes name, what an output queue leaves, and what the replay
store holds of a class S message once it has been launched. -/

namespace Sys2Proof.Machine

/-! ### Ports that routes name -/

theorem ownPortTo_lt {s : State} {n p : Nat} (h : ownPortTo s n = some p) : p < 16 := by
  have hp : p ∈ List.range 14 := List.mem_of_find?_eq_some h
  exact Nat.lt_trans (List.mem_range.1 hp) (by decide)

theorem domainRoute_port_lt {s : State} {cls : TClass} {mcast : Bool} {n : Nat} {r : Route} (h : domainRoute s cls mcast n = some r) :
    r.port < 16 := by
  obtain ⟨path, -, hpath⟩ := Option.bind_eq_some_iff.1 h
  cases path with
  | nil => cases hpath
  | cons b t =>
    obtain ⟨p, hp, rfl⟩ := Option.map_eq_some_iff.1 hpath
    exact ownPortTo_lt hp

theorem ringPort_lt {s : State} {n p : Nat} (h : ringPort s n = some p) : p < 16 := by
  simp only [ringPort] at h
  generalize hfirst : (if (n / 64 + (rd s Reg.jeanoCfgDomainsM1 0 + 1) - rd s Reg.jeanoNodeDomain 0) % (rd s Reg.jeanoCfgDomainsM1 0 + 1) ≤
    rd s Reg.jeanoCfgDomainsM1 0 + 1 - (n / 64 + (rd s Reg.jeanoCfgDomainsM1 0 + 1) - rd s Reg.jeanoNodeDomain 0) %
      (rd s Reg.jeanoCfgDomainsM1 0 + 1) then 14 else 15) = first at h
  have hbound : 14 ≤ first ∧ first ≤ 15 := by split at hfirst <;> omega
  split at h
  · cases h; omega
  · split at h
    · cases h; omega
    · cases h

theorem routeOf_port_lt {s : State} {cls : TClass} {mcast : Bool} {n : Nat} {r : Route} (h : routeOf s cls mcast n = some r) : r.port < 16 := by
  unfold routeOf at h
  split at h
  · exact domainRoute_port_lt h
  · split at h
    · rename_i p hp
      cases h
      have hmem : p ∈ [14, 15] := List.mem_of_find?_eq_some hp
      have : ∀ q ∈ [14, 15], q < 16 := by decide
      exact this p hmem
    · split at h
      · cases h
      · split at h
        · obtain ⟨p, hp, rfl⟩ := Option.map_eq_some_iff.1 h
          exact ringPort_lt hp
        · exact domainRoute_port_lt h

/-! ### The link layer changes no message -/

/-- Of the fabric only the links differ. -/
def LinksOnly (s t : State) : Prop := ∃ l, t.fab = { s.fab with links := l }

theorem LinksOnly.refl (s : State) : LinksOnly s s := ⟨_, rfl⟩

theorem LinksOnly.trans {s t u : State} (h : LinksOnly s t) (k : LinksOnly t u) : LinksOnly s u := by
  obtain ⟨l, h⟩ := h
  obtain ⟨l', k⟩ := k
  exact ⟨l', by rw [k, h]⟩

theorem LinksOnly.of_fab {s t : State} (h : t.fab = s.fab) : LinksOnly s t := ⟨s.fab.links, h⟩

theorem linksOnly_putLink (s : State) (p : Nat) (l : PortLink) : LinksOnly s (putLink s p l) := ⟨_, rfl⟩

theorem linksOnly_pushFlit (s : State) (p : Nat) (bs : List Byte) : LinksOnly s (pushFlit s p bs) := ⟨_, rfl⟩

theorem linksOnly_putStream (s : State) (p : Nat) (bs : List Byte) : LinksOnly s (putStream s p bs) := by
  unfold putStream
  exact List.foldlRecOn _ _ (linksOnly_putLink ..) fun t ht i _ => ht.trans (linksOnly_pushFlit ..)

theorem linksOnly_leave (s : State) (p : Nat) (m : Msg) (coll : Option CollMsg) (rides : Bool) : LinksOnly s (leave s p m coll rides) := by
  have hwire (t : State) (ht : t.fab = s.fab) :
      LinksOnly s (if isEth t p then emit t (.udp p (datagramOf t p m)) else if rides then t else putFlits t p m) := by
    refine (LinksOnly.of_fab ht).trans ?_
    split
    · exact .of_fab rfl
    · split
      · exact .refl _
      · exact (linksOnly_putLink ..).trans (linksOnly_putStream ..)
  cases coll <;> exact hwire _ rfl

theorem linksOnly_queueOut (s : State) (p : Nat) (m : Msg) (coll : Option CollMsg) (rides : Bool) : LinksOnly s (queueOut s p m coll rides).1 := by
  unfold queueOut
  dsimp only
  split
  · exact .of_fab rfl
  · exact (LinksOnly.of_fab (drawn_fab s)).trans (linksOnly_leave ..)

/-- An output queue writes no register but its port's count of discards. -/
theorem queueOut_onlyRegs (s : State) (p : Nat) (m : Msg) (coll : Option CollMsg) (rides : Bool) :
    OnlyRegs [(Reg.jeanoPortDiscards, p)] s (queueOut s p m coll rides).1 := by
  unfold queueOut
  dsimp only
  split
  · exact OnlyRegs.wr (.of_regs (.refl _ s) (drawn_regs s)) (by simp)
  · have hregs : (leave (drawn s) p (m.rehead { m with age := m.age + 1 + Config.queueTime s.free p }) coll rides).regs = (drawn s).regs :=
      (leave_kept (Kept.refl [.fab, .out] (drawn s)) rfl).1 .regs (by decide)
    exact (OnlyRegs.refl _ s).of_regs (hregs.trans (drawn_regs s))

/-! ### A class S message departs -/

section
variable {s : State} {mid : Nat} {u : Unacked} (hdst : u.msg.dstNode ≠ ownNode s) (hcls : u.msg.cls = .s) (hgreen : u.msg.colour = .green)
  (hseal : u.msg.sealed = u.msg) (hlead : u.lead = none)
include hdst hcls hgreen hseal hlead

/-- It stays in the store as it was, with how and when it left; with or without a route. -/
theorem depart_classS : ∃ t port path dropped interval, LinksOnly s t ∧
    OnlyRegs ((List.range 16).map (fun p => (Reg.jeanoPortDiscards, p))) s t ∧
    depart s mid u = putUn t mid { u with port := port, path := path, dropped := dropped, lastNs := now s, interval := interval } := by
  unfold depart
  rw [if_neg hdst]
  cases hroute : routeOf s u.msg.cls u.mcast u.msg.dstNode with
  | none => exact ⟨s, 16, [], u.dropped, u.interval, .refl s, .refl _ s, rfl⟩
  | some r =>
    have hmsg : ({ u.msg with colour := .green } : Msg).sealed = u.msg := by rw [← hgreen]; exact hseal
    have hmeter : (if u.interval = 0 then meter s u.msg else (s, u.msg.colour)) = (s, Colour.green) := by
      split
      · simp [meter, hcls]
      · rw [hgreen]
    simp only [riding, hlead, hmeter, hmsg, Option.any_none, Bool.false_eq_true, if_false]
    refine ⟨_, r.port, r.path, _, _, linksOnly_queueOut .., fun f i h => queueOut_onlyRegs s r.port _ _ _ f i ?_, rfl⟩
    intro k hk
    obtain rfl := List.mem_singleton.1 hk
    exact h _ (List.mem_map.2 ⟨r.port, List.mem_range.2 (routeOf_port_lt hroute), rfl⟩)

end

/-! ### Launching -/

/-- A message as it is launched: it takes its sequence, its place in its flow, the incarnations and its function's job. -/
def launchedMsg (s : State) (m : Msg) : Msg :=
  let seq := mapGet s.fab.seqNext (pairKey m.dstNode m.cls) 0
  ({ m with seq := seq, ordPrev := if m.ordered then mapGet s.fab.ordLast (flowKey m) seq else 0, srcInc := ownInc s,
            dstInc := heldInc s m.dstNode, job := rd s Reg.fabVfJob m.srcFn } : Msg).sealed

theorem launchedMsg_check (s : State) (m : Msg) : (launchedMsg s m).check = msgCheck (launchedMsg s m) := rfl

/-- The state with a message's sequence taken. -/
def sequenced (s : State) (m : Msg) : State :=
  let k := pairKey m.dstNode m.cls
  let seq := mapGet s.fab.seqNext k 0
  { s with fab := { s.fab with seqNext := mapSet s.fab.seqNext k ((seq + 1) % 2 ^ 32),
                               ordLast := if m.ordered then mapSet s.fab.ordLast (flowKey m) seq else s.fab.ordLast } }

/-- Messages of a pair that are sent and not settled (R205). -/
def pairBusy (s : State) (k : Nat) : Nat := (s.fab.unacked.filter (fun e => e.2.sent && pairKey e.2.msg.dstNode e.2.msg.cls == k)).length

theorem launch_of_room {s : State} {mid : Nat} {u : Unacked} (hu : getUn s mid = some u) (hsent : u.sent = false) (hafter : u.after = [])
    (hbusy : pairBusy s (pairKey u.msg.dstNode u.msg.cls) < 4096) (hroom : replayBytes s + u.msg.size ≤ 2 ^ 24) :
    launch s mid = depart (sequenced s u.msg) mid { u with msg := launchedMsg s u.msg, sent := true, firstNs := now s } := by
  have hwait : ¬ (u.sent || u.after != [] || 4096 ≤ pairBusy s (pairKey u.msg.dstNode u.msg.cls) ||
      (MsgKind.unbooked u.msg.kind && 2 ^ 24 < replayBytes s + u.msg.size)) = true := by
    simp only [hsent, hafter, Bool.false_or, bne_self_eq_false, Bool.or_eq_true, Bool.and_eq_true, decide_eq_true_eq, not_or, not_and]
    exact ⟨Nat.not_le.2 hbusy, fun _ => Nat.not_lt.2 hroom⟩
  simp only [launch, hu]
  exact if_neg hwait

/-! ### A new entry of the store -/

/-- A key that is not listed brings its own entry only: one that a test rejects leaves what passes the test. -/
theorem filter_mapSet_of_new {α : Type} {m : SMap α} {k : Nat} {v : α} {p : Nat × α → Bool} (hnew : mapFind m k = none) (hp : p (k, v) = false) :
    (mapSet m k v).filter p = m.filter p := by
  induction m with
  | nil => simp [mapSet, hp]
  | cons e t ih =>
    obtain ⟨j, w⟩ := e
    have hne : ¬ j = k := fun h => by simp [mapFind, h] at hnew
    have htail : mapFind t k = none := by simpa [mapFind, hne] using hnew
    simp only [mapSet, if_neg hne]
    split
    · simp [hp]
    · simp only [List.filter_cons, ih htail]

/-- The state with a message in the store under the next number (R205). -/
def withEntry (s : State) (u : Unacked) : State :=
  { s with fab := { s.fab with nextMid := s.fab.nextMid + 1, unacked := mapSet s.fab.unacked s.fab.nextMid u } }

/-- A message as it enters the store. -/
def Unacked.entering (m : Msg) (cid peer off ns : Nat) : Unacked :=
  { msg := m, cid := cid, peer := peer, firstNs := ns, resends := 0, checkFails := 0, after := [], sent := false, off := off, interval := 0,
    coll := none, lastNs := ns, port := 16, path := [], mcast := false, lead := none, dropped := false, localDue := false }

theorem enqueue_of_open {s : State} {m : Msg} {cid peer off : Nat} (h : spoiledFor s m.dstNode m.cls = false) :
    enqueue s m cid peer off [] none false none = launch (withEntry s (.entering m cid peer off (now s))) s.fab.nextMid := by
  unfold enqueue
  have h' : spoiledFor (withEntry s (.entering m cid peer off (now s))) m.dstNode m.cls = false := h
  exact if_neg (Bool.eq_false_iff.1 h')

/-- What the store holds of a request for a read that has been launched, and what that leaves beside. -/
theorem enqueue_read {s : State} {m : Msg} {cid peer off : Nat} (hkind : m.kind = .read) (hcls : m.cls = .s) (hgreen : m.colour = .green)
    (hdata : m.data = []) (hopen : spoiledFor s m.dstNode .s = false) (hdst : m.dstNode ≠ ownNode s) (hnew : getUn s s.fab.nextMid = none)
    (hroom : replayBytes s + 36 ≤ 2 ^ 24) (hbusy : pairBusy s (pairKey m.dstNode .s) < 4096) :
    ∃ u, (enqueue s m cid peer off [] none false none).fab.unacked = mapSet (withEntry s (.entering m cid peer off (now s))).fab.unacked s.fab.nextMid u ∧
      u.msg = launchedMsg s m ∧ u.cid = cid ∧ u.sent = true ∧ u.resends = 0 ∧ u.firstNs = now s ∧ u.localDue = false ∧
      (enqueue s m cid peer off [] none false none).fab.nextMid = s.fab.nextMid + 1 ∧
      OnlyRegs ((List.range 16).map (fun p => (Reg.jeanoPortDiscards, p))) s (enqueue s m cid peer off [] none false none) ∧
      Kept [.regs, .fab, .out, .free] s (enqueue s m cid peer off [] none false none) := by
  set w := Unacked.entering m cid peer off (now s) with hw
  have hbook : MsgKind.unbooked w.msg.kind = true := by simp [hw, Unacked.entering, hkind, MsgKind.unbooked]
  have hun : getUn (withEntry s w) s.fab.nextMid = some w := mapFind_mapSet_same ..
  have hbusy' : pairBusy (withEntry s w) (pairKey w.msg.dstNode w.msg.cls) < 4096 := by
    rw [pairBusy, withEntry, filter_mapSet_of_new hnew rfl]
    have : w.msg.cls = .s := hcls
    rw [this]
    exact hbusy
  have hroom' : replayBytes (withEntry s w) + w.msg.size ≤ 2 ^ 24 := by
    have hsize : w.msg.size = 36 := by simp [hw, Unacked.entering, Msg.size, hdata]
    rw [replayBytes, withEntry, filter_mapSet_of_new hnew (by simp [hbook]; rfl), hsize]
    exact hroom
  rw [enqueue_of_open (hcls ▸ hopen), launch_of_room hun rfl rfl hbusy' hroom']
  obtain ⟨t, port, path, dropped, interval, ⟨l, hl⟩, hregs, hdep⟩ := depart_classS (s := sequenced (withEntry s w) w.msg) (mid := s.fab.nextMid)
    (u := { w with msg := launchedMsg (withEntry s w) w.msg, sent := true, firstNs := now (withEntry s w) }) hdst hcls hgreen rfl rfl
  refine ⟨{ w with
    msg := launchedMsg (withEntry s w) w.msg, sent := true, firstNs := now s, port := port, path := path, dropped := dropped, lastNs := now s
    interval := interval }, ?_, rfl, rfl, rfl, rfl, rfl, rfl, ?_, ?_, ?_⟩
  · rw [hdep, putUn, hl]; rfl
  · rw [hdep, putUn, hl]; rfl
  · rw [hdep]; exact hregs
  · exact depart_kept (Kept.setFab (Kept.setFab (Kept.refl _ s) rfl) rfl) rfl

end Sys2Proof.Machine

end

section
/-! SUPPORT. GET and FENCE at their execution (R198, R209): the runs of the two FABRIC ops that wait for messages. -/

namespace Sys2Proof.Machine

theorem exec_get (cid : Nat) (s : State) : exec (.get cid) s = .next (deliverLocal (fabricCmd s cid 1)) := rfl

theorem exec_fence (cid : Nat) (s : State) : exec (.fence cid) s = .next (fabricCmd s cid 7) := rfl

section
variable {s : State} {cid op : Nat} {c : Cmd} (hexec : Executes s cid c = true) (hopcode : c.opcode = 5) (hop : (fabOf c).op = op)
include hexec hopcode hop

theorem fabricCmd_of_executes : fabricCmd s cid op = ranEnd cid c (fabricRun s cid c) := by
  refine issueBench_of_executes hexec ?_
  have hb : c.b 0 4 = op := hop
  simp [hopcode, hb]

end

/-! ### FENCE -/

/-- The messages a FENCE awaits: its snapshot, or the unsettled messages of its function that it covers (R209). -/
def fenceSnapshot (s : State) (c : Cmd) (dests : List (Nat × Nat)) : List Nat :=
  if c.awaits ≠ [] then c.awaits
  else (s.fab.unacked.filter (fun e => e.2.msg.srcFn == c.owner.fn && e.2.msg.kind != .coll &&
    ((fabOf c).fenceAll || dests.any (fun d => d.1 == e.2.msg.dstNode && d.2 == e.2.msg.dstFn)))).map (·.1)

section
variable {s : State} {cid : Nat} {c : Cmd} {dests : List (Nat × Nat)} (hop : (fabOf c).op = 7) (hdests : (fabOf c).dests s c.owner.fn = some dests)
include hop hdests

theorem fabricRun_fence : fabricRun s cid c = runFence s c (fabOf c) dests := by
  simp only [fabricRun, hdests, Option.getD_some, hop]

theorem fabricRun_fence_waits (h : (fenceSnapshot s c dests).any (fun m => (getUn s m).isSome) = true) :
    fabricRun s cid c = .wait s { c with awaits := fenceSnapshot s c dests } :=
  (fabricRun_fence hop hdests).trans (if_pos h)

theorem fabricRun_fence_ends (h : (fenceSnapshot s c dests).any (fun m => (getUn s m).isSome) = false) :
    fabricRun s cid c = match (fenceSnapshot s c dests).findSome? (fun m => mapFind s.fab.settled m) with
      | some st => .fail s st 0
      | none => .ok s { c with awaits := [] } :=
  (fabricRun_fence hop hdests).trans (if_neg (Bool.eq_false_iff.1 h))

end

/-! ### GET -/

section
variable {s : State} {cid : Nat} {c : Cmd} {d : Nat × Nat} (hop : (fabOf c).op = 1) (hdests : (fabOf c).dests s c.owner.fn = some [d])
  (hawaits : c.awaits = []) (hfree : rangeBlocked s cid c.regSeq c.ranges = false) (hpaid : runCost c.dstRuns true ≤ c.tokens + c.lent)
include hop hdests hawaits hfree hpaid

theorem fabricRun_get_spoiled (hspoiled : spoiledFor s d.1 (fabClass c.owner.fn) = true) :
    fabricRun s cid c = .ok s { getTake c 0 (List.replicate (fabOf c).len 0xFF) with status := .targetDead } := by
  simp only [fabricRun, hdests, Option.getD_some, hop, runGet, hawaits, hfree, payDram_of_paid hpaid, hspoiled, ne_eq, not_true_eq_false, if_false,
    Bool.false_eq_true, if_true]

/-- A GET of one segment that is not refused asks for it under the next message number and waits. -/
theorem fabricRun_get_asks (hopen : spoiledFor s d.1 (fabClass c.owner.fn) = false)
    (hseg : segments (fabOf c).raddr (fabOf c).len = [(0, (fabOf c).len)]) :
    fabricRun s cid c =
      (let asked := { c with awaits := [s.fab.nextMid] }
       let t := enqueue (putCmd s cid asked) (request (putCmd s cid asked) asked .read (fabOf c) d (fabOf c).raddr [] (fabOf c).len) cid (fabOf c).peer
         0 [] none false none
       .wait t ((getCmd t cid).getD asked)) := by
  simp only [fabricRun, hdests, Option.getD_some, hop, runGet, hawaits, hfree, payDram_of_paid hpaid, hopen, ne_eq, not_true_eq_false, if_false,
    Bool.false_eq_true, hseg, List.length_singleton, List.range_one, List.map_cons, List.map_nil, List.foldl_cons, List.foldl_nil, Nat.add_zero]

end

/-- The end of a command that has been stored and then stored again, with changes elsewhere between. -/
theorem onlyCmds_putCmd_twice {s t : State} {cid : Nat} {d : Cmd} (h : t.work = (putCmd s cid d).work) :
    OnlyCmds [cid] s (showBench (putCmd t cid d) d.bench) := by
  refine ⟨by simp [putCmd, h], fun j hj => ?_⟩
  have hne : cid ≠ j := (List.ne_of_not_mem_cons hj).symm
  rw [getCmd_showBench, getCmd_putCmd, if_neg hne, getCmd, h]
  exact (getCmd_putCmd ..).trans (if_neg hne)

end Sys2Proof.Machine

section

open Sys2Proof Sys2Proof.Machine

/-- Settles O24: each clause is one run of GET or FENCE; a GET's request is the newest entry of the replay store. -/
theorem getAndFenceWait : Obligations.GetAndFenceWait := by
  intro s cid c d st dests hexec hopcode x f mid ones snap
  have hstays (e : Cmd) : StagedAs s (showBench (putCmd s cid e) e.bench) cid e [] [] :=
    stagedAs_showBench_putCmd rfl (OnlyRegs.refl _ _) (Kept.refl _ s)
  refine ⟨fun hop hdests hawaits hfree hdst hdue hpaid => ⟨fun hspoiled hyard => ?getSpoiled, fun hopen hseg hf hnew hroom hbusy => ?getAsks⟩,
    fun hop hdests => ⟨fun hwait => ?fenceWaits, fun hend hnone => ?fenceEnds, fun hend hsome hradio => ?fenceFails⟩⟩
  case getSpoiled =>
    have hyard' : c.b 6 1 ≠ 1 := of_decide_eq_false hyard
    have htake : getTake c 0 ones = { c with writes := putBytes c.writes (c.b 64 24) ones } := if_neg hyard'
    have hend : fabricCmd s cid 1 = showBench (putCmd s cid
        { c with st := .issued, writes := putBytes c.writes (c.b 64 24) ones, status := .targetDead }) c.bench := by
      rw [fabricCmd_of_executes hexec hopcode hop, fabricRun_get_spoiled hop hdests hawaits hfree hpaid hspoiled, htake]
      rfl
    refine ⟨_, exec_get .., ?_⟩
    rw [hend, deliverLocal_of_none_due (s := showBench (putCmd s cid _) c.bench) hdue]
    exact hstays _
  case getAsks =>
    have hclass : fabClass c.owner.fn = .s := if_pos hf
    set asked : Cmd := { c with awaits := [mid] } with hasked
    set m := request (putCmd s cid asked) asked .read x d x.raddr [] x.len with hm
    obtain ⟨u, hun, hmsg, hcid, hsent, hresends, hfirst, hlocal, hmid, hregs, hkept⟩ :=
      enqueue_read (s := putCmd s cid asked) (m := m) (cid := cid) (peer := x.peer) (off := 0) rfl hclass rfl rfl hopen hdst hnew hroom hbusy
    set t := enqueue (putCmd s cid asked) m cid x.peer 0 [] none false none with ht
    have hwork : t.work = (putCmd s cid asked).work := hkept.1 .work (by decide)
    have hcmd : (getCmd t cid).getD asked = asked := by rw [getCmd, hwork]; exact congrArg (·.getD asked) (mapFind_mapSet_same ..)
    have hend : fabricCmd s cid 1 = showBench (putCmd t cid asked) c.bench := by
      rw [fabricCmd_of_executes hexec hopcode hop, fabricRun_get_asks hop hdests hawaits hfree hpaid (hclass ▸ hopen) hseg]
      exact congrArg (fun e : Cmd => showBench (putCmd t cid e) e.bench) hcmd
    have hnone : (showBench (putCmd t cid asked) c.bench).fab.unacked.all (fun e => !e.2.localDue) = true := by
      rw [List.all_eq_true] at hdue ⊢
      intro e he
      rcases mem_mapSet _ _ _ e (hun ▸ he) with rfl | he
      · simp [hlocal]
      · rcases mem_mapSet _ _ _ e he with rfl | he
        · rfl
        · exact hdue e he
    refine ⟨_, exec_get .., ?_⟩
    rw [hend, deliverLocal_of_none_due hnone]
    refine ⟨(getCmd_putCmd ..).trans (if_pos rfl), hmid, ⟨u, ?_, hcid, hsent, hresends, hfirst, ?_⟩, onlyCmds_putCmd_twice hwork, ?_, ?_⟩
    · exact (congrArg (mapFind · mid) hun).trans (mapFind_mapSet_same ..)
    · rw [hmsg]
      exact ⟨rfl, hclass, rfl, rfl, rfl, rfl, rfl, rfl, congrArg (fun k => mapGet s.fab.seqNext (pairKey d.1 k) 0) hclass, rfl,
        congrArg (rd s Reg.fabVfJob) hf, launchedMsg_check ..⟩
    · refine OnlyRegs.showBench (fun g j hne => ?_) (List.subset_append_left _ _)
      exact hregs g j fun k hk => hne k (List.mem_append_right _ hk)
    · exact (showBench_kept (putCmd_kept ((putCmd_kept (Kept.refl _ s) rfl).app (w' := [.regs, .fab, .out, .free]) rfl hkept) rfl) rfl).1
  case fenceWaits =>
    refine ⟨_, exec_fence .., ?_⟩
    rw [fabricCmd_of_executes hexec hopcode hop, fabricRun_fence_waits hop hdests hwait]
    exact hstays _
  case fenceEnds =>
    refine ⟨_, exec_fence .., ?_⟩
    have hnone' : (fenceSnapshot s c dests).findSome? (fun m => mapFind s.fab.settled m) = none := hnone
    rw [fabricCmd_of_executes hexec hopcode hop, fabricRun_fence_ends hop hdests hend, hnone']
    exact hstays { c with st := .issued, awaits := [] }
  case fenceFails =>
    refine ⟨_, exec_fence .., c.ended st 0, ?_, rfl, rfl, rfl⟩
    have hsome' : (fenceSnapshot s c dests).findSome? (fun m => mapFind s.fab.settled m) = some st := hsome
    have hclose : c.closer = false := by simp [Cmd.closer, hopcode]
    rw [fabricCmd_of_executes hexec hopcode hop, fabricRun_fence_ends hop hdests hend, hsome']
    rw [ranEnd, getCmd_showBench, finish_of_not_closer hclose, getCmd_finishOne hradio]

end

end

section
/-! SUPPORT. Fronthaul frames at execution (chapter 10, R278-R288, R298): the counters of a port and of a cell, what an accepted uplink frame
leaves, and what the release of a symbol and the end of its transmit window leave. -/

namespace Sys2Proof.Machine

/-! ### Counters -/

/-- A wrapping counter after an addition. -/
theorem rd_bump_same (s : State) (f : Fld) (i n : Nat) : rd (bump s f i n) f i = (rd s f i + n) % 2 ^ f.width := rd_wr_same ..

/-- An addition to a counter leaves every other field instance. -/
theorem rd_bump_ne {s : State} {f g : Fld} {i j n : Nat} (h : fldKey f i ≠ fldKey g j) : rd (bump s f i n) g j = rd s g j := rd_wr_ne _ _ _ _ _ _ h

/-- The counters of a fronthaul port. -/
def fhPortFlds : List Fld := [Reg.fhPortRxFrames, Reg.fhPortRxDiscarded, Reg.fhPortSeqGaps, Reg.fhPortTxFrames]

/-- Two different counters share no key, of one port or of two. -/
theorem fhPort_keys_ne {f g : Fld} (hf : f ∈ fhPortFlds) (hg : g ∈ fhPortFlds) (hne : f ≠ g) (i j : Nat) : fldKey f i ≠ fldKey g j := by
  have hbases : ∀ f ∈ fhPortFlds, ∀ g ∈ fhPortFlds, f ≠ g → f.stride = 512 ∧ g.stride = 512 ∧ f.base % 512 ≠ g.base % 512 := by decide
  obtain ⟨hfs, hgs, hb⟩ := hbases f hf g hg hne
  rw [fldKey, fldKey, hfs, hgs]
  omega

/-- The fields of a cell that the fronthaul rows read or count in. -/
def fhCellFlds : List Fld := [Reg.cellState, Reg.cellLate, Reg.cellUlWindow]

/-- The counters of the eight ports lie below those fields. -/
theorem fhPort_key_ne_cell {f g : Fld} (hf : f ∈ fhPortFlds) (hg : g ∈ fhCellFlds) {i : Nat} (hi : i < 8) (j : Nat) : fldKey f i ≠ fldKey g j := by
  have hport : ∀ f ∈ fhPortFlds, f.stride = 512 ∧ f.base ≤ 67111104 := by decide
  have hcell : ∀ g ∈ fhCellFlds, 67633152 ≤ g.base := by decide
  obtain ⟨hs, hb⟩ := hport f hf
  have hc := hcell g hg
  rw [fldKey, fldKey, hs]
  omega

/-- A cell's count of late outputs lies below a field that follows the cells' fields. -/
theorem cellLate_key_ne {c : Nat} (hc : c < 384) {g : Fld} (hg : 67895296 ≤ g.base) (j : Nat) : fldKey g j ≠ fldKey Reg.cellLate c := by
  have hkey : fldKey Reg.cellLate c = 67633216 + 512 * c := rfl
  rw [hkey, fldKey]
  omega

/-! ### Frames received -/

theorem exec_uplinkUPlane (cell : BitVec 9) (fr : UFrame) (s : State) : exec (.uplinkUPlane cell fr) s = execUplinkUPlane cell fr s := rfl

theorem exec_receivedCPlane (l : BitVec 5) (s : State) : exec (.receivedCPlane l) s = .next (fhDiscard (fhReceived s l.toNat) l.toNat) := rfl

theorem exec_unknownFrame (l : BitVec 5) (s : State) : exec (.unknownFrame l) s = .next (fhDiscard (fhReceived s l.toNat) l.toNat) := rfl

theorem exec_oneWayDelay (l : BitVec 5) (id : BitVec 8) (s : State) : exec (.oneWayDelay l id) s =
    .next (bump (emit (fhReceived s l.toNat) (.fh l.toNat (.delayAnswer id.toNat (now s)))) Reg.fhPortTxFrames (l.toNat / 4) 1) := rfl

theorem exec_arpRequest (port : BitVec 6) (a : BitVec 32) (s : State) : exec (.arpRequest port a) s =
    .next (if mapFind s.net.v4 port.toNat = some a.toNat then emit s (.netAnswer port.toNat a.toNat) else s) := rfl

theorem exec_neighborSolicitation (port : BitVec 6) (a : BitVec 128) (s : State) : exec (.neighborSolicitation port a) s =
    .next (if mapFind s.net.v6 port.toNat = some a.toNat then emit s (.netAnswer port.toNat a.toNat) else s) := rfl

/-- A received frame is one more frame of its port and no discard. -/
theorem fhReceived_counts (s : State) (l : Nat) :
    rd (fhReceived s l) Reg.fhPortRxFrames (l / 4) = (rd s Reg.fhPortRxFrames (l / 4) + 1) % 2 ^ 64 ∧
      rd (fhReceived s l) Reg.fhPortRxDiscarded (l / 4) = rd s Reg.fhPortRxDiscarded (l / 4) :=
  ⟨rd_bump_same .., rd_bump_ne (fhPort_keys_ne (by decide) (by decide) (by decide) _ _)⟩

/-- A frame received and discarded is one more of both. -/
theorem fhDiscard_counts (s : State) (l : Nat) :
    rd (fhDiscard (fhReceived s l) l) Reg.fhPortRxFrames (l / 4) = (rd s Reg.fhPortRxFrames (l / 4) + 1) % 2 ^ 64 ∧
      rd (fhDiscard (fhReceived s l) l) Reg.fhPortRxDiscarded (l / 4) = (rd s Reg.fhPortRxDiscarded (l / 4) + 1) % 2 ^ 32 := by
  obtain ⟨hframes, hdiscarded⟩ := fhReceived_counts s l
  refine ⟨(rd_bump_ne (fhPort_keys_ne (by decide) (by decide) (by decide) _ _)).trans hframes, ?_⟩
  rw [fhDiscard, rd_bump_same, hdiscarded]
  rfl

/-- A frame that is only discarded changes its port's two counters. -/
theorem fhDiscard_only (s : State) (l : Nat) : OnlyRegs [(Reg.fhPortRxFrames, l / 4), (Reg.fhPortRxDiscarded, l / 4)] s (fhDiscard (fhReceived s l) l) ∧
    OnlyParts [.regs] s (fhDiscard (fhReceived s l) l) :=
  ⟨OnlyRegs.wr (OnlyRegs.wr (.refl _ s) (by simp)) (by simp), (fhDiscard_kept (fhReceived_kept (.refl _ s) rfl) rfl).1⟩

/-- A frame discarded for its time or sequence counts in its port and in its cell's window count. -/
theorem ulWindow_counts (s : State) {l : Nat} (hl : l < 32) (c : Nat) :
    let t := bump (fhDiscard (fhReceived s l) l) Reg.cellUlWindow c 1
    rd t Reg.fhPortRxFrames (l / 4) = (rd s Reg.fhPortRxFrames (l / 4) + 1) % 2 ^ 64 ∧
      rd t Reg.fhPortRxDiscarded (l / 4) = (rd s Reg.fhPortRxDiscarded (l / 4) + 1) % 2 ^ 32 ∧
      rd t Reg.cellUlWindow c = (rd s Reg.cellUlWindow c + 1) % 2 ^ 32 := by
  have hport : l / 4 < 8 := by omega
  have hcell {g : Fld} (hg : g ∈ fhPortFlds) : fldKey g (l / 4) ≠ fldKey Reg.cellUlWindow c := fhPort_key_ne_cell hg (by decide) hport _
  have hwindow : rd (fhDiscard (fhReceived s l) l) Reg.cellUlWindow c = rd s Reg.cellUlWindow c :=
    (rd_bump_ne (hcell (by decide))).trans (rd_bump_ne (hcell (by decide)))
  obtain ⟨hframes, hdiscarded⟩ := fhDiscard_counts s l
  exact ⟨(rd_bump_ne (hcell (by decide)).symm).trans hframes, (rd_bump_ne (hcell (by decide)).symm).trans hdiscarded,
    (rd_bump_same ..).trans (congrArg (fun n => (n + 1) % 2 ^ 32) hwindow)⟩

/-- A frame received and answered is one more of both ways. -/
theorem fhAnswered_counts (s : State) (l : Nat) (o : Out) :
    let t := bump (emit (fhReceived s l) o) Reg.fhPortTxFrames (l / 4) 1
    rd t Reg.fhPortRxFrames (l / 4) = (rd s Reg.fhPortRxFrames (l / 4) + 1) % 2 ^ 64 ∧
      rd t Reg.fhPortRxDiscarded (l / 4) = rd s Reg.fhPortRxDiscarded (l / 4) ∧
      rd t Reg.fhPortTxFrames (l / 4) = (rd s Reg.fhPortTxFrames (l / 4) + 1) % 2 ^ 64 := by
  have hother {f g : Fld} (hf : f ∈ fhPortFlds) (hg : g ∈ fhPortFlds) (hne : f ≠ g) (u : State) (n : Nat) :
      rd (bump u f (l / 4) n) g (l / 4) = rd u g (l / 4) := rd_bump_ne (fhPort_keys_ne hf hg hne _ _)
  obtain ⟨hframes, hdiscarded⟩ := fhReceived_counts s l
  refine ⟨(hother (by decide) (by decide) (by decide) _ _).trans hframes, (hother (by decide) (by decide) (by decide) _ _).trans hdiscarded, ?_⟩
  exact (rd_bump_same ..).trans (congrArg (fun n => (n + 1) % 2 ^ 64) (hother (by decide) (by decide) (by decide) s 1))

/-! ### Uplink frames -/

/-- How far a frame's sequence lies beyond the last one accepted of its flow (R288). -/
def rxGap (s : State) (p : CellPlan) (fr : UFrame) : Nat :=
  match mapFind s.radio.rxSeq (p.lport * 65536 + fr.eaxc % 65536) with
  | none => 1
  | some l => (fr.seq.toNat + 256 - l) % 256

/-- The state with a received frame counted, and a gap before it. -/
def uplinkCounted (s : State) (p : CellPlan) (fr : UFrame) : State :=
  if 1 < rxGap s p fr then bump (fhReceived s p.lport) Reg.fhPortSeqGaps (p.lport / 4) 1 else fhReceived s p.lport

section
variable {s : State} {cell : BitVec 9} {fr : UFrame} {p : CellPlan}

theorem uplinkCounted_kept : Kept [.regs] s (uplinkCounted s p fr) :=
  .ite (bump_kept (fhReceived_kept (.refl _ s) rfl) rfl) (fhReceived_kept (.refl _ s) rfl)

theorem uplinkCounted_counts :
    rd (uplinkCounted s p fr) Reg.fhPortRxFrames (p.lport / 4) = (rd s Reg.fhPortRxFrames (p.lport / 4) + 1) % 2 ^ 64 ∧
      rd (uplinkCounted s p fr) Reg.fhPortRxDiscarded (p.lport / 4) = rd s Reg.fhPortRxDiscarded (p.lport / 4) ∧
      rd (uplinkCounted s p fr) Reg.fhPortSeqGaps (p.lport / 4) =
        (if 1 < rxGap s p fr then (rd s Reg.fhPortSeqGaps (p.lport / 4) + 1) % 2 ^ 32 else rd s Reg.fhPortSeqGaps (p.lport / 4)) ∧
      OnlyRegs [(Reg.fhPortRxFrames, p.lport / 4), (Reg.fhPortSeqGaps, p.lport / 4)] s (uplinkCounted s p fr) := by
  obtain ⟨hframes, hdiscarded⟩ := fhReceived_counts s p.lport
  have hgaps : rd (fhReceived s p.lport) Reg.fhPortSeqGaps (p.lport / 4) = rd s Reg.fhPortSeqGaps (p.lport / 4) :=
    rd_bump_ne (fhPort_keys_ne (by decide) (by decide) (by decide) _ _)
  have honly : OnlyRegs [(Reg.fhPortRxFrames, p.lport / 4), (Reg.fhPortSeqGaps, p.lport / 4)] s (fhReceived s p.lport) :=
    OnlyRegs.wr (.refl _ s) (by simp)
  unfold uplinkCounted
  split
  · refine ⟨(rd_bump_ne (fhPort_keys_ne (by decide) (by decide) (by decide) _ _)).trans hframes,
      (rd_bump_ne (fhPort_keys_ne (by decide) (by decide) (by decide) _ _)).trans hdiscarded, ?_, OnlyRegs.wr honly (by simp)⟩
    rw [rd_bump_same, hgaps]
    rfl
  · exact ⟨hframes, hdiscarded, hgaps, honly⟩

section
variable (hplan : cellPlan s cell.toNat = some p) (hlport : p.lport < 32) (hrun : cellSt s cell.toNat = 4)
include hplan hlport hrun

/-- What a frame of a running cell does: its reception window and its sequence decide. -/
theorem execUplinkUPlane_running : execUplinkUPlane cell fr s = .next (
    if now s < symStart s p fr.sfn fr.slot fr.symbol + p.rxOpenNs ∨ symStart s p fr.sfn fr.slot fr.symbol + p.rxCloseNs < now s ∨
        128 ≤ rxGap s p fr then
      bump (fhDiscard (fhReceived s p.lport) p.lport) Reg.cellUlWindow cell.toNat 1
    else { uplinkCounted s p fr with radio := { s.radio with
      rxSeq := mapSet s.radio.rxSeq (p.lport * 65536 + fr.eaxc % 65536) fr.seq.toNat
      iq := (fr.prbs.zipIdx.filter (fun e => fr.startPrb + e.2 < p.nPrb)).foldl
        (fun m e => mapPut m ((symKey cell.toNat fr.sfn fr.slot fr.symbol * 65536 + fr.eaxc % 65536) * 1024 + fr.startPrb + e.2)
          (packLanes 16 (bfpExpand e.1.1 e.1.2 (fr.width.getD p.wNom))) 0) s.radio.iq } }) := by
  have hst : cellSt (fhReceived s p.lport) cell.toNat = 4 := by
    rw [← hrun]
    exact rd_bump_ne (fhPort_key_ne_cell (by decide) (by decide) (by omega) _)
  have hradio : (uplinkCounted s p fr).radio = s.radio := uplinkCounted_kept.1 .radio (by decide)
  rw [← hradio]
  simp only [execUplinkUPlane, hplan, hst, ne_eq, not_true_eq_false, if_false]
  rfl

end

end

/-- A frame of one PRB that the cell has stores it. -/
theorem iqStored_onePrb {s : State} {fr : UFrame} {p : CellPlan} {b : Nat × List Nat} (base w : Nat) (hprbs : fr.prbs = [b]) (h : fr.startPrb < p.nPrb) :
    mapGet ((fr.prbs.zipIdx.filter (fun e => fr.startPrb + e.2 < p.nPrb)).foldl
      (fun m e => mapPut m (base + fr.startPrb + e.2) (packLanes 16 (bfpExpand e.1.1 e.1.2 w)) 0) s.radio.iq) (base + fr.startPrb) 0 =
      packLanes 16 (bfpExpand b.1 b.2 w) := by
  simp [hprbs, h, mapGet_mapPut]

/-! ### Symbols -/

theorem exec_symbolRelease (cell : BitVec 9) (sfn : BitVec 10) (slot : BitVec 7) (sym : BitVec 4) (s : State) :
    exec (.symbolRelease cell sfn slot sym) s = execSymbolRelease cell sfn slot sym s := rfl

theorem exec_transmitWindowEnd (cell : BitVec 9) (sfn : BitVec 10) (slot : BitVec 7) (sym : BitVec 4) (s : State) :
    exec (.transmitWindowEnd cell sfn slot sym) s = execTransmitWindowEnd cell sfn slot sym s := rfl

/-- The state without the sections of a symbol. -/
def sectionsTaken (s : State) (c f n m : Nat) : State :=
  { s with radio := { s.radio with sections := s.radio.sections.filter (fun x => !x.of c f n m) } }

/-- The state without the sections and waiting frames of a symbol, and without its mark. -/
def symbolEnded (s : State) (c f n m : Nat) : State :=
  let r := s.radio
  { s with radio := { r with frames := r.frames.filter (fun x => !x.of c f n m), sections := r.sections.filter (fun x => !x.of c f n m),
                             cLate := r.cLate.filter (· != symKey c f n m) } }

/-- The PRBs of a cell that are in none of the sections are told. -/
def unusedTold (s : State) (p : CellPlan) (c f n m : Nat) (xs : List FhSection) : State :=
  let unused := (List.range p.nPrb).filter (fun i => !xs.any (fun x => x.startPrb ≤ i && i < x.startPrb + x.prbs))
  if unused.isEmpty then s else emit s (.fh p.lport (.unused c f n m unused))

/-- A cell that may narrow its symbols narrows one that costs more than its tokens (R286). -/
def narrows (s : State) (c : Nat) (p : CellPlan) (xs : List FhSection) : Bool :=
  p.adaptive && decide (mapGet s.radio.tokens c 0 + p.rateBps * (p.txOpenNs - p.txCloseNs) < sectionsBytes p xs p.wNom * 8 * 1000000000) && !xs.isEmpty

/-- The frames of a symbol's sections are built and go out as the tokens allow; the rest waits. -/
def sectionsSent (s : State) (c f n : Nat) (p : CellPlan) (w : Nat) (xs : List FhSection) : State :=
  let built := xs.foldl (fun (acc : State × List FhFrame) x =>
    let b := buildFrames acc.1 p w x
    (if b.2.2 then indicateCell b.1 c (.error c f n errSlot none [tlvMemUe 2]) else b.1, acc.2 ++ b.2.1)) (s, [])
  let sent := sendFrames built.1 c p built.2
  { sent.1 with radio := { sent.1.radio with frames := sent.1.radio.frames ++ sent.2 } }

/-- Late outputs of a symbol are reported to the cell and to the cores that made them (R298). -/
def lateTold (s : State) (c f n : Nat) (cores : List Nat) : State :=
  if cores.isEmpty then s else cores.foldl (fun s k => coreComplete s k 3 .radioLate 0 0) (radioLate s c f n 0 1)

/-- A frame goes out: its bits leave the cell's tokens. -/
def frameSent (s : State) (c : Nat) (p : CellPlan) (f : FhFrame) : State :=
  bump (emit { s with radio := { s.radio with tokens := mapSet s.radio.tokens c (mapGet s.radio.tokens c 0 - f.bytes * 8 * 1000000000) } }
    (.fh p.lport (.uPlane f))) Reg.fhPortTxFrames (p.lport / 4) 1

theorem sendFrames_one_of_tokens {s : State} {c : Nat} {p : CellPlan} {f : FhFrame} (h : f.bytes * 8 * 1000000000 ≤ mapGet s.radio.tokens c 0) :
    sendFrames s c p [f] = (frameSent s c p f, []) := if_neg (Nat.not_lt.2 h)

theorem sendFrames_one_of_few {s : State} {c : Nat} {p : CellPlan} {f : FhFrame} (h : mapGet s.radio.tokens c 0 < f.bytes * 8 * 1000000000) :
    sendFrames s c p [f] = (s, [f]) := if_pos h

theorem unusedTold_kept (s : State) (p : CellPlan) (c f n m : Nat) (xs : List FhSection) : Kept [.out] s (unusedTold s p c f n m xs) := by
  unfold unusedTold
  exact .ite (.refl _ s) (emit_kept (.refl _ s) rfl)

/-- With no section every PRB of the cell is unused. -/
theorem unusedTold_nil (s : State) (p : CellPlan) (c f n m : Nat) :
    unusedTold s p c f n m [] = if p.nPrb = 0 then s else emit s (.fh p.lport (.unused c f n m (List.range p.nPrb))) := by
  simp [unusedTold]

/-- The radio side's reads with no error in memory are the bytes delivered. -/
theorem radioRead_of_no_err {s : State} (h : s.mem.err = []) (stop pa n : Nat) :
    radioRead s stop pa n = (radioTraffic s stop [(pa, n)] false, (List.range n).map (fun i => memDeliver s (pa + i)), false) := by
  have hbad : ∀ line, badLine s line = false := fun line => by simp [badLine, errAt, h]
  have hlines : errLines s.mem (pa, n) = [] := by simp [errLines, h]
  simp [radioRead, hbad, hlines]

/-- The frame that carries a section of one PRB at the nominal width (R287). -/
def onePrbFrame (s : State) (p : CellPlan) (x : FhSection) : FhFrame :=
  { cell := x.cell, sfn := x.sfn, slot := x.slot, sym := x.sym, eaxc := x.eaxc, section_ := x.section_, startPrb := x.startPrb, width := p.wNom,
    prbs := [bfpCompress (prbParts ((List.range 48).map (fun i => memDeliver s (x.pa + i)))) p.wNom], bytes := frameBytes p.dynHeader 1 p.wNom,
    core := x.core }

theorem onePrbFrame_told (s : State) (c f n m : Nat) (p : CellPlan) (xs : List FhSection) (x : FhSection) :
    onePrbFrame (unusedTold (fillTokens (sectionsTaken s c f n m) c p) p c f n m xs) p x = onePrbFrame s p x := by
  unfold unusedTold
  dsimp only
  split <;> rfl

/-- A list of one is one run. -/
theorem chunksOf_singleton {α : Type} (n : Nat) (a : α) : chunksOf n 2 [a] = [[a]] := by
  obtain ⟨k, hk⟩ : ∃ k, max 1 n = k + 1 := ⟨max 1 n - 1, by omega⟩
  simp [chunksOf, hk]

theorem buildFrames_onePrb {s : State} {p : CellPlan} {x : FhSection} (hprbs : x.prbs = 1) (hadapt : p.adaptive = false) (herr : s.mem.err = []) :
    buildFrames s p p.wNom x = (radioTraffic s (radioIoStop (p.lport / 4)) [(x.pa, 48)] false, [onePrbFrame s p x], false) := by
  have hdata : ((List.range 48).map (fun i => memDeliver s (x.pa + i))).take 48 = (List.range 48).map (fun i => memDeliver s (x.pa + i)) :=
    List.take_of_length_le (by simp)
  simp [buildFrames, hprbs, hadapt, radioRead_of_no_err herr, chunksOf_singleton, onePrbFrame, hdata]

theorem sectionsSent_nil (s : State) (c f n : Nat) (p : CellPlan) (w : Nat) : sectionsSent s c f n p w [] = s := by
  simp only [sectionsSent, List.foldl_nil, sendFrames, List.append_nil]

/-- A section of one PRB goes out as one frame where the tokens allow it. -/
theorem sectionsSent_onePrb {s : State} {p : CellPlan} {x : FhSection} (c f n : Nat) (hprbs : x.prbs = 1) (hadapt : p.adaptive = false)
    (herr : s.mem.err = []) (htokens : (onePrbFrame s p x).bytes * 8 * 1000000000 ≤ mapGet s.radio.tokens c 0) :
    sectionsSent s c f n p p.wNom [x] =
      frameSent (radioTraffic s (radioIoStop (p.lport / 4)) [(x.pa, 48)] false) c p (onePrbFrame s p x) := by
  have hradio : (radioTraffic s (radioIoStop (p.lport / 4)) [(x.pa, 48)] false).radio = s.radio :=
    (radioTraffic_kept (Kept.refl [.mem] s) rfl).1 .radio (by decide)
  have hsend := sendFrames_one_of_tokens (s := radioTraffic s (radioIoStop (p.lport / 4)) [(x.pa, 48)] false) (c := c) (p := p) (hradio ▸ htokens)
  simp only [sectionsSent, List.foldl_cons, List.foldl_nil, buildFrames_onePrb hprbs hadapt herr, List.nil_append, Bool.false_eq_true, if_false, hsend,
    List.append_nil]

/-- A sent frame leaves the port's count one up, the tokens less its bits, and is the last thing out. -/
theorem frameSent_leaves (s : State) (c : Nat) (p : CellPlan) (f : FhFrame) :
    (frameSent s c p f).out = .fh p.lport (.uPlane f) :: s.out ∧
      mapGet (frameSent s c p f).radio.tokens c 0 = mapGet s.radio.tokens c 0 - f.bytes * 8 * 1000000000 ∧
      rd (frameSent s c p f) Reg.fhPortTxFrames (p.lport / 4) = (rd s Reg.fhPortTxFrames (p.lport / 4) + 1) % 2 ^ 64 ∧
      OnlyRegs [(Reg.fhPortTxFrames, p.lport / 4)] s (frameSent s c p f) ∧ Kept [.regs, .radio, .out] s (frameSent s c p f) :=
  ⟨rfl, (mapGet_mapSet ..).trans (if_pos rfl), rd_bump_same .., OnlyRegs.wr (OnlyRegs.of_regs (.refl _ s) rfl) (by simp),
    bump_kept (emit_kept (Kept.setRadio (.refl _ s) rfl) rfl) rfl⟩

/-! ### The release of a symbol -/

section
variable {s : State} {cell : BitVec 9} {sfn : BitVec 10} {slot : BitVec 7} {sym : BitVec 4} {p : CellPlan} (hplan : cellPlan s cell.toNat = some p)
include hplan

theorem execSymbolRelease_of_plan : execSymbolRelease cell sfn slot sym s = .next (
    let (c, f, n, m) := (cell.toNat, sfn.toNat, slot.toNat, sym.toNat)
    if now s + p.txOpenNs < symStart s p f n m then s
    else if cellSt s c ≠ 4 ∨ s.radio.cLate.contains (symKey c f n m) then sectionsTaken s c f n m
    else
      let xs := sortBy (fun a b => a.startPrb < b.startPrb) (s.radio.sections.filter (fun x => x.of c f n m))
      let t := fillTokens (sectionsTaken s c f n m) c p
      sectionsSent (unusedTold (if narrows t c p xs then bump t Reg.cellNarrowed c 1 else t) p c f n m xs) c f n p
        (if narrows t c p xs then p.wFloor else p.wNom) xs) := by
  rw [execSymbolRelease, hplan]
  rfl

theorem execTransmitWindowEnd_of_plan : execTransmitWindowEnd cell sfn slot sym s = .next (
    let (c, f, n, m) := (cell.toNat, sfn.toNat, slot.toNat, sym.toNat)
    if now s + p.txCloseNs < symStart s p f n m then s
    else if cellSt s c ≠ 4 ∨ s.radio.cLate.contains (symKey c f n m) then symbolEnded s c f n m
    else
      let sent := sendFrames (fillTokens (symbolEnded s c f n m) c p) c p (s.radio.frames.filter (fun x => x.of c f n m))
      lateTold sent.1 c f n (sent.2.map (·.core) ++ (s.radio.sections.filter (fun x => x.of c f n m)).map (·.core)).eraseDups) := by
  rw [execTransmitWindowEnd, hplan]
  rfl

/-- Before its transmit window has opened a symbol's release does nothing (R286). -/
theorem execSymbolRelease_early (h : now s + p.txOpenNs < symStart s p sfn.toNat slot.toNat sym.toNat) :
    execSymbolRelease cell sfn slot sym s = .next s := by
  rw [execSymbolRelease_of_plan hplan]
  exact congrArg Host.Outcome.next (if_pos h)

/-- Before its transmit window has ended the row for its end does nothing (R286). -/
theorem execTransmitWindowEnd_early (h : now s + p.txCloseNs < symStart s p sfn.toNat slot.toNat sym.toNat) :
    execTransmitWindowEnd cell sfn slot sym s = .next s := by
  rw [execTransmitWindowEnd_of_plan hplan]
  exact congrArg Host.Outcome.next (if_pos h)

section
variable (hopen : symStart s p sfn.toNat slot.toNat sym.toNat ≤ now s + p.txOpenNs)
include hopen

theorem execSymbolRelease_marked (h : symKey cell.toNat sfn.toNat slot.toNat sym.toNat ∈ s.radio.cLate) :
    execSymbolRelease cell sfn slot sym s = .next (sectionsTaken s cell.toNat sfn.toNat slot.toNat sym.toNat) := by
  rw [execSymbolRelease_of_plan hplan]
  exact congrArg Host.Outcome.next ((if_neg (Nat.not_lt.2 hopen)).trans (if_pos (.inr (List.contains_iff_mem.2 h))))

variable (hrun : cellSt s cell.toNat = 4) (hmark : symKey cell.toNat sfn.toNat slot.toNat sym.toNat ∉ s.radio.cLate)
include hrun hmark

/-- The release of a symbol that goes out at the nominal width. -/
theorem execSymbolRelease_goes {xs : List FhSection}
    (h : sortBy (fun a b => a.startPrb < b.startPrb) (s.radio.sections.filter (fun x => x.of cell.toNat sfn.toNat slot.toNat sym.toNat)) = xs)
    (hwide : narrows (fillTokens (sectionsTaken s cell.toNat sfn.toNat slot.toNat sym.toNat) cell.toNat p) cell.toNat p xs = false) :
    execSymbolRelease cell sfn slot sym s = .next (sectionsSent
      (unusedTold (fillTokens (sectionsTaken s cell.toNat sfn.toNat slot.toNat sym.toNat) cell.toNat p) p cell.toNat sfn.toNat slot.toNat sym.toNat xs)
      cell.toNat sfn.toNat slot.toNat p p.wNom xs) := by
  have hgoes : ¬ (cellSt s cell.toNat ≠ 4 ∨ s.radio.cLate.contains (symKey cell.toNat sfn.toNat slot.toNat sym.toNat) = true) :=
    not_or.2 ⟨not_not.2 hrun, mt List.contains_iff_mem.1 hmark⟩
  rw [execSymbolRelease_of_plan hplan]
  dsimp only
  rw [if_neg (Nat.not_lt.2 hopen), if_neg hgoes, h, if_neg (Bool.eq_false_iff.1 hwide), if_neg (Bool.eq_false_iff.1 hwide)]

/-- The release of a symbol with one section of one PRB, whose frame the tokens allow, sends that frame. -/
theorem execSymbolRelease_onePrb {x : FhSection} (h : s.radio.sections.filter (fun x => x.of cell.toNat sfn.toNat slot.toNat sym.toNat) = [x])
    (hprbs : x.prbs = 1) (hadapt : p.adaptive = false) (herr : s.mem.err = [])
    (htokens : (onePrbFrame s p x).bytes * 8 * 1000000000 ≤ mapGet (fillTokens s cell.toNat p).radio.tokens cell.toNat 0) :
    ∃ t, execSymbolRelease cell sfn slot sym s = .next (frameSent t cell.toNat p (onePrbFrame s p x)) ∧
      t.radio = (fillTokens (sectionsTaken s cell.toNat sfn.toNat slot.toNat sym.toNat) cell.toNat p).radio ∧ t.regs = s.regs ∧ t.host = s.host := by
  set filled := fillTokens (sectionsTaken s cell.toNat sfn.toNat slot.toNat sym.toNat) cell.toNat p with hfilled
  set told := unusedTold filled p cell.toNat sfn.toNat slot.toNat sym.toNat [x] with htold
  have htoldKept : Kept [.out] filled told := unusedTold_kept ..
  have hframe : onePrbFrame told p x = onePrbFrame s p x := onePrbFrame_told ..
  have hpaid : (onePrbFrame told p x).bytes * 8 * 1000000000 ≤ mapGet told.radio.tokens cell.toNat 0 := by
    rw [hframe, htoldKept.1 .radio (by decide)]
    exact htokens
  have htoldErr : told.mem.err = [] := by rw [htoldKept.1 .mem (by decide)]; exact herr
  have hrow := execSymbolRelease_goes hplan hopen hrun hmark (xs := [x]) (congrArg (sortBy _) h) (by simp [narrows, hadapt])
  rw [← hfilled, ← htold, sectionsSent_onePrb _ _ _ hprbs hadapt htoldErr hpaid, hframe] at hrow
  have hkept : Kept [.mem, .out] filled (radioTraffic told (radioIoStop (p.lport / 4)) [(x.pa, 48)] false) :=
    radioTraffic_kept ((Kept.refl _ filled).app (w' := [.out]) rfl htoldKept) rfl
  exact ⟨_, hrow, hkept.1 .radio (by decide), hkept.1 .regs (by decide), hkept.1 .host (by decide)⟩

end

section
variable (hend : symStart s p sfn.toNat slot.toNat sym.toNat ≤ now s + p.txCloseNs) (hrun : cellSt s cell.toNat = 4)
  (hmark : symKey cell.toNat sfn.toNat slot.toNat sym.toNat ∉ s.radio.cLate)
  (hnone : s.radio.sections.filter (fun x => x.of cell.toNat sfn.toNat slot.toNat sym.toNat) = [])
include hend hrun hmark hnone

/-- The end of the transmit window of a symbol with no section left. -/
theorem execTransmitWindowEnd_goes {fs : List FhFrame} (h : s.radio.frames.filter (fun x => x.of cell.toNat sfn.toNat slot.toNat sym.toNat) = fs) :
    execTransmitWindowEnd cell sfn slot sym s = .next (
      let sent := sendFrames (fillTokens (symbolEnded s cell.toNat sfn.toNat slot.toNat sym.toNat) cell.toNat p) cell.toNat p fs
      lateTold sent.1 cell.toNat sfn.toNat slot.toNat (sent.2.map (·.core)).eraseDups) := by
  have hgoes : ¬ (cellSt s cell.toNat ≠ 4 ∨ s.radio.cLate.contains (symKey cell.toNat sfn.toNat slot.toNat sym.toNat) = true) :=
    not_or.2 ⟨not_not.2 hrun, mt List.contains_iff_mem.1 hmark⟩
  rw [execTransmitWindowEnd_of_plan hplan]
  dsimp only
  rw [if_neg (Nat.not_lt.2 hend), if_neg hgoes, h, hnone, List.map_nil, List.append_nil]

end

end

/-- A frame that waited for a symbol waits no more once the symbol has ended. -/
theorem not_mem_symbolEnded {s : State} {c f n m : Nat} {x : FhFrame} (h : s.radio.frames.filter (fun x => x.of c f n m) = [x]) :
    x ∉ (symbolEnded s c f n m).radio.frames := by
  have hmem : x ∈ s.radio.frames.filter (fun x => x.of c f n m) := by simp [h]
  have hof : x.of c f n m = true := (List.mem_filter.1 hmem).2
  intro hx
  simpa [hof] using (List.mem_filter.1 hx).2

/-! ### What a late report leaves -/

/-- A cell's count of late outputs and the frames that wait are the same. -/
def LateKept (c : Nat) (s t : State) : Prop := rd t Reg.cellLate c = rd s Reg.cellLate c ∧ t.radio.frames = s.radio.frames

section
variable {c : Nat} (hc : c < 384)

theorem LateKept.trans {s t u : State} (h : LateKept c s t) (k : LateKept c t u) : LateKept c s u := ⟨k.1.trans h.1, k.2.trans h.2⟩

theorem LateKept.of_regs {s t : State} (h : t.regs = s.regs) (hf : t.radio.frames = s.radio.frames) : LateKept c s t := ⟨rd_congr h _ _, hf⟩

include hc

theorem LateKept.wr (s : State) {g : Fld} (hg : 67895296 ≤ g.base) (i v : Nat) : LateKept c s (wr s g i v) :=
  ⟨rd_wr_ne _ _ _ _ _ _ (cellLate_key_ne hc hg i), rfl⟩

theorem fapiPut_lateKept {s t : State} {ring e : Nat} {bs : List Byte} (h : fapiPut s ring e bs = some t) : LateKept c s t := by
  have hmsix (u : State) (f v : Nat) : LateKept c u (raiseMsix u f v) := by
    unfold raiseMsix
    split <;> exact .of_regs rfl rfl
  simp only [fapiPut] at h
  split at h
  · cases h
  · obtain rfl := Option.some.inj h
    refine LateKept.trans ?_ (hmsix ..)
    refine LateKept.trans ?_ (.wr hc _ (by decide) _ _)
    exact .of_regs rfl rfl

theorem fapiDrop_lateKept (s : State) (ring : Nat) : LateKept c s (fapiDrop s ring) := by
  have hdropped : LateKept c s (bump s Reg.fapiRingIndDropped ring 1) := .wr hc s (by decide) _ _
  have hcause (u : State) : (healthCause u Reg.healthCauseRadio).radio = u.radio :=
    (healthCause_kept (Kept.refl [.regs, .ten, .out] u) rfl).1 .radio (by decide)
  exact hdropped.trans ⟨rd_healthCause_of_ne (cellLate_key_ne hc (by decide) _), congrArg Radio.frames (hcause _)⟩

theorem indicate_lateKept (s : State) (ring : Nat) (m : FapiInd) : LateKept c s (indicate s ring m) := by
  unfold indicate
  dsimp only
  split
  · exact fapiDrop_lateKept hc s ring
  · rename_i h
    exact (fapiPut_lateKept hc h).trans (.of_regs rfl rfl)

theorem coreComplete_lateKept (s : State) (n port : Nat) (st : Status) (tag aux : Nat) : LateKept c s (coreComplete s n port st tag aux) := by
  unfold coreComplete
  split
  · exact ⟨rfl, rfl⟩
  · exact LateKept.trans (.trans (.of_regs rfl rfl) (.wr hc _ (by decide) _ _)) (.wr hc _ (by decide) _ _)

/-- A report counts one late output of its cell and leaves the frames that wait. -/
theorem lateTold_leaves {s : State} {cores : List Nat} (f n : Nat) (h : cores ≠ []) :
    rd (lateTold s c f n cores) Reg.cellLate c = (rd s Reg.cellLate c + 1) % 2 ^ 32 ∧ (lateTold s c f n cores).radio.frames = s.radio.frames := by
  have htold : LateKept c (bump s Reg.cellLate c 1) (lateTold s c f n cores) := by
    rw [lateTold, if_neg (by simpa using h)]
    exact List.foldlRecOn _ _ (indicate_lateKept hc _ _ _) fun t ht k _ => ht.trans (coreComplete_lateKept hc ..)
  exact ⟨htold.1.trans (rd_bump_same ..), htold.2⟩

omit hc in
theorem lateTold_kept (s : State) (f n : Nat) (cores : List Nat) : Kept [.regs, .host, .ten, .cores, .radio, .out] s (lateTold s c f n cores) :=
  .ite (.refl _ s) (Kept.foldl (radioLate_kept (.refl _ s) rfl) fun _ _ h => coreComplete_kept h rfl)

end

end Sys2Proof.Machine

section

open Sys2Proof Sys2Proof.Machine

/-- Settles O43: each clause is one row run on its case; the counters of ports and cells share no key. -/
theorem fronthaulFrames : Obligations.FronthaulFrames := by
  intro s cell fr lport id port a4 a6 sfn slot sym p x f b c sk k l frames air key d inWindow iqAt mine left tokens need sAt open_ ended waiting
  refine ⟨fun hplan hlport hrun hin hprbs hstart _ => ?uplinkAccepted, fun hplan hlport hrun hout => ?uplinkDiscarded,
    ⟨_, exec_receivedCPlane .., fhDiscard_counts .., fhDiscard_only ..⟩, ⟨_, exec_unknownFrame .., fhDiscard_counts .., fhDiscard_only ..⟩, ?delay,
    ⟨_, exec_arpRequest .., rfl⟩, ⟨_, exec_neighborSolicitation .., rfl⟩,
    fun hplan hearly => ⟨_, (exec_symbolRelease ..).trans (execSymbolRelease_early hplan hearly), rfl⟩,
    fun hplan hearly => ⟨_, (exec_transmitWindowEnd ..).trans (execTransmitWindowEnd_early hplan hearly), rfl⟩,
    fun ⟨hplan, hopen⟩ hrun hmark hmine => ?releaseEmpty, fun ⟨hplan, hopen⟩ _ hrun hmark hmine hprbs hadapt herr hf htokens => ?releaseSends,
    fun ⟨hplan, hopen⟩ hmark => ⟨_, (exec_symbolRelease ..).trans (execSymbolRelease_marked hplan hopen hmark), rfl, rfl,
      (Kept.setRadio (.refl _ s) rfl).1⟩,
    fun ⟨hplan, hended⟩ hlport hrun hmark hmine hwaiting htokens => ?endSends,
    fun ⟨hplan, hended⟩ hrun hmark hmine hwaiting htokens _ hc => ?endDrops⟩
  case uplinkAccepted =>
    obtain ⟨hclose, hafter, hseq⟩ := hin
    have hin : ¬ (now s < air + p.rxOpenNs ∨ air + p.rxCloseNs < now s ∨ 128 ≤ rxGap s p fr) :=
      not_or.2 ⟨Nat.not_lt.2 hafter, not_or.2 ⟨Nat.not_lt.2 hclose, Nat.not_le.2 hseq⟩⟩
    have hrow := (execUplinkUPlane_running hplan hlport hrun).trans (congrArg Host.Outcome.next (if_neg hin))
    obtain ⟨hframes, hdiscarded, hgaps, honly⟩ := uplinkCounted_counts (s := s) (p := p) (fr := fr)
    have hkept : Kept [.regs, .radio] s (uplinkCounted s p fr) := (Kept.refl _ s).app (w' := [.regs]) rfl uplinkCounted_kept
    exact ⟨_, (exec_uplinkUPlane ..).trans hrow, ⟨hframes, hdiscarded⟩, iqStored_onePrb _ _ hprbs hstart, mapFind_mapSet_same .., hgaps, honly,
      (Kept.setRadio hkept rfl).1⟩
  case uplinkDiscarded =>
    have hout : now s < air + p.rxOpenNs ∨ air + p.rxCloseNs < now s ∨ 128 ≤ rxGap s p fr := by
      by_contra h
      obtain ⟨hafter, hclose, hgap⟩ := (not_or.1 h).imp_right not_or.1
      exact hout ⟨Nat.not_lt.1 hclose, Nat.not_lt.1 hafter, Nat.not_le.1 hgap⟩
    have hrow := (execUplinkUPlane_running hplan hlport hrun).trans (congrArg Host.Outcome.next (if_pos hout))
    obtain ⟨hframes, hdiscarded, hwindow⟩ := ulWindow_counts s hlport c
    exact ⟨_, (exec_uplinkUPlane ..).trans hrow, ⟨hframes, hdiscarded⟩, hwindow,
      (bump_kept (fhDiscard_kept (fhReceived_kept (.refl _ s) rfl) rfl) rfl).1⟩
  case delay =>
    obtain ⟨hframes, hdiscarded, hsent⟩ := fhAnswered_counts s lport.toNat (.fh lport.toNat (.delayAnswer id.toNat s.clock.ns))
    exact ⟨_, exec_oneWayDelay .., ⟨hframes, hdiscarded⟩, hsent, rfl, (bump_kept (emit_kept (fhReceived_kept (.refl _ s) rfl) rfl) rfl).1⟩
  case releaseEmpty =>
    have hrow := execSymbolRelease_goes hplan hopen hrun hmark (xs := []) (congrArg (sortBy _) hmine) (by simp [narrows])
    rw [sectionsSent_nil] at hrow
    have hkept : Kept [.radio, .out] s (fillTokens (sectionsTaken s c sfn.toNat slot.toNat sym.toNat) c p) :=
      fillTokens_kept (Kept.setRadio (.refl _ s) rfl) rfl
    have htold := unusedTold_kept (fillTokens (sectionsTaken s c sfn.toNat slot.toNat sym.toNat) c p) p c sfn.toNat slot.toNat sym.toNat []
    refine ⟨_, (exec_symbolRelease ..).trans hrow, congrArg Radio.sections (htold.1 .radio (by decide)), ?_, (hkept.app (w' := [.out]) rfl htold).1⟩
    rw [unusedTold_nil]
    exact apply_ite State.out ..
  case releaseSends =>
    obtain rfl : f = onePrbFrame s p x := hf
    obtain ⟨t, hrow, hradio, hregs, hhost⟩ := execSymbolRelease_onePrb hplan hopen hrun hmark hmine hprbs hadapt herr htokens
    obtain ⟨hout, hleft, hsent, -, hkept⟩ := frameSent_leaves t c p (onePrbFrame s p x)
    have hframes : t.radio.frames = s.radio.frames := by rw [hradio]; rfl
    refine ⟨_, (exec_symbolRelease ..).trans hrow, congrArg Radio.sections hradio, congrArg List.head? hout, ?_, ?_, hframes,
      Eq.trans (hkept.1 .host (by decide)) hhost⟩
    · rw [hleft, hradio]; rfl
    · rw [hsent, rd_congr hregs]
  case endSends =>
    set filled := fillTokens (symbolEnded s c sfn.toNat slot.toNat sym.toNat) c p with hfilled
    have hrow := execTransmitWindowEnd_goes hplan hended hrun hmark hmine hwaiting
    rw [← hfilled, sendFrames_one_of_tokens (s := filled) htokens] at hrow
    have hkept : Kept [.regs, .radio, .out] s filled := fillTokens_kept (Kept.setRadio (.refl _ s) rfl) rfl
    obtain ⟨hout, -, -, honly, hsentKept⟩ := frameSent_leaves filled c p f
    have honly' : OnlyRegs [(Reg.fhPortTxFrames, k)] s (frameSent filled c p f) := fun g i h => (honly g i h).trans (rd_congr rfl g i)
    refine ⟨_, (exec_transmitWindowEnd ..).trans hrow, hout, honly' _ _ ?_, not_mem_symbolEnded hwaiting, honly', (hkept.trans hsentKept).1⟩
    rintro _ hk
    obtain rfl := List.mem_singleton.1 hk
    exact (fhPort_key_ne_cell (f := Reg.fhPortTxFrames) (by decide) (by decide) (by omega) _).symm
  case endDrops =>
    set filled := fillTokens (symbolEnded s c sfn.toNat slot.toNat sym.toNat) c p with hfilled
    have hrow := execTransmitWindowEnd_goes hplan hended hrun hmark hmine hwaiting
    rw [← hfilled, sendFrames_one_of_few (s := filled) htokens] at hrow
    have hkept : Kept [.regs, .host, .ten, .cores, .radio, .out] s filled := fillTokens_kept (Kept.setRadio (.refl _ s) rfl) rfl
    have hcores : ([f].map (·.core)).eraseDups ≠ [] := by simp [List.eraseDups_cons]
    obtain ⟨hlate, hframes⟩ := lateTold_leaves hc (s := filled) sfn.toNat slot.toNat hcores
    exact ⟨_, (exec_transmitWindowEnd ..).trans hrow, hlate, fun h => not_mem_symbolEnded hwaiting (hframes ▸ h), (hkept.trans (lateTold_kept ..)).1⟩

end

end

section
/-! SUPPORT. A COLL message toward an open member (chapter 07, R190, R191, R205; chapter 08, R241): what sending it leaves, and that it
changes no member's place in the spoil list. -/

namespace Sys2Proof.Machine

/-! ### The registers a message writes as it leaves -/

/-- The counters of a function's coloured bytes (R190) and of the ports' discards (R191). -/
def sendShown (f : Nat) : List (Fld × Nat) :=
  [(Reg.fabVfGreen, f), (Reg.fabVfYellow, f), (Reg.fabVfRed, f)] ++ (List.range 16).map (fun p => (Reg.jeanoPortDiscards, p))

theorem OnlyRegs.trans {ks : List (Fld × Nat)} {s t u : State} (h : OnlyRegs ks s t) (k : OnlyRegs ks t u) : OnlyRegs ks s u :=
  fun g i hne => (k g i hne).trans (h g i hne)

theorem OnlyRegs.mono {ks ls : List (Fld × Nat)} {s t : State} (h : OnlyRegs ks s t) (hsub : ks ⊆ ls) : OnlyRegs ls s t :=
  fun g i hne => h g i fun k hk => hne k (hsub hk)

/-- None of the counters has the place of a member's list state or of the device's domain, whatever the function's number. -/
theorem sendShown_keys {f : Nat} {k : Fld × Nat} (hk : k ∈ sendShown f) (i : Nat) :
    fldKey Reg.healthMemberList i ≠ fldKey k.1 k.2 ∧ fldKey Reg.jeanoNodeDomain i ≠ fldKey k.1 k.2 := by
  simp only [sendShown, List.mem_append, List.mem_cons, List.not_mem_nil, or_false, List.mem_map] at hk
  rcases hk with (rfl | rfl | rfl) | ⟨p, -, rfl⟩ <;>
    simp only [fldKey, Reg.healthMemberList, Reg.jeanoNodeDomain, Reg.fabVfGreen, Reg.fabVfYellow, Reg.fabVfRed, Reg.jeanoPortDiscards] <;> omega

theorem spoiledFor_of_onlyRegs {s t : State} {f : Nat} (h : OnlyRegs (sendShown f) s t) (n : Nat) (cls : TClass) :
    spoiledFor t n cls = spoiledFor s n cls := by
  have hlist (i : Nat) : rd t Reg.healthMemberList i = rd s Reg.healthMemberList i := h _ _ fun _ hk => (sendShown_keys hk i).1
  have hdomain : rd t Reg.jeanoNodeDomain 0 = rd s Reg.jeanoNodeDomain 0 := h _ _ fun _ hk => (sendShown_keys hk 0).2
  simp only [spoiledFor, spoiled, sameDomain, hlist, hdomain]

theorem meter_onlyRegs (s : State) (m : Msg) : OnlyRegs (sendShown m.srcFn) s (meter s m).1 := by
  cases hcls : m.cls with
  | t =>
    simp only [meter, hcls]
    refine ((OnlyRegs.refl _ s).of_regs rfl).wr ?_
    split <;> simp [sendShown]
  | s => simp only [meter, hcls]; exact .refl _ s
  | r => simp only [meter, hcls]; exact .refl _ s

theorem depart_onlyRegs (s : State) (mid : Nat) (u : Unacked) : OnlyRegs (sendShown u.msg.srcFn) s (depart s mid u) := by
  unfold depart
  split
  · exact .refl _ s
  · split
    · exact .refl _ s
    · rename_i r hroute
      refine OnlyRegs.of_regs (s := (if _ then _ else _ : State × Bool).1) ?_ rfl
      have hmeter : OnlyRegs (sendShown u.msg.srcFn) s
          (match riding s u r.port with
            | some v => (s, v.msg.colour)
            | none => if u.interval = 0 then meter s u.msg else (s, u.msg.colour)).1 := by
        split
        · exact .refl _ s
        · split
          · exact meter_onlyRegs s u.msg
          · exact .refl _ s
      have hport : [(Reg.jeanoPortDiscards, r.port)] ⊆ sendShown u.msg.srcFn := by
        simp [sendShown, routeOf_port_lt hroute]
      split
      · exact hmeter
      · exact hmeter.trans (OnlyRegs.mono (queueOut_onlyRegs _ _ _ _ _) hport)

theorem launch_onlyRegs {s : State} {mid : Nat} {u : Unacked} (hu : getUn s mid = some u) : OnlyRegs (sendShown u.msg.srcFn) s (launch s mid) := by
  simp only [launch, hu]
  split
  · exact .refl _ s
  · exact OnlyRegs.trans (t := sequenced s u.msg) (.of_regs (.refl _ s) rfl)
      (depart_onlyRegs _ mid { u with msg := launchedMsg s u.msg, sent := true, firstNs := now s })

/-! ### Messages that leave for an open member -/

/-- Between two states a function's messages have left, and nothing else has happened. -/
def Sends (f : Nat) (s t : State) : Prop := Kept [.regs, .fab, .out, .free] s t ∧ OnlyRegs (sendShown f) s t

theorem Sends.refl (f : Nat) (s : State) : Sends f s s := ⟨.refl _ s, .refl _ s⟩

theorem Sends.trans {f : Nat} {s t u : State} (h : Sends f s t) (k : Sends f t u) : Sends f s u := ⟨h.1.trans k.1, h.2.trans k.2⟩

theorem Sends.work {f : Nat} {s t : State} (h : Sends f s t) : t.work = s.work := h.1.1 .work (by decide)

theorem Sends.crush {f : Nat} {s t : State} (h : Sends f s t) : t.crush = s.crush := h.1.1 .crush (by decide)

theorem Sends.spoiledFor {f : Nat} {s t : State} (h : Sends f s t) (n : Nat) (cls : TClass) :
    Machine.spoiledFor t n cls = Machine.spoiledFor s n cls := spoiledFor_of_onlyRegs h.2 n cls

section
variable {s : State} {m : Msg} {cid peer off : Nat} {after : List Nat} {coll : Option CollMsg} {mcast : Bool} {lead : Option Nat}
  (hopen : spoiledFor s m.dstNode m.cls = false)
include hopen

theorem enqueue_launches : ∃ u, u.msg = m ∧ enqueue s m cid peer off after coll mcast lead = launch (withEntry s u) s.fab.nextMid :=
  ⟨_, rfl, if_neg (Bool.eq_false_iff.1 hopen)⟩

theorem enqueue_sends : Sends m.srcFn s (enqueue s m cid peer off after coll mcast lead) := by
  obtain ⟨u, rfl, h⟩ := enqueue_launches (cid := cid) (peer := peer) (off := off) (after := after) (coll := coll) (mcast := mcast) (lead := lead) hopen
  have hregs : OnlyRegs (sendShown u.msg.srcFn) (withEntry s u) (launch (withEntry s u) s.fab.nextMid) :=
    launch_onlyRegs (mapFind_mapSet_same ..)
  rw [h]
  exact ⟨launch_kept (Kept.setFab (.refl _ s) rfl) rfl, (OnlyRegs.of_regs (.refl _ s) rfl).trans hregs⟩

end

/-- The members of a collective are open to its function's messages. -/
def MembersOpen (s : State) (k : Coll) : Prop := ∀ d ∈ k.members, spoiledFor s d.1 (fabClass k.fn) = false

theorem MembersOpen.of_sends {s t : State} {k : Coll} (h : MembersOpen s k) (hs : Sends k.fn s t) : MembersOpen t k :=
  fun d hd => (hs.spoiledFor ..).trans (h d hd)

theorem sendColl_sends {s : State} {cid rk : Nat} {k : Coll} {phase : CollPhase} {m : CollMsg} {payload : List Byte} (hopen : MembersOpen s k)
    (hcls : m.msg.cls = fabClass k.fn) (hfn : m.msg.srcFn = k.fn) : Sends k.fn s (sendColl s cid k rk phase m payload) := by
  unfold sendColl
  split
  · exact .refl _ s
  · rename_i d hd
    have h := hopen d (List.mem_of_getElem? hd)
    rw [← hcls] at h
    rw [← hfn]
    exact enqueue_sends h

end Sys2Proof.Machine

end

section
/-! SUPPORT. A CRUSHER command whose checks pass (chapter 08, R235-R240): its dispatch, its counts and its report, on a member that is
neither rank 0 nor a parent. -/

namespace Sys2Proof.Machine

theorem exec_allReduce (cid : Nat) (s : State) : exec (.allReduce cid) s = .next (sweepLost (crushCmd s cid 1)) := rfl
theorem exec_reduce (cid : Nat) (s : State) : exec (.reduce cid) s = .next (sweepLost (crushCmd s cid 2)) := rfl
theorem exec_reduceScatter (cid : Nat) (s : State) : exec (.reduceScatter cid) s = .next (sweepLost (crushCmd s cid 3)) := rfl
theorem exec_broadcast (cid : Nat) (s : State) : exec (.broadcast cid) s = .next (sweepLost (crushCmd s cid 4)) := rfl
theorem exec_allGather (cid : Nat) (s : State) : exec (.allGather cid) s = .next (sweepLost (crushCmd s cid 5)) := rfl
theorem exec_allToAll (cid : Nat) (s : State) : exec (.allToAll cid) s = .next (sweepLost (crushCmd s cid 6)) := rfl
theorem exec_allGatherV (cid : Nat) (s : State) : exec (.allGatherV cid) s = .next (sweepLost (crushCmd s cid 7)) := rfl
theorem exec_allToAllV (cid : Nat) (s : State) : exec (.allToAllV cid) s = .next (sweepLost (crushCmd s cid 8)) := rfl
theorem exec_barrier (cid : Nat) (s : State) : exec (.barrier cid) s = .next (sweepLost (crushCmd s cid 9)) := rfl

@[simp] theorem getColl_putColl_same (s : State) (cid : Nat) (k : Coll) : getColl (putColl s cid k) cid = some k := mapFind_mapSet_same ..

theorem Coll.sides_le (k : Coll) : k.sides ≤ 4 := by
  have hbit (b : Bool) : bit01 b ≤ 1 := by cases b <;> decide
  have h1 := hbit (k.src != [])
  have h2 := hbit (k.cnt != [])
  have h3 := hbit (k.dst != [])
  have h4 := hbit (k.stg != [])
  simp only [Coll.sides]
  omega

/-! ### The report of a leaf (R238) -/

/-- What a member without children reports of a collective whose counts agree. -/
def leafReport (s : State) (k : Coll) : CollMsg :=
  { collBlank s k with agree := true, hash := k.hash, tFirst := k.joinNs, tLast := k.joinNs, lateRank := k.rank }

theorem leaf_has_no_kids {n rank : Nat} (hleaf : n ≤ 8 * rank + 1) :
    ((List.range 8).map (fun i => 8 * rank + 1 + i)).filter (fun i => decide (i < n)) = [] := by
  simp only [List.filter_eq_nil_iff, List.mem_map, decide_eq_true_eq, forall_exists_index, and_imp, forall_apply_eq_imp_iff₂]
  omega

section
variable {s : State} {cid : Nat} {c : Cmd} {k : Coll} (hk : getColl s cid = some k) (hc : getCmd s cid = some c)
include hk hc

/-- A V operation that has no count of rank 0 waits for it. -/
theorem tryReport_waits (hV : (crushOf c).isV = true) (hcounts : k.counts = []) (hrank : k.rank ≠ 0) (hpos : 0 < k.members.length) :
    tryReport s cid = s := by
  have hroot : ((List.range k.members.length).filter (· != k.rank)).any (fun i => (mapFind k.counts i).isNone) = true :=
    List.any_eq_true.2 ⟨0, List.mem_filter.2 ⟨List.mem_range.2 hpos, by simpa using hrank.symm⟩, by rw [hcounts]; rfl⟩
  simp only [tryReport, hk, hc, hV, hroot, Bool.true_and, Bool.or_true, Bool.true_or, if_true]

theorem tryReport_reports (hV : (crushOf c).isV = false) (hnew : k.reported = false) (hrank : k.rank ≠ 0)
    (hleaf : k.members.length ≤ 8 * k.rank + 1) :
    tryReport s cid =
      sendColl (putColl s cid { k with reported := true }) cid k ((k.rank - 1) / 8) .desc (leafReport (putColl s cid { k with reported := true }) k) [] := by
  simp only [tryReport, hk, hc, hV, hnew, leaf_has_no_kids hleaf, Bool.false_and, Bool.or_false, Bool.not_false, Bool.true_or, List.any_nil,
    Bool.false_eq_true, if_false, if_neg hrank, List.foldl_nil]
  rfl

end

/-! ### Issue (R236) -/

/-- The ranges a collective registers (R104, R236). -/
def Coll.lines (k : Coll) : List LineRange := runLines (k.src ++ k.cnt) false ++ runLines (k.dst ++ k.stg) true

/-- A CRUSHER command as it is dispatched: with the next order number and its ranges. -/
def joinedCmd (s : State) (c : Cmd) (k : Coll) : Cmd :=
  { c with st := .dispatched, seq := s.work.nextSeq, regSeq := s.work.nextSeq, ranges := k.lines }

/-- The state with the command dispatched and its collective in flight. -/
def inFlight (s : State) (cid : Nat) (c : Cmd) (k : Coll) : State :=
  putColl (putCmd { s with work := { s.work with nextSeq := s.work.nextSeq + 1 } } cid (joinedCmd s c k)) cid k

/-- The state after a V operation has told its counts to the other members (R239). -/
def countsTold (s : State) (cid : Nat) (x : CrCmd) (k : Coll) : State :=
  if x.isV then ((List.range k.members.length).filter (· != k.rank)).foldl (fun s i => sendColl s cid k i .count { collBlank s k with
    count := if x.op = 8 then k.sendCounts.getD i 0 else k.recvCounts.getD k.rank 0 } []) s
  else s

theorem countsTold_sends {s : State} {cid : Nat} {x : CrCmd} {k : Coll} (hopen : MembersOpen s k) : Sends k.fn s (countsTold s cid x k) := by
  unfold countsTold
  split
  · exact List.foldlRecOn _ _ (Sends.refl _ s) fun t ht i _ => ht.trans (sendColl_sends (hopen.of_sends ht) rfl rfl)
  · exact .refl _ s

theorem takeEarly_of_none {s : State} {cid : Nat} {k : Coll} (hearly : s.crush.early = []) : takeEarly s cid k = s := by
  rw [takeEarly, hearly]
  show { s with crush := { s.crush with early := [] } } = s
  rw [← hearly]

section
variable {s : State} {cid : Nat} {c : Cmd} {k : Coll} (hearly : s.crush.early = []) (hblocked : rangeBlocked s cid s.work.nextSeq k.lines = false)
  (hheld : rangesHeld s cid ≤ 508) (hfree : crushFree s k.fn k.group = true)
include hearly hblocked hheld hfree

theorem joinColl_of_room (hopen : MembersOpen s k) :
    joinColl s cid c k = showCrush (tryReport (countsTold (inFlight s cid c k) cid (crushOf c) k) cid) k.fn := by
  have hroom : ¬ (rangeBlocked s cid s.work.nextSeq k.lines = true ∨ 512 < rangesHeld s cid + k.sides ∨ crushFree s k.fn k.group = false) := by
    have := k.sides_le
    simp only [hblocked, hfree, Bool.false_eq_true, false_or, Bool.true_eq_false, or_false]
    omega
  have hsent : Sends k.fn (inFlight s cid c k) (countsTold (inFlight s cid c k) cid (crushOf c) k) := countsTold_sends hopen
  have hnone : (countsTold (inFlight s cid c k) cid (crushOf c) k).crush.early = [] := by rw [hsent.crush]; exact hearly
  refine (if_neg hroom).trans ?_
  show showCrush (tryReport (takeEarly (countsTold (inFlight s cid c k) cid (crushOf c) k) cid k) cid) k.fn = _
  rw [takeEarly_of_none hnone]

/-- On a leaf the new collective has reported, where it does not wait for counts; beside that its function's messages have left. -/
theorem joinColl_leaf (hopen : MembersOpen s k) (hnew : k.reported = false) (hcounts : k.counts = []) (hrank : k.rank ≠ 0)
    (hpos : 0 < k.members.length) (hleaf : k.members.length ≤ 8 * k.rank + 1) :
    ∃ t, joinColl s cid c k = showCrush t k.fn ∧ getColl t cid = some { k with reported := !(crushOf c).isV } ∧
      t.crush = { s.crush with colls := t.crush.colls } ∧ t.work = (inFlight s cid c k).work ∧ Kept [.regs, .work, .fab, .crush, .out, .free] s t := by
  have hkept : Kept [.regs, .work, .fab, .crush, .out, .free] s (inFlight s cid c k) :=
    putColl_kept (putCmd_kept (Kept.setWork (.refl _ s) rfl) rfl) rfl
  rw [joinColl_of_room hearly hblocked hheld hfree hopen]
  cases hV : (crushOf c).isV with
  | true =>
    have hsent : Sends k.fn (inFlight s cid c k) (countsTold (inFlight s cid c k) cid (crushOf c) k) := countsTold_sends hopen
    have hk : getColl (countsTold (inFlight s cid c k) cid (crushOf c) k) cid = some k := by
      rw [getColl, hsent.crush]; exact getColl_putColl_same ..
    have hc : getCmd (countsTold (inFlight s cid c k) cid (crushOf c) k) cid = some (joinedCmd s c k) := by
      rw [getCmd, hsent.work]; exact mapFind_mapSet_same ..
    rw [tryReport_waits hk hc hV hcounts hrank hpos]
    have hwaits : { k with reported := !true } = k := by rw [Bool.not_true, ← hnew]
    exact ⟨_, rfl, hk.trans (congrArg some hwaits.symm), by rw [hsent.crush]; rfl, hsent.work, hkept.app rfl hsent.1⟩
  | false =>
    have hsilent : countsTold (inFlight s cid c k) cid (crushOf c) k = inFlight s cid c k := by simp [countsTold, hV]
    have hk : getColl (inFlight s cid c k) cid = some k := getColl_putColl_same ..
    have hc : getCmd (inFlight s cid c k) cid = some (joinedCmd s c k) := mapFind_mapSet_same ..
    rw [hsilent, tryReport_reports hk hc hV hnew hrank hleaf]
    have hsent : Sends k.fn (putColl (inFlight s cid c k) cid { k with reported := true }) _ :=
      sendColl_sends (cid := cid) (rk := (k.rank - 1) / 8) (phase := .desc) (payload := [])
        (m := leafReport (putColl (inFlight s cid c k) cid { k with reported := true }) k) hopen rfl rfl
    exact ⟨_, rfl, by rw [getColl, hsent.crush]; exact getColl_putColl_same .., by rw [hsent.crush]; rfl, hsent.work,
      (putColl_kept hkept rfl).app rfl hsent.1⟩

end

/-! ### The checks (R126, R235) -/

section
variable {s : State} {cid q f entry rank op : Nat} {c : Cmd} {members : List (Nat × Nat)} {bs : List Byte} {cnt a b st : List (Nat × Nat)}

theorem crushStart_of_checked {k : Coll} {send recv : List Nat} (ho : c.owner = .queue f q)
    (hshape : (crushOf c).shapeBad k.members.length k.rank send recv = false)
    (ha : crRuns s f (crushOf c).src ((crushOf c).inLen k.members.length k.rank send recv) false = (s, .ok a))
    (hb : crRuns s f (crushOf c).dst ((crushOf c).outLen k.members.length k.rank recv) true = (s, .ok b))
    (hst : crRuns s f (crushOf c).stage ((crushOf c).outLen k.members.length k.rank recv) true = (s, .ok st))
    (hquota : quotaBad s f false = false) (hpir : f = 0 ∨ rdLive s Reg.fabVfPir f ≠ 0) :
    crushStart s cid c k send recv = joinColl s cid c { k with src := a, dst := b, stg := st, sendCounts := send, recvCounts := recv } := by
  have hfn : c.owner.fn = f := by rw [ho]; rfl
  have hpoliced : ¬ (f ≠ 0 ∧ rdLive s Reg.fabVfPir f = 0) := fun h => hpir.elim h.1 fun hne => hne h.2
  simp only [crushStart, hfn, hshape, ha, hb, hst, hquota, if_neg hpoliced, Bool.false_eq_true, if_false]

theorem crushCmd_of_checked (hc : getCmd s cid = some c) (ho : c.owner = .queue f q) (hopcode : c.opcode = 4) (hlen : c.bodyLen = 1)
    (hready : streamReady s c = true) (hbad : (crushOf c).bad = false) (hgroup : crGroupRead s f (crushOf c).group = (s, .ok (entry, members, rank)))
    (hshape : (crushOf c).shapeBad members.length rank [] [] = false) (hcrusher : fnReady s 14 = true)
    (hfabric : members.length ≤ 1 ∨ fnReady s 15 = true)
    (hcnt : crRuns s f (crushOf c).counts ((crushOf c).countBytes members.length) false = (s, .ok cnt))
    (hblocked : rangeBlocked s cid s.work.nextSeq (runLines cnt false) = false) (hpaid : runCost cnt false ≤ c.tokens + c.lent)
    (hread : readRuns s 0 c.tag cnt = (s, .ok bs)) (hop : (crushOf c).op = op) :
    crushCmd s cid op = crushStart s cid c { newColl s c entry members rank with cnt := cnt }
      (countsOf (crushOf c) members.length bs).1 (countsOf (crushOf c) members.length bs).2 := by
  have hfn : c.owner.fn = f := by rw [ho]; rfl
  have hturn : ¬ (c.opcode ≠ 4 ∨ c.owner.isRadio = true ∨ (!((crushOf c).op == op || (crushOf c).op == 0 || decide (9 < (crushOf c).op))) = true ∨
      streamReady s c = false) := by
    simp [hopcode, ho, Owner.isRadio, hop, hready]
  have hform : ¬ (c.bodyLen ≠ 1 ∨ (crushOf c).bad = true) := by simp [hlen, hbad]
  have hunits : ¬ ((!fnReady s 14) = true ∨ (1 < members.length ∧ (!fnReady s 15) = true)) := by
    rintro (h | ⟨hmany, h⟩)
    · simp [hcrusher] at h
    · exact hfabric.elim (fun hone => absurd hmany (Nat.not_lt.2 hone)) fun hup => by simp [hup] at h
  simp only [crushCmd, hc, hfn]
  rw [if_neg hturn, if_neg hform]
  simp only [hgroup, hshape, if_neg hunits, hcnt, hblocked, payDram_of_paid hpaid, hread, Bool.false_eq_true, if_false]

end

end Sys2Proof.Machine

section

open Sys2Proof Sys2Proof.Machine

/-- Settles O27: the nine rows run one command of the Crusher, whose checks pass by the premises, and the collective it starts is that of a leaf. -/
theorem collectivesJoin : Obligations.CollectivesJoin := by
  intro s cid q f entry rank c members bs cnt a b st x n send recv ranges hc ho hopcode hlen hready hbad hgroup hshape hcrusher hfabric hcnt
    hcntFree hpaid hread hshape' ha hb hst hquota hpir hblocked hheld hfree hearly hlost hopen hrank hleaf joined
  have hfn : c.owner.fn = f := by rw [ho]; rfl
  have hjoin (op : Nat) (hop : x.op = op) : joined (sweepLost (crushCmd s cid op)) := by
    set k : Coll := { newColl s c entry members rank with cnt := cnt, src := a, dst := b, stg := st, sendCounts := send, recvCounts := recv } with hk
    have hkfn : k.fn = f := hfn
    have hopen' : MembersOpen s k := fun d hd => by
      rw [hkfn]
      simpa [fabClass] using List.all_eq_true.1 hopen d hd
    have hpos : 0 < k.members.length := by
      simp only [CrCmd.shapeBad, Bool.or_eq_false_iff, decide_eq_false_iff_not] at hshape
      obtain ⟨⟨hroot, -⟩, -⟩ := hshape
      exact Nat.zero_lt_of_lt (Nat.not_le.1 hroot)
    have hrun : crushCmd s cid op = joinColl s cid c k := by
      rw [crushCmd_of_checked hc ho hopcode hlen hready hbad hgroup hshape hcrusher hfabric hcnt hcntFree hpaid hread hop]
      exact crushStart_of_checked (k := { newColl s c entry members rank with cnt := cnt }) ho hshape' ha hb hst hquota hpir
    obtain ⟨t, ht, hcoll, hcrush, hwork, hkept⟩ :=
      joinColl_leaf (c := c) (k := k) hearly hblocked hheld (hkfn ▸ hfree) hopen' rfl rfl hrank hpos hleaf
    have hnone : (showCrush t k.fn).crush.lost = [] := by
      show t.crush.lost = []
      rw [hcrush]; exact hlost
    rw [hrun, ht, sweepLost_of_none hnone]
    refine ⟨?_, ⟨_, hcoll, hkfn, rfl, rfl, rfl, rfl, rfl, rfl, rfl, rfl, rfl, rfl, rfl, rfl, rfl, rfl, rfl, rfl, rfl, rfl⟩, ?_, ?_, ?_, ?_, ?_⟩
    · show mapFind t.work.cmds cid = _
      rw [hwork]; exact mapFind_mapSet_same ..
    · exact congrArg Work.nextSeq hwork
    · intro j hj
      show mapFind t.work.cmds j = _
      rw [hwork]
      exact (mapFind_mapSet ..).trans (if_neg (List.ne_of_not_mem_cons hj).symm)
    · show t.work.tallies = _
      rw [hwork]; rfl
    · show t.crush.early = []
      rw [hcrush]; exact hearly
    · exact (showCrush_kept hkept rfl).1
  exact ⟨fun hop => ⟨_, exec_allReduce .., hjoin 1 hop⟩, fun hop => ⟨_, exec_reduce .., hjoin 2 hop⟩,
    fun hop => ⟨_, exec_reduceScatter .., hjoin 3 hop⟩, fun hop => ⟨_, exec_broadcast .., hjoin 4 hop⟩,
    fun hop => ⟨_, exec_allGather .., hjoin 5 hop⟩, fun hop => ⟨_, exec_allToAll .., hjoin 6 hop⟩,
    fun hop => ⟨_, exec_allGatherV .., hjoin 7 hop⟩, fun hop => ⟨_, exec_allToAllV .., hjoin 8 hop⟩,
    fun hop => ⟨_, exec_barrier .., hjoin 9 hop⟩⟩

end

end

section
/-! SUPPORT. A collective whose command is no command of the Crusher: no dispatch leaves one, but the command store can list it. It is a SLAB
command that closes a chain, and what ends it completes the chain's member with it (R71). -/

namespace Sys2Proof.Machine

theorem exec_abort (m : CollMsg) (s : State) : exec (.abort m) s = execAbort m s := rfl

/-- A collective of PF0's group 0 that runs on node 1 and, as its rank 1, on this device. -/
def pairColl : Coll := { (default : Coll) with op := 9, members := [(1, 0), (0, 0)], rank := 1 }

/-- A SLAB command of queue 0 of PF0, a chain member or the one that closes the chain (R70). -/
def slabCmd (idx drain : Nat) : Cmd := Cmd.fresh (.queue 0 0) idx (1 + 1 * 2 ^ 4 + 2 * 2 ^ 32 + drain * 2 ^ (512 + 107)) 192

def closingSlab : Cmd := { slabCmd 1 1 with st := .dispatched, chain := [8] }

def chainedSlab : Cmd := { slabCmd 0 0 with st := .issued }

/-- PF0 is of job 1, node 1 has been seen, and the closing command is listed with the collective. -/
def slabCollState : State :=
  { State.reset with
    regs := [(fldKey Reg.fabVfJob 0, 1)]
    fab := { State.reset.fab with seenInc := [(1, 0)] }
    work := { State.reset.work with cmds := [(7, closingSlab), (8, chainedSlab)] }
    crush := { State.reset.crush with colls := [(7, pairColl)] } }

/-- Node 1 gives the collective up (R248). -/
def abortMsg : CollMsg :=
  { collBlank slabCollState pairColl with
    msg := ({ Msg.blank with kind := .coll, cls := .s, srcNode := 1, job := 1 } : Msg).sealed
    status := .collMemberLost }

theorem collArrives_abortMsg : CollArrives slabCollState abortMsg 7 pairColl closingSlab 0 = true := by
  have hcheck : abortMsg.msg.check = msgCheck abortMsg.msg := Msg.sealed_check _
  simp only [CollArrives, TakenNow, Bool.and_eq_true, beq_iff_eq, and_assoc]
  refine ⟨?_, ?_, hcheck, ?_, ?_, ?_, ?_, ?_, ?_, ?_, rfl, rfl, rfl, ?_, rfl⟩ <;> decide

/-- The abort completes the member of the chain. -/
theorem abort_closingSlab : passes (execAbort abortMsg slabCollState) (fun t => (getCmd t 8).map (·.st) == some .done) = true := by
  decide +kernel

end Sys2Proof.Machine

section

open Sys2Proof Sys2Proof.Machine

/-- Refutes O28: an ABORT ends a collective whose listed command closes a SLAB chain, and completes the chain's other member with it (R71),
where the statement says that no other command changes. It has no premise that the collective's command is a CRUSHER command. -/
theorem not_collectiveMessages : ¬ Obligations.CollectiveMessages := by
  intro h
  obtain ⟨-, -, -, -, -, -, -, -, -, -, habort, -⟩ := h slabCollState abortMsg 7 0 0 0 pairColl closingSlab collArrives_abortMsg rfl (by decide)
  obtain ⟨t, ht, ⟨-, -, hothers, -⟩, -⟩ := habort (by decide) (by decide) (by decide)
  have hdone : (getCmd t 8).map (·.st) = some .done := eq_of_beq (of_passes abort_closingSlab ((exec_abort ..).symm.trans ht))
  rw [hothers 8 (by decide)] at hdone
  exact absurd hdone (by decide)

end

end

section
/-! SUPPORT. A CRUSHER command past its point of no return that is listed with a shadow frame: no dispatch leaves one, but the command store
can list it. -/

namespace Sys2Proof.Machine

theorem exec_stageCopyDone (cid : Nat) (s : State) : exec (.stageCopyDone cid) s = execStageCopyDone cid s := rfl

/-- A BROADCAST of PF0's queue 0 past its point of no return, with the frame of one page. -/
def heldBroadcast : Cmd :=
  { Cmd.fresh (.queue 0 0) 0 (1 + 4 * 2 ^ 4 + 2 ^ 32 + 4 * 2 ^ 512) 128 with st := .committing, held := true, wpages := [0] }

/-- Its collective, with one byte of output at the device's first line and of stage at its second. -/
def byteColl : Coll := { pairColl with op := 4, dst := [(0, 1)], stg := [(64, 1)], verdict := some true, staged := true }

def heldCollState : State :=
  { State.reset with
    work := { State.reset.work with cmds := [(7, heldBroadcast)] }
    crush := { State.reset.crush with colls := [(7, byteColl)] } }

/-- The copy completes the command, and its frame is released to zeroing on bench 0 (R82). -/
theorem stageCopyDone_heldBroadcast : passes (execStageCopyDone 7 heldCollState) (fun t => (getBench t 0).zeroing == 1) = true := by
  decide +kernel

end Sys2Proof.Machine

section

open Sys2Proof Sys2Proof.Machine

/-- Refutes O29: the completion of a collective's command releases the shadow frames that the command holds (R82), so a command listed with one
leaves a frame to zero on its bench, where the statement says that no bench changes. It has no premise that the command holds none. -/
theorem not_collectiveEnds : ¬ Obligations.CollectiveEnds := by
  intro h
  obtain ⟨-, -, hcopy, -⟩ := h heldCollState 7 0 0 64 1 byteColl heldBroadcast 0 (0, 0) rfl rfl rfl rfl (by decide)
  obtain ⟨t, ht, -, -, -, -, -, -, hparts⟩ := hcopy rfl rfl rfl rfl (by decide)
  have hyards : t.yards = heldCollState.yards := hparts .yards (by decide)
  have hzero : (getBench t 0).zeroing = 1 := eq_of_beq (of_passes stageCopyDone_heldBroadcast ((exec_stageCopyDone ..).symm.trans ht))
  rw [getBench, hyards] at hzero
  exact absurd hzero (by decide)

end

end

section
/-! SUPPORT. The time base's states (chapter 09, Table 09.3) and its G-clock (R260): what the loss and the return of reference and source,
the lock, the end of holdover, and a step on an empty queue leave. -/

namespace Sys2Proof.Machine

/-! ### One G-clock (R260) -/

theorem step_of_no_pending {s : State} (h : s.pending = []) : step s = .next (tick s) := by
  unfold step
  rw [h]

theorem tick_of_not_clocked {s : State} (h : clocked s = false) : tick s = s := if_neg (by simp [h])

/-- The addend goes into the fraction, whole nanoseconds into the count, and the G-clock is counted. -/
theorem tick_clock_of_clocked {s : State} (h : clocked s = true) :
    (tick s).clock.ns = (s.clock.ns + (s.clock.frac + rd s Reg.timeAddendAddend 0) / 2 ^ 32) % 2 ^ 64 ∧
      (tick s).clock.frac = (s.clock.frac + rd s Reg.timeAddendAddend 0) % 2 ^ 32 ∧ (tick s).clock.g = s.clock.g + 1 := by
  unfold tick
  rw [if_pos h]
  exact ⟨rfl, rfl, rfl⟩

theorem tick_onlyParts (s : State) : OnlyParts [.regs, .yards, .fab, .clock, .out] s (tick s) := (tick_kept (.refl _ s) rfl).1

/-! ### The rows as the model's own meanings -/

theorem exec_referenceLoss (s : State) : exec .referenceLoss s =
    .next (timeLost (healthCause (wr (wr s Reg.timeClkStatusRefOk 0 0) Reg.timeClkStatusRefLost 0 1) Reg.healthCauseTime)) := rfl

theorem exec_referenceReturn (s : State) : exec .referenceReturn s = .next (timeAcquire (wr s Reg.timeClkStatusRefOk 0 1)) := rfl

theorem exec_pllLockLoss_serdes (s : State) : exec (.pllLockLoss .serdes) s =
    .next (healthCause (wr (wr s Reg.timeClkStatusSerdesLock 0 0) Reg.timeClkStatusLockLost 0 1) Reg.healthCauseTime) := rfl

theorem exec_sourceLoss (s : State) : exec .sourceLoss s = .next (sourceLost s) := rfl

theorem exec_announceTimeout (s : State) : exec .announceTimeout s = .next (if timeSrc s = 1 then sourceLost s else s) := rfl

theorem exec_ppsLoss (s : State) : exec .ppsLoss s = .next (if timeSrc s = 2 then sourceLost s else s) := rfl

theorem exec_leaderLoss (s : State) : exec .leaderLoss s = .next (if timeSrc s = 3 then sourceLost s else s) := rfl

theorem exec_sourceReturn (s : State) : exec .sourceReturn s =
    .next (if timeSrc s = 0 then s else timeAcquire { s with clock := { s.clock with srcOk := true } }) := rfl

theorem exec_lockAchieved (s : State) : exec .lockAchieved s = .next (if timeSt s = 1 ∧ followed s ∧ lockDue s then
    timeReady (setTimeSt { s with clock := { s.clock with everLocked := true, holdSince := none } } 2) else s) := rfl

theorem exec_holdoverExpired (s : State) :
    exec .holdoverExpired s = .next (if timeSt s = 3 ∧ holdExpired s then muteCells (setTimeSt s 4) else s) := rfl

/-! ### The time state and TIME's health cause -/

theorem timeSt_setTimeSt (s : State) (v : Nat) : timeSt (setTimeSt s v) = v % 8 := rd_wr_same ..

/-- A write of the time state leaves every field of another place. -/
theorem rd_setTimeSt_of_ne {s : State} {v : Nat} {f : Fld} {i : Nat} (h : fldKey f i ≠ fldKey Reg.timeStateState 0) :
    rd (setTimeSt s v) f i = rd s f i :=
  rd_wr_ne _ _ _ _ _ _ h.symm

/-- A cell's entry lies apart from the time state. -/
theorem cell_keys_ne_timeState (j : Nat) : fldKey Reg.cellState j ≠ fldKey Reg.timeStateState 0 ∧
    fldKey Reg.cellHoldMute j ≠ fldKey Reg.timeStateState 0 := by
  simp only [fldKey, Reg.cellState, Reg.cellHoldMute, Reg.timeStateState]
  omega

theorem setTimeSt_onlyRegs (s : State) (v : Nat) : OnlyRegs [(Reg.timeStateState, 0)] s (setTimeSt s v) :=
  (OnlyRegs.refl _ s).wr (by simp)

theorem OnlyRegs.healthCause {ks : List (Fld × Nat)} {s0 s : State} {c : Fld} (h : OnlyRegs ks s0 s) (hk : (c, 0) ∈ ks) :
    OnlyRegs ks s0 (healthCause s c) :=
  (h.wr hk).of_regs (healthIrq_regs _)

theorem rd_healthCause_same (s : State) (c : Fld) : rd (healthCause s c) c 0 = 1 % 2 ^ c.width :=
  (rd_congr (healthIrq_regs _) c 0).trans (rd_wr_same ..)

/-! ### The cells of the plan (R283) -/

theorem muteCells_of_one_cell {s : State} {j : Nat} {p : CellPlan} (h : s.radio.plan = [(j, p)]) :
    muteCells s = if rd s Reg.cellState j = 4 ∧ rd s Reg.cellHoldMute j ≠ 0 then wr s Reg.cellState j 5 else s := by
  unfold muteCells
  simp [h, cellSt, rdB]

theorem rd_muteCells_of_one_cell {s : State} {j : Nat} {p : CellPlan} (h : s.radio.plan = [(j, p)]) :
    rd (muteCells s) Reg.cellState j =
      if rd s Reg.cellState j = 4 ∧ rd s Reg.cellHoldMute j ≠ 0 then 5 else rd s Reg.cellState j := by
  rw [muteCells_of_one_cell h, apply_ite (fun t => rd t Reg.cellState j), rd_wr_same]
  rfl

/-- Muting moves no cell but those of the plan. -/
theorem muteCells_onlyRegs {s : State} {j : Nat} (h : ∀ e ∈ s.radio.plan, e.1 = j) : OnlyRegs [(Reg.cellState, j)] s (muteCells s) := by
  unfold muteCells
  refine List.foldlRecOn _ _ (.refl _ s) fun u hu e he => ?_
  split
  · exact hu.wr (by rw [h e he]; exact List.mem_singleton_self _)
  · exact hu

theorem muteCells_clock (s : State) : (muteCells s).clock = s.clock := (muteCells_kept (.refl [.regs] s) rfl).1 .clock (by decide)

/-! ### A loss (R268, R269) -/

theorem timeLost_of_locked {s : State} (h : timeSt s = 2) :
    timeLost s = setTimeSt { s with clock := { s.clock with holdSince := some s.clock.up } } 3 := by
  unfold timeLost
  rw [h]; rfl

theorem timeLost_of_acquiring {s : State} (h : timeSt s = 1) : timeLost s =
    if s.clock.everLocked then (if holdExpired s then muteCells (setTimeSt (setBelow s none) 4) else setTimeSt (setBelow s none) 3)
    else setBelow s none := by
  unfold timeLost
  rw [h]; rfl

theorem timeLost_of_other {s : State} (h1 : timeSt s ≠ 1) (h2 : timeSt s ≠ 2) : timeLost s = s := by
  unfold timeLost
  split
  · exact absurd ‹_› h2
  · exact absurd ‹_› h1
  · rfl

theorem timeLost_onlyRegs {s : State} {j : Nat} (hplan : ∀ e ∈ s.radio.plan, e.1 = j) :
    OnlyRegs [(Reg.timeStateState, 0), (Reg.cellState, j)] s (timeLost s) := by
  by_cases h2 : timeSt s = 2
  · rw [timeLost_of_locked h2]; exact ((OnlyRegs.refl _ s).of_regs rfl).wr (by simp)
  by_cases h1 : timeSt s = 1
  case neg => rw [timeLost_of_other h1 h2]; exact .refl _ s
  have hset : ∀ v, OnlyRegs [(Reg.timeStateState, 0), (Reg.cellState, j)] s (setTimeSt (setBelow s none) v) :=
    fun v => ((OnlyRegs.refl _ s).of_regs (t := setBelow s none) rfl).wr (by simp)
  rw [timeLost_of_acquiring h1]
  split
  · split
    · exact (hset 4).trans ((muteCells_onlyRegs (s := setTimeSt (setBelow s none) 4) hplan).mono (by simp))
    · exact hset 3
  · exact (OnlyRegs.refl _ s).of_regs rfl

theorem timeLost_ns (s : State) : (timeLost s).clock.ns = s.clock.ns := by
  by_cases h2 : timeSt s = 2
  · rw [timeLost_of_locked h2]; rfl
  by_cases h1 : timeSt s = 1
  case neg => rw [timeLost_of_other h1 h2]
  rw [timeLost_of_acquiring h1]
  split
  · split
    · rw [muteCells_clock]; rfl
    · rfl
  · rfl

/-- The source of a LOCKED time is lost: HOLDOVER, with its start noted. -/
theorem sourceLost_of_locked {s : State} (hsrc : timeSrc s ≠ 0) (hst : timeSt s = 2) :
    rd (sourceLost s) Reg.timeStateState 0 = 3 ∧ (sourceLost s).clock = { s.clock with srcOk := false, holdSince := some s.clock.up } ∧
      OnlyRegs [(Reg.timeStateState, 0)] s (sourceLost s) ∧ OnlyParts [.regs, .clock] s (sourceLost s) := by
  have heq : sourceLost s = setTimeSt { s with clock := { s.clock with srcOk := false, holdSince := some s.clock.up } } 3 :=
    (if_neg hsrc).trans (timeLost_of_locked hst)
  refine ⟨?_, ?_, ?_, (sourceLost_kept (.refl _ s) rfl).1⟩ <;> rw [heq]
  · exact timeSt_setTimeSt _ 3
  · rfl
  · exact setTimeSt_onlyRegs _ 3

/-! ### A loss that TIME_CLK_STATUS shows (R255, R277) -/

/-- A bit clears, its sticky one is set, and so is TIME's health cause: each of the three reads as written, where no two share a place. -/
theorem rd_healthCause_wr_wr (s : State) {ok lost : Fld} (hlost : fldKey lost 0 ≠ fldKey ok 0)
    (hok : fldKey Reg.healthCauseTime 0 ≠ fldKey ok 0) (hcause : fldKey Reg.healthCauseTime 0 ≠ fldKey lost 0) (hw : lost.width = 1) :
    let u := healthCause (wr (wr s ok 0 0) lost 0 1) Reg.healthCauseTime
    rd u ok 0 = 0 ∧ rd u lost 0 = 1 ∧ rd u Reg.healthCauseTime 0 = 1 := by
  refine ⟨?_, ?_, rd_healthCause_same ..⟩
  · exact (rd_healthCause_of_ne hok).trans ((rd_wr_ne _ _ _ _ _ _ hlost).trans ((rd_wr_same ..).trans (Nat.zero_mod _)))
  · exact (rd_healthCause_of_ne hcause).trans ((rd_wr_same ..).trans (by rw [hw]; rfl))

theorem healthCause_wr_wr_onlyRegs (s : State) (ok lost : Fld) : OnlyRegs [(ok, 0), (lost, 0), (Reg.healthCauseTime, 0)] s
    (healthCause (wr (wr s ok 0 0) lost 0 1) Reg.healthCauseTime) :=
  (((OnlyRegs.refl _ s).wr (by simp)).wr (by simp)).healthCause (by simp)

theorem healthCause_wr_wr_kept (s : State) (ok lost : Fld) : Kept [.regs, .ten, .out] s
    (healthCause (wr (wr s ok 0 0) lost 0 1) Reg.healthCauseTime) :=
  healthCause_kept (wr_kept (wr_kept (.refl _ s) rfl) rfl) rfl

section
variable {s u : State}

/-- A LOCKED time whose loss is told without touching its state or clock goes to HOLDOVER, with its start noted. -/
theorem timeLost_of_locked_clock (hst : timeSt u = 2) (hclock : u.clock = s.clock) :
    rd (timeLost u) Reg.timeStateState 0 = 3 ∧ (timeLost u).clock = { s.clock with holdSince := some s.clock.up } := by
  rw [timeLost_of_locked hst, hclock]
  exact ⟨timeSt_setTimeSt _ 3, rfl⟩

/-- What was told before the loss stands: neither the time state nor a cell's state has the place of one of these bits. -/
theorem rd_timeLost_told {j : Nat} (h : ∀ e ∈ u.radio.plan, e.1 = j) :
    rd (timeLost u) Reg.timeClkStatusRefOk 0 = rd u Reg.timeClkStatusRefOk 0 ∧
      rd (timeLost u) Reg.timeClkStatusRefLost 0 = rd u Reg.timeClkStatusRefLost 0 ∧
      rd (timeLost u) Reg.healthCauseTime 0 = rd u Reg.healthCauseTime 0 := by
  have hkeep : ∀ f, fldKey f 0 ≠ fldKey Reg.timeStateState 0 → fldKey f 0 ≠ fldKey Reg.cellState j →
      rd (timeLost u) f 0 = rd u f 0 := fun f hstate hcell => timeLost_onlyRegs h f 0 (by simp [hstate, hcell])
  refine ⟨hkeep _ (by decide) ?_, hkeep _ (by decide) ?_, hkeep _ (by decide) ?_⟩ <;>
    simp only [fldKey, Reg.timeClkStatusRefOk, Reg.timeClkStatusRefLost, Reg.healthCauseTime, Reg.cellState] <;> omega

end

/-! ### A return (R268, R269) -/

theorem timeAcquire_of_followed {s : State} (h : followed s = true ∧ (timeSt s = 0 ∨ timeSt s = 3 ∨ timeSt s = 4)) :
    timeAcquire s = setTimeSt (setBelow s none) 1 := if_pos h

theorem timeAcquire_of_not {s : State} (h : ¬ (followed s = true ∧ (timeSt s = 0 ∨ timeSt s = 3 ∨ timeSt s = 4))) : timeAcquire s = s :=
  if_neg h

theorem timeAcquire_onlyRegs (s : State) : OnlyRegs [(Reg.timeStateState, 0)] s (timeAcquire s) := by
  by_cases h : followed s = true ∧ (timeSt s = 0 ∨ timeSt s = 3 ∨ timeSt s = 4)
  · rw [timeAcquire_of_followed h]; exact setTimeSt_onlyRegs (setBelow s none) 1
  · rw [timeAcquire_of_not h]; exact .refl _ s

/-- ACQUIRING begins, with the count toward LOCKED from zero, where reference and source of a time that does not acquire yet are both there;
otherwise state and clock stay. -/
theorem timeAcquire_acquired {s : State} {go : Prop} {st : Nat}
    (hgo : go ↔ followed s = true ∧ (timeSt s = 0 ∨ timeSt s = 3 ∨ timeSt s = 4)) (hst : timeSt s = st) :
    (go → rd (timeAcquire s) Reg.timeStateState 0 = 1 ∧ (timeAcquire s).clock = { s.clock with below := none }) ∧
      (¬ go → rd (timeAcquire s) Reg.timeStateState 0 = st ∧ (timeAcquire s).clock = s.clock) := by
  refine ⟨fun h => ?_, fun h => ?_⟩
  · rw [timeAcquire_of_followed (hgo.1 h)]; exact ⟨timeSt_setTimeSt _ 1, rfl⟩
  · rw [timeAcquire_of_not fun ha => h (hgo.2 ha)]; exact ⟨hst, rfl⟩

theorem timeSt_wr_refOk (s : State) (v : Nat) : timeSt (wr s Reg.timeClkStatusRefOk 0 v) = timeSt s := rd_wr_ne _ _ _ _ _ _ (by decide)

/-- Once the reference is there, a time is followed that has a source that is there. -/
theorem followed_wr_refOk (s : State) : followed (wr s Reg.timeClkStatusRefOk 0 1) = true ↔ timeSrc s ≠ 0 ∧ s.clock.srcOk = true := by
  have hsrc : timeSrc (wr s Reg.timeClkStatusRefOk 0 1) = timeSrc s := rd_wr_ne _ _ _ _ _ _ (by decide)
  have href : rdB (wr s Reg.timeClkStatusRefOk 0 1) Reg.timeClkStatusRefOk 0 = true := rdB_of_ne (by rw [rd_wr_same]; decide)
  unfold followed
  simp [hsrc, href]

/-- Once the source is there, a time is followed whose reference is there. -/
theorem followed_srcOk {s : State} (hsrc : timeSrc s ≠ 0) :
    followed { s with clock := { s.clock with srcOk := true } } = rdB s Reg.timeClkStatusRefOk 0 := by
  change (timeSrc s != 0 && true && rdB s Reg.timeClkStatusRefOk 0) = _
  simp [hsrc]

/-! ### Lock (R268, R263) -/

/-- RADIO's report moves cells and its own function, so a field below the cells that is no part of a report stays. -/
theorem rd_radioReady_below_cells {s : State} {f : Fld} {i : Nat} (hlow : fldKey f i < fldKey Reg.cellState 0)
    (hfn : rd (fnSet s 17 2 .ok) f i = rd s f i) : rd (radioReady s) f i = rd s f i := by
  unfold radioReady
  dsimp only
  split
  case isFalse => rfl
  refine (rd_foldl (fun e _ u => ?_) _).trans hfn
  split
  · exact rd_wr_ne _ _ _ _ _ _ (by simp only [fldKey, Reg.cellState] at hlow ⊢; omega)
  · rfl

theorem rd_timeReady_timeState (s : State) : rd (timeReady s) Reg.timeStateState 0 = rd s Reg.timeStateState 0 := by
  unfold timeReady
  split
  · rfl
  · exact (rd_radioReady_below_cells (by decide) (rd_fnSet_of_not_reportKey (by decide) rfl)).trans
      (rd_fnSet_of_not_reportKey (by decide) rfl)

theorem fnReady_timeReady (s : State) : fnReady (timeReady s) 16 = true := by
  unfold timeReady
  split
  · assumption
  · have h : rd (radioReady (fnSet s 16 2 .ok)) Reg.readyFnState 16 = 2 :=
      (rd_radioReady_below_cells (by decide) (rd_fnSet_state ..)).trans (rd_fnSet_state ..)
    simp [fnReady, h]

end Sys2Proof.Machine

section

open Sys2Proof Sys2Proof.Machine

/-- Settles O2: the tick names the time base's new values itself, and its frame is a law of its own. -/
theorem emptyQueuePassesOneGClock : Obligations.EmptyQueuePassesOneGClock := by
  intro s hs
  refine ⟨fun h => ?_, fun h => ?_⟩
  · rw [step_of_no_pending hs, tick_of_not_clocked h]
  · obtain ⟨hns, hfrac, hg⟩ := tick_clock_of_clocked h
    exact ⟨_, step_of_no_pending hs, hns, hfrac, hg, tick_onlyParts s⟩

/-- Settles O38: each row is a loss, a return, the lock or the end of holdover, run on the case its premises name. -/
theorem timeStatesFollow : Obligations.TimeStatesFollow := by
  intro s j _ hone st src starts held acquired ref
  have hplan : ∀ e ∈ s.radio.plan, e.1 = j := by
    rcases hone with h | h <;> rw [h] <;> simp
  refine ⟨?referenceLoss, ?referenceReturn, ?pllLoss, fun hsrc hst => ⟨_, exec_sourceLoss s, sourceLost_of_locked hsrc hst⟩,
    fun hsrc hst => ⟨_, (exec_announceTimeout s).trans (congrArg _ (if_pos hsrc)), sourceLost_of_locked (hsrc.trans_ne (by decide)) hst⟩,
    fun hsrc hst => ⟨_, (exec_ppsLoss s).trans (congrArg _ (if_pos hsrc)), sourceLost_of_locked (hsrc.trans_ne (by decide)) hst⟩,
    fun hsrc hst => ⟨_, (exec_leaderLoss s).trans (congrArg _ (if_pos hsrc)), sourceLost_of_locked (hsrc.trans_ne (by decide)) hst⟩,
    fun hsrc => ⟨s, (exec_announceTimeout s).trans (congrArg _ (if_neg hsrc)), rfl⟩,
    fun hsrc => ⟨s, (exec_ppsLoss s).trans (congrArg _ (if_neg hsrc)), rfl⟩,
    fun hsrc => ⟨s, (exec_leaderLoss s).trans (congrArg _ (if_neg hsrc)), rfl⟩, ?sourceReturn, ?lock, ?noLock, ?expired, ?notExpired⟩
  case referenceLoss =>
    have hkept := healthCause_wr_wr_kept s Reg.timeClkStatusRefOk Reg.timeClkStatusRefLost
    have hregs := healthCause_wr_wr_onlyRegs s Reg.timeClkStatusRefOk Reg.timeClkStatusRefLost
    obtain ⟨hok, hlost, hcause⟩ := rd_healthCause_wr_wr s (ok := Reg.timeClkStatusRefOk) (lost := Reg.timeClkStatusRefLost)
      (by decide) (by decide) (by decide) rfl
    have hclock := hkept.1 .clock (by decide)
    have hstate : timeSt _ = timeSt s := hregs _ _ (by decide)
    have hradio : State.radio _ = s.radio := hkept.1 .radio (by decide)
    have hplanTold := hplan
    rw [← hradio] at hplanTold
    obtain ⟨hokStays, hlostStays, hcauseStays⟩ := rd_timeLost_told hplanTold
    refine ⟨_, exec_referenceLoss s, hokStays.trans hok, hlostStays.trans hlost, hcauseStays.trans hcause,
      fun hst => timeLost_of_locked_clock (hstate.trans hst) hclock, fun (hst : timeSt s = 0 ∨ 3 ≤ timeSt s) => ?_,
      (timeLost_ns _).trans (congrArg Clock.ns hclock), (hregs.mono (by simp [ref])).trans ((timeLost_onlyRegs hplanTold).mono (by simp [ref])),
      (timeLost_kept (Kept.app (.refl [.regs, .ten, .clock, .out] s) rfl hkept) rfl).1⟩
    rw [timeLost_of_other (by omega) (by omega)]
    exact hstate
  case referenceReturn =>
    have hacquires := timeAcquire_acquired (s := wr s Reg.timeClkStatusRefOk 0 1) (go := src ≠ 0 ∧ s.clock.srcOk = true ∧ starts)
      (by rw [timeSt_wr_refOk, followed_wr_refOk, and_assoc]; rfl) (timeSt_wr_refOk s 1)
    refine ⟨_, exec_referenceReturn s, ?_, hacquires, ?_, ?_⟩
    · rw [timeAcquire_onlyRegs _ _ _ (by decide), rd_wr_same]; rfl
    · exact ((OnlyRegs.refl _ s).wr (by simp)).trans ((timeAcquire_onlyRegs _).mono (by simp))
    · exact (timeAcquire_kept (wr_kept (.refl _ s) rfl) rfl).1
  case pllLoss =>
    obtain ⟨hok, hlost, hcause⟩ := rd_healthCause_wr_wr s (ok := Reg.timeClkStatusSerdesLock) (lost := Reg.timeClkStatusLockLost)
      (by decide) (by decide) (by decide) rfl
    exact ⟨_, exec_pllLockLoss_serdes s, hok, hlost, hcause, healthCause_wr_wr_onlyRegs s _ _, (healthCause_wr_wr_kept ..).1⟩
  case sourceReturn =>
    intro hsrc
    refine ⟨_, (exec_sourceReturn s).trans (congrArg _ (if_neg hsrc)), timeAcquire_acquired (and_congr_left' (by rw [followed_srcOk hsrc])) rfl, ?_, ?_⟩
    · exact OnlyRegs.trans ((OnlyRegs.refl _ s).of_regs rfl) (timeAcquire_onlyRegs _)
    · exact (timeAcquire_kept (.setClock (.refl _ s) rfl) rfl).1
  case lock =>
    intro hst hfollowed hdue
    refine ⟨_, (exec_lockAchieved s).trans (congrArg _ (if_pos ⟨hst, hfollowed, hdue⟩)), ?_, ?_, fnReady_timeReady _, ?_⟩
    · exact (rd_timeReady_timeState _).trans (timeSt_setTimeSt _ 2)
    · exact (timeReady_kept (.refl [.regs] _) rfl).1 .clock (by decide)
    · exact (timeReady_kept (setTimeSt_kept (.setClock (.refl _ s) rfl) rfl) rfl).1
  case noLock =>
    intro h
    refine ⟨s, (exec_lockAchieved s).trans (congrArg _ (if_neg ?_)), rfl⟩
    rintro ⟨hst, hfollowed, hdue⟩
    rcases h with h | h | h
    · exact h hst
    · exact absurd hfollowed (by simp [h])
    · exact absurd hdue (by simp [h])
  case expired =>
    intro hst hexp
    obtain ⟨hcell, hmute⟩ := cell_keys_ne_timeState j
    refine ⟨_, (exec_holdoverExpired s).trans (congrArg _ (if_pos ⟨hst, hexp⟩)), ?_, fun hne => ?_, ?_, ?_⟩
    · exact (muteCells_onlyRegs (s := setTimeSt s 4) hplan _ _ (by simpa using hcell.symm)).trans (timeSt_setTimeSt s 4)
    · rw [rd_muteCells_of_one_cell (s := setTimeSt s 4) (hone.resolve_left hne), rd_setTimeSt_of_ne hcell, rd_setTimeSt_of_ne hmute]
    · exact ((setTimeSt_onlyRegs s 4).mono (by simp)).trans ((muteCells_onlyRegs (s := setTimeSt s 4) hplan).mono (by simp))
    · exact (muteCells_kept (setTimeSt_kept (.refl _ s) rfl) rfl).1
  case notExpired =>
    intro h
    refine ⟨s, (exec_holdoverExpired s).trans (congrArg _ (if_neg ?_)), rfl⟩
    rintro ⟨hst, hexp⟩
    rcases h with h | h
    · exact h hst
    · exact absurd hexp (by simp [h])

end
end

section
/-! SUPPORT. A firmware comparator's group whose target is wider than the register's 4 bits (R272, Table 09.5): an INTERRUPT has no target, so
the commit does not check it. -/

namespace Sys2Proof.Machine

theorem exec_trigCommit (k : BitVec 6) (group : Option TrigGroup) (arm : Bool) (s : State) :
    exec (.trigCommit k group arm) s = execTrigCommit k group arm s := rfl

/-- An INTERRUPT at time 0 with target 16. -/
def wideTarget : TrigGroup := { compareNs := 0, periodNs := 0, action := 6, target := 16 }

theorem trigBad_wideTarget : trigBad 0 wideTarget = false := by decide

/-- The comparator's committed target is what fits its 4 bits. -/
theorem trigCommit_wideTarget :
    passes (execTrigCommit 0 (some wideTarget) false State.reset) (fun t => (trigGroup t 0).target == 0) = true := by
  rfl

end Sys2Proof.Machine

section

open Sys2Proof Sys2Proof.Machine

/-- Refutes O40: a disarmed firmware comparator that commits an INTERRUPT with target 16 reads target 0 afterwards, where the statement says
that it reads the group's target. The clause cuts compare_ns and period_ns to their registers' widths but not the target, which the commit
checks only for the actions that have one, and it has no premise that the group is well formed. -/
theorem not_timestampsAndComparators : ¬ Obligations.TimestampsAndComparators := by
  intro h
  obtain ⟨-, -, -, -, -, -, -, htaken, -⟩ := h State.reset 0 0 0 wideTarget false default true default [] default []
  obtain ⟨t, ht, hgroup, -⟩ := htaken (by decide) trigBad_wideTarget rfl (.inr rfl)
  have hzero : (trigGroup t 0).target = 0 := eq_of_beq (of_passes trigCommit_wideTarget ((exec_trigCommit ..).symm.trans ht))
  have hwide : (trigGroup t 0).target = 16 := congrArg TrigGroup.target hgroup
  exact absurd (hzero.symm.trans hwide) (by decide)

end

end

section
/-! SUPPORT. FAPI ring pairs and cell requests (chapter 10, R281, R283, R289-R291): what a message on a pair leaves, what the FAPI event leaves
in the cores, and what the P5 rows and the slot indication answer. -/

namespace Sys2Proof.Machine

/-! ### Messages on a ring pair -/

/-- The registers of a pair that decide whether a message fits, and its count of dropped messages. -/
def pairFlds : List Fld :=
  [Reg.fapiRingEnable, Reg.fapiRingPasid, Reg.fapiRingIndBase, Reg.fapiRingIndLog2, Reg.fapiRingIndTail, Reg.fapiRingIndHead,
   Reg.fapiRingIndDataBase, Reg.fapiRingIndDataSize, Reg.fapiRingIndDropped]

/-- What a message of a pair writes. -/
def pairShown (k : Nat) : List (Fld × Nat) := [(Reg.fapiRingIndTail, k), (Reg.fapiRingIndDropped, k), (Reg.healthCauseRadio, 0)]

/-- A message that fits its pair is the newest output; one that does not is dropped and counted. -/
def Tells (k : Nat) (m : FapiInd) (s t : State) : Prop :=
  if (fapiPut s k (fapiEntry 0 0 m.place.1 m.place.2.1 m.place.2.2) (Config.fapiGroup m.fields)).isSome = true then
    t.out.head? = some (.fapi k m) ∧ rd t Reg.fapiRingIndDropped k = rd s Reg.fapiRingIndDropped k
  else rd t Reg.fapiRingIndDropped k = (rd s Reg.fapiRingIndDropped k + 1) % 2 ^ 32 ∧ rd t Reg.healthCauseRadio 0 = 1 ∧ t.host = s.host

/-- A message may have moved the place and the lengths in the data areas; the rest of the radio's state is as before. -/
def SameButAreas (s t : State) : Prop := t.radio = { s.radio with indPos := t.radio.indPos, indLens := t.radio.indLens }

/-- A pair is the same to a message. -/
def SamePair (k : Nat) (s t : State) : Prop :=
  (∀ f ∈ pairFlds, rd t f k = rd s f k) ∧ t.radio.indLens = s.radio.indLens ∧ t.host = s.host

/-- The entries of a pair's ring. -/
def pairEntries (s : State) (k : Nat) : Nat := 2 ^ rd s Reg.fapiRingIndLog2 k

/-- Entries of a pair's ring that are not known to be read. -/
def pairUnread (s : State) (k : Nat) : Nat :=
  (rd s Reg.fapiRingIndTail k % pairEntries s k + pairEntries s k - rd s Reg.fapiRingIndHead k % pairEntries s k) % pairEntries s k

/-- A pair has no room for n bytes and their entry, or cannot be written (R289, R291). -/
def PairRefuses (s : State) (k n : Nat) : Prop :=
  rdB s Reg.fapiRingEnable k = false ∨ rd s Reg.fapiRingIndLog2 k < 2 ∨ 12 < rd s Reg.fapiRingIndLog2 k ∨ pairUnread s k + 1 = pairEntries s k ∨
    rd s Reg.fapiRingIndDataSize k <
      ((mapGet s.radio.indLens k []).drop ((mapGet s.radio.indLens k []).length - pairUnread s k)).sum + n ∨
    hostOk s (rd s Reg.fapiRingPasid k) (rd s Reg.fapiRingIndDataBase k) (rd s Reg.fapiRingIndDataSize k) = false ∨
    hostOk s (rd s Reg.fapiRingPasid k) (rd s Reg.fapiRingIndBase k + 32 * (rd s Reg.fapiRingIndTail k % pairEntries s k)) 32 = false

section
variable {s t u : State} {k e : Nat} {bs : List Byte}

theorem fapiPut_isSome_iff : (fapiPut s k e bs).isSome = true ↔ ¬ PairRefuses s k bs.length := by
  unfold fapiPut PairRefuses pairUnread pairEntries
  dsimp only
  split
  next h => exact iff_of_false (by simp) (not_not.2 h)
  next h => exact iff_of_true rfl h

theorem SamePair.refuses_iff (h : SamePair k s u) (n : Nat) : PairRefuses u k n ↔ PairRefuses s k n := by
  obtain ⟨hregs, hlens, hhost⟩ := h
  simp only [pairFlds, List.forall_mem_cons] at hregs
  obtain ⟨henable, hpasid, hbase, hlog, htail, hhead, hdataBase, hdataSize, -⟩ := hregs
  have hok (pasid a n : Nat) : hostOk u pasid a n = hostOk s pasid a n := by rw [hostOk, hostOk, hhost]
  simp only [PairRefuses, pairUnread, pairEntries, rdB, hok, henable, hpasid, hbase, hlog, htail, hhead, hdataBase, hdataSize, hlens]

theorem fapiPut_isSome_congr (h : SamePair k s u) : (fapiPut u k e bs).isSome = (fapiPut s k e bs).isSome := by
  rw [Bool.eq_iff_iff, fapiPut_isSome_iff, fapiPut_isSome_iff, h.refuses_iff]

theorem Tells.congr {m : FapiInd} (h : Tells k m u t) (hsame : SamePair k s u) : Tells k m s t := by
  have hdropped := hsame.1 Reg.fapiRingIndDropped (by decide)
  rwa [Tells, fapiPut_isSome_congr hsame, hdropped, hsame.2.2] at h

theorem regs_raiseMsix (s : State) (f v : Nat) : (raiseMsix s f v).regs = s.regs :=
  (raiseMsix_kept (.refl [.ten, .out] s) rfl).1 .regs (by decide)

theorem radio_raiseMsix (s : State) (f v : Nat) : (raiseMsix s f v).radio = s.radio :=
  (raiseMsix_kept (.refl [.ten, .out] s) rfl).1 .radio (by decide)

theorem fapiPut_leaves (h : fapiPut s k e bs = some t) : OnlyRegs [(Reg.fapiRingIndTail, k)] s t ∧ SameButAreas s t := by
  simp only [fapiPut] at h
  split at h
  · cases h
  · obtain rfl := Option.some.inj h
    refine ⟨OnlyRegs.of_regs (OnlyRegs.wr ?_ (List.mem_singleton_self _)) (regs_raiseMsix ..), ?_⟩
    · exact OnlyRegs.of_regs (.refl _ s) rfl
    · rw [SameButAreas, radio_raiseMsix]
      rfl

theorem dropped_key_ne_tail : fldKey Reg.fapiRingIndTail k ≠ fldKey Reg.fapiRingIndDropped k := by
  simp only [fldKey, Reg.fapiRingIndTail, Reg.fapiRingIndDropped]; omega

theorem dropped_key_ne_cause : fldKey Reg.healthCauseRadio 0 ≠ fldKey Reg.fapiRingIndDropped k := by
  simp only [fldKey, Reg.healthCauseRadio, Reg.fapiRingIndDropped]; omega

/-- What a message of the device leaves, whether it fits its pair or not. -/
theorem indicate_leaves (s : State) (k : Nat) (m : FapiInd) :
    Tells k m s (indicate s k m) ∧ OnlyRegs (pairShown k) s (indicate s k m) ∧ SameButAreas s (indicate s k m) := by
  unfold Tells indicate
  dsimp only
  cases hput : fapiPut s k (fapiEntry 0 0 m.place.1 m.place.2.1 m.place.2.2) (Config.fapiGroup m.fields) with
  | some t =>
    obtain ⟨honly, hareas⟩ := fapiPut_leaves hput
    refine ⟨⟨rfl, honly _ _ fun _ hk => ?_⟩, OnlyRegs.of_regs (honly.mono (by simp [pairShown])) rfl, hareas⟩
    obtain rfl := List.mem_singleton.1 hk
    exact dropped_key_ne_tail.symm
  | none =>
    have hkept : Kept [.regs, .ten, .out] s (fapiDrop s k) := fapiDrop_kept (.refl _ s) rfl
    refine ⟨⟨(rd_healthCause_of_ne dropped_key_ne_cause).trans (rd_bump_same ..), rd_healthCause_same .., hkept.1 .host (by decide)⟩,
      OnlyRegs.healthCause (OnlyRegs.wr (.refl _ s) (by simp [pairShown])) (by simp [pairShown]), ?_⟩
    have hradio : (fapiDrop s k).radio = s.radio := hkept.1 .radio (by decide)
    rw [SameButAreas, hradio]

end

/-! ### Cell registers -/

/-- The registers of the cells lie below those of the pairs and of the causes. -/
theorem cell_key_ne_pair {f : Fld} (hf : f ∈ [Reg.cellState, Reg.cellLate]) {c : Nat} (hc : c < 512) {x : Fld × Nat} (hx : 68157440 ≤ x.1.base) :
    fldKey f c ≠ fldKey x.1 x.2 := by
  have hcell : ∀ f ∈ [Reg.cellState, Reg.cellLate], f.stride = 512 ∧ f.base ≤ 67633216 := by decide
  obtain ⟨hs, hb⟩ := hcell f hf
  rw [fldKey, fldKey, hs]
  omega

/-- A write to a cell's register leaves a pair the same. -/
theorem samePair_wr {s : State} {f : Fld} (hf : f ∈ [Reg.cellState, Reg.cellLate]) {c : Nat} (hc : c < 512) (k v : Nat) : SamePair k s (wr s f c v) :=
  ⟨fun g hg => rd_wr_ne _ _ _ _ _ _ (cell_key_ne_pair hf hc (x := (g, k)) ((by decide : ∀ g ∈ pairFlds, 68157440 ≤ g.base) g hg)), rfl, rfl⟩

theorem pairShown_base {k : Nat} {x : Fld × Nat} (hx : x ∈ pairShown k) : 68157440 ≤ x.1.base := by
  simp only [pairShown, List.mem_cons, List.not_mem_nil, or_false] at hx
  rcases hx with rfl | rfl | rfl <;> (dsimp only; decide)

/-- A message leaves the registers of cells. -/
theorem rd_indicate_cell {f : Fld} (hf : f ∈ [Reg.cellState, Reg.cellLate]) {c : Nat} (hc : c < 512) (s : State) (k : Nat) (m : FapiInd) :
    rd (indicate s k m) f c = rd s f c := by
  obtain ⟨-, honly, -⟩ := indicate_leaves s k m
  exact honly f c fun x hx => cell_key_ne_pair hf hc (pairShown_base hx)

/-! ### P5 -/

/-- What an answer to a P5 request leaves of the state that it is sent from. -/
theorem p5Response_leaves (s : State) (q c err : Nat) :
    let t := p5Response s q c err
    Tells 0 (.response q c err) s t ∧ t.radio.params = s.radio.params ∧ t.radio.startNs = s.radio.startNs ∧ t.radio.work = s.radio.work ∧
      OnlyRegs (pairShown 0) s t ∧ OnlyParts [.regs, .host, .ten, .radio, .out] s t := by
  obtain ⟨htells, honly, hradio⟩ := indicate_leaves s 0 (.response q c err)
  exact ⟨htells, (congrArg Radio.params hradio :), (congrArg Radio.startNs hradio :), (congrArg Radio.work hradio :), honly,
    (p5Response_kept (.refl _ s) rfl).1⟩

/-! ### P5 rows -/

theorem exec_paramRequest (cell : BitVec 9) (s : State) :
    exec (.paramRequest cell) s = .next (if cellSt s cell.toNat = 0 then s else p5Response s 0 cell.toNat 0) := rfl

theorem exec_configRequest (cell : BitVec 9) (tlvs : List CfgTlv) (s : State) : exec (.configRequest cell tlvs) s = execConfigRequest cell tlvs s := rfl

theorem exec_startRequest (cell : BitVec 9) (s : State) : exec (.startRequest cell) s = execStartRequest cell s := rfl

theorem exec_stopRequest (cell : BitVec 9) (s : State) : exec (.stopRequest cell) s = execStopRequest cell s := rfl

theorem exec_slotIndication (cell : BitVec 9) (sfn : BitVec 10) (slot : BitVec 7) (s : State) :
    exec (.slotIndication cell sfn slot) s = execSlotIndication cell sfn slot s := rfl

/-- A cell's state changes with the radio's. -/
def cellTo (s : State) (c st : Nat) (x : Radio) : State := wr { s with radio := x } Reg.cellState c st

section
variable {s : State} {cell : BitVec 9} {tlvs : List CfgTlv} {p : CellPlan}

theorem execConfigRequest_off (h : cellSt s cell.toNat = 0) : execConfigRequest cell tlvs s = .next s := by
  unfold execConfigRequest
  dsimp only
  split
  · rfl
  · rw [if_pos h]

theorem execConfigRequest_applied (hplan : cellPlan s cell.toNat = some p) (hst : cellSt s cell.toNat = 2 ∨ cellSt s cell.toNat = 3)
    (hgood : tlvs.any (tlvBad p) = false) : execConfigRequest cell tlvs s = .next (p5Response (cellTo s cell.toNat 3
      { s.radio with params := mapSet s.radio.params cell.toNat (applyTlvs (mapGet s.radio.params cell.toNat []) tlvs) }) 1 cell.toNat 0) := by
  simp only [execConfigRequest, hplan]
  rw [if_neg (by omega), if_neg (by omega), if_neg (by simp [hgood])]
  rfl

theorem execConfigRequest_bad (hplan : cellPlan s cell.toNat = some p) (hst : cellSt s cell.toNat = 2 ∨ cellSt s cell.toNat = 3)
    (hbad : tlvs.any (tlvBad p) = true) : execConfigRequest cell tlvs s = .next (p5Response s 1 cell.toNat errInvalidConfig) := by
  simp only [execConfigRequest, hplan]
  rw [if_neg (by omega), if_neg (by omega), if_pos hbad]

theorem execConfigRequest_refused (hplan : cellPlan s cell.toNat = some p)
    (hst : cellSt s cell.toNat = 1 ∨ cellSt s cell.toNat = 4 ∨ cellSt s cell.toNat = 5) :
    execConfigRequest cell tlvs s = .next (p5Response s 1 cell.toNat errInvalidState) := by
  simp only [execConfigRequest, hplan]
  rw [if_neg (by omega), if_pos (by omega)]

theorem execStartRequest_off (h : cellSt s cell.toNat = 0) : execStartRequest cell s = .next s := congrArg Host.Outcome.next (if_pos h)

theorem execStartRequest_refused (h0 : cellSt s cell.toNat ≠ 0) (h3 : cellSt s cell.toNat ≠ 3) :
    execStartRequest cell s = .next (p5Response s 2 cell.toNat errInvalidState) :=
  congrArg Host.Outcome.next ((if_neg h0).trans (if_pos h3))

theorem execStartRequest_configured (h : cellSt s cell.toNat = 3) : execStartRequest cell s = .next (p5Response (cellTo s cell.toNat 4
    { s.radio with startNs := mapSet s.radio.startNs cell.toNat ((s.clock.ns / 10000000 + 1) * 10000000) }) 2 cell.toNat 0) :=
  congrArg Host.Outcome.next ((if_neg (by omega)).trans (if_neg (by omega)))

theorem execStopRequest_off (h : cellSt s cell.toNat = 0) : execStopRequest cell s = .next s := congrArg Host.Outcome.next (if_pos h)

theorem execStopRequest_refused (h0 : cellSt s cell.toNat ≠ 0) (h4 : cellSt s cell.toNat ≠ 4) :
    execStopRequest cell s = .next (p5Response s 3 cell.toNat errInvalidState) :=
  congrArg Host.Outcome.next ((if_neg h0).trans (if_pos h4))

/-- The radio without a cell's slots, sections, frames and HARQ buffers. -/
def withoutCell (r : Radio) (c : Nat) : Radio :=
  { r with startNs := mapErase r.startNs c, work := r.work.filter (fun w => w.cell != c), sections := r.sections.filter (fun x => x.cell != c),
           frames := r.frames.filter (fun x => x.cell != c), harq := mapErase r.harq c }

theorem execStopRequest_running (h : cellSt s cell.toNat = 4) :
    execStopRequest cell s = .next (p5Response (cellTo s cell.toNat 3 (withoutCell s.radio cell.toNat)) 3 cell.toNat 0) :=
  congrArg Host.Outcome.next ((if_neg (by omega)).trans (if_neg (by omega)))

theorem filter_other_cells {α : Type} (cellOf : α → Nat) (l : List α) (c : Nat) :
    l.filter (fun x => cellOf x != c) = l.filter (fun x => cellOf x ≠ c) :=
  List.filter_congr fun x _ => by rw [bne, beq_eq_decide, decide_not]

/-- What the answer to STOP.request of a running cell leaves of the state before the request. -/
theorem stopped_leaves (s : State) {c : Nat} (hc : c < 512) :
    let t := p5Response (cellTo s c 3 (withoutCell s.radio c)) 3 c 0
    Tells 0 (.response 3 c 0) s t ∧ rd t Reg.cellState c = 3 ∧ SameButAreas { s with radio := withoutCell s.radio c } t ∧
      OnlyRegs ((Reg.cellState, c) :: pairShown 0) s t ∧ OnlyParts [.regs, .host, .ten, .radio, .out] s t := by
  obtain ⟨htells, honly, hradio⟩ := indicate_leaves (cellTo s c 3 (withoutCell s.radio c)) 0 (.response 3 c 0)
  have hcell : OnlyRegs ((Reg.cellState, c) :: pairShown 0) s (cellTo s c 3 (withoutCell s.radio c)) :=
    ((OnlyRegs.refl _ s).of_regs (t := { s with radio := withoutCell s.radio c }) rfl).wr (by simp)
  refine ⟨htells.congr (samePair_wr (s := { s with radio := withoutCell s.radio c }) (by decide) hc 0 3), ?_, hradio,
    hcell.trans (honly.mono (List.subset_cons_self ..)), (p5Response_kept (wr_kept (Kept.setRadio (.refl _ s) rfl) rfl) rfl).1⟩
  exact (rd_indicate_cell (by decide) hc _ _ _).trans (rd_wr_same ..)

end

/-! ### Slot indications -/

/-- The state that a slot's indication is sent from: old slots forgotten, and a late indication counted. -/
def slotCounted (s : State) (c : Nat) (late : Prop) [Decidable late] : State :=
  if late then bump (pruneSlots s) Reg.cellLate c 1 else pruneSlots s

/-- The TLVs of a slot's indication (Table 10.7). -/
def slotTlvs (s : State) (late sync : Prop) [Decidable late] [Decidable sync] : List (Nat × Nat) :=
  (if late then [tlvLate 3 1] else []) ++ (if sync then [tlvSync s] else [])

section
variable (s : State) {c : Nat} (hc : c < 512) (late sync : Prop) [Decidable late] [Decidable sync]

theorem slotCounted_kept : Kept [.regs, .radio] s (slotCounted s c late) :=
  .ite (bump_kept (pruneSlots_kept (.refl _ s) rfl) rfl) (pruneSlots_kept (.refl _ s) rfl)

theorem slotCounted_onlyRegs : OnlyRegs [(Reg.cellLate, c)] s (slotCounted s c late) := by
  have hpruned : OnlyRegs [(Reg.cellLate, c)] s (pruneSlots s) := (OnlyRegs.refl _ s).of_regs rfl
  unfold slotCounted
  split
  · exact hpruned.wr (by simp)
  · exact hpruned

theorem rd_slotCounted_late :
    rd (slotCounted s c late) Reg.cellLate c = if late then (rd s Reg.cellLate c + 1) % 2 ^ 32 else rd s Reg.cellLate c := by
  unfold slotCounted
  split
  · exact rd_bump_same ..
  · rfl

include hc in
theorem samePair_slotCounted (k : Nat) : SamePair k s (slotCounted s c late) := by
  unfold slotCounted
  split
  · exact samePair_wr (s := pruneSlots s) (by decide) hc k _
  · exact ⟨fun _ _ => rfl, rfl, rfl⟩

theorem rd_slotCounted_fapiRing : rd (slotCounted s c late) Reg.cellFapiRing c = rd s Reg.cellFapiRing c :=
  slotCounted_onlyRegs s late _ _ (by simp [fldKey, Reg.cellFapiRing, Reg.cellLate])

theorem slotTlvs_slotCounted : slotTlvs (slotCounted s c late) late sync = slotTlvs s late sync := by
  have hstate : rd (slotCounted s c late) Reg.timeStateState 0 = rd s Reg.timeStateState 0 :=
    slotCounted_onlyRegs s late _ _ (by simp [fldKey, Reg.timeStateState, Reg.cellLate]; omega)
  simp only [slotTlvs, tlvSync, hstate]

end

/-- What a slot's indication leaves of the state before it. -/
theorem slotIndication_leaves (s : State) {c : Nat} (hc : c < 512) (late : Prop) [Decidable late] (k : Nat) (m : FapiInd) :
    let t := indicate (slotCounted s c late) k m
    (Tells k m s t ∧ rd t Reg.cellLate c = if late then (rd s Reg.cellLate c + 1) % 2 ^ 32 else rd s Reg.cellLate c) ∧
      OnlyParts [.regs, .host, .ten, .radio, .out] s t :=
  ⟨⟨(indicate_leaves ..).1.congr (samePair_slotCounted s hc late k), (rd_indicate_cell (by decide) hc ..).trans (rd_slotCounted_late s late)⟩,
    (indicate_kept (Kept.app (.refl _ s) rfl (slotCounted_kept s late)) rfl).1⟩

section
variable {s : State} {cell : BitVec 9} {sfn : BitVec 10} {slot : BitVec 7} {p : CellPlan} (hplan : cellPlan s cell.toNat = some p)
include hplan

theorem execSlotIndication_none (h : (cellSt s cell.toNat ≠ 4 ∧ cellSt s cell.toNat ≠ 5) ∨
    s.clock.ns + 1000 * p.p7LeadUs < slotStart s p.mu sfn.toNat slot.toNat) : execSlotIndication cell sfn slot s = .next s := by
  simp only [execSlotIndication, hplan]
  rw [if_pos (h.imp_right .inr)]

theorem execSlotIndication_due (hst : cellSt s cell.toNat = 4 ∨ cellSt s cell.toNat = 5)
    (hfirst : mapGet s.radio.startNs cell.toNat 0 ≤ slotStart s p.mu sfn.toNat slot.toNat)
    (hlead : slotStart s p.mu sfn.toNat slot.toNat ≤ s.clock.ns + 1000 * p.p7LeadUs) :
    let late := slotStart s p.mu sfn.toNat slot.toNat < s.clock.ns + 1000 * p.p7LeadUs
    execSlotIndication cell sfn slot s = .next (indicate (slotCounted s cell.toNat late) (rd s Reg.cellFapiRing cell.toNat)
      (.slot cell.toNat sfn.toNat slot.toNat (slotTlvs s late (cellSt s cell.toNat = 5 ∨ rd s Reg.timeStateState 0 = 4)))) := by
  have hdue : ¬ ((cellSt s cell.toNat ≠ 4 ∧ cellSt s cell.toNat ≠ 5) ∨ slotStart s p.mu sfn.toNat slot.toNat < mapGet s.radio.startNs cell.toNat 0 ∨
      now s + 1000 * p.p7LeadUs < slotStart s p.mu sfn.toNat slot.toNat) := by
    simp only [now]; omega
  intro late
  rw [← rd_slotCounted_fapiRing s late, ← slotTlvs_slotCounted s (c := cell.toNat) late]
  simp only [execSlotIndication, hplan]
  rw [if_neg hdue]
  rfl

end

/-! ### Events of cores -/

theorem bitOf_eq_testBit (w i : Nat) : bitOf w i = w.testBit i := by
  rw [bitOf, bitsOf, Nat.testBit_eq_decide_div_mod_eq, Nat.pow_one]
  rfl

theorem reg_event (c : Core) (bits : Nat) : (c.event bits).reg 0x30 = (c.reg 0x30 ||| bits) % 2 ^ 32 := by
  simp [Core.event, Core.setReg, Core.reg, mapGet_mapPut, coreWidth]

section
variable {s : State} {b : Nat} (n m : Nat)

theorem getCore_coreEvent (s : State) (b : Nat) :
    getCore (coreEvent s n b) m = if n = m ∧ coreRuns s n = true then (getCore s n).event (2 ^ b) else getCore s m := by
  unfold coreEvent
  split
  next h => simpa only [h, and_true] using! getCore_putCore s n m ((getCore s n).event (2 ^ b))
  next h => simp [h]

/-- An event shows in its core's live registers alone. -/
theorem rd_coreEvent_ne {f : Fld} {i : Nat} (hpc : fldKey f i ≠ fldKey Reg.chiselCoreLivePc n) (hev : fldKey f i ≠ fldKey Reg.chiselCoreLiveEv n) :
    rd (coreEvent s n b) f i = rd s f i := by
  unfold coreEvent showCore
  split
  · rw [rd_wr_ne _ _ _ _ _ _ hev.symm, rd_wr_ne _ _ _ _ _ _ hpc.symm]; rfl
  · rfl

theorem coreRuns_coreEvent : coreRuns (coreEvent s n b) m = coreRuns s m := by
  have hpc : fldKey Reg.chiselCoreState m ≠ fldKey Reg.chiselCoreLivePc n := by
    simp only [fldKey, Reg.chiselCoreLivePc, Reg.chiselCoreState]; omega
  have hev : fldKey Reg.chiselCoreState m ≠ fldKey Reg.chiselCoreLiveEv n := by
    simp only [fldKey, Reg.chiselCoreLiveEv, Reg.chiselCoreState]; omega
  rw [coreRuns, coreRuns, rd_coreEvent_ne n hpc hev]

/-- An event sets its bit in a core that runs, and clears none. -/
theorem bit_coreEvent (hb : b < 32) (h : bitOf ((getCore s m).reg 0x30) b = true ∨ (n = m ∧ coreRuns s n = true)) :
    bitOf ((getCore (coreEvent s n b) m).reg 0x30) b = true := by
  rw [getCore_coreEvent]
  split
  · rw [reg_event, bitOf_eq_testBit, Nat.testBit_mod_two_pow, Nat.testBit_or, Nat.testBit_two_pow_self, Bool.or_true, Bool.and_true]
    exact decide_eq_true hb
  next hnot => exact h.resolve_right hnot

/-- An event of every listed core. -/
def coreEvents (s : State) (l : List Nat) (b : Nat) : State := l.foldl (fun s n => coreEvent s n b) s

theorem bit_coreEvents {l : List Nat} (hb : b < 32) (h : bitOf ((getCore s m).reg 0x30) b = true ∨ (m ∈ l ∧ coreRuns s m = true)) :
    bitOf ((getCore (coreEvents s l b) m).reg 0x30) b = true := by
  induction l generalizing s with
  | nil => exact h.resolve_right (by simp)
  | cons n l ih =>
    refine ih ?_
    rw [coreRuns_coreEvent]
    rcases h with hset | ⟨hmem, hrun⟩
    · exact .inl (bit_coreEvent n m hb (.inl hset))
    · rcases List.mem_cons.1 hmem with rfl | hmem
      · exact .inl (bit_coreEvent m m hb (.inr ⟨rfl, hrun⟩))
      · exact .inr ⟨hmem, hrun⟩

theorem rd_coreEvents_ne {l : List Nat} {f : Fld} {i : Nat} (hpc : ∀ n, fldKey f i ≠ fldKey Reg.chiselCoreLivePc n)
    (hev : ∀ n, fldKey f i ≠ fldKey Reg.chiselCoreLiveEv n) : rd (coreEvents s l b) f i = rd s f i := by
  induction l generalizing s with
  | nil => rfl
  | cons n l ih => exact ih.trans (rd_coreEvent_ne n (hpc n) (hev n))

theorem coreEvents_kept (s : State) (l : List Nat) (b : Nat) : Kept [.regs, .cores] s (coreEvents s l b) :=
  Kept.foldl (.refl _ s) fun _ _ h => coreEvent_kept h rfl

end

/-! ### The doorbell of a pair -/

theorem exec_fapiReqTail (ring : BitVec 4) (value : BitVec 32) (s : State) : exec (.fapiReqTail ring value) s = execFapiReqTail ring value s := rfl

/-- The group that a ring entry publishes. -/
def entryGroup (s : State) (r e : Nat) : FapiGroup :=
  { ring := r, cell := bitsOf e 96 9, sfn := bitsOf e 112 10, slot := bitsOf e 122 7, addr := bitsOf e 0 48, len := bitsOf e 64 32,
    publishNs := s.clock.ns }

/-- A doorbell's tail stands, one entry is published, and the head has followed. -/
def groupTaken (s : State) (r v e : Nat) : State :=
  let t := wr s Reg.fapiRingReqTail r v
  wr { t with radio := { s.radio with groups := s.radio.groups ++ [entryGroup s r e] } } Reg.fapiRingReqHead r v

/-- The bits of an entry that are reserved are zero, and its length is in range (Table 10.6, R289). -/
def EntryGood (e : Nat) : Prop := bitsOf e 48 16 = 0 ∧ bitsOf e 105 7 = 0 ∧ bitsOf e 129 127 = 0 ∧ bitsOf e 64 32 ≤ 4194304

theorem readFapiEntry_good {s : State} {r i e : Nat} (hok : hostOk s (rd s Reg.fapiRingPasid r) (rd s Reg.fapiRingReqBase r + 32 * i) 32 = true)
    (he : leNat (hostBytes s (rd s Reg.fapiRingPasid r) (rd s Reg.fapiRingReqBase r + 32 * i) 32) = e) (hgood : EntryGood e) :
    readFapiEntry s r i = { s with radio := { s.radio with groups := s.radio.groups ++ [entryGroup s r e] } } := by
  obtain ⟨h48, h105, h129, hlen⟩ := hgood
  unfold readFapiEntry
  dsimp only
  rw [if_neg (by simp [hok]), he, if_neg (by omega)]
  rfl

/-- The request side of a pair: its registers share no key with the tail. -/
theorem rd_reqTail_ne {s : State} {r v : Nat} {f : Fld} (hf : f ∈ [Reg.fapiRingEnable, Reg.fapiRingReqHead, Reg.fapiRingPasid, Reg.fapiRingReqBase]) :
    rd (wr s Reg.fapiRingReqTail r v) f r = rd s f r := by
  have hbase : ∀ f ∈ [Reg.fapiRingEnable, Reg.fapiRingReqHead, Reg.fapiRingPasid, Reg.fapiRingReqBase],
      f.stride = 512 ∧ f.base ≠ Reg.fapiRingReqTail.base := by decide
  obtain ⟨hs, hb⟩ := hbase f hf
  have htail : Reg.fapiRingReqTail.stride = 512 := rfl
  refine rd_wr_ne _ _ _ _ _ _ ?_
  rw [fldKey, fldKey, hs, htail]
  omega

/-- A tail one beyond the head, around the ring, is one new entry. -/
theorem newEntries_one {n head v : Nat} (hn : 2 ≤ n) (hlt : head < n) (hv : v = (head + 1) % n) : (v + n - head) % n = 1 := by
  rcases Nat.lt_or_ge (head + 1) n with h | h
  · rw [hv, Nat.mod_eq_of_lt h, show head + 1 + n - head = 1 + n by omega, Nat.add_mod_right, Nat.mod_eq_of_lt (by omega)]
  · rw [hv, show head + 1 = n by omega, Nat.mod_self, show 0 + n - head = 1 by omega, Nat.mod_eq_of_lt (by omega)]

section
variable {s : State} {ring : BitVec 4} {value : BitVec 32}

theorem execFapiReqTail_down (h : reachable s (0x820018 + 64 * ring.toNat) = false) :
    execFapiReqTail ring value s = .next (logErr s 0 .notReady 0 0 (0x820018 + 64 * ring.toNat)) :=
  congrArg Host.Outcome.next (if_pos (by simp [h]))

variable (hup : reachable s (0x820018 + 64 * ring.toNat) = true)
include hup

theorem execFapiReqTail_beyond (h : 2 ^ rd s Reg.fapiRingReqLog2 ring.toNat ≤ value.toNat) :
    execFapiReqTail ring value s = .next (logErr s 0 .badFormat 0 0 (0x820018 + 64 * ring.toNat)) :=
  congrArg Host.Outcome.next ((if_neg (by simp [hup])).trans (if_pos (.inl h)))

variable (hlog : 2 ≤ rd s Reg.fapiRingReqLog2 ring.toNat ∧ rd s Reg.fapiRingReqLog2 ring.toNat ≤ 12)
  (hvalue : value.toNat < 2 ^ rd s Reg.fapiRingReqLog2 ring.toNat)
include hlog hvalue

theorem execFapiReqTail_disabled (h : rd s Reg.fapiRingEnable ring.toNat = 0) :
    execFapiReqTail ring value s = .next (wr s Reg.fapiRingReqTail ring.toNat value.toNat) := by
  have henable : rdB (wr s Reg.fapiRingReqTail ring.toNat value.toNat) Reg.fapiRingEnable ring.toNat = false := by
    rw [rdB, rd_reqTail_ne (by decide), h]; rfl
  unfold execFapiReqTail
  dsimp only
  rw [if_neg (by simp [hup]), if_neg (by omega), if_pos henable]

omit hup in
/-- A tail or head below the ring's entries fits its field. -/
theorem value_mod_width : value.toNat % 2 ^ 12 = value.toNat :=
  Nat.mod_eq_of_lt (hvalue.trans_le (Nat.pow_le_pow_right (by decide) hlog.2))

/-- One new entry on an enabled pair: it is published, and the pair's cores see the FAPI event. -/
theorem execFapiReqTail_one {head e : Nat} (henable : rd s Reg.fapiRingEnable ring.toNat = 1)
    (hhead : rd s Reg.fapiRingReqHead ring.toNat % 2 ^ rd s Reg.fapiRingReqLog2 ring.toNat = head)
    (hnext : value.toNat = (head + 1) % 2 ^ rd s Reg.fapiRingReqLog2 ring.toNat)
    (hok : hostOk s (rd s Reg.fapiRingPasid ring.toNat) (rd s Reg.fapiRingReqBase ring.toNat + 32 * head) 32 = true)
    (he : leNat (hostBytes s (rd s Reg.fapiRingPasid ring.toNat) (rd s Reg.fapiRingReqBase ring.toNat + 32 * head) 32) = e) (hgood : EntryGood e) :
    execFapiReqTail ring value s = .next (coreEvents (groupTaken s ring.toNat value.toNat e)
      (bitList 64 (rd (groupTaken s ring.toNat value.toNat e) Reg.chiselFapiMapMask ring.toNat)) 6) := by
  have hfour : 2 ^ 2 ≤ 2 ^ rd s Reg.fapiRingReqLog2 ring.toNat := Nat.pow_le_pow_right (by decide) hlog.1
  have hlt : head < 2 ^ rd s Reg.fapiRingReqLog2 ring.toNat := hhead ▸ Nat.mod_lt _ (by omega)
  have hnew := newEntries_one (by omega) hlt hnext
  unfold execFapiReqTail
  dsimp only
  generalize ring.toNat = r at *
  generalize 2 ^ rd s Reg.fapiRingReqLog2 r = n at *
  generalize ht : wr s Reg.fapiRingReqTail r value.toNat = t
  have hon : rdB t Reg.fapiRingEnable r = true := by rw [rdB, ← ht, rd_reqTail_ne (by decide), henable]; rfl
  have hread : readFapiEntry t r head = { t with radio := { s.radio with groups := s.radio.groups ++ [entryGroup s r e] } } := by
    subst ht
    refine readFapiEntry_good ?_ ?_ hgood
    · rw [rd_reqTail_ne (by decide), rd_reqTail_ne (by decide)]; exact hok
    · rw [rd_reqTail_ne (by decide), rd_reqTail_ne (by decide)]; exact he
  have hheadStays : rd t Reg.fapiRingReqHead r % n = head := by rw [← ht, rd_reqTail_ne (by decide), hhead]
  rw [if_neg (by simp [hup]), if_neg (by omega), if_neg (by simp [hon]), hheadStays, hnew]
  simp only [List.range_one, List.foldl_cons, List.foldl_nil, Nat.add_zero, Nat.mod_eq_of_lt hlt]
  rw [hread, ← ht]
  rfl

end

section
variable (s : State) {r v : Nat} (e : Nat) (hr : r < 16)
include hr

/-- The doorbell's registers lie below the FAPI map and the cores' registers. -/
theorem doorbell_key_ne {f g : Fld} (hf : f ∈ [Reg.fapiRingReqTail, Reg.fapiRingReqHead]) (hg : 83894272 ≤ g.base) (n : Nat) :
    fldKey f r ≠ fldKey g n := by
  have hbase : ∀ f ∈ [Reg.fapiRingReqTail, Reg.fapiRingReqHead], f.stride = 512 ∧ f.base ≤ 68157664 := by decide
  obtain ⟨hs, hb⟩ := hbase f hf
  rw [fldKey, fldKey, hs]
  omega

theorem rd_groupTaken {g : Fld} (hg : 83894272 ≤ g.base) (n : Nat) : rd (groupTaken s r v e) g n = rd s g n :=
  (rd_wr_ne _ _ _ _ _ _ (doorbell_key_ne hr (by decide) hg n)).trans (rd_wr_ne _ _ _ _ _ _ (doorbell_key_ne hr (by decide) hg n))

theorem coreRuns_groupTaken (n : Nat) : coreRuns (groupTaken s r v e) n = coreRuns s n := by
  rw [coreRuns, coreRuns, rd_groupTaken s e hr (by decide)]

/-- What a doorbell with one good entry leaves. -/
theorem published_leaves (hv : v % 2 ^ 12 = v) (n : Nat) :
    let t := coreEvents (groupTaken s r v e) (bitList 64 (rd (groupTaken s r v e) Reg.chiselFapiMapMask r)) 6
    rd t Reg.fapiRingReqTail r = v ∧ rd t Reg.fapiRingReqHead r = v ∧ t.radio.groups = s.radio.groups ++ [entryGroup s r e] ∧
      (n ∈ bitList 64 (rd s Reg.chiselFapiMapMask r) → coreRuns s n = true → bitOf ((getCore t n).reg 0x30) 6 = true) ∧
      OnlyParts [.regs, .cores, .radio] s t := by
  intro t
  have hevents : Kept [.regs, .cores] (groupTaken s r v e) t := coreEvents_kept ..
  have hne : fldKey Reg.fapiRingReqHead r ≠ fldKey Reg.fapiRingReqTail r := by
    simp only [fldKey, Reg.fapiRingReqHead, Reg.fapiRingReqTail]; omega
  have hshown {f : Fld} (hf : f ∈ [Reg.fapiRingReqTail, Reg.fapiRingReqHead]) : rd t f r = rd (groupTaken s r v e) f r :=
    rd_coreEvents_ne (doorbell_key_ne hr hf (by decide)) (doorbell_key_ne hr hf (by decide))
  refine ⟨(hshown (by decide)).trans ?_, (hshown (by decide)).trans ?_,
    congrArg Radio.groups (hevents.1 .radio (by decide)), fun hmem hrun => bit_coreEvents n (by decide) (.inr ⟨?_, ?_⟩), ?_⟩
  · exact (rd_wr_ne _ _ _ _ _ _ hne).trans ((rd_wr_same ..).trans hv)
  · exact (rd_wr_same ..).trans hv
  · rwa [rd_groupTaken s e hr (by decide)]
  · rwa [coreRuns_groupTaken s e hr]
  · have htaken : Kept [.regs, .cores, .radio] s (groupTaken s r v e) := wr_kept (Kept.setRadio (wr_kept (.refl _ s) rfl) rfl) rfl
    exact (Kept.app htaken rfl hevents).1

end

end Sys2Proof.Machine

section

open Sys2Proof Sys2Proof.Machine

/-- Settles O41: each clause's premises name the branch of its row; a message of the device writes its pair's tail and counter and the cause alone,
which share no key with a cell's registers. -/
theorem fapiRingsAndCellRequests : Obligations.FapiRingsAndCellRequests := by
  intro s ring value cell tlvs sfn slot p core r c n up okLog head at_ e tells own p5 to_ start
  have hc : c < 512 := cell.isLt
  refine ⟨fun hdown => ⟨_, (exec_fapiReqTail ..).trans (execFapiReqTail_down hdown), rfl⟩,
    fun hup hbeyond => ⟨_, (exec_fapiReqTail ..).trans (execFapiReqTail_beyond hup hbeyond), rfl⟩,
    fun hup hlog hvalue hoff => ⟨_, (exec_fapiReqTail ..).trans (execFapiReqTail_disabled hup hlog hvalue hoff), ?disabled⟩,
    fun hup hlog hvalue hon hnext hok h48 h105 h129 hlen => ⟨_, (exec_fapiReqTail ..).trans
      (execFapiReqTail_one hup hlog hvalue hon rfl hnext hok rfl ⟨h48, h105, h129, hlen⟩), ?published⟩,
    fun hon => ⟨_, (exec_paramRequest ..).trans (congrArg _ (if_neg hon)), p5Response_leaves ..⟩,
    fun hoff => ⟨⟨_, (exec_paramRequest ..).trans (congrArg _ (if_pos hoff)), rfl⟩, ⟨_, (exec_startRequest ..).trans (execStartRequest_off hoff), rfl⟩,
      ⟨_, (exec_stopRequest ..).trans (execStopRequest_off hoff), rfl⟩, ⟨_, (exec_configRequest ..).trans (execConfigRequest_off hoff), rfl⟩⟩,
    fun hplan hst hgood => ⟨_, (exec_configRequest ..).trans (execConfigRequest_applied hplan hst hgood), p5Response_leaves ..⟩,
    fun hplan hst hbad => ⟨_, (exec_configRequest ..).trans (execConfigRequest_bad hplan hst hbad), p5Response_leaves ..⟩,
    fun hplan hst => ⟨_, (exec_configRequest ..).trans (execConfigRequest_refused hplan hst), p5Response_leaves ..⟩,
    fun hst => ⟨_, (exec_startRequest ..).trans (execStartRequest_configured hst), p5Response_leaves ..⟩,
    fun h3 h0 => ⟨_, (exec_startRequest ..).trans (execStartRequest_refused h0 h3), p5Response_leaves ..⟩,
    fun hst => ⟨_, (exec_stopRequest ..).trans (execStopRequest_running hst), ?stopped⟩,
    fun h4 h0 => ⟨_, (exec_stopRequest ..).trans (execStopRequest_refused h0 h4), p5Response_leaves ..⟩,
    fun hplan hst hfirst hlead => ⟨_, (exec_slotIndication ..).trans (execSlotIndication_due hplan hst hfirst hlead), ?slotIndication⟩,
    fun hplan h => ⟨_, (exec_slotIndication ..).trans (execSlotIndication_none hplan h), rfl⟩⟩
  case disabled =>
    exact ⟨(rd_wr_same ..).trans (value_mod_width hlog hvalue), (OnlyRegs.refl _ s).wr (List.mem_singleton_self _), (wr_kept (.refl _ s) rfl).1⟩
  case published =>
    exact published_leaves s e ring.isLt (value_mod_width hlog hvalue) core
  case stopped =>
    obtain ⟨htells, hstate, hradio, honly, hparts⟩ := stopped_leaves s hc
    exact ⟨htells, hstate, (congrArg (mapFind ·.startNs c) hradio).trans ((mapFind_mapErase ..).trans (if_pos rfl)),
      (congrArg (mapFind ·.harq c) hradio).trans ((mapFind_mapErase ..).trans (if_pos rfl)), (congrArg Radio.sections hradio).trans (filter_other_cells ..),
      (congrArg Radio.work hradio).trans (filter_other_cells ..), (congrArg Radio.frames hradio).trans (filter_other_cells ..), honly, hparts⟩
  case slotIndication =>
    exact slotIndication_leaves s hc _ _ _

end

end

section
/-! SUPPORT. A job with a bad descriptor whose 8-byte result lies in a line with a soft error: the write of the result reads the line that it
covers in part (R149), and the read corrects the error (R162). -/

namespace Sys2Proof.Machine

theorem exec_ldpcDec (e : BitVec 6) (s : State) : exec (.ldpcDec e) s = .next (engineTakes s e.toNat 1 0 31) := rfl

/-- A state with other counts of class R traffic. -/
def recounted (s : State) (g c : SMap Nat) : State := { s with mem := { s.mem with galleryR := g, chanR := c } }

/-- Radio traffic changes only the counts of class R traffic. -/
theorem radioTraffic_recounts (s : State) (stop : Nat) (runs : List (Nat × Nat)) (write : Bool) :
    ∃ g c, radioTraffic s stop runs write = recounted s g c := by
  have hroute (t : State) (a b n : Nat) (h : ∃ g c, t = recounted s g c) : ∃ g c, routeR t a b n = recounted s g c := by
    refine List.foldlRecOn (motive := fun t => ∃ g c, t = recounted s g c) _ _ h fun u ⟨g, c, hu⟩ o _ => ?_
    subst hu
    dsimp only
    split
    · exact ⟨_, c, rfl⟩
    · exact ⟨g, c, rfl⟩
  have hchannel (t : State) (l : Nat) (h : ∃ g c, t = recounted s g c) : ∃ g c, channelR t l = recounted s g c := by
    obtain ⟨g, c, rfl⟩ := h
    unfold channelR
    dsimp only
    split
    · exact ⟨g, _, rfl⟩
    · exact ⟨g, c, rfl⟩
  refine List.foldlRecOn (motive := fun t => ∃ g c, t = recounted s g c) _ _ ⟨s.mem.galleryR, s.mem.chanR, rfl⟩ fun t ht l _ => hchannel _ _ ?_
  split <;> exact hroute _ _ _ _ ht

theorem err_memPutBytes (key : Nat → Nat) (m : Mem) (pa : Nat) (bs : List Byte) : (memPutBytes key m pa bs).err = m.err := by
  induction bs generalizing m pa with
  | nil => rfl
  | cons b bs ih => exact ih ..

theorem err_rekeyLine (m : Mem) (key line : Nat) : (rekeyLine m key line).err = m.err := by
  unfold rekeyLine
  split
  · rfl
  · split
    · rfl
    · exact err_memPutBytes ..

/-- A store in a memory without errors brings none. -/
theorem err_dramStore_of_no_err {s : State} (h : s.mem.err = []) (pa : Nat) (bs : List Byte) : (dramStore s pa bs).mem.err = [] := by
  have hmarked (l : List (Nat × Nat)) : (l.foldl (fun s p => markRegion s p.1) s).mem = s.mem :=
    (Kept.foldl (.refl [.ten] s) fun _ _ hk => markRegion_kept hk rfl).1 .mem (by decide)
  simp only [dramStore, hmarked]
  split
  · rw [h]; rfl
  · rw [err_memPutBytes, err_rekeyLine, err_rekeyLine, h]; rfl

/-- A decoding job of version 0, whose output and result lie at address 0. -/
def badJob : SieveJob := { core := 0, desc := 16, mute := true }

/-- One lot, which is a radio lot; line 0 is stored and has one spoilt symbol; decoder 0 is enabled and the bad job waits. -/
def softErrorState : State :=
  { State.reset with
    regs := [(fldKey Reg.caps0DramLots 0, 1), (fldKey Reg.lotOwnerOwner 0, 0x3FE), (fldKey Reg.sieveEngEnabled 0, 1)]
    mem := { State.reset.mem with stored := [(0, 0)], err := [(0, ⟨1, false, false, false⟩)] }
    radio := { State.reset.radio with jobs := [badJob] } }

/-- The same state once the engine has taken the job. -/
def badJobTaken : State := bump { softErrorState with radio := { softErrorState.radio with jobs := [] } } Reg.sieveEngJobs 0 1

def badResult : List Byte := sieveResult .badFormat 0 false false false 0

/-- A bad descriptor of a core that has faulted since: only its result is written, into radio lots. -/
theorem runJob_bad_mute {s : State} {e : Nat} {j : SieveJob} (hbad : j.bad = true) (hmute : j.mute = true)
    (hlots : inRadioLots (bump s Reg.sieveEngJobs e 1) (resultAt j.desc) badResult.length = true) :
    runJob s e j = (writeRuns (radioTraffic (bump s Reg.sieveEngJobs e 1) (coreStop j.core) [(resultAt j.desc, badResult.length)] true) 4 0
      [(resultAt j.desc, badResult.length)] badResult).1 := by
  rw [runJob, if_pos (by simp [hbad]), sieveDone, if_pos rfl, if_pos hmute]
  exact if_pos hlots

theorem engineTakes_badJob : engineTakes softErrorState 0 1 0 31 =
    (writeRuns (radioTraffic badJobTaken (coreStop 0) [(0, badResult.length)] true) 4 0 [(0, badResult.length)] badResult).1 := by
  have hnext : nextJob softErrorState 1 = some 0 := by decide
  rw [engineTakes, if_neg (by decide), hnext]
  exact runJob_bad_mute (by decide) rfl (by decide)

/-- The write of the result reads its line, and the read corrects the soft error. -/
theorem senseRuns_badResult (g c : SMap Nat) :
    senseRuns (recounted badJobTaken g c) 4 0 (partialLines [(0, badResult.length)]) =
      (bump (errErased (recounted badJobTaken g c) 0) Reg.memCeCountCount 0 1, none) := by
  have hline : partialLines [(0, badResult.length)] = [(0, 64)] := by decide
  have hsense := senseLine_corrected (s := recounted badJobTaken g c) (line := 0) (e := ⟨1, false, false, false⟩) (by decide) rfl rfl 4 0
  rw [hline]
  show ((senseLine _ 4 0 0 _).1, if (senseLine _ 4 0 0 _).2 = true then some 0 else none) = _
  rw [hsense]
  rfl

theorem err_write_badResult (g c : SMap Nat) :
    (writeRuns (recounted badJobTaken g c) 4 0 [(0, badResult.length)] badResult).1.mem.err = [] := by
  rw [writeRuns, senseRuns_badResult]
  exact err_dramStore_of_no_err rfl ..

end Sys2Proof.Machine

section

open Sys2Proof Sys2Proof.Machine

/-- Refutes O42: the result of a job with a bad descriptor lies in a line with a soft error, and its 8-byte write corrects the error, where the
statement says that such a job leaves the errors of DRAM as they are. -/
theorem not_slotRequestsAndSieve : ¬ Obligations.SlotRequestsAndSieve := by
  intro h
  obtain ⟨-, -, -, -, -, -, -, -, -, hdecoder, -⟩ :=
    h softErrorState 0 0 0 0 0 [] default default default 0 0 0 0 badJob
  obtain ⟨t, ht, -, -, hbad, -⟩ := hdecoder rfl (by decide) rfl
  obtain ⟨-, herr⟩ := hbad rfl
  obtain ⟨g, c, hcounts⟩ := radioTraffic_recounts badJobTaken (coreStop 0) [(0, badResult.length)] true
  obtain rfl := Host.Outcome.next.inj ((exec_ldpcDec ..).symm.trans ht)
  have hnone := err_write_badResult g c
  rw [← hcounts, ← engineTakes_badJob] at hnone
  exact absurd (hnone.symm.trans herr) (by decide)

end

end

section
/-! SUPPORT. An input loss whose fault record goes beyond the fault ring: the tail that the register file holds is far above its 8 bits, so
the record lands on the state of the 48 V stage. -/

namespace Sys2Proof.Machine

theorem exec_inputLoss (high : Bool) (s : State) : exec (.inputLoss high) s = execInputLoss high s := rfl

theorem regs_notifyMgmt (s : State) (kind cause : Nat) : (notifyMgmt s kind cause).regs = s.regs :=
  (notifyMgmt_kept (.refl [.health, .out] s) rfl).1 .regs (by decide)

/-- MEM_FAULT's stride reaches POWER_STAT at record 326656: the ring has 256. -/
theorem rd_memFaultRecord_beyond (s : State) : rd s Reg.memFaultRecord 326656 = rd s Reg.powerStatState 0 := rfl

/-- The store of records for the persistent record shows nothing of the 48 V stage. -/
theorem rd_keepFault_powerStat (s : State) (kind line rec_ : Nat) : rd (keepFault s kind line rec_) Reg.powerStatState 0 = rd s Reg.powerStatState 0 := by
  unfold keepFault
  dsimp only
  split
  · rfl
  · split
    · rfl
    · exact rd_wr_ne _ _ _ _ _ _ (by decide)

/-- A record made at time 0 has nothing in its lowest 64 bits. -/
theorem faultRecord_at_zero_ne_two (kind owner tag group chan line syms : Nat) :
    (0 + kind * 2 ^ 64 + 5 * 2 ^ 72 + owner * 2 ^ 75 + tag * 2 ^ 85 + group * 2 ^ 101 + chan * 2 ^ 104 + line * 2 ^ 128 + syms * 2 ^ 184) % 2 ^ 256 ≠ 2 := by
  omega

/-- A fault record that goes there leaves something else than HOLDUP. -/
theorem rd_faultRecord_beyond {s : State} (hnow : now s = 0) (htail : rd s Reg.memFaultIdxTail 0 = 326656)
    (hroom : rd s Reg.memFaultIdxHead 0 = 0) (kind tag line syms : Nat) :
    rd (faultRecord s kind 5 tag line syms) Reg.powerStatState 0 ≠ 2 := by
  have hkept (t : State) (c : Prop) [Decidable c] (rec_ : Nat) :
      rd (healthCause (if c then keepFault t kind line rec_ else t) Reg.healthCauseFault) Reg.powerStatState 0 = rd t Reg.powerStatState 0 := by
    rw [rd_healthCause_of_ne (by decide)]
    split
    · exact rd_keepFault_powerStat ..
    · rfl
  unfold faultRecord
  dsimp only
  rw [hkept, htail, hroom, if_neg (by decide), rd_wr_ne _ _ _ _ _ _ (by decide), ← rd_memFaultRecord_beyond, rd_wr_same, hnow]
  exact faultRecord_at_zero_ne_two _ _ _ _ _ _ _

/-- The state of a loss once every unit has stopped and HOLDUP is shown, before the fault record. -/
def lossStopped (s : State) : State :=
  let t := stopUnits s
  [(Reg.powerStatState, 2), (Reg.powerStatInOk, 0), (Reg.powerStatInLow, 0), (Reg.powerStatInHigh, 0), (Reg.powerInInMv, 0)].foldl
    (fun s e => wr s e.1 0 e.2) { t with boot := { t.boot with converting := false }, power := { t.power with holdRun := true } }

/-- What a loss does after its fault record: the ports are told, and a pending record carries the cause. -/
def lossEnded (s : State) (cause : Nat) : State :=
  let t := notifyMgmt (drawn s) 2 cause
  if t.boot.recPending then wr t Reg.powerStatLastStop 0 cause else t

theorem execInputLoss_of_converting {s : State} (h : s.boot.converting = true) (high : Bool) :
    execInputLoss high s = .next (lossEnded (faultRecord (lossStopped s) (Config.unstated (lossStopped s).free % 256) 5 0 0 (if high then 2 else 1))
      (if high then 2 else 1)) :=
  congrArg Host.Outcome.next (if_neg (by simp [h]))

theorem rd_lossEnded (s : State) (cause : Nat) : rd (lossEnded s cause) Reg.powerStatState 0 = rd s Reg.powerStatState 0 := by
  have htold : rd (notifyMgmt (drawn s) 2 cause) Reg.powerStatState 0 = rd s Reg.powerStatState 0 := rd_congr (regs_notifyMgmt ..) ..
  unfold lossEnded
  dsimp only
  split
  · exact (rd_wr_ne _ _ _ _ _ _ (by decide)).trans htold
  · exact htold

/-- The tail of the fault ring holds 326656, and the device converts. -/
def farFaultTail : State :=
  { State.reset with regs := [(fldKey Reg.memFaultIdxTail 0, 326656)], boot := { State.reset.boot with converting := true } }

theorem rd_resetFlds_of_not_inst {f : Fld} {i : Nat} {fs : List Fld} (h : fs.any (fun g => isInst g (fldKey f i)) = false) (s : State) :
    rd (resetFlds s fs) f i = rd s f i := by
  rw [rd, rd, mapGet, mapGet, resetFlds, mapFind_filter_true _ (fun k _ => !fs.any fun g => isInst g k) _ fun _ => by simp [h]]

theorem lt_of_mem_stoppedFns {n : Nat} (hn : n ∈ stoppedFns) : n < 256 := by
  have hall : ∀ n ∈ stoppedFns, n < 256 := by
    simp only [stoppedFns, capsFns, List.forall_mem_append, List.forall_mem_map, List.mem_range]
    exact ⟨by decide, ⟨⟨by decide, fun _ _ => by omega⟩, fun _ _ => by omega⟩, fun _ _ => by omega⟩
  exact hall n hn

/-- Stopping every unit leaves the indices of the fault ring. -/
theorem rd_stopUnits_faultIdx {f : Fld} (hf : f = Reg.memFaultIdxTail ∨ f = Reg.memFaultIdxHead) (s : State) :
    rd (stopUnits s) f 0 = rd s f 0 := by
  have hkey : fldKey f 0 = 33554720 ∨ fldKey f 0 = 33554728 := by rcases hf with rfl | rfl <;> decide
  have hinst : stoppedFlds.any (fun g => isInst g (fldKey f 0)) = false := by rcases hf with rfl | rfl <;> decide
  refine Eq.trans ?_ (rd_resetFlds_of_not_inst hinst s)
  refine (rd_foldl (fun b _ t => rd_wr_ne _ _ _ _ _ _ ?_) _).trans (rd_foldl (fun n hn t => ?_) _)
  · simp only [fldKey, Reg.benchStateRole] at hkey ⊢
    omega
  · have hn256 := lt_of_mem_stoppedFns (List.mem_of_mem_filter hn)
    rw [rd_wr_ne, rd_wr_ne, rd_wr_ne]
    all_goals
      simp only [fldKey, Reg.readyFnState, Reg.readyFnStatus, Reg.readyFnReadyMs] at hkey ⊢
      omega

theorem now_lossStopped (s : State) : now (lossStopped s) = now s := by
  have hkept : Kept [.regs, .mem, .work, .yards, .fab, .crush, .cores, .radio, .tdfe, .cfg, .health, .boot, .power] s (lossStopped s) :=
    Kept.foldl (Kept.setBootPower (stopUnits_kept (.refl _ s) rfl) rfl rfl id) fun _ _ h => wr_kept h rfl
  exact congrArg Clock.ns (hkept.1 .clock (by decide))

theorem rd_lossStopped_faultIdx {f : Fld} (hf : f = Reg.memFaultIdxTail ∨ f = Reg.memFaultIdxHead) (s : State) :
    rd (lossStopped s) f 0 = rd s f 0 := by
  refine (rd_foldl (fun e he t => rd_wr_ne _ _ _ _ _ _ ?_) _).trans (rd_stopUnits_faultIdx hf s)
  have hstage : e.1.base ≥ 117440512 ∧ e.1.stride = 0 := (by decide : ∀ e ∈ [(Reg.powerStatState, 2), (Reg.powerStatInOk, 0), (Reg.powerStatInLow, 0),
    (Reg.powerStatInHigh, 0), (Reg.powerInInMv, 0)], e.1.base ≥ 117440512 ∧ e.1.stride = 0) e he
  rcases hf with rfl | rfl <;> (simp only [fldKey, Reg.memFaultIdxTail, Reg.memFaultIdxHead, hstage.2]; omega)

/-- The record lands on the state of the 48 V stage, and what the row does after it leaves that state. -/
theorem inputLoss_farFaultTail (high : Bool) : ∃ t, execInputLoss high farFaultTail = .next t ∧ rd t Reg.powerStatState 0 ≠ 2 := by
  have htail : rd (lossStopped farFaultTail) Reg.memFaultIdxTail 0 = 326656 := rd_lossStopped_faultIdx (.inl rfl) _
  have hhead : rd (lossStopped farFaultTail) Reg.memFaultIdxHead 0 = 0 := rd_lossStopped_faultIdx (.inr rfl) _
  have hnow : now (lossStopped farFaultTail) = 0 := now_lossStopped _
  have hrecord := rd_faultRecord_beyond hnow htail hhead (Config.unstated (lossStopped farFaultTail).free % 256) 0 0 (if high then 2 else 1)
  refine ⟨_, execInputLoss_of_converting rfl high, ?_⟩
  rwa [rd_lossEnded]

end Sys2Proof.Machine

section

open Sys2Proof Sys2Proof.Machine

/-- Refutes O58: an input loss whose fault record lands on POWER_STAT leaves a state that is not HOLDUP. The statement has no premise that the
tail of the fault ring fits its 8 bits. -/
theorem not_powerStageAndCables : ¬ Obligations.PowerStageAndCables := by
  intro h
  obtain ⟨-, -, -, hloss, -⟩ := h farFaultTail false false 0 0 0 0 false [] 0 .overpower 0 0 default 0 0
  obtain ⟨t, ht, -, -, -, -, hstate, -⟩ := hloss rfl
  obtain ⟨u, hu, hne⟩ := inputLoss_farFaultTail false
  obtain rfl := Host.Outcome.next.inj (hu.symm.trans ((exec_inputLoss ..).symm.trans ht))
  exact hne hstate

end

end

section
/-! SUPPORT. Chisel cores: one slot of a bundle (R309), what it leaves pending, how a core faults (R326), and 32-bit arithmetic (R308). -/

-- Elaborates one proof at a time: in the one text, proofs that wait for one another each hold a thread.
set_option deprecated.oldSectionVars true

namespace Sys2Proof.Machine

/-! ### A slot of a bundle -/

/-- The state after a slot has left the core `c`: the slot that ends the bundle ends it. -/
def slotDone (s : State) (n : Nat) (last : Bool) (c : Core) : State :=
  if last then endBundle (putCore s n { c with mid := true }) n else putCore s n { c with mid := true }

/-- A core with further results pending. -/
def Core.pends (c : Core) (l : List PendReg) : Core := { c with pend := c.pend ++ l }

theorem pends_eq (c : Core) (l : List PendReg) : c.pends l = { c with pend := c.pend ++ l } := rfl

theorem slotDone_last (s : State) (n : Nat) (c : Core) : slotDone s n true c = endBundle (putCore s n { c with mid := true }) n := rfl

section
variable {i : Instr} {s : State} {core : BitVec 6} {last : Bool} {f : Core → Except Nat Core}

theorem issueSlot_of_idle (hm : mayIssue s core.toNat = false) : issueSlot s core last f = s := by
  unfold issueSlot
  simp [hm]

theorem issueSlot_of_ok {c : Core} (hm : mayIssue s core.toNat = true) (hf : f (getCore s core.toNat) = .ok c) :
    issueSlot s core last f = slotDone s core.toNat last c := by
  unfold issueSlot slotDone
  simp [hm, hf]

theorem issueSlot_of_error {cause : Nat} (hm : mayIssue s core.toNat = true) (hf : f (getCore s core.toNat) = .error cause) :
    issueSlot s core last f = coreFault s core.toNat cause (getCore s core.toNat).pc := by
  unfold issueSlot
  simp [hm, hf]

/-- A row that issues a slot leaves what the slot leaves. -/
theorem gives_slotDone {c : Core} (hm : mayIssue s core.toNat = true) (hexec : exec i s = .next (issueSlot s core last f))
    (hf : f (getCore s core.toNat) = .ok c) : Gives i s (fun t => t = slotDone s core.toNat last c) :=
  ⟨_, hexec, issueSlot_of_ok hm hf⟩

end

/-! ### Pending results -/

/-- The result of an instruction for a register, and STATUS.sat with it where it saturated. -/
def results (c : Core) (lat key value : Nat) (sat : Bool) : List PendReg :=
  ⟨key, value, c.bundle + lat, .write⟩ :: if sat then [⟨0x28, 4, c.bundle + lat, .set⟩] else []

theorem later_eq (c : Core) (lat key value : Nat) : c.later lat key value = c.pends [⟨key, value, c.bundle + lat, .write⟩] := rfl

theorem pends_pends (c : Core) (l l' : List PendReg) : (c.pends l).pends l' = c.pends (l ++ l') := by
  simp [pends_eq]

theorem laterSat_eq (c : Core) (lat : Nat) (sat : Bool) :
    c.laterSat lat sat = c.pends (if sat then [⟨0x28, 4, c.bundle + lat, .set⟩] else []) := by
  cases sat <;> simp [Core.laterSat, pends_eq]

theorem laterSat_later (c : Core) (lat key value : Nat) (sat : Bool) :
    (c.later lat key value).laterSat lat sat = c.pends (results c lat key value sat) := by
  rw [laterSat_eq, later_eq, pends_pends]
  rfl

section
variable {i : Instr} {s : State} {core : BitVec 6} {gd ga gb : BitVec 5} {last : Bool}

/-- A three-register scalar slot writes its value, and marks its saturation, `lat` bundles later. -/
theorem salu_of_issuing {lat v : Nat} {sat : Bool} {f : Nat → Nat → Nat × Bool} (hm : mayIssue s core.toNat = true)
    (hf : f ((getCore s core.toNat).g ga.toNat) ((getCore s core.toNat).g gb.toNat) = (v, sat)) :
    salu s core gd ga gb last lat f = slotDone s core.toNat last
      ((getCore s core.toNat).pends (results (getCore s core.toNat) lat (kG gd.toNat) v sat)) :=
  issueSlot_of_ok (f := fun c => .ok (scalarOut c lat gd.toNat (f (c.g ga.toNat) (c.g gb.toNat)))) hm (by rw [hf, scalarOut, laterSat_later])

/-- A scalar slot with an immediate writes its value for the next bundle. -/
theorem salui_of_issuing {v : Nat} {f : Nat → Nat} (hm : mayIssue s core.toNat = true) (hf : f ((getCore s core.toNat).g ga.toNat) = v) :
    salui s core gd ga last f = slotDone s core.toNat last
      ((getCore s core.toNat).pends (results (getCore s core.toNat) 1 (kG gd.toNat) v false)) :=
  issueSlot_of_ok (f := fun c => .ok (c.later 1 (kG gd.toNat) (f (c.g ga.toNat)))) hm (by rw [hf]; rfl)

theorem salu_of_idle {lat : Nat} {f : Nat → Nat → Nat × Bool} (hm : mayIssue s core.toNat = false) :
    salu s core gd ga gb last lat f = s :=
  issueSlot_of_idle (f := fun c => .ok (scalarOut c lat gd.toNat (f (c.g ga.toNat) (c.g gb.toNat)))) hm

theorem salui_of_idle {f : Nat → Nat} (hm : mayIssue s core.toNat = false) : salui s core gd ga last f = s :=
  issueSlot_of_idle (f := fun c => .ok (c.later 1 (kG gd.toNat) (f (c.g ga.toNat)))) hm

theorem gives_salu {lat v : Nat} {sat : Bool} {f : Nat → Nat → Nat × Bool} (hm : mayIssue s core.toNat = true)
    (hexec : exec i s = .next (salu s core gd ga gb last lat f))
    (hf : f ((getCore s core.toNat).g ga.toNat) ((getCore s core.toNat).g gb.toNat) = (v, sat)) :
    Gives i s (fun t => t = slotDone s core.toNat last
      ((getCore s core.toNat).pends (results (getCore s core.toNat) lat (kG gd.toNat) v sat))) :=
  ⟨_, hexec, salu_of_issuing hm hf⟩

theorem gives_salui {v : Nat} {f : Nat → Nat} (hm : mayIssue s core.toNat = true)
    (hexec : exec i s = .next (salui s core gd ga last f)) (hf : f ((getCore s core.toNat).g ga.toNat) = v) :
    Gives i s (fun t => t = slotDone s core.toNat last
      ((getCore s core.toNat).pends (results (getCore s core.toNat) 1 (kG gd.toNat) v false))) :=
  ⟨_, hexec, salui_of_issuing hm hf⟩

end

/-! ### Numbers as words -/

theorem codeOf_eq (v : Int) (w : Nat) : codeOf v w = (BitVec.ofInt w v).toNat := by
  unfold codeOf
  simp

theorem signedOf_eq (v : Nat) {w : Nat} (hw : 0 < w) : signedOf v w = (BitVec.ofNat w v).toInt := by
  obtain ⟨k, rfl⟩ : ∃ k, w = k + 1 := ⟨w - 1, by omega⟩
  rw [signedOf, BitVec.toInt_eq_toNat_cond, BitVec.toNat_ofNat, Nat.add_sub_cancel]
  have hpow := Nat.pow_succ 2 k
  split <;> split <;> omega

theorem s32_eq (v : Nat) : s32 v = (BitVec.ofNat 32 v).toInt := signedOf_eq v (by simp)

/-- An exact result held between the least and the greatest number of a signed width. -/
def clampTo (w : Nat) (v : Int) : Int := max (-(2 ^ (w - 1))) (min (2 ^ (w - 1) - 1) v)

section
variable {w : Nat} {v : Int}

theorem clampTo_of_lt (h : v < -(2 ^ (w - 1))) : clampTo w v = -(2 ^ (w - 1)) := max_eq_left ((min_le_right ..).trans h.le)

theorem clampTo_of_ge (h : 2 ^ (w - 1) ≤ v) : clampTo w v = 2 ^ (w - 1) - 1 := by
  have hpos : (0 : Int) < 2 ^ (w - 1) := by positivity
  unfold clampTo
  rw [min_eq_left (by omega), max_eq_right (by omega)]

theorem clampTo_of_fits (hlow : ¬ v < -(2 ^ (w - 1))) (hhigh : ¬ 2 ^ (w - 1) ≤ v) : clampTo w v = v := by
  unfold clampTo
  rw [min_eq_right (by omega), max_eq_right (by omega)]

/-- Narrowing wraps, or clamps and marks what it changed (R308). -/
theorem narrow_eq (hw : 0 < w) (sat : Bool) (v : Int) :
    narrow w sat v = ((BitVec.ofInt w (if sat then clampTo w v else v)).toNat, sat && (clampTo w v != v)) := by
  have hpos : (0 : Int) < 2 ^ (w - 1) := by positivity
  have hpow : ((2 ^ w : Nat) : Int) = 2 * 2 ^ (w - 1) := by
    rw [← pow_succ', Nat.sub_add_cancel hw]
    norm_cast
  have hleast : codeOf (-(2 ^ (w - 1))) w = 2 ^ (w - 1) := by
    rw [codeOf, hpow, ← Int.add_emod_right, Int.emod_eq_of_lt (by omega) (by omega)]
    zify
    rw [Int.toNat_of_nonneg] <;> omega
  have hgreatest : codeOf (2 ^ (w - 1) - 1) w = 2 ^ (w - 1) - 1 := by
    rw [codeOf, hpow, Int.emod_eq_of_lt (by omega) (by omega)]
    zify [Nat.one_le_two_pow]
    rw [Int.toNat_of_nonneg]; omega
  cases sat with
  | false => simp [narrow, codeOf_eq]
  | true =>
    simp only [narrow, if_true, Bool.true_and, ← codeOf_eq]
    split
    case isTrue hlow =>
      rw [clampTo_of_lt hlow, hleast, bne_iff_ne.2 (by omega)]
    case isFalse hlow =>
      split
      case isTrue hhigh => rw [clampTo_of_ge hhigh, hgreatest, bne_iff_ne.2 (by omega)]
      case isFalse hhigh => simp [clampTo_of_fits hlow hhigh]

end

/-! ### 32-bit words (R308, R320, R321) -/

theorem narrow_32 (sat : Bool) (v : Int) : narrow 32 sat v =
    ((BitVec.ofInt 32 (if sat then max (-2147483648) (min 2147483647 v) else v)).toNat, sat && (max (-2147483648) (min 2147483647 v) != v)) :=
  narrow_eq (by simp) sat v

theorem toNat_ofNat_of_lt {w v : Nat} (h : v < 2 ^ w) : (BitVec.ofNat w v).toNat = v := by simp [Nat.mod_eq_of_lt h]

section
variable {a b : Nat}

theorem mulh_eq (x y : BitVec 32) :
    codeOf (x.toInt * y.toInt / 2 ^ 32) 32 = ((x.signExtend 64 * y.signExtend 64).extractLsb' 32 32).toNat := by
  have hproduct : x.signExtend 64 * y.signExtend 64 = BitVec.ofInt 64 (x.toInt * y.toInt) := (BitVec.ofInt_mul ..).symm
  rw [hproduct, codeOf_eq, BitVec.extractLsb'_toNat, BitVec.toNat_ofInt, BitVec.toNat_ofInt, Nat.shiftRight_eq_div_pow]
  generalize x.toInt * y.toInt = p
  omega

theorem and_eq {w : Nat} (ha : a < 2 ^ w) (hb : b < 2 ^ w) : a &&& b = (BitVec.ofNat w a &&& BitVec.ofNat w b).toNat := by
  rw [BitVec.toNat_and, toNat_ofNat_of_lt ha, toNat_ofNat_of_lt hb]

theorem or_eq {w : Nat} (ha : a < 2 ^ w) (hb : b < 2 ^ w) : a ||| b = (BitVec.ofNat w a ||| BitVec.ofNat w b).toNat := by
  rw [BitVec.toNat_or, toNat_ofNat_of_lt ha, toNat_ofNat_of_lt hb]

theorem xor_eq {w : Nat} (ha : a < 2 ^ w) (hb : b < 2 ^ w) : a ^^^ b = (BitVec.ofNat w a ^^^ BitVec.ofNat w b).toNat := by
  rw [BitVec.toNat_xor, toNat_ofNat_of_lt ha, toNat_ofNat_of_lt hb]

/-- Words are equal when they are equal as signed numbers. -/
theorem eq_of_s32_eq (ha : a < 2 ^ 32) (hb : b < 2 ^ 32) (h : s32 a = s32 b) : a = b := by
  rw [s32_eq, s32_eq] at h
  have hword := congrArg BitVec.toNat (BitVec.eq_of_toInt_eq h)
  rwa [toNat_ofNat_of_lt ha, toNat_ofNat_of_lt hb] at hword

theorem slt_eq (a b : Nat) : (BitVec.ofNat 32 a).slt (BitVec.ofNat 32 b) = decide (s32 a < s32 b) := by
  rw [s32_eq, s32_eq, BitVec.slt_eq_decide]

theorem min_eq (ha : a < 2 ^ 32) (hb : b < 2 ^ 32) : (if s32 a ≤ s32 b then a else b) =
    (if (BitVec.ofNat 32 a).slt (BitVec.ofNat 32 b) then BitVec.ofNat 32 a else BitVec.ofNat 32 b).toNat := by
  rw [slt_eq, apply_ite BitVec.toNat, toNat_ofNat_of_lt ha, toNat_ofNat_of_lt hb]
  rcases lt_trichotomy (s32 a) (s32 b) with h | h | h
  · simp [h, h.le]
  · simp [eq_of_s32_eq ha hb h]
  · simp [h.not_gt, h.not_ge]

theorem max_eq (ha : a < 2 ^ 32) (hb : b < 2 ^ 32) : (if s32 a ≤ s32 b then b else a) =
    (if (BitVec.ofNat 32 a).slt (BitVec.ofNat 32 b) then BitVec.ofNat 32 b else BitVec.ofNat 32 a).toNat := by
  rw [slt_eq, apply_ite BitVec.toNat, toNat_ofNat_of_lt ha, toNat_ofNat_of_lt hb]
  rcases lt_trichotomy (s32 a) (s32 b) with h | h | h
  · simp [h, h.le]
  · simp [eq_of_s32_eq ha hb h]
  · simp [h.not_gt, h.not_ge]

theorem sltFlag_eq (a b : Nat) : bit01 (s32 a < s32 b) = if (BitVec.ofNat 32 a).slt (BitVec.ofNat 32 b) then 1 else 0 := by
  rw [slt_eq]
  rfl

theorem sltuFlag_eq (ha : a < 2 ^ 32) (hb : b < 2 ^ 32) :
    bit01 (decide (a < b)) = if (BitVec.ofNat 32 a).ult (BitVec.ofNat 32 b) then 1 else 0 := by
  rw [BitVec.ult_eq_decide, toNat_ofNat_of_lt ha, toNat_ofNat_of_lt hb]
  rfl

/-- A signed immediate is added as its 32-bit word. -/
theorem addImm_eq (a : Nat) (imm : BitVec 12) : codeOf (s32 a + imm.toInt) 32 = (BitVec.ofNat 32 a + imm.signExtend 32).toNat := by
  rw [codeOf_eq, s32_eq, BitVec.ofInt_add, BitVec.ofInt_toInt]
  rfl

theorem codeOf_imm (imm : BitVec 12) : codeOf imm.toInt 32 = (imm.signExtend 32).toNat := codeOf_eq ..

theorem andImm_eq (ha : a < 2 ^ 32) (imm : BitVec 12) : a &&& codeOf imm.toInt 32 = (BitVec.ofNat 32 a &&& imm.signExtend 32).toNat := by
  rw [BitVec.toNat_and, toNat_ofNat_of_lt ha, codeOf_imm]

theorem orImm_eq (ha : a < 2 ^ 32) (imm : BitVec 12) : a ||| codeOf imm.toInt 32 = (BitVec.ofNat 32 a ||| imm.signExtend 32).toNat := by
  rw [BitVec.toNat_or, toNat_ofNat_of_lt ha, codeOf_imm]

theorem xorImm_eq (ha : a < 2 ^ 32) (imm : BitVec 12) : a ^^^ codeOf imm.toInt 32 = (BitVec.ofNat 32 a ^^^ imm.signExtend 32).toNat := by
  rw [BitVec.toNat_xor, toNat_ofNat_of_lt ha, codeOf_imm]

theorem sar_eq (a k : Nat) : codeOf (s32 a / 2 ^ k) 32 = ((BitVec.ofNat 32 a).sshiftRight k).toNat := by
  rw [codeOf_eq, s32_eq, BitVec.sshiftRight, Int.shiftRight_eq_div_pow]
  norm_cast

theorem shr_eq (ha : a < 2 ^ 32) (k : Nat) : a / 2 ^ k = (BitVec.ofNat 32 a >>> k).toNat := by
  rw [BitVec.toNat_ushiftRight, toNat_ofNat_of_lt ha, Nat.shiftRight_eq_div_pow]

theorem shl_eq (a k : Nat) : codeOf (s32 a * 2 ^ k) 32 = (BitVec.ofNat 32 a <<< k).toNat := by
  have hpow : BitVec.ofInt 32 (2 ^ k) = BitVec.twoPow 32 k := by
    apply BitVec.eq_of_toNat_eq
    rw [BitVec.toNat_twoPow, BitVec.toNat_ofInt]
    norm_cast
  rw [codeOf_eq, s32_eq, BitVec.ofInt_mul, BitVec.ofInt_toInt, hpow, BitVec.shiftLeft_eq_mul_twoPow]

end

/-! ### Shifts and their free values -/

section
variable {i : Instr} {s : State} {core : BitVec 6} {gd ga gb : BitVec 5} {last : Bool}

theorem gives_lui {imm : BitVec 17} (hm : mayIssue s core.toNat = true) :
    Gives (.lui core gd imm last) s (fun t => t = slotDone s core.toNat last
      ((getCore s core.toNat).pends (results (getCore s core.toNat) 1 (kG gd.toNat) (imm.toNat * 2 ^ 15) false))) :=
  gives_slotDone (f := fun c => .ok (c.later 1 (kG gd.toNat) (imm.toNat * 2 ^ 15))) hm rfl (congrArg Except.ok (laterSat_later (sat := false) ..))

theorem shiftBy_of_lt {free k : Nat} (h : k < 32) (r : Nat × Bool) : shiftBy free k r = r := if_pos h

theorem drawnIf_of_true {p : Bool} {t : State} (hp : p = true) : drawnIf p t = drawn t := if_pos hp

/-- A shift by an amount that is stated draws no free value. -/
theorem gives_shift {p : Bool} {t u : State} (hexec : exec i s = .next (drawnIf p t)) (hp : p = false) (ht : t = u) :
    Gives i s (fun t => t = u) :=
  ⟨_, hexec, (if_neg (by simp [hp])).trans ht⟩

/-- What is stated of a shift whose amount is above 31: its register is written for the next bundle, with a free value. -/
def ShiftsFreely (s t : State) (n key : Nat) : Prop :=
  t.free = s.free + 1 ∧ (getCore t n).mid = true ∧ (getCore t n).pend.take (getCore s n).pend.length = (getCore s n).pend ∧
    ((getCore t n).pend[(getCore s n).pend.length]?).map (fun p => (p.key, p.lands)) = some (key, (getCore s n).bundle + 1) ∧
    SameCores [n] s t ∧ OnlyParts [.cores, .free] s t

theorem sameCores_putCore (s : State) (n : Nat) (c : Core) : SameCores [n] s (putCore s n c) := by
  intro j hj
  rw [getCore_putCore, if_neg (by simpa [eq_comm] using hj)]

theorem getCore_putCore_same (s : State) (n : Nat) (c : Core) : getCore (putCore s n c) n = c := by rw [getCore_putCore, if_pos rfl]

theorem shiftsFreely_of_pends (s : State) (n key value : Nat) (l : List PendReg) :
    ShiftsFreely s (drawn (slotDone s n false ((getCore s n).pends (⟨key, value, (getCore s n).bundle + 1, .write⟩ :: l)))) n key := by
  have hcore : getCore (drawn (slotDone s n false ((getCore s n).pends (⟨key, value, (getCore s n).bundle + 1, .write⟩ :: l)))) n =
      { (getCore s n).pends (⟨key, value, (getCore s n).bundle + 1, .write⟩ :: l) with mid := true } := getCore_putCore_same ..
  refine ⟨rfl, ?_, ?_, ?_, sameCores_putCore s n _, ?_⟩
  · rw [hcore]
  · rw [hcore]; exact List.take_left
  · rw [hcore]; simp [pends_eq]
  · exact (drawn_kept (putCore_kept (.refl _ s) rfl) rfl).1

theorem gives_shift_free {f : Nat → Nat → Nat × Bool} (hm : mayIssue s core.toNat = true) (hb : 32 ≤ (getCore s core.toNat).g gb.toNat)
    (hexec : exec i s = .next (drawnIf (mayIssue s core.toNat && 32 ≤ (getCore s core.toNat).g gb.toNat) (salu s core gd ga gb false 1 f))) :
    Gives i s (fun t => ShiftsFreely s t core.toNat (kG gd.toNat)) := by
  refine ⟨_, hexec, ?_⟩
  rw [drawnIf_of_true (by simp [hm, hb]), salu_of_issuing hm rfl]
  exact shiftsFreely_of_pends ..

theorem gives_shiftImm_free {k : Nat} {f : Nat → Nat} (hm : mayIssue s core.toNat = true) (hk : 32 ≤ k)
    (hexec : exec i s = .next (drawnIf (mayIssue s core.toNat && 32 ≤ k) (salui s core gd ga false f))) :
    Gives i s (fun t => ShiftsFreely s t core.toNat (kG gd.toNat)) := by
  refine ⟨_, hexec, ?_⟩
  rw [drawnIf_of_true (by simp [hm, hk]), salui_of_issuing hm rfl]
  exact shiftsFreely_of_pends ..

end

end Sys2Proof.Machine

section

open Sys2Proof Sys2Proof.Machine

/-- Settles O44: every row is one scalar slot, whose value is that of the 32-bit words it reads. -/
theorem scalarInstructions : Obligations.ScalarInstructions := by
  intro s core gd ga gb imm imm17 sat last n c a b x y i clamp fin put arith word flag drawsFree
  refine ⟨fun hm ha hb => ?words, fun hm ha hb => ?shifts, fun hm ha hk => ?shiftsImm, fun hm hb => ?freeShifts, fun hm hk => ?freeShiftsImm,
    fun hm => ⟨⟨_, rfl, salu_of_idle hm⟩, gives_shift rfl (congrArg (· && decide (32 ≤ imm.toNat)) hm) (salui_of_idle hm)⟩⟩
  case words =>
    have hsum (f : Int → Int → Int) : narrow 32 sat (f (s32 a) (s32 b)) =
        ((BitVec.ofInt 32 (if sat then clamp (f x.toInt y.toInt) else f x.toInt y.toInt)).toNat,
          sat && (clamp (f x.toInt y.toInt) != f x.toInt y.toInt)) := by
      rw [s32_eq, s32_eq]; exact narrow_32 ..
    refine ⟨gives_salu hm rfl (hsum (· + ·)), gives_salu hm rfl (hsum (· - ·)), gives_salu hm rfl (hsum (· * ·)), gives_salu hm rfl ?mulh,
      gives_salu hm rfl (congrArg (·, false) (and_eq ha hb)), gives_salu hm rfl (congrArg (·, false) (or_eq ha hb)),
      gives_salu hm rfl (congrArg (·, false) (xor_eq ha hb)), gives_salu hm rfl (congrArg (·, false) (min_eq ha hb)),
      gives_salu hm rfl (congrArg (·, false) (max_eq ha hb)), gives_salu hm rfl (congrArg (·, false) (sltFlag_eq a b)),
      gives_salu hm rfl (congrArg (·, false) (sltuFlag_eq ha hb)), gives_salui hm rfl (addImm_eq a imm), gives_salui hm rfl (andImm_eq ha imm),
      gives_salui hm rfl (orImm_eq ha imm), gives_salui hm rfl (xorImm_eq ha imm), ?lui⟩
    case mulh => exact congrArg (·, false) (by rw [s32_eq, s32_eq]; exact mulh_eq x y)
    case lui => exact gives_lui hm
  case shifts =>
    have hdrawn : (mayIssue s n && decide (32 ≤ b)) = false := by simp [hb]
    refine ⟨gives_shift rfl hdrawn (salu_of_issuing hm ?_), gives_shift rfl hdrawn (salu_of_issuing hm ?_),
      gives_shift rfl hdrawn (salu_of_issuing hm ?_)⟩ <;> rw [shiftBy_of_lt hb, if_pos hb]
    · rw [s32_eq]; exact narrow_32 ..
    · rw [sar_eq]
    · rw [shr_eq ha]
  case shiftsImm =>
    have hdrawn : (mayIssue s n && decide (32 ≤ imm.toNat)) = false := by simp [hk]
    refine ⟨gives_shift rfl hdrawn (salui_of_issuing hm ?_), gives_shift rfl hdrawn (salui_of_issuing hm ?_),
      gives_shift rfl hdrawn (salui_of_issuing hm ?_)⟩ <;> rw [shiftBy_of_lt hk, if_pos hk]
    · exact shl_eq ..
    · exact sar_eq ..
    · exact shr_eq ha _
  case freeShifts =>
    exact ⟨gives_shift_free hm hb rfl, gives_shift_free hm hb rfl, gives_shift_free hm hb rfl⟩
  case freeShiftsImm =>
    exact ⟨gives_shiftImm_free hm hk rfl, gives_shiftImm_free hm hk rfl, gives_shiftImm_free hm hk rfl⟩
end

end

section
/-! SUPPORT. Chisel cores: registers after writes, what a fault leaves (R326), landing results (R309, R310), the loop check (R314) and the end of
a bundle. -/

-- Elaborates one proof at a time: in the one text, proofs that wait for one another each hold a thread.
set_option deprecated.oldSectionVars true

namespace Sys2Proof.Machine

/-! ### Registers and memories of a core -/

section
variable {c : Core} {k j v : Nat}

theorem reg_setReg_ne (h : k ≠ j) : (c.setReg k v).reg j = c.reg j := by
  unfold Core.setReg
  split
  · rfl
  · simp [Core.reg, mapGet, mapFind_mapPut_ne _ _ _ _ _ h]

theorem reg_setReg_same (h : k ≠ 0x100) : (c.setReg k v).reg k = v % 2 ^ coreWidth k := by
  simp [Core.setReg, Core.reg, mapGet_mapPut, h]

theorem store_cons (c : Core) (a : Nat) (b : Byte) (bs : List Byte) :
    c.store a (b :: bs) = Core.store { c with mem := mapPut c.mem a b 0 } (a + 1) bs := rfl

/-- Stored bytes leave every byte outside them. -/
theorem mapGet_store_out {a x : Nat} {bs : List Byte} (h : ¬ (a ≤ x ∧ x < a + bs.length)) : mapGet (c.store a bs).mem x 0 = mapGet c.mem x 0 := by
  induction bs generalizing c a with
  | nil => rfl
  | cons b bs ih =>
    simp only [List.length_cons] at h
    rw [store_cons, ih (by omega), mapGet_mapPut, if_neg (by omega)]

theorem mapGet_store_in {a i : Nat} {bs : List Byte} (h : i < bs.length) : mapGet (c.store a bs).mem (a + i) 0 = bs[i] := by
  induction bs generalizing c a i with
  | nil => simp at h
  | cons b bs ih =>
    cases i with
    | zero => rw [store_cons, mapGet_store_out (by omega), mapGet_mapPut, if_pos (by omega)]; rfl
    | succ i => rw [store_cons, show a + (i + 1) = a + 1 + i by omega, ih (by simpa using h)]; rfl

/-- Stored bytes read back. -/
theorem bytes_store (c : Core) (a : Nat) (bs : List Byte) : (c.store a bs).bytes a bs.length = bs := by
  refine List.ext_getElem (by simp [Core.bytes]) fun i hi _ => ?_
  simp only [Core.bytes, List.length_map, List.length_range] at hi
  simp only [Core.bytes, List.getElem_map, List.getElem_range]
  exact mapGet_store_in hi

end

/-! ### What differs in registers and memories only -/

/-- Two cores differ in their registers, memories and comparator only. -/
def OnlyData (c d : Core) : Prop := ∃ regs mem armed, d = { c with regs := regs, mem := mem, tcmpArmed := armed }

section
variable {c d e : Core}

theorem OnlyData.refl (c : Core) : OnlyData c c := ⟨_, _, _, rfl⟩

theorem OnlyData.trans (h : OnlyData c d) (h' : OnlyData d e) : OnlyData c e := by
  obtain ⟨_, _, _, rfl⟩ := h
  obtain ⟨_, _, _, rfl⟩ := h'
  exact ⟨_, _, _, rfl⟩

/-- Every field besides is as before. -/
theorem OnlyData.same {α : Type} (h : OnlyData c d) (field : Core → α)
    (hfield : ∀ regs mem armed, field { c with regs := regs, mem := mem, tcmpArmed := armed } = field c) :
    field d = field c := by
  obtain ⟨_, _, _, rfl⟩ := h
  exact hfield ..

theorem onlyData_setReg (c : Core) (k v : Nat) : OnlyData c (c.setReg k v) := by
  unfold Core.setReg
  split
  · exact .refl c
  · exact ⟨_, _, _, rfl⟩

theorem onlyData_armed (c : Core) (armed : Bool) : OnlyData c { c with tcmpArmed := armed } := ⟨_, _, _, rfl⟩

theorem onlyData_store (c : Core) (a : Nat) (bs : List Byte) : OnlyData c (c.store a bs) := by
  induction bs generalizing c a with
  | nil => exact .refl c
  | cons b bs ih => exact OnlyData.trans ⟨_, _, _, rfl⟩ (ih ..)

theorem onlyData_land (c : Core) (t : Nat) (p : PendReg) : OnlyData c (c.land t p) := by
  unfold Core.land
  split
  · exact onlyData_setReg ..
  · exact onlyData_setReg ..
  · refine (onlyData_setReg c p.key p.value).trans ?_
    split
    · dsimp only
      split
      · exact onlyData_armed ..
      · split
        · exact (onlyData_armed _ false).trans (onlyData_setReg ..)
        · exact onlyData_armed ..
    · exact .refl _

theorem onlyData_foldl {α : Type} {g : Core → α → Core} (hg : ∀ c x, OnlyData c (g c x)) (l : List α) (c : Core) : OnlyData c (l.foldl g c) := by
  induction l generalizing c with
  | nil => exact .refl c
  | cons x l ih => exact (hg c x).trans (ih _)

/-- One level of the loop check, from the innermost level on (R313). -/
theorem loopCheck_succ (c : Core) (pc j : Nat) : loopCheck c pc (j + 1) =
    if c.reg (0x18 + j) ≠ 0 ∧ c.reg (0x20 + j) = pc then
      if 1 < c.reg (0x18 + j) then (c.setReg (0x18 + j) (c.reg (0x18 + j) - 1), some (c.reg (0x1C + j)))
      else loopCheck (c.setReg (0x18 + j) 0) pc j
    else loopCheck c pc j := rfl

theorem onlyData_loopCheck (c : Core) (pc k : Nat) : OnlyData c (loopCheck c pc k).1 := by
  induction k generalizing c with
  | zero => exact .refl c
  | succ k ih =>
    rw [loopCheck_succ]
    split
    · split
      · exact onlyData_setReg ..
      · exact (onlyData_setReg ..).trans (ih _)
    · exact ih c

end

/-! ### Landing of results -/

section
variable {c : Core} {t k : Nat} {p : PendReg}

/-- A plain write lands as a write of its register. -/
theorem land_write (hkind : p.kind = .write) (hkey : p.key ≠ 0x43) : c.land t p = c.setReg p.key p.value := by
  obtain ⟨key, value, lands, kind⟩ := p
  obtain rfl : kind = .write := hkind
  exact if_neg hkey

theorem reg_land_write (hkind : p.kind = .write) (hkey : p.key ≠ 0x43) (hzero : p.key ≠ 0x100) :
    (c.land t p).reg p.key = p.value % 2 ^ coreWidth p.key := by
  rw [land_write hkind hkey, reg_setReg_same hzero]

/-- The core once its due results have landed; its stores are still to be seen. -/
def Core.dueLanded (c : Core) (t : Nat) : Core :=
  (c.pend.filter (fun p => p.lands ≤ c.bundle)).foldl (fun c p => c.land t p) { c with pend := c.pend.filter (fun p => c.bundle < p.lands) }

theorem landDue_eq (c : Core) (t : Nat) :
    c.landDue t = { (c.dueLanded t).stores.foldl (fun c w => c.store w.addr w.data) (c.dueLanded t) with stores := [] } := rfl

theorem dueLanded_onlyData (c : Core) (t : Nat) : OnlyData { c with pend := c.pend.filter (fun p => c.bundle < p.lands) } (c.dueLanded t) :=
  onlyData_foldl (fun c p => onlyData_land c t p) ..

theorem regs_store (c : Core) (a : Nat) (bs : List Byte) : (c.store a bs).regs = c.regs := by
  induction bs generalizing c a with
  | nil => rfl
  | cons b bs ih => exact ih ..

theorem regs_landDue (c : Core) (t : Nat) : (c.landDue t).regs = (c.dueLanded t).regs := by
  rw [landDue_eq]
  exact List.foldlRecOn (motive := fun d : Core => d.regs = (c.dueLanded t).regs) _ _ rfl fun d hd w _ => (regs_store ..).trans hd

theorem reg_landDue (c : Core) (t k : Nat) : (c.landDue t).reg k = (c.dueLanded t).reg k := by
  rw [Core.reg, Core.reg, regs_landDue]

theorem stores_dueLanded (c : Core) (t : Nat) : (c.dueLanded t).stores = c.stores :=
  (dueLanded_onlyData c t).same Core.stores (fun _ _ _ => rfl)

/-- A store of the bundle before is seen. -/
theorem bytes_landDue_of_one {w : PendMem} (h : c.stores = [w]) : (c.landDue t).bytes w.addr w.data.length = w.data := by
  rw [landDue_eq, stores_dueLanded, h]
  exact bytes_store (c.dueLanded t) ..

/-- Landing changes registers and memories, and takes what has landed from what is pending. -/
theorem landDue_onlyData (c : Core) (t : Nat) :
    OnlyData { c with pend := c.pend.filter (fun p => c.bundle < p.lands), stores := [] } (c.landDue t) := by
  obtain ⟨regs, mem, armed, hdue⟩ := dueLanded_onlyData c t
  obtain ⟨regs', mem', armed', hstore⟩ := onlyData_foldl (fun c (w : PendMem) => onlyData_store c w.addr w.data) (c.dueLanded t).stores (c.dueLanded t)
  rw [landDue_eq, hstore, hdue]
  exact ⟨_, _, _, rfl⟩

theorem regs_landDue_of_none_due (h : ∀ p ∈ c.pend, c.bundle < p.lands) : (c.landDue t).regs = c.regs := by
  have hnone : c.pend.filter (fun p => p.lands ≤ c.bundle) = [] := by
    simp only [List.filter_eq_nil_iff, decide_eq_true_eq]
    exact fun p hp => Nat.not_le.2 (h p hp)
  rw [regs_landDue]
  unfold Core.dueLanded
  rw [hnone]
  rfl

/-- Results that are due land after those that were pending before them. -/
theorem dueLanded_append {l l' : List PendReg} (hpend : c.pend = l ++ l') (hdue : ∀ p ∈ l', p.lands ≤ c.bundle) :
    ∃ d : Core, c.dueLanded t = l'.foldl (fun c p => c.land t p) d := by
  have hall : l'.filter (fun p => p.lands ≤ c.bundle) = l' := List.filter_eq_self.2 fun p hp => decide_eq_true (hdue p hp)
  have hdueList : c.pend.filter (fun p => p.lands ≤ c.bundle) = l.filter (fun p => p.lands ≤ c.bundle) ++ l' := by
    rw [hpend, List.filter_append, hall]
  rw [Core.dueLanded, hdueList, List.foldl_append]
  exact ⟨_, rfl⟩

end

/-! ### The loop check -/

/-- A loop level ends at an address: its count is not 0 and its end is there. -/
def EndsAt (c : Core) (pc j : Nat) : Prop := c.reg (0x18 + j) ≠ 0 ∧ c.reg (0x20 + j) = pc

section
variable {c : Core} {pc j m : Nat}

/-- Levels that do not end here are passed over. -/
theorem loopCheck_pass (hjm : j ≤ m) (h : ∀ i, j ≤ i → i < m → ¬ EndsAt c pc i) : loopCheck c pc m = loopCheck c pc j := by
  induction m, hjm using Nat.le_induction with
  | base => rfl
  | succ m hjm ih =>
    rw [loopCheck_succ]
    exact (if_neg (h m hjm (by omega))).trans (ih fun i hji him => h i hji (by omega))

/-- A level that ends here and has more to run loops back. -/
theorem loopCheck_back (h : EndsAt c pc j) (hmore : 1 < c.reg (0x18 + j)) :
    loopCheck c pc (j + 1) = (c.setReg (0x18 + j) (c.reg (0x18 + j) - 1), some (c.reg (0x1C + j))) := by
  rw [loopCheck_succ]
  exact (if_pos h).trans (if_pos hmore)

/-- A level that ends here for the last time is over, and the levels within it are checked. -/
theorem loopCheck_over (h : EndsAt c pc j) (hlast : ¬ 1 < c.reg (0x18 + j)) :
    loopCheck c pc (j + 1) = loopCheck (c.setReg (0x18 + j) 0) pc j := by
  rw [loopCheck_succ]
  exact (if_pos h).trans (if_neg hlast)

end

/-! ### The end of a bundle -/

/-- The loop check of the bundle at the fetch address, while loop_en is set. -/
def Core.loopChecked (c : Core) : Core × Option Nat := if c.loopEn then loopCheck c c.pc 3 else (c, none)

/-- Where fetch goes on without a branch. -/
def Core.seqPc (c : Core) : Nat :=
  match c.loopChecked.1.loopTo with
  | some t => t
  | none => c.loopChecked.2.getD (c.loopChecked.1.pc + 16)

/-- The core that the next bundle reads, but for fetch and a branch in progress. -/
def Core.landed (c : Core) (t : Nat) : Core :=
  Core.landDue { c.loopChecked.1 with bundle := c.loopChecked.1.bundle + 1, mid := false, loopTo := none } t

/-- The core after the end of its bundle. -/
def Core.bundleEnded (c : Core) (t : Nat) : Core :=
  let d := c.landed t
  let past := c.loopChecked.1.delay = 1
  let pc := if past then (if d.rti then d.reg 0x29 else d.target.getD c.seqPc) else c.seqPc
  let e := if past ∧ d.rti then d.setReg 0x28 (d.reg 0x2A) else d
  { e with pc := pc, delay := e.delay - 1, target := if past then none else e.target, rti := e.rti && !past }

/-- The end of a bundle stores the core, counts the bundle, and faults or shows the core. -/
theorem endBundle_eq (s : State) (n : Nat) : endBundle s n =
    (let c := (getCore s n).bundleEnded (now s)
     let u := bump (putCore s n c) Reg.chiselCoreBusyCycles n 1
     if c.pc % 16 ≠ 0 ∨ 0x20000 ≤ c.pc then coreFault u n causeAddr c.pc
     else showCore (if c.waitMask.isSome then wr u Reg.chiselCoreState n 3 else u) n) := rfl

section
variable {c : Core} {t : Nat}

theorem loopChecked_onlyData (c : Core) : OnlyData c c.loopChecked.1 := by
  unfold Core.loopChecked
  split
  · exact onlyData_loopCheck ..
  · exact .refl c

theorem landed_onlyData (c : Core) (t : Nat) : OnlyData { c with
    pend := c.pend.filter (fun p => c.bundle + 1 < p.lands), stores := [], bundle := c.bundle + 1, mid := false, loopTo := none } (c.landed t) := by
  obtain ⟨_, _, _, hland⟩ := landDue_onlyData { c.loopChecked.1 with bundle := c.loopChecked.1.bundle + 1, mid := false, loopTo := none } t
  obtain ⟨_, _, _, hloop⟩ := loopChecked_onlyData c
  rw [Core.landed, hland, hloop]
  exact ⟨_, _, _, rfl⟩

/-- STATUS comes back from ISTAT when the delay bundles of an RTI are over. -/
def Core.returned (c : Core) (t : Nat) : Core :=
  if c.delay = 1 ∧ c.rti then (c.landed t).setReg 0x28 ((c.landed t).reg 0x2A) else c.landed t

theorem returned_onlyData (c : Core) (t : Nat) : OnlyData (c.landed t) (c.returned t) := by
  unfold Core.returned
  split
  · exact onlyData_setReg ..
  · exact .refl _

theorem seqPc_eq (c : Core) : c.seqPc = c.loopTo.getD (c.loopChecked.2.getD (c.pc + 16)) := by
  rw [Core.seqPc, (loopChecked_onlyData c).same Core.loopTo (fun _ _ _ => rfl), (loopChecked_onlyData c).same Core.pc (fun _ _ _ => rfl)]
  cases c.loopTo <;> rfl

/-- The branch in progress and the pending results as the end of the bundle leaves them. -/
theorem bundleEnded_eq (c : Core) (t : Nat) : c.bundleEnded t = { c.returned t with
    pc := if c.delay = 1 then (if c.rti then (c.landed t).reg 0x29 else c.target.getD c.seqPc) else c.seqPc
    delay := c.delay - 1
    target := if c.delay = 1 then none else c.target
    rti := c.rti && !(c.delay = 1) } := by
  have hland := landed_onlyData c t
  have hreturn := hland.trans (returned_onlyData c t)
  have hpast := (loopChecked_onlyData c).same Core.delay (fun _ _ _ => rfl)
  have hrti := hland.same Core.rti (fun _ _ _ => rfl)
  have htarget := hland.same Core.target (fun _ _ _ => rfl)
  have hrti' := hreturn.same Core.rti (fun _ _ _ => rfl)
  have htarget' := hreturn.same Core.target (fun _ _ _ => rfl)
  have hdelay' := hreturn.same Core.delay (fun _ _ _ => rfl)
  have hstatus : (if c.delay = 1 ∧ c.rti = true then (c.landed t).setReg 0x28 ((c.landed t).reg 0x2A) else c.landed t) = c.returned t := rfl
  simp only [Core.bundleEnded, hpast, hrti, htarget, hstatus, hrti', htarget', hdelay']

theorem bundleEnded_onlyData (c : Core) (t : Nat) : OnlyData { c with
    pend := c.pend.filter (fun p => c.bundle + 1 < p.lands), stores := [], bundle := c.bundle + 1, mid := false, loopTo := none
    pc := (c.bundleEnded t).pc, delay := c.delay - 1, target := if c.delay = 1 then none else c.target, rti := c.rti && !(c.delay = 1) }
    (c.bundleEnded t) := by
  obtain ⟨_, _, _, hdata⟩ := (landed_onlyData c t).trans (returned_onlyData c t)
  rw [bundleEnded_eq, hdata]
  exact ⟨_, _, _, rfl⟩

theorem reg_bundleEnded (c : Core) (t k : Nat) : (c.bundleEnded t).reg k = (c.returned t).reg k := by
  rw [bundleEnded_eq]
  rfl

theorem bytes_bundleEnded (c : Core) (t a n : Nat) : (c.bundleEnded t).bytes a n = (c.landed t).bytes a n := by
  have hmem : (c.returned t).mem = (c.landed t).mem := by
    unfold Core.returned Core.setReg
    split <;> rfl
  rw [bundleEnded_eq, Core.bytes, hmem]
  rfl

theorem returned_of_not (h : ¬ (c.delay = 1 ∧ c.rti = true)) : c.returned t = c.landed t := if_neg h

end

end Sys2Proof.Machine

end

section
/-! SUPPORT. Chisel cores: what a fault leaves (R326), and where fetch goes at the end of a bundle (R312-R314, R317). -/

-- Elaborates one proof at a time: in the one text, proofs that wait for one another each hold a thread.
set_option deprecated.oldSectionVars true

namespace Sys2Proof.Machine

/-! ### Registers that show a core -/

section
variable {s : State} {n i : Nat} {f : Fld}

theorem rd_showCore_of_ne (hpc : fldKey Reg.chiselCoreLivePc n ≠ fldKey f i) (hev : fldKey Reg.chiselCoreLiveEv n ≠ fldKey f i) :
    rd (showCore s n) f i = rd s f i := by
  unfold showCore
  rw [rd_wr_ne _ _ _ _ _ _ hev, rd_wr_ne _ _ _ _ _ _ hpc]

/-- The live registers are the last of a core's CHISEL_CORE registers. -/
theorem rd_showCore (hstride : f.stride = 512) (hbase : f.base.blt 83919104 = true) : rd (showCore s n) f n = rd s f n := by
  have hlt : f.base < 83919104 := Nat.le_of_ble_eq_true hbase
  refine rd_showCore_of_ne ?_ ?_ <;> simp only [fldKey, hstride, Reg.chiselCoreLivePc, Reg.chiselCoreLiveEv] <;> omega

theorem rd_showCore_livePc : rd (showCore s n) Reg.chiselCoreLivePc n = (getCore s n).pc % 2 ^ Reg.chiselCoreLivePc.width := by
  rw [showCore, rd_wr_ne _ _ _ _ _ _ (by simp only [fldKey, Reg.chiselCoreLivePc, Reg.chiselCoreLiveEv]; omega), rd_wr_same]

/-- Two fields of one core's registers share no key. -/
theorem rd_wr_sameCore {g : Fld} {v : Nat} (hf : f.stride = 512) (hg : g.stride = 512) (hne : f.base.beq g.base = false) : rd (wr s f n v) g n = rd s g n :=
  rd_wr_ne _ _ _ _ _ _ (by have := Nat.ne_of_beq_eq_false hne; simp only [fldKey, hf, hg]; omega)

theorem rd_bump_sameCore {g : Fld} {v : Nat} (hf : f.stride = 512) (hg : g.stride = 512) (hne : f.base.beq g.base = false) :
    rd (bump s f n v) g n = rd s g n :=
  rd_wr_sameCore hf hg hne

theorem rd_healthCause_core (hn : n < 64) (hstride : f.stride = 512) (hbase : f.base.blt 83919104 = true) :
    rd (healthCause s Reg.healthCauseChisel) f n = rd s f n := by
  have hlt : f.base < 83919104 := Nat.le_of_ble_eq_true hbase
  refine rd_healthCause_of_ne ?_
  simp only [fldKey, hstride, Reg.healthCauseChisel]
  omega

end

@[simp] theorem getCore_wr (s : State) (f : Fld) (i v m : Nat) : getCore (wr s f i v) m = getCore s m := rfl

@[simp] theorem getCore_bump (s : State) (f : Fld) (i v m : Nat) : getCore (bump s f i v) m = getCore s m := rfl

@[simp] theorem getCore_showCore (s : State) (n m : Nat) : getCore (showCore s n) m = getCore s m := rfl

@[simp] theorem getCore_healthCause (s : State) (f : Fld) (m : Nat) : getCore (healthCause s f) m = getCore s m := by
  have hcores : (healthCause s f).cores = s.cores := (healthCause_kept (.refl [.regs, .ten, .out] s) rfl).1 .cores (by simp)
  rw [getCore, hcores, getCore]

/-! ### Faults -/

/-- A core that faults: its results land, and what it was doing is dropped. -/
def Core.faulted (c : Core) (t : Nat) : Core :=
  { c.landAll t with mid := false, delay := 0, target := none, rti := false, loopTo := none, waitMask := none, stall := none, cqWait := [],
                     faultNs := (t :: (c.landAll t).faultNs).take 3 }

/-- A fault stores its core, and the completions of its posts are discarded from then on. -/
def coreDropped (s : State) (n : Nat) : State :=
  let s := putCore s n ((getCore s n).faulted (now s))
  { s with
    work := { s.work with cmds := mapVals s.work.cmds (fun _ x =>
      match x.owner with | .radio m _ _ => if m = n then { x with mute := true } else x | .queue _ _ => x) }
    radio := { s.radio with jobs := s.radio.jobs.map (fun j => if j.core = n then { j with mute := true } else j) } }

theorem coreFault_eq (s : State) (n cause pc : Nat) : coreFault s n cause pc = healthCause (showCore
    (wr (wr (wr (coreDropped s n) Reg.chiselCoreState n 4) Reg.chiselCoreCause n cause) Reg.chiselCoreFaultPc n pc) n) Reg.healthCauseChisel :=
  rfl

theorem getCore_coreDropped (s : State) (n : Nat) : getCore (coreDropped s n) n = (getCore s n).faulted (now s) :=
  getCore_putCore_same ..

/-- The cause and the address of a fault are recorded. -/
def Faults (t : State) (n cause pc : Nat) (c : Core) : Prop :=
  rd t Reg.chiselCoreState n = 4 ∧ rd t Reg.chiselCoreCause n = cause ∧ rd t Reg.chiselCoreFaultPc n = pc % 2 ^ Reg.chiselCoreFaultPc.width ∧
    rd t Reg.healthCauseChisel 0 = 1 ∧ getCore t n = c

theorem coreFault_faults {s : State} {n cause pc : Nat} (hn : n < 64) (hcause : cause < 2 ^ 8) :
    Faults (coreFault s n cause pc) n cause pc ((getCore s n).faulted (now s)) := by
  rw [coreFault_eq]
  refine ⟨?_, ?_, ?_, rd_healthCause_same .., ?_⟩
  · rw [rd_healthCause_core hn rfl rfl, rd_showCore rfl rfl, rd_wr_sameCore rfl rfl rfl, rd_wr_sameCore rfl rfl rfl,
      rd_wr_same]
    rfl
  · rw [rd_healthCause_core hn rfl rfl, rd_showCore rfl rfl, rd_wr_sameCore rfl rfl rfl, rd_wr_same]
    exact Nat.mod_eq_of_lt hcause
  · rw [rd_healthCause_core hn rfl rfl, rd_showCore rfl rfl, rd_wr_same]
  · simpa using getCore_coreDropped s n

/-! ### The next bundle -/

/-- Fetch has gone on: the next bundle is at an address, with a number of bundles to end before a branch is over. -/
def Fetches (s t : State) (n pc delay : Nat) : Prop :=
  (getCore t n).pc = pc ∧ (getCore t n).delay = delay ∧ (getCore t n).bundle = (getCore s n).bundle + 1 ∧ (getCore t n).mid = false ∧
    (getCore t n).stores = [] ∧ rd t Reg.chiselCoreState n = 2 ∧ rd t Reg.chiselCoreLivePc n = pc % 2 ^ Reg.chiselCoreLivePc.width ∧
    SameCores [n] s t ∧ OnlyParts [.regs, .cores] s t

section
variable {s : State} {n : Nat} {c : Core}

/-- A fetch address lies in the instruction memory. -/
def Fetchable (pc : Nat) : Prop := pc % 16 = 0 ∧ pc < 0x20000

/-- The core that the next bundle finds after a slot that ends its bundle. -/
def Core.afterSlot (c : Core) (t : Nat) : Core := Core.bundleEnded { c with mid := true } t

theorem afterSlot_eq (c : Core) (t : Nat) : c.afterSlot t = Core.bundleEnded { c with mid := true } t := rfl

theorem afterSlot_onlyData (c : Core) (t : Nat) : OnlyData { c with
    pend := c.pend.filter (fun p => c.bundle + 1 < p.lands), stores := [], bundle := c.bundle + 1, mid := false, loopTo := none
    pc := (c.afterSlot t).pc, delay := c.delay - 1, target := if c.delay = 1 then none else c.target, rti := c.rti && !(c.delay = 1) }
    (c.afterSlot t) :=
  bundleEnded_onlyData { c with mid := true } t

/-- The state when a slot has ended its bundle, before its core is shown. -/
def bundleStored (s : State) (n : Nat) (c : Core) : State :=
  bump (putCore (putCore s n { c with mid := true }) n (c.afterSlot (now s))) Reg.chiselCoreBusyCycles n 1

theorem slotDone_of_fetchable (h : Fetchable (c.afterSlot (now s)).pc) : slotDone s n true c =
    showCore (if c.waitMask.isSome then wr (bundleStored s n c) Reg.chiselCoreState n 3 else bundleStored s n c) n := by
  have hput := getCore_putCore_same s n { c with mid := true }
  have hmask : (c.afterSlot (now s)).waitMask = c.waitMask := (afterSlot_onlyData c (now s)).same Core.waitMask (fun _ _ _ => rfl)
  obtain ⟨halign, hin⟩ := h
  rw [slotDone_last, endBundle_eq, hput]
  refine (if_neg (not_or.2 ⟨not_not.2 halign, Nat.not_le.2 hin⟩)).trans ?_
  change showCore (if (c.afterSlot (now s)).waitMask.isSome then _ else _) n = _
  rw [hmask]
  rfl

theorem slotDone_of_not_fetchable (h : ¬ Fetchable (c.afterSlot (now s)).pc) :
    slotDone s n true c = coreFault (bundleStored s n c) n causeAddr (c.afterSlot (now s)).pc := by
  have hput := getCore_putCore_same s n { c with mid := true }
  rw [slotDone_last, endBundle_eq, hput]
  exact if_pos (Classical.not_and_iff_not_or_not.1 h |>.imp id Nat.not_lt.1)

section
variable (h : Fetchable (c.afterSlot (now s)).pc)
include h

theorem getCore_slotDone : getCore (slotDone s n true c) n = c.afterSlot (now s) := by
  rw [slotDone_of_fetchable h, getCore_showCore]
  split <;> exact getCore_putCore_same ..

theorem rd_state_slotDone :
    rd (slotDone s n true c) Reg.chiselCoreState n = if c.waitMask.isSome then 3 else rd s Reg.chiselCoreState n := by
  rw [slotDone_of_fetchable h, rd_showCore rfl rfl]
  split
  · exact rd_wr_same ..
  · exact rd_bump_sameCore rfl rfl rfl

theorem rd_livePc_slotDone :
    rd (slotDone s n true c) Reg.chiselCoreLivePc n = (c.afterSlot (now s)).pc % 2 ^ Reg.chiselCoreLivePc.width := by
  rw [← getCore_slotDone h, slotDone_of_fetchable h]
  exact rd_showCore_livePc

theorem sameCores_slotDone : SameCores [n] s (slotDone s n true c) := by
  intro j hj
  have hmid := sameCores_putCore s n { c with mid := true } j hj
  have hended := sameCores_putCore (putCore s n { c with mid := true }) n (c.afterSlot (now s)) j hj
  rw [slotDone_of_fetchable h, getCore_showCore]
  split <;> exact hended.trans hmid

theorem onlyParts_slotDone : OnlyParts [.regs, .cores] s (slotDone s n true c) := by
  have hstored : Kept [.regs, .cores] s (bundleStored s n c) := bump_kept (putCore_kept (putCore_kept (.refl _ s) rfl) rfl) rfl
  rw [slotDone_of_fetchable h]
  exact (showCore_kept (.ite (wr_kept hstored rfl) hstored) rfl).1

theorem fetches_slotDone (hstate : rd s Reg.chiselCoreState n = 2) (hbundle : c.bundle = (getCore s n).bundle) (hwait : c.waitMask = none) :
    Fetches s (slotDone s n true c) n (c.afterSlot (now s)).pc (c.delay - 1) := by
  have hframe := afterSlot_onlyData c (now s)
  rw [Fetches, getCore_slotDone h, rd_state_slotDone h, hwait, ← hbundle]
  exact ⟨rfl, hframe.same Core.delay (fun _ _ _ => rfl), hframe.same Core.bundle (fun _ _ _ => rfl), hframe.same Core.mid (fun _ _ _ => rfl),
    hframe.same Core.stores (fun _ _ _ => rfl), hstate, rd_livePc_slotDone h, sameCores_slotDone h, onlyParts_slotDone h⟩

end

end

end Sys2Proof.Machine

end

section
/-! SUPPORT. Loops (R313): what LOOP and LOOPI leave pending, and the level once the next bundle reads it. -/

-- Elaborates one proof at a time: in the one text, proofs that wait for one another each hold a thread.
set_option deprecated.oldSectionVars true

namespace Sys2Proof.Machine

/-! ### Slots that are illegal in delay bundles (R312) -/

section
variable {i : Instr} {s : State} {core : BitVec 6} {last : Bool} {f : Core → Except Nat Core}

theorem controlSlot_of_ok {d : Core} (hm : mayIssue s core.toNat = true) (hdelay : (getCore s core.toNat).delay = 0)
    (hf : f (getCore s core.toNat) = .ok d) : controlSlot s core last f = slotDone s core.toNat last d :=
  issueSlot_of_ok (f := fun c => if c.delay = 0 then f c else .error causeIllegal) hm ((if_pos hdelay).trans hf)

theorem controlSlot_of_error {cause : Nat} (hm : mayIssue s core.toNat = true) (hdelay : (getCore s core.toNat).delay = 0)
    (hf : f (getCore s core.toNat) = .error cause) : controlSlot s core last f = coreFault s core.toNat cause (getCore s core.toNat).pc :=
  issueSlot_of_error (f := fun c => if c.delay = 0 then f c else .error causeIllegal) hm ((if_pos hdelay).trans hf)

theorem controlSlot_of_delay (hm : mayIssue s core.toNat = true) (hdelay : (getCore s core.toNat).delay ≠ 0) :
    controlSlot s core last f = coreFault s core.toNat causeIllegal (getCore s core.toNat).pc :=
  issueSlot_of_error (f := fun c => if c.delay = 0 then f c else .error causeIllegal) hm (if_neg hdelay)

end

/-! ### The level that a loop sets -/

/-- The core after LOOP or LOOPI: the start, end and count of its level are pending, and fetch knows where to go on. -/
def Core.looping (c : Core) (k count end_ : Nat) : Core :=
  { c.pends [⟨0x1C + k, c.pc + 16, c.bundle + 1, .write⟩, ⟨0x20 + k, c.pc + 16 * end_, c.bundle + 1, .write⟩,
      ⟨0x18 + k, count, c.bundle + 1, .write⟩] with
    loopTo := some (if count % 2 ^ 16 = 0 then c.pc + 16 * end_ + 16 else c.pc + 16) }

section
variable {s : State} {c : Core} {n k count end_ t : Nat}

theorem loopSet_ok (hk : k ≠ 3) (hend : end_ ≠ 0) : loopSet c k count end_ = .ok (c.looping k count end_) := by
  rw [loopSet, if_neg (by simp [hk, hend])]
  unfold Core.looping
  simp only [later_eq, pends_pends, apply_ite some]
  rfl

theorem loopSet_error (h : k = 3 ∨ end_ = 0) : loopSet c k count end_ = .error causeLoop := if_pos h

/-- A bundle that is not the last delay bundle of an RTI leaves the registers that its results leave. -/
theorem reg_afterSlot (h : ¬ (c.delay = 1 ∧ c.rti = true)) (k : Nat) : (c.afterSlot t).reg k = (Core.landed { c with mid := true } t).reg k := by
  rw [afterSlot_eq, reg_bundleEnded, returned_of_not (c := { c with mid := true }) h]

theorem pc_afterSlot (h : c.delay ≠ 1) : (c.afterSlot t).pc = Core.seqPc { c with mid := true } := by
  rw [afterSlot_eq, bundleEnded_eq]
  exact if_neg h

/-- The last results to land at the end of a bundle are the last of those pending. -/
theorem reg_landed_append {l l' : List PendReg} (hpend : c.pend = l ++ l') (hdue : ∀ p ∈ l', p.lands ≤ c.bundle + 1) (t : Nat) :
    ∃ d : Core, ∀ k, (c.landed t).reg k = (l'.foldl (fun c p => c.land t p) d).reg k := by
  have hloop := loopChecked_onlyData c
  have hpend' := (hloop.same Core.pend (fun _ _ _ => rfl)).trans hpend
  have hbundle := hloop.same Core.bundle (fun _ _ _ => rfl)
  obtain ⟨d, hd⟩ := dueLanded_append (c := { c.loopChecked.1 with bundle := c.loopChecked.1.bundle + 1, mid := false, loopTo := none }) (t := t)
    hpend' (fun p hp => (hdue p hp).trans_eq (congrArg (· + 1) hbundle.symm))
  exact ⟨d, fun k => by rw [Core.landed, reg_landDue, hd]⟩

theorem coreWidth_loop (hk : k < 3) : coreWidth (0x18 + k) = 16 ∧ coreWidth (0x1C + k) = 17 ∧ coreWidth (0x20 + k) = 17 := by
  interval_cases k <;> exact ⟨rfl, rfl, rfl⟩

/-- A core's loop level is set from a loop at `pc`, and its fetch goes on after the loop instruction, or after the loop where its count is 0. -/
def LoopSet (d : Core) (pc k count last : Nat) : Prop :=
  d.reg (0x1C + k) = pc + 16 ∧ d.reg (0x20 + k) = last ∧ d.reg (0x18 + k) = count ∧ d.pc = if count = 0 then last + 16 else pc + 16

theorem looping_afterSlot (hk : k < 3) (hdelay : c.delay = 0) (hcount : count < 2 ^ 16) (hpc : c.pc + 16 * end_ + 16 < 0x20000) :
    LoopSet ((c.looping k count end_).afterSlot t) c.pc k count (c.pc + 16 * end_) := by
  have hnext : (c.looping k count end_).delay ≠ 1 := by
    rw [show (c.looping k count end_).delay = 0 from hdelay]
    simp
  obtain ⟨d, hd⟩ := reg_landed_append (c := { c.looping k count end_ with mid := true }) (l := c.pend) (t := t) rfl
    (by simp [Core.looping, pends_eq])
  obtain ⟨hlc, hls, hle⟩ := coreWidth_loop hk
  have hland (e : Core) {key v b : Nat} (hkey : key < 0x23) : e.land t ⟨key, v, b, .write⟩ = e.setReg key v :=
    land_write rfl (Nat.ne_of_lt (hkey.trans (by simp)))
  simp only [LoopSet, reg_afterSlot (fun h => hnext h.1), hd, List.foldl_cons, List.foldl_nil]
  rw [hland _ (by omega), hland _ (by omega), hland _ (by omega)]
  refine ⟨?start, ?last, ?count, ?pc⟩
  case start =>
    rw [reg_setReg_ne (by omega), reg_setReg_ne (by omega), reg_setReg_same (by omega), hls, Nat.mod_eq_of_lt (by omega)]
  case last =>
    rw [reg_setReg_ne (by omega), reg_setReg_same (by omega), hle, Nat.mod_eq_of_lt (by omega)]
  case count =>
    rw [reg_setReg_same (by omega), hlc, Nat.mod_eq_of_lt hcount]
  case pc =>
    rw [pc_afterSlot hnext, seqPc_eq]
    show (if count % 2 ^ 16 = 0 then _ else _) = _
    rw [Nat.mod_eq_of_lt hcount]

end

end Sys2Proof.Machine

section

open Sys2Proof Sys2Proof.Machine

/-- Settles O45: a loop leaves its level pending, and what it leaves lands after everything that was pending before. -/
theorem loopsSetTheirLevel : Obligations.LoopsSetTheirLevel := by
  intro s core gs level lend count lendi last n c k faults issued looped
  have hn : n < 64 := core.isLt
  have hk4 : k < 4 := level.isLt
  have hnonzero {w : Nat} {x : BitVec w} (h : x ≠ 0) : x.toNat ≠ 0 := fun h0 => h (BitVec.eq_of_toNat_eq h0)
  have hset {count end_ : Nat} {t : State} (hk : k ≠ 3) (hdelay : c.delay = 0) (halign : c.pc % 16 = 0) (hcount : count < 2 ^ 16)
      (hpc : c.pc + 16 * end_ + 16 < 0x20000) (ht : t = slotDone s n true (c.looping k count end_)) :
      LoopSet (getCore t n) c.pc k count (c.pc + 16 * end_) := by
    have hloop := looping_afterSlot (t := now s) (by omega : k < 3) hdelay hcount hpc
    have ⟨_, _, _, hfetch⟩ := hloop
    rw [ht, getCore_slotDone (by rw [hfetch]; constructor <;> split <;> omega)]
    exact hloop
  have hfault {t : State} (ht : t = coreFault s n causeLoop c.pc) : faults t := by
    obtain ⟨hstate, hcause, hpc, -, -⟩ := ht ▸ coreFault_faults (cause := causeLoop) (pc := c.pc) (s := s) hn (by simp [causeLoop])
    exact ⟨hstate, hcause, hpc⟩
  refine ⟨fun hm hdelay halign hk hend hcount hpc => ?_, fun hm hdelay halign hk hend hpc => ?_, fun hm hdelay hk hend => ?_,
    fun hm hdelay hk hend => ?_, fun hm hdelay h => ?_, fun hm hdelay h => ?_⟩
  · exact ⟨_, rfl, hset (count := c.g gs.toNat) hk hdelay halign hcount hpc (controlSlot_of_ok hm hdelay (loopSet_ok hk (hnonzero hend)))⟩
  · exact ⟨_, rfl, hset (count := count.toNat) hk hdelay halign (by omega) hpc (controlSlot_of_ok hm hdelay (loopSet_ok hk (hnonzero hend)))⟩
  · exact ⟨_, rfl, controlSlot_of_ok (d := c.looping k (c.g gs.toNat) lend.toNat) hm hdelay (loopSet_ok hk (hnonzero hend))⟩
  · exact ⟨_, rfl, controlSlot_of_ok (d := c.looping k count.toNat lendi.toNat) hm hdelay (loopSet_ok hk (hnonzero hend))⟩
  · exact ⟨_, rfl, hfault (controlSlot_of_error hm hdelay (loopSet_error (h.imp id (congrArg BitVec.toNat))))⟩
  · exact ⟨_, rfl, hfault (controlSlot_of_error hm hdelay (loopSet_error (h.imp id (congrArg BitVec.toNat))))⟩

end

end

section
/-! SUPPORT. Branches (R311, R312), WAIT (R318), and the end of the bundles that NOP shows. -/

-- Elaborates one proof at a time: in the one text, proofs that wait for one another each hold a thread.
set_option deprecated.oldSectionVars true

namespace Sys2Proof.Machine

/-! ### Branches and WAIT -/

section
variable {i : Instr} {s : State} {core : BitVec 6} {ga : BitVec 5} {off : BitVec 17} {last : Bool}

theorem relative_eq (c : Core) (off : BitVec 17) : c.relative off = (BitVec.ofInt 32 ((c.pc : Int) + 16 * off.toInt)).toNat := codeOf_eq ..

theorem gives_branchIf {p : Int → Bool} {taken : Bool} (hm : mayIssue s core.toNat = true) (hdelay : (getCore s core.toNat).delay = 0)
    (hexec : exec i s = .next (branchIf s core ga off last p))
    (htaken : p (BitVec.ofNat 32 ((getCore s core.toNat).g ga.toNat)).toInt = taken) : Gives i s (fun t => t = slotDone s core.toNat last
      (branchTo (getCore s core.toNat) taken (BitVec.ofInt 32 (((getCore s core.toNat).pc : Int) + 16 * off.toInt)).toNat)) :=
  ⟨_, hexec, controlSlot_of_ok (f := fun c => .ok (branchTo c (p (s32 (c.g ga.toNat))) (c.relative off))) hm hdelay
    (by rw [s32_eq, htaken, relative_eq])⟩

theorem gives_jump {d : Core} {target : Nat} {f : Core → Core} {g : Core → Nat} (hm : mayIssue s core.toNat = true)
    (hdelay : (getCore s core.toNat).delay = 0) (hexec : exec i s = .next (controlSlot s core last (fun c => .ok (branchTo (f c) true (g c)))))
    (hd : f (getCore s core.toNat) = d) (htarget : g (getCore s core.toNat) = target) :
    Gives i s (fun t => t = slotDone s core.toNat last (branchTo d true target)) :=
  ⟨_, hexec, controlSlot_of_ok hm hdelay (by rw [hd, htarget])⟩

/-- RTI starts its delay bundles and marks them as its own. -/
theorem gives_rti (hm : mayIssue s core.toNat = true) (hdelay : (getCore s core.toNat).delay = 0) :
    Gives (.rti core false) s (fun t => (getCore t core.toNat).delay = 3 ∧ (getCore t core.toNat).rti = true ∧
      (getCore t core.toNat).pc = (getCore s core.toNat).pc ∧ SameCores [core.toNat] s t ∧ OnlyParts [.cores] s t) := by
  refine ⟨putCore s core.toNat { branchTo (getCore s core.toNat) true 0 with rti := true, mid := true },
    congrArg Host.Outcome.next (controlSlot_of_ok (d := { branchTo (getCore s core.toNat) true 0 with rti := true }) hm hdelay rfl), ?_⟩
  beta_reduce
  rw [getCore_putCore_same]
  exact ⟨rfl, rfl, rfl, sameCores_putCore s _ _, (putCore_kept (.refl _ s) rfl).1⟩

end

/-! ### The end of a bundle, by its case -/

section
variable {c : Core} {t : Nat}

theorem loopChecked_none (h : c.loopEn = false ∨ ∀ j : Fin 3, ¬ EndsAt c c.pc j.val) : c.loopChecked = (c, none) := by
  unfold Core.loopChecked
  split
  next hen =>
    have hends := h.resolve_left (by simp [hen])
    exact loopCheck_pass (Nat.zero_le 3) fun j _ hj => hends ⟨j, hj⟩
  next => rfl

/-- The outermost level that ends here is looked at first. -/
theorem loopChecked_at {k : Nat} (hen : c.loopEn = true) (hk : k < 3) (hover : ∀ j : Fin 3, k < j.val → ¬ EndsAt c c.pc j.val) :
    c.loopChecked = loopCheck c c.pc (k + 1) :=
  (if_pos hen).trans (loopCheck_pass (by omega) fun j hkj hj => hover ⟨j, hj⟩ hkj)

theorem loopChecked_back {k : Nat} (hen : c.loopEn = true) (hk : k < 3) (hends : EndsAt c c.pc k)
    (hover : ∀ j : Fin 3, k < j.val → ¬ EndsAt c c.pc j.val) (hmore : 1 < c.reg (0x18 + k)) :
    c.loopChecked = (c.setReg (0x18 + k) (c.reg (0x18 + k) - 1), some (c.reg (0x1C + k))) :=
  (loopChecked_at hen hk hover).trans (loopCheck_back hends hmore)

/-- A level that is over clears its count, and no other level ends here. -/
theorem loopChecked_over {k : Nat} (hen : c.loopEn = true) (hk : k < 3) (hends : EndsAt c c.pc k)
    (hothers : ∀ j : Fin 3, j.val ≠ k → ¬ EndsAt c c.pc j.val) (hlast : c.reg (0x18 + k) = 1) :
    c.loopChecked = (c.setReg (0x18 + k) 0, none) := by
  rw [loopChecked_at hen hk fun j hj => hothers j (by omega), loopCheck_over hends (by omega)]
  refine loopCheck_pass (Nat.zero_le k) fun j _ hj => ?_
  rw [EndsAt, reg_setReg_ne (by omega), reg_setReg_ne (by omega)]
  exact hothers ⟨j, by omega⟩ (by simp; omega)

/-- Where no result is due, the registers are those that the loop check leaves. -/
theorem regs_landed (h : ∀ p ∈ c.pend, c.bundle + 1 < p.lands) : (c.landed t).regs = c.loopChecked.1.regs := by
  have hloop := loopChecked_onlyData c
  refine (regs_landDue_of_none_due fun p hp => ?_)
  simp only [hloop.same Core.pend (fun _ _ _ => rfl)] at hp
  simpa only [hloop.same Core.bundle (fun _ _ _ => rfl)] using h p hp

theorem reg_landed (h : c.pend = []) (k : Nat) : (c.landed t).reg k = c.loopChecked.1.reg k := by
  rw [Core.reg, Core.reg, regs_landed (by simp [h])]

theorem bytes_afterSlot {w : PendMem} (h : c.stores = [w]) : (c.afterSlot t).bytes w.addr w.data.length = w.data := by
  rw [afterSlot_eq, bytes_bundleEnded]
  exact bytes_landDue_of_one (((loopChecked_onlyData { c with mid := true }).same Core.stores (fun _ _ _ => rfl)).trans h)

end

/-! ### What the last slot of a bundle leaves -/

/-- No loop level ends at the fetch address, or loop_en is clear. -/
def NoLoop (c : Core) : Prop := c.loopEn = false ∨ ∀ j : Fin 3, ¬ EndsAt c c.pc j.val

section
variable {c : Core} {t : Nat}

theorem seqPc_of_noLoop (hloopTo : c.loopTo = none) (hloop : NoLoop c) : Core.seqPc { c with mid := true } = c.pc + 16 := by
  rw [seqPc_eq, loopChecked_none (c := { c with mid := true }) hloop]
  exact congrArg (Option.getD · (c.pc + 16)) hloopTo

theorem reg_afterSlot_of_noLoop (hloop : NoLoop c) (hpend : c.pend = []) (k : Nat) : (Core.landed { c with mid := true } t).reg k = c.reg k := by
  rw [reg_landed (c := { c with mid := true }) hpend, loopChecked_none (c := { c with mid := true }) hloop]
  rfl

/-- After the last delay bundle fetch goes where the branch goes. -/
theorem pc_afterSlot_of_branch (hdelay : c.delay = 1) (hrti : c.rti = false) :
    (c.afterSlot t).pc = c.target.getD (Core.seqPc { c with mid := true }) := by
  rw [afterSlot_eq, bundleEnded_eq]
  simp [hdelay, hrti]

theorem pc_afterSlot_of_rti (hdelay : c.delay = 1) (hrti : c.rti = true) (hloop : NoLoop c) (hpend : c.pend = []) :
    (c.afterSlot t).pc = c.reg 0x29 := by
  rw [afterSlot_eq, bundleEnded_eq, ← reg_afterSlot_of_noLoop hloop hpend (t := t)]
  simp [hdelay, hrti]

/-- STATUS comes back from ISTAT. -/
theorem status_afterSlot_of_rti (hdelay : c.delay = 1) (hrti : c.rti = true) (hloop : NoLoop c) (hpend : c.pend = []) :
    (c.afterSlot t).reg 0x28 = c.reg 0x2A % 8 := by
  rw [afterSlot_eq, reg_bundleEnded, Core.returned, if_pos (by exact ⟨hdelay, hrti⟩), reg_setReg_same (by simp),
    reg_afterSlot_of_noLoop hloop hpend]
  rfl

/-- The loop check of a bundle decides where fetch goes on without a branch, and what a level's count is then. -/
theorem afterSlot_of_loop {d : Core} {to_ : Option Nat} {k : Nat} (hdelay : c.delay ≠ 1) (hloopTo : c.loopTo = none) (hpend : c.pend = [])
    (hloop : Core.loopChecked { c with mid := true } = (d, to_)) :
    (c.afterSlot t).pc = to_.getD (c.pc + 16) ∧ (c.afterSlot t).reg k = d.reg k := by
  constructor
  · rw [pc_afterSlot hdelay, seqPc_eq, hloop]
    exact congrArg (Option.getD · (to_.getD (c.pc + 16))) hloopTo
  · rw [reg_afterSlot (fun h => hdelay h.1), reg_landed (c := { c with mid := true }) hpend, hloop]

end

section
variable {i : Instr} {s : State} {core : BitVec 6}

theorem state_of_mayIssue {n : Nat} (hm : mayIssue s n = true) : rd s Reg.chiselCoreState n = 2 := by
  rw [mayIssue, Bool.and_eq_true, beq_iff_eq] at hm
  exact hm.1

theorem gives_nop {last : Bool} (hm : mayIssue s core.toNat = true) :
    Gives (.nop core last) s (fun t => t = slotDone s core.toNat last (getCore s core.toNat)) :=
  ⟨_, rfl, issueSlot_of_ok (f := fun c => .ok (id c)) hm rfl⟩

/-- NOP at the end of a bundle: the core is that of the next bundle, and fetch goes on. -/
theorem gives_nop_fetches {pc : Nat} (hm : mayIssue s core.toNat = true) (hwait : (getCore s core.toNat).waitMask = none)
    (hpc : ((getCore s core.toNat).afterSlot (now s)).pc = pc) (hok : Fetchable pc) :
    Gives (.nop core true) s (fun t => Fetches s t core.toNat pc ((getCore s core.toNat).delay - 1) ∧
      getCore t core.toNat = (getCore s core.toNat).afterSlot (now s)) := by
  subst hpc
  obtain ⟨_, ht, rfl⟩ := gives_nop (last := true) hm
  exact ⟨_, ht, fetches_slotDone hok (state_of_mayIssue hm) rfl hwait, getCore_slotDone hok⟩

end

/-- What is pending and what is seen after a bundle that no loop and no branch ends. -/
theorem afterSlot_results {c : Core} {t : Nat} (hloop : NoLoop c) (hdelay : c.delay ≠ 1) :
    (c.afterSlot t).pend = c.pend.filter (fun q => decide (c.bundle + 1 < q.lands)) ∧
    (∀ p, c.pend = [p] → p.kind = .write → p.lands = c.bundle + 1 → p.key ≠ 0x43 → p.key ≠ 0x100 →
      (c.afterSlot t).reg p.key = p.value % 2 ^ coreWidth p.key) ∧
    (∀ p, c.pend = [p] → c.bundle + 1 < p.lands → (c.afterSlot t).regs = c.regs) ∧
    ∀ w, c.stores = [w] → (c.afterSlot t).bytes w.addr w.data.length = w.data := by
  have hrti : ¬ (c.delay = 1 ∧ c.rti = true) := fun h => hdelay h.1
  refine ⟨(afterSlot_onlyData c t).same Core.pend (fun _ _ _ => rfl), fun p hp hkind hlands hkey hzero => ?landed,
    fun p hp hlater => ?waits, fun w hw => bytes_afterSlot hw⟩
  case landed =>
    obtain ⟨d, hd⟩ := reg_landed_append (c := { c with mid := true }) (l := []) hp (by simp [hlands]) t
    rw [reg_afterSlot hrti, hd]
    exact reg_land_write hkind hkey hzero
  case waits =>
    have hnone : ∀ q ∈ c.pend, c.bundle + 1 < q.lands := by simp [hp, hlater]
    rw [afterSlot_eq, bundleEnded_eq]
    refine (congrArg Core.regs (returned_of_not (c := { c with mid := true }) hrti)).trans ?_
    rw [regs_landed (c := { c with mid := true }) hnone, loopChecked_none (c := { c with mid := true }) hloop]

/-! ### Faults and waits -/

/-- What is stated of a fault with a cause, at an address. -/
def FaultsAt (s t : State) (n cause pc : Nat) : Prop :=
  rd t Reg.chiselCoreState n = 4 ∧ rd t Reg.chiselCoreCause n = cause ∧ rd t Reg.chiselCoreFaultPc n = pc % 2 ^ Reg.chiselCoreFaultPc.width ∧
    rd t Reg.healthCauseChisel 0 = 1 ∧ (getCore t n).stores = [] ∧ (getCore t n).delay = 0 ∧ OnlyParts [.regs, .work, .ten, .cores, .radio, .out] s t

section
variable {i : Instr} {s u : State} {n cause pc : Nat} {core : BitVec 6} {f : Core → Except Nat Core} {last : Bool}

theorem faultsAt_coreFault (hn : n < 64) (hcause : cause < 2 ^ 8) (hu : Kept [.regs, .work, .ten, .cores, .radio, .out] s u) :
    FaultsAt s (coreFault u n cause pc) n cause pc := by
  obtain ⟨hstate, hc, hpc, hhealth, hcore⟩ := coreFault_faults (s := u) (pc := pc) hn hcause
  exact ⟨hstate, hc, hpc, hhealth, congrArg Core.stores hcore, congrArg Core.delay hcore, (coreFault_kept hu rfl).1⟩

/-- A branch or WAIT in a delay bundle is an ILLEGAL fault (R312). -/
theorem gives_illegal_in_delay (hm : mayIssue s core.toNat = true) (hdelay : (getCore s core.toNat).delay ≠ 0)
    (hexec : exec i s = .next (controlSlot s core last f)) :
    Gives i s (fun t => FaultsAt s t core.toNat causeIllegal (getCore s core.toNat).pc) := by
  refine ⟨_, hexec, ?_⟩
  rw [controlSlot_of_delay hm hdelay]
  exact faultsAt_coreFault core.isLt (Nat.le_of_ble_eq_true rfl) (.refl _ s)

/-- NOP at the end of a bundle before an address that holds no bundle. -/
theorem gives_nop_faults (hm : mayIssue s core.toNat = true) (hpc : ((getCore s core.toNat).afterSlot (now s)).pc = pc) (hout : ¬ Fetchable pc) :
    Gives (.nop core true) s (fun t => FaultsAt s t core.toNat causeAddr pc) := by
  subst hpc
  obtain ⟨_, ht, rfl⟩ := gives_nop (last := true) hm
  refine ⟨_, ht, ?_⟩
  rw [slotDone_of_not_fetchable hout]
  exact faultsAt_coreFault core.isLt (Nat.le_of_ble_eq_true rfl) (bump_kept (putCore_kept (putCore_kept (.refl _ s) rfl) rfl) rfl)

/-- A bundle with a WAIT ends with the core WAITING. -/
theorem gives_nop_waits (hm : mayIssue s core.toNat = true) (hwait : (getCore s core.toNat).waitMask.isSome = true)
    (hpc : ((getCore s core.toNat).afterSlot (now s)).pc = pc) (hok : Fetchable pc) :
    Gives (.nop core true) s (fun t => rd t Reg.chiselCoreState core.toNat = 3 ∧ (getCore t core.toNat).pc = pc) := by
  subst hpc
  obtain ⟨_, ht, rfl⟩ := gives_nop (last := true) hm
  exact ⟨_, ht, (rd_state_slotDone hok).trans (if_pos hwait), congrArg Core.pc (getCore_slotDone hok)⟩

theorem endWait_leaves (s : State) (n : Nat) :
    rd (endWait s n) Reg.chiselCoreState n = 2 ∧ getCore (endWait s n) n = { getCore s n with waitMask := none } ∧
    rd (endWait s n) Reg.chiselCoreWaitCycles n =
      (rd s Reg.chiselCoreWaitCycles n + (now s - (getCore s n).waitNs) * 7 / 5) % 2 ^ Reg.chiselCoreWaitCycles.width ∧
    OnlyParts [.regs, .cores] s (endWait s n) := by
  refine ⟨rd_wr_same .., getCore_putCore_same .., ?_, (endWait_kept (.refl _ s) rfl).1⟩
  exact (rd_wr_sameCore rfl rfl rfl).trans (rd_bump_same ..)

end

end Sys2Proof.Machine

section

open Sys2Proof Sys2Proof.Machine

/-- Settles O46: a slot outside delay bundles stores its core, and the end of a bundle is the core of the next one, by the case of its loop
check and of the branch in progress. -/
theorem branchesAndBundles : Obligations.BranchesAndBundles := by
  intro s core ga off last k p w x m n c v rel fin goes faults ends loops noLoop plain ok next
  refine ⟨fun hm hdelay ha => ⟨?b, gives_branchIf hm hdelay rfl rfl, gives_branchIf hm hdelay rfl rfl, gives_branchIf hm hdelay rfl rfl,
    gives_branchIf hm hdelay rfl rfl, gives_branchIf hm hdelay rfl rfl, gives_branchIf hm hdelay rfl rfl, ?jr, ?call, ?rti, ?wait, ?nop⟩,
    fun hm hdelay => ⟨gives_illegal_in_delay hm hdelay rfl, gives_illegal_in_delay hm hdelay rfl, gives_illegal_in_delay hm hdelay rfl,
      gives_illegal_in_delay hm hdelay rfl⟩,
    fun hp hloop hdelay hok => ?sequential, fun hp hloop hdelay hrti htarget hok => ?taken, fun hp hloop hdelay hrti htarget hok => ?notTaken,
    fun hp hloop hdelay hrti hpend hstores hok => ?returns, fun hp hloop hmore hcount hpend hdelay hok => ?loopsBack,
    fun hp hloop hone hothers hpend hdelay hok => ?loopEnds, fun hp hloop hdelay hok => ?outside, fun hm hloopTo hloop hdelay hwait hok => ?waiting,
    fun hstate hmask => ?resumes, fun hmask => ?stays⟩
  case b => exact gives_jump (f := id) hm hdelay rfl rfl (relative_eq ..)
  case jr => exact gives_jump (f := id) hm hdelay rfl rfl rfl
  case call =>
    exact gives_jump (f := fun c => c.later 1 (kG 31) (c.pc + 48)) (d := c.pends [⟨kG 31, c.pc + 48, c.bundle + 1, .write⟩])
      hm hdelay rfl rfl (relative_eq ..)
  case rti => exact gives_rti hm hdelay
  case wait => exact ⟨_, rfl, controlSlot_of_ok (d := { c with waitMask := some (c.g ga.toNat), waitNs := now s }) hm hdelay rfl⟩
  case nop => exact gives_nop hm
  case sequential =>
    obtain ⟨hm, hloopTo, hwait⟩ := hp
    have hpc := (pc_afterSlot (t := now s) hdelay).trans (seqPc_of_noLoop hloopTo hloop)
    obtain ⟨hpend, hlands, hwaits, hstored⟩ := afterSlot_results (t := now s) hloop hdelay
    exact (gives_nop_fetches hm hwait hpc hok).imp fun t ⟨hnext, hcore⟩ => hcore ▸ ⟨hnext, hpend, hlands p, hwaits p, hstored w⟩
  case taken =>
    obtain ⟨hm, hloopTo, hwait⟩ := hp
    have hpc : (c.afterSlot (now s)).pc = x := by rw [pc_afterSlot_of_branch hdelay hrti, htarget]; rfl
    have hdone : c.delay - 1 = 0 := by rw [hdelay]
    have hnone : (c.afterSlot (now s)).target = none := ((afterSlot_onlyData c (now s)).same Core.target (fun _ _ _ => rfl)).trans (if_pos hdelay)
    exact (gives_nop_fetches hm hwait hpc hok).imp fun t ⟨hnext, hcore⟩ => ⟨hdone ▸ hnext, (congrArg Core.target hcore).trans hnone⟩
  case notTaken =>
    obtain ⟨hm, hloopTo, hwait⟩ := hp
    have hpc : (c.afterSlot (now s)).pc = c.pc + 16 :=
      (pc_afterSlot_of_branch hdelay hrti).trans ((congrArg (Option.getD · _) htarget).trans (seqPc_of_noLoop hloopTo hloop))
    have hdone : c.delay - 1 = 0 := by rw [hdelay]
    exact (gives_nop_fetches hm hwait hpc hok).imp fun t ⟨hnext, _⟩ => hdone ▸ hnext
  case returns =>
    obtain ⟨hm, hloopTo, hwait⟩ := hp
    have hpc := pc_afterSlot_of_rti (t := now s) hdelay hrti hloop hpend
    have hdone : c.delay - 1 = 0 := by rw [hdelay]
    have hrtiOver : (c.afterSlot (now s)).rti = false := by
      rw [(afterSlot_onlyData c (now s)).same Core.rti (fun _ _ _ => rfl)]
      simp [hdelay]
    have hstatus := status_afterSlot_of_rti (t := now s) hdelay hrti hloop hpend
    exact (gives_nop_fetches hm hwait hpc hok).imp fun t ⟨hnext, hcore⟩ =>
      ⟨hdone ▸ hnext, (congrArg Core.rti hcore).trans hrtiOver, (congrArg (Core.reg · 0x28) hcore).trans hstatus⟩
  case loopsBack =>
    obtain ⟨hm, hloopTo, hwait⟩ := hp
    obtain ⟨hen, hends, hover⟩ := hloop
    obtain ⟨hpc, hreg⟩ := afterSlot_of_loop (k := 0x18 + k.val) (t := now s) hdelay hloopTo hpend
      (loopChecked_back (c := { c with mid := true }) hen k.isLt hends hover hmore)
    have hcount : (c.afterSlot (now s)).reg (0x18 + k.val) = c.reg (0x18 + k.val) - 1 := by
      rw [hreg, reg_setReg_same (by omega), (coreWidth_loop k.isLt).1]
      exact Nat.mod_eq_of_lt ((Nat.sub_le ..).trans_lt hcount)
    exact (gives_nop_fetches hm hwait hpc hok).imp fun t ⟨hnext, hcore⟩ => ⟨hnext, (congrArg (Core.reg · (0x18 + k.val)) hcore).trans hcount⟩
  case loopEnds =>
    obtain ⟨hm, hloopTo, hwait⟩ := hp
    obtain ⟨hen, hends, -⟩ := hloop
    obtain ⟨hpc, hreg⟩ := afterSlot_of_loop (k := 0x18 + k.val) (t := now s) hdelay hloopTo hpend
      (loopChecked_over (c := { c with mid := true }) hen k.isLt hends (fun j hj => hothers j fun h => hj (congrArg Fin.val h)) hone)
    have hcount : (c.afterSlot (now s)).reg (0x18 + k.val) = 0 := by
      rw [hreg, reg_setReg_same (by omega), Nat.zero_mod]
    exact (gives_nop_fetches hm hwait hpc hok).imp fun t ⟨hnext, hcore⟩ => ⟨hnext, (congrArg (Core.reg · (0x18 + k.val)) hcore).trans hcount⟩
  case outside =>
    obtain ⟨hm, hloopTo, hwait⟩ := hp
    exact gives_nop_faults hm ((pc_afterSlot (by rw [hdelay]; simp)).trans (seqPc_of_noLoop hloopTo hloop)) hok
  case waiting =>
    exact gives_nop_waits hm (by rw [hwait]; rfl) ((pc_afterSlot (by rw [hdelay]; simp)).trans (seqPc_of_noLoop hloopTo hloop)) hok
  case resumes =>
    obtain ⟨hstate', hcore, hcycles, hparts⟩ := endWait_leaves s n
    exact ⟨_, congrArg Host.Outcome.next (if_pos ⟨hstate, hmask⟩), hstate', hcore, hcycles, hparts⟩
  case stays => exact ⟨_, congrArg Host.Outcome.next (if_neg fun h => h.2 hmask), rfl⟩

end

end

section
/-! SUPPORT. Loads, stores, address and special registers (R304, R307, R319, Table 11.5): what a slot leaves pending, and where it faults. -/

-- Elaborates one proof at a time: in the one text, proofs that wait for one another each hold a thread.
set_option deprecated.oldSectionVars true

namespace Sys2Proof.Machine

/-! ### Rows that leave results pending, or fault -/

theorem causeAddr_lt : causeAddr < 2 ^ 8 := Nat.le_of_ble_eq_true rfl

theorem causeIllegal_lt : causeIllegal < 2 ^ 8 := Nat.le_of_ble_eq_true rfl

/-- What is stated of a slot that faults: the cause and the bundle's address are recorded, and the bundle is over. -/
def SlotFaults (s t : State) (n cause : Nat) : Prop :=
  rd t Reg.chiselCoreState n = 4 ∧ rd t Reg.chiselCoreCause n = cause ∧
    rd t Reg.chiselCoreFaultPc n = (getCore s n).pc % 2 ^ Reg.chiselCoreFaultPc.width ∧ (getCore t n).mid = false ∧
    OnlyParts [.regs, .work, .ten, .cores, .radio, .out] s t

section
variable {i : Instr} {s : State} {core : BitVec 6} {last : Bool}

theorem slotFaults_coreFault {n cause : Nat} (hn : n < 64) (hcause : cause < 2 ^ 8) :
    SlotFaults s (coreFault s n cause (getCore s n).pc) n cause := by
  obtain ⟨hstate, hc, hpc, -, hcore⟩ := coreFault_faults (s := s) (pc := (getCore s n).pc) hn hcause
  exact ⟨hstate, hc, hpc, congrArg Core.mid hcore, (coreFault_kept (.refl _ s) rfl).1⟩

theorem gives_plain {f : Core → Core} {d : Core} (hm : mayIssue s core.toNat = true) (hexec : exec i s = .next (plainSlot s core last f))
    (hf : f (getCore s core.toNat) = d) : Gives i s (fun t => t = slotDone s core.toNat last d) :=
  ⟨_, hexec, issueSlot_of_ok (f := fun c => .ok (f c)) hm (congrArg Except.ok hf)⟩

theorem gives_moves {key lat w : Nat} {f : Core → Nat} (hm : mayIssue s core.toNat = true)
    (hexec : exec i s = .next (plainSlot s core last (fun c => c.later lat key (f c)))) (hf : f (getCore s core.toNat) = w) :
    Gives i s (fun t => t = slotDone s core.toNat last
      ((getCore s core.toNat).pends [⟨key, w, (getCore s core.toNat).bundle + lat, .write⟩])) :=
  gives_plain hm hexec (hf ▸ later_eq ..)

theorem gives_slotFaults {f : Core → Except Nat Core} {cause : Nat} (hm : mayIssue s core.toNat = true)
    (hexec : exec i s = .next (issueSlot s core last f)) (hcause : cause < 2 ^ 8) (hf : f (getCore s core.toNat) = .error cause) :
    Gives i s (fun t => SlotFaults s t core.toNat cause) := by
  refine ⟨_, hexec, ?_⟩
  rw [issueSlot_of_error hm hf]
  exact slotFaults_coreFault core.isLt hcause

end

/-! ### Loads and stores -/

/-- An access lies in the memory of its slot and is aligned. -/
theorem accessOk_iff {y : Bool} {ea : Int} {size : Nat} (hsize : 0 < size) : accessOk y ea size = true ↔
    ea % size = 0 ∧ (if y then 0x200000 else 0x100000) ≤ ea ∧ ea + size ≤ (if y then 0x200000 else 0x100000) + 0x40000 := by
  simp only [accessOk, inX, inY, Bool.and_eq_true, decide_eq_true_eq, beq_iff_eq]
  generalize ea % (size : Int) = r
  cases y
  all_goals
    simp only [Bool.false_eq_true, if_true, if_false, Bool.and_eq_true, decide_eq_true_eq]
    omega

/-- An address register after its post-modify step (R307). -/
def Core.stepped (c : Core) (a : Nat) : Nat :=
  (BitVec.ofInt 32 (wrapOnce ((c.addr a : Int) + (BitVec.ofNat 32 (c.reg (0x10 + a))).toInt) (c.reg a) (c.reg (8 + a)))).toNat

/-- What a load or a store leaves pending of its address register. -/
def steps (c : Core) (a : Nat) (post : Bool) : List PendReg := if post then [⟨kA a, c.stepped a, c.bundle + 1, .write⟩] else []

theorem postAddr_eq (c : Core) (a : Nat) : c.postAddr a = c.stepped a := by
  rw [Core.postAddr, codeOf_eq, s32_eq]
  rfl

theorem postMod_eq (c : Core) (a : Nat) (post : Bool) : postMod c a post = c.pends (steps c a post) := by
  cases post
  · simp [postMod, steps, pends_eq]
  · rw [postMod, if_pos rfl, postAddr_eq]
    rfl

section
variable {i : Instr} {s : State} {core : BitVec 6} {y post last : Bool} {key size : Nat} {a : BitVec 3} {off : BitVec 12} {f : Nat → Nat}

theorem gives_load {w : Nat} (hm : mayIssue s core.toNat = true) (hok : accessOk y ((getCore s core.toNat).ea a.toNat off.toInt size) size = true)
    (hexec : exec i s = .next (loadSlot s core y key a post off last size f))
    (hw : f (leNat ((getCore s core.toNat).bytes ((getCore s core.toNat).ea a.toNat off.toInt size).toNat size)) = w) :
    Gives i s (fun t => t = slotDone s core.toNat last ((getCore s core.toNat).pends
      (⟨key, w, (getCore s core.toNat).bundle + 1, .write⟩ :: steps (getCore s core.toNat) a.toNat post))) := by
  refine ⟨_, hexec, issueSlot_of_ok hm ((if_pos hok).trans ?_)⟩
  rw [hw, postMod_eq, later_eq]
  exact congrArg Except.ok (pends_pends ..)

theorem gives_store (hm : mayIssue s core.toNat = true) (hok : accessOk y ((getCore s core.toNat).ea a.toNat off.toInt size) size = true)
    (hexec : exec i s = .next (storeSlot s core y key a post off last size)) :
    Gives i s (fun t => t = slotDone s core.toNat last (Core.pends { getCore s core.toNat with
      stores := (getCore s core.toNat).stores ++
        [⟨((getCore s core.toNat).ea a.toNat off.toInt size).toNat, leBytes size ((getCore s core.toNat).reg key)⟩] }
      (steps (getCore s core.toNat) a.toNat post))) := by
  refine ⟨_, hexec, issueSlot_of_ok hm ((if_pos hok).trans ?_)⟩
  rw [postMod_eq]
  rfl

theorem gives_load_faults (hm : mayIssue s core.toNat = true) (hok : accessOk y ((getCore s core.toNat).ea a.toNat off.toInt size) size ≠ true)
    (hexec : exec i s = .next (loadSlot s core y key a post off last size f)) : Gives i s (fun t => SlotFaults s t core.toNat causeAddr) :=
  gives_slotFaults hm hexec causeAddr_lt (if_neg hok)

theorem gives_store_faults (hm : mayIssue s core.toNat = true) (hok : accessOk y ((getCore s core.toNat).ea a.toNat off.toInt size) size ≠ true)
    (hexec : exec i s = .next (storeSlot s core y key a post off last size)) : Gives i s (fun t => SlotFaults s t core.toNat causeAddr) :=
  gives_slotFaults hm hexec causeAddr_lt (if_neg hok)

end

/-! ### Lanes of one register -/

theorem leNat_lt (bs : List Byte) : leNat bs < 2 ^ (8 * bs.length) := by
  induction bs with
  | nil => simp [leNat]
  | cons b bs ih =>
    have hb := b.isLt
    rw [leNat, List.length_cons, Nat.mul_succ, Nat.pow_add]
    omega

theorem packLanes_cons (w x : Nat) (l : List Nat) : packLanes w (x :: l) = x % 2 ^ w + 2 ^ w * packLanes w l := rfl

/-- Lanes packed in order are a sum of lanes in their places. -/
theorem packLanes_range (w m : Nat) (g : Nat → Nat) :
    packLanes w ((List.range m).map g) = ((List.range m).map (fun i => g i % 2 ^ w * 2 ^ (w * i))).sum := by
  induction m generalizing g with
  | zero => rfl
  | succ m ih =>
    have hshift (i : Nat) : g (i + 1) % 2 ^ w * 2 ^ (w * (i + 1)) = 2 ^ w * (g (i + 1) % 2 ^ w * 2 ^ (w * i)) := by
      rw [Nat.mul_succ, Nat.pow_add]
      ring
    rw [List.range_succ_eq_map, List.map_cons, List.map_cons, List.map_map, List.map_map, List.sum_cons]
    simp only [Function.comp_def, Nat.succ_eq_add_one, hshift, List.sum_map_mul_left, packLanes_cons]
    rw [← ih fun i => g (i + 1)]
    simp

/-- One value in every lane. -/
theorem packLanes_replicate (w m x : Nat) :
    packLanes w (List.replicate m x) = ((List.range m).map (fun i => x % 2 ^ w * 2 ^ (w * i))).sum := by
  rw [← packLanes_range w m fun _ => x, List.map_const', List.length_range]

theorem packLanes_replicate_of_lt {w x : Nat} (m : Nat) (h : x < 2 ^ w) :
    packLanes w (List.replicate m x) = ((List.range m).map (fun i => x * 2 ^ (w * i))).sum := by
  rw [packLanes_replicate, Nat.mod_eq_of_lt h]

theorem leNat_bytes_lt (c : Core) (at_ n : Nat) : leNat (c.bytes at_ n) < 2 ^ (8 * n) := by
  simpa [Core.bytes] using leNat_lt (c.bytes at_ n)

theorem codeOf_signedOf (v : Nat) {w : Nat} (hw : 0 < w) : codeOf (signedOf v w) 32 = (BitVec.ofInt 32 (BitVec.ofNat w v).toInt).toNat := by
  rw [codeOf_eq, signedOf_eq v hw]

theorem bitsOf_zero (v len : Nat) : bitsOf v 0 len = v % 2 ^ len := by simp [bitsOf]

/-! ### Special registers -/

theorem specialListed_iff (k : Nat) : specialListed k = true ↔ k ∈ List.range 0x18 ∨
    k ∈ [0x18, 0x19, 0x1A, 0x1C, 0x1D, 0x1E, 0x20, 0x21, 0x22, 0x28, 0x29, 0x2A, 0x2B, 0x30, 0x31, 0x38, 0x39, 0x3A, 0x3B, 0x3C, 0x3D, 0x3E,
      0x3F, 0x40, 0x41, 0x42, 0x43, 0x44, 0x45, 0x46, 0x48, 0x49, 0x4A, 0x4B, 0x50, 0x51, 0x52, 0x53, 0x54, 0x55, 0x56, 0x57] := by
  have hruns : [0x18, 0x19, 0x1A, 0x1C, 0x1D, 0x1E, 0x20, 0x21, 0x22, 0x28, 0x29, 0x2A, 0x2B, 0x30, 0x31, 0x38, 0x39, 0x3A, 0x3B, 0x3C, 0x3D, 0x3E,
      0x3F, 0x40, 0x41, 0x42, 0x43, 0x44, 0x45, 0x46, 0x48, 0x49, 0x4A, 0x4B, 0x50, 0x51, 0x52, 0x53, 0x54, 0x55, 0x56, 0x57] =
      List.range' 0x18 3 ++ (List.range' 0x1C 3 ++ (List.range' 0x20 3 ++ (List.range' 0x28 4 ++
        (List.range' 0x30 2 ++ (List.range' 0x38 15 ++ (List.range' 0x48 4 ++ List.range' 0x50 8)))))) := rfl
  have hpair : 0x30 ≤ k ∧ k < 0x30 + 2 ↔ k = 0x30 ∨ k = 0x31 := by omega
  simp only [hruns, specialListed, Bool.or_eq_true, Bool.and_eq_true, decide_eq_true_eq, beq_iff_eq, List.mem_range, List.mem_append,
    List.mem_range'_1, hpair, ← Nat.lt_add_one_iff (m := k), Nat.reduceAdd, or_assoc]

theorem specialRo_iff (k : Nat) : specialRo k = true ↔ k ∈ [0x3B, 0x3F, 0x40, 0x41, 0x44, 0x48, 0x4A, 0x4B] := List.contains_iff_mem

section
variable {s : State} {core : BitVec 6} {g : BitVec 5} {num : BitVec 8} {last : Bool} {n k : Nat} {c : Core}

theorem specialRead_plain (h : k ∉ [0x40, 0x41, 0x48, 0x49, 0x4A, 0x4B]) : specialRead s n c k = c.reg k := by
  unfold specialRead
  split
  case h_7 => rfl
  all_goals simp at h

theorem specialLatch_none (h : k ∉ [0x40, 0x4A]) : specialLatch s c k = c := by
  simp only [List.mem_cons, List.not_mem_nil, or_false, not_or] at h
  rw [specialLatch, if_neg h.1, if_neg h.2]

/-- A read of a listed register leaves its value pending, and may latch a high word. -/
theorem gives_mfs {w : Nat} {d : Core} (hm : mayIssue s core.toNat = true) (hk : num.toNat = k) (hlisted : specialListed k = true)
    (hlatch : specialLatch s (getCore s core.toNat) k = d) (hbundle : d.bundle = (getCore s core.toNat).bundle)
    (hread : specialRead s core.toNat (getCore s core.toNat) k = w) :
    Gives (.mfs core g num last) s (fun t => t = slotDone s core.toNat last (d.pends [⟨kG g.toNat, w, (getCore s core.toNat).bundle + 1, .write⟩])) := by
  subst hk
  refine ⟨_, rfl, issueSlot_of_ok hm ((if_pos hlisted).trans ?_)⟩
  rw [hlatch, hread, later_eq, hbundle]

theorem gives_mfs_plain {w : Nat} (hm : mayIssue s core.toNat = true) (hk : num.toNat = k) (hlisted : specialListed k = true)
    (hlatch : k ∉ [0x40, 0x4A]) (hread : specialRead s core.toNat (getCore s core.toNat) k = w) :
    Gives (.mfs core g num last) s (fun t => t = slotDone s core.toNat last
      ((getCore s core.toNat).pends [⟨kG g.toNat, w, (getCore s core.toNat).bundle + 1, .write⟩])) :=
  gives_mfs hm hk hlisted (specialLatch_none hlatch) rfl hread

theorem gives_mfs_illegal (hm : mayIssue s core.toNat = true) (h : specialListed num.toNat ≠ true) :
    Gives (.mfs core g num last) s (fun t => SlotFaults s t core.toNat causeIllegal) :=
  gives_slotFaults hm rfl causeIllegal_lt (if_neg h)

theorem gives_mts_illegal (hm : mayIssue s core.toNat = true) (h : specialListed num.toNat ≠ true ∨ specialRo num.toNat = true) :
    Gives (.mts core g num last) s (fun t => SlotFaults s t core.toNat causeIllegal) :=
  gives_slotFaults hm rfl causeIllegal_lt (if_pos (by rcases h with h | h <;> simp [h]))

/-- A write of a register that MTS may write: WDOG and EV have a way of their own. -/
theorem gives_mts {d : Core} (hm : mayIssue s core.toNat = true) (hk : num.toNat = k) (hlisted : specialListed k = true)
    (hro : specialRo k ≠ true)
    (hd : (if k = 0x49 then { getCore s core.toNat with wdogNs := now s }
      else if k = 0x30 then (getCore s core.toNat).pends [⟨0x30, (getCore s core.toNat).g g.toNat, (getCore s core.toNat).bundle + 2, .clear⟩]
      else (getCore s core.toNat).later (mtsLatency k) k ((getCore s core.toNat).g g.toNat)) = d) :
    Gives (.mts core g num last) s (fun t => t = slotDone s core.toNat last d) := by
  subst hk
  refine ⟨_, rfl, issueSlot_of_ok hm ((if_neg (by simp [hlisted, hro])).trans ?_)⟩
  rw [← hd, apply_ite Except.ok, apply_ite Except.ok]
  rfl

end

end Sys2Proof.Machine

section

open Sys2Proof Sys2Proof.Machine

/-- Settles O47: every row is one slot, which leaves its results pending or its store kept, or faults. -/
theorem memoryAndSpecialRegisters : Obligations.MemoryAndSpecialRegisters := by
  intro s core y post last g v a off num n c i ab al once ea lo ok fin next stepped data later loads stores faults moves k listed ro cycles kg kv hm hstep
  have hok {size : Nat} (hsize : 0 < size) : accessOk y ((getCore s core.toNat).ea a.toNat off.toInt size) size = true ↔ ok size :=
    accessOk_iff hsize
  have hlisted : specialListed num.toNat = true ↔ listed := specialListed_iff _
  have hro : specialRo num.toNat = true ↔ ro := specialRo_iff _
  refine ⟨fun h => ?half, fun h => ?word, fun h => ?vector, fun h => ?halfOut, fun h => ?wordOut, fun h => ?vectorOut, gives_moves hm rfl rfl,
    gives_moves hm rfl (codeOf_eq ..), gives_moves hm rfl rfl, ?event, fun hk hplain => ?plain, fun hk => ?tnow, fun hk => ?tnowHi, fun hk => ?cycle,
    fun hk => ?cycleHi, fun hk => ?coreId, fun h => ?unlisted, fun h => gives_mts_illegal hm (.inr (hro.mpr h)), fun hk hwritable hev hwdog => ?mts,
    fun hk => ?wdog, fun hk => ?events⟩
  case half =>
    have hin := (hok two_pos).mpr h
    exact ⟨gives_load hm hin rfl (codeOf_signedOf _ (by simp)), gives_load hm hin rfl (packLanes_replicate_of_lt 32 (leNat_bytes_lt ..)),
      gives_store hm hin rfl⟩
  case word =>
    have hin := (hok four_pos).mpr h
    exact ⟨gives_load (f := id) hm hin rfl rfl, gives_store hm hin rfl⟩
  case vector =>
    have hin := (hok (by simp)).mpr h
    exact ⟨gives_load (f := id) hm hin rfl rfl, gives_store hm hin rfl⟩
  case halfOut =>
    have hout := mt (hok two_pos).mp h
    exact ⟨gives_load_faults hm hout rfl, gives_load_faults hm hout rfl, gives_store_faults hm hout rfl⟩
  case wordOut =>
    have hout := mt (hok four_pos).mp h
    exact ⟨gives_load_faults (f := id) hm hout rfl, gives_store_faults hm hout rfl⟩
  case vectorOut =>
    have hout := mt (hok (by simp)).mp h
    exact ⟨gives_load_faults (f := id) hm hout rfl, gives_store_faults hm hout rfl⟩
  case event => exact gives_plain (d := (getCore s core.toNat).pends [⟨0x30, 256, (getCore s core.toNat).bundle + 1, .set⟩]) hm rfl rfl
  case plain =>
    have hlatch : k ∉ [0x40, 0x4A] := fun h => hplain (by simp only [List.mem_cons, List.not_mem_nil] at h ⊢; tauto)
    exact gives_mfs_plain hm rfl (hlisted.mpr hk) hlatch (specialRead_plain hplain)
  case tnow =>
    exact gives_mfs (last := false) (d := { getCore s core.toNat with tnowHi := s.clock.ns / 2 ^ 32 % 2 ^ 32 }) hm hk rfl rfl rfl (bitsOf_zero ..)
  case tnowHi => exact gives_mfs_plain hm hk rfl (by simp) rfl
  case cycle =>
    exact gives_mfs (last := false) (d := { getCore s core.toNat with cycleHi := cycles / 2 ^ 32 % 2 ^ 32 }) hm hk rfl rfl rfl (bitsOf_zero ..)
  case cycleHi => exact gives_mfs_plain hm hk rfl (by simp) rfl
  case coreId => exact gives_mfs_plain hm hk rfl (by simp) rfl
  case unlisted =>
    have hnot := mt hlisted.mp h
    exact ⟨gives_mfs_illegal hm hnot, gives_mts_illegal hm (.inl hnot)⟩
  case mts =>
    exact gives_mts (d := (getCore s core.toNat).later (mtsLatency num.toNat) num.toNat ((getCore s core.toNat).g g.toNat)) hm rfl
      (hlisted.mpr hk) (mt hro.mp hwritable) ((if_neg hwdog).trans (if_neg hev))
  case wdog => exact gives_mts (d := { getCore s core.toNat with wdogNs := now s }) hm hk rfl (by simp [specialRo]) rfl
  case events =>
    exact gives_mts (d := (getCore s core.toNat).pends [⟨0x30, (getCore s core.toNat).g g.toNat, (getCore s core.toNat).bundle + 2, .clear⟩]) hm hk
      rfl (by simp [specialRo]) rfl

end

end

section
/-! SUPPORT. Vectors (R306, R308, R320, R321): lanes of a register and of a pair, how lane codes are packed, and complex products. -/

-- Elaborates one proof at a time: in the one text, proofs that wait for one another each hold a thread.
set_option deprecated.oldSectionVars true

namespace Sys2Proof.Machine

/-! ### Lanes -/

/-- The vector registers of a core hold 512 bits. -/
def VectorsFit (c : Core) : Prop := ∀ k : Fin 16, c.reg (0x200 + k.val) < 2 ^ 512

/-- An int16 lane of a vector register. -/
def Core.lane16 (c : Core) (k i : Nat) : Int := ((BitVec.ofNat 512 (c.reg (0x200 + k))).extractLsb' (16 * i) 16).toInt

/-- A 32-bit lane of a pair of vector registers. -/
def Core.lane32 (c : Core) (k i : Nat) : Int := ((BitVec.ofNat 512 (c.reg (0x200 + (k + i / 16)))).extractLsb' (32 * (i % 16)) 32).toInt

theorem VectorsFit.v_lt {c : Core} (h : VectorsFit c) (v : BitVec 4) : c.v v.toNat < 2 ^ 512 := h ⟨v.toNat, v.isLt⟩

section
variable {v x y i w : Nat}

theorem extractLsb'_ofNat (hv : v < 2 ^ 512) (lo len : Nat) : (BitVec.ofNat 512 v).extractLsb' lo len = BitVec.ofNat len (bitsOf v lo len) := by
  apply BitVec.eq_of_toNat_eq
  rw [BitVec.extractLsb'_toNat, toNat_ofNat_of_lt hv, BitVec.toNat_ofNat, bitsOf, Nat.mod_mod, Nat.shiftRight_eq_div_pow]

theorem lane_eq (hw : 0 < w) (hv : v < 2 ^ 512) : lane w v i = ((BitVec.ofNat 512 v).extractLsb' (w * i) w).toInt := by
  unfold lane
  rw [extractLsb'_ofNat hv, signedOf_eq _ hw]

theorem bitsOf_add_low {m lo len : Nat} (h : lo + len ≤ m) : bitsOf (x + 2 ^ m * y) lo len = bitsOf x lo len := by
  obtain ⟨k, rfl⟩ := Nat.exists_eq_add_of_le h
  have hsplit : 2 ^ (lo + len + k) * y = 2 ^ lo * (2 ^ len * (2 ^ k * y)) := by ring
  rw [bitsOf, hsplit, Nat.add_mul_div_left _ _ (Nat.two_pow_pos _), Nat.add_mul_mod_self_left, bitsOf]

theorem bitsOf_add_high {m lo len : Nat} (hx : x < 2 ^ m) : bitsOf (x + 2 ^ m * y) (m + lo) len = bitsOf y lo len := by
  rw [bitsOf, Nat.pow_add, ← Nat.div_div_eq_div_mul, Nat.add_mul_div_left _ _ (Nat.two_pow_pos _), Nat.div_eq_of_lt hx, Nat.zero_add, bitsOf]

end

section
variable {c : Core}

theorem lane16_eq (h : VectorsFit c) (v : BitVec 4) (i : Nat) : lane 16 (c.v v.toNat) i = c.lane16 v.toNat i := lane_eq (by simp) (h.v_lt v)

theorem lane32_eq (h : VectorsFit c) {v : BitVec 4} (hv : v.toNat % 2 = 0) {i : Nat} (hi : i < 32) :
    lane 32 (c.pair v.toNat) i = c.lane32 v.toNat i := by
  have hlt := v.isLt
  have hhigh : c.v (v.toNat + 1) < 2 ^ 512 := h ⟨v.toNat + 1, by omega⟩
  rcases Nat.lt_or_ge i 16 with hlow | hge
  · rw [lane, Core.pair, bitsOf_add_low (by omega), Core.lane32, Nat.div_eq_of_lt hlow, Nat.mod_eq_of_lt hlow]
    exact lane_eq (by simp) (h.v_lt v)
  · rw [lane, Core.pair, show 32 * i = 512 + 32 * (i - 16) by omega, bitsOf_add_high (h.v_lt v), Core.lane32,
      show i / 16 = 1 by omega, show i % 16 = i - 16 by omega]
    exact lane_eq (by simp) hhigh

end

/-! ### Packed results -/

/-- The code of an exact result in a lane (R308). -/
def laneCode (w : Nat) (sat : Bool) (x : Int) : Nat := (BitVec.ofInt w (if sat then clampTo w x else x)).toNat

/-- Lane codes in their places. -/
def laneSum (w m : Nat) (sat : Bool) (f : Nat → Int) : Nat := ((List.range m).map (fun i => laneCode w sat (f i) * 2 ^ (w * i))).sum

/-- Some lane was clamped. -/
def laneSat (w : Nat) (sat : Bool) (f : Nat → Int) : Bool := sat && (List.range 32).any (fun i => clampTo w (f i) != f i)

section
variable {w : Nat} {sat : Bool} {f g : Nat → Int}

theorem packLanes_laneCode (m : Nat) : packLanes w ((List.range m).map (fun i => laneCode w sat (f i))) = laneSum w m sat f := by
  rw [packLanes_range, laneSum]
  refine congrArg List.sum (List.map_congr_left fun i _ => ?_)
  rw [laneCode, Nat.mod_eq_of_lt (BitVec.isLt _)]

theorem packLanes_append (l l' : List Nat) : packLanes w (l ++ l') = packLanes w l + 2 ^ (w * l.length) * packLanes w l' := by
  induction l with
  | nil => simp [show packLanes w [] = 0 from rfl]
  | cons x l ih =>
    rw [List.cons_append, packLanes_cons, packLanes_cons, ih, List.length_cons]
    ring

theorem packLanes_lt (l : List Nat) : packLanes w l < 2 ^ (w * l.length) := by
  induction l with
  | nil => simp [show packLanes w [] = 0 from rfl]
  | cons x l ih =>
    have hx := Nat.mod_lt x (Nat.two_pow_pos w)
    calc packLanes w (x :: l)
      _ = x % 2 ^ w + 2 ^ w * packLanes w l := packLanes_cons ..
      _ < 2 ^ w + 2 ^ w * packLanes w l := by omega
      _ = 2 ^ w * (packLanes w l + 1) := by ring
      _ ≤ 2 ^ w * 2 ^ (w * l.length) := Nat.mul_le_mul_left _ ih
      _ = 2 ^ (w * (x :: l).length) := by rw [List.length_cons]; ring

theorem laneSum_lt (m : Nat) : laneSum w m sat f < 2 ^ (w * m) := by
  simpa [packLanes_laneCode] using packLanes_lt (w := w) ((List.range m).map (fun i => laneCode w sat (f i)))

theorem laneSum_add (m k : Nat) : laneSum w (m + k) sat f = laneSum w m sat f + 2 ^ (w * m) * laneSum w k sat (fun i => f (m + i)) := by
  rw [← packLanes_laneCode, List.range_add, List.map_append, List.map_map, packLanes_append, packLanes_laneCode, List.length_map,
    List.length_range, ← packLanes_laneCode k]
  rfl

theorem laneSum_mod (m k : Nat) : laneSum w (m + k) sat f % 2 ^ (w * m) = laneSum w m sat f := by
  rw [laneSum_add, Nat.add_mul_mod_self_left, Nat.mod_eq_of_lt (laneSum_lt m)]

theorem laneSum_div (m k : Nat) : laneSum w (m + k) sat f / 2 ^ (w * m) = laneSum w k sat (fun i => f (m + i)) := by
  rw [laneSum_add, Nat.add_mul_div_left _ _ (Nat.two_pow_pos _), Nat.div_eq_of_lt (laneSum_lt m), Nat.zero_add]

theorem narrow_lanes (hw : 0 < w) : (List.range 32).map (fun i => narrow w sat (f i)) =
    (List.range 32).map (fun i => (laneCode w sat (f i), sat && (clampTo w (f i) != f i))) :=
  List.map_congr_left fun i _ => narrow_eq hw sat (f i)

theorem any_laneSat : (List.range 32).any (fun i => sat && (clampTo w (f i) != f i)) = laneSat w sat f := by
  cases sat <;> simp [laneSat]

theorem lanes16_def (c : Core) (lat vd : Nat) : lanes16 c lat vd sat f =
    (c.later lat (kV vd) (packLanes 16 (((List.range 32).map (fun i => narrow 16 sat (f i))).map (·.1)))).laterSat lat
      (((List.range 32).map (fun i => narrow 16 sat (f i))).any (·.2)) := rfl

theorem lanes32_def (c : Core) (lat vd : Nat) : lanes32 c lat vd sat f =
    ((c.later lat (kV vd) (packLanes 32 (((List.range 32).map (fun i => narrow 32 sat (f i))).map (·.1)) % 2 ^ 512)).later lat (kV (vd + 1))
      (packLanes 32 (((List.range 32).map (fun i => narrow 32 sat (f i))).map (·.1)) / 2 ^ 512)).laterSat lat
      (((List.range 32).map (fun i => narrow 32 sat (f i))).any (·.2)) := rfl

theorem lanes16_eq_pends (c : Core) (lat vd : Nat) :
    lanes16 c lat vd sat f = c.pends (results c lat (kV vd) (laneSum 16 32 sat f) (laneSat 16 sat f)) := by
  rw [lanes16_def, narrow_lanes (by simp), laterSat_later, List.map_map, List.any_map]
  simp only [Function.comp_def, packLanes_laneCode, any_laneSat]

/-- What a wide result leaves pending: both registers of its pair, and the mark. -/
def wideResults (c : Core) (lat vd : Nat) (sat : Bool) (f : Nat → Int) : List PendReg :=
  ⟨kV vd, laneSum 32 16 sat f, c.bundle + lat, .write⟩ ::
    results c lat (kV (vd + 1)) (laneSum 32 16 sat (fun i => f (16 + i))) (laneSat 32 sat f)

theorem lanes32_eq_pends (c : Core) (lat vd : Nat) : lanes32 c lat vd sat f = c.pends (wideResults c lat vd sat f) := by
  have hhalf : 512 = 32 * 16 := rfl
  rw [lanes32_def, narrow_lanes (by simp), laterSat_later, List.map_map, List.any_map]
  simp only [Function.comp_def, packLanes_laneCode, any_laneSat]
  rw [hhalf, laneSum_mod 16 16, laneSum_div 16 16, later_eq, pends_pends]
  rfl

theorem lanes16_congr (c : Core) (lat vd : Nat) (h : ∀ i < 32, f i = g i) : lanes16 c lat vd sat f = lanes16 c lat vd sat g := by
  have hmap : (List.range 32).map (fun i => narrow 16 sat (f i)) = (List.range 32).map (fun i => narrow 16 sat (g i)) :=
    List.map_congr_left fun i hi => by rw [h i (List.mem_range.mp hi)]
  rw [lanes16_def, hmap, lanes16_def]

theorem lanes32_congr (c : Core) (lat vd : Nat) (h : ∀ i < 32, f i = g i) : lanes32 c lat vd sat f = lanes32 c lat vd sat g := by
  have hmap : (List.range 32).map (fun i => narrow 32 sat (f i)) = (List.range 32).map (fun i => narrow 32 sat (g i)) :=
    List.map_congr_left fun i hi => by rw [h i (List.mem_range.mp hi)]
  rw [lanes32_def, hmap, lanes32_def]

end

/-! ### Results of the rows -/

theorem div_pow_eq (x : Int) (k : Nat) : x / 2 ^ k = x >>> k := by
  rw [Int.shiftRight_eq_div_pow]
  norm_cast

theorem abs_eq_max (x : Int) : (if x < 0 then -x else x) = max x (-x) := by
  split <;> omega

/-- The parts of a complex product, from the lanes of each operand (R308). -/
theorem cmul_eq (conj : Bool) (x y i : Nat) : cmul conj x y i =
    if i % 2 = 0 then lane 16 x i * lane 16 y i - (if conj then -lane 16 x (i + 1) else lane 16 x (i + 1)) * lane 16 y (i + 1)
    else lane 16 x (i - 1) * lane 16 y i + (if conj then -lane 16 x i else lane 16 x i) * lane 16 y (i - 1) := by
  rw [cmul]
  split
  · next heven => rw [show 2 * (i / 2) = i by omega]
  · next hodd => rw [show 2 * (i / 2) = i - 1 by omega, show i - 1 + 1 = i by omega]

section
variable {i : Instr} {s : State} {core : BitVec 6} {vd : BitVec 4} {sat last : Bool} {lat : Nat} {g : Core → Nat → Int} {f : Nat → Int}

theorem gives_lanes16 (hm : mayIssue s core.toNat = true)
    (hexec : exec i s = .next (plainSlot s core last (fun c => lanes16 c lat vd.toNat sat (g c))))
    (hf : ∀ i < 32, g (getCore s core.toNat) i = f i) :
    Gives i s (fun t => t = slotDone s core.toNat last ((getCore s core.toNat).pends
      (results (getCore s core.toNat) lat (kV vd.toNat) (laneSum 16 32 sat f) (laneSat 16 sat f)))) :=
  gives_plain (f := fun c => lanes16 c lat vd.toNat sat (g c)) hm hexec ((lanes16_congr _ _ _ hf).trans (lanes16_eq_pends ..))

/-- Rows over pairs, where every pair is even. -/
theorem gives_narrowed {p : Bool} (hm : mayIssue s core.toNat = true)
    (hexec : exec i s = .next (issueSlot s core last (fun c => evenOr p (lanes16 c lat vd.toNat sat (g c))))) (hp : p = false)
    (hf : ∀ i < 32, g (getCore s core.toNat) i = f i) :
    Gives i s (fun t => t = slotDone s core.toNat last ((getCore s core.toNat).pends
      (results (getCore s core.toNat) lat (kV vd.toNat) (laneSum 16 32 sat f) (laneSat 16 sat f)))) :=
  gives_slotDone hm hexec (by rw [hp, lanes16_congr _ _ _ hf, lanes16_eq_pends]; rfl)

theorem gives_lanes32 {p : Bool} (hm : mayIssue s core.toNat = true)
    (hexec : exec i s = .next (issueSlot s core last (fun c => evenOr p (lanes32 c lat vd.toNat sat (g c))))) (hp : p = false)
    (hf : ∀ i < 32, g (getCore s core.toNat) i = f i) :
    Gives i s (fun t => t = slotDone s core.toNat last ((getCore s core.toNat).pends (wideResults (getCore s core.toNat) lat vd.toNat sat f))) :=
  gives_slotDone hm hexec (by rw [hp, lanes32_congr _ _ _ hf, lanes32_eq_pends]; rfl)

theorem gives_odd {p : Bool} {h : Core → Core} (hm : mayIssue s core.toNat = true)
    (hexec : exec i s = .next (issueSlot s core last (fun c => evenOr p (h c)))) (hp : p = true) :
    Gives i s (fun t => SlotFaults s t core.toNat causeIllegal) :=
  gives_slotFaults (f := fun c => evenOr p (h c)) hm hexec causeIllegal_lt (by rw [hp]; rfl)

end

end Sys2Proof.Machine

section

open Sys2Proof Sys2Proof.Machine

/-- Settles O48: every row is one slot, whose lanes are narrowed from exact results of the lanes of its sources. -/
theorem vectorInstructions : Obligations.VectorInstructions := by
  intro s core vd va vb ga sh sat conj last n c d reg l16 l32 a b im cx fin later clamp code mark at_ lanes wide odd illegal hm hv
  have hfit : VectorsFit (getCore s core.toNat) := hv
  have ha (i : Nat) : lane 16 ((getCore s core.toNat).v va.toNat) i = a i := lane16_eq hfit va i
  have hb (i : Nat) : lane 16 ((getCore s core.toNat).v vb.toNat) i = b i := lane16_eq hfit vb i
  have hd (i : Nat) : lane 16 ((getCore s core.toNat).v vd.toNat) i = l16 d i := lane16_eq hfit vd i
  have hcx (i : Nat) : cmul conj ((getCore s core.toNat).v va.toNat) ((getCore s core.toNat).v vb.toNat) i = cx i := by
    simp only [cmul_eq, ha, hb]
    rfl
  have hodd {i : Instr} (h : Gives i s (fun t => SlotFaults s t core.toNat causeIllegal)) : Gives i s illegal :=
    h.imp fun _ ⟨hstate, hcause, _, hmid, _⟩ => ⟨hstate, hcause, hmid⟩
  have hpair {v : BitVec 4} (h : ¬ odd v) {i : Nat} (hi : i < 32) : lane 32 ((getCore s core.toNat).pair v.toNat) i = l32 v.toNat i :=
    lane32_eq hfit (Nat.mod_two_ne_one.mp h) hi
  have heven {v : BitVec 4} (h : ¬ odd v) : odd4 v = false := beq_eq_false_iff_ne.mpr h
  have hodd4 {v : BitVec 4} (h : odd v) : odd4 v = true := beq_iff_eq.mpr h
  refine ⟨gives_lanes16 (f := fun i => a i + b i) hm rfl fun i _ => congrArg₂ (· + ·) (ha i) (hb i),
    gives_lanes16 (f := fun i => a i - b i) hm rfl fun i _ => congrArg₂ (· - ·) (ha i) (hb i), fun hsat => ?extremes,
    gives_lanes16 (f := fun i => max (a i) (-a i)) hm rfl fun i _ => (abs_eq_max _).trans (congrArg (fun x => max x (-x)) (ha i)),
    gives_lanes16 (f := fun i => -a i) hm rfl fun i _ => congrArg (-·) (ha i),
    gives_lanes16 (f := fun i => a i * 2 ^ sh.toNat) hm rfl fun i _ => congrArg (· * 2 ^ sh.toNat) (ha i),
    gives_lanes16 (f := fun i => a i >>> sh.toNat) hm rfl fun i _ => ?shr, ?and, ?or, ?xor,
    gives_lanes16 (f := fun i => (a i * b i) >>> sh.toNat) hm rfl fun i _ => ?mul,
    gives_lanes16 (f := fun i => l16 d i + (a i * b i) >>> sh.toNat) hm rfl fun i _ => ?mac,
    gives_lanes16 (f := fun i => cx i >>> sh.toNat) hm rfl fun i _ => ?cmul,
    gives_lanes16 (f := fun i => l16 d i + cx i >>> sh.toNat) hm rfl fun i _ => ?cmac, fun hvd => ?wideMacs, fun hvd hva hvb => ?wideSums,
    fun hva => ?narrowed, fun hva => ?oddSources, fun hvd => ?oddTargets, gives_moves hm rfl rfl,
    gives_moves hm rfl (packLanes_replicate 16 32 _), fun hsat => ?perm, gives_moves hm rfl rfl⟩
  case extremes =>
    subst hsat
    exact ⟨gives_lanes16 (f := fun i => max (a i) (b i)) hm rfl fun i _ => congrArg₂ max (ha i) (hb i),
      gives_lanes16 (f := fun i => min (a i) (b i)) hm rfl fun i _ => congrArg₂ min (ha i) (hb i)⟩
  case shr => simp only [ha, div_pow_eq]
  case and => exact gives_moves hm rfl (and_eq (hfit.v_lt va) (hfit.v_lt vb))
  case or => exact gives_moves hm rfl (or_eq (hfit.v_lt va) (hfit.v_lt vb))
  case xor => exact gives_moves hm rfl (xor_eq (hfit.v_lt va) (hfit.v_lt vb))
  case mul => simp only [ha, hb, div_pow_eq]
  case mac => simp only [ha, hb, hd, div_pow_eq]
  case cmul => simp only [hcx, div_pow_eq]
  case cmac => simp only [hcx, hd, div_pow_eq]
  case wideMacs =>
    exact ⟨gives_lanes32 (f := fun i => l32 d i + (a i * b i) >>> sh.toNat) hm rfl (heven hvd) fun i hi => by
        simp only [hpair hvd hi, ha, hb, div_pow_eq]
        rfl,
      gives_lanes32 (f := fun i => l32 d i + cx i >>> sh.toNat) hm rfl (heven hvd) fun i hi => by
        simp only [hpair hvd hi, hcx, div_pow_eq]
        rfl⟩
  case wideSums =>
    have hp : (odd4 vd || odd4 va || odd4 vb) = false := by rw [heven hvd, heven hva, heven hvb]; rfl
    exact ⟨gives_lanes32 (f := fun i => l32 va.toNat i + l32 vb.toNat i) hm rfl hp fun i hi => congrArg₂ (· + ·) (hpair hva hi) (hpair hvb hi),
      gives_lanes32 (f := fun i => l32 va.toNat i - l32 vb.toNat i) hm rfl hp fun i hi => congrArg₂ (· - ·) (hpair hva hi) (hpair hvb hi)⟩
  case narrowed =>
    exact gives_narrowed (f := fun i => l32 va.toNat i >>> sh.toNat) hm rfl (heven hva) fun i hi => by simp only [hpair hva hi, div_pow_eq]
  case oddSources =>
    have hp : (odd4 vd || odd4 va || odd4 vb) = true := by rw [hodd4 hva, Bool.or_true]; rfl
    exact ⟨hodd (gives_odd hm rfl (hodd4 hva)), hodd (gives_odd hm rfl hp), hodd (gives_odd hm rfl hp)⟩
  case oddTargets => exact ⟨hodd (gives_odd hm rfl (hodd4 hvd)), hodd (gives_odd hm rfl (hodd4 hvd))⟩
  case perm =>
    subst hsat
    refine gives_lanes16 (f := fun i => a ((reg vb.toNat).extractLsb' (16 * i) 5).toNat) hm rfl fun i _ => ?_
    have hindex : ((reg vb.toNat).extractLsb' (16 * i) 5).toNat = bitsOf ((getCore s core.toNat).v vb.toNat) (16 * i) 5 := by
      rw [BitVec.extractLsb'_toNat, Nat.shiftRight_eq_div_pow]
      exact congrArg (· / 2 ^ (16 * i) % 2 ^ 5) (toNat_ofNat_of_lt (hfit.v_lt vb))
    simp only [hindex, ha]

end

end

section
/-! SUPPORT. A POST to port 4 whose group lies in a lot that no device has, where the core's busy_cycles are read as the lot's owner: the POST is
counted (Table 11.10) before its group's lots are checked (R322). -/

-- Elaborates one proof at a time: in the one text, proofs that wait for one another each hold a thread.
set_option deprecated.oldSectionVars true

namespace Sys2Proof.Machine

theorem exec_postFapiInd (core : BitVec 6) (a : BitVec 3) (units : BitVec 4) (last : Bool) (s : State) :
    exec (.postFapiInd core a units last) s = .next (postSlot s core 4 a units last) := rfl

/-- A waiting POST goes through at once when its port has room and no completion entry waits: its stall and its bundles are counted first. -/
theorem tryPost_of_room {s : State} {n : Nat} {x : Stall} (hstall : (getCore s n).stall = some x) (hroom : portFull s n x.port = false)
    (hcq : (getCore s n).cqWait = []) :
    tryPost s n = takePost (bump (bump (putCore s n { getCore s n with stall := none }) Reg.chiselCorePortStalls n ((now s - x.sinceNs) * 7 / 5))
      Reg.chiselCoreBusyCycles n (x.data.length / 64)) n x := by
  rw [tryPost, hstall]
  exact if_neg (by simp [hroom, hcq])

/-- A POST of one unit, in the middle of its bundle, from an aligned address in X. -/
theorem postSlot_of_inX {s : State} {core : BitVec 6} {port : Nat} {a : BitVec 3} (hm : mayIssue s core.toNat = true)
    (ha : (getCore s core.toNat).addr a.toNat % 64 = 0) (hlo : 0x100000 ≤ (getCore s core.toNat).addr a.toNat)
    (hhi : (getCore s core.toNat).addr a.toNat + 64 ≤ 0x140000) :
    postSlot s core port a 0 false = tryPost (putCore s core.toNat { getCore s core.toNat with
      mid := true
      stall := some ⟨port, (getCore s core.toNat).bytes ((getCore s core.toNat).addr a.toNat) 64, (getCore s core.toNat).reg 0x46, now s⟩ })
      core.toNat := by
  have hfirst : inX ((getCore s core.toNat).addr a.toNat) = true := by
    simp only [inX, Bool.and_eq_true, decide_eq_true_eq]
    omega
  have hlast : inX ((getCore s core.toNat).addr a.toNat + 63) = true := by
    simp only [inX, Bool.and_eq_true, decide_eq_true_eq]
    omega
  simp [postSlot, hm, ha, hfirst, hlast]

/-- A group outside the radio lots ends BAD_FORMAT. -/
theorem postFapi_of_outside {s : State} {n : Nat} {bs : List Byte}
    (h : inRadioLots s (bitsOf (leNat bs) 0 64) (bitsOf (leNat bs) 64 32) = false) : postFapi s n bs = coreComplete s n 4 .badFormat 0 0 :=
  if_pos (by simp [h])

/-- The FAPI_IND descriptor of a group of one byte at the start of lot 3145736, for ring 0. LOT_OWNER has 384 entries, and its stride
reaches CHISEL_CORE's busy_cycles of core 0 at that lot. -/
def farGroup : Nat := 3145736 * 2 ^ 30 + 2 ^ 64

/-- Core 0 runs and holds the descriptor at the start of its X memory, to which A0 points. Its busy_cycles hold 0x3FE, the number of the radio
lots' owner. CAPS0 holds more lots than its 9 bits can say, and ring 0 has four entries and 64 bytes of data in pinned memory. -/
def farGroupState : State :=
  { State.reset with
    regs := [(fldKey Reg.caps0DramLots 0, 2 ^ 22), (fldKey Reg.fapiRingIndLog2 0, 2), (fldKey Reg.fapiRingEnable 0, 1),
      (fldKey Reg.fapiRingIndDataSize 0, 64), (fldKey Reg.chiselCoreState 0, 2), (fldKey Reg.chiselCoreBusyCycles 0, 0x3FE)]
    host := { State.reset.host with pins := [⟨0, 0, 4096⟩] }
    cores := [(0, { Core.zero.store 0x100000 (leBytes 64 farGroup) with regs := [(0x50, 0x100000)] })] }

/-- What the POST waits with, and the state in which it is taken. -/
def farStall : Stall := ⟨4, leBytes 64 farGroup, 0, 0⟩

def farGroupCounted : State :=
  bump (bump (putCore farGroupState 0 { getCore farGroupState 0 with mid := true, stall := none }) Reg.chiselCorePortStalls 0 0)
    Reg.chiselCoreBusyCycles 0 1

theorem bytes_farGroup : (getCore farGroupState 0).bytes 0x100000 64 = leBytes 64 farGroup := by rfl

theorem leNat_farGroup : leNat (leBytes 64 farGroup) = farGroup := rfl

/-- Counting the POST takes the lot out of the radio lots. -/
theorem inRadioLots_farGroupCounted : inRadioLots farGroupCounted (bitsOf farGroup 0 64) (bitsOf farGroup 64 32) = false := by
  have hpiece : pieces (bitsOf farGroup 0 64) (bitsOf farGroup 64 32) (2 ^ 30) = [(3145736 * 2 ^ 30, 1)] := rfl
  have howner : (lotOwnerOf farGroupCounted (lotOf (3145736 * 2 ^ 30)) == 0x3FE) = false := rfl
  rw [inRadioLots, hpiece, List.all_cons, howner, Bool.false_and, Bool.and_false]

theorem inRadioLots_farGroup : inRadioLots farGroupState (bitsOf farGroup 0 64) (bitsOf farGroup 64 32) = true := by
  have hpiece : pieces (bitsOf farGroup 0 64) (bitsOf farGroup 64 32) (2 ^ 30) = [(3145736 * 2 ^ 30, 1)] := rfl
  have howner : (lotOwnerOf farGroupState (lotOf (3145736 * 2 ^ 30)) == 0x3FE) = true := rfl
  have hfits : bitsOf farGroup 0 64 + bitsOf farGroup 64 32 ≤ dramSize farGroupState := Nat.le_of_ble_eq_true rfl
  unfold inRadioLots
  rw [hpiece, List.all_cons, howner, decide_eq_true hfits, List.all_nil]
  rfl

theorem bitsOf_farGroup_of_le {lo w : Nat} (h : 96 ≤ lo) : bitsOf farGroup lo w = 0 := by
  have hlt : farGroup < 2 ^ lo := (show farGroup < 2 ^ 96 from Nat.le_of_ble_eq_true rfl).trans_le (Nat.pow_le_pow_right two_pos h)
  rw [bitsOf, Nat.div_eq_of_lt hlt, Nat.zero_mod]

theorem postSlot_farGroup : postSlot farGroupState 0 4 0 0 false = coreComplete farGroupCounted 0 4 .badFormat 0 0 := by
  rw [postSlot_of_inX rfl rfl (Nat.le_of_ble_eq_true rfl) (Nat.le_of_ble_eq_true rfl), tryPost_of_room (x := farStall) ?stall rfl rfl]
  case stall => exact congrArg (fun bs => some (Stall.mk 4 bs 0 0)) bytes_farGroup
  show postFapi farGroupCounted 0 (leBytes 64 farGroup) = _
  exact postFapi_of_outside (by rw [leNat_farGroup]; exact inRadioLots_farGroupCounted)

/-- No indication goes out. -/
theorem out_postSlot_farGroup : (postSlot farGroupState 0 4 0 0 false).out = [] := by
  rw [postSlot_farGroup]
  exact (coreComplete_kept (.refl [.regs, .cores] farGroupCounted) rfl).1 .out (by simp)

end Sys2Proof.Machine

section

open Sys2Proof Sys2Proof.Machine

/-- Refutes O49: a POST to port 4 whose group lies in lot 3145736 ends BAD_FORMAT, where the statement says that the group is written. The owner of a
lot that far beyond the table is read where busy_cycles of core 0 are shown, and counting the POST changes them before its lots are checked. The
statement has no premise that the group lies in the device's DRAM or that the register of the DRAM's lots fits its 9 bits. -/
theorem not_postsAndCoreEvents : ¬ Obligations.PostsAndCoreEvents := by
  intro h
  obtain ⟨-, -, -, -, hgroup, -⟩ := h farGroupState 0 0 0 0 0 default default default 0
  obtain ⟨t, ht, hout, -⟩ := hgroup ⟨rfl, ⟨rfl, .inl ⟨Nat.le_of_ble_eq_true rfl, Nat.le_of_ble_eq_true rfl⟩⟩, rfl, rfl⟩ (Nat.le_of_ble_eq_true rfl) rfl
    (bitsOf_farGroup_of_le (by simp)) rfl rfl rfl (Nat.le_of_ble_eq_true rfl) inRadioLots_farGroup rfl rfl
  obtain rfl := Host.Outcome.next.inj ((exec_postFapiInd ..).symm.trans ht)
  rw [out_postSlot_farGroup] at hout
  exact absurd hout (by simp)

end

end
